-- ==== Sys2Proof/Word.lean ====
section
/-! DEFINITION. Word.lean: the word types of the device and their plainest arithmetic. -/

namespace Sys2Proof

/-- One byte of any memory. -/
abbrev Byte := BitVec 8

/-- One 32-bit lane, configuration field or sequencer instruction word. -/
abbrev Word := BitVec 32

/-- One 64-bit register of a sequencer, pointer or operator word. -/
abbrev DWord := BitVec 64

/-- A 512-bit token payload, which is also one 64-byte line (R29, R92). -/
abbrev Line := BitVec 512

/-- A 128-bit sideband of a token is kept field by field in `Token`; RES is these 64 bits (R29). -/
abbrev ResWord := BitVec 64

/-- The 16-bit element address of R11. -/
abbrev EAddr := BitVec 16

/-- A site number: the element address without its three ELEM bits. -/
abbrev SiteNo := BitVec 13

end Sys2Proof
end

