-- ==== Sys2Proof/Config.lean ====
section
/-! DEFINITION. Config.lean: what the spec leaves to the implementation, as constants without a body: nothing proves a
value of one. -/

namespace Sys2Proof.Config

/-- Whether an approximation of an opcode (CLS * 64 + OP) in a format delivers, for an input pattern, the neighbour of
larger magnitude (R354: "Which neighbour is delivered for a given input is not specified"; log entry 13). -/
opaque upperNeighbour : Nat → Nat → Nat → Bool

/-- A value the spec leaves open, fresh for each number of the state's counter (log entry 8). -/
opaque freeValue : Nat → BitVec 64

/-- What Chameleon answers for a graph it can place: the bytes of the .ozc (R274), the element-context key (region-relative
element address * 4 + context) and operator number of each node in order, and for each edge the element-context key and number of its last
queue (R37, R272), its ROUTEID, the delay-buffer entries that latency equalisation gives it, and the tokens that its queue, delay buffers and
channel slots can hold (R36, R48). -/
structure Placed where
  ozc    : List Byte
  nodes  : List (Nat × Nat)
  ends   : List (Nat × Nat)
  routes : List Nat
  delays : List Nat
  rooms  : List Nat
deriving DecidableEq, Repr, Inhabited

/-- Why Chameleon cannot place a graph (R170, R172): a region too small, a channel too narrow for an edge, or more than four contexts
at the site at an offset of the region. -/
inductive Unplaced where
  | small (needed : Nat)
  | routing (edge : Nat)
  | contexts (row col : Nat)
deriving DecidableEq, Repr, Inhabited

/-- Where Chameleon places a graph, as a function of the cache key: equal keys give one placement. Its algorithm is not given (R171; log entry
14). -/
opaque placement : BitVec 512 → Except Unplaced Placed

/-- Chameleon's version word (R171). -/
opaque mapperVersion : BitVec 32

/-- The minimum depth that Chameleon computes for an edge, from the graph's digest and the edge number (R36, R47; log entry 14). -/
opaque edgeMinimum : List Byte → Nat → Nat

/-- Tiles whose margin a re-plan finds that +60 mV does not meet, fresh for each number of the state's counter (R233; log entry 122). -/
opaque weakTiles : Nat → List (BitVec 13)

/-- The bytes of a signature the platform makes under its own key (R313; log entry 15). -/
opaque signature : List Byte → List Byte

/-- Digest of the firmware key, and least security version, that the module's fuses hold (R313). -/
opaque fuseKey : BitVec 512
opaque fuseVersion : Nat

/-- The SECDED check bits of a bank row, whose code the spec does not give (R201, R256). -/
opaque checkBits : BitVec 512 → Nat

/-- The hash by which a peer access is given to a Rilub plane and port, from the destination rank and the line address (R310; log entry 69). -/
opaque linkHash : Nat → Nat → Nat

/-- What a request flit carries, fresh for each number of the state's counter (R310; log entry 69). -/
opaque linkPayload : Nat → BitVec 1920

end Sys2Proof.Config
end

