-- ==== Sys2Proof/Machine/Crc.lean ====
section
/-! DEFINITION. Machine/Crc.lean: the cyclic redundancy codes of the device: CRC-32C, which configuration streams, save
records and the sequencer's `crc` use (R277, R255, R341), and the CRC-64 of link flits (Table 14-5). -/

namespace Sys2Proof.Machine

/-- One reflected step of a CRC register with polynomial p. -/
def crcShift (p x : Nat) : Nat := if x % 2 = 1 then x / 2 ^^^ p else x / 2

/-- n reflected steps. -/
def crcShifts (p : Nat) : Nat → Nat → Nat
  | 0, x => x
  | n + 1, x => crcShifts p n (crcShift p x)

/-- Take one byte into a reflected CRC register. -/
def crcByte (p x : Nat) (b : Byte) : Nat := crcShifts p 8 (x ^^^ b.toNat)

/-- The Castagnoli polynomial, reflected. -/
def crc32cPoly : Nat := 0x82F63B78

/-- Take bytes into the CRC-32C register. -/
def crc32cBytes (x : Nat) (l : List Byte) : Nat := l.foldl (crcByte crc32cPoly) x

/-- CRC-32C of bytes: initial value and final XOR all ones. -/
def crc32c (l : List Byte) : Nat := crc32cBytes 0xFFFFFFFF l ^^^ 0xFFFFFFFF

/-- One step of the CRC-64 of ECMA-182, most significant bit first. -/
def crc64Shift (x : Nat) : Nat :=
  if x / 2 ^ 63 % 2 = 1 then x * 2 % 2 ^ 64 ^^^ 0x42F0E1EBA9EA3693 else x * 2 % 2 ^ 64

/-- n steps. -/
def crc64Shifts : Nat → Nat → Nat
  | 0, x => x
  | n + 1, x => crc64Shifts n (crc64Shift x)

/-- CRC-64 of bytes. -/
def crc64 (l : List Byte) : Nat := l.foldl (fun x b => crc64Shifts 8 (x ^^^ b.toNat * 2 ^ 56)) 0

end Sys2Proof.Machine
end

