-- ==== Sys2Proof/Syntax.lean ====
section
/-! DEFINITION. Syntax.lean: the whole instruction set. One constructor of `Instr` for each row of the opcode
table: 102 fabric operators (a 64-bit operator word each, R288), 67 sequencer rows (R298 to R302) and 101 events,
commands and host operations (each one indivisible step). -/

namespace Sys2Proof

/-- The fields of a fabric operator word below CLS and OP (Table 13-1). -/
structure OpWord where
  fmt  : BitVec 4
  rnd  : BitVec 2
  sat  : BitVec 1
  sa   : BitVec 3
  sb   : BitVec 3
  sc   : BitVec 3
  dst  : BitVec 3
  kidx : BitVec 3
  pg   : BitVec 1
  imm  : Word
deriving DecidableEq, Repr

/-- A firmware or recovery image as the boot ROM reads it (R313). -/
structure Firmware where
  image   : List Byte
  modulus : BitVec 4096
  sig     : BitVec 4096
  version : Nat
deriving DecidableEq, Repr

/-- A 256-byte link flit (Table 14-5). -/
structure Flit where
  seq  : BitVec 16
  ack  : BitVec 16
  type : BitVec 8
  len  : BitVec 8
  pay  : BitVec 1920
  crc  : BitVec 64
deriving DecidableEq, Repr

/-- A peer aperture: a local virtual range and the range of a partition on a peer rank it shows (R310). -/
structure Aperture where
  base       : DWord
  len        : DWord
  rank       : BitVec 16
  remotePart : BitVec 8
  remoteBase : DWord
deriving DecidableEq, Repr

/-- A register of the platform outside the elements and sequencers that software or the PC writes whole (R15):
queue registers (Table 6-1), BAR0 registers (R306), partition registers (Tables 4-4, 4-5, 10-3, 11-6), LSPAIR. -/
inductive PlatReg where
  | queueCtl (q : BitVec 12)
  /-- PART, which the PC alone writes (R159) -/
  | queuePart (q : BitVec 12)
  | queuePos (q : BitVec 12)
  | queueCbase (q : BitVec 12)
  | queueStat (q : BitVec 12)
  | devstat
  | msiqv (q : BitVec 12)
  | pwrcap
  | wap (n : BitVec 4)
  | pxroot (part : BitVec 8)
  | pxfq (part : BitVec 8)
  | pfrec (part : BitVec 8)
  | ptrace (part : BitVec 8)
  | ptrcb (part : BitVec 8)
  | lspair
  | mbxbase
  /-- the stall counters of an engine of a block, which any write by the PC clears (R259) -/
  | engineStalls (blk : BitVec 6) (eng : BitVec 2)
deriving DecidableEq, Repr

/-- Every row of the opcode table. Fabric operators take their operator word, sequencer instructions their register
fields and immediates, events the operands that the unit or agent causing them supplies. Rows without operands act
on the unit that State.focus names (a sequencer, an engine queue's head entry, a task); they stand last. -/
inductive Instr where
  /-- DEVICE_RESET (R313): Device reset or power-up starts the boot ROM, which verifies and measures the firmware and moves DEVSTAT.STATE to ready or boot failed. -/
  | deviceReset (fw : Firmware)
  /-- PARTITION_RESET (R106): A partition reset halts its sequencers, which come out halted with reset register values. -/
  | partitionReset (part : BitVec 8)
  /-- FATAL_ERROR (R230): An error that cannot be bounded to one task freezes every region, ends every task with HARDWARE, writes the dump and sets STATE to FATAL. -/
  | fatalError (cause : BitVec 32) (ea : BitVec 16)
  /-- QUEUE_ENABLE (R159): Writing a work queue's EN from 0 to 1 clears ACC, HALT, HCODE and the doorbell count. -/
  | queueEnable (q : BitVec 12)
  /-- QUEUE_DISABLE (R159): Writing a work queue's EN to 0 stops acceptance at once and leaves records already accepted unaffected. -/
  | queueDisable (q : BitVec 12)
  /-- DOORBELL (R160): A write of TAIL announces the total count of appended records, or halts the queue with HCODE 1 when the value is out of range. -/
  | doorbell (q : BitVec 12) (tail : BitVec 32)
  /-- CHEAD_WRITE (R308): Software's write of CHEAD frees completion-ring room, releases held entries and resends the MSI-X vector if entries remain unconsumed. -/
  | cheadWrite (q : BitVec 12) (v : BitVec 32)
  /-- RECORD_ACCEPT (R160): The TD reads the task record at POS, assigns a launch ordinal, increments ACC and advances POS. -/
  | recordAccept (q : BitVec 12)
  /-- ADMISSION (R168): The admission unit admits the best-ranked ready task at the first origin and rotation that meet every condition. -/
  | admission (part : BitVec 8)
  /-- SWAP_ON_MARK (R175): An armed splice swap takes effect at an element in the fc after the predecessor's LEVEL 7 marker has left it. -/
  | swapOnMark (ea : BitVec 16) (ctx : BitVec 2)
  /-- FAULT_RECORD_POST (R235): A fault record held at its element enters the partition's fault-record ring and event queue once room appears. -/
  | faultRecordPost (part : BitVec 8)
  /-- ADAPT_WINDOW (R45): At the close of an adaptive window, the arbiter reweights enabled contexts from their queue occupancy. -/
  | adaptWindow (site : BitVec 13)
  /-- CTXARB_WRITE (R45): A write of CTXARB replaces the weights, lowers credits above them and restarts the window. -/
  | ctxarbWrite (site : BitVec 13) (v : BitVec 32)
  /-- TOKEN_ARRIVE (R89): A token arriving on a mesh direction of a router is checked and delivered in its FIFO place. -/
  | tokenArrive (site : BitVec 13) (dir : BitVec 2) (ctx : BitVec 2) (ctl : Bool)
  /-- RTLOG_CLEAR (R89): Writing CLR of RTLOG clears MISCNT, LSLOT, LROUTE and RSVHIT. -/
  | rtlogClear (site : BitVec 13)
  /-- FLIT_RECEIVE (R91): A link flit is accepted only at the next expected sequence number and acknowledged; a nak causes retransmission. -/
  | flitReceive (link : BitVec 8) (flit : Flit)
  /-- FLIT_RETRANSMIT (R91): An unacknowledged flit is retransmitted when its timeout expires. -/
  | flitRetransmit (link : BitVec 8)
  /-- PORT_DOWN (R310): A Rilub port that fails 64 consecutive retries is taken down and its traffic is rehashed over the remaining ports or planes. -/
  | portDown (port : BitVec 5)
  /-- ACCESS_RESULT (R96): A memory access issued by an AGN returns its result or completion in issue order. -/
  | accessResult (site : BitVec 13) (ctx : BitVec 2) (agn : BitVec 2)
  /-- PARITY_LANDING (R205): A parity-update pipeline entry lands on the parity bank at least 2 fc after its write and clears SPB. -/
  | parityLanding (site : BitVec 13) (g : BitVec 2)
  /-- SCRUB_CHECK (R207): The scrubber checks one row set in an idle fc, correcting errors and rewriting mismatched parity. -/
  | scrubCheck (site : BitVec 13)
  /-- FORCED_SCRUB (R207): With no idle fc within 2^SCRFRC fc, the scrubber takes the next fc ahead of direct accesses. -/
  | forcedScrub (site : BitVec 13)
  /-- BANK_RETIRE_COMMAND (R213): A PC write of BPRET with GO retires the named bank under R208. -/
  | bankRetireCommand (site : BitVec 13) (v : BitVec 32)
  /-- AXOLOTL_COUNTER_CLEAR (R213): Writing BPCLR clears RECON, DEGRD, RWAIT, WSTALL, SCRPM and SWEEPS. -/
  | axolotlCounterClear (site : BitVec 13) (v : BitVec 32)
  /-- ERRCNT_CLEAR (R216): Any write of ERRCNT clears ECNT and TSUP. -/
  | errcntClear (ea : BitVec 16)
  /-- II_COUNTER_CLEAR (R257): Writing IIFIRE clears every II monitor counter of the context. -/
  | iiCounterClear (ea : BitVec 16) (ctx : BitVec 2) (agn : BitVec 2)
  /-- MTCFG_WRITE (R94): A PC write of MTCFG sets the commit buffer and owner, and is ignored and logged while a task of the partition is admitted. -/
  | mtcfgWrite (site : BitVec 13) (v : BitVec 32)
  /-- WALK_COMPLETE (R116): A page walk ends with a translation or a failure reason, and sets AC and DI in the leaf. -/
  | walkComplete (site : BitVec 13) (ctx : BitVec 2) (agn : BitVec 2)
  /-- RESUME_DOORBELL (R124): The PC writes STATUS and rings the resume doorbell, and the held agent walks again or fails with the status's outcome. -/
  | resumeDoorbell (part : BitVec 8) (fseq : BitVec 32) (status : BitVec 16)
  /-- MIGRATION_COPY_DONE (R127): After the frame copy, the migration engine swaps the leaf to the new frame, shoots down translations and releases waiting accesses. -/
  | migrationCopyDone (blk : BitVec 6) (q : BitVec 4)
  /-- ENGINE_COMPLETE (R179): An engine completes an entry, writes the completion word and posts an event on EVT or error. -/
  | engineComplete (blk : BitVec 6) (q : BitVec 4)
  /-- WRITE_ACTIVE (R277): A KIND 0 configuration command stages value words for the active bank until a CHECK. -/
  | writeActive (ctx : BitVec 2) (ea : BitVec 16) (field : BitVec 6) (vals : List (BitVec 32))
  /-- WRITE_SHADOW (R277): A KIND 1 configuration command stages value words for the shadow bank until a CHECK. -/
  | writeShadow (ctx : BitVec 2) (ea : BitVec 16) (field : BitVec 6) (vals : List (BitVec 32))
  /-- READ_BACK (R279): A KIND 2 command returns COUNT active-bank fields to the stream's read-back queue. -/
  | readBack (ctx : BitVec 2) (ea : BitVec 16) (field : BitVec 6) (count : BitVec 6)
  /-- SWAP (R278): Control operation 0 copies the context's shadow bank into the active bank now, or arms the swap for the marker. -/
  | swap (ctx : BitVec 2) (ea : BitVec 16) (v : BitVec 32)
  /-- DISCARD (R278): Control operation 1 invalidates the shadow bank of CTX and any armed swap. -/
  | discard (ctx : BitVec 2) (ea : BitVec 16) (v : BitVec 32)
  /-- CHECK (R277): Control operation 2 compares the running CRC-32C and applies the staged writes if equal, with cross-field checks. -/
  | check (ctx : BitVec 2) (ea : BitVec 16) (crc : BitVec 32)
  /-- WS_SWAP (R82): A requested weight-store swap takes effect between packets once consumed wsld writes have landed. -/
  | wsSwap (site : BitVec 13) (ctx : BitVec 2)
  /-- PREEMPT (R242): The TD cuts a region by injecting a cut marker at each source. -/
  | preempt (task : Nat) (reason : BitVec 4)
  /-- BARRIER_NEXT_PHASE (R248): While ARR still covers EXP after a release, a further phase completes in the next fc. -/
  | barrierNextPhase (obj : BitVec 12)
  /-- MCACK_RELEASE (R226): MCACK ACT 1 on the lead releases the held barrier or mchk and applies MODE. -/
  | mcackRelease (chan : BitVec 16)
  /-- MCACK_FAIL (R226): MCACK ACT 2 ends waiting tasks with FAULT and MONITOR and releases non-task waiters. -/
  | mcackFail (chan : BitVec 16)
  /-- CAP_REFILL (R184): At device times that are multiples of PERIOD, a cap bucket's level is raised by REFILL up to MAXB. -/
  | capRefill (site : BitVec 13) (ctx : BitVec 2) (stage : BitVec 3)
  /-- DESTRUCTIVE_UNLOAD (R256): An authorised unload freezes the block's regions, ends their tasks and reads every storage cell through the debug network. -/
  | destructiveUnload (blk : BitVec 6)
  /-- HOST_WINDOW_WRITE (R307): A host write to a device-memory aperture is translated and performed as a non-task write. -/
  | hostWindowWrite (off : BitVec 36) (data : List (BitVec 8)) (posted : Bool)
  /-- HOST_WINDOW_READ (R307): A host read of a device-memory aperture returns committed state. -/
  | hostWindowRead (off : BitVec 36) (len : Nat)
  /-- TIME_SYNC (R312): An IEEE 1588 message disciplines device time by slewing. -/
  | timeSync (master : BitVec 64)
  /-- SENSOR_POLL (R232): Every 1 ms the power manager reads the die sensors and lowers issue rates past the thermal limit. -/
  | sensorPoll (hot : BitVec 4)
  /-- POWER_WINDOW (R314): Every 10 ms the power manager enforces PWRCAP and updates NOWW and LIMITED. -/
  | powerWindow (watts : BitVec 12)
  /-- GUARDBAND_REPLAN (R233): At boot and every 30 days the PC re-plans voltage margins, appends a guardband record and retires failing tiles. -/
  | guardbandReplan (die : BitVec 2) (offset : BitVec 8) (margin : BitVec 16) (tiles : List (BitVec 13))
  /-- EVQ_WRITE (R105): A write of SQ.EVQ sets BASE and makes TAIL equal HEAD, emptying the event queue. -/
  | evqWrite (blk : BitVec 6) (v : BitVec 64)
  /-- EVHEAD_WRITE (R384): A write of SQ.EVHEAD sets HEAD modulo 512 unless it would overfill the queue. -/
  | evheadWrite (blk : BitVec 6) (v : BitVec 64)
  /-- REGISTER_WRITE (R15): A write to a register with no behaviour of its own updates its RW fields and clears W1C bits written with 1. -/
  | registerWrite (reg : PlatReg) (v : BitVec 64)
  /-- BARRIER_ALLOCATE (R248): Mailbox OP 1 allocates a barrier object with its BOCFG to the partition. -/
  | barrierAllocate (part : BitVec 8) (obj : BitVec 12) (cfg : BitVec 32)
  /-- BARRIER_FREE (R248): Mailbox OP 2 frees a barrier object. -/
  | barrierFree (part : BitVec 8) (obj : BitVec 12)
  /-- KEY_ENROL (R309): Mailbox OP 3 enrols a graph-signing public key under a KEYID. -/
  | keyEnrol (part : BitVec 8) (keyid : BitVec 64) (modulus : BitVec 4096)
  /-- KEY_REVOKE (R309): Mailbox OP 4 revokes a graph-signing public key. -/
  | keyRevoke (part : BitVec 8) (keyid : BitVec 64)
  /-- ATTESTATION_REPORT (R313): Mailbox OP 5 returns a signed attestation report with the nonce, measurements and sealing log. -/
  | attestationReport (part : BitVec 8) (nonce : BitVec 512)
  /-- DEBUG_AUTHORISATION (R256): Mailbox OP 6 presents a signed debug authorisation that opens the unload network. -/
  | debugAuthorisation (blk : BitVec 6) (modulus : BitVec 4096) (sig : BitVec 4096)
  /-- PEER_APERTURE_GRANT (R310): Mailbox OP 7 grants a peer aperture mapping a local range to a peer partition's range. -/
  | peerApertureGrant (part : BitVec 8) (idx : BitVec 6) (ap : Aperture)
  /-- SQ_START (R106): Mailbox OP 9 starts the SQs of a partition or block at an entry address in supervisor mode. -/
  | sqStart (part : BitVec 8) (blk : Option (BitVec 6)) (entry : BitVec 64)
  /-- SQ_HALT (R106): Mailbox OP 10 halts the SQs of a partition or block and discards their work. -/
  | sqHalt (part : BitVec 8) (blk : Option (BitVec 6))
  /-- QUEUE_DESCRIPTOR_WRITE (R180): Mailbox OP 11 writes an engine queue descriptor, refused while commands are uncompleted. -/
  | queueDescriptorWrite (part : BitVec 8) (blk : BitVec 6) (q : BitVec 4) (ctl : BitVec 64) (rbase : BitVec 64) (cwaddr : BitVec 64)
  /-- QUEUE_DESCRIPTOR_READ (R180): Mailbox OP 11 reads back an engine queue descriptor. -/
  | queueDescriptorRead (part : BitVec 8) (blk : BitVec 6) (q : BitVec 4)
  /-- FRAME_GRANT (R119): Mailbox OP 12 grants frames to a partition in the frame-ownership map. -/
  | frameGrant (part : BitVec 8) (pa : BitVec 52) (n : Nat)
  /-- FRAME_RECLAIM (R119): Mailbox OP 12 reclaims frames after zero-filling them. -/
  | frameReclaim (part : BitVec 8) (pa : BitVec 52) (n : Nat)
  /-- TRACE_RING_SET (R260): Mailbox OP 13 pins and translates a trace ring and control block and writes PTRACE and PTRCB. -/
  | traceRingSet (part : BitVec 8) (ring : BitVec 64) (k : BitVec 5) (cb : BitVec 64)
  /-- TRACE_RING_CLEAR (R260): Mailbox OP 13 clears the partition's trace ring. -/
  | traceRingClear (part : BitVec 8)
  /-- MONITOR_CHANNEL_ASSIGN (R222): Mailbox OP 14 assigns a stream-port monitor channel to the partition and writes or reads it, MCACK included. -/
  | monitorChannelAssign (part : BitVec 8) (chan : BitVec 16) (regs : List (BitVec 6 × BitVec 32))
  /-- ADD_FABRIC (R317): Adds elements of A and B with wrap or saturation. -/
  | addFabric (w : OpWord)
  /-- SUB_FABRIC (R409): Subtracts elements of B from A with wrap or saturation. -/
  | subFabric (w : OpWord)
  /-- MUL_FABRIC (R379): Multiplies elements with wrap or saturation. -/
  | mulFabric (w : OpWord)
  /-- MULH_FABRIC (R379): Gives the high half of the exact element product. -/
  | mulhFabric (w : OpWord)
  /-- MAD (R379): Computes a times b plus c per element. -/
  | mad (w : OpWord)
  /-- MIN (R379): Gives the smaller element. -/
  | min (w : OpWord)
  /-- MAX (R379): Gives the larger element. -/
  | max (w : OpWord)
  /-- ABS (R317): Gives the absolute value of signed elements. -/
  | abs (w : OpWord)
  /-- NEG (R379): Negates elements. -/
  | neg (w : OpWord)
  /-- AND_FABRIC (R317): Bitwise AND of element patterns. -/
  | andFabric (w : OpWord)
  /-- OR_FABRIC (R379): Bitwise OR of element patterns. -/
  | orFabric (w : OpWord)
  /-- XOR_FABRIC (R409): Bitwise XOR of element patterns. -/
  | xorFabric (w : OpWord)
  /-- ANDN (R317): Bitwise a AND NOT b. -/
  | andn (w : OpWord)
  /-- SHL_FABRIC (R409): Shifts elements left. -/
  | shlFabric (w : OpWord)
  /-- SHR_FABRIC (R409): Shifts element patterns right with zero fill. -/
  | shrFabric (w : OpWord)
  /-- SRA_FABRIC (R409): Shifts element patterns right with sign fill. -/
  | sraFabric (w : OpWord)
  /-- ROT (R379): Rotates element patterns left. -/
  | rot (w : OpWord)
  /-- CLZ (R317): Counts leading zero bits of each element. -/
  | clz (w : OpWord)
  /-- POPC (R379): Counts one bits of each element. -/
  | popc (w : OpWord)
  /-- CMP (R337): Compares elements and writes all-ones or zero masks. -/
  | cmp (w : OpWord)
  /-- SEL (R406): Chooses whole lanes from B or C by the mask in A. -/
  | sel (w : OpWord)
  /-- CVT (R342): Converts between integer formats with wrap or saturation. -/
  | cvt (w : OpWord)
  /-- DOT4 (R344): Sums four 8-bit products per lane plus an addend into i32. -/
  | dot4 (w : OpWord)
  /-- DOT2 (R344): Sums two 16-bit products per lane plus an addend into i32. -/
  | dot2 (w : OpWord)
  /-- BFX (R330): Extracts a bit field of each element. -/
  | bfx (w : OpWord)
  /-- BFI (R330): Inserts a bit field into each element. -/
  | bfi (w : OpWord)
  /-- FADD (R347): Float addition rounded once. -/
  | fadd (w : OpWord)
  /-- FSUB (R347): Float subtraction rounded once. -/
  | fsub (w : OpWord)
  /-- FMUL (R347): Float multiplication rounded once. -/
  | fmul (w : OpWord)
  /-- FMA (R347): Fused multiply-add rounded once. -/
  | fma (w : OpWord)
  /-- FNMA (R347): Computes z minus x times y rounded once. -/
  | fnma (w : OpWord)
  /-- FMIN (R347): Gives the smaller float, with minus zero below plus zero. -/
  | fmin (w : OpWord)
  /-- FMAX (R347): Gives the larger float. -/
  | fmax (w : OpWord)
  /-- FABS (R347): Float absolute value. -/
  | fabs (w : OpWord)
  /-- FNEG (R347): Float negation. -/
  | fneg (w : OpWord)
  /-- FCMP (R348): Float comparison producing masks. -/
  | fcmp (w : OpWord)
  /-- FCLASS (R349): Writes a one-hot class code of each float. -/
  | fclass (w : OpWord)
  /-- FCVT (R351): Converts to or from a float format with RNE, RTZ or stochastic rounding. -/
  | fcvt (w : OpWord)
  /-- FRCP (R354): Approximate reciprocal. -/
  | frcp (w : OpWord)
  /-- FRSQ (R354): Approximate reciprocal square root. -/
  | frsq (w : OpWord)
  /-- FSQRT (R347): Correctly rounded square root. -/
  | fsqrt (w : OpWord)
  /-- FEXP2 (R354): Approximate 2 to the x. -/
  | fexp2 (w : OpWord)
  /-- FLOG2 (R354): Approximate log2 x. -/
  | flog2 (w : OpWord)
  /-- FTANH (R354): Approximate tanh. -/
  | ftanh (w : OpWord)
  /-- FSIGM (R354): Approximate logistic sigmoid. -/
  | fsigm (w : OpWord)
  /-- FSCL (R350): Scales x by 2 to an integer n, rounded once. -/
  | fscl (w : OpWord)
  /-- MOV (R389): Copies source A unchanged. -/
  | mov (w : OpWord)
  /-- MOVK (R390): Merges selected lanes of A into a context register. -/
  | movk (w : OpWord)
  /-- WRK (R427): Writes selected tokens whole into a context register. -/
  | wrk (w : OpWord)
  /-- ACCK (R318): Folds A into a context register by add, min or max. -/
  | acck (w : OpWord)
  /-- LRED (R377): Reduces a token's elements in the fixed tree. -/
  | lred (w : OpWord)
  /-- LSCAN (R377): Scans a token's elements in the fixed tree. -/
  | lscan (w : OpWord)
  /-- LBC (R367): Broadcasts one lane to all lanes. -/
  | lbc (w : OpWord)
  /-- LROT (R367): Rotates lanes. -/
  | lrot (w : OpWord)
  /-- LPERM (R367): Permutes lanes by an index token. -/
  | lperm (w : OpWord)
  /-- FSH (R357): Shifts elements up, filling from the previous token held in a context register. -/
  | fsh (w : OpWord)
  /-- PACK (R392): Gathers valid elements into full tokens and rewrites headers. -/
  | pack (w : OpWord)
  /-- UNPACK (R425): Strips headers into a context register and masks data beyond COUNT. -/
  | unpack (w : OpWord)
  /-- M2C (R378): Reduces a mask token to one control token. -/
  | m2c (w : OpWord)
  /-- LIDX (R368): Writes base plus element index in each valid element. -/
  | lidx (w : OpWord)
  /-- MMA (R386): Multiplies packet rows by the weight-store tile and accumulates into the ACS. -/
  | mma (w : OpWord)
  /-- MMAB (R387): As mma, skipping all-zero weight sub-blocks. -/
  | mmab (w : OpWord)
  /-- WSLD (R428): Writes line tokens into the context's weight-store back buffer. -/
  | wsld (w : OpWord)
  /-- WSSWP (R429): Requests a swap of the context's weight-store window. -/
  | wsswp (w : OpWord)
  /-- ACCLR (R319): Clears a range of accumulator rows. -/
  | acclr (w : OpWord)
  /-- ACRD (R320): Reads 16 accumulator columns into a token. -/
  | acrd (w : OpWord)
  /-- ACWR (R320): Writes or adds a token into 16 accumulator columns. -/
  | acwr (w : OpWord)
  /-- STEER (R418): Routes each record to one of two outputs by its control token. -/
  | steer (w : OpWord)
  /-- MERGE (R382): Passes a record from A or B as the control token selects. -/
  | merge (w : OpWord)
  /-- CARRY (R334): Recirculates one record through a loop body until its control ends it. -/
  | carry (w : OpWord)
  /-- INVR (R360): Repeats an invariant token once per loop pass. -/
  | invr (w : OpWord)
  /-- FORK (R356): Copies one token to every named destination in one firing. -/
  | fork (w : OpWord)
  /-- SINK (R411): Consumes tokens, logs tagged records and reports LEVEL 7 and cut markers. -/
  | sink (w : OpWord)
  /-- GATE (R358): Passes a record once its ordering and control tokens are present. -/
  | gate (w : OpWord)
  /-- CAND (R331): ANDs two control tokens. -/
  | cand (w : OpWord)
  /-- COR (R331): ORs two control tokens. -/
  | cor (w : OpWord)
  /-- CNOT (R331): Inverts a control token. -/
  | cnot (w : OpWord)
  /-- CGEN (R336): Emits one control token per record of a data stream. -/
  | cgen (w : OpWord)
  /-- KELP (R190): Accepts records and returns, and dispatches records to commute members by score or lottery. -/
  | kelp (w : OpWord)
  /-- KJOIN (R193): Emits the oldest complete slot of the commute store in origin order. -/
  | kjoin (w : OpWord)
  /-- TOURN (R423): Selects the top K candidates of a record by replayed comparison. -/
  | tourn (w : OpWord)
  /-- RDIG (R400): Folds a steer decision into a route digest. -/
  | rdig (w : OpWord)
  /-- LD (R370): Loads lines or transposed blocks by address token or base and stride. -/
  | ld (w : OpWord)
  /-- ST (R414): Stores a token's valid lanes as one line. -/
  | st (w : OpWord)
  /-- LDX (R374): Gathers up to 8 elements through the GSQ. -/
  | ldx (w : OpWord)
  /-- STX (R419): Scatters up to 8 elements through the GSQ. -/
  | stx (w : OpWord)
  /-- LDL (R372): Traverses a linked list from a start pointer. -/
  | ldl (w : OpWord)
  /-- ATOM (R324): Applies up to 8 atomic operations indivisibly, or buffers them for commit. -/
  | atom (w : OpWord)
  /-- XLAT (R430): Translates virtual-address tokens to physical-address tokens. -/
  | xlat (w : OpWord)
  /-- PROBE (R395): Finds, inserts or accumulates keys in an open-addressed scratchpad table. -/
  | probe (w : OpWord)
  /-- STC (R416): Stores a packet in lane-compacted form, header last, within a byte limit. -/
  | stc (w : OpWord)
  /-- CPY (R340): Copies lines or transposed blocks between addresses. -/
  | cpy (w : OpWord)
  /-- CNT (R338): Enumerates the task's records with markers. -/
  | cnt (w : OpWord)
  /-- CONST (R339): Emits copies of a context register, free-running or paced. -/
  | const (w : OpWord)
  /-- RAND (R399): Emits xorshift random tokens. -/
  | rand (w : OpWord)
  /-- SEQS (R407): Emits arithmetic sequences as records. -/
  | seqs (w : OpWord)
  /-- POST (R393): Makes a barrier arrival per token and passes it on without waiting. -/
  | post (w : OpWord)
  /-- BARR (R328): Makes an arrival and holds the token until its phase completes. -/
  | barr (w : OpWord)
  /-- BWAIT (R328): Holds each token until its awaited phase completes. -/
  | bwait (w : OpWord)
  /-- MCHK (R381): Triggers a monitor group check per token and holds it on failure. -/
  | mchk (w : OpWord)
  /-- CAP (R333): Passes, defers or drops packets against a capacity bucket. -/
  | cap (w : OpWord)
  /-- SPAWN (R412): Buffers a launch request in the CB for acceptance at commit. -/
  | spawn (w : OpWord)
  /-- ADD_SEQUENCER (R321): Adds two registers modulo 2^64. -/
  | addSequencer (d : BitVec 5) (a : BitVec 5) (b : BitVec 5)
  /-- SUB_SEQUENCER (R410): Subtracts two registers modulo 2^64. -/
  | subSequencer (d : BitVec 5) (a : BitVec 5) (b : BitVec 5)
  /-- AND_SEQUENCER (R321): ANDs two registers. -/
  | andSequencer (d : BitVec 5) (a : BitVec 5) (b : BitVec 5)
  /-- OR_SEQUENCER (R391): ORs two registers. -/
  | orSequencer (d : BitVec 5) (a : BitVec 5) (b : BitVec 5)
  /-- XOR_SEQUENCER (R410): XORs two registers. -/
  | xorSequencer (d : BitVec 5) (a : BitVec 5) (b : BitVec 5)
  /-- SHL_SEQUENCER (R410): Shifts a register left by g[B][5:0]. -/
  | shlSequencer (d : BitVec 5) (a : BitVec 5) (b : BitVec 5)
  /-- SHR_SEQUENCER (R410): Shifts a register right with zero fill. -/
  | shrSequencer (d : BitVec 5) (a : BitVec 5) (b : BitVec 5)
  /-- SRA_SEQUENCER (R410): Shifts a register right with sign fill. -/
  | sraSequencer (d : BitVec 5) (a : BitVec 5) (b : BitVec 5)
  /-- MUL_SEQUENCER (R391): Multiplies two registers modulo 2^64. -/
  | mulSequencer (d : BitVec 5) (a : BitVec 5) (b : BitVec 5)
  /-- MULH_SEQUENCER (R391): Gives the high 64 bits of the signed product. -/
  | mulhSequencer (d : BitVec 5) (a : BitVec 5) (b : BitVec 5)
  /-- DIV (R343): Divides signed registers, truncating, with DIVZ on a zero divisor. -/
  | div (d : BitVec 5) (a : BitVec 5) (b : BitVec 5)
  /-- REM (R391): Gives the remainder matching div. -/
  | rem (d : BitVec 5) (a : BitVec 5) (b : BitVec 5)
  /-- SLT (R410): Sets 1 when g[A] is less than g[B] as i64. -/
  | slt (d : BitVec 5) (a : BitVec 5) (b : BitVec 5)
  /-- SLTN (R410): Sets 1 when g[A] is less than g[B] as n64. -/
  | sltn (d : BitVec 5) (a : BitVec 5) (b : BitVec 5)
  /-- ADDI (R321): Adds a sign-extended immediate. -/
  | addi (d : BitVec 5) (a : BitVec 5) (i : BitVec 16)
  /-- ANDI (R321): ANDs a zero-extended immediate. -/
  | andi (d : BitVec 5) (a : BitVec 5) (i : BitVec 16)
  /-- ORI (R391): ORs a zero-extended immediate. -/
  | ori (d : BitVec 5) (a : BitVec 5) (i : BitVec 16)
  /-- XORI (R410): XORs a zero-extended immediate. -/
  | xori (d : BitVec 5) (a : BitVec 5) (i : BitVec 16)
  /-- SHLI (R410): Shifts left by an immediate amount. -/
  | shli (d : BitVec 5) (a : BitVec 5) (s : BitVec 6)
  /-- SHRI (R410): Shifts right with zero fill by an immediate amount. -/
  | shri (d : BitVec 5) (a : BitVec 5) (s : BitVec 6)
  /-- SRAI (R410): Shifts right with sign fill by an immediate amount. -/
  | srai (d : BitVec 5) (a : BitVec 5) (s : BitVec 6)
  /-- SLTI (R410): Sets 1 when g[A] is less than the sign-extended immediate. -/
  | slti (d : BitVec 5) (a : BitVec 5) (i : BitVec 16)
  /-- LHI (R376): Loads a sign-extended immediate into bits 31 to 16. -/
  | lhi (d : BitVec 5) (i : BitVec 16)
  /-- LB (R365): Loads a sign-extended byte. -/
  | lb (d : BitVec 5) (a : BitVec 5) (o : BitVec 16)
  /-- LBN (R365): Loads a zero-extended byte. -/
  | lbn (d : BitVec 5) (a : BitVec 5) (o : BitVec 16)
  /-- LH (R365): Loads a sign-extended halfword. -/
  | lh (d : BitVec 5) (a : BitVec 5) (o : BitVec 16)
  /-- LHN (R365): Loads a zero-extended halfword. -/
  | lhn (d : BitVec 5) (a : BitVec 5) (o : BitVec 16)
  /-- LW (R365): Loads a sign-extended word. -/
  | lw (d : BitVec 5) (a : BitVec 5) (o : BitVec 16)
  /-- LWN (R365): Loads a zero-extended word. -/
  | lwn (d : BitVec 5) (a : BitVec 5) (o : BitVec 16)
  /-- LQ (R365): Loads a 64-bit word. -/
  | lq (d : BitVec 5) (a : BitVec 5) (o : BitVec 16)
  /-- SB (R402): Stores the low byte of a register. -/
  | sb (d : BitVec 5) (a : BitVec 5) (o : BitVec 16)
  /-- SH (R402): Stores the low halfword of a register. -/
  | sh (d : BitVec 5) (a : BitVec 5) (o : BitVec 16)
  /-- SW (R402): Stores the low word of a register. -/
  | sw (d : BitVec 5) (a : BitVec 5) (o : BitVec 16)
  /-- SQ (R402): Stores a 64-bit register. -/
  | sq (d : BitVec 5) (a : BitVec 5) (o : BitVec 16)
  /-- BEQ (R329): Branches when the registers are equal. -/
  | beq (a : BitVec 5) (b : BitVec 5) (o : BitVec 16)
  /-- BNE (R329): Branches when the registers differ. -/
  | bne (a : BitVec 5) (b : BitVec 5) (o : BitVec 16)
  /-- BLT (R329): Branches on signed less than. -/
  | blt (a : BitVec 5) (b : BitVec 5) (o : BitVec 16)
  /-- BGE (R329): Branches on signed greater or equal. -/
  | bge (a : BitVec 5) (b : BitVec 5) (o : BitVec 16)
  /-- BLTN (R329): Branches on non-negative less than. -/
  | bltn (a : BitVec 5) (b : BitVec 5) (o : BitVec 16)
  /-- BGEN (R329): Branches on non-negative greater or equal. -/
  | bgen (a : BitVec 5) (b : BitVec 5) (o : BitVec 16)
  /-- JAL (R361): Jumps relative and links g31. -/
  | jal (o : BitVec 26)
  /-- JR (R361): Jumps to register plus offset and links g[D]. -/
  | jr (d : BitVec 5) (a : BitVec 5) (i : BitVec 16)
  /-- AMADD (R322): Atomically adds to a 64-bit word and returns the old value. -/
  | amadd (d : BitVec 5) (a : BitVec 5) (b : BitVec 5)
  /-- AMSWP (R322): Atomically swaps a 64-bit word. -/
  | amswp (d : BitVec 5) (a : BitVec 5) (b : BitVec 5)
  /-- AMCAS (R322): Atomically compares and swaps a 64-bit word. -/
  | amcas (d : BitVec 5) (a : BitVec 5) (b : BitVec 5)
  /-- CRC (R341): Folds 1 to 8 bytes into a running CRC-32C. -/
  | crc (d : BitVec 5) (a : BitVec 5) (b : BitVec 5) (n : BitVec 2)
  /-- MFS (R383): Reads a system register. -/
  | mfs (d : BitVec 5) (b : BitVec 5)
  /-- MTS (R384): Writes a system register field by field. -/
  | mts (a : BitVec 5) (b : BitVec 5)
  /-- SVC (R420): Traps with cause 5, or at supervisor level with code 31 passes a mailbox command to the PC. -/
  | svc (c : BitVec 5)
  /-- FEN (R353): Holds later accesses until earlier ones are performed at the scope. -/
  | fen (s : BitVec 2)
  /-- CFGS (R335): Starts a configuration stream of words read from memory. -/
  | cfgs (a : BitVec 5) (b : BitVec 5)
  /-- CFGW (R335): Appends one word to the configuration loader queue. -/
  | cfgw (a : BitVec 5)
  /-- CFGQ (R335): Pops one read-back word without waiting. -/
  | cfgq (d : BitVec 5)
  /-- TSK (R424): Launches a task record on the queue selected by SQ.TSKQ and returns its position. -/
  | tsk (d : BitVec 5) (a : BitVec 5)
  /-- QAPP_ENGINE (R397): Appends a 64-byte command to an engine queue of the block. -/
  | qappEngine (d : BitVec 5) (a : BitVec 5) (b : BitVec 5)
  /-- QAPP_WORK (R397): Adds to a work queue's doorbell count at supervisor level. -/
  | qappWork (d : BitVec 5) (a : BitVec 5) (b : BitVec 5)
  /-- QFEN (R398): Places fence entries in the named engine queues. -/
  | qfen (a : BitVec 5)
  /-- EVP (R346): Pops one event into the event window, or returns 0 when empty. -/
  | evp (d : BitVec 5)
  /-- BARA (R326): Makes an arrival at a barrier object with a count. -/
  | bara (a : BitVec 5) (b : BitVec 5)
  /-- BARW (R326): Waits until a phase of a barrier object has completed. -/
  | barw (a : BitVec 5) (b : BitVec 5)
  /-- TLBI (R421): Drops matching translations within the SQ's block. -/
  | tlbi (a : BitVec 5) (b : BitVec 5)
  /-- SHDN (R408): Shoots down translations of a range partition-wide and raises GEN. -/
  | shdn (a : BitVec 5) (b : BitVec 5)
  /-- SEAL (R404): Seals a virtual range, digests it and appends a sealing-log record. -/
  | sealRange (d : BitVec 5) (a : BitVec 5) (b : BitVec 5)
  /-- MARK (R380): Asks the PC to stop a task at a consistent cut. -/
  | mark (a : BitVec 5)
  /-- RSM (R401): Asks the PC to resume a task stopped for debug or breakpoint. -/
  | rsm (a : BitVec 5)
  /-- INSTRUCTION_FETCH_FAULT (R239): A sequencer fetch whose translation fails or is not executable traps with cause 1, and a fault on a vector's first instruction halts the SQ. -/
  | instructionFetchFault (sub : BitVec 8) (detail : BitVec 48)
  /-- CORRECTED_ROW_WRITEBACK (R206): After a correctable SECDED error, the MT writes the corrected row back in the bank's next idle fc. -/
  | correctedRowWriteback (site : BitVec 13) (bank : BitVec 5) (row : BitVec 11)
  /-- PARTITION_DESTROY (R132): When a partition is destroyed, the PC zero-fills its sealed frames, clears their marks and empties its sealing log. -/
  | partitionDestroy (part : BitVec 8)
  /-- SIGNED_RECOVERY_IMAGE (R313): After a failed boot, the ROM accepts only a signed recovery image over PCIe. -/
  | signedRecoveryImage (fw : Firmware)
  /-- DEPENDENCE_MET (R166): An after, splice or barrier dependence is satisfied and the task enters the ready pool. -/
  | dependenceMet
  /-- SOURCE_RELEASE (R173): Once every site of the region has swapped, the task's sources are released. -/
  | sourceRelease
  /-- TASK_FINISH (R145): Every sink has received its LEVEL 7 marker with no fault held, and the task is finished. -/
  | taskFinish
  /-- REPAIR_PASS (R220): The TD clears finished states and has the sources re-inject the tagged records of the repair list. -/
  | repairPass
  /-- COMMIT (R145): Once every older task has committed, the TD applies the finished task's buffered effects atomically and aborts conflicting readers. -/
  | commit
  /-- LOCKSTEP_TIMEOUT (R262): One side of a lockstep pair waits more than 1 ms for the other, and both tasks end with HARDWARE. -/
  | lockstepTimeout
  /-- IRREVOCABLE (R146): A task stalled on a full CB share becomes the oldest, commits what it holds and becomes irrevocable. -/
  | irrevocable
  /-- WATCHDOG (R50): A region in which no element fires for the watchdog interval raises WATCHDOG. -/
  | watchdog
  /-- REGION_FROZEN (R236): After a stopping fault, 256 fc with no firing mark the region frozen and the task ends with the fault's class. -/
  | regionFrozen
  /-- EVENT_INTERRUPT (R239): With IE set and the event queue non-empty, the sequencer takes an event-interrupt trap between instructions or in a wait. -/
  | eventInterrupt
  /-- HOUR_WINDOW (R208): At each hour-window boundary of device time the correctable-error counters clear. -/
  | hourWindow
  /-- PAGE_FAULT_LIMIT (R125): A fault pending beyond the page-fault limit cuts the region and suspends the task. -/
  | pageFaultLimit
  /-- COPY (R178): SCE OP 0x01 copies a length between virtual addresses or FSAs. -/
  | copy
  /-- COPY_T8 (R178): SCE OP 0x02 copies blocks with .t8 transposition. -/
  | copyT8
  /-- COPY_T16 (R178): SCE OP 0x03 copies blocks with .t16 transposition. -/
  | copyT16
  /-- FILL (R178): SCE OP 0x04 fills a destination with a 64-bit pattern. -/
  | fill
  /-- ALL_REDUCE (R311): CLE OP 0x10 all-reduces a buffer over a group in the fixed tree of member order. -/
  | allReduce
  /-- BROADCAST (R311): CLE OP 0x11 broadcasts a buffer over a group. -/
  | broadcast
  /-- ALL_GATHER (R311): CLE OP 0x12 all-gathers a buffer over a group. -/
  | allGather
  /-- SHA512 (R178): CE OP 0x20 computes SHA-512 of a source range into a digest destination. -/
  | sha512
  /-- RSA_VERIFY (R432): CE OP 0x21 verifies an RSA-4096 PKCS1-v1_5 signature against a digest, giving status 6 on failure. -/
  | rsaVerify
  /-- MIGRATE (R127): ME OP 0x30 starts migrating one leaf by setting MIG, shooting down and aborting conflicting tasks. -/
  | migrate
  /-- CUT_COMPLETE (R245): Every sink has the marker and every element has saved its state, so the task is suspended and its objects park. -/
  | cutComplete
  /-- RESTORE (R247): A suspended task is reloaded at its own sites, its channel state re-injected and its mailboxes replayed before release. -/
  | restore
  /-- HOST_REQUEST_TIMEOUT (R307): A non-posted host request whose fault stays pending 20 ms receives a completer abort. -/
  | hostRequestTimeout
  /-- SYNCLOST (R312): After 10 s without synchronisation, the PC sets DEVSTAT.SYNCLOST. -/
  | synclost
  /-- TELEMETRY_SNAPSHOT (R314): Mailbox OP 8 returns a telemetry snapshot. -/
  | telemetrySnapshot
  /-- ERET (R345): Returns from a trap, restoring privilege and IE. -/
  | eret
  /-- WFE (R426): Waits until the event queue is non-empty. -/
  | wfe
  /-- ILLEGAL_INSTRUCTION (R303): A fetched word with an undefined opcode, FN or SUB, the all-zero word, or a non-zero must-be-zero field traps with cause 2. -/
  | illegalInstruction
deriving DecidableEq, Repr

end Sys2Proof
end

