-- ==== Sys2Proof/Decode.lean ====
section
/-! DEFINITION. Decode.lean: from bits to instructions and back. Operator words (R288 to R297), sequencer words
(R298 to R304), configuration commands (R276, R278) and engine commands (R178). Decoding is total and refuses by
name; the encoders are written from the same tables. -/

namespace Sys2Proof

/-- Why a pattern is no instruction. -/
inductive DecodeError where
  /-- the all-zero sequencer word: SUB 3 (R303) -/
  | allZero
  /-- undefined OPC, FN or SUB: SUB 1 (R303) -/
  | undefined
  /-- a defined sequencer instruction with a non-zero must-be-zero field: SUB 2 (R303) -/
  | reservedField
  /-- a reserved class or operation of an operator word: REASON 2 (R297) -/
  | reservedOperator
  /-- a configuration command that Table 12-4 or Table 12-5 rejects -/
  | badCommand
  /-- a number of bytes that is no instruction -/
  | badLength
deriving DecidableEq, Repr

/-! ## Operator words -/

/-- Fields [54:0] of an operator word (Table 13-1). -/
def OpWord.ofBits (w : DWord) : OpWord :=
  { fmt := w.extractLsb' 51 4, rnd := w.extractLsb' 49 2, sat := w.extractLsb' 48 1, sa := w.extractLsb' 45 3,
    sb := w.extractLsb' 42 3, sc := w.extractLsb' 39 3, dst := w.extractLsb' 36 3, kidx := w.extractLsb' 33 3,
    pg := w.extractLsb' 32 1, imm := w.extractLsb' 0 32 }

/-- The 64-bit word with CLS and OP in [63:55] and the fields below. -/
def OpWord.toBits (code : BitVec 9) (o : OpWord) : DWord :=
  code ++ o.fmt ++ o.rnd ++ o.sat ++ o.sa ++ o.sb ++ o.sc ++ o.dst ++ o.kidx ++ o.pg ++ o.imm

/-- CLS and OP as one number, CLS * 64 + OP (R296). -/
def opcodeOf (w : DWord) : Nat := (w.extractLsb' 55 9).toNat

/-- The operation of an opcode of Table 13-6, as the constructor that takes the word's fields. -/
def opConstructor : Nat → Option (OpWord → Instr)
  | 0 => some .addFabric
  | 1 => some .subFabric
  | 2 => some .mulFabric
  | 3 => some .mulhFabric
  | 4 => some .mad
  | 5 => some .min
  | 6 => some .max
  | 7 => some .abs
  | 8 => some .neg
  | 9 => some .andFabric
  | 10 => some .orFabric
  | 11 => some .xorFabric
  | 12 => some .andn
  | 13 => some .shlFabric
  | 14 => some .shrFabric
  | 15 => some .sraFabric
  | 16 => some .rot
  | 17 => some .clz
  | 18 => some .popc
  | 19 => some .cmp
  | 20 => some .sel
  | 21 => some .cvt
  | 22 => some .dot4
  | 23 => some .dot2
  | 24 => some .bfx
  | 25 => some .bfi
  | 64 => some .fadd
  | 65 => some .fsub
  | 66 => some .fmul
  | 67 => some .fma
  | 68 => some .fnma
  | 69 => some .fmin
  | 70 => some .fmax
  | 71 => some .fabs
  | 72 => some .fneg
  | 73 => some .fcmp
  | 74 => some .fclass
  | 75 => some .fcvt
  | 76 => some .frcp
  | 77 => some .frsq
  | 78 => some .fsqrt
  | 79 => some .fexp2
  | 80 => some .flog2
  | 81 => some .ftanh
  | 82 => some .fsigm
  | 83 => some .fscl
  | 128 => some .mov
  | 129 => some .movk
  | 130 => some .wrk
  | 131 => some .acck
  | 132 => some .lred
  | 133 => some .lscan
  | 134 => some .lbc
  | 135 => some .lrot
  | 136 => some .lperm
  | 137 => some .fsh
  | 138 => some .pack
  | 139 => some .unpack
  | 140 => some .m2c
  | 141 => some .lidx
  | 192 => some .mma
  | 193 => some .mmab
  | 194 => some .wsld
  | 195 => some .wsswp
  | 196 => some .acclr
  | 197 => some .acrd
  | 198 => some .acwr
  | 256 => some .steer
  | 257 => some .merge
  | 258 => some .carry
  | 259 => some .invr
  | 260 => some .fork
  | 261 => some .sink
  | 262 => some .gate
  | 263 => some .cand
  | 264 => some .cor
  | 265 => some .cnot
  | 266 => some .cgen
  | 267 => some .kelp
  | 268 => some .kjoin
  | 269 => some .tourn
  | 270 => some .rdig
  | 320 => some .ld
  | 321 => some .st
  | 322 => some .ldx
  | 323 => some .stx
  | 324 => some .ldl
  | 325 => some .atom
  | 326 => some .xlat
  | 327 => some .probe
  | 328 => some .stc
  | 329 => some .cpy
  | 384 => some .cnt
  | 385 => some .const
  | 386 => some .rand
  | 387 => some .seqs
  | 388 => some .post
  | 389 => some .barr
  | 390 => some .bwait
  | 391 => some .mchk
  | 392 => some .cap
  | 393 => some .spawn
  | _ => none

/-- An operator word names an operation or is reserved (R297). -/
def decodeOp (w : DWord) : Except DecodeError Instr :=
  match opConstructor (opcodeOf w) with
  | some f => .ok (f (OpWord.ofBits w))
  | none => .error .reservedOperator

/-- The opcode and fields of a fabric operator; none for the other instructions. -/
def Instr.operator : Instr → Option (BitVec 9 × OpWord)
  | .addFabric w => some (0#9, w)
  | .subFabric w => some (1#9, w)
  | .mulFabric w => some (2#9, w)
  | .mulhFabric w => some (3#9, w)
  | .mad w => some (4#9, w)
  | .min w => some (5#9, w)
  | .max w => some (6#9, w)
  | .abs w => some (7#9, w)
  | .neg w => some (8#9, w)
  | .andFabric w => some (9#9, w)
  | .orFabric w => some (10#9, w)
  | .xorFabric w => some (11#9, w)
  | .andn w => some (12#9, w)
  | .shlFabric w => some (13#9, w)
  | .shrFabric w => some (14#9, w)
  | .sraFabric w => some (15#9, w)
  | .rot w => some (16#9, w)
  | .clz w => some (17#9, w)
  | .popc w => some (18#9, w)
  | .cmp w => some (19#9, w)
  | .sel w => some (20#9, w)
  | .cvt w => some (21#9, w)
  | .dot4 w => some (22#9, w)
  | .dot2 w => some (23#9, w)
  | .bfx w => some (24#9, w)
  | .bfi w => some (25#9, w)
  | .fadd w => some (64#9, w)
  | .fsub w => some (65#9, w)
  | .fmul w => some (66#9, w)
  | .fma w => some (67#9, w)
  | .fnma w => some (68#9, w)
  | .fmin w => some (69#9, w)
  | .fmax w => some (70#9, w)
  | .fabs w => some (71#9, w)
  | .fneg w => some (72#9, w)
  | .fcmp w => some (73#9, w)
  | .fclass w => some (74#9, w)
  | .fcvt w => some (75#9, w)
  | .frcp w => some (76#9, w)
  | .frsq w => some (77#9, w)
  | .fsqrt w => some (78#9, w)
  | .fexp2 w => some (79#9, w)
  | .flog2 w => some (80#9, w)
  | .ftanh w => some (81#9, w)
  | .fsigm w => some (82#9, w)
  | .fscl w => some (83#9, w)
  | .mov w => some (128#9, w)
  | .movk w => some (129#9, w)
  | .wrk w => some (130#9, w)
  | .acck w => some (131#9, w)
  | .lred w => some (132#9, w)
  | .lscan w => some (133#9, w)
  | .lbc w => some (134#9, w)
  | .lrot w => some (135#9, w)
  | .lperm w => some (136#9, w)
  | .fsh w => some (137#9, w)
  | .pack w => some (138#9, w)
  | .unpack w => some (139#9, w)
  | .m2c w => some (140#9, w)
  | .lidx w => some (141#9, w)
  | .mma w => some (192#9, w)
  | .mmab w => some (193#9, w)
  | .wsld w => some (194#9, w)
  | .wsswp w => some (195#9, w)
  | .acclr w => some (196#9, w)
  | .acrd w => some (197#9, w)
  | .acwr w => some (198#9, w)
  | .steer w => some (256#9, w)
  | .merge w => some (257#9, w)
  | .carry w => some (258#9, w)
  | .invr w => some (259#9, w)
  | .fork w => some (260#9, w)
  | .sink w => some (261#9, w)
  | .gate w => some (262#9, w)
  | .cand w => some (263#9, w)
  | .cor w => some (264#9, w)
  | .cnot w => some (265#9, w)
  | .cgen w => some (266#9, w)
  | .kelp w => some (267#9, w)
  | .kjoin w => some (268#9, w)
  | .tourn w => some (269#9, w)
  | .rdig w => some (270#9, w)
  | .ld w => some (320#9, w)
  | .st w => some (321#9, w)
  | .ldx w => some (322#9, w)
  | .stx w => some (323#9, w)
  | .ldl w => some (324#9, w)
  | .atom w => some (325#9, w)
  | .xlat w => some (326#9, w)
  | .probe w => some (327#9, w)
  | .stc w => some (328#9, w)
  | .cpy w => some (329#9, w)
  | .cnt w => some (384#9, w)
  | .const w => some (385#9, w)
  | .rand w => some (386#9, w)
  | .seqs w => some (387#9, w)
  | .post w => some (388#9, w)
  | .barr w => some (389#9, w)
  | .bwait w => some (390#9, w)
  | .mchk w => some (391#9, w)
  | .cap w => some (392#9, w)
  | .spawn w => some (393#9, w)
  | _ => none

/-- The operator word of a fabric operator. -/
def encodeOp (i : Instr) : Option DWord :=
  match i.operator with
  | some (c, o) => some (o.toBits c)
  | none => none

/-! ## Sequencer words -/

/-- Register field at [25:21]. -/
def fieldD (w : Word) : BitVec 5 := w.extractLsb' 21 5
/-- Register field at [20:16]. -/
def fieldA (w : Word) : BitVec 5 := w.extractLsb' 16 5
/-- Register field at [15:11]. -/
def fieldB (w : Word) : BitVec 5 := w.extractLsb' 11 5
/-- IMM16 or OFF16. -/
def fieldI (w : Word) : BitVec 16 := w.extractLsb' 0 16

/-- A defined instruction whose must-be-zero fields are checked (R303). -/
def ifZero (b : Bool) (i : Instr) : Except DecodeError Instr :=
  if b then .ok i else .error .reservedField

/-- The arithmetic group, opcode 0x0F (Table 13-9). -/
def decodeArith (w : Word) : Except DecodeError Instr :=
  match (w.extractLsb' 0 11).toNat with
  | 0 => .ok (.addSequencer (fieldD w) (fieldA w) (fieldB w))
  | 1 => .ok (.subSequencer (fieldD w) (fieldA w) (fieldB w))
  | 2 => .ok (.andSequencer (fieldD w) (fieldA w) (fieldB w))
  | 3 => .ok (.orSequencer (fieldD w) (fieldA w) (fieldB w))
  | 4 => .ok (.xorSequencer (fieldD w) (fieldA w) (fieldB w))
  | 5 => .ok (.shlSequencer (fieldD w) (fieldA w) (fieldB w))
  | 6 => .ok (.shrSequencer (fieldD w) (fieldA w) (fieldB w))
  | 7 => .ok (.sraSequencer (fieldD w) (fieldA w) (fieldB w))
  | 8 => .ok (.mulSequencer (fieldD w) (fieldA w) (fieldB w))
  | 9 => .ok (.mulhSequencer (fieldD w) (fieldA w) (fieldB w))
  | 10 => .ok (.div (fieldD w) (fieldA w) (fieldB w))
  | 11 => .ok (.rem (fieldD w) (fieldA w) (fieldB w))
  | 12 => .ok (.slt (fieldD w) (fieldA w) (fieldB w))
  | 13 => .ok (.sltn (fieldD w) (fieldA w) (fieldB w))
  | _ => .error .undefined

/-- The system group, opcode 0x30 (Table 13-10). -/
def decodeSystem (w : Word) : Except DecodeError Instr :=
  match (w.extractLsb' 5 6).toNat with
  | 0 => ifZero (fieldA w = 0 && w.extractLsb' 0 5 = 0#5) (.mfs (fieldD w) (fieldB w))
  | 1 => ifZero (fieldD w = 0 && w.extractLsb' 0 5 = 0#5) (.mts (fieldA w) (fieldB w))
  | 2 => ifZero (fieldD w = 0 && fieldA w = 0 && fieldB w = 0) (.svc (w.extractLsb' 0 5))
  | 3 => ifZero (fieldD w = 0 && fieldA w = 0 && fieldB w = 0 && w.extractLsb' 0 5 = 0#5) .eret
  | 4 => ifZero (fieldD w = 0 && fieldA w = 0 && fieldB w = 0 && w.extractLsb' 0 5 = 0#5) .wfe
  | 5 => ifZero (fieldD w = 0 && fieldA w = 0 && fieldB w = 0 && w.extractLsb' 2 3 = 0#3) (.fen (w.extractLsb' 0 2))
  | _ => .error .undefined

/-- The fabric group, opcode 0x31 (Table 13-11). -/
def decodeFabricGroup (w : Word) : Except DecodeError Instr :=
  match (w.extractLsb' 5 6).toNat with
  | 0 => ifZero (fieldD w = 0 && w.extractLsb' 0 5 = 0#5) (.cfgs (fieldA w) (fieldB w))
  | 1 => ifZero (fieldD w = 0 && fieldB w = 0 && w.extractLsb' 0 5 = 0#5) (.cfgw (fieldA w))
  | 2 => ifZero (fieldA w = 0 && fieldB w = 0 && w.extractLsb' 0 5 = 0#5) (.cfgq (fieldD w))
  | 3 => ifZero (fieldB w = 0 && w.extractLsb' 0 5 = 0#5) (.tsk (fieldD w) (fieldA w))
  | 4 => ifZero (w.extractLsb' 1 4 = 0#4)
      (if w.extractLsb' 0 1 = 1#1 then .qappWork (fieldD w) (fieldA w) (fieldB w)
       else .qappEngine (fieldD w) (fieldA w) (fieldB w))
  | 5 => ifZero (fieldD w = 0 && fieldB w = 0 && w.extractLsb' 0 5 = 0#5) (.qfen (fieldA w))
  | 6 => ifZero (fieldA w = 0 && fieldB w = 0 && w.extractLsb' 0 5 = 0#5) (.evp (fieldD w))
  | 7 => ifZero (fieldD w = 0 && w.extractLsb' 0 5 = 0#5) (.bara (fieldA w) (fieldB w))
  | 8 => ifZero (fieldD w = 0 && w.extractLsb' 0 5 = 0#5) (.barw (fieldA w) (fieldB w))
  | 9 => ifZero (fieldD w = 0 && w.extractLsb' 0 5 = 0#5) (.tlbi (fieldA w) (fieldB w))
  | 10 => ifZero (fieldD w = 0 && w.extractLsb' 0 5 = 0#5) (.shdn (fieldA w) (fieldB w))
  | 11 => ifZero (w.extractLsb' 0 5 = 0#5) (.sealRange (fieldD w) (fieldA w) (fieldB w))
  | 12 => ifZero (fieldD w = 0 && fieldB w = 0 && w.extractLsb' 0 5 = 0#5) (.mark (fieldA w))
  | 13 => ifZero (fieldD w = 0 && fieldB w = 0 && w.extractLsb' 0 5 = 0#5) (.rsm (fieldA w))
  | _ => .error .undefined

/-- A sequencer word (Table 13-8), with the priorities of R303. -/
def decodeSq (w : Word) : Except DecodeError Instr :=
  if w = 0 then .error .allZero else
  match (w.extractLsb' 26 6).toNat with
  | 1 => .ok (.addi (fieldD w) (fieldA w) (fieldI w))
  | 2 => .ok (.andi (fieldD w) (fieldA w) (fieldI w))
  | 3 => .ok (.ori (fieldD w) (fieldA w) (fieldI w))
  | 4 => .ok (.xori (fieldD w) (fieldA w) (fieldI w))
  | 5 => ifZero (w.extractLsb' 6 10 = 0#10) (.shli (fieldD w) (fieldA w) (w.extractLsb' 0 6))
  | 6 => ifZero (w.extractLsb' 6 10 = 0#10) (.shri (fieldD w) (fieldA w) (w.extractLsb' 0 6))
  | 7 => ifZero (w.extractLsb' 6 10 = 0#10) (.srai (fieldD w) (fieldA w) (w.extractLsb' 0 6))
  | 8 => .ok (.slti (fieldD w) (fieldA w) (fieldI w))
  | 9 => ifZero (fieldA w = 0) (.lhi (fieldD w) (fieldI w))
  | 15 => decodeArith w
  | 16 => .ok (.lb (fieldD w) (fieldA w) (fieldI w))
  | 17 => .ok (.lbn (fieldD w) (fieldA w) (fieldI w))
  | 18 => .ok (.lh (fieldD w) (fieldA w) (fieldI w))
  | 19 => .ok (.lhn (fieldD w) (fieldA w) (fieldI w))
  | 20 => .ok (.lw (fieldD w) (fieldA w) (fieldI w))
  | 21 => .ok (.lwn (fieldD w) (fieldA w) (fieldI w))
  | 22 => .ok (.lq (fieldD w) (fieldA w) (fieldI w))
  | 24 => .ok (.sb (fieldD w) (fieldA w) (fieldI w))
  | 25 => .ok (.sh (fieldD w) (fieldA w) (fieldI w))
  | 26 => .ok (.sw (fieldD w) (fieldA w) (fieldI w))
  | 27 => .ok (.sq (fieldD w) (fieldA w) (fieldI w))
  | 32 => .ok (.beq (fieldD w) (fieldA w) (fieldI w))
  | 33 => .ok (.bne (fieldD w) (fieldA w) (fieldI w))
  | 34 => .ok (.blt (fieldD w) (fieldA w) (fieldI w))
  | 35 => .ok (.bge (fieldD w) (fieldA w) (fieldI w))
  | 36 => .ok (.bltn (fieldD w) (fieldA w) (fieldI w))
  | 37 => .ok (.bgen (fieldD w) (fieldA w) (fieldI w))
  | 38 => .ok (.jal (w.extractLsb' 0 26))
  | 39 => .ok (.jr (fieldD w) (fieldA w) (fieldI w))
  | 40 => ifZero (w.extractLsb' 0 11 = 0#11) (.amadd (fieldD w) (fieldA w) (fieldB w))
  | 41 => ifZero (w.extractLsb' 0 11 = 0#11) (.amswp (fieldD w) (fieldA w) (fieldB w))
  | 42 => ifZero (w.extractLsb' 0 11 = 0#11) (.amcas (fieldD w) (fieldA w) (fieldB w))
  | 48 => decodeSystem w
  | 49 => decodeFabricGroup w
  | 50 => ifZero (w.extractLsb' 2 9 = 0#9) (.crc (fieldD w) (fieldA w) (fieldB w) (w.extractLsb' 0 2))
  | _ => .error .undefined

/-- Format A: OPC, D, A, B, FN (Table 13-7). -/
def wordA (opc : BitVec 6) (d a b : BitVec 5) (fn : BitVec 11) : Word := opc ++ d ++ a ++ b ++ fn
/-- Formats I and B: OPC, two registers, 16 bits. -/
def wordI (opc : BitVec 6) (d a : BitVec 5) (i : BitVec 16) : Word := opc ++ d ++ a ++ i
/-- Format J. -/
def wordJ (opc : BitVec 6) (o : BitVec 26) : Word := opc ++ o
/-- Format S: OPC, D, A, B, SUB, FLAGS. -/
def wordS (opc : BitVec 6) (d a b : BitVec 5) (sub : BitVec 6) (f : BitVec 5) : Word := opc ++ d ++ a ++ b ++ sub ++ f

/-- The word of a sequencer instruction; none for the other instructions. -/
def encodeSq : Instr → Option Word
  | .addSequencer d a b => some (wordA 15#6 d a b 0#11)
  | .subSequencer d a b => some (wordA 15#6 d a b 1#11)
  | .andSequencer d a b => some (wordA 15#6 d a b 2#11)
  | .orSequencer d a b => some (wordA 15#6 d a b 3#11)
  | .xorSequencer d a b => some (wordA 15#6 d a b 4#11)
  | .shlSequencer d a b => some (wordA 15#6 d a b 5#11)
  | .shrSequencer d a b => some (wordA 15#6 d a b 6#11)
  | .sraSequencer d a b => some (wordA 15#6 d a b 7#11)
  | .mulSequencer d a b => some (wordA 15#6 d a b 8#11)
  | .mulhSequencer d a b => some (wordA 15#6 d a b 9#11)
  | .div d a b => some (wordA 15#6 d a b 10#11)
  | .rem d a b => some (wordA 15#6 d a b 11#11)
  | .slt d a b => some (wordA 15#6 d a b 12#11)
  | .sltn d a b => some (wordA 15#6 d a b 13#11)
  | .addi d a i => some (wordI 1#6 d a i)
  | .andi d a i => some (wordI 2#6 d a i)
  | .ori d a i => some (wordI 3#6 d a i)
  | .xori d a i => some (wordI 4#6 d a i)
  | .slti d a i => some (wordI 8#6 d a i)
  | .shli d a s => some (wordI 5#6 d a (0#10 ++ s))
  | .shri d a s => some (wordI 6#6 d a (0#10 ++ s))
  | .srai d a s => some (wordI 7#6 d a (0#10 ++ s))
  | .lhi d i => some (wordI 9#6 d 0#5 i)
  | .lb d a o => some (wordI 16#6 d a o)
  | .lbn d a o => some (wordI 17#6 d a o)
  | .lh d a o => some (wordI 18#6 d a o)
  | .lhn d a o => some (wordI 19#6 d a o)
  | .lw d a o => some (wordI 20#6 d a o)
  | .lwn d a o => some (wordI 21#6 d a o)
  | .lq d a o => some (wordI 22#6 d a o)
  | .sb d a o => some (wordI 24#6 d a o)
  | .sh d a o => some (wordI 25#6 d a o)
  | .sw d a o => some (wordI 26#6 d a o)
  | .sq d a o => some (wordI 27#6 d a o)
  | .jr d a o => some (wordI 39#6 d a o)
  | .beq a b o => some (wordI 32#6 a b o)
  | .bne a b o => some (wordI 33#6 a b o)
  | .blt a b o => some (wordI 34#6 a b o)
  | .bge a b o => some (wordI 35#6 a b o)
  | .bltn a b o => some (wordI 36#6 a b o)
  | .bgen a b o => some (wordI 37#6 a b o)
  | .jal o => some (wordJ 38#6 o)
  | .amadd d a b => some (wordA 40#6 d a b 0#11)
  | .amswp d a b => some (wordA 41#6 d a b 0#11)
  | .amcas d a b => some (wordA 42#6 d a b 0#11)
  | .crc d a b n => some (wordA 50#6 d a b (0#9 ++ n))
  | .mfs d b => some (wordS 48#6 d 0#5 b 0#6 0#5)
  | .mts a b => some (wordS 48#6 0#5 a b 1#6 0#5)
  | .svc c => some (wordS 48#6 0#5 0#5 0#5 2#6 c)
  | .eret => some (wordS 48#6 0#5 0#5 0#5 3#6 0#5)
  | .wfe => some (wordS 48#6 0#5 0#5 0#5 4#6 0#5)
  | .fen s => some (wordS 48#6 0#5 0#5 0#5 5#6 (0#3 ++ s))
  | .cfgs a b => some (wordS 49#6 0#5 a b 0#6 0#5)
  | .cfgw a => some (wordS 49#6 0#5 a 0#5 1#6 0#5)
  | .cfgq d => some (wordS 49#6 d 0#5 0#5 2#6 0#5)
  | .tsk d a => some (wordS 49#6 d a 0#5 3#6 0#5)
  | .qappEngine d a b => some (wordS 49#6 d a b 4#6 0#5)
  | .qappWork d a b => some (wordS 49#6 d a b 4#6 1#5)
  | .qfen a => some (wordS 49#6 0#5 a 0#5 5#6 0#5)
  | .evp d => some (wordS 49#6 d 0#5 0#5 6#6 0#5)
  | .bara a b => some (wordS 49#6 0#5 a b 7#6 0#5)
  | .barw a b => some (wordS 49#6 0#5 a b 8#6 0#5)
  | .tlbi a b => some (wordS 49#6 0#5 a b 9#6 0#5)
  | .shdn a b => some (wordS 49#6 0#5 a b 10#6 0#5)
  | .sealRange d a b => some (wordS 49#6 d a b 11#6 0#5)
  | .mark a => some (wordS 49#6 0#5 a 0#5 12#6 0#5)
  | .rsm a => some (wordS 49#6 0#5 a 0#5 13#6 0#5)
  | _ => none

/-! ## Configuration commands (Tables 12-4 and 12-5) -/

/-- Number of words that COUNT codes: 0 means 64. -/
def countCode (c : BitVec 6) : Nat := if c = 0 then 64 else c.toNat

/-- How many words follow a command word (R276). -/
def commandLength (w : Word) : Nat :=
  if w.extractLsb' 31 1 = 0#1 then countCode (w.extractLsb' 0 6) else 1

/-- A command word with the value words that follow it. -/
def decodeCommand (w : Word) (vals : List Word) : Except DecodeError Instr :=
  let ctx := w.extractLsb' 28 2
  let ea := w.extractLsb' 12 16
  let field := w.extractLsb' 6 6
  let count := w.extractLsb' 0 6
  match (w.extractLsb' 30 2).toNat, vals with
  | 0, vs => .ok (.writeActive ctx ea field vs)
  | 1, vs => .ok (.writeShadow ctx ea field vs)
  | 2, [v] => if v = 0 then .ok (.readBack ctx ea field count) else .error .badCommand
  | 3, [v] =>
    if count = 1 then
      match field.toNat with
      | 0 => .ok (.swap ctx ea v)
      | 1 => .ok (.discard ctx ea v)
      | 2 => .ok (.check ctx ea v)
      | _ => .error .badCommand
    else .error .badCommand
  | _, _ => .error .badCommand

/-- The COUNT field of a run of value words. -/
def countField (n : Nat) : BitVec 6 := BitVec.ofNat 6 n

/-- A command word. -/
def commandWord (kind ctx : BitVec 2) (ea : BitVec 16) (field count : BitVec 6) : Word :=
  kind ++ ctx ++ ea ++ field ++ count

/-- The words of a configuration command; empty for the other instructions. -/
def encodeCommand : Instr → List Word
  | .writeActive ctx ea field vs => commandWord 0#2 ctx ea field (countField vs.length) :: vs
  | .writeShadow ctx ea field vs => commandWord 1#2 ctx ea field (countField vs.length) :: vs
  | .readBack ctx ea field count => [commandWord 2#2 ctx ea field count, 0]
  | .swap ctx ea v => [commandWord 3#2 ctx ea 0#6 1#6, v]
  | .discard ctx ea v => [commandWord 3#2 ctx ea 1#6 1#6, v]
  | .check ctx ea v => [commandWord 3#2 ctx ea 2#6 1#6, v]
  | _ => []

/-! ## Engine commands (Table 6-7) -/

/-- The k-th 64-bit word of a 64-byte command; word 0 is the header (R178). -/
def commandDword (cmd : BitVec 512) (k : Nat) : DWord := cmd.extractLsb' (64 * k) 64

/-- The operation of a command for the bound engine: 0 SCE, 1 CLE, 2 CE, 3 ME. Its operand j stands in word j of
the command (log entry 10). An OP the engine does not execute, or reserved header bits, gives none (R178). -/
def decodeEngine (eng : BitVec 2) (cmd : BitVec 512) : Option Instr :=
  let h := commandDword cmd 0
  if h.extractLsb' 9 7 ≠ 0#7 then none else
  match eng.toNat, (h.extractLsb' 0 8).toNat with
  | 0, 0x01 => some .copy
  | 0, 0x02 => some .copyT8
  | 0, 0x03 => some .copyT16
  | 0, 0x04 => some .fill
  | 1, 0x10 => some .allReduce
  | 1, 0x11 => some .broadcast
  | 1, 0x12 => some .allGather
  | 2, 0x20 => some .sha512
  | 2, 0x21 => some .rsaVerify
  | 3, 0x30 => some .migrate
  | _, _ => none

/-! ## Bytes -/

/-- The number little-endian bytes stand for. -/
def bytesToNat : List Byte → Nat
  | [] => 0
  | b :: t => b.toNat + 256 * bytesToNat t

/-- The first n little-endian bytes of a number. -/
def natToBytes : Nat → Nat → List Byte
  | 0, _ => []
  | n + 1, x => BitVec.ofNat 8 x :: natToBytes n (x / 256)

/-- An instruction from its bytes: 4 bytes are a sequencer word, 8 an operator word, both little-endian. -/
def decode (bs : List Byte) : Except DecodeError Instr :=
  if bs.length = 4 then decodeSq (BitVec.ofNat 32 (bytesToNat bs))
  else if bs.length = 8 then decodeOp (BitVec.ofNat 64 (bytesToNat bs))
  else .error .badLength

/-- The bytes of a sequencer instruction or fabric operator; empty for the other instructions. -/
def encode (i : Instr) : List Byte :=
  match encodeSq i, encodeOp i with
  | some w, _ => natToBytes 4 w.toNat
  | none, some w => natToBytes 8 w.toNat
  | none, none => []

/-- What the decoder reads from an instruction whose bits are w, numbered as the opcode table numbers them: up to 32
bits are a sequencer word, more are an operator word. -/
def decodeTableWord (nbits w : Nat) : Option Instr :=
  (if nbits ≤ 32 then decode (natToBytes 4 w) else decode (natToBytes 8 w)).toOption

end Sys2Proof
end

