-- ==== Sys2Proof/Machine/Tab.lean ====
section
/-! DEFINITION. Machine/Tab.lean: sparse tables. A table is a list of (key, value) pairs whose keys rise strictly
and of which no value equals the table's default, so that equal contents are equal lists. Memories of bytes are the
same thing with `Host.Cell` pairs and default 0. -/

namespace Sys2Proof.Machine

/-- A sparse table: unlisted keys hold the default that the reader passes. -/
abbrev Tab (α : Type) := List (Nat × α)

/-- The value at a key, or the default. -/
def tabGet {α : Type} : Tab α → Nat → α → α
  | [], _, d => d
  | (k', v) :: t, k, d => if k = k' then v else if k < k' then d else tabGet t k d

/-- Put a value at a key, dropping the entry when the value is the default. -/
def tabSet {α : Type} [DecidableEq α] : Tab α → Nat → α → α → Tab α
  | [], k, v, d => if v = d then [] else [(k, v)]
  | (k', v') :: t, k, v, d =>
    if k < k' then (if v = d then (k', v') :: t else (k, v) :: (k', v') :: t)
    else if k = k' then (if v = d then t else (k, v) :: t)
    else (k', v') :: tabSet t k v d

/-- Change the value at a key. -/
def tabMod {α : Type} [DecidableEq α] (t : Tab α) (k : Nat) (d : α) (f : α → α) : Tab α :=
  tabSet t k (f (tabGet t k d)) d

/-- Every key is above `lo` and keys rise strictly. -/
def tabRising {α : Type} : Option Nat → Tab α → Bool
  | _, [] => true
  | none, (k, _) :: t => tabRising (some k) t
  | some lo, (k, _) :: t => decide (lo < k) && tabRising (some k) t

/-- The canonical form: keys rise strictly and no entry holds the default. -/
def tabWf {α : Type} [DecidableEq α] (t : Tab α) (d : α) : Bool :=
  tabRising none t && t.all (fun p => !decide (p.2 = d))

/-- Byte memories in canonical form. -/
abbrev Memory := List Host.Cell

/-- A byte of a memory: what no entry lists reads as 0 (log entry 3). -/
def memByte (m : Memory) (a : Nat) : Byte := tabGet m a 0#8

/-- Store one byte. -/
def memSetByte (m : Memory) (a : Nat) (b : Byte) : Memory := tabSet m a b 0#8

/-- The canonical form of a byte memory. -/
abbrev memWf (m : Memory) : Bool := tabWf m 0#8

end Sys2Proof.Machine
end

