-- ==== Sys2Proof/Machine/State.lean ====
section
/-! DEFINITION. Machine/State.lean: everything the spec gives the machine to remember, as plain data, and the machine
right after reset. Families of registers (per site, per element context, per sequencer ...) are sparse tables whose
unlisted keys hold the family's reset value. -/

namespace Sys2Proof.Machine

/-! ## Tokens (R29, R39) -/

/-- KIND of a token (Table 1-2). -/
inductive TokKind where
  | data | header | marker | cut
deriving DecidableEq, Repr

/-- A token: 512-bit payload and sideband. `wrap`, `src`, `multi` and `rand` are what sinks, breakpoints and operators
know of the record beside its 20-bit SEQ (R26, R218, R219, R411): the wrap count of its source, the element that stamped
it, whether it descends from more than one source, and whether it is an output of `rand` (log entry 9). -/
structure Token where
  pay   : Line
  mask  : BitVec 16
  kind  : TokKind
  level : BitVec 3
  etag  : Bool
  seq   : BitVec 20
  wrap  : Word
  route : BitVec 10
  done  : BitVec 8
  rsv   : BitVec 4
  res   : ResWord
  src   : BitVec 20
  multi : Bool
  rand  : Bool
deriving DecidableEq, Repr

/-- The reset value of a context register: KIND 0, LANEMASK 0, zero payload and residues (R80). -/
def Token.zero : Token :=
  { pay := 0, mask := 0, kind := .data, level := 0, etag := false, seq := 0, wrap := 0, route := 0, done := 0,
    rsv := 0, res := 0, src := 0, multi := false, rand := false }

/-- A control token: value, boundary bit, parity bit, END wire (R449) and CUT wire (R242). -/
structure Ctl where
  v   : Bool
  b   : Bool
  par : Bool
  fin : Bool
  cut : Bool
deriving DecidableEq, Repr

/-! ## Element contexts -/

/-- States of `carry` (Table 15-6) and `invr` (Table 16-3). -/
inductive LoopState where
  | idle | loop | fibre | drain | hold
deriving DecidableEq, Repr

/-- One translation an `xlat` has emitted and must remember (R122). -/
structure Reissue where
  vpage  : Nat
  ppage  : Nat
  size   : Nat
  intent : BitVec 2
  gen    : BitVec 7
deriving DecidableEq, Repr

/-- State of one operator: a CT stage, a router slot or an AGN. Each field is used by the operators its comment
names, and is 0 or empty for the others. -/
structure OpSt where
  /-- records a source has stamped: {wraps, SEQ} (R26); also firings of a base-and-stride AGN (R291) -/
  count : Nat
  /-- decoder format loaded from a header (R34) -/
  fmt : BitVec 4
  /-- data tokens of the packet under way still to come (R35) -/
  rem : Nat
  /-- elements of the packet under way still to come -/
  elems : Nat
  /-- a header has been received since the load -/
  seen : Bool
  /-- header of the packet under way (`mma`, `pack`, `cap`, `wsld`) -/
  hdr : Option Token
  /-- loop state of `carry` and `invr` -/
  mode : LoopState
  /-- token held by `carry`, `invr` or a waiting stage -/
  held : Option Token
  /-- tokens gathered so far (`cpy` and `ld` transposition, `pack`, `lscan`) -/
  toks : List Token
  /-- results not yet delivered, each with its output port (R98, R96) -/
  res : List (Nat × Token)
  /-- awaited phase of `barr` and `bwait` (R328) -/
  phase : Option Word
  /-- level of a `cap` bucket (R184) and the device time of its last refill -/
  level : Nat
  lastRefill : Nat
  /-- the packet under way is being dropped or passed by `cap`, or selected by `steer`, `merge`, `gate` -/
  sel : Option Bool
  /-- `ldl` traversal: next address and nodes visited (R372) -/
  ptr : Option Nat
  visited : Nat
  /-- state x of `rand` (R399); 0 stands for "seed not yet taken" -/
  x : DWord
  /-- page element of a page-fed AGN and the virtual page it serves (R121) -/
  page : Option (Nat × DWord)
  /-- reissue log of an `xlat` (R122) -/
  relog : List Reissue
  /-- partition fault number the operator waits on (R123), with the failing address -/
  fault : Option (Nat × Nat)
  /-- the operator has emitted or forwarded its LEVEL 7 marker (R438) -/
  ended : Bool
  /-- the operator has forwarded the cut marker (R243) -/
  cut : Bool
  /-- device time of the last firing plus 1, 0 before the first (R257) -/
  lastFire : Nat
  /-- repair pass: ordinals still to re-inject (R220) -/
  repair : List Nat
  /-- control tokens and records consumed since the last boundary (AUX of CTLCOUNT) -/
  ctlN : Nat
  dataN : Nat
  /-- the packet under way is tagged by its control or ordering token (R39) -/
  tagged : Bool
  /-- device time since which an access waits at a leaf with MIG set (R127) -/
  mig    : Option Nat
  /-- an internal checker of the operator fires on its next data token (R216) -/
  chk    : Bool
  /-- a write of the request under way was suppressed by the parity banks (R206) -/
  lost   : Bool
  /-- the model's own: what of a request the next firing performs, elements as a mask for `ldx` and `stx`, a number of words or lines for `atom`
  and `cpy`; none is all of it (R137) -/
  part   : Option Nat
deriving DecidableEq, Repr

/-- State of an operator after a load. -/
def OpSt.zero : OpSt :=
  { count := 0, fmt := 0, rem := 0, elems := 0, seen := false, hdr := none, mode := .idle, held := none, toks := [],
    res := [], phase := none, level := 0, lastRefill := 0, sel := none, ptr := none, visited := 0, x := 0,
    page := none, relog := [], fault := none, ended := false, cut := false, lastFire := 0, repair := [], ctlN := 0, dataN := 0,
    tagged := false, mig := none, chk := false, lost := false, part := none }

/-- State of a record in the commute store (R192). -/
inductive SlotState where
  | waiting | dispatched (m : Nat) | complete
deriving DecidableEq, Repr

/-- One slot of the commute store. -/
structure KSlot where
  tok    : Token
  state  : SlotState
  hole   : Bool
  /-- device time of the dispatch, for the cost of the visit (R189) -/
  since  : Nat
  /-- number of the dispatch: a member returns its records in that order (R192) -/
  turn   : Nat
  /-- members a LEVEL 7 marker still has to return from (R194) -/
  owed   : List Nat
  /-- the return control token of a dispatched record has reached the group: its visit is over (R189) -/
  back   : Bool
deriving DecidableEq, Repr

/-- Live counters and latched statistics of one member (R189). -/
structure KMember where
  clat : Nat
  plat : Nat
  vis  : Nat
  pcnt : Nat
  csum : Nat
deriving DecidableEq, Repr

def KMember.zero : KMember := { clat := 0, plat := 0, vis := 0, pcnt := 0, csum := 0 }

/-- The commute store of a router context (R189 to R194). -/
structure Kelp where
  slots   : List KSlot
  members : Tab KMember
  lfsr    : BitVec 16
  klot    : Nat
  /-- member served last by the return round robin; 0 before any (DESIGN CHOICE: R192 names no first member; log entry 118) -/
  rr      : Nat
  /-- dispatches made -/
  turns   : Nat
  /-- statistics and LFSR are loaded from the configuration -/
  started : Bool
deriving DecidableEq, Repr

def Kelp.zero : Kelp := { slots := [], members := [], lfsr := 0, klot := 0, rr := 0, turns := 0, started := false }

/-- A lane-pipe pass in flight: the tokens it took from the ports as it entered S0, the stage it has reached, and the
token between the stages (R77, R292). -/
structure Pass where
  ports : Tab (Option Token)
  stage : Nat
  prev  : Option Token
deriving DecidableEq, Repr

/-- A breakpoint of one inbound slot (Table 11-1): its three written registers stand in the bank; this is HIT and TCNT, and
whether the slot holds its tokens since a hit (R252). -/
structure Brk where
  hit   : Bool
  tcnt  : Nat
  holds : Bool
deriving DecidableEq, Repr

def Brk.zero : Brk := { hit := false, tcnt := 0, holds := false }

/-- One context of a tile body or router. Registers of the configuration bank are keyed by field number below 48, and
by 64 + 16 * page + word for window pages (R282); unlisted keys hold the field's reset value. -/
structure ElemCtx where
  bank     : Tab Word
  shadow   : Option (Tab Word)
  armed    : Bool
  /-- tile inputs P0 to P3; inbound mesh slots are the sender's; slot inputs at 16 + 4 * slot + input,
  tokens that a hit breakpoint holds at 8 + direction (R253) -/
  inq      : Tab (List Token)
  inc      : Tab (List Ctl)
  /-- outbound channel slots, 2 tokens each (R87), per direction -/
  outq     : Tab (List Token)
  outc     : Tab (List Ctl)
  k        : Tab Token
  pass     : Option Pass
  /-- operators: stage s at s, router slot n at 16 + n, AGN n at 32 + n -/
  ops      : Tab OpSt
  kelp     : Kelp
  brk      : Tab Brk
  /-- II counters and channel-slot counters: key 16 * unit + index (Table 11-3, R258) -/
  ii       : Tab Nat
  /-- firings counted for trace sampling (R260) -/
  fires    : Nat
  /-- last GROUP received by mma and mmab, or none after a load (R82) -/
  group    : Option Byte
  /-- weight-store swaps asked for and not yet in effect (R82, R429) -/
  wsSwaps  : Nat
  task     : Option Nat
  released : Bool
  finished : Bool
  stopped  : Bool
  /-- the cut marker has been seen and the state captured (R243) -/
  captured : Bool
deriving DecidableEq, Repr

def ElemCtx.reset : ElemCtx :=
  { bank := [], shadow := none, armed := false, inq := [], inc := [], outq := [], outc := [], k := [], pass := none,
    ops := [], kelp := Kelp.zero, brk := [], ii := [], fires := 0, group := none, wsSwaps := 0,
    task := none, released := true, finished := false, stopped := false, captured := false }

/-- One staged configuration write (R277). -/
structure Staged where
  ctx    : BitVec 2
  shadow : Bool
  key    : Nat
  val    : Word
deriving DecidableEq, Repr

/-- The configuration port of one element: staged writes, running CRC and the stream it serves (R277, R280). -/
structure CfgPort where
  staged : List Staged
  crc    : Word
  /-- stream being served: 0 none, 1 the PC's, 2 + b the loader of block b, 100 + uid a task load -/
  owner  : Nat
deriving DecidableEq, Repr

def CfgPort.reset : CfgPort := { staged := [], crc := 0xFFFFFFFF#32, owner := 0 }

/-! ## Sites -/

/-- A pending parity update (R205): its row, delta and the fc in which the write was made. -/
structure ParEntry where
  row   : Nat
  delta : Line
  at_   : Nat
deriving DecidableEq, Repr

/-- Axolotl state of one memory tile (R201 to R213). Banks are numbered 0 to 15 (data) and 16 to 19 (parity). -/
structure Axolotl where
  bpctl   : Word
  /-- retired banks per group, in order of retirement, as bank numbers within the group (4 is parity) -/
  retired : Tab (List Nat)
  parity  : Tab Line
  pipes   : Tab (List ParEntry)
  recon   : Nat
  degrd   : Nat
  rwait   : Nat
  wstall  : Nat
  scrpm   : Nat
  sweeps  : Nat
  ue      : Nat
  ce      : Tab Nat
  /-- rows that hold an error: key bank * 2048 + row, value 1 correctable, 2 uncorrectable -/
  errs    : Tab Nat
  /-- corrected rows waiting for the bank's next idle fc (R206) -/
  fixes   : List (Nat × Nat)
  scrub   : Nat
  lastScrub : Nat
  /-- place that the arbiter's round robin served last (R203); 7 before any, so that AGN0 comes first (DESIGN CHOICE, log entry 118) -/
  rr      : Nat
  /-- banks taken, each with its fc (R203) -/
  busy    : List (Nat × Nat)
deriving DecidableEq, Repr

def Axolotl.reset : Axolotl :=
  { bpctl := 0x0000402B#32, retired := [], parity := [], pipes := [], recon := 0, degrd := 0, rwait := 0, wstall := 0,
    scrpm := 0, sweeps := 0, ue := 0, ce := [], errs := [], fixes := [], scrub := 0, lastScrub := 0, rr := 7,
    busy := [] }

/-- A cached translation (R99, R126). -/
structure Tlb where
  part  : Nat
  vbase : Nat
  size  : Nat
  pte   : DWord
  level : Nat
deriving DecidableEq, Repr

/-- Registers and shared state of one site. -/
structure Site where
  ctxarb   : Word
  ptr      : BitVec 2
  credit   : Tab Nat
  skip     : Tab Nat
  iovf     : BitVec 4
  faulted  : Bool
  fctx     : BitVec 2
  /-- ECNT and TSUP of the tile body (keys 0, 1) and of the router (keys 2, 3) -/
  ecnt     : Tab Nat
  miscnt   : Nat
  lslot    : BitVec 4
  lroute   : BitVec 10
  rsvhit   : Bool
  mtcfg    : Word
  /-- occupancy summed over the window, per context, and the window's start (R45) -/
  occ      : Tab Nat
  occStart : Nat
  /-- device time plus 1 of the last RESIDUE record, per ELEM * 4 + context (R215) -/
  resLast  : Tab Nat
  xtc      : List Tlb
  gsq      : Nat
  ax       : Axolotl
  retiredTile : Bool
  /-- context whose slot a channel looks at first: key 2 * direction, plus 1 for the control channel (R87) -/
  rr       : Tab Nat
deriving DecidableEq, Repr

def Site.reset : Site :=
  { ctxarb := 0x00040000#32, ptr := 0, credit := [], skip := [], iovf := 0, faulted := false, fctx := 0, ecnt := [],
    miscnt := 0, lslot := 0, lroute := 0, rsvhit := false, mtcfg := 0x00000012#32, occ := [], occStart := 0,
    resLast := [], xtc := [], gsq := 0, ax := Axolotl.reset, retiredTile := false, rr := [] }

/-! ## Sequencers -/

/-- What a sequencer waits for at a page fault: the fault number, the address, and whether it is of a fetch (R123, R124). -/
structure SqHold where
  fseq  : Nat
  va    : Nat
  fetch : Bool
deriving DecidableEq, Repr

/-- One sequencer core (R103 to R106, R335). -/
structure Sq where
  run      : Bool
  failed   : Bool
  pc       : DWord
  g        : Tab DWord
  ie       : Bool
  ppl      : Bool
  pie      : Bool
  divz     : Bool
  priv     : Bool
  cause    : DWord
  epc      : DWord
  tvec     : DWord
  scratch  : DWord
  evBase   : BitVec 25
  evTail   : BitVec 9
  evHead   : BitVec 9
  evSeq    : Word
  /-- events held at their producers while the ring is full (R105) -/
  evHeld   : List (BitVec 256)
  part     : BitVec 8
  rej      : Bool
  rejWord  : Word
  tskq     : BitVec 12
  /-- words the loader has still to fetch: (address, count) ranges and immediate words, in order (R335) -/
  stream   : List (Nat × Nat ⊕ Word)
  /-- words fetched of the open command, command word first -/
  opened   : List Word
  rb       : List Word
  icache   : List (Nat × Word)
  tlb      : List Tlb
  hold     : Option SqHold
  /-- an arrival of `bara` whose count is being added in portions (R248) -/
  arrival  : Option (Nat × Nat)
  /-- the instruction at pc is under way and takes no event interrupt before it ends (R239, R408, R426) -/
  within   : Bool
  /-- page fault that a fetch of the loader waits on (R335) -/
  lfault   : Option Nat
  /-- stores to device memory whose instruction is over and which are not performed yet (R134, R353): address and bytes, oldest first -/
  pend     : List (Nat × List Byte)
  /-- the model's own: the next store to device memory is performed later -/
  defer    : Bool
deriving DecidableEq, Repr

def Sq.reset : Sq :=
  { run := false, failed := false, pc := 0, g := [], ie := false, ppl := false, pie := false, divz := false,
    priv := true, cause := 0, epc := 0, tvec := 0, scratch := 0, evBase := 0, evTail := 0, evHead := 0, evSeq := 0,
    evHeld := [], part := 0, rej := false, rejWord := 0, tskq := 0, stream := [], opened := [], rb := [],
    icache := [], tlb := [], hold := none, arrival := none, within := false, lfault := none, pend := [], defer := false }

/-! ## Partitions, queues, launches, tasks -/

/-- A sealing log record (Table 4-13). -/
structure SealRec where
  vbase  : Nat
  len    : Nat
  time   : Nat
  digest : Line
deriving DecidableEq, Repr

/-- A page fault the device has posted, or holds for want of room in the queue (R123). -/
structure PageFault where
  fseq   : Nat
  va     : Nat
  ea     : EAddr
  src    : Nat
  ctx    : BitVec 2
  intent : BitVec 2
  launch : BitVec 16
  tindex : BitVec 16
  posted : Bool
  status : Nat
  /-- device time of the fault, for R125 and R307 -/
  time   : Nat
  /-- ring slot it was written to -/
  slot   : Nat
deriving DecidableEq, Repr

/-- A fault record (Table 10-2), as 64 bytes, with the block whose sequencer gets its event. -/
structure FaultRec where
  bytes : List Byte
  blk   : Nat
  task  : Option Nat
  stop  : Bool
deriving DecidableEq, Repr

/-- An unload record of the attestation log (R256). -/
structure Unload where
  blk  : Nat
  time : Nat
deriving DecidableEq, Repr

/-- One partition. -/
structure Part where
  pxen    : Bool
  root    : BitVec 52
  gen     : BitVec 7
  fqHead  : BitVec 11
  fqBase  : BitVec 52
  fqTail  : BitVec 11
  fseq    : Nat
  faults  : List PageFault
  frHead  : BitVec 11
  frBase  : BitVec 52
  frTail  : BitVec 11
  fnum    : Nat
  frHeld  : List FaultRec
  cutno   : Word
  seals   : List SealRec
  /-- sealed ranges and the physical frames recorded for them: (vbase, size, pbase) (R131) -/
  sealedVa : List (Nat × Nat × Nat)
  keys    : List (DWord × BitVec 4096)
  ptrace  : DWord
  ptrcb   : DWord
  apertures : Tab (Option Aperture)
  /-- package blocks of the partition's rectangle -/
  blocks  : List Nat
deriving DecidableEq, Repr

def Part.reset : Part :=
  { pxen := false, root := 0, gen := 0, fqHead := 0, fqBase := 0, fqTail := 0, fseq := 0, faults := [], frHead := 0,
    frBase := 0, frTail := 0, fnum := 0, frHeld := [], cutno := 0, seals := [], sealedVa := [], keys := [],
    ptrace := 0, ptrcb := 0, apertures := [], blocks := [] }

/-- One work queue (Table 6-1) with its MSIQV entry (R308). -/
structure WorkQueue where
  en     : Bool
  prio   : BitVec 3
  evt    : Bool
  evsq   : BitVec 6
  ringsz : BitVec 4
  part   : BitVec 8
  pos    : DWord
  tail   : Word
  cbase  : DWord
  ctail  : Word
  chead  : Word
  halt   : Bool
  hcode  : BitVec 4
  acc    : Word
  /-- completion entries held while the ring is full (R182) -/
  held   : List (BitVec 256)
  msi    : BitVec 16
  msiOut : Bool
  /-- fault number a record read waits on (R160) -/
  fault  : Option Nat
deriving DecidableEq, Repr

def WorkQueue.reset : WorkQueue :=
  { en := false, prio := 0, evt := false, evsq := 0, ringsz := 0, part := 0, pos := 0, tail := 0, cbase := 0,
    ctail := 0, chead := 0, halt := false, hcode := 0, acc := 0, held := [], msi := 0, msiOut := false,
    fault := none }

/-- An operand declaration (Table 6-3). -/
structure Decl where
  base  : DWord
  width : Word
  nrows : Word
  pitch : DWord
  mode  : Byte
deriving DecidableEq, Repr

/-- A dependence (R166). -/
structure Dep where
  queue : BitVec 16
  kind  : BitVec 16
  arg   : Word
  phase : Word
deriving DecidableEq, Repr

/-- A launch: the task record as accepted (Table 6-2). -/
structure Launch where
  ord    : Nat
  queue  : BitVec 12
  /-- its ACC position in its queue, 0 for a spawn (R166, R413) -/
  pos    : Nat
  part   : Nat
  prio   : BitVec 3
  graph  : DWord
  param  : DWord
  tstamp : DWord
  rows   : Nat
  cols   : Nat
  flags  : Word
  pflim  : Nat
  wdog   : Nat
  cbsh   : Nat
  decls  : List Decl
  deps   : List Dep
  widths : List Nat
  dlev   : Nat
  exts   : List Nat
  /-- late key: the horizon's timestamp at acceptance (R151) -/
  late   : Option DWord
  /-- replay of this earlier launch (R177) -/
  replays : Option Nat
  slot   : Nat
  /-- the parameter block copied into that slot (R177) -/
  block  : Option (List Byte)
  joined : Bool
  /-- tasks of the launch that have committed or ended, and how many it has -/
  ended  : Nat
  total  : Nat
deriving DecidableEq, Repr

/-- Where a task stands. -/
inductive TaskPhase where
  | waiting | ready | loading | loaded | running | finished | repairing | cutting | suspended | freezing | ended
deriving DecidableEq, Repr

/-- An atomic recorded in the commit buffer (R148) or applied at once: operation, format and operands. -/
structure AtomOp where
  op   : BitVec 3
  fmt  : BitVec 4
  arg  : DWord
  cmp  : DWord
  /-- success of a `cas`, decided from the observed value -/
  ok   : Bool
deriving DecidableEq, Repr

/-- A commit-buffer entry (R145, R152), with the site of the MT whose CB holds it. -/
inductive CbEntry where
  | store (mt : Nat) (line : Nat) (bmask : DWord) (data : Line)
  | atomic (mt : Nat) (pa : Nat) (op : AtomOp)
  | spawn (mt : Nat) (queue : BitVec 12) (trec tstamp param : DWord)
deriving DecidableEq, Repr

/-- One entry of the repair list (R218). -/
structure Repair where
  ord : Nat
  src : BitVec 20
deriving DecidableEq, Repr

/-- The state of one element context written at a cut (R243, R245): what the records hold and what stays in place, and
whether the record stands in the save area or in the partition's spill. -/
structure Saved where
  key  : Nat
  ctx  : ElemCtx
  area : Bool
  /-- bytes of its records -/
  size : Nat
  /-- operators whose `mchk` MCACK has answered meanwhile (R226) -/
  go   : List Nat
deriving DecidableEq, Repr

/-- A fault that ends a task: completion class, reason, unit, detail, address (R181, R236, R237). -/
structure EndWith where
  cls    : BitVec 4
  reason : Byte
  unit   : BitVec 16
  detail : Word
  addr   : DWord
  /-- device time of the fault (R71, R236) -/
  time   : Nat := 0
deriving DecidableEq, Repr

/-- One task (R24, R145 to R155). `uid` is launch ordinal * 2^32 + index. -/
structure Task where
  uid     : Nat
  index   : Nat
  phase   : TaskPhase
  /-- package row and column of the region's origin, and the rotation ρ (R168) -/
  row0    : Nat
  col0    : Nat
  rho     : Nat
  /-- time of entry into the ready pool, and bypass count (R167, R169) -/
  readyAt : Nat
  bypass  : Nat
  /-- speculative slot (R145) -/
  slot    : Option Nat
  irrev   : Bool
  /-- it commits write-throughs: became irrevocable by overflow or was admitted so -/
  wthrough : Bool
  aborts  : Nat
  preempts : Nat
  wstores : Nat
  spldn   : Bool
  /-- splice predecessor task, when it takes over its sites (R174) -/
  pred    : Option Nat
  cb      : List CbEntry
  rsig    : BitVec 4096
  wsig    : BitVec 4096
  repair  : List Repair
  repaired : Nat
  poisoned : Bool
  fault   : Option EndWith
  /-- number and reason of the cut under way or taken (R242) -/
  cutNo   : Word
  cutWhy  : BitVec 4
  saved   : List Saved
  /-- records of the whole region in the partition's save spill (R245); their address in HBM4 is the PC's (log entry 53) -/
  spill   : List Byte
  /-- the placed configuration image: what the bank of each used element context holds (R176) -/
  image   : List (Nat × Tab Word)
  /-- initial tokens of its edges: element context key, queue and token (R37) -/
  inits   : List (Nat × Nat × Token)
  /-- element context keys the configuration uses, and CTs whose WS and ACS it keeps -/
  uses    : List Nat
  /-- declared II of its AGNs and slots: element context key, operator, II (R257) -/
  iis      : List (Nat × Nat × Nat)
  /-- barrier objects its graph binds (R249), and the EXP that binding gives each (R140, R248) -/
  binds   : List Nat
  exps    : List Nat
  /-- the last device time at which one of its elements fired (R50, R236) -/
  lastFire : Nat
  /-- time in which the watchdog does not count (R50) -/
  excused : Nat
  /-- page fault on which a suspended task, or a spawn request of a committed one, waits (R125, R413) -/
  pxFault : Option Nat
  /-- a cut ordered of an irrevocable task that waits for a free slot, by its reason (R145) -/
  cutReq : Option (BitVec 4)
deriving DecidableEq, Repr

/-! ## Engines, barriers, monitors, host -/

/-- An entry of an engine queue (R178, R180): a 64-byte command in its ring slot, or a fence naming queues. -/
inductive EngItem where
  | cmd
  | fence (names : List Nat) (waits : List (Nat × Nat))
deriving DecidableEq, Repr

/-- One engine queue (Table 6-10) and the entry in progress. -/
structure EngQueue where
  en     : Bool
  eng    : BitVec 2
  rsz    : BitVec 4
  rbase  : DWord
  cwaddr : DWord
  appn   : Word
  donen  : Word
  items  : List EngItem
  /-- status of the entry performed, waiting for ENGINE_COMPLETE (R179) -/
  status : Option Byte
  /-- digest mismatch and the like aside, a migration between its steps: va, pa, size, old entry, new pa, pte address -/
  mig    : Option (Nat × Nat × Nat × DWord × Nat × Nat)
  fault  : Option Nat
  /-- lines or blocks of the head entry that have been moved (R157) -/
  moved  : Nat
  /-- the model's own: how many more its next step moves; none is all of them -/
  limit  : Option Nat
deriving DecidableEq, Repr

def EngQueue.reset : EngQueue :=
  { en := false, eng := 0, rsz := 0, rbase := 0, cwaddr := 0, appn := 0, donen := 0, items := [], status := none,
    mig := none, fault := none, moved := 0, limit := none }

/-- Stall counters of one engine of a block (R259): the counters by cause, the fc last counted plus 1, whether BUSY rose in it and the cause
charged in it; 0 is none. -/
structure EngStalls where
  counts : Tab Nat
  fc     : Nat
  busy   : Bool
  cause  : Nat
deriving DecidableEq, Repr

def EngStalls.reset : EngStalls := { counts := [], fc := 0, busy := false, cause := 0 }

/-- An arrival held at its source (R248): source element address or 0xFFC0 + block, the node that makes it (element
context key * 64 + stage, or 2^32 + block), and what is still to add. -/
structure Arrival where
  src   : BitVec 16
  who   : Nat
  count : Nat
deriving DecidableEq, Repr

/-- A barrier object (Table 10-8). -/
structure Barrier where
  exp   : BitVec 24
  evt   : Bool
  evsq  : BitVec 6
  en    : Bool
  part  : BitVec 8
  park  : Bool
  arr   : BitVec 24
  phase : Word
  mbox  : BitVec 52
  held  : List Arrival
  /-- groups whose failed checks withhold the release (R226) -/
  pending : List Nat
  /-- tasks whose cuts keep it parked (R249) -/
  parkers : List Nat
  /-- releases to deliver at restore (R250) -/
  owed  : Nat
  /-- device time since which it is parked or a failed check withholds its release: the watchdog does not count (R226, R250) -/
  since : Nat
deriving DecidableEq, Repr

def Barrier.reset : Barrier :=
  { exp := 1, evt := false, evsq := 0, en := false, part := 0, park := false, arr := 0, phase := 0, mbox := 0,
    held := [], pending := [], parkers := [], owed := 0, since := 0 }

/-- A Bloodhound channel (Table 9-3). Stream-port channels carry their partition. -/
structure Channel where
  cfg  : Word
  q    : BitVec 12
  base : BitVec 52
  lim  : BitVec 52
  str  : Word
  off  : Word
  bnd  : DWord
  ref  : BitVec 320
  sum  : BitVec 320
  stat : BitVec 4
  part : BitVec 8
  /-- total of the last failed check, for MODE 1 after MCACK (R227) -/
  total : BitVec 320
  /-- waiting `mchk` of elements, key * 64 + stage, each with the device time of its check (R226) -/
  waiters : List (Nat × Nat)
deriving DecidableEq, Repr

def Channel.reset : Channel :=
  { cfg := 0, q := 0xF6B#12, base := 0, lim := 0, str := 0, off := 0, bnd := 0, ref := 0, sum := 0, stat := 0,
    part := 0, total := 0, waiters := [] }

/-- A host request to the device-memory window that waits on a page fault (R307). -/
structure HostReq where
  off    : Nat
  data   : List Byte
  len    : Nat
  write  : Bool
  posted : Bool
  fseq   : Nat
  part   : Nat
  time   : Nat
deriving DecidableEq, Repr

/-- The answers the host has received. -/
inductive HostAnswer where
  | data (bytes : List Byte)
  | abort
deriving DecidableEq, Repr

/-- Entries of the PC's error log and telemetry (R106, R229, R241). -/
inductive PcLog where
  | sqHalted (blk : Nat)
  | windowDropped (pa : Nat)
  | mtcfgIgnored (site : Nat)
  | retiredBank (site bank : Nat)
  | retiredTile (site : Nat)
  | portDown (port : Nat)
  | capIgnored (watts : Nat)
  | firmwareRefused (pa : Nat)
  | fatal (cause ea : Nat)
  | mailbox (op status : Nat)
deriving DecidableEq, Repr

/-- A guardband record (R233). -/
structure Guardband where
  time : Nat
  die  : Nat
  mv   : Nat
  ps   : Nat
  tiles : Nat
deriving DecidableEq, Repr

/-- A mailbox request that a partition kernel passed by `svc` 31, waiting for the PC (R309, R420). -/
structure MboxReq where
  blk  : Nat
  addr : Nat
  op   : Byte
  words : List Word
deriving DecidableEq, Repr

/-- A debug request of `mark` or `rsm` (R380, R401). -/
structure DebugReq where
  blk    : Nat
  part   : Nat
  addr   : Nat
  resume : Bool
  /-- the task that the request acts on, once it is served -/
  uid    : Option Nat
deriving DecidableEq, Repr

/-- Sequence state of one link end (R91): the next number to send, the last acknowledged, the next expected, flits kept until they are
acknowledged, flits accepted, flits put on the wire in order, consecutive failed retries, and transmissions of a die edge that the outside
world is about to corrupt. -/
structure Link where
  next   : BitVec 16
  acked  : BitVec 16
  expect : BitVec 16
  unacked : List Flit
  delivered : List Flit
  wire   : List Flit
  fails  : Nat
  down   : Bool
  lossy  : Nat
deriving DecidableEq, Repr

def Link.reset : Link :=
  { next := 0, acked := 0, expect := 0, unacked := [], delivered := [], wire := [], fails := 0, down := false, lossy := 0 }

/-- What a destructive unload reads of a block (R111, R256): element contexts with their queues, configuration ports, sites with their XTC and
parity banks, data rows, weight and accumulator stores, local data RAM, sequencer, engine queues and commit-buffer entries; the SECDED check
bits of the data rows (by number) and parity rows (by site * 8192 + group * 2048 + row) that are not zero, and those of a row of zeros. -/
structure Readout where
  blk     : BitVec 6
  elems   : Tab ElemCtx
  ports   : Tab CfgPort
  sites   : Tab Site
  spad    : Memory
  ws      : Tab Line
  acs     : Tab Word
  lram    : Memory
  sq      : Sq
  engines : Tab EngQueue
  cb      : List CbEntry
  checks  : List (Nat × Nat)
  parityChecks : List (Nat × Nat)
  zeroCheck : Nat
deriving DecidableEq, Repr

/-- A line that the sequencer (unit 0) or an engine queue (unit 1 + queue) of one side of a lockstep pair has presented: the block's place
in its partition, the side's partition, the line write, and since when it waits (R261, R262). -/
structure LsWrite where
  idx   : Nat
  unit  : Nat
  part  : Nat
  line  : Nat
  mask  : Nat
  data  : List Byte
  since : Nat
deriving DecidableEq, Repr

/-- The platform: status, time, power, boot, attestation (14). -/
structure Plat where
  state    : BitVec 3
  synclost : Bool
  retire   : Bool
  boots    : BitVec 16
  lastSync : Nat
  waps     : Tab DWord
  capw     : BitVec 12
  noww     : BitVec 12
  limited  : Bool
  rateLim  : Bool
  meas     : Line
  pclog    : List PcLog
  guard    : List Guardband
  /-- supply offset of each die in mV, and the device time of the last re-plan (R233) -/
  supply   : Tab Nat
  planned  : Nat
  unloads  : List Unload
  /-- what the last destructive unload has read (R256) -/
  readout  : Option Readout
  debugOk  : Option (BitVec 6)
  msis     : List (BitVec 11)
  answers  : List HostAnswer
  reqs     : List HostReq
  mbox     : List MboxReq
  dbgReqs    : List DebugReq
  reports  : List (List Byte)
  lspair   : DWord
  /-- commit streams of the two sides of a lockstep pair that wait for each other (R261): partition, task, since -/
  lsWait   : Option (Nat × Nat × Nat)
  /-- line writes of sequencers and engines of a lockstep pair that wait for the other side's (R261) -/
  lsWrites : List LsWrite
  mbxbase  : BitVec 52
  /-- hour of device time whose correctable errors are being counted (R208) -/
  hour     : Nat
  /-- members of each collective group: (rank, partition) (R311) -/
  groups   : Tab (List (Nat × Nat))
deriving DecidableEq, Repr

/-- The platform after reset (Tables 14-2, 14-3, 14-6; R313). -/
def Plat.reset : Plat :=
  { state := 1, synclost := false, retire := false, boots := 0, lastSync := 0, waps := [], capw := 0x7D0#12,
    noww := 0, limited := false, rateLim := false, meas := 0, pclog := [], guard := [], supply := [], planned := 0,
    unloads := [], readout := none, debugOk := none, msis := [], answers := [], reqs := [], mbox := [], dbgReqs := [],
    reports := [], lspair := 0, lsWait := none, lsWrites := [], mbxbase := 0, hour := 0, groups := [] }

/-! ## What acts next -/

/-- The unit on whose behalf the instruction of a step runs. -/
inductive Focus where
  | none
  | sq (blk : BitVec 6)
  | loader (blk : BitVec 6)
  | engine (blk : BitVec 6) (q : BitVec 4)
  | stage (ea : EAddr) (ctx : BitVec 2)
  | slot (ea : EAddr) (ctx : BitVec 2) (n : Nat)
  | agn (ea : EAddr) (ctx : BitVec 2) (n : Nat)
  | task (uid : Nat)
deriving DecidableEq, Repr

/-- What the outside world does to the hardware itself, which no instruction does. -/
inductive Upset where
  /-- the next n transmissions over a link fail (R91) -/
  | link (k n : Nat)
  /-- the next store of a sequencer to device memory is performed after its instruction (R134) -/
  | postpone (blk : BitVec 6)
  /-- a store of a sequencer that has waited is performed (R134) -/
  | perform (blk : BitVec 6) (n : Nat)
  /-- an internal checker of a stage fires on the stage's next data token (R216) -/
  | checker (ea : EAddr) (ctx : BitVec 2) (stage : Nat)
  /-- a row of a bank of a memory tile suffers an error: 1 correctable, 2 uncorrectable (R206) -/
  | row (site : SiteNo) (bank row err : Nat)
  /-- a word of the configuration stream into an element is corrupted on its way: the CRC-32C of the stream fails (R173, R275) -/
  | config (ea : EAddr)
  /-- a line of device memory suffers an uncorrectable error (R127, R404) -/
  | memory (pa : Nat)
  /-- the next firing of an AGN performs only a part of its request (R134, R137) -/
  | portion (site : SiteNo) (ctx agn : BitVec 2) (n : Nat)
  /-- the next step of an engine queue moves at most n lines or blocks (R157) -/
  | lines (blk : BitVec 6) (q : BitVec 4) (n : Nat)
deriving DecidableEq, Repr

/-- A coming move of the machine or of the outside world. -/
inductive Move where
  /-- the outside world upsets the hardware -/
  | upset (u : Upset)
  /-- an event, command or host operation happens, on behalf of a unit -/
  | event (at_ : Focus) (i : Instr)
  /-- the sequencer of a block runs one instruction -/
  | sq (blk : BitVec 6)
  /-- the loader of a block sends one command -/
  | loader (blk : BitVec 6)
  /-- an engine starts the head entry of a queue -/
  | engine (blk : BitVec 6) (q : BitVec 4)
  /-- the context counter of a site chooses and a context fires -/
  | tile (site : SiteNo)
  /-- the pass of a context goes on by one stage -/
  | stage (ea : EAddr) (ctx : BitVec 2)
  /-- a control-operator slot of a router fires -/
  | slot (ea : EAddr) (ctx : BitVec 2) (n : Nat)
  /-- an address-generator node fires -/
  | agn (ea : EAddr) (ctx : BitVec 2) (n : Nat)
deriving DecidableEq, Repr

/-- The whole machine. -/
structure State where
  /-- device time in ns, one per fc (R3, R17) -/
  time     : Nat
  sites    : Tab Site
  /-- element contexts: key element address * 4 + context -/
  elems    : Tab ElemCtx
  /-- configuration ports: key element address -/
  ports    : Tab CfgPort
  dmem     : Memory
  spad     : Memory
  lram     : Memory
  ws       : Tab Line
  acs      : Tab Word
  /-- owner of each 2 MiB frame plus 1; 0 is none (R119) -/
  frames   : Tab Nat
  /-- 4 KiB physical frames that are sealed (R130) -/
  sealed   : List Nat
  /-- device time in ms of the last access of each 4 KiB frame, as the memory controllers keep it (R128) -/
  touched  : Tab Nat
  /-- 64-byte lines of device memory, by number, that cannot be read correctly (R127, R404) -/
  bad      : List Nat
  sqs      : Tab Sq
  parts    : Tab Part
  queues   : Tab WorkQueue
  launches : List Launch
  tasks    : List Task
  ordinal  : Nat
  /-- timestamp, ordinal and index of the last commit (R135) -/
  horizon  : Option (Nat × Nat × Nat)
  /-- device time plus 1 of the last admission of each die's unit (R167) -/
  admits   : Tab Nat
  /-- cache keys of the placements Chameleon has made (R171) -/
  mapped   : List Line
  engines  : Tab EngQueue
  /-- stall counters of the engines: key block * 4 + engine (R259) -/
  stalls   : Tab EngStalls
  barriers : Tab Barrier
  /-- entries held in each barrier mailbox, per TD slot (R249) -/
  mboxes   : Tab Nat
  channels : Tab Channel
  links    : Tab Link
  plat     : Plat
  /-- the model's own: the acting unit, coming moves, operators still to run in this fc, place of the default
  rotation, fc the coming steps take, counter of free values -/
  focus    : Focus
  agenda   : List Move
  burst    : List Move
  turn     : Nat
  elapse   : List Nat
  free     : Nat
deriving DecidableEq, Repr

/-- The machine right after device reset: sequencers halted (R106), queues disabled (R159), memories with nothing
listed, DEVSTAT.STATE booting (Table 14-2). -/
def State.reset : State :=
  { time := 0, sites := [], elems := [], ports := [], dmem := [], spad := [], lram := [], ws := [], acs := [],
    frames := [], sealed := [], touched := [], bad := [], sqs := [], parts := [], queues := [], launches := [], tasks := [], ordinal := 0,
    horizon := none, admits := [], mapped := [], engines := [], stalls := [], barriers := [], mboxes := [], channels := [], links := [],
    plat := Plat.reset, focus := .none, agenda := [], burst := [], turn := 0, elapse := [], free := 0 }

/-! ## Stops -/

/-- Faults: the model stops. -/
inductive Fault where
  /-- raised by a step whose coming move names a unit that does not exist (R11, R12): a site beyond column 39, or an
  element address that names no element. Safe: no such unit exists to act. -/
  | noSuchUnit
deriving DecidableEq, Repr

/-- Refusals: the instruction has no meaning where it stands. -/
inductive Refusal where
  /-- raised by an arm of the dispatch that has no meaning yet. Safe. -/
  | notModelled (mnemonic : String)
  /-- raised by an operator or command run on behalf of a unit that does not execute its class (Table 13-2): such a
  word is rejected at load and never executed (R289). Safe. -/
  | wrongElement
deriving DecidableEq, Repr

end Sys2Proof.Machine
end

