-- ==== Sys2Proof/Machine/Ops.lean ====
section
/-! DEFINITION. Machine/Ops.lean: the named operations over registers and memories: element addresses, accessors of
every family of registers, bytes and words of memories, scratchpad addresses, and taking and leaving a sequencer
trap (R241). -/

namespace Sys2Proof.Machine

/-- The outcome of a step of this machine. -/
abbrev Result := Host.Outcome State Fault Refusal

/-! ## Element addresses (R6 to R12, R102, R110) -/

/-- ELEM of an element address. -/
def eaElem (ea : EAddr) : Nat := (ea.extractLsb' 0 3).toNat
/-- X, the column within the die. -/
def eaX (ea : EAddr) : Nat := (ea.extractLsb' 3 6).toNat
/-- Y, the row within the die. -/
def eaY (ea : EAddr) : Nat := (ea.extractLsb' 9 5).toNat
/-- DIE. -/
def eaDie (ea : EAddr) : Nat := (ea.extractLsb' 14 2).toNat
/-- The site of an element address. -/
def eaSite (ea : EAddr) : SiteNo := ea.extractLsb' 3 13
/-- The element ELEM of a site. -/
def siteEa (site : SiteNo) (elem : BitVec 3) : EAddr := site ++ elem
/-- A site holds an MT when X mod 5 is 4 (R6). -/
def siteIsMt (site : SiteNo) : Bool := (site.extractLsb' 0 6).toNat % 5 == 4
/-- X of a site is a column of the die. -/
def siteExists (site : SiteNo) : Bool := decide ((site.extractLsb' 0 6).toNat < 40)
/-- A 16-bit value names an element (R12). -/
def eaExists (ea : EAddr) : Bool :=
  siteExists (eaSite ea) && decide (eaElem ea < 4) && (decide (eaElem ea < 2) || siteIsMt (eaSite ea))
/-- Package row (R7). -/
def siteRow (site : SiteNo) : Nat := 32 * ((site.extractLsb' 11 2).toNat / 2) + (site.extractLsb' 6 5).toNat
/-- Package column (R7). -/
def siteCol (site : SiteNo) : Nat := 40 * ((site.extractLsb' 11 2).toNat % 2) + (site.extractLsb' 0 6).toNat
/-- The site at a package row and column. -/
def siteAt (row col : Nat) : SiteNo :=
  BitVec.ofNat 13 ((2 * (row / 32) + col / 40) * 2048 + (row % 32) * 64 + col % 40)
/-- Package block of a site (R8). -/
def siteBlock (site : SiteNo) : Nat :=
  16 * (site.extractLsb' 11 2).toNat + 4 * ((site.extractLsb' 6 5).toNat / 8) + (site.extractLsb' 0 6).toNat / 10
/-- The MT of index m (0 to 15) in a block (R110). -/
def blockMt (blk m : Nat) : SiteNo :=
  BitVec.ofNat 13 ((blk / 16) * 2048 + (8 * (blk % 16 / 4) + m / 2) * 64 + (5 * (2 * (blk % 4) + m % 2) + 4))
/-- MT index of an MT site within its block (R85). -/
def siteMtIndex (site : SiteNo) : Nat :=
  2 * ((site.extractLsb' 6 5).toNat % 8) + (site.extractLsb' 0 6).toNat / 5 % 2
/-- The MT whose save area serves a site: the MT of its row at X mod 10 = 4 or 9 (R102). -/
def siteSaveMt (site : SiteNo) : SiteNo :=
  let x := (site.extractLsb' 0 6).toNat
  BitVec.ofNat 13 (site.toNat / 64 * 64 + (x / 5 * 5 + 4))
/-- The site of an FSA (R109). -/
def fsaSite (a : Nat) : SiteNo :=
  BitVec.ofNat 13 ((a / 2 ^ 29 % 4) * 2048 + (a / 2 ^ 24 % 32) * 64 + (5 * (a / 2 ^ 21 % 8) + 4))
/-- The neighbour of a site in a direction, 0 north, 1 east, 2 south, 3 west (R87); none at the package's edge, nor across a north-south
die edge from the router of an MT column, which has no crossing channel (R90). -/
def siteNeighbour (site : SiteNo) (dir : BitVec 2) : Option SiteNo :=
  let r := siteRow site
  let c := siteCol site
  match dir.toNat with
  | 0 => if r = 0 ∨ (r = 32 ∧ siteIsMt site = true) then none else some (siteAt (r - 1) c)
  | 1 => if c = 79 then none else some (siteAt r (c + 1))
  | 2 => if r = 63 ∨ (r = 31 ∧ siteIsMt site = true) then none else some (siteAt (r + 1) c)
  | _ => if c = 0 then none else some (siteAt r (c - 1))
/-- Key of an element context. -/
def elemKey (ea : EAddr) (ctx : BitVec 2) : Nat := ea.toNat * 4 + ctx.toNat
/-- Element address of a context key. -/
def keyEa (k : Nat) : EAddr := BitVec.ofNat 16 (k / 4)
/-- Context of a context key. -/
def keyCtx (k : Nat) : BitVec 2 := BitVec.ofNat 2 k

/-! ## Accessors -/

namespace State

/-- A site's registers. -/
def site (s : State) (n : SiteNo) : Site := tabGet s.sites n.toNat Site.reset
/-- Replace a site's registers. -/
def setSite (s : State) (n : SiteNo) (v : Site) : State := { s with sites := tabSet s.sites n.toNat v Site.reset }
/-- An element context. -/
def elem (s : State) (ea : EAddr) (ctx : BitVec 2) : ElemCtx := tabGet s.elems (elemKey ea ctx) ElemCtx.reset
/-- Replace an element context. -/
def setElem (s : State) (ea : EAddr) (ctx : BitVec 2) (v : ElemCtx) : State :=
  { s with elems := tabSet s.elems (elemKey ea ctx) v ElemCtx.reset }
/-- Change an element context. -/
def modElem (s : State) (ea : EAddr) (ctx : BitVec 2) (f : ElemCtx → ElemCtx) : State :=
  s.setElem ea ctx (f (s.elem ea ctx))
/-- Change a site's registers. -/
def modSite (s : State) (n : SiteNo) (f : Site → Site) : State := s.setSite n (f (s.site n))
/-- A configuration port. -/
def port (s : State) (ea : EAddr) : CfgPort := tabGet s.ports ea.toNat CfgPort.reset
/-- Replace a configuration port. -/
def setPort (s : State) (ea : EAddr) (v : CfgPort) : State :=
  { s with ports := tabSet s.ports ea.toNat v CfgPort.reset }
/-- A sequencer. -/
def sq (s : State) (b : BitVec 6) : Sq := tabGet s.sqs b.toNat Sq.reset
/-- Replace a sequencer. -/
def setSq (s : State) (b : BitVec 6) (v : Sq) : State := { s with sqs := tabSet s.sqs b.toNat v Sq.reset }
/-- Change a sequencer. -/
def modSq (s : State) (b : BitVec 6) (f : Sq → Sq) : State := s.setSq b (f (s.sq b))
/-- A partition. -/
def part (s : State) (p : Nat) : Part := tabGet s.parts p Part.reset
/-- Replace a partition. -/
def setPart (s : State) (p : Nat) (v : Part) : State := { s with parts := tabSet s.parts p v Part.reset }
/-- Change a partition. -/
def modPart (s : State) (p : Nat) (f : Part → Part) : State := s.setPart p (f (s.part p))
/-- A work queue. -/
def queue (s : State) (q : BitVec 12) : WorkQueue := tabGet s.queues q.toNat WorkQueue.reset
/-- Replace a work queue. -/
def setQueue (s : State) (q : BitVec 12) (v : WorkQueue) : State :=
  { s with queues := tabSet s.queues q.toNat v WorkQueue.reset }
/-- Change a work queue. -/
def modQueue (s : State) (q : BitVec 12) (f : WorkQueue → WorkQueue) : State := s.setQueue q (f (s.queue q))
/-- An engine queue of a block: key block * 16 + number. -/
def engine (s : State) (b : BitVec 6) (q : BitVec 4) : EngQueue :=
  tabGet s.engines (b.toNat * 16 + q.toNat) EngQueue.reset
/-- Replace an engine queue. -/
def setEngine (s : State) (b : BitVec 6) (q : BitVec 4) (v : EngQueue) : State :=
  { s with engines := tabSet s.engines (b.toNat * 16 + q.toNat) v EngQueue.reset }
/-- A barrier object. -/
def barrier (s : State) (o : Nat) : Barrier := tabGet s.barriers o Barrier.reset
/-- Replace a barrier object. -/
def setBarrier (s : State) (o : Nat) (v : Barrier) : State :=
  { s with barriers := tabSet s.barriers o v Barrier.reset }
/-- A monitor channel: MT channels at site * 4 + channel, stream-port channels at 0x8000 + port * 4 + channel. -/
def channel (s : State) (c : Nat) : Channel := tabGet s.channels c Channel.reset
/-- Replace a monitor channel. -/
def setChannel (s : State) (c : Nat) (v : Channel) : State :=
  { s with channels := tabSet s.channels c v Channel.reset }
/-- A link. -/
def link (s : State) (l : Nat) : Link := tabGet s.links l Link.reset
/-- Replace a link. -/
def setLink (s : State) (l : Nat) (v : Link) : State := { s with links := tabSet s.links l v Link.reset }
/-- The task of a number. -/
def task? (s : State) (uid : Nat) : Option Task := s.tasks.find? (fun t => t.uid == uid)
/-- Change the task of a number. -/
def modTask (s : State) (uid : Nat) (f : Task → Task) : State :=
  { s with tasks := s.tasks.map (fun t => if t.uid = uid then f t else t) }
/-- The launch of an ordinal. -/
def launch? (s : State) (ord : Nat) : Option Launch := s.launches.find? (fun l => l.ord == ord)
/-- Change the launch of an ordinal. -/
def modLaunch (s : State) (ord : Nat) (f : Launch → Launch) : State :=
  { s with launches := s.launches.map (fun l => if l.ord = ord then f l else l) }
/-- Change the platform. -/
def modPlat (s : State) (f : Plat → Plat) : State := { s with plat := f s.plat }
/-- Enter a line in the PC's error log (R229). -/
def log (s : State) (e : PcLog) : State := s.modPlat (fun p => { p with pclog := p.pclog ++ [e] })
/-- Number of a fresh free value. -/
def takeFree (s : State) : State := { s with free := s.free + 1 }

end State

/-! ## Registers of a sequencer (R103): g0 reads as zero and ignores writes -/

/-- Read a g register. -/
def Sq.getG (q : Sq) (r : BitVec 5) : DWord := if r = 0 then 0 else tabGet q.g r.toNat 0
/-- Write a g register. -/
def Sq.setG (q : Sq) (r : BitVec 5) (v : DWord) : Sq := if r = 0 then q else { q with g := tabSet q.g r.toNat v 0 }
/-- The event queue is full (R105). -/
def Sq.evFull (q : Sq) : Bool := q.evTail - q.evHead == 256#9
/-- The event queue is empty. -/
def Sq.evEmpty (q : Sq) : Bool := q.evTail == q.evHead

/-! ## Operators of an element context -/

/-- State of an operator. -/
def ElemCtx.op (e : ElemCtx) (n : Nat) : OpSt := tabGet e.ops n OpSt.zero
/-- Replace the state of an operator. -/
def ElemCtx.setOp (e : ElemCtx) (n : Nat) (o : OpSt) : ElemCtx := { e with ops := tabSet e.ops n o OpSt.zero }
/-- Read a context register (R80). -/
def ElemCtx.getK (e : ElemCtx) (i : Nat) : Token := tabGet e.k i Token.zero
/-- Write a context register. -/
def ElemCtx.setK (e : ElemCtx) (i : Nat) (t : Token) : ElemCtx := { e with k := tabSet e.k i t Token.zero }
/-- A data queue of an element context. -/
def ElemCtx.queue (e : ElemCtx) (n : Nat) : List Token := tabGet e.inq n []
/-- Replace a data queue. -/
def ElemCtx.setQueue (e : ElemCtx) (n : Nat) (l : List Token) : ElemCtx := { e with inq := tabSet e.inq n l [] }
/-- A control queue of an element context. -/
def ElemCtx.ctlQueue (e : ElemCtx) (n : Nat) : List Ctl := tabGet e.inc n []
/-- Replace a control queue. -/
def ElemCtx.setCtlQueue (e : ElemCtx) (n : Nat) (l : List Ctl) : ElemCtx := { e with inc := tabSet e.inc n l [] }

/-! ## Bytes and words of a memory (little-endian) -/

/-- n bytes from an address upward. -/
def memBytes (m : Memory) (a : Nat) : Nat → List Byte
  | 0 => []
  | n + 1 => memByte m a :: memBytes m (a + 1) n

/-- Store bytes from an address upward. -/
def memSetBytes (m : Memory) (a : Nat) : List Byte → Memory
  | [] => m
  | b :: t => memSetBytes (memSetByte m a b) (a + 1) t

/-- The number that n bytes at an address hold. -/
def memNat (m : Memory) (a n : Nat) : Nat := bytesToNat (memBytes m a n)

/-- Store a number in n bytes at an address. -/
def memSetNat (m : Memory) (a n x : Nat) : Memory := memSetBytes m a (natToBytes n x)

/-- Store bytes where a mask bit is set: bit j of the mask belongs to byte j. -/
def memSetMasked (m : Memory) (a : Nat) (mask : Nat) : List Byte → Memory
  | [] => m
  | b :: t => memSetMasked (if mask % 2 = 1 then memSetByte m a b else m) (a + 1) (mask / 2) t

/-! ## Local data RAM (Table 3-8) -/

/-- Key of a byte of a block's local data RAM. -/
def lramKey (blk : BitVec 6) (off : Nat) : Nat := blk.toNat * 4096 + off % 4096

/-! ## Sequencer traps (R240, R241) -/

/-- SQ.CAUSE from its fields. -/
def causeWord (code sub : BitVec 8) (detail : BitVec 48) : DWord := detail ++ sub ++ code

/-- The registers of a sequencer after a trap with cause `code` at instruction address `a`: the shared operation of
every trap (R241). -/
def Sq.trap (q : Sq) (a : DWord) (code sub : BitVec 8) (detail : BitVec 48) : Sq :=
  { q with
    epc   := if code = 5 then a + 4 else a
    ppl   := q.priv
    pie   := q.ie
    ie    := false
    priv  := true
    cause := causeWord code sub detail
    pc    := q.tvec + 32 * code.setWidth 64
    hold  := none
    within := false }

/-- Take a trap on the sequencer of a block, at the instruction its pc addresses. -/
def takeTrap (s : State) (b : BitVec 6) (code sub : BitVec 8) (detail : BitVec 48) : State :=
  s.modSq b (fun q => q.trap q.pc code sub detail)

/-- The registers after `eret` (R241, R345); the low two bits of a pc are zero (R103). -/
def Sq.leaveTrap (q : Sq) : Sq := { q with priv := q.ppl, ie := q.pie, pc := q.epc &&& ~~~3#64, within := false }

end Sys2Proof.Machine
end

