-- ==== Sys2Proof/Machine/Links.lean ====
section
/-! DEFINITION. Machine/Links.lean: link flits (R91, R310): the ends of a link, what each does with a flit, the ports of a peer access and
the die edges. Links 0 to 17 are the Rilub ports; 32 to 39 the die edges, one for each direction (log entry 69). -/

namespace Sys2Proof.Machine

/-! ## Flits -/

/-- Bytes 0 to 247 of a flit (Table 14-5). -/
def flitBytes (f : Flit) : List Byte :=
  natToBytes 2 f.seq.toNat ++ natToBytes 2 f.ack.toNat ++ natToBytes 1 f.type.toNat ++ natToBytes 1 f.len.toNat ++ natToBytes 2 0
    ++ natToBytes 240 f.pay.toNat

/-- A flit as it came is whole: its CRC-64 covers it. -/
def flitWhole (f : Flit) : Bool := f.crc.toNat == crc64 (flitBytes f)

/-- Put a new flit on the wire: it takes the next number, acknowledges what has been accepted, and is kept. -/
def Link.send (l : Link) (type : BitVec 8) (len : BitVec 8) (pay : BitVec 1920) : Link :=
  let f : Flit := { seq := l.next, ack := l.expect - 1, type := type, len := len, pay := pay, crc := 0 }
  let f := { f with crc := BitVec.ofNat 64 (crc64 (flitBytes f)) }
  { l with next := l.next + 1, unacked := l.unacked ++ [f], wire := l.wire ++ [f] }

/-- Send again what has not been acknowledged: one retry. -/
def Link.resend (l : Link) : Link := { l with fails := l.fails + 1, wire := l.wire ++ l.unacked }

/-- Flits that an acknowledgement covers go. -/
def Link.takeAck (l : Link) (a : BitVec 16) : Link :=
  let rest := l.unacked.filter (fun f => decide (0 < (f.seq - a).toNat) && decide ((f.seq - a).toNat < 2 ^ 15))
  { l with unacked := rest, acked := a, fails := if rest.length < l.unacked.length then 0 else l.fails }

/-- Acknowledge the last flit accepted with an idle flit. -/
def Link.answer (l : Link) : Link := l.send 0 0 0

/-- What a whole flit does at a link: its acknowledgement counts; a nak is one retry; another flit is accepted at the next expected
number only, and one that is not idle, or that is discarded, is answered. -/
def Link.receive (l : Link) (f : Flit) : Link :=
  let l := l.takeAck f.ack
  if f.type = 5 then l.resend
  else if f.seq = l.expect then
    if f.type = 0 then { l with expect := l.expect + 1 }
    else { l with expect := l.expect + 1, delivered := l.delivered ++ [f] }.answer
  else l.answer

/-! ## Peer accesses -/

/-- The peer aperture an address lies in (R310). -/
def apertureOf (s : State) (part va : Nat) : Option Aperture :=
  (s.part part).apertures.findSome? (fun p => match p.2 with
    | some a => if a.base.toNat ≤ va ∧ va < a.base.toNat + a.len.toNat then some a else none
    | none => none)

/-- Ports of a trunk in service. -/
def trunkUp (s : State) (t : Nat) : List Nat := ((List.range 3).map (3 * t + ·)).filter (fun k => !(s.link k).down)

/-- The number that a hash chooses, or one of those in service where it is not in service. -/
def chosen (h n : Nat) (l : List Nat) : Option Nat := if l.contains n then some n else l[h % l.length]?

/-- The port of a peer access: the hash of rank and line address gives a trunk and a port of it. A failed port's traffic goes over the others of
its trunk, a failed trunk's over the other planes (R310). -/
def peerPort (s : State) (rank line : Nat) : Option Nat :=
  let h := Config.linkHash rank line
  (chosen (h / 18) (h % 6) ((List.range 6).filter (fun t => !(trunkUp s t).isEmpty))).bind (fun t =>
    chosen (h / 18) (3 * t + h / 6 % 3) (trunkUp s t))

/-- Request an access from a peer: one flit over its port. The hash, the payload and the peer's answer are open: whether it refuses, and what it
brings (log entry 69). -/
def peerRequest (s : State) (a : Aperture) (va : Nat) : State × Bool :=
  let refused := (Config.freeValue s.free).getLsbD 63
  let pay := Config.linkPayload s.free
  let s := s.takeFree
  match peerPort s a.rank.toNat (va / 64) with
  | none => (s, refused)
  | some k => (s.setLink k ((s.link k).send 1 240 pay), refused)

/-! ## Die edges -/

/-- The link that a token takes from a site to its neighbour, when the hop crosses a die edge. -/
def dieLink (src dst : SiteNo) : Option Nat :=
  match (src.extractLsb' 11 2).toNat, (dst.extractLsb' 11 2).toNat with
  | 0, 1 => some 32
  | 1, 0 => some 33
  | 2, 3 => some 34
  | 3, 2 => some 35
  | 0, 2 => some 36
  | 2, 0 => some 37
  | 1, 3 => some 38
  | 3, 1 => some 39
  | _, _ => none

/-- The flit of a token over a die edge: payload of the token. -/
def dieFlit (l : Link) (pay : Line) : Flit :=
  { seq := l.next, ack := l.expect - 1, type := 1, len := 64, pay := pay.setWidth 1920, crc := 0 }

/-- A transmission over a die edge: it arrives, and both ends count it, or it fails and the flit stays kept. -/
def Link.hop (l : Link) (pay : Line) : Link × Bool :=
  if !l.unacked.isEmpty then (l, false)
  else if 0 < l.lossy then ({ l with lossy := l.lossy - 1, unacked := [dieFlit l pay] }, false)
  else ({ l with next := l.next + 1, expect := l.expect + 1, acked := l.next, fails := 0 }, true)

/-- A token goes to a neighbour: at once within a die, through the link's flits across an edge. -/
def crossLink (s : State) (src dst : SiteNo) (pay : Line) : State × Bool :=
  match dieLink src dst with
  | none => (s, true)
  | some k =>
    let r := (s.link k).hop pay
    (s.setLink k r.1, r.2)

end Sys2Proof.Machine
end

