-- ==== Sys2Proof/Machine/Num.lean ====
section
/-! DEFINITION. Machine/Num.lean: element formats, exact float values, rounding, integer wrapping and residues
(02_numbers_and_arithmetic: R52 to R64, R74). Patterns are natural numbers below 2^width. -/

namespace Sys2Proof.Machine

/-! ## Formats (Tables 2-1 and 2-3) -/

/-- Width in bits of an element of a format code; 0 for codes 0 and 15. -/
def fmtWidth (f : Nat) : Nat :=
  match f with
  | 1 => 8 | 2 => 8 | 3 => 16 | 4 => 16 | 5 => 32 | 6 => 32 | 7 => 64
  | 8 => 8 | 9 => 8 | 10 => 16 | 11 => 16 | 12 => 32 | 13 => 64 | 14 => 32
  | _ => 0

/-- Elements per token of a format code. -/
def fmtElems (f : Nat) : Nat := if fmtWidth f = 0 then 0 else 512 / fmtWidth f

/-- The format is a signed integer format: i8, i16, i32, i64. -/
def fmtSigned (f : Nat) : Bool := f = 1 || f = 3 || f = 5 || f = 7

/-- The format is an integer format. -/
def fmtInt (f : Nat) : Bool := decide (1 ≤ f) && decide (f ≤ 7)

/-- The format is a float format. -/
def fmtFloat (f : Nat) : Bool := decide (8 ≤ f) && decide (f ≤ 13)

/-- Layout of a float format: exponent bits, fraction bits, bias, and whether it has infinities. -/
structure FloatFmt where
  ebits : Nat
  mbits : Nat
  bias  : Nat
  infs  : Bool
deriving DecidableEq, Repr

/-- Table 2-3; code 12 (fp32) for codes that name no float. -/
def floatFmt (f : Nat) : FloatFmt :=
  match f with
  | 8 => ⟨4, 3, 7, false⟩
  | 9 => ⟨5, 2, 15, true⟩
  | 10 => ⟨5, 10, 15, true⟩
  | 11 => ⟨8, 7, 127, true⟩
  | 13 => ⟨11, 52, 1023, true⟩
  | _ => ⟨8, 23, 127, true⟩

/-- Total width. -/
def FloatFmt.width (F : FloatFmt) : Nat := 1 + F.ebits + F.mbits

/-- Pattern of infinity without its sign (all-ones exponent); in e4m3 it is no infinity. -/
def FloatFmt.infBits (F : FloatFmt) : Nat := (2 ^ F.ebits - 1) * 2 ^ F.mbits

/-- Pattern of the largest finite magnitude. -/
def FloatFmt.maxBits (F : FloatFmt) : Nat := if F.infs then F.infBits - 1 else F.infBits + 2 ^ F.mbits - 2

/-- CanonNaN (Table 2-3): sign 0, quiet. -/
def FloatFmt.nanBits (F : FloatFmt) : Nat :=
  if F.infs then F.infBits + 2 ^ (F.mbits - 1) else F.infBits + 2 ^ F.mbits - 1

/-- The sign bit of a pattern, as a number. -/
def FloatFmt.signBit (F : FloatFmt) : Nat := 2 ^ (F.ebits + F.mbits)

/-- An exact float value: `fin neg m e` is (−1)^neg × m × 2^e, with signed zeros. -/
inductive FVal where
  | nan
  | inf (neg : Bool)
  | fin (neg : Bool) (m : Nat) (e : Int)
deriving DecidableEq, Repr

/-- Decode (R57, R74). -/
def decodeFloat (F : FloatFmt) (p : Nat) : FVal :=
  let neg := decide (F.signBit ≤ p % (2 * F.signBit))
  let mag := p % F.signBit
  let ex := mag / 2 ^ F.mbits
  let fr := mag % 2 ^ F.mbits
  if F.infs && ex == 2 ^ F.ebits - 1 then (if fr = 0 then .inf neg else .nan)
  else if !F.infs && mag == F.nanBits then .nan
  else if ex = 0 then .fin neg fr (1 - (F.bias : Int) - F.mbits)
  else .fin neg (2 ^ F.mbits + fr) ((ex : Int) - F.bias - F.mbits)

/-- IsNaN (R74). -/
def isNaN (F : FloatFmt) (p : Nat) : Bool := decodeFloat F p == .nan

/-- Rounding modes of Table 2-4 that need no random word. -/
inductive Rnd where
  | rne | rtz
deriving DecidableEq, Repr

/-- RND code 1 is RTZ; codes 0 and 2 are read as RNE where no random token is used. -/
def rndOf (c : BitVec 2) : Rnd := if c = 1 then .rtz else .rne

/-- The overflow outcome of Table 2-5, sign apart. -/
def overflowBits (F : FloatFmt) (rnd : Rnd) (sat : Bool) : Nat :=
  if sat || rnd == .rtz then F.maxBits
  else if F.infs then F.infBits else F.nanBits

/-- Put the sign on a magnitude pattern; the canonical NaN takes none. -/
def withSign (F : FloatFmt) (neg : Bool) (mag : Nat) : Nat :=
  if mag = F.nanBits then mag else if neg then F.signBit + mag else mag

/-- The rounding step: the kept quotient of m / 2^k, with the discarded part and `sticky` deciding. -/
def roundQuot (m k : Nat) (sticky : Bool) (rnd : Rnd) : Nat :=
  let q := m / 2 ^ k
  let r := m % 2 ^ k
  match rnd with
  | .rtz => q
  | .rne =>
    if k = 0 then q
    else
      let half := 2 ^ (k - 1)
      if half < r || (r == half && (sticky || q % 2 == 1)) then q + 1 else q

/-- Round (R62, R74): the pattern of the exact value (−1)^neg × (m + δ) × 2^e with 0 ≤ δ < 1 and δ ≠ 0 iff `sticky`,
rounded once at the quantum of its binade or the subnormal quantum. Callers that pass `sticky` give m enough bits. -/
def roundFloat (F : FloatFmt) (neg : Bool) (m : Nat) (e : Int) (sticky : Bool) (rnd : Rnd) (sat : Bool) : Nat :=
  if m = 0 then withSign F neg 0 else
  let emin : Int := 1 - (F.bias : Int)
  let binade : Int := e + (Nat.log2 m : Int)
  let top : Int := if binade < emin then emin else binade
  let shift : Int := top - F.mbits - e
  let q := if shift ≤ 0 then m * 2 ^ (-shift).toNat else roundQuot m shift.toNat sticky rnd
  let mag := (top - emin).toNat * 2 ^ F.mbits + q
  withSign F neg (if F.maxBits < mag then overflowBits F rnd sat else mag)

/-- Round an exact value to a pattern; the rule for infinities is that of R62. -/
def roundVal (F : FloatFmt) (v : FVal) (rnd : Rnd) (sat : Bool) : Nat :=
  match v with
  | .nan => F.nanBits
  | .inf neg => if F.infs then withSign F neg F.infBits
                else if sat then withSign F neg F.maxBits else F.nanBits
  | .fin neg m e => roundFloat F neg m e false rnd sat

/-- The signed integer (−1)^neg × m. -/
def signedInt (neg : Bool) (m : Nat) : Int := if neg then -(m : Int) else (m : Int)

/-- Exact sum; an exact zero is +0 unless both addends are −0 (R59). -/
def addVal (a b : FVal) : FVal :=
  match a, b with
  | .nan, _ => .nan
  | _, .nan => .nan
  | .inf x, .inf y => if x = y then .inf x else .nan
  | .inf x, _ => .inf x
  | _, .inf y => .inf y
  | .fin x m e, .fin y n g =>
    let lo := if e < g then e else g
    let i := signedInt x m * 2 ^ (e - lo).toNat + signedInt y n * 2 ^ (g - lo).toNat
    if i = 0 then .fin (x && y) 0 lo
    else .fin (decide (i < 0)) i.natAbs lo

/-- Exact product, with the exclusive-OR of the signs. -/
def mulVal (a b : FVal) : FVal :=
  match a, b with
  | .nan, _ => .nan
  | _, .nan => .nan
  | .inf x, .inf y => .inf (x != y)
  | .inf x, .fin y n _ => if n = 0 then .nan else .inf (x != y)
  | .fin x m _, .inf y => if m = 0 then .nan else .inf (x != y)
  | .fin x m e, .fin y n g => .fin (x != y) (m * n) (e + g)

/-- Negation. -/
def negVal : FVal → FVal
  | .nan => .nan
  | .inf x => .inf (!x)
  | .fin x m e => .fin (!x) m e

/-- Order of two values that are not NaN: −0 equals +0. -/
def ltVal (a b : FVal) : Bool :=
  match a, b with
  | .nan, _ => false
  | _, .nan => false
  | .inf x, .inf y => x && !y
  | .inf x, _ => x
  | _, .inf y => !y
  | .fin x m e, .fin y n g =>
    let lo := if e < g then e else g
    decide (signedInt x m * 2 ^ (e - lo).toNat < signedInt y n * 2 ^ (g - lo).toNat)

/-- Equality of values: NaN is equal to nothing. -/
def eqVal (a b : FVal) : Bool :=
  !(a == .nan) && !(b == .nan) && !ltVal a b && !ltVal b a

/-- Integer square root by binary digits: the largest r with r * r ≤ n, for n < 2^(2 * bits). -/
def isqrt (n : Nat) : Nat → Nat → Nat
  | 0, r => r
  | b + 1, r =>
    let t := r + 2 ^ b
    isqrt n b (if t * t ≤ n then t else r)

/-- Correctly rounded square root (R60, R347). -/
def sqrtFloat (F : FloatFmt) (v : FVal) (rnd : Rnd) : Nat :=
  match v with
  | .nan => F.nanBits
  | .inf neg => if neg then F.nanBits else F.infBits
  | .fin neg m e =>
    if m = 0 then withSign F neg 0
    else if neg then F.nanBits
    else
      -- scale to an even exponent with at least 2 * (mbits + 3) significand bits
      let k : Nat := 2 * (F.mbits + 4)
      let odd := (e % 2).toNat
      let m' := m * 2 ^ (k + odd)
      let e' := e - k - odd
      let r := isqrt m' (Nat.log2 m' / 2 + 1) 0
      roundFloat F false r (e' / 2) (r * r != m') rnd false

/-! ## Integers (R56, R63) -/

/-- The integer a pattern of width w stands for. -/
def intOf (w : Nat) (signed : Bool) (p : Nat) : Int :=
  if signed && decide (2 ^ (w - 1) ≤ p) then (p : Int) - 2 ^ w else (p : Int)

/-- Wrap: the pattern congruent to x modulo 2^w. -/
def wrapInt (w : Nat) (x : Int) : Nat := (x % (2 ^ w : Int)).toNat

/-- Sat: x clamped to the range, as a pattern. -/
def satInt (w : Nat) (signed : Bool) (x : Int) : Nat :=
  let lo : Int := if signed then -(2 ^ (w - 1) : Int) else 0
  let hi : Int := if signed then 2 ^ (w - 1) - 1 else 2 ^ w - 1
  wrapInt w (if x < lo then lo else if hi < x then hi else x)

/-- Deliver an exact integer result by SAT (R56). -/
def deliverInt (f : Nat) (sat : Bool) (x : Int) : Nat :=
  if sat then satInt (fmtWidth f) (fmtSigned f) x else wrapInt (fmtWidth f) x

/-- ToInt (R63): float to integer, rounded, saturated, NaN to 0. -/
def floatToInt (f : Nat) (v : FVal) (rnd : Rnd) : Nat :=
  match v with
  | .nan => 0
  | .inf neg => satInt (fmtWidth f) (fmtSigned f) (if neg then -(2 ^ 70 : Int) else 2 ^ 70)
  | .fin neg m e =>
    let q := if 0 ≤ e then m * 2 ^ (if 70 < e then 70 else e.toNat) else roundQuot m (-e).toNat false rnd
    satInt (fmtWidth f) (fmtSigned f) (signedInt neg q)

/-- An integer as an exact float value; 0 is +0. -/
def intVal (x : Int) : FVal := .fin (decide (x < 0)) x.natAbs 0

/-- SRound (R64): stochastic rounding of m × 2^e (source unit 2^e) with random word R of width w. -/
def roundStochastic (F : FloatFmt) (neg : Bool) (m : Nat) (e : Int) (R w : Nat) (sat : Bool) : Nat :=
  if m = 0 then withSign F neg 0 else
  let emin : Int := 1 - (F.bias : Int)
  let binade : Int := e + (Nat.log2 m : Int)
  let top : Int := if binade < emin then emin else binade
  let shift : Int := top - F.mbits - e
  if shift ≤ 0 then roundFloat F neg m e false .rne sat
  else
    let d := shift.toNat
    let a := if d ≤ w then R % 2 ^ d else R * 2 ^ (d - w)
    let t := (m + a) / 2 ^ d
    let mag := (top - emin).toNat * 2 ^ F.mbits + t
    withSign F neg (if F.maxBits < mag then overflowBits F .rne sat else mag)

/-! ## Saturating counters, residues (R43, R74) -/

/-- SatInc32, and saturating addition at 2^32 − 1. -/
def satAdd32 (x n : Nat) : Nat := if 2 ^ 32 - 1 < x + n then 2 ^ 32 - 1 else x + n

/-- Saturating addition at 2^16 − 1. -/
def satAdd16 (x n : Nat) : Nat := if 65535 < x + n then 65535 else x + n

/-- Residue15 of a 32-bit pattern. -/
def residue15 (v : Nat) : Nat := v % 15

end Sys2Proof.Machine
end

