-- ==== Sys2Proof/Machine/Tokens.lean ====
section
/-! DEFINITION. Machine/Tokens.lean: lanes, elements, masks and residues of tokens (R29 to R33, R54, R214, R215), packet
headers (Table 1-4) and control tokens (R39). -/

namespace Sys2Proof.Machine

/-! ## Lanes -/

/-- Pattern of lane j. -/
def laneNat (p : Line) (j : Nat) : Nat := p.toNat / 2 ^ (32 * j) % 2 ^ 32

/-- RES of lane j. -/
def resNat (r : ResWord) (j : Nat) : Nat := r.toNat / 2 ^ (4 * j) % 16

/-- Bit j of a lane mask. -/
def maskBit (m : BitVec 16) (j : Nat) : Bool := m.toNat / 2 ^ j % 2 == 1

/-- The payload whose lanes are given, lane 0 first. -/
def lanesToPay (l : List Nat) : Line := BitVec.ofNat 512 (l.foldr (fun v acc => v % 2 ^ 32 + 2 ^ 32 * acc) 0)

/-- The mask whose bits are given, bit 0 first. -/
def bitsToMask (l : List Bool) : BitVec 16 := BitVec.ofNat 16 (l.foldr (fun b acc => (if b then 1 else 0) + 2 * acc) 0)

/-- The RES field whose residues are given, lane 0 first. -/
def resToWord (l : List Nat) : ResWord := BitVec.ofNat 64 (l.foldr (fun v acc => v % 16 + 16 * acc) 0)

/-- The numbers of the 16 lanes. -/
def lanes16 : List Nat := [0, 1, 2, 3, 4, 5, 6, 7, 8, 9, 10, 11, 12, 13, 14, 15]

/-- Payload with the lanes outside the mask cleared (R30). -/
def maskPay (p : Line) (m : BitVec 16) : Line := lanesToPay (lanes16.map (fun j => if maskBit m j then laneNat p j else 0))

/-- Regenerated residues: Residue15 of each valid lane, 0 elsewhere (R214, R30). -/
def regenRes (p : Line) (m : BitVec 16) : ResWord :=
  resToWord (lanes16.map (fun j => if maskBit m j then residue15 (laneNat p j) else 0))

/-- How far a lane's received residue is from that of its pattern, mod 15. -/
def resError (t : Token) (j : Nat) : Nat := (resNat t.res j + 15 - residue15 (laneNat t.pay j)) % 15

/-- Some valid lane disagrees with its residue: the lowest such lane (R215). -/
def badLane (t : Token) : Option Nat :=
  lanes16.find? (fun j => maskBit t.mask j && resNat t.res j != residue15 (laneNat t.pay j))

/-- The pairs of lanes a 64-bit element needs: both or neither (R54). -/
def pairMask (m : BitVec 16) : BitVec 16 := bitsToMask (lanes16.map (fun j => maskBit m (j / 2 * 2) && maskBit m (j / 2 * 2 + 1)))

/-- The mask in which a format's elements are valid. -/
def fmtMask (f : Nat) (m : BitVec 16) : BitVec 16 := if fmtWidth f = 64 then pairMask m else m

/-! ## Elements -/

/-- Pattern of element i of width w: it stands at payload bits [w*i + w − 1 : w*i] (R54). -/
def elemNat (p : Line) (w i : Nat) : Nat := p.toNat / 2 ^ (w * i) % 2 ^ w

/-- Element i of width w is valid under a mask. -/
def elemValid (m : BitVec 16) (w i : Nat) : Bool :=
  if w = 64 then maskBit m (2 * i) && maskBit m (2 * i + 1) else maskBit m (w * i / 32)

/-- The payload whose elements of width w are given. -/
def elemsToPay (w : Nat) (l : List Nat) : Line := BitVec.ofNat 512 (l.foldr (fun v acc => v % 2 ^ w + 2 ^ w * acc) 0)

/-- A payload computed element by element; invalid elements are zero. -/
def mapElems (f : Nat) (m : BitVec 16) (g : Nat → Nat) : Line :=
  let w := fmtWidth f
  elemsToPay w ((List.range (fmtElems f)).map (fun i => if elemValid m w i then g i else 0))

/-- The lanes all of whose elements satisfy a predicate. -/
def lanesOfElems (w : Nat) (ok : Nat → Bool) : BitVec 16 :=
  if w = 64 then bitsToMask (lanes16.map (fun j => ok (j / 2)))
  else bitsToMask (lanes16.map (fun j => (List.range (32 / w)).all (fun b => ok (j * (32 / w) + b))))

/-! ## Packet headers (Table 1-4) -/

/-- FMT of a header. -/
def hdrFmt (t : Token) : Nat := t.pay.toNat % 16
/-- COUNT of a header. -/
def hdrCount (t : Token) : Nat := t.pay.toNat / 2 ^ 8 % 2 ^ 16
/-- GROUP of a header. -/
def hdrGroup (t : Token) : Byte := t.pay.extractLsb' 24 8
/-- SCALE_A of a header. -/
def hdrScaleA (t : Token) : Nat := t.pay.toNat / 2 ^ 32 % 2 ^ 32
/-- BLOCK of a header. -/
def hdrBlock (t : Token) : Nat := t.pay.toNat / 2 ^ 96 % 2 ^ 32
/-- FMT is 1 to 14 and the reserved bits are zero (R35). -/
def hdrOk (t : Token) : Bool :=
  decide (1 ≤ hdrFmt t) && decide (hdrFmt t ≤ 14) && t.pay.toNat / 16 % 16 == 0 && t.pay.toNat / 2 ^ 192 == 0
/-- Data tokens a header announces (R33). -/
def hdrTokens (t : Token) : Nat :=
  let e := fmtElems (hdrFmt t)
  if e = 0 then 0 else (hdrCount t + e - 1) / e
/-- The header with another FMT and residues to match. -/
def hdrSetFmt (t : Token) (f : Nat) : Token :=
  let p := BitVec.ofNat 512 (t.pay.toNat / 16 * 16 + f % 16)
  { t with pay := p, res := regenRes p t.mask }

/-! ## Markers and other tokens -/

/-- A boundary marker that carries the SEQ of the record before it (R28, R32). -/
def Token.asMarker (t : Token) (level : BitVec 3) : Token :=
  { t with pay := 0, mask := 0, kind := .marker, level := level, res := 0 }

/-- A marker of a level with no record before it. -/
def markerToken (level : BitVec 3) : Token := Token.zero.asMarker level

/-- The cut marker (R242): LANEMASK 0x0003, cut number in lane 0, reason in lane 1. -/
def cutToken (no : Word) (reason : BitVec 4) (t : Token) : Token :=
  let p := lanesToPay [no.toNat, reason.toNat]
  { t with pay := p, mask := 3, kind := .cut, level := 0, etag := false, res := regenRes p 3, done := 0, rsv := 0 }

/-- The LEVEL 7 marker. -/
def Token.isEnd (t : Token) : Bool := t.kind == .marker && t.level == 7

/-- Seq(tok): {wrap count, SEQ} as one number (R135). -/
def seqOf (t : Token) : Nat := t.wrap.toNat * 2 ^ 20 + t.seq.toNat

/-- A token stamped by a source with its n-th record (R26). -/
def stamp (t : Token) (n : Nat) (src : BitVec 20) : Token :=
  { t with seq := BitVec.ofNat 20 n, wrap := BitVec.ofNat 32 (n / 2 ^ 20), src := src, multi := false }

/-- A data token with regenerated residues. -/
def dataToken (p : Line) (m : BitVec 16) (side : Token) : Token :=
  let q := maskPay p m
  { side with pay := q, mask := m, kind := .data, level := 0, res := regenRes q m }

/-- A control token with right parity (R39). -/
def ctlTok (v b : Bool) : Ctl := { v := v, b := b, par := v != b, fin := false, cut := false }

/-- The B = 1 token of a marker; END for LEVEL 7 (R449). -/
def ctlOfMarker (t : Token) : Ctl := { ctlTok false true with fin := t.isEnd }

/-- A control token whose CUT wire is asserted (R242). -/
def ctlCut : Ctl := { v := false, b := false, par := false, fin := false, cut := true }

/-- The parity bit equals V XOR B. -/
def Ctl.parityOk (c : Ctl) : Bool := c.par == (c.v != c.b)

/-- The token with ETAG set. -/
def Token.tag (t : Token) : Token := { t with etag := true }

/-- ETAG ORed with another's. -/
def Token.orTag (t : Token) (e : Bool) : Token := { t with etag := t.etag || e }

/-- A zero data token of a sideband with no valid lane. -/
def emptyToken (side : Token) : Token := { side with pay := 0, mask := 0, kind := .data, level := 0, res := 0 }

end Sys2Proof.Machine
end

