-- ==== Sys2Proof/Machine/Fault.lean ====
section
/-! DEFINITION. Machine/Fault.lean: fabric faults (R234 to R237): building fault records, raising logged and stopping
faults, poisoning tasks and the repair list (R217 to R219). -/

namespace Sys2Proof.Machine

/-- What a fault record says beside the time and the numbers (Table 10-2). -/
structure FaultInfo where
  cls  : Nat
  sub  : Nat
  unit : Nat
  lane : Nat
  elem : Nat
  slot : Nat
  word : DWord
  tok  : Token
  addr : Nat
  fmts : Nat
  fdet : Nat
  aux  : Nat
deriving DecidableEq, Repr

/-- A record of a class with nothing else said. -/
def faultInfo (cls sub unit : Nat) (tok : Token) : FaultInfo :=
  { cls := cls, sub := sub, unit := unit, lane := 0, elem := 0, slot := 0, word := 0, tok := tok, addr := 0, fmts := 0,
    fdet := 0, aux := 0 }

/-- KIND as its code. -/
def kindCode : TokKind → Nat
  | .data => 0
  | .header => 1
  | .marker => 2
  | .cut => 3

/-- The partition that owns a block: the lowest-numbered one whose rectangle holds it; 0 when none does. -/
def partOfBlock (s : State) (blk : Nat) : Nat :=
  match s.parts.find? (fun p => p.2.blocks.contains blk) with
  | some p => p.1
  | none => 0

/-- The partition of a site. -/
def partOfSite (s : State) (n : SiteNo) : Nat := partOfBlock s (siteBlock n)

/-- Tokens waiting at P0 to P3 and at control inputs 0 to 3 of a context, saturating at 255 (WAITS). -/
def waitsOf (e : ElemCtx) : Nat :=
  let q := (List.range 4).map (fun p => min 255 (e.queue p).length)
  let c := (List.range 4).map (fun p => min 255 (e.ctlQueue p).length)
  (q ++ c).foldr (fun v acc => v + 256 * acc) 0

/-- The block whose sequencer hears of a fault: that of the region's origin, or of the site when no task runs there. -/
def originBlock (s : State) (task : Option Nat) (ea : EAddr) : Nat :=
  match task.bind s.task? with
  | some t => siteBlock (siteAt t.row0 t.col0)
  | none => siteBlock (eaSite ea)

/-- The 64 bytes of a fault record. -/
def faultBytes (s : State) (ea : EAddr) (ctx : BitVec 2) (fnum : Nat) (task : Option Nat) (f : FaultInfo) : List Byte :=
  let uid := task.getD 0
  natToBytes 1 f.cls ++ natToBytes 1 f.sub ++ natToBytes 2 ea.toNat
    ++ natToBytes 1 (ctx.toNat + 4 * kindCode f.tok.kind) ++ natToBytes 1 f.unit
    ++ natToBytes 2 (f.lane + 16 * f.elem + 1024 * f.slot) ++ natToBytes 8 f.word.toNat ++ natToBytes 4 fnum
    ++ natToBytes 4 (f.tok.seq.toNat + 2 ^ 20 * (f.tok.wrap.toNat % 4096)) ++ natToBytes 8 s.time
    ++ natToBytes 8 (waitsOf (s.elem ea ctx)) ++ natToBytes 8 f.addr ++ natToBytes 4 (f.fmts + 65536 * f.fdet)
    ++ natToBytes 4 f.aux ++ natToBytes 4 (uid / 2 ^ 32) ++ natToBytes 4 (uid % 2 ^ 32)

/-- Hand a fault record to the partition's list; FAULT_RECORD_POST writes it to the ring (R235). -/
def raiseRecord (s : State) (ea : EAddr) (ctx : BitVec 2) (stop : Bool) (f : FaultInfo) : State :=
  let p := partOfSite s (eaSite ea)
  let task := (s.elem ea ctx).task
  let n := (s.part p).fnum + 1
  s.modPart p (fun r =>
    { r with fnum := n,
             frHeld := r.frHeld ++ [{ bytes := faultBytes s ea ctx n task f, blk := originBlock s task ea, task := task, stop := stop }] })

/-- Completion class of a stopping fault (Table 10-1): PERM with reason 3 or 7 is SECURITY. -/
def faultClass (f : FaultInfo) : BitVec 4 := if f.cls = 6 && (f.sub = 3 || f.sub = 7) then 5 else 3

/-- The fault that a task's completion entry names: the earliest, and of two at one time that at the lower element address (R71, R236). -/
def earlierFault (old : Option EndWith) (new : EndWith) : EndWith :=
  match old with
  | none => new
  | some f => if f.time = new.time ∧ new.unit.toNat < f.unit.toNat then new else f

/-- The TD's note of a stopping fault (R236). -/
def noteFault (s : State) (task : Option Nat) (ea : EAddr) (fnum : Nat) (f : FaultInfo) : State :=
  match task with
  | none => s
  | some uid => s.modTask uid (fun t =>
      { t with
        phase := if t.phase = .running || t.phase = .repairing || t.phase = .cutting then .freezing else t.phase
        fault := some (earlierFault t.fault
          { cls := faultClass f, reason := BitVec.ofNat 8 f.cls, unit := ea, detail := BitVec.ofNat 32 fnum,
            addr := BitVec.ofNat 64 f.addr, time := s.time }) })

/-- A stopping fault (R236): the context stops firing, CTSTAT shows it at a CT, the record is posted, the TD is told. -/
def stopFault (s : State) (ea : EAddr) (ctx : BitVec 2) (f : FaultInfo) : State :=
  let task := (s.elem ea ctx).task
  let s := raiseRecord s ea ctx true f
  let fnum := (s.part (partOfSite s (eaSite ea))).fnum
  let s := s.modElem ea ctx (fun e => { e with stopped := true })
  let s := if eaElem ea = 0 && !siteIsMt (eaSite ea) then
      s.modSite (eaSite ea) (fun t => { t with faulted := true, fctx := ctx }) else s
  noteFault s task ea fnum f

/-- ECNT or TSUP of an element: keys 0 and 1 for the tile body, 2 and 3 for the router (Table 9-2). -/
def countErr (s : State) (ea : EAddr) (which : Nat) : State :=
  let k := (if eaElem ea = 1 then 2 else 0) + which
  s.modSite (eaSite ea) (fun t => { t with ecnt := tabMod t.ecnt k 0 (fun n => satAdd16 n 1) })

/-- Post the record of a logged class (RESIDUE, MISROUTE, PARITY, OVERFLOW): at most one of a class per element and context in any 4,096 fc
(R215, R235). -/
def loggedRecord (s : State) (ea : EAddr) (ctx : BitVec 2) (f : FaultInfo) : State :=
  let k := 8 * (f.cls - 7) + eaElem ea * 4 + ctx.toNat
  let last := tabGet (s.site (eaSite ea)).resLast k 0
  if last ≠ 0 ∧ s.time + 1 < last + 4096 then s
  else raiseRecord (s.modSite (eaSite ea) (fun t => { t with resLast := tabSet t.resLast k (s.time + 1) 0 })) ea ctx false f

/-- Wrong parity on a control token: RESIDUE naming the unit that takes it and the control channel (R39). -/
def parityRecord (s : State) (ea : EAddr) (ctx : BitVec 2) (unit chan : Nat) (t : Token) : State :=
  loggedRecord (countErr s ea 0) ea ctx { faultInfo 7 0 unit t with slot := chan }

/-- A firing pairs a tagged token with the output of a `rand` (R219). -/
def randPaired (l : List Token) : Bool := decide (1 < l.length) && l.any (·.etag) && l.any (·.rand)

/-- Poison the task of an element context (R219). -/
def poisonTask (s : State) (task : Option Nat) : State :=
  match task with
  | none => s
  | some uid => s.modTask uid (fun t => { t with poisoned := true })

/-- Add a tagged record to a task's repair list: one entry per record, at most 256, a record of several sources poisons
(R218, R219). -/
def addRepair (s : State) (task : Option Nat) (t : Token) : State :=
  match task with
  | none => s
  | some uid => s.modTask uid (fun k =>
      let r : Repair := { ord := seqOf t, src := t.src }
      if t.multi then { k with poisoned := true }
      else if k.repair.contains r then k
      else if k.repair.length ≥ 256 then { k with poisoned := true }
      else { k with repair := k.repair ++ [r] })

/-- A tagged store or atomic is suppressed: TSUP counts it (R217). -/
def countSuppressed (s : State) (ea : EAddr) : State := countErr s ea 1

/-- The launch of an element's task has the NaN trap set (R70, Table 6-2). -/
def nanTrap (s : State) (task : Option Nat) : Bool :=
  match task with
  | none => false
  | some uid => match s.launch? (uid / 2 ^ 32) with
    | none => false
    | some l => l.flags.toNat % 2 == 1

end Sys2Proof.Machine
end

