-- ==== Sys2Proof/Machine/Fabric.lean ====
section
/-! DEFINITION. Machine/Fabric.lean: how tokens move inside a site (R36, R76, R87, R285): the destinations a router's
configuration gives each source, the room they have, and delivering data and control tokens to them; what a firing
counts and records (R257, R260). -/

namespace Sys2Proof.Machine

/-! ## Configuration registers (Tables 12-6, 12-8, 12-9) -/

/-- A 32-bit configuration field whose reset value is 0. -/
def ElemCtx.field (e : ElemCtx) (n : Nat) : Nat := (tabGet e.bank n 0).toNat

/-- A 64-bit register in two consecutive fields, low word first. -/
def ElemCtx.field64 (e : ElemCtx) (n : Nat) : DWord := tabGet e.bank (n + 1) 0 ++ tabGet e.bank n 0

/-- A field of bits of a natural number. -/
def bits (x lo n : Nat) : Nat := x / 2 ^ lo % 2 ^ n

/-- Bit lo of a natural number. -/
def bitSet (x lo : Nat) : Bool := x / 2 ^ lo % 2 == 1

/-- Operator word of a CT stage. -/
def ElemCtx.stageWord (e : ElemCtx) (n : Nat) : DWord := e.field64 (2 * n)

/-- A CT stage is enabled (STGCTL). -/
def ElemCtx.stageOn (e : ElemCtx) (n : Nat) : Bool := bitSet (e.field 12) n

/-- Operator word of a router slot; an empty slot has OPHI 0. -/
def ElemCtx.slotWord (e : ElemCtx) (n : Nat) : DWord := e.field64 (20 + 3 * n)

/-- A router slot holds an operator (R297). -/
def ElemCtx.slotOn (e : ElemCtx) (n : Nat) : Bool := e.field (21 + 3 * n) != 0

/-- Source code that LINK names for an input of a slot. -/
def ElemCtx.slotLink (e : ElemCtx) (n i : Nat) : Nat := bits (e.field (22 + 3 * n)) (5 * i) 5

/-- Operator word of an AGN. -/
def ElemCtx.agnWord (e : ElemCtx) (n : Nat) : DWord := e.field64 (2 * n)

/-- AGNB of an AGN. -/
def ElemCtx.agnb (e : ElemCtx) (n : Nat) : Nat := e.field (8 + n)

/-- CTXARB of a site; the reset value stands in Site. -/
def ctxWeight (a : Word) (ctx : BitVec 2) : Nat := bits a.toNat (4 * ctx.toNat) 4

/-! ## Networks of a slot's inputs and outputs -/

/-- The two networks of the mesh. -/
inductive Net where
  | data | ctl
deriving DecidableEq, Repr

/-- Network on which an input of a slot operator stands (opcode CLS * 64 + OP and IMM); none if it has no such input. -/
def slotInNet (code imm : Nat) (linked : Bool) (i : Nat) : Option Net :=
  match code, i with
  | 256, 0 => some .data
  | 256, 3 => some .ctl
  | 257, 0 => some .data
  | 257, 1 => some .data
  | 257, 3 => some .ctl
  | 258, 0 => some .data
  | 258, 1 => some .data
  | 258, 3 => some .ctl
  | 259, 0 => some .data
  | 259, 3 => some .ctl
  | 260, 0 => if imm % 2 = 0 then some .data else none
  | 260, 3 => if imm % 2 = 1 then some .ctl else none
  | 261, 0 => if imm % 2 = 0 then some .data else none
  | 261, 3 => if imm % 2 = 1 then some .ctl else none
  | 262, 0 => some .data
  | 262, 1 => if imm % 2 = 1 then some .data else none
  | 262, 3 => if imm / 2 % 2 = 1 then some .ctl else none
  | 263, 0 => some .ctl
  | 263, 1 => some .ctl
  | 264, 0 => some .ctl
  | 264, 1 => some .ctl
  | 265, 0 => some .ctl
  | 266, 0 => some .data
  | 267, 0 => some .data
  | 267, 1 => if imm % 8 = 0 then none else some .ctl
  | 267, 2 => if imm % 8 = 0 ∨ linked = false then none else some .data
  | 267, 3 => if imm % 8 = 0 ∨ linked = false then none else some .ctl
  | 269, 0 => some .data
  | 269, 1 => if imm / 16 % 2 = 1 then some .data else none
  | 270, 0 => some .data
  | 270, 1 => if linked then some .data else none
  | 270, 3 => some .ctl
  | _, _ => none

/-- Network on which an output of a slot operator stands; none if it has no such output. -/
def slotOutNet (code imm : Nat) (o : Nat) : Option Net :=
  match code, o with
  | 256, 0 => some .data
  | 256, 1 => some .data
  | 257, 0 => some .data
  | 258, 0 => some .data
  | 258, 1 => some .data
  | 259, 0 => some .data
  | 260, _ => if imm % 2 = 0 then some .data else some .ctl
  | 262, 0 => some .data
  | 263, 0 => some .ctl
  | 264, 0 => some .ctl
  | 265, 0 => some .ctl
  | 266, 0 => some .ctl
  | 266, 1 => some .data
  | 267, _ => if imm % 8 = 0 then none else some .data
  | 268, 0 => some .data
  | 268, 1 => some .ctl
  | 269, 0 => some .data
  | 270, 0 => some .data
  | 270, 1 => some .data
  | _, _ => none

/-- Network of input i of slot n of a router context. -/
def ElemCtx.inNet (r : ElemCtx) (n i : Nat) : Option Net :=
  let w := r.slotWord n
  slotInNet (opcodeOf w) (w.toNat % 2 ^ 32) (r.slotLink n i != 31) i

/-- A source code carries tokens of a network: mesh directions and tile outputs exist on both networks. -/
def ElemCtx.srcOnNet (r : ElemCtx) (net : Net) (code : Nat) : Bool :=
  if code < 8 then true
  else if code < 24 then
    let w := r.slotWord ((code - 8) / 2)
    r.slotOn ((code - 8) / 2) && slotOutNet (opcodeOf w) (w.toNat % 2 ^ 32) ((code - 8) % 2) == some net
  else false

/-! ## Destinations and room -/

/-- Where a router hands a token on: an outgoing mesh direction, a tile input, an input of a control slot. -/
inductive Dest where
  | out (d : Nat)
  | tile (p : Nat)
  | slot (n i : Nat)
deriving DecidableEq, Repr

/-- Every field of a router context that names a source, on one network (R285). -/
def ElemCtx.dests (r : ElemCtx) (net : Net) (code : Nat) : List Dest :=
  if r.srcOnNet net code then
    let first := match net with | .data => 0 | .ctl => 4
    let en := match net with | .data => 15 | .ctl => 5
    let outs := (List.range 4).filterMap (fun d =>
      let f := r.field (first + d)
      if f % 32 = code ∧ bitSet f en then some (.out d) else none)
    let ins := (List.range 4).filterMap (fun p =>
      let f := r.field (first + 8 + p)
      if f % 32 = code ∧ bitSet f 5 then some (.tile p) else none)
    let slots := (List.range 8).flatMap (fun n =>
      if r.slotOn n then (List.range 4).filterMap (fun i =>
        if r.slotLink n i = code ∧ r.inNet n i = some net then some (.slot n i) else none)
      else [])
    outs ++ ins ++ slots
  else []

/-- Key of input i of slot n among a router context's queues. -/
def slotKey (n i : Nat) : Nat := 16 + 4 * n + i

/-- Tokens a tile input holds at most: its queue of 8 and the delay given to the port (R76). -/
def portDepth (ea : EAddr) (e : ElemCtx) (p : Nat) : Nat :=
  if siteIsMt (eaSite ea) then 8 else 8 + bits (e.field 13) (5 * p) 5

/-- Markers of a cut stand among tokens: what follows them is channel state (R243). -/
def cutAmong (l : List Token) : Bool := l.any (fun t => t.kind == .cut)
def cutAmongCtl (l : List Ctl) : Bool := l.any (·.cut)

/-- The operator of a tile body that takes the tokens of a port has been captured by a cut. -/
def portCaptured (ea : EAddr) (e : ElemCtx) (p : Nat) : Bool :=
  e.captured || (siteIsMt (eaSite ea) && (List.range 4).any (fun n =>
    let w := OpWord.ofBits (e.agnWord n)
    bitSet (e.agnb n) 6 && (e.op (32 + n)).cut && (w.sa.toNat == p || w.sb.toNat == p || w.sc.toNat == p)))

/-- Room at a destination. A channel slot buffers 2 tokens (R87), a slot input likewise (log entry 11); an input that records channel state
takes every token, since it goes to the save area (R243, R244); and a destination that a splice has not yet handed to the producer's task has
none (R175). -/
def destRoom (s : State) (site : SiteNo) (ctx : BitVec 2) (owner : Option Nat) (net : Net) (d : Dest) : Bool :=
  let r := s.elem (siteEa site 1) ctx
  let b := s.elem (siteEa site 0) ctx
  match net, d with
  | .data, .out k => decide ((tabGet r.outq k []).length < 2) && r.task == owner
  | .ctl, .out k => decide ((tabGet r.outc k []).length < 2) && r.task == owner
  | .data, .tile p =>
    (decide ((b.queue p).length < portDepth (siteEa site 0) b p) || cutAmong (b.queue p) || portCaptured (siteEa site 0) b p) && b.task == owner
  | .ctl, .tile p => (decide ((b.ctlQueue p).length < 8) || cutAmongCtl (b.ctlQueue p) || b.captured) && b.task == owner
  | .data, .slot n i =>
    (decide ((r.queue (slotKey n i)).length < 2) || cutAmong (r.queue (slotKey n i)) || (r.op (16 + n)).cut) && r.task == owner
  | .ctl, .slot n i =>
    (decide ((r.ctlQueue (slotKey n i)).length < 2) || cutAmongCtl (r.ctlQueue (slotKey n i)) || (r.op (16 + n)).cut) && r.task == owner

/-- Every destination has room. -/
def roomFor (s : State) (site : SiteNo) (ctx : BitVec 2) (owner : Option Nat) (net : Net) (ds : List Dest) : Bool :=
  ds.all (destRoom s site ctx owner net)

/-! ## Firings, traces (R257, R260) -/

/-- Write one trace record of 16 bytes, or count a drop when the ring is full (Tables 11-4, 11-7). -/
def traceRecord (s : State) (ea : EAddr) (ctx : BitVec 2) (evt : Nat) (t : Token) : State :=
  let p := s.part (partOfSite s (eaSite ea))
  if p.ptrace.toNat % 2 = 0 then s
  else
    let k := bits p.ptrace.toNat 1 5
    let base := bits p.ptrace.toNat 12 40 * 4096
    let cb := bits p.ptrcb.toNat 6 46 * 64
    let widx := memNat s.dmem cb 4
    let drop := memNat s.dmem (cb + 4) 4
    let ridx := memNat s.dmem (cb + 8) 4
    if (widx + 2 ^ 32 - ridx) % 2 ^ 32 = 2 ^ k then { s with dmem := memSetNat s.dmem (cb + 4) 4 (satAdd32 drop 1) }
    else
      let rec_ := natToBytes 8 s.time ++ natToBytes 2 ea.toNat ++ natToBytes 1 (ctx.toNat + 4 * evt) ++ natToBytes 1 0
        ++ natToBytes 4 (t.seq.toNat + 2 ^ 20 * (t.wrap.toNat % 4096))
      let m := memSetBytes s.dmem (base + 16 * (widx % 2 ^ k)) rec_
      { s with dmem := memSetNat m cb 4 ((widx + 1) % 2 ^ 32) }

/-- TRCTL of an element context (R260). -/
def trctl (ea : EAddr) (e : ElemCtx) : Nat :=
  if eaElem ea = 1 then e.field (64 + 16 * 6) else if siteIsMt (eaSite ea) then e.field 28 else e.field 21

/-- Record an event that tracing always records while TEN is set: 2 breakpoint, 3 fault, 4 cut, 5 LEVEL 7. -/
def traceEvent (s : State) (ea : EAddr) (ctx : BitVec 2) (evt : Nat) (t : Token) : State :=
  if trctl ea (s.elem ea ctx) % 2 = 1 then traceRecord s ea ctx evt t else s

/-- II unit of an operator: AGN n of an MT body has page n; a CT context and a router context have one page. -/
def iiUnit (ea : EAddr) (opIdx : Nat) : Nat := if eaElem ea = 0 && siteIsMt (eaSite ea) then opIdx - 32 else 0

/-- One operator of a context has fired: IIFIRE, the trace sample, the time of the firing for II and the watchdog. -/
def noteFiring (s : State) (ea : EAddr) (ctx : BitVec 2) (opIdx : Nat) (t : Token) : State :=
  let e := s.elem ea ctx
  let tr := trctl ea e
  let take := tr % 2 = 1 ∧ e.fires % 2 ^ bits tr 1 4 = 0
  let s := s.modElem ea ctx (fun e =>
    let o := e.op opIdx
    { (e.setOp opIdx { o with lastFire := s.time + 1 }) with
      fires := e.fires + 1
      ii := tabMod e.ii (16 * iiUnit ea opIdx) 0 (fun n => satAdd32 n 1) })
  let s := if take then traceRecord s ea ctx 1 t else s
  let s := if t.isEnd then traceEvent s ea ctx 5 t else s
  match e.task with
  | none => s
  | some uid => s.modTask uid (fun k => { k with lastFire := s.time, excused := 0 })

/-! ## Task faults and sinks -/

/-- A task fault raised by the TD or the BU (R234): one record at the region's origin, and the end it brings. -/
def taskFault (s : State) (uid : Nat) (cls : Nat) (end_ : BitVec 4) (aux : Nat) : State :=
  match s.task? uid with
  | none => s
  | some t =>
    let ea := siteEa (siteAt t.row0 t.col0) 0
    let p := partOfSite s (eaSite ea)
    let n := (s.part p).fnum + 1
    let f := { faultInfo cls 0 14 Token.zero with aux := aux }
    let s := s.modPart p (fun r =>
      { r with fnum := n,
               frHeld := r.frHeld ++ [{ bytes := faultBytes s ea 0 n (some uid) f, blk := siteBlock (eaSite ea),
                                        task := some uid, stop := true }] })
    s.modTask uid (fun t =>
      { t with phase := .freezing
               fault := some (earlierFault t.fault { cls := end_, reason := BitVec.ofNat 8 cls, unit := ea, detail := BitVec.ofNat 32 n, addr := 0, time := s.time }) })

/-- The operator of a tile body that takes the tokens of a port, as UNIT of a fault record (Table 10-2): the first stage or AGN that names the
port. -/
def portUnit (ea : EAddr) (e : ElemCtx) (p : Nat) : Nat :=
  let names := fun (w : DWord) => let o := OpWord.ofBits w; o.sa.toNat == p || o.sb.toNat == p || o.sc.toNat == p
  if siteIsMt (eaSite ea) then 8 + ((List.range 4).find? (fun n => bitSet (e.agnb n) 6 && names (e.agnWord n))).getD 0
  else ((List.range 6).find? (fun n => e.stageOn n && names (e.stageWord n))).getD 0

/-- An element receives a data or header token at a port or mesh direction: a residue mismatch on a valid lane sets ETAG, counts ECNT and posts
RESIDUE (R215). -/
def receiveToken (s : State) (ea : EAddr) (ctx : BitVec 2) (port : Nat) (t : Token) : State × Token :=
  if t.kind = .data ∨ t.kind = .header then
    match badLane t with
    | none => (s, t)
    | some j =>
      let f := { faultInfo 7 0 (if eaElem ea = 1 then 7 else portUnit ea (s.elem ea ctx) port) t with
                 lane := j, slot := port, fdet := resNat t.res j * 16 + residue15 (laneNat t.pay j) }
      (loggedRecord (countErr s ea 0) ea ctx f, t.tag)
  else (s, t)

/-- The source that stamped a record is one whose records can be computed or read again alike: not a `rand` (R219). -/
def repairable (s : State) (src : BitVec 20) (ctx : BitVec 2) : Bool :=
  let ea : EAddr := src.extractLsb' 4 16
  siteIsMt (eaSite ea) || opcodeOf ((s.elem ea ctx).stageWord (src.toNat % 16 - 1)) != 386

/-- A sink, or an output that nothing names, takes a data token: a tagged record enters the repair list, and in a repair pass raises UNCORRECTED,
unless its source is a `rand`, which poisons the task (R217, R219, R221, R411). -/
def sinkToken (s : State) (ea : EAddr) (ctx : BitVec 2) (t : Token) : State :=
  if t.etag && (t.kind == .data || t.kind == .header) then
    match (s.elem ea ctx).task with
    | none => s
    | some uid =>
      match s.task? uid with
      | some k =>
        if 0 < k.repaired then (if repairable s t.src ctx then taskFault s uid 9 6 0 else poisonTask s (some uid)) else addRepair s (some uid) t
      | none => s
  else s

/-! ## Delivery -/

/-- A channel slot forwards a token: R258 counts it. -/
def countSlot (e : ElemCtx) (d c n : Nat) : ElemCtx := { e with ii := tabMod e.ii (16 * (1 + d) + c) 0 (fun x => satAdd32 x n) }

/-- Hand a data token to one destination. -/
def pushData (s : State) (site : SiteNo) (ctx : BitVec 2) (t : Token) (d : Dest) : State :=
  match d with
  | .out k =>
    s.modElem (siteEa site 1) ctx (fun r =>
      { r with outq := tabMod r.outq k [] (fun l => l ++ [{ t with route := BitVec.ofNat 10 (bits (r.field k) 5 10) }]) })
  | .tile p =>
    let (s, t) := receiveToken s (siteEa site 0) ctx p t
    s.modElem (siteEa site 0) ctx (fun b => b.setQueue p (b.queue p ++ [t]))
  | .slot n i =>
    s.modElem (siteEa site 1) ctx (fun r => r.setQueue (slotKey n i) (r.queue (slotKey n i) ++ [t]))

/-- Hand a control token to one destination. -/
def pushCtl (s : State) (site : SiteNo) (ctx : BitVec 2) (c : Ctl) (d : Dest) : State :=
  match d with
  | .out k => s.modElem (siteEa site 1) ctx (fun r => { r with outc := tabMod r.outc k [] (fun l => l ++ [c]) })
  | .tile p => s.modElem (siteEa site 0) ctx (fun b => b.setCtlQueue p (b.ctlQueue p ++ [c]))
  | .slot n i => s.modElem (siteEa site 1) ctx (fun r => r.setCtlQueue (slotKey n i) (r.ctlQueue (slotKey n i) ++ [c]))

/-- Destinations of a source of a site's router. -/
def destsOf (s : State) (site : SiteNo) (ctx : BitVec 2) (net : Net) (code : Nat) : List Dest :=
  (s.elem (siteEa site 1) ctx).dests net code

/-- Deliver a data token from a source to every field that names it. A source that nothing names acts as a sink (R285,
R411; for tile outputs log entry 11). -/
def deliverData (s : State) (site : SiteNo) (ctx : BitVec 2) (code : Nat) (t : Token) : State :=
  match destsOf s site ctx .data code with
  | [] => sinkToken s (siteEa site 1) ctx t
  | ds => ds.foldl (fun s d => pushData s site ctx t d) s

/-- Deliver a control token from a source to every field that names it. -/
def deliverCtl (s : State) (site : SiteNo) (ctx : BitVec 2) (code : Nat) (c : Ctl) : State :=
  (destsOf s site ctx .ctl code).foldl (fun s d => pushCtl s site ctx c d) s

/-- A source of a router has room at every destination. -/
def roomAt (s : State) (site : SiteNo) (ctx : BitVec 2) (owner : Option Nat) (net : Net) (code : Nat) : Bool :=
  roomFor s site ctx owner net (destsOf s site ctx net code)

/-! ## Tile outputs -/

/-- An output port of a tile body is in use: STGCTL enables it in a CT; every port of an MT is. -/
def outputOn (ea : EAddr) (e : ElemCtx) (p : Nat) : Bool := siteIsMt (eaSite ea) || bitSet (e.field 12) (10 + p)

/-- Room behind tile output p. -/
def outputRoom (s : State) (ea : EAddr) (ctx : BitVec 2) (p : Nat) : Bool :=
  let e := s.elem ea ctx
  !outputOn ea e p || roomAt s (eaSite ea) ctx e.task .data (4 + p)

/-- Send a data token from tile output p: the router receives it. -/
def outputSend (s : State) (ea : EAddr) (ctx : BitVec 2) (p : Nat) (t : Token) : State :=
  if outputOn ea (s.elem ea ctx) p then
    let (s, t) := receiveToken s (siteEa (eaSite ea) 1) ctx (4 + p) { t with rsv := 0 }
    deliverData s (eaSite ea) ctx (4 + p) t
  else s

/-- Room behind tile control output c. -/
def ctlOutputRoom (s : State) (ea : EAddr) (ctx : BitVec 2) (c : Nat) : Bool :=
  roomAt s (eaSite ea) ctx (s.elem ea ctx).task .ctl (4 + c)

/-- Send a control token from tile control output c. -/
def ctlOutputSend (s : State) (ea : EAddr) (ctx : BitVec 2) (c : Nat) (k : Ctl) : State :=
  deliverCtl s (eaSite ea) ctx (4 + c) k

end Sys2Proof.Machine
end

