-- ==== Sys2Proof/Machine/LoadCheck.lean ====
section
/-! DEFINITION. Machine/LoadCheck.lean: the checks an element makes of one operator word when the word's stage, slot or
AGN becomes enabled (R290 to R297, R315): the reference entry of every operator as a table, and the first field, in
the order of Table 13-1, that fails, with its REASON (R281). -/

namespace Sys2Proof.Machine

/-- What a reference entry permits in each field of its word. An empty list means the field must be zero. -/
structure Entry where
  fmts : List Nat
  rnds : List Nat
  sat  : Bool
  sa   : List Nat
  sb   : List Nat
  sc   : List Nat
  dst  : List Nat
  /-- KIDX is named by the entry whatever the sources are -/
  kidx : List Nat
  pg   : Bool
  /-- IMM belongs to the operator; otherwise it is a code 6 scalar or zero -/
  imm  : Bool
  /-- check of IMM, alone or against other fields: the REASON of a failure -/
  rule : OpWord → Option Nat
  /-- what the entry asks of a field of the higher half beyond its list of values, by its place in Table 13-1: 2 FMT,
  3 RND, 4 SAT, 5 SA, 6 SB, 7 SC, 8 DST -/
  more : Nat → OpWord → Option Nat := fun _ _ => none

/-- Codes 0 to n. -/
def upTo (n : Nat) : List Nat := List.range (n + 1)

/-- No further rule. -/
def noRule : OpWord → Option Nat := fun _ => none

/-- Bits [31:n] of IMM must be zero. -/
def immBelow (w : OpWord) (n : Nat) : Option Nat := if w.imm.toNat < 2 ^ n then none else some 1

/-- A field of IMM. -/
def immField (w : OpWord) (lo n : Nat) : Nat := w.imm.toNat / 2 ^ lo % 2 ^ n

/-- A check with a REASON. -/
def must (b : Bool) (reason : Nat) : Option Nat := if b then none else some reason

/-- The first failure of a list. -/
def firstFail : List (Option Nat) → Option Nat
  | [] => none
  | none :: t => firstFail t
  | some r :: _ => some r

/-- Integer formats with FMT 0, signed integer formats with FMT 0, and integer formats with masks. -/
def fInt : List Nat := upTo 7
def fSigned : List Nat := [0, 1, 3, 5, 7]
def fMask : List Nat := upTo 7 ++ [14]
def fFloat : List Nat := [0, 10, 11, 12, 13]
def fAny : List Nat := upTo 14
def fData : List Nat := [1, 2, 3, 4, 5, 6, 7, 8, 9, 10, 11, 12, 13, 14]

/-- Element-wise entries with one, two and three sources (R317, R347). -/
def eltwise1 (fmts rnds : List Nat) (sat : Bool) : Entry :=
  { fmts := fmts, rnds := rnds, sat := sat, sa := upTo 7, sb := [], sc := [], dst := upTo 7, kidx := [], pg := true,
    imm := false, rule := noRule }
def eltwise2 (fmts rnds : List Nat) (sat : Bool) : Entry := { eltwise1 fmts rnds sat with sb := upTo 7 }
def eltwise3 (fmts rnds : List Nat) (sat : Bool) : Entry := { eltwise2 fmts rnds sat with sc := upTo 7 }

/-- A router entry: every field zero but IMM as the rule says (Table 13-3). -/
def routerEntry (rule : OpWord → Option Nat) : Entry :=
  { fmts := [], rnds := [], sat := false, sa := [], sb := [], sc := [], dst := [], kidx := [], pg := false, imm := true,
    rule := rule }

/-- An MT entry: SA a port; SB, SC, DST and KIDX as given. -/
def memEntry (fmts sb sc dst kidx : List Nat) (rule : OpWord → Option Nat) : Entry :=
  { fmts := fmts, rnds := [], sat := false, sa := upTo 3, sb := sb, sc := sc, dst := dst, kidx := kidx, pg := false,
    imm := true, rule := rule }

/-- Source and synchronisation entries. -/
def syncEntry (fmts sa dst kidx : List Nat) (pg : Bool) (rule : OpWord → Option Nat) : Entry :=
  { fmts := fmts, rnds := [], sat := false, sa := sa, sb := [], sc := [], dst := dst, kidx := kidx, pg := pg,
    imm := true, rule := rule }

/-- Conversions: PART lies below Es / Ed when widening and is 0 otherwise (R342, R351). -/
def partOk (src dst part : Nat) : Bool :=
  let es := fmtElems src
  let ed := fmtElems dst
  if src = 0 then true else if ed < es then decide (part < es / ed) else part == 0

/-- `fcvt` (R351). -/
def fcvtRule (w : OpWord) : Option Nat :=
  let f := w.fmt.toNat
  let d := immField w 0 4
  let p := immField w 4 3
  firstFail [immBelow w 7, must (decide (1 ≤ d) && decide (d ≤ 13)) 3,
    must (f == 0 || (f != d && (fmtFloat f || fmtFloat d))) 4, must (partOk f d p) 4]

/-- RND, SAT and SB of `fcvt` by its formats (R351). -/
def fcvtMore (field : Nat) (w : OpWord) : Option Nat :=
  let f := w.fmt.toNat
  let d := immField w 0 4
  match field with
  | 3 => must (w.rnd != 2 || (decide (8 ≤ d) && decide (d ≤ 11) && (f == 0 || decide (16 ≤ fmtWidth f)))) 3
  | 4 => must (w.sat == 0 || !(decide (1 ≤ d) && decide (d ≤ 7))) 3
  | 6 => if w.rnd = 2 then must (w.sb != w.sa) 3 else must (w.sb == 0) 1
  | _ => none

/-- FMT, RND and SAT of `lred` and `lscan` by their ROP (R377). -/
def reduceMore (field : Nat) (w : OpWord) : Option Nat :=
  let f := w.fmt.toNat
  let rop := immField w 0 3
  match field with
  | 2 => must (!fmtFloat f || decide (rop ≤ 2)) 3
  | 3 => must (w.rnd == 0 || (rop == 0 && !fmtInt f)) 3
  | 4 => must (w.sat == 0 || (rop == 0 && !fmtFloat f)) 3
  | _ => none

/-- RND and SAT of `acck` by FMT and OPK (R318). -/
def acckMore (field : Nat) (w : OpWord) : Option Nat :=
  match field with
  | 3 => must (w.rnd == 0 || fmtFloat w.fmt.toNat) 3
  | 4 => must (w.sat == 0 || (immField w 0 2 == 0 && fmtInt w.fmt.toNat)) 3
  | _ => none

/-- FMT and SC of `atom` by AOP (R323, Table 15-4). -/
def atomMore (field : Nat) (w : OpWord) : Option Nat :=
  let aop := immField w 0 4
  match field with
  | 2 => must (if aop = 7 then fmtFloat w.fmt.toNat else fmtInt w.fmt.toNat) 3
  | 7 => must (aop == 6 || w.sc == 0) 1
  | _ => none

/-- SB and DST of `probe` by MODE (R394). -/
def probeMore (field : Nat) (w : OpWord) : Option Nat :=
  match field with
  | 6 => must (immField w 0 2 != 0 || w.sb == 0) 1
  | 8 => must (immField w 0 2 != 0 || w.dst != 7) 3
  | _ => none

/-- FMT of `cpy` is 0 when T is (R340). -/
def cpyMore (field : Nat) (w : OpWord) : Option Nat :=
  if field = 2 then must (immField w 16 2 != 0 || w.fmt == 0) 1 else none

/-- `mma` and `mmab` have at most one operand in scratchpad (R385). -/
def mfeMore (field : Nat) (w : OpWord) : Option Nat :=
  if field = 6 then must (!(w.sa == 5 && w.sb == 5)) 4 else none

/-- The synchronisation immediate (Table 15-5). -/
def syncRule (w : OpWord) : Option Nat := must (immField w 15 1 == 0 && immField w 24 8 == 0) 1

/-- The entry of an opcode (CLS * 64 + OP). -/
def entryOf : Nat → Option Entry
  -- class 0
  | 0 => some (eltwise2 fInt [] true)
  | 1 => some (eltwise2 fInt [] true)
  | 2 => some (eltwise2 fInt [] true)
  | 3 => some (eltwise2 fInt [] false)
  | 4 => some (eltwise3 fInt [] true)
  | 5 => some (eltwise2 fInt [] false)
  | 6 => some (eltwise2 fInt [] false)
  | 7 => some (eltwise1 fSigned [] true)
  | 8 => some (eltwise1 fSigned [] true)
  | 9 => some (eltwise2 fMask [] false)
  | 10 => some (eltwise2 fMask [] false)
  | 11 => some (eltwise2 fMask [] false)
  | 12 => some (eltwise2 fMask [] false)
  | 13 => some (eltwise2 fInt [] true)
  | 14 => some (eltwise2 fInt [] false)
  | 15 => some (eltwise2 fInt [] false)
  | 16 => some (eltwise2 fInt [] false)
  | 17 => some (eltwise1 fInt [] false)
  | 18 => some (eltwise1 fInt [] false)
  | 19 => some { eltwise2 fInt [] false with
      imm := true, rule := fun w => firstFail [must (decide (immField w 0 3 ≤ 5)) 3, immBelow w 3] }
  | 20 => some { eltwise3 fAny [] false with sa := upTo 5 }
  | 21 => some { eltwise1 [1, 2, 3, 4, 5, 6, 7] [] true with
      imm := true
      rule := fun w => firstFail [immBelow w 7,
        must (decide (1 ≤ immField w 0 4) && decide (immField w 0 4 ≤ 7)) 3,
        must (partOk w.fmt.toNat (immField w 0 4) (immField w 4 3)) 4] }
  | 22 => some { eltwise2 [1, 2] [] true with sa := upTo 6, sb := upTo 6, sc := [0, 1, 2, 3, 4, 5, 7] }
  | 23 => some { eltwise2 [3, 4] [] true with sa := upTo 6, sb := upTo 6, sc := [0, 1, 2, 3, 4, 5, 7] }
  | 24 => some { eltwise1 [1, 2, 3, 4, 5, 6, 7] [] false with
      imm := true
      rule := fun w => firstFail [immBelow w 15, must (immField w 7 7 != 0) 3,
        must (decide (immField w 0 7 + immField w 7 7 ≤ fmtWidth w.fmt.toNat)) 4] }
  | 25 => some { eltwise2 [1, 2, 3, 4, 5, 6, 7] [] false with
      imm := true
      rule := fun w => firstFail [immBelow w 14, must (immField w 7 7 != 0) 3,
        must (decide (immField w 0 7 + immField w 7 7 ≤ fmtWidth w.fmt.toNat)) 4] }
  -- class 1
  | 64 => some (eltwise2 fFloat [0, 1] false)
  | 65 => some (eltwise2 fFloat [0, 1] false)
  | 66 => some (eltwise2 fFloat [0, 1] false)
  | 67 => some (eltwise3 fFloat [0, 1] false)
  | 68 => some (eltwise3 fFloat [0, 1] false)
  | 69 => some (eltwise2 fFloat [] false)
  | 70 => some (eltwise2 fFloat [] false)
  | 71 => some (eltwise1 fFloat [] false)
  | 72 => some (eltwise1 fFloat [] false)
  | 73 => some { eltwise2 fFloat [] false with
      imm := true, rule := fun w => firstFail [must (decide (immField w 0 3 ≤ 6)) 3, immBelow w 3] }
  | 74 => some (eltwise1 fFloat [] false)
  | 75 => some { eltwise1 (upTo 13) [0, 1, 2] true with sb := upTo 3, imm := true, rule := fcvtRule, more := fcvtMore }
  | 76 => some (eltwise1 fFloat [] false)
  | 77 => some (eltwise1 fFloat [] false)
  | 78 => some (eltwise1 fFloat [0, 1] false)
  | 79 => some (eltwise1 fFloat [] false)
  | 80 => some (eltwise1 fFloat [] false)
  | 81 => some (eltwise1 fFloat [] false)
  | 82 => some (eltwise1 fFloat [] false)
  | 83 => some (eltwise2 fFloat [0, 1] false)
  -- class 2
  | 128 => some (eltwise1 fAny [] false)
  | 129 => some { eltwise1 fAny [] false with
      dst := [0, 1, 2, 3, 4, 7], kidx := upTo 7, imm := true,
      rule := fun w => firstFail [immBelow w 16, must (w.imm != 0) 3] }
  | 130 => some { eltwise1 fAny [] false with
      dst := [0, 1, 2, 3, 4, 7], kidx := upTo 7, imm := true,
      rule := fun w => firstFail [immBelow w 2, must (w.imm != 3) 3] }
  | 131 => some { eltwise1 [1, 2, 3, 4, 5, 6, 7, 10, 11, 12, 13] [0, 1] true with
      dst := [0, 1, 2, 3, 4, 7], kidx := upTo 7, imm := true,
      rule := fun w => firstFail [immBelow w 6, must (immField w 0 2 != 3) 3], more := acckMore }
  | 132 => some { eltwise1 (upTo 7 ++ [10, 11, 12, 13]) [0, 1] true with
      imm := true
      rule := fun w => firstFail [immBelow w 4, must (decide (immField w 0 3 ≤ 5)) 3], more := reduceMore }
  | 133 => some { eltwise1 (upTo 7 ++ [10, 11, 12, 13]) [0, 1] true with
      imm := true
      rule := fun w => firstFail [immBelow w 4, must (decide (immField w 0 3 ≤ 5)) 3], more := reduceMore }
  | 134 => some { eltwise1 fAny [] false with imm := true, rule := fun w => immBelow w 4 }
  | 135 => some { eltwise1 fAny [] false with imm := true, rule := fun w => immBelow w 4 }
  | 136 => some { eltwise2 fAny [] false with sb := upTo 5, rule := fun w => immBelow w 0 }
  | 137 => some { eltwise1 fAny [] false with
      sa := upTo 4, dst := [0, 1, 2, 3, 4, 7], kidx := upTo 7, imm := true,
      rule := fun w => firstFail [immBelow w 10,
        must (w.fmt == 0 || decide (immField w 0 6 < fmtElems w.fmt.toNat)) 4] }
  | 138 => some { eltwise1 fData [] false with
      dst := [0, 1, 2, 3, 4, 7], kidx := upTo 7, pg := false, rule := fun w => immBelow w 0 }
  | 139 => some { eltwise1 [] [] false with
      sa := upTo 4, dst := [0, 1, 2, 3, 4, 7], kidx := upTo 7, pg := false, imm := true,
      rule := fun w => immBelow w 0 }
  | 140 => some { eltwise1 [14] [] false with
      sa := upTo 5, dst := [0, 1, 2, 3, 4, 7], pg := false, imm := true,
      rule := fun w => firstFail [immBelow w 8, must (immField w 0 2 != 3) 3,
        must (immField w 0 2 == 2 || immField w 2 4 == 0) 1] }
  | 141 => some { eltwise1 [1, 2, 3, 4, 5, 6, 7] [] false with imm := true, rule := noRule }
  -- class 3
  | 192 => some mfeEntry
  | 193 => some mfeEntry
  | 194 => some { eltwise1 [1, 2, 8, 9, 10, 11] [] false with
      sa := upTo 4, dst := [7], pg := false, imm := true,
      rule := fun w => firstFail [immBelow w 11, must (immField w 10 1 == 0 || w.fmt == 8) 4] }
  | 195 => some { eltwise1 [] [] false with
      sa := upTo 4, dst := [7], pg := false, imm := true, rule := fun w => immBelow w 0 }
  | 196 => some { eltwise1 [] [] false with
      sa := upTo 4, dst := [7], pg := false, imm := true,
      rule := fun w => firstFail [immBelow w 18, must (decide (1 ≤ immField w 9 9) && decide (immField w 9 9 ≤ 256)) 3,
        must (decide (immField w 1 8 + immField w 9 9 ≤ 256)) 4] }
  | 197 => some { eltwise1 [5, 12] [] false with
      sa := upTo 4, pg := false, imm := true, rule := fun w => immBelow w 12 }
  | 198 => some { eltwise1 [5, 12] [] false with
      sa := upTo 4, dst := [7], pg := false, imm := true, rule := fun w => immBelow w 12 }
  -- class 4
  | 256 => some (routerEntry (fun w => immBelow w 0))
  | 257 => some (routerEntry (fun w => immBelow w 0))
  | 258 => some (routerEntry (fun w => immBelow w 4))
  | 259 => some (routerEntry (fun w => immBelow w 4))
  | 260 => some (routerEntry (fun w => immBelow w 1))
  | 261 => some (routerEntry (fun w => immBelow w 1))
  | 262 => some (routerEntry (fun w => firstFail [immBelow w 2, must (w.imm != 0) 4]))
  | 263 => some (routerEntry (fun w => immBelow w 0))
  | 264 => some (routerEntry (fun w => immBelow w 0))
  | 265 => some (routerEntry (fun w => immBelow w 0))
  | 266 => some { routerEntry (fun w => immBelow w 5) with fmts := fAny }
  | 267 => some (routerEntry (fun w => firstFail [immBelow w 3, must (decide (w.imm.toNat ≤ 4)) 3]))
  | 268 => some (routerEntry (fun w => immBelow w 0))
  | 269 => some { routerEntry (fun w => firstFail [immBelow w 16, must (immField w 5 3 == 0) 1,
      must (decide (1 ≤ immField w 0 4) && decide (immField w 0 4 ≤ 8)) 3,
      must (immField w 4 1 == 0 || immField w 8 8 == 0) 1]) with fmts := [5, 6, 12] }
  | 270 => some (routerEntry (fun w => immBelow w 7))
  -- class 5
  | 320 => some (memEntry fData [] [] (upTo 3) [7] (fun w =>
      firstFail [immBelow w 25, must (immField w 16 2 != 3) 3]))
  | 321 => some (memEntry fData (upTo 3) [] [7] [0, 1, 2, 3, 7] (fun w => immBelow w 0))
  | 322 => some (memEntry fData [] [] (upTo 3) [7] (fun w => immBelow w 0))
  | 323 => some (memEntry [1, 2, 3, 4, 5, 6, 7, 8, 9, 10, 11, 12, 13] (upTo 3) [] [7] [0, 1, 2, 3, 7]
      (fun w => immBelow w 0))
  | 324 => some (memEntry fData [] [] (upTo 3) [7] (fun w =>
      firstFail [must (decide (immField w 3 3 ≤ 6)) 3, must (decide (1 ≤ immField w 16 16)) 3]))
  | 325 => some { memEntry [5, 6, 7, 12, 13] (upTo 3) (upTo 3) [0, 1, 2, 3, 7] [0, 1, 2, 3, 7] (fun w =>
      firstFail [immBelow w 8, must (decide (immField w 0 4 ≤ 7)) 3]) with more := atomMore }
  | 326 => some (memEntry [] [] [] (upTo 3) [7] (fun w => firstFail [immBelow w 3, must (immField w 0 2 != 0) 3]))
  | 327 => some { memEntry [7, 13] (upTo 3) [] [0, 1, 2, 3, 7] [0, 1, 2, 3, 7] (fun w =>
      firstFail [immBelow w 15, must (immField w 0 2 != 3) 3,
        must (decide (1 ≤ immField w 2 5) && decide (immField w 2 5 ≤ 16)) 3, must (decide (1 ≤ immField w 7 8)) 3]) with more := probeMore }
  | 328 => some (memEntry [] (upTo 3) [] [0, 1, 2, 3, 7] [0, 1, 2, 3, 7] (fun w => immBelow w 0))
  | 329 => some { memEntry fAny [] [] [7] [0, 1, 2, 3, 7] (fun w =>
      firstFail [immBelow w 20, must (decide (1 ≤ immField w 0 16)) 3, must (immField w 16 2 != 3) 3,
        must (immField w 18 2 != 3) 3]) with more := cpyMore }
  -- class 6
  | 384 => some (syncEntry [] [] (upTo 4) [] false (fun w => immBelow w 0))
  | 385 => some (syncEntry [] [0, 1, 2, 3, 7] (upTo 4) (upTo 7) false (fun w =>
      firstFail [immBelow w 16, must ((w.sa == 7) == (w.imm != 0)) 4]))
  | 386 => some (syncEntry [] [0, 1, 2, 3, 7] (upTo 4) [] false (fun w =>
      firstFail [immBelow w 17, must ((w.sa == 7) == (immField w 0 16 != 0)) 4,
        must (w.sa != 7 || immField w 16 1 == 0) 4]))
  | 387 => some (syncEntry [1, 2, 3, 4, 5, 6, 7] [7] (upTo 4) [] false (fun w =>
      must (decide (1 ≤ immField w 0 16)) 3))
  | 388 => some (syncEntry [] (upTo 3) [0, 1, 2, 3, 4, 7] [] false syncRule)
  | 389 => some (syncEntry [] (upTo 3) (upTo 4) [] false syncRule)
  | 390 => some (syncEntry [] (upTo 3) (upTo 4) [] false syncRule)
  | 391 => some (syncEntry [] (upTo 3) (upTo 4) [] false (fun w => immBelow w 8))
  | 392 => some (syncEntry fAny (upTo 3) (upTo 3) (upTo 7) false (fun w =>
      firstFail [immBelow w 23, must (decide (1 ≤ immField w 0 16)) 3,
        must (immField w 20 1 == 0 || immField w 22 1 == 1) 4, must (immField w 16 2 != w.dst.toNat) 4]))
  | 393 => some (syncEntry [] (upTo 3) [0, 1, 2, 3, 4, 7] [] true (fun w => immBelow w 12))
  | _ => none
where
  /-- `mma` and `mmab` (R385). -/
  mfeEntry : Entry :=
    { eltwise1 [1, 2, 8, 9, 10, 11] [] false with
      sa := upTo 5, sb := [5, 7], dst := [7], pg := false, imm := true
      rule := fun w => firstFail [immBelow w 27, must (immField w 9 2 != 3) 3,
        must (decide (immField w 11 5 + 8 * 2 ^ immField w 9 2 ≤ 32)) 4, must (immField w 16 1 == 0 || w.fmt == 8) 4]
      more := mfeMore }

/-- A field against its permitted values: an empty list means it must be zero. -/
def checkField (vals : List Nat) (v : Nat) : Option Nat :=
  if vals.isEmpty then must (v == 0) 1 else must (vals.contains v) 3

/-- The scalar of source code 6: which bits of IMM must be zero (R292), or all of them without a code 6. `fscl` reads
its own widths (R350). -/
def scalarOk (w : OpWord) : Option Nat :=
  let six := w.sa == 6 || w.sb == 6 || w.sc == 6
  if !six then must (w.imm == 0) 1
  else if fmtWidth w.fmt.toNat = 8 then immBelow w 8
  else if fmtWidth w.fmt.toNat = 16 then immBelow w 16
  else none

/-- KIDX is named when a source is code 5, the destination is 5 or 6, or the entry names it. -/
def kidxOk (e : Entry) (code : Nat) (w : OpWord) : Option Nat :=
  if code / 64 = 5 then checkField e.kidx w.kidx.toNat
  else if !e.kidx.isEmpty || w.sa == 5 || w.sb == 5 || (w.sc == 5 && !e.sc.isEmpty) || w.dst == 5 || w.dst == 6 then none
  else must (w.kidx == 0) 1

/-- The first field that fails, in the order of Table 13-1, with its REASON and whether it stands in the higher field
(R295). `stage` is the stage of a CT word, 8 for slots and AGNs. -/
def checkWord (code stage : Nat) (w : OpWord) : Option (Nat × Bool) :=
  match entryOf code with
  | none => some (2, true)
  | some e =>
    let hi := fun (r : Option Nat) => r.map (fun x => (x, true))
    let lo := fun (r : Option Nat) => r.map (fun x => (x, false))
    let six := w.sa == 6 || w.sb == 6 || w.sc == 6
    let more := fun (field : Nat) => hi (e.more field w)
    (hi (if w.fmt == 15 then some 2 else checkField e.fmts w.fmt.toNat)) <|> more 2 <|>
    (hi (if w.rnd == 3 then some 2 else if e.rnds.isEmpty then must (w.rnd == 0) 1 else must (e.rnds.contains w.rnd.toNat) 3)) <|>
    more 3 <|> (hi (must (e.sat || w.sat == 0) 1)) <|> more 4 <|>
    (hi (checkField e.sa w.sa.toNat)) <|>
    (hi (must (stage != 0 || w.sa != 4) 4)) <|> more 5 <|>
    (hi (must (w.pg == 0 || !e.pg || decide (w.sa.toNat ≤ 5)) 4)) <|>
    (hi (checkField e.sb w.sb.toNat)) <|>
    (hi (must (stage != 0 || e.sb.isEmpty || w.sb != 4) 4)) <|> more 6 <|>
    (hi (checkField e.sc w.sc.toNat)) <|>
    (hi (must (stage != 0 || e.sc.isEmpty || w.sc != 4) 4)) <|> more 7 <|>
    (hi (must (!(six && ((e.imm && code / 64 < 3) || (!e.imm && w.fmt == 0)))) 4)) <|>
    (hi (checkField e.dst w.dst.toNat)) <|>
    (hi (must (stage != 5 || code / 64 = 5 || (w.dst != 4 && w.dst != 6)) 4)) <|> more 8 <|>
    (hi (kidxOk e code w)) <|>
    (hi (must (e.pg || w.pg == 0) 1)) <|>
    (lo (if e.imm then e.rule w else scalarOk w <|> e.rule w))

end Sys2Proof.Machine
end

