-- ==== Sys2Proof/Machine/Operands.lean ====
section
/-! DEFINITION. Machine/Operands.lean: how a compute-tile stage gets its operands and hands on its results, once for all
operators of classes 0, 1, 2, 3 and 6: source codes (R292), destination codes (R293), the predicate gate (R41, R294), the
matching of token kinds (R32, R316), decoders and packets (R34, R35), tags (R217, R219) and the NaN trap (R70). -/

namespace Sys2Proof.Machine

/-! ## Values of source codes 5, 6 and 7 -/

/-- The scalar of source code 6, one element of format f (R292). -/
def scalarElem (f : Nat) (imm : Word) : Nat :=
  match fmtWidth f with
  | 8 => imm.toNat % 2 ^ 8
  | 16 => imm.toNat % 2 ^ 16
  | 64 =>
    if f = 13 then roundVal (floatFmt 13) (decodeFloat (floatFmt 12) imm.toNat) .rne false
    else wrapInt 64 (intOf 32 true imm.toNat)
  | _ => imm.toNat

/-- The token of a broadcast element pattern: valid in every lane, with the residues the loader computes. -/
def broadcast (f v : Nat) : Token :=
  let p := elemsToPay (fmtWidth f) (List.replicate (fmtElems f) v)
  { Token.zero with pay := p, mask := 0xFFFF#16, res := regenRes p 0xFFFF#16 }

/-- The token of source code 7: zero in every lane. -/
def zeroSource : Token := { Token.zero with mask := 0xFFFF#16 }

/-! ## What a stage sees and answers -/

/-- The operands of one firing. -/
structure Operands where
  fmt  : Nat
  a    : Token
  b    : Token
  c    : Token
  /-- the token that gives SEQ, DONE and provenance (R27), ETAG being the OR of all inputs (R29) -/
  side : Token
  /-- AND of the masks of the token-carrying sources (R29) -/
  mask : BitVec 16
  /-- elements of this token that a packet's COUNT covers; all of them on a bare stream -/
  count : Nat

/-- Where a stage stands when it fires. -/
structure View where
  ea  : EAddr
  ctx : BitVec 2
  n   : Nat
  w   : OpWord
  e   : ElemCtx
  op  : OpSt

/-- What a firing does. -/
structure StageOut where
  /-- results in order, for DST -/
  out    : List Token
  /-- state of the operator afterwards -/
  op     : OpSt
  /-- context register k[KIDX] written by the operator itself -/
  k      : Option Token
  /-- control tokens sent, each with its tile control output -/
  ctl    : List (Nat × Ctl)
  /-- a stopping fault: nothing else of the firing happens (R18) -/
  fault  : Option FaultInfo
  poison : Bool
  /-- the firing cannot end yet: the pass waits at the stage -/
  hold   : Bool

/-- A firing that emits nothing. -/
def StageOut.quiet (op : OpSt) : StageOut :=
  { out := [], op := op, k := none, ctl := [], fault := none, poison := false, hold := false }

/-- A firing that emits one token. -/
def StageOut.emit (op : OpSt) (t : Token) : StageOut := { StageOut.quiet op with out := [t] }

/-- A firing that faults. -/
def StageOut.stop (op : OpSt) (f : FaultInfo) : StageOut := { StageOut.quiet op with fault := some f }

/-- A firing that waits. -/
def StageOut.wait (op : OpSt) : StageOut := { StageOut.quiet op with hold := true }

/-- An operator of a stage: what it does with data, headers and markers. Data bodies may act on the machine (matrix
engine, barriers, launches); the other fields say which parts of the common rules the entry changes. -/
structure StageOp where
  /-- opcode CLS * 64 + OP -/
  code   : Nat
  /-- formats a header may give a word with FMT 0 -/
  fmts   : List Nat
  /-- port inputs of SB that take no part in kind matching (`fcvt` under RND 2) -/
  pairB  : Bool
  /-- headers are refused with CTLCOUNT and this SUB -/
  noHeader : Option Nat
  data   : State → View → Operands → State × StageOut
  header : State → View → Token → State × StageOut
  marker : State → View → Token → State × StageOut

/-- The 64-bit operator word (OPWORD of fault records). -/
def opWord64 (code : Nat) (w : OpWord) : DWord := w.toBits (BitVec.ofNat 9 code)

/-- A CTLCOUNT record of a stage with counts in AUX. -/
def ctlCount (sub n : Nat) (code : Nat) (w : OpWord) (t : Token) : FaultInfo :=
  { faultInfo 1 sub n t with word := opWord64 code w, fmts := w.fmt.toNat }

/-- A fault of another class, raised by a stage. -/
def stageFault (cls sub n : Nat) (code : Nat) (w : OpWord) (t : Token) : FaultInfo :=
  { faultInfo cls sub n t with word := opWord64 code w, fmts := w.fmt.toNat }

/-! ## Sources -/

/-- A source code that carries tokens. -/
def carries (c : Nat) : Bool := decide (c ≤ 5)

/-- The sources an operator has: SA always, SB and SC when its entry gives them codes. `mma` and `mmab` have one port
source: SA, or P0 for the headers of an A operand in scratchpad (R386). `fcvt` has SB under RND 2 alone (R351). -/
def sourceCodes (code : Nat) (w : OpWord) : List Nat :=
  if code = 192 ∨ code = 193 then [if w.sa = 5 then 0 else w.sa.toNat]
  else match entryOf code with
  | none => []
  | some e =>
    (if e.sa.isEmpty then [] else [w.sa.toNat]) ++ (if e.sb.isEmpty ∨ (code = 75 ∧ w.rnd ≠ 2) then [] else [w.sb.toNat])
      ++ (if e.sc.isEmpty then [] else [w.sc.toNat])

/-- The port token that stands at a source code: an input port's, or the previous stage's. -/
def portToken (p : Pass) (c : Nat) : Option Token :=
  if c ≤ 3 then tabGet p.ports c none else if c = 4 then p.prev else none

/-- The data operand a source code gives. -/
def sourceData (v : View) (p : Pass) (f c : Nat) : Token :=
  if c ≤ 4 then (portToken p c).getD Token.zero
  else if c = 5 then { v.e.getK v.w.kidx.toNat with kind := .data }
  else if c = 6 then broadcast f (scalarElem f v.w.imm)
  else zeroSource

/-- Sources that carry provenance disagree on who stamped the record (R411). -/
def mixedSources (l : List Token) : Bool :=
  match (l.filter (fun t => t.src != 0)).map (·.src) with
  | [] => l.any (·.multi)
  | h :: t => l.any (·.multi) || t.any (fun x => x != h)

/-- The operands of a firing from the codes of SA, SB and SC. -/
def operandsOf (v : View) (p : Pass) (f : Nat) (codes : List Nat) (count : Nat) : Operands :=
  let at_ := fun (i : Nat) => match codes[i]? with
    | none => zeroSource
    | some c => sourceData v p f c
  let carrying := ((codes.filter carries).map (sourceData v p f))
  let side := carrying.headD Token.zero
  { fmt := f, a := at_ 0, b := at_ 1, c := at_ 2
    side := { side with etag := carrying.any (·.etag), kind := .data, level := 0, rsv := 0, route := 0,
                        multi := mixedSources carrying, rand := false }
    mask := carrying.foldl (fun m t => m &&& t.mask) 0xFFFF#16
    count := count }

/-! ## Results -/

/-- The element pattern computation of most entries: `elem i` gives element i of the output, `pred` predicts the residues
(none: regenerated), `nan` the lowest element that became NaN from inputs of which none is one (R70). -/
structure ElemResult where
  pay  : Line
  pred : Option ResWord
  nan  : Option Nat

/-- Keep the residues of valid lanes (R30). -/
def maskRes (r : ResWord) (m : BitVec 16) : ResWord :=
  resToWord (lanes16.map (fun j => if maskBit m j then resNat r j else 0))

/-- The output token of a computed payload under the output mask. -/
def resultToken (o : Operands) (m : BitVec 16) (pay : Line) (pred : Option ResWord) : Token :=
  let p := maskPay pay m
  { o.side with pay := p, mask := m, kind := .data, level := 0
                res := match pred with
                  | some r => maskRes r m
                  | none => regenRes p m }

/-- The format of source n in an ARITH-NAN record: that of the operands, 0 where the operator has no such source or takes random bits
there (R71). -/
def srcFmt (code : Nat) (w : OpWord) (f n : Nat) : Nat :=
  if code ≠ 75 ∧ (n < (sourceCodes code w).length ∨ (n = 1 ∧ (code = 192 ∨ code = 193))) then f else 0

/-- ARITH-NAN record of element i of a stage (R71). -/
def nanFault (v : View) (code : Nat) (o : Operands) (f i : Nat) : FaultInfo :=
  { stageFault 2 0 v.n code v.w o.side with
    lane := fmtWidth f * i / 32, elem := i,
    fmts := v.w.fmt.toNat + 16 * o.fmt + 256 * srcFmt code v.w o.fmt 1 + 4096 * srcFmt code v.w o.fmt 2 }

/-- A data body that computes one token from the operands: the tag suppresses the NaN trap (R217). -/
def pureData (code : Nat) (f : View → Operands → BitVec 16 × ElemResult) (s : State) (v : View) (o : Operands) :
    State × StageOut :=
  let (m, r) := f v o
  match r.nan with
  | some i =>
    if nanTrap s v.e.task && !o.side.etag then (s, .stop v.op (nanFault v code o o.fmt i))
    else (s, .emit v.op (resultToken o m r.pay r.pred))
  | none => (s, .emit v.op (resultToken o m r.pay r.pred))

/-- Forward a header or marker unchanged. -/
def forward (s : State) (v : View) (t : Token) : State × StageOut := (s, .emit v.op t)

/-- An operator that computes each data token and passes headers and markers (R316). -/
def plainOp (code : Nat) (fmts : List Nat) (f : View → Operands → BitVec 16 × ElemResult) : StageOp :=
  { code := code, fmts := fmts, pairB := false, noHeader := none, data := pureData code f, header := forward,
    marker := forward }

/-! ## Delivery of results -/

/-- The result goes to k[KIDX]: DST 5 and 6, data results only (R293). -/
def dstToK (w : OpWord) : Bool := w.dst == 5 || w.dst == 6

/-- The result goes to the next stage: every port code, 4 and 6; a header or marker of DST 5 goes nowhere. -/
def dstToNext (w : OpWord) : Bool := w.dst.toNat ≤ 4 || w.dst == 6

/-- Room for what a firing sends. -/
def outRoom (s : State) (v : View) (r : StageOut) : Bool :=
  (r.out.isEmpty || 3 < v.w.dst.toNat || outputRoom s v.ea v.ctx v.w.dst.toNat)
    && r.ctl.all (fun c => ctlOutputRoom s v.ea v.ctx c.1)

/-- Move the pass on from stage n with the token for the next stage; after S5 the pass is over. -/
def passOn (e : ElemCtx) (p : Pass) (t : Option Token) : ElemCtx :=
  { e with pass := if p.stage ≥ 5 then none else some { p with stage := p.stage + 1, prev := t } }

/-- Hand the first result of a stage to its destination and move the pass on; later results wait in the operator's state
and follow as passes of their own. -/
def emitResults (s : State) (v : View) (p : Pass) (l : List Token) : State :=
  match l with
  | [] => s.modElem v.ea v.ctx (fun e => passOn e p none)
  | t :: rest =>
    let isData := t.kind == .data
    let s := if v.w.dst.toNat ≤ 3 then outputSend s v.ea v.ctx v.w.dst.toNat t else s
    let s := if (dstToK v.w && isData && t.etag) then poisonTask s v.e.task else s
    s.modElem v.ea v.ctx (fun e =>
      let e := if dstToK v.w && isData then e.setK v.w.kidx.toNat t else e
      let o := e.op v.n
      let e := e.setOp v.n { o with res := rest.map (fun x => (0, x)), ended := o.ended || t.isEnd }
      passOn e p (if dstToNext v.w then some t else none))

/-- An internal checker of the stage fires (R216): the output is tagged, RESIDUE names the stage or the MFE, and a tagged result that the MFE
has accumulated or a k register takes poisons the task (R219). -/
def checkerFires (s : State) (v : View) (t : Token) (r : StageOut) : State × StageOut :=
  if v.op.chk && t.kind == .data && r.fault.isNone && !r.hold then
    let mfe := opcodeOf (v.e.stageWord v.n) / 64 == 3
    (loggedRecord (countErr s v.ea 0) v.ea v.ctx { faultInfo 7 0 (if mfe then 6 else v.n) t with word := v.e.stageWord v.n },
     { r with out := r.out.map (fun x => x.tag), k := r.k.map (fun x => x.tag), poison := r.poison || mfe || r.k.isSome
              op := { r.op with chk := false } })
  else (s, r)

/-- Put a firing's outcome into the machine. -/
def applyOut (s : State) (v : View) (p : Pass) (t : Token) (r : StageOut) : State :=
  let (s, r) := checkerFires s v t r
  match r.fault with
  | some f => traceEvent (stopFault s v.ea v.ctx f) v.ea v.ctx 3 t
  | none =>
    if r.hold then
      s.modElem v.ea v.ctx (fun e =>
        e.setOp v.n { r.op with rem := v.op.rem, elems := v.op.elems, seen := v.op.seen, fmt := v.op.fmt })
    else
      let s := noteFiring s v.ea v.ctx v.n t
      let s := if r.poison then poisonTask s v.e.task else s
      let s := s.modElem v.ea v.ctx (fun e =>
        let e := e.setOp v.n { r.op with lastFire := s.time + 1, ended := r.op.ended || t.isEnd }
        match r.k with
        | none => e
        | some k => e.setK v.w.kidx.toNat k)
      let s := r.ctl.foldl (fun s c => ctlOutputSend s v.ea v.ctx c.1 c.2) s
      emitResults s v p r.out

/-! ## The gate -/

/-- Stage n is the how-many-th stage of its context with PG = 1 (R294). -/
def gateIndex (e : ElemCtx) (n : Nat) : Nat :=
  ((List.range n).filter (fun i => e.stageOn i && bitSet (e.stageWord i).toNat 32)).length

/-- What the gate decides for the token at hand. -/
inductive Gate where
  /-- the operator operates; the token is tagged when the control token's parity was wrong -/
  | open_ (tag : Bool)
  /-- source A passes unchanged -/
  | pass (tag : Bool)
  | mismatch
  | wait
deriving DecidableEq, Repr

/-- The gate of a stage with PG = 1: one control token per bare data token, header or marker (R40, R41); a packet's data
tokens obey the header's. -/
def gateOf (e : ElemCtx) (op : OpSt) (n : Nat) (k : TokKind) : Gate × Bool :=
  if k = .data ∧ 0 < op.rem then
    (match op.sel with
      | some false => .pass op.tagged
      | _ => .open_ op.tagged, false)
  else
    match e.ctlQueue (gateIndex e n) with
    | [] => (.wait, false)
    | c :: _ =>
      if c.cut then (.wait, false)
      else if k = .marker then (if c.b then .open_ (!c.parityOk) else .mismatch, c.b)
      else if c.b then (.mismatch, false)
      else (if c.v then .open_ (!c.parityOk) else .pass (!c.parityOk), true)

/-! ## One firing of a stage -/

/-- Follow a packet: a header starts the count of data tokens and of elements, a data token lowers it (R33, R34). -/
def trackPacket (op : OpSt) (t : Token) (gated : Option Bool) (tag : Bool) : OpSt :=
  match t.kind with
  | .header =>
    { op with rem := hdrTokens t, elems := hdrCount t, sel := gated, seen := true, hdr := some t, tagged := tag }
  | .data => { op with rem := op.rem - 1, elems := op.elems - fmtElems op.fmt.toNat }
  | _ => op

/-- A control token and the record or marker it governs have been consumed: counts since the last boundary. -/
def countPair (op : OpSt) (marker : Bool) : OpSt :=
  if marker then { op with ctlN := 0, dataN := 0 } else { op with ctlN := op.ctlN + 1, dataN := op.dataN + 1 }

/-- AUX of CTLCOUNT: control tokens and records since the last boundary, the heads included (Table 10-2). -/
def ctlAux (op : OpSt) (c : Option Ctl) (record : Bool) : Nat :=
  let n := op.ctlN + (match c with
    | some c => if c.b then 0 else 1
    | none => 0)
  n % 2 ^ 16 + 2 ^ 16 * ((op.dataN + (if record then 1 else 0)) % 2 ^ 16)

/-- Sources of one firing agree on their kind (R32, R316): none is well, otherwise the SUB of CTLCOUNT. -/
def kindsAgree (l : List Token) : Option Nat :=
  match l with
  | [] => none
  | t :: rest =>
    if rest.all (fun u => u.kind == t.kind) then
      (if t.kind == .marker && rest.any (fun u => u.level != t.level) then some 5 else none)
    else some 2

/-- Stream checks of a decoding operator, or of any operator that follows packets (R35). -/
def streamCheck (decodes : Bool) (op : OpSt) (t : Token) : Option Nat :=
  if 0 < op.rem && t.kind != .data then some 2
  else if decodes && t.kind == .header && !hdrOk t then some 1
  else if decodes && t.kind == .data && !op.seen then some 3
  else none

/-- The lead token of a firing: source A's, or that of the first port source when A is none (R80). -/
def leadToken (ports : List Token) : Token := ports.headD (emptyToken Token.zero)

/-- Fire stage n of a pass whose sources stand ready. -/
def fireStage (s : State) (v : View) (p : Pass) (o : StageOp) : State :=
  let codes := sourceCodes o.code v.w
  let portCodes := (codes.zipIdx.filter (fun c => decide (c.1 ≤ 4) && !(o.pairB && c.2 == 1))).map (·.1)
  let ports := portCodes.filterMap (portToken p)
  let lead := leadToken ports
  let pg := v.w.pg == 1
  let decodes := v.w.fmt == 0 && !o.fmts.isEmpty
  let follows := decodes || pg
  let aux := if pg then ctlAux v.op (v.e.ctlQueue (gateIndex v.e v.n)).head? (lead.kind != .marker) else 0
  let stopOn := fun (sub : Nat) (t : Token) => applyOut s v p lead (.stop v.op { ctlCount sub v.n o.code v.w t with aux := aux })
  let stop := fun (sub : Nat) => stopOn sub lead
  match if ports.any (fun t => t.kind == .header) then o.noHeader else none with
  | some sub => stopOn sub ((ports.find? (fun t => t.kind == .header)).getD lead)
  | none =>
  match kindsAgree ports with
  | some sub => stop sub
  | none =>
    match if follows then streamCheck decodes v.op lead else none with
    | some sub => stop sub
    | none =>
      let gate := if pg then gateOf v.e v.op v.n lead.kind else (.open_ false, false)
      let pop := fun (s : State) => if gate.2 then
          s.modElem v.ea v.ctx (fun e => e.setCtlQueue (gateIndex v.e v.n) (e.ctlQueue (gateIndex v.e v.n)).tail)
        else s
      let tagIt := fun (b : Bool) (s : State) =>
        if b then parityRecord s v.ea v.ctx v.n (gateIndex v.e v.n) lead else s
      -- a firing that waits leaves its control token in place
      let finish := fun (tag : Bool) (s : State) (r : StageOut) =>
        if r.hold then applyOut s v p lead r
        else
          let r := if gate.2 then { r with op := countPair r.op (lead.kind == .marker) } else r
          applyOut (tagIt (tag && gate.2) (pop s)) v p lead r
      match gate.1 with
      | .wait => s
      | .mismatch => stop 4
      | .pass tag =>
        -- V = 0: source A passes unchanged (R41)
        let a := (match codes with
          | c :: _ =>
            if c = 5 ∧ lead.kind = TokKind.data then { v.e.getK v.w.kidx.toNat with kind := .data }
            else (portToken p c).getD lead
          | [] => lead).orTag tag
        let op := if follows then trackPacket v.op (lead.orTag tag) (some false) tag else v.op
        finish tag s (.emit op a)
      | .open_ tag =>
        match lead.kind with
        | .header =>
          let fmtOk := !decodes || o.fmts.contains (hdrFmt lead)
          if !fmtOk then stop 1
          else
            let op := if follows then trackPacket v.op (lead.orTag tag) (some true) tag else v.op
            let op := if decodes then { op with fmt := BitVec.ofNat 4 (hdrFmt lead) } else op
            let (s, r) := o.header s { v with op := op } (lead.orTag (tag || ports.any (·.etag)))
            finish tag s r
        | .data =>
          let f := if decodes then v.op.fmt.toNat else v.w.fmt.toNat
          let count := if decodes && 0 < v.op.rem then min v.op.elems (fmtElems f) else fmtElems f
          let x := operandsOf v p f codes count
          let x := { x with side := x.side.orTag tag }
          let op := if follows then trackPacket v.op lead v.op.sel tag else v.op
          let randPair := x.side.etag && (x.a.rand || x.b.rand || x.c.rand)
          let (s, r) := o.data s { v with op := op } x
          finish tag s { r with poison := r.poison || randPair }
        | _ =>
          let (s, r) := o.marker s v (lead.orTag (tag || ports.any (·.etag)))
          finish tag s r

/-- Every port source of the stage holds a token of this pass; a random input is taken later, with data only. -/
def sourcesReady (v : View) (p : Pass) (o : StageOp) : Bool :=
  let codes := (sourceCodes o.code v.w).zipIdx
  codes.all (fun c => decide (4 < c.1) || (o.pairB && c.2 == 1) || (portToken p c.1).isSome)

/-- The random token that `fcvt` under RND 2 pairs with a data token at SA (R352). -/
inductive Paired where
  | unneeded
  | missing
  | taken (t : Token)
deriving DecidableEq, Repr

/-- Look for the random token of a paired operator. -/
def pairedToken (v : View) (p : Pass) (o : StageOp) : Paired :=
  let isData := match portToken p v.w.sa.toNat with
    | some t => t.kind == .data
    | none => true
  if o.pairB && isData then
    match v.e.queue v.w.sb.toNat with
    | [] => .missing
    | t :: _ => if t.kind = .cut then .missing else .taken t
  else .unneeded

/-- A free-running source (R26): it takes no token, and after its LEVEL 7 marker it fires no more. -/
def isSource (code : Nat) (w : OpWord) : Bool :=
  decide (384 ≤ code) && decide (code ≤ 387) && (code == 384 || w.sa == 7)

/-- Stage n of the pass under way at an element context. A result that waits in the operator is delivered first; a
stage with a missing source does not fire and hands nothing on. -/
def stageStep (s : State) (ea : EAddr) (ctx : BitVec 2) (w : OpWord) (o : StageOp) : State :=
  let e := s.elem ea ctx
  match e.pass with
  | none => s
  | some p =>
    let v : View := { ea := ea, ctx := ctx, n := p.stage, w := w, e := e, op := e.op p.stage }
    if e.stopped then s
    else
      match v.op.res with
      | (_, t) :: rest =>
        let r := { StageOut.quiet v.op with out := t :: rest.map (·.2) }
        if outRoom s v r then emitResults s v p r.out else s
      | [] =>
        if v.op.ended && isSource o.code w then s.modElem ea ctx (fun e => passOn e p none)
        else if sourcesReady v p o then
          if (v.w.dst.toNat ≤ 3 && !outputRoom s ea ctx v.w.dst.toNat) then s
          else
            match pairedToken v p o with
            | .unneeded => fireStage s v p o
            | .missing => s
            | .taken t =>
              let b := v.w.sb.toNat
              let e := e.setQueue b (e.queue b).tail
              if t.kind = .data then fireStage (s.setElem ea ctx e) { v with e := e } { p with ports := tabSet p.ports b (some t) none } o
              else applyOut s v p t (.stop v.op (ctlCount 2 v.n o.code w t))
        else s.modElem ea ctx (fun e => passOn e p none)

/-- Run a compute-tile operator on behalf of the stage in focus. -/
def runStage (s : State) (w : OpWord) (o : StageOp) : Result :=
  match s.focus with
  | .stage ea ctx => .next (stageStep s ea ctx w o)
  | _ => .refused .wrongElement

end Sys2Proof.Machine
end

