-- ==== Sys2Proof/Machine/Router.lean ====
section
/-! DEFINITION. Machine/Router.lean: the control operators of a router (class 4): how a slot fires once for all of them
(R36, R88, R217, R243), and the meanings of `steer`, `merge`, `carry`, `invr`, `fork`, `sink`, `gate`, `cand`, `cor`, `cnot`,
`cgen`, `tourn` and `rdig`. `kelp` and `kjoin` stand in Kelpie. -/

namespace Sys2Proof.Machine

/-! ## What a slot sees and answers -/

/-- Where a slot stands when it is asked to fire. -/
structure SlotView where
  site : SiteNo
  ctx  : BitVec 2
  n    : Nat
  w    : OpWord
  r    : ElemCtx
  op   : OpSt

/-- Head token of data input i; a cut marker stands for no token (R243). -/
def SlotView.data (v : SlotView) (i : Nat) : Option Token :=
  match v.r.queue (slotKey v.n i) with
  | [] => none
  | t :: _ => if t.kind = .cut then none else some t

/-- Head token of control input i. -/
def SlotView.ctl (v : SlotView) (i : Nat) : Option Ctl :=
  match v.r.ctlQueue (slotKey v.n i) with
  | [] => none
  | c :: _ => if c.cut then none else some c

/-- IMM bits. -/
def SlotView.imm (v : SlotView) (lo n : Nat) : Nat := bits v.w.imm.toNat lo n

/-- Input i is linked. -/
def SlotView.linked (v : SlotView) (i : Nat) : Bool := v.r.slotLink v.n i != 31

/-- What a slot does in one firing. -/
structure SlotOut where
  /-- data and control inputs whose head tokens are consumed -/
  dpop   : List Nat
  cpop   : List Nat
  /-- tokens sent, each with its slot output -/
  data   : List (Nat × Token)
  ctl    : List (Nat × Ctl)
  op     : OpSt
  /-- control inputs whose token had wrong parity: RESIDUE (R39) -/
  parity : List Nat
  poison : Bool
  /-- a record the slot discards as a sink does -/
  sunk   : Option Token
  /-- a stopping fault: class 1 with this SUB and AUX -/
  fault  : Option (Nat × Nat)

/-- A firing that only changes the operator's state. -/
def SlotOut.of (op : OpSt) : SlotOut :=
  { dpop := [], cpop := [], data := [], ctl := [], op := op, parity := [], poison := false, sunk := none, fault := none }

/-- A firing that raises CTLCOUNT. -/
def SlotOut.bad (op : OpSt) (sub : Nat) (aux : Nat) : SlotOut := { SlotOut.of op with fault := some (sub, aux) }

/-! ## One firing of a slot -/

/-- Source code of output o of slot n. -/
def slotCode (n o : Nat) : Nat := 8 + 2 * n + o

/-- Consume the head of a data input. -/
def ElemCtx.popData (r : ElemCtx) (n i : Nat) : ElemCtx := r.setQueue (slotKey n i) (r.queue (slotKey n i)).tail

/-- Consume the head of a control input. -/
def ElemCtx.popCtl (r : ElemCtx) (n i : Nat) : ElemCtx := r.setCtlQueue (slotKey n i) (r.ctlQueue (slotKey n i)).tail

/-- Every destination of what a firing sends has room. -/
def slotRoom (s : State) (v : SlotView) (o : SlotOut) : Bool :=
  o.data.all (fun p => roomAt s v.site v.ctx v.r.task .data (slotCode v.n p.1))
    && o.ctl.all (fun p => roomAt s v.site v.ctx v.r.task .ctl (slotCode v.n p.1))

/-- The fault record of a slot. -/
def slotFault (sub aux : Nat) (v : SlotView) (code : Nat) (t : Token) : FaultInfo :=
  { faultInfo 1 sub 7 t with slot := v.n, word := opWord64 code v.w, fmts := v.w.fmt.toNat, aux := aux }

/-- Send what a firing sends. -/
def slotSend (s : State) (v : SlotView) (data : List (Nat × Token)) (ctl : List (Nat × Ctl)) : State :=
  let s := data.foldl (fun s p => deliverData s v.site v.ctx (slotCode v.n p.1) { p.2 with rsv := 0 }) s
  ctl.foldl (fun s p => deliverCtl s v.site v.ctx (slotCode v.n p.1) p.2) s

/-- Put a firing into the machine. -/
def applySlot (s : State) (v : SlotView) (code : Nat) (lead : Token) (o : SlotOut) : State :=
  let ea := siteEa v.site 1
  match o.fault with
  | some (sub, aux) => traceEvent (stopFault s ea v.ctx (slotFault sub aux v code lead)) ea v.ctx 3 lead
  | none =>
    if slotRoom s v o then
      let s := noteFiring s ea v.ctx (16 + v.n) lead
      let s := if randPaired (o.dpop.filterMap v.data) then poisonTask s v.r.task else s
      let s := s.modElem ea v.ctx (fun r =>
        let r := o.dpop.foldl (fun r i => r.popData v.n i) r
        let r := o.cpop.foldl (fun r i => r.popCtl v.n i) r
        r.setOp (16 + v.n) { o.op with lastFire := s.time + 1 })
      let s := o.parity.foldl (fun s i => parityRecord s ea v.ctx 7 i lead) s
      let s := if o.poison then poisonTask s v.r.task else s
      let s := match o.sunk with
        | some t => sinkToken s ea v.ctx t
        | none => s
      slotSend s v o.data o.ctl
    else s

/-- Inputs a slot has, with their networks. -/
def SlotView.inputs (v : SlotView) : List (Net × Nat) :=
  (List.range 4).filterMap (fun i => (v.r.inNet v.n i).map (fun net => (net, i)))

/-- A cut marker stands at the head of an input. -/
def SlotView.cutAt (v : SlotView) (p : Net × Nat) : Bool :=
  match p.1 with
  | .data => ((v.r.queue (slotKey v.n p.2)).head?.map (fun t => t.kind == .cut)).getD false
  | .ctl => ((v.r.ctlQueue (slotKey v.n p.2)).head?.map (·.cut)).getD false

/-- A cut marker has arrived on an input, at its head or behind tokens that have not been consumed. -/
def SlotView.cutHere (v : SlotView) (p : Net × Nat) : Bool :=
  match p.1 with
  | .data => (v.r.queue (slotKey v.n p.2)).any (fun t => t.kind == .cut)
  | .ctl => (v.r.ctlQueue (slotKey v.n p.2)).any (·.cut)

/-- The cut markers a slot sends: one on every output (R243). -/
def cutOutputs (code imm : Nat) (t : Token) : List (Nat × Token) × List (Nat × Ctl) :=
  (((List.range 2).filter (fun o => slotOutNet code imm o == some .data)).map (fun o => (o, t)),
   ((List.range 2).filter (fun o => slotOutNet code imm o == some .ctl)).map (fun o => (o, ctlCut)))

/-- The cut marker at the first marked data input, or one of the task's cut. -/
def SlotView.cutTok (v : SlotView) (s : State) : Token :=
  match v.inputs.findSome? (fun p => match p.1 with
    | .data => (v.r.queue (slotKey v.n p.2)).find? (fun t => t.kind == .cut)
    | .ctl => none) with
  | some t => t
  | none =>
    match v.r.task.bind s.task? with
    | some k => cutToken k.cutNo k.cutWhy Token.zero
    | none => cutToken 0 0 Token.zero

/-- Forward the cut that has arrived on every input: the markers leave the queues, and what stands ahead of one or behind it stays. -/
def slotCut (s : State) (v : SlotView) (code : Nat) : State :=
  let t := v.cutTok s
  let out := cutOutputs code v.w.imm.toNat t
  let o := { SlotOut.of v.op with data := out.1, ctl := out.2 }
  if slotRoom s v o then
    let ea := siteEa v.site 1
    let s := s.modElem ea v.ctx (fun r =>
      let r := v.inputs.foldl (fun r p => match p.1 with
        | .data => r.setQueue (slotKey v.n p.2) ((r.queue (slotKey v.n p.2)).filter (fun t => t.kind != .cut))
        | .ctl => r.setCtlQueue (slotKey v.n p.2) ((r.ctlQueue (slotKey v.n p.2)).filter (fun c => !c.cut))) r
      r.setOp (16 + v.n) { v.op with cut := true })
    traceEvent (slotSend s v out.1 out.2) ea v.ctx 4 t
  else s

/-- The view of a slot. -/
def slotView (s : State) (site : SiteNo) (ctx : BitVec 2) (n : Nat) (w : OpWord) : SlotView :=
  let r := s.elem (siteEa site 1) ctx
  { site := site, ctx := ctx, n := n, w := w, r := r, op := r.op (16 + n) }

/-- A router context may fire: loaded, released and not stopped. -/
def slotLive (v : SlotView) : Bool := v.r.released && !v.r.stopped && !v.op.cut

/-- Fire a slot with an operator's rule: none means that it has nothing to do now. The cut goes on once a marker has arrived on every
input and no firing is left that consumes unmarked inputs alone; tokens ahead of a marker stay as queue contents (R243). -/
def fireSlot (s : State) (v : SlotView) (code : Nat) (f : SlotView → Option (Token × SlotOut)) : State :=
  if !slotLive v then s
  else if !v.inputs.isEmpty && v.inputs.all v.cutAt then slotCut s v code
  else match f v with
    | none => if v.inputs.all v.cutHere && v.inputs.any v.cutAt then slotCut s v code else s
    | some (t, o) => applySlot s v code t o

/-- Run a control operator on behalf of the slot in focus. -/
def runSlot (s : State) (w : OpWord) (f : State → SlotView → State) : Result :=
  match s.focus with
  | .slot ea ctx n => .next (f s (slotView s (eaSite ea) ctx n w))
  | _ => .refused .wrongElement

/-! ## Records and their control tokens (R40) -/

/-- What stands at a data input and the control input that governs it. -/
inductive Gov where
  | wait
  | bad (sub : Nat)
  /-- a data token of a packet whose header has been governed -/
  | inside (t : Token)
  | record (t : Token) (c : Ctl)
  | marker (t : Token) (c : Ctl)
deriving DecidableEq, Repr

/-- Match the head of a data stream with the head of its control stream. -/
def govern (op : OpSt) (t : Option Token) (c : Option Ctl) : Gov :=
  match t with
  | none => .wait
  | some t =>
    if 0 < op.rem then (if t.kind = .data then .inside t else .bad 2)
    else match c with
      | none => .wait
      | some c =>
        if t.kind = .marker then (if c.b then .marker t c else .bad 4)
        else if c.b then .bad 4 else .record t c

/-- State after a record's first token: a header starts its packet, which obeys the same decision. -/
def startRecord (op : OpSt) (t : Token) (sel tag : Bool) : OpSt :=
  let op := if t.kind = .header then { op with rem := hdrTokens t, sel := some sel, tagged := tag } else op
  countPair op false

/-- State after a data token of a packet. -/
def insideRecord (op : OpSt) : OpSt := { op with rem := op.rem - 1 }

/-- State after a boundary marker has passed on every output. -/
def passMarker (op : OpSt) (t : Token) : OpSt := countPair { op with ended := op.ended || t.isEnd } true

/-- CTLCOUNT of a slot whose control input has head c and whose data input has head t. -/
def slotBad (op : OpSt) (sub : Nat) (t : Option Token) (c : Option Ctl) : Option (Token × SlotOut) :=
  let lead := t.getD Token.zero
  some (lead, .bad op sub (ctlAux op c ((t.map (fun x => x.kind != .marker)).getD false)))

/-- Wrong parity at a control input. -/
def parityAt (i : Nat) (c : Ctl) : List Nat := if c.parityOk then [] else [i]

/-! ## steer and merge -/

/-- Table of R418. -/
def steerRule (v : SlotView) : Option (Token × SlotOut) :=
  let t := v.data 0
  let c := v.ctl 3
  match govern v.op t c with
  | .wait => none
  | .bad sub => slotBad v.op sub t c
  | .inside t =>
    let o := if v.op.sel = some true then 0 else 1
    some (t, { SlotOut.of (insideRecord v.op) with dpop := [0], data := [(o, t.orTag v.op.tagged)] })
  | .record t c =>
    let tag := !c.parityOk
    some (t, { SlotOut.of (startRecord v.op t c.v tag) with
      dpop := [0], cpop := [3], data := [(if c.v then 0 else 1, t.orTag tag)], parity := parityAt 3 c })
  | .marker t c =>
    some (t, { SlotOut.of (passMarker v.op t) with
      dpop := [0], cpop := [3], data := [(0, t), (1, t)], parity := parityAt 3 c })

/-- STEER (R418): each record goes to output 0 or 1 as its control token says. -/
def execSteer (w : OpWord) (s : State) : Result := runSlot s w (fun s v => fireSlot s v 256 steerRule)

/-- Table 17-3. -/
def mergeRule (v : SlotView) : Option (Token × SlotOut) :=
  let c := v.ctl 3
  if 0 < v.op.rem then
    let i := if v.op.sel = some true then 0 else 1
    match v.data i with
    | none => none
    | some t =>
      if t.kind = .data then
        some (t, { SlotOut.of (insideRecord v.op) with dpop := [i], data := [(0, t.orTag v.op.tagged)] })
      else slotBad v.op 2 (some t) c
  else match c with
    | none => none
    | some c =>
      if c.b then
        match v.data 0, v.data 1 with
        | some a, some b =>
          if a.kind != .marker || b.kind != .marker then slotBad v.op 4 (some (if a.kind != .marker then a else b)) (some c)
          else if a.level != b.level then slotBad v.op 5 (some a) (some c)
          else some (a, { SlotOut.of (passMarker v.op a) with
            dpop := [0, 1], cpop := [3], data := [(0, a)], parity := parityAt 3 c })
        | some x, none => if x.kind != .marker then slotBad v.op 4 (some x) (some c) else none
        | none, some x => if x.kind != .marker then slotBad v.op 4 (some x) (some c) else none
        | none, none => none
      else
        let i := if c.v then 0 else 1
        match v.data i with
        | none => none
        | some t =>
          if t.kind = .marker then slotBad v.op 4 (some t) (some c)
          else
            let tag := !c.parityOk
            some (t, { SlotOut.of (startRecord v.op t c.v tag) with
              dpop := [i], cpop := [3], data := [(0, t.orTag tag)], parity := parityAt 3 c })

/-- MERGE (R382): the control stream picks the input of each record. -/
def execMerge (w : OpWord) (s : State) : Result := runSlot s w (fun s v => fireSlot s v 257 mergeRule)

/-! ## carry and invr -/

/-- The marker of LEVEL FLEV that a loop sends into its body after a record (R334, R360). -/
def fibreMarker (v : SlotView) (t : Token) : Token := t.asMarker (BitVec.ofNat 3 (v.imm 0 3))

/-- FEN of a loop word. -/
def SlotView.fen (v : SlotView) : Bool := v.imm 3 1 == 1

/-- Wrong combinations of heads at a loop: SUB 4 when the B bit does not fit the token, SUB 5 otherwise. -/
def loopBad (v : SlotView) (t : Token) (c : Ctl) : Option (Token × SlotOut) :=
  slotBad v.op (if (t.kind == .marker) != c.b then 4 else 5) (some t) (some c)

/-- A record goes from the back edge of a `carry` to the body or to the exit; `last` is its last token. -/
def carryRecord (v : SlotView) (op : OpSt) (t : Token) (toBody last : Bool) : OpSt × List (Nat × Token) :=
  if toBody then (op, [(0, t)])
  else if !last then (op, [(1, t)])
  else ({ op with mode := if v.fen then .fibre else .idle }, (1, t) :: if v.fen then [(0, fibreMarker v t)] else [])

/-- Table 15-6. A record is one data token, or a header with the data tokens of its packet, which follow it without control tokens
of their own (R40). -/
def carryRule (v : SlotView) : Option (Token × SlotOut) :=
  match v.op.mode with
  | .idle =>
    match v.data 0 with
    | none => none
    | some t =>
      if 0 < v.op.rem then
        if t.kind = .data then
          let op := insideRecord v.op
          some (t, { SlotOut.of { op with mode := if op.rem = 0 then .loop else .idle } with dpop := [0], data := [(0, t)] })
        else slotBad v.op 2 (some t) none
      else if t.kind = .header then
        let n := hdrTokens t
        some (t, { SlotOut.of { v.op with rem := n, mode := if n = 0 then .loop else .idle } with dpop := [0], data := [(0, t)] })
      else if t.kind != .marker then
        some (t, { SlotOut.of { v.op with mode := .loop } with dpop := [0], data := [(0, t)] })
      else if t.isEnd then
        some (t, { SlotOut.of { v.op with mode := .drain } with dpop := [0], data := [(0, t)] })
      else some (t, { SlotOut.of (countPair v.op true) with dpop := [0], data := [(1, t)] })
  | m =>
    if m = .loop ∧ 0 < v.op.rem then
      match v.data 1 with
      | none => none
      | some t =>
        if t.kind = .data then
          let op := insideRecord v.op
          let r := carryRecord v op (t.orTag v.op.tagged) (v.op.sel == some true) (op.rem == 0)
          some (t, { SlotOut.of r.1 with dpop := [1], data := r.2 })
        else slotBad v.op 2 (some t) none
    else
    match v.data 1, v.ctl 3 with
    | some t, some c =>
      let take := fun (op : OpSt) (out : List (Nat × Token)) =>
        some (t, { SlotOut.of op with dpop := [1], cpop := [3], data := out, parity := parityAt 3 c })
      match m with
      | .loop =>
        if t.kind == .marker || c.b then loopBad v t c
        else
          let tag := !c.parityOk
          let t' := t.orTag tag
          let toBody := c.v && !t'.etag
          let op := startRecord v.op t toBody tag
          let r := carryRecord v op t' toBody (t.kind != .header || op.rem == 0)
          take r.1 r.2
      | .fibre =>
        if t.kind == .marker && t.level == BitVec.ofNat 3 (v.imm 0 3) && c.b then
          take (countPair { v.op with mode := .idle } true) []
        else loopBad v t c
      | _ =>
        if t.isEnd && c.b then take (countPair { v.op with mode := .idle, ended := true } true) [(1, t)]
        else loopBad v t c
    | _, _ => none

/-- The markers that have returned to a captured loop are taken out of its other inputs; what stands there is channel state
(R244). -/
def loopReturns (s : State) (v : SlotView) : State :=
  s.modElem (siteEa v.site 1) v.ctx (fun r =>
    let kb := slotKey v.n 1
    let kc := slotKey v.n 3
    let back := r.queue kb
    let ctl := r.ctlQueue kc
    let n := (back.filter (fun t => t.kind == .cut)).length + (ctl.filter (·.cut)).length
    let r := (r.setQueue kb (back.filter (fun t => t.kind != .cut))).setCtlQueue kc (ctl.filter (fun c => !c.cut))
    r.setOp (16 + v.n) { v.op with visited := v.op.visited + n })

/-- A loop captures as soon as the cut marker has arrived at its first input, whatever stands ahead of it (R244). -/
def loopCut (s : State) (v : SlotView) (code : Nat) : State :=
  let t := v.cutTok s
  let out := cutOutputs code v.w.imm.toNat t
  if slotRoom s v { SlotOut.of v.op with data := out.1 } then
    let ea := siteEa v.site 1
    let s := s.modElem ea v.ctx (fun r =>
      let k := slotKey v.n 0
      (r.setQueue k ((r.queue k).filter (fun t => t.kind != .cut))).setOp (16 + v.n) { v.op with cut := true, visited := 0 })
    traceEvent (slotSend s v out.1 []) ea v.ctx 4 t
  else s

/-- Fire a loop operator. -/
def fireLoop (s : State) (v : SlotView) (code : Nat) (f : SlotView → Option (Token × SlotOut)) : State :=
  if !v.r.released || v.r.stopped then s
  else if v.op.cut then loopReturns s v
  else if (v.r.queue (slotKey v.n 0)).any (fun t => t.kind == .cut) then loopCut s v code
  else match f v with
    | none => s
    | some (t, o) => applySlot s v code t o

/-- CARRY (R334): the head of a loop, one record at a time. -/
def execCarry (w : OpWord) (s : State) : Result := runSlot s w (fun s v => fireLoop s v 258 carryRule)

/-- Table 16-3; `idle` is EMPTY. -/
def invrRule (v : SlotView) : Option (Token × SlotOut) :=
  match v.op.mode with
  | .idle =>
    match v.data 0 with
    | none => none
    | some t =>
      match t.kind with
      | .header => slotBad v.op 2 (some t) none
      | .data =>
        some (t, { SlotOut.of { v.op with mode := .hold, held := some t } with dpop := [0], data := [(0, t)], poison := t.etag })
      | _ =>
        some (t, { SlotOut.of { v.op with mode := if t.isEnd then .drain else .idle } with dpop := [0], data := [(0, t)] })
  | m =>
    match v.ctl 3 with
    | none => none
    | some c =>
      let h := v.op.held.getD Token.zero
      let take := fun (op : OpSt) (out : List (Nat × Token)) =>
        some (h, { SlotOut.of op with cpop := [3], data := out, parity := parityAt 3 c })
      match m with
      | .hold =>
        if c.b then slotBad v.op 4 (some h) (some c)
        else if c.v then take (countPair v.op false) [(0, h.orTag (!c.parityOk))]
        else take (countPair { v.op with mode := if v.fen then .fibre else .idle, held := none } false)
          (if v.fen then [(0, fibreMarker v h)] else [])
      | m =>
        if c.b then take (countPair { v.op with mode := .idle, ended := v.op.ended || m == .drain } true) []
        else slotBad v.op 4 (some h) (some c)

/-- INVR (R360): repeats an invariant once per pass of the loop. -/
def execInvr (w : OpWord) (s : State) : Result := runSlot s w (fun s v => fireLoop s v 259 invrRule)

/-! ## fork and sink -/

/-- One copy of the head token to every destination (R356). -/
def forkRule (v : SlotView) : Option (Token × SlotOut) :=
  if v.imm 0 1 = 0 then
    (v.data 0).map (fun t => (t, { SlotOut.of { v.op with ended := v.op.ended || t.isEnd } with
      dpop := [0], data := [(0, t), (1, t)] }))
  else
    (v.ctl 3).map (fun c => (Token.zero, { SlotOut.of { v.op with ended := v.op.ended || c.fin } with
      cpop := [3], ctl := [(0, c), (1, c)] }))

/-- FORK (R356). -/
def execFork (w : OpWord) (s : State) : Result := runSlot s w (fun s v => fireSlot s v 260 forkRule)

/-- The head token is discarded; a tagged record enters the repair list (R411). -/
def sinkRule (v : SlotView) : Option (Token × SlotOut) :=
  if v.imm 0 1 = 0 then
    (v.data 0).map (fun t => (t, { SlotOut.of { v.op with ended := v.op.ended || t.isEnd } with
      dpop := [0], sunk := some t }))
  else
    (v.ctl 3).map (fun c => (Token.zero, { SlotOut.of { v.op with ended := v.op.ended || c.fin } with cpop := [3] }))

/-- SINK (R411). -/
def execSink (w : OpWord) (s : State) : Result := runSlot s w (fun s v => fireSlot s v 261 sinkRule)

/-! ## gate -/

/-- The ordering input against the head of the stream: whether it may go on, and its tag. -/
inductive Order where
  | wait
  | bad (sub : Nat)
  | go (tag : Bool)
deriving DecidableEq, Repr

/-- A record waits for one token, a marker for a marker of equal LEVEL (R32, R358). -/
def orderOf (linked : Bool) (t : Token) (o : Option Token) : Order :=
  if !linked then .go false
  else match o with
    | none => .wait
    | some x =>
      if (t.kind == .marker) != (x.kind == .marker) then .bad 2
      else if t.kind == .marker && t.level != x.level then .bad 5
      else .go x.etag

/-- `gate` with what its word enables (R358). -/
def gateRule (v : SlotView) : Option (Token × SlotOut) :=
  let oen := v.imm 0 1 == 1
  let cen := v.imm 1 1 == 1
  let t := v.data 0
  let c := if cen then v.ctl 3 else t.map (fun t => ctlTok true (t.kind == .marker))
  let cpop := if cen then [3] else []
  let dpop := if oen then [0, 1] else [0]
  match govern v.op t c with
  | .wait => none
  | .bad sub => slotBad v.op sub t c
  | .inside t =>
    some (t, { SlotOut.of (insideRecord v.op) with
      dpop := [0], data := if v.op.sel = some false then [] else [(0, t.orTag v.op.tagged)] })
  | .record t c =>
    match orderOf oen t (v.data 1) with
    | .wait => none
    | .bad sub => slotBad v.op sub (some t) (some c)
    | .go tag =>
      if c.v then
        let tag := tag || !c.parityOk
        some (t, { SlotOut.of (startRecord v.op t true tag) with
          dpop := dpop, cpop := cpop, data := [(0, t.orTag tag)], parity := parityAt 3 c })
      else
        some (t, { SlotOut.of (startRecord v.op t false false) with
          dpop := dpop, cpop := cpop, parity := parityAt 3 c, sunk := if c.parityOk then none else some t.tag })
  | .marker t c =>
    match orderOf oen t (v.data 1) with
    | .wait => none
    | .bad sub => slotBad v.op sub (some t) (some c)
    | .go _ =>
      some (t, { SlotOut.of (passMarker v.op t) with
        dpop := dpop, cpop := cpop, data := [(0, t)], parity := parityAt 3 c })

/-- GATE (R358). -/
def execGate (w : OpWord) (s : State) : Result := runSlot s w (fun s v => fireSlot s v 262 gateRule)

/-! ## cand, cor and cnot -/

/-- A control token with its parity inverted when an input's was wrong (R331). -/
def ctlWith (v b fin good : Bool) : Ctl := { v := v, b := b, par := if good then v != b else !(v != b), fin := fin, cut := false }

/-- Two control streams combined by a function of their values. -/
def ctlPairRule (f : Bool → Bool → Bool) (v : SlotView) : Option (Token × SlotOut) :=
  match v.ctl 0, v.ctl 1 with
  | some x, some y =>
    if x.b != y.b then slotBad v.op 4 none (some x)
    else
      let fin := x.fin && y.fin
      let good := x.parityOk && y.parityOk
      let c := ctlWith (!x.b && f x.v y.v) x.b fin good
      some (Token.zero, { SlotOut.of { countPair v.op x.b with ended := v.op.ended || fin } with cpop := [0, 1], ctl := [(0, c)] })
  | _, _ => none

/-- CAND (R331). -/
def execCand (w : OpWord) (s : State) : Result := runSlot s w (fun s v => fireSlot s v 263 (ctlPairRule (· && ·)))
/-- COR (R331). -/
def execCor (w : OpWord) (s : State) : Result := runSlot s w (fun s v => fireSlot s v 264 (ctlPairRule (· || ·)))

/-- One control stream negated. -/
def cnotRule (v : SlotView) : Option (Token × SlotOut) :=
  (v.ctl 0).map (fun x =>
    let c := ctlWith (!x.b && !x.v) x.b x.fin x.parityOk
    (Token.zero, { SlotOut.of { countPair v.op x.b with ended := v.op.ended || x.fin } with cpop := [0], ctl := [(0, c)] }))

/-- CNOT (R331). -/
def execCnot (w : OpWord) (s : State) : Result := runSlot s w (fun s v => fireSlot s v 265 cnotRule)

/-! ## cgen -/

/-- A control stream paced by a data stream (R336). `sel` is some false once a record has passed since the last boundary that
makes the next record a first one. -/
def cgenRule (v : SlotView) : Option (Token × SlotOut) :=
  let packets := v.w.fmt == 0
  match v.data 0 with
  | none => none
  | some t =>
    match if packets then streamCheck true v.op t else none with
    | some sub => slotBad v.op sub (some t) none
    | none =>
      match t.kind with
      | .marker =>
        let first := decide (t.level.toNat ≤ v.imm 2 3)
        some (t, { SlotOut.of { passMarker v.op t with sel := if first then none else v.op.sel } with
          dpop := [0], data := [(1, t)], ctl := [(0, ctlOfMarker t)] })
      | k =>
        let op := if packets then trackPacket v.op t v.op.sel false else v.op
        if (k == .header) == packets then
          let val := if v.imm 1 1 = 0 then v.imm 0 1 == 1 else v.op.sel != some false
          some (t, { SlotOut.of { op with sel := some false } with
            dpop := [0], data := [(1, t)], ctl := [(0, ctlTok val false)] })
        else some (t, { SlotOut.of op with dpop := [0], data := [(1, t)] })

/-- CGEN (R336). -/
def execCgen (w : OpWord) (s : State) : Result := runSlot s w (fun s v => fireSlot s v 266 cgenRule)

/-! ## tourn -/

/-- A candidate: score pattern and index. -/
structure Cand where
  score : Nat
  index : Nat
deriving DecidableEq, Repr

/-- Candidate a ranks above b (R422). -/
def Cand.above (f : Nat) (a b : Cand) : Bool :=
  if fmtFloat f then
    let x := decodeFloat (floatFmt f) a.score
    let y := decodeFloat (floatFmt f) b.score
    match x == .nan, y == .nan with
    | false, true => true
    | true, false => false
    | true, true => decide (a.index < b.index)
    | false, false => if eqVal x y then decide (a.index < b.index) else ltVal y x
  else
    let x := intOf 32 (fmtSigned f) a.score
    let y := intOf 32 (fmtSigned f) b.score
    if x = y then decide (a.index < b.index) else decide (y < x)

/-- Candidates of an unordered token. -/
def candsOf (t : Token) (ibase : Nat) : List Cand :=
  (lanes16.filter (maskBit t.mask)).map (fun j => { score := laneNat t.pay j, index := ibase + j })

/-- Candidates of a token of pairs. -/
def candPairs (t : Token) : List Cand :=
  ((List.range 8).filter (fun r => maskBit t.mask (2 * r) && maskBit t.mask (2 * r + 1))).map (fun r =>
    { score := laneNat t.pay (2 * r), index := laneNat t.pay (2 * r + 1) })

/-- The best candidates in order. -/
def topK (f : Nat) : Nat → List Cand → List Cand
  | 0, _ => []
  | _, [] => []
  | k + 1, c :: rest =>
    let best := rest.foldl (fun b x => if x.above f b then x else b) c
    best :: topK f k ((c :: rest).erase best)

/-- One result token of pairs (R423). -/
def tournToken (k f : Nat) (l : List Cand) (side : Token) : Token :=
  let top := topK f k l
  let mask := bitsToMask ((List.range 16).map (fun j => decide (j < 2 * top.length)))
  dataToken (lanesToPay (top.flatMap (fun c => [c.score, c.index]))) mask side

/-- `tourn` (R422, R423). -/
def tournRule (v : SlotView) : Option (Token × SlotOut) :=
  let pair := v.imm 4 1 == 1
  let both := fun (a b : Token) => kindsAgree [a, b]
  let ins := if pair then [0, 1] else [0]
  let go := fun (a : Token) (b : Option Token) =>
    if a.kind == .header || (b.map (fun x => x.kind == .header)).getD false then slotBad v.op 1 (some a) none
    else match b.bind (both a) with
      | some sub => slotBad v.op sub (some a) none
      | none =>
        if a.kind = .marker then some (a, { SlotOut.of (passMarker v.op a) with dpop := ins, data := [(0, a)] })
        else
          let l := if pair then candPairs a ++ ((b.map candPairs).getD []) else candsOf a (v.imm 8 8)
          let side := { a with etag := a.etag || (b.map (·.etag)).getD false
                               multi := mixedSources (a :: b.toList), rand := false }
          some (a, { SlotOut.of v.op with dpop := ins, data := [(0, tournToken (v.imm 0 4) v.w.fmt.toNat l side)] })
  match v.data 0, v.data 1 with
  | some a, some b => go a (if pair then some b else none)
  | some a, none => if pair then none else go a none
  | _, _ => none

/-- TOURN (R422, R423): the K best candidates of a record. -/
def execTourn (w : OpWord) (s : State) : Result := runSlot s w (fun s v => fireSlot s v 269 tournRule)

/-! ## rdig -/

/-- One step of the decision digest (R400). -/
def digestStep (d tag : Nat) (c : Bool) : Nat := (d ^^^ (tag * 2 + if c then 1 else 0)) * 0x100000001B3 % 2 ^ 64

/-- `rdig` (R400). -/
def rdigRule (v : SlotView) : Option (Token × SlotOut) :=
  let t := v.data 0
  let c := v.ctl 3
  let linked := v.linked 1
  let dpop := if linked then [0, 1] else [0]
  match govern v.op t c with
  | .wait => none
  | .bad sub => slotBad v.op sub t c
  | .inside t => some (t, { SlotOut.of (insideRecord v.op) with dpop := [0], data := [(0, t.orTag v.op.tagged)] })
  | .record t c =>
    match orderOf linked t (v.data 1) with
    | .wait => none
    | .bad sub => slotBad v.op sub (some t) (some c)
    | .go dtag =>
      let tag := !c.parityOk
      let d0 := if linked then (v.data 1).elim 0 (fun x => laneNat x.pay 0 + 2 ^ 32 * laneNat x.pay 1) else 0xCBF29CE484222325
      let d := digestStep d0 (v.imm 0 7) c.v
      let side := { t with etag := t.etag || dtag || tag
                           multi := mixedSources (t :: (if linked then (v.data 1).toList else [])), rand := false }
      let dig := dataToken (lanesToPay [d % 2 ^ 32, d / 2 ^ 32]) 3 side
      some (t, { SlotOut.of (startRecord v.op t c.v tag) with
        dpop := dpop, cpop := [3], data := [(0, t.orTag tag), (1, dig)], parity := parityAt 3 c })
  | .marker t c =>
    match orderOf linked t (v.data 1) with
    | .wait => none
    | .bad sub => slotBad v.op sub (some t) (some c)
    | .go _ =>
      some (t, { SlotOut.of (passMarker v.op t) with
        dpop := dpop, cpop := [3], data := [(0, t), (1, t)], parity := parityAt 3 c })

/-- RDIG (R400): passes each record and digests the decision taken on it. -/
def execRdig (w : OpWord) (s : State) : Result := runSlot s w (fun s v => fireSlot s v 270 rdigRule)

end Sys2Proof.Machine
end

