-- ==== Sys2Proof/Machine/Kelpie.lean ====
section
/-! DEFINITION. Machine/Kelpie.lean: commute groups (R185 to R200): statistics, routing decisions, the commute store, and the
meanings of `kelp` and `kjoin` (R362 to R364). All slots of one group fire as one unit, at the head slot. -/

namespace Sys2Proof.Machine

/-! ## Configuration (Tables 7-1, 7-2) -/

/-- KCFG of a router context. -/
def ElemCtx.kcfg (r : ElemCtx) : Nat := (tabGet r.bank 44 0xACE14800#32).toNat
/-- Number of members. -/
def ElemCtx.kMembers (r : ElemCtx) : Nat := bits r.kcfg 0 3 + 1
/-- The member marked last. -/
def ElemCtx.kLast (r : ElemCtx) : Option Nat := if bitSet r.kcfg 3 then some (bits r.kcfg 4 3) else none
/-- W, records of a statistics window. -/
def ElemCtx.kWindow (r : ElemCtx) : Nat := 2 ^ bits r.kcfg 8 4
/-- EPS. -/
def ElemCtx.kEps (r : ElemCtx) : Nat := bits r.kcfg 12 4
/-- KINITm. -/
def ElemCtx.kInit (r : ElemCtx) (m : Nat) : Nat := (tabGet r.bank (64 + m) 0x00800001#32).toNat

/-- Statistics of a member as loaded from the configuration (R189). -/
def kMemberInit (r : ElemCtx) (m : Nat) : KMember :=
  { KMember.zero with clat := r.kInit m % 2 ^ 16, plat := bits (r.kInit m) 16 8 * r.kWindow / 256 }

/-- The commute store, loaded from the configuration when the group has not started. -/
def ElemCtx.kStore (r : ElemCtx) : Kelp :=
  if r.kelp.started then r.kelp
  else
    { Kelp.zero with
      started := true, lfsr := BitVec.ofNat 16 (bits r.kcfg 16 16)
      members := (List.range r.kMembers).foldl (fun t m => tabSet t m (kMemberInit r m) KMember.zero) [] }

/-- Live statistics of member m. -/
def Kelp.member (k : Kelp) (m : Nat) : KMember := tabGet k.members m KMember.zero

/-- q of member m: records dispatched to it of which no return control token has reached the group. -/
def Kelp.depth (k : Kelp) (m : Nat) : Nat := (k.slots.filter (fun s => s.state == .dispatched m && !s.back)).length

/-! ## Statistics and decisions (R189, R190) -/

/-- A visit of member m ends. -/
def Kelp.visit (k : Kelp) (w m cost : Nat) (pass : Bool) : Kelp :=
  let x := k.member m
  let vis := x.vis + 1
  let pcnt := x.pcnt + (if pass then 1 else 0)
  let csum := satAdd32 x.csum (min 65535 cost)
  let y : KMember :=
    if w ≤ vis then { clat := max 1 (csum / w), plat := pcnt, vis := 0, pcnt := 0, csum := 0 }
    else { x with vis := vis, pcnt := pcnt, csum := csum }
  { k with members := tabSet k.members m y KMember.zero }

/-- One step of the 16-bit Fibonacci LFSR x^16 + x^14 + x^13 + x^11 + 1. -/
def lfsrStep (x : BitVec 16) : BitVec 16 :=
  let b := x.getLsbD 15 != (x.getLsbD 13 != (x.getLsbD 12 != x.getLsbD 10))
  x.extractLsb' 0 15 ++ (if b then 1#1 else 0#1)

/-- Members that a record with these DONE bits may still visit. -/
def remaining (r : ElemCtx) (done : BitVec 8) : List Nat :=
  let l := (List.range r.kMembers).filter (fun m => !done.getLsbD m)
  match r.kLast with
  | some last => if l.length = 1 then l else l.filter (fun m => m != last)
  | none => l

/-- s(i) < s(j), exactly. -/
def Kelp.cheaper (k : Kelp) (w i j : Nat) : Bool :=
  let a := k.member i
  let b := k.member j
  decide (a.clat * (8 + k.depth i) * (65 * w - 64 * b.plat) < b.clat * (8 + k.depth j) * (65 * w - 64 * a.plat))

/-- The eligible member of lowest score, ties to the lower number. -/
def Kelp.best (k : Kelp) (w : Nat) (l : List Nat) : Nat :=
  l.foldl (fun b m => if k.cheaper w m b then m else b) (l.headD 0)

/-- Choose among the eligible members. -/
def Kelp.choose (k : Kelp) (r : ElemCtx) (l : List Nat) : Kelp × Nat :=
  match l with
  | [m] => (k, m)
  | _ =>
    let x := lfsrStep k.lfsr
    let k := { k with lfsr := x }
    if r.kEps ≠ 0 ∧ x.toNat % 2 ^ r.kEps = 0 then
      ({ k with klot := satAdd32 k.klot 1 }, l.getD (x.toNat / 256 * l.length / 256) 0)
    else (k, k.best r.kWindow l)

/-! ## The group's slots -/

/-- The extension slot, data input, control input and output of member m of a group whose head is slot n. -/
def memberSlot (n m : Nat) : Nat := n + 1 + m / 2
def memberData (m : Nat) : Nat := 2 * (m % 2)
def memberCtl (m : Nat) : Nat := 2 * (m % 2) + 1

/-- Source code of the output that feeds member m. -/
def memberCode (n m : Nat) : Nat := slotCode (memberSlot n m) (m % 2)

/-- Room on member m's entry edge. -/
def memberRoom (s : State) (v : SlotView) (m : Nat) : Bool := roomAt s v.site v.ctx v.r.task .data (memberCode v.n m)

/-- Send a token to member m. -/
def memberSend (s : State) (v : SlotView) (t : Token) (m : Nat) : State :=
  deliverData s v.site v.ctx (memberCode v.n m) { t with rsv := 0 }

/-- CTLCOUNT of the commute group, SUB 7. -/
def kelpBad (s : State) (v : SlotView) (t : Token) : State :=
  stopFault s (siteEa v.site 1) v.ctx { faultInfo 1 7 15 t with slot := v.n, word := opWord64 267 v.w }

/-- Replace the commute store. -/
def setKelp (s : State) (v : SlotView) (k : Kelp) : State := s.modElem (siteEa v.site 1) v.ctx (fun r => { r with kelp := k })

/-- Change the first slot that meets a condition. -/
def modSlot (p : KSlot → Bool) (f : KSlot → KSlot) : List KSlot → List KSlot
  | [] => []
  | x :: t => if p x then f x :: t else x :: modSlot p f t

/-- The number of the earliest dispatch to member m that has not returned. -/
def Kelp.oldestTurn (k : Kelp) (m : Nat) : Option Nat :=
  ((k.slots.filter (fun x => x.state == .dispatched m)).map (·.turn)).min?

/-! ## Returns (R191, R193, R194) -/

/-- What a member's return edges hold. -/
inductive Return where
  /-- nothing to take now -/
  | none_
  | bad (t : Token)
  /-- a return, with the data token taken along, and whether the control token had wrong parity -/
  | pass (t : Token)
  | reject
  | corrupt (t : Option Token)
  | marker
deriving DecidableEq, Repr

/-- Member m has returned the LEVEL 7 marker. -/
def endReturned (k : Kelp) (m : Nat) : Bool := (k.slots.head?.map (fun x => x.tok.isEnd && x.state != .waiting && !x.owed.contains m)).getD false

/-- Look at member m's return edges. A wrong parity is looked at before B and V, either of which may be the corrupted bit (R191). -/
def returnOf (v : SlotView) (k : Kelp) (m : Nat) : Return :=
  let sv := { v with n := memberSlot v.n m }
  let d := (v.r.queue (slotKey sv.n (memberData m))).head?
  let due := (k.slots.head?.map (fun x => x.tok.isEnd && x.owed.contains m)).getD false
  match sv.ctl (memberCtl m) with
  | none =>
    match d with
    | some t =>
      -- a marker at another time, or data after the member's LEVEL 7 marker (R194)
      if (t.kind == .marker && !(t.isEnd && due)) || (t.kind == .data && endReturned k m) then .bad t else .none_
    | none => .none_
  | some c =>
    if c.b && (c.parityOk || (k.oldestTurn m).isNone) then
      match d with
      | none => .none_
      | some t => if t.isEnd && due then .marker else if t.kind = .cut then .none_ else .bad t
    else
      match k.oldestTurn m with
      | none => .bad (d.getD Token.zero)
      | some turn =>
        let rec_ := (k.slots.find? (fun x => x.turn == turn && x.state == .dispatched m)).map (·.tok)
        if !c.parityOk then
          match d with
          | none => .none_
          | some t =>
            let own := t.kind == .data && (rec_.map (fun x => x.seq == t.seq && x.wrap == t.wrap)).getD false
            .corrupt (if own then some t else none)
        else if c.v then
          match d with
          | none => .none_
          | some t => if t.kind = .data then .pass t else if t.kind = .cut then .none_ else .bad t
        else .reject

/-- All member bits are set. -/
def allDone (r : ElemCtx) (d : BitVec 8) : Bool := (List.range r.kMembers).all (fun m => d.getLsbD m)

/-- Take a return of member m. -/
def takeReturn (s : State) (v : SlotView) (k : Kelp) (m : Nat) (x : Return) : State :=
  let n := memberSlot v.n m
  let turn := k.oldestTurn m
  let mine := fun (y : KSlot) => y.state == .dispatched m && some y.turn == turn
  let k := { k with rr := m }
  let popC := fun (s : State) => s.modElem (siteEa v.site 1) v.ctx (fun r => r.popCtl n (memberCtl m))
  let popD := fun (s : State) => s.modElem (siteEa v.site 1) v.ctx (fun r => r.popData n (memberData m))
  match x with
  | .none_ => s
  | .bad t => kelpBad s v t
  | .pass t =>
    let f := fun (y : KSlot) =>
      let done := y.tok.done ||| BitVec.ofNat 8 (2 ^ m)
      { y with tok := { t with done := done }, state := if t.etag || allDone v.r done then .complete else .waiting }
    setKelp (popD (popC s)) v { k with slots := modSlot mine f k.slots }
  | .reject =>
    setKelp (popC s) v { k with slots := modSlot mine (fun y => { y with state := .complete, hole := true }) k.slots }
  | .corrupt t =>
    let f := fun (y : KSlot) => { y with tok := { (t.getD y.tok) with done := y.tok.done, etag := true }, state := .complete }
    let s := if t.isSome then popD (popC s) else popC s
    let s := parityRecord s (siteEa v.site 1) v.ctx 7 (memberCtl m) (t.getD Token.zero)
    setKelp s v { k with slots := modSlot mine f k.slots }
  | .marker =>
    let f := fun (y : KSlot) =>
      let owed := y.owed.filter (fun j => j != m)
      { y with owed := owed, state := if owed.isEmpty then .complete else y.state }
    let head := (v.r.ctlQueue (slotKey n (memberCtl m))).head?
    let s := if head.any (fun c => !c.parityOk) then parityRecord s (siteEa v.site 1) v.ctx 7 (memberCtl m) Token.zero else s
    setKelp (popD (popC s)) v { k with slots := modSlot (fun y => y.tok.isEnd) f k.slots }

/-- Visits that the control tokens now standing at member m's return end (R189): the i-th of them belongs to the i-th oldest record that is out
there. -/
def endVisits (v : SlotView) (now : Nat) (k : Kelp) (m : Nat) : Kelp :=
  let here := (v.r.ctlQueue (slotKey (memberSlot v.n m) (memberCtl m))).filter (fun c => !c.cut)
  let known := (k.slots.filter (fun y => y.state == .dispatched m && y.back)).length
  (here.drop known).foldl (fun k c =>
    let out := k.slots.filter (fun y => y.state == .dispatched m && !y.back)
    match (out.map (·.turn)).min? with
    | none => k
    | some turn =>
      let mine := fun (y : KSlot) => y.state == .dispatched m && y.turn == turn
      let since := ((out.find? mine).map (·.since)).getD now
      let k := k.visit v.r.kWindow m (now - since) (c.v && c.parityOk)
      { k with slots := modSlot mine (fun z => { z with back := true }) k.slots }) k

/-- Note the return control tokens that have arrived at every member. -/
def noteReturns (s : State) (v : SlotView) : State :=
  let k := (List.range v.r.kMembers).foldl (endVisits v s.time) v.r.kStore
  if k = v.r.kStore then s else setKelp s v k

/-- One return, by round robin after the member served last (R192). -/
def acceptReturn (s : State) (v : SlotView) : State :=
  let k := v.r.kStore
  let n := v.r.kMembers
  let order := (List.range n).map (fun i => (k.rr + 1 + i) % n)
  match order.find? (fun m => returnOf v k m != .none_) with
  | none => s
  | some m => takeReturn s v k m (returnOf v k m)

/-! ## Dispatch and entry (R190, R192, R194) -/

/-- Dispatch the oldest waiting record that has an eligible member; a LEVEL 7 marker that is the oldest slot goes to every
member. -/
def dispatchRecord (s : State) (v : SlotView) : State :=
  let k := v.r.kStore
  let members := List.range v.r.kMembers
  match k.slots.head? with
  | some x =>
    if x.tok.isEnd && x.state == .waiting then
      if members.all (memberRoom s v) then
        let s := members.foldl (fun s m => memberSend s v x.tok m) s
        setKelp s v { k with slots := modSlot (fun _ => true) (fun y => { y with state := .dispatched 8, owed := members }) k.slots }
      else s
    else
      let eligible := fun (y : KSlot) => (remaining v.r y.tok.done).filter (memberRoom s v)
      match k.slots.find? (fun y => y.state == .waiting && y.tok.kind == .data && !(eligible y).isEmpty) with
      | none => s
      | some y =>
        let (k, m) := k.choose v.r (eligible y)
        let f := fun (z : KSlot) => { z with state := .dispatched m, since := s.time, turn := k.turns, back := false }
        let s := memberSend s v y.tok m
        setKelp s v { k with turns := k.turns + 1, slots := modSlot (fun z => z == y) f k.slots }
  | none => s

/-- A slot of the commute store for an entering token: a tagged record is a placeholder, and a marker of LEVEL 0 to 6 enters no member. -/
def entrySlot (t : Token) : KSlot :=
  let t := { t with done := if t.kind = .data then 0 else t.done }
  { tok := t, state := if (t.etag && t.kind == .data) || (t.kind == .marker && !t.isEnd) then .complete else .waiting, hole := false, since := 0,
    turn := 0, owed := [], back := false }

/-- Accept one entering token while fewer than 64 slots are in use. -/
def acceptEntry (s : State) (v : SlotView) : State :=
  let k := v.r.kStore
  match v.data 0 with
  | none => s
  | some t =>
    if t.kind = .header then kelpBad s v t
    else if 64 ≤ k.slots.length then s
    else
      let s := s.modElem (siteEa v.site 1) v.ctx (fun r => r.popData v.n 0)
      setKelp (noteFiring s (siteEa v.site 1) v.ctx (16 + v.n) t) v { k with slots := k.slots ++ [entrySlot t] }

/-! ## Cuts (R200) -/

/-- The cut marker at the entry goes at once to every member. -/
def kelpCut (s : State) (v : SlotView) : State :=
  let members := List.range v.r.kMembers
  if members.all (memberRoom s v) then
    let s := members.foldl (fun s m => memberSend s v (v.cutTok s) m) s
    s.modElem (siteEa v.site 1) v.ctx (fun r => r.setOp (16 + v.n) { v.op with cut := true, sel := none })
  else s

/-- Cut markers stand on every return: the store is saved, and `kjoin` may forward the cut. -/
def kelpCutDone (s : State) (v : SlotView) : State :=
  let members := List.range v.r.kMembers
  let back := members.all (fun m =>
    let sv := { v with n := memberSlot v.n m }
    sv.cutAt (.data, memberData m) && sv.cutAt (.ctl, memberCtl m))
  if !back then s
  else
    s.modElem (siteEa v.site 1) v.ctx (fun r =>
      let r := members.foldl (fun r m => (r.popData (memberSlot v.n m) (memberData m)).popCtl (memberSlot v.n m) (memberCtl m)) r
      let r := members.foldl (fun r m => r.setOp (16 + memberSlot v.n m) { r.op (16 + memberSlot v.n m) with cut := true }) r
      let r := r.popData v.n 0
      { r.setOp (16 + v.n) { v.op with cut := true, sel := some true } with kelp := r.kStore })

/-- The group's actions of one fc at the head slot: a return, a dispatch and an entry, in that order, so that a record that enters is dispatched
a later fc. R192 gives no order (DESIGN CHOICE, log entry 118). -/
def fireKelp (s : State) (v : SlotView) : State :=
  if !v.r.released || v.r.stopped || v.op.sel == some true then s
  else
    let again := fun (s : State) => slotView s v.site v.ctx v.n v.w
    let s := noteReturns s v
    let s := acceptReturn s (again s)
    let v := again s
    if v.r.stopped then s
    else if v.op.cut then kelpCutDone s v
    else
      let s := dispatchRecord s v
      let v := again s
      if v.cutAt (.data, 0) then kelpCut s v else acceptEntry s v

/-- KELP (R362, R363): the head slot acts for the group; an extension slot only names edges. -/
def execKelp (w : OpWord) (s : State) : Result :=
  runSlot s w (fun s v => if w.imm.toNat % 8 = 0 then fireKelp s v else s)

/-! ## kjoin (R193, R364) -/

/-- The head slot of the group of a context. -/
def kelpHead (r : ElemCtx) : Option Nat :=
  (List.range 8).find? (fun n => r.slotOn n && opcodeOf (r.slotWord n) == 267 && (r.slotWord n).toNat % 8 == 0)

/-- What `kjoin` sends for a slot. -/
def joinOut (x : KSlot) : List (Nat × Token) × List (Nat × Ctl) :=
  if x.tok.kind = .marker then ([(0, { x.tok with done := 0 })], [(1, ctlOfMarker x.tok)])
  else if x.hole then ([], [(1, ctlTok false false)])
  else ([(0, { x.tok with done := 0 })], [(1, ctlTok true false)])

/-- Every slot of a group has passed LEVEL 7. -/
def endGroup (r : ElemCtx) : ElemCtx :=
  (List.range 8).foldl (fun r n =>
    let c := opcodeOf (r.slotWord n)
    if r.slotOn n && (c == 267 || c == 268) then r.setOp (16 + n) { r.op (16 + n) with ended := true } else r) r

/-- Emit the oldest slot when it is complete; forward the cut once the group has been saved. -/
def fireKjoin (s : State) (v : SlotView) : State :=
  if !slotLive v then s
  else
    let ea := siteEa v.site 1
    let k := v.r.kStore
    let headCut := (kelpHead v.r).elim false (fun n => (v.r.op (16 + n)).sel == some true)
    if headCut then
      let t := v.cutTok s
      let o := { SlotOut.of v.op with data := [(0, t)], ctl := [(1, ctlCut)] }
      if slotRoom s v o then
        let s := s.modElem ea v.ctx (fun r => r.setOp (16 + v.n) { v.op with cut := true })
        traceEvent (slotSend s v o.data o.ctl) ea v.ctx 4 t
      else s
    else match k.slots with
      | [] => s
      | x :: rest =>
        if x.state != .complete then s
        else
          let out := joinOut x
          if slotRoom s v { SlotOut.of v.op with data := out.1, ctl := out.2 } then
            let s := noteFiring (setKelp s v { k with slots := rest }) ea v.ctx (16 + v.n) x.tok
            let s := if x.tok.isEnd then s.modElem ea v.ctx endGroup else s
            slotSend s v out.1 out.2
          else s

/-- KJOIN (R364). -/
def execKjoin (w : OpWord) (s : State) : Result := runSlot s w fireKjoin

end Sys2Proof.Machine
end

