-- ==== Sys2Proof/Machine/Contribute.lean ====
section
/-! DEFINITION. Machine/Contribute.lean: what the Bloodhound channels see of a write (R222 to R224): which fields it covers
and the exact contribution of each to a channel's 320-bit sum. -/

namespace Sys2Proof.Machine

/-- The exact operand of an atomic add or fadd, by the address it acts on (R223). -/
abbrev ExactOperand := Option (Nat × Nat × FVal)

/-- Field width in bytes and value of a pattern, by FFMT: 0 i32, 1 i64, 2 fp32, 3 fp64. -/
def fieldWidth (ffmt : Nat) : Nat := if ffmt % 2 = 1 then 8 else 4

/-- The value a field's pattern stands for. -/
def fieldValue (ffmt p : Nat) : FVal :=
  match ffmt with
  | 0 => intVal (intOf 32 true p)
  | 1 => intVal (intOf 64 true p)
  | 2 => decodeFloat (floatFmt 12) p
  | _ => decodeFloat (floatFmt 13) p

/-- Round(x / 2^QEXP), to nearest, as an integer of quanta. -/
def quanta (neg : Bool) (m : Nat) (e q : Int) : Int :=
  let sh := e - q
  signedInt neg (if 0 ≤ sh then m * 2 ^ sh.toNat else roundQuot m (-sh).toNat false .rne)

/-- QEXP of a channel as a signed number. -/
def Channel.qexp (c : Channel) : Int := c.q.toInt

/-- MCCFG fields. -/
def Channel.en (c : Channel) : Bool := bitAt c.cfg 0
  where bitAt (w : Word) (i : Nat) : Bool := w.toNat / 2 ^ i % 2 == 1
/-- SPACE: device memory. -/
def Channel.space (c : Channel) : Bool := c.cfg.toNat / 2 % 2 == 1
/-- FFMT. -/
def Channel.ffmt (c : Channel) : Nat := c.cfg.toNat / 4 % 4
/-- MODE. -/
def Channel.mode (c : Channel) : Nat := c.cfg.toNat / 16 % 4
/-- DELTA. -/
def Channel.delta (c : Channel) : Bool := c.cfg.toNat / 64 % 2 == 1
/-- LEAD. -/
def Channel.lead (c : Channel) : Bool := c.cfg.toNat / 128 % 2 == 1
/-- GROUP. -/
def Channel.group (c : Channel) : Nat := c.cfg.toNat / 256 % 256
/-- BAR. -/
def Channel.bar (c : Channel) : Nat := c.cfg.toNat / 65536 % 4096

/-- Set bits of MCSTAT: 1 OVF, 2 NANF, 4 PARTF, 8 FAILED. -/
def Channel.setStat (c : Channel) (b : BitVec 4) : Channel := { c with stat := c.stat ||| b }

/-- Add one contribution to a channel's sum (R224). -/
def Channel.contribute (c : Channel) (x : FVal) : Channel :=
  match x with
  | .nan => c.setStat 2
  | .inf _ => c.setStat 2
  | .fin neg m e =>
    let t := c.sum.toInt + quanta neg m e c.qexp
    if t < -(2 ^ 319 : Int) ∨ (2 ^ 319 : Int) ≤ t then c.setStat 1 else { c with sum := BitVec.ofInt 320 t }

/-- Bytes of the mask that fall on [lo, lo + n) within a line. -/
def maskCount (mask lo : Nat) : Nat → Nat
  | 0 => 0
  | n + 1 => mask / 2 ^ lo % 2 + maskCount mask (lo + 1) n

/-- A number read from a line's bytes at an offset. -/
def lineNat (l : List Byte) (off n : Nat) : Nat := bytesToNat ((l.drop off).take n)

/-- What a write of masked bytes of the line at `line` gives a channel for its field number k. -/
def Channel.fieldWrite (c : Channel) (line mask : Nat) (old new : List Byte) (exact : ExactOperand) (k : Nat) : Channel :=
  let w := fieldWidth c.ffmt
  let f := c.base.toNat + k * c.str.toNat + c.off.toNat
  if c.lim.toNat < f + w ∨ f + w ≤ line ∨ line + 64 ≤ f then c
  else
    let lo := f - line
    let n := min (f + w) (line + 64) - max f line
    let got := maskCount mask lo n
    if got = 0 then c
    else if got < w ∨ f < line then c.setStat 4
    else
      let after := fieldValue c.ffmt (lineNat new lo w)
      if !c.delta then c.contribute after
      else match exact with
        | some (a, n, x) =>
          if a = f ∧ n = w then c.contribute x
          else c.contribute (addVal after (negVal (fieldValue c.ffmt (lineNat old lo w))))
        | none => c.contribute (addVal after (negVal (fieldValue c.ffmt (lineNat old lo w))))

/-- What a write gives a channel: the fields that can touch the line are at most 17 from the first that ends behind its
start. -/
def Channel.lineWrite (c : Channel) (line mask : Nat) (old new : List Byte) (exact : ExactOperand) : Channel :=
  if !c.en ∨ c.str = 0 then c
  else
    let start := c.base.toNat + c.off.toNat
    let k0 := (line - start) / c.str.toNat
    (List.range 18).foldl (fun c i => c.fieldWrite line mask old new exact (k0 + i)) c

/-- A write performed at an MT's banks: its channels with SPACE 0 see it at scratchpad offsets (R222). -/
def monitorSpad (s : State) (site : SiteNo) (line mask : Nat) (old new : List Byte) (exact : ExactOperand) : State :=
  { s with channels := s.channels.foldl (fun t p =>
      if p.1 / 4 = site.toNat ∧ p.1 < 0x8000 ∧ !p.2.space then
        tabSet t p.1 (p.2.lineWrite line mask old new exact) Channel.reset
      else t) s.channels }

/-- A write drawn from an MT's commit buffer at commit, or a write-through of its STREAM AGNs: its channels with SPACE 1
see it at physical addresses (R222). -/
def monitorCommit (s : State) (site : SiteNo) (line mask : Nat) (old new : List Byte) (exact : ExactOperand) : State :=
  { s with channels := s.channels.foldl (fun t p =>
      if p.1 / 4 = site.toNat ∧ p.1 < 0x8000 ∧ p.2.space then
        tabSet t p.1 (p.2.lineWrite line mask old new exact) Channel.reset
      else t) s.channels }

/-- A stream-port channel of a partition that is enabled. -/
def portChannelOn (p : Nat × Channel) (part : Nat) : Bool :=
  decide (0x8000 ≤ p.1) && p.2.en && decide (p.2.part.toNat = part)

/-- A write of a sequencer, an engine or the host window: the channels of the stream port it passes see it. Which port that
is the spec leaves open: a free value (log entry 8), drawn only when a channel of the partition is on. -/
def monitorPort (s : State) (part line mask : Nat) (old new : List Byte) (exact : ExactOperand) : State :=
  if s.channels.any (fun p => portChannelOn p part) then
    let port := (Config.freeValue s.free).toNat % 2 ^ 14
    { s with
      free := s.free + 1
      channels := s.channels.foldl (fun t p =>
        if portChannelOn p part ∧ (p.1 - 0x8000) / 4 = port then
          tabSet t p.1 (p.2.lineWrite line mask old new exact) Channel.reset
        else t) s.channels }
  else s

end Sys2Proof.Machine
end

