-- ==== Sys2Proof/Machine/Axolotl.lean ====
section
/-! DEFINITION. Machine/Axolotl.lean: lines of a memory tile and the Axolotl parity banks (R92, R93, R201 to R213): bank
selection, direct reads, reconstruction, parity updates, errors and retirement. Banks are numbered 0 to 15 (data) and 16
to 19 (parity). -/

namespace Sys2Proof.Machine

/-! ## Where a line stands (R92, Table 3-5) -/

/-- H of a rotation code for a byte offset. -/
def rotation (code off : Nat) : Nat :=
  match code with
  | 0 => 0
  | 1 => off / 2 ^ 10 % 16
  | 2 => off / 2 ^ 14 % 16
  | _ => (off / 2 ^ 10 % 16) ^^^ (off / 2 ^ 14 % 16)

/-- Bank of an offset under a rotation code. -/
def bankOf (code off : Nat) : Nat := (off / 64 % 16) ^^^ rotation code off

/-- Row of an offset. -/
def rowOf (off : Nat) : Nat := off / 1024 % 2048

/-- Key in State.spad of byte 0 of a row of a data bank. -/
def bankKey (site : SiteNo) (bank row : Nat) : Nat := site.toNat * 2 ^ 21 + row * 1024 + bank * 64

/-- Bytes of a row as a 512-bit line. -/
def lineOf (l : List Byte) : Line := BitVec.ofNat 512 (bytesToNat l)

/-- A 512-bit line as bytes. -/
def lineBytes (l : Line) : List Byte := natToBytes 64 l.toNat

/-- Contents of a row of a data bank. -/
def bankLine (s : State) (site : SiteNo) (bank row : Nat) : Line := lineOf (memBytes s.spad (bankKey site bank row) 64)

/-- Contents of a parity row. -/
def parityLine (a : Axolotl) (g row : Nat) : Line := tabGet a.parity (g * 2048 + row) 0

/-- Change the Axolotl state of a site. -/
def modAx (s : State) (site : SiteNo) (f : Axolotl → Axolotl) : State := s.modSite site (fun t => { t with ax := f t.ax })

/-- The Axolotl state of a site. -/
def axOf (s : State) (site : SiteNo) : Axolotl := (s.site site).ax

/-- Retired banks of a group, as numbers 0 to 4 within it. -/
def retiredOf (a : Axolotl) (g : Nat) : List Nat := tabGet a.retired g []

/-- The bank's number within its group, 4 for parity, and the group (R92). -/
def groupOf (bank : Nat) : Nat := if bank < 16 then bank / 4 else bank - 16
def inGroup (bank : Nat) : Nat := if bank < 16 then bank % 4 else 4

/-- Error state of a row: 0 none, 1 correctable, 2 uncorrectable. -/
def rowError (a : Axolotl) (bank row : Nat) : Nat := tabGet a.errs (bank * 2048 + row) 0

/-! ## Retirement (R208, R212) -/

/-- Retire a bank. A second bank of its group takes the group offline, and the tile body with the four CTs whose save area
it holds leaves the placement (R212). Retiring a parity bank empties its pipeline (R206, R210). -/
def retireBank (s : State) (site : SiteNo) (bank : Nat) : State :=
  let g := groupOf bank
  let l := retiredOf (axOf s site) g
  if l.contains (inGroup bank) then s
  else
    let s := modAx s site (fun a =>
      { a with retired := tabSet a.retired g (l ++ [inGroup bank]) []
               pipes := if 16 ≤ bank then tabSet a.pipes g [] [] else a.pipes })
    let s := (s.log (.retiredBank site.toNat bank)).modPlat (fun p => { p with retire := true })
    if l.isEmpty then s
    else
      let x := site.toNat % 64
      let group := (List.range 5).map (fun i => BitVec.ofNat 13 (site.toNat - x + (x / 5 * 5 + i)))
      (group.foldl (fun s c => s.modSite c (fun t => { t with retiredTile := true })) s).log (.retiredTile site.toNat)

/-- Count a correctable error of a bank and mark its row for writing back; CETHR errors in an hour retire it (R206, R208). -/
def correctable (s : State) (site : SiteNo) (bank row : Nat) : State :=
  let a := axOf s site
  let n := min 255 (tabGet a.ce bank 0 + 1)
  let s := modAx s site (fun a => { a with ce := tabSet a.ce bank n 0
                                           fixes := if a.fixes.contains (bank, row) then a.fixes else a.fixes ++ [(bank, row)] })
  let thr := a.bpctl.toNat / 256 % 256
  if thr ≠ 0 ∧ thr ≤ n then retireBank s site bank else s

/-- Count an uncorrectable row or a suppressed write. -/
def countUe (s : State) (site : SiteNo) : State := modAx s site (fun a => { a with ue := satAdd32 a.ue 1 })

/-- A PARITY record naming the MT, the group, the row and the bank (R211). The bank stands in SLOT and ADDR is the row's offset in its bank: Table
10-2 places the group and the row alone (DESIGN CHOICE, log entry 116). -/
def parityFault (s : State) (site : SiteNo) (ctx : BitVec 2) (bank row : Nat) : State :=
  loggedRecord s (siteEa site 0) ctx
    { faultInfo 10 0 0 Token.zero with aux := groupOf bank + 4 * row, slot := bank, addr := row * 1024 }

/-! ## Bank use (R203)

Requests are decided in the order in which they are made, each for the first fc in which R203 to R209 serve it: `busy` holds the banks and
fc that are taken. A landing comes before any direct access (log entry 120). -/

/-- Take banks in an fc; what has passed is dropped. -/
def useBanks (s : State) (site : SiteNo) (l : List Nat) (f : Nat) : State :=
  modAx s site (fun a => { a with busy := a.busy.filter (fun p => decide (s.time ≤ p.2)) ++ l.map (fun b => (b, f)) })

/-- The first fc that meets a condition, looking at most n fc ahead. -/
def firstFc (ok : Nat → Bool) : Nat → Nat → Nat
  | 0, f => f
  | n + 1, f => if ok f then f else firstFc ok n (f + 1)

/-- How far a request looks ahead: no bank is taken longer. -/
def Axolotl.span (a : Axolotl) : Nat := a.busy.length + 64

/-- The fc in which the pending updates of a group land: the oldest first, one per fc, 2 fc after their writes at the earliest (R205). -/
def landTimes (a : Axolotl) (g now : Nat) : List (ParEntry × Nat) :=
  ((tabGet a.pipes g []).foldl (fun (acc : List (ParEntry × Nat) × Nat) p =>
    let f := firstFc (fun f => !a.busy.contains (16 + g, f)) a.span (max acc.2 (p.at_ + 2))
    (acc.1 ++ [(p, f)], f + 1)) ([], now)).1

/-- SPB of a row in an fc: an update of it is pending (R202). -/
def staleAt (a : Axolotl) (g row now f : Nat) : Bool := (landTimes a g now).any (fun p => p.1.row == row && decide (f ≤ p.2))

/-- A bank is taken in an fc, a parity bank also by a landing. -/
def bankBusy (a : Axolotl) (bank now f : Nat) : Bool :=
  a.busy.contains (bank, f) || (decide (16 ≤ bank) && (landTimes a (bank - 16) now).any (fun p => p.2 == f))

/-! ## Landings (R205) -/

/-- The oldest pending update of a group lands on its parity bank. An uncorrectable parity row drops it and retires the
bank (R206). -/
def landOldest (s : State) (site : SiteNo) (g : Nat) : State :=
  match tabGet (axOf s site).pipes g [] with
  | [] => s
  | p :: rest =>
    let s := useBanks (modAx s site (fun a => { a with pipes := tabSet a.pipes g rest [] })) site [16 + g] s.time
    match rowError (axOf s site) (16 + g) p.row with
    | 2 => retireBank (countUe s site) site (16 + g)
    | n =>
      let s := if n = 1 then correctable s site (16 + g) p.row else s
      modAx s site (fun a =>
        { a with parity := tabSet a.parity (g * 2048 + p.row) (parityLine a g p.row ^^^ p.delta) 0 })

/-! ## Reads -/

/-- The four banks other than `bank` of a group: three data banks and parity. -/
def otherBanks (bank : Nat) : List Nat :=
  ((List.range 4).map (fun i => 4 * groupOf bank + i)).filter (fun b => b != bank)

/-- The parity row once every pending update of it has landed. -/
def settledParity (a : Axolotl) (g row : Nat) : Line :=
  (tabGet a.pipes g []).foldl (fun l p => if p.row = row then l ^^^ p.delta else l) (parityLine a g row)

/-- XOR of three data rows and the parity row (R204). -/
def rebuilt (s : State) (site : SiteNo) (bank row : Nat) : Line :=
  (otherBanks bank).foldl (fun l b => l ^^^ bankLine s site b row) (settledParity (axOf s site) (groupOf bank) row)

/-- Outcome of a line read. -/
structure LineRead where
  line   : Line
  failed : Bool

/-- A failed read (R211): zero, recorded. -/
def failRead (s : State) (site : SiteNo) (ctx : BitVec 2) (bank row : Nat) : State × LineRead :=
  (parityFault s site ctx bank row, { line := 0, failed := true })

/-- SECDED of a row that is read (R206): a correctable row counts in CE, an uncorrectable one in UE, and its bank is retired (R208). -/
def secded (site : SiteNo) (row : Nat) (s : State) (bank : Nat) : State :=
  match rowError (axOf s site) bank row with
  | 0 => s
  | 1 => correctable s site bank row
  | _ => retireBank (countUe s site) site bank

/-- Read the source rows of a reconstruction in an fc; an uncorrectable one makes the read fail (R211). -/
def rebuildIn (s : State) (site : SiteNo) (ctx : BitVec 2) (bank row f : Nat) : State × LineRead :=
  let sources := otherBanks bank ++ [16 + groupOf bank]
  let bad := sources.any (fun b => rowError (axOf s site) b row == 2)
  let line := rebuilt s site bank row
  let s := sources.foldl (secded site row) (useBanks s site sources f)
  if bad then failRead s site ctx bank row else (s, { line := line, failed := false })

/-- The banks that a reconstruction reads are idle and SPB of the row is clear (R204, R209). -/
def rebuildable (a : Axolotl) (bank row now f : Nat) : Bool :=
  !staleAt a (groupOf bank) row now f && (otherBanks bank ++ [16 + groupOf bank]).all (fun b => !bankBusy a b now f)

/-- A landing that a waiting read stands behind will retire the parity bank (R206, R211). -/
def landingFails (a : Axolotl) (g row now : Nat) : Bool :=
  staleAt a g row now now && (tabGet a.pipes g []).any (fun p => rowError a (16 + g) p.row == 2)

/-- Serve a read by reconstruction of a bank that cannot answer, in the first fc that allows it. -/
def reconstruct (s : State) (site : SiteNo) (ctx : BitVec 2) (bank row : Nat) : State × LineRead :=
  let a := axOf s site
  if (retiredOf a (groupOf bank)).contains 4 || landingFails a (groupOf bank) row s.time then failRead s site ctx bank row
  else rebuildIn s site ctx bank row (firstFc (rebuildable a bank row s.time) a.span s.time)

/-- R204 serves a read of a busy bank in an fc. -/
def secondRead (a : Axolotl) (bank row now f : Nat) : Bool :=
  a.bpctl.toNat % 2 == 1 && (retiredOf a (groupOf bank)).isEmpty && rebuildable a bank row now f

/-- Read one row of a data bank: a retired bank is rebuilt (R209); otherwise the first fc serves it in which the bank is idle, or in which R204
rebuilds the row, and RWAIT counts those that refused it; a direct read checks SECDED (R206, R211). -/
def readBank (s : State) (site : SiteNo) (ctx : BitVec 2) (bank row : Nat) : State × LineRead :=
  let a := axOf s site
  let gone := retiredOf a (groupOf bank)
  let now := s.time
  if gone.contains (inGroup bank) then
    if 2 ≤ gone.length then failRead s site ctx bank row
    else reconstruct (modAx s site (fun a => { a with degrd := satAdd32 a.degrd 1 })) site ctx bank row
  else
    let f := firstFc (fun f => !bankBusy a bank now f || secondRead a bank row now f) a.span now
    let s := if f = now then s else modAx s site (fun a => { a with rwait := satAdd32 a.rwait (f - now) })
    if bankBusy a bank now f && secondRead a bank row now f then
      rebuildIn (modAx s site (fun a => { a with recon := satAdd32 a.recon 1 })) site ctx bank row f
    else
      let s := useBanks s site [bank] f
      match rowError a bank row with
      | 0 => (s, { line := bankLine s site bank row, failed := false })
      | 1 => (correctable s site bank row, { line := bankLine s site bank row, failed := false })
      | _ =>
        let (s, r) := if gone.isEmpty then reconstruct (countUe s site) site ctx bank row else failRead (countUe s site) site ctx bank row
        let s := if r.failed then s
          else { modAx s site (fun a => { a with errs := tabSet a.errs (bank * 2048 + row) 0 0 }) with
                 spad := memSetBytes s.spad (bankKey site bank row) (lineBytes r.line) }
        (retireBank s site bank, r)

/-! ## Writes -/

/-- Put an update into a pipeline behind those of earlier writes. -/
def pipeInsert (p : ParEntry) : List ParEntry → List ParEntry
  | [] => [p]
  | q :: rest => if p.at_ < q.at_ then p :: q :: rest else q :: pipeInsert p rest

/-- The pipeline has an entry that an update of a row made in an fc merges into (R205). -/
def pipeMerges (a : Axolotl) (g row f : Nat) : Bool := (tabGet a.pipes g []).any (fun p => p.row == row && p.at_ == f)

/-- A pipeline has room for an update of a row made in an fc. -/
def pipeRoom (a : Axolotl) (g row now f : Nat) : Bool :=
  pipeMerges a g row f || decide (((landTimes a g now).filter (fun p => decide (f ≤ p.2))).length < 16)

/-- Enter a parity update of a write made in an fc; updates of one row made in one fc merge (R205). -/
def enterUpdate (s : State) (site : SiteNo) (g row : Nat) (delta : Line) (f : Nat) : State :=
  modAx s site (fun a =>
    if pipeMerges a g row f then
      { a with pipes := tabMod a.pipes g [] (fun l => l.map (fun p => if p.row = row ∧ p.at_ = f then { p with delta := p.delta ^^^ delta } else p)) }
    else { a with pipes := tabMod a.pipes g [] (pipeInsert { row := row, delta := delta, at_ := f }) })

/-- Bytes of `new` where the mask has a bit, of `old` elsewhere. -/
def mergeMasked : Nat → List Byte → List Byte → List Byte
  | m, o :: os, n :: ns => (if m % 2 = 1 then n else o) :: mergeMasked (m / 2) os ns
  | _, _, _ => []

/-- Put a row into a data bank with its parity update (R205, R209, R210). -/
def storeRow (s : State) (site : SiteNo) (bank row : Nat) (old new : Line) (f : Nat) : State :=
  let g := groupOf bank
  let s := { s with spad := memSetBytes s.spad (bankKey site bank row) (lineBytes new) }
  let s := modAx s site (fun a => { a with errs := tabSet a.errs (bank * 2048 + row) 0 0 })
  if (retiredOf (axOf s site) g).contains 4 then s else enterUpdate s site g row (old ^^^ new) f

/-- A write that cannot be made (R206, R212): counted and recorded. -/
def suppressWrite (s : State) (site : SiteNo) (ctx : BitVec 2) (bank row : Nat) : State × Bool :=
  (parityFault (countUe s site) site ctx bank row, false)

/-- A write to the retired bank of a degraded group (R209): the three other data rows are read once SPB of the row is clear, and parity takes
the new row XOR them. A write of part of the row needs the parity row too, for the bytes it leaves. When a row that is read is uncorrectable
nothing is written and PARITY is posted (DESIGN CHOICE: the spec states no outcome; log entry 119). -/
def writeRetired (s : State) (site : SiteNo) (ctx : BitVec 2) (bank row mask : Nat) (data : List Byte) : State × Bool :=
  let a := axOf s site
  let g := groupOf bank
  let now := s.time
  let rows := otherBanks bank ++ (if mask = 2 ^ 64 - 1 then [] else [16 + g])
  if landingFails a g row now then suppressWrite s site ctx bank row
  else
    let f := firstFc (fun f => !staleAt a g row now f && rows.all (fun b => !bankBusy a b now f) && pipeRoom a g row now f) a.span now
    let bad := rows.any (fun b => rowError a b row == 2)
    let old := rebuilt s site bank row
    let s := rows.foldl (secded site row) (useBanks s site rows f)
    if bad then (parityFault s site ctx bank row, false)
    else (storeRow s site bank row old (lineOf (mergeMasked mask (lineBytes old) data)) f, true)

/-- Write masked bytes of one row of a data bank, in the first fc in which the bank is idle and the pipeline has room; answers whether the write
was made. WSTALL counts the fc that find the pipeline full. A write of which the old row and a source row of its rebuild are both uncorrectable
is not made, and PARITY is posted (DESIGN CHOICE: R206 states no outcome in a group that is not degraded; log entry 119). -/
def writeBank (s : State) (site : SiteNo) (ctx : BitVec 2) (bank row mask : Nat) (data : List Byte) : State × Bool :=
  let a := axOf s site
  let g := groupOf bank
  let gone := retiredOf a g
  let now := s.time
  let merge := fun (old : Line) => lineOf (mergeMasked mask (lineBytes old) data)
  if gone.contains (inGroup bank) then
    if 2 ≤ gone.length then suppressWrite s site ctx bank row else writeRetired s site ctx bank row mask data
  else
    let room := fun (f : Nat) => gone.contains 4 || pipeRoom a g row now f
    let f := firstFc (fun f => !bankBusy a bank now f && room f) a.span now
    let full := ((List.range (f - now)).filter (fun i => !room (now + i))).length
    let s := if full = 0 then s else modAx s site (fun a => { a with wstall := satAdd32 a.wstall full })
    let s := useBanks s site [bank] f
    match rowError a bank row with
    | 2 =>
      if gone.isEmpty then
        let (s, r) := reconstruct (countUe s site) site ctx bank row
        let s := retireBank s site bank
        if r.failed then (s, false) else (storeRow s site bank row r.line (merge r.line) f, true)
      else
        let (s, _) := suppressWrite s site ctx bank row
        (retireBank s site bank, false)
    | n =>
      let s := if n = 1 then correctable s site bank row else s
      let old := bankLine s site bank row
      (storeRow s site bank row old (merge old) f, true)

/-! ## Lines by offset and rotation code -/

/-- Places of the arbiter's round robin (R203): AGN0 to AGN3 are 0 to 3. -/
def accessGsq : Nat := 4
def accessNear : Nat := 5
def accessMfe : Nat := 6
def accessSq : Nat := 7

/-- The arbiter's round robin goes on after the place that is served. -/
def servePlace (s : State) (site : SiteNo) (place : Nat) : State := modAx s site (fun a => { a with rr := place })

/-- Read the line of an offset for a requester place. -/
def readSpad (s : State) (site : SiteNo) (ctx : BitVec 2) (place off code : Nat) : State × LineRead :=
  readBank (servePlace s site place) site ctx (bankOf code off) (rowOf off)

/-- Write masked bytes of the line of an offset; the channels of the tile see a write that was made (R222, R139). -/
def writeSpad (s : State) (site : SiteNo) (ctx : BitVec 2) (place off code mask : Nat) (data : List Byte) (exact : ExactOperand) :
    State × Bool :=
  let bank := bankOf code off
  let row := rowOf off
  let old := memBytes s.spad (bankKey site bank row) 64
  let (s, ok) := writeBank (servePlace s site place) site ctx bank row mask data
  if ok then (monitorSpad s site (off / 64 * 64) mask old (mergeMasked mask old data) exact, true) else (s, false)

/-! ## Ranges (R94) -/

/-- Bytes of a memory tile that programs may use: below the save area and the commit buffer. -/
def programRange (s : State) (site : SiteNo) : Nat :=
  let cfg := (s.site site).mtcfg.toNat
  2 ^ 21 - 2 ^ 16 - cfg % 16 * 2 ^ 16

/-- Read the rows of a range of offsets that hold an error; false when one fails (R211). -/
def readRegion (s : State) (site : SiteNo) (lo hi : Nat) : State × Bool :=
  let rows := ((axOf s site).errs.map (fun e => (e.1 / 2048, e.1 % 2048))).filter (fun p => decide (p.1 < 16 ∧ lo ≤ p.2 * 1024 ∧ p.2 * 1024 < hi))
  rows.foldl (fun (acc : State × Bool) p =>
    let (s, r) := readBank acc.1 site 0 p.1 p.2
    (s, acc.2 && !r.failed)) (s, true)

/-- n bytes at an offset lie in the program range. -/
def inRange (s : State) (site : SiteNo) (off n : Nat) : Bool := decide (off + n ≤ programRange s site)

end Sys2Proof.Machine
end

