-- ==== Sys2Proof/Machine/Approx.lean ====
section
/-! DEFINITION. Machine/Approx.lean: the approximations of class 1 (R354, R355). Each function gives its exact value as
(−1)^neg × (m + δ) × 2^e with 0 ≤ δ < 1 and δ ≠ 0 iff `sticky`, from series in 512-bit fixed point (log entry 13), and
delivery rounds it: to nearest in fp16 and bf16, to one of the two neighbours in fp32 and fp64. -/

namespace Sys2Proof.Machine

/-- A positive real to be rounded, or a special result. -/
inductive Exact where
  | special (v : FVal)
  | val (neg : Bool) (m : Nat) (e : Int) (sticky : Bool)
deriving DecidableEq, Repr

/-- Fraction bits of the fixed-point numbers. -/
def fixBits : Nat := 512

/-- The sum over k of z^(2k+1) / (2k+1): `t` is the current power of z, `n` its exponent. -/
def atanhSeries (z2 : Nat) : Nat → Nat → Nat → Nat → Nat
  | 0, _, _, acc => acc
  | fuel + 1, t, n, acc => atanhSeries z2 fuel (t * z2 / 2 ^ fixBits) (n + 2) (acc + t / n)

/-- ln 2 = 2 atanh (1/3). -/
def ln2Fix : Nat :=
  let z := 2 ^ fixBits / 3
  2 * atanhSeries (z * z / 2 ^ fixBits) 170 z 1 0

/-- The sum over k of r^k / k!: `t` is the current term. -/
def expSeries (r : Nat) : Nat → Nat → Nat → Nat → Nat
  | 0, _, _, acc => acc
  | fuel + 1, t, k, acc => expSeries r fuel (t * r / 2 ^ fixBits / k) (k + 1) (acc + t)

/-- e^r for 0 ≤ r < 1 in fixed point. -/
def expFix (r : Nat) : Nat := expSeries r 110 (2 ^ fixBits) 1 0

/-- e^(−y) for a fixed-point y ≥ 0, as M × 2^(−k) with M in fixed point between 1 and 2. -/
def expNeg (y : Nat) : Nat × Nat :=
  let k := y / ln2Fix
  (expFix (ln2Fix - y % ln2Fix), k + 1)

/-- Compare m × 2^e with 2^k. -/
def belowPow (m : Nat) (e k : Int) : Bool := decide (e + (Nat.log2 m : Int) < k)

/-- m × 2^e in fixed point, cut off below. -/
def toFix (m : Nat) (e : Int) : Nat :=
  let sh := e + fixBits
  if 0 ≤ sh then m * 2 ^ sh.toNat else m / 2 ^ (-sh).toNat

/-- Slightly above 2^e. -/
def justAbove (neg : Bool) (e : Int) : Exact := .val neg (2 ^ 100) (e - 100) true

/-- Slightly below 2^e. -/
def justBelow (neg : Bool) (e : Int) : Exact := .val neg (2 ^ 100 - 1) (e - 100) true

/-- 1 / x. -/
def recipReal : FVal → Exact
  | .nan => .special .nan
  | .inf neg => .special (.fin neg 0 0)
  | .fin neg m e =>
    if m = 0 then .special (.inf neg)
    else
      let q := 2 ^ (Nat.log2 m + 130)
      .val neg (q / m) (-(e + (Nat.log2 m : Int) + 130)) (q % m != 0)

/-- 1 / √x. -/
def rsqrtReal : FVal → Exact
  | .nan => .special .nan
  | .inf neg => .special (if neg then .nan else .fin false 0 0)
  | .fin neg m e =>
    if m = 0 then .special (.inf neg)
    else if neg then .special .nan
    else
      let odd := (e % 2).toNat
      let m' := m * 2 ^ odd
      let k := Nat.log2 m' + 140
      let n := 2 ^ (2 * k) / m'
      let r := isqrt n (Nat.log2 n / 2 + 1) 0
      .val false r (-(k : Int) - (e - odd) / 2) (r * r * m' != 2 ^ (2 * k))

/-- 2^x. -/
def exp2Real : FVal → Exact
  | .nan => .special .nan
  | .inf neg => .special (if neg then .fin false 0 0 else .inf false)
  | .fin neg m e =>
    if m = 0 then .val false 1 0 false
    else if belowPow m e (-100) then (if neg then justBelow false 0 else justAbove false 0)
    else if !belowPow m e 12 then (if neg then .val false 1 (-5000) true else .val false 1 5000 false)
    else
      let x := toFix m e
      let n := x / 2 ^ fixBits
      let f := x % 2 ^ fixBits
      if f = 0 then .val false 1 (if neg then -(n : Int) else n) false
      else
        let g := if neg then 2 ^ fixBits - f else f
        .val false (expFix (g * ln2Fix / 2 ^ fixBits)) ((if neg then -(n : Int) - 1 else n) - fixBits) true

/-- log2 x. -/
def log2Real : FVal → Exact
  | .nan => .special .nan
  | .inf neg => .special (if neg then .nan else .inf false)
  | .fin neg m e =>
    if m = 0 then .special (.inf true)
    else if neg then .special .nan
    else
      let k := Nat.log2 m
      let c : Int := e + k
      if m = 2 ^ k then (if c = 0 then .special (.fin false 0 0) else .val (decide (c < 0)) c.natAbs 0 false)
      else
        let t := m * 2 ^ fixBits / 2 ^ k
        let z := (t - 2 ^ fixBits) * 2 ^ fixBits / (t + 2 ^ fixBits)
        let l := 2 * atanhSeries (z * z / 2 ^ fixBits) 170 z 1 0 * 2 ^ fixBits / ln2Fix
        let sum : Int := c * 2 ^ fixBits + l
        .val (decide (sum < 0)) sum.natAbs (-fixBits) true

/-- tanh x: −1 to 1, below x in magnitude. -/
def tanhReal : FVal → Exact
  | .nan => .special .nan
  | .inf neg => .special (.fin neg 1 0)
  | .fin neg m e =>
    if m = 0 then .special (.fin neg 0 0)
    else if belowPow m e (-64) then .val neg (m * 2 ^ 64 - 1) (e - 64) true
    else if !belowPow m e 7 then justBelow neg 0
    else
      let (u, k) := expNeg (2 * toFix m e)
      let one := 2 ^ (fixBits + k)
      .val neg ((one - u) * 2 ^ fixBits / (one + u)) (-fixBits) true

/-- 1 / (1 + e^−x). -/
def sigmReal : FVal → Exact
  | .nan => .special .nan
  | .inf neg => .special (if neg then .fin false 0 0 else .fin false 1 0)
  | .fin neg m e =>
    if m = 0 then .val false 1 (-1) false
    else if belowPow m e (-100) then (if neg then justBelow false (-1) else justAbove false (-1))
    else if !belowPow m e 11 then (if neg then .val false 1 (-5000) true else justBelow false 0)
    else
      let (u, k) := expNeg (toFix m e)
      let one := 2 ^ (fixBits + k)
      if neg then .val false (u * one / (one + u)) (-((fixBits + k : Nat) : Int)) true
      else .val false (one * 2 ^ fixBits / (one + u)) (-fixBits) true

/-- Deliver an approximation (R354): correctly rounded in fp16 and bf16; in fp32 and fp64 the exact value when it is
representable, otherwise the neighbour that Config.upperNeighbour names. Overflow and underflow follow RNE. -/
def deliverApprox (code f p : Nat) (r : Exact) : Nat :=
  let F := floatFmt f
  match r with
  | .special v => roundVal F v .rne false
  | .val neg m e sticky =>
    let near := roundFloat F neg m e sticky .rne false
    if f = 10 ∨ f = 11 then near
    else
      let low := roundFloat F false m e sticky .rtz false
      if !sticky && eqVal (decodeFloat F low) (.fin false m e) then near
      else if low = 0 ∨ low = F.maxBits then near
      else withSign F neg (if Config.upperNeighbour code f p then low + 1 else low)

end Sys2Proof.Machine
end

