-- ==== Sys2Proof/Machine/Flags.lean ====
section
/-! DEFINITION. Machine/Flags.lean: the status word of a sequencer (Table 3-10), its sticky DIVZ, and what conditions give: the 0 or 1 of a
sequencer comparison and the condition codes of `cmp` and `fcmp`. -/

namespace Sys2Proof.Machine

/-! ## SQ.STATUS -/

/-- SQ.STATUS (Table 3-10). -/
def Sq.statusWord (q : Sq) : DWord :=
  BitVec.ofNat 64 ((if q.ie then 1 else 0) + (if q.ppl then 2 else 0) + (if q.pie then 4 else 0) + (if q.divz then 8 else 0)
    + (if q.evFull then 16 else 0))

/-- A write of SQ.STATUS: DIVZ clears on 1, EVFULL and the reserved bits ignore it. -/
def Sq.setStatus (q : Sq) (v : DWord) : Sq :=
  { q with ie := v.getLsbD 0, ppl := v.getLsbD 1, pie := v.getLsbD 2, divz := q.divz && !v.getLsbD 3 }

/-- DIVZ is set by a division by zero and stays (R343, R391). -/
def Sq.noteDivisor (q : Sq) (y : DWord) : Sq := { q with divz := q.divz || y == 0 }

/-! ## Conditions -/

/-- 1 when a condition holds, else 0. -/
def oneIf (b : Bool) : DWord := if b then 1 else 0

/-- Conditions 0 to 5: eq, ne, lt, le, gt, ge (R337, R348). -/
def condHolds (c : Nat) (lt eq : Bool) : Bool :=
  match c with
  | 0 => eq
  | 1 => !eq
  | 2 => lt
  | 3 => lt || eq
  | 4 => !lt && !eq
  | _ => !lt

end Sys2Proof.Machine
end

