-- ==== Sys2Proof/Machine/LaneInt.lean ====
section
/-! DEFINITION. Machine/LaneInt.lean: the integer operators of the lane-pipe, CLS 0 (R317, R330, R337, R342, R344, R379,
R406, R409). -/

namespace Sys2Proof.Machine

/-- Formats a header may give an operator whose FMT is 0: the other formats of its entry. -/
def decodable (code : Nat) : List Nat :=
  match entryOf code with
  | none => []
  | some e => if e.fmts.contains 0 then e.fmts.filter (fun f => f != 0) else []

/-- Residues predicted from the inputs (Table 9-1): the residue of the output pattern displaced by what the inputs'
residues are off by. `da`, `db`, `dc` multiply the discrepancies of the sources: for a sum (ra + rb - c) mod 15, with c
the carries out, is the output's own residue plus the discrepancies of ra and rb. -/
def predicted (o : Operands) (p : Line) (da db dc : Nat) : ResWord :=
  resToWord (lanes16.map (fun j =>
    (residue15 (laneNat p j) + da * resError o.a j + db * resError o.b j + dc * resError o.c j) % 15))

/-- Element-wise result of an exact integer function of the operands' values, delivered by SAT (R317, R56). -/
def intResult (o : Operands) (sat : Bool) (g : Int → Int → Int → Int) : Line :=
  let w := fmtWidth o.fmt
  let sg := fmtSigned o.fmt
  mapElems o.fmt o.mask (fun i =>
    deliverInt o.fmt sat (g (intOf w sg (elemNat o.a.pay w i)) (intOf w sg (elemNat o.b.pay w i)) (intOf w sg (elemNat o.c.pay w i))))

/-- Element-wise result of a function of the operands' patterns. -/
def patResult (o : Operands) (g : Nat → Nat → Nat → Nat) : Line :=
  let w := fmtWidth o.fmt
  mapElems o.fmt o.mask (fun i => g w (elemNat o.a.pay w i) (elemNat o.b.pay w i) % 2 ^ w)

/-- An operator with an exact integer function; `pr` gives the discrepancies that its predicted residues carry when SAT
is 0, none when they are regenerated. -/
def intOp (code : Nat) (pr : Option (Nat × Nat × Nat)) (g : Int → Int → Int → Int) : StageOp :=
  plainOp code (decodable code) (fun v o =>
    let sat := v.w.sat == 1
    let p := intResult o sat g
    (o.mask, { pay := p, nan := none
               pred := match pr with
                 | some (da, db, dc) => if sat then none else some (predicted o p da db dc)
                 | none => none }))

/-- An operator with a function of the patterns, given the element width. -/
def patOp (code : Nat) (g : Nat → Nat → Nat → Nat) : StageOp :=
  plainOp code (decodable code) (fun _ o => (o.mask, { pay := patResult o g, pred := none, nan := none }))

/-! ## Sums, products, order (Tables 15-1, 17-1, 18-3) -/

/-- `add` (R317): a + b. -/
def execAddFabric (w : OpWord) (s : State) : Result := runStage s w (intOp 0 (some (1, 1, 0)) (fun a b _ => a + b))
/-- `sub` (R409): a - b. -/
def execSubFabric (w : OpWord) (s : State) : Result := runStage s w (intOp 1 (some (1, 14, 0)) (fun a b _ => a - b))
/-- `mul` (R379): a × b; its prediction forms element residues from the patterns. -/
def execMulFabric (w : OpWord) (s : State) : Result := runStage s w (intOp 2 (some (0, 0, 0)) (fun a b _ => a * b))
/-- `mulh` (R379): the high w bits of the exact product. -/
def execMulhFabric (w : OpWord) (s : State) : Result :=
  runStage s w (plainOp 3 (decodable 3) (fun _ o =>
    let w' := fmtWidth o.fmt
    let sg := fmtSigned o.fmt
    (o.mask, { pred := none, nan := none
               pay := mapElems o.fmt o.mask (fun i =>
                 wrapInt w' (intOf w' sg (elemNat o.a.pay w' i) * intOf w' sg (elemNat o.b.pay w' i) / 2 ^ w')) })))
/-- `mad` (R379): a × b + c. -/
def execMad (w : OpWord) (s : State) : Result := runStage s w (intOp 4 (some (0, 0, 1)) (fun a b c => a * b + c))
/-- `min` (R379). -/
def execMin (w : OpWord) (s : State) : Result := runStage s w (intOp 5 none (fun a b _ => if b < a then b else a))
/-- `max` (R379). -/
def execMax (w : OpWord) (s : State) : Result := runStage s w (intOp 6 none (fun a b _ => if a < b then b else a))
/-- `abs` (R317). -/
def execAbs (w : OpWord) (s : State) : Result := runStage s w (intOp 7 none (fun a _ _ => if a < 0 then -a else a))
/-- `neg` (R379): predicted as (c - ra) mod 15. -/
def execNeg (w : OpWord) (s : State) : Result := runStage s w (intOp 8 (some (14, 0, 0)) (fun a _ _ => -a))

/-! ## Logic, shifts, counts -/

/-- `and` (R317). -/
def execAndFabric (w : OpWord) (s : State) : Result := runStage s w (patOp 9 (fun _ a b => a &&& b))
/-- `or` (R379). -/
def execOrFabric (w : OpWord) (s : State) : Result := runStage s w (patOp 10 (fun _ a b => a ||| b))
/-- `xor` (R409). -/
def execXorFabric (w : OpWord) (s : State) : Result := runStage s w (patOp 11 (fun _ a b => a ^^^ b))
/-- `andn` (R317): a AND NOT b. -/
def execAndn (w : OpWord) (s : State) : Result := runStage s w (patOp 12 (fun w' a b => a &&& (2 ^ w' - 1 - b)))
/-- `shl` (R409): a × 2^s, the amount a non-negative pattern; s ≥ w acts as w. -/
def execShlFabric (w : OpWord) (s : State) : Result :=
  runStage s w (plainOp 13 (decodable 13) (fun v o =>
    let w' := fmtWidth o.fmt
    let sat := v.w.sat == 1
    let p := mapElems o.fmt o.mask (fun i =>
      deliverInt o.fmt sat (intOf w' (fmtSigned o.fmt) (elemNat o.a.pay w' i) * 2 ^ min w' (elemNat o.b.pay w' i)))
    (o.mask, { pay := p, nan := none, pred := if sat then none else some (predicted o p 0 0 0) })))
/-- `shr` (R409): zero fill on the pattern read as non-negative, at code 7 too, where R53 lists `shr` among the operators that treat the
pattern as i64: R409, the operator's own rule, is followed (DEDUCED, log entry 110). -/
def execShrFabric (w : OpWord) (s : State) : Result := runStage s w (patOp 14 (fun w' a b => a / 2 ^ min w' b))
/-- `sra` (R409): sign fill. -/
def execSraFabric (w : OpWord) (s : State) : Result :=
  runStage s w (patOp 15 (fun w' a b => wrapInt w' (intOf w' true a / 2 ^ min w' b)))
/-- `rot` (R379): left by b mod w. -/
def execRot (w : OpWord) (s : State) : Result :=
  runStage s w (patOp 16 (fun w' a b => a * 2 ^ (b % w') + a / 2 ^ (w' - b % w')))
/-- `clz` (R317): leading zero bits. -/
def execClz (w : OpWord) (s : State) : Result :=
  runStage s w (patOp 17 (fun w' a _ => if a = 0 then w' else w' - 1 - Nat.log2 a))

/-- Number of 1 bits among the low n bits. -/
def popCount (a : Nat) : Nat → Nat
  | 0 => 0
  | n + 1 => popCount a n + a / 2 ^ n % 2

/-- `popc` (R379). -/
def execPopc (w : OpWord) (s : State) : Result := runStage s w (patOp 18 (fun w' a _ => popCount a w'))

/-! ## Comparison and choice -/

/-- `cmp` (R337): all ones where the condition holds. -/
def execCmp (w : OpWord) (s : State) : Result :=
  runStage s w (plainOp 19 (decodable 19) (fun v o =>
    let w' := fmtWidth o.fmt
    let sg := fmtSigned o.fmt
    (o.mask, { pred := none, nan := none
               pay := mapElems o.fmt o.mask (fun i =>
                 let a := intOf w' sg (elemNat o.a.pay w' i)
                 let b := intOf w' sg (elemNat o.b.pay w' i)
                 if condHolds (v.w.imm.toNat % 8) (decide (a < b)) (decide (a = b)) then 2 ^ w' - 1 else 0) })))

/-- `sel` (R406): whole lanes of B where the mask lane is true, else of C; residues travel with the lanes. FMT affects
the broadcast of code 6 alone. -/
def execSel (w : OpWord) (s : State) : Result :=
  runStage s w { plainOp 20 [] (fun _ o =>
      let pick := fun (j : Nat) => if laneNat o.a.pay j ≠ 0 then o.b else o.c
      (bitsToMask (lanes16.map (fun j => maskBit o.a.mask j && maskBit (pick j).mask j)),
       { pay := lanesToPay (lanes16.map (fun j => laneNat (pick j).pay j)), nan := none,
         pred := some (resToWord (lanes16.map (fun j => resNat (pick j).res j))) }))
    with noHeader := some 1 }

/-! ## Conversions, dot products, bit fields -/

/-- Index of the source element of output element i: widening takes slice PART (R342, R351). -/
def convertFrom (es ed part i : Nat) : Nat := if ed < es then part * ed + i else i

/-- Payload and mask of a conversion from format f to format d, with `g` giving each element from its index. -/
def convertElems (o : Operands) (f d part : Nat) (g : Nat → Nat) : BitVec 16 × Line :=
  let es := fmtElems f
  let ed := fmtElems d
  let ok := fun (i : Nat) =>
    let k := convertFrom es ed part i
    decide (k < es) && elemValid (fmtMask f o.a.mask) (fmtWidth f) k
  let m := lanesOfElems (fmtWidth d) ok
  (m, elemsToPay (fmtWidth d) ((List.range ed).map (fun i => if ok i then g (convertFrom es ed part i) else 0)))

/-- `cvt` (R342): integer to integer. -/
def execCvt (w : OpWord) (s : State) : Result :=
  runStage s w (plainOp 21 [] (fun v o =>
    let d := bits v.w.imm.toNat 0 4
    let f := v.w.fmt.toNat
    let (m, p) := convertElems o f d (bits v.w.imm.toNat 4 3) (fun k =>
      deliverInt d (v.w.sat == 1) (intOf (fmtWidth f) (fmtSigned f) (elemNat o.a.pay (fmtWidth f) k)))
    (m, { pay := p, pred := none, nan := none })))

/-- The dot product of the packed elements of lane j, plus the addend lane (R344). -/
def dotLane (o : Operands) (f : Nat) (addend : Bool) (j : Nat) : Int :=
  let w' := fmtWidth f
  let n := 32 / w'
  let prods := (List.range n).map (fun e =>
    intOf w' (fmtSigned f) (elemNat o.a.pay w' (n * j + e)) * intOf w' (fmtSigned f) (elemNat o.b.pay w' (n * j + e)))
  prods.foldl (· + ·) (if addend then intOf 32 true (laneNat o.c.pay j) else 0)

/-- The body of `dot4` and `dot2`. -/
def dotOp (code : Nat) : StageOp :=
  plainOp code [] (fun v o =>
    (o.mask, { pred := none, nan := none
               pay := lanesToPay (lanes16.map (fun j =>
                 deliverInt 5 (v.w.sat == 1) (dotLane o v.w.fmt.toNat (v.w.sc != 7) j))) }))

/-- `dot4` (R344). -/
def execDot4 (w : OpWord) (s : State) : Result := runStage s w (dotOp 22)
/-- `dot2` (R344). -/
def execDot2 (w : OpWord) (s : State) : Result := runStage s w (dotOp 23)

/-- `bfx` (R330): extract bits POS to POS + LEN - 1. -/
def execBfx (w : OpWord) (s : State) : Result :=
  runStage s w (patOp 24 (fun w' a _ =>
    let pos := bits w.imm.toNat 0 7
    let len := bits w.imm.toNat 7 7
    let x := bits a pos len
    if bitSet w.imm.toNat 14 then wrapInt w' (intOf len true x) else x))

/-- `bfi` (R330): replace bits POS to POS + LEN - 1 by the low bits of B. -/
def execBfi (w : OpWord) (s : State) : Result :=
  runStage s w (patOp 25 (fun _ a b =>
    let pos := bits w.imm.toNat 0 7
    let len := bits w.imm.toNat 7 7
    a - bits a pos len * 2 ^ pos + bits b 0 len * 2 ^ pos))

end Sys2Proof.Machine
end

