-- ==== Sys2Proof/Machine/LaneFloat.lean ====
section
/-! DEFINITION. Machine/LaneFloat.lean: the float operators of the lane-pipe, CLS 1 (R347 to R355). -/

namespace Sys2Proof.Machine

/-- The lowest element, among the valid ones that COUNT covers, at which a predicate holds. -/
def lowestElem (f : Nat) (m : BitVec 16) (count : Nat) (p : Nat → Bool) : Option Nat :=
  (List.range (fmtElems f)).find? (fun i => decide (i < count) && elemValid m (fmtWidth f) i && p i)

/-- Value of element i of a token in a float format. -/
def floatElem (f : Nat) (t : Token) (i : Nat) : FVal := decodeFloat (floatFmt f) (elemNat t.pay (fmtWidth f) i)

/-- An element-wise float operator of `n` sources (R347): `g` gives the output pattern of non-NaN inputs; a NaN input
gives the canonical NaN. -/
def floatOp (code n : Nat) (g : Nat → OpWord → FVal → FVal → FVal → Nat → Nat) : StageOp :=
  plainOp code (decodable code) (fun v o =>
    let f := o.fmt
    let F := floatFmt f
    let nanIn := fun (i : Nat) =>
      floatElem f o.a i == .nan || (decide (2 ≤ n) && floatElem f o.b i == .nan)
        || (decide (3 ≤ n) && floatElem f o.c i == .nan)
    let val := fun (i : Nat) =>
      if nanIn i then F.nanBits
      else g f v.w (floatElem f o.a i) (floatElem f o.b i) (floatElem f o.c i) (elemNat o.a.pay (fmtWidth f) i)
    (o.mask, { pay := mapElems f o.mask val, pred := none
               nan := lowestElem f o.mask o.count (fun i => !nanIn i && isNaN F (val i)) }))

/-- Round an exact value by the word's RND. -/
def roundBy (f : Nat) (w : OpWord) (v : FVal) : Nat := roundVal (floatFmt f) v (rndOf w.rnd) false

/-- `fadd` (R347). -/
def execFadd (w : OpWord) (s : State) : Result := runStage s w (floatOp 64 2 (fun f w x y _ _ => roundBy f w (addVal x y)))
/-- `fsub` (R347). -/
def execFsub (w : OpWord) (s : State) : Result :=
  runStage s w (floatOp 65 2 (fun f w x y _ _ => roundBy f w (addVal x (negVal y))))
/-- `fmul` (R347). -/
def execFmul (w : OpWord) (s : State) : Result := runStage s w (floatOp 66 2 (fun f w x y _ _ => roundBy f w (mulVal x y)))
/-- `fma` (R347): x × y + z, rounded once. -/
def execFma (w : OpWord) (s : State) : Result :=
  runStage s w (floatOp 67 3 (fun f w x y z _ => roundBy f w (addVal (mulVal x y) z)))
/-- `fnma` (R347): z − x × y, rounded once. -/
def execFnma (w : OpWord) (s : State) : Result :=
  runStage s w (floatOp 68 3 (fun f w x y z _ => roundBy f w (addVal z (negVal (mulVal x y)))))

/-- The sign of a value. -/
def signOf : FVal → Bool
  | .nan => false
  | .inf n => n
  | .fin n _ _ => n

/-- The smaller of two values; −0 is below +0. -/
def minVal (x y : FVal) : FVal :=
  if ltVal x y then x else if ltVal y x then y else if signOf x then x else y

/-- The larger of two values; +0 is above −0. -/
def maxVal (x y : FVal) : FVal :=
  if ltVal x y then y else if ltVal y x then x else if signOf x then y else x

/-- `fmin` (R347). -/
def execFmin (w : OpWord) (s : State) : Result := runStage s w (floatOp 69 2 (fun f w x y _ _ => roundBy f w (minVal x y)))
/-- `fmax` (R347). -/
def execFmax (w : OpWord) (s : State) : Result := runStage s w (floatOp 70 2 (fun f w x y _ _ => roundBy f w (maxVal x y)))
/-- `fabs` (R347). -/
def execFabs (w : OpWord) (s : State) : Result :=
  runStage s w (floatOp 71 1 (fun f w x _ _ _ => roundBy f w (if signOf x then negVal x else x)))
/-- `fneg` (R347). -/
def execFneg (w : OpWord) (s : State) : Result := runStage s w (floatOp 72 1 (fun f w x _ _ _ => roundBy f w (negVal x)))

/-- `fcmp` (R348): a NaN makes un and ne true and the other conditions false. -/
def execFcmp (w : OpWord) (s : State) : Result :=
  runStage s w (plainOp 73 (decodable 73) (fun v o =>
    let f := o.fmt
    let c := v.w.imm.toNat % 8
    (o.mask, { pred := none, nan := none
               pay := mapElems f o.mask (fun i =>
                 let x := floatElem f o.a i
                 let y := floatElem f o.b i
                 let holds :=
                   if x = .nan ∨ y = .nan then c == 6 || c == 1
                   else if c = 6 then false
                   else condHolds c (ltVal x y) (eqVal x y)
                 if holds then 2 ^ fmtWidth f - 1 else 0) })))

/-- The class code of a pattern (R349). -/
def classCode (F : FloatFmt) (p : Nat) : Nat :=
  match decodeFloat F p with
  | .nan => 256
  | .inf neg => if neg then 1 else 128
  | .fin neg m _ =>
    if m = 0 then (if neg then 8 else 16)
    else if m < 2 ^ F.mbits then (if neg then 4 else 32)
    else (if neg then 2 else 64)

/-- `fclass` (R349). -/
def execFclass (w : OpWord) (s : State) : Result :=
  runStage s w (plainOp 74 (decodable 74) (fun _ o =>
    (o.mask, { pred := none, nan := none
               pay := mapElems o.fmt o.mask (fun i => classCode (floatFmt o.fmt) (elemNat o.a.pay (fmtWidth o.fmt) i)) })))

/-- Formats a header may give `fcvt` with FMT 0: those that meet the rules of R351. -/
def fcvtFormats (w : OpWord) : List Nat :=
  let d := bits w.imm.toNat 0 4
  ((List.range 14).filter (fun f => decide (1 ≤ f) && f != d && (fmtFloat f || fmtFloat d)
    && (w.rnd != 2 || decide (16 ≤ fmtWidth f)) && partOk f d (bits w.imm.toNat 4 3)))

/-- One conversion (R351): `r` is the random token. -/
def convertOne (w : OpWord) (f d : Nat) (r : Token) (p k : Nat) : Nat :=
  let v : FVal := if fmtFloat f then decodeFloat (floatFmt f) p else intVal (intOf (fmtWidth f) (fmtSigned f) p)
  if fmtInt d then floatToInt d v (rndOf w.rnd)
  else if w.rnd = 2 then
    match v with
    | .fin neg m e =>
      let (x, n) := if fmtWidth f = 16 then (elemNat r.pay 16 k, 16) else (laneNat r.pay k, 32)
      roundStochastic (floatFmt d) neg m e x n (w.sat == 1)
    | u => roundVal (floatFmt d) u .rne (w.sat == 1)
  else roundVal (floatFmt d) v (rndOf w.rnd) (w.sat == 1)

/-- `fcvt` (R351, R352). -/
def execFcvt (w : OpWord) (s : State) : Result :=
  let d := bits w.imm.toNat 0 4
  runStage s w
    { plainOp 75 (if w.fmt = 0 then fcvtFormats w else []) (fun v o =>
        let f := o.fmt
        let out := fun (k : Nat) => convertOne v.w f d o.b (elemNat o.a.pay (fmtWidth f) k) k
        let (m, p) := convertElems o f d (bits v.w.imm.toNat 4 3) out
        let es := fmtElems f
        let ed := fmtElems d
        let bad := fun (i : Nat) =>
          let k := convertFrom es ed (bits v.w.imm.toNat 4 3) i
          decide (k < es) && decide (k < o.count) && elemValid (fmtMask f o.a.mask) (fmtWidth f) k
            && (!fmtFloat f || floatElem f o.a k != .nan) && isNaN (floatFmt d) (out k)
        (m, { pay := p, pred := none, nan := if fmtFloat d then (List.range ed).find? bad else none }))
      with
      pairB := w.rnd == 2
      header := fun s v t =>
        let f := if v.w.fmt = 0 then hdrFmt t else v.w.fmt.toNat
        (s, .emit v.op (if fmtWidth f = fmtWidth d then hdrSetFmt t d else t)) }

/-- `fsqrt` (R347). -/
def execFsqrt (w : OpWord) (s : State) : Result :=
  runStage s w (floatOp 78 1 (fun f w x _ _ _ => sqrtFloat (floatFmt f) x (rndOf w.rnd)))

/-- `frcp` (R354). -/
def execFrcp (w : OpWord) (s : State) : Result :=
  runStage s w (floatOp 76 1 (fun f _ x _ _ p => deliverApprox 76 f p (recipReal x)))
/-- `frsq` (R354). -/
def execFrsq (w : OpWord) (s : State) : Result :=
  runStage s w (floatOp 77 1 (fun f _ x _ _ p => deliverApprox 77 f p (rsqrtReal x)))
/-- `fexp2` (R354). -/
def execFexp2 (w : OpWord) (s : State) : Result :=
  runStage s w (floatOp 79 1 (fun f _ x _ _ p => deliverApprox 79 f p (exp2Real x)))
/-- `flog2` (R354). -/
def execFlog2 (w : OpWord) (s : State) : Result :=
  runStage s w (floatOp 80 1 (fun f _ x _ _ p => deliverApprox 80 f p (log2Real x)))
/-- `ftanh` (R354). -/
def execFtanh (w : OpWord) (s : State) : Result :=
  runStage s w (floatOp 81 1 (fun f _ x _ _ p => deliverApprox 81 f p (tanhReal x)))
/-- `fsigm` (R354). -/
def execFsigm (w : OpWord) (s : State) : Result :=
  runStage s w (floatOp 82 1 (fun f _ x _ _ p => deliverApprox 82 f p (sigmReal x)))

/-- The scale n of `fscl` for element i (R350); far beyond every format's range it acts as 5,000. -/
def scaleOf (w : OpWord) (o : Operands) (i : Nat) : Int :=
  let wd := fmtWidth o.fmt
  let n := if w.sb = 6 then (if wd = 16 then intOf 16 true (w.imm.toNat % 2 ^ 16) else intOf 32 true w.imm.toNat)
    else intOf wd true (elemNat o.b.pay wd i)
  if n < -5000 then -5000 else if 5000 < n then 5000 else n

/-- `fscl` (R350): x × 2^n, rounded once. -/
def execFscl (w : OpWord) (s : State) : Result :=
  runStage s w (plainOp 83 (decodable 83) (fun v o =>
    let f := o.fmt
    let val := fun (i : Nat) =>
      roundBy f v.w (match floatElem f o.a i with
        | .fin neg m e => .fin neg m (e + scaleOf v.w o i)
        | u => u)
    (o.mask, { pay := mapElems f o.mask val, pred := none, nan := none })))

end Sys2Proof.Machine
end

