-- ==== Sys2Proof/Machine/LaneMove.lean ====
section
/-! DEFINITION. Machine/LaneMove.lean: lane and state operators of the lane-pipe, CLS 2 (R318, R357, R367, R368, R377, R378,
R389, R390, R392, R425, R427). -/

namespace Sys2Proof.Machine

/-! ## Moves -/

/-- Formats a header may give an operator that takes every format (log entry 12). -/
def fEvery : List Nat := fData

/-- `mov` (R389): payload, mask and residues of A. -/
def execMov (w : OpWord) (s : State) : Result :=
  runStage s w (plainOp 128 fEvery (fun _ o => (o.mask, { pay := o.a.pay, pred := some o.a.res, nan := none })))

/-- Merge lanes of A into a context register (R390). -/
def mergeLanes (k a : Token) (lm : BitVec 16) : Token :=
  let m := a.mask &&& lm
  { a with
    pay := lanesToPay (lanes16.map (fun j => if maskBit m j then laneNat a.pay j else laneNat k.pay j))
    res := resToWord (lanes16.map (fun j => if maskBit m j then resNat a.res j else resNat k.res j))
    mask := k.mask ||| m }

/-- `movk` (R390). -/
def execMovk (w : OpWord) (s : State) : Result :=
  runStage s w { plainOp 129 fEvery (fun _ o => (o.mask, { pay := 0, pred := none, nan := none })) with
    data := fun s v o =>
      let k := mergeLanes (v.e.getK v.w.kidx.toNat) { o.a with etag := o.side.etag, seq := o.side.seq, done := o.side.done } (v.w.imm.setWidth 16)
      let t := { o.side with pay := maskPay k.pay k.mask, mask := k.mask, res := maskRes k.res k.mask }
      (s, { StageOut.emit v.op t with k := some k, poison := o.side.etag }) }

/-- The whole token A as it stands, for writing into a register. -/
def wholeToken (o : Operands) : Token := { o.a with etag := o.side.etag }

/-- `wrk` (R427): WSEL 0 writes data tokens, 1 headers, 2 both; every token passes on. -/
def execWrk (w : OpWord) (s : State) : Result :=
  let sel := w.imm.toNat % 4
  runStage s w { plainOp 130 fEvery (fun _ o => (o.mask, { pay := o.a.pay, pred := some o.a.res, nan := none })) with
    data := fun s v o =>
      let r := StageOut.emit v.op (resultToken o o.mask o.a.pay (some o.a.res))
      (s, if sel ≠ 1 then { r with k := some (wholeToken o), poison := o.side.etag } else r)
    header := fun s v t =>
      let r := StageOut.emit v.op t
      (s, if sel ≠ 0 then { r with k := some t, poison := t.etag } else r) }

/-! ## Folding into a register (R318) -/

/-- One fold of two patterns: 0 add, 1 min, 2 max (R318, R377); 3 and, 4 or, 5 xor. Integers wrap or saturate by SAT,
floats round by RND. -/
def fold (op f : Nat) (sat : Bool) (rnd : Rnd) (x y : Nat) : Nat :=
  if fmtFloat f then
    let F := floatFmt f
    let a := decodeFloat F x
    let b := decodeFloat F y
    if a = .nan ∨ b = .nan then F.nanBits
    else roundVal F (match op with | 0 => addVal a b | 1 => minVal a b | _ => maxVal a b) rnd false
  else
    let wd := fmtWidth f
    let a := intOf wd (fmtSigned f) x
    let b := intOf wd (fmtSigned f) y
    match op with
    | 0 => deliverInt f sat (a + b)
    | 1 => if b < a then y else x
    | 2 => if a < b then y else x
    | 3 => x &&& y
    | 4 => x ||| y
    | _ => x ^^^ y

/-- A pattern as an operator delivers it: a NaN becomes the canonical one (R58). -/
def canonNan (f x : Nat) : Nat := if fmtFloat f && isNaN (floatFmt f) x then (floatFmt f).nanBits else x

/-- A fold makes a NaN of two patterns neither of which is one. -/
def foldNan (op f : Nat) (rnd : Rnd) (x y : Nat) : Bool :=
  fmtFloat f && !isNaN (floatFmt f) x && !isNaN (floatFmt f) y && isNaN (floatFmt f) (fold op f false rnd x y)

/-- MRST: a marker of LEVEL at most MLEV resets the register after it has been forwarded (R318, R357). -/
def resetAt (mrst : Bool) (mlev : Nat) (s : State) (v : View) (t : Token) : State × StageOut :=
  let r := StageOut.emit v.op t
  (s, if mrst && decide (t.level.toNat ≤ mlev) then { r with k := some Token.zero } else r)

/-- `acck` (R318). -/
def execAcck (w : OpWord) (s : State) : Result :=
  let op := bits w.imm.toNat 0 2
  runStage s w { plainOp 131 [] (fun _ o => (o.mask, { pay := 0, pred := none, nan := none })) with
    data := fun s v o =>
      let f := o.fmt
      let wd := fmtWidth f
      let k := v.e.getK v.w.kidx.toNat
      let sat := v.w.sat == 1
      let rnd := rndOf v.w.rnd
      let inA := elemValid o.a.mask wd
      let inK := elemValid k.mask wd
      let p := elemsToPay wd ((List.range (fmtElems f)).map (fun i =>
        if inA i then
          (if inK i then fold op f sat rnd (elemNat k.pay wd i) (elemNat o.a.pay wd i) else canonNan f (elemNat o.a.pay wd i))
        else elemNat k.pay wd i))
      let m := k.mask ||| fmtMask f o.a.mask
      let out := resultToken o o.mask (maskPay p (fmtMask f o.mask)) none
      let k' := { o.side with pay := maskPay p m, mask := m, res := regenRes (maskPay p m) m, etag := o.side.etag || k.etag }
      match lowestElem f o.a.mask o.count (fun i => inK i && foldNan op f rnd (elemNat k.pay wd i) (elemNat o.a.pay wd i)) with
      | some i =>
        if nanTrap s v.e.task && !o.side.etag then (s, .stop v.op (nanFault v 131 o f i))
        else (s, { StageOut.emit v.op out with k := some k', poison := o.side.etag })
      | none => (s, { StageOut.emit v.op out with k := some k', poison := o.side.etag })
    marker := resetAt (bitSet w.imm.toNat 2) (bits w.imm.toNat 3 3) }

/-! ## Reductions and scans (R72, R377) -/

/-- One level of the tree: neighbours combine; a missing member passes the other up. -/
def treeLevel (g : Nat → Nat → Nat) : List (Option Nat) → List (Option Nat)
  | some x :: some y :: t => some (g x y) :: treeLevel g t
  | some x :: none :: t => some x :: treeLevel g t
  | none :: y :: t => y :: treeLevel g t
  | [x] => [x]
  | [] => []

/-- The tree over up to 2^n members. -/
def treeFold (g : Nat → Nat → Nat) : Nat → List (Option Nat) → Option Nat
  | 0, l => l.headD none
  | n + 1, l => treeFold g n (treeLevel g l)

/-- Some combination of the tree makes a NaN of members that are none. -/
def treeNan (g : Nat → Nat → Nat) (bad : Nat → Nat → Bool) : Nat → List (Option Nat) → Bool
  | 0, _ => false
  | n + 1, l =>
    let rec level : List (Option Nat) → Bool
      | some x :: some y :: t => bad x y || level t
      | _ :: _ :: t => level t
      | _ => false
    level l || treeNan g bad n (treeLevel g l)

/-- The identity of an operation: what an empty set gives (R377). -/
def identityOf (op f : Nat) : Nat :=
  let wd := fmtWidth f
  if fmtFloat f then
    let F := floatFmt f
    match op with
    | 0 => 0
    | 1 => F.infBits
    | _ => withSign F true F.infBits
  else
    match op with
    | 1 => if fmtSigned f then 2 ^ (wd - 1) - 1 else 2 ^ wd - 1
    | 2 => if fmtSigned f then 2 ^ (wd - 1) else 0
    | 3 => 2 ^ wd - 1
    | _ => 0

/-- Elements of a token as tree members: those valid, covered by COUNT (R34) and within a bound. -/
def members (o : Operands) (upto : Nat) : List (Option Nat) :=
  let wd := fmtWidth o.fmt
  (List.range (fmtElems o.fmt)).map (fun i =>
    if elemValid o.a.mask wd i && decide (i < min upto o.count) then some (elemNat o.a.pay wd i) else none)

/-- The tree over some members, and whether it made a NaN though no member is one (R58, R70, R377). -/
def treeOf (op f : Nat) (sat : Bool) (rnd : Rnd) (l : List (Option Nat)) : Option Nat × Bool :=
  let g := fold op f sat rnd
  ((treeFold g 6 l).map (canonNan f),
   !(l.any (fun x => x.any (fun y => fmtFloat f && isNaN (floatFmt f) y))) && treeNan g (foldNan op f rnd) 6 l)

/-- Formats a header may give `lred` and `lscan` with FMT 0. -/
def redFormats (w : OpWord) : List Nat :=
  if bits w.imm.toNat 0 3 ≤ 2 then [1, 2, 3, 4, 5, 6, 7, 10, 11, 12, 13] else [1, 2, 3, 4, 5, 6, 7]

/-- `lred` (R377). -/
def execLred (w : OpWord) (s : State) : Result :=
  let op := bits w.imm.toNat 0 3
  runStage s w (plainOp 132 (if w.fmt = 0 then redFormats w else []) (fun v o =>
    let f := o.fmt
    let wd := fmtWidth f
    match treeOf op f (v.w.sat == 1) (rndOf v.w.rnd) (members o (fmtElems f)) with
    | (none, _) => (0, { pay := 0, pred := none, nan := none })
    | (some x, bad) =>
      if bitSet v.w.imm.toNat 3 then
        (o.mask, { pay := mapElems f o.mask (fun _ => x), pred := none, nan := if bad then some 0 else none })
      else
        (if wd = 64 then 3 else 1, { pay := elemsToPay wd [x], pred := none, nan := if bad then some 0 else none })))

/-- `lscan` (R377). -/
def execLscan (w : OpWord) (s : State) : Result :=
  let op := bits w.imm.toNat 0 3
  runStage s w (plainOp 133 (if w.fmt = 0 then redFormats w else []) (fun v o =>
    let f := o.fmt
    let upto := fun (i : Nat) => if bitSet v.w.imm.toNat 3 then i else i + 1
    let tree := fun (i : Nat) => treeOf op f (v.w.sat == 1) (rndOf v.w.rnd) (members o (upto i))
    (o.mask, { pay := mapElems f o.mask (fun i => (tree i).1.getD (identityOf op f))
               pred := none
               nan := lowestElem f o.mask o.count (fun i => (tree i).2) })))

/-! ## Lane movements (R367) and indexes (R368) -/

/-- Move whole lanes: `src j` is the lane of A that output lane j shows, or none. Masks and residues go with them. -/
def moveLanes (o : Operands) (src : Nat → Option Nat) : BitVec 16 × ElemResult :=
  let get := fun {α : Type} (d : α) (g : Nat → α) (j : Nat) => ((src j).map g).getD d
  (bitsToMask (lanes16.map (get false (maskBit o.a.mask))),
   { pay := lanesToPay (lanes16.map (get 0 (laneNat o.a.pay))), nan := none
     pred := some (resToWord (lanes16.map (get 0 (resNat o.a.res)))) })

/-- `lbc` (R367): lane L into every lane. -/
def execLbc (w : OpWord) (s : State) : Result :=
  runStage s w (plainOp 134 fEvery (fun v o => moveLanes o (fun _ => some (v.w.imm.toNat % 16))))
/-- `lrot` (R367): output lane j is lane (j − N) mod 16. -/
def execLrot (w : OpWord) (s : State) : Result :=
  runStage s w (plainOp 135 fEvery (fun v o => moveLanes o (fun j => some ((j + 16 - v.w.imm.toNat % 16) % 16))))
/-- `lperm` (R367): output lane j is lane B.lane j[3:0] of A; none when B's lane is invalid or has bit 4 set. -/
def execLperm (w : OpWord) (s : State) : Result :=
  runStage s w (plainOp 136 fEvery (fun _ o =>
    moveLanes o (fun j =>
      if maskBit o.b.mask j && !bitSet (laneNat o.b.pay j) 4 then some (laneNat o.b.pay j % 16) else none)))

/-- `lidx` (R368): element i is Wrap(b + i). -/
def execLidx (w : OpWord) (s : State) : Result :=
  runStage s w (plainOp 141 [] (fun v o =>
    (o.mask, { pred := none, nan := none
               pay := mapElems o.fmt o.mask (fun i => wrapInt (fmtWidth o.fmt) (intOf 32 true v.w.imm.toNat + i)) })))

/-! ## Shifting across tokens (R357) -/

/-- `fsh` (R357). -/
def execFsh (w : OpWord) (s : State) : Result :=
  let n := bits w.imm.toNat 0 6
  runStage s w { plainOp 137 (if w.fmt = 0 then fData.filter (fun f => decide (n < fmtElems f)) else [])
      (fun _ o => (o.mask, { pay := 0, pred := none, nan := none })) with
    data := fun s v o =>
      let f := o.fmt
      let wd := fmtWidth f
      let e := fmtElems f
      let k := v.e.getK v.w.kidx.toNat
      let p := mapElems f o.a.mask (fun i =>
        if n ≤ i then (if elemValid o.a.mask wd (i - n) then elemNat o.a.pay wd (i - n) else 0)
        else if elemValid k.mask wd (e - n + i) then elemNat k.pay wd (e - n + i) else 0)
      (s, { StageOut.emit v.op (resultToken o o.a.mask p none) with k := some (wholeToken o), poison := o.side.etag })
    marker := resetAt (bitSet w.imm.toNat 6) (bits w.imm.toNat 7 3) }

/-! ## Masks to control (R378) -/

/-- The V bit of a mask token: 0 any, 1 all, 2 lane. -/
def maskDecision (mode lane : Nat) (t : Token) : Bool :=
  let on := fun (j : Nat) => maskBit t.mask j && laneNat t.pay j != 0
  match mode with
  | 0 => lanes16.any on
  | 1 => lanes16.all (fun j => !maskBit t.mask j || laneNat t.pay j != 0)
  | _ => on lane

/-- `m2c` (R378): one control token per mask token or marker; a tagged token sends inverted parity. -/
def execM2c (w : OpWord) (s : State) : Result :=
  let co := bits w.imm.toNat 6 2
  runStage s w { plainOp 140 [] (fun _ o => (o.mask, { pay := 0, pred := none, nan := none })) with
    noHeader := some 1
    data := fun s v o =>
      let d := maskDecision (bits v.w.imm.toNat 0 2) (bits v.w.imm.toNat 2 4) o.a
      let c := ctlTok d false
      let c := if o.side.etag then { c with par := !c.par } else c
      if ctlOutputRoom s v.ea v.ctx co then
        (s, { StageOut.emit v.op (resultToken o o.mask o.a.pay (some o.a.res)) with ctl := [(co, c)] })
      else (s, .wait v.op)
    marker := fun s v t =>
      if ctlOutputRoom s v.ea v.ctx co then (s, { StageOut.emit v.op t with ctl := [(co, ctlOfMarker t)] })
      else (s, .wait v.op) }

/-! ## Packing (R392) -/

/-- Elements pending in a register whose first `n` elements are taken ones. -/
def pendingElems (f n : Nat) (k : Token) : List Nat := (List.range n).map (elemNat k.pay (fmtWidth f))

/-- A token of up to E elements, its valid lanes those that hold one. -/
def packedToken (f : Nat) (l : List Nat) (side : Token) : Token :=
  let wd := fmtWidth f
  let m := bitsToMask (lanes16.map (fun j => decide (32 * j < wd * l.length)))
  dataToken (elemsToPay wd l) m { side with kind := .data, level := 0, rsv := 0 }

/-- Split pending elements into full tokens and a rest. -/
def packFull (f : Nat) (side : Token) : Nat → List Nat → List Token × List Nat
  | 0, l => ([], l)
  | n + 1, l =>
    if l.length < fmtElems f then ([], l)
    else
      let (ts, r) := packFull f side n (l.drop (fmtElems f))
      (packedToken f (l.take (fmtElems f)) side :: ts, r)

/-- `pack` (R392). The register holds the pending elements; `visited` counts them, `rem` and `elems` follow a packet's
input tokens and the elements still to take. -/
def execPack (w : OpWord) (s : State) : Result :=
  let f := w.fmt.toNat
  runStage s w { plainOp 138 [] (fun _ o => (o.mask, { pay := 0, pred := none, nan := none })) with
    header := fun s v t =>
      if !hdrOk t then (s, .stop v.op (ctlCount 1 v.n 138 v.w t))
      else if 0 < v.op.rem then (s, .stop v.op (ctlCount 2 v.n 138 v.w t))
      else (s, .emit { v.op with rem := hdrTokens t, elems := hdrCount t } (hdrSetFmt t f))
    data := fun s v o =>
      let packet := decide (0 < v.op.rem)
      let wd := fmtWidth f
      let taken := ((List.range (fmtElems f)).filter (elemValid o.a.mask wd)).map (elemNat o.a.pay wd)
      let taken := if packet then taken.take v.op.elems else taken
      let k := v.e.getK v.w.kidx.toNat
      let all := pendingElems f v.op.visited k ++ taken
      let side := { o.side with etag := o.side.etag || (k.etag && decide (0 < v.op.visited)) }
      let (full, rest) := packFull f side 2 all
      let last := packet && v.op.rem == 1
      let out := full ++ (if last && !rest.isEmpty then [packedToken f rest side] else [])
      let rest := if last then [] else rest
      let op := { v.op with rem := v.op.rem - 1, elems := v.op.elems - taken.length, visited := rest.length }
      (s, { StageOut.quiet op with
            out := out, poison := o.side.etag,
            k := some (if rest.isEmpty then Token.zero else packedToken f rest side) })
    marker := fun s v t =>
      if 0 < v.op.rem then (s, .stop v.op (ctlCount 2 v.n 138 v.w t))
      else
        let k := v.e.getK v.w.kidx.toNat
        let rest := pendingElems f v.op.visited k
        let flush := if rest.isEmpty then [] else
          [packedToken f rest { t with kind := .data, level := 0, etag := t.etag || k.etag, src := k.src, multi := k.multi }]
        (s, { StageOut.quiet { v.op with visited := 0 } with out := flush ++ [t], k := some Token.zero }) }

/-! ## Unpacking (R425) -/

/-- `unpack` (R425). -/
def execUnpack (w : OpWord) (s : State) : Result :=
  runStage s w { plainOp 139 fData (fun _ o => (o.mask, { pay := 0, pred := none, nan := none })) with
    header := fun s v t => (s, { StageOut.quiet v.op with k := some t, poison := t.etag })
    data := fun s v o =>
      let n := o.count
      let wd := fmtWidth o.fmt
      let m := o.a.mask &&& bitsToMask (lanes16.map (fun j => decide (32 * j < wd * n)))
      (s, .emit v.op (resultToken o m o.a.pay none)) }

end Sys2Proof.Machine
end

