-- ==== Sys2Proof/Machine/Matrix.lean ====
section
/-! DEFINITION. Machine/Matrix.lean: the matrix fragment engine, CLS 3 (R65 to R69, R81 to R85, R319, R320, R385 to R388,
R428, R429). Each row of a packet is one K-group. -/

namespace Sys2Proof.Machine

/-! ## Windows (R82, R84) -/

/-- WSWIN fields: base and length in 64-byte lines, FRONT, SOG. -/
def ElemCtx.wsBase (e : ElemCtx) : Nat := bits (e.field 16) 0 5 * 32
def ElemCtx.wsLines (e : ElemCtx) : Nat := bits (e.field 16) 5 6 * 32
def ElemCtx.wsFront (e : ElemCtx) : Nat := bits (e.field 16) 11 1
def ElemCtx.swapOnGroup (e : ElemCtx) : Bool := bitSet (e.field 16) 12

/-- Key of a weight-store line of a site: buffer and line of the whole store. -/
def wsKey (site : SiteNo) (buf line : Nat) : Nat := site.toNat * 2048 + buf * 1024 + line

/-- Key of an accumulator of a site. -/
def acsKey (site : SiteNo) (bank row col : Nat) : Nat := site.toNat * 16384 + bank * 8192 + row * 32 + col

/-- Row of an accumulator bank lies in the context's window. -/
def ElemCtx.acsRow (e : ElemCtx) (bank row : Nat) : Bool :=
  let f := e.field (17 + bank)
  decide (row ≤ 255) && decide (bits f 0 8 ≤ row) && decide (row < bits f 0 8 + bits f 8 9)

/-- One accumulator. -/
def accGet (s : State) (site : SiteNo) (bank row col : Nat) : Nat := (tabGet s.acs (acsKey site bank row col) 0).toNat

/-- Write one accumulator. -/
def accSet (s : State) (site : SiteNo) (bank row col v : Nat) : State :=
  { s with acs := tabSet s.acs (acsKey site bank row col) (BitVec.ofNat 32 v) 0 }

/-- ADDR of ACCRANGE and MFE faults (Table 10-2). -/
def accAddr (bank row col : Nat) : Nat := bank * 2 ^ 48 + row * 2 ^ 40 + col * 2 ^ 32

/-- ACCRANGE: the record names the row and the GROUP (R84). -/
def accRange (v : View) (code : Nat) (t : Token) (bank row : Nat) (group : Nat) : FaultInfo :=
  { stageFault 3 0 6 code v.w t with addr := accAddr bank row 0, aux := group }

/-! ## Weight-store swaps (R82) -/

/-- A stage of the context is inside an `mma` or `mmab` packet. -/
def ElemCtx.packetUnderWay (e : ElemCtx) : Bool :=
  (List.range 6).any (fun n => (opcodeOf (e.stageWord n) == 192 || opcodeOf (e.stageWord n) == 193) && decide (0 < (e.op n).rem))

/-- One swap takes effect: FRONT toggles and every `wsld` starts at TOFF again (R428). -/
def ElemCtx.swapWs (e : ElemCtx) : ElemCtx :=
  let e := { e with bank := tabMod e.bank 16 0 (fun w => w ^^^ 0x800#32) }
  (List.range 6).foldl (fun e n =>
    if opcodeOf (e.stageWord n) = 194 then e.setOp n { e.op n with visited := 0 } else e) e

/-- All requested swaps take effect, in order. -/
def ElemCtx.applySwaps (e : ElemCtx) : ElemCtx :=
  if e.wsSwaps % 2 = 1 then { e.swapWs with wsSwaps := 0 }
  else if e.wsSwaps = 0 then e else { e.swapWs.swapWs with wsSwaps := 0 }

/-- A `wsld` of the context is inside a tile: the back buffer is incomplete. -/
def ElemCtx.fillUnderWay (e : ElemCtx) : Bool :=
  (List.range 6).any (fun n => e.stageOn n && opcodeOf (e.stageWord n) == 194 && decide (0 < (e.op n).rem))

/-- A header of this GROUP would swap the window: a swap is asked for, or swap-on-group asks for one. -/
def ElemCtx.wantsSwap (e : ElemCtx) (g : Byte) : Bool :=
  decide (0 < e.wsSwaps) || (e.swapOnGroup && e.group.isSome && e.group != some g)

/-- A header reaches `mma` or `mmab`: requested swaps take effect before its packet, then swap-on-group; its GROUP is
recorded. -/
def ElemCtx.groupSwap (e : ElemCtx) (g : Byte) : ElemCtx :=
  let e := e.applySwaps
  let e := if e.swapOnGroup && (e.group.isSome && e.group != some g) then e.swapWs else e
  { e with group := some g }

/-! ## Operands in scratchpad (R85) -/

/-- Lanes 0 and 1 of the naming register. -/
def operandReg (k : Token) : Nat × Nat := (laneNat k.pay 0, laneNat k.pay 1)

/-- The register is well-formed: aligned offset and pitch, a row pitch, reserved bits zero. -/
def operandRegOk (k : Token) : Bool :=
  let (a, b) := operandReg k
  bits a 0 21 % 64 == 0 && bits a 25 7 != 0 && bits b 0 21 % 64 == 0 && bits b 21 9 == 0

/-- n consecutive lines at a byte distance from the register's address: the lines, whether one failed its parity, and the
offset of one that lies outside the tile's program range. -/
def operandLines (s : State) (v : View) (k : Token) (dist : Nat) : Nat → State × List Line × Bool × Option Nat
  | 0 => (s, [], false, none)
  | n + 1 =>
    let (a, b) := operandReg k
    let site := blockMt (siteBlock (eaSite v.ea)) (bits a 21 4)
    let off := bits a 0 21 + dist
    if inRange s site off 64 then
      let (s, r) := readSpad s site v.ctx accessMfe off (bits b 30 2)
      let (s, l, bad, out) := operandLines s v k (dist + 64) n
      (s, r.line :: l, r.failed || bad, out)
    else (s, [], false, some off)

/-! ## Products (R65 to R69, R386, R387) -/

/-- The fixed facts of an `mma` or `mmab` word. -/
structure Shape where
  fmt  : Nat
  bank : Nat
  row  : Nat
  n    : Nat
  col  : Nat
  sc   : Bool
  toff : Nat
  ktok : Nat
  k    : Nat
  tsz  : Nat

/-- Lines of a tile: its header and K × N elements. -/
def tileSize (fmt k n : Nat) : Nat := 1 + k * n * fmtWidth fmt / 512

/-- Read Table 17-4. -/
def shapeOf (w : OpWord) : Shape :=
  let i := w.imm.toNat
  let fmt := w.fmt.toNat
  let n := 8 * 2 ^ bits i 9 2
  let ktok := fmtElems fmt
  let k := if bitSet i 16 then 128 else ktok
  { fmt := fmt, bank := bits i 0 1, row := bits i 1 8, n := n, col := bits i 11 5, sc := bitSet i 16, toff := bits i 17 10
    ktok := ktok, k := k, tsz := tileSize fmt k n }

/-- The first field of a tile header that is wrong, numbered by the rows of Table 3-2 from 0 (log entry 16); `n` is the
operator's N, `blk` the BLOCK it wants. -/
def tileHeaderBad (h : Line) (fmt k : Nat) (ncode blk : Option Nat) : Option Nat :=
  let x := h.toNat
  if bits x 0 4 ≠ fmt then some 0
  else if bits x 4 2 = 3 ∨ (ncode.isSome ∧ ncode ≠ some (bits x 4 2)) then some 1
  else if bits x 6 2 ≠ 0 then some 2
  else if bits x 8 8 = 0 ∨ k < bits x 8 8 then some 3
  else if bits x 16 16 ≠ 0 then some 4
  else if blk.isSome ∧ blk ≠ some (bits x 64 32) then some 6
  else if x / 2 ^ 96 ≠ 0 then some 7
  else none

/-- An element of the stationary operand: lines joined, row-major in K. -/
def joined (l : List Line) : Nat := l.foldr (fun x acc => x.toNat + 2 ^ 512 * acc) 0

/-- A value of an operand format. -/
def operandVal (fmt p : Nat) : FVal :=
  if fmtFloat fmt then decodeFloat (floatFmt fmt) p else intVal (intOf 8 (fmtSigned fmt) p)

/-- The B sub-block of 8 rows that holds row k is all zeros (R387). -/
def subBlockEmpty (fmt n b k : Nat) : Bool :=
  let w := fmtWidth fmt
  (List.range (8 * n)).all (fun i =>
    let p := b / 2 ^ (w * (k / 8 * 8 * n + i)) % 2 ^ w
    if fmtFloat fmt then p % 2 ^ (w - 1) == 0 else p == 0)

/-- fp32 of an exact value, as a value again (RNE32). -/
def rne32 (v : FVal) : FVal := decodeFloat (floatFmt 12) (roundVal (floatFmt 12) v .rne false)

/-- A NaN that appears where neither input is one. -/
def freshNan (out a b : FVal) : Bool := out == .nan && a != .nan && b != .nan

/-- One K-group into one accumulator: the new pattern, whether a NaN appeared from non-NaN inputs, whether the i32 range was
passed. -/
def accumulate (sh : Shape) (scA scB : Nat) (acc : Nat) (ps : List (FVal × FVal)) : Nat × Bool × Bool :=
  let prods := ps.map (fun p => mulVal p.1 p.2)
  match prods with
  | [] => (acc, false, false)
  | h :: t =>
    let sum := t.foldl addVal h
    if fmtFloat sh.fmt then
      let g := rne32 sum
      let nanIn := ps.any (fun p => p.1 == .nan || p.2 == .nan)
      let a := decodeFloat (floatFmt 12) acc
      let (x, bad) :=
        if sh.sc then
          let u := decodeFloat (floatFmt 12) scA
          let v := decodeFloat (floatFmt 12) scB
          let y := rne32 (mulVal g u)
          let z := rne32 (mulVal y v)
          (z, freshNan y g u || freshNan z y v)
        else (g, false)
      let r := rne32 (addVal a x)
      (roundVal (floatFmt 12) r .rne false, (g == .nan && !nanIn) || bad || freshNan r a x, false)
    else
      match sum with
      | .fin neg m _ =>
        let r := intOf 32 true acc + signedInt neg m
        (wrapInt 32 r, false, decide (r < -(2 ^ 31 : Int)) || decide ((2 ^ 31 : Int) ≤ r))
      | _ => (acc, false, false)

/-- The stationary tile of a packet: KCNT, SCALE_B and the joined elements. -/
structure Tile where
  kcnt  : Nat
  scale : Nat
  elems : Nat

/-- Accumulate one row: `a k` is element k of the row, none when it takes no part. A NaN that the trap must report names
its column. -/
def rowProducts (s : State) (v : View) (sh : Shape) (blocked : Bool) (tile : Tile) (scA row : Nat) (a : Nat → Option Nat)
    (trap : Bool) : State × Option Nat :=
  let site := eaSite v.ea
  let w := fmtWidth sh.fmt
  let ks := (List.range (min sh.k tile.kcnt)).filter (fun k =>
    (a k).isSome && !(blocked && subBlockEmpty sh.fmt sh.n tile.elems k))
  let col := fun (n : Nat) =>
    accumulate sh scA tile.scale (accGet s site sh.bank row (sh.col + n))
      (ks.map (fun k => (operandVal sh.fmt ((a k).getD 0), operandVal sh.fmt (tile.elems / 2 ^ (w * (k * sh.n + n)) % 2 ^ w))))
  let rs := (List.range sh.n).map (fun n => (n, col n))
  match if trap then rs.find? (fun r => r.2.2.1) else none with
  | some r => (s, some (sh.col + r.1))
  | none =>
    if ks.isEmpty then (s, none)
    else
      let s := rs.foldl (fun s r => accSet s site sh.bank row (sh.col + r.1) r.2.1) s
      (if rs.any (fun r => r.2.2.2) then
        s.modSite site (fun t => { t with iovf := t.iovf ||| BitVec.ofNat 4 (2 ^ v.ctx.toNat) })
       else s, none)

/-- Outcome of reading the tile of a packet. -/
inductive TileRead where
  | tile (t : Tile) (failed : Bool)
  | header (field : Nat)
  | range (off : Nat)

/-- Read the tile that a packet header names, from the front buffer or from scratchpad (R386). -/
def readTile (s : State) (v : View) (sh : Shape) (h : Token) : State × TileRead :=
  let blk := hdrBlock h
  let ok := fun (s : State) (hd : Line) (els : List Line) (failed : Bool) =>
    match tileHeaderBad hd sh.fmt sh.k (some (bits v.w.imm.toNat 9 2)) (some blk) with
    | some f => (s, TileRead.header f)
    | none => (s, TileRead.tile { kcnt := bits hd.toNat 8 8, scale := bits hd.toNat 32 32, elems := joined els } failed)
  if v.w.sb = 5 then
    let k := v.e.getK v.w.kidx.toNat
    if !operandRegOk k then (s, .range (bits (operandReg k).1 0 21))
    else
      match operandLines s v k (blk * bits (operandReg k).2 0 21) sh.tsz with
      | (s, _, _, some off) => (s, .range off)
      | (s, hd :: els, bad, none) => ok s hd els bad
      | (s, [], _, none) => (s, .range 0)
  else
    let e := s.elem v.ea v.ctx
    let l := sh.toff + blk * sh.tsz
    if e.wsLines < l + sh.tsz then (s, .header 8)
    else
      let line := fun (i : Nat) => tabGet s.ws (wsKey (eaSite v.ea) e.wsFront (e.wsBase + l + i)) 0
      ok s (line 0) ((List.range (sh.tsz - 1)).map (fun i => line (i + 1))) false

/-- ADDRANGE of an MFE operand. -/
def mfeAddr (v : View) (code : Nat) (t : Token) (off : Nat) : FaultInfo := { stageFault 4 0 6 code v.w t with addr := off }

/-- Run one row of a packet: range check, products, NaN trap. Answers the fault that stops the operator. -/
def runRow (s : State) (v : View) (code : Nat) (sh : Shape) (h : Token) (m : Nat) (tagged : Bool) (a : Nat → Option Nat)
    (side : Token) : State × Option FaultInfo :=
  let row := sh.row + m
  if !v.e.acsRow sh.bank row then
    (s, if tagged then none else some (accRange v code side sh.bank row (hdrGroup h).toNat))
  else
    match readTile s v sh h with
    | (s, .range off) => (s, if tagged then none else some (mfeAddr v code side off))
    | (s, .header f) => (s, some { ctlCount 6 6 code v.w side with fdet := f })
    | (s, .tile t failed) =>
      let s := if failed then poisonTask s v.e.task else s
      let (s, nan) := rowProducts s v sh (code == 193) t (hdrScaleA h) row a (nanTrap s v.e.task && !tagged)
      match nan with
      | none => (s, none)
      | some c => (s, some { stageFault 2 0 6 code v.w side with addr := accAddr sh.bank row c, fmts := 273 * v.w.fmt.toNat })

/-- Element k of a row held in one or two lines, within the packet's remaining COUNT and the valid lanes. -/
def rowElem (sh : Shape) (left : Nat) (ts : List Token) (k : Nat) : Option Nat :=
  let w := fmtWidth sh.fmt
  match ts[k / sh.ktok]? with
  | none => none
  | some t => if k < left ∧ elemValid t.mask w (k % sh.ktok) then some (elemNat t.pay w (k % sh.ktok)) else none

/-- All rows of a packet whose A operand stands in scratchpad (SA = 5): row m of packet p. -/
def scratchRows (s : State) (v : View) (code : Nat) (sh : Shape) (h : Token) (p m : Nat) : Nat → State × Option FaultInfo
  | 0 => (s, none)
  | fuel + 1 =>
    let left := hdrCount h - m * sh.k
    if left = 0 then (s, none)
    else
      let k := v.e.getK v.w.kidx.toNat
      let (a, b) := operandReg k
      if !operandRegOk k then (s, if h.etag then none else some (mfeAddr v code h (bits a 0 21)))
      else
        match operandLines s v k (p * bits b 0 21 + m * bits a 25 7 * 64) (if sh.sc then 2 else 1) with
        | (s, _, _, some off) => (s, if h.etag then none else some (mfeAddr v code h off))
        | (s, ls, bad, none) =>
          let s := if bad then poisonTask s v.e.task else s
          let ts := ls.map (fun l => { emptyToken h with pay := l, mask := 0xFFFF#16 })
          match runRow s v code sh h m h.etag (rowElem sh left ts) h with
          | (s, some f) => (s, some f)
          | (s, none) => scratchRows s v code sh h p (m + 1) fuel

/-- Body of `mma` and `mmab`. In the operator's state `hdr` is the packet header, `rem` its tokens still to come, `elems` its
elements still to come, `visited` the row, `toks` the first token of a scaled row, `count` the packets since load, swap or
the last marker. -/
def mmaOp (code : Nat) : StageOp :=
  { code := code, fmts := [], pairB := false, noHeader := none
    marker := fun s v t =>
      if 0 < v.op.rem then (s, .stop v.op (ctlCount 2 v.n code v.w t)) else (s, .quiet { v.op with count := 0 })
    header := fun s v t =>
      if 0 < v.op.rem then (s, .stop v.op (ctlCount 2 v.n code v.w t))
      else if !hdrOk t || hdrFmt t != v.w.fmt.toNat then (s, .stop v.op (ctlCount 1 v.n code v.w t))
      -- a swap whose back buffer is incomplete waits (R183)
      else if (s.elem v.ea v.ctx).fillUnderWay && (s.elem v.ea v.ctx).wantsSwap (hdrGroup t) then (s, .wait v.op)
      else
        let s := s.modElem v.ea v.ctx (fun e => e.groupSwap (hdrGroup t))
        let sh := shapeOf v.w
        let op := { v.op with hdr := some t, visited := 0, toks := [], count := v.op.count + 1, elems := hdrCount t }
        if hdrCount t = 0 then (s, .quiet { op with rem := 0 })
        else if v.w.sa = 5 then
          match scratchRows s v code sh t v.op.count 0 1024 with
          | (s, some f) => (s, .stop op f)
          | (s, none) => (s, { StageOut.quiet { op with rem := 0 } with poison := t.etag })
        else
          match readTile s v sh t with
          | (s, .header f) => (s, .stop op { ctlCount 6 6 code v.w t with fdet := f })
          | (s, .range off) =>
            if t.etag then (s, .quiet { op with rem := hdrTokens t }) else (s, .stop op (mfeAddr v code t off))
          | (s, .tile _ failed) => (if failed then poisonTask s v.e.task else s, .quiet { op with rem := hdrTokens t })
    data := fun s v o =>
      let side := o.side
      if v.w.sa = 5 then (s, .stop v.op (ctlCount 2 v.n code v.w side))
      else if v.op.rem = 0 then (s, .stop v.op (ctlCount 3 v.n code v.w side))
      else
        match v.op.hdr with
        | none => (s, .stop v.op (ctlCount 3 v.n code v.w side))
        | some h =>
          let sh := shapeOf v.w
          let a := { o.a with etag := side.etag || h.etag }
          if sh.sc && v.op.toks.isEmpty && decide (1 < v.op.rem) then
            (s, { StageOut.quiet { v.op with rem := v.op.rem - 1, toks := [a] } with poison := a.etag })
          else
            let ts := v.op.toks ++ [a]
            let tagged := ts.any (·.etag)
            let op := { v.op with rem := v.op.rem - 1, toks := [], visited := v.op.visited + 1, elems := v.op.elems - sh.k }
            match runRow s v code sh h v.op.visited tagged (rowElem sh v.op.elems ts) side with
            | (s, some f) => (s, .stop v.op f)
            | (s, none) => (s, { StageOut.quiet op with poison := tagged }) }

/-- `mma` (R385, R386). -/
def execMma (w : OpWord) (s : State) : Result := runStage s w (mmaOp 192)
/-- `mmab` (R387). -/
def execMmab (w : OpWord) (s : State) : Result := runStage s w (mmaOp 193)

/-! ## Weight-store loads and swaps (R428, R429) -/

/-- `wsld`: `visited` is the line n since the last marker, load or swap, `rem` the lines of the tile under way to come. -/
def execWsld (w : OpWord) (s : State) : Result :=
  runStage s w
    { code := 194, fmts := [], pairB := false, noHeader := some 1
      header := fun s v t => (s, .stop v.op (ctlCount 1 v.n 194 v.w t))
      marker := fun s v t =>
        if 0 < v.op.rem then (s, .stop v.op (ctlCount 2 v.n 194 v.w t)) else (s, .quiet { v.op with visited := 0 })
      data := fun s v o =>
        let e := s.elem v.ea v.ctx
        -- a swap asked for takes effect before the next fill begins, not within one
        if v.op.rem = 0 ∧ 0 < e.wsSwaps ∧ (e.packetUnderWay ∨ e.fillUnderWay) then (s, .wait v.op)
        else
          let e := if v.op.rem = 0 then e.applySwaps else e
          let s := s.setElem v.ea v.ctx e
          let op := { v.op with visited := (e.op v.n).visited }
          let fmt := v.w.fmt.toNat
          let l := bits v.w.imm.toNat 0 10 + op.visited
          let k := if bitSet v.w.imm.toNat 10 then 128 else fmtElems fmt
          let hd := o.a.pay
          let tsz := tileSize fmt k (8 * 2 ^ bits hd.toNat 4 2)
          let bad := if op.rem = 0 then
              (match tileHeaderBad hd fmt k none none with
                | some f => some f
                | none => if e.wsLines < l + tsz then some 8 else none)
            else none
          if e.wsLines ≤ l then
            if o.side.etag then (s, { StageOut.quiet { op with visited := op.visited + 1, rem := op.rem - 1 } with poison := true })
            else (s, .stop op { stageFault 4 0 6 194 v.w o.side with addr := l * 64 })
          else
            match bad with
            | some f => (s, .stop op { ctlCount 6 6 194 v.w o.side with fdet := f })
            | none =>
              let key := wsKey (eaSite v.ea) (1 - e.wsFront) (e.wsBase + l)
              let op := { op with visited := op.visited + 1, rem := if op.rem = 0 then tsz - 1 else op.rem - 1 }
              ({ s with ws := tabSet s.ws key hd 0 }, { StageOut.quiet op with poison := o.side.etag }) }

/-- Ask for one swap of the context's window. -/
def askSwap (s : State) (v : View) : State × StageOut :=
  (s.modElem v.ea v.ctx (fun e => { e with wsSwaps := e.wsSwaps + 1 }), .quiet v.op)

/-- `wsswp` (R429). -/
def execWsswp (w : OpWord) (s : State) : Result :=
  runStage s w
    { code := 195, fmts := [], pairB := false, noHeader := none
      header := fun s v _ => askSwap s v
      data := fun s v _ => askSwap s v
      marker := fun s v _ => (s, .quiet v.op) }

/-- WS_SWAP (R82, R183): a requested swap takes effect between packets, once the back buffer is complete. -/
def execWsSwap (site : SiteNo) (ctx : BitVec 2) (s : State) : Result :=
  let e := s.elem (siteEa site 0) ctx
  if e.wsSwaps = 0 ∨ e.packetUnderWay ∨ e.fillUnderWay then .next s
  else .next (s.setElem (siteEa site 0) ctx { e.swapWs with wsSwaps := e.wsSwaps - 1 })

/-! ## Clearing, reading and writing accumulators (R319, R320) -/

/-- Clear rows of a bank, a tagged trigger only those inside the window. -/
def clearRows (s : State) (v : View) (bank row n : Nat) : State :=
  (List.range n).foldl (fun s i =>
    if v.e.acsRow bank (row + i) then (List.range 32).foldl (fun s c => accSet s (eaSite v.ea) bank (row + i) c 0) s else s) s

/-- GROUP of the current header: the last that the operator's own stream brought, else the last that `mma` and `mmab` received (R82, R84). -/
def groupNow (v : View) (t : Token) : Nat :=
  if t.kind = .header then (hdrGroup t).toNat
  else match v.op.hdr with
    | some h => (hdrGroup h).toNat
    | none => (v.e.group.getD 0).toNat

/-- One clear by `acclr`. -/
def accClear (s : State) (v : View) (t : Token) (op : OpSt) : State × StageOut :=
  let i := v.w.imm.toNat
  let bank := bits i 0 1
  let row := bits i 1 8
  let n := bits i 9 9
  match (List.range n).find? (fun j => !v.e.acsRow bank (row + j)) with
  | some j => if t.etag then (clearRows s v bank row n, .quiet op) else (s, .stop op (accRange v 196 t bank (row + j) (groupNow v t)))
  | none => (clearRows s v bank row n, .quiet op)

/-- `acclr` (R319): one clear per bare data token or header; `rem` follows the packet under way. -/
def execAcclr (w : OpWord) (s : State) : Result :=
  runStage s w
    { code := 196, fmts := [], pairB := false, noHeader := none
      header := fun s v t => accClear s v t { v.op with rem := hdrTokens t, hdr := some t }
      data := fun s v o =>
        if 0 < v.op.rem then (s, .quiet { v.op with rem := v.op.rem - 1 }) else accClear s v o.side v.op
      marker := fun s v _ => (s, .quiet v.op) }

/-- Row that `acrd` and `acwr` address: with INC it counts the firings since the last marker. -/
def accRow (v : View) : Nat := bits v.w.imm.toNat 1 8 + (if bitSet v.w.imm.toNat 9 then v.op.visited else 0)

/-- `acrd` (R320). -/
def execAcrd (w : OpWord) (s : State) : Result :=
  runStage s w
    { code := 197, fmts := [], pairB := false, noHeader := none
      header := fun s v t => (s, .emit { v.op with hdr := some t } t)
      marker := fun s v t => (s, .emit { v.op with visited := 0 } t)
      data := fun s v o =>
        let i := v.w.imm.toNat
        let bank := bits i 0 1
        let row := accRow v
        let half := 16 * bits i 10 1
        let op := { v.op with visited := v.op.visited + 1 }
        if !v.e.acsRow bank row then
          if o.side.etag then (s, .emit op (resultToken o o.mask 0 none))
          else (s, .stop v.op (accRange v 197 o.side bank row (groupNow v o.side)))
        else
          let p := lanesToPay (lanes16.map (fun j => accGet s (eaSite v.ea) bank row (half + j)))
          let s := if bitSet i 11 then lanes16.foldl (fun s j => accSet s (eaSite v.ea) bank row (half + j) 0) s else s
          (s, .emit op (resultToken o o.mask p none)) }

/-- `acwr` (R320). -/
def execAcwr (w : OpWord) (s : State) : Result :=
  runStage s w
    { code := 198, fmts := [], pairB := false, noHeader := none
      header := fun s v t => (s, .quiet { v.op with hdr := some t })
      marker := fun s v _ => (s, .quiet { v.op with visited := 0 })
      data := fun s v o =>
        let i := v.w.imm.toNat
        let f := v.w.fmt.toNat
        let bank := bits i 0 1
        let row := accRow v
        let half := 16 * bits i 10 1
        let op := { v.op with visited := v.op.visited + 1 }
        if !v.e.acsRow bank row then
          if o.side.etag then (s, { StageOut.quiet op with poison := true })
          else (s, .stop v.op (accRange v 198 o.side bank row (groupNow v o.side)))
        else
          let old := fun (j : Nat) => accGet s (eaSite v.ea) bank row (half + j)
          let new := fun (j : Nat) => if bitSet i 11 then fold 0 f false .rne (old j) (laneNat o.a.pay j) else laneNat o.a.pay j
          let js := lanes16.filter (maskBit o.mask)
          let nan := if bitSet i 11 then js.find? (fun j => foldNan 0 f .rne (old j) (laneNat o.a.pay j)) else none
          match if nanTrap s v.e.task && !o.side.etag then nan else none with
          | some j => (s, .stop v.op { nanFault v 198 o f j with unit := 6, addr := accAddr bank row (half + j) })
          | none =>
            (js.foldl (fun s j => accSet s (eaSite v.ea) bank row (half + j) (new j)) s,
             { StageOut.quiet op with poison := o.side.etag }) }

end Sys2Proof.Machine
end

