-- ==== Sys2Proof/Machine/Events.lean ====
section
/-! DEFINITION. Machine/Events.lean: the event queue of a sequencer (R105): producers write entries into the ring in the block
scratchpad, or hold them while it is full. -/

namespace Sys2Proof.Machine

/-- A block scratchpad address as a tile and an offset (R85, R110). -/
def blockSpad (blk : Nat) (a : Nat) : SiteNo × Nat := (blockMt blk (a / 2 ^ 21 % 16), a % 2 ^ 21)

/-- Write n bytes of a number within one line of scratchpad, rotation code 0. -/
def spadWriteNat (s : State) (site : SiteNo) (off n x : Nat) (exact : ExactOperand) : State × Bool :=
  let o := off % 64
  writeSpad s site 0 accessSq off 0 ((2 ^ n - 1) * 2 ^ o) (List.replicate o 0 ++ natToBytes n x ++ List.replicate (64 - o - n) 0) exact

/-- Read n bytes within one line of scratchpad, rotation code 0. -/
def spadReadNat (s : State) (site : SiteNo) (off n : Nat) : State × Nat × Bool :=
  let (s, r) := readSpad s site 0 accessSq off 0
  (s, lineNat (lineBytes r.line) (off % 64) n, r.failed)

/-- An address of a block's own memories (Table 3-8): its local data RAM, or its scratchpad. -/
def blockRead (s : State) (blk : BitVec 6) (va n : Nat) : State × Nat × Bool :=
  if va / 2 ^ 60 = 14 then (s, memNat s.lram (lramKey blk va) n, false)
  else
    let (site, off) := blockSpad blk.toNat va
    spadReadNat s site off n

/-- Write n bytes of a number at an address of a block's own memories. -/
def blockWrite (s : State) (blk : BitVec 6) (va n x : Nat) : State × Bool :=
  if va / 2 ^ 60 = 14 then ({ s with lram := memSetNat s.lram (lramKey blk va) n x }, true)
  else
    let (site, off) := blockSpad blk.toNat va
    spadWriteNat s site off n x none

/-- An event before it has its number: type, source address and the 24 bytes of its type (Table 3-12). -/
def eventWord (type eaddr : Nat) (body : List Byte) : BitVec 256 :=
  BitVec.ofNat 256 (bytesToNat (natToBytes 2 type ++ natToBytes 2 eaddr ++ natToBytes 4 0 ++ body.take 24))

/-- Write an event at TAIL and advance it; EVSEQ rises by 1 per entry. -/
def writeEvent (s : State) (blk : BitVec 6) (w : BitVec 256) : State :=
  let q := s.sq blk
  let x := w.toNat + (q.evSeq.toNat * 2 ^ 32)
  let (site, off) := blockSpad blk.toNat (q.evBase.toNat + 32 * (q.evTail.toNat % 256))
  let (s, _) := spadWriteNat s site off 32 x none
  s.modSq blk (fun q => { q with evTail := q.evTail + 1, evSeq := q.evSeq + 1 })

/-- Post an event: behind events already held, at a full ring, or at a halted sequencer, it is held (R105, R106). -/
def postEvent (s : State) (blk : BitVec 6) (type eaddr : Nat) (body : List Byte) : State :=
  let q := s.sq blk
  if q.evFull || !q.evHeld.isEmpty || !q.run then s.modSq blk (fun q => { q with evHeld := q.evHeld ++ [eventWord type eaddr body] })
  else writeEvent s blk (eventWord type eaddr body)

/-- Write held events while there is room, oldest first. -/
def drainEvents (s : State) (blk : BitVec 6) : Nat → State
  | 0 => s
  | n + 1 =>
    let q := s.sq blk
    match q.evHeld with
    | [] => s
    | w :: rest =>
      if q.evFull || !q.run then s
      else drainEvents (writeEvent (s.modSq blk (fun q => { q with evHeld := rest })) blk w) blk n

/-- A producer that can wait for room has none now. -/
def eventsBlocked (s : State) (blk : BitVec 6) : Bool :=
  let q := s.sq blk
  q.evFull || !q.evHeld.isEmpty || !q.run

end Sys2Proof.Machine
end

