-- ==== Sys2Proof/Machine/Barrier.lean ====
section
/-! DEFINITION. Machine/Barrier.lean: barrier objects (R248 to R250), checks of monitor groups (R225 to R227). -/

namespace Sys2Proof.Machine

/-! ## Checks of a monitor group -/

/-- The channel belongs to a partition: an MT channel to the owner of its site, a stream-port channel to its own. -/
def channelPart (s : State) (p : Nat × Channel) : Nat :=
  if p.1 < 0x8000 then partOfSite s (BitVec.ofNat 13 (p.1 / 4)) else p.2.part.toNat

/-- Enabled channels of a group in a partition. -/
def groupMembers (s : State) (part group : Nat) : List (Nat × Channel) :=
  s.channels.filter (fun p => p.2.en && p.2.group == group && channelPart s p == part)

/-- Members that lead. -/
def groupLeads (l : List (Nat × Channel)) : List (Nat × Channel) := l.filter (fun p => p.2.lead)

/-- The members' exact total. -/
def groupTotal (l : List (Nat × Channel)) : Int := l.foldl (fun t p => t + p.2.sum.toInt) 0

/-- Members differ in QEXP. -/
def groupQerr (l : List (Nat × Channel)) : Bool :=
  match l with
  | [] => false
  | h :: t => t.any (fun p => p.2.q != h.2.q)

/-- |d| × 2^q ≤ BND, exactly. -/
def withinBound (d q : Int) (bnd : DWord) : Bool :=
  match decodeFloat (floatFmt 13) bnd.toNat with
  | .fin _ m e =>
    let lo := if q < e then q else e
    decide (d.natAbs * 2 ^ (q - lo).toNat ≤ m * 2 ^ (e - lo).toNat)
  | _ => false

/-- The check passes (R225). -/
def checkPasses (l : List (Nat × Channel)) : Bool :=
  match groupLeads l with
  | [lead] =>
    !groupQerr l && l.all (fun p => p.2.stat.toNat % 8 == 0)
      && withinBound (groupTotal l - lead.2.ref.toInt) lead.2.qexp lead.2.bnd
  | _ => false

/-- Replace channels. -/
def setChannels (s : State) (l : List (Nat × Channel)) (f : Channel → Channel) : State :=
  l.foldl (fun s p => s.setChannel p.1 (f (s.channel p.1))) s

/-- Each member applies its own MODE (R227). -/
def applyModes (s : State) (l : List (Nat × Channel)) (total : BitVec 320) : State :=
  setChannels s l (fun c =>
    match c.mode with
    | 1 => { c with sum := 0, ref := if c.lead then total else c.ref }
    | 2 => { c with sum := 0 }
    | _ => c)

/-- Saturate to i64. -/
def satI64 (x : Int) : Nat := satInt 64 true x

/-- Bytes 8 to 31 of a monitor-trap event (Table 9-5). -/
def monitorBody (l : List (Nat × Channel)) (group obj : Nat) : List Byte :=
  let has := fun (b : Nat) => if l.any (fun p => p.2.stat.toNat / b % 2 == 1) then 1 else 0
  let q := if groupQerr l then 1 else 0
  match groupLeads l with
  | [lead] =>
    let port := if lead.1 < 0x8000 then 0 else (lead.1 - 0x8000) / 4
    natToBytes 1 group ++ natToBytes 1 (lead.1 % 4 + 4 * has 1 + 8 * has 2 + 16 * has 4 + 64 * q) ++ natToBytes 2 obj
      ++ natToBytes 2 port ++ natToBytes 2 0 ++ natToBytes 8 (satI64 (groupTotal l - lead.2.ref.toInt)) ++ natToBytes 8 lead.2.bnd.toNat
  | ls =>
    natToBytes 1 group ++ natToBytes 1 ((ls.head?.map (fun p => p.1 % 4)).getD 0 + 4 * has 1 + 8 * has 2 + 16 * has 4 + 32 + 64 * q)
      ++ natToBytes 2 obj ++ natToBytes 4 0 ++ natToBytes 16 0

/-- Check a group: a pass applies the modes; a failure sets FAILED in every member, keeps the total for MODE 1 and posts the
monitor-trap event (R225 to R227). `waiter` is the `mchk` that waits; `blk` the block that hears when no MT channel leads. -/
def checkGroup (s : State) (part group obj : Nat) (blk : BitVec 6) (waiter : Option Nat) : State × Bool :=
  let l := groupMembers s part group
  let total := BitVec.ofInt 320 (groupTotal l)
  if checkPasses l then (applyModes s l total, true)
  else
    let more := (waiter.toList.map (fun w => (w, s.time)))
    let s := setChannels s l (fun c => { c.setStat 8 with total := total, waiters := c.waiters ++ more.filter (fun w => !c.waiters.any (fun x => x.1 == w.1)) })
    let (to_, ea) := match groupLeads l with
      | [lead] =>
        if lead.1 < 0x8000 then
          let site := BitVec.ofNat 13 (lead.1 / 4)
          (BitVec.ofNat 6 (siteBlock site), (siteEa site 2).toNat)
        else (blk, 0)
      | _ => (blk, 0)
    (postEvent s to_ 4 ea (monitorBody (groupMembers s part group) group obj), false)

/-! ## Releases and arrivals (R248) -/

/-- Groups that have a channel with an object's number, each once. -/
def barGroups (s : State) (b : Barrier) (obj : Nat) : List Nat :=
  ((s.channels.filter (fun p => p.2.en && p.2.bar == obj && channelPart s p == b.part.toNat)).map (fun p => p.2.group)).dedup

/-- The release itself: PHASE rises, ARR falls by EXP, EVT posts the release event (Table 10-9). -/
def release (s : State) (obj : Nat) : State :=
  let b := s.barrier obj
  let b' := { b with phase := b.phase + 1, arr := b.arr - b.exp, pending := [] }
  let s := s.setBarrier obj b'
  if b.evt then
    postEvent s b.evsq 3 0 (natToBytes 2 obj ++ natToBytes 2 0 ++ natToBytes 4 b'.phase.toNat ++ natToBytes 8 s.time
      ++ natToBytes 3 b.exp.toNat ++ natToBytes 1 b.part.toNat ++ natToBytes 4 0)
  else s

/-- ARR has reached EXP: check every group bound to the object, then release or withhold. -/
def completePhase (s : State) (obj : Nat) : State :=
  let b := s.barrier obj
  if b.arr.toNat < b.exp.toNat ∨ !b.pending.isEmpty ∨ b.park then s
  else
    let (s, bad) := (barGroups s b obj).foldl (fun (s, bad) g =>
      let (s, ok) := checkGroup s b.part.toNat g obj b.evsq none
      (s, if ok then bad else bad ++ [g])) (s, [])
    if bad.isEmpty then release s obj else
      let b := s.barrier obj
      s.setBarrier obj { b with pending := bad, since := if b.park then b.since else s.time }

/-- Add held arrivals to ARR in portions, in the order received, as far as ARR allows. -/
def addHeld (s : State) (obj : Nat) : Nat → State
  | 0 => s
  | n + 1 =>
    let b := s.barrier obj
    match b.held with
    | [] => s
    | a :: rest =>
      let room := 2 ^ 24 - 1 - b.arr.toNat
      let take := min room a.count
      let b := { b with arr := b.arr + BitVec.ofNat 24 take }
      if take = a.count then addHeld (s.setBarrier obj { b with held := rest }) obj n
      else s.setBarrier obj { b with held := { a with count := a.count - take } :: rest }

/-- Key of the mailbox of an address in State.mboxes: its slot. -/
def mboxSlot (s : State) (b : Barrier) : Nat := (b.mbox.toNat - s.plat.mbxbase.toNat) / 4096

/-- Append one arrival to the mailbox of a parked object (Table 10-10); none when it is full. -/
def logArrival (s : State) (obj : Nat) (a : Arrival) : Option State :=
  let b := s.barrier obj
  let slot := mboxSlot s b
  let n := tabGet s.mboxes slot 0
  if 256 ≤ n then none
  else
    let at_ := b.mbox.toNat + 16 * n
    let rec_ := natToBytes 8 s.time ++ natToBytes 2 obj ++ natToBytes 2 a.src.toNat ++ natToBytes 4 a.count
    some { s with dmem := memSetBytes s.dmem at_ rec_, mboxes := tabSet s.mboxes slot (n + 1) 0 }

/-- Log what waits at a parked object, in order. -/
def logHeld (s : State) (obj : Nat) : Nat → State
  | 0 => s
  | n + 1 =>
    let b := s.barrier obj
    match b.held with
    | [] => s
    | a :: rest =>
      match logArrival s obj a with
      | none => s
      | some s => logHeld (s.setBarrier obj { s.barrier obj with held := rest }) obj n

/-- The BU receives an arrival: counted behind those that wait, and a phase completes when EXP is reached; at a parked object
it goes to the mailbox (R248, R249). -/
def arrive (s : State) (obj : Nat) (a : Arrival) : State :=
  let b := s.barrier obj
  let s := s.setBarrier obj { b with held := b.held ++ [a] }
  if b.park then logHeld s obj (b.held.length + 1)
  else completePhase (addHeld s obj (b.held.length + 1)) obj

/-- An arrival of a node is still being added. -/
def arrivalHeld (s : State) (obj who : Nat) : Bool := (s.barrier obj).held.any (fun a => a.who == who)

/-- Phase p of an object has completed (R248). -/
def phaseDone (s : State) (obj : Nat) (p : Word) : Bool :=
  let d := ((s.barrier obj).phase - p).toNat
  decide (1 ≤ d) && decide (d < 2 ^ 31)

/-- BARRIER_NEXT_PHASE (R248): with ARR still at least EXP a further phase completes, and held counts go on. -/
def execBarrierNextPhase (obj : BitVec 12) (s : State) : Result :=
  let b := s.barrier obj.toNat
  if b.park then .next s
  else .next (completePhase (addHeld s obj.toNat (b.held.length + 1)) obj.toNat)

end Sys2Proof.Machine
end

