-- ==== Sys2Proof/Machine/Sync.lean ====
section
/-! DEFINITION. Machine/Sync.lean: the sources of a lane pipe (`cnt`, `const`, `rand`, `seqs`), its barrier and monitor
operators (`post`, `barr`, `bwait`, `mchk`) with MCACK (R226), and the capacity bucket `cap` (class 6; `spawn` stands in Launch). -/

namespace Sys2Proof.Machine

/-! ## Work identifiers (R21 to R25) -/

/-- Product of a list. -/
def listProd (l : List Nat) : Nat := l.foldl (· * ·) 1

/-- Digits of a number in mixed radix, the last varying fastest. -/
def mixedDigits (exts : List Nat) (n : Nat) : List Nat :=
  (exts.foldr (fun e (acc : List Nat × Nat) => (acc.2 % e :: acc.1, acc.2 / e)) ([], n)).1

/-- A WID from the widths and values of its six fields (R23). -/
def widOf (widths vals : List Nat) : Nat :=
  ((widths.zip vals).foldl (fun (acc : Nat × Nat) p => (acc.1 + p.1, acc.2 + p.2 * 2 ^ (64 - (acc.1 + p.1)))) (0, 0)).2 % 2 ^ 64

/-- What a task's record source enumerates: widths, dispatch level, extents and the task's index. -/
structure TaskShape where
  widths : List Nat
  dlev   : Nat
  exts   : List Nat
  index  : Nat

/-- The shape of an element context's task; a context outside any task has one record. -/
def taskShapeOf (s : State) (task : Option Nat) : TaskShape :=
  match task.bind (fun uid => (s.launch? (uid / 2 ^ 32)).map (fun l => (l, uid))) with
  | some (l, uid) => { widths := l.widths, dlev := l.dlev, exts := l.exts, index := uid % 2 ^ 32 }
  | none => { widths := List.replicate 6 0, dlev := 0, exts := List.replicate 6 1, index := 0 }

/-- Values of the six fields in record n of the task. -/
def TaskShape.fields (h : TaskShape) (n : Nat) : List Nat :=
  mixedDigits (h.exts.take h.dlev) h.index ++ mixedDigits (h.exts.drop h.dlev) n

/-- Number of records of the task. -/
def TaskShape.total (h : TaskShape) : Nat := listProd (h.exts.drop h.dlev)

/-- The deepest field of non-zero width, 0 when there is none. -/
def TaskShape.deepest (h : TaskShape) : Nat :=
  (h.widths.zipIdx.filter (fun p => p.1 != 0)).foldl (fun _ p => p.2 + 1) 0

/-- The first field in which records n and n + 1 differ. -/
def TaskShape.change (h : TaskShape) (n : Nat) : Nat :=
  match ((h.fields n).zip (h.fields (n + 1))).zipIdx.find? (fun p => p.1.1 != p.1.2) with
  | some p => p.2 + 1
  | none => 0

/-! ## Sources -/

/-- The element that stamps: element address and operator, never 0 (log entry 9). -/
def stampOf (v : View) : BitVec 20 := v.ea ++ BitVec.ofNat 4 (v.n + 1)

/-- A source in a repair pass re-emits the listed records in ascending order, then LEVEL 7 (R220); otherwise it emits record
after record, each followed by the markers `mark` gives, and LEVEL 7 after the last. -/
def sourceData' (total : Nat) (mark : Nat → Option Nat) (record : View → Nat → Token × OpSt) (s : State) (v : View) :
    StageOut :=
  let repairing : Bool := match v.e.task.bind s.task? with
    | some t => t.phase == .repairing
    | none => false
  let last := fun (n : Nat) => stamp Token.zero n (stampOf v)
  let fin := fun (n : Nat) (op : OpSt) => StageOut.emit { op with ended := true, sel := none } ((last n).asMarker 7)
  if repairing then
    match v.op.repair with
    | n :: rest =>
      let (t, op) := record v n
      .emit { op with repair := rest, count := n + 1 } (stamp t n (stampOf v))
    | [] => fin (v.op.count - 1) v.op
  else if v.op.sel = some true then
    match mark (v.op.count - 1) with
    | some level => .emit { v.op with sel := none } ((last (v.op.count - 1)).asMarker (BitVec.ofNat 3 level))
    | none => .quiet { v.op with sel := none }
  else if total ≤ v.op.count then fin (v.op.count - 1) v.op
  else
    let n := v.op.count
    let (t, op) := record v n
    let more := n + 1 < total ∧ (mark n).isSome
    .emit { op with count := n + 1, sel := if more then some true else none } (stamp t n (stampOf v))

/-- A free-running source as a stage operator. -/
def sourceOp (code : Nat) (total : View → State → Nat) (mark : State → View → Nat → Option Nat)
    (record : State → View → Nat → Token × OpSt) : StageOp :=
  { code := code, fmts := [], pairB := false, noHeader := none
    data := fun s v _ => (s, sourceData' (total v s) (mark s v) (record s) s v)
    header := forward, marker := forward }

/-- Marker of R28 between records n and n + 1: none when only the deepest field changes. -/
def TaskShape.mark (h : TaskShape) (n : Nat) : Option Nat :=
  let j := h.change n
  if j = 0 ∨ j = h.deepest then none else some j

/-- Payload of a `cnt` record (R338). -/
def cntRecord (h : TaskShape) (n : Nat) : Token :=
  let vals := h.fields n
  let wid := widOf h.widths vals
  let pair := fun (x : Nat) => [x % 2 ^ 32, x / 2 ^ 32]
  let lanes := pair wid ++ vals.flatMap pair ++ [n % 2 ^ 20, n / 2 ^ 20]
  dataToken (lanesToPay lanes) 0xFFFF#16 Token.zero

/-- CNT (R338): enumerates the task's records (R25) with the markers of R28. -/
def execCnt (w : OpWord) (s : State) : Result :=
  runStage s w (sourceOp 384 (fun v s => (taskShapeOf s v.e.task).total)
    (fun s v n => (taskShapeOf s v.e.task).mark n)
    (fun s v n => (cntRecord (taskShapeOf s v.e.task) n, v.op)))

/-- A copy of k[KIDX] as a data token, with the sideband of another token (R339); its residues are regenerated (R214). -/
def constToken (v : View) (side : Token) : Token :=
  let k := v.e.getK v.w.kidx.toNat
  { side with pay := k.pay, mask := k.mask, kind := .data, level := 0, res := regenRes k.pay k.mask, etag := side.etag || k.etag, rand := false }

/-- CONST (R339): COUNT copies of k[KIDX] and LEVEL 7, or one copy per trigger token. -/
def execConst (w : OpWord) (s : State) : Result :=
  if w.sa = 7 then
    runStage s w (sourceOp 385 (fun _ _ => w.imm.toNat % 2 ^ 16) (fun _ _ _ => none)
      (fun _ v _ => (constToken v Token.zero, v.op)))
  else
    runStage s w
      { code := 385, fmts := [], pairB := false, noHeader := none
        data := fun s v o => (s, .emit v.op (constToken v o.side))
        header := forward, marker := forward }

/-- One step of `rand` (R399). -/
def randStep (x : DWord) : DWord :=
  let x := x ^^^ (x <<< 13)
  let x := x ^^^ (x >>> 7)
  x ^^^ (x <<< 17)

/-- The states after each of the next n steps. -/
def randSteps (x : DWord) : Nat → List DWord
  | 0 => []
  | n + 1 => randStep x :: randSteps (randStep x) n

/-- RSEED of a context: 1 after site reset (R283). -/
def rseed (e : ElemCtx) : DWord := tabGet e.bank 20 0#32 ++ tabGet e.bank 19 1#32

/-- One token of `rand` and the state after it. -/
def randToken (x : DWord) (side : Token) : Token × DWord :=
  let l := randSteps x 8
  let t := dataToken (lanesToPay (l.flatMap (fun y => [y.toNat % 2 ^ 32, y.toNat / 2 ^ 32]))) 0xFFFF#16 side
  ({ t with rand := true }, l.getLastD x)

/-- The state x of a `rand`: taken from RSEED before the first firing. -/
def randState (v : View) : DWord := if v.op.x = 0 then rseed v.e else v.op.x

/-- x before record n, from the seed; a repair pass recomputes it. -/
def randAt (x : DWord) : Nat → DWord
  | 0 => x
  | n + 1 => randAt (randSteps x 8 |>.getLastD x) n

/-- RAND (R399): COUNT random tokens and LEVEL 7, or one per trigger token. -/
def execRand (w : OpWord) (s : State) : Result :=
  if w.sa = 7 then
    runStage s w (sourceOp 386 (fun _ _ => w.imm.toNat % 2 ^ 16) (fun _ _ _ => none)
      (fun _ v n =>
        let (t, x) := randToken (if v.op.repair.isEmpty then randState v else randAt (rseed v.e) n) Token.zero
        (t, { v.op with x := x })))
  else
    runStage s w
      { code := 386, fmts := [], pairB := false, noHeader := none
        data := fun s v o =>
          let (t, x) := randToken (randState v) o.side
          (s, .emit { v.op with x := x } t)
        header := forward
        marker := fun s v t => if w.imm.toNat / 2 ^ 16 % 2 = 1 then (s, .quiet v.op) else forward s v t }

/-- Record n of `seqs` (R407). -/
def seqsRecord (w : OpWord) (n : Nat) : Token :=
  let f := w.fmt.toNat
  let stride := w.imm.toNat / 2 ^ 16
  let st := if stride = 0 then fmtElems f else stride
  dataToken (elemsToPay (fmtWidth f) ((List.range (fmtElems f)).map (fun i => n * st + i))) 0xFFFF#16 Token.zero

/-- SEQS (R407): COUNT records of consecutive integers, then LEVEL 7. -/
def execSeqs (w : OpWord) (s : State) : Result :=
  runStage s w (sourceOp 387 (fun _ _ => w.imm.toNat % 2 ^ 16) (fun _ _ _ => none) (fun _ v n => (seqsRecord w n, v.op)))

/-! ## Barriers (R327, R328, R393) -/

/-- g of R327: which of the graph's objects a task uses. -/
def TaskShape.group (h : TaskShape) (level : Nat) : Nat :=
  if level = 7 then 0
  else if level = 0 ∨ h.dlev < level then h.index
  else h.index / listProd ((h.exts.take h.dlev).drop level)

/-- The barrier object of a synchronisation word. -/
def syncObject (s : State) (v : View) : Nat :=
  v.w.imm.toNat % 2 ^ 12 + (taskShapeOf s v.e.task).group (v.w.imm.toNat / 2 ^ 12 % 8)

/-- The node an operator is to the barrier unit. -/
def nodeOf (v : View) : Nat := elemKey v.ea v.ctx * 64 + v.n

/-- Make the node's arrival, once; `sel` remembers it until the token goes on. -/
def arriveOnce (s : State) (v : View) (obj : Nat) : State :=
  if v.op.sel = some true then s else arrive s obj { src := v.ea, who := nodeOf v, count := 1 }

/-- What a barrier operator does with a data or header token: arrive, wait for the phase, pass on. -/
def syncToken (arrives waits : Bool) (s : State) (v : View) (t : Token) : State × StageOut :=
  let obj := syncObject s v
  let p := v.op.phase.getD (s.barrier obj).phase
  let s := if arrives then arriveOnce s v obj else s
  let op := { v.op with sel := if arrives then some true else none, phase := if waits then some p else none }
  if (arrives && arrivalHeld s obj (nodeOf v)) || (waits && !phaseDone s obj p) then (s, .wait op)
  else (s, .emit { op with sel := none, phase := if waits then some (p + 1) else none } t)

/-- A barrier operator: markers pass without arrival or wait. -/
def syncOp (code : Nat) (arrives waits : Bool) : StageOp :=
  { code := code, fmts := [], pairB := false, noHeader := none
    data := fun s v o => syncToken arrives waits s v (dataOf v o)
    header := syncToken arrives waits
    marker := forward }
where
  /-- The trigger token as it stands, with the tag of the firing. -/
  dataOf (_ : View) (o : Operands) : Token := { o.a with etag := o.side.etag, rsv := 0 }

/-- POST (R393): one arrival per data or header token, passed on at once. -/
def execPost (w : OpWord) (s : State) : Result := runStage s w (syncOp 388 true false)
/-- BARR (R328): one arrival, then the token waits for the phase. -/
def execBarr (w : OpWord) (s : State) : Result := runStage s w (syncOp 389 true true)
/-- BWAIT (R328): the token waits for the phase. -/
def execBwait (w : OpWord) (s : State) : Result := runStage s w (syncOp 390 false true)

/-! ## Monitor checks (R381) -/

/-- One check of group IMM[7:0]; a failed one holds the token until MCACK. -/
def mchkToken (s : State) (v : View) (t : Token) : State × StageOut :=
  match v.op.sel with
  | some true => (s, .emit { v.op with sel := none } t)
  | some false => (s, .wait v.op)
  | none =>
    let part := partOfSite s (eaSite v.ea)
    let blk := BitVec.ofNat 6 (originBlock s v.e.task v.ea)
    let (s, ok) := checkGroup s part (v.w.imm.toNat % 256) 0xFFFF blk (some (nodeOf v))
    if ok then (s, .emit v.op t) else (s, .wait { v.op with sel := some false })

/-- MCHK (R381): checks a monitor group at each data or header token. -/
def execMchk (w : OpWord) (s : State) : Result :=
  runStage s w
    { code := 391, fmts := [], pairB := false, noHeader := none
      data := fun s v o => mchkToken s v { o.a with etag := o.side.etag, rsv := 0 }
      header := mchkToken, marker := forward }

/-! ## Capacity buckets (R184, R332, R333) -/

/-- The settings of a `cap` in k[KIDX]: PERIOD, ALLOW, MAXB and the live level. -/
structure Bucket where
  period : Nat
  allow  : Nat
  maxb   : Nat
  level  : Nat

/-- Read a bucket. -/
def bucketOf (e : ElemCtx) (k : Nat) : Bucket :=
  let t := e.getK k
  { period := laneNat t.pay 0, allow := laneNat t.pay 1 % 2 ^ 16, maxb := laneNat t.pay 1 / 2 ^ 16, level := laneNat t.pay 2 }

/-- k[KIDX] with another level in lane 2. -/
def setLevel (t : Token) (level : Nat) : Token :=
  let p := lanesToPay (lanes16.map (fun j => if j = 2 then level else laneNat t.pay j))
  { t with pay := p, res := regenRes p t.mask }

/-- Level at time now: a refill at every multiple of PERIOD since `since`, saturating at MAXB (R184). -/
def Bucket.refilled (b : Bucket) (refill since now : Nat) : Nat :=
  if b.period = 0 then b.level else min b.maxb (b.level + refill * (now / b.period - since / b.period))

/-- Bring the level of the `cap` in stage n up to the present. -/
def capRefillAt (s : State) (ea : EAddr) (ctx : BitVec 2) (n : Nat) : State :=
  let e := s.elem ea ctx
  let w := OpWord.ofBits (e.stageWord n)
  if opcodeOf (e.stageWord n) = 392 ∧ e.stageOn n then
    let k := w.kidx.toNat
    let lv := (bucketOf e k).refilled (w.imm.toNat % 2 ^ 16) (e.op n).lastRefill s.time
    s.setElem ea ctx ((e.setK k (setLevel (e.getK k) lv)).setOp n { e.op n with lastRefill := s.time })
  else s

/-- Fields of a `cap` word. -/
def capOvp (w : OpWord) : Nat := w.imm.toNat / 2 ^ 16 % 4
def capCo (w : OpWord) : Nat := w.imm.toNat / 2 ^ 18 % 4
def capDrop (w : OpWord) : Bool := w.imm.toNat / 2 ^ 20 % 2 == 1
def capCen (w : OpWord) : Bool := w.imm.toNat / 2 ^ 21 % 2 == 1
def capOven (w : OpWord) : Bool := w.imm.toNat / 2 ^ 22 % 2 == 1

/-- Send a token of a packet as decided: to DST, or to the overflow output when there is room. -/
def capSend (s : State) (v : View) (op : OpSt) (pass : Bool) (ctl : List (Nat × Ctl)) (t : Token) : State × StageOut :=
  if !(ctl.all (fun c => ctlOutputRoom s v.ea v.ctx c.1)) then (s, .wait v.op)
  else if pass then (s, { StageOut.emit op t with ctl := ctl })
  else if outputRoom s v.ea v.ctx (capOvp v.w) then
    (outputSend s v.ea v.ctx (capOvp v.w) t, { StageOut.quiet op with ctl := ctl })
  else (s, .wait v.op)

/-- Decide a packet of n tokens at the head of SA (R333). -/
def capDecide (s : State) (v : View) (n : Nat) (t : Token) : State × StageOut :=
  let k := v.w.kidx.toNat
  let b := bucketOf v.e k
  let level := b.refilled (v.w.imm.toNat % 2 ^ 16) v.op.lastRefill s.time
  let need := min n b.maxb
  let pass := decide (need ≤ level)
  let ctl := fun (x : Bool) => if capCen v.w then [(capCo v.w, ctlTok x false)] else []
  let tell := fun (lv : Nat) (x : Bool) =>
    let op := { v.op with lastRefill := s.time, sel := some x }
    let (s, r) := capSend s v op x (ctl x) t
    if r.hold then (s, r) else (s, { r with k := some (setLevel (v.e.getK k) lv) })
  if pass then tell (level - need) true
  else if capDrop v.w then tell level false
  else (s, .wait v.op)

/-- CAP (R332, R333): a bucket that limits accepted rows. -/
def execCap (w : OpWord) (s : State) : Result :=
  runStage s w
    { code := 392, fmts := fData, pairB := false, noHeader := none
      data := fun s v o =>
        let t := { o.a with etag := o.side.etag, rsv := 0 }
        if w.fmt != 0 then capDecide s v 1 t
        else capSend s v v.op (v.op.sel != some false) [] t
      header := fun s v t =>
        if w.fmt = 0 then capDecide s v (hdrTokens t) t else (s, .emit v.op t)
      marker := fun s v t =>
        let ctl := if capCen w then [(capCo w, ctlOfMarker t)] else []
        if !(ctl.all (fun c => ctlOutputRoom s v.ea v.ctx c.1)) then (s, .wait v.op)
        else if capOven w then
          if outputRoom s v.ea v.ctx (capOvp w) then
            (outputSend s v.ea v.ctx (capOvp w) t, { StageOut.emit v.op t with ctl := ctl })
          else (s, .wait v.op)
        else (s, { StageOut.emit v.op t with ctl := ctl }) }

/-- CAP_REFILL (R184): the bucket of a stage takes the refills due at this device time. -/
def execCapRefill (site : BitVec 13) (ctx : BitVec 2) (stage : BitVec 3) (s : State) : Result :=
  .next (capRefillAt s (siteEa site 0) ctx stage.toNat)

/-! ## MCACK (R226) -/

/-- The group and partition of a channel, whether it may resolve the check: the single lead, or any member when there is
none, and the check is still open. -/
def mcackGroup (s : State) (c : Nat) : Option (Nat × Nat × List (Nat × Channel)) :=
  let ch := s.channel c
  let part := channelPart s (c, ch)
  let l := groupMembers s part ch.group
  match groupLeads l with
  | [lead] => if lead.1 = c then some (part, ch.group, l) else none
  | _ => if l.any (fun p => p.1 == c) then some (part, ch.group, l) else none

/-- Objects whose release a group withholds in a partition. -/
def withheldBy (s : State) (part group : Nat) : List Nat :=
  (s.barriers.filter (fun p => p.2.part.toNat == part && p.2.pending.contains group)).map (·.1)

/-- The element contexts of a task in which a `barr` or `bwait` holds a token, with the object whose release it awaits. -/
def waitingOn (s : State) (t : Task) : List (Nat × Nat) :=
  t.uses.filterMap (fun k =>
    let e := s.elem (keyEa k) (keyCtx k)
    e.pass.bind (fun p =>
      let w := e.stageWord p.stage
      if opcodeOf w == 389 || opcodeOf w == 390 then
        some (k, syncObject s { ea := keyEa k, ctx := keyCtx k, n := p.stage, w := OpWord.ofBits w, e := e, op := e.op p.stage })
      else none))

/-- Tasks that wait on the release of an object: those with a `barr` or `bwait` of it that holds a token. -/
def tasksWaiting (s : State) (obj : Nat) : List Task := s.tasks.filter (fun t => (waitingOn s t).any (fun p => p.2 == obj))

/-- Time in which a task was held since then does not count for the watchdog. -/
def excuse (s : State) (since uid : Nat) : State := s.modTask uid (fun t => { t with excused := t.excused + (s.time - max since t.lastFire) })

/-- The tasks that wait on an object are excused for the time of its hold. -/
def excuseWaiting (s : State) (obj : Nat) : State := (tasksWaiting s obj).foldl (fun s t => excuse s (s.barrier obj).since t.uid) s

/-- A group's hold on an object ends; with no other hold the release is delivered, at a parked object at restore (R250). -/
def endHold (s : State) (obj group : Nat) : State :=
  let b := s.barrier obj
  let rest := b.pending.filter (fun g => g != group)
  let s := s.setBarrier obj { b with pending := rest }
  if !rest.isEmpty then s
  else if b.park then s.setBarrier obj { s.barrier obj with owed := b.owed + 1 }
  else release (excuseWaiting s obj) obj

/-- Waiting `mchk` stages of a group, each with the time of its check. -/
def groupWaiters (l : List (Nat × Channel)) : List (Nat × Nat) := (l.flatMap (fun p => p.2.waiters)).dedup

/-- Let a waiting `mchk` send its token on; a task suspended meanwhile keeps the answer. -/
def letGo (s : State) (w : Nat × Nat) : State :=
  let who := w.1
  let ea := keyEa (who / 64)
  let ctx := keyCtx (who / 64)
  let s := match (s.elem ea ctx).task with
    | some uid => excuse s w.2 uid
    | none => s
  let s := s.modElem ea ctx (fun e => e.setOp (who % 64) { e.op (who % 64) with sel := some true })
  { s with tasks := s.tasks.map (fun t => { t with saved := t.saved.map (fun r =>
      if r.key = who / 64 then { r with go := r.go ++ [who % 64] } else r) }) }

/-- ACT 1: every member applies its MODE with the total that the check formed, and the holds end. -/
def ackRelease (s : State) (c : Nat) : State :=
  match mcackGroup s c with
  | none => s
  | some (part, group, l) =>
    let objs := withheldBy s part group
    let ws := groupWaiters l
    if objs.isEmpty ∧ ws.isEmpty then s
    else
      let s := applyModes s l (s.channel c).total
      let s := setChannels s l (fun ch => { ch with waiters := [] })
      let s := ws.foldl letGo s
      objs.foldl (fun s o => endHold s o group) s

/-- End a task that waits on a failed release: what waits in it is not released. -/
def failWaiting (s : State) (obj : Nat) (t : Task) : State :=
  ((waitingOn s t).filter (fun p => p.2 == obj)).foldl (fun s p => s.modElem (keyEa p.1) (keyCtx p.1) (fun e => { e with stopped := true }))
    (taskFault s t.uid 11 3 obj)

/-- ACT 2: tasks that wait end with FAULT and fault class MONITOR, and the hold ends for any other waiter. -/
def ackFail (s : State) (c : Nat) : State :=
  match mcackGroup s c with
  | none => s
  | some (part, group, l) =>
    let objs := withheldBy s part group
    let ws := groupWaiters l
    if objs.isEmpty ∧ ws.isEmpty then s
    else
      let s := setChannels s l (fun ch => { ch with waiters := [] })
      let s := ws.foldl (fun s w =>
        match (s.elem (keyEa (w.1 / 64)) (keyCtx (w.1 / 64))).task with
        | some uid => taskFault s uid 11 3 0xFFFF
        | none => letGo s w) s
      objs.foldl (fun s o =>
        endHold ((tasksWaiting s o).foldl (fun s t => failWaiting s o t) s) o group) s

/-- MCACK_RELEASE (R226): MCACK ACT 1. -/
def execMcackRelease (chan : BitVec 16) (s : State) : Result := .next (ackRelease s chan.toNat)
/-- MCACK_FAIL (R226): MCACK ACT 2. -/
def execMcackFail (chan : BitVec 16) (s : State) : Result := .next (ackFail s chan.toNat)

end Sys2Proof.Machine
end

