-- ==== Sys2Proof/Machine/ConfigFields.lean ====
section
/-! DEFINITION. Machine/ConfigFields.lean: the configuration fields of every element kind (R282 to R287): the checks of one
value alone (R277), the checks across fields, applying a written field, and reading one back. A field below 48 has its
number as key, word w of window page p the key 64 + 16 p + w. -/

namespace Sys2Proof.Machine

/-- Kinds of element. -/
inductive ElemKind where
  | ct | mt | router | monitor | parity
deriving DecidableEq, Repr

/-- Kind of an element address (R12). -/
def kindOf (ea : EAddr) : Option ElemKind :=
  if !eaExists ea then none
  else match eaElem ea with
    | 0 => some (if siteIsMt (eaSite ea) then .mt else .ct)
    | 1 => some .router
    | 2 => some .monitor
    | _ => some .parity

/-- Key of word w of window page p. -/
def pageKey (p w : Nat) : Nat := 64 + 16 * p + w

/-- Reset value of a banked field (Tables 7-1, 7-2, 12-6). -/
def fieldReset (k : ElemKind) (key : Nat) : Word :=
  match k, key with
  | .ct, 19 => 1#32
  | .router, 44 => 0xACE14800#32
  | .router, n => if 64 ≤ n ∧ n < 72 then 0x00800001#32 else 0
  | _, _ => 0

/-- A banked field of a table. -/
def bankGet (k : ElemKind) (b : Tab Word) (key : Nat) : Word := tabGet b key (fieldReset k key)

/-! ## Staged values -/

/-- The table of a context's bank, active or shadow, as the staged writes would leave it. -/
def stagedBank (s : State) (ea : EAddr) (ctx : BitVec 2) (shadow : Bool) : Tab Word :=
  let e := s.elem ea ctx
  let b := if shadow then e.shadow.getD [] else e.bank
  let k := (kindOf ea).getD .ct
  (s.port ea).staged.foldl (fun b w =>
    if w.ctx = ctx ∧ w.shadow = shadow then tabSet b w.key w.val (fieldReset k w.key) else b) b

/-- The page that a context's window selector names, staged writes included (R282). -/
def windowPage (s : State) (ea : EAddr) (ctx : BitVec 2) (shadow : Bool) : Nat := (tabGet (stagedBank s ea ctx shadow) 47 0).toNat

/-- Key that a field of a command reaches. -/
def fieldKey (s : State) (ea : EAddr) (ctx : BitVec 2) (shadow : Bool) (field : Nat) : Nat :=
  if field < 48 then field
  else
    let sel := windowPage s ea ctx shadow
    -- SWIN of an MT names pages by offset: bits [15:6] and SPACE at [17:16]
    let page := if kindOf ea = some .mt then sel / 64 else sel % 65536
    pageKey page (field - 48)

/-! ## Checks of one value (R277, REASON codes of R281) -/

/-- Reserved high bits are zero. -/
def highZero (v n : Nat) : Option Nat := must (decide (v < 2 ^ n)) 1

/-- A five-bit source code of a router field. -/
def srcOk (c : Nat) : Option Nat := must (decide (c < 24) || c == 31) 3

/-- Fields of a CT body (Table 12-6). -/
def checkCt (s : State) (ea : EAddr) (ctx : BitVec 2) (shadow : Bool) (key v : Nat) : Option Nat :=
  if key < 12 then none
  else if key < 64 then
    match key with
    | 12 => highZero v 14
    | 13 => highZero v 20
    | 14 => none
    | 15 => highZero v 24
    | 16 => firstFail [highZero v 13, must (decide (bits v 5 6 ≤ 32)) 3]
    | 17 => firstFail [highZero v 17, must (decide (bits v 8 9 ≤ 256)) 3]
    | 18 => firstFail [highZero v 17, must (decide (bits v 8 9 ≤ 256)) 3]
    | 19 => none
    | 20 => none
    | 21 => highZero v 5
    | 44 => highZero v 20
    | 45 => none
    | 46 => none
    | 47 =>
      if 65536 ≤ v then some 1
      else if 0x1000 ≤ v ∧ v < 0x1800 then
        let w := (tabGet (stagedBank s ea ctx shadow) 16 0).toNat
        must (decide (v % 1024 < bits w 5 6 * 32)) 3
      else none
    | _ => must (v == 0) 1
  else
    let page := (key - 64) / 16
    let word := (key - 64) % 16
    if page < 10 ∨ (page = 10 ∧ word < 13) ∨ (page = 11 ∧ word < 4) ∨ (0x1000 ≤ page ∧ page < 0x1800) then none else must (v == 0) 1

/-- Fields of an MT body (Table 12-9). `pc` says that the stream is the PC's, `stopped` that the owning region is. -/
def checkMt (pc stopped : Bool) (sel key v : Nat) : Option Nat :=
  if key < 8 then none
  else if key < 12 then
    firstFail [highZero v 7, must (v % 4 != 3) 3, must (!bitSet v 5 || (v % 4 == 2 && bitSet v 4)) 4]
  else if key < 28 then (if key % 4 = 1 then highZero v 25 else none)
  else if key < 64 then
    match key with
    | 28 => highZero v 5
    | 44 => highZero v 20
    | 45 => if pc then must (decide (v % 16 ≤ 8)) 3 else some 8
    | 46 => none
    | 47 => firstFail [highZero v 18, must (v % 64 == 0) 1, must (decide (bits v 16 2 ≤ 1)) 3]
    | _ => must (v == 0) 1
  else if sel / 65536 = 0 then (if !pc then some 8 else must stopped 4)
  else
    let page := (key - 64) / 16 - 1024
    let word := (key - 64) % 16
    if (page < 4 ∧ word < 13) ∨ (page = 4 ∧ word < 4) then none else must (v == 0) 1

/-- Fields of a router (Table 12-8). -/
def checkRouter (key v : Nat) : Option Nat :=
  if key < 4 then firstFail [highZero v 16, srcOk (v % 32)]
  else if key < 16 then firstFail [highZero v 6, srcOk (v % 32)]
  else if key < 20 then highZero v 11
  else if key < 44 then
    (if (key - 20) % 3 = 2 then
      firstFail [highZero v 20, srcOk (bits v 0 5), srcOk (bits v 5 5), srcOk (bits v 10 5), srcOk (bits v 15 5)]
    else none)
  else if key < 64 then
    match key with
    | 44 => firstFail [must (!bitSet v 7) 1, must (decide (6 ≤ bits v 8 4) && decide (bits v 8 4 ≤ 12)) 3,
        must (decide (bits v 12 4 ≤ 8)) 3, must (bits v 16 16 != 0) 3]
    | 45 => none
    | 46 => none
    | 47 => highZero v 16
    | _ => must (v == 0) 1
  else
    let page := (key - 64) / 16
    let w := (key - 64) % 16
    match page with
    | 0 => if w < 8 then firstFail [highZero v 24, must (v % 65536 != 0) 3] else must (v == 0) 1
    | 1 => none
    | 2 => if w < 10 then none else must (v == 0) 1
    | 3 => if w % 4 = 0 then highZero v 3 else none
    | 4 => if w < 13 then none else must (v == 0) 1
    | 5 => if w < 12 then none else must (v == 0) 1
    | 6 => if w = 0 then highZero v 5 else must (v == 0) 1
    | _ => must (v == 0) 1

/-- Fields of a monitor channel (Tables 9-3, 12-7). -/
def checkMonitor (field v : Nat) : Option Nat :=
  match field with
  | 0 => firstFail [highZero v 28, must (bits v 4 2 != 3) 3]
  | 1 => must (v % 4096 == 0 || (decide (4096 - 1074 ≤ v % 4096))) 3
  | 6 => must (v != 0) 3
  | 9 => must (bits v 20 11 != 2047 && decide (v ≤ 2 ^ 31)) 4
  | _ => if field < 32 then none else must (v == 0) 1

/-- Fields of the bank and parity control (R213, R287). -/
def checkParity (field v : Nat) : Option Nat :=
  match field with
  | 0 => firstFail [must (bits v 6 2 == 0) 1, highZero v 16, must (decide (6 ≤ bits v 2 4)) 3]
  | 5 => firstFail [must (bits v 5 26 == 0) 1, must (decide (v % 32 < 20)) 3]
  | 17 => highZero v 1
  | 1 => highZero v 13
  | 2 => highZero v 13
  | 3 => highZero v 13
  | 4 => highZero v 13
  | _ => if field < 18 then none else must (v == 0) 1

/-- A field is site-wide (R282). -/
def siteWide (k : ElemKind) (field : Nat) : Bool :=
  match k with
  | .ct => field == 44 || field == 45 || field == 46
  | .mt => field == 44 || field == 45 || field == 46
  | .router => field == 45 || field == 46
  | .monitor => false
  | .parity => true

/-- The save area of a memory tile holds the state of a suspended task: of its own contexts or of those of the compute tiles that are assigned
to it (R102, R245). -/
def areaHeld (s : State) (m : SiteNo) : Bool :=
  s.tasks.any (fun t => t.phase == .suspended && t.saved.any (fun v => v.area && siteSaveMt (eaSite (keyEa v.key)) == m))

/-- The region whose state a save area holds is stopped (R255). -/
def regionStopped (s : State) (ea : EAddr) : Bool := areaHeld s (eaSite ea)

/-- The checks a value meets as its command is received. -/
def checkValue (s : State) (pc : Bool) (ea : EAddr) (k : ElemKind) (ctx : BitVec 2) (shadow : Bool) (field : Nat) (v : Word) :
    Option Nat :=
  let key := fieldKey s ea ctx shadow field
  firstFail [must (!siteWide k field || ctx == 0) 10,
    match k with
    | .ct => checkCt s ea ctx shadow key v.toNat
    | .mt => checkMt pc (regionStopped s ea) (windowPage s ea ctx shadow) key v.toNat
    | .router => checkRouter key v.toNat
    | .monitor => checkMonitor field v.toNat
    | .parity => if pc then checkParity field v.toNat else some 8]

/-! ## Checks across fields, made at CHECK (R277) -/

/-- Operator words of a bank with their field, opcode and place: enabled stages, filled slots, enabled AGNs. -/
def wordsOf (k : ElemKind) (b : Tab Word) : List (Nat × Nat × DWord) :=
  let at_ := fun (n : Nat) => tabGet b (n + 1) 0 ++ tabGet b n 0
  match k with
  | .ct => (List.range 6).filterMap (fun i => if bitSet (tabGet b 12 0).toNat i then some (2 * i, i, at_ (2 * i)) else none)
  | .router => (List.range 8).filterMap (fun i => if tabGet b (21 + 3 * i) 0 != 0 then some (20 + 3 * i, i, at_ (20 + 3 * i)) else none)
  | .mt => (List.range 4).filterMap (fun i => if bitSet (tabGet b (8 + i) 0).toNat 6 then some (2 * i, i, at_ (2 * i)) else none)
  | _ => []

/-- A class stands in an element kind that executes it (Table 13-2). -/
def classFits (k : ElemKind) (code : Nat) : Bool :=
  match k with
  | .ct => decide (code / 64 < 4) || code / 64 == 6
  | .router => code / 64 == 4
  | .mt => code / 64 == 5
  | _ => false

/-- The check of one enabled word: its field and REASON. -/
def checkEnabled (k : ElemKind) (p : Nat × Nat × DWord) : Option (Nat × Nat) :=
  let code := opcodeOf p.2.2
  if (entryOf code).isNone then some (p.1 + 1, 2)
  else if !classFits k code then some (p.1 + 1, 4)
  else (checkWord code (if k = .ct then p.2.1 else 8) (OpWord.ofBits p.2.2)).map (fun r => (if r.2 then p.1 + 1 else p.1, r.1))

/-- Windows of two contexts share a unit. -/
def windowsMeet (a b : Nat) : Bool :=
  decide (0 < bits a 5 6) && decide (0 < bits b 5 6)
    && decide (a % 32 < b % 32 + bits b 5 6) && decide (b % 32 < a % 32 + bits a 5 6)

/-- k registers that a word of a context names. -/
def namesK (code : Nat) (w : OpWord) (k : Nat) : Bool :=
  w.kidx.toNat == k && match entryOf code with
    | none => false
    | some e => !e.kidx.isEmpty || w.sa == 5 || w.sb == 5 || w.sc == 5 || w.dst == 5 || w.dst == 6

/-- `cap`: its k register has pool contents within range and no other word names it (R332). -/
def capOk (b : Tab Word) (ws : List (Nat × Nat × DWord)) (p : Nat × Nat × DWord) : Bool :=
  let w := OpWord.ofBits p.2.2
  let k := w.kidx.toNat
  let lane := fun (j : Nat) => (tabGet b (pageKey k j) 0).toNat
  decide (100 ≤ lane 0) && decide (1 ≤ lane 1 / 65536) && decide (lane 1 % 65536 ≤ lane 1 / 65536)
    && ws.all (fun q => q.1 == p.1 || !namesK (opcodeOf q.2.2) (OpWord.ofBits q.2.2) k)

/-- The tile control output that a word names, if any: `m2c`, and `cap` with its control output enabled (R332, R378). -/
def namedCtl (code : Nat) (w : OpWord) : Option Nat :=
  if code = 140 then some (bits w.imm.toNat 6 2)
  else if code = 392 ∧ bitSet w.imm.toNat 21 then some (bits w.imm.toNat 18 2)
  else none

/-- A word names a tile control output that an earlier word of its context names (R378). -/
def ctlNamedBefore (ws : List (Nat × Nat × DWord)) (p : Nat × Nat × DWord) : Bool :=
  let co := fun (q : Nat × Nat × DWord) => namedCtl (opcodeOf q.2.2) (OpWord.ofBits q.2.2)
  (co p).isSome && ws.any (fun q => decide (q.1 < p.1) && co q == co p)

/-- An output port that a word names as its destination (R293). -/
def namedOut (code : Nat) (w : OpWord) : Option Nat :=
  if (decide (code / 64 < 3) || code / 64 == 6 || code == 197) && decide (w.dst.toNat ≤ 3) then some w.dst.toNat else none

/-- A word names an output port that an earlier word of its context names (R78). -/
def outNamedBefore (ws : List (Nat × Nat × DWord)) (p : Nat × Nat × DWord) : Bool :=
  let out := fun (q : Nat × Nat × DWord) => namedOut (opcodeOf q.2.2) (OpWord.ofBits q.2.2)
  (out p).isSome && ws.any (fun q => decide (q.1 < p.1) && out q == out p)

/-- Windows of the weight store that other contexts of a CT have or are about to have: the active one, writes staged for it included, and
for a shadow bank the other shadow banks, where they differ (R82). -/
def otherWindows (s : State) (ea : EAddr) (ctx : BitVec 2) (shadow : Bool) : List Nat :=
  (([0, 1, 2, 3] : List (BitVec 2)).filter (fun c => c != ctx)).flatMap (fun c =>
    let active := (tabGet (stagedBank s ea c false) 16 0).toNat
    active :: (if shadow && ((s.elem ea c).shadow.isSome || (s.port ea).staged.any (fun w => w.ctx == c && w.shadow)) then
      [(tabGet (stagedBank s ea c true) 16 0).toNat] else []))

/-- Checks across the fields of a CT context: field and REASON of each that fails. -/
def crossCt (others : List Nat) (b : Tab Word) : List (Nat × Nat) :=
  let f := fun (n : Nat) => (bankGet .ct b n).toNat
  let ws := wordsOf .ct b
  let fail : Bool → Nat → List (Nat × Nat) := fun ok field => if ok then [] else [(field, 4)]
  ws.filterMap (checkEnabled .ct)
    ++ fail (decide (bits (f 13) 0 5 + bits (f 13) 5 5 + bits (f 13) 10 5 + bits (f 13) 15 5 ≤ 64)) 13
    ++ fail (decide (f 16 % 32 + bits (f 16) 5 6 ≤ 32) && others.all (fun x => !windowsMeet (f 16) x)) 16
    ++ fail (decide (f 17 % 256 + bits (f 17) 8 9 ≤ 256)) 17
    ++ fail (decide (f 18 % 256 + bits (f 18) 8 9 ≤ 256)) 18
    ++ fail (f 19 != 0 || f 20 != 0) 19
    ++ ((ws.filter (fun p => opcodeOf p.2.2 == 386)).drop 1).map (fun p => (p.1 + 1, 4))
    ++ ((ws.filter (fun p => (OpWord.ofBits p.2.2).pg == 1)).drop 4).map (fun p => (p.1 + 1, 4))
    ++ (ws.filter (ctlNamedBefore ws)).map (fun p => (p.1, 4))
    ++ (ws.filter (outNamedBefore ws)).map (fun p => (p.1 + 1, 4))
    ++ (ws.filter (fun p => opcodeOf p.2.2 == 392 && !capOk b ws p)).map (fun p => (p.1, 4))

/-- Ports that an AGN word names: inputs and outputs (R290). -/
def agnPorts (agnb : Nat) (code : Nat) (w : OpWord) : List Nat × List Nat :=
  let addr := if bitSet agnb 4 && !bitSet agnb 5 then [] else [w.sa.toNat]
  let dataIn := if code = 321 ∨ code = 323 ∨ code = 325 ∨ code = 328 ∨ (code = 327 ∧ w.imm.toNat % 4 ≠ 0) then [w.sb.toNat] else []
  let cmp := if code = 325 ∧ w.imm.toNat % 16 = 6 then [w.sc.toNat] else []
  let outs := (if w.dst = 7 then [] else [w.dst.toNat]) ++ (if w.kidx = 7 then [] else [w.kidx.toNat])
  (addr ++ dataIn ++ cmp, outs)

/-- No element stands twice. -/
def distinct : List Nat → Bool
  | [] => true
  | h :: t => !t.contains h && distinct t

/-- Rules of an AGN word against its binding (R95, R291, R323, R369, R370, R372, R374, R394, R414 to R419, R430). -/
def agnRule (b : Tab Word) (n code : Nat) (w : OpWord) : Bool :=
  let f := fun (i : Nat) => (tabGet b i 0).toNat
  let agnb := f (8 + n)
  let port := agnb % 4
  let src := bitSet agnb 4
  let pagefed := bitSet agnb 5
  let limit := f (15 + 4 * n)
  let base := f (12 + 4 * n) + 2 ^ 32 * f (13 + 4 * n)
  let imm := w.imm.toNat
  (code != 327 || (port == 0 && base % 16 == 0 && decide (16 * 2 ^ bits imm 2 5 ≤ limit)))
    && (code != 326 || port == 2)
    && (!src || code == 320 || code == 321)
    && (!src || port != 2 || pagefed)
    && (!src || pagefed || w.sa == 0)
    && (code != 320 || (if src then imm % 65536 != 0 && ((bits imm 16 2 == 0) == (bits imm 18 7 == 0)) else imm % 65536 == 0 && bits imm 18 7 == 0))
    && (code != 325 || !bitSet imm 7 || port != 2)
/-- Checks across the fields of an MT context. -/
def crossMt (b : Tab Word) : List (Nat × Nat) :=
  let ws := wordsOf .mt b
  let agnb := fun (n : Nat) => (tabGet b (8 + n) 0).toNat
  let ports := ws.map (fun p => agnPorts (agnb p.2.1) (opcodeOf p.2.2) (OpWord.ofBits p.2.2))
  let ok := distinct (ports.flatMap (·.1)) && distinct (ports.flatMap (·.2))
  ws.filterMap (checkEnabled .mt)
    ++ (ws.filter (fun p => !agnRule b p.2.1 (opcodeOf p.2.2) (OpWord.ofBits p.2.2))).map (fun p => (p.1, 4))
    ++ (ws.filter (fun p => agnb p.2.1 % 4 != 2 && tabGet b (15 + 4 * p.2.1) 0 == 0)).map (fun p => (15 + 4 * p.2.1, 4))
    ++ (if ok then [] else [((ws.headD (0, 0, 0)).1 + 1, 4)])

/-- Every field of a router bank that names a source, with its network (R285). -/
def namedSources (r : ElemCtx) : List (Nat × Net × Nat) :=
  let f := fun (first en : Nat) (net : Net) => (List.range 4).filterMap (fun d =>
    if bitSet (r.field (first + d)) en then some (first + d, net, r.field (first + d) % 32) else none)
  let slots := (List.range 8).flatMap (fun n => if r.slotOn n then
    (List.range 4).filterMap (fun i => (r.inNet n i).map (fun net => (22 + 3 * n, net, r.slotLink n i))) else [])
  f 0 15 .data ++ f 4 5 .ctl ++ f 8 5 .data ++ f 12 5 .ctl ++ slots

/-- A source that several fields may name: an output of a `fork`. -/
def mayShare (r : ElemCtx) (code : Nat) : Bool :=
  decide (8 ≤ code) && decide (code < 24) && opcodeOf (r.slotWord ((code - 8) / 2)) == 260

/-- The run of `kelp` slots is a head with ⌈(NMEM + 1) / 2⌉ extensions, and the context has a `kjoin` (R362, R364). -/
def kelpRunOk (r : ElemCtx) (n : Nat) : Bool :=
  let w := (r.slotWord n).toNat
  let is := fun (m code : Nat) => r.slotOn m && opcodeOf (r.slotWord m) == code
  if opcodeOf (r.slotWord n) = 267 then
    if w % 8 = 0 then
      let ext := (r.kMembers + 1) / 2
      (List.range ext).all (fun x => is (n + 1 + x) 267 && (r.slotWord (n + 1 + x)).toNat % 8 == x + 1)
        && (List.range 8).any (fun m => is m 268)
        && ((List.range 8).filter (fun m => is m 267 && (r.slotWord m).toNat % 8 == 0)).length == 1
        && !(is (n + 1 + ext) 267)
    else decide (0 < n) && is (n - 1) 267 && (r.slotWord (n - 1)).toNat % 8 + 1 == w % 8
  else if opcodeOf (r.slotWord n) = 268 then (List.range 8).any (fun m => is m 267 && (r.slotWord m).toNat % 8 == 0)
  else true

/-- Checks across the fields of a router context. -/
def crossRouter (b : Tab Word) : List (Nat × Nat) :=
  let r : ElemCtx := { ElemCtx.reset with bank := b }
  let ws := wordsOf .router b
  let named := namedSources r
  let f := fun (key : Nat) => (bankGet .router b key).toNat
  let fail : Bool → Nat → List (Nat × Nat) := fun ok field => if ok then [] else [(field, 4)]
  ws.filterMap (checkEnabled .router)
    ++ (named.filter (fun p => decide (8 ≤ p.2.2) && decide (p.2.2 < 24) && !r.slotOn ((p.2.2 - 8) / 2))).map (fun p => (p.1, 4))
    ++ (named.zipIdx.filter (fun p => p.1.2.2 != 31 && !mayShare r p.1.2.2
          && (named.take p.2).any (fun q => q.2 == p.1.2))).map (fun p => (p.1.1, 4))
    ++ (ws.filter (fun p => opcodeOf p.2.2 == 260 && !named.any (fun q => q.2.2 / 2 == (8 + 2 * p.2.1) / 2))).map (fun p => (p.1 + 1, 4))
    ++ (ws.filter (fun p => !kelpRunOk r p.2.1)).map (fun p => (p.1, 4))
    ++ fail (decide (bits (f 44) 4 3 ≤ bits (f 44) 0 3)) 44
    ++ (List.range 4).flatMap (fun d =>
        fail (if bitSet (f (pageKey 3 (4 * d))) 1 then f (pageKey 3 (4 * d + 2)) == 0
              else decide (f (pageKey 3 (4 * d + 1)) < 2 ^ 20)) 47)

/-- Checks across the fields of a monitor channel as staged. -/
def crossMonitor (c : Channel) : List (Nat × Nat) :=
  let w := fieldWidth c.ffmt
  let fail : Bool → Nat → List (Nat × Nat) := fun ok field => if ok then [] else [(field, 4)]
  let bnd := match decodeFloat (floatFmt 13) c.bnd.toNat with
    | .fin neg m _ => !neg || m == 0
    | _ => false
  fail (c.str.toNat % w == 0) 6 ++ fail (c.off.toNat % w == 0 && (c.off.toNat == 0 || decide (c.off.toNat < c.str.toNat))) 7 ++ fail bnd 8

/-! ## Applying and reading -/

/-- Replace word i of a wide register. -/
def setWord {n : Nat} (x : BitVec n) (i : Nat) (v : Word) : BitVec n :=
  BitVec.ofNat n (x.toNat - bits x.toNat (32 * i) 32 * 2 ^ (32 * i) + v.toNat * 2 ^ (32 * i))

/-- A write to a field of a monitor channel, MCACK aside. -/
def Channel.write (c : Channel) (field : Nat) (v : Word) : Channel :=
  match field with
  | 0 => { c with cfg := v }
  | 1 => { c with q := v.extractLsb' 0 12 }
  | 6 => { c with str := v }
  | 7 => { c with off := v }
  | 30 => { c with stat := c.stat &&& ~~~(v.extractLsb' 0 4) }
  | n =>
    if n = 2 ∨ n = 3 then { c with base := setWord c.base (n - 2) v }
    else if n = 4 ∨ n = 5 then { c with lim := setWord c.lim (n - 4) v }
    else if n = 8 ∨ n = 9 then { c with bnd := setWord c.bnd (n - 8) v }
    else if 10 ≤ n ∧ n < 20 then { c with ref := setWord c.ref (n - 10) v }
    else c

/-- A field of a monitor channel as it reads. -/
def Channel.read (c : Channel) (field : Nat) : Word :=
  let w := fun (x i : Nat) => BitVec.ofNat 32 (bits x (32 * i) 32)
  match field with
  | 0 => c.cfg
  | 1 => c.q.setWidth 32
  | 6 => c.str
  | 7 => c.off
  | 30 => c.stat.setWidth 32
  | n =>
    if n = 2 ∨ n = 3 then w c.base.toNat (n - 2)
    else if n = 4 ∨ n = 5 then w c.lim.toNat (n - 4)
    else if n = 8 ∨ n = 9 then w c.bnd.toNat (n - 8)
    else if 10 ≤ n ∧ n < 20 then w c.ref.toNat (n - 10)
    else if 20 ≤ n ∧ n < 30 then w c.sum.toNat (n - 20)
    else 0

/-- Index of a channel of an MT. -/
def channelOf (site : SiteNo) (c : BitVec 2) : Nat := site.toNat * 4 + c.toNat

/-- Write CTXARB (R43): weights at once, credits lowered to them, the adaptive window restarted (R45). -/
def writeCtxarb (s : State) (site : SiteNo) (v : Word) : State :=
  s.modSite site (fun t =>
    { t with
      ctxarb := v
      credit := ([0, 1, 2, 3] : List (BitVec 2)).foldl (fun (cr : Tab Nat) c =>
        tabMod cr c.toNat 0 (fun x => min x (ctxWeight v c))) t.credit
      occ := [], occStart := s.time })

/-- Clear the II counters of a page of an element context (R257). -/
def clearIi (e : ElemCtx) (page : Nat) : ElemCtx := { e with ii := e.ii.filter (fun p => p.1 / 16 != page) }

/-- Register k of a context from its payload and sideband words in a table, page by page (R283). -/
def kFromPages (b : Tab Word) (k : Nat) : Token :=
  let pay := lanesToPay (lanes16.map (fun j => (tabGet b (pageKey k j) 0).toNat))
  let sw := fun (i : Nat) => (tabGet b (pageKey (8 + k / 4) (4 * (k % 4) + i)) 0).toNat
  let side := sw 0 + 2 ^ 32 * sw 1
  let m := BitVec.ofNat 16 side
  { Token.zero with
    pay := pay, mask := m
    kind := match bits side 16 2 with
      | 0 => .data
      | 1 => .header
      | 2 => .marker
      | _ => .cut
    level := BitVec.ofNat 3 (bits side 18 3), etag := bitSet side 21, seq := BitVec.ofNat 20 (bits side 22 20)
    route := BitVec.ofNat 10 (bits side 42 10), done := BitVec.ofNat 8 (bits side 52 8), rsv := BitVec.ofNat 4 (bits side 60 4)
    res := resToWord (lanes16.map (fun j => residue15 (laneNat pay j))) }

/-- The 128 sideband bits of a token (Table 1-2). -/
def sidebandNat (t : Token) : Nat :=
  t.mask.toNat + 2 ^ 16 * kindCode t.kind + 2 ^ 18 * t.level.toNat + (if t.etag then 2 ^ 21 else 0) + 2 ^ 22 * t.seq.toNat
    + 2 ^ 42 * t.route.toNat + 2 ^ 52 * t.done.toNat + 2 ^ 60 * t.rsv.toNat + 2 ^ 64 * t.res.toNat

/-- Pages of a table that hold register k. -/
def kTouched (b : Tab Word) (k : Nat) : Bool :=
  b.any (fun p => decide (64 ≤ p.1) && ((p.1 - 64) / 16 == k || ((p.1 - 64) / 16 == 8 + k / 4 && (p.1 - 64) % 16 / 4 == k % 4)))

/-- The k registers and weight-store lines as a table so that one word of either can be replaced. -/
def kPages (e : ElemCtx) : Tab Word :=
  (List.range 8).foldl (fun b k =>
    let t := e.getK k
    let b := (List.range 16).foldl (fun (b : Tab Word) j => tabSet b (pageKey k j) (BitVec.ofNat 32 (laneNat t.pay j)) 0) b
    (List.range 4).foldl (fun (b : Tab Word) i =>
      tabSet b (pageKey (8 + k / 4) (4 * (k % 4) + i)) (BitVec.ofNat 32 (bits (sidebandNat t) (32 * i) 32)) 0) b) []

/-- Store one word of a weight-store line of a context's window (R283). -/
def writeWsWord (s : State) (ea : EAddr) (ctx : BitVec 2) (page w : Nat) (v : Word) : State :=
  let base := (s.elem ea ctx).field 16 % 32 * 32
  let key := (eaSite ea).toNat * 2048 + bits page 10 1 * 1024 + (base + page % 1024) % 1024
  { s with ws := tabMod s.ws key 0 (fun l => setWord l w v) }

/-- A weight-store line of a context's window. -/
def readWsWord (s : State) (ea : EAddr) (ctx : BitVec 2) (page w : Nat) : Word :=
  let base := (s.elem ea ctx).field 16 % 32 * 32
  let key := (eaSite ea).toNat * 2048 + bits page 10 1 * 1024 + (base + page % 1024) % 1024
  BitVec.ofNat 32 (bits (tabGet s.ws key 0).toNat (32 * w) 32)

/-- A write to MTCFG: PC only; CBSZ changes only while no task of the owning partition is admitted (R94); reserved bits ignore it (R16). -/
def writeMtcfg (s : State) (site : SiteNo) (v : Word) : State :=
  let old := (s.site site).mtcfg
  let part := bits old.toNat 8 6
  let admitted := s.tasks.any (fun t => !t.uses.isEmpty && (s.launch? (t.uid / 2 ^ 32)).elim false (fun l => l.part == part))
  if bits v.toNat 0 4 ≠ bits old.toNat 0 4 ∧ admitted then s.log (.mtcfgIgnored site.toNat)
  else s.modSite site (fun t => { t with mtcfg := v &&& 0x3F1F#32 })

/-- RTLOG.CLR (Table 3-4). -/
def clearRtlog (s : State) (site : SiteNo) : State :=
  s.modSite site (fun t => { t with miscnt := 0, lslot := 0, lroute := 0, rsvhit := false })

/-- A write to ERRCNT clears both fields (Table 9-2). -/
def clearErrcnt (s : State) (ea : EAddr) : State :=
  let k := if eaElem ea = 1 then 2 else 0
  s.modSite (eaSite ea) (fun t => { t with ecnt := tabSet (tabSet t.ecnt k 0 0) (k + 1) 0 0 })

/-- Bytes of an MT's save area: offset within its top 64 KiB, rotation code 0 (R94, R102). -/
def saveKey (site : SiteNo) (off : Nat) : Nat :=
  let o := 2 ^ 21 - 2 ^ 16 + off % 2 ^ 16
  bankKey site (bankOf 0 o) (rowOf o) + o % 64

/-- Write masked bytes of one line of an MT's save area; the row keeps its parity (R205). -/
def writeSave (s : State) (site : SiteNo) (off mask : Nat) (data : List Byte) : State :=
  let o := 2 ^ 21 - 2 ^ 16 + off % 2 ^ 16
  (writeBank s site 0 (bankOf 0 o) (rowOf o) mask data).1

/-- A write to a field of the bank and parity control by the PC (R213). -/
def writeParity (s : State) (site : SiteNo) (field : Nat) (v : Word) : State :=
  match field with
  | 0 => modAx s site (fun a => { a with bpctl := v })
  | 5 => if v.toNat / 2 ^ 31 = 1 then retireBank s site (v.toNat % 32) else s
  | 17 =>
    if v.toNat % 2 = 1 then
      modAx s site (fun a => { a with recon := 0, degrd := 0, rwait := 0, wstall := 0, scrpm := 0, sweeps := 0 })
    else s
  | _ => s

/-- Coding of a retired bank in BPGRP. -/
def retiredCode (l : List Nat) (i : Nat) : Nat := l.getD i 7

/-- A field of the bank and parity control as it reads. -/
def readParity (s : State) (site : SiteNo) (field : Nat) : Word :=
  let a := axOf s site
  let ce := fun (k : Nat) => (List.range 4).foldl (fun acc j => acc + tabGet a.ce (4 * k + j) 0 * 2 ^ (8 * j)) 0
  let grp := fun (g : Nat) =>
    let l := retiredOf a g
    retiredCode l 0 + 8 * retiredCode l 1 + 64 * (if l.isEmpty then 0 else 1) + 128 * (if 2 ≤ l.length then 1 else 0)
      + 256 * (tabGet a.pipes g []).length
  BitVec.ofNat 32 (match field with
    | 0 => a.bpctl.toNat
    | 1 => grp 0
    | 2 => grp 1
    | 3 => grp 2
    | 4 => grp 3
    | 6 => a.recon
    | 7 => a.degrd
    | 8 => a.rwait
    | 9 => a.wstall
    | 10 => a.scrpm % 65536 + 65536 * (a.sweeps % 65536)
    | 11 => a.ue
    | 12 => ce 0
    | 13 => ce 1
    | 14 => ce 2
    | 15 => ce 3
    | 16 => ce 4
    | _ => 0)

/-- What a write to a shadow bank keeps of a value: nothing of a word that is read only, and of TBRKC no HIT (Table 11-1, R282). -/
def shadowValue (k : ElemKind) (key : Nat) (v : Word) : Option Word :=
  let page := (key - 64) / 16
  let word := (key - 64) % 16
  if key < 64 then some v
  else match k with
    | .ct => if page = 10 ∨ page = 11 then none else some v
    | .router =>
      if page = 3 then (if word % 4 = 0 then some (v &&& 3) else if word % 4 = 3 then none else some v)
      else if page = 0 ∨ page = 6 then some v else none
    | _ => none

/-- Apply one written field of a CT, MT or router body to the active bank, or keep it in the shadow. -/
def applyBody (s : State) (k : ElemKind) (ea : EAddr) (w : Staged) : State :=
  let v := w.val
  let page := (w.key - 64) / 16
  let word := (w.key - 64) % 16
  if w.key < 64 ∧ siteWide k w.key then
    match w.key with
    | 44 => writeCtxarb s (eaSite ea) v
    | 45 =>
      match k with
      | .ct => s.modSite (eaSite ea) (fun t => { t with iovf := t.iovf &&& ~~~(v.extractLsb' 0 4) })
      | .mt => writeMtcfg s (eaSite ea) v
      | _ => if v.toNat / 2 ^ 31 = 1 then clearRtlog s (eaSite ea) else s
    | _ => clearErrcnt s ea
  else if w.shadow then
    match shadowValue k w.key v with
    | some v => s.modElem ea w.ctx (fun e => { e with shadow := some (tabSet (e.shadow.getD []) w.key v (fieldReset k w.key)) })
    | none => s.modElem ea w.ctx (fun e => { e with shadow := some (e.shadow.getD []) })
  else if w.key < 64 then
    s.modElem ea w.ctx (fun e => { e with bank := tabSet e.bank w.key v (fieldReset k w.key) })
  else
    match k with
    | .ct =>
      if page < 10 then
        s.modElem ea w.ctx (fun e =>
          let b := tabSet (kPages e) w.key v 0
          (List.range 8).foldl (fun e i => if kTouched [(w.key, v)] i then e.setK i (kFromPages b i) else e) e)
      else if page = 10 then (if word = 0 then s.modElem ea w.ctx (fun e => clearIi e 0) else s)
      else if 0x1000 ≤ page ∧ page < 0x1800 then writeWsWord s ea w.ctx page word v
      else s
    | .mt =>
      if page < 1024 then
        -- a page of the save area, written by the PC while the region is stopped (R255)
        writeSave s (eaSite ea) (64 * page) (15 * 16 ^ word) (natToBytes 64 (v.toNat * 2 ^ (32 * word)))
      else if page - 1024 < 4 ∧ word = 0 then s.modElem ea w.ctx (fun e => clearIi e (page - 1024))
      else s
    | .router =>
      match page with
      | 0 => s.modElem ea w.ctx (fun e => { e with bank := tabSet e.bank w.key v (fieldReset k w.key) })
      | 3 =>
        let d := word / 4
        match word % 4 with
        | 0 =>
          s.modElem ea w.ctx (fun e =>
            let e := { e with bank := tabSet e.bank w.key (v &&& 3) 0 }
            if bitSet v.toNat 2 then { e with brk := tabMod e.brk d Brk.zero (fun b => { b with hit := false }) } else e)
        | 3 => s
        | _ => s.modElem ea w.ctx (fun e => { e with bank := tabSet e.bank w.key v 0 })
      | 4 => if word = 0 then s.modElem ea w.ctx (fun e => clearIi e 0) else s
      | 6 => s.modElem ea w.ctx (fun e => { e with bank := tabSet e.bank w.key v 0 })
      | _ => s
    | _ => s

/-- CTSTAT as it reads (Table 3-3). KWAIT is 0: the model has one pass of a context in flight, so that no read waits (log entry 25). -/
def ctstat (t : Site) : Nat := t.iovf.toNat + (if t.faulted then 16 else 0) + 32 * t.fctx.toNat

/-- RTLOG as it reads (Table 3-4). -/
def rtlog (t : Site) : Nat := t.miscnt + 2 ^ 16 * t.lslot.toNat + 2 ^ 20 * t.lroute.toNat + (if t.rsvhit then 2 ^ 30 else 0)

/-- An II counter of a page. -/
def iiWord (e : ElemCtx) (unit word : Nat) : Nat := tabGet e.ii (16 * unit + word) 0

/-- Statistics words of a member (R189). -/
def kstat (k : Kelp) (m i : Nat) : Nat :=
  let x := k.member m
  match i with
  | 0 => x.clat % 2 ^ 16 + 2 ^ 16 * (x.plat % 2 ^ 13)
  | 1 => x.vis % 2 ^ 13 + 2 ^ 13 * (x.pcnt % 2 ^ 13)
  | _ => x.csum

/-- A word of a router's window page as it reads. -/
def readRouterPage (e : ElemCtx) (page word : Nat) : Nat :=
  match page with
  | 1 => if word < 15 then kstat e.kStore (word / 3) (word % 3)
         else e.kStore.slots.length % 128 + 2 ^ 16 * e.kStore.lfsr.toNat
  | 2 => if word < 9 then kstat e.kStore (5 + word / 3) (word % 3) else if word = 9 then e.kStore.klot else 0
  | 3 =>
    let b := tabGet e.brk (word / 4) Brk.zero
    match word % 4 with
    | 0 => e.field (pageKey 3 word) + (if b.hit then 4 else 0)
    | 3 => b.tcnt % 2 ^ 32
    | _ => e.field (pageKey 3 word)
  | 4 => iiWord e 0 word
  | 5 => if word < 12 then iiWord e (1 + word / 3) (word % 3) else 0
  | p => (bankGet .router e.bank (pageKey p word)).toNat

/-- A field of an element context as read-back shows it (R279). -/
def readField (s : State) (ea : EAddr) (ctx : BitVec 2) (field : Nat) : Word :=
  let e := s.elem ea ctx
  let t := s.site (eaSite ea)
  match (kindOf ea).getD .ct with
  | .monitor => (s.channel (channelOf (eaSite ea) ctx)).read field
  | .parity => readParity s (eaSite ea) field
  | k =>
    let sel := (tabGet e.bank 47 0).toNat
    let page := if k = .mt then sel / 64 else sel % 65536
    let word := field - 48
    BitVec.ofNat 32 (if field < 48 then
      (if siteWide k field then
        (match field with
          | 44 => t.ctxarb.toNat
          | 45 => (match k with
            | .ct => ctstat t
            | .mt => t.mtcfg.toNat
            | _ => rtlog t)
          | _ =>
            let i := if k = .router then 2 else 0
            tabGet t.ecnt i 0 + 65536 * tabGet t.ecnt (i + 1) 0)
      else (bankGet k e.bank field).toNat)
    else match k with
      | .ct =>
        if page < 8 then laneNat (e.getK page).pay word
        else if page < 10 then bits (sidebandNat (e.getK (4 * (page - 8) + word / 4))) (32 * (word % 4)) 32
        else if page = 10 then iiWord e 0 word
        else if page = 11 then (if word < 4 then tabGet t.skip word 0 else 0)
        else if 0x1000 ≤ page ∧ page < 0x1800 then (readWsWord s ea ctx page word).toNat
        else 0
      | .mt =>
        if page < 1024 then memNat s.spad (saveKey (eaSite ea) (64 * page + 4 * word)) 4
        else if page - 1024 < 4 then iiWord e (page - 1024) word
        else if page - 1024 = 4 ∧ word < 4 then tabGet t.skip word 0
        else 0
      | _ => readRouterPage e page word)

end Sys2Proof.Machine
end

