-- ==== Sys2Proof/Machine/ConfigStream.lean ====
section
/-! DEFINITION. Machine/ConfigStream.lean: what an element does with one configuration command (R276 to R281, R434): staging,
CHECK, SWAP, DISCARD and read-back, for the streams of the PC, the loaders of the sequencers and task loads. -/

namespace Sys2Proof.Machine

/-! ## Streams and commands -/

/-- The number of a stream: 1 is the PC's, 2 + b the loader of block b, 100 + uid a task load. -/
def streamId : Focus → Nat
  | .loader blk => 2 + blk.toNat
  | .task uid => 100 + uid
  | _ => 1

/-- The stream is the PC's. -/
def fromPc (stream : Nat) : Bool := stream == 1

/-- A command below its context and element address (Tables 12-4, 12-5). -/
inductive CmdBody where
  | write (shadow : Bool) (field : Nat) (vals : List Word)
  | read (field n : Nat)
  | swap (v : Word)
  | discard (v : Word)
  | check (v : Word)
deriving DecidableEq, Repr

/-- The words of a command, command word first. -/
def CmdBody.words (c : CmdBody) (ctx : BitVec 2) (ea : EAddr) : List Word :=
  match c with
  | .write sh f vs => commandWord (if sh then 1#2 else 0#2) ctx ea (BitVec.ofNat 6 f) (countField vs.length) :: vs
  | .read f n => [commandWord 2#2 ctx ea (BitVec.ofNat 6 f) (countField n), 0]
  | .swap v => [commandWord 3#2 ctx ea 0#6 1#6, v]
  | .discard v => [commandWord 3#2 ctx ea 1#6 1#6, v]
  | .check v => [commandWord 3#2 ctx ea 2#6 1#6, v]

/-- FIELD of a command. -/
def CmdBody.field : CmdBody → Nat
  | .write _ f _ => f
  | .read f _ => f
  | .swap _ => 0
  | .discard _ => 1
  | .check _ => 2

/-- What becomes of a command: the element serves another stream, or accepts it with the words read back, or rejects it
with the report of R281. -/
inductive CmdOut where
  | held
  | ok (s : State) (words : List Word)
  | rejected (s : State) (report : Word)

/-- The report of R281. -/
def rejectWord (ea : EAddr) (ctx : BitVec 2) (field reason : Nat) : Word :=
  BitVec.ofNat 32 (ea.toNat + 2 ^ 16 * ctx.toNat + 2 ^ 18 * (field % 64) + 2 ^ 24 * reason)

/-- REASON of a report. -/
def reportReason (w : Word) : Nat := bits w.toNat 24 4

/-- FIELD of a report. -/
def reportField (w : Word) : Nat := bits w.toNat 18 6

/-- EADDR of a report. -/
def reportEa (w : Word) : EAddr := w.extractLsb' 0 16

/-- Drop what an element has staged. -/
def dropStaged (s : State) (ea : EAddr) : State := s.setPort ea { s.port ea with staged := [] }

/-- The element serves no stream any more. -/
def freePort (s : State) (ea : EAddr) : State := s.setPort ea { s.port ea with owner := 0 }

/-- Reject a command: staged writes are discarded and the element serves any stream (R277, R434). -/
def rejectCmd (s : State) (ea : EAddr) (ctx : BitVec 2) (field reason : Nat) : CmdOut :=
  .rejected (freePort (dropStaged s ea) ea) (rejectWord ea ctx field reason)

/-- CRC of an element after more words, each little-endian. -/
def crcWords (x : Word) (l : List Word) : Word :=
  BitVec.ofNat 32 (crc32cBytes x.toNat (l.flatMap (fun w => natToBytes 4 w.toNat)))

/-! ## Writes -/

/-- Check and stage the value words of a write, one after another: the state, or the failing field and REASON. -/
def stageVals (s : State) (pc : Bool) (ea : EAddr) (k : ElemKind) (ctx : BitVec 2) (shadow : Bool) :
    Nat → List Word → Except (Nat × Nat) State
  | _, [] => .ok s
  | f, v :: rest =>
    if 64 ≤ f then .error (63, 11)
    else if k = .parity ∧ ctx ≠ 0 then .error (f, 10)
    else
      match checkValue s pc ea k ctx shadow f v with
      | some r => .error (f, r)
      | none =>
        let p := s.port ea
        if 2048 ≤ p.staged.length then .error (f, 7)
        else
          let w : Staged := { ctx := ctx, shadow := shadow, key := fieldKey s ea ctx shadow f, val := v }
          stageVals (s.setPort ea { p with staged := p.staged ++ [w] }) pc ea k ctx shadow (f + 1) rest

/-- The failure with the lowest field. -/
def lowestFail : List (Nat × Nat) → Option (Nat × Nat)
  | [] => none
  | h :: t => some (t.foldl (fun m p => if p.1 < m.1 then p else m) h)

/-- Operator words that a write command touches and that, after it, stand in an enabled stage, AGN or a filled slot, where
they fail: field and REASON (R277, R297). -/
def wordFails (s : State) (ea : EAddr) (k : ElemKind) (ctx : BitVec 2) (shadow : Bool) (f : Nat) (vs : List Word) : List (Nat × Nat) :=
  let b := vs.zipIdx.foldl (fun (b : Tab Word) (p : Word × Nat) => if f + p.2 < 48 then tabSet b (f + p.2) p.1 0 else b)
    (stagedBank s ea ctx shadow)
  let touched := fun (x : Nat) => decide (f ≤ x) && decide (x < f + vs.length)
  ((wordsOf k b).filter (fun p => touched p.1 || touched (p.1 + 1))).filterMap (checkEnabled k)

/-! ## CHECK -/

/-- Apply one staged write at its element. -/
def applyStaged (s : State) (k : ElemKind) (ea : EAddr) (w : Staged) : State :=
  match k with
  | .monitor =>
    if w.key = 31 then
      match w.val.toNat % 4 with
      | 1 => ackRelease s (channelOf (eaSite ea) w.ctx)
      | 2 => ackFail s (channelOf (eaSite ea) w.ctx)
      | _ => s
    else
      let c := channelOf (eaSite ea) w.ctx
      s.setChannel c ((s.channel c).write w.key w.val)
  | .parity => writeParity s (eaSite ea) w.key w.val
  | k => applyBody s k ea w

/-- The banks that the staged writes of an element reach. -/
def touchedBanks (s : State) (ea : EAddr) : List (BitVec 2 × Bool) := ((s.port ea).staged.map (fun w => (w.ctx, w.shadow))).dedup

/-- Fields of a bank that fail a check across fields, with REASON. -/
def crossFails (s : State) (k : ElemKind) (ea : EAddr) (p : BitVec 2 × Bool) : List (Nat × Nat) :=
  let b := stagedBank s ea p.1 p.2
  match k with
  | .ct => crossCt (otherWindows s ea p.1 p.2) b
  | .mt => crossMt b
  | .router => crossRouter b
  | .monitor =>
    let c := channelOf (eaSite ea) p.1
    crossMonitor (((s.port ea).staged.filter (fun w => w.ctx == p.1)).foldl (fun x w => x.write w.key w.val) (s.channel c))
  | .parity => []

/-- A context's configuration has been loaded or swapped: its GROUP record is empty (R82), its credit, skip count and integer-overflow flag
are cleared (R43, R44, R86). -/
def noteLoaded (s : State) (ea : EAddr) (ctx : BitVec 2) : State :=
  let s := s.modElem ea ctx (fun e => { e with group := none })
  if eaElem ea = 0 then
    s.modSite (eaSite ea) (fun t =>
      { t with credit := tabSet t.credit ctx.toNat 0 0, skip := tabSet t.skip ctx.toNat 0 0
               iovf := t.iovf &&& ~~~(1#4 <<< ctx.toNat) })
  else s

/-- Contexts whose own configuration fields a CHECK has written in the active bank are loaded. -/
def noteActive (s : State) (k : ElemKind) (ea : EAddr) (l : List Staged) : State :=
  if k = .monitor ∨ k = .parity then s
  else (((l.filter (fun w => !w.shadow && decide (w.key < 44))).map (·.ctx)).dedup).foldl (fun s c => noteLoaded s ea c) s

/-- CHECK (R277, R278). -/
def checkCmd (s : State) (ea : EAddr) (k : ElemKind) (ctx : BitVec 2) (v : Word) : CmdOut :=
  let p := s.port ea
  let bad := (touchedBanks s ea).findSome? (fun b => (lowestFail (crossFails s k ea b)).map (fun f => (b.1, f)))
  let restart := fun (s : State) => s.setPort ea { staged := [], crc := 0xFFFFFFFF#32, owner := 0 }
  if p.crc ^^^ 0xFFFFFFFF#32 ≠ v then .rejected (restart s) (rejectWord ea ctx 2 6)
  else
    match bad with
    | some (c, f, r) => .rejected (restart s) (rejectWord ea c f r)
    | none => .ok (restart (noteActive (p.staged.foldl (fun s w => applyStaged s k ea w) s) k ea p.staged)) []

/-! ## SWAP and DISCARD -/

/-- Keys of a bank that a SWAP copies into the bank itself: the fields below 48, and the router's own page words. -/
def bankKeys (k : ElemKind) (key : Nat) : Bool := decide (key < 64) || k == .router

/-- Copy the shadow bank of a context into its active bank (R278): the operators start anew; tokens stay where they are.
What a load clears is cleared. -/
def swapBank (s : State) (ea : EAddr) (ctx : BitVec 2) : State :=
  let k := (kindOf ea).getD .ct
  let sh := (s.elem ea ctx).shadow.getD []
  let s := s.modElem ea ctx (fun e =>
    let e := { e with bank := sh.filter (fun p => bankKeys k p.1), armed := false, ops := [], kelp := Kelp.zero, brk := [],
                      group := none, fires := 0, wsSwaps := 0 }
    if k = .ct then
      { e with k := (List.range 8).foldl (fun t i =>
          if kTouched sh i then tabSet t i (kFromPages sh i) Token.zero else tabSet t i Token.zero Token.zero) [] }
    else e)
  let s := if k = .ct then
      sh.foldl (fun s p =>
        let page := (p.1 - 64) / 16
        if 64 ≤ p.1 ∧ 0x1000 ≤ page ∧ page < 0x1800 then writeWsWord s ea ctx page ((p.1 - 64) % 16) p.2 else s) s
    else s
  -- the level of every `cap` starts at ALLOW
  let s := if k = .ct then
      (List.range 6).foldl (fun s n =>
        let e := s.elem ea ctx
        if e.stageOn n && opcodeOf (e.stageWord n) == 392 then
          let kidx := (OpWord.ofBits (e.stageWord n)).kidx.toNat
          s.setElem ea ctx ((e.setK kidx (setLevel (e.getK kidx) (bucketOf e kidx).allow)).setOp n { e.op n with lastRefill := s.time })
        else s) s
    else s
  noteLoaded s ea ctx

/-- SWAP (R278): at once, or armed for the marker. Staged writes that no CHECK has covered are discarded. -/
def swapCmd (s : State) (ea : EAddr) (k : ElemKind) (ctx : BitVec 2) (v : Word) : CmdOut :=
  let s := s.setPort ea { staged := [], crc := 0xFFFFFFFF#32, owner := 0 }
  if 2 ≤ v.toNat then .rejected s (rejectWord ea ctx 0 1)
  else if (k = .monitor ∨ k = .parity) ∨ (s.elem ea ctx).shadow.isNone then .rejected s (rejectWord ea ctx 0 9)
  else if v.toNat = 1 then .ok (s.modElem ea ctx (fun e => { e with armed := true })) []
  else .ok (swapBank s ea ctx) []

/-- DISCARD (R278): the shadow bank and any armed swap are gone. -/
def discardCmd (s : State) (ea : EAddr) (k : ElemKind) (ctx : BitVec 2) (v : Word) : CmdOut :=
  let s := s.setPort ea { staged := [], crc := 0xFFFFFFFF#32, owner := 0 }
  if v ≠ 0 then .rejected s (rejectWord ea ctx 1 1)
  else if k = .monitor ∨ k = .parity then .ok s []
  else .ok (s.modElem ea ctx (fun e => { e with shadow := none, armed := false })) []

/-! ## One command -/

/-- An element takes one command of a stream (R276 to R281). A read-back that keeps within field 63 claims nothing. -/
def command (s : State) (stream : Nat) (ctx : BitVec 2) (ea : EAddr) (c : CmdBody) : CmdOut :=
  match kindOf ea with
  | none => .rejected s (rejectWord ea ctx c.field 5)
  | some k =>
    let p := s.port ea
    if p.owner ≠ 0 ∧ p.owner ≠ stream then .held
    else
      -- read-back and control words are covered by the running CRC up to the CHECK, SWAP or DISCARD that restarts it
      let crc := crcWords p.crc (c.words ctx ea)
      match c with
      | .write sh f vs =>
        if sh && (k == .monitor || k == .parity) then rejectCmd s ea ctx f 2
        else if 64 < f + vs.length then rejectCmd s ea ctx f 11
        else
          let bad := wordFails s ea k ctx sh f vs
          match stageVals s (fromPc stream) ea k ctx sh f vs, lowestFail bad with
          | .error e, _ =>
            match lowestFail (e :: bad) with
            | some (g, r) => rejectCmd s ea ctx g r
            | none => rejectCmd s ea ctx e.1 e.2
          | .ok _, some (g, r) => rejectCmd s ea ctx g r
          | .ok t, none => .ok (t.setPort ea { t.port ea with crc := crc, owner := stream }) []
      | .read f n =>
        if 64 < f + n then rejectCmd s ea ctx f 11
        else .ok (s.setPort ea { p with crc := crc }) ((List.range n).map (fun i => readField s ea ctx (f + i)))
      | .swap v => swapCmd s ea k ctx v
      | .discard v => discardCmd s ea k ctx v
      | .check v => checkCmd s ea k ctx v

/-! ## Where a stream comes from -/

/-- A command of a loader stays within the partition of its sequencer, beyond which no element exists for it (R335). -/
def streamReaches (s : State) (f : Focus) (ea : EAddr) : Bool :=
  match f with
  | .loader blk => eaExists ea && (s.part (s.sq blk).part.toNat).blocks.contains (siteBlock (eaSite ea))
  | _ => true

/-- A command of the stream in focus: held, taken, or rejected. -/
def streamCommand (s : State) (f : Focus) (ctx : BitVec 2) (ea : EAddr) (c : CmdBody) : CmdOut :=
  if streamReaches s f ea then command s (streamId f) ctx ea c
  else .rejected s (rejectWord ea ctx c.field 5)

/-- A loader stops at a rejection: no further word is sent (R335). -/
def loaderRejected (s : State) (blk : BitVec 6) (report : Word) : State :=
  s.modSq blk (fun q => { q with rej := true, rejWord := report, stream := [], opened := [] })

/-- Outcome of a command for the machine: a loader is done with the command, takes its read-back words and notes a rejection; a held
command changes nothing. -/
def streamResult (s : State) : CmdOut → State
  | .held => s
  | .ok t words =>
    match s.focus with
    | .loader blk => t.modSq blk (fun q => { q with opened := [], rb := q.rb ++ words })
    | _ => t
  | .rejected t report =>
    match s.focus with
    | .loader blk => loaderRejected t blk report
    | _ => t

/-- WRITE_ACTIVE (R277). -/
def execWriteActive (ctx : BitVec 2) (ea : BitVec 16) (field : BitVec 6) (vals : List (BitVec 32)) (s : State) : Result :=
  .next (streamResult s (streamCommand s s.focus ctx ea (.write false field.toNat vals)))

/-- WRITE_SHADOW (R277). -/
def execWriteShadow (ctx : BitVec 2) (ea : BitVec 16) (field : BitVec 6) (vals : List (BitVec 32)) (s : State) : Result :=
  .next (streamResult s (streamCommand s s.focus ctx ea (.write true field.toNat vals)))

/-- READ_BACK (R279): a command whose words do not fit into the read-back queue of 64 words waits (R335). -/
def execReadBack (ctx : BitVec 2) (ea : BitVec 16) (field : BitVec 6) (count : BitVec 6) (s : State) : Result :=
  let full := match s.focus with
    | .loader blk => decide (64 < (s.sq blk).rb.length + countCode count)
    | _ => false
  if full then .next s
  else .next (streamResult s (streamCommand s s.focus ctx ea (.read field.toNat (countCode count))))

/-- SWAP (R278). -/
def execSwap (ctx : BitVec 2) (ea : BitVec 16) (v : BitVec 32) (s : State) : Result :=
  .next (streamResult s (streamCommand s s.focus ctx ea (.swap v)))

/-- DISCARD (R278). -/
def execDiscard (ctx : BitVec 2) (ea : BitVec 16) (v : BitVec 32) (s : State) : Result :=
  .next (streamResult s (streamCommand s s.focus ctx ea (.discard v)))

/-- CHECK (R277). -/
def execCheck (ctx : BitVec 2) (ea : BitVec 16) (crc : BitVec 32) (s : State) : Result :=
  .next (streamResult s (streamCommand s s.focus ctx ea (.check crc)))

/-! ## Writes of the PC and of the arbiter to site registers -/

/-- CTXARB_WRITE (R43, R45). -/
def execCtxarbWrite (site : BitVec 13) (v : BitVec 32) (s : State) : Result :=
  if siteExists site then .next (if 2 ^ 20 ≤ v.toNat then s else writeCtxarb s site v) else .fault .noSuchUnit

/-- RTLOG_CLEAR (R89, Table 3-4). -/
def execRtlogClear (site : BitVec 13) (s : State) : Result :=
  if siteExists site then .next (clearRtlog s site) else .fault .noSuchUnit

/-- ERRCNT_CLEAR (R216). -/
def execErrcntClear (ea : BitVec 16) (s : State) : Result :=
  if eaExists ea then .next (clearErrcnt s ea) else .fault .noSuchUnit

/-- II_COUNTER_CLEAR (R257): a page of an MT is that of one AGN. -/
def execIiCounterClear (ea : BitVec 16) (ctx : BitVec 2) (agn : BitVec 2) (s : State) : Result :=
  if eaExists ea then
    .next (s.modElem ea ctx (fun e => clearIi e (if eaElem ea = 0 && siteIsMt (eaSite ea) then agn.toNat else 0)))
  else .fault .noSuchUnit

/-- MTCFG_WRITE (R94): by the PC. -/
def execMtcfgWrite (site : BitVec 13) (v : BitVec 32) (s : State) : Result :=
  if siteExists site && siteIsMt site then .next (if (checkMt true false 0 45 v.toNat).isSome then s else writeMtcfg s site v)
  else .fault .noSuchUnit

/-- BANK_RETIRE_COMMAND (R213). -/
def execBankRetireCommand (site : BitVec 13) (v : BitVec 32) (s : State) : Result :=
  if siteExists site && siteIsMt site then .next (if (checkParity 5 v.toNat).isSome then s else writeParity s site 5 v)
  else .fault .noSuchUnit

/-- AXOLOTL_COUNTER_CLEAR (R213). -/
def execAxolotlCounterClear (site : BitVec 13) (v : BitVec 32) (s : State) : Result :=
  if siteExists site && siteIsMt site then .next (if (checkParity 17 v.toNat).isSome then s else writeParity s site 17 v)
  else .fault .noSuchUnit

/-! ## Adaptive weights (R45) -/

/-- WINCODE, ADAPT of CTXARB. -/
def ctxAdapt (a : Word) : Bool := bitSet a.toNat 16
def ctxWindow (a : Word) : Nat := 256 * 2 ^ bits a.toNat 17 3

/-- clamp(1, 15, round(15 × occ / max)), halves up; occupancies as sums over one window. -/
def adaptWeight (occ top : Nat) : Nat := max 1 (min 15 ((2 * 15 * occ + top) / (2 * top)))

/-- ADAPT_WINDOW (R45): when a window has run its length, enabled contexts take weights by their occupancy. -/
def adaptAt (s : State) (site : SiteNo) : State :=
  let t := s.site site
  if !ctxAdapt t.ctxarb ∨ s.time < t.occStart + ctxWindow t.ctxarb then s
  else
    let cs : List (BitVec 2) := [0, 1, 2, 3]
    let on := cs.filter (fun c => ctxWeight t.ctxarb c != 0)
    let occ := fun (c : BitVec 2) => tabGet t.occ c.toNat 0
    let top := on.foldl (fun m c => max m (occ c)) 0
    if top = 0 then s.setSite site { t with occ := [], occStart := s.time }
    else
      let w := fun (c : BitVec 2) => if on.contains c then adaptWeight (occ c) top else ctxWeight t.ctxarb c
      let a := BitVec.ofNat 32 (t.ctxarb.toNat / 65536 * 65536 + w 0 + 16 * w 1 + 256 * w 2 + 4096 * w 3)
      s.setSite site
        { t with ctxarb := a, occ := [], occStart := s.time
                 credit := cs.foldl (fun (cr : Tab Nat) c => tabMod cr c.toNat 0 (fun x => min x (w c))) t.credit }

/-- ADAPT_WINDOW. -/
def execAdaptWindow (site : BitVec 13) (s : State) : Result :=
  if siteExists site then .next (adaptAt s site) else .fault .noSuchUnit

end Sys2Proof.Machine
end

