-- ==== Sys2Proof/Machine/Sha.lean ====
section
/-! DEFINITION. Machine/Sha.lean: SHA-512 (FIPS 180-4), which manifests, measurements, sealing and the crypto engine use
(R171, R178, R273), and RSASSA-PKCS1-v1_5 verification with SHA-512 (RFC 8017; R273, R432). -/

namespace Sys2Proof.Machine

/-! ## SHA-512 -/

/-- Round constants, first to last. -/
def shaK : List DWord :=
  [0x428a2f98d728ae22#64, 0x7137449123ef65cd#64, 0xb5c0fbcfec4d3b2f#64, 0xe9b5dba58189dbbc#64,
    0x3956c25bf348b538#64, 0x59f111f1b605d019#64, 0x923f82a4af194f9b#64, 0xab1c5ed5da6d8118#64,
    0xd807aa98a3030242#64, 0x12835b0145706fbe#64, 0x243185be4ee4b28c#64, 0x550c7dc3d5ffb4e2#64,
    0x72be5d74f27b896f#64, 0x80deb1fe3b1696b1#64, 0x9bdc06a725c71235#64, 0xc19bf174cf692694#64,
    0xe49b69c19ef14ad2#64, 0xefbe4786384f25e3#64, 0x0fc19dc68b8cd5b5#64, 0x240ca1cc77ac9c65#64,
    0x2de92c6f592b0275#64, 0x4a7484aa6ea6e483#64, 0x5cb0a9dcbd41fbd4#64, 0x76f988da831153b5#64,
    0x983e5152ee66dfab#64, 0xa831c66d2db43210#64, 0xb00327c898fb213f#64, 0xbf597fc7beef0ee4#64,
    0xc6e00bf33da88fc2#64, 0xd5a79147930aa725#64, 0x06ca6351e003826f#64, 0x142929670a0e6e70#64,
    0x27b70a8546d22ffc#64, 0x2e1b21385c26c926#64, 0x4d2c6dfc5ac42aed#64, 0x53380d139d95b3df#64,
    0x650a73548baf63de#64, 0x766a0abb3c77b2a8#64, 0x81c2c92e47edaee6#64, 0x92722c851482353b#64]
  ++ [0xa2bfe8a14cf10364#64, 0xa81a664bbc423001#64, 0xc24b8b70d0f89791#64, 0xc76c51a30654be30#64,
    0xd192e819d6ef5218#64, 0xd69906245565a910#64, 0xf40e35855771202a#64, 0x106aa07032bbd1b8#64,
    0x19a4c116b8d2d0c8#64, 0x1e376c085141ab53#64, 0x2748774cdf8eeb99#64, 0x34b0bcb5e19b48a8#64,
    0x391c0cb3c5c95a63#64, 0x4ed8aa4ae3418acb#64, 0x5b9cca4f7763e373#64, 0x682e6ff3d6b2b8a3#64,
    0x748f82ee5defb2fc#64, 0x78a5636f43172f60#64, 0x84c87814a1f0ab72#64, 0x8cc702081a6439ec#64,
    0x90befffa23631e28#64, 0xa4506cebde82bde9#64, 0xbef9a3f7b2c67915#64, 0xc67178f2e372532b#64,
    0xca273eceea26619c#64, 0xd186b8c721c0c207#64, 0xeada7dd6cde0eb1e#64, 0xf57d4f7fee6ed178#64,
    0x06f067aa72176fba#64, 0x0a637dc5a2c898a6#64, 0x113f9804bef90dae#64, 0x1b710b35131c471b#64,
    0x28db77f523047d84#64, 0x32caab7b40c72493#64, 0x3c9ebe0a15c9bebc#64, 0x431d67c49c100d4c#64,
    0x4cc5d4becb3e42b6#64, 0x597f299cfc657e2a#64, 0x5fcb6fab3ad6faec#64, 0x6c44198c4a475817#64]

/-- The initial hash value. -/
def shaInit : List DWord :=
  [0x6a09e667f3bcc908#64, 0xbb67ae8584caa73b#64, 0x3c6ef372fe94f82b#64, 0xa54ff53a5f1d36f1#64,
    0x510e527fade682d1#64, 0x9b05688c2b3e6c1f#64, 0x1f83d9abfb41bd6b#64, 0x5be0cd19137e2179#64]

/-- Rotate right. -/
def rotr (x : DWord) (n : Nat) : DWord := (x >>> n) ||| (x <<< (64 - n))

/-- Word t of the message schedule from the last sixteen words, newest first. -/
def shaNext (l : List DWord) : DWord :=
  let at_ := fun (i : Nat) => l.getD i 0
  let s0 := fun (x : DWord) => rotr x 1 ^^^ rotr x 8 ^^^ (x >>> 7)
  let s1 := fun (x : DWord) => rotr x 19 ^^^ rotr x 61 ^^^ (x >>> 6)
  s1 (at_ 1) + at_ 6 + s0 (at_ 14) + at_ 15

/-- Extend the schedule by n words, newest first. -/
def shaSchedule : Nat → List DWord → List DWord
  | 0, l => l
  | n + 1, l => shaSchedule n (shaNext l :: l)

/-- One round over the working variables a to h. -/
def shaRound (v : List DWord) (kw : DWord) : List DWord :=
  match v with
  | [a, b, c, d, e, f, g, h] =>
    let t1 := h + (rotr e 14 ^^^ rotr e 18 ^^^ rotr e 41) + ((e &&& f) ^^^ (~~~e &&& g)) + kw
    let t2 := (rotr a 28 ^^^ rotr a 34 ^^^ rotr a 39) + ((a &&& b) ^^^ (a &&& c) ^^^ (b &&& c))
    [t1 + t2, a, b, c, d + t1, e, f, g]
  | _ => v

/-- Take one block of 16 words. -/
def shaBlock (h : List DWord) (m : List DWord) : List DWord :=
  let w := (shaSchedule 64 m.reverse).reverse
  let v := ((shaK.zip w).map (fun p => p.1 + p.2)).foldl shaRound h
  (h.zip v).map (fun p => p.1 + p.2)

/-- Big-endian bytes as a number. -/
def beNat (l : List Byte) : Nat := l.foldl (fun acc b => acc * 256 + b.toNat) 0

/-- The low n bytes of a number, most significant first. -/
def beBytes (n x : Nat) : List Byte := (natToBytes n x).reverse

/-- Cut a list into pieces of k. -/
def pieces {α : Type} (k : Nat) : Nat → List α → List (List α)
  | 0, _ => []
  | n + 1, l => if l.isEmpty then [] else l.take k :: pieces k n (l.drop k)

/-- The padded message. -/
def shaPad (l : List Byte) : List Byte :=
  let z := (111 + 128 - l.length % 128) % 128
  l ++ [0x80#8] ++ List.replicate z 0#8 ++ beBytes 16 (8 * l.length)

/-- The 64 digest bytes of a message, byte 0 first. -/
def sha512 (l : List Byte) : List Byte :=
  let p := shaPad l
  let blocks := pieces 128 (p.length / 128) p
  let h := blocks.foldl (fun h b => shaBlock h ((pieces 8 16 b).map (fun w => BitVec.ofNat 64 (beNat w)))) shaInit
  h.flatMap (fun w => beBytes 8 w.toNat)

/-- A digest as a line: byte 0 in the lowest bits. -/
def digestLine (l : List Byte) : Line := BitVec.ofNat 512 (bytesToNat l)

/-! ## RSASSA-PKCS1-v1_5 -/

/-- x ^ e mod n, by squaring over the 64 bits of e. -/
def powMod (n : Nat) : Nat → Nat → Nat → Nat
  | 0, _, _ => 1 % n
  | k + 1, x, e => if e % 2 = 1 then x * powMod n k (x * x % n) (e / 2) % n else powMod n k (x * x % n) (e / 2)

/-- DigestInfo prefix of SHA-512. -/
def sha512Prefix : List Byte :=
  [0x30, 0x51, 0x30, 0x0d, 0x06, 0x09, 0x60, 0x86, 0x48, 0x01, 0x65, 0x03, 0x04, 0x02, 0x03, 0x05, 0x00, 0x04, 0x40]

/-- The encoded message of 512 bytes that a signature must open to. -/
def pkcs1Encode (digest : List Byte) : List Byte :=
  [0x00#8, 0x01#8] ++ List.replicate (512 - 3 - 19 - 64) 0xFF#8 ++ [0x00#8] ++ sha512Prefix ++ digest

/-- A signature verifies against a digest under a modulus and exponent. -/
def rsaVerifies (modulus exponent sig : Nat) (digest : List Byte) : Bool :=
  decide (0 < modulus) && decide (sig < modulus)
    && powMod modulus 64 sig exponent == beNat (pkcs1Encode digest)

/-- The public exponent of keys that are named by their modulus alone (log entry 18). -/
def rsaExponent : Nat := 65537

end Sys2Proof.Machine
end

