-- ==== Sys2Proof/Machine/Graph.lean ====
section
/-! DEFINITION. Machine/Graph.lean: graph objects (R269 to R273), the checks the mapper makes of them before it places them
(R47, R48, R108, R154, R270 to R273, R396), and placed configurations with their relocation and parameters (R272, R274, R275). -/

namespace Sys2Proof.Machine

/-! ## The graph object -/

/-- A node record (Table 12-3). -/
structure GNode where
  word  : DWord
  ekind : Nat
  bind  : Nat
  pf    : Bool
  side  : Bool
  /-- in a member marked last (R186) -/
  last  : Bool
  /-- chain number from 1, or 0 (R265) -/
  chain : Nat
  grp   : Nat
  mem   : Nat
  ii    : Nat
  /-- reserved bits or EKIND or BIND out of range: the failing byte -/
  bad   : Option Nat

/-- An edge record (R271). -/
structure GEdge where
  prod  : Nat
  pport : Nat
  cons  : Nat
  cport : Nat
  kind  : Nat
  init  : Nat
  depth : Nat
  pool  : Nat
  bad   : Bool
deriving DecidableEq

/-- A parameter descriptor entry (R272). -/
structure GParam where
  node : Nat
  tgt  : Nat
  reg  : Nat
  src  : Nat
  off  : Nat
  len  : Nat

/-- A graph object as read. -/
structure Graph where
  nodes  : List GNode
  edges  : List GEdge
  pool   : List (List Byte)
  params : List GParam
  mfew   : Nat
  digest : List Byte
  sig    : List Byte
  keyid  : DWord
  hash   : List Byte

/-- n bytes from an offset. -/
def slice (l : List Byte) (off n : Nat) : List Byte := (l.drop off).take n

/-- A little-endian number in a byte list. -/
def numAt (l : List Byte) (off n : Nat) : Nat := bytesToNat (slice l off n)

/-- Bytes padded to a multiple of 64. -/
def pad64 (n : Nat) : Nat := (n + 63) / 64 * 64

/-- Offsets of the sections of an object from its header: nodes, edges, pool, parameters, placement, symbols, manifest. -/
def sectionsOf (h : List Byte) : List Nat :=
  let sizes := [16 * numAt h 8 4, 12 * numAt h 12 4, 80 * numAt h 16 4, 16 * numAt h 20 4, 8 * numAt h 24 4, numAt h 28 4]
  sizes.foldl (fun l n => l ++ [l.getLastD 0 + pad64 n]) [64]

/-- Bytes of the whole object, from its header. -/
def objectSize (h : List Byte) : Nat := (sectionsOf h).getLastD 64 + 640

/-- Read a node record. -/
def nodeOfBytes (l : List Byte) : GNode :=
  let w := BitVec.ofNat 64 (numAt l 0 8)
  let ek := numAt l 8 1
  let b9 := numAt l 9 1
  let b10 := numAt l 10 1
  let b14 := numAt l 14 2
  let bind := bits b9 3 2
  { word := w, ekind := ek, bind := bind, pf := bitSet b9 5, side := bitSet b10 2, last := bitSet b10 3, chain := if bitSet b10 0 then numAt l 12 2 else 0, grp := b14 % 256, mem := bits b14 8 3, ii := numAt l 11 1
    bad := firstFail [
      must (decide (1 ≤ ek) && decide (ek ≤ 3)) 8,
      must (bind != 3 && (ek == 3 || bits b9 3 5 == 0)) 9,
      must (b10 / 16 == 0) 10,
      must (bits b14 11 5 == 0) 14] }

/-- Read an edge record. -/
def edgeOfBytes (l : List Byte) : GEdge :=
  let b8 := numAt l 8 1
  { prod := numAt l 0 3, pport := numAt l 3 1, cons := numAt l 4 3, cport := numAt l 7 1, kind := b8 % 4, init := bits b8 2 4,
    depth := numAt l 9 1, pool := numAt l 10 2, bad := b8 / 64 != 0 || decide (8 < bits b8 2 4) || decide (64 < numAt l 9 1) }

/-- Read a parameter descriptor entry. -/
def paramOfBytes (l : List Byte) : GParam :=
  { node := numAt l 0 4, tgt := numAt l 4 1, reg := numAt l 5 1, src := numAt l 6 2, off := numAt l 8 4, len := numAt l 12 4 }

/-- The object that bytes hold. -/
def graphOfBytes (l : List Byte) : Graph :=
  let s := sectionsOf l
  let at_ := fun (i : Nat) => s.getD i 0
  let recs := fun (i size n : Nat) => (List.range n).map (fun k => slice l (at_ i + size * k) size)
  let m := at_ 6
  { nodes := (recs 0 16 (numAt l 8 4)).map nodeOfBytes
    edges := (recs 1 12 (numAt l 12 4)).map edgeOfBytes
    pool := recs 2 80 (numAt l 16 4)
    params := (recs 3 16 (numAt l 20 4)).map paramOfBytes
    mfew := numAt l 44 4
    digest := slice l m 64, sig := slice l (m + 64) 512, keyid := BitVec.ofNat 64 (numAt l (m + 576) 8), hash := slice l 48 16 }

/-- Code CLS * 64 + OP of a node. -/
def GNode.code (n : GNode) : Nat := opcodeOf n.word

/-- IMM of a node. -/
def GNode.imm (n : GNode) : Nat := n.word.toNat % 2 ^ 32

/-- Node by number. -/
def Graph.node? (g : Graph) (n : Nat) : Option GNode := g.nodes[n]?

/-- Opcode of a node number; 512 when there is none. -/
def Graph.codeOf (g : Graph) (n : Nat) : Nat := (g.node? n).elim 512 GNode.code

/-! ## Manifest (R273) -/

/-- DIGEST, HASH and SIG agree with the object, under a key the partition has enrolled. -/
def manifestOk (l : List Byte) (g : Graph) (keys : List (DWord × BitVec 4096)) : Bool :=
  let m := (sectionsOf l).getLastD 0
  let body := l.take m
  let zeroed := body.take 48 ++ List.replicate 16 0#8 ++ body.drop 64
  match keys.find? (fun k => k.1 == g.keyid) with
  | none => false
  | some k => sha512 zeroed == g.digest && g.hash == g.digest.take 16
      && rsaVerifies k.2.toNat rsaExponent (beNat g.sig) g.digest

/-! ## Record checks: MAP reason 10 -/

/-- Class of an opcode fits the element kind of its node. -/
def ekindFits (n : GNode) : Bool :=
  match n.code / 64 with
  | 4 => n.ekind == 2
  | 5 => n.ekind == 3
  | _ => n.ekind == 1

/-- The number of the failing byte of a node record, for the sub-field node × 64 + field (log entry 14). -/
def nodeBad (g : Graph) (i : Nat) (n : GNode) : Option Nat :=
  firstFail [n.bad,
    must ((entryOf n.code).isSome && ekindFits n) 7,
    must (n.code != 327 || n.bind == 0) 9,
    must (n.code != 326 || n.bind == 2) 9,
    -- a memory node with neither an address edge nor a base parameter (R436)
    must (n.ekind != 3 || g.edges.any (fun e => e.cons == i && e.cport == 0) || g.params.any (fun p => p.node == i && p.tgt == 4)) 0]

/-- The chain that an edge enters or stays in; none for an edge into no chain. -/
def chainInto (g : Graph) (e : GEdge) : Option Nat :=
  match g.node? e.cons with
  | some n => if n.chain = 0 then none else some n.chain
  | none => none

/-- Both ends of an edge stand in one chain: it takes no port (R265). -/
def chained (g : Graph) (e : GEdge) : Bool :=
  match g.node? e.prod with
  | some n => n.chain != 0 && chainInto g e == some n.chain
  | none => false

/-- Two edges may leave one output port: of a `fork`, or into one chain that reads an edge several times (R437), or when one of
them stays in its chain. -/
def mayShareOutput (g : Graph) (e f : GEdge) : Bool :=
  g.codeOf e.prod == 260 || ((chainInto g e).isSome && chainInto g e == chainInto g f) || chained g e || chained g f

/-- An edge record is malformed (R271). -/
def edgeBad (g : Graph) (i : Nat) (e : GEdge) : Bool :=
  let n := g.nodes.length
  e.bad || e.kind == 3 || decide (n ≤ e.prod) || decide (n ≤ e.cons) || decide (3 < e.pport) || decide (3 < e.cport)
    || decide (g.pool.length < e.pool + e.init)
    || (e.init != 0 && e.kind != 0)
    || (g.edges.take i).any (fun f => (f.cons == e.cons && f.cport == e.cport)
        || (f.prod == e.prod && f.pport == e.pport && !mayShareOutput g e f))

/-- A parameter entry is malformed. -/
def paramBad (g : Graph) (p : GParam) : Bool :=
  -- SRC, with the zero byte after it, and the pool entry it copies from
  decide (1 < p.src) || (p.src == 1 && (decide (g.pool.length ≤ p.off) || decide (80 < p.len))) ||
  match p.tgt with
  | 1 => decide (g.nodes.length ≤ p.node) || p.len != 4 || p.reg != 0
  | 2 => decide (g.pool.length ≤ p.node) || decide (80 < p.len) || p.reg != 0
  | 3 => decide (g.nodes.length ≤ p.node) || decide (7 < p.reg) || decide (80 < p.len)
  | 4 => decide (g.nodes.length ≤ p.node) || p.len != 8 || p.reg != 0
  | 5 => g.codeOf p.node != 386 || p.len != 8 || p.reg != 0
  | _ => true

/-- The sub-field of the first record that fails. -/
def recordsBad (g : Graph) : Option Nat :=
  match g.nodes.zipIdx.findSome? (fun p => (nodeBad g p.2 p.1).map (fun f => 64 * p.2 + f)) with
  | some sub => some sub
  | none =>
    match g.edges.zipIdx.find? (fun p => edgeBad g p.2 p.1) with
    | some p => some (64 * p.1.prod)
    | none =>
      match g.params.find? (paramBad g) with
      | some p => some (64 * p.node)
      -- bytes 66 to 79 of a pool entry are zero
      | none => if g.pool.any (fun e => (e.drop 66).any (· != 0)) then some 0 else none

/-! ## Cycles: condition 1 of R47 -/

/-- Data and control edges. -/
def Graph.flow (g : Graph) : List GEdge := g.edges.filter (fun e => e.kind != 2)

/-- Paths that start at a node and come back to it without meeting a node twice, as lists of edges, newest first. -/
def cyclesFrom (g : Graph) (start : Nat) : Nat → List GEdge → Nat → List (List GEdge)
  | 0, _, _ => []
  | n + 1, path, at_ =>
    g.flow.flatMap (fun e =>
      if e.prod ≠ at_ then []
      else if e.cons = start then [e :: path]
      else if e.cons < start ∨ path.any (fun f => f.prod == e.cons) then []
      else cyclesFrom g start n (e :: path) e.cons)

/-- Every directed cycle, once, from its lowest node. -/
def Graph.cycles (g : Graph) : List (List GEdge) :=
  (List.range g.nodes.length).flatMap (fun v => cyclesFrom g v g.nodes.length [] v)

/-- An edge returns to a loop operator as condition 1 requires: `out` is the edge by which the cycle leaves the node. -/
def closesLoop (g : Graph) (e out : GEdge) : Bool :=
  match g.codeOf e.cons with
  | 258 => e.cport == 1 || e.cport == 3
  | 259 => e.cport == 3
  | 267 => (g.node? e.cons).elim false (fun n => n.imm % 8 != 0) && e.cport / 2 == out.pport
  | _ => false

/-- Loop operators that count for a cycle. -/
def loopCount (g : Graph) (c : List GEdge) : Nat :=
  (c.filter (fun e => (c.find? (fun f => f.prod == e.cons)).elim false (closesLoop g e))).length

/-- Condition 1 fails: the count found. -/
def cycleBad (g : Graph) : Option Nat := (g.cycles.find? (fun c => loopCount g c != 1)).map (loopCount g)

/-! ## Steers: condition 2 of R47 -/

/-- The producer port a control stream comes from, behind any `fork`. -/
def controlOrigin (g : Graph) : Nat → Nat → Option (Nat × Nat)
  | 0, _ => none
  | n + 1, v =>
    match g.edges.find? (fun e => e.cons == v && e.cport == 3 && e.kind == 1) with
    | none => none
    | some e => back g n e
where
  /-- Follow `fork`s back. -/
  back (g : Graph) : Nat → GEdge → Option (Nat × Nat)
    | 0, e => some (e.prod, e.pport)
    | n + 1, e =>
      if g.codeOf e.prod = 260 then
        match g.edges.find? (fun f => f.cons == e.prod) with
        | some f => back g n f
        | none => some (e.prod, e.pport)
      else some (e.prod, e.pport)

/-- Outputs of steers from which tokens descend along data edges to the edges of a list. -/
def steersAbove (g : Graph) : Nat → List Nat → List GEdge → List (Nat × Nat)
  | 0, _, _ => []
  | n + 1, seen, es =>
    es.flatMap (fun e =>
      let here := if g.codeOf e.prod = 256 then [(e.prod, e.pport)] else []
      if seen.contains e.prod then here
      else here ++ steersAbove g n (e.prod :: seen) (g.edges.filter (fun f => f.cons == e.prod && f.kind == 0)))

/-- Two steers are twins: their control streams are copies of one. -/
def twins (g : Graph) (a b : Nat) : Bool := a == b || (controlOrigin g g.nodes.length a).isSome
  && controlOrigin g g.nodes.length a == controlOrigin g g.nodes.length b

/-- Data edges into a node. -/
def dataInto (g : Graph) (v : Nat) : List GEdge := g.edges.filter (fun e => e.cons == v && e.kind == 0)

/-- Tokens of opposite outputs of twins meet at two data inputs. -/
def meetsTwins (g : Graph) (a b : GEdge) : Bool :=
  let n := g.nodes.length
  let x := steersAbove g n [a.cons] [a]
  let y := steersAbove g n [b.cons] [b]
  x.any (fun p => y.any (fun q => twins g p.1 q.1 && p.2 != q.2))

/-- A `merge` takes the two outputs of one `steer` under that steer's control stream. -/
def mergeOk (g : Graph) (v : Nat) : Bool :=
  match dataInto g v with
  | [a, b] =>
    let n := g.nodes.length
    let x := steersAbove g n [v] [a]
    let y := steersAbove g n [v] [b]
    x.any (fun p => y.any (fun q => p.1 == q.1 && p.2 != q.2
      && controlOrigin g n v == controlOrigin g n p.1 && (controlOrigin g n v).isSome))
  | _ => false

/-- Operators that may take tokens of opposite outputs: a `merge`, a `kelp` at its returns, a `carry` at its back edge. -/
def mayMeet (g : Graph) (v : Nat) (a b : GEdge) : Bool :=
  match g.codeOf v with
  | 257 => true
  | 267 => true
  | 258 => a.cport == 1 || b.cport == 1
  | _ => false

/-- Condition 2 fails: the number of an edge at the operator where it does. -/
def steerBad (g : Graph) : Option Nat :=
  (List.range g.nodes.length).findSome? (fun v =>
    let es := g.edges.zipIdx.filter (fun p => p.1.cons == v && p.1.kind == 0)
    if g.codeOf v = 257 ∧ !mergeOk g v then some ((es.head?.map (·.2)).getD 0)
    else (es.find? (fun p => (es.takeWhile (fun q => q.2 != p.2)).any (fun q =>
      !mayMeet g v q.1 p.1 && meetsTwins g q.1 p.1))).map (·.2))

/-! ## Side effects and stream addresses: reasons 11 and 12 -/

/-- A scratchpad `atom`, or a `probe` that writes, without its flag (R154, R396). -/
def sideBad (g : Graph) : Option Nat :=
  (g.nodes.zipIdx.find? (fun p => !p.1.side
    && ((p.1.code == 325 && p.1.bind != 2) || (p.1.code == 327 && p.1.imm % 4 != 0)))).map (·.2)

/-- The edges whose payloads an operator hands on unchanged at an output; none when it computes them (R108). -/
def carriedFrom (g : Graph) (v port : Nat) : Option (List GEdge) :=
  let into := fun (ports : List Nat) => g.edges.filter (fun e => e.cons == v && e.kind == 0 && ports.contains e.cport)
  match g.codeOf v with
  | 256 => some (into [0])
  | 257 => some (into [0, 1])
  | 258 => some (into [0, 1])
  | 259 => some (into [0])
  | 260 => some (into [0])
  | 262 => some (into [0])
  | 266 => if port = 1 then some (into [0]) else none
  | 267 => some ((g.nodes.zipIdx.filter (fun p => p.1.code == 267 && (g.node? v).elim false (fun n => p.1.grp == n.grp))).flatMap
      (fun p => g.edges.filter (fun e => e.cons == p.2 && e.kind == 0)))
  | 268 => some ((g.nodes.zipIdx.filter (fun p => p.1.code == 267 && (g.node? v).elim false (fun n => p.1.grp == n.grp))).flatMap
      (fun p => g.edges.filter (fun e => e.cons == p.2 && e.kind == 0)))
  | 270 => if port = 0 then some (into [0]) else none
  | _ => none

/-- Every payload of these edges comes from an `xlat`. -/
def fedByXlat (g : Graph) : Nat → List Nat → List GEdge → Bool
  | 0, _, _ => false
  | n + 1, seen, es =>
    es.all (fun e => e.init == 0 && (g.codeOf e.prod == 326 || seen.contains e.prod ||
      match carriedFrom g e.prod e.pport with
      | none => false
      | some fs => !fs.isEmpty && fedByXlat g n (e.prod :: seen) fs))

/-- A STREAM node whose address input is not fed by `xlat`. -/
def streamBad (g : Graph) : Option Nat :=
  (g.nodes.zipIdx.find? (fun p => p.1.ekind == 3 && p.1.bind == 2 && p.1.code != 326 && p.1.code / 64 == 5 &&
    (let es := g.edges.filter (fun e => e.cons == p.2 && e.cport == 0 && e.kind == 0)
     es.isEmpty || !fedByXlat g (g.nodes.length + 1) [] es))).map (·.2)

/-! ## What a graph says of its tasks -/

/-- Some node is flagged side-effecting: its tasks are irrevocable (R154). -/
def Graph.sideEffects (g : Graph) : Bool := g.nodes.any (·.side)

/-- A node that synchronises across the tasks of a launch with dispatch level d (R155). -/
def joins (d : Nat) (n : GNode) : Bool :=
  let level := match n.code with
    | 388 => some (bits n.imm 12 3)
    | 389 => some (bits n.imm 12 3)
    | 390 => some (bits n.imm 12 3)
    | 325 => if bitSet n.imm 7 then some (bits n.imm 4 3) else none
    | _ => none
  level.elim false (fun k => k == 7 || (decide (1 ≤ k) && decide (k ≤ d)))

/-- The graph makes its launch joined. -/
def Graph.joined (g : Graph) (d : Nat) : Bool := g.nodes.any (joins d)

/-- A barrier node of a graph (Table 15-5): node number, base object, level, XARR, and whether it makes arrivals. -/
structure BarNode where
  node    : Nat
  obj     : Nat
  level   : Nat
  xarr    : Nat
  arrives : Bool

/-- The barrier nodes of a graph. -/
def Graph.barriers (g : Graph) : List BarNode :=
  g.nodes.zipIdx.filterMap (fun p =>
    let n := p.1
    if n.code = 388 ∨ n.code = 389 ∨ n.code = 390 then
      some { node := p.2, obj := n.imm % 2 ^ 12, level := bits n.imm 12 3, xarr := bits n.imm 16 8, arrives := n.code != 390 }
    else none)

/-! ## Placed configurations (R274, R275) -/

/-- A .ozc as read. -/
structure Placement where
  rows   : Nat
  cols   : Nat
  drow   : Nat
  dcol   : Nat
  relocs : List (Nat × Nat)
  words  : List Word

/-- Read a .ozc; none when its header or sections do not fit. -/
def placementOf (l : List Byte) : Option Placement :=
  let rows := numAt l 8 2
  let cols := numAt l 10 2
  let nw := numAt l 12 4
  let nr := numAt l 16 4
  let m := 128 + pad64 ((rows * cols + 7) / 8)
  let st := m + pad64 (8 * nr)
  if numAt l 0 4 ≠ 0x31435A4F ∨ numAt l 4 2 ≠ 1 ∨ l.length < st + 4 * nw then none
  else some
    { rows := rows, cols := cols, drow := numAt l 20 1, dcol := numAt l 21 1
      relocs := (List.range nr).map (fun i => (numAt l (m + 8 * i) 4, numAt l (m + 8 * i + 4) 1))
      words := (List.range nw).map (fun i => BitVec.ofNat 32 (numAt l (st + 4 * i) 4)) }

/-- Row and column offset of a region-relative element address. -/
def relRow (ea : EAddr) : Nat := 32 * (eaDie ea / 2) + eaY ea
def relCol (ea : EAddr) : Nat := 40 * (eaDie ea % 2) + eaX ea

/-- Where a region stands: origin, rotation and partition. -/
structure Frame where
  row0 : Nat
  col0 : Nat
  rho  : Nat
  part : Nat

/-- The site at an offset of a region, within the package and the partition. -/
def Frame.site (f : Frame) (s : State) (r c : Nat) : Option SiteNo :=
  if 64 ≤ f.row0 + r ∨ 80 ≤ f.col0 + c then none
  else
    let site := siteAt (f.row0 + r) (f.col0 + c)
    if partOfSite s site = f.part then some site else none

/-- A relocated element address. -/
def Frame.ea (f : Frame) (s : State) (ea : EAddr) : Option EAddr :=
  (f.site s (relRow ea) (relCol ea)).map (fun n => siteEa n (ea.extractLsb' 0 3))

/-- A relocated context; monitor channels keep theirs. -/
def Frame.ctx (f : Frame) (ea : EAddr) (ctx : BitVec 2) : BitVec 2 :=
  if eaElem ea = 2 then ctx else ctx + BitVec.ofNat 2 f.rho

/-- Column of the j-th MT column of a region whose first column stands at dcol of its die (R6). -/
def mtColumn (dcol j : Nat) : Nat := 5 * j + (9 - dcol % 5) % 5

/-- A value word as its relocation kind rewrites it. -/
def Frame.value (f : Frame) (s : State) (o : Placement) (kind : Nat) (v : Word) : Option Word :=
  let x := v.toNat
  match kind with
  | 1 => (f.ea s (v.extractLsb' 0 16)).map (fun ea => BitVec.ofNat 32 (x / 2 ^ 16 * 2 ^ 16 + ea.toNat))
  | 2 =>
    let m := bits x 21 4
    match f.site s (m / 2) (mtColumn o.dcol (m % 2)) with
    | some n =>
      if siteIsMt n && siteBlock n == siteBlock (siteAt f.row0 f.col0) then
        some (BitVec.ofNat 32 (x / 2 ^ 25 * 2 ^ 25 + siteMtIndex n * 2 ^ 21 + x % 2 ^ 21))
      else none
    | none => none
  | 3 =>
    let die := bits x 29 2
    match f.site s (32 * (die / 2) + bits x 24 5) (40 * (die % 2) + mtColumn o.dcol (bits x 21 3)) with
    | some n =>
      let nn := n.toNat
      some (BitVec.ofNat 32 (x / 2 ^ 31 * 2 ^ 31 + nn / 2048 * 2 ^ 29 + nn / 64 % 32 * 2 ^ 24 + nn % 64 / 5 * 2 ^ 21 + x % 2 ^ 21))
    | none => none
  | _ => none

/-- One command of an image: context, element address, first field and values; no values stand for a CHECK. -/
abbrev ImageCmd := BitVec 2 × EAddr × Nat × List Word

/-- Field numbers that the loader must not find in a .ozc: site-wide registers (R275, R282). -/
def siteWideAt (ea : EAddr) (field n : Nat) : Bool :=
  let lo := if eaElem ea = 1 then 45 else 44
  eaElem ea != 2 && decide (field ≤ 46) && decide (lo < field + n)

/-- Relocate the stream of a .ozc: none where R275 stops the load. -/
def relocate (f : Frame) (s : State) (o : Placement) : Nat → Nat → List Word → Option (List ImageCmd)
  | 0, _, ws => if ws.isEmpty then some [] else none
  | _ + 1, _, [] => some []
  | n + 1, i, w :: rest =>
    let k := commandLength w
    let vals := rest.take k
    let ea := w.extractLsb' 12 16
    let ctx := w.extractLsb' 28 2
    let field := (w.extractLsb' 6 6).toNat
    let vals' := vals.zipIdx.foldr (fun p acc =>
      match acc with
      | none => none
      | some l =>
        match o.relocs.find? (fun q => q.1 == i + 1 + p.2) with
        | some q => (f.value s o q.2 p.1).map (fun v => v :: l)
        | none => some (p.1 :: l)) (some [])
    if vals.length < k ∨ eaElem ea = 3 then none
    else
      match f.ea s ea, vals', relocate f s o n (i + 1 + k) (rest.drop k) with
      | some ea', some vs, some more =>
        match (w.extractLsb' 30 2).toNat with
        | 2 => none
        | 3 => some (if field = 2 then (f.ctx ea ctx, ea', 2, []) :: more else more)
        | kind => if siteWideAt ea field k then none
                  else some ((f.ctx ea ctx, ea', if kind = 0 then field + 64 else field, vs) :: more)
      | _, _, _ => none

/-! ## Parameters (R272) -/

/-- A byte list as value words. -/
def wordsOfBytes (n : Nat) (l : List Byte) : List Word := (List.range n).map (fun i => BitVec.ofNat 32 (numAt l (4 * i) 4))

/-- The bytes an entry copies: from the parameter block or from a pool entry. -/
def paramBytes (pool : List (List Byte)) (block : Nat → Nat → List Byte) (p : GParam) : List Byte :=
  if p.src = 0 then block p.off p.len else (pool.getD p.off []).take p.len

/-- Replace the first bytes of a list. -/
def overwrite (l new : List Byte) : List Byte := new ++ l.drop new.length

/-- The pool after the entries of TGT 2. -/
def poolWith (g : Graph) (block : Nat → Nat → List Byte) : List (List Byte) :=
  (g.params.filter (fun p => p.tgt == 2)).foldl (fun pool p =>
    pool.set p.node (overwrite (pool.getD p.node []) (paramBytes pool block p))) g.pool

/-- First field of the word of an operator number: stage, slot or AGN. -/
def operatorField (op : Nat) : Nat := if op < 16 then 2 * op else if op < 32 then 20 + 3 * (op - 16) else 2 * (op - 32)

/-- Commands that give register k a payload and mask: the payload page, then the sideband words (R283). -/
def kCommands (ctx : BitVec 2) (ea : EAddr) (k : Nat) (bytes : List Byte) : List ImageCmd :=
  let pay := overwrite (List.replicate 64 0#8) (bytes.take 64)
  let mask := if 64 < bytes.length then numAt bytes 64 2 else 2 ^ ((min 64 bytes.length + 3) / 4) - 1
  [(ctx, ea, 47, BitVec.ofNat 32 k :: wordsOfBytes 16 pay),
   (ctx, ea, 47, [BitVec.ofNat 32 (8 + k / 4)]),
   (ctx, ea, 48 + 4 * (k % 4), [BitVec.ofNat 32 mask, 0, 0, 0])]

/-- Commands of one parameter entry at the place of its node. -/
def paramCommands (f : Frame) (s : State) (places : List (Nat × Nat)) (pool : List (List Byte)) (block : Nat → Nat → List Byte)
    (p : GParam) : Option (List ImageCmd) :=
  match places[p.node]? with
  | none => none
  | some (key, op) =>
    match f.ea s (keyEa key) with
    | none => none
    | some ea =>
      let ctx := f.ctx (keyEa key) (keyCtx key)
      let bytes := paramBytes pool block p
      let cmds : List ImageCmd := match p.tgt with
        | 1 => [(ctx, ea, operatorField op, wordsOfBytes 1 bytes)]
        | 3 => kCommands ctx ea p.reg bytes
        | 4 => [(ctx, ea, 12 + 4 * (op - 32), wordsOfBytes 2 bytes)]
        | 5 => [(ctx, ea, 19, wordsOfBytes 2 bytes)]
        | _ => []
      some (if cmds.isEmpty then [] else cmds ++ [(ctx, ea, 2, [])])

/-- All commands of a list of entries. -/
def allParams (f : Frame) (s : State) (places : List (Nat × Nat)) (pool : List (List Byte)) (block : Nat → Nat → List Byte) :
    List GParam → Option (List ImageCmd)
  | [] => some []
  | p :: rest =>
    match paramCommands f s places pool block p, allParams f s places pool block rest with
    | some a, some b => some (a ++ b)
    | _, _ => none

/-- A pool entry as an initial token of an edge, under the edge's ROUTEID (R37). -/
def poolToken (route : Nat) (l : List Byte) : Token :=
  dataToken (BitVec.ofNat 512 (numAt l 0 64)) (BitVec.ofNat 16 (numAt l 64 2)) { Token.zero with route := BitVec.ofNat 10 route }

/-- Initial tokens of the edges at their last queues. -/
def initialTokens (f : Frame) (s : State) (g : Graph) (pool : List (List Byte)) (placed : Config.Placed) : List (Nat × Nat × Token) :=
  (g.edges.zip (placed.ends.zip placed.routes)).flatMap (fun p =>
    match f.ea s (keyEa p.2.1.1) with
    | none => []
    | some ea =>
      (List.range p.1.init).map (fun i =>
        (elemKey ea (f.ctx (keyEa p.2.1.1) (keyCtx p.2.1.1)), p.2.1.2, poolToken p.2.2 (pool.getD (p.1.pool + i) []))))

/-! ## Edge depths (R36, R47, R48) -/

/-- The depth of an edge: the largest of 2, the declared minimum and the mapper's, plus what latency equalisation adds (R36, R76). -/
def edgeDepth (g : Graph) (placed : Config.Placed) (i : Nat) (e : GEdge) : Nat :=
  max 2 (max e.depth (Config.edgeMinimum g.digest i)) + placed.delays.getD i 0

/-- The first edge whose depth exceeds 64, or what the queue, the delay buffers and the slots along its route provide (reason 3). -/
def depthBad (g : Graph) (placed : Config.Placed) : Option Nat :=
  (g.edges.zipIdx.find? (fun p =>
    let d := edgeDepth g placed p.2 p.1
    decide (64 < d) || decide (placed.rooms.getD p.2 0 < d))).map (·.2)

/-- The first edge that holds more initial tokens than its depth (reason 14). -/
def initialBad (g : Graph) (placed : Config.Placed) : Option Nat :=
  (g.edges.zipIdx.find? (fun p => decide (edgeDepth g placed p.2 p.1 < p.1.init))).map (·.2)

end Sys2Proof.Machine
end

