-- ==== Sys2Proof/Machine/Groups.lean ====
section
/-! DEFINITION. Machine/Groups.lean: what the loader checks of commute groups before it loads any configuration (R185, R186, R195, R196): MAP
reason 13 with the offending node as sub-field; and the check of a graph object as a whole (R47, R48, R172). -/

namespace Sys2Proof.Machine

/-! ## The parts of a group -/

/-- Node numbers that satisfy a condition. -/
def Graph.nodesThat (g : Graph) (f : GNode → Bool) : List Nat := (g.nodes.zipIdx.filter (fun p => f p.1)).map (·.2)

/-- A slot of a `kelp`; the head has XIDX 0 (R362). -/
def GNode.isKelp (n : GNode) : Bool := n.code == 267
def GNode.xidx (n : GNode) : Nat := n.imm % 8
/-- An exit node. -/
def GNode.isKjoin (n : GNode) : Bool := n.code == 268

/-- Group numbers of a graph. -/
def Graph.groups (g : Graph) : List Nat := ((g.nodes.map (·.grp)).filter (· != 0)).dedup

/-- Nodes of a group that make up its `kelp` and `kjoin`. -/
def Graph.groupCore (g : Graph) (grp : Nat) : List Nat := g.nodesThat (fun n => n.grp == grp && (n.isKelp || n.isKjoin))

/-- Nodes of a group's members. -/
def Graph.memberNodes (g : Graph) (grp : Nat) : List Nat := g.nodesThat (fun n => n.grp == grp && !n.isKelp && !n.isKjoin)

/-- The extension slot that serves member m, and the output of it that dispatches to m (R362). -/
def Graph.dispatchOf (g : Graph) (grp m : Nat) : Option (Nat × Nat) :=
  ((g.nodesThat (fun n => n.grp == grp && n.isKelp && n.xidx == m / 2 + 1)).head?).map (fun v => (v, m % 2))

/-- Edges that dispatch to member m. -/
def Graph.entryEdges (g : Graph) (grp m : Nat) : List GEdge :=
  match g.dispatchOf grp m with
  | none => []
  | some (v, port) => g.edges.filter (fun e => e.prod == v && e.pport == port)

/-- Members that a group dispatches to. -/
def Graph.groupMembers (g : Graph) (grp : Nat) : List Nat := (List.range 8).filter (fun m => !(g.entryEdges grp m).isEmpty)

/-- Nodes reached from a node along edges without passing a `kelp`. -/
def reachedFrom (g : Graph) : Nat → List Nat → List Nat → List Nat
  | 0, seen, _ => seen
  | n + 1, seen, front =>
    let next := ((g.edges.filter (fun e => front.contains e.prod)).map (·.cons)).filter (fun v =>
      !seen.contains v && !(g.node? v).elim true GNode.isKelp)
    if next.isEmpty then seen else reachedFrom g n (seen ++ next.dedup) next.dedup

/-- Nodes reached from member m's output. -/
def Graph.memberReach (g : Graph) (grp m : Nat) : List Nat :=
  let first := ((g.entryEdges grp m).map (·.cons)).filter (fun v => !(g.node? v).elim true GNode.isKelp)
  reachedFrom g g.nodes.length first first

/-! ## The form of a group (R185, R186) -/

/-- An edge is a return of member m: its data or control edge to the extension slot that serves it. -/
def isReturn (g : Graph) (grp m : Nat) (e : GEdge) : Bool :=
  match g.dispatchOf grp m with
  | none => false
  | some (v, port) => e.cons == v && ((e.cport == 2 * port && e.kind == 0) || (e.cport == 2 * port + 1 && e.kind == 1))

/-- The first node at which a group does not have the form of R186. -/
def groupShapeBad (g : Graph) (grp : Nat) : Option Nat :=
  let heads := g.nodesThat (fun n => n.grp == grp && n.isKelp && n.xidx == 0)
  let exts := g.nodesThat (fun n => n.grp == grp && n.isKelp && n.xidx != 0)
  let joins := g.nodesThat (fun n => n.grp == grp && n.isKjoin)
  let first := (g.nodesThat (fun n => n.grp == grp)).headD 0
  let head := heads.headD first
  let members := g.groupMembers grp
  let mine := g.memberNodes grp
  firstFail [
    -- one `kelp` and one `kjoin`, with the extension slots of its members, each once
    must (heads.length == 1) (heads.getD 1 first),
    must (joins.length == 1) (joins.getD 1 first),
    must (exts.map (fun v => (g.node? v).elim 0 GNode.xidx) == (List.range ((members.length + 1) / 2)).map (· + 1)) (exts.headD head),
    -- 1 to 8 members, numbered from 0, each with one data entry
    must (!members.isEmpty && members == List.range members.length) head,
    must (members.all (fun m => (g.entryEdges grp m).length == 1 && (g.entryEdges grp m).all (fun e => e.kind == 0))) head,
    -- each with one data and one control return
    must (members.all (fun m => (g.edges.filter (isReturn g grp m)).length == 2)) head]
  |>.or (mine.find? (fun v =>
      -- reachable from exactly one member output, which its MEM names
      (members.filter (fun m => (g.memberReach grp m).contains v)) != [(g.node? v).elim 8 (·.mem)]))
  |>.or (members.findSome? (fun m => (g.memberReach grp m).find? (fun v =>
      -- no `kelp` or `kjoin` inside a member, and nothing outside the group
      (g.node? v).elim true (fun n => n.isKjoin || n.grp != grp))))
  |>.or ((g.edges.find? (fun e =>
      -- no edge between members, none out but the returns, none in but the entry
      match g.node? e.prod, g.node? e.cons with
      | some p, some c =>
        let out := mine.contains e.prod && !(mine.contains e.cons && p.mem == c.mem) && !isReturn g grp p.mem e
        let in_ := mine.contains e.cons && !(mine.contains e.prod && p.mem == c.mem) && !(g.entryEdges grp c.mem).contains e
        out || in_
      | _, _ => false)).map (fun e => if mine.contains e.prod then e.prod else e.cons))

/-- After placing: the group's `kelp` and `kjoin` stand in one router context, which no other group has (R186). -/
def groupPlaceBad (g : Graph) (places : List (Nat × Nat)) : Option Nat :=
  let at_ := fun (v : Nat) => (places[v]?).map (·.1)
  g.groups.findSome? (fun grp =>
    let core := g.groupCore grp
    let home := (core.head?).bind at_
    (core.find? (fun v => at_ v != home)).or
      ((g.nodesThat (fun n => (n.isKelp || n.isKjoin) && n.grp != grp)).find? (fun v => at_ v == home)))

/-! ## Table 7-3 -/

/-- The result port of a memory node is connected: DST is not 7. -/
def GNode.resultUsed (n : GNode) : Bool := (OpWord.ofBits n.word).dst != 7

/-- Operators of classes 0 to 2 that write a k register of their own accord: `movk`, `wrk`, `acck`, `fsh`, `pack`, `unpack`. -/
def keepsK (code : Nat) : Bool := [129, 130, 131, 137, 138, 139].contains code

/-- An operator writes a context register. -/
def writesK (n : GNode) : Bool := keepsK n.code || (OpWord.ofBits n.word).dst == 5 || (OpWord.ofBits n.word).dst == 6

/-- An operator reads a context register. -/
def readsK (n : GNode) : Bool := keepsK n.code || (sourceWord n).contains 5
where
  /-- The source codes of a word. -/
  sourceWord (n : GNode) : List Nat := let w := OpWord.ofBits n.word; [w.sa.toNat, w.sb.toNat, w.sc.toNat]

/-- A node may stand in a member that is not marked last (Table 7-3). Classes and operators that the table does not name are not rejected
(log entry 112). -/
def memberMayHold (n : GNode) : Bool :=
  match n.code / 64 with
  | 3 => false
  | 4 => n.code != 269
  | 5 =>
    match n.code with
    | 325 => n.imm % 16 != 5 && n.imm % 16 != 6 && !n.resultUsed
    | 327 => n.imm % 4 == 0 || (n.imm % 4 == 2 && !n.resultUsed)
    | 328 => false
    | 329 => false
    | _ => true
  | 6 => !([386, 388, 389, 390, 391, 392, 393].contains n.code) && (OpWord.ofBits n.word).dst != 5 && (OpWord.ofBits n.word).dst != 6
  | _ => !writesK n

/-! ## Record-private addresses (R196) -/

/-- Where an address may come from without going further back: constants, and what `cnt` and `seqs` emit for the record. -/
def isIdentity (code : Nat) : Bool := code == 384 || code == 385 || code == 387

/-- Edges whose payloads decide what an operator puts out: its data inputs, and the control of a `merge`, which chooses between them. -/
def ancestorEdges (g : Graph) (v port : Nat) : List GEdge :=
  match carriedFrom g v port with
  | some es => es ++ (if g.codeOf v = 257 then g.edges.filter (fun e => e.cons == v && e.kind == 1) else [])
  | none => g.edges.filter (fun e => e.cons == v && e.kind != 2)

/-- Every ancestor of these edges is a constant or the record's identity, through operators that read no context register. -/
def recordPrivate (g : Graph) : Nat → List Nat → List GEdge → Bool
  | 0, _, _ => false
  | n + 1, seen, es =>
    es.all (fun e =>
      e.init == 0 && (seen.contains e.prod ||
        match g.node? e.prod with
        | none => false
        | some p =>
          isIdentity p.code ||
            ((decide (p.code / 64 < 3) && !readsK p && !writesK p || p.code / 64 == 4 && p.code != 269) &&
              recordPrivate g n (e.prod :: seen) (ancestorEdges g e.prod e.pport))))

/-- A store of a member not marked last has a record-private address: an address input, never base and stride. -/
def storeOk (g : Graph) (v : Nat) (n : GNode) : Bool :=
  if n.code = 321 ∨ n.code = 323 then
    let es := g.edges.filter (fun e => e.cons == v && e.cport == 0 && e.kind == 0)
    !es.isEmpty && !n.pf && !g.params.any (fun p => p.node == v && p.tgt == 4) && recordPrivate g (g.nodes.length + 1) [] es
  else true

/-- The first node that a member may not hold. -/
def memberBad (g : Graph) (grp : Nat) : Option Nat :=
  (g.memberNodes grp).find? (fun v =>
    match g.node? v with
    | none => false
    | some n => !n.last && !(memberMayHold n && storeOk g v n))

/-- Reason 13: the offending node of the first group that fails, a group's `kelp` or `kjoin` outside every group included. -/
def groupsBad (g : Graph) : Option Nat :=
  ((g.nodesThat (fun n => n.grp == 0 && (n.isKelp || n.isKjoin))).head?).or
    (g.groups.findSome? (fun grp => (groupShapeBad g grp).or (memberBad g grp)))

/-! ## The check of an object (R48, R172) -/

/-- The MAP reason and sub-field of an object that is turned away before it is placed. -/
def graphBad (l : List Byte) (keys : List (DWord × BitVec 4096)) : Option (Nat × Nat) :=
  let g := graphOfBytes l
  if numAt l 0 4 ≠ 0x31475A4F ∨ numAt l 4 2 ≠ 1 then some (9, numAt l 4 2)
  else if !manifestOk l g keys then some (8, 0)
  else if numAt l 6 2 ≠ 0 ∨ g.nodes.isEmpty ∨ 65535 < numAt l 16 4 ∨ 4096 < numAt l 20 4 ∨ g.nodes.length < numAt l 24 4 ∨ numAt l 28 4 % 4 ≠ 0
      ∨ g.mfew / 2 ^ 29 ≠ 0 ∨ ((slice l ((sectionsOf l).getLastD 0 + 584) 56).any (· != 0)) = true then some (10, 0)
  else
    ((recordsBad g).map (fun n => (10, n))).or <|
    ((cycleBad g).map (fun n => (1, n))).or <|
    ((steerBad g).map (fun n => (2, n))).or <|
    ((sideBad g).map (fun n => (11, n))).or <|
    ((streamBad g).map (fun n => (12, n))).or <|
    (groupsBad g).map (fun n => (13, n))

end Sys2Proof.Machine
end

