-- ==== Sys2Proof/Machine/TaskCtl.lean ====
section
/-! DEFINITION. Machine/TaskCtl.lean: tasks on the fabric: keys and order (R24, R135, R151, R155), loading a placed
configuration (R173, R438), swapping a splice successor in (R175), resetting and aborting (R147, R176), giving contexts back, and
parking of barrier objects (R249, R250). -/

namespace Sys2Proof.Machine

/-! ## Order -/

/-- A commit key: timestamp, launch ordinal, task index. -/
abbrev Key := Nat × Nat × Nat

/-- Keys compare field by field. -/
def keyLt (a b : Key) : Bool :=
  decide (a.1 < b.1) || (a.1 == b.1 && (decide (a.2.1 < b.2.1) || (a.2.1 == b.2.1 && decide (a.2.2 < b.2.2))))

/-- Key of a launch's task: late launches take the horizon's timestamp (R151), joined ones commit as one (R155). -/
def launchKey (l : Launch) (index : Nat) : Key :=
  ((l.late.getD l.tstamp).toNat, l.ord % 2 ^ 40, if l.joined then 0 else index)

/-- The launch of a task. -/
def taskLaunch (s : State) (t : Task) : Option Launch := s.launch? (t.uid / 2 ^ 32)

/-- Key(t). -/
def taskKey (s : State) (t : Task) : Key := (taskLaunch s t).elim (0, 0, 0) (fun l => launchKey l t.index)

/-- The partition of a task. -/
def taskPart (s : State) (t : Task) : Nat := (taskLaunch s t).elim 0 (·.part)

/-- A task has not committed or ended. -/
def Task.live (t : Task) : Bool := t.phase != .ended

/-- The tasks that commit together with one: its siblings in a joined launch, or itself alone (R155). -/
def taskUnit (s : State) (t : Task) : List Task :=
  match taskLaunch s t with
  | some l => if l.joined then s.tasks.filter (fun u => u.uid / 2 ^ 32 == l.ord && u.live) else [t]
  | none => [t]

/-- A live task precedes another in commit order. -/
def precedes (s : State) (u t : Task) : Bool := u.live && keyLt (taskKey s u) (taskKey s t)

/-- The oldest uncommitted task. -/
def oldest (s : State) (t : Task) : Bool := s.tasks.all (fun u => !precedes s u t)

/-- The task stands on the fabric. -/
def Task.onFabric (t : Task) : Bool :=
  t.phase == .loaded || t.phase == .running || t.phase == .finished || t.phase == .repairing || t.phase == .cutting || t.phase == .freezing

/-! ## TD slots (R145, R249) -/

/-- A slot is taken by a task, or by the mailbox of a parked object. -/
def slotTaken (s : State) (n : Nat) : Bool :=
  s.tasks.any (fun t => t.live && t.slot == some n) || s.barriers.any (fun p => p.2.park && mboxSlot s p.2 == n)

/-- The lowest free slot. -/
def freeSlot (s : State) : Option Nat := (List.range 512).find? (fun n => !slotTaken s n)

/-! ## Contexts of a task -/

/-- Empty the queues and the pass of a context. -/
def ElemCtx.emptied (e : ElemCtx) : ElemCtx :=
  { e with inq := [], inc := [], outq := [], outc := [], pass := none, stopped := false, finished := false, captured := false }

/-- Put the initial tokens of a task that stand at one context into its queues (R37). -/
def placeInits (s : State) (t : Task) (key : Nat) : State :=
  let l := t.inits.filter (fun p => p.1 == key)
  s.modElem (keyEa key) (keyCtx key) (fun e => l.foldl (fun e p => e.setQueue p.2.1 (e.queue p.2.1 ++ [p.2.2])) e)

/-- Set or clear the weight of a context at its site: 1 while a configuration is loaded, 0 after (R438). -/
def setWeight (s : State) (key w : Nat) : State :=
  let c := (keyCtx key).toNat
  s.modSite (eaSite (keyEa key)) (fun t =>
    { t with ctxarb := BitVec.ofNat 32 (t.ctxarb.toNat - bits t.ctxarb.toNat (4 * c) 4 * 2 ^ (4 * c) + w * 2 ^ (4 * c)) })

/-- Bind the barrier operators of a context: each awaits the present phase of its object (R327, R328). -/
def bindPhases (s : State) (key : Nat) : State :=
  let ea := keyEa key
  if eaElem ea ≠ 0 || siteIsMt (eaSite ea) then s
  else (List.range 6).foldl (fun s n =>
    let e := s.elem ea (keyCtx key)
    let w := e.stageWord n
    if e.stageOn n && (opcodeOf w == 389 || opcodeOf w == 390) then
      let v : View := { ea := ea, ctx := keyCtx key, n := n, w := OpWord.ofBits w, e := e, op := e.op n }
      s.setElem ea (keyCtx key) (e.setOp n { v.op with phase := some (s.barrier (syncObject s v)).phase })
    else s) s

/-- A context belongs to a task from now on. -/
def enterContext (s : State) (t : Task) (key : Nat) (released : Bool) : State :=
  let s := s.modElem (keyEa key) (keyCtx key) (fun e => { e.emptied with task := some t.uid, released := released })
  setWeight (bindPhases (placeInits s t key) key) key 1

/-- Give a context back: tokens, pass and operator states go, weights return to 0; what the bank and the stores hold stays. -/
def leaveContext (s : State) (key : Nat) : State :=
  let s := s.modElem (keyEa key) (keyCtx key) (fun e =>
    { e.emptied with task := none, released := true, ops := [], kelp := Kelp.zero, brk := [], group := none, wsSwaps := 0 })
  setWeight s key 0

/-- ptr of each site: the lowest context that the task occupies there (R43). -/
def setPtrs (s : State) (t : Task) : State :=
  t.uses.foldl (fun s k =>
    let site := eaSite (keyEa k)
    let cs := (t.uses.filter (fun j => eaSite (keyEa j) == site)).map (fun j => (keyCtx j).toNat)
    s.modSite site (fun x => { x with ptr := BitVec.ofNat 2 (cs.foldl min 3) })) s

/-! ## Loading -/

/-- Outcome of sending an image. -/
inductive LoadOut where
  | held
  | done (s : State)
  | failed (s : State) (report : Word)

/-- Send the commands of an image. The loader computes each CHECK over the words it sends, so that a CRC-32C which the element holds from
elsewhere is found (R173, R275); `sums` are the running values of the elements. -/
def sendImage (uid : Nat) : Tab Word → State → List ImageCmd → LoadOut
  | _, s, [] => .done s
  | sums, s, (ctx, ea, field, vals) :: rest =>
    let sum := tabGet sums ea.toNat 0xFFFFFFFF#32
    let c := if vals.isEmpty then CmdBody.check (sum ^^^ 0xFFFFFFFF#32) else .write (decide (field < 64)) (field % 64) vals
    let next := if vals.isEmpty then 0xFFFFFFFF#32 else crcWords sum (c.words ctx ea)
    match command s (100 + uid) ctx ea c with
    | .held => .held
    | .ok s _ => sendImage uid (tabSet sums ea.toNat next 0xFFFFFFFF#32) s rest
    | .rejected s w => .failed s w

/-- Element contexts whose shadow banks an image writes. -/
def imageKeys (l : List ImageCmd) : List Nat :=
  ((l.filter (fun c => !c.2.2.2.isEmpty && decide (c.2.2.1 < 64))).map (fun c => elemKey c.2.1 c.1)).dedup

/-- Invalidate the shadow banks written for a task (R173). -/
def dropShadows (s : State) (keys : List Nat) : State :=
  keys.foldl (fun s k => s.modElem (keyEa k) (keyCtx k) (fun e => { e with shadow := none, armed := false })) s

/-- The banks that a load has left in the shadows: the placed configuration image (R176). -/
def shadowsOf (s : State) (keys : List Nat) : List (Nat × Tab Word) :=
  keys.map (fun k => (k, (s.elem (keyEa k) (keyCtx k)).shadow.getD []))

/-- Swap a loaded task in where nothing precedes it, and arm the swap where its splice predecessor still stands (R173, R175). -/
def swapIn (s : State) (t : Task) : State :=
  t.uses.foldl (fun s k =>
    let ea := keyEa k
    let ctx := keyCtx k
    if t.pred.isSome && (s.elem ea ctx).task == t.pred then s.modElem ea ctx (fun e => { e with armed := true })
    else enterContext (swapBank s ea ctx) t k t.pred.isSome) s

/-! ## Splice swaps (R175) -/

/-- The context of an element holds nothing of the predecessor any more: its LEVEL 7 marker has left it on every output. -/
def markerGone (s : State) (ea : EAddr) (ctx : BitVec 2) : Bool :=
  let e := s.elem ea ctx
  let k := (kindOf ea).getD .ct
  let ns := (wordsOf k e.bank).map (fun p => (if k = .router then 16 else if k = .mt then 32 else 0) + p.2.1)
  e.pass.isNone && e.inq.all (fun p => p.2.isEmpty) && e.inc.all (fun p => p.2.isEmpty) && e.outq.all (fun p => p.2.isEmpty)
    && e.outc.all (fun p => p.2.isEmpty) && ns.all (fun n => (e.op n).ended && (e.op n).res.isEmpty)

/-- The task whose armed swap waits at a context. -/
def successorAt (s : State) (ea : EAddr) (ctx : BitVec 2) : Option Task :=
  s.tasks.find? (fun t => t.pred.isSome && t.live && t.uses.contains (elemKey ea ctx) && (s.elem ea ctx).task != some t.uid)

/-- The armed swap of a context takes effect: the successor's task has the context. -/
def takeArmed (s : State) (ea : EAddr) (ctx : BitVec 2) : State :=
  let next := successorAt s ea ctx
  let s := swapBank s ea ctx
  match next with
  | some t => enterContext s t (elemKey ea ctx) true
  | none => s

/-- An element that a spliced predecessor used and its successor does not is free once the marker has left it (R51, R175). -/
def freedByMark (s : State) (ea : EAddr) (ctx : BitVec 2) : Bool :=
  match (s.elem ea ctx).task with
  | none => false
  | some uid =>
    let succ := s.tasks.filter (fun u => u.pred == some uid && u.live && u.onFabric)
    !succ.isEmpty && succ.all (fun u => !u.uses.contains (elemKey ea ctx)) && markerGone s ea ctx

/-- SWAP_ON_MARK (R175): an armed swap takes effect once the marker has left the element, and an element that the successor does not use is
given back. -/
def execSwapOnMark (ea : BitVec 16) (ctx : BitVec 2) (s : State) : Result :=
  if eaExists ea then
    let e := s.elem ea ctx
    .next (if e.armed && e.shadow.isSome && (e.task.isNone || markerGone s ea ctx) then takeArmed s ea ctx
      else if freedByMark s ea ctx then leaveContext s (elemKey ea ctx) else s)
  else .fault .noSuchUnit

/-- A task leaves the fabric: where a successor's swap is armed it takes effect, the other contexts are given back (R176). -/
def clearTask (s : State) (t : Task) : State :=
  t.uses.foldl (fun s k =>
    let ea := keyEa k
    let ctx := keyCtx k
    let e := s.elem ea ctx
    if e.task != some t.uid then s
    else if e.armed && e.shadow.isSome then takeArmed (leaveContext s k) ea ctx
    else leaveContext s k) s

/-! ## Parked barrier objects (R249, R250) -/

/-- An entry of a mailbox: time, object, source and count. -/
structure MboxEntry where
  time  : Nat
  obj   : Nat
  src   : BitVec 16
  count : Nat

/-- Entries of a mailbox slot in order. -/
def mboxEntries (s : State) (slot : Nat) : List MboxEntry :=
  (List.range (tabGet s.mboxes slot 0)).map (fun i =>
    let a := s.plat.mbxbase.toNat + 4096 * slot + 16 * i
    { time := memNat s.dmem a 8, obj := memNat s.dmem (a + 8) 2, src := BitVec.ofNat 16 (memNat s.dmem (a + 10) 2)
      count := memNat s.dmem (a + 12) 4 })

/-- The bytes of an entry. -/
def MboxEntry.bytes (e : MboxEntry) : List Byte :=
  natToBytes 8 e.time ++ natToBytes 2 e.obj ++ natToBytes 2 e.src.toNat ++ natToBytes 4 e.count

/-- Keep only some entries of a mailbox. -/
def mboxKeep (s : State) (slot : Nat) (l : List MboxEntry) : State :=
  { s with dmem := memSetBytes s.dmem (s.plat.mbxbase.toNat + 4096 * slot) (l.flatMap MboxEntry.bytes)
           mboxes := tabSet s.mboxes slot l.length 0 }

/-- Insert by time, ties by lower object, behind equals. -/
def mboxInsert (e : MboxEntry) : List MboxEntry → List MboxEntry
  | [] => [e]
  | h :: t => if e.time < h.time ∨ (e.time = h.time ∧ e.obj < h.obj) then e :: h :: t else h :: mboxInsert e t

/-- A suspended task lets go of the objects it parks: those that no other suspended task binds unpark, owed releases are
delivered, and their logged arrivals replay in order. -/
def unparkFor (s : State) (uid : Nat) : State :=
  let mine := (s.barriers.filter (fun p => p.2.parkers.contains uid)).map (·.1)
  let s := mine.foldl (fun s o => s.setBarrier o { s.barrier o with parkers := (s.barrier o).parkers.filter (fun u => u != uid) }) s
  let free := mine.filter (fun o => (s.barrier o).park && (s.barrier o).parkers.isEmpty)
  let slots := (free.map (fun o => mboxSlot s (s.barrier o))).dedup
  let logged := (slots.flatMap (mboxEntries s)).filter (fun e => free.contains e.obj)
  let s := slots.foldl (fun s n => mboxKeep s n ((mboxEntries s n).filter (fun e => !free.contains e.obj))) s
  let s := free.foldl (fun s o =>
    let s := if (s.barrier o).pending.isEmpty then excuseWaiting s o else s
    let b := s.barrier o
    let owed := b.owed
    let s := s.setBarrier o { b with park := false, mbox := 0, owed := 0 }
    (List.range owed).foldl (fun s _ => release s o) s) s
  (logged.foldl (fun l e => mboxInsert e l) []).foldl (fun s e =>
    arrive s e.obj { src := e.src, who := 2 ^ 40 + e.src.toNat, count := e.count }) s

/-! ## Abort (R147, R176) -/

/-- What an abort forgets of a task (R147). -/
def Task.forget (t : Task) : Task :=
  { t with cb := [], rsig := 0, wsig := 0, repair := [], repaired := 0, poisoned := false,
           fault := none, cutNo := 0, cutWhy := 0, saved := [], spill := [], pxFault := none, cutReq := none,
           aborts := t.aborts + 1, wstores := 0 }

/-- The splice successors of a task. -/
def successorsOf (s : State) (uid : Nat) : List Task := s.tasks.filter (fun u => u.pred == some uid && u.live)

/-- The element contexts on which a task's LEVEL 7 markers have not let a successor in yet. -/
def swappedSomewhere (s : State) (t : Task) : Bool := t.uses.any (fun k => (s.elem (keyEa k) (keyCtx k)).task == some t.uid)

/-- A task can have its contexts back: each is its own, free, its predecessor's or a successor's. -/
def canReload (s : State) (t : Task) : Bool :=
  t.uses.all (fun k =>
    match (s.elem (keyEa k) (keyCtx k)).task with
    | none => true
    | some u => u == t.uid || t.pred == some u || (s.task? u).elim false (fun x => x.pred == some t.uid))

/-- Arm a placed image at a context that another task still holds. -/
def armAt (s : State) (p : Nat × Tab Word) : State :=
  s.modElem (keyEa p.1) (keyCtx p.1) (fun e => { e with shadow := some p.2, armed := true })

/-- Reset the contexts of a task from its placed configuration image, with its initial tokens or without; what a successor has armed stays
armed, and where the predecessor still stands the task's own load is repeated (R147, R176). -/
def reloadImage (s : State) (t : Task) (inits : Bool) : State :=
  t.image.foldl (fun s p =>
    let ea := keyEa p.1
    let ctx := keyCtx p.1
    let e := s.elem ea ctx
    if t.pred.isSome && e.task == t.pred then armAt s p
    else
      let s := swapBank (s.setElem ea ctx { e with shadow := some p.2 }) ea ctx
      let s := s.modElem ea ctx (fun x => if e.armed then { x with shadow := e.shadow, armed := true } else x)
      enterContext s (if inits then t else { t with inits := [] }) p.1 t.pred.isSome) s

/-- Send a task back to the ready pool: it gives its contexts back, and its armed loads are gone. -/
def toPool (s : State) (t : Task) (f : Task → Task) : State :=
  let s := t.uses.foldl (fun s k =>
    let e := s.elem (keyEa k) (keyCtx k)
    if e.task = some t.uid then (leaveContext s k).modElem (keyEa k) (keyCtx k) (fun e => { e with shadow := none, armed := false })
    else if t.pred.isSome && e.task == t.pred then dropShadows s [k]
    else s) s
  s.modTask t.uid (fun t =>
    { f t with phase := .ready, readyAt := s.time, uses := [], image := [], inits := [], iis := [], slot := none, pred := none })

/-- A successor splices again behind a task whose region it had entered: its load stands armed at the task's contexts (R176). -/
def spliceBehind (s : State) (t u : Task) : State :=
  let s := s.modTask u.uid (fun u => { u.forget with phase := .loaded })
  (u.image.filter (fun p => t.uses.contains p.1)).foldl armAt s

/-- Contexts of a successor alone start anew at once. -/
def restartAlone (s : State) (t u : Task) : State :=
  (u.image.filter (fun p => !t.uses.contains p.1)).foldl (fun s p =>
    takeArmed (leaveContext (armAt s p) p.1) (keyEa p.1) (keyCtx p.1)) s

/-- A task that has ended leaves its region to its successors: where their loads are no longer armed, as after a suspension, they take the
contexts from their images; a successor whose contexts are taken is dispatched again (R176). -/
def inheritFrom (s : State) (uid : Nat) : State :=
  (successorsOf s uid).foldl (fun s u =>
    let mine := u.image.filter (fun p => (s.elem (keyEa p.1) (keyCtx p.1)).task != some u.uid)
    if mine.all (fun p => (s.elem (keyEa p.1) (keyCtx p.1)).task.isNone) then
      mine.foldl (fun s p => takeArmed (armAt s p) (keyEa p.1) (keyCtx p.1)) s
    else toPool s u id) s

/-- The tasks that are aborted with some: the units they commit in, and successors that have swapped in somewhere (R155, R176). -/
def abortSet (s : State) : Nat → List Nat → List Nat
  | 0, l => l
  | n + 1, l =>
    let more := s.tasks.filter (fun u => u.live && !l.contains u.uid
      && ((u.pred.elim false (fun p => l.contains p) && swappedSomewhere s u)
        || l.any (fun x => x / 2 ^ 32 == u.uid / 2 ^ 32 && (taskLaunch s u).elim false (·.joined))))
    if more.isEmpty then l else abortSet s n (l ++ more.map (·.uid))

/-- Abort tasks in place, each behind its predecessor. -/
def abortInPlace (s : State) (l : List Task) : State :=
  let behind := l.filter (fun u => u.pred.elim false (fun p => l.any (fun t => t.uid == p)))
  let heads := l.filter (fun u => !behind.any (fun t => t.uid == u.uid))
  let pairs := behind.filterMap (fun u => (heads.find? (fun t => u.pred == some t.uid)).map (fun t => (t, u)))
  -- a load behind one that is itself behind another has no shadow bank to stand in
  let s := (behind.filter (fun u => !pairs.any (fun p => p.2.uid == u.uid))).foldl (fun s u => toPool s u Task.forget) s
  let s := pairs.foldl (fun s p => spliceBehind s p.1 p.2) s
  let s := heads.foldl (fun s t =>
    reloadImage (s.modTask t.uid (fun t => { t.forget with phase := .loaded, lastFire := s.time, excused := 0 })) t true) s
  pairs.foldl (fun s p => restartAlone s p.1 p.2) s

/-- Abort tasks through the ready pool; successors that have not swapped in go with them. -/
def abortToPool (s : State) (l : List Task) : State :=
  let waiting := s.tasks.filter (fun u => u.live && u.pred.elim false (fun p => l.any (fun t => t.uid == p)) && !l.any (fun t => t.uid == u.uid))
  let s := waiting.foldl (fun s u => toPool s u id) s
  l.reverse.foldl (fun s t =>
    toPool (unparkFor s t.uid) t (fun t => { t.forget with irrev := t.irrev || decide (8 ≤ t.aborts + 1) })) s

/-- Abort a task with the unit it commits in: in place while all of it stands on the fabric; through the ready pool when some of it was
suspended, or after an eighth abort, when it must run irrevocably (R147, R155). A successor that has swapped in somewhere is aborted as
well, and splices again (R176). -/
def abortTask (s : State) (uid : Nat) : State :=
  match s.task? uid with
  | none => s
  | some _ =>
    let l := (abortSet s s.tasks.length [uid]).filterMap s.task?
    if l.all (fun t => decide (t.aborts + 1 < 8) && t.onFabric && canReload s t) then abortInPlace s l else abortToPool s l

/-- A task may be aborted: it is speculative and has begun (R147, R154). -/
def abortable (t : Task) : Bool := t.live && !t.irrev && (t.onFabric || t.phase == .suspended)

end Sys2Proof.Machine
end

