-- ==== Sys2Proof/Machine/DevMem.lean ====
section
/-! DEFINITION. Machine/DevMem.lean: device memory: the page walk (R113 to R119, R131), cached translations (R126), page faults
(R123, R124), accesses of agents outside tasks (R143) and of tasks through commit buffers and signatures (R141, R145, R146,
R148). -/

namespace Sys2Proof.Machine

/-! ## Physical memory (R118, R119, R131) -/

/-- First address and end of a tier's range (Table 4-9). -/
def tierRange : Nat → Nat × Nat
  | 0 => (0, 0x59682F0000)
  | 1 => (0x10000000000, 0x18000000000)
  | _ => (0x8000000000000, 0x10000000000000)

/-- Every byte lies in the range of a tier. -/
def inTier (tier pa n : Nat) : Bool := decide ((tierRange tier).1 ≤ pa) && decide (pa + n ≤ (tierRange tier).2)

/-- Memory stands at every byte of a range. -/
def memoryExists (pa n : Nat) : Bool := inTier 0 pa n || inTier 1 pa n || inTier 2 pa n

/-- Every 2 MiB frame of a range belongs to a partition. -/
def framesOwned (s : State) (part pa n : Nat) : Bool :=
  let lo := pa / 2 ^ 21
  let hi := (pa + n - 1) / 2 ^ 21
  (s.frames.filter (fun p => decide (lo ≤ p.1) && decide (p.1 ≤ hi) && p.2 == part + 1)).length == hi + 1 - lo

/-- A byte of the range lies in a sealed frame. -/
def sealedAt (s : State) (pa n : Nat) : Bool :=
  s.sealed.any (fun f => decide (pa / 4096 ≤ f) && decide (f ≤ (pa + n - 1) / 4096))

/-! ## Page-table entries (Table 4-6) -/

def pteV (e : DWord) : Bool := e.getLsbD 0
def pteLeaf (e : DWord) : Bool := e.getLsbD 1
def pteRd (e : DWord) : Bool := e.getLsbD 2
def pteWr (e : DWord) : Bool := e.getLsbD 3
def pteEx (e : DWord) : Bool := e.getLsbD 4
def pteSeal (e : DWord) : Bool := e.getLsbD 5
def pteSpan (e : DWord) : Bool := e.getLsbD 6
def pteTier (e : DWord) : Nat := bits e.toNat 7 2
def ptePin (e : DWord) : Bool := e.getLsbD 9
def pteMig (e : DWord) : Bool := e.getLsbD 10
def ptePa (e : DWord) : Nat := bits e.toNat 12 40 * 4096
def pteDi (e : DWord) : Bool := e.getLsbD 52

/-- Bytes of an unspanned leaf of a level, and of a leaf. -/
def levelSize (level : Nat) : Nat := 4096 * 512 ^ (level - 1)
def leafSize (level : Nat) (span : Bool) : Nat := if span then 16 * levelSize level else levelSize level

/-- SZ of a leaf (Table 4-10). -/
def sizeCode (level : Nat) (span : Bool) : Nat := 2 * (level - 1) + (if span then 1 else 0)

/-- Index of an address at a level (Table 4-3). -/
def vaIndex (va level : Nat) : Nat := va / 2 ^ (12 + 9 * (level - 1)) % 512

/-- The bits that the 16 entries of a span share: all but PA, AC, DI and SW. -/
def spanCommon (e : DWord) : DWord := e &&& 0xFF000000000007FF#64

/-- The 16 entries of a span agree and follow one another from an aligned base (R115). -/
def spanOk (s : State) (table idx level : Nat) (e : DWord) : Bool :=
  let u := levelSize level
  let base := ptePa e - (idx % 16) * u
  decide ((idx % 16) * u ≤ ptePa e) && base % (16 * u) == 0
    && (List.range 16).all (fun j =>
      let f := BitVec.ofNat 64 (memNat s.dmem (table + 8 * (idx / 16 * 16 + j)) 8)
      spanCommon f == spanCommon e && ptePa f == base + j * u)

/-- A malformed entry: reason 4. -/
def pteMalformed (s : State) (table idx level : Nat) (e : DWord) : Bool :=
  bits e.toNat 56 8 != 0
    || (if pteLeaf e then
          level == 5 || pteTier e == 3 || ptePa e % levelSize level != 0
            || (pteSpan e && (level == 4 || !spanOk s table idx level e))
        else level == 1)

/-! ## The walk (R113 to R116) -/

/-- A translation found: the entry, where it stands, its level, and the page's bases and size. -/
structure Walked where
  pte   : DWord
  at_   : Nat
  level : Nat
  pbase : Nat
  vbase : Nat
  size  : Nat

/-- Outcome of a walk. -/
inductive WalkOut where
  | fail (reason : Nat)
  | wait
  | leaf (w : Walked)

/-- What an access asks of a translation. -/
structure Intent where
  read  : Bool
  write : Bool
  fetch : Bool
deriving DecidableEq, Repr

/-- Reads, writes, both, and instruction fetch, which needs RD and EX (Table 10-5). -/
def Intent.ofBits (n : Nat) : Intent := { read := n % 2 == 1, write := n / 2 % 2 == 1, fetch := false }
def readIntent : Intent := { read := true, write := false, fetch := false }
def writeIntent : Intent := { read := false, write := true, fetch := false }
def bothIntent : Intent := { read := true, write := true, fetch := false }
def fetchIntent : Intent := { read := true, write := false, fetch := true }

/-- INTENT of a fault record. -/
def Intent.code (i : Intent) : Nat := (if i.read || i.fetch then 1 else 0) + (if i.write then 2 else 0)

/-- Every sealed address of a page maps to the frame recorded for it (R131). -/
def sealedAgrees (p : Part) (vbase pbase size : Nat) : Bool :=
  p.sealedVa.all (fun r => decide (vbase + size ≤ r.1) || decide (r.1 + r.2.1 ≤ vbase) || pbase + r.1 == r.2.2 + vbase)

/-- Checks of a leaf that has passed its own: sealing, then permission (reason 3 before 2). -/
def leafPermits (s : State) (p : Part) (va vbase pbase size : Nat) (e : DWord) (i : Intent) : Option Nat :=
  if !sealedAgrees p vbase pbase size then some (if i.write then 3 else 4)
  else if i.write && (pteSeal e || sealedAt s (pbase + (va - vbase)) 1) then some 3
  else if (i.read && !pteRd e) || (i.write && !pteWr e) || (i.fetch && !pteEx e) then some 2
  else none

/-- Walk from the table of a level down. -/
def walkFrom (s : State) (part va : Nat) (i : Intent) : Nat → Nat → WalkOut
  | 0, _ => .fail 4
  | n + 1, table =>
    let level := n + 1
    let idx := vaIndex va level
    let at_ := table + 8 * idx
    let e := BitVec.ofNat 64 (memNat s.dmem at_ 8)
    if !pteV e then .fail 1
    else if pteMalformed s table idx level e then .fail 4
    else if pteLeaf e then
      let size := leafSize level (pteSpan e)
      let pbase := if pteSpan e then ptePa e - (idx % 16) * levelSize level else ptePa e
      let vbase := va / size * size
      if !inTier (pteTier e) pbase size then .fail 5
      else if !framesOwned s part pbase size then .fail 7
      else if pteMig e then .wait
      else
        match leafPermits s (s.part part) va vbase pbase size e i with
        | some r => .fail r
        | none => .leaf { pte := e, at_ := at_, level := level, pbase := pbase, vbase := vbase, size := size }
    else if !framesOwned s part (ptePa e) 4096 then .fail 7
    else walkFrom s part va i n (ptePa e)

/-- A walk of a partition's tables. -/
def walk (s : State) (part va : Nat) (i : Intent) : WalkOut :=
  let p := s.part part
  if 2 ^ 57 ≤ va then .fail 6
  else if !p.pxen then .fail 1
  else if !framesOwned s part p.root.toNat 4096 then .fail 7
  else walkFrom s part va i 5 p.root.toNat

/-- Set AC, and DI for a write, in the leaf that a walk found (R117); an entry in a sealed frame stays as it is (R131). -/
def markLeaf (s : State) (w : Walked) (write : Bool) : State × DWord :=
  let e := w.pte ||| 0x800#64 ||| (if write then 0x10000000000000#64 else 0#64)
  if sealedAt s w.at_ 8 then (s, w.pte) else ({ s with dmem := memSetNat s.dmem w.at_ 8 e.toNat }, e)

/-! ## Cached translations (R99, R126) -/

/-- A translation ready for use. -/
structure Xlated where
  pa    : Nat
  sz    : Nat
  wok   : Bool
  size  : Nat
deriving DecidableEq, Repr

/-- Outcome of a translation. -/
inductive XOut where
  | ok (x : Xlated)
  | wait
  | fail (reason : Nat)

/-- Entries of a cache that match an address. -/
def tlbHits (l : List Tlb) (part va : Nat) : List Tlb :=
  l.filter (fun t => t.part == part && decide (t.vbase ≤ va) && decide (va < t.vbase + t.size))

/-- Drop entries of a partition that overlap a range. -/
def tlbDrop (l : List Tlb) (part va n : Nat) : List Tlb :=
  l.filter (fun t => !(t.part == part && decide (t.vbase < va + n) && decide (va < t.vbase + t.size)))

/-- What a cached entry gives an address. Its PA field holds the page's base. -/
def Tlb.xlated (t : Tlb) (va : Nat) : Xlated :=
  { pa := ptePa t.pte + (va - t.vbase), sz := sizeCode t.level (pteSpan t.pte), wok := pteWr t.pte && !pteSeal t.pte, size := t.size }

/-- A cached entry serves an access without a walk; a first write needs the walker to set DI. -/
def Tlb.serves (t : Tlb) (i : Intent) : Bool :=
  (!i.read || pteRd t.pte) && (!i.fetch || pteEx t.pte) && (!i.write || (pteWr t.pte && !pteSeal t.pte && pteDi t.pte))

/-- Entries a translation cache holds (R99). -/
def tlbRoom : Nat := 256

/-- Keep an entry, the oldest going first. -/
def tlbAdd (l : List Tlb) (t : Tlb) : List Tlb :=
  let l := l.filter (fun u => !(u.part == t.part && u.vbase == t.vbase && u.size == t.size))
  (if tlbRoom ≤ l.length then l.tail else l) ++ [t]

/-- Walk, and install what the walk finds. -/
def walkInto (s : State) (l : List Tlb) (part va : Nat) (i : Intent) : State × List Tlb × XOut :=
  match walk s part va i with
  | .fail r => (s, l, .fail r)
  | .wait => (s, l, .wait)
  | .leaf w =>
    let (s, e) := markLeaf s w i.write
    let pte := BitVec.ofNat 64 (e.toNat - bits e.toNat 12 40 * 4096 + w.pbase)
    let t : Tlb := { part := part, vbase := w.vbase, size := w.size, pte := pte, level := w.level }
    (s, tlbAdd l t, .ok (t.xlated va))

/-- Translate through a cache: entries of different sizes that match one address are all dropped (R126), and a write to a frame that has
been sealed since is walked again (R120). -/
def translate (s : State) (l : List Tlb) (part va : Nat) (i : Intent) : State × List Tlb × XOut :=
  if 2 ^ 57 ≤ va then (s, l, .fail 6)
  else if !(s.part part).pxen then (s, l, .fail 1)
  else
    match tlbHits l part va with
    | [t] =>
      if t.serves i && !(i.write && sealedAt s (t.xlated va).pa 1) then (s, l, .ok (t.xlated va)) else walkInto s l part va i
    | [] => walkInto s l part va i
    | _ => walkInto s (tlbDrop l part va 1) part va i

/-! ## Page faults (R123, R124) -/

/-- The 32 bytes of a fault-queue record. -/
def PageFault.bytes (f : PageFault) : List Byte :=
  natToBytes 8 f.va ++ natToBytes 2 f.ea.toNat ++ natToBytes 1 f.src ++ natToBytes 1 (f.ctx.toNat + 4 * f.intent.toNat)
    ++ natToBytes 2 f.launch.toNat ++ natToBytes 2 f.tindex.toNat ++ natToBytes 8 f.time ++ natToBytes 4 f.fseq
    ++ natToBytes 2 f.status ++ natToBytes 2 0

/-- The fault queue has no room. -/
def Part.fqFull (p : Part) : Bool := p.fqTail - p.fqHead == 1024#11

/-- Note an access to committed device memory at the memory controllers (R128). -/
def touch (s : State) (pa n : Nat) : State :=
  { s with touched := (List.range ((pa + n + 4095) / 4096 - pa / 4096)).foldl (fun t i =>
      tabSet t (pa / 4096 + i) (s.time / 1000000) 0) s.touched }

/-- A range holds a line that cannot be read correctly. -/
def memoryBad (s : State) (pa n : Nat) : Bool := s.bad.any (fun l => decide (pa / 64 ≤ l) && decide (l ≤ (pa + n - 1) / 64) && decide (0 < n))

/-- PC firmware writes device memory; a sealed frame refuses the write, which the PC logs (R131). -/
def firmwareWrite (s : State) (pa : Nat) (l : List Byte) : State :=
  if sealedAt s pa l.length then s.log (.firmwareRefused pa) else { s with dmem := memSetBytes s.dmem pa l }

/-- Write the oldest unposted faults while there is room. -/
def postFaults (s : State) (part : Nat) : Nat → State
  | 0 => s
  | n + 1 =>
    let p := s.part part
    match p.faults.find? (fun f => !f.posted) with
    | none => s
    | some f =>
      if p.fqFull then s
      else
        let slot := p.fqTail.toNat % 1024
        let s := firmwareWrite s (p.fqBase.toNat + 32 * slot) f.bytes
        let s := s.setPart part
          { p with fqTail := p.fqTail + 1
                   faults := p.faults.map (fun g => if g.fseq = f.fseq then { g with posted := true, slot := slot } else g) }
        postFaults s part n

/-- Who meets a page fault: element address, SRC, context and task. -/
structure Faulter where
  ea   : EAddr
  src  : Nat
  ctx  : BitVec 2
  task : Option Nat

/-- A fault without an element. -/
def faulterOf (src : Nat) : Faulter := { ea := 0, src := src, ctx := 0, task := none }

/-- Raise a page fault: numbered, and posted as soon as the queue has room. -/
def raiseFault (s : State) (part va : Nat) (i : Intent) (w : Faulter) : State × Nat :=
  let p := s.part part
  let n := p.fseq + 1
  let uid := w.task.getD 0
  let f : PageFault :=
    { fseq := n, va := va, ea := w.ea, src := w.src, ctx := w.ctx, intent := BitVec.ofNat 2 i.code
      launch := BitVec.ofNat 16 (uid / 2 ^ 32), tindex := BitVec.ofNat 16 uid, posted := false, status := 0, time := s.time, slot := 0 }
  (postFaults (s.setPart part { p with fseq := n, faults := p.faults ++ [f] }) part 1, n)

/-- STATUS of a fault number; 1 when the fault is gone. -/
def faultStatus (s : State) (part fseq : Nat) : Nat :=
  ((s.part part).faults.find? (fun f => f.fseq == fseq)).elim 1 (·.status)

/-- A fault has been dealt with. -/
def dropFault (s : State) (part fseq : Nat) : State :=
  s.modPart part (fun p => { p with faults := p.faults.filter (fun f => f.fseq != fseq) })

/-! ## Signatures (R135, R145) -/

/-- Signature bit of a physical address. -/
def sigIdx (pa : Nat) : Nat :=
  let l := pa / 256
  (l % 4096) ^^^ (l / 2 ^ 12 % 4096) ^^^ (l / 2 ^ 24 % 4096) ^^^ (l / 2 ^ 36 % 256)

/-- MayHold(sig, pa). -/
def mayHold (sig : BitVec 4096) (pa : Nat) : Bool := sig.getLsbD (sigIdx pa)

/-- 256-byte lines of a range, as addresses. -/
def sigLines (pa n : Nat) : List Nat := (List.range ((pa + n - 1) / 256 + 1 - pa / 256)).map (fun i => (pa / 256 + i) * 256)

/-- A signature with the lines of a range. -/
def sigAdd (sig : BitVec 4096) (pa n : Nat) : BitVec 4096 :=
  (sigLines pa n).foldl (fun g a => g ||| BitVec.ofNat 4096 (2 ^ sigIdx a)) sig

/-- A task's reads enter its read signature. -/
def noteRead (s : State) (uid pa n : Nat) : State := s.modTask uid (fun t => { t with rsig := sigAdd t.rsig pa n })

/-- A task's writes enter its write signature. -/
def noteWrite (s : State) (uid pa n : Nat) : State := s.modTask uid (fun t => { t with wsig := sigAdd t.wsig pa n })

/-- Read and write signatures of the unit a task commits in. -/
def unitRsig (s : State) (t : Task) : BitVec 4096 := (taskUnit s t).foldl (fun g u => g ||| u.rsig) 0
def unitWsig (s : State) (t : Task) : BitVec 4096 := (taskUnit s t).foldl (fun g u => g ||| u.wsig) 0

/-- Abort every speculative task that satisfies a predicate; one that has been aborted with its unit has nothing left to satisfy it. -/
def abortWhere (s : State) (p : State → Task → Bool) : State :=
  s.tasks.foldl (fun r t =>
    match r.task? t.uid with
    | some t' => if abortable t' && p r t' then abortTask r t.uid else r
    | none => r) s

/-- A write that a non-task agent commits aborts every speculative task that may have read the line (R143). -/
def abortReaders (s : State) (pa n : Nat) : State :=
  if s.tasks.isEmpty then s
  else abortWhere s (fun s t => (sigLines pa n).any (mayHold (unitRsig s t)))

/-! ## Atomic operations (Table 15-4) -/

/-- Width in bytes of an atomic's word. -/
def atomBytes (fmt : Nat) : Nat := fmtWidth fmt / 8

/-- New(AOP, old, d, cmp); a `cas` buffered for commit writes as its success was decided. -/
def atomNew (op fmt old d : Nat) (ok : Bool) : Nat :=
  let w := fmtWidth fmt
  let x := intOf w (fmtSigned fmt) old
  let y := intOf w (fmtSigned fmt) d
  match op with
  | 0 => wrapInt w (x + y)
  | 1 => if y < x then d else old
  | 2 => if x < y then d else old
  | 3 => old &&& d
  | 4 => old ||| d
  | 5 => d
  | 6 => if ok then d else old
  | _ => roundVal (floatFmt fmt) (addVal (decodeFloat (floatFmt fmt) old) (decodeFloat (floatFmt fmt) d)) .rne false

/-- The exact operand that monitors see of an `add` or `fadd` (R223). -/
def atomExact (op fmt addr d : Nat) : ExactOperand :=
  match op with
  | 0 => some (addr, atomBytes fmt, intVal (intOf (fmtWidth fmt) true d))
  | 7 => some (addr, atomBytes fmt, decodeFloat (floatFmt fmt) d)
  | _ => none

/-- Apply a buffered atomic to the word it finds. -/
def AtomOp.apply (a : AtomOp) (old : Nat) : Nat := atomNew a.op.toNat a.fmt.toNat old a.arg.toNat a.ok

/-! ## Writes as they reach memory -/

/-- A write within one 64-byte line: line address, byte mask and the line's data. -/
structure LineWrite where
  line : Nat
  mask : Nat
  data : List Byte

/-- Cut bytes at an address into line writes. -/
def lineWrites (pa : Nat) (l : List Byte) : List LineWrite :=
  (List.range ((pa % 64 + l.length + 63) / 64)).map (fun i =>
    let line := (pa / 64 + i) * 64
    let lo := if i = 0 then pa % 64 else 0
    let part := (l.drop (if i = 0 then 0 else 64 * i - pa % 64)).take (64 - lo)
    { line := line, mask := (2 ^ part.length - 1) * 2 ^ lo, data := List.replicate lo 0#8 ++ part ++ List.replicate (64 - lo - part.length) 0#8 })

/-- Put a line write into device memory; a line written whole can be read again. -/
def putLine (s : State) (w : LineWrite) : State :=
  let s := { s with dmem := memSetMasked s.dmem w.line w.mask w.data, bad := if w.mask = 2 ^ 64 - 1 then s.bad.filter (fun l => l != w.line / 64) else s.bad }
  touch s w.line 64

/-- A non-task write of one line, as an agent's stream port passes it (R143, R222). -/
def commitLine (s : State) (part : Nat) (w : LineWrite) (exact : ExactOperand) : State :=
  let old := memBytes s.dmem w.line 64
  let s := putLine s w
  let s := monitorPort s part w.line w.mask old (mergeMasked w.mask old w.data) exact
  abortReaders s w.line 64

/-- A non-task write of bytes at a physical address. -/
def commitBytes (s : State) (part pa : Nat) (l : List Byte) : State :=
  (lineWrites pa l).foldl (fun s w => commitLine s part w none) s

/-! ## Lockstep pairs (R261, R262) -/

/-- LSPAIR fields (Table 11-5). -/
def lsOn (p : Plat) : Bool := p.lspair.getLsbD 0
def lsPrim (p : Plat) : Nat := bits p.lspair.toNat 1 8
def lsSec (p : Plat) : Nat := bits p.lspair.toNat 9 8

/-- A partition is one side of the lockstep pair. -/
def lsSide (p : Plat) (part : Nat) : Bool := lsOn p && (part == lsPrim p || part == lsSec p)

/-- A mismatch or timeout: BROKEN is set and MISCNT rises. -/
def lsBroken (p : Plat) : Plat :=
  { p with lspair := (p.lspair ||| 0x20000#64) + (if p.lspair.toNat / 2 ^ 32 = 2 ^ 32 - 1 then 0 else 0x100000000#64) }

/-- Place of a block in its partition. -/
def blockPlace (s : State) (part : Nat) (b : BitVec 6) : Nat := ((s.part part).blocks.findIdx? (fun x => x == b.toNat)).getD 0

/-- One side of a pair presents a line: it waits for the other side's next line of the same block and unit, and the two are applied once, as the
primary's, or not at all when they differ. -/
def pairLine (s : State) (part idx unit : Nat) (w : LineWrite) : State :=
  match s.plat.lsWrites.findIdx? (fun x => x.idx == idx && x.unit == unit && x.part != part) with
  | none =>
    s.modPlat (fun p =>
      { p with lsWrites := p.lsWrites ++ [{ idx := idx, unit := unit, part := part, line := w.line, mask := w.mask, data := w.data, since := s.time }] })
  | some i =>
    let same := (s.plat.lsWrites[i]?).any (fun x => x.line == w.line && x.mask == w.mask && x.data == w.data)
    let s := s.modPlat (fun p => { p with lsWrites := p.lsWrites.eraseIdx i })
    if !same then s.modPlat lsBroken
    else if sealedAt s w.line 64 then s
    else commitLine s (lsPrim s.plat) w none

/-- A device-memory write of the sequencer (unit 0) or an engine queue (unit 1 + queue) of a block: in a lockstep pair it is paired block by
block in issue order (R261). -/
def unitWrite (s : State) (part : Nat) (b : BitVec 6) (unit pa : Nat) (l : List Byte) : State :=
  if lsSide s.plat part then (lineWrites pa l).foldl (fun s w => pairLine s part (blockPlace s part b) unit w) s
  else commitBytes s part pa l

/-- A unit's own lines in a range, or all of them when the range is empty, still wait for the other side. -/
def unitWaits (s : State) (part : Nat) (b : BitVec 6) (unit pa n : Nat) : Bool :=
  s.plat.lsWrites.any (fun x => x.part == part && x.unit == unit && x.idx == blockPlace s part b
    && (n == 0 || (decide (x.line < pa + n) && decide (pa < x.line + 64))))

/-- A write-through of a task or of a context outside any task, seen by the channels of its MT (R146, R222). -/
def throughLine (s : State) (mt : SiteNo) (w : LineWrite) (exact : ExactOperand) : State :=
  let old := memBytes s.dmem w.line 64
  let s := putLine s w
  let s := monitorCommit s mt w.line w.mask old (mergeMasked w.mask old w.data) exact
  abortReaders s w.line 64

/-! ## Accesses of tasks (R141, R145) -/

/-- Committed bytes with a task's own buffered effects on top, in their order. -/
def overlay (cb : List CbEntry) (pa : Nat) (l : List Byte) : List Byte :=
  cb.foldl (fun l e =>
    match e with
    | .store _ line mask data =>
      l.zipIdx.map (fun p =>
        let a := pa + p.2
        if line ≤ a ∧ a < line + 64 ∧ mask.toNat / 2 ^ (a - line) % 2 = 1 then (lineBytes data).getD (a - line) 0 else p.1)
    | .atomic _ w op =>
      let n := atomBytes op.fmt.toNat
      if pa ≤ w ∧ w + n ≤ pa + l.length then
        let new := natToBytes n (op.apply (bytesToNat ((l.drop (w - pa)).take n)))
        l.take (w - pa) ++ new ++ l.drop (w - pa + n)
      else l
    | .spawn _ _ _ _ _ => l) l

/-- Bytes that a task, or a context outside any task, reads: committed values under its own performed stores; the lines enter
the read signature. -/
def taskBytes (s : State) (task : Option Nat) (pa n : Nat) : State × List Byte :=
  let line := pa / 64 * 64
  let l := memBytes s.dmem line ((pa % 64 + n + 63) / 64 * 64)
  match task.bind s.task? with
  | none => (touch s pa n, (l.drop (pa % 64)).take n)
  | some t => (noteRead (touch s pa n) t.uid pa n, ((overlay t.cb line l).drop (pa % 64)).take n)

/-- MT of a buffered effect. -/
def CbEntry.mt : CbEntry → Nat
  | .store mt _ _ _ => mt
  | .atomic mt _ _ => mt
  | .spawn mt _ _ _ _ => mt

/-- Entries that a unit holds in the CB of an MT. -/
def cbUsed (s : State) (t : Task) (mt : Nat) : Nat :=
  (taskUnit s t).foldl (fun n u => n + (u.cb.filter (fun e => e.mt == mt)).length) 0

/-- The share of a task in a CB (R145). -/
def cbShare (s : State) (t : Task) : Nat := (taskLaunch s t).elim 0 (·.cbsh)

/-- The share is full. -/
def cbFull (s : State) (t : Task) (mt : Nat) : Bool := decide (cbShare s t ≤ cbUsed s t mt)

/-- An entry is an atomic on a line. -/
def CbEntry.atomicOn (e : CbEntry) (line : Nat) : Bool :=
  match e with
  | .atomic _ w _ => w / 64 * 64 == line
  | _ => false

/-- Bytes of a line that a later store has overwritten leave an entry. -/
def CbEntry.overwritten (e : CbEntry) (line : Nat) (mask : DWord) : CbEntry :=
  match e with
  | .store m l bm d => if l = line then .store m l (bm &&& ~~~mask) d else e
  | _ => e

/-- Merge a store into the entry that its MT's buffer holds for the line (R145), so that each byte keeps its latest store wherever the others
came from (R138, R141); none when the line needs an entry: there is none yet, or an atomic on the line follows it. -/
def cbMerge (mt line : Nat) (mask : DWord) (data : Line) : List CbEntry → Option (List CbEntry)
  | [] => none
  | e :: rest =>
    match cbMerge mt line mask data rest with
    | some r => some (e :: r)
    | none =>
      match e with
      | .store m l bm d =>
        if m = mt ∧ l = line ∧ rest.any (fun x => x.atomicOn line) = false then
          let merged := lineOf (mergeMasked mask.toNat (lineBytes d) (lineBytes data))
          some (.store m l (bm ||| mask) merged :: rest.map (fun x => x.overwritten line mask))
        else none
      | .atomic _ _ _ => none
      | .spawn _ _ _ _ _ => none

/-- An irrevocable task writes its effects through at once; in a lockstep pair they stand in its buffer until the other side has presented them
too (R261). -/
def writesThrough (s : State) (t : Task) : Bool := t.wthrough && !lsSide s.plat (taskPart s t)

/-- Store a line of a task: buffered, or written through by an irrevocable task; none while the share is full (R146). -/
def taskStore (s : State) (task : Option Nat) (mt : SiteNo) (w : LineWrite) : Option State :=
  match task.bind s.task? with
  | none => some (throughLine s mt w none)
  | some t =>
    if w.mask = 0 then some s
    else
      let s' := noteWrite s t.uid w.line 64
      if writesThrough s t then
        some (throughLine (s'.modTask t.uid (fun t => { t with wstores := t.wstores + 1 })) mt w none)
      else
        let bm := BitVec.ofNat 64 w.mask
        if t.wthrough then
          some (s'.modTask t.uid (fun t => { t with wstores := t.wstores + 1, cb := t.cb ++ [.store mt.toNat w.line bm (lineOf w.data)] }))
        else
        match cbMerge mt.toNat w.line bm (lineOf w.data) t.cb with
        | some cb => some (s'.modTask t.uid (fun t => { t with cb := cb }))
        | none =>
          if cbFull s t mt.toNat then none
          else some (s'.modTask t.uid (fun t => { t with cb := t.cb ++ [.store mt.toNat w.line bm (lineOf w.data)] }))

/-- An atomic of a task on one word: the old value that stands there for the task; none while the share is full. Blind atomics enter the write
signature only (R148), whatever value they meet. -/
def taskAtomic (s : State) (task : Option Nat) (mt : SiteNo) (pa op fmt d cmp : Nat) (observed : Bool) : Option (State × Nat) :=
  let n := atomBytes fmt
  let through := fun (s : State) =>
    let old := memNat s.dmem pa n
    let new := atomNew op fmt old d (old == cmp)
    if op = 6 ∧ old ≠ cmp then (s, old)
    else ((lineWrites pa (natToBytes n new)).foldl (fun s w => throughLine s mt w (atomExact op fmt pa d)) s, old)
  match task.bind s.task? with
  | none => some (through s)
  | some t =>
    let s' := noteWrite s t.uid pa n
    if writesThrough s t then some (through (s'.modTask t.uid (fun t => { t with wstores := t.wstores + 1 })))
    else if !t.wthrough && cbFull s t mt.toNat then none
    else
      let s' := if t.wthrough then s'.modTask t.uid (fun t => { t with wstores := t.wstores + 1 }) else s'
      let (s', l) := if observed then taskBytes s' task pa n else (s', (taskBytes s' task pa n).2)
      let old := bytesToNat l
      let a : AtomOp := { op := BitVec.ofNat 3 op, fmt := BitVec.ofNat 4 fmt, arg := BitVec.ofNat 64 d, cmp := BitVec.ofNat 64 cmp, ok := old == cmp }
      some (s'.modTask t.uid (fun t => { t with cb := t.cb ++ [.atomic mt.toNat pa a] }), old)

/-- Apply one buffered effect at commit, under its MT's channels. -/
def applyEntry (s : State) (e : CbEntry) : State :=
  match e with
  | .store mt line mask data =>
    let old := memBytes s.dmem line 64
    let s := putLine s { line := line, mask := mask.toNat, data := lineBytes data }
    monitorCommit s (BitVec.ofNat 13 mt) line mask.toNat old (mergeMasked mask.toNat old (lineBytes data)) none
  | .atomic mt pa op =>
    let n := atomBytes op.fmt.toNat
    let new := op.apply (memNat s.dmem pa n)
    if op.op = 6 ∧ op.ok = false then s
    else (lineWrites pa (natToBytes n new)).foldl (fun s w =>
      let old := memBytes s.dmem w.line 64
      monitorCommit (putLine s w) (BitVec.ofNat 13 mt) w.line w.mask old (mergeMasked w.mask old w.data)
        (atomExact op.op.toNat op.fmt.toNat pa op.arg.toNat)) s
  | .spawn _ _ _ _ _ => s

/-! ## Accesses of the task dispatcher, sequencers, engines and the host -/

/-- Pieces of a range that lie within one 4 KiB page each. -/
def pagePieces (va n : Nat) : List (Nat × Nat) :=
  (List.range ((va % 4096 + n + 4095) / 4096)).map (fun i =>
    let a := if i = 0 then va else (va / 4096 + i) * 4096
    (a, min ((va / 4096 + i + 1) * 4096) (va + n) - a))

/-- Translate the pieces of a range: physical pieces, or the first address that fails. -/
def translateRange (s : State) (l : List Tlb) (part : Nat) (i : Intent) :
    List (Nat × Nat) → State × List Tlb × Except (Nat × XOut) (List (Nat × Nat))
  | [] => (s, l, .ok [])
  | (va, n) :: rest =>
    match translate s l part va i with
    | (s, l, .ok x) =>
      match translateRange s l part i rest with
      | (s, l, .ok ps) => (s, l, .ok ((x.pa, n) :: ps))
      | (s, l, .error e) => (s, l, .error e)
    | (s, l, o) => (s, l, .error (va, o))

/-- Outcome of an access through a partition's tables. -/
inductive Access (α : Type) where
  | done (v : α)
  | wait
  /-- translation failure of reason 1: a page fault at this address -/
  | miss (va : Nat)
  /-- another failure: reason and address -/
  | bad (reason va : Nat)

/-- The failure of a translation as an access sees it. -/
def accessError {α : Type} (e : Nat × XOut) : Access α :=
  match e.2 with
  | .wait => .wait
  | .fail 1 => .miss e.1
  | .fail r => .bad r e.1
  | .ok _ => .wait

/-- Bytes at a virtual address, as a non-task agent reads them. -/
def virtBytes (s : State) (l : List Tlb) (part va n : Nat) (i : Intent) : State × List Tlb × Access (List Byte) :=
  match translateRange s l part i (pagePieces va n) with
  | (s, l, .ok ps) => (ps.foldl (fun s p => touch s p.1 p.2) s, l, .done (ps.flatMap (fun p => memBytes s.dmem p.1 p.2)))
  | (s, l, .error e) => (s, l, accessError e)

/-- Write bytes at a virtual address, each line a commit of its own at the horizon; frames that have been sealed refuse (R131). -/
def virtWrite (s : State) (l : List Tlb) (part va : Nat) (data : List Byte) : State × List Tlb × Access Unit :=
  match translateRange s l part writeIntent (pagePieces va data.length) with
  | (s, l, .ok ps) =>
    if ps.any (fun p => sealedAt s p.1 p.2) then (s, l, .bad 3 va)
    else
    let r := ps.foldl (fun (acc : State × List Byte) p => (commitBytes acc.1 part p.1 (acc.2.take p.2), acc.2.drop p.2)) (s, data)
    (r.1, l, .done ())
  | (s, l, .error e) => (s, l, accessError e)

/-- Reads and writes of agents that keep no translation cache of their own. -/
def readVirt (s : State) (part va n : Nat) : State × Access (List Byte) :=
  let r := virtBytes s [] part va n readIntent
  (r.1, r.2.2)
def writeVirt (s : State) (part va : Nat) (data : List Byte) : State × Access Unit :=
  let r := virtWrite s [] part va data
  (r.1, r.2.2)

/-! ## Shoot-down (R122, R408, R421) -/

/-- Drop translations of a range in the XTCs and sequencer caches of a partition. -/
def dropTranslations (s : State) (part va n : Nat) : State :=
  { s with sites := s.sites.foldl (fun t p => tabSet t p.1 { p.2 with xtc := tlbDrop p.2.xtc part va n } Site.reset) s.sites
           sqs := s.sqs.foldl (fun t p => tabSet t p.1 { p.2 with tlb := tlbDrop p.2.tlb part va n } Sq.reset) s.sqs }

/-- Reissue logs of a partition lose the entries of a generation, which no element in flight carries any more (R122). -/
def forgetReissues (s : State) (part : Nat) (gen : BitVec 7) : State :=
  { s with elems := s.elems.map (fun p =>
      if partOfSite s (eaSite (keyEa p.1)) = part ∧ p.2.ops.any (fun o => !o.2.relog.isEmpty) = true then
        (p.1, { p.2 with ops := p.2.ops.map (fun o => (o.1, { o.2 with relog := o.2.relog.filter (fun r => r.gen != gen) })) })
      else p) }

/-- Every cache drops the range and GEN rises by one; log entries of the generation that comes round again are stale. -/
def shootDown (s : State) (part va n : Nat) : State :=
  let s := dropTranslations s part va n
  forgetReissues (s.modPart part (fun p => { p with gen := p.gen + 1 })) part ((s.part part).gen + 1)

end Sys2Proof.Machine
end

