-- ==== Sys2Proof/Machine/Agn.lean ====
section
/-! DEFINITION. Machine/Agn.lean: address-generator nodes (R95 to R98, R112, R121, R122, R137, R138, R290, R291): where addresses
come from, what is decided before an access, how lines are read and written, and one meaning for each operator of class 5. Results
wait in the operator until ACCESS_RESULT hands them on; WALK_COMPLETE ends the translation of a withheld token. -/

namespace Sys2Proof.Machine

/-! ## A node -/

/-- Where an address-generator node stands when it fires. -/
structure AgnView where
  site : SiteNo
  ctx  : BitVec 2
  n    : Nat
  w    : OpWord
  code : Nat
  e    : ElemCtx
  op   : OpSt
  now  : Nat

/-- Element address of the tile body. -/
def AgnView.ea (v : AgnView) : EAddr := siteEa v.site 0
/-- Place of an AGN among the operators of an MT context. -/
def agnIdx (n : Nat) : Nat := 32 + n
/-- PORT: 0 LOCAL, 1 NEAR, 2 STREAM (Table 12-9). -/
def AgnView.port (v : AgnView) : Nat := v.e.agnb v.n % 4
/-- Bank-rotation code. -/
def AgnView.rot (v : AgnView) : Nat := bits (v.e.agnb v.n) 2 2
/-- ADDRSRC = 1: addresses come from base and stride. -/
def AgnView.fromBase (v : AgnView) : Bool := bitSet (v.e.agnb v.n) 4
/-- PAGEFED. -/
def AgnView.paged (v : AgnView) : Bool := bitSet (v.e.agnb v.n) 5
/-- BASE. -/
def AgnView.base (v : AgnView) : Nat := v.e.field (12 + 4 * v.n) + 2 ^ 32 * (v.e.field (13 + 4 * v.n) % 2 ^ 25)
/-- STRIDE. -/
def AgnView.stride (v : AgnView) : Int := (BitVec.ofNat 32 (v.e.field (14 + 4 * v.n))).toInt
/-- LIMIT. -/
def AgnView.limit (v : AgnView) : Nat := v.e.field (15 + 4 * v.n)
/-- The partition of the tile. -/
def AgnView.part (v : AgnView) (s : State) : Nat := partOfSite s v.site
/-- A field of IMM. -/
def AgnView.imm (v : AgnView) (lo n : Nat) : Nat := bits v.w.imm.toNat lo n
/-- Output ports in use: results first, completions second. -/
def AgnView.outs (v : AgnView) : List Nat := ([v.w.dst.toNat, v.w.kidx.toNat]).filter (fun p => decide (p < 4))
/-- The stamp of a source. -/
def AgnView.stampSrc (v : AgnView) : BitVec 20 := v.ea ++ BitVec.ofNat 4 (v.n + 1)

/-- The view of an AGN. -/
def agnView (s : State) (site : SiteNo) (ctx : BitVec 2) (n : Nat) (w : OpWord) (code : Nat) : AgnView :=
  let e := s.elem (siteEa site 0) ctx
  { site := site, ctx := ctx, n := n, w := w, code := code, e := e, op := e.op (agnIdx n), now := s.time }

/-! ## Physical-address elements (Table 4-10) -/

def elPa (x : Nat) : Nat := bits x 0 52
def elSize (x : Nat) : Nat := leafSize (bits x 52 3 / 2 + 1) (bits x 52 1 == 1)
def elWok (x : Nat) : Bool := bitSet x 55
def elGen (x : Nat) : Nat := bits x 56 7
def elFault (x : Nat) : Bool := bitSet x 63
/-- A fault element. -/
def faultEl (reason : Nat) : Nat := 2 ^ 63 + reason
/-- The element of a translation under a generation. -/
def elOf (x : Xlated) (gen : BitVec 7) : Nat :=
  x.pa % 2 ^ 52 + x.sz * 2 ^ 52 + (if x.wok then 2 ^ 55 else 0) + gen.toNat * 2 ^ 56
/-- The element with another PA. -/
def elWithPa (x pa : Nat) : Nat := x / 2 ^ 52 * 2 ^ 52 + pa % 2 ^ 52

/-- Address i of an address token, valid when both of its lanes are (R96). -/
def addrElem (t : Token) (i : Nat) : Option Nat := if elemValid t.mask 64 i then some (elemNat t.pay 64 i) else none

/-! ## Why a firing does not go on -/

/-- A fault with its class, sub-code and address; a page fault held under a number; or a wait. -/
inductive AgnStop where
  | fault (cls sub addr : Nat)
  | hold (fseq va : Nat)
  | wait
deriving DecidableEq, Repr

/-- ADDRANGE at an address. -/
def addrange (a : Nat) : AgnStop := .fault 4 0 a

/-- Intent of an operator's accesses. -/
def codeIntent (code : Nat) : Intent :=
  if code = 321 ∨ code = 323 ∨ code = 328 then writeIntent else if code = 325 ∨ code = 329 then bothIntent else readIntent

/-- A translation failure as `xlat` without NF meets it (R120, Table 4-8). -/
def xlatStop (s : State) (v : AgnView) (va : Nat) (i : Intent) (reason : Nat) : State × AgnStop :=
  if reason = 1 then
    let (s, n) := raiseFault s (v.part s) va i { ea := v.ea, src := 0, ctx := v.ctx, task := v.e.task }
    (s, .hold n va)
  else (s, .fault (if reason = 2 ∨ reason = 3 ∨ reason = 7 then 6 else 5) reason va)

/-! ## Translation through the tile's cache, and again (R99, R122) -/

/-- Translate through the translation cache of a tile. -/
def tileXlat (s : State) (site : SiteNo) (part va : Nat) (i : Intent) : State × XOut :=
  let (s, l, o) := translate s (s.site site).xtc part va i
  (s.modSite site (fun t => { t with xtc := l }), o)

/-- Walk again whatever the cache holds. -/
def tileWalk (s : State) (site : SiteNo) (part va : Nat) (i : Intent) : State × XOut :=
  let (s, l, o) := walkInto s (tlbDrop (s.site site).xtc part va 1) part va i
  (s.modSite site (fun t => { t with xtc := l }), o)

/-- Sources of routers, one step back from a source of a router: the neighbour's for a mesh direction, the data inputs' for a control
slot. -/
def sourcesBack (s : State) (ctx : BitVec 2) (site : SiteNo) (code : Nat) : List (SiteNo × Nat) :=
  let r := s.elem (siteEa site 1) ctx
  if code < 4 then
    (siteNeighbour site (BitVec.ofNat 2 code)).toList.map (fun m => (m, (s.elem (siteEa m 1) ctx).field ((code + 2) % 4) % 32))
  else if 8 ≤ code ∧ code < 24 then
    let n := (code - 8) / 2
    ((List.range 3).filter (fun i => r.inNet n i == some .data)).map (fun i => (site, r.slotLink n i))
  else []

/-- The `xlat` nodes of a tile that put their results on a port of its. -/
def xlatsOn (s : State) (ctx : BitVec 2) (site : SiteNo) (code : Nat) : List (SiteNo × Nat) :=
  let b := s.elem (siteEa site 0) ctx
  if 4 ≤ code ∧ code < 8 then
    ((List.range 4).filter (fun n => bitSet (b.agnb n) 6 && opcodeOf (b.agnWord n) == 326
      && (OpWord.ofBits (b.agnWord n)).dst.toNat == code - 4)).map (fun n => (site, n))
  else []

/-- Follow sources of routers back, each once, and gather the `xlat` nodes met. -/
def feedersFrom (s : State) (ctx : BitVec 2) : Nat → List (SiteNo × Nat) → List (SiteNo × Nat) → List (SiteNo × Nat)
  | 0, _, _ => []
  | _ + 1, _, [] => []
  | k + 1, seen, x :: todo =>
    if seen.contains x then feedersFrom s ctx k seen todo
    else xlatsOn s ctx x.1 x.2 ++ feedersFrom s ctx k (x :: seen) (todo ++ sourcesBack s ctx x.1 x.2)

/-- The `xlat` nodes whose data outputs reach a source of a router unchanged (R108). A package has 5,120 routers of 32 sources, each leading
back to three at most. -/
def feeders (s : State) (ctx : BitVec 2) (site : SiteNo) (code : Nat) : List (SiteNo × Nat) :=
  feedersFrom s ctx (4 * 5120 * 32) [] [(site, code)]

/-- The `xlat` nodes that feed a port of a tile. -/
def portFeeders (s : State) (v : AgnView) (p : Nat) : List (SiteNo × Nat) :=
  feeders s v.ctx v.site ((s.elem (siteEa v.site 1) v.ctx).field (8 + p) % 32)

/-- The word of an `xlat` node. -/
def xlatWord (s : State) (ctx : BitVec 2) (f : SiteNo × Nat) : OpWord := OpWord.ofBits ((s.elem (siteEa f.1 0) ctx).agnWord f.2)

/-- Keep a translation that an element carries in an `xlat`'s reissue log. -/
def noteReissue (op : OpSt) (r : Reissue) : OpSt := if op.relog.contains r then op else { op with relog := r :: op.relog }

/-- The log entry of a translation. -/
def reissueOf (x : Xlated) (va : Nat) (intent : BitVec 2) (gen : BitVec 7) : Reissue :=
  { vpage := va / x.size * x.size, ppage := x.pa - (va - va / x.size * x.size), size := x.size, intent := intent, gen := gen }

/-- What stands for an element that is translated again. -/
inductive Again where
  | el (x : Nat)
  | stop (a : AgnStop)

/-- Translate an element of an older generation again, by the log of an `xlat` that feeds the address port and under that node's intent. Of
several pages in the logs the newest entry of the first feeder that has one serves (DESIGN CHOICE: R122 leaves it open; log entry 115). -/
def reElement (s : State) (v : AgnView) (x : Nat) : State × Again :=
  let found := (portFeeders s v v.w.sa.toNat).findSome? (fun f =>
    let op := (s.elem (siteEa f.1 0) v.ctx).op (agnIdx f.2)
    (op.relog.find? (fun r => r.gen.toNat == elGen x && r.intent.toNat == (xlatWord s v.ctx f).imm.toNat % 4
      && decide (r.ppage ≤ elPa x) && decide (elPa x < r.ppage + r.size))).map
      (fun r => (f, r)))
  match found with
  | none => (s, .stop (.fault 5 1 (elPa x)))
  | some (f, r) =>
    let part := v.part s
    let va := r.vpage + (elPa x - r.ppage)
    let i := Intent.ofBits r.intent.toNat
    let word := xlatWord s v.ctx f
    match tileWalk s f.1 part va i with
    | (s, .ok y) =>
      let gen := (s.part part).gen
      let s := s.modElem (siteEa f.1 0) v.ctx (fun e => e.setOp (agnIdx f.2) (noteReissue (e.op (agnIdx f.2)) (reissueOf y va r.intent gen)))
      (s, .el (elOf y gen))
    | (s, .wait) => (s, .stop .wait)
    | (s, .fail n) =>
      if bitSet word.imm.toNat 2 then (s, .el (faultEl n))
      else
        let (s, a) := xlatStop s v va i n
        (s, .stop a)

/-! ## Places -/

/-- Where an access falls: a tile's banks or device memory. -/
inductive Place where
  | spad (site : SiteNo) (off : Nat)
  | dev (pa : Nat)
deriving DecidableEq, Repr

/-- One address to be decided: the address or element, the port it goes to (and whether BASE and LIMIT bound it), bytes,
alignment, direction. -/
structure Ask where
  x     : Nat
  port  : Nat
  bound : Bool
  n     : Nat
  align : Nat
  write : Bool

/-- An access lies in BASE to BASE + LIMIT; LIMIT 0 bounds nothing under STREAM (R286). -/
def AgnView.inWindow (v : AgnView) (a n : Nat) : Bool :=
  (v.port == 2 && v.limit == 0) || (decide (v.base ≤ a) && decide (a + n ≤ v.base + v.limit))

/-- Decide one address: its place, none for an inactive element. -/
def decideAsk (s : State) (v : AgnView) (q : Ask) : State × Except AgnStop (Option Place) :=
  let spadAt := fun (site : SiteNo) (off : Nat) =>
    if q.x % q.align = 0 ∧ (!q.bound || v.inWindow q.x q.n) ∧ inRange s site off q.n = true then .ok (some (.spad site off))
    else Except.error (addrange q.x)
  match q.port with
  | 0 => (s, spadAt v.site q.x)
  | 1 =>
    (s, if q.x < 2 ^ 25 then spadAt (blockMt (siteBlock v.site) (q.x / 2 ^ 21)) (q.x % 2 ^ 21) else .error (addrange q.x))
  | _ =>
    let stale := !elFault q.x && elGen q.x != ((s.part (v.part s)).gen).toNat
    let (s, again) := if stale then reElement s v q.x else (s, .el q.x)
    match again with
    | .stop a => (s, .error a)
    | .el x =>
      if elFault x then (s, .ok none)
      else
        let pa := elPa x
        if pa % q.align ≠ 0 ∨ elSize x < pa % elSize x + q.n ∨ (q.bound && !v.paged && !v.inWindow pa q.n) then (s, .error (addrange pa))
        else if q.write && !elWok x then (s, .error (.fault 6 2 pa))
        else if q.write && sealedAt s pa q.n then (s, .error (.fault 6 3 pa))
        else (s, .ok (some (.dev pa)))

/-- Decide all addresses of a firing before any access of it; a stop comes with the number of the address it is about. -/
def decideAll (v : AgnView) : State → List Ask → State × Except (AgnStop × Nat) (List (Option Place))
  | s, [] => (s, .ok [])
  | s, q :: rest =>
    match decideAsk s v q with
    | (s, .error a) => (s, .error (a, 0))
    | (s, .ok p) =>
      match decideAll v s rest with
      | (s, .ok l) => (s, .ok (p :: l))
      | (s, .error (a, i)) => (s, .error (a, i + 1))

/-- The place some bytes further. -/
def Place.plus (p : Place) (n : Nat) : Place :=
  match p with
  | .spad site off => .spad site (off + n)
  | .dev pa => .dev (pa + n)

/-- The line a place lies in. -/
def Place.line (p : Place) : Place :=
  match p with
  | .spad site off => .spad site (off / 64 * 64)
  | .dev pa => .dev (pa / 64 * 64)

/-- Byte of a place within its line. -/
def Place.byte (p : Place) : Nat :=
  match p with
  | .spad _ off => off % 64
  | .dev pa => pa % 64

/-! ## Reading and writing -/

/-- Requester place of an AGN's access (R203). -/
def AgnView.place (v : AgnView) (site : SiteNo) : Nat := if v.code = 322 ∨ v.code = 323 then accessGsq else if site = v.site then v.n else accessNear

/-- Read the 64 bytes of a line; answers whether the read failed (R211). -/
def readLine (s : State) (v : AgnView) (p : Place) : State × List Byte × Bool :=
  match p with
  | .spad site off =>
    let (s, r) := readSpad s site v.ctx (v.place site) off v.rot
    (s, lineBytes r.line, r.failed)
  | .dev pa =>
    let (s, l) := taskBytes s v.e.task pa 64
    (s, l, false)

/-- Read n bytes that may cross lines. -/
def readSome (s : State) (v : AgnView) (p : Place) (n : Nat) : State × List Byte × Bool :=
  match p with
  | .dev pa =>
    let (s, l) := taskBytes s v.e.task pa n
    (s, l, false)
  | .spad site off =>
    let k := (off % 64 + n + 63) / 64
    let r := (List.range k).foldl (fun (acc : State × List Byte × Bool) i =>
      let (s, l, f) := readLine acc.1 v (.spad site ((off / 64 + i) * 64))
      (s, acc.2.1 ++ l, acc.2.2 || f)) (s, [], false)
    (r.1, (r.2.1.drop (off % 64)).take n, r.2.2)

/-- Read each distinct line of some places once. -/
def readLines (v : AgnView) : State → List Place → State × List (Place × List Byte × Bool)
  | s, [] => (s, [])
  | s, p :: rest =>
    let (s, l, f) := readLine s v p
    let (s, more) := readLines v s rest
    (s, (p, l, f) :: more)

/-- Write a line's bytes under a mask; none while the task's share of the commit buffer is full. The answer says whether the write was made: one
that the parity banks suppress tags the completion (R206). -/
def writeLine (s : State) (v : AgnView) (p : Place) (mask : Nat) (l : List Byte) (exact : ExactOperand) : Option (State × Bool) :=
  match p with
  | .spad site off => some (writeSpad s site v.ctx (v.place site) off v.rot mask l exact)
  | .dev pa => (taskStore s v.e.task v.site { line := pa, mask := mask, data := l }).map (fun s => (s, true))

/-- Write bytes that may cross lines. -/
def writeSome (s : State) (v : AgnView) (p : Place) (l : List Byte) : Option (State × Bool) :=
  (lineWrites p.byte l).foldl (fun r w => r.bind (fun r =>
    (writeLine r.1 v (p.line.plus w.line) w.mask w.data none).map (fun x => (x.1, r.2 && x.2)))) (some (s, true))

/-- Bytes of a token's valid lanes. -/
def laneMask (m : BitVec 16) : Nat := lanes16.foldr (fun j acc => (if maskBit m j then 15 else 0) * 16 ^ j + acc) 0

/-- A store or atomic that a tag suppresses: counted, and the task is poisoned where R219 says so. The ranges that it would have written are
address elements, each with its bytes. -/
def suppressAt (s : State) (v : AgnView) (port : Nat) (l : List (Nat × Nat)) : State :=
  let s := countSuppressed s v.ea
  let held : Bool := (v.e.task.bind s.task?).any (fun t =>
    l.any (fun p => !elFault p.1 && (sigLines (elPa p.1) p.2).any (mayHold (unitRsig s t))))
  if port ≠ 2 ∨ held then poisonTask s v.e.task else s

/-! ## What a firing answers -/

/-- Outcome of a firing. -/
inductive AgnOut where
  /-- the inputs are consumed; results with their output ports -/
  | done (op : OpSt) (res : List (Nat × Token)) (poison : Bool)
  | stop (f : FaultInfo)
  /-- the inputs stay; the operator tries again -/
  | stay (op : OpSt)

/-- Fault record of an AGN. -/
def agnFault (v : AgnView) (cls sub addr : Nat) (t : Token) : FaultInfo :=
  { faultInfo cls sub (8 + v.n) t with word := opWord64 v.code v.w, fmts := v.w.fmt.toNat, addr := addr }

/-- ARITH-NAN of an AGN (R71): its float source besides the memory word stands at port B. -/
def agnNanFault (v : AgnView) (addr : Nat) (t : Token) : FaultInfo :=
  { agnFault v 2 0 addr t with fmts := v.w.fmt.toNat + 256 * v.w.fmt.toNat }

/-- The outcome of a stop. -/
def stopOut (v : AgnView) (t : Token) (a : AgnStop) : AgnOut :=
  match a with
  | .fault cls sub addr => .stop (if cls = 2 then agnNanFault v addr t else agnFault v cls sub addr t)
  | .hold n va => .stay { v.op with fault := some (n, va), mig := none }
  | .wait => .stay { v.op with mig := some (v.op.mig.getD v.now) }

/-- The outcome of a stop at element i of a token of addresses or keys (ELEM and LANE of Table 10-2). -/
def stopAt (v : AgnView) (t : Token) (a : AgnStop) (i : Nat) : AgnOut :=
  match stopOut v t a with
  | .stop f => .stop { f with elem := i, lane := 2 * i }
  | o => o

/-- A store waits for room in the commit buffer (R146). -/
def stalled (op : OpSt) : OpSt := { op with mode := .hold, mig := none }

/-- A result on the result port. -/
def AgnView.result (v : AgnView) (t : Token) : List (Nat × Token) := if v.w.dst.toNat < 4 then [(v.w.dst.toNat, t)] else []

/-- The completion token (R415): payload and LANEMASK 0, sideband of the token that supplied the address. -/
def AgnView.completion (v : AgnView) (side : Token) (tag : Bool) : List (Nat × Token) :=
  if v.w.kidx.toNat < 4 then [(v.w.kidx.toNat, (emptyToken side).orTag tag)] else []

/-- What the data of a request does: the state, the view, the address token and the other inputs. -/
abbrev AgnBody := State → AgnView → Token → List Token → State × AgnOut

/-! ## One firing -/

/-- Ports whose tokens a node takes together, the address port first. -/
def agnInputs (v : AgnView) : List Nat :=
  let a := if v.fromBase then [] else [v.w.sa.toNat]
  let d := match v.code with
    | 321 => [v.w.sb.toNat]
    | 323 => [v.w.sb.toNat]
    | 325 => v.w.sb.toNat :: (if v.imm 0 4 = 6 then [v.w.sc.toNat] else [])
    | 327 => if v.imm 0 2 = 0 then [] else [v.w.sb.toNat]
    | 328 => [v.w.sb.toNat]
    | _ => []
  a ++ d

/-- Consume the head of a port. -/
def ElemCtx.popPort (e : ElemCtx) (p : Nat) : ElemCtx := e.setQueue p (e.queue p).tail

/-- A wait at MIG is over: its time does not count for the watchdog (R127). -/
def migEnds (s : State) (v : AgnView) : State :=
  match v.op.mig, v.e.task with
  | some since, some uid => s.modTask uid (fun t => { t with excused := t.excused + (s.time - max since t.lastFire) })
  | _, _ => s

/-- The operator stays with its inputs; a wait at MIG begins, goes on or ends. -/
def stayAgn (s : State) (v : AgnView) (op : OpSt) : State :=
  let s := if op.mig.isNone then migEnds s v else s
  s.modElem v.ea v.ctx (fun e => e.setOp (agnIdx v.n) { op with relog := (e.op (agnIdx v.n)).relog })

/-- Put an outcome into the machine: results wait in the operator, in issue order (R96). -/
def applyAgn (s : State) (v : AgnView) (lead : Token) (pops : List Nat) (o : AgnOut) : State :=
  match o with
  | .stop f => traceEvent (stopFault s v.ea v.ctx f) v.ea v.ctx 3 lead
  | .stay op => stayAgn s v op
  | .done op res poison =>
    let s := noteFiring s v.ea v.ctx (agnIdx v.n) lead
    let s := if poison then poisonTask s v.e.task else s
    let gsq := (v.code == 322 || v.code == 323) && lead.kind == .data && !res.isEmpty
    let s := if gsq then s.modSite v.site (fun t => { t with gsq := t.gsq + 1 }) else s
    s.modElem v.ea v.ctx (fun e =>
      let e := pops.foldl ElemCtx.popPort e
      e.setOp (agnIdx v.n) { op with res := op.res ++ res, lastFire := s.time + 1, ended := op.ended || lead.isEnd
                                     mode := .idle, fault := none, mig := none })

/-- Forward the cut marker on every output and stop (R243). -/
def agnCut (s : State) (v : AgnView) (pops : List Nat) (t : Token) : State :=
  let s := s.modElem v.ea v.ctx (fun e =>
    let e := pops.foldl ElemCtx.popPort e
    let op := e.op (agnIdx v.n)
    e.setOp (agnIdx v.n) { op with cut := true, fault := none, mig := none, res := op.res ++ v.outs.map (fun p => (p, t)) })
  traceEvent s v.ea v.ctx 4 t

/-- The cut marker of the task of a context. -/
def taskCut (s : State) (e : ElemCtx) (side : Token) : Token :=
  match e.task.bind s.task? with
  | some k => cutToken k.cutNo k.cutWhy side
  | none => cutToken 0 0 side

/-- A cut marker has arrived on a port, at its head or behind tokens that have not been consumed. -/
def cutIn (e : ElemCtx) (p : Nat) : Bool := (e.queue p).any (fun t => t.kind == .cut)

/-- Take the cut that has arrived on every port: the markers leave the queues, and what stands ahead of one or behind it stays (R243). -/
def cutPorts (s : State) (v : AgnView) (ports : List Nat) : State :=
  let t := (ports.findSome? (fun p => (v.e.queue p).find? (fun t => t.kind == .cut))).getD (taskCut s v.e Token.zero)
  agnCut (s.modElem v.ea v.ctx (fun e => ports.foldl (fun e p => e.setQueue p ((e.queue p).filter (fun t => t.kind != .cut))) e)) v [] t

/-- The region of a context is being cut. -/
def beingCut (s : State) (e : ElemCtx) : Bool := (e.task.bind s.task?).elim false (fun k => k.phase == .cutting)

/-- What the PC's answer to a held page fault brings (R124): none while it is pending or when the access goes on. -/
def faultEnds (s : State) (v : AgnView) (fseq va : Nat) : State × Bool :=
  match faultStatus s (v.part s) fseq with
  | 0 => (s, true)
  | 2 => (stopFault (dropFault s (v.part s) fseq) v.ea v.ctx (agnFault v 5 1 va Token.zero), true)
  | 3 =>
    let s := dropFault s (v.part s) fseq
    let s := s.modElem v.ea v.ctx (fun e => { e with stopped := true })
    (match v.e.task with
      | none => s
      | some uid => s.modTask uid (fun t =>
          { t with
            phase := if t.phase = .running || t.phase = .repairing || t.phase = .cutting then .freezing else t.phase
            fault := earlierFault t.fault { cls := 4, reason := 0, unit := v.ea, detail := BitVec.ofNat 32 fseq, addr := BitVec.ofNat 64 va, time := s.time } }),
     true)
  | _ => (dropFault s (v.part s) fseq, false)

/-- The node may fire: released, not stopped, not cut, and with room for results. -/
def agnLive (s : State) (v : AgnView) : Bool :=
  v.e.released && !v.e.stopped && !v.op.cut && decide (v.op.res.length < 64)
    && !((v.code == 322 || v.code == 323) && decide (64 ≤ (s.site v.site).gsq))

/-- A cut marker stands at the head of an input. -/
def cutHead (e : ElemCtx) (p : Nat) : Bool := ((e.queue p).head?.map (fun t => t.kind == .cut)).getD false

/-- Ports at which a node meets the markers of a cut: a page-fed one takes its page port too. -/
def AgnView.cutInputs (v : AgnView) : List Nat := agnInputs v ++ (if v.fromBase && v.paged then [v.w.sa.toNat] else [])

/-- BASE + n * STRIDE; none below 0. -/
def AgnView.streamAddr (v : AgnView) (n : Nat) : Option Nat :=
  let a := (v.base : Int) + n * v.stride
  if a < 0 then none else some a.toNat

/-- A page-fed node cannot fire without a further page token, and the marker of a cut stands in its place (R243). -/
def AgnView.pageCut (v : AgnView) : Bool :=
  v.fromBase && v.paged && cutHead v.e v.w.sa.toNat && (match v.streamAddr v.op.count, v.op.page with
    | some a, some (vb, x) => decide (a < vb ∨ vb + elSize x.toNat ≤ a)
    | _, _ => true)

/-- Fire a node whose addresses come as tokens: headers and markers pass to every output (R370, R414, R430); `st` stores headers. -/
def fireTokens (s : State) (v : AgnView) (body : AgnBody) : State :=
  let ports := agnInputs v
  let heads := ports.filterMap (fun p => (v.e.queue p).head?)
  let bad := fun (sub : Nat) (t : Token) => applyAgn s v t [] (.stop (agnFault v 1 sub 0 t))
  match heads with
  | [] => s
  | t :: rest =>
    if heads.length < ports.length then s
    else if heads.any (fun u => u.kind == .cut) || v.pageCut then (if v.cutInputs.all (cutIn v.e) then cutPorts s v v.cutInputs else s)
    else
      let stores := v.code == 321 && (t.kind == .data || (v.fromBase && t.kind == .header)) && rest.all (fun u => u.kind == .data || u.kind == .header)
      if stores ∨ heads.all (fun u => u.kind == .data) = true then
        let s := if randPaired heads then poisonTask s v.e.task else s
        let (s, o) := body s v t rest
        applyAgn s v t ports o
      else
        match kindsAgree heads with
        | some sub => bad sub t
        | none =>
          if v.code = 321 ∧ !v.fromBase ∧ t.kind = .header then bad 2 t
          else applyAgn s v t ports (.done v.op (v.outs.map (fun p => (p, t))) false)

/-- Run a node: the answer to a held fault first, then a cut that overtakes a held request (R244), then a firing. -/
def agnStep (s : State) (v : AgnView) (fire : State → AgnView → State) : State :=
  if !agnLive s v then s
  else
    match v.op.fault with
    | none => fire s v
    | some (fseq, va) =>
      if (agnInputs v).isEmpty ∧ beingCut s v.e = true then fire s { v with op := { v.op with fault := none } }
      else if v.cutInputs.any (cutIn v.e) then (if v.cutInputs.all (cutIn v.e) then cutPorts s v v.cutInputs else s)
      else
        match faultEnds s v fseq va with
        | (s, true) => s
        | (s, false) => fire s { v with op := { v.op with fault := none } }

/-- Run an operator of class 5 on behalf of the AGN in focus. -/
def runAgn (s : State) (w : OpWord) (code : Nat) (fire : State → AgnView → State) : Result :=
  match s.focus with
  | .agn ea ctx n => .next (agnStep s (agnView s (eaSite ea) ctx n w code) fire)
  | _ => .refused .wrongElement

/-! ## Base and stride (R291), page-fed streams (R121) -/

/-- What a page-fed walk finds for an address. -/
inductive PageFed where
  /-- the address as an element, its tag, whether a page token was taken, and the element of the page in hand -/
  | el (s : State) (x : Nat) (tag : Bool) (taken : Bool) (page : Nat)
  | empty
  | stop (s : State) (a : AgnStop)

/-- The element of a virtual address under the page in hand or the next page token. One of an older generation is translated again through the
tile's own cache, under the intent of the `xlat` that feeds the page port, and a failure acts as that node's would (R122). -/
def pageElement (s : State) (v : AgnView) (va : Nat) (own : Intent) : PageFed :=
  let held := match v.op.page with
    | some (vb, x) => if vb ≤ va ∧ va < vb + elSize x.toNat then some (x.toNat, v.op.tagged, false) else none
    | none => none
  let fed := match held with
    | some h => some h
    | none => match (v.e.queue v.w.sa.toNat).head? with
      | some t => if t.kind = TokKind.data then some ((addrElem t 0).getD (faultEl 0), t.etag, true) else none
      | none => none
  match fed with
  | none => .empty
  | some (x, tag, taken) =>
    if elFault x ∨ tag then .el s (faultEl (x % 256)) tag taken x
    else if elSize x < v.stride.natAbs then .stop s (addrange va)
    else
      let here := fun (x : Nat) => elWithPa x (elPa x / elSize x * elSize x + va % elSize x)
      if elGen x = ((s.part (v.part s)).gen).toNat then .el s (here x) tag taken x
      else
        let word := (portFeeders s v v.w.sa.toNat).head?.map (xlatWord s v.ctx)
        let i := word.elim own (fun w => Intent.ofBits w.imm.toNat)
        match tileXlat s v.site (v.part s) va i with
        | (s, .ok y) =>
          let x := elOf y (s.part (v.part s)).gen
          .el s x tag taken x
        | (s, .wait) => .stop s .wait
        | (s, .fail r) =>
          if word.any (fun w => bitSet w.imm.toNat 2) then .el s (faultEl r) tag taken x
          else
            let (s, a) := xlatStop s v va i r
            .stop s a

/-- The operator after a page-fed access. -/
def withPage (op : OpSt) (va x : Nat) (tag : Bool) : OpSt :=
  { op with page := some (va / elSize x * elSize x, BitVec.ofNat 64 x), tagged := tag }

/-! ## Loads (R369 to R375) -/

/-- Rows of a transposed block, or 1: c of R112. -/
def blockSide (t : Nat) : Nat := if t = 1 then 64 else if t = 2 then 32 else 1

/-- Bytes of a block that begins at a row, with a pitch. -/
def blockSpan (t ps : Nat) : Nat := (blockSide t - 1) * ps + 64

/-- The conditions of R112 on FMT, S and PS. -/
def blockOk (t fmt start ps : Nat) : Bool :=
  start % 64 == 0 && ps % 64 == 0 && ps != 0 && fmtWidth fmt == (if t = 1 then 8 else 16)

/-- A token of loaded bytes; a failed read yields zero lanes with ETAG (R211, R371). -/
def loadedToken (side : Token) (l : List Byte) (failed : Bool) : Token :=
  let t := dataToken (lineOf l) 0xFFFF#16 side
  if failed then { t with pay := 0, res := regenRes 0 t.mask, etag := true } else t

/-- Read the rows of a block. -/
def readRows (s : State) (v : AgnView) (p : Place) (ps k : Nat) : State × List (List Byte) × Bool :=
  (List.range k).foldl (fun (acc : State × List (List Byte) × Bool) i =>
    let (s, l, f) := readLine acc.1 v (p.plus (i * ps))
    (s, acc.2.1 ++ [l], acc.2.2 || f)) (s, [], false)

/-- Column j of a block: element i is source element (i, j). -/
def blockColumn (rows : List (List Byte)) (e j : Nat) : List Byte := rows.flatMap (fun r => (r.drop (j * e)).take e)

/-- LD of one address: its tokens, or why it stops. `cols` are the block columns wanted. -/
def loadAt (s : State) (v : AgnView) (side : Token) (x : Option Nat) (ps : Nat) (cols : List Nat) : State × Except AgnStop (List Token) :=
  let t := v.imm 16 2
  let none_ := cols.map (fun _ => emptyToken side)
  match if side.etag then none else x with
  | none => (s, .ok none_)
  | some a =>
    if t ≠ 0 ∧ !(v.port == 2 && elFault a) ∧ !blockOk t v.w.fmt.toNat (if v.port = 2 then elPa a else a) ps then (s, .error (addrange a))
    else
      match decideAsk s v { x := a, port := v.port, bound := true, n := blockSpan t ps, align := 64, write := false } with
      | (s, .error e) => (s, .error e)
      | (s, .ok none) => (s, .ok none_)
      | (s, .ok (some p)) =>
        if t = 0 then
          let (s, l, f) := readLine s v p
          (s, .ok [loadedToken side l f])
        else
          let (s, rows, f) := readRows s v p ps (blockSide t)
          (s, .ok (cols.map (fun j => loadedToken side (blockColumn rows t j) f)))

/-- LD from address tokens. -/
def ldBody : AgnBody := fun s v t _ =>
  let ps := if v.imm 16 2 = 0 then 64 else elemNat t.pay 64 2
  match loadAt s v t (addrElem t 0) ps (List.range (blockSide (v.imm 16 2))) with
  | (s, .error a) => (s, stopOut v t a)
  | (s, .ok l) => (s, .done v.op (l.map (fun u => (v.w.dst.toNat, u))) false)

/-- LD as a source: firing n, SEQ n; LEVEL 7 after the last (R370; log entry 19). -/
def fireLoadSource (s : State) (v : AgnView) : State :=
  let task := v.e.task.bind s.task?
  let repairing : Bool := task.elim false (fun t => t.phase == .repairing)
  let last := stamp Token.zero (v.op.count - 1) v.stampSrc
  let fin := fun (s : State) =>
    if v.op.ended then s else applyAgn s v (last.asMarker 7) [] (.done { v.op with ended := true } (v.result (last.asMarker 7)) false)
  let fire := fun (n : Nat) (after : OpSt → OpSt) =>
    let t := v.imm 16 2
    let side := stamp Token.zero n v.stampSrc
    let block := n / blockSide t
    let cols := [n % blockSide t]
    match v.streamAddr block with
    | none => applyAgn s v side [] (.stop (agnFault v 4 0 0 side))
    | some a =>
      let ps := 64 * v.imm 18 7
      if v.paged then
        if !v.inWindow a (blockSpan t ps) then applyAgn s v side [] (.stop (agnFault v 4 0 a side))
        else
          match pageElement s v a readIntent with
          | .empty =>
            let p := v.w.sa.toNat
            match (v.e.queue p).head? with
            | some u => if u.kind = .cut then s else s.modElem v.ea v.ctx (fun e => e.popPort p)
            | none => s
          | .stop s a => applyAgn s v side [] (stopOut v side a)
          | .el s x tag taken page =>
            let v := { v with op := withPage v.op a page tag }
            match loadAt s v (side.orTag tag) (some x) ps cols with
            | (s, .error a) => applyAgn s v side [] (stopOut v side a)
            | (s, .ok l) => applyAgn s v side (if taken then [v.w.sa.toNat] else []) (.done (after v.op) (l.flatMap v.result) false)
      else
        match loadAt s v side (some a) ps cols with
        | (s, .error a) => applyAgn s v side [] (stopOut v side a)
        | (s, .ok l) => applyAgn s v side [] (.done (after v.op) (l.flatMap v.result) false)
  if beingCut s v.e then agnCut s v [] (taskCut s v.e last)
  else if repairing then
    match v.op.repair with
    | n :: rest => fire n (fun op => { op with repair := rest, count := n + 1 })
    | [] => fin s
  else if v.imm 0 16 ≤ v.op.count then fin s
  else fire v.op.count (fun op => { op with count := op.count + 1 })

/-- LD (R369 to R371): a 64-byte line, or the columns of a block, per address. -/
def execLd (w : OpWord) (s : State) : Result :=
  runAgn s w 320 (fun s v => if v.fromBase then fireLoadSource s v else fireTokens s v ldBody)

/-- A result of elements of width w: each with its number and whether its read failed. -/
def elemResult (side : Token) (w : Nat) (l : List (Nat × Nat × Bool)) : Token :=
  let at_ := fun (i : Nat) => (l.find? (fun p => p.1 == i)).map (·.2)
  let mask := lanesOfElems w (fun i => (at_ i).isSome)
  (dataToken (elemsToPay w ((List.range (512 / w)).map (fun i => (at_ i).elim 0 (·.1)))) mask side).orTag (l.any (fun p => p.2.2))

/-- Elements 0 to 7 of a gather: the value where the address is active. A request is one access whose lines are read in any order. -/
def gatherBody : AgnBody := fun s v t _ =>
  let w := fmtWidth v.w.fmt.toNat
  let n := w / 8
  if t.etag then (s, .done v.op (v.result (emptyToken t)) false)
  else
    match decideAll v s (((List.range 8).map (addrElem t)).filterMap (fun a => a.map (fun x => { x := x, port := v.port, bound := true, n := n, align := n, write := false }))) with
    | (s, .error (a, i)) => (s, stopAt v t a (((List.range 8).filter (fun j => (addrElem t j).isSome)).getD i 0))
    | (s, .ok places) =>
      let asked := (places.zip ((List.range 8).filter (fun i => (addrElem t i).isSome))).filterMap (fun p => p.1.map (fun q => (p.2, q)))
      let pending := asked.filter (fun p => !bitSet v.op.visited p.1)
      -- the lines that this firing reads, each for every element on it (R98, R137)
      let lines := ((pending.filter (fun p => v.op.part.elim true (fun m => bitSet m p.1))).map (fun p => p.2.line)).dedup
      let now := pending.filter (fun p => lines.contains p.2.line)
      let (s, lines) := readLines v s lines
      let value := fun (p : Nat × Place) => match lines.find? (fun l => l.1 == p.2.line) with
        | some (_, l, failed) => (p.1, if failed then 0 else bytesToNat ((l.drop p.2.byte).take n), failed)
        | none => (p.1, 0, false)
      let earlier := match v.op.held with
        | some h => (List.range 8).filterMap (fun i => if bitSet v.op.visited i then some (i, elemNat h.pay w i, h.etag) else none)
        | none => []
      let r := elemResult t w (earlier ++ now.map value)
      if now.length < pending.length then
        (s, .stay { v.op with visited := now.foldl (fun m p => m ||| 2 ^ p.1) v.op.visited, held := some r, part := none, mig := none })
      else (s, .done { v.op with visited := 0, held := none, part := none } (v.result r) false)

/-- LDX (R374, R375): gathers up to eight elements through the gather-scatter queue. -/
def execLdx (w : OpWord) (s : State) : Result := runAgn s w 322 (fun s v => fireTokens s v gatherBody)

/-! ## Traversals (R97, R372, R373) -/

/-- OFFL in bytes. -/
def AgnView.offl (v : AgnView) : Int := 64 * (BitVec.ofNat 10 (v.imm 6 10)).toInt

/-- The marker that ends a traversal. -/
def endTraversal (v : AgnView) (t : Token) : OpSt × List (Nat × Token) :=
  ({ v.op with held := none, ptr := none, visited := 0 }, v.result (t.asMarker (BitVec.ofNat 3 (v.imm 3 3))))

/-- Translate a node's address: the start element of a STREAM traversal is physical, later pointers are virtual. -/
def nodePlace (s : State) (v : AgnView) (p : Nat) : State × Except AgnStop (Option Place) :=
  let at_ := fun (b : Nat) => (b : Int) + v.offl
  let ask := fun (s : State) (v : AgnView) (x : Nat) =>
    decideAsk s v { x := x, port := v.port, bound := true, n := 64, align := 64, write := false }
  if v.port ≠ 2 then
    if at_ p < 0 then (s, .error (addrange p)) else ask s v (at_ p).toNat
  else if v.op.visited = 0 then
    if elFault p then (s, .ok none)
    else
      let pa := at_ (elPa p)
      let base := elPa p / elSize p * elSize p
      if pa < base ∨ (base + elSize p : Int) ≤ pa then (s, .error (addrange (elPa p))) else ask s v (elWithPa p pa.toNat)
  else
    let va := ((at_ p) % 2 ^ 64).toNat
    if va % 64 ≠ 0 then (s, .error (addrange va))
    else
      match tileXlat s v.site (v.part s) va readIntent with
      | (s, .ok y) => ask s v (elOf y (s.part (v.part s)).gen)
      | (s, .wait) => (s, .error .wait)
      | (s, .fail r) =>
        let (s, a) := xlatStop s v va readIntent r
        (s, .error a)

/-- One node of a traversal under way. -/
def traverse (s : State) (v : AgnView) (t : Token) : State :=
  let p := v.op.ptr.getD 0
  let zero := if v.port = 2 ∧ v.op.visited = 0 ∧ elFault p = false then elPa p = 0 else p = 0
  if t.etag ∨ zero ∨ v.imm 16 16 ≤ v.op.visited then
    let (op, res) := endTraversal v t
    applyAgn s v t [] (.done op (if t.etag then v.result (emptyToken t) ++ res else res) false)
  else
    match nodePlace s v p with
    | (s, .error a) => applyAgn s v t [] (stopOut v t a)
    | (s, .ok none) =>
      let (op, res) := endTraversal v t
      applyAgn s v t [] (.done op (v.result (emptyToken t) ++ res) false)
    | (s, .ok (some q)) =>
      let (s, l, f) := readLine s v q
      let next := lineNat l (8 * v.imm 0 3) 8
      applyAgn s v t [] (.done { v.op with ptr := some (if f then 0 else next), visited := v.op.visited + 1 } (v.result (loadedToken t l f)) false)

/-- LDL (R372, R373): follows a chain of nodes from each start token. -/
def execLdl (w : OpWord) (s : State) : Result :=
  runAgn s w 324 (fun s v =>
    match v.op.held with
    | some t => if cutHead v.e v.w.sa.toNat then fireTokens s v (fun s v _ _ => (s, .stay v.op)) else traverse s v t
    | none => fireTokens s v (fun s v t _ =>
        (s, .done { v.op with held := some t, ptr := some ((addrElem t 0).getD (if v.port = 2 then faultEl 0 else 0)), visited := 0 } [] false)))

/-! ## Stores (R414, R415, R419) -/

/-- Store one token's line at an address. -/
def storeLine (s : State) (v : AgnView) (side data : Token) (x : Option Nat) (op : OpSt) : State × AgnOut :=
  let tag := side.etag || data.etag
  let fin := fun (op : OpSt) (made : Bool) => AgnOut.done op (v.completion side (tag || !made)) false
  if tag then (suppressAt s v v.port (x.toList.map (fun a => (a, 64))), fin op true)
  else
    match x with
    | none => (s, fin op true)
    | some a =>
      match decideAsk s v { x := a, port := v.port, bound := true, n := 64, align := 64, write := true } with
      | (s, .error e) => (s, stopOut v side e)
      | (s, .ok none) => (s, fin op true)
      | (s, .ok (some p)) =>
        let m := fmtMask v.w.fmt.toNat data.mask
        match writeLine s v p (laneMask m) (lineBytes data.pay) none with
        | some (s, made) => (s, fin op made)
        | none => (s, .stay (stalled v.op))

/-- ST with address tokens. -/
def stBody : AgnBody := fun s v t rest => storeLine s v t (rest.headD Token.zero) (addrElem t 0) v.op

/-- ST by base and stride: the data port alone has tokens. -/
def stBaseBody : AgnBody := fun s v t _ =>
  let n := v.op.count
  let next := { v.op with count := n + 1 }
  match v.streamAddr n with
  | none => (s, .stop (agnFault v 4 0 0 t))
  | some a =>
    if !v.paged then storeLine s v t t (some a) next
    else if !v.inWindow a 64 then (s, .stop (agnFault v 4 0 a t))
    else
      match pageElement s v a writeIntent with
      | .empty => (s, .stay v.op)
      | .stop s e => (s, stopOut v t e)
      | .el s x tag taken page =>
        let s := if taken then s.modElem v.ea v.ctx (fun e => e.popPort v.w.sa.toNat) else s
        let op := withPage v.op a page tag
        -- the page token is taken whether or not the store has room
        let s := s.modElem v.ea v.ctx (fun e => e.setOp (agnIdx v.n) { (e.op (agnIdx v.n)) with page := op.page, tagged := tag })
        storeLine s { v with op := op } t (t.orTag tag) (some x) { op with count := n + 1 }

/-- A marker or header at the page port of a page-fed store is dropped: page tokens alone are used. -/
def dropPageMark (s : State) (v : AgnView) : State :=
  match (v.e.queue v.w.sa.toNat).head? with
  | some t => if t.kind = .marker ∨ t.kind = .header then s.modElem v.ea v.ctx (fun e => e.popPort v.w.sa.toNat) else s
  | none => s

/-- ST (R414, R415): stores the valid lanes of a data or header token as one line. -/
def execSt (w : OpWord) (s : State) : Result :=
  runAgn s w 321 (fun s v =>
    if v.fromBase then
      let s := if v.paged then dropPageMark s v else s
      fireTokens s (agnView s v.site v.ctx v.n w 321) stBaseBody
    else fireTokens s v stBody)

/-- Write elements in ascending order; answers whether each write was made, and the element that finds the share of the commit buffer full, where the request goes on (R146). -/
def scatterWords (v : AgnView) (n : Nat) : State → Bool → List (Nat × Place × Nat) → State × Bool × Option Nat
  | s, made, [] => (s, made, none)
  | s, made, (i, p, x) :: rest =>
    match writeSome s v p (natToBytes n x) with
    | some (s, ok) => scatterWords v n s (made && ok) rest
    | none => (s, made, some i)

/-- STX (R419): scatters up to eight elements; all addresses are decided before any write. -/
def scatterBody : AgnBody := fun s v t rest =>
  let data := rest.headD Token.zero
  let w := fmtWidth v.w.fmt.toNat
  let n := w / 8
  let tag := t.etag || data.etag
  let fin := fun (made : Bool) => AgnOut.done { v.op with visited := 0, lost := false, part := none } (v.completion t (tag || !made)) false
  if tag then
    (suppressAt s v v.port (((List.range 8).filterMap (addrElem t)).map (fun a => (a, n))), fin true)
  else
    let pairs := (List.range 8).filterMap (fun i =>
      if elemValid data.mask w i then (addrElem t i).map (fun x => (i, x, elemNat data.pay w i)) else none)
    match decideAll v s (pairs.map (fun p => { x := p.2.1, port := v.port, bound := true, n := n, align := n, write := true })) with
    | (s, .error (a, i)) => (s, stopAt v t a (((pairs[i]?).map (·.1)).getD 0))
    | (s, .ok places) =>
      let writes := (places.zip pairs).filterMap (fun p => p.1.map (fun q => (p.2.1, q, p.2.2.2)))
      let pending := writes.filter (fun p => !bitSet v.op.visited p.1)
      -- what this firing writes: of one line, an element after all earlier ones (R98, R137)
      let wanted := fun (i : Nat) => v.op.part.elim true (fun m => bitSet m i)
      let now := pending.filter (fun p => pending.all (fun q => decide (p.1 < q.1) || q.2.1.line != p.2.1.line || wanted q.1))
      let reach := fun (stop : Nat) => (now.filter (fun p => decide (p.1 < stop))).foldl (fun m p => m ||| 2 ^ p.1) v.op.visited
      match scatterWords v n s (!v.op.lost) now with
      | (s, made, some i) => (s, .stay (stalled { v.op with visited := reach i, lost := !made, part := none }))
      | (s, made, none) =>
        if now.length < pending.length then (s, .stay { v.op with visited := reach 8, lost := !made, part := none, mig := none }) else (s, fin made)

/-- STX (R419). -/
def execStx (w : OpWord) (s : State) : Result := runAgn s w 323 (fun s v => fireTokens s v scatterBody)

/-! ## Atomics (R323 to R325) -/

/-- Outcome of one indivisible word operation. -/
inductive WordOut where
  | old (s : State) (x : Nat) (failed : Bool)
  | full
  | nan (s : State)

/-- One atomic on one word. -/
def atomWord (s : State) (v : AgnView) (p : Place) (op d cmp : Nat) (observed : Bool) : WordOut :=
  let f := v.w.fmt.toNat
  let n := atomBytes f
  let traps := fun (old : Nat) =>
    op == 7 && nanTrap s v.e.task && !isNaN (floatFmt f) old && !isNaN (floatFmt f) d && isNaN (floatFmt f) (atomNew op f old d true)
  match p with
  | .spad site off =>
    let (s, l, failed) := readSome s v p n
    let old := bytesToNat l
    if failed then .old s 0 true
    else if traps old then .nan s
    else if op = 6 ∧ old ≠ cmp then .old s old false
    else
      let new := natToBytes n (atomNew op f old d true)
      let r := (lineWrites (off % 64) new).foldl (fun (r : State × Bool) w =>
        let x := writeSpad r.1 site v.ctx (v.place site) (off / 64 * 64 + w.line) v.rot w.mask w.data (atomExact op f off d)
        (x.1, r.2 && x.2)) (s, true)
      .old r.1 old (!r.2)
  | .dev pa =>
    match taskAtomic s v.e.task v.site pa op f d cmp observed with
    | none => .full
    | some (s', old) => if traps old then .nan s else .old s' old false

/-- Process the words of a request from where it stands, in ascending order. -/
def atomWords (v : AgnView) (t : Token) (observed : Bool) (work : List (Nat × Place × Nat × Nat)) :
    State → List (Nat × Nat × Bool) → List (Nat × Place × Nat × Nat) → State × Except AgnOut (List (Nat × Nat × Bool))
  | s, done, [] => (s, .ok done)
  | s, done, (i, p, d, c) :: rest =>
    match atomWord s v p (v.imm 0 4) d c observed with
    | .full =>
      (s, .error (.stay (stalled { v.op with visited := i, held := some (elemResult t (fmtWidth v.w.fmt.toNat) done), part := none })))
    | .nan s => (s, .error (.stop { agnNanFault v (match p with | .spad _ o => o | .dev a => a) t with
                                      elem := i, lane := fmtWidth v.w.fmt.toNat * i / 32 }))
    | .old s x f => atomWords v t observed work s (done ++ [(i, x, f)]) rest

/-- ATOM (R324, R325). -/
def atomBody : AgnBody := fun s v t rest =>
  let data := rest.headD Token.zero
  let cmp := rest.getD 1 { Token.zero with mask := 0xFFFF#16 }
  let w := fmtWidth v.w.fmt.toNat
  let n := w / 8
  let tag := t.etag || data.etag || cmp.etag
  let observed := decide (v.w.dst.toNat < 4) || v.imm 0 4 == 5 || v.imm 0 4 == 6
  let fin := fun (r : Token) => AgnOut.done { v.op with visited := 0, held := none, part := none } (v.result r ++ v.completion t (tag || r.etag)) false
  if tag then (suppressAt s v v.port (((List.range 8).filterMap (addrElem t)).map (fun a => (a, n))), fin ((emptyToken t).orTag true))
  else
    let asked := (List.range 8).filterMap (fun i =>
      if elemValid data.mask w i && (v.imm 0 4 != 6 || elemValid cmp.mask w i) then
        (addrElem t i).map (fun x => (i, x, elemNat data.pay w i, elemNat cmp.pay w i)) else none)
    match decideAll v s (asked.map (fun p => { x := p.2.1, port := v.port, bound := true, n := n, align := n, write := true })) with
    | (s, .error (a, i)) => (s, stopAt v t a (((asked[i]?).map (·.1)).getD 0))
    | (s, .ok places) =>
      let work := (places.zip asked).filterMap (fun p => p.1.map (fun q => (p.2.1, q, p.2.2.2.1, p.2.2.2.2)))
      let earlier := match v.op.held with
        | some h => (List.range v.op.visited).filterMap (fun i => if elemValid h.mask w i then some (i, elemNat h.pay w i, h.etag) else none)
        | none => []
      let pending := work.filter (fun p => decide (v.op.visited ≤ p.1))
      -- each word is indivisible, the request is not (R137, R324)
      let now := v.op.part.elim pending pending.take
      match atomWords v t observed work s earlier now with
      | (s, .error o) => (s, o)
      | (s, .ok l) =>
        match (pending.drop now.length).head? with
        | some p => (s, .stay { v.op with visited := p.1, held := some (elemResult t w l), part := none, mig := none })
        | none => (s, fin (elemResult t w l))

/-- ATOM (R323 to R325): eight indivisible read-modify-write operations per request. -/
def execAtom (w : OpWord) (s : State) : Result := runAgn s w 325 (fun s v => fireTokens s v atomBody)

/-! ## Hash tables (R394 to R396) -/

/-- EMPTY. -/
def emptyKey : Nat := 0x8000000000000000

/-- First slot of a key. -/
def probeHash (key tlog : Nat) : Nat := key * 0x9E3779B97F4A7C15 % 2 ^ 64 / 2 ^ (64 - tlog)

/-- Add(FMT, old, d). -/
def probeAdd (f old d : Nat) : Nat :=
  if f = 13 then roundVal (floatFmt 13) (addVal (decodeFloat (floatFmt 13) old) (decodeFloat (floatFmt 13) d)) .rne false
  else wrapInt 64 ((old : Int) + d)

/-- What one key's probe answers. -/
inductive Probed where
  | value (s : State) (x : Nat)
  | missing (s : State)
  | failed (s : State)
  | stop (s : State) (a : AgnStop)

/-- Write one 8-byte word of the table; answers whether the write was made. -/
def probeWrite (s : State) (v : AgnView) (off x : Nat) (exact : ExactOperand) : State × Bool :=
  (lineWrites (off % 64) (natToBytes 8 x)).foldl (fun (r : State × Bool) w =>
    let x := writeSpad r.1 v.site v.ctx v.n (off / 64 * 64 + w.line) v.rot w.mask w.data exact
    (x.1, r.2 && x.2)) (s, true)

/-- Probe from the j-th slot on. -/
def probeFrom (v : AgnView) (key d h : Nat) : State → Nat → Nat → Probed
  | s, 0, _ => if v.imm 0 2 = 0 then .missing s else .stop s (addrange v.base)
  | s, k + 1, j =>
    let mode := v.imm 0 2
    let f := v.w.fmt.toNat
    let slot := (h + j) % 2 ^ v.imm 2 5
    let a := v.base + 16 * slot
    let traps := fun (old : Nat) => f == 13 && nanTrap s v.e.task && !isNaN (floatFmt 13) old && !isNaN (floatFmt 13) d
      && isNaN (floatFmt 13) (probeAdd f old d)
    if !inRange s v.site a 16 then .stop s (addrange a)
    else
      let (s, l, bad) := readSome s v (.spad v.site a) 16
      let k0 := lineNat l 0 8
      let v0 := lineNat l 8 8
      if bad then .failed s
      else if k0 = key then
        if mode = 2 then
          if traps v0 then .stop s (.fault 2 0 a)
          else
            let (s, made) := probeWrite s v (a + 8) (probeAdd f v0 d) none
            if made then .value s (probeAdd f v0 d) else .failed s
        else .value s (if mode = 1 then slot else v0)
      else if k0 = emptyKey then
        if mode = 0 then .missing s
        else
          let (s, put) := probeWrite s v a key none
          let x := if mode = 1 then d else probeAdd f 0 d
          let (s, made) := probeWrite s v (a + 8) x none
          if put && made then .value s (if mode = 1 then slot else x) else .failed s
      else probeFrom v key d h s k (j + 1)

/-- Probe the keys of a token in ascending order. -/
def probeKeys (v : AgnView) : State → List (Nat × Nat × Nat) → List (Nat × Nat × Bool) → State × Except (AgnStop × Nat) (List (Nat × Nat × Bool))
  | s, [], done => (s, .ok done)
  | s, (i, key, d) :: rest, done =>
    match probeFrom v key d (probeHash key (v.imm 2 5)) s (v.imm 7 8) 0 with
    | .value s x => probeKeys v s rest (done ++ [(i, x, false)])
    | .missing s => probeKeys v s rest done
    | .failed s => probeKeys v s rest (done ++ [(i, 0, true)])
    | .stop s a => (s, .error (a, i))

/-- PROBE (R395, R396). -/
def probeBody : AgnBody := fun s v t rest =>
  let data := rest.headD { Token.zero with mask := 0xFFFF#16 }
  let tag := t.etag || data.etag
  let fin := fun (r : Token) => AgnOut.done v.op (v.result r ++ v.completion t tag) false
  if t.etag then (s, fin (emptyToken t))
  else if tag then (poisonTask (countSuppressed s v.ea) v.e.task, fin ((emptyToken t).orTag true))
  else
    let keys := (List.range 8).filterMap (fun i =>
      if elemValid data.mask 64 i then (addrElem t i).bind (fun k => if k = emptyKey then none else some (i, k, elemNat data.pay 64 i)) else none)
    match probeKeys v s keys [] with
    | (s, .error (a, i)) => (s, stopAt v t a i)
    | (s, .ok l) => (s, fin (elemResult t 64 l))

/-- PROBE (R394 to R396): find, insert or accumulate in an open-addressed table. -/
def execProbe (w : OpWord) (s : State) : Result := runAgn s w 327 (fun s v => fireTokens s v probeBody)

/-! ## Compacted packets (R416, R417) -/

/-- Valid lanes of a token. -/
def popLanes (m : BitVec 16) : Nat := (lanes16.filter (maskBit m)).length

/-- One record: the mask word, then the valid lanes. -/
def stcRecord (t : Token) : List Byte :=
  natToBytes 4 t.mask.toNat ++ ((lanes16.filter (maskBit t.mask)).flatMap (fun j => natToBytes 4 (laneNat t.pay j)))

/-- The status token. -/
def stcStatus (side : Token) (ovf : Bool) (used written : Nat) : Token :=
  dataToken (lanesToPay [if ovf then 1 else 0, used, written]) 7 side

/-- The place of the packet under way: D of the address token, L bytes. -/
def stcPlace (s : State) (v : AgnView) (t : Token) : State × Except AgnStop (Option Place) :=
  match addrElem t 0 with
  | none => (s, .ok none)
  | some d => decideAsk s v { x := d, port := v.port, bound := true, n := (elemNat t.pay 64 1) % 2 ^ 32, align := 64, write := true }

/-- The packet has ended: the header last, status and completion (R416, R417). -/
def stcEnd (s : State) (v : AgnView) (t data : Token) (op : OpSt) (place : Option Place) (fit dropped tag : Bool) : State × AgnOut :=
  let fin := { op with held := none, hdr := none, sel := none, level := 0, visited := 0, rem := 0, tagged := false, lost := false }
  if dropped then (s, .done fin (v.result ((emptyToken t).orTag tag) ++ v.completion t tag) false)
  else if fit then
    match place.bind (fun p => writeLine s v p (2 ^ 64 - 1) (lineBytes ((op.hdr.getD data).pay)) none) with
    | some (s, made) =>
      let lost := op.lost || !made
      (s, .done fin (v.result ((stcStatus t false op.level op.visited).orTag lost) ++ v.completion t lost) false)
    | none => (s, .stay (stalled v.op))
  else
    let s := loggedRecord s v.ea v.ctx { agnFault v 14 0 0 t with aux := op.level }
    (s, .done fin (v.result ((stcStatus t true op.level op.visited).orTag op.lost) ++ v.completion t op.lost) false)

/-- Outcome of one token of a packet; the address token stays until the packet has ended. -/
def stcToken (s : State) (v : AgnView) (t data : Token) : State × AgnOut :=
  let limit := elemNat t.pay 64 1
  let first := data.kind == .header
  let op := if first then { v.op with hdr := some data, rem := hdrTokens data, level := 64, visited := 0, seen := true, lost := false } else v.op
  match (if t.etag || v.op.tagged then (s, .ok none) else stcPlace s v t) with
  | (s, .error a) => (s, stopOut v t a)
  | (s, .ok place) =>
    let tag := t.etag || op.tagged || data.etag
    let s := if tag && !op.tagged && (first || !t.etag) then suppressAt s v v.port ((addrElem t 0).toList.map (fun a => (a, max 64 (limit % 2 ^ 32)))) else s
    let dropped := tag || place.isNone
    -- what this token writes
    let size := 4 + 4 * popLanes data.mask
    let wrote : Option (State × OpSt) :=
      if dropped then some (s, { op with tagged := tag, rem := if first then op.rem else op.rem - 1 })
      else if first then
        if limit < 64 then some (s, { op with sel := some false })
        else (place.bind (fun p => writeLine s v p (2 ^ 64 - 1) (List.replicate 64 0) none)).map (fun x => (x.1, { op with sel := some true, lost := !x.2 }))
      else
        let fits := op.sel == some true && decide (op.level + size ≤ limit)
        let next := { op with rem := op.rem - 1, level := op.level + size, sel := some fits
                              visited := op.visited + (if fits then 1 else 0) }
        if fits then (place.bind (fun p => writeSome s v (p.plus op.level) (stcRecord data))).map (fun x => (x.1, { next with lost := op.lost || !x.2 }))
        else some (s, next)
    match wrote with
    | none => (s, .stay (stalled v.op))
    | some (s, op) =>
      if op.rem = 0 then stcEnd s v t data op place (op.sel == some true) dropped tag
      else (s, .done op [] false)

/-- STC fires on the data port; the address token is consumed with the packet's last token. -/
def fireStc (s : State) (v : AgnView) : State :=
  let pa := v.w.sa.toNat
  let pd := v.w.sb.toNat
  match (v.e.queue pa).head?, (v.e.queue pd).head? with
  | some t, some d =>
    let bad := fun (sub : Nat) => applyAgn s v d [] (.stop (agnFault v 1 sub 0 d))
    if t.kind = .cut ∨ d.kind = .cut then (if cutIn v.e pa && cutIn v.e pd then cutPorts s v [pa, pd] else s)
    else if 0 < v.op.rem then
      if d.kind ≠ .data then bad 2
      else
        let (s, o) := stcToken s v t d
        applyAgn s v t (match o with | .done op _ _ => if op.rem = 0 then [pa, pd] else [pd] | _ => []) o
    else
      match kindsAgree [t, d] with
      | none =>
        if t.kind = .data then bad 3
        else applyAgn s v t [pa, pd] (.done v.op (v.outs.map (fun p => (p, t))) false)
      | some sub =>
        if t.kind = .data ∧ d.kind = .header then
          if !hdrOk d then bad 1
          else
            let (s, o) := stcToken s v t d
            applyAgn s v t (match o with | .done op _ _ => if op.rem = 0 then [pa, pd] else [pd] | _ => []) o
        else bad sub
  | _, _ => s

/-- STC (R416, R417): stores one packet in lane-compacted form, its header last. -/
def execStc (w : OpWord) (s : State) : Result := runAgn s w 328 fireStc

/-! ## Copies (R112, R340) -/

/-- Copy steps from the j-th on: each reads its lines and then writes them. -/
def copySteps (v : AgnView) (step : State → Nat → State × Option (List (Place × List Byte)) × Bool) :
    State → Nat → Nat → Bool → State × Nat × Bool × Bool
  | s, 0, j, bad => (s, j, false, bad)
  | s, k + 1, j, bad =>
    match step s j with
    | (s, none, f) => copySteps v step s k (j + 1) (bad || f)
    | (s, some ws, f) =>
      match ws.foldl (fun (r : Option (State × Bool)) w => r.bind (fun r => (writeSome r.1 v w.1 w.2).map (fun x => (x.1, r.2 && x.2)))) (some (s, true)) with
      | none => (s, j, true, bad)
      | some (s, made) => copySteps v step s k (j + 1) (bad || f || !made)

/-- CPY (R340). -/
def cpyBody : AgnBody := fun s v t _ =>
  let len := v.imm 0 16
  let tr := v.imm 16 2
  let sPort := if v.imm 18 2 = 2 then 0 else v.port
  let dPort := if v.imm 18 2 = 1 then 0 else v.port
  let el := fun (i : Nat) => elemNat t.pay 64 i
  let ps := if tr = 0 then 64 else el 2
  let pd := if tr = 0 then 64 else el 3
  let side := blockSide tr
  let srcSpan := if tr = 0 then 64 * len else 64 * (len - 1) + blockSpan tr ps
  let dstSpan := if tr = 0 then 64 * len else (len - 1) * side * pd + blockSpan tr pd
  let fin := fun (tag : Bool) => AgnOut.done { v.op with visited := 0, tagged := false, part := none } (v.completion t tag) false
  if t.etag then (suppressAt s v dPort ((addrElem t 1).toList.map (fun b => (b, dstSpan))), fin true)
  else
    match addrElem t 0, addrElem t 1 with
    | some a, some b =>
      let where_ := fun (port x : Nat) => if port = 2 then elPa x else x
      let okT := tr == 0 || (blockOk tr v.w.fmt.toNat (where_ sPort a) ps && blockOk tr v.w.fmt.toNat (where_ dPort b) pd)
      if !okT && !(sPort == 2 && elFault a) && !(dPort == 2 && elFault b) then (s, stopOut v t (addrange a))
      else
        match decideAll v s [{ x := a, port := sPort, bound := sPort == v.port, n := srcSpan, align := 64, write := false },
                             { x := b, port := dPort, bound := dPort == v.port, n := dstSpan, align := 64, write := true }] with
        | (s, .error (e, _)) => (s, stopOut v t e)
        | (s, .ok [some p, some q]) =>
          let step := fun (s : State) (j : Nat) =>
            let (s, rows, f) := readRows s v (p.plus (64 * j)) ps side
            if f then (suppressAt s v dPort [(b + j * (if tr = 0 then 64 else side * pd), if tr = 0 then 64 else blockSpan tr pd)], none, true)
            else if tr = 0 then (s, some [(q.plus (64 * j), rows.headD [])], false)
            else (s, some ((List.range side).map (fun c => (q.plus (j * side * pd + c * pd), blockColumn rows tr c))), false)
          let left := len - v.op.visited
          let r := copySteps v step s (v.op.part.elim left (min left)) v.op.visited v.op.tagged
          let next := { v.op with visited := r.2.1, tagged := r.2.2.2, part := none }
          if r.2.2.1 then (r.1, .stay (stalled next)) else if r.2.1 < len then (r.1, .stay { next with mig := none }) else (r.1, fin r.2.2.2)
        | (s, .ok _) => (s, fin false)
    | _, _ => (s, fin false)

/-- CPY (R340): copies lines or transposed blocks. -/
def execCpy (w : OpWord) (s : State) : Result := runAgn s w 329 (fun s v => fireTokens s v cpyBody)

/-! ## Translation (R430, R431) -/

/-- Translate the elements of a token in order. `walk` allows walks; without it only cached translations serve. -/
def xlatElems (v : AgnView) (walks : Bool) : State → OpSt → List (Option Nat) → State × OpSt × Except AgnStop (List (Option Nat))
  | s, op, [] => (s, op, .ok [])
  | s, op, none :: rest =>
    match xlatElems v walks s op rest with
    | (s, op, .ok l) => (s, op, .ok (none :: l))
    | (s, op, .error a) => (s, op, .error a)
  | s, op, some va :: rest =>
    let part := v.part s
    let i := Intent.ofBits (v.imm 0 2)
    let cached := match tlbHits (s.site v.site).xtc part va with
      | [e] => e.serves i && (s.part part).pxen && decide (va < 2 ^ 57)
      | _ => false
    if !cached && !walks then (s, op, .error .wait)
    else
      let go := fun (s : State) (op : OpSt) (x : Nat) =>
        match xlatElems v walks s op rest with
        | (s, op, .ok l) => (s, op, .ok (some x :: l))
        | (s, op, .error a) => (s, op, .error a)
      match tileXlat s v.site part va i with
      | (s, .ok y) =>
        let gen := (s.part part).gen
        go s (noteReissue op (reissueOf y va (BitVec.ofNat 2 (v.imm 0 2)) gen)) (elOf y gen)
      | (s, .wait) => (s, op, .error .wait)
      | (s, .fail r) =>
        if v.imm 2 1 = 1 then go s op (faultEl r)
        else
          let (s, a) := xlatStop s v va i r
          (s, op, .error a)

/-- The physical-address token of translated elements. -/
def xlatToken (t : Token) (l : List (Option Nat)) : Token :=
  dataToken (elemsToPay 64 (l.map (·.getD 0))) (lanesOfElems 64 (fun i => (l.getD i none).isSome)) t

/-- XLAT takes a token: cached translations answer at once, otherwise the token is withheld for the walker. -/
def xlatBody : AgnBody := fun s v t _ =>
  if t.etag then (s, .done v.op (v.result (emptyToken t)) false)
  else
    match xlatElems v false s v.op ((List.range 8).map (addrElem t)) with
    | (s, op, .ok l) => (s, .done op (v.result (xlatToken t l)) false)
    | (s, _, .error _) => (s, .done { v.op with held := some t } [] false)

/-- A cut overtakes a withheld request: the token goes back to its queue as channel state (R244). -/
def xlatCut (s : State) (v : AgnView) (t : Token) : State :=
  let p := v.w.sa.toNat
  let c := ((v.e.queue p).find? (fun u => u.kind == .cut)).getD (taskCut s v.e Token.zero)
  let s := s.modElem v.ea v.ctx (fun e =>
    (e.setQueue p (t :: (e.queue p).filter (fun u => u.kind != .cut))).setOp (agnIdx v.n) { (e.op (agnIdx v.n)) with held := none })
  agnCut s v [] c

/-- XLAT (R430, R431): translates address tokens through the tile's cache and walker, in order. -/
def execXlat (w : OpWord) (s : State) : Result :=
  runAgn s w 326 (fun s v =>
    match v.op.held with
    | some t => if cutIn v.e v.w.sa.toNat then xlatCut s v t else s
    | none => fireTokens s v xlatBody)

/-- The walker finishes the translation of a withheld token, or tries again after an answered page fault. -/
def walkHeld (s : State) (v : AgnView) (t : Token) : State :=
  let v := { v with op := { v.op with fault := none } }
  match xlatElems v true s v.op ((List.range 8).map (addrElem t)) with
  | (s, op, .ok l) =>
    (migEnds s v).modElem v.ea v.ctx (fun e =>
      e.setOp (agnIdx v.n) { op with held := none, fault := none, mig := none, res := op.res ++ v.result (xlatToken t l) })
  | (s, op, .error (.hold n va)) =>
    (migEnds s v).modElem v.ea v.ctx (fun e => e.setOp (agnIdx v.n) { op with fault := some (n, va), mig := none })
  | (s, op, .error .wait) => s.modElem v.ea v.ctx (fun e => e.setOp (agnIdx v.n) { op with mig := some (v.op.mig.getD v.now) })
  | (s, _, .error a) => applyAgn s v t [] (stopOut v t a)

/-- WALK_COMPLETE (R113, R123, R124): the walk of an `xlat`'s withheld token ends. -/
def execWalkComplete (site : BitVec 13) (ctx : BitVec 2) (agn : BitVec 2) (s : State) : Result :=
  if siteExists site then
    let e := s.elem (siteEa site 0) ctx
    let word := e.agnWord agn.toNat
    let v := agnView s site ctx agn.toNat (OpWord.ofBits word) (opcodeOf word)
    .next (match v.op.held with
      | some t =>
        if v.code ≠ 326 ∨ e.stopped ∨ v.op.cut then s
        else
          match v.op.fault with
          | none => walkHeld s v t
          | some (n, va) =>
            match faultEnds s v n va with
            | (s, true) => s
            | (s, false) => walkHeld s v t
      | none => s)
  else .fault .noSuchUnit

/-- ACCESS_RESULT (R96, R98): the oldest result of an AGN leaves on its port when the router has room. -/
def execAccessResult (site : BitVec 13) (ctx : BitVec 2) (agn : BitVec 2) (s : State) : Result :=
  if siteExists site then
    let ea := siteEa site 0
    let e := s.elem ea ctx
    let op := e.op (agnIdx agn.toNat)
    let code := opcodeOf (e.agnWord agn.toNat)
    .next (match op.res with
      | (p, t) :: rest =>
        if !siteIsMt site || !outputRoom s ea ctx p then s
        else
          let s := s.modElem ea ctx (fun e => e.setOp (agnIdx agn.toNat) { op with res := rest })
          let s := if (code = 322 ∨ code = 323) ∧ t.kind = .data then s.modSite site (fun x => { x with gsq := x.gsq - 1 }) else s
          outputSend s ea ctx p t
      | [] => s)
  else .fault .noSuchUnit

end Sys2Proof.Machine
end

