-- ==== Sys2Proof/Machine/AxolotlEvents.lean ====
section
/-! DEFINITION. Machine/AxolotlEvents.lean: what the parity banks of a memory tile do on their own: landings (R205), write-back of
corrected rows (R206), the scrubber (R207) and the hour window (R208). -/

namespace Sys2Proof.Machine

/-- PARITY_LANDING (R205): the oldest update of a group lands, at the earliest 2 fc after its write, and one per fc. -/
def execParityLanding (site : BitVec 13) (g : BitVec 2) (s : State) : Result :=
  if siteExists site && siteIsMt site then
    .next (match tabGet (axOf s site).pipes g.toNat [] with
      | [] => s
      | p :: _ => if p.at_ + 2 ≤ s.time ∧ (axOf s site).busy.contains (16 + g.toNat, s.time) = false then landOldest s site g.toNat else s)
  else .fault .noSuchUnit

/-- CORRECTED_ROW_WRITEBACK (R206): a corrected row is written back in an idle fc of its bank. -/
def execCorrectedRowWriteback (site : BitVec 13) (bank : BitVec 5) (row : BitVec 11) (s : State) : Result :=
  if siteExists site && siteIsMt site then
    let a := axOf s site
    .next (if a.fixes.contains (bank.toNat, row.toNat) && !bankBusy a bank.toNat s.time s.time then
        modAx (useBanks s site [bank.toNat] s.time) site (fun a =>
          { a with fixes := a.fixes.filter (fun p => p != (bank.toNat, row.toNat))
                   errs := if rowError a bank.toNat row.toNat = 1 then tabSet a.errs (bank.toNat * 2048 + row.toNat) 0 0 else a.errs })
      else s)
  else .fault .noSuchUnit

/-! ## The scrubber (R207) -/

/-- Banks of a group, parity last. -/
def groupBanks (g : Nat) : List Nat := [4 * g, 4 * g + 1, 4 * g + 2, 4 * g + 3, 16 + g]

/-- SECDED of one bank in a row set; an uncorrectable row is handled as R206 says. -/
def scrubBank (site : SiteNo) (row : Nat) (s : State) (bank : Nat) : State :=
  let a := axOf s site
  let gone := retiredOf a (groupOf bank)
  if gone.contains (inGroup bank) then s
  else match rowError a bank row with
    | 1 => correctable s site bank row
    | 2 =>
      if 16 ≤ bank ∨ !gone.isEmpty then retireBank (countUe s site) site bank
      else
        let (s, r) := reconstruct (countUe s site) site 0 bank row
        let s := retireBank s site bank
        if r.failed then s else storeRow s site bank row r.line r.line s.time
    | _ => s

/-- The scrubber goes on to the next row set; SWEEPS counts passes. -/
def scrubNext (a : Axolotl) (now : Nat) : Axolotl :=
  { a with scrub := (a.scrub + 1) % 8192, lastScrub := now, sweeps := if a.scrub + 1 = 8192 then (a.sweeps + 1) % 2 ^ 16 else a.sweeps }

/-- Check one row set: SECDED of every row, then the parity row against the data. -/
def scrubRowSet (s : State) (site : SiteNo) : State :=
  let g := (axOf s site).scrub / 2048 % 4
  let row := (axOf s site).scrub % 2048
  let clean := (groupBanks g).all (fun b => rowError (axOf s site) b row != 2)
  let s := useBanks ((groupBanks g).foldl (scrubBank site row) s) site (groupBanks g) s.time
  let a := axOf s site
  let x := [0, 1, 2, 3].foldl (fun (l : Line) i => l ^^^ bankLine s site (4 * g + i) row) 0
  let s := if clean && (retiredOf a g).isEmpty && x != parityLine a g row then
      modAx s site (fun a => { a with parity := tabSet a.parity (g * 2048 + row) x 0, scrpm := satAdd16 a.scrpm 1 })
    else s
  modAx s site (fun a => scrubNext a s.time)

/-- The scrubber is on, and no update of its next row set is pending. -/
def scrubReady (a : Axolotl) (now : Nat) : Bool := a.bpctl.toNat / 2 % 2 == 1 && !staleAt a (a.scrub / 2048 % 4) (a.scrub % 2048) now now

/-- SCRUB_CHECK (R207): a row set in an fc that leaves its five banks idle. -/
def execScrubCheck (site : BitVec 13) (s : State) : Result :=
  if siteExists site && siteIsMt site then
    let a := axOf s site
    .next (if scrubReady a s.time && (groupBanks (a.scrub / 2048 % 4)).all (fun b => !bankBusy a b s.time s.time) then scrubRowSet s site else s)
  else .fault .noSuchUnit

/-- FORCED_SCRUB (R207): with no such fc for 2^SCRFRC fc, ahead of the direct accesses of the group. -/
def execForcedScrub (site : BitVec 13) (s : State) : Result :=
  if siteExists site && siteIsMt site then
    let a := axOf s site
    .next (if scrubReady a s.time && decide (a.lastScrub + 2 ^ (a.bpctl.toNat / 4 % 16) ≤ s.time) then scrubRowSet s site else s)
  else .fault .noSuchUnit

/-- HOUR_WINDOW (R208): correctable counts start again in each hour of device time. -/
def execHourWindow (s : State) : Result :=
  let hour := s.time / 3600000000000
  .next (if hour = s.plat.hour then s else
    { s.modPlat (fun p => { p with hour := hour }) with sites := s.sites.foldl (fun t p => tabSet t p.1 { p.2 with ax := { p.2.ax with ce := [] } } Site.reset) [] })

end Sys2Proof.Machine
end

