-- ==== Sys2Proof/Machine/Launch.lean ====
section
/-! DEFINITION. Machine/Launch.lean: work queues and launches (R20 to R24, R159 to R166, R177, R181, R182, R308): registers of a
queue, reading and checking task records, acceptance, completion entries, and `spawn` (R412, R413). -/

namespace Sys2Proof.Machine

/-! ## Completion entries (Table 6-8, R182, R308) -/

/-- A completion entry. -/
structure Completion where
  tindex : Nat
  ord    : Nat
  tstamp : DWord
  cls    : Nat
  flags  : Nat
  reason : Nat
  unit   : Nat
  detail : Nat
  addr   : Nat

/-- Its 32 bytes as one word. -/
def Completion.word (c : Completion) : BitVec 256 :=
  BitVec.ofNat 256 (bytesToNat (natToBytes 4 c.tindex ++ natToBytes 4 c.ord ++ natToBytes 8 c.tstamp.toNat
    ++ natToBytes 1 (c.cls + 16 * c.flags) ++ natToBytes 1 c.reason ++ natToBytes 2 c.unit ++ natToBytes 4 c.detail ++ natToBytes 8 c.addr))

/-- Entries of a completion ring. -/
def WorkQueue.ringSize (q : WorkQueue) : Nat := 2 ^ (q.ringsz.toNat + 4)

/-- The completion ring has no room. -/
def WorkQueue.full (q : WorkQueue) : Bool := decide (q.ringSize ≤ (q.ctail - q.chead).toNat)

/-- Send an MSI-X message. -/
def sendMsi (s : State) (vec : BitVec 11) : State := s.modPlat (fun p => { p with msis := p.msis ++ [vec] })

/-- Send the vector of a queue (R308). -/
def queueMsi (s : State) (q : BitVec 12) : State :=
  let w := s.queue q
  if w.msi.getLsbD 15 then sendMsi (s.modQueue q (fun w => { w with msiOut := true })) (w.msi.extractLsb' 0 11) else s

/-- Write one entry to a ring that has room, with its event and message; none when the ring's page cannot be written now. -/
def writeCompletion (s : State) (q : BitVec 12) (x : BitVec 256) : Option State :=
  let w := s.queue q
  let bytes := natToBytes 32 x.toNat
  match writeVirt s w.part.toNat (w.cbase.toNat + 32 * (w.ctail.toNat % w.ringSize)) bytes with
  | (s, .done _) =>
    let s := s.modQueue q (fun w => { w with ctail := w.ctail + 1 })
    let s := if w.evt then postEvent s w.evsq 1 0 (bytes.take 24) else s
    some (if w.msiOut then s else queueMsi s q)
  | _ => none

/-- Write held entries while there is room. -/
def drainCompletions (s : State) (q : BitVec 12) : Nat → State
  | 0 => s
  | n + 1 =>
    let w := s.queue q
    match w.held with
    | [] => s
    | x :: rest =>
      if w.full then s
      else match writeCompletion (s.modQueue q (fun w => { w with held := rest })) q x with
        | some s => drainCompletions s q n
        | none => s

/-- A completion entry: written, or held in order behind others. -/
def complete (s : State) (q : BitVec 12) (c : Completion) : State :=
  let s := s.modQueue q (fun w => { w with held := w.held ++ [c.word] })
  drainCompletions s q (s.queue q).held.length

/-! ## Registers of a queue (Table 6-1) -/

/-- QUEUE_ENABLE (R159): EN from 0 to 1 clears ACC, HALT, HCODE and the doorbell count. -/
def execQueueEnable (q : BitVec 12) (s : State) : Result :=
  .next (if (s.queue q).en then s
    else s.modQueue q (fun w => { w with en := true, acc := 0, halt := false, hcode := 0, tail := 0, fault := none }))

/-- QUEUE_DISABLE (R159): acceptance stops at once. -/
def execQueueDisable (q : BitVec 12) (s : State) : Result := .next (s.modQueue q (fun w => { w with en := false }))

/-- Stop a queue with a code. -/
def haltQueue (s : State) (q : BitVec 12) (code : BitVec 4) : State :=
  s.modQueue q (fun w => { w with halt := true, hcode := code, fault := none })

/-- A new total of records appended; out of range halts the queue. -/
def ringDoorbell (s : State) (q : BitVec 12) (tail : Word) : State :=
  let w := s.queue q
  if tail.toNat < w.acc.toNat ∨ w.acc.toNat + 2 ^ 31 < tail.toNat then haltQueue s q 1
  else s.modQueue q (fun w => { w with tail := tail })

/-- DOORBELL (R160): the total number of records appended. -/
def execDoorbell (q : BitVec 12) (tail : BitVec 32) (s : State) : Result := .next (ringDoorbell s q tail)

/-- CHEAD_WRITE (R308, R182): room appears, held entries follow, and the message is sent again while entries remain. -/
def execCheadWrite (q : BitVec 12) (v : BitVec 32) (s : State) : Result :=
  let s := s.modQueue q (fun w => { w with chead := v, msiOut := false })
  let s := if v = (s.queue q).ctail then s else queueMsi s q
  .next (drainCompletions s q (s.queue q).held.length)

/-! ## Task records (Tables 1-1, 6-2, 6-3) -/

/-- A task record with its arrays, as bytes. -/
structure TaskRec where
  body  : List Byte
  decls : List Byte
  deps  : List Byte

/-- A field of a record. -/
def TaskRec.num (r : TaskRec) (off n : Nat) : Nat := numAt r.body off n

/-- Read a record and its arrays; an array whose count is out of range is not read. -/
def readRecord (s : State) (part va : Nat) : State × Access TaskRec :=
  match readVirt s part va 256 with
  | (s, .done l) =>
    let nd := numAt l 52 2
    let np := numAt l 54 2
    match (if 0 < nd ∧ nd ≤ 64 then readVirt s part (numAt l 56 8) (32 * nd) else (s, .done [])) with
    | (s, .done d) =>
      match (if 0 < np ∧ np ≤ 16 then readVirt s part (numAt l 64 8) (16 * np) else (s, .done [])) with
      | (s, .done p) => (s, .done { body := l, decls := d, deps := p })
      | (s, .wait) => (s, .wait)
      | (s, .miss a) => (s, .miss a)
      | (s, .bad r a) => (s, .bad r a)
    | (s, .wait) => (s, .wait)
    | (s, .miss a) => (s, .miss a)
    | (s, .bad r a) => (s, .bad r a)
  | (s, .wait) => (s, .wait)
  | (s, .miss a) => (s, .miss a)
  | (s, .bad r a) => (s, .bad r a)

/-- Widths W1 to W6, DLEV and extents E1 to E6 of a record's descriptor. -/
def TaskRec.widths (r : TaskRec) : List Nat := (List.range 6).map (fun k => bits (r.num 72 8) (7 * k) 7)
def TaskRec.dlev (r : TaskRec) : Nat := bits (r.num 72 8) 42 3
def TaskRec.exts (r : TaskRec) : List Nat := (List.range 6).map (fun k => r.num (80 + 8 * k) 8 + 1)

/-- The descriptor rules of R22. -/
def TaskRec.widOk (r : TaskRec) : Bool :=
  r.num 72 8 / 2 ^ 45 == 0 && r.num 128 8 == 0 && decide (r.widths.foldl (· + ·) 0 ≤ 64) && decide (r.dlev ≤ 6)
    && (r.widths.zip r.exts).all (fun p => decide (p.2 ≤ 2 ^ p.1)) && decide (listProd (r.exts.take r.dlev) ≤ 2 ^ 32)

/-- 0, which selects the default, or within a range. -/
def zeroOr (lo hi x : Nat) : Bool := x == 0 || (decide (lo ≤ x) && decide (x ≤ hi))

/-- Every field lies in the range Table 6-2 gives it. -/
def TaskRec.fieldsOk (r : TaskRec) : Bool :=
  decide (1 ≤ r.num 32 2) && decide (r.num 32 2 ≤ 64) && decide (1 ≤ r.num 34 2) && decide (r.num 34 2 ≤ 80)
    && decide (r.num 36 4 < 8) && zeroOr 10 1000000 (r.num 40 4) && zeroOr 1 10000 (r.num 44 4) && zeroOr 1 8192 (r.num 48 4)
    && decide (r.num 52 2 ≤ 64) && decide (r.num 54 2 ≤ 16) && (r.body.drop 136).all (· == 0)

/-- The declarations of a record. -/
def TaskRec.declList (r : TaskRec) : List Decl :=
  (List.range (r.decls.length / 32)).map (fun i =>
    { base := BitVec.ofNat 64 (numAt r.decls (32 * i) 8), width := BitVec.ofNat 32 (numAt r.decls (32 * i + 8) 4)
      nrows := BitVec.ofNat 32 (numAt r.decls (32 * i + 12) 4), pitch := BitVec.ofNat 64 (numAt r.decls (32 * i + 16) 8)
      mode := BitVec.ofNat 8 (numAt r.decls (32 * i + 24) 1) })

/-- A declaration is well formed (Table 6-3). -/
def TaskRec.declsOk (r : TaskRec) : Bool :=
  r.declList.zipIdx.all (fun p =>
    p.1.width != 0 && p.1.nrows != 0 && decide (1 ≤ p.1.mode.toNat) && decide (p.1.mode.toNat ≤ 3)
      && (p.1.nrows == 1 || decide (p.1.width.toNat ≤ p.1.pitch.toNat)) && numAt r.decls (32 * p.2 + 25) 7 == 0)

/-- The dependences of a record. -/
def TaskRec.depList (r : TaskRec) : List Dep :=
  (List.range (r.deps.length / 16)).map (fun i =>
    { queue := BitVec.ofNat 16 (numAt r.deps (16 * i) 2), kind := BitVec.ofNat 16 (numAt r.deps (16 * i + 2) 2)
      arg := BitVec.ofNat 32 (numAt r.deps (16 * i + 4) 4), phase := BitVec.ofNat 32 (numAt r.deps (16 * i + 8) 4) })

/-- Dependences are well formed and none names its own launch or a later one of its queue (R166). -/
def TaskRec.depsOk (r : TaskRec) (q : BitVec 12) (pos : Nat) : Bool :=
  r.depList.zipIdx.all (fun p =>
    let d := p.1
    numAt r.deps (16 * p.2 + 12) 4 == 0
      && (match d.kind.toNat with
        | 3 => decide (d.arg.toNat < 4096)
        | k => (k == 1 || k == 2) && decide (d.queue.toNat < 4096) && d.arg != 0
            && (pos == 0 || d.queue.toNat != q.toNat || decide (d.arg.toNat < pos))))

/-- Rows and columns of blocks that a partition's rectangle spans: first block row and column, and how many. -/
def blockRow (b : Nat) : Nat := 4 * (b / 16 / 2) + b % 16 / 4
def blockCol (b : Nat) : Nat := 4 * (b / 16 % 2) + b % 4
/-- The partition's rectangle of sites: first row and column, rows and columns. -/
def partRect (p : Part) : Nat × Nat × Nat × Nat :=
  let rs := p.blocks.map blockRow
  let cs := p.blocks.map blockCol
  let r0 := rs.foldl min 8
  let c0 := cs.foldl min 8
  (8 * r0, 10 * c0, if rs.isEmpty then 0 else 8 * (rs.foldl max 0 + 1 - r0), if cs.isEmpty then 0 else 10 * (cs.foldl max 0 + 1 - c0))

/-- The RESOURCE reason of a record that fails its checks (R163, Table 6-4). -/
def recordReason (s : State) (part : Nat) (q : BitVec 12) (pos : Nat) (r : TaskRec) : Option Nat :=
  if !r.fieldsOk then some 8
  else if !r.widOk then some 6
  else if !r.depsOk q pos then some 9
  else if !r.declsOk then some 10
  else
    let (_, _, rows, cols) := partRect (s.part part)
    if rows < r.num 32 2 ∨ cols < r.num 34 2 then some 1 else none

/-! ## Acceptance (R24, R151, R160, R177, R261) -/

/-- The launch of a record. -/
def launchOf (s : State) (r : TaskRec) (q : BitVec 12) (pos part ord : Nat) : Launch :=
  let orDefault := fun (x d : Nat) => if x = 0 then d else x
  let tstamp := BitVec.ofNat 64 (r.num 24 8)
  let graph := BitVec.ofNat 64 (r.num 8 8)
  let flags := BitVec.ofNat 32 (r.num 36 4)
  let replays := if flags.getLsbD 1 then
      (s.launches.filter (fun l => l.part == part && l.graph == graph && decide (l.ended < l.total))).getLast?.map (·.ord)
    else none
  { ord := ord, queue := q, pos := pos, part := part, prio := (s.queue q).prio, graph := graph, param := BitVec.ofNat 64 (r.num 16 8)
    tstamp := tstamp, rows := r.num 32 2, cols := r.num 34 2, flags := flags, pflim := orDefault (r.num 40 4) 200
    wdog := orDefault (r.num 44 4) 50, cbsh := orDefault (r.num 48 4) 256, decls := r.declList, deps := r.depList
    widths := r.widths, dlev := r.dlev, exts := r.exts
    late := match s.horizon with
      | some (h, _, _) => if tstamp.toNat < h then some (BitVec.ofNat 64 h) else none
      | none => none
    replays := replays, slot := 0, block := none, joined := false, ended := 0, total := listProd (r.exts.take r.dlev) }

/-- A task that has just been created. -/
def newTask (s : State) (l : Launch) (index : Nat) : Task :=
  { uid := l.ord * 2 ^ 32 + index, index := index, phase := .waiting, row0 := 0, col0 := 0, rho := 0, readyAt := s.time, bypass := 0
    slot := none, irrev := l.flags.getLsbD 2, wthrough := false, aborts := 0, preempts := 0, wstores := 0, spldn := false
    pred := none, cb := [], rsig := 0, wsig := 0, repair := [], repaired := 0, poisoned := false, 
    fault := none, cutNo := 0, cutWhy := 0, saved := [], spill := [], image := [], inits := [], uses := [], iis := [], binds := [], exps := [], lastFire := s.time
    excused := 0, pxFault := none, cutReq := none }

/-- A launch and its tasks enter the machine. -/
def enterLaunch (s : State) (l : Launch) : State :=
  { s with launches := s.launches ++ [l], tasks := s.tasks ++ (List.range l.total).map (newTask s l) }

/-- The secondary's launch of a pair: the same key under a number of its own. -/
def lsTwin : Nat := 2 ^ 40

/-- Accept a record: the next launch ordinal, and RESOURCE at once for one that fails its checks. A lockstep pair receives it twice. -/
def acceptLaunch (s : State) (r : TaskRec) (q : BitVec 12) (pos part : Nat) : State :=
  let ord := s.ordinal + 1
  let s := { s with ordinal := ord }
  match recordReason s part q pos r with
  | some n =>
    let l := launchOf s r q pos part ord
    complete s q { tindex := 0, ord := ord, tstamp := l.tstamp, cls := 1, flags := if l.late.isSome then 1 else 0, reason := n, unit := 0
                   detail := 0, addr := 0 }
  | none =>
    let s' := enterLaunch s (launchOf s r q pos part ord)
    if lsOn s.plat && lsPrim s.plat == part then enterLaunch s' { launchOf s r q pos (lsSec s.plat) ord with ord := ord + lsTwin } else s'

/-- The TD's page fault: a record or template that cannot be read (R160). -/
def tdFault (s : State) (part va : Nat) : State × Nat := raiseFault s part va readIntent (faulterOf 4)

/-- Read the next record of a queue and accept it. -/
def acceptNext (s : State) (q : BitVec 12) : State :=
  let w := s.queue q
  let part := w.part.toNat
  match readRecord s part w.pos.toNat with
  | (s, .wait) => s
  | (s, .miss a) =>
    let (s, n) := tdFault s part a
    s.modQueue q (fun w => { w with fault := some n })
  | (s, .bad _ _) => haltQueue s q 3
  | (s, .done r) =>
    let next := r.num 0 8
    let pos := w.acc.toNat + 1
    let s := acceptLaunch s r q pos part
    let s := s.modQueue q (fun w => { w with acc := w.acc + 1, pos := BitVec.ofNat 64 next })
    if next = 0 ∧ pos < w.tail.toNat then haltQueue s q 2 else s

/-- RECORD_ACCEPT (R160): while ACC < TAIL, the TD reads the record at POS and accepts it. -/
def execRecordAccept (q : BitVec 12) (s : State) : Result :=
  let w := s.queue q
  .next (if !w.en || w.halt || !w.held.isEmpty || decide (w.tail.toNat ≤ w.acc.toNat) || s.plat.state != 2 then s
    else match w.fault with
      | none => acceptNext s q
      | some n =>
        match faultStatus s w.part.toNat n with
        | 0 => s
        | 1 => acceptNext ((dropFault s w.part.toNat n).modQueue q (fun w => { w with fault := none })) q
        | _ => haltQueue (dropFault s w.part.toNat n) q 3)

/-! ## Spawned work (R152, R413) -/

/-- Outcome of a spawn request. -/
inductive SpawnOut where
  | done (s : State)
  | wait (s : State)
  /-- a page fault holds the request -/
  | hold (s : State) (fseq : Nat)

/-- A template that cannot be read: MEMORY on the queue, TINDEX 0, ADDR the template's address; DETAIL is the number of the fault record whose
STATUS ended the request, 0 where none was posted (R181, R413). -/
def spawnUnreadable (s : State) (q : BitVec 12) (trec tstamp : DWord) (fseq : Nat) : State :=
  let ord := s.ordinal + 1
  complete { s with ordinal := ord } q
    { tindex := 0, ord := ord, tstamp := tstamp, cls := 4, flags := 0, reason := 0, unit := 0, detail := fseq, addr := trec.toNat }

/-- Accept a spawn request: the template with TSTAMP, PARAM and NEXT replaced. A queue that holds entries accepts none (R182). -/
def acceptSpawn (s : State) (part : Nat) (q : BitVec 12) (trec tstamp param : DWord) : SpawnOut :=
  if !(s.queue q).held.isEmpty then .wait s else
  match readRecord s part trec.toNat with
  | (s, .wait) => .wait s
  | (s, .miss a) =>
    let (s, n) := tdFault s part a
    .hold s n
  | (s, .bad _ _) => .done (spawnUnreadable s q trec tstamp 0)
  | (s, .done r) =>
    let p := if param = 0 then r.body.drop 16 |>.take 8 else natToBytes 8 param.toNat
    let l := natToBytes 8 0 ++ (r.body.drop 8).take 8 ++ p ++ natToBytes 8 tstamp.toNat ++ r.body.drop 32
    .done (acceptLaunch s { r with body := l } q 0 part)

/-- A held request after the PC's answer: none while it is pending; true when it must end with MEMORY. -/
def spawnAnswer (s : State) (part fseq : Nat) : Option (State × Bool) :=
  match faultStatus s part fseq with
  | 0 => none
  | 1 => some (dropFault s part fseq, false)
  | _ => some (dropFault s part fseq, true)

/-- The three lane pairs of a request; none when pair 0 or 1 is invalid. -/
def spawnRequest (t : Token) : Option (DWord × DWord × DWord) :=
  let pair := fun (i : Nat) => BitVec.ofNat 64 (elemNat t.pay 64 i)
  if elemValid t.mask 64 0 && elemValid t.mask 64 1 then some (pair 0, pair 1, if elemValid t.mask 64 2 then pair 2 else 0) else none

/-- What SPAWN does with a data token: the request enters the CB, from which the TD takes it at commit, or in this fc when the task is
irrevocable (R413, R160). -/
def spawnData (s : State) (v : View) (o : Operands) : State × StageOut :=
  let t := { o.a with etag := o.side.etag, rsv := 0 }
  let q := v.w.imm.extractLsb' 0 12
  let part := partOfSite s (eaSite v.ea)
  let mt := (siteSaveMt (eaSite v.ea)).toNat
  let pass := StageOut.emit { v.op with mode := .idle, fault := none } t
  if o.side.etag then (countSuppressed s v.ea, pass)
  else
    match spawnRequest t with
    | none => (s, pass)
    | some (trec, tstamp, param) =>
      let now := fun (s : State) =>
        match acceptSpawn s part q trec tstamp param with
        | .done s => (s, pass)
        | .wait s => (s, .wait { v.op with fault := none })
        | .hold s n => (s, .wait { v.op with fault := some (n, trec.toNat) })
      match v.e.task.bind s.task?, v.op.fault with
      | some k, _ =>
        if !k.wthrough && cbFull s k mt then (s, .wait { v.op with mode := .hold })
        else (s.modTask k.uid (fun k => { k with cb := k.cb ++ [.spawn mt q trec tstamp param] }), pass)
      | none, none => now s
      | none, some (n, _) =>
        match spawnAnswer s part n with
        | none => (s, .wait v.op)
        | some (s, false) => now s
        | some (s, true) => (spawnUnreadable s q trec tstamp n, pass)

/-- SPAWN (R412, R413): each data token requests one launch and passes on. -/
def execSpawn (w : OpWord) (s : State) : Result :=
  runStage s w
    { code := 393, fmts := [], pairB := false, noHeader := none, data := spawnData, header := forward, marker := forward }

end Sys2Proof.Machine
end

