-- ==== Sys2Proof/Machine/Td.lean ====
section
/-! DEFINITION. Machine/Td.lean: the task dispatcher (R145 to R156, R165 to R177, R218 to R221, R234 to R237, R261, R262): dependences,
admission and loading, release, finishing, repair, commit, faults that end tasks, and posting fault records. -/

namespace Sys2Proof.Machine

/-- Run a TD event on the task in focus. -/
def onTask (s : State) (f : State → Task → State) : Result :=
  match s.focus with
  | .task uid => .next (match s.task? uid with
    | some t => f s t
    | none => s)
  | _ => .refused .wrongElement

/-! ## Ends of tasks (R153, R155, R181, R236) -/

/-- FLAGS of a completion entry. -/
def taskFlags (s : State) (t : Task) : Nat :=
  (if (taskLaunch s t).elim false (·.late.isSome) then 1 else 0) + (if t.spldn then 2 else 0) + (if t.irrev then 4 else 0)

/-- Write a task's completion entry; the secondary of a lockstep pair writes none (R261). -/
def taskCompletion (s : State) (t : Task) (cls reason unit detail addr : Nat) : State :=
  match taskLaunch s t with
  | none => s
  | some l =>
    if lsTwin ≤ l.ord then s
    else complete s l.queue { tindex := t.index, ord := l.ord, tstamp := l.tstamp, cls := cls, flags := taskFlags s t, reason := reason
                              unit := unit, detail := detail, addr := addr }

/-- A task is over: its launch counts it, and a launch all of whose tasks are over is dropped with them. -/
def retireTask (s : State) (uid : Nat) : State :=
  let ord := uid / 2 ^ 32
  let s := s.modTask uid (fun t => { t with phase := .ended, slot := none, image := [], inits := [], saved := [], spill := [] })
  let s := s.modLaunch ord (fun l => { l with ended := l.ended + 1 })
  match s.launch? ord with
  | some l =>
    if l.total ≤ l.ended then
      { s with launches := s.launches.filter (fun k => k.ord != ord), tasks := s.tasks.filter (fun t => t.uid / 2 ^ 32 != ord) }
    else s
  | none => s

/-- A task ends with a fault class, its whole unit with it: nothing commits (R153, R155). -/
def endWith (s : State) (uid : Nat) (e : EndWith) : State :=
  match s.task? uid with
  | none => s
  | some t =>
    (taskUnit s t).foldl (fun s u =>
      let s := inheritFrom (clearTask (unparkFor s u.uid) u) u.uid
      let s := taskCompletion s u e.cls.toNat e.reason.toNat e.unit.toNat e.detail.toNat e.addr.toNat
      retireTask (s.modTask u.uid (fun u => { u with cb := [], uses := [] })) u.uid) s

/-- Turn a launch away: one entry, whose UNIT and REASON name the resource (R170), and every task of it that has not begun is dropped. -/
def rejectLaunch (s : State) (t : Task) (cls reason unit detail addr : Nat) : State :=
  let ord := t.uid / 2 ^ 32
  let s := taskCompletion s t cls reason unit detail addr
  let mine := s.tasks.filter (fun u => u.uid / 2 ^ 32 == ord && (u.phase == .waiting || u.phase == .ready))
  mine.foldl (fun s u => retireTask s u.uid) s

/-! ## Dependences (R166, R174, R177) -/

/-- The launch that a dependence names, while it is unfinished. -/
def namedLaunch (s : State) (d : Dep) : Option Launch :=
  s.launches.find? (fun l => l.queue.toNat == d.queue.toNat && l.pos == d.arg.toNat && decide (l.ord < lsTwin))

/-- The named launch has been accepted. -/
def namedAccepted (s : State) (d : Dep) : Bool := decide (d.arg.toNat ≤ (s.queue (BitVec.ofNat 12 d.queue.toNat)).acc.toNat)

/-- The task of a launch at an index, while it has not ended. -/
def taskAt (s : State) (ord index : Nat) : Option Task :=
  (s.task? (ord * 2 ^ 32 + index)).bind (fun t => if t.live then some t else none)

/-- The predecessor that a task splices behind: by dependence or by replay. -/
def spliceTarget (s : State) (l : Launch) (t : Task) : Option Task :=
  match l.replays with
  | some o => taskAt s o t.index
  | none =>
    match l.deps.find? (fun d => d.kind == 2) with
    | some d => (namedLaunch s d).bind (fun p => taskAt s p.ord t.index)
    | none => none

/-- The conditions of R174 between the launches, for the tasks of an index. -/
def spliceConds (k l : Launch) (index : Nat) : Bool :=
  k.part == l.part && keyLt (launchKey k index) (launchKey l index) && decide (l.rows ≤ k.rows) && decide (l.cols ≤ k.cols)

/-- The conditions of R174 for a task and its predecessor. -/
def spliceOk (s : State) (l : Launch) (t p : Task) : Bool := (taskLaunch s p).elim false (fun k => spliceConds k l t.index)

/-- A task waits behind an unfinished launch as its splice successor: for its predecessor to stand on the fabric; or, where the conditions of
R174 fail, for the whole launch, as after an after dependence. Whether it is met, and whether the splice has turned into that. -/
def behindLaunch (s : State) (l : Launch) (t : Task) (k : Launch) : Bool × Bool :=
  if k.total ≤ t.index ∨ spliceConds k l t.index = false then (k.total ≤ k.ended, true)
  else match taskAt s k.ord t.index with
    | some p => (p.onFabric, false)
    | none => (true, false)

/-- A dependence of a task is met, and whether a splice has turned into an after dependence. -/
def depMet (s : State) (l : Launch) (t : Task) (d : Dep) : Bool × Bool :=
  match d.kind.toNat with
  | 3 => (phaseDone s d.arg.toNat d.phase, false)
  | 2 =>
    if !namedAccepted s d then (false, false)
    else (namedLaunch s d).elim (true, false) (behindLaunch s l t)
  | _ => (namedAccepted s d && (namedLaunch s d).isNone, false)

/-- A replay waits behind the launch it replays as behind a splice dependence (R177). -/
def replayMet (s : State) (l : Launch) (t : Task) : Bool × Bool :=
  (l.replays.bind s.launch?).elim (true, false) (behindLaunch s l t)

/-- DEPENDENCE_MET (R166): a task whose dependences are met enters the ready pool. -/
def execDependenceMet (s : State) : Result :=
  onTask s (fun s t =>
    match taskLaunch s t with
    | none => s
    | some l =>
      if t.phase ≠ .waiting then s
      else
        let r := l.deps.map (depMet s l t) ++ [replayMet s l t]
        let s := if r.any (·.2) then s.modTask t.uid (fun t => { t with spldn := true }) else s
        if r.all (·.1) then s.modTask t.uid (fun t => { t with phase := .ready, readyAt := s.time }) else s)

/-! ## Declared conflicts (R165) -/

/-- Rows of a declaration as byte ranges overlap those of another. -/
def declsMeet (a b : Decl) : Bool :=
  let rows := fun (d : Decl) => (List.range d.nrows.toNat).map (fun i => d.base.toNat + i * d.pitch.toNat)
  (rows a).any (fun x => (rows b).any (fun y => decide (x < y + b.width.toNat) && decide (y < x + a.width.toNat)))

/-- Two launches conflict. -/
def launchesConflict (a b : Launch) : Bool :=
  a.part == b.part && a.decls.any (fun x => b.decls.any (fun y =>
    (decide (2 ≤ x.mode.toNat) || decide (2 ≤ y.mode.toNat)) && declsMeet x y))

/-! ## What a placement needs (R168, R450) -/

/-- STREAM AGNs of an MT bank that store or act on words. -/
def bankStores (b : Tab Word) : Bool :=
  (wordsOf .mt b).any (fun p =>
    let code := opcodeOf p.2.2
    (tabGet b (8 + p.2.1) 0).toNat % 4 == 2 && (code == 321 || code == 323 || code == 325 || code == 328 || code == 329))

/-- MTs whose commit buffers a set of banks uses: STREAM stores and atomics, and the save MT of a CT that spawns. Which CBs lie on a task's stream
paths is not said; an MT that only loads makes no entry, and does not count (DESIGN CHOICE, log entry 113). -/
def cbTiles (l : List (Nat × Tab Word)) : List SiteNo :=
  (l.filterMap (fun p =>
    let ea := keyEa p.1
    if eaElem ea ≠ 0 then none
    else if siteIsMt (eaSite ea) then (if bankStores p.2 then some (eaSite ea) else none)
    else if (wordsOf .ct p.2).any (fun w => opcodeOf w.2.2 == 393) then some (siteSaveMt (eaSite ea)) else none)).dedup

/-- The WS window and ACS windows of a bank overlap those of another (R450). -/
def rowsMeet (a b : Nat) : Bool :=
  decide (0 < bits a 8 9) && decide (0 < bits b 8 9) && decide (a % 256 < b % 256 + bits b 8 9) && decide (b % 256 < a % 256 + bits a 8 9)
def storesMeet (a b : Tab Word) : Bool :=
  let f := fun (t : Tab Word) (n : Nat) => (tabGet t n 0#32).toNat
  windowsMeet (f a 16) (f b 16) || rowsMeet (f a 17) (f b 17) || rowsMeet (f a 18) (f b 18)

/-- Banks of admitted and suspended tasks, but one. -/
def heldBanks (s : State) (but : Option Nat) : List (Nat × Tab Word) :=
  s.tasks.flatMap (fun t =>
    if t.live && (t.onFabric || t.phase == .suspended) && but != some t.uid then
      (if t.phase = .suspended then t.saved.map (fun v => (v.key, v.ctx.bank)) else t.image) else [])

/-- Lines of a tile's commit buffer. -/
def cbLines (s : State) (mt : SiteNo) : Nat := (s.site mt).mtcfg.toNat % 16 * 1024

/-- Commit buffer in service. -/
def cbOn (s : State) (mt : SiteNo) : Bool := bitSet (s.site mt).mtcfg.toNat 4 && decide (0 < cbLines s mt)

/-- Lines of a tile's CB granted to admitted tasks; a joined launch has one share. -/
def cbGranted (s : State) (mt : SiteNo) (l : Launch) : Nat :=
  let users := s.tasks.filter (fun t => t.live && (t.onFabric || t.phase == .suspended)
    && (cbTiles (if t.phase = .suspended then t.saved.map (fun v => (v.key, v.ctx.bank)) else t.image)).contains mt)
  let units := (users.map (fun t => if (taskLaunch s t).elim false (·.joined) then t.uid / 2 ^ 32 * 2 ^ 32 else t.uid)).dedup
  (units.filter (fun u => !(l.joined && u / 2 ^ 32 == l.ord))).foldl (fun n u => n + (s.launch? (u / 2 ^ 32)).elim 0 (·.cbsh)) 0

/-! ## Trying one task (R168 to R174) -/

/-- Outcome of trying to admit a task. -/
inductive TryOut where
  /-- admitted: the machine with the task loaded -/
  | fits (s : State)
  /-- resources that it needs are occupied -/
  | busy
  /-- it cannot be tried or begun in this fc: a walk, a configuration port, a slot or another task is waited for -/
  | later
  /-- the launch is turned away: class, reason, unit, sub-field, address -/
  | reject (cls reason unit sub addr : Nat)
  /-- the load was rejected by an element: HARDWARE or MAP for the task -/
  | failed (s : State) (cls reason unit sub : Nat)

/-- Read bytes for the mapper or the loader; none while the walk waits. A graph object or parameter block that cannot be read ends the launch
with MEMORY and its address; no fault record is posted for it, and DETAIL is 0 (log entry 57). -/
def tdBytes (s : State) (part va n : Nat) : State × Except TryOut (List Byte) :=
  match readVirt s part va n with
  | (s, .done l) => (s, .ok l)
  | (s, .wait) => (s, .error .later)
  | (s, .miss a) => (s, .error (.reject 4 0 0 0 a))
  | (s, .bad _ a) => (s, .error (.reject 4 0 0 0 a))

/-- The graph object of a launch. -/
def readGraph (s : State) (l : Launch) : State × Except TryOut (List Byte) :=
  match tdBytes s l.part l.graph.toNat 64 with
  | (s, .error e) => (s, .error e)
  | (s, .ok h) => tdBytes s l.part l.graph.toNat (objectSize h)

/-- The parameter bytes that a graph's descriptor reads: a replay that has a slot has its block there (R177). -/
def readParams (s : State) (l : Launch) (g : Graph) : State × Except TryOut (List Byte) :=
  match l.block with
  | some b => (s, .ok b)
  | none =>
  let n := (g.params.filter (fun p => p.src == 0)).foldl (fun n p => max n (p.off + p.len)) 0
  if n = 0 then (s, .ok []) else tdBytes s l.part l.param.toNat n

/-- Needs that no state of the partition could meet (R170): WS window and ACS rows of MFEW. -/
def mfewReason (g : Graph) : Option Nat :=
  let m := g.mfew
  if m % 2 ^ 28 = 0 then none
  else if 32 < bits m 0 5 + bits m 5 6 then some 3
  else if 256 < bits m 11 8 + bits m 19 9 then some 4
  else none

/-- The mask of retired sites of a rectangle, row by row. -/
def maskOf (s : State) (row0 col0 rows cols : Nat) : List Bool :=
  (List.range rows).flatMap (fun r => (List.range cols).map (fun c => (s.site (siteAt (row0 + r) (col0 + c))).retiredTile))

/-- The mask as bytes, bit 0 of byte 0 first. -/
def maskBytes (l : List Bool) : List Byte :=
  natToBytes ((l.length + 7) / 8) (l.foldr (fun b n => (if b then 1 else 0) + 2 * n) 0)

/-- The cache key of a mapping (R171). -/
def cacheKey (g : Graph) (rows cols drow dcol : Nat) (mask : List Bool) : Line :=
  BitVec.ofNat 512 (bytesToNat (sha512 (g.digest ++ natToBytes 2 rows ++ natToBytes 2 cols ++ natToBytes 1 drow ++ natToBytes 1 dcol
    ++ maskBytes mask ++ natToBytes 4 Config.mapperVersion.toNat)))

/-- Registers that a configuration command writes: the key of each value in its bank. -/
def cmdWrites (c : ImageCmd) : List (Nat × Word) := c.2.2.2.zipIdx.map (fun p => (c.2.2.1 % 64 + p.2, p.1))

/-- Banks that a list of commands will leave, as far as windows and AGN words go (fields below 47). -/
def plannedBanks (l : List ImageCmd) : List (Nat × Tab Word) :=
  (imageKeys l).map (fun k => (k, ((l.filter (fun c => elemKey c.2.1 c.1 == k)).flatMap cmdWrites).foldl
    (fun b p => if p.1 < 47 then tabSet b p.1 p.2 0 else b) ([] : Tab Word)))

/-- The context is free for a task, or held by the predecessor it splices behind. -/
def contextFree (s : State) (pred : Option Nat) (k : Nat) : Bool :=
  let e := s.elem (keyEa k) (keyCtx k)
  (e.task.isNone || (pred.isSome && e.task == pred))
    && s.tasks.all (fun u => !(u.live && u.onFabric && u.pred.isSome && u.uses.contains k && e.task == u.pred))

/-- The windows of the planned banks are free at their tiles. -/
def windowsFree (s : State) (pred : Option Nat) (planned : List (Nat × Tab Word)) : Bool :=
  let held := heldBanks s pred
  planned.all (fun p =>
    let ea := keyEa p.1
    eaElem ea != 0 || siteIsMt (eaSite ea) || held.all (fun h => keyEa h.1 != ea || !storesMeet p.2 h.2))

/-- The first CB in service on the stream paths that a share is too large for: RESOURCE reason 5. -/
def shareTooLarge (s : State) (l : Launch) (tiles : List SiteNo) : Option SiteNo :=
  tiles.find? (fun m => cbOn s m && decide (cbLines s m < l.cbsh))

/-- WSWIN and ACSW of a context that holds MFE operators: MFEW, or the whole of the stores; FRONT is 0 (R450). -/
def mfeWindows (g : Graph) : List Word :=
  let m := g.mfew
  let all := m % 2 ^ 28 = 0
  let ws := (if all then 32 * 32 else bits m 0 5 + 32 * bits m 5 6) + 2 ^ 12 * bits m 28 1
  let rows := if all then 256 * 256 else bits m 11 8 + 256 * bits m 19 9
  [BitVec.ofNat 32 ws, BitVec.ofNat 32 rows, BitVec.ofNat 32 rows]

/-- The windows that Chameleon writes for every CT context of a task (R450): those of MFEW where it holds a CLS 3 operator, empty ones
elsewhere. -/
def windowCommands (g : Graph) (l : List ImageCmd) : List ImageCmd :=
  ((plannedBanks l).filter (fun p => eaElem (keyEa p.1) == 0 && !siteIsMt (eaSite (keyEa p.1)))).flatMap (fun p =>
    let mfe := (wordsOf .ct p.2).any (fun w => opcodeOf w.2.2 / 64 == 3)
    [(keyCtx p.1, keyEa p.1, 16, if mfe then mfeWindows g else [0, 0, 0]), (keyCtx p.1, keyEa p.1, 2, [])])

/-- The launch is joined, by its graph. -/
def launchJoins (s : State) (l : Launch) : Bool :=
  l.joined || match readGraph s l with
  | (_, .ok bytes) => (graphOfBytes bytes).joined l.dlev
  | _ => false

/-- An uncommitted task of lower key conflicts; siblings of a joined launch and a splice predecessor are exempt (R165). -/
def heldByConflict (s : State) (l : Launch) (t : Task) : Bool :=
  !l.decls.isEmpty && s.tasks.any (fun u =>
    precedes s u t && (spliceTarget s l t).elim true (fun p => p.uid != u.uid || !spliceOk s l t p)
      && (taskLaunch s u).elim false (fun k => launchesConflict k l && !(k.ord == l.ord && launchJoins s l)))

/-- The object that a barrier node uses in the task of an index (R327). -/
def barObject (l : Launch) (index : Nat) (b : BarNode) : Nat :=
  b.obj + ({ widths := l.widths, dlev := l.dlev, exts := l.exts, index := index : TaskShape }).group b.level

/-- Arrivals that the nodes of a launch's tasks make at an object per phase. -/
def barArrivals (s : State) (l : Launch) (g : Graph) (obj : Nat) : Nat :=
  (s.tasks.filter (fun u => u.uid / 2 ^ 32 == l.ord)).foldl (fun n u =>
    n + (g.barriers.filter (fun b => b.arrives && barObject l u.index b == obj)).length) 0

/-- Bind the objects of a task, each with its EXP (R248, R327); the first node whose object cannot be bound otherwise. -/
def bindObjects (s : State) (l : Launch) (t : Task) (g : Graph) : Except Nat (List (Nat × Nat)) :=
  g.barriers.foldl (fun acc b =>
    match acc with
    | .error n => .error n
    | .ok done =>
      let o := barObject l t.index b
      let x := s.barrier o
      let exp := barArrivals s l g o + b.xarr
      if 4096 ≤ o ∨ !x.en ∨ x.part.toNat ≠ l.part ∨ exp = 0 ∨ 2 ^ 24 ≤ exp
          ∨ g.barriers.any (fun c => barObject l t.index c == o && c.xarr != b.xarr) then .error b.node
      else .ok (if done.any (fun p => p.1 == o) then done else done ++ [(o, exp)])) (.ok [])

/-- Write the EXP of bound objects (R140, R248). -/
def bindExps (s : State) (l : List (Nat × Nat)) : State :=
  l.foldl (fun s o => s.setBarrier o.1 { s.barrier o.1 with exp := BitVec.ofNat 24 o.2 }) s

/-- Declared II of the placed AGNs and slots (R257). -/
def declaredIis (f : Frame) (s : State) (g : Graph) (placed : Config.Placed) : List (Nat × Nat × Nat) :=
  (g.nodes.zip placed.nodes).filterMap (fun p =>
    if p.2.2 < 16 then none
    else (f.ea s (keyEa p.2.1)).map (fun ea => (elemKey ea (f.ctx (keyEa p.2.1) (keyCtx p.2.1)), p.2.2, p.1.ii)))

/-- The operator to which a configuration field of an element belongs, as its place among the operator states. -/
def fieldOperator (ea : EAddr) (field : Nat) : Nat :=
  if eaElem ea = 1 then 16 + (field - 20) / 3
  else if siteIsMt (eaSite ea) then 32 + (if field < 8 then field / 2 else field % 4) else field / 2

/-- The node that a rejected command belongs to (R238): the one placed at the operator that its field names, else one of the same context, else of
the same element. -/
def reportNode (s : State) (f : Frame) (nodes : List (Nat × Nat)) (report : Word) : Nat :=
  let ea := reportEa report
  let ctx := report.extractLsb' 16 2
  let here := nodes.zipIdx.filter (fun p => f.ea s (keyEa p.1.1) == some ea)
  let mine := here.filter (fun p => f.ctx (keyEa p.1.1) (keyCtx p.1.1) == ctx)
  (((mine.find? (fun p => p.1.2 == fieldOperator ea (reportField report))).or mine.head?).or here.head?).elim 0 (·.2)

/-- Load a task at a frame: send its image into shadow banks that start at the fields' reset values, keep it, and swap or arm it in
(R173, R175; log entry 14). A replay keeps its parameter block in its slot (R177). -/
def loadTask (s : State) (l : Launch) (t : Task) (f : Frame) (g : Graph) (placed : Config.Placed) (block : List Byte) (cmds : List ImageCmd)
    (irrev : Bool) (slot : Option Nat) (pred : Option Nat) : TryOut :=
  let get := slice block
  let pool := poolWith g get
  match allParams f s placed.nodes pool get g.params with
  | none => .reject 2 10 0 0 0
  | some params =>
    match bindObjects s l t g with
    | .error node => .reject 2 10 0 (64 * node) 0
    | .ok objs =>
      let keys := imageKeys (cmds ++ params)
      match sendImage t.uid [] (dropShadows s keys) (cmds ++ params) with
      | .held => .later
      | .failed s report =>
        let s := dropShadows s keys
        if reportReason report = 6 then .failed s 6 0 (reportEa report).toNat 0
        else .failed s 2 10 0 (reportNode s f placed.nodes report * 64 + reportField report)
      | .done s =>
        let s := bindExps s objs
        let t' := { t with
          phase := .loaded, row0 := f.row0, col0 := f.col0, rho := f.rho, slot := slot, irrev := irrev, wthrough := irrev, pred := pred
          image := shadowsOf s keys, inits := initialTokens f s g pool placed, uses := keys, iis := declaredIis f s g placed, binds := objs.map (·.1), exps := objs.map (·.2), lastFire := s.time, excused := 0 }
        let s := s.modTask t.uid (fun _ => t')
        let s := s.modLaunch l.ord (fun l => { l with joined := g.joined l.dlev, block := if l.replays.isSome then some block else none })
        .fits (swapIn s t')

/-- A speculative slot is held by a task of another launch, or by a mailbox. -/
def slotsElsewhere (s : State) (l : Launch) : Bool :=
  s.tasks.any (fun t => t.live && t.slot.isSome && t.uid / 2 ^ 32 != l.ord) || s.barriers.any (fun p => p.2.park)

/-- Try one frame with a placement. -/
def tryFrame (s : State) (l : Launch) (t : Task) (g : Graph) (block : List Byte) (f : Frame) (placed : Config.Placed) (pred : Option Nat) : TryOut :=
  match placementOf placed.ozc with
  | none => .reject 2 10 0 0 0
  | some o =>
    if o.drow ≠ f.row0 % 32 ∨ o.dcol ≠ f.col0 % 40 then .reject 2 10 0 0 0
    else match relocate f s o o.words.length 0 o.words with
      | none => .reject 2 10 0 0 0
      | some stream =>
        let cmds := stream ++ windowCommands g stream
        let planned := plannedBanks cmds
        let tiles := cbTiles planned
        let irrev := t.irrev || g.sideEffects || tiles.any (fun m => !cbOn s m)
        match shareTooLarge s l tiles with
        | some m => .reject 1 5 (siteEa m 0).toNat 0 0
        | none =>
          if irrev && !oldest s t then .later
          else if !(imageKeys cmds).all (contextFree s pred) || !windowsFree s pred planned then .busy
          else if !(tiles.filter (cbOn s)).all (fun m => decide (cbGranted s m l + l.cbsh ≤ cbLines s m)) then .busy
          else
            let slot := if irrev then none else freeSlot s
            if !irrev && slot.isNone then (if slotsElsewhere s l then .later else .busy)
            else loadTask s l t f g placed block cmds irrev slot pred

/-- Try rotations 0 to 3 at one origin. -/
def tryRotations (s : State) (l : Launch) (t : Task) (g : Graph) (block : List Byte) (row col : Nat) (placed : Config.Placed) : List Nat → TryOut
  | [] => .busy
  | r :: rest =>
    match tryFrame s l t g block { row0 := row, col0 := col, rho := r, part := l.part } placed none with
    | .busy => tryRotations s l t g block row col placed rest
    | o => o

/-- What Chameleon says of an origin. -/
inductive Mapped where
  | ok (placed : Config.Placed)
  /-- no placement, only because of this many retired tiles -/
  | retired (n : Nat)
  | bad (o : TryOut)

/-- Map a graph at an origin (R171, R172): the mapping, and the checks that concern it (R36, R37, R48, R186). A mapping that would succeed
without the retired tiles fails because of them. -/
def mapAt (s : State) (l : Launch) (g : Graph) (row col : Nat) : State × Mapped :=
  let mask := maskOf s row col l.rows l.cols
  let keyOf := cacheKey g l.rows l.cols (row % 32) (col % 40)
  match Config.placement (keyOf mask) with
  | .ok placed =>
    let s := if s.mapped.contains (keyOf mask) then s else { s with mapped := s.mapped ++ [keyOf mask] }
    (s, match depthBad g placed, initialBad g placed, groupPlaceBad g placed.nodes with
      | some e, _, _ => .bad (.reject 2 3 0 e 0)
      | none, some e, _ => .bad (.reject 2 14 0 e 0)
      | none, none, some n => .bad (.reject 2 13 0 n 0)
      | none, none, none => .ok placed)
  | .error e =>
    if mask.any id && (Config.placement (keyOf (mask.map (fun _ => false)))).isOk then (s, .retired (mask.filter id).length)
    else (s, match e with
      | .small n => .bad (.reject 2 5 0 n 0)
      | .routing i => .bad (.reject 2 7 0 i 0)
      | .contexts r c => .bad (.reject 1 2 (siteEa (siteAt (row + r) (col + c)) 0).toNat 0 0))

/-- What the origins tried so far have come to: some may do later, the fewest retired tiles that prevented a placement, a CB too small. -/
structure Tried where
  busy    : Bool
  retired : Option Nat
  share   : Option Nat

/-- When no origin has taken the task: it stays in the pool, or no state of the partition could meet its needs (R170, R172). -/
def Tried.out (x : Tried) : TryOut :=
  if x.busy then .busy
  else match x.share, x.retired with
    | some ea, _ => .reject 1 5 ea 0 0
    | none, some n => .reject 2 6 0 n 0
    | none, none => .busy

/-- Try origins in ascending row, then column. -/
def tryOrigins (s : State) (l : Launch) (t : Task) (g : Graph) (block : List Byte) : Tried → List (Nat × Nat) → TryOut
  | x, [] => x.out
  | x, (row, col) :: rest =>
    match mapAt s l g row col with
    | (s, .retired n) => tryOrigins s l t g block { x with retired := some (x.retired.elim n (min n)) } rest
    | (_, .bad o) => o
    | (s, .ok placed) =>
      match tryRotations s l t g block row col placed [0, 1, 2, 3] with
      | .busy => tryOrigins s l t g block { x with busy := true } rest
      | .reject 1 5 ea _ _ => tryOrigins s l t g block { x with share := some (x.share.getD ea) } rest
      | o => o

/-- Origins of a region shape within a partition. -/
def originsOf (p : Part) (l : Launch) : List (Nat × Nat) :=
  let (r0, c0, rows, cols) := partRect p
  (List.range (rows + 1 - l.rows)).flatMap (fun r => (List.range (cols + 1 - l.cols)).map (fun c => (r0 + r, c0 + c)))

/-- Two parameter slots per graph object: replays that hold one (R177). -/
def replaySlotsTaken (s : State) (l : Launch) : List Nat :=
  (s.launches.filter (fun k => k.part == l.part && k.graph == l.graph && k.slot != 0 && k.ord != l.ord)).map (·.slot)

/-- Try to admit one task: graph, mapping, place, load. A splice successor takes its predecessor's origin and rotation, and waits while that
does not stand on the fabric (R174). -/
def tryTask (s : State) (l : Launch) (t : Task) : TryOut :=
  match readGraph s l with
  | (_, .error e) => e
  | (s, .ok bytes) =>
    match graphBad bytes (s.part l.part).keys with
    | some (r, sub) => .reject 2 r 0 sub 0
    | none =>
      let g := graphOfBytes bytes
      match mfewReason g with
      | some r => .reject 1 r 0 0 0
      | none =>
        match readParams s l g with
        | (_, .error e) => e
        | (s, .ok block) =>
          match (spliceTarget s l t).filter (spliceOk s l t) with
          | some p =>
            if !p.onFabric then .later
            else match mapAt s l g p.row0 p.col0 with
              | (s, .ok placed) => tryFrame s l t g block { row0 := p.row0, col0 := p.col0, rho := p.rho, part := l.part } placed (some p.uid)
              | (_, .retired n) => .reject 2 6 0 n 0
              | (_, .bad o) => o
          | none => tryOrigins s l t g block { busy := false, retired := none, share := none } (originsOf (s.part l.part) l)

/-! ## Admission (R155, R167, R169) -/

/-- Try every task of a joined launch together. -/
def tryJoined (l : Launch) : State → List Task → TryOut
  | s, [] => .fits s
  | s, t :: rest =>
    match tryTask s l t with
    | .fits s => tryJoined { l with joined := true } s rest
    | o => o

/-- Nothing else of a partition stands on the fabric or is suspended. -/
def partIdle (s : State) (l : Launch) : Bool :=
  s.tasks.all (fun u => u.uid / 2 ^ 32 == l.ord || !u.live || !(u.onFabric || u.phase == .suspended) || taskPart s u != l.part)

/-- Outcome for one candidate of the pool; a joined launch needs all its tasks ready and resident at once: where its own tasks alone, in an idle
partition, find no room for all, it never will (R155). -/
def tryCandidate (s : State) (t : Task) : TryOut :=
  match taskLaunch s t with
  | none => .later
  | some l =>
    if launchJoins s l then
      let mine := s.tasks.filter (fun u => u.uid / 2 ^ 32 == l.ord && u.phase == .ready)
      if mine.length + l.ended < l.total then .later
      else match tryJoined { l with joined := true } (s.modLaunch l.ord (fun l => { l with joined := true })) mine with
        | .busy => if partIdle s l && s.tasks.all (fun u => !precedes s u t) then .reject 1 7 0 0 0 else .busy
        | o => o
    else tryTask s l t

/-- A task that takes part in admission now: no declared conflict, and a parameter slot for a replay. -/
def eligible (s : State) (t : Task) : Bool :=
  match taskLaunch s t with
  | none => false
  | some l => !heldByConflict s l t && (l.replays.isNone || l.slot != 0 || decide ((replaySlotsTaken s l).length < 2))

/-- Rank of R167: higher priority, earlier entry, lower key. -/
def ranksBefore (s : State) (a b : Task) : Bool :=
  let pa := (taskLaunch s a).elim 0 (fun l => l.prio.toNat)
  let pb := (taskLaunch s b).elim 0 (fun l => l.prio.toNat)
  decide (pb < pa) || (pa == pb && (decide (a.readyAt < b.readyAt) || (a.readyAt == b.readyAt && keyLt (taskKey s a) (taskKey s b))))

/-- Insert by rank. -/
def rankInsert (s : State) (t : Task) : List Task → List Task
  | [] => [t]
  | h :: r => if ranksBefore s t h then t :: h :: r else h :: rankInsert s t r

/-- The admission unit that serves a partition: that of the die which holds its origin block (R167). -/
def admissionDie (s : State) (part : Nat) : Nat :=
  let (r0, c0, _, _) := partRect (s.part part)
  2 * (r0 / 32) + c0 / 40

/-- Candidates of the unit that serves a partition, in order, whatever partition they belong to; in a partition with blocking tasks the first of
them stands alone (R167, R169). -/
def admissionPool (s : State) (part : Nat) : List Task :=
  let mine := fun (t : Task) => t.phase == .ready && admissionDie s (taskPart s t) == admissionDie s part && eligible s t
  let pool := (s.tasks.filter mine).foldl (fun l t => rankInsert s t l) []
  pool.filter (fun t =>
    match pool.find? (fun u => taskPart s u == taskPart s t && decide (16 ≤ u.bypass)) with
    | some u => u.uid == t.uid
    | none => true)

/-- A replay takes the parameter slot that no unfinished replay holds. -/
def takeReplaySlot (s : State) (t : Task) : State :=
  match taskLaunch s t with
  | none => s
  | some l =>
    if l.replays.isNone || l.slot != 0 then s
    else s.modLaunch l.ord (fun k => { k with slot := if (replaySlotsTaken s l).contains 1 then 2 else 1 })

/-- The unit of a die has admitted a task in this fc. -/
def noteAdmission (s : State) (die : Nat) : State := { s with admits := tabSet s.admits die (s.time + 1) 0 }

/-- Admit the first candidate that fits; each one passed over because it does not fit is bypassed once. -/
def admitFirst (die : Nat) (s : State) : List Task → List Nat → State
  | [], _ => s
  | t :: rest, passed =>
    match tryCandidate s t with
    | .later => admitFirst die s rest passed
    | .busy => admitFirst die s rest (passed ++ [t.uid])
    | .fits s' =>
      noteAdmission (takeReplaySlot (passed.foldl (fun s u => s.modTask u (fun t => { t with bypass := t.bypass + 1 })) s') t) die
    | .reject cls reason unit sub addr => rejectLaunch s t cls reason unit sub addr
    | .failed s' cls reason unit sub =>
      endWith s' t.uid { cls := BitVec.ofNat 4 cls, reason := BitVec.ofNat 8 reason, unit := BitVec.ofNat 16 unit, detail := BitVec.ofNat 32 sub, addr := 0 }

/-- ADMISSION (R167 to R174): the unit that serves a partition admits at most one task in an fc. -/
def execAdmission (part : BitVec 8) (s : State) : Result :=
  let die := admissionDie s part.toNat
  .next (if s.plat.state = 2 ∧ tabGet s.admits die 0 ≠ s.time + 1 then admitFirst die s (admissionPool s part.toNat) [] else s)

/-! ## Release (R173, R438) -/

/-- Every context of a task has swapped. -/
def allSwapped (s : State) (t : Task) : Bool := t.uses.all (fun k => (s.elem (keyEa k) (keyCtx k)).task == some t.uid)

/-- SOURCE_RELEASE (R173): once every site has swapped, the region's sources may fire; a splice successor's sites fire as they swap. -/
def execSourceRelease (s : State) : Result :=
  onTask s (fun s t =>
    if t.phase ≠ .loaded then s
    else if t.pred.isSome then s.modTask t.uid (fun t => { t with phase := .running, lastFire := s.time })
    else if allSwapped s t then
      let s := t.uses.foldl (fun s k => s.modElem (keyEa k) (keyCtx k) (fun e => { e with released := true })) s
      (setPtrs s t).modTask t.uid (fun t => { t with phase := .running, lastFire := s.time })
    else s)

/-! ## Finishing and repair (R145, R218 to R221, R438) -/

/-- Operators of an element context, as their places among its operator states. -/
def ctxOperators (ea : EAddr) (e : ElemCtx) : List Nat :=
  let k := (kindOf ea).getD .ct
  (wordsOf k e.bank).map (fun p => (if k = .router then 16 else if k = .mt then 32 else 0) + p.2.1)

/-- Every operator of a context has passed its LEVEL 7 marker (R32, R449). -/
def ctxPassed (s : State) (k : Nat) : Bool :=
  let ea := keyEa k
  let e := s.elem ea (keyCtx k)
  (ctxOperators ea e).all (fun n => (e.op n).ended && (e.op n).res.isEmpty)

/-- Data sinks of a region among some of its contexts: context key and slot (R411). -/
def dataSinks (s : State) (keys : List Nat) : List (Nat × Nat) :=
  keys.flatMap (fun k =>
    let ea := keyEa k
    let e := s.elem ea (keyCtx k)
    if eaElem ea = 1 then
      ((List.range 8).filter (fun n => e.slotOn n && opcodeOf (e.slotWord n) == 261 && (e.slotWord n).toNat % 2 == 0)).map (fun n => (k, n))
    else [])

/-- Every sink has received its LEVEL 7 marker; without sinks, every context has passed it (R145). A context that a successor has
taken over has passed it. -/
def allReceived (s : State) (t : Task) : Bool :=
  let owner := fun (k : Nat) => (s.elem (keyEa k) (keyCtx k)).task
  let mine := t.uses.filter (fun k => owner k == some t.uid)
  let sinks := dataSinks s mine
  t.uses.all (fun k => t.pred.isNone || owner k != t.pred) && (if sinks.isEmpty then mine.all (ctxPassed s)
    else sinks.all (fun p => ((s.elem (keyEa p.1) (keyCtx p.1)).op (16 + p.2)).ended))

/-- TASK_FINISH (R145, R220, R221): every sink has its marker and no fault is held. A poisoned task is aborted, or ends when it runs
irrevocably; one with tagged records waits for its repair pass. -/
def execTaskFinish (s : State) : Result :=
  onTask s (fun s t =>
    if !(t.phase == .running || t.phase == .repairing) || t.fault.isSome || !allReceived s t then s
    else if t.poisoned then (if t.irrev then taskFault s t.uid 9 6 0 else abortTask s t.uid)
    else if t.phase = .running ∧ !t.repair.isEmpty then s
    else s.modTask t.uid (fun t => { t with phase := .finished, repair := [] }))

/-- Order ordinals upward. -/
def natInsert (x : Nat) : List Nat → List Nat
  | [] => [x]
  | h :: t => if x ≤ h then x :: h :: t else h :: natInsert x t

/-- A source of R26. -/
def sourceAt (ea : EAddr) (e : ElemCtx) (n : Nat) : Bool :=
  if eaElem ea ≠ 0 then false
  else if n < 6 then isSource (opcodeOf (e.stageWord n)) (OpWord.ofBits (e.stageWord n))
  else decide (32 ≤ n) && opcodeOf (e.agnWord (n - 32)) == 320 && bitSet (e.agnb (n - 32)) 4

/-- Stamp of an operator of an element. -/
def stampAt (ea : EAddr) (n : Nat) : BitVec 20 := ea ++ BitVec.ofNat 4 (if n < 32 then n + 1 else n - 32 + 1)

/-- Start a context's repair pass: finished states go, and each source is told its records (R220, R438). -/
def startRepair (l : List Repair) (ea : EAddr) (e : ElemCtx) : ElemCtx :=
  (ctxOperators ea e).foldl (fun e n =>
    let o := e.op n
    let mine := (l.filter (fun r => r.src == stampAt ea n)).foldl (fun a r => natInsert r.ord a) []
    e.setOp n { o with ended := false, repair := if sourceAt ea e n then mine else [] }) { e with finished := false }

/-- The task has its region back for a repair pass: a splice successor that has swapped anywhere is aborted and splices again, and the task's
image is loaded again, without initial tokens, which its first pass has consumed. -/
def retakeRegion (s : State) (t : Task) (succ : List Task) : State :=
  let more := ((abortSet s s.tasks.length (succ.map (·.uid))).filterMap s.task?).filter (fun u => !succ.any (fun x => x.uid == u.uid))
  let s := abortInPlace s more
  let s := succ.foldl (fun s u => spliceBehind s t u) s
  let s := reloadImage s t false
  let s := succ.foldl (fun s u => restartAlone s t u) s
  t.uses.foldl (fun s k => s.modElem (keyEa k) (keyCtx k) (fun e => { e with released := true })) s

/-- REPAIR_PASS (R220): a finished task with tagged records re-injects exactly those. A splice successor that has swapped anywhere is
aborted first, and the task's image is loaded again. A task whose freed contexts have gone elsewhere runs again from the start. -/
def execRepairPass (s : State) : Result :=
  onTask s (fun s t =>
    if t.phase ≠ .running || t.fault.isSome || t.poisoned || t.repair.isEmpty || !allReceived s t then s
    else
      let succ := (successorsOf s t.uid).filter (swappedSomewhere s)
      let lost := t.uses.any (fun k => (s.elem (keyEa k) (keyCtx k)).task != some t.uid)
      if lost && !canReload s t then abortTask s t.uid
      else
        let s := if lost || !succ.isEmpty then retakeRegion s t succ else s
        let s := t.uses.foldl (fun s k => s.modElem (keyEa k) (keyCtx k) (startRepair t.repair (keyEa k))) s
        s.modTask t.uid (fun t => { t with phase := .repairing, repaired := t.repaired + t.repair.length, lastFire := s.time }))

/-! ## Commit (R145, R152, R261) -/

/-- Class, DETAIL and ADDR of a task that commits. -/
def commitEntry (s : State) (t : Task) : State :=
  let cls := if 0 < t.repaired then 8 else if 0 < t.preempts then 7 else 0
  taskCompletion s t cls 0 0 (min 255 t.aborts + 256 * (t.repaired % 2 ^ 24)) (t.wstores % 2 ^ 32 + 2 ^ 32 * (t.preempts % 2 ^ 16))

/-- Apply the buffered effects of a task in port order; its spawn requests stay. -/
def applyTask (s : State) (uid : Nat) : State :=
  match s.task? uid with
  | none => s
  | some t =>
    let s := t.cb.foldl applyEntry s
    s.modTask uid (fun t => { t with cb := t.cb.filter (fun e => match e with | .spawn _ _ _ _ _ => true | _ => false) })

/-- Accept a committed task's spawn requests in order; false while one waits. -/
def releaseSpawns (uid : Nat) : State → Nat → State × Bool
  | s, 0 => (s, true)
  | s, n + 1 =>
    match s.task? uid with
    | none => (s, true)
    | some t =>
      match t.cb with
      | .spawn _ q trec tstamp param :: rest =>
        let part := taskPart s t
        let go := fun (s : State) => s.modTask uid (fun t => { t with cb := rest, pxFault := none })
        let now := fun (s : State) =>
          match acceptSpawn s part q trec tstamp param with
          | .done s => releaseSpawns uid (go s) n
          | .wait s => (s, false)
          | .hold s f => (s.modTask uid (fun t => { t with pxFault := some f }), false)
        match t.pxFault with
        | none => now s
        | some f =>
          match spawnAnswer s part f with
          | none => (s, false)
          | some (s, false) => now s
          | some (s, true) => releaseSpawns uid (go (spawnUnreadable s q trec tstamp f)) n
      | _ => (s, true)

/-- After a commit: spawn requests, then the completion entry and the end of the task. -/
def finishCommit (s : State) (uid : Nat) : State :=
  match s.task? uid with
  | none => s
  | some t =>
    let (s, done) := releaseSpawns uid s (t.cb.length)
    if done then
      match s.task? uid with
      | some t => retireTask (commitEntry s t) uid
      | none => s
    else s

/-- Tasks outside a unit whose reads a commit's writes may have touched. -/
def abortConflicts (s : State) (unit : List Task) (wsig : BitVec 4096) : State :=
  abortWhere s (fun s t => unit.all (fun u => u.uid != t.uid) && unitRsig s t &&& wsig != 0)

/-- The twin of a task in the other partition of a lockstep pair. -/
def twinOf (s : State) (t : Task) : Option Task :=
  if lsOn s.plat && (taskPart s t == lsPrim s.plat || taskPart s t == lsSec s.plat) then
    s.task? (if t.uid / 2 ^ 32 < lsTwin then t.uid + lsTwin * 2 ^ 32 else t.uid - lsTwin * 2 ^ 32)
  else none

/-- What two commit streams must agree on, line by line: address, mask, data and order (R261). -/
def streamOf (t : Task) : List CbEntry :=
  t.cb.map (fun e => match e with
    | .store _ l m d => .store 0 l m d
    | .atomic _ a o => .atomic 0 a o
    | .spawn _ q r s p => .spawn 0 q r s p)

/-- Address of the first entry in which two streams differ. -/
def firstDiff : List CbEntry → List CbEntry → Option Nat
  | [], [] => none
  | [], e :: _ => some (addrOf e)
  | e :: _, [] => some (addrOf e)
  | a :: x, b :: y => if a = b then firstDiff x y else some (addrOf a)
where
  /-- Physical address of an entry. -/
  addrOf : CbEntry → Nat
    | .store _ l _ _ => l
    | .atomic _ a _ => a
    | .spawn _ _ r _ _ => r.toNat

/-- A lockstep pair has broken: both tasks end with HARDWARE, and the queue stops (R262). The spec gives a stream port no element address, so the number
in UNIT is a free value (log 109). -/
def breakPair (s : State) (a b : Nat) (addr : Nat) : State :=
  let q := (s.task? a).bind (taskLaunch s)
  let port := (Config.freeValue s.free).setWidth 16
  let e : EndWith := { cls := 6, reason := 0, unit := port, detail := 0, addr := BitVec.ofNat 64 addr }
  let s := endWith (endWith s.takeFree a e) b e
  let s := match q with
    | some l => s.modQueue l.queue (fun w => { w with en := false })
    | none => s
  s.modPlat (fun p => { lsBroken p with lsWait := none })

/-- A side of a pair stands with its stream until the other side has presented it too. -/
def pairWaits (s : State) (t : Task) : State :=
  if s.plat.lsWait.isSome then s else s.modPlat (fun p => { p with lsWait := some (taskPart s t, t.uid, s.time) })

/-- The commit stream of a unit. -/
def unitStream (s : State) (t : Task) : List CbEntry := (taskUnit s t).flatMap streamOf

/-- The effects that both sides of a pair have written through are applied once, from the primary's, up to n of them; the sides break apart where they
differ. -/
def pairThrough (prim sec : Nat) : State → Nat → State
  | s, 0 => s
  | s, n + 1 =>
    match s.task? prim, s.task? sec with
    | some t, some u =>
      match t.cb, u.cb with
      | e :: _, _ :: us =>
        match firstDiff ((streamOf t).take 1) ((streamOf u).take 1) with
        | some a => breakPair s prim sec a
        | none =>
          let s := s.modPlat (fun p => { p with lsWait := none })
          let (s, went) := match e with
            | .spawn _ _ _ _ _ => releaseSpawns prim s 1
            | _ =>
              let s := (applyEntry s e).modTask prim (fun v => { v with cb := v.cb.tail })
              (abortReaders s (firstDiff.addrOf e / 64 * 64) 64, true)
          if went then pairThrough prim sec (s.modTask sec (fun v => { v with cb := us })) n else s
      | [], [] => s
      | [], _ => pairWaits s u
      | _, [] => pairWaits s t
    | _, _ => s

/-- The unit may commit: finished throughout, and every lower key committed or ended. -/
def mayCommit (s : State) (t : Task) : Bool :=
  (taskUnit s t).all (fun u => u.phase == .finished && u.fault.isNone) && oldest s t

/-- The tile whose commit buffer holds an entry. -/
def CbEntry.tile : CbEntry → Nat
  | .store m _ _ _ => m
  | .atomic m _ _ => m
  | .spawn m _ _ _ _ => m

/-- Read the commit-buffer rows of a unit: a task that owns one that fails ends with HARDWARE and commits nothing (R211). Which rows hold which
entries is not said; every row of a tile's buffer stands for each of its entries (DESIGN CHOICE, log entry 121). -/
def readBuffers (s : State) (unit : List Task) : State × Bool :=
  let tiles := (unit.flatMap (fun u => u.cb.map CbEntry.tile)).dedup
  tiles.foldl (fun (acc : State × Bool) m =>
    let site := BitVec.ofNat 13 m
    let (s, ok) := readRegion acc.1 site (programRange acc.1 site) (2 ^ 21 - 2 ^ 16)
    if ok then (s, acc.2)
    else ((unit.filter (fun u => u.cb.any (fun e => e.tile == m))).foldl (fun s u =>
      endWith s u.uid { cls := 6, reason := 0, unit := siteEa site 0, detail := 0, addr := 0 }) s, false)) (s, true)

/-- Commit a unit: its effects at once, readers aborted, the horizon moved, then spawns and entries. -/
def commitUnit (s : State) (t : Task) : State :=
  let unit := taskUnit s t
  let wsig := unitWsig s t
  let key := taskKey s t
  let s := unit.foldl (fun s u => applyTask s u.uid) s
  let s := abortConflicts s unit wsig
  let s := { s with horizon := some key }
  let s := unit.foldl (fun s u => (inheritFrom (clearTask s u) u.uid).modTask u.uid (fun u => { u with phase := .ended, uses := [], slot := none })) s
  unit.foldl (fun s u => finishCommit s u.uid) s

/-- COMMIT (R145, R261): a finished task commits in key order, all of it at once. A lockstep pair commits once, when both streams stand
and agree. A task that has committed goes on with spawn requests that wait, and the requests of an irrevocable one are accepted as they are
performed (R413). -/
def execCommit (s : State) : Result :=
  onTask s (fun s t =>
    if t.phase = .ended then finishCommit s t.uid
    else if t.wthrough && (t.phase == .running || t.phase == .repairing) && !t.cb.isEmpty then
      match twinOf s t with
      | some u => pairThrough (min t.uid u.uid) (max t.uid u.uid) s t.cb.length
      | none => (releaseSpawns t.uid s t.cb.length).1
    else if !mayCommit s t then s
    else
      match twinOf s t with
      | none =>
        match readBuffers s (taskUnit s t) with
        | (s, false) => s
        | (s, true) => commitUnit s t
      | some u =>
        if !mayCommit s u then pairWaits s t
        else
          match firstDiff (unitStream s t) (unitStream s u) with
          | some a => breakPair s t.uid u.uid a
          | none =>
            let (prim, sec) := if t.uid < u.uid then (t, u) else (u, t)
            let others := taskUnit s sec
            match readBuffers (s.modPlat (fun p => { p with lsWait := none })) (taskUnit s prim ++ others) with
            | (s, false) => s
            | (s, true) =>
              others.foldl (fun s v => retireTask (clearTask (s.modTask v.uid (fun v => { v with cb := [] })) v) v.uid) (commitUnit s prim))

/-- LOCKSTEP_TIMEOUT (R262): one side has waited more than 1 ms. -/
def execLockstepTimeout (s : State) : Result :=
  let late := fun (x : LsWrite) => decide (x.since + 1000000 < s.time)
  let s := if s.plat.lsWrites.any late then s.modPlat (fun p => { lsBroken p with lsWrites := p.lsWrites.filter (fun x => !late x) }) else s
  .next (match s.plat.lsWait with
    | some (_, uid, since) =>
      if s.time ≤ since + 1000000 then s
      else match (s.task? uid).bind (twinOf s) with
        | some u => breakPair s uid u.uid 0
        | none => s.modPlat (fun p => { p with lsWait := none })
    | none => s)

/-! ## Overflow (R146) -/

/-- An operator of the task waits for room in its commit buffer share. -/
def stalledOnShare (s : State) (t : Task) : Bool :=
  t.uses.any (fun k =>
    let e := s.elem (keyEa k) (keyCtx k)
    eaElem (keyEa k) == 0 && e.task == some t.uid && e.ops.any (fun p => p.2.mode == .hold && (decide (p.1 < 16) || decide (32 ≤ p.1))))

/-- A unit commits what it holds and runs on irrevocably, without slots. -/
def throughUnit (s : State) (t : Task) : State :=
  let unit := taskUnit s t
  let wsig := unitWsig s t
  let s := unit.foldl (fun s u => applyTask s u.uid) s
  let s := abortConflicts s unit wsig
  let s := { s with horizon := some (taskKey s t) }
  let s := unit.foldl (fun s u => s.modTask u.uid (fun u => { u with irrev := true, wthrough := true, slot := none })) s
  unit.foldl (fun s u => (releaseSpawns u.uid s u.cb.length).1) s

/-- IRREVOCABLE (R146, R145): a stalled task that is the oldest commits what it holds and runs on irrevocably, without a slot. -/
def execIrrevocable (s : State) : Result :=
  onTask s (fun s t =>
    if t.irrev || !(t.phase == .running || t.phase == .repairing) || !oldest s t || t.fault.isSome || !(taskUnit s t).any (stalledOnShare s) then s
    else
      match twinOf s t with
      | none =>
        match readBuffers s (taskUnit s t) with
        | (s, false) => s
        | (s, true) => throughUnit s t
      | some u =>
        -- a lockstep pair commits what both sides hold at once (R261)
        if !oldest s u || u.fault.isSome || !(taskUnit s u).any (stalledOnShare s) then pairWaits s t
        else
          match firstDiff (unitStream s t) (unitStream s u) with
          | some a => breakPair s t.uid u.uid a
          | none =>
            let (prim, sec) := if t.uid < u.uid then (t, u) else (u, t)
            let others := taskUnit s sec
            match readBuffers (s.modPlat (fun p => { p with lsWait := none })) (taskUnit s prim ++ others) with
            | (s, false) => s
            | (s, true) =>
              others.foldl (fun s v => s.modTask v.uid (fun v => { v with cb := [], irrev := true, wthrough := true, slot := none })) (throughUnit s prim))

/-! ## Faults that end tasks (R50, R156, R234 to R237) -/

/-- A page fault or a migration holds an operator of the task (R125, R127). -/
def heldAtFault (s : State) (t : Task) : Bool :=
  t.uses.any (fun k => (s.elem (keyEa k) (keyCtx k)).ops.any (fun p => p.2.fault.isSome || p.2.mig.isSome))

/-- A failed check, or a parked object, holds what the task waits on: its time does not count (R226, R250). -/
def heldAtHold (s : State) (t : Task) : Bool :=
  (waitingOn s t).any (fun p => (s.barrier p.2).park || !(s.barrier p.2).pending.isEmpty)
    || s.channels.any (fun c => c.2.waiters.any (fun w => t.uses.contains (w.1 / 64)))

/-- WATCHDOG (R50): no element of the region has fired for the launch's interval. -/
def execWatchdog (s : State) : Result :=
  onTask s (fun s t =>
    match taskLaunch s t with
    | none => s
    | some l =>
      if (t.phase == .running || t.phase == .repairing) && t.fault.isNone && !heldAtFault s t && !heldAtHold s t
          && decide (t.lastFire + t.excused + l.wdog * 1000000 ≤ s.time) then taskFault s t.uid 13 3 0
      else s)

/-- The fault-record ring has no room (Table 10-3). -/
def Part.frFull (p : Part) : Bool := p.frTail - p.frHead == 1024#11

/-- FAULT_RECORD_POST (R235): the oldest held record of a block whose event queue has room enters the ring, and its first 24 bytes that queue. -/
def execFaultRecordPost (part : BitVec 8) (s : State) : Result :=
  let p := s.part part.toNat
  -- a full event queue holds the records of its own block, each at its element
  .next (match p.frHeld.find? (fun r => !(s.sq (BitVec.ofNat 6 r.blk)).evFull) with
    | none => s
    | some r =>
      let blk := BitVec.ofNat 6 r.blk
      if p.frFull then s
      else
        let s := { s with dmem := memSetBytes s.dmem (p.frBase.toNat + 64 * (p.frTail.toNat % 1024)) r.bytes }
        let s := s.setPart part.toNat { p with frHeld := p.frHeld.erase r, frTail := p.frTail + 1 }
        postEvent s blk 2 (bytesToNat ((r.bytes.drop 2).take 2)) (r.bytes.take 24))

end Sys2Proof.Machine
end

