-- ==== Sys2Proof/Machine/Save.lean ====
section
/-! DEFINITION. Machine/Save.lean: save records (R200, R244, R245, R255, Table 11-2): what a record of an element context holds, as bytes, and
what is read back from them. The body begins with the configuration words in field order; the spec gives no layout of the rest, which is the
model's (DESIGN CHOICE, log entry 53). -/

namespace Sys2Proof.Machine

/-! ## Writing a body -/

/-- What stands in a body after the configuration words. -/
inductive SaveItem where
  | word (x : Nat)
  | tok (t : Token)
deriving DecidableEq, Repr

/-- A number of 64 bits, a flag, an optional thing, and several things behind their number. -/
def saveWide (x : Nat) : List SaveItem := [.word (x % 2 ^ 32), .word (x / 2 ^ 32 % 2 ^ 32)]
def saveFlag (b : Bool) : List SaveItem := [.word (if b then 1 else 0)]
def saveOpt {α : Type} (f : α → List SaveItem) : Option α → List SaveItem
  | none => [.word 0]
  | some a => .word 1 :: f a
def saveList {α : Type} (f : α → List SaveItem) (l : List α) : List SaveItem := .word l.length :: l.flatMap f
def saveTok (t : Token) : List SaveItem := [.tok t]

/-- A number as words of 32 bits, low first. -/
def wordsOfNat (n x : Nat) : List Nat := (List.range n).map (fun i => x / 2 ^ (32 * i) % 2 ^ 32)

/-- The number that words hold. -/
def natOfWords (l : List Nat) : Nat := l.foldr (fun w acc => w % 2 ^ 32 + 2 ^ 32 * acc) 0

/-- A token in 80 bytes: payload, then sideband (R255). -/
def tokenWords (t : Token) : List Nat := wordsOfNat 16 t.pay.toNat ++ wordsOfNat 4 (sidebandNat t)

/-- What the model knows of a token beside its payload and sideband (log entry 9). -/
def tokenOrigin (t : Token) : List Nat := [t.wrap.toNat, t.src.toNat + (if t.multi then 2 ^ 20 else 0) + (if t.rand then 2 ^ 21 else 0)]

/-- Words of a body: the items, the origins of their tokens, and the number of words of the origins. -/
def itemWords (l : List SaveItem) : List Nat :=
  let origins := l.flatMap (fun i => match i with | .word _ => [] | .tok t => tokenOrigin t)
  l.flatMap (fun i => match i with | .word x => [x % 2 ^ 32] | .tok t => tokenWords t) ++ origins ++ [origins.length]

/-! ## Reading a body -/

/-- A reader of the items and of the origins behind them. -/
abbrev SaveReader := StateM (List Nat × List Nat)

def loadWord : SaveReader Nat := fun l => (l.1.headD 0, (l.1.tail, l.2))
def loadWide : SaveReader Nat := fun l => (l.1.headD 0 + 2 ^ 32 * l.1.tail.headD 0, (l.1.drop 2, l.2))
def loadFlag : SaveReader Bool := fun l => (l.1.headD 0 != 0, (l.1.tail, l.2))
def loadOpt {α : Type} (f : SaveReader α) : SaveReader (Option α) := do
  if ← loadFlag then return some (← f) else return none
def loadTimes {α : Type} (f : SaveReader α) : Nat → SaveReader (List α)
  | 0 => pure []
  | n + 1 => do
    let a ← f
    return a :: (← loadTimes f n)
def loadList {α : Type} (f : SaveReader α) : SaveReader (List α) := fun l => loadTimes f (min (l.1.headD 0) l.1.length) (l.1.tail, l.2)

/-- The token of payload and sideband words and of its origin. -/
def tokenOf (w origin : List Nat) : Token :=
  let side := natOfWords (w.drop 16)
  let o := origin.getD 1 0
  { pay := BitVec.ofNat 512 (natOfWords (w.take 16)), mask := BitVec.ofNat 16 side
    kind := match bits side 16 2 with
      | 0 => .data
      | 1 => .header
      | 2 => .marker
      | _ => .cut
    level := BitVec.ofNat 3 (bits side 18 3), etag := bitSet side 21, seq := BitVec.ofNat 20 (bits side 22 20)
    wrap := BitVec.ofNat 32 (origin.headD 0), route := BitVec.ofNat 10 (bits side 42 10), done := BitVec.ofNat 8 (bits side 52 8)
    rsv := BitVec.ofNat 4 (bits side 60 4), res := BitVec.ofNat 64 (bits side 64 64), src := BitVec.ofNat 20 o, multi := bitSet o 20, rand := bitSet o 21 }

def loadTok : SaveReader Token := fun l => (tokenOf (l.1.take 20) (l.2.take 2), (l.1.drop 20, l.2.drop 2))

/-! ## Control tokens, passes, operators -/

/-- A control token in one word. -/
def saveCtl (c : Ctl) : List SaveItem :=
  [.word ((if c.v then 1 else 0) + (if c.b then 2 else 0) + (if c.par then 4 else 0) + (if c.fin then 8 else 0))]

def loadCtl : SaveReader Ctl := do
  let x ← loadWord
  return { v := bitSet x 0, b := bitSet x 1, par := bitSet x 2, fin := bitSet x 3, cut := false }

def loopCode : LoopState → Nat
  | .idle => 0
  | .loop => 1
  | .fibre => 2
  | .drain => 3
  | .hold => 4

def loopOf : Nat → LoopState
  | 1 => .loop
  | 2 => .fibre
  | 3 => .drain
  | 4 => .hold
  | _ => .idle

def saveReissue (r : Reissue) : List SaveItem := saveWide r.vpage ++ saveWide r.ppage ++ saveWide r.size ++ [.word (r.intent.toNat + 4 * r.gen.toNat)]

def loadReissue : SaveReader Reissue := do
  let v ← loadWide
  let p ← loadWide
  let n ← loadWide
  let x ← loadWord
  return { vpage := v, ppage := p, size := n, intent := BitVec.ofNat 2 x, gen := BitVec.ofNat 7 (x / 4) }

/-- State of an operator: loop state and records held, repeat and packet state, `rand` state, walks. A translation that waits is walked again
(R244), and the interval before the first firing after a restore is not measured (R257). -/
def saveOp (o : OpSt) : List SaveItem :=
  saveWide o.count ++ [.word o.fmt.toNat] ++ saveWide o.rem ++ saveWide o.elems ++ saveFlag o.seen ++ saveOpt saveTok o.hdr
    ++ [.word (loopCode o.mode)] ++ saveOpt saveTok o.held ++ saveList saveTok o.toks
    ++ saveList (fun p => .word p.1 :: saveTok p.2) o.res ++ saveOpt (fun p => [.word p.toNat]) o.phase ++ saveWide o.level
    ++ saveWide o.lastRefill ++ saveOpt saveFlag o.sel ++ saveOpt saveWide o.ptr ++ saveWide o.visited ++ saveWide o.x.toNat
    ++ saveOpt (fun p => saveWide p.1 ++ saveWide p.2.toNat) o.page ++ saveList saveReissue o.relog ++ saveFlag o.ended
    ++ saveList saveWide o.repair ++ saveWide o.ctlN ++ saveWide o.dataN ++ saveFlag o.tagged ++ saveFlag o.chk ++ saveFlag o.lost

def loadOp : SaveReader OpSt := do
  let count ← loadWide
  let fmt ← loadWord
  let rem ← loadWide
  let elems ← loadWide
  let seen ← loadFlag
  let hdr ← loadOpt loadTok
  let mode ← loadWord
  let held ← loadOpt loadTok
  let toks ← loadList loadTok
  let res ← loadList (do
    let p ← loadWord
    return (p, ← loadTok))
  let phase ← loadOpt loadWord
  let level ← loadWide
  let lastRefill ← loadWide
  let sel ← loadOpt loadFlag
  let ptr ← loadOpt loadWide
  let visited ← loadWide
  let x ← loadWide
  let page ← loadOpt (do
    let a ← loadWide
    return (a, BitVec.ofNat 64 (← loadWide)))
  let relog ← loadList loadReissue
  let ended ← loadFlag
  let repair ← loadList loadWide
  let ctlN ← loadWide
  let dataN ← loadWide
  let tagged ← loadFlag
  let chk ← loadFlag
  let lost ← loadFlag
  return { OpSt.zero with
    count := count, fmt := BitVec.ofNat 4 fmt, rem := rem, elems := elems, seen := seen, hdr := hdr, mode := loopOf mode, held := held
    toks := toks, res := res, phase := phase.map (BitVec.ofNat 32), level := level, lastRefill := lastRefill, sel := sel, ptr := ptr
    visited := visited, x := BitVec.ofNat 64 x, page := page, relog := relog, ended := ended, repair := repair, ctlN := ctlN, dataN := dataN
    tagged := tagged, chk := chk, lost := lost }

def savePass (p : Pass) : List SaveItem :=
  saveList (fun q => .word q.1 :: saveOpt saveTok q.2) p.ports ++ [.word p.stage] ++ saveOpt saveTok p.prev

def loadPass : SaveReader Pass := do
  let ports ← loadList (do
    let n ← loadWord
    return (n, ← loadOpt loadTok))
  let stage ← loadWord
  let prev ← loadOpt loadTok
  return { ports := ports.foldl (fun t p => tabSet t p.1 p.2 none) [], stage := stage, prev := prev }

def saveBrk (b : Brk) : List SaveItem := saveFlag b.hit ++ saveWide b.tcnt ++ saveFlag b.holds

def loadBrk : SaveReader Brk := do
  let hit ← loadFlag
  let tcnt ← loadWide
  return { hit := hit, tcnt := tcnt, holds := ← loadFlag }

/-! ## The commute store (R200) -/

def slotStateCode : SlotState → Nat
  | .waiting => 0
  | .complete => 1
  | .dispatched m => 2 + m

def slotStateOf : Nat → SlotState
  | 0 => .waiting
  | 1 => .complete
  | n + 2 => .dispatched n

def saveKSlot (x : KSlot) : List SaveItem :=
  saveTok x.tok ++ [.word (slotStateCode x.state)] ++ saveFlag x.hole ++ saveWide x.since ++ saveWide x.turn ++ saveList saveWide x.owed ++ saveFlag x.back

def loadKSlot : SaveReader KSlot := do
  let t ← loadTok
  let st ← loadWord
  let hole ← loadFlag
  let since ← loadWide
  let turn ← loadWide
  let owed ← loadList loadWide
  return { tok := t, state := slotStateOf st, hole := hole, since := since, turn := turn, owed := owed, back := ← loadFlag }

def saveKMember (p : Nat × KMember) : List SaveItem :=
  .word p.1 :: saveWide p.2.clat ++ saveWide p.2.plat ++ saveWide p.2.vis ++ saveWide p.2.pcnt ++ saveWide p.2.csum

def loadKMember : SaveReader (Nat × KMember) := do
  let m ← loadWord
  let clat ← loadWide
  let plat ← loadWide
  let vis ← loadWide
  let pcnt ← loadWide
  return (m, { clat := clat, plat := plat, vis := vis, pcnt := pcnt, csum := ← loadWide })

/-- The commute store: slots with holes, DONE bits and SEQs, counters and statistics, the LFSR and the round-robin pointer; q follows from the
slots. -/
def saveKelp (k : Kelp) : List SaveItem :=
  .word k.lfsr.toNat :: saveWide k.klot ++ [.word k.rr] ++ saveWide k.turns ++ saveFlag k.started ++ saveList saveKMember k.members
    ++ saveList saveKSlot k.slots

def loadKelp : SaveReader Kelp := do
  let lfsr ← loadWord
  let klot ← loadWide
  let rr ← loadWord
  let turns ← loadWide
  let started ← loadFlag
  let members ← loadList loadKMember
  return { slots := ← loadList loadKSlot, members := members.foldl (fun t p => tabSet t p.1 p.2 KMember.zero) [], lfsr := BitVec.ofNat 16 lfsr
           klot := klot, rr := rr, turns := turns, started := started }

/-! ## An element context -/

/-- Per-context configuration fields: the site-wide registers follow them (R282). -/
def savedFields (ea : EAddr) : Nat := if eaElem ea = 1 then 45 else 44

/-- Operators of an element, as their places among its operator states. -/
def savedOps (ea : EAddr) : List Nat :=
  if eaElem ea = 1 then [16, 17, 18, 19, 20, 21, 22, 23] else if siteIsMt (eaSite ea) then [32, 33, 34, 35] else [0, 1, 2, 3, 4, 5]

/-- Inputs whose tokens are saved as channel state (R200, R244): the back edge and the control input of a loop, the returns of a commute group,
and the address port of an `xlat`, where tokens stay only behind a request that was held. -/
def channelInputs (ea : EAddr) (e : ElemCtx) : List (Net × Nat) :=
  if eaElem ea = 1 then
    (List.range 8).flatMap (fun n =>
      let code := opcodeOf (e.slotWord n)
      let ext := code == 267 && (e.slotWord n).toNat % 8 != 0
      (List.range 4).filterMap (fun i =>
        let chan := (code == 258 && (i == 1 || i == 3)) || (code == 259 && i == 3) || ext
        if e.slotOn n && chan then (e.inNet n i).map (fun net => (net, slotKey n i)) else none))
  else if siteIsMt (eaSite ea) then
    (List.range 4).filterMap (fun n =>
      let word := e.agnWord n
      if bitSet (e.agnb n) 6 && opcodeOf word == 326 then some (.data, (OpWord.ofBits word).sa.toNat % 4) else none)
  else []

/-- Queues that stand in a context's own record. -/
def ownQueues (ea : EAddr) (e : ElemCtx) : Tab (List Token) := e.inq.filter (fun p => !(channelInputs ea e).contains (.data, p.1))
def ownCtls (ea : EAddr) (e : ElemCtx) : Tab (List Ctl) := e.inc.filter (fun p => !(channelInputs ea e).contains (.ctl, p.1))

/-- What follows the configuration words of a context: window pages, k registers, operators, a pass that waits, breakpoints, counters, the last
GROUP, weight-store swaps, queue contents. -/
def ctxItems (ea : EAddr) (e : ElemCtx) : List SaveItem :=
  saveList (fun p => [.word p.1, .word p.2.toNat]) (e.bank.filter (fun p => decide (64 ≤ p.1)))
    ++ (List.range 8).flatMap (fun i => saveTok (e.getK i))
    ++ (savedOps ea).flatMap (fun n => saveOp (e.op n))
    ++ saveOpt savePass e.pass ++ saveList (fun p => .word p.1 :: saveBrk p.2) e.brk ++ saveList (fun p => .word p.1 :: saveWide p.2) e.ii
    ++ saveWide e.fires ++ saveOpt (fun g => [.word g.toNat]) e.group ++ saveWide e.wsSwaps ++ saveFlag e.finished
    ++ saveList (fun p => .word p.1 :: saveList saveTok p.2) (ownQueues ea e)
    ++ saveList (fun p => .word p.1 :: saveList saveCtl p.2) (ownCtls ea e)

/-- The context that these items describe, beside its fields. -/
def loadCtx (ea : EAddr) (bank : Tab Word) (k : ElemKind) : SaveReader ElemCtx := do
  let pages ← loadList (do
    let n ← loadWord
    return (n, ← loadWord))
  let ks ← loadTimes loadTok 8
  let ops ← loadTimes loadOp (savedOps ea).length
  let pass ← loadOpt loadPass
  let brk ← loadList (do
    let n ← loadWord
    return (n, ← loadBrk))
  let ii ← loadList (do
    let n ← loadWord
    return (n, ← loadWide))
  let fires ← loadWide
  let group ← loadOpt loadWord
  let swaps ← loadWide
  let finished ← loadFlag
  let inq ← loadList (do
    let n ← loadWord
    return (n, ← loadList loadTok))
  let inc ← loadList (do
    let n ← loadWord
    return (n, ← loadList loadCtl))
  return { ElemCtx.reset with
    bank := pages.foldl (fun b p => if 64 ≤ p.1 then tabSet b p.1 (BitVec.ofNat 32 p.2) (fieldReset k p.1) else b) bank
    k := ks.zipIdx.foldl (fun t p => tabSet t p.2 p.1 Token.zero) []
    ops := (ops.zip (savedOps ea)).foldl (fun t p => tabSet t p.2 p.1 OpSt.zero) []
    pass := pass, fires := fires, group := group.map (BitVec.ofNat 8), wsSwaps := swaps, finished := finished
    brk := brk.foldl (fun t p => tabSet t p.1 p.2 Brk.zero) []
    ii := ii.foldl (fun t p => tabSet t p.1 p.2 0) []
    inq := inq.foldl (fun t p => tabSet t p.1 p.2 []) []
    inc := inc.foldl (fun t p => tabSet t p.1 p.2 []) [] }

/-! ## Records (Table 11-2) -/

/-- Bytes of words. -/
def wordBytes (l : List Nat) : List Byte := l.flatMap (natToBytes 4)

/-- Words of bytes. -/
def bytesWords (l : List Byte) : List Nat := (List.range (l.length / 4)).map (fun i => numAt l (4 * i) 4)

/-- A record: header, body and CRC-32C over both. -/
def saveRecord (ea : EAddr) (ctx : BitVec 2) (rkind : Nat) (cut : Word) (port : Nat) (body : List Nat) : List Byte :=
  let l := natToBytes 2 ea.toNat ++ natToBytes 1 ctx.toNat ++ natToBytes 1 rkind ++ natToBytes 4 (4 * body.length + 20) ++ natToBytes 4 cut.toNat
    ++ natToBytes 2 port ++ natToBytes 2 0 ++ wordBytes body
  l ++ natToBytes 4 (crc32c l)

/-- RKIND of an element's own record. -/
def ownKind (ea : EAddr) : Nat := if eaElem ea = 1 then 2 else if siteIsMt (eaSite ea) then 3 else 1

/-- Configuration words of a context in field order. -/
def fieldWords (ea : EAddr) (e : ElemCtx) : List Nat :=
  (List.range (savedFields ea)).map (fun f => (bankGet ((kindOf ea).getD .ct) e.bank f).toNat)

/-- PORT of channel state: the input; control inputs stand 64 higher (DESIGN CHOICE, log entry 53). -/
def channelPort (p : Net × Nat) : Nat :=
  let n := if 16 ≤ p.2 then p.2 - 16 else p.2
  match p.1 with
  | .data => n
  | .ctl => 64 + n

/-- What an input holds. -/
def channelItems (e : ElemCtx) (p : Net × Nat) : List SaveItem :=
  match p.1 with
  | .data => saveList saveTok (e.queue p.2)
  | .ctl => saveList saveCtl (e.ctlQueue p.2)

/-- An input holds nothing. -/
def channelEmpty (e : ElemCtx) (p : Net × Nat) : Bool :=
  match p.1 with
  | .data => (e.queue p.2).isEmpty
  | .ctl => (e.ctlQueue p.2).isEmpty

/-- A context has the head of a commute group. -/
def hasGroup (ea : EAddr) (e : ElemCtx) : Bool :=
  eaElem ea = 1 && (List.range 8).any (fun n => e.slotOn n && opcodeOf (e.slotWord n) == 267)

/-- All records of one saved context: its own, that of its commute store, and those of inputs with channel state. -/
def ctxRecords (key : Nat) (e : ElemCtx) (cut : Word) : List Byte :=
  let ea := keyEa key
  let ctx := keyCtx key
  saveRecord ea ctx (ownKind ea) cut 0 (fieldWords ea e ++ itemWords (ctxItems ea e))
    ++ (if hasGroup ea e then saveRecord ea ctx 4 cut 0 (itemWords (saveKelp e.kelp)) else [])
    ++ ((channelInputs ea e).filter (fun p => !channelEmpty e p)).flatMap (fun p =>
        saveRecord ea ctx 5 cut (channelPort p) (itemWords (channelItems e p)))

/-! ## Reading records back (R247) -/

/-- A record that has been read. -/
structure SaveRec where
  rkind : Nat
  port  : Nat
  body  : List Nat

/-- Take the record at the front of bytes when it is one of an element context and its CRC is right. -/
def takeRecord (key : Nat) (cut : Word) (l : List Byte) : Option (SaveRec × List Byte) :=
  let n := numAt l 4 4
  if l.length < n ∨ n < 20 ∨ n % 4 ≠ 0 ∨ numAt l 0 2 ≠ (keyEa key).toNat ∨ numAt l 2 1 ≠ (keyCtx key).toNat ∨ numAt l 8 4 ≠ cut.toNat
      ∨ numAt l (n - 4) 4 ≠ crc32c (l.take (n - 4)) then none
  else some ({ rkind := numAt l 3 1, port := numAt l 12 2, body := bytesWords ((l.take (n - 4)).drop 16) }, l.drop n)

/-- Read the items of a body. -/
def readItems {α : Type} (f : SaveReader α) (l : List Nat) : α :=
  let n := l.getLastD 0
  (f (l.take (l.length - 1 - n), (l.drop (l.length - 1 - n)).take n)).1

/-- The context of its own record's body. -/
def ctxOfBody (ea : EAddr) (l : List Nat) : ElemCtx :=
  let k := (kindOf ea).getD .ct
  let n := savedFields ea
  let bank := ((l.take n).zipIdx).foldl (fun b p => tabSet b p.2 (BitVec.ofNat 32 p.1) (fieldReset k p.2)) []
  readItems (loadCtx ea bank k) (l.drop n)

/-- A further record of a context: its commute store, or the channel state of an input, which goes to the head of that input. -/
def addRecord (ea : EAddr) (e : ElemCtx) (r : SaveRec) : Option ElemCtx :=
  if r.rkind = 4 then some { e with kelp := readItems loadKelp r.body }
  else if r.rkind = 5 then
    ((channelInputs ea e).find? (fun p => channelPort p == r.port)).map (fun p => match p.1 with
      | .data => e.setQueue p.2 (readItems (loadList loadTok) r.body ++ e.queue p.2)
      | .ctl => e.setCtlQueue p.2 (readItems (loadList loadCtl) r.body ++ e.ctlQueue p.2))
  else none

/-- Read the further records of a context. -/
def readMore (key : Nat) (cut : Word) : Nat → ElemCtx → List Byte → Option (ElemCtx × List Byte)
  | 0, e, l => some (e, l)
  | n + 1, e, l =>
    if l.length < 20 ∨ numAt l 0 2 ≠ (keyEa key).toNat ∨ numAt l 2 1 ≠ (keyCtx key).toNat ∨ numAt l 3 1 < 4 then some (e, l)
    else match takeRecord key cut l with
      | none => none
      | some (r, l) => (addRecord (keyEa key) e r).bind (fun e => readMore key cut n e l)

/-- Read the records of contexts in order; none when a check fails. -/
def readContexts (cut : Word) : List Nat → List Byte → Option (List (Nat × ElemCtx))
  | [], _ => some []
  | key :: rest, l =>
    match takeRecord key cut l with
    | none => none
    | some (r, l) =>
      if r.rkind ≠ ownKind (keyEa key) then none
      else (readMore key cut 65 (ctxOfBody (keyEa key) r.body) l).bind (fun x =>
        (readContexts cut rest x.2).map (fun vs => (key, x.1) :: vs))

/-! ## Save areas (R102) -/

/-- Write bytes into a save area from an offset, line by line. -/
def putArea (s : State) (site : SiteNo) (off : Nat) (l : List Byte) : State :=
  (lineWrites off l).foldl (fun s w => writeSave s site w.line w.mask w.data) s

/-- Read bytes of a save area; the second component says that every row could be read. -/
def getArea (s : State) (site : SiteNo) (off n : Nat) : State × List Byte × Bool :=
  let r := (List.range ((off % 64 + n + 63) / 64)).foldl (fun (acc : State × List Byte × Bool) i =>
    let o := 2 ^ 21 - 2 ^ 16 + (off / 64 + i) * 64 % 2 ^ 16
    let (s, x) := readSpad acc.1 site 0 accessSq o 0
    (s, acc.2.1 ++ lineBytes x.line, acc.2.2 && !x.failed)) (s, [], true)
  (r.1, (r.2.1.drop (off % 64)).take n, r.2.2)

/-- Save areas that saved contexts need, with the bytes of each, in ascending element order. -/
def areaImages (l : List (Nat × ElemCtx)) (cut : Word) : List (SiteNo × List Byte) :=
  let sites := (l.map (fun p => siteSaveMt (eaSite (keyEa p.1)))).dedup
  sites.map (fun m => (m, (l.filter (fun p => siteSaveMt (eaSite (keyEa p.1)) == m)).flatMap (fun p => ctxRecords p.1 p.2 cut)))

/-- Read a suspended task's state back, from its spill or from the areas, with the checks of every record; none when a check or a row fails. -/
def readSaved (s : State) (t : Task) : State × Option (List (Nat × ElemCtx)) :=
  if t.saved.all (fun v => !v.area) then (s, readContexts t.cutNo (t.saved.map (·.key)) t.spill)
  else
    let sites := (t.saved.map (fun v => siteSaveMt (eaSite (keyEa v.key)))).dedup
    sites.foldl (fun (acc : State × Option (List (Nat × ElemCtx))) m =>
      let mine := t.saved.filter (fun v => siteSaveMt (eaSite (keyEa v.key)) == m)
      let (s, l, ok) := getArea acc.1 m 0 ((mine.map (·.size)).sum)
      (s, if ok then acc.2.bind (fun vs => (readContexts t.cutNo (mine.map (·.key)) l).map (fun r => vs ++ r)) else none)) (s, some [])

end Sys2Proof.Machine
end

