-- ==== Sys2Proof/Machine/Cut.lean ====
section
/-! DEFINITION. Machine/Cut.lean: cutting a region and restoring it (R125, R242 to R250), the
answer to a page fault (R124) and the destructive unload of a block (R256). -/

namespace Sys2Proof.Machine

/-! ## Beginning a cut (R242, R145, R262) -/

/-- The number of a partition's next cut. -/
def nextCut (p : Part) : Word := if p.cutno + 1 = 0 then 1 else p.cutno + 1

/-- A cut may be taken: the task runs and holds no stopping fault (R237). -/
def mayCut (t : Task) : Bool := (t.phase == .running || t.phase == .repairing) && t.fault.isNone

/-- Cut one task: an irrevocable one takes the lowest free slot, and its cut waits for one. -/
def cutOne (s : State) (uid : Nat) (reason : BitVec 4) : State :=
  match s.task? uid with
  | none => s
  | some t =>
    if !mayCut t then s
    else match (if t.irrev then freeSlot s else t.slot) with
      | none => s.modTask uid (fun t => { t with cutReq := some reason })
      | some n =>
        let part := taskPart s t
        let no := nextCut (s.part part)
        let s := s.modPart part (fun p => { p with cutno := no })
        s.modTask uid (fun t => { t with phase := .cutting, slot := some n, cutNo := no, cutWhy := reason, cutReq := none })

/-- Cut a task; in a lockstep pair its twin is cut with it. -/
def beginCut (s : State) (uid : Nat) (reason : BitVec 4) : State :=
  match s.task? uid with
  | none => s
  | some t =>
    let twin := twinOf s t
    let s := cutOne s uid reason
    match twin with
    | some u => cutOne s u.uid reason
    | none => s

/-- PREEMPT (R242): the TD cuts a region. -/
def execPreempt (task : Nat) (reason : BitVec 4) (s : State) : Result := .next (beginCut s task reason)

/-- Page faults that hold operators of a task and have no answer yet. -/
def pendingFaults (s : State) (t : Task) : List PageFault :=
  let held := t.uses.flatMap (fun k => (s.elem (keyEa k) (keyCtx k)).ops.filterMap (fun p => p.2.fault.map (·.1)))
  (s.part (taskPart s t)).faults.filter (fun f => f.status == 0 && held.contains f.fseq)

/-- PAGE_FAULT_LIMIT (R125): a fault pending for longer than the launch's limit cuts the region. -/
def execPageFaultLimit (s : State) : Result :=
  onTask s (fun s t =>
    match taskLaunch s t, mayCut t with
    | some l, true =>
      match (pendingFaults s t).find? (fun f => decide (f.time + 1000 * l.pflim < s.time)) with
      | some f => (beginCut s t.uid 2).modTask t.uid (fun t => { t with pxFault := some f.fseq })
      | none => s
    | _, _ => s)

/-! ## Capture (R243 to R245) -/

/-- A loop operator has its markers back on the inputs that close it (R244). -/
def loopClosed (r : ElemCtx) (n : Nat) : Bool :=
  let need := ([1, 3].filter (fun i => (r.inNet n i).isSome)).length
  decide (need ≤ (r.op (16 + n)).visited)

/-- Every operator of a router context has forwarded the cut. -/
def routerCut (r : ElemCtx) : Bool :=
  (List.range 8).all (fun n =>
    let c := opcodeOf (r.slotWord n)
    !r.slotOn n || ((r.op (16 + n)).cut && (c != 258 && c != 259 || loopClosed r n)))

/-- The state of a context is captured, or it has finished its stream (R245). -/
def ctxCaptured (s : State) (k : Nat) : Bool :=
  let ea := keyEa k
  let e := s.elem ea (keyCtx k)
  ctxPassed s k ||
    (if eaElem ea = 1 then routerCut e
     else if siteIsMt (eaSite ea) then
       (List.range 4).all (fun n => !bitSet (e.agnb n) 6 || ((e.op (agnIdx n)).cut && (e.op (agnIdx n)).res.isEmpty))
     else e.captured)

/-- Nothing of a router context is on its way to a neighbour or held behind a breakpoint. -/
def hopsEmpty (s : State) (k : Nat) : Bool :=
  let e := s.elem (keyEa k) (keyCtx k)
  e.outq.all (fun p => p.2.isEmpty) && e.outc.all (fun p => p.2.isEmpty) && [8, 9, 10, 11].all (fun q => eaElem (keyEa k) = 0 || (e.queue q).isEmpty)

/-- Contexts that a task still holds. -/
def heldKeys (s : State) (t : Task) : List Nat := t.uses.filter (fun k => (s.elem (keyEa k) (keyCtx k)).task == some t.uid)

/-- The cut of a task is complete. -/
def cutDone (s : State) (t : Task) : Bool := (heldKeys s t).all (fun k => ctxCaptured s k && hopsEmpty s k)

/-- What an operator keeps over a cut. -/
def savedOp (code : Nat) (o : OpSt) : OpSt :=
  { o with cut := false, visited := if code = 258 ∨ code = 259 then 0 else o.visited, sel := if code = 267 then none else o.sel }

/-- The saved state of a context: no marker of the cut in its queues, no operator stopped by it. -/
def ElemCtx.savedCtx (e : ElemCtx) (router : Bool) : ElemCtx :=
  { e with
    inq := e.inq.foldl (fun l p => tabSet l p.1 (p.2.filter (fun t => t.kind != .cut)) []) []
    inc := e.inc.foldl (fun l p => tabSet l p.1 (p.2.filter (fun c => !c.cut)) []) []
    ops := e.ops.foldl (fun l p => tabSet l p.1 (savedOp (if router then opcodeOf (e.slotWord (p.1 - 16)) else 0) p.2) OpSt.zero) []
    outq := [], outc := [], captured := false, shadow := none, armed := false }

/-- A context goes on as if no cut had been taken: its markers leave, and its operators fire again (R245). -/
def ElemCtx.uncut (e : ElemCtx) (router : Bool) : ElemCtx :=
  { e.savedCtx router with
    outq := e.outq.foldl (fun l p => tabSet l p.1 (p.2.filter (fun t => t.kind != .cut)) []) []
    outc := e.outc.foldl (fun l p => tabSet l p.1 (p.2.filter (fun c => !c.cut)) []) []
    shadow := e.shadow, armed := e.armed }

/-- A cut is dropped: what was captured is discarded. -/
def dropCut (s : State) (t : Task) : State :=
  (heldKeys s t).foldl (fun s k => s.modElem (keyEa k) (keyCtx k) (fun e => e.uncut (eaElem (keyEa k) == 1))) s

/-! ## Completing a cut (R245, R249) -/

/-- Park the objects of a suspended task: its mailbox logs their arrivals, those that wait first (R249, R250). -/
def parkObjects (s : State) (t : Task) : State :=
  t.binds.foldl (fun s o =>
    let b := s.barrier o
    let began := if b.pending.isEmpty then s.time else b.since
    let box := s.plat.mbxbase + BitVec.ofNat 52 (4096 * t.slot.getD 0)
    let b' := if b.park then { b with parkers := b.parkers ++ [t.uid] }
      else { b with park := true, parkers := [t.uid], mbox := box, since := began }
    logHeld (s.setBarrier o b') o (b.held.length + 1)) s

/-- Drop the armed loads of splice successors at a context; they are repeated after restore (R176). -/
def dropArmed (s : State) (key : Nat) : State :=
  s.modElem (keyEa key) (keyCtx key) (fun e => if e.armed then { e with shadow := none, armed := false } else e)

/-- Suspend a task whose state is captured: its records go into the save areas, or those of the whole region into the spill. -/
def suspendTask (s : State) (t : Task) : State :=
  let keys := heldKeys s t
  let l := keys.map (fun k => (k, (s.elem (keyEa k) (keyCtx k)).savedCtx (eaElem (keyEa k) == 1)))
  let imgs := areaImages l t.cutNo
  let area := imgs.all (fun p => !areaHeld s p.1 && decide (p.2.length ≤ 65536))
  let s := if area then imgs.foldl (fun s p => putArea s p.1 0 p.2) s else s
  let s := keys.foldl (fun s k => leaveContext (dropArmed s k) k) s
  let s := s.modTask t.uid (fun t =>
    { t with
      phase := .suspended
      saved := l.map (fun p => { key := p.1, ctx := p.2, area := area, size := (ctxRecords p.1 p.2 t.cutNo).length, go := [] })
      spill := if area then [] else l.flatMap (fun p => ctxRecords p.1 p.2 t.cutNo) })
  parkObjects s t

/-! ## Restore (R247) -/

/-- The generation that marks a physical-address element of generation g stale (R122, R247). -/
def staleGen (g : BitVec 7) : BitVec 7 := g + 64

/-- An element of the present generation, marked stale. -/
def staleEl (g : BitVec 7) (x : Nat) : Nat :=
  if elFault x ∨ elGen x ≠ g.toNat then x else x - elGen x * 2 ^ 56 + (staleGen g).toNat * 2 ^ 56

/-- An address token, marked stale. -/
def staleToken (g : BitVec 7) (t : Token) : Token :=
  if t.kind = .data then
    let p := elemsToPay 64 ((List.range 8).map (fun i => if elemValid t.mask 64 i then staleEl g (elemNat t.pay 64 i) else elemNat t.pay 64 i))
    { t with pay := p, res := regenRes p t.mask }
  else t

/-- A reissue log with its present translations under the stale mark as well. -/
def staleLog (g : BitVec 7) (l : List Reissue) : List Reissue :=
  (l.filter (fun r => r.gen == g)).map (fun r => { r with gen := staleGen g }) ++ l

/-- Mark what an operator holds of address tokens. -/
def staleOp (g : BitVec 7) (fed : Bool) (o : OpSt) : OpSt :=
  { o with
    page := o.page.map (fun p => (p.1, BitVec.ofNat 64 (staleEl g p.2.toNat)))
    relog := staleLog g o.relog
    held := if fed then o.held.map (staleToken g) else o.held
    toks := if fed then o.toks.map (staleToken g) else o.toks
    ptr := if fed ∧ o.visited = 0 then o.ptr.map (staleEl g) else o.ptr }

/-- The source of a data queue of a context is an `xlat`: its tokens carry physical addresses. -/
def queueFed (s : State) (key q : Nat) : Bool :=
  let site := eaSite (keyEa key)
  let ctx := keyCtx key
  let r := s.elem (siteEa site 1) ctx
  let code := if eaElem (keyEa key) = 1 then (if q < 12 then q - 8 else r.slotLink ((q - 16) / 4) (q % 4)) else r.field (8 + q) % 32
  !(feeders s ctx site code).isEmpty

/-- Mark the saved physical-address tokens of a context stale. -/
def staleCtx (s : State) (key : Nat) : State :=
  let ea := keyEa key
  let g := (s.part (partOfSite s (eaSite ea))).gen
  let e := s.elem ea (keyCtx key)
  let fed := e.inq.filter (fun p => queueFed s key p.1)
  let opFed := fun (n : Nat) =>
    if eaElem ea = 1 then (List.range 3).any (fun i => (e.inNet (n - 16) i).isSome && queueFed s key (slotKey (n - 16) i))
    else if 32 ≤ n then queueFed s key ((OpWord.ofBits (e.agnWord (n - 32))).sa.toNat % 4) else false
  s.setElem ea (keyCtx key)
    { e with
      inq := fed.foldl (fun l p => tabSet l p.1 (p.2.map (staleToken g)) []) e.inq
      ops := e.ops.foldl (fun l p => tabSet l p.1 (staleOp g (opFed p.1) p.2) OpSt.zero) [] }

/-- Both ends of the links that a region's dies share start again at a common number, and no flit from before the cut counts (R91): the die
edges stand at 32 to 39. -/
def resetLinks (s : State) (t : Task) : State :=
  let dies := (t.saved.map (fun v => eaDie (keyEa v.key))).dedup
  if dies.length < 2 then s
  else (List.range 8).foldl (fun s i =>
    s.setLink (32 + i) { s.link (32 + i) with next := 0, acked := 0, expect := 0, unacked := [] }) s

/-- Put one saved context back; what MCACK has answered meanwhile goes on (R226). -/
def restoreCtx (s : State) (t : Task) (v : Nat × ElemCtx) : State :=
  let go := (t.saved.filter (fun x => x.key == v.1)).flatMap (·.go)
  let e := go.foldl (fun e n => e.setOp n { e.op n with sel := some true }) v.2
  setWeight (s.setElem (keyEa v.1) (keyCtx v.1) { e with task := some t.uid, released := false }) v.1 1

/-- Repeat the shadow loads of splice successors at contexts they have not taken. -/
def rearm (s : State) (uid : Nat) : State :=
  (successorsOf s uid).foldl (fun s u => u.image.foldl (fun s p =>
    let e := s.elem (keyEa p.1) (keyCtx p.1)
    if e.task = some uid ∧ e.shadow.isNone then s.modElem (keyEa p.1) (keyCtx p.1) (fun e => { e with shadow := some p.2, armed := true })
    else s) s) s

/-- Restore a suspended task, in the order of R247; levels are bound again (R140). -/
def restoreTask (s : State) (t : Task) : State :=
  let free := t.saved.all (fun v => (s.elem (keyEa v.key) (keyCtx v.key)).task.isNone)
  if !free then s
  else
    match readSaved s t with
    | (s, none) => endWith s t.uid { cls := 6, reason := 0, unit := 0, detail := 0, addr := 0 }
    | (s, some l) =>
      let s := l.foldl (fun s v => restoreCtx s t v) s
      let s := bindExps s (t.binds.zip t.exps)
      let s := resetLinks s t
      let s := l.foldl (fun s v => staleCtx s v.1) s
      let s := unparkFor s t.uid
      let s := rearm s t.uid
      let s := l.foldl (fun s v => s.modElem (keyEa v.1) (keyCtx v.1) (fun e => { e with released := true })) s
      let s := (setPtrs s t).modTask t.uid (fun t =>
        { t with phase := if 0 < t.repaired then .repairing else .running, saved := [], spill := [], preempts := t.preempts + 1, lastFire := s.time
                 excused := 0, slot := if t.irrev then none else t.slot, pxFault := none })
      s

/-! ## Debug requests (R380, R401) -/

/-- End a debug request: CUT and STATUS are written to its block; a stop that is done posts its BREAK record. -/
def endDebug (s : State) (r : DebugReq) (cut status : Nat) : State :=
  let s := s.modPlat (fun p => { p with dbgReqs := p.dbgReqs.erase r })
  let blk := BitVec.ofNat 6 r.blk
  let s := (blockWrite s blk (r.addr + 12) 4 cut).1
  let s := (blockWrite s blk (r.addr + 8) 4 status).1
  match r.uid.bind s.task?, decide (status = 1) && !r.resume with
  | some t, true =>
    let ea := siteEa (siteAt t.row0 t.col0) 0
    let n := (s.part r.part).fnum + 1
    s.modPart r.part (fun p =>
      { p with fnum := n
               frHeld := p.frHeld ++ [{ bytes := faultBytes s ea 0 n (some t.uid) (faultInfo 12 0 14 Token.zero)
                                        blk := siteBlock (eaSite ea), task := some t.uid, stop := false }] })
  | _, _ => s

/-- The task that a debug request names in its partition. -/
def debugTask (s : State) (r : DebugReq) : State × Option Task :=
  let blk := BitVec.ofNat 6 r.blk
  let (s, index, _) := blockRead s blk r.addr 4
  let (s, ord, _) := blockRead s blk (r.addr + 4) 4
  (s, s.tasks.find? (fun t => t.live && t.uid % 2 ^ 32 == index && t.uid / 2 ^ 32 % 2 ^ 32 == ord && taskPart s t == r.part))

/-- The request is served from now on. -/
def startDebug (s : State) (r : DebugReq) (uid : Nat) : State :=
  s.modPlat (fun p => { p with dbgReqs := p.dbgReqs.map (fun d => if d = r then { d with uid := some uid } else d) })

/-- What a request under way has come to: the cut number and STATUS, or none while it goes on. -/
def debugOutcome (s : State) (r : DebugReq) (uid : Nat) : Option (Nat × Nat) :=
  match s.task? uid with
  | none => some (0, 3)
  | some t =>
    if r.resume then
      (if t.phase = .suspended then none else if t.onFabric then some (t.cutNo.toNat, 1) else some (0, 3))
    else match t.phase with
      | .suspended => some (t.cutNo.toNat, 1)
      | .cutting => none
      | .freezing => some (0, 4)
      | _ => if t.cutReq.isSome then none else some (0, 3)

/-- Serve the requests of a partition one at a time, in arrival order. -/
def serveDebug (s : State) (part : Nat) : Nat → State
  | 0 => s
  | n + 1 =>
    match s.plat.dbgReqs.find? (fun r => r.part == part) with
    | none => s
    | some r =>
      match r.uid with
      | some uid =>
        match debugOutcome s r uid with
        | some (cut, status) => serveDebug (endDebug s r cut status) part n
        | none => s
      | none =>
        match debugTask s r with
        | (s, none) => serveDebug (endDebug s r 0 2) part n
        | (s, some t) =>
          if r.resume then
            if t.phase = .suspended ∧ 3 ≤ t.cutWhy.toNat then serveDebug (startDebug (restoreTask s t) r t.uid) part n
            else serveDebug (endDebug s r 0 3) part n
          else if mayCut t then serveDebug (startDebug (beginCut s t.uid 3) r t.uid) part n
          else if t.phase = .loaded then s
          else serveDebug (endDebug s r 0 (if t.phase = .freezing then 4 else 3)) part n

/-- Serve every partition that has requests. -/
def serveAll (s : State) : State :=
  ((s.plat.dbgReqs.map (·.part)).dedup).foldl (fun s p => serveDebug s p (2 * s.plat.dbgReqs.length + 2)) s

/-! ## The events of a cut -/

/-- REGION_FROZEN (R236, R237): 256 fc without a firing after a stopping fault end the task, once its key is the oldest or it runs
irrevocably. -/
def execRegionFrozen (s : State) : Result :=
  onTask s (fun s t =>
    match t.fault with
    | some e =>
      if t.phase = .freezing ∧ t.lastFire + 256 ≤ s.time ∧ (t.irrev = true ∨ oldest s t = true) then endWith (serveAll s) t.uid e else s
    | none => s)

/-- CUT_COMPLETE (R245): the task is suspended once the cut is complete, and a cut is dropped when the task finishes first; a cut that
waits for a slot is begun. -/
def execCutComplete (s : State) : Result :=
  onTask s (fun s t => serveAll <|
    if t.phase = .cutting then
      if allReceived s t then
        (dropCut s t).modTask t.uid (fun t =>
          { t with phase := if 0 < t.repaired then .repairing else .running, slot := if t.irrev then none else t.slot, pxFault := none })
      else if cutDone s t then suspendTask s t
      else s
    else match t.cutReq with
      | some r => if mayCut t then beginCut s t.uid r else s.modTask t.uid (fun t => { t with cutReq := none })
      | none => s)

/-- RESTORE (R247, R125): a suspended task resumes at its own sites; one cut at a page fault goes by the PC's answer. -/
def execRestore (s : State) : Result :=
  onTask s (fun s t => serveAll <|
    if t.phase ≠ .suspended then s
    else match t.pxFault with
      | none => restoreTask s t
      | some f =>
        let part := taskPart s t
        let va := ((s.part part).faults.find? (fun p => p.fseq == f)).elim 0 (·.va)
        match faultStatus s part f with
        | 0 => s
        | 2 => endWith (dropFault s part f) t.uid { cls := 3, reason := 5, unit := 0, detail := 0, addr := BitVec.ofNat 64 va }
        | 3 => endWith (dropFault s part f) t.uid { cls := 4, reason := 0, unit := 0, detail := BitVec.ofNat 32 f, addr := BitVec.ofNat 64 va }
        | _ => restoreTask (dropFault s part f) t)

/-! ## Reset of sites -/

/-- A site after reset: retired banks and tiles stay retired (R208). -/
def Site.cleared (t : Site) : Site :=
  { Site.reset with retiredTile := t.retiredTile, ax := { Axolotl.reset with retired := t.ax.retired } }

/-- Reset every site that a predicate names, banks filled with zero (R201). -/
def resetSites (s : State) (p : SiteNo → Bool) : State :=
  let at_ := fun (n : Nat) => p (BitVec.ofNat 13 n)
  { s with
    elems := s.elems.filter (fun e => !p (eaSite (keyEa e.1)))
    ports := s.ports.filter (fun e => !at_ (e.1 / 8))
    spad := s.spad.filter (fun c => !at_ (c.1 / 2 ^ 21))
    ws := s.ws.filter (fun c => !at_ (c.1 / 2048))
    acs := s.acs.filter (fun c => !at_ (c.1 / 16384))
    channels := s.channels.filter (fun c => decide (0x8000 ≤ c.1) || !at_ (c.1 / 4))
    sites := s.sites.foldl (fun t e => tabSet t e.1 (if at_ e.1 then e.2.cleared else e.2) Site.reset) [] }

/-! ## Destructive unload (R256) -/

/-- A task has an element in a block. -/
def taskInBlock (t : Task) (blk : Nat) : Bool := t.live && t.uses.any (fun k => siteBlock (eaSite (keyEa k)) == blk)

/-- What an unload of a block reads: every storage cell (R111, R256). -/
def readBlock (s : State) (blk : BitVec 6) : Readout :=
  let at_ := fun (n : Nat) => siteBlock (BitVec.ofNat 13 n) == blk.toNat
  let spad := s.spad.filter (fun c => at_ (c.1 / 2 ^ 21))
  let sites := s.sites.filter (fun p => at_ p.1)
  { blk := blk, elems := s.elems.filter (fun p => siteBlock (eaSite (keyEa p.1)) == blk.toNat)
    ports := s.ports.filter (fun p => at_ (p.1 / 8)), sites := sites, spad := spad
    ws := s.ws.filter (fun p => at_ (p.1 / 2048)), acs := s.acs.filter (fun p => at_ (p.1 / 16384))
    lram := s.lram.filter (fun c => c.1 / 4096 == blk.toNat), sq := s.sq blk, engines := s.engines.filter (fun p => p.1 / 16 == blk.toNat)
    cb := s.tasks.flatMap (fun t => t.cb.filter (fun e => at_ e.tile))
    checks := ((spad.map (fun c => c.1 / 64)).dedup).map (fun k => (k, Config.checkBits (lineOf (memBytes spad (64 * k) 64))))
    parityChecks := sites.flatMap (fun p => p.2.ax.parity.map (fun r => (p.1 * 8192 + r.1, Config.checkBits r.2)))
    zeroCheck := Config.checkBits 0 }

/-- DESTRUCTIVE_UNLOAD (R256): under a verified authorisation the regions of the block freeze and their tasks end with HARDWARE, every
storage cell is read, the unload is recorded, and the block is reset and its banks filled with zero. -/
def execDestructiveUnload (blk : BitVec 6) (s : State) : Result :=
  .next (if s.plat.debugOk ≠ some blk then s
    else
      let read := readBlock s blk
      let hit := s.tasks.filter (fun t => taskInBlock t blk.toNat)
      let s := hit.foldl (fun s t => endWith s t.uid { cls := 6, reason := 0, unit := 0, detail := 0, addr := 0 }) s
      let s := resetSites s (fun n => siteBlock n == blk.toNat)
      let s := s.setSq blk Sq.reset
      let s := { s with lram := s.lram.filter (fun c => c.1 / 4096 != blk.toNat)
                        engines := s.engines.filter (fun p => p.1 / 16 != blk.toNat) }
      s.modPlat (fun p => { p with debugOk := none, readout := some read, unloads := p.unloads ++ [{ blk := blk.toNat, time := s.time }] }))

end Sys2Proof.Machine
end

