-- ==== Sys2Proof/Machine/SqOps.lean ====
section
/-! DEFINITION. Machine/SqOps.lean: what the instructions of a sequencer share (R103 to R106, R123, R124, R239 to R241): running on
behalf of a sequencer, completing, trapping, and data accesses under the address map of Table 3-8. -/

namespace Sys2Proof.Machine

/-! ## Running and completing -/

/-- The n-th waiting store of a sequencer is performed: a commit of its own (R143), refused by a frame that has been sealed (R131). -/
def performStore (s : State) (b : BitVec 6) (n : Nat) : State :=
  match (s.sq b).pend[n]? with
  | none => s
  | some (pa, l) =>
    let s := s.modSq b (fun q => { q with pend := q.pend.eraseIdx n })
    if sealedAt s pa l.length then s else unitWrite s (s.sq b).part.toNat b 0 pa l

/-- Every waiting store of a sequencer is performed, oldest first. -/
def performAll (s : State) (b : BitVec 6) : State := (s.sq b).pend.foldl (fun s _ => performStore s b 0) s

/-- The waiting stores up to the last one of a line are performed: no later access to the line passes them (R366). -/
def performLine (s : State) (b : BitVec 6) (pa n : Nat) : State :=
  let hit := fun (p : Nat × List Byte) => decide (p.1 / 64 ≤ (pa + n - 1) / 64) && decide (pa / 64 ≤ (p.1 + p.2.length - 1) / 64)
  let l := (s.sq b).pend
  match l.reverse.findIdx? hit with
  | none => s
  | some i => (l.take (l.length - i)).foldl (fun s _ => performStore s b 0) s

/-- A fetch at the pc fails (R239, R241): cause 1, or, on the first instruction of a vector, the sequencer halts (R106) and the PC logs it. -/
def fetchFault (s : State) (b : BitVec 6) (sub : BitVec 8) (detail : BitVec 48) : State :=
  let q := s.sq b
  let off := (q.pc - q.tvec).toNat
  if off % 32 = 0 ∧ 1 ≤ off / 32 ∧ off / 32 ≤ 6 then
    ((performAll s b).modSq b (fun q => { Sq.reset with failed := true, evSeq := q.evSeq, evHeld := q.evHeld })).log (.sqHalted b.toNat)
  else takeTrap s b 1 sub detail

/-- The PC's answer to a page fault that a sequencer waits on has status n, not 1: the trap of R124. -/
def endHeld (s : State) (b : BitVec 6) (h : SqHold) (n : Nat) : State :=
  let num := BitVec.ofNat 48 h.fseq
  if h.fetch then fetchFault (s.modSq b (fun q => { q with hold := none })) b (if n = 2 then 1 else 4) num
  else takeTrap s b 4 (if n = 2 then 4 else 5) num

/-- Run an instruction on behalf of the sequencer in focus. A halted sequencer does nothing (R106); one held at a page fault waits for
the PC's answer (R124). -/
def runSq (s : State) (f : State → BitVec 6 → State) : Result :=
  match s.focus with
  | .sq b =>
    let q := s.sq b
    if !q.run then .next s
    else
      match q.hold with
      | none => .next (f s b)
      | some h =>
        let part := q.part.toNat
        match faultStatus s part h.fseq with
        | 0 => .next s
        | 1 => .next (f ((dropFault s part h.fseq).modSq b (fun q => { q with hold := none })) b)
        | n => .next (endHeld (dropFault s part h.fseq) b h n)
  | _ => .refused .wrongElement

/-- The registers after an instruction that completes and goes on at the next word. -/
def Sq.retire (q : Sq) : Sq := { q with pc := q.pc + 4, within := false }

/-- An instruction completes with an effect on its own registers. -/
def retire (s : State) (b : BitVec 6) (f : Sq → Sq) : State := s.modSq b (fun q => (f q).retire)

/-- An instruction completes and writes g[D]. -/
def retireG (s : State) (b : BitVec 6) (d : BitVec 5) (v : DWord) : State := retire s b (fun q => q.setG d v)

/-- An instruction that stays under way and that no event interrupt may end (R239). -/
def stayWithin (s : State) (b : BitVec 6) : State := s.modSq b (fun q => { q with within := true })

/-- Before an instruction that orders takes effect, every earlier access of the sequencer is performed (R353); it waits while one is not. -/
def fenced (f : State → BitVec 6 → State) (s : State) (b : BitVec 6) : State :=
  let s := performAll s b
  if unitWaits s (s.sq b).part.toNat b 0 0 0 then stayWithin s b else f s b

/-- A supervisor-only form: at user level it traps with cause 3, SUB 2 (R303). -/
def supervisorOnly (s : State) (b : BitVec 6) (f : State) : State := if (s.sq b).priv then f else takeTrap s b 3 2 0

/-! ## Data addresses (Table 3-8, R85, R94, R110) -/

/-- Where a data address lies. -/
inductive SqPlace where
  | ram (off : Nat)
  | spad (site : SiteNo) (off : Nat)
  | device (va : Nat)
deriving DecidableEq, Repr

/-- Decode the address of an access of n bytes aligned to `align`: a place, or the SUB of cause 4. -/
def sqPlace (s : State) (b : BitVec 6) (a : DWord) (n align : Nat) : Except (BitVec 8) SqPlace :=
  let x := a.toNat
  let aligned := fun (p : SqPlace) => if x % align = 0 then Except.ok p else .error 3
  match x / 2 ^ 60 with
  | 0xE => if bits x 12 48 ≠ 0 then .error 1 else aligned (.ram (x % 4096))
  | 0xF =>
    if bits x 25 35 ≠ 0 then .error 1
    else
      let (site, off) := blockSpad b.toNat x
      if inRange s site (off / align * align) n then aligned (.spad site off) else .error 2
  | 0 => if bits x 57 3 ≠ 0 then .error 1 else aligned (.device x)
  | _ => .error 1

/-- SUB of cause 4 for a walk's failure (Table 10-5); reason 1 is a page fault. -/
def dataSub (reason : Nat) : BitVec 8 :=
  match reason with
  | 2 => 6
  | 3 => 7
  | 6 => 1
  | 7 => 6
  | _ => 8

/-- The sequencer waits at a page fault of its own. -/
def holdAt (s : State) (b : BitVec 6) (va : Nat) (i : Intent) : State :=
  let (s, n) := raiseFault s (s.sq b).part.toNat va i (faulterOf 1)
  s.modSq b (fun q => { q with hold := some { fseq := n, va := va, fetch := i.fetch } })

/-- What a sequencer's access to device memory came to. -/
inductive SqXlat where
  | ok (pa : Nat)
  /-- the address lies in a peer aperture (R310) -/
  | peer
  /-- the access is over for this step: the state says whether it waits, is held or has trapped -/
  | over

/-- Translate a data access through the sequencer's own cache; one inside an aperture goes to the peer, whose refusal traps (R310). -/
def sqXlat (s : State) (b : BitVec 6) (va : Nat) (i : Intent) : State × SqXlat :=
  let part := (s.sq b).part.toNat
  match apertureOf s part va with
  | some a =>
    match peerRequest s a va with
    | (s, true) => (takeTrap s b 4 6 0, .over)
    | (s, false) => (s, .peer)
  | none =>
    let (s, l, o) := translate s (s.sq b).tlb part va i
    let s := s.modSq b (fun q => { q with tlb := l })
    match o with
    | .ok x => (s, .ok x.pa)
    | .wait => (stayWithin s b, .over)
    | .fail 1 => (holdAt s b va i, .over)
    | .fail r => (takeTrap s b 4 (dataSub r) 0, .over)

/-- n bytes at a place, or none when the access is over for this step. A read through a peer aperture gives what the peer holds, which
is open here (R310). -/
def sqRead (s : State) (b : BitVec 6) (p : SqPlace) (n : Nat) : State × Option Nat :=
  match p with
  | .ram off => (s, some (memNat s.lram (lramKey b off) n))
  | .spad site off =>
    let (s, x, _) := spadReadNat s site off n
    (s, some x)
  | .device va =>
    match sqXlat s b va readIntent with
    | (s, .ok pa) =>
      let s := performLine s b pa n
      if unitWaits s (s.sq b).part.toNat b 0 pa n then (stayWithin s b, none)
      else (touch s pa n, some (memNat s.dmem pa n))
    | (s, .peer) => (s.takeFree, some ((Config.freeValue s.free).toNat % 2 ^ (8 * n)))
    | (s, .over) => (s, none)

/-- Store bytes in device memory, at once or later (R134); a sealed frame refuses (R131): trap 4 with SUB 7. -/
def sqCommit (s : State) (b : BitVec 6) (pa : Nat) (l : List Byte) : State × Bool :=
  if sealedAt s pa l.length then (takeTrap s b 4 7 0, false)
  else if (s.sq b).defer then (s.modSq b (fun q => { q with pend := q.pend ++ [(pa, l)], defer := false }), true)
  else (unitWrite (performLine s b pa l.length) (s.sq b).part.toNat b 0 pa l, true)

/-- Store n bytes at a place; false when the access is over for this step. -/
def sqWrite (s : State) (b : BitVec 6) (p : SqPlace) (n x : Nat) : State × Bool :=
  match p with
  | .ram off => ({ s with lram := memSetNat s.lram (lramKey b off) n x }, true)
  | .spad site off => ((spadWriteNat s site off n x none).1, true)
  | .device va =>
    match sqXlat s b va writeIntent with
    | (s, .ok pa) => sqCommit s b pa (natToBytes n x)
    | (s, .peer) => (s, true)
    | (s, .over) => (s, false)

/-- A load of n bytes at a, its word turned into g[D] by `f`. -/
def sqLoad (s : State) (b : BitVec 6) (d : BitVec 5) (a : DWord) (n : Nat) (f : Nat → DWord) : State :=
  match sqPlace s b a n n with
  | .error sub => takeTrap s b 4 sub 0
  | .ok p =>
    match sqRead s b p n with
    | (s, some x) => retireG s b d (f x)
    | (s, none) => s

/-- A store of the low n bytes of a value at a. -/
def sqStore (s : State) (b : BitVec 6) (a : DWord) (n : Nat) (v : DWord) : State :=
  match sqPlace s b a n n with
  | .error sub => takeTrap s b 4 sub 0
  | .ok p =>
    match sqWrite s b p n v.toNat with
    | (s, true) => retire s b id
    | (s, false) => s

/-- The address of a block that must lie in the local data RAM or the block scratchpad (R380, R420): SUB 1 for another space, SUB 3 for
a misaligned one. -/
def localPlace (s : State) (b : BitVec 6) (a : DWord) (n align : Nat) : Except (BitVec 8) SqPlace :=
  match sqPlace s b a n align with
  | .ok (.device _) => .error 1
  | .error 3 => if a.toNat / 2 ^ 60 = 0 then .error 1 else .error 3
  | r => r

end Sys2Proof.Machine
end

