-- ==== Sys2Proof/Machine/SqArith.lean ====
section
/-! DEFINITION. Machine/SqArith.lean: the register operations (R321, R343, R376, R391, R410), branches and jumps (R329, R361) and
`crc` (R341) of a sequencer. -/

namespace Sys2Proof.Machine

/-- An operation of two registers that writes g[D]. -/
def sqOp2 (s : State) (d a b : BitVec 5) (f : DWord → DWord → DWord) : Result :=
  runSq s (fun s k => retire s k (fun q => q.setG d (f (q.getG a) (q.getG b))))

/-- An operation of a register and an immediate that writes g[D]. -/
def sqOp1 (s : State) (d a : BitVec 5) (f : DWord → DWord) : Result :=
  runSq s (fun s k => retire s k (fun q => q.setG d (f (q.getG a))))

/-- IMM16 sign-extended and zero-extended (R299). -/
def sext16 (i : BitVec 16) : DWord := i.signExtend 64
def zext16 (i : BitVec 16) : DWord := i.setWidth 64

/-- The quotient of R343: truncated toward zero, all ones for a zero divisor, and −2^63 for −2^63 / −1. -/
def sqQuot (x y : DWord) : DWord := if y = 0 then -1 else BitVec.ofInt 64 (x.toInt.tdiv y.toInt)

/-- The remainder of R391. -/
def sqRem (x y : DWord) : DWord := if y = 0 then x else x - sqQuot x y * y

/-- High 64 bits of the signed product. -/
def sqMulh (x y : DWord) : DWord := BitVec.ofInt 64 (x.toInt * y.toInt / 2 ^ 64)

/-- A shift by the low six bits of an amount. -/
def sqShl (x y : DWord) : DWord := x <<< (y.toNat % 64)
def sqShr (x y : DWord) : DWord := x >>> (y.toNat % 64)
def sqSra (x y : DWord) : DWord := x.sshiftRight (y.toNat % 64)

/-- A division: g[D] and the sticky DIVZ. -/
def sqDivide (s : State) (d a b : BitVec 5) (f : DWord → DWord → DWord) : Result :=
  runSq s (fun s k => retire s k (fun q => (q.setG d (f (q.getG a) (q.getG b))).noteDivisor (q.getG b)))

def execAddSequencer (d a b : BitVec 5) (s : State) : Result := sqOp2 s d a b (· + ·)
def execSubSequencer (d a b : BitVec 5) (s : State) : Result := sqOp2 s d a b (· - ·)
def execAndSequencer (d a b : BitVec 5) (s : State) : Result := sqOp2 s d a b (· &&& ·)
def execOrSequencer (d a b : BitVec 5) (s : State) : Result := sqOp2 s d a b (· ||| ·)
def execXorSequencer (d a b : BitVec 5) (s : State) : Result := sqOp2 s d a b (· ^^^ ·)
def execShlSequencer (d a b : BitVec 5) (s : State) : Result := sqOp2 s d a b sqShl
def execShrSequencer (d a b : BitVec 5) (s : State) : Result := sqOp2 s d a b sqShr
def execSraSequencer (d a b : BitVec 5) (s : State) : Result := sqOp2 s d a b sqSra
def execMulSequencer (d a b : BitVec 5) (s : State) : Result := sqOp2 s d a b (· * ·)
def execMulhSequencer (d a b : BitVec 5) (s : State) : Result := sqOp2 s d a b sqMulh
/-- DIV (R343). -/
def execDiv (d a b : BitVec 5) (s : State) : Result := sqDivide s d a b sqQuot
/-- REM (R391). -/
def execRem (d a b : BitVec 5) (s : State) : Result := sqDivide s d a b sqRem
def execSlt (d a b : BitVec 5) (s : State) : Result := sqOp2 s d a b (fun x y => oneIf (x.slt y))
def execSltn (d a b : BitVec 5) (s : State) : Result := sqOp2 s d a b (fun x y => oneIf (x.ult y))

def execAddi (d a : BitVec 5) (i : BitVec 16) (s : State) : Result := sqOp1 s d a (· + sext16 i)
def execAndi (d a : BitVec 5) (i : BitVec 16) (s : State) : Result := sqOp1 s d a (· &&& zext16 i)
def execOri (d a : BitVec 5) (i : BitVec 16) (s : State) : Result := sqOp1 s d a (· ||| zext16 i)
def execXori (d a : BitVec 5) (i : BitVec 16) (s : State) : Result := sqOp1 s d a (· ^^^ zext16 i)
def execShli (d a : BitVec 5) (n : BitVec 6) (s : State) : Result := sqOp1 s d a (sqShl · (n.setWidth 64))
def execShri (d a : BitVec 5) (n : BitVec 6) (s : State) : Result := sqOp1 s d a (sqShr · (n.setWidth 64))
def execSrai (d a : BitVec 5) (n : BitVec 6) (s : State) : Result := sqOp1 s d a (sqSra · (n.setWidth 64))
def execSlti (d a : BitVec 5) (i : BitVec 16) (s : State) : Result := sqOp1 s d a (fun x => oneIf (x.slt (sext16 i)))
/-- LHI (R376): sext of the immediate over 16 zero bits. -/
def execLhi (d : BitVec 5) (i : BitVec 16) (s : State) : Result :=
  runSq s (fun s k => retireG s k d ((i ++ (0 : BitVec 16)).signExtend 64))

/-- CRC (R341): the 1, 2, 4 or 8 low bytes of g[B] folded into g[A]. -/
def sqCrc (x y : DWord) (n : BitVec 2) : DWord :=
  BitVec.ofNat 64 (crc32cBytes (x.toNat % 2 ^ 32) (natToBytes (2 ^ n.toNat) y.toNat))

def execCrc (d a b : BitVec 5) (n : BitVec 2) (s : State) : Result := sqOp2 s d a b (fun x y => sqCrc x y n)

/-! ## Branches and jumps -/

/-- A branch under a condition of two registers (R329). -/
def sqBranch (s : State) (a b : BitVec 5) (o : BitVec 16) (c : DWord → DWord → Bool) : Result :=
  runSq s (fun s k => s.modSq k (fun q =>
    { q with pc := if c (q.getG a) (q.getG b) then q.pc + sext16 o * 4 else q.pc + 4, within := false }))

def execBeq (a b : BitVec 5) (o : BitVec 16) (s : State) : Result := sqBranch s a b o (fun x y => x == y)
def execBne (a b : BitVec 5) (o : BitVec 16) (s : State) : Result := sqBranch s a b o (fun x y => x != y)
def execBlt (a b : BitVec 5) (o : BitVec 16) (s : State) : Result := sqBranch s a b o (fun x y => x.slt y)
def execBge (a b : BitVec 5) (o : BitVec 16) (s : State) : Result := sqBranch s a b o (fun x y => !x.slt y)
def execBltn (a b : BitVec 5) (o : BitVec 16) (s : State) : Result := sqBranch s a b o (fun x y => x.ult y)
def execBgen (a b : BitVec 5) (o : BitVec 16) (s : State) : Result := sqBranch s a b o (fun x y => !x.ult y)

/-- JAL (R361): g31 takes the return address. -/
def execJal (o : BitVec 26) (s : State) : Result :=
  runSq s (fun s k => s.modSq k (fun q =>
    { q.setG 31 (q.pc + 4) with pc := q.pc + o.signExtend 64 * 4, within := false }))

/-- Target of `jr`: low two bits cleared (R299, R361). -/
def jumpTarget (q : Sq) (a : BitVec 5) (i : BitVec 16) : DWord := (q.getG a + sext16 i) &&& ~~~3#64

/-- JR (R361): the target is formed before g[D] takes the return address. -/
def execJr (d a : BitVec 5) (i : BitVec 16) (s : State) : Result :=
  runSq s (fun s k => s.modSq k (fun q =>
    { q.setG d (q.pc + 4) with pc := jumpTarget q a i, within := false }))

end Sys2Proof.Machine
end

