-- ==== Sys2Proof/Machine/SqMem.lean ====
section
/-! DEFINITION. Machine/SqMem.lean: loads (R365), stores (R402) and atomics (R322) of a sequencer. -/

namespace Sys2Proof.Machine

/-- A word of n bits, sign-extended or zero-extended. -/
def sextOf (n x : Nat) : DWord := (BitVec.ofNat n x).signExtend 64
def zextOf (x : Nat) : DWord := BitVec.ofNat 64 x

/-- Address of a load or store. -/
def dataAddr (q : Sq) (a : BitVec 5) (o : BitVec 16) : DWord := q.getG a + sext16 o

/-- A load of n bytes. -/
def sqLoadOp (s : State) (d a : BitVec 5) (o : BitVec 16) (n : Nat) (f : Nat → DWord) : Result :=
  runSq s (fun s k => sqLoad s k d (dataAddr (s.sq k) a o) n f)

/-- A store of n bytes. -/
def sqStoreOp (s : State) (d a : BitVec 5) (o : BitVec 16) (n : Nat) : Result :=
  runSq s (fun s k => sqStore s k (dataAddr (s.sq k) a o) n ((s.sq k).getG d))

def execLb (d a : BitVec 5) (o : BitVec 16) (s : State) : Result := sqLoadOp s d a o 1 (sextOf 8)
def execLbn (d a : BitVec 5) (o : BitVec 16) (s : State) : Result := sqLoadOp s d a o 1 zextOf
def execLh (d a : BitVec 5) (o : BitVec 16) (s : State) : Result := sqLoadOp s d a o 2 (sextOf 16)
def execLhn (d a : BitVec 5) (o : BitVec 16) (s : State) : Result := sqLoadOp s d a o 2 zextOf
def execLw (d a : BitVec 5) (o : BitVec 16) (s : State) : Result := sqLoadOp s d a o 4 (sextOf 32)
def execLwn (d a : BitVec 5) (o : BitVec 16) (s : State) : Result := sqLoadOp s d a o 4 zextOf
def execLq (d a : BitVec 5) (o : BitVec 16) (s : State) : Result := sqLoadOp s d a o 8 zextOf
def execSb (d a : BitVec 5) (o : BitVec 16) (s : State) : Result := sqStoreOp s d a o 1
def execSh (d a : BitVec 5) (o : BitVec 16) (s : State) : Result := sqStoreOp s d a o 2
def execSw (d a : BitVec 5) (o : BitVec 16) (s : State) : Result := sqStoreOp s d a o 4
def execSq (d a : BitVec 5) (o : BitVec 16) (s : State) : Result := sqStoreOp s d a o 8

/-! ## Atomics (R322) -/

/-- Put the new word where the old one stood, unless the operation writes nothing. -/
def amPut (s : State) (b : BitVec 6) (p : SqPlace) (pa : Nat) (new : Option DWord) : State :=
  match new with
  | none => s
  | some v =>
    match p with
    | .ram off => { s with lram := memSetNat s.lram (lramKey b off) 8 v.toNat }
    | .spad site off => (spadWriteNat s site off 8 v.toNat none).1
    | .device _ => unitWrite s (s.sq b).part.toNat b 0 pa (natToBytes 8 v.toNat)

/-- One indivisible step on the 64-bit word at g[A]: g[D] takes the old word and `new` says what is written. At a peer the old word is
open (R310). -/
def sqAtomic (s : State) (d a : BitVec 5) (new : Sq → DWord → Option DWord) : Result :=
  runSq s (fun s k =>
    let q := s.sq k
    let finish := fun (s : State) (p : SqPlace) (pa : Nat) (old : DWord) => retireG (amPut s k p pa (new q old)) k d old
    match sqPlace s k (q.getG a) 8 8 with
    | .error sub => takeTrap s k 4 sub 0
    | .ok (.ram off) => finish s (.ram off) 0 (BitVec.ofNat 64 (memNat s.lram (lramKey k off) 8))
    | .ok (.spad site off) =>
      let (s, x, _) := spadReadNat s site off 8
      finish s (.spad site off) 0 (BitVec.ofNat 64 x)
    | .ok (.device va) =>
      match sqXlat s k va bothIntent with
      | (s, .ok pa) =>
        let s := performLine s k pa 8
        if sealedAt s pa 8 then takeTrap s k 4 7 0
        else if unitWaits s q.part.toNat k 0 pa 8 then stayWithin s k
        else finish s (.device va) pa (BitVec.ofNat 64 (memNat s.dmem pa 8))
      | (s, .peer) => retireG s.takeFree k d (Config.freeValue s.free)
      | (s, .over) => s)

/-- AMADD. -/
def execAmadd (d a b : BitVec 5) (s : State) : Result := sqAtomic s d a (fun q old => some (old + q.getG b))
/-- AMSWP. -/
def execAmswp (d a b : BitVec 5) (s : State) : Result := sqAtomic s d a (fun q _ => some (q.getG b))
/-- AMCAS: the comparand is g[D] before the step, and a failed compare writes nothing. -/
def execAmcas (d a b : BitVec 5) (s : State) : Result :=
  sqAtomic s d a (fun q old => if old = q.getG d then some (q.getG b) else none)

end Sys2Proof.Machine
end

