-- ==== Sys2Proof/Machine/SqFetch.lean ====
section
/-! DEFINITION. Machine/SqFetch.lean: instruction fetch of a sequencer (R103, R106, R123, R124, R239): the instruction cache and the
traps of cause 1 and 2, and event interrupts. -/

namespace Sys2Proof.Machine

/-- Words the instruction cache holds: 32 KiB. -/
def icacheRoom : Nat := 8192

/-- A cached word. -/
def icacheGet (l : List (Nat × Word)) (a : Nat) : Option Word := (l.find? (fun p => p.1 == a)).map (·.2)

/-- Keep a word, the oldest going first. -/
def icacheAdd (l : List (Nat × Word)) (a : Nat) (w : Word) : List (Nat × Word) :=
  (if icacheRoom ≤ l.length then l.tail else l) ++ [(a, w)]

/-- Drop the words of a range. -/
def icacheDrop (l : List (Nat × Word)) (va n : Nat) : List (Nat × Word) :=
  l.filter (fun p => !(decide (va ≤ p.1) && decide (p.1 < va + n)))

/-- What a fetch came to. -/
inductive FetchOut where
  | word (w : Word)
  /-- it waits, at MIG or at a page fault -/
  | wait
  /-- it fails: SUB and DETAIL of cause 1 -/
  | fail (sub : BitVec 8) (detail : BitVec 48)

/-- SUB of cause 1 for a walk's failure (Table 10-5). -/
def fetchSub (reason : Nat) : BitVec 8 :=
  match reason with
  | 4 => 5
  | 5 => 5
  | 6 => 1
  | _ => 3

/-- Fetch from memory, under EX, and cache. -/
def fetchMemory (s : State) (b : BitVec 6) : State × FetchOut :=
  let q := s.sq b
  let va := q.pc.toNat
  let (s, l, o) := translate s q.tlb q.part.toNat va fetchIntent
  let s := s.modSq b (fun q => { q with tlb := l })
  match o with
  | .ok x =>
    let w := BitVec.ofNat 32 (memNat s.dmem x.pa 4)
    ((touch s x.pa 4).modSq b (fun q => { q with icache := icacheAdd q.icache va w }), .word w)
  | .wait => (s, .wait)
  | .fail 1 => (holdAt s b va fetchIntent, .wait)
  | .fail r => (s, .fail (fetchSub r) 0)

/-- Fetch the word at the pc; a fetch held at a page fault goes by the PC's answer. -/
def fetchWord (s : State) (b : BitVec 6) : State × FetchOut :=
  let q := s.sq b
  let part := q.part.toNat
  let cached := fun (s : State) =>
    match icacheGet (s.sq b).icache (s.sq b).pc.toNat with
    | some w => (s, .word w)
    | none => fetchMemory s b
  match q.hold with
  | none => cached s
  | some h =>
    if !h.fetch then cached s
    else
      match faultStatus s part h.fseq with
      | 0 => (s, .wait)
      | 1 => cached ((dropFault s part h.fseq).modSq b (fun q => { q with hold := none }))
      | n => ((dropFault s part h.fseq).modSq b (fun q => { q with hold := none }), .fail (if n = 2 then 1 else 4) (BitVec.ofNat 48 h.fseq))

/-- INSTRUCTION_FETCH_FAULT (R239, R241). -/
def execInstructionFetchFault (sub : BitVec 8) (detail : BitVec 48) (s : State) : Result :=
  match s.focus with
  | .sq b => .next (if (s.sq b).run then fetchFault s b sub detail else s)
  | _ => .refused .wrongElement

/-- SUB of cause 2 for a word that is no instruction (R303). -/
def illegalSub : DecodeError → BitVec 8
  | .allZero => 3
  | .reservedField => 2
  | _ => 1

/-- ILLEGAL_INSTRUCTION (R303): the word at the pc is no instruction. -/
def execIllegalInstruction (s : State) : Result :=
  runSq s (fun s b =>
    match fetchWord s b with
    | (s, .word w) =>
      match decodeSq w with
      | .error e => takeTrap s b 2 (illegalSub e) 0
      | .ok _ => s
    | (s, .wait) => s
    | (s, .fail sub detail) => fetchFault s b sub detail)

/-! ## Event interrupts (R239) -/

/-- Number of a sequencer among the makers of arrivals (R248). -/
def sqArriver (b : BitVec 6) : Nat := 2 ^ 32 + b.toNat

/-- Nothing of the arrival that `bara` makes has been added yet. -/
def arrivalWhole (s : State) (b : BitVec 6) : Bool :=
  match (s.sq b).arrival with
  | none => true
  | some (obj, n) => (s.barrier obj).held.any (fun a => a.who == sqArriver b && a.count == n)

/-- Withdraw an arrival that still waits. -/
def withdraw (s : State) (b : BitVec 6) : State :=
  match (s.sq b).arrival with
  | none => s
  | some (obj, _) =>
    let o := s.barrier obj
    (s.setBarrier obj { o with held := o.held.filter (fun a => a.who != sqArriver b) }).modSq b (fun q => { q with arrival := none })

/-- An event interrupt may be taken now: IE is set, the queue holds an event, and the sequencer stands between instructions or waits
before any effect. -/
def interruptible (s : State) (b : BitVec 6) : Bool :=
  let q := s.sq b
  q.run && q.ie && !q.evEmpty && q.hold.isNone && !q.within && arrivalWhole s b

/-- EVENT_INTERRUPT (R239, R241). -/
def execEventInterrupt (s : State) : Result :=
  match s.focus with
  | .sq b => .next (if interruptible s b then takeTrap (withdraw s b) b 6 0 0 else s)
  | _ => .refused .wrongElement

end Sys2Proof.Machine
end

