-- ==== Sys2Proof/Machine/SqSystem.lean ====
section
/-! DEFINITION. Machine/SqSystem.lean: system registers (Tables 3-9 to 3-11, R104, R383, R384), `svc` (R420), `eret` (R345), `wfe`
(R426), `fen` (R353) and `evp` (R346) of a sequencer. -/

namespace Sys2Proof.Machine

/-! ## System registers -/

/-- SQ.EVQ (Table 3-11). -/
def Sq.evqWord (q : Sq) : DWord := BitVec.ofNat 64 (q.evBase.toNat + 2 ^ 32 * q.evTail.toNat)

/-- A write of SQ.EVQ: BASE, whose low 13 bits are zero, and an empty queue (R105). -/
def Sq.setEvq (q : Sq) (v : DWord) : Sq :=
  { q with evBase := v.extractLsb' 13 12 ++ (0 : BitVec 13), evTail := q.evHead }

/-- A write of SQ.EVHEAD, ignored when the queue would hold more than 256 (R384). -/
def Sq.setEvhead (q : Sq) (v : DWord) : Sq :=
  let h := v.extractLsb' 0 9
  if 256 < (q.evTail - h).toNat then q else { q with evHead := h }

/-- Words that follow the command word of a stream's command (R276). -/
def openComplete (l : List Word) : Bool :=
  match l with
  | [] => false
  | w :: rest => decide (commandLength w ≤ rest.length)

/-- A configuration stream is in progress (R335). -/
def Sq.busy (q : Sq) : Bool := !q.stream.isEmpty || !q.opened.isEmpty

/-- SQ.CFGSTAT (Table 15-7). -/
def Sq.cfgstatWord (q : Sq) : DWord :=
  BitVec.ofNat 64 ((if q.busy then 1 else 0) + (if q.rej then 2 else 0) + 4 * q.rb.length
    + (if q.stream.isEmpty && !q.opened.isEmpty && !openComplete q.opened then 2 ^ 9 else 0) + 2 ^ 32 * q.rejWord.toNat)

/-- A system register as `mfs` reads it; none for an unlisted index. -/
def readSystem (s : State) (b : BitVec 6) (idx : BitVec 5) : Option DWord :=
  let q := s.sq b
  match idx.toNat with
  | 0 => some q.statusWord
  | 1 => some q.cause
  | 2 => some q.epc
  | 3 => some q.tvec
  | 4 => some q.scratch
  | 5 => some (BitVec.ofNat 64 s.time)
  | 6 => some q.evqWord
  | 7 => some (q.evHead.setWidth 64)
  | 8 => some (b.setWidth 64)
  | 9 => some (q.part.setWidth 64)
  | 10 => some q.cfgstatWord
  | 11 => some (q.tskq.setWidth 64)
  | 12 => some (oneIf q.priv)
  | _ => none

/-- User level has no access (Table 3-9). -/
def systemHidden (idx : BitVec 5) : Bool := decide (idx.toNat < 5) || idx == 11

/-- A level may write a register: RW for it in Table 3-9. -/
def systemWritable (priv : Bool) (idx : BitVec 5) : Bool := idx == 7 || (priv && (systemHidden idx || idx == 6))

/-- A write of SQ.EVQ of a block: the events held at their producers may enter. -/
def writeEvq (s : State) (b : BitVec 6) (v : DWord) : State :=
  let s := s.modSq b (fun q => q.setEvq v)
  drainEvents s b (s.sq b).evHeld.length

/-- A write of SQ.EVHEAD of a block. -/
def writeEvhead (s : State) (b : BitVec 6) (v : DWord) : State :=
  let s := s.modSq b (fun q => q.setEvhead v)
  drainEvents s b (s.sq b).evHeld.length

/-- What a write does to a writable register, field by field (R384). -/
def writeSystem (s : State) (b : BitVec 6) (idx : BitVec 5) (v : DWord) : State :=
  match idx.toNat with
  | 0 => s.modSq b (fun q => q.setStatus v)
  | 1 => s.modSq b (fun q => { q with cause := v })
  | 2 => s.modSq b (fun q => { q with epc := v })
  | 3 => s.modSq b (fun q => { q with tvec := v &&& ~~~0xFF#64 })
  | 4 => s.modSq b (fun q => { q with scratch := v })
  | 6 => writeEvq s b v
  | 7 => writeEvhead s b v
  | _ => s.modSq b (fun q => { q with tskq := v.extractLsb' 0 12 })

/-- MFS (R383). -/
def execMfs (d b : BitVec 5) (s : State) : Result :=
  runSq s (fun s k =>
    match readSystem s k b with
    | none => takeTrap s k 2 1 0
    | some v => if systemHidden b && !(s.sq k).priv then takeTrap s k 3 1 0 else retireG s k d v)

/-- MTS (R383, R384). -/
def execMts (a b : BitVec 5) (s : State) : Result :=
  runSq s (fun s k =>
    let q := s.sq k
    if systemWritable q.priv b then retire (writeSystem s k b (q.getG a)) k id
    else if systemHidden b && !q.priv then takeTrap s k 3 1 0
    else takeTrap s k 2 4 0)

/-- EVQ_WRITE (R105). -/
def execEvqWrite (blk : BitVec 6) (v : BitVec 64) (s : State) : Result := .next (writeEvq s blk v)

/-- EVHEAD_WRITE (R384). -/
def execEvheadWrite (blk : BitVec 6) (v : BitVec 64) (s : State) : Result := .next (writeEvhead s blk v)

/-! ## The mailbox, as a partition kernel reaches it (R309, R420) -/

/-- Operations that only the host may ask for, and operations at all (Table 14-4). -/
def hostOnlyOp (op : Nat) : Bool := op == 6 || op == 8 || op == 12
def mailboxOp (op : Nat) : Bool := decide (1 ≤ op) && decide (op ≤ 14)

/-- Write the status of a request into byte 1 of its command, and forget the request. -/
def answerMbox (s : State) (r : MboxReq) (status : Nat) : State :=
  (blockWrite (s.modPlat (fun p => { p with mbox := p.mbox.tail })) (BitVec.ofNat 6 r.blk) (r.addr + 1) 1 status).1

/-- Requests that no operation serves are answered as their turn comes: 1 for an unknown OP, 2 for one of the host's. -/
def refuseMbox (s : State) : Nat → State
  | 0 => s
  | n + 1 =>
    match s.plat.mbox with
    | [] => s
    | r :: _ =>
      if !mailboxOp r.op.toNat then refuseMbox (answerMbox s r 1) n
      else if hostOnlyOp r.op.toNat then refuseMbox (answerMbox s r 2) n
      else s

/-- SVC (R420). -/
def execSvc (c : BitVec 5) (s : State) : Result :=
  runSq s (fun s b =>
    let q := s.sq b
    if c ≠ 31 ∨ q.priv = false then takeTrap s b 5 (c.setWidth 8) 0
    else
      match localPlace s b (q.getG 1) 64 64 with
      | .error sub => takeTrap s b 4 sub 0
      | .ok p =>
        match sqRead s b p 64 with
        | (s, none) => s
        | (s, some x) =>
          let addr := (q.getG 1).toNat
          let s := (blockWrite s b (addr + 1) 1 0xFF).1
          let r : MboxReq := { blk := b.toNat, addr := addr, op := BitVec.ofNat 8 x
                               words := (List.range 16).map (fun i => BitVec.ofNat 32 (x / 2 ^ (32 * i))) }
          let s := s.modPlat (fun p => { p with mbox := p.mbox ++ [r] })
          retire (refuseMbox s s.plat.mbox.length) b id)

/-! ## Control -/

/-- ERET (R345). -/
def execEret (s : State) : Result := runSq s (fun s b => supervisorOnly s b (s.modSq b (·.leaveTrap)))

/-- WFE (R426): no event interrupt ends the wait itself; it is taken before the next instruction. -/
def execWfe (s : State) : Result :=
  runSq s (fun s b => if (s.sq b).evEmpty then stayWithin s b else retire s b id)

/-- FEN (R353): every earlier access of the sequencer has been performed when it completes; what is performed is seen at every scope. -/
def execFen (_scope : BitVec 2) (s : State) : Result := runSq s (fenced (fun s b => retire s b id))

/-- EVP (R346): the entry at HEAD goes to the event window, then HEAD advances. -/
def execEvp (d : BitVec 5) (s : State) : Result :=
  runSq s (fun s b =>
    let q := s.sq b
    if q.evEmpty then retireG s b d 0
    else
      let (site, off) := blockSpad b.toNat (q.evBase.toNat + 32 * (q.evHead.toNat % 256))
      let (s, x, _) := spadReadNat s site off 32
      let s := { s with lram := memSetNat s.lram (lramKey b 0xFE0) 32 x }
      let s := retire s b (fun q => { q.setG d (BitVec.ofNat 64 x) with evHead := q.evHead + 1 })
      drainEvents s b (s.sq b).evHeld.length)

end Sys2Proof.Machine
end

