-- ==== Sys2Proof/Machine/SqFabric.lean ====
section
/-! DEFINITION. Machine/SqFabric.lean: the fabric group of sequencer instructions (Table 13-11): configuration streams (R335), `tsk`
(R424), `qapp` and `qfen` (R397, R398), barriers (R326), translations (R408, R421), `seal` (R404) and debug requests (R380, R401). -/

namespace Sys2Proof.Machine

/-! ## The configuration loader (R335) -/

/-- Words of an earlier `cfgs` are still being fetched or sent. -/
def Sq.streaming (q : Sq) : Bool := q.stream.any (fun x => x.isLeft) || openComplete q.opened

/-- CFGS: a stream of g[B] words from g[A]. -/
def execCfgs (a b : BitVec 5) (s : State) : Result :=
  runSq s (fun s k => supervisorOnly s k (
    let q := s.sq k
    let n := (q.getG b).toNat
    if n = 0 then retire s k id
    else if 2 ^ 24 < n then takeTrap s k 4 1 0
    else
      match sqPlace s k (q.getG a) 4 4 with
      | .error sub => takeTrap s k 4 sub 0
      | .ok _ =>
        if q.streaming then s
        else retire s k (fun q => { q with stream := q.stream ++ [.inl ((q.getG a).toNat, n)], rej := false })))

/-- CFGW: one word behind every word already queued. -/
def execCfgw (a : BitVec 5) (s : State) : Result :=
  runSq s (fun s k => supervisorOnly s k
    (retire s k (fun q => { q with stream := q.stream ++ [.inr ((q.getG a).setWidth 32)] })))

/-- CFGQ: pop one read-back word, VALID at bit 32. -/
def execCfgq (d : BitVec 5) (s : State) : Result :=
  runSq s (fun s k => supervisorOnly s k (
    match (s.sq k).rb with
    | [] => retireG s k d 0
    | w :: rest => retire s k (fun q => { q with rb := rest }.setG d (BitVec.ofNat 64 (2 ^ 32 + w.toNat)))))

/-- The loader stops at a fetch fault: REASON 12. -/
def loaderFault (s : State) (b : BitVec 6) : State :=
  (loaderRejected s b (rejectWord 0 0 0 12)).modSq b (fun q => { q with lfault := none })

/-- The word at an address of a stream; none when the loader waits or has stopped. -/
def streamWord (s : State) (b : BitVec 6) (a : Nat) : State × Option Nat :=
  match sqPlace s b (BitVec.ofNat 64 a) 4 4 with
  | .error _ => (loaderFault s b, none)
  | .ok (.device va) =>
    let part := (s.sq b).part.toNat
    match apertureOf s part va with
    | some a =>
      match peerRequest s a va with
      | (s, true) => (loaderFault s b, none)
      | (s, false) => (s.takeFree, some ((Config.freeValue s.free).toNat % 2 ^ 32))
    | none =>
      let (s, l, o) := translate s (s.sq b).tlb part va readIntent
      let s := s.modSq b (fun q => { q with tlb := l })
      match o with
      | .ok x => (s, some (memNat s.dmem x.pa 4))
      | .wait => (s, none)
      | .fail 1 =>
        let (s, n) := raiseFault s part va readIntent (faulterOf 1)
        (s.modSq b (fun q => { q with lfault := some n }), none)
      | .fail _ => (loaderFault s b, none)
  | .ok p => sqRead s b p 4

/-- The next word of the loader's sequence. -/
def loaderWord (s : State) (b : BitVec 6) : State × Option Word :=
  let q := s.sq b
  match q.stream with
  | [] => (s, none)
  | .inr w :: rest => (s.modSq b (fun q => { q with stream := rest }), some w)
  | .inl (a, n) :: rest =>
    match streamWord s b a with
    | (s, none) => (s, none)
    | (s, some x) =>
      let left := if n ≤ 1 then rest else .inl (a + 4, n - 1) :: rest
      (s.modSq b (fun q => { q with stream := left }), some (BitVec.ofNat 32 x))

/-- A command that still lacks value words holds its element (R280). -/
def claimOpen (s : State) (b : BitVec 6) : State :=
  match (s.sq b).opened with
  | [] => s
  | w :: _ =>
    let ea := w.extractLsb' 12 16
    if w.extractLsb' 31 1 = 0#1 ∧ streamReaches s (.loader b) ea = true ∧ (s.port ea).owner = 0 then
      s.setPort ea { s.port ea with owner := streamId (.loader b) }
    else s

/-- Gather words until a command is whole. -/
def gatherWords (s : State) (b : BitVec 6) : Nat → State
  | 0 => s
  | n + 1 =>
    if openComplete (s.sq b).opened then s
    else
      match loaderWord s b with
      | (s, none) => claimOpen s b
      | (s, some w) => gatherWords (s.modSq b (fun q => { q with opened := q.opened ++ [w] })) b n

/-- The loader of a running sequencer gathers its next command; a fetch held at a page fault goes by the PC's answer. -/
def loaderFill (s : State) (b : BitVec 6) : State :=
  let q := s.sq b
  if !q.run then s
  else
    match q.lfault with
    | none => gatherWords s b 66
    | some f =>
      let part := q.part.toNat
      match faultStatus s part f with
      | 0 => s
      | 1 => gatherWords ((dropFault s part f).modSq b (fun q => { q with lfault := none })) b 66
      | _ => loaderFault (dropFault s part f) b

/-- A whole command that no operation stands for: REASON 1 for a read-back word that is not zero, 2 for a reserved control operation,
3 for a COUNT other than 1. -/
def badCommand (s : State) (b : BitVec 6) (w : Word) : State :=
  let ea := w.extractLsb' 12 16
  let ctx := w.extractLsb' 28 2
  let field := (w.extractLsb' 6 6).toNat
  let reason := if w.extractLsb' 30 2 = 2#2 then 1 else if 2 < field then 2 else 3
  let p := s.port ea
  if !streamReaches s (.loader b) ea then loaderRejected s b (rejectWord ea ctx field 5)
  else if p.owner ≠ 0 ∧ p.owner ≠ streamId (.loader b) then s
  else
    match rejectCmd s ea ctx field reason with
    | .rejected t r => loaderRejected t b r
    | _ => s

/-! ## Launching and appending -/

/-- TSK (R424): the record at g[A] is accepted on the queue of SQ.TSKQ, and g[D] takes its position. -/
def execTsk (d a : BitVec 5) (s : State) : Result :=
  runSq s (fenced fun s k =>
    let q := s.sq k
    let va := (q.getG a).toNat
    let w := s.queue q.tskq
    let part := q.part.toNat
    if va % 64 ≠ 0 then takeTrap s k 4 3 0
    else if w.part ≠ q.part then takeTrap s k 4 6 0
    else if !w.en || w.halt then retireG s k d 0
    else if !w.held.isEmpty then stayWithin s k
    else
      match readRecord s part va with
      | (s, .wait) => stayWithin s k
      | (s, .miss x) =>
        let (s, n) := tdFault s part x
        s.modSq k (fun q => { q with hold := some { fseq := n, va := x, fetch := false } })
      | (s, .bad r _) => takeTrap s k 4 (dataSub r) 0
      | (s, .done r) =>
        let s := acceptLaunch s r q.tskq (w.acc.toNat + 1) part
        let s := s.modQueue q.tskq (fun w => { w with acc := w.acc + 1, tail := w.tail + 1 })
        retireG s k d ((w.acc + 1).setWidth 64))

/-- Commands an engine ring holds (Table 6-10). -/
def EngQueue.ringSize (e : EngQueue) : Nat := 2 ^ (e.rsz.toNat + 4)

/-- The ring is full: APPN − DONEN equals its size. -/
def EngQueue.full (e : EngQueue) : Bool := decide (e.ringSize ≤ (e.appn - e.donen).toNat)

/-- The slot of the n-th command, counted from 0. -/
def EngQueue.slotAddr (e : EngQueue) (n : Nat) : Nat := e.rbase.toNat + 64 * (n % e.ringSize)

/-- QAPP of an engine queue (R397, R180): the command goes into the ring and g[D] takes its number. -/
def execQappEngine (d a b : BitVec 5) (s : State) : Result :=
  runSq s (fenced fun s k =>
    let q := s.sq k
    let n := (q.getG a).toNat
    let num := BitVec.ofNat 4 n
    let e := s.engine k num
    if 16 ≤ n ∨ e.en = false then takeTrap s k 4 1 0
    else
      match sqPlace s k (q.getG b) 64 64 with
      | .error sub => takeTrap s k 4 sub 0
      | .ok p =>
        if e.full then s
        else
          match sqRead s k p 64 with
          | (s, none) => s
          | (s, some x) =>
            match sqXlat s k (e.slotAddr e.appn.toNat) writeIntent with
            | (s, .over) => s
            | (s, o) =>
              let s := match o with
                | .ok pa => unitWrite s q.part.toNat k 0 pa (natToBytes 64 x)
                | _ => s
              let s := s.setEngine k num { e with appn := e.appn + 1, items := e.items ++ [.cmd] }
              retireG s k d ((e.appn + 1).setWidth 64))

/-- QAPP of a work queue (R397): adds to its doorbell count. -/
def execQappWork (d a b : BitVec 5) (s : State) : Result :=
  runSq s (fun s k => supervisorOnly s k (fenced (fun s k =>
    let q := s.sq k
    let n := (q.getG a).toNat
    let num := BitVec.ofNat 12 n
    let w := s.queue num
    let count : Word := ((q.getG b).setWidth 16).setWidth 32
    if 4096 ≤ n then takeTrap s k 4 1 0
    else if w.part ≠ q.part then takeTrap s k 4 6 0
    else if count = 0 then retire s k id
    else if !w.en then retireG s k d 0
    else retireG (ringDoorbell s num (w.tail + count)) k d ((w.tail + count).setWidth 64)) s k))

/-- Queues in service that a mask names, with the commands appended to each so far. -/
def fenceWaits (s : State) (b : BitVec 6) (mask : DWord) : List (Nat × Nat) :=
  ((List.range 16).filter (fun i => mask.getLsbD i && (s.engine b (BitVec.ofNat 4 i)).en)).map
    (fun i => (i, (s.engine b (BitVec.ofNat 4 i)).appn.toNat))

/-- QFEN (R398, R144): one fence entry in each queue named, in one step. -/
def execQfen (a : BitVec 5) (s : State) : Result :=
  runSq s (fun s k =>
    let l := fenceWaits s k ((s.sq k).getG a)
    let s := l.foldl (fun s p =>
      let num := BitVec.ofNat 4 p.1
      let e := s.engine k num
      s.setEngine k num { e with items := e.items ++ [.fence (l.map (·.1)) l] }) s
    retire s k id)

/-! ## Barriers (R326) -/

/-- A barrier instruction may use an object: in range, allocated, of the sequencer's partition. -/
def mayUseBarrier (s : State) (b : BitVec 6) (x : DWord) : Bool :=
  decide (x.toNat < 4096) && (s.barrier x.toNat).en && (s.barrier x.toNat).part == (s.sq b).part

/-- BARA (R326): stalls until the whole count has been added or logged. -/
def execBara (a b : BitVec 5) (s : State) : Result :=
  runSq s (fenced fun s k =>
    let q := s.sq k
    let obj := (q.getG a).toNat
    let n := ((q.getG b).extractLsb' 0 24).toNat
    match q.arrival with
    | some (o, _) =>
      if arrivalHeld s o (sqArriver k) then s else retire s k (fun q => { q with arrival := none })
    | none =>
      if !mayUseBarrier s k (q.getG a) then takeTrap s k 4 9 0
      else if n = 0 then retire s k id
      else
        let s := arrive s obj { src := BitVec.ofNat 16 (0xFFC0 + k.toNat), who := sqArriver k, count := n }
        if arrivalHeld s obj (sqArriver k) then s.modSq k (fun q => { q with arrival := some (obj, n) }) else retire s k id)

/-- BARW (R326): waits until the phase has completed. -/
def execBarw (a b : BitVec 5) (s : State) : Result :=
  runSq s (fun s k =>
    let q := s.sq k
    if !mayUseBarrier s k (q.getG a) then takeTrap s k 4 9 0
    else if phaseDone s (q.getG a).toNat ((q.getG b).setWidth 32) then retire s k id
    else s)

/-! ## Translations (R408, R421) -/

/-- The range that `shdn` and `tlbi` name, widened to whole pages: first address and length; everything for a length of 0. -/
def pageRange (a n : Nat) : Nat × Nat :=
  if n = 0 then (0, 2 ^ 57) else (a / 4096 * 4096, (a + n + 4095) / 4096 * 4096 - a / 4096 * 4096)

/-- TLBI (R421): the sequencer's own caches and the XTCs of its block. -/
def execTlbi (a b : BitVec 5) (s : State) : Result :=
  runSq s (fun s k => supervisorOnly s k (
    let q := s.sq k
    let va := (q.getG a).toNat
    if 2 ^ 57 ≤ va then takeTrap s k 4 1 0
    else
      let (lo, n) := pageRange va (q.getG b).toNat
      let drop := fun (t : Site) => { t with xtc := tlbDrop t.xtc q.part.toNat lo n }
      let near := fun (i : Nat) => decide (siteBlock (BitVec.ofNat 13 i) = k.toNat)
      let sites := s.sites.foldl (fun t p => tabSet t p.1 (if near p.1 then drop p.2 else p.2) Site.reset) []
      let s := { s with sites := sites }
      retire s k (fun q => { q with tlb := tlbDrop q.tlb q.part.toNat lo n, icache := icacheDrop q.icache lo n })))

/-- A token carries a physical-address element of a generation. -/
def tokenHasGen (g : BitVec 7) (t : Token) : Bool :=
  t.kind == .data && (List.range 8).any (fun i => elemValid t.mask 64 i && !elFault (elemNat t.pay 64 i) && elGen (elemNat t.pay 64 i) == g.toNat)

/-- An operator holds a physical-address element of a generation. -/
def opHasGen (g : BitVec 7) (fed sends : Bool) (o : OpSt) : Bool :=
  o.page.any (fun p => !elFault p.2.toNat && elGen p.2.toNat == g.toNat)
    || (sends && o.res.any (fun r => tokenHasGen g r.2))
    || (fed && (o.held.any (tokenHasGen g) || o.toks.any (tokenHasGen g) || (o.visited == 0 && o.ptr.any (fun x => elGen x == g.toNat))))

/-- A physical-address token of a partition that carries a generation is in flight (R122). -/
def genInFlight (s : State) (part : Nat) (g : BitVec 7) : Bool :=
  s.elems.any (fun p =>
    let ea := keyEa p.1
    let e := p.2
    partOfSite s (eaSite ea) == part
      && (e.inq.any (fun q => q.2.any (tokenHasGen g) && queueFed s p.1 q.1)
        || e.outq.any (fun q => q.2.any (tokenHasGen g) && !(feeders s (keyCtx p.1) (eaSite ea) (e.field q.1 % 32)).isEmpty)
        || e.ops.any (fun o =>
            let word := e.agnWord (o.1 - 32)
            let fed := if eaElem ea = 1 then (List.range 3).any (fun i => (e.inNet (o.1 - 16) i).isSome && queueFed s p.1 (slotKey (o.1 - 16) i))
              else decide (32 ≤ o.1) && queueFed s p.1 ((OpWord.ofBits word).sa.toNat % 4)
            opHasGen g fed (eaElem ea == 0 && decide (32 ≤ o.1) && opcodeOf word == 326) o.2)))

/-- GEN cannot be advanced yet: its next value is still carried by a token in flight. -/
def genBusy (s : State) (part : Nat) : Bool := genInFlight s part ((s.part part).gen + 1)

/-- SHDN (R408): the range is dropped everywhere and GEN rises by one, once no token in flight carries that value. -/
def execShdn (a b : BitVec 5) (s : State) : Result :=
  runSq s (fun s k => supervisorOnly s k (fenced (fun s k =>
    let q := s.sq k
    let va := (q.getG a).toNat
    let part := q.part.toNat
    if 2 ^ 57 ≤ va then takeTrap s k 4 1 0
    else if genBusy s part then stayWithin s k
    else
      let (lo, n) := pageRange va (q.getG b).toNat
      retire (shootDown s part lo n) k (fun q => { q with icache := icacheDrop q.icache lo n })) s k))

/-! ## Sealing (R130, R404) -/

/-- The leaf that maps an address, whatever it permits. -/
def leafFrom (s : State) (part va : Nat) : Nat → Nat → Option Walked
  | 0, _ => none
  | n + 1, table =>
    let level := n + 1
    let idx := vaIndex va level
    let at_ := table + 8 * idx
    let e := BitVec.ofNat 64 (memNat s.dmem at_ 8)
    if !pteV e || pteMalformed s table idx level e then none
    else if pteLeaf e then
      let size := leafSize level (pteSpan e)
      let pbase := if pteSpan e then ptePa e - (idx % 16) * levelSize level else ptePa e
      some { pte := e, at_ := at_, level := level, pbase := pbase, vbase := va / size * size, size := size }
    else if !framesOwned s part (ptePa e) 4096 then none
    else leafFrom s part va n (ptePa e)

/-- The leaf that maps an address of a partition. -/
def leafOf (s : State) (part va : Nat) : Option Walked :=
  let p := s.part part
  if !p.pxen || !framesOwned s part p.root.toNat 4096 then none else leafFrom s part va 5 p.root.toNat

/-- A leaf may be sealed: RD, no MIG, TIER 0 or 1, memory that exists and that the partition owns, the frame recorded if already sealed. -/
def leafSealable (s : State) (part : Nat) (w : Walked) : Bool :=
  pteRd w.pte && !pteMig w.pte && decide (pteTier w.pte < 2) && inTier (pteTier w.pte) w.pbase w.size && framesOwned s part w.pbase w.size
    && sealedAgrees (s.part part) w.vbase w.pbase w.size

/-- The leaves of a range, in ascending order; none when one cannot be sealed. -/
def leavesOf (s : State) (part stop : Nat) : Nat → Nat → Option (List Walked)
  | 0, va => if stop ≤ va then some [] else none
  | n + 1, va =>
    if stop ≤ va then some []
    else
      match leafOf s part va with
      | none => none
      | some w => if leafSealable s part w then (leavesOf s part stop n (w.vbase + w.size)).map (fun l => w :: l) else none

/-- A leaf at an end of the range reaches beyond it. -/
def leafCut (s : State) (part a n : Nat) : Bool :=
  (leafOf s part a).any (fun w => decide (w.vbase < a)) || (leafOf s part (a + n - 1)).any (fun w => decide (a + n < w.vbase + w.size))

/-- The entries of a leaf: address of the first, and how many. -/
def leafEntries (w : Walked) : Nat × Nat := if pteSpan w.pte then (w.at_ / 128 * 128, 16) else (w.at_, 1)

/-- Entry i of a leaf. -/
def entryAt (s : State) (at_ i : Nat) : DWord := BitVec.ofNat 64 (memNat s.dmem (at_ + 8 * i) 8)

/-- Change the entries of a leaf, as a non-task writer of the partition (R143, R158); an entry in a sealed frame stays (R131). -/
def mapEntries (s : State) (part at_ n : Nat) (f : Nat → DWord → DWord) : State :=
  (List.range n).foldl (fun s i =>
    if sealedAt s (at_ + 8 * i) 8 then s else commitBytes s part (at_ + 8 * i) (natToBytes 8 (f i (entryAt s at_ i)).toNat)) s

/-- Set SEAL in every entry of a leaf. -/
def sealLeaf (part : Nat) (s : State) (w : Walked) : State :=
  mapEntries s part (leafEntries w).1 (leafEntries w).2 (fun _ e => e ||| 0x20#64)

/-- The 4 KiB frames of a range. -/
def framesOf (pa n : Nat) : List Nat := (List.range (n / 4096)).map (fun i => pa / 4096 + i)

/-- Frames added to a list, each once. -/
def addFrames (t l : List Nat) : List Nat := t ++ l.filter (fun f => !t.contains f)

/-- The range and frames of a leaf, recorded once (R131). -/
def addSealed (t : List (Nat × Nat × Nat)) (w : Walked) : List (Nat × Nat × Nat) :=
  if t.contains (w.vbase, w.size, w.pbase) then t else t ++ [(w.vbase, w.size, w.pbase)]

/-- The crypto engine meets an uncorrectable error in leaves. -/
def sealUnread (s : State) (l : List Walked) : Bool := l.any (fun w => memoryBad s w.pbase w.size)

/-- Seal leaves: marks, shoot-down, aborts, digest and log record (R130). -/
def sealLeaves (s : State) (part a n : Nat) (l : List Walked) : State :=
  let s := l.foldl (sealLeaf part) s
  let s := { s with sealed := l.foldl (fun (t : List Nat) (w : Walked) => addFrames t (framesOf w.pbase w.size)) s.sealed }
  let s := s.modPart part (fun p => { p with sealedVa := l.foldl addSealed p.sealedVa })
  let s := shootDown s part a n
  let s := abortWhere s (fun s t => l.any (fun w => (sigLines w.pbase w.size).any (mayHold (unitWsig s t))))
  -- a range that cannot be read correctly has the all-zero digest (R404)
  let digest := if sealUnread s l then 0 else digestLine (sha512 (l.flatMap (fun w => memBytes s.dmem w.pbase w.size)))
  s.modPart part (fun p => { p with seals := p.seals ++ [{ vbase := a, len := n, time := s.time, digest := digest }] })

/-- The first failing check of Table 18-2. -/
def sealStatus (s : State) (part a n : Nat) : Nat × List Walked :=
  if 2 ^ 57 ≤ a ∨ 2 ^ 57 < a + n then (4, [])
  else if a % 4096 ≠ 0 ∨ n % 4096 ≠ 0 ∨ n = 0 ∨ leafCut s part a n = true then (1, [])
  else
    match leavesOf s part (a + n) (n / 4096) a with
    | none => (2, [])
    | some l => if 1024 ≤ (s.part part).seals.length then (3, []) else (0, l)

/-- SEAL (R404). -/
def execSealRange (d a b : BitVec 5) (s : State) : Result :=
  runSq s (fun s k => supervisorOnly s k (fenced (fun s k =>
    let q := s.sq k
    let part := q.part.toNat
    let va := (q.getG a).toNat
    let n := (q.getG b).toNat
    match sealStatus s part va n with
    | (0, l) =>
      if genBusy s part then stayWithin s k
      else retireG (sealLeaves s part va n l) k d (BitVec.ofNat 64 (2 ^ 32 * (s.part part).seals.length + (if sealUnread s l then 5 else 0)))
    | (st, _) => retireG s k d (BitVec.ofNat 64 st)) s k))

/-! ## Debug requests (R380, R401) -/

/-- Pass a debug request to the PC: STATUS of its block is 0 from now on. -/
def passDebug (a : BitVec 5) (resume : Bool) (s : State) (k : BitVec 6) : State :=
  supervisorOnly s k (
    let q := s.sq k
    let addr := q.getG a
    match localPlace s k addr 16 8 with
    | .error sub => takeTrap s k 4 sub 0
    | .ok _ =>
      let s := (blockWrite s k (addr.toNat + 8) 2 0).1
      let r : DebugReq := { blk := k.toNat, part := q.part.toNat, addr := addr.toNat, resume := resume, uid := none }
      serveAll (retire (s.modPlat (fun p => { p with dbgReqs := p.dbgReqs ++ [r] })) k id))

/-- MARK (R380). -/
def execMark (a : BitVec 5) (s : State) : Result := runSq s (passDebug a false)

/-- RSM (R401). -/
def execRsm (a : BitVec 5) (s : State) : Result := runSq s (passDebug a true)

end Sys2Proof.Machine
end

