-- ==== Sys2Proof/Machine/Engine.lean ====
section
/-! DEFINITION. Machine/Engine.lean: the engines (R127, R144, R178 to R180, R259, R311, R432, R433): ranges of their operands, the
operations of Table 6-7, migration and completion. -/

namespace Sys2Proof.Machine

/-! ## Operand ranges -/

/-- A piece of a range: device memory, scratchpad of one tile, or a peer's memory. -/
inductive EngPiece where
  | dev (pa n : Nat)
  | spad (site : SiteNo) (off n : Nat)
  | peer (n : Nat)

/-- Why an entry does not go on: it completes with a status, waits at a page fault or at MIG, or goes on later by itself. -/
inductive EngStop where
  | status (n : Nat)
  | held (fseq : Nat)
  | wait
  | under

/-- Status of a walk's failure (R124, R131, R179): 3 permission, else 1 address. -/
def engStatus (reason : Nat) : Nat := if reason = 2 ∨ reason = 3 ∨ reason = 7 then 3 else 1

/-- Translate the pieces of a virtual range; a missing page posts a fault with SRC 2 (R123). -/
def engXlat (s : State) (part : Nat) (i : Intent) : List (Nat × Nat) → State × Except EngStop (List EngPiece)
  | [] => (s, .ok [])
  | (va, n) :: rest =>
    let here : State × Except EngStop EngPiece :=
      match apertureOf s part va with
      | some a =>
        match peerRequest s a va with
        | (s, true) => (s, .error (.status 3))
        | (s, false) => (s, .ok (.peer n))
      | none =>
        match translate s [] part va i with
        | (s, _, .ok x) => (s, .ok (.dev x.pa n))
        | (s, _, .wait) => (s, .error .wait)
        | (s, _, .fail 1) =>
          let (s, f) := raiseFault s part va i (faulterOf 2)
          (s, .error (.held f))
        | (s, _, .fail r) => (s, .error (.status (engStatus r)))
    match here with
    | (s, .error e) => (s, .error e)
    | (s, .ok p) =>
      match engXlat s part i rest with
      | (s, .error e) => (s, .error e)
      | (s, .ok ps) => (s, .ok (p :: ps))

/-- A range of n bytes at a virtual address. -/
def engVirt (s : State) (part va n : Nat) (i : Intent) : State × Except EngStop (List EngPiece) :=
  if n = 0 then (s, .ok []) else engXlat s part i (pagePieces va n)

/-- A range of n bytes at an address operand: bit 63 selects an FSA (R109, R432). -/
def engRange (s : State) (part a n : Nat) (i : Intent) : State × Except EngStop (List EngPiece) :=
  if a < 2 ^ 63 then engVirt s part a n i
  else
    let site := fsaSite (a % 2 ^ 31)
    let off := a % 2 ^ 21
    if bits a 31 32 ≠ 0 ∨ partOfSite s site ≠ part ∨ ¬ (s.part part).blocks.contains (siteBlock site) ∨ inRange s site off n = false then
      (s, .error (.status 1))
    else (s, .ok [.spad site off n])

/-- Bytes of a piece. -/
def EngPiece.size : EngPiece → Nat
  | .dev _ n => n
  | .spad _ _ n => n
  | .peer n => n

/-- n bytes of a piece from an offset on. -/
def EngPiece.cut (p : EngPiece) (lo n : Nat) : EngPiece :=
  match p with
  | .dev pa _ => .dev (pa + lo) n
  | .spad site off _ => .spad site (off + lo) n
  | .peer _ => .peer n

/-- n bytes of a range from an offset on. -/
def engSlice : List EngPiece → Nat → Nat → List EngPiece
  | [], _, _ => []
  | p :: rest, lo, n =>
    if p.size ≤ lo then engSlice rest (lo - p.size) n
    else
      let k := min n (p.size - lo)
      if k = 0 then [] else p.cut lo k :: engSlice rest 0 (n - k)

/-- Bytes of a scratchpad range, line by line; none after an uncorrectable error. -/
def spadBytes (s : State) (site : SiteNo) (off n : Nat) : State × Option (List Byte) :=
  let lines := (List.range ((off % 64 + n + 63) / 64)).map (fun j => (off / 64 + j) * 64)
  let r := lines.foldl (fun (acc : State × List Byte × Bool) o =>
    let (s, l) := readSpad acc.1 site 0 accessSq o 0
    (s, acc.2.1 ++ lineBytes l.line, acc.2.2 || l.failed)) (s, [], false)
  (r.1, if r.2.2 then none else some ((r.2.1.drop (off % 64)).take n))

/-- n bytes that the spec leaves open. -/
def freeBytes (s : State) (n : Nat) : State × List Byte :=
  ({ s with free := s.free + n }, (List.range n).map (fun i => (Config.freeValue (s.free + i)).setWidth 8))

/-- The bytes of a range. -/
def engRead (s : State) : List EngPiece → State × Option (List Byte)
  | [] => (s, some [])
  | p :: rest =>
    let here : State × Option (List Byte) :=
      match p with
      | .dev pa n => (touch s pa n, if memoryBad s pa n then none else some (memBytes s.dmem pa n))
      | .spad site off n => spadBytes s site off n
      | .peer n =>
        let (s, l) := freeBytes s n
        (s, some l)
    match here with
    | (s, none) => (s, none)
    | (s, some l) =>
      match engRead s rest with
      | (s, none) => (s, none)
      | (s, some l') => (s, some (l ++ l'))

/-- Write bytes to device memory on behalf of the engine queue in focus. -/
def engCommit (s : State) (part pa : Nat) (l : List Byte) : State :=
  match s.focus with
  | .engine b q => unitWrite s part b (1 + q.toNat) pa l
  | _ => commitBytes s part pa l

/-- Write bytes to a range as non-task writes (R143); false when a row of scratchpad could not be written (R206). -/
def engWrite (s : State) (part : Nat) : List EngPiece → List Byte → State × Bool
  | [], _ => (s, true)
  | p :: rest, l =>
    match p with
    | .dev pa n => engWrite (engCommit s part pa (l.take n)) part rest (l.drop n)
    | .spad site off n =>
      let r := (lineWrites off (l.take n)).foldl (fun (acc : State × Bool) w =>
        let (s, ok) := writeSpad acc.1 site 0 accessSq w.line 0 w.mask w.data none
        (s, acc.2 && ok)) (s, true)
      if r.2 then engWrite r.1 part rest (l.drop n) else (r.1, false)
    | .peer n => engWrite s part rest (l.drop n)

/-! ## Entries -/

/-- Counters of R259: BUSY is 0, and the causes in the order in which one is charged: TRANS 1, FAULT, QFEN, EVQ, SEAL, MEM. -/
def stallFault : Nat := 2
def stallQfen : Nat := 3
def stallEvq : Nat := 4
def stallSeal : Nat := 5

/-- An engine is busy or stalled on a cause in the fc at a device time: a counter rises once in an fc, and of two causes the first is charged. -/
def EngStalls.charge (c : EngStalls) (time k : Nat) : EngStalls :=
  let c := if c.fc = time + 1 then c else { c with fc := time + 1, busy := false, cause := 0 }
  let up := fun (t : Tab Nat) => tabMod t k 0 (fun n => satAdd32 n 1)
  if k = 0 then if c.busy then c else { c with counts := up c.counts, busy := true }
  else if c.cause = 0 then { c with counts := up c.counts, cause := k }
  else if k < c.cause then { c with counts := up (tabMod c.counts c.cause 0 (fun n => n - 1)), cause := k }
  else c

/-- Charge the engine of a queue. -/
def countStall (s : State) (b : BitVec 6) (q : BitVec 4) (k : Nat) : State :=
  { s with stalls := tabMod s.stalls (b.toNat * 4 + (s.engine b q).eng.toNat) EngStalls.reset (fun c => c.charge s.time k) }

/-- An entry is performed, with its status; ENGINE_COMPLETE follows. -/
def engFinish (s : State) (b : BitVec 6) (q : BitVec 4) (st : Nat) : State :=
  s.setEngine b q { s.engine b q with status := some (BitVec.ofNat 8 st), fault := none, moved := 0, limit := none }

/-- What a stop makes of an entry. -/
def engStop (s : State) (b : BitVec 6) (q : BitVec 4) : EngStop → State
  | .status n => engFinish s b q n
  | .held f => countStall (s.setEngine b q { s.engine b q with fault := some f }) b q stallFault
  | .wait => countStall s b q stallFault
  | .under => s

/-- An event of an engine of the block waits for room (R105). -/
def engEventHeld (s : State) (b : BitVec 6) : Bool := (s.sq b).evHeld.any (fun w => w.toNat % 256 == 5)

/-- An engine may go on with the head entry of a queue, which is a command. -/
def engReady (s : State) (b : BitVec 6) (q : BitVec 4) : Bool :=
  let e := s.engine b q
  e.status.isNone && e.mig.isNone && e.items.head? == some .cmd && !engEventHeld s b

/-- The PC's answer to the fault that a queue waits on: go on, or the outcome. -/
def engResume (s : State) (b : BitVec 6) (q : BitVec 4) (part : Nat) : State × Option EngStop :=
  match (s.engine b q).fault with
  | none => (s, none)
  | some f =>
    match faultStatus s part f with
    | 0 => (s, some (.held f))
    | n =>
      let s := dropFault s part f
      let s := s.setEngine b q { s.engine b q with fault := none }
      (s, if n = 1 then none else some (.status (if n = 2 then 1 else 2)))

/-- The command at the head of a queue. -/
def engCommand (s : State) (b : BitVec 6) (q : BitVec 4) (part : Nat) : State × Except EngStop (BitVec 512) :=
  let e := s.engine b q
  match engVirt s part (e.slotAddr e.donen.toNat) 64 readIntent with
  | (s, .error x) => (s, .error x)
  | (s, .ok ps) =>
    match engRead s ps with
    | (s, none) => (s, .error (.status 2))
    | (s, some l) => (s, .ok (BitVec.ofNat 512 (bytesToNat l)))

/-- Run an operation on behalf of the engine in focus: its head command must be that operation, with nothing behind its operands
(R178, R432); `f` answers a status or a stop. -/
def runEngine (op : Instr) (operands : Nat) (s : State) (f : State → Nat → List Nat → State × Except EngStop Nat) : Result :=
  match s.focus with
  | .engine b q =>
    let part := partOfBlock s b.toNat
    if !engReady s b q then .next s
    else
      match engResume s b q part with
      | (s, some e) => .next (engStop s b q e)
      | (s, none) =>
        match engCommand s b q part with
        | (s, .error e) => .next (engStop s b q e)
        | (s, .ok cmd) =>
          let words := (List.range 7).map (fun j => (commandDword cmd (j + 1)).toNat)
          if decodeEngine (s.engine b q).eng cmd ≠ some op ∨ (words.drop operands).any (· != 0) = true then .next (engFinish s b q 7)
          else
            match f s part (words.take operands) with
            | (s, .error e) => .next (engStop s b q e)
            | (s, .ok st) => .next (engFinish s b q st)
  | _ => .refused .wrongElement

/-- The units of an entry, lines or blocks, that a step moves of a total: from the first that has not been moved, as many as the move asks
for (R157; log entry 114). -/
def engSpan (s : State) (total : Nat) : Nat × Nat :=
  match s.focus with
  | .engine b q =>
    let e := s.engine b q
    (e.moved, min total (e.moved + e.limit.getD total))
  | _ => (0, total)

/-- Units up to `hi` of a total have been moved: the entry is over, or goes on later. -/
def engMoved (s : State) (total hi st : Nat) : State × Except EngStop Nat :=
  match s.focus with
  | .engine b q =>
    if st = 0 ∧ hi < total then (s.setEngine b q { s.engine b q with moved := hi, limit := none }, .error .under) else (s, .ok st)
  | _ => (s, .ok st)

/-- Read one range, and write another with what is made of its bytes: both are translated before anything is written. -/
def engMove (s : State) (part src n dst m : Nat) (f : State → List Byte → State × List Byte) : State × Except EngStop Nat :=
  match engRange s part src n readIntent with
  | (s, .error e) => (s, .error e)
  | (s, .ok ps) =>
    match engRange s part dst m writeIntent with
    | (s, .error e) => (s, .error e)
    | (s, .ok pd) =>
      match engRead s ps with
      | (s, none) => (s, .ok 2)
      | (s, some l) =>
        let (s, l) := f s l
        let (s, ok) := engWrite s part pd l
        (s, .ok (if ok then 0 else 2))

/-- Copy a range line by line: each line of the source comes from one state (R157); `f` is told where in the range its bytes begin. -/
def engCopy (s : State) (part src n dst : Nat) (f : Nat → State → List Byte → State × List Byte) : State × Except EngStop Nat :=
  match engRange s part src n readIntent with
  | (s, .error e) => (s, .error e)
  | (s, .ok ps) =>
    match engRange s part dst n writeIntent with
    | (s, .error e) => (s, .error e)
    | (s, .ok pd) =>
      let total := (src % 64 + n + 63) / 64
      let (lo, hi) := engSpan s total
      let from_ := 64 * lo - src % 64
      let upto := min n (64 * hi - src % 64)
      match engRead s (engSlice ps from_ (upto - from_)) with
      | (s, none) => (s, .ok 2)
      | (s, some l) =>
        let (s, l) := f from_ s l
        let (s, ok) := engWrite s part (engSlice pd from_ (upto - from_)) l
        engMoved s total hi (if ok then 0 else 2)

/-! ## The stream copy engine -/

/-- Bytes whose source a copy itself overwrites are open; the bytes given begin `at_` bytes into the source. -/
def copyOverlap (src dst n at_ : Nat) (s : State) (l : List Byte) : State × List Byte :=
  if src < dst + n ∧ dst < src + n ∧ src ≠ dst then
    let (s', fr) := freeBytes s l.length
    (s', ((l.zip fr).zipIdx).map (fun p => if dst ≤ src + at_ + p.2 ∧ src + at_ + p.2 < dst + n then p.1.2 else p.1.1))
  else (s, l)

/-- COPY (R178): source, destination, length. -/
def execCopy (s : State) : Result :=
  runEngine .copy 3 s (fun s part o =>
    let src := o.getD 0 0
    let dst := o.getD 1 0
    let n := o.getD 2 0
    engCopy s part src n dst (copyOverlap src dst n))

/-- Source lines and destination lines of transposed blocks (R112, R340): rows of n lines. -/
def blockRows (a pitch n : Nat) (next : Nat → Nat) (blocks : Nat) : List Nat :=
  (List.range blocks).flatMap (fun k => (List.range n).map (fun i => a + next k + i * pitch))

/-- Gather lines at addresses; all are translated first. -/
def engLines (s : State) (part : Nat) (i : Intent) : List Nat → State × Except EngStop (List EngPiece)
  | [] => (s, .ok [])
  | a :: rest =>
    match engRange s part a 64 i with
    | (s, .error e) => (s, .error e)
    | (s, .ok p) =>
      match engLines s part i rest with
      | (s, .error e) => (s, .error e)
      | (s, .ok ps) => (s, .ok (p ++ ps))

/-- Rows of a block with its elements of e bytes exchanged: row j of the result holds element j of every row. -/
def transposeRows (e : Nat) (rows : List (List Byte)) : List (List Byte) :=
  (List.range (64 / e)).map (fun j => rows.flatMap (fun r => (r.drop (j * e)).take e))

/-- COPY with transposition of blocks of n × n elements (R112): source, destination, PS, PD, blocks. -/
def copyBlocks (n : Nat) (s : State) (part : Nat) (o : List Nat) : State × Except EngStop Nat :=
  let src := o.getD 0 0
  let dst := o.getD 1 0
  let ps := o.getD 2 0
  let pd := o.getD 3 0
  let count := o.getD 4 0
  if src % 64 ≠ 0 ∨ dst % 64 ≠ 0 ∨ ps % 64 ≠ 0 ∨ ps = 0 ∨ pd % 64 ≠ 0 ∨ pd = 0 then (s, .ok 1)
  else
    match engLines s part readIntent (blockRows src ps n (fun k => 64 * k) count) with
    | (s, .error e) => (s, .error e)
    | (s, .ok from_) =>
      match engLines s part writeIntent (blockRows dst pd n (fun k => k * n * pd) count) with
      | (s, .error e) => (s, .error e)
      | (s, .ok to_) =>
        let (lo, hi) := engSpan s count
        let at_ := 64 * n * lo
        let size := 64 * n * (hi - lo)
        match engRead s (engSlice from_ at_ size) with
        | (s, none) => (s, .ok 2)
        | (s, some l) =>
          let rows := pieces 64 (n * (hi - lo)) l
          let out := (pieces n (hi - lo) rows).flatMap (fun b => (transposeRows (64 / n) b).flatten)
          let (s, ok) := engWrite s part (engSlice to_ at_ size) out
          engMoved s count hi (if ok then 0 else 2)

/-- COPY_T8: blocks of 64 × 64 bytes. -/
def execCopyT8 (s : State) : Result := runEngine .copyT8 5 s (copyBlocks 64)

/-- COPY_T16: blocks of 32 × 32 halfwords. -/
def execCopyT16 (s : State) : Result := runEngine .copyT16 5 s (copyBlocks 32)

/-- FILL (R178): destination, length, 64-bit pattern. -/
def execFill (s : State) : Result :=
  runEngine .fill 3 s (fun s part o =>
    let n := o.getD 1 0
    let pattern := natToBytes 8 (o.getD 2 0)
    match engRange s part (o.getD 0 0) n writeIntent with
    | (s, .error e) => (s, .error e)
    | (s, .ok pd) =>
      let total := (n + 63) / 64
      let (lo, hi) := engSpan s total
      let upto := min n (64 * hi)
      let (s, ok) := engWrite s part (engSlice pd (64 * lo) (upto - 64 * lo))
        ((List.range (upto - 64 * lo)).map (fun i => pattern.getD (i % 8) 0))
      engMoved s total hi (if ok then 0 else 2))

/-! ## The collective engine (R311) -/

/-- Which part of the group's data a collective leaves in a member's buffer. -/
inductive Collective where
  | reduce | broadcast | gather
deriving DecidableEq, Repr

/-- The operands of a collective are in range: count, format, operation. -/
def collectiveOk (count fmt op : Nat) : Bool :=
  decide (1 ≤ count) && decide (count ≤ 2 ^ 32) && (fmtInt fmt || (decide (10 ≤ fmt) && decide (fmt ≤ 13))) && decide (op ≤ 4)
    && (decide (op < 3) || fmtInt fmt)

/-- A collective over a group: buffer, count, format, operation, group. A group of one member leaves its own data; what other members
bring, and whether their digests agree, is open. -/
def collective (c : Collective) (s : State) (part : Nat) (o : List Nat) : State × Except EngStop Nat :=
  let count := o.getD 1 0
  let fmt := o.getD 2 0
  let members := tabGet s.plat.groups (o.getD 4 0) []
  if !collectiveOk count fmt (o.getD 3 0) || !members.any (fun m => m.2 == part) then (s, .ok 7)
  else
    let each := count * (fmtWidth fmt / 8)
    let n := if c = .gather then each * members.length else each
    match engRange s part (o.getD 0 0) n bothIntent with
    | (s, .error e) => (s, .error e)
    | (s, .ok ps) =>
      match engRead s ps with
      | (s, none) => (s, .ok 2)
      | (s, some l) =>
        if members.length = 1 then
          let (s, ok) := engWrite s part ps l
          (s, .ok (if ok then 0 else 2))
        else if (Config.freeValue s.free).getLsbD 0 then (s.takeFree, .ok 7)
        else
          let (s, l) := freeBytes s.takeFree n
          let (s, ok) := engWrite s part ps l
          (s, .ok (if ok then 0 else 2))

/-- ALL_REDUCE. -/
def execAllReduce (s : State) : Result := runEngine .allReduce 5 s (collective .reduce)
/-- BROADCAST. -/
def execBroadcast (s : State) : Result := runEngine .broadcast 5 s (collective .broadcast)
/-- ALL_GATHER. -/
def execAllGather (s : State) : Result := runEngine .allGather 5 s (collective .gather)

/-! ## The crypto engine -/

/-- SHA512 (R178): source, length, digest destination. -/
def execSha512 (s : State) : Result :=
  runEngine .sha512 3 s (fun s part o =>
    engMove s part (o.getD 0 0) (o.getD 1 0) (o.getD 2 0) 64 (fun s l => (s, sha512 l)))

/-- RSA_VERIFY (R432): digest, signature and key addresses; status 6 when the signature does not verify. -/
def execRsaVerify (s : State) : Result :=
  runEngine .rsaVerify 3 s (fun s part o =>
    match engRange s part (o.getD 0 0) 64 readIntent with
    | (s, .error e) => (s, .error e)
    | (s, .ok p0) =>
      match engRange s part (o.getD 1 0) 512 readIntent with
      | (s, .error e) => (s, .error e)
      | (s, .ok p1) =>
        match engRange s part (o.getD 2 0) 520 readIntent with
        | (s, .error e) => (s, .error e)
        | (s, .ok p2) =>
          match engRead s (p0 ++ p1 ++ p2) with
          | (s, none) => (s, .ok 2)
          | (s, some l) =>
            let key := l.drop 576
            let good := rsaVerifies (beNat (key.take 512)) (beNat (key.drop 512)) (beNat ((l.drop 64).take 512)) (l.take 64)
            (s, .ok (if good then 0 else 6)))

/-! ## The migration engine (R127) -/

/-- Level of an unspanned size, for the frames of a span's entries. -/
def entrySize (size n : Nat) : Nat := size / n

/-- What a partition's page tables take: the tables and the pages they map, each with its size. -/
def tableRanges (s : State) : Nat → Nat → List (Nat × Nat)
  | 0, _ => []
  | n + 1, table =>
    (table, 4096) :: (List.range 512).flatMap (fun i =>
      let e := entryAt s table i
      if !pteV e then [] else if pteLeaf e then [(ptePa e, levelSize (n + 1))] else tableRanges s n (ptePa e))

/-- Physical ranges in use in a partition: tables and pages, queues, rings, and the destinations of migrations under way. -/
def usedRanges (s : State) (part : Nat) : List (Nat × Nat) :=
  let p := s.part part
  (if p.pxen then tableRanges s 5 p.root.toNat else [])
    ++ [(p.fqBase.toNat, 32768), (p.frBase.toNat, 65536), (bits p.ptrace.toNat 12 40 * 4096, 16 * 2 ^ bits p.ptrace.toNat 1 5), (p.ptrcb.toNat, 64)]
    ++ s.engines.filterMap (fun e => e.2.mig.map (fun m => (m.2.2.2.2.1, m.2.2.1)))

/-- Two ranges have a byte in common. -/
def rangesMeet (a n b m : Nat) : Bool := decide (a < b + m) && decide (b < a + n)

/-- Frames of a tier and size that a partition owns and that nothing uses (R119, R127). -/
def freeFrames (s : State) (part tier size : Nat) : List Nat :=
  let used := usedRanges s part
  (s.frames.flatMap (fun f =>
    let a := f.1 * 2 ^ 21
    if f.2 ≠ part + 1 then [] else if size ≤ 2 ^ 21 then (List.range (2 ^ 21 / size)).map (fun i => a + i * size) else if a % size = 0 then [a] else [])).filter
    (fun b => inTier tier b size && framesOwned s part b size && !sealedAt s b size && used.all (fun u => !rangesMeet b size u.1 u.2))

/-- Which of the free frames of a tier is taken is open. -/
def freeFrame (s : State) (part tier size : Nat) : Option Nat :=
  let l := freeFrames s part tier size
  l[(Config.freeValue s.free).toNat % l.length]?

/-- Tasks that may hold a line of a frame in a signature are aborted (R127, step 2). -/
def abortHolders (s : State) (pa size : Nat) : State :=
  abortWhere s (fun s t => (sigLines pa size).any (fun a => mayHold (unitRsig s t) a || mayHold (unitWsig s t) a))

/-- MIGRATE (R127, steps 1 and 2): virtual address, destination tier. -/
def execMigrate (s : State) : Result :=
  runEngine .migrate 2 s (fun s part o =>
    let va := o.getD 0 0
    let tier := o.getD 1 0
    if 2 ^ 57 ≤ va then (s, .ok 1)
    else if 3 ≤ tier then (s, .ok 7)
    else
      match leafOf s part va with
      | none =>
        match translate s [] part va readIntent with
        | (s, _, .fail 1) =>
          let (s, f) := raiseFault s part va readIntent (faulterOf 2)
          (s, .error (.held f))
        | (s, _, .wait) => (s, .error .wait)
        | (s, _, .fail r) => (s, .ok (engStatus r))
        | (s, _, .ok _) => (s, .ok 1)
      | some w =>
        let place := freeFrame s part tier w.size
        let s := s.takeFree
        if pteMig w.pte then (s, .error .wait)
        else if !framesOwned s part w.pbase w.size || (pteSeal w.pte && tier == 2) then (s, .ok 3)
        else
        match place with
        | none => (s, .ok 2)
        | some dst =>
        if genBusy s part then (s, .error .wait)
        else
          let (at_, n) := leafEntries w
          let s := mapEntries s part at_ n (fun _ e => e ||| 0x400#64)
          let s := shootDown s part w.vbase w.size
          let s := abortHolders s w.pbase w.size
          match s.focus with
          | .engine b q =>
            (s.setEngine b q { s.engine b q with mig := some (w.vbase, w.pbase, w.size, entryAt s at_ 0, dst, at_), fault := none }, .error .under)
          | _ => (s, .error .under))

/-- The entry of a leaf in its new frame: PA and TIER replaced, MIG clear (Table 4-6). -/
def movedEntry (e : DWord) (pa tier : Nat) : DWord :=
  BitVec.ofNat 64 (e.toNat - bits e.toNat 12 40 * 4096 - bits e.toNat 10 1 * 1024 - bits e.toNat 7 2 * 128 + pa + tier * 128)

/-- Tier of an address (Table 4-9). -/
def tierOf (pa : Nat) : Nat := if inTier 0 pa 1 then 0 else if inTier 1 pa 1 then 1 else 2

/-- The record of a sealed range after frames have moved: the part in them moves along, what lies before and behind stays. -/
def movedSeal (pa dst size : Nat) (r : Nat × Nat × Nat) : List (Nat × Nat × Nat) :=
  if !rangesMeet r.2.2 r.2.1 pa size then [r]
  else
    let lo := max r.2.2 pa
    let hi := min (r.2.2 + r.2.1) (pa + size)
    [(r.1, lo - r.2.2, r.2.2), (r.1 + (lo - r.2.2), hi - lo, dst + (lo - pa)), (r.1 + (hi - r.2.2), r.2.2 + r.2.1 - hi, hi)].filter (fun x => decide (0 < x.2.1))

/-- Seals move with their frames. -/
def moveSeals (s : State) (part pa dst size : Nat) : State :=
  let old := framesOf pa size
  if s.sealed.any (fun f => old.contains f) then
    let s := { s with sealed := s.sealed.map (fun f => if old.contains f then f - pa / 4096 + dst / 4096 else f) }
    s.modPart part (fun p => { p with sealedVa := p.sealedVa.flatMap (movedSeal pa dst size) })
  else s

/-- Copy a frame, as a non-task writer of the partition (R143, R158). -/
def copyFrame (s : State) (part pa dst size : Nat) : State := commitBytes s part dst (memBytes s.dmem pa size)

/-- MIGRATION_COPY_DONE (R127, steps 3 to 5): the frame is copied and the leaf swapped, unless software wrote it meanwhile (RACED) or the
source cannot be read correctly (SOURCE-ERROR: the leaf is as before the move). -/
def execMigrationCopyDone (blk : BitVec 6) (q : BitVec 4) (s : State) : Result :=
  let e := s.engine blk q
  let part := partOfBlock s blk.toNat
  .next (match e.mig with
    | none => s
    | some (va, pa, size, old, dst, at_) =>
      if genBusy s part then s
      else
        let n := if pteSpan old then 16 else 1
        let u := entrySize size n
        let same := entryAt s at_ 0 == old
          && (List.range n).all (fun i => spanCommon (entryAt s at_ i) == spanCommon old && ptePa (entryAt s at_ i) == pa + i * u && pteMig (entryAt s at_ i))
        let done := fun (s : State) (st : Byte) =>
          let s := shootDown s part va size
          s.setEngine blk q { s.engine blk q with mig := none, status := some st }
        if !same then done s 4
        else if memoryBad s pa size then done (mapEntries s part at_ n (fun _ e => e &&& ~~~0x400#64)) 5
        else
          let s := copyFrame s part pa dst size
          let s := mapEntries s part at_ n (fun i e => movedEntry e (dst + i * u) (tierOf dst))
          done (moveSeals s part pa dst size) 0)

/-! ## Completion (R179, R433) -/

/-- The completion word. -/
def completionWord (n st : Nat) : Nat := n % 2 ^ 32 + 2 ^ 32 * (st % 256)

/-- The entry is over: DONEN rises, and EVT or an error posts the event. -/
def engDone (s : State) (b : BitVec 6) (q : BitVec 4) (header : DWord) (st : Nat) : State :=
  let e := s.engine b q
  let word := completionWord (e.donen.toNat + 1) st
  let s := s.setEngine b q { e with donen := e.donen + 1, items := e.items.tail, status := none, fault := none }
  if header.getLsbD 8 || decide (st ≠ 0) then
    postEvent s b 5 0 (natToBytes 8 word ++ natToBytes 8 header.toNat ++ natToBytes 1 q.toNat ++ natToBytes 7 0)
  else s

/-- ENGINE_COMPLETE (R179, R144): the completion word is written once every write of the entry is. A word that the PC's answer leaves
unwritable turns the status into that of the answer. -/
def execEngineComplete (blk : BitVec 6) (q : BitVec 4) (s : State) : Result :=
  let e := s.engine blk q
  let part := partOfBlock s blk.toNat
  .next (match e.status with
    | none => s
    | some st =>
      -- its writes wait for the other side of a lockstep pair (R261)
      if unitWaits s part blk (1 + q.toNat) 0 0 then countStall s blk q stallSeal else
      let header := fun (s : State) =>
        match engCommand s blk q part with
        | (_, .ok c) => commandDword c 0
        | (_, .error _) => 0
      match engResume s blk q part with
      | (s, some (.status n)) => engDone s blk q (header s) n
      | (s, some _) => countStall s blk q stallFault
      | (s, none) =>
        match engVirt s part e.cwaddr.toNat 8 writeIntent with
        | (s, .ok ps) =>
          let w := (engWrite { s with focus := .engine blk q } part ps (natToBytes 8 (completionWord (e.donen.toNat + 1) st.toNat))).1
          let s := { w with focus := s.focus }
          engDone s blk q (header s) st.toNat
        | (s, .error (.held f)) => s.setEngine blk q { s.engine blk q with fault := some f }
        | (s, .error (.status n)) => engDone s blk q (header s) (if st = 0 then n else st.toNat)
        | (s, .error _) => s)

/-! ## What an engine does next -/

/-- A fence entry lets its queue go on: every entry placed before it in the queues it names has completed (R144). -/
def fencePassed (s : State) (b : BitVec 6) (waits : List (Nat × Nat)) : Bool :=
  waits.all (fun w => let d := (BitVec.ofNat 32 w.2 - (s.engine b (BitVec.ofNat 4 w.1)).donen).toNat; d == 0 || decide (4096 < d))

/-- The head of a queue: a fence that has passed goes, and a command is to be performed. An OP that the engine does not execute
completes the entry with status 7 (R178). -/
def engineNext (s : State) (b : BitVec 6) (q : BitVec 4) : State × Option Instr :=
  let e := s.engine b q
  match e.items with
  | [] => (s, none)
  | .fence _ waits :: rest =>
    let s := countStall s b q 0
    if fencePassed s b waits then (s.setEngine b q { e with items := rest }, none) else (countStall s b q stallQfen, none)
  | .cmd :: _ =>
    let s := countStall s b q 0
    if engEventHeld s b then (countStall s b q stallEvq, none)
    else if !engReady s b q then (s, none)
    else
      let part := partOfBlock s b.toNat
      match engResume s b q part with
      | (s, some x) => (engStop s b q x, none)
      | (s, none) =>
        match engCommand s b q part with
        | (s, .error x) => (engStop s b q x, none)
        | (s, .ok c) =>
          match decodeEngine e.eng c with
          | some i => (s, some i)
          | none => (engFinish s b q 7, none)

end Sys2Proof.Machine
end

