-- ==== Sys2Proof/Machine/Evict.lean ====
section
/-! DEFINITION. Machine/Evict.lean: residency (R128, R129): the open stream windows and their LOWMARK, the choice of a victim, its eviction,
and the PC's answers to page faults (R124). -/

namespace Sys2Proof.Machine

/-! ## Stream windows (R128) -/

/-- An open window: its range, its LOWMARK, and whether its addresses are virtual. -/
structure Window where
  base    : Nat
  size    : Nat
  low     : Nat
  virtual : Bool

/-- LOWMARK: the address that the next firing of a base-and-stride AGN needs; the window's base for a stride that is not positive and for
addresses that come as data. -/
def AgnView.lowmark (v : AgnView) : Nat :=
  let n := if v.code = 320 then v.op.count / blockSide (v.imm 16 2) else v.op.count
  if v.fromBase && decide (0 < v.stride) then v.base + n * v.stride.toNat else v.base

/-- The window of an AGN under STREAM, open from its first access until its LEVEL 7 marker. A window that no page token feeds bounds physical
addresses (DEDUCED, log entry 117). -/
def AgnView.window (v : AgnView) : Option Window :=
  if v.port = 2 ∧ bitSet (v.e.agnb v.n) 6 = true ∧ v.limit ≠ 0 ∧ v.op.lastFire ≠ 0 ∧ v.op.ended = false then
    some { base := v.base, size := v.limit, low := v.lowmark, virtual := v.paged }
  else none

/-- The windows of an element context of a memory tile. -/
def ctxWindows (s : State) (key : Nat) (e : ElemCtx) : List Window :=
  let site := eaSite (keyEa key)
  if eaElem (keyEa key) = 0 ∧ siteIsMt site = true then
    (List.range 4).filterMap (fun n =>
      let word := e.agnWord n
      AgnView.window { site := site, ctx := keyCtx key, n := n, w := OpWord.ofBits word, code := opcodeOf word, e := e, op := e.op (agnIdx n), now := s.time })
  else []

/-- The open windows of a partition, those of suspended tasks among them. -/
def openWindows (s : State) (part : Nat) : List Window :=
  let live := s.elems.filter (fun p => partOfSite s (eaSite (keyEa p.1)) == part)
  let saved := (s.tasks.flatMap (fun t => t.saved.map (fun v => (v.key, v.ctx)))).filter (fun p => partOfSite s (eaSite (keyEa p.1)) == part)
  (live ++ saved).flatMap (fun p => ctxWindows s p.1 p.2)

/-- Where a page lies in a window's addresses. -/
def Window.start (x : Window) (w : Walked) : Nat := if x.virtual then w.vbase else w.pbase

/-- A page is overlapped by a window and lies wholly below the LOWMARK of each window that overlaps it. -/
def passedBy (l : List Window) (w : Walked) : Bool :=
  let meet := l.filter (fun x => rangesMeet x.base x.size (x.start w) w.size)
  !meet.isEmpty && meet.all (fun x => decide (x.start w + w.size ≤ x.low))

/-! ## Victims (R128) -/

/-- The leaves below a table, with what they map. -/
def leavesBelow (s : State) : Nat → Nat → Nat → List Walked
  | 0, _, _ => []
  | n + 1, table, va =>
    (List.range 512).flatMap (fun i =>
      let e := entryAt s table i
      let here := va + i * levelSize (n + 1)
      if !pteV e || pteMalformed s table i (n + 1) e then []
      else if !pteLeaf e then leavesBelow s n (ptePa e) here
      else if pteSpan e ∧ i % 16 ≠ 0 then []
      else [{ pte := e, at_ := table + 8 * i, level := n + 1, pbase := ptePa e, vbase := here, size := leafSize (n + 1) (pteSpan e) }])

/-- The pages of a partition. -/
def residentLeaves (s : State) (part : Nat) : List Walked :=
  let p := s.part part
  if p.pxen then leavesBelow s 5 p.root.toNat 0 else []

/-- Virtual addresses that a faulting access needs: the one that failed, and those of the token that an `xlat` withholds. -/
def neededBy (s : State) (f : PageFault) : List Nat :=
  let e := s.elem f.ea f.ctx
  let held := if f.src = 0 then e.ops.filterMap (fun p => if p.2.fault.any (fun x => x.1 == f.fseq) then p.2.held else none) else []
  f.va :: held.flatMap (fun t => (List.range 8).filterMap (addrElem t))

/-- The PC may take a page of HBM4: neither pinned, under migration nor needed by the access, and readable. -/
def mayEvict (s : State) (part : Nat) (needed : List Nat) (w : Walked) : Bool :=
  pteTier w.pte == 0 && inTier 0 w.pbase w.size && framesOwned s part w.pbase w.size && !ptePin w.pte && !pteMig w.pte
    && needed.all (fun a => decide (a < w.vbase) || decide (w.vbase + w.size ≤ a)) && !memoryBad s w.pbase w.size

/-- Where a victim goes: LPDDR6, or host memory when that tier is full and the page is not sealed (R131). -/
def evictTo (s : State) (part : Nat) (w : Walked) : Option Nat :=
  match freeFrame s part 1 w.size with
  | some a => some a
  | none => if pteSeal w.pte || sealedAt s w.pbase w.size then none else freeFrame s part 2 w.size

/-- Device time in ms of the last committed access to a page. -/
def lastAccess (s : State) (w : Walked) : Nat := (framesOf w.pbase w.size).foldl (fun n f => max n (tabGet s.touched f 0)) 0

/-- One page goes before another: passed by its windows first, then the older access, then the lower physical address. -/
def victimBefore (s : State) (l : List Window) (a b : Walked) : Bool :=
  let rank := fun (w : Walked) => (if passedBy l w then 0 else 1, lastAccess s w, w.pbase)
  let x := rank a
  let y := rank b
  decide (x.1 < y.1) || (x.1 == y.1 && (decide (x.2.1 < y.2.1) || (x.2.1 == y.2.1 && decide (x.2.2 < y.2.2))))

/-- The page to evict for a fault, and where it goes. -/
def victim (s : State) (part : Nat) (f : PageFault) : Option (Walked × Nat) :=
  let windows := openWindows s part
  let l := ((residentLeaves s part).filter (mayEvict s part (neededBy s f))).filterMap (fun w => (evictTo s part w).map (fun a => (w, a)))
  l.foldl (fun best x => match best with
    | none => some x
    | some b => if victimBefore s windows x.1 b.1 then some x else some b) none

/-- Move a victim by the steps of a migration (R127), in one step (log entry 117). -/
def evict (s : State) (part : Nat) (w : Walked) (dst : Nat) : State :=
  let (at_, n) := leafEntries w
  let s := shootDown (mapEntries s.takeFree part at_ n (fun _ e => e ||| 0x400#64)) part w.vbase w.size
  let s := copyFrame (abortHolders s w.pbase w.size) part w.pbase dst w.size
  let s := mapEntries s part at_ n (fun i e => movedEntry e (dst + i * entrySize w.size n) (tierOf dst))
  shootDown (moveSeals s part w.pbase dst w.size) part w.vbase w.size

/-- Neither of the two generations that an eviction steps to is in flight. -/
def mayShoot (s : State) (part : Nat) : Bool := !genBusy s part && !genInFlight s part ((s.part part).gen + 2)

/-! ## Answers to page faults (R124, R129) -/

/-- The page that a fault asks for is absent and no HBM4 frame of the partition is free. -/
def needsFrame (s : State) (part : Nat) (f : PageFault) : Bool := (leafOf s part f.va).isNone && (freeFrames s part 0 4096).isEmpty

/-- Write STATUS of a fault; the time held does not count for the watchdog. -/
def answerFault (s : State) (part : Nat) (f : PageFault) (status : Nat) : State :=
  let p := s.part part
  let s := firmwareWrite s (p.fqBase.toNat + 32 * f.slot + 28) (natToBytes 2 status)
  let s := { s with tasks := s.tasks.map (fun t =>
    if (pendingFaults s t).any (fun g => g.fseq == f.fseq) && taskPart s t == part then
      { t with excused := t.excused + (s.time - max f.time t.lastFire) } else t) }
  s.setPart part { s.part part with faults := (s.part part).faults.map (fun g => if g.fseq = f.fseq then { g with status := status } else g) }

/-- RESUME_DOORBELL (R124): STATUS of a posted fault is written and the agents that wait on it may go on. To resolve an absent page the PC
takes a free HBM4 frame, or evicts a victim, later when the shoot-down must wait (R122); when no frame can be freed the fault is
unserviceable (R129), and only then. -/
def execResumeDoorbell (part : BitVec 8) (fseq : BitVec 32) (status : BitVec 16) (s : State) : Result :=
  let n := part.toNat
  .next (match (s.part n).faults.find? (fun f => f.fseq == fseq.toNat && f.posted) with
    | none => s
    | some f =>
      match status.toNat, needsFrame s n f, victim s n f with
      | 1, true, some (w, dst) => if mayShoot s n then answerFault (evict s n w dst) n f 1 else s
      | 1, true, none => answerFault s n f 3
      | 1, false, _ => answerFault s n f 1
      | 2, _, _ => answerFault s n f 2
      | 3, true, none => answerFault s n f 3
      | _, _, _ => s)

end Sys2Proof.Machine
end

