-- ==== Sys2Proof/Machine/Host.lean ====
section
/-! DEFINITION. Machine/Host.lean: the host link (R305 to R308), registers that the host and the PC write (R15), device time, power and
telemetry (R232, R233, R312, R314). -/

namespace Sys2Proof.Machine

/-! ## DEVSTAT (Table 14-2) -/

/-- Change STATE: vector 0 is raised on every change (R308). -/
def setPlatState (s : State) (n : BitVec 3) : State :=
  if s.plat.state = n then s else sendMsi (s.modPlat (fun p => { p with state := n })) 0

/-- DEVSTAT as it reads. -/
def devstat (p : Plat) : Nat :=
  p.state.toNat + (if p.synclost then 8 else 0) + (if p.retire then 16 else 0) + 2 ^ 16 * p.boots.toNat

/-! ## The device-memory window (R307) -/

/-- Aperture of an offset: its register (Table 14-3). -/
def wapOf (s : State) (off : BitVec 36) : DWord := tabGet s.plat.waps (off.toNat / 2 ^ 32) 0

/-- The virtual address and partition that an offset reaches; none when the aperture is out of service. -/
def windowAddr (s : State) (off : BitVec 36) : Option (Nat × Nat) :=
  let w := (wapOf s off).toNat
  if bitSet w 0 then some (bits w 32 25 * 2 ^ 32 + off.toNat % 2 ^ 32, bits w 1 8) else none

/-- The host receives an answer. -/
def answerHost (s : State) (a : HostAnswer) : State := s.modPlat (fun p => { p with answers := p.answers ++ [a] })

/-- A request that cannot be performed: a posted write is dropped and logged, another receives a completer abort. -/
def refuseHost (s : State) (r : HostReq) : State :=
  if r.posted then s.log (.windowDropped r.off) else answerHost s .abort

/-- Perform a request at its address: done, waiting with the fault it waits on (0 at MIG), or refused. -/
def tryHost (s : State) (r : HostReq) : State × Option Nat :=
  let i := if r.write then writeIntent else readIntent
  match translateRange s [] r.part i (if r.len = 0 then [] else pagePieces r.off r.len) with
  | (s, _, .ok ps) =>
    if r.write then
      let w := ps.foldl (fun (acc : State × List Byte) p => (commitBytes acc.1 r.part p.1 (acc.2.take p.2), acc.2.drop p.2)) (s, r.data)
      (if r.posted then w.1 else answerHost w.1 (.data []), none)
    else (answerHost (ps.foldl (fun s p => touch s p.1 p.2) s) (.data (ps.flatMap (fun p => memBytes s.dmem p.1 p.2))), none)
  | (s, _, .error (_, .wait)) => (s, some 0)
  | (s, _, .error (va, .fail 1)) =>
    let (s, n) := raiseFault s r.part va i (faulterOf 3)
    (s, some n)
  | (s, _, .error _) => (refuseHost s r, none)

/-- Two requests reach a line in common. -/
def sameLines (a b : HostReq) : Bool :=
  a.part == b.part && decide (a.off / 64 ≤ (b.off + b.len) / 64) && decide (b.off / 64 ≤ (a.off + a.len) / 64)

/-- Start a request, behind earlier ones that wait for a line of it. -/
def startHost (s : State) (r : HostReq) : State :=
  let wait := fun (s : State) (n : Nat) => s.modPlat (fun p => { p with reqs := p.reqs ++ [{ r with fseq := n }] })
  if s.plat.reqs.any (sameLines r) then wait s 0
  else
    match tryHost s r with
    | (s, none) => s
    | (s, some n) => wait s n

/-- Try again what the PC has answered, or what waits at MIG or behind others, oldest first. -/
def serveHost (s : State) : List HostReq → State
  | [] => s
  | r :: rest =>
    let earlier := (s.plat.reqs.takeWhile (fun q => q != r)).any (sameLines r)
    let drop := fun (s : State) => s.modPlat (fun p => { p with reqs := p.reqs.erase r })
    let again := fun (s : State) =>
      match tryHost s r with
      | (s, none) => drop s
      | (s, some n) => s.modPlat (fun p => { p with reqs := p.reqs.map (fun q => if q = r then { q with fseq := n } else q) })
    if earlier then serveHost s rest
    else if r.fseq = 0 then serveHost (again s) rest
    else
      match faultStatus s r.part r.fseq with
      | 0 => serveHost s rest
      | 1 => serveHost (again (dropFault s r.part r.fseq)) rest
      | _ => serveHost (refuseHost (drop (dropFault s r.part r.fseq)) r) rest

/-- A request of the host at an offset. -/
def hostRequest (s : State) (off : BitVec 36) (data : List Byte) (len : Nat) (write posted : Bool) : State :=
  let r : HostReq := { off := off.toNat, data := data, len := len, write := write, posted := posted, fseq := 0, part := 0, time := s.time }
  match windowAddr s off with
  | none => refuseHost s r
  | some (va, part) => startHost s { r with off := va, part := part }

/-- HOST_WINDOW_WRITE (R307). -/
def execHostWindowWrite (off : BitVec 36) (data : List (BitVec 8)) (posted : Bool) (s : State) : Result :=
  .next (hostRequest s off data data.length true posted)

/-- HOST_WINDOW_READ (R307). -/
def execHostWindowRead (off : BitVec 36) (len : Nat) (s : State) : Result := .next (hostRequest s off [] len false false)

/-- A non-posted request whose fault has been pending for 20 ms. -/
def hostOverdue (s : State) (r : HostReq) : Bool :=
  !r.posted && r.fseq != 0 && faultStatus s r.part r.fseq == 0 && decide (r.time + 20000000 ≤ s.time)

/-- HOST_REQUEST_TIMEOUT (R307): a completer abort; the fault record stays with the PC. -/
def execHostRequestTimeout (s : State) : Result :=
  .next (match s.plat.reqs.find? (hostOverdue s) with
    | none => s
    | some r => answerHost (s.modPlat (fun p => { p with reqs := p.reqs.erase r })) .abort)

/-! ## Registers (R15) -/

/-- A write of a queue's first register (Table 6-1): EN from 0 to 1 and to 0 act as R159 says. -/
def writeQueueCtl (s : State) (q : BitVec 12) (v : DWord) : State :=
  let x := v.toNat
  let en := bitSet x 0
  let s := s.modQueue q (fun w =>
    { w with prio := BitVec.ofNat 3 (bits x 1 3), evt := bitSet x 4, evsq := BitVec.ofNat 6 (bits x 5 6)
             ringsz := BitVec.ofNat 4 (bits x 11 4) })
  if en && !(s.queue q).en then s.modQueue q (fun w => { w with en := true, acc := 0, halt := false, hcode := 0, tail := 0, fault := none })
  else s.modQueue q (fun w => { w with en := en })

/-- What the 8 bytes at an offset of a queue's register block read as (Table 6-1): TAIL and reserved bits read 0. -/
def WorkQueue.read (w : WorkQueue) (off : Nat) : DWord :=
  match off with
  | 0x00 => BitVec.ofNat 64 ((if w.en then 1 else 0) + 2 * w.prio.toNat + (if w.evt then 16 else 0) + 32 * w.evsq.toNat + 2 ^ 11 * w.ringsz.toNat
      + 2 ^ 15 * w.part.toNat)
  | 0x08 => w.pos
  | 0x18 => w.cbase
  | 0x20 => w.ctail.setWidth 64
  | 0x28 => w.chead.setWidth 64
  | 0x30 => BitVec.ofNat 64 ((if w.halt then 1 else 0) + 16 * w.hcode.toNat + 2 ^ 32 * w.acc.toNat)
  | _ => 0

/-- A write of PWRCAP (Table 14-6): 300 to 2,000 W; another value is ignored and logged. -/
def writePwrcap (s : State) (v : DWord) : State :=
  let w := v.toNat % 4096
  if 300 ≤ w ∧ w ≤ 2000 then s.modPlat (fun p => { p with capw := BitVec.ofNat 12 w }) else s.log (.capIgnored w)

/-- Room in the fault queue lets the faults held enter it. -/
def writePxfq (s : State) (part : Nat) (v : DWord) : State :=
  let x := v.toNat
  let s := s.modPart part (fun p => { p with fqHead := BitVec.ofNat 11 x, fqBase := BitVec.ofNat 52 (bits x 15 37 * 2 ^ 15) })
  postFaults s part (s.part part).faults.length

/-- LSPAIR (Table 11-5): BROKEN clears on 1, MISCNT is read-only. -/
def writeLspair (old v : DWord) : DWord :=
  BitVec.ofNat 64 (v.toNat % 2 ^ 17 + (if bitSet old.toNat 17 && !bitSet v.toNat 17 then 2 ^ 17 else 0) + old.toNat / 2 ^ 32 * 2 ^ 32)

/-- A write to a platform register, field by field. -/
def writeReg (s : State) (reg : PlatReg) (v : DWord) : State :=
  let x := v.toNat
  match reg with
  | .queueCtl q => writeQueueCtl s q v
  | .queuePart q => s.modQueue q (fun w => { w with part := BitVec.ofNat 8 (bits x 15 8) })
  | .queuePos q => if (s.queue q).en then s else s.modQueue q (fun w => { w with pos := v })
  | .queueCbase q => s.modQueue q (fun w => { w with cbase := v })
  | .queueStat _ => s
  | .devstat => if bitSet x 4 then s.modPlat (fun p => { p with retire := false }) else s
  | .msiqv q => s.modQueue q (fun w => { w with msi := BitVec.ofNat 16 (bits x 0 11 + bits x 15 1 * 2 ^ 15) })
  | .pwrcap => writePwrcap s v
  | .wap n => s.modPlat (fun p => { p with waps := tabSet p.waps n.toNat (BitVec.ofNat 64 (bits x 0 9 + bits x 32 25 * 2 ^ 32)) 0 })
  | .pxroot part => s.modPart part.toNat (fun p => { p with pxen := bitSet x 0, root := BitVec.ofNat 52 (bits x 12 40 * 4096) })
  | .pxfq part => writePxfq s part.toNat v
  | .pfrec part => s.modPart part.toNat (fun p => { p with frHead := BitVec.ofNat 11 x, frBase := BitVec.ofNat 52 (bits x 16 36 * 2 ^ 16) })
  | .ptrace part => s.modPart part.toNat (fun p => { p with ptrace := BitVec.ofNat 64 (bits x 0 6 + bits x 12 40 * 4096) })
  | .ptrcb part => s.modPart part.toNat (fun p => { p with ptrcb := BitVec.ofNat 64 (bits x 6 46 * 64) })
  | .lspair => s.modPlat (fun p => { p with lspair := writeLspair p.lspair v })
  | .mbxbase =>
    let base := bits x 21 31 * 2 ^ 21
    -- no partition owns the pool (R119, R249)
    if inTier 0 base (2 ^ 21) && tabGet s.frames (base / 2 ^ 21) 0 == 0 then s.modPlat (fun p => { p with mbxbase := BitVec.ofNat 52 base }) else s
  | .engineStalls blk eng => { s with stalls := tabSet s.stalls (blk.toNat * 4 + eng.toNat) EngStalls.reset EngStalls.reset }

/-- PWRCAP as it reads (Table 14-6). -/
def pwrcapWord (p : Plat) : Nat := p.capw.toNat + 2 ^ 16 * p.noww.toNat + (if p.limited then 2 ^ 28 else 0)

/-- A platform register as it reads (Tables 4-4, 4-5, 6-1, 10-3, 11-5, 11-6, 14-2, 14-3, 14-6). -/
def readReg (s : State) (reg : PlatReg) : DWord :=
  match reg with
  | .queueCtl q => (s.queue q).read 0x00
  | .queuePart q => (s.queue q).read 0x00
  | .queuePos q => (s.queue q).read 0x08
  | .queueCbase q => (s.queue q).read 0x18
  | .queueStat q => (s.queue q).read 0x30
  | .devstat => BitVec.ofNat 64 (devstat s.plat)
  | .msiqv q => (s.queue q).msi.setWidth 64
  | .pwrcap => BitVec.ofNat 64 (pwrcapWord s.plat)
  | .wap n => tabGet s.plat.waps n.toNat 0
  | .pxroot part => let p := s.part part.toNat; BitVec.ofNat 64 ((if p.pxen then 1 else 0) + p.root.toNat + 2 ^ 52 * p.gen.toNat)
  | .pxfq part => let p := s.part part.toNat; BitVec.ofNat 64 (p.fqHead.toNat + p.fqBase.toNat + 2 ^ 52 * p.fqTail.toNat)
  | .pfrec part => let p := s.part part.toNat; BitVec.ofNat 64 (p.frHead.toNat + p.frBase.toNat + 2 ^ 52 * p.frTail.toNat)
  | .ptrace part => (s.part part.toNat).ptrace
  | .ptrcb part => (s.part part.toNat).ptrcb
  | .lspair => s.plat.lspair
  | .mbxbase => s.plat.mbxbase.setWidth 64
  | .engineStalls blk eng => BitVec.ofNat 64 (tabGet (tabGet s.stalls (blk.toNat * 4 + eng.toNat) EngStalls.reset).counts 0 0)

/-- What an offset of a BAR reaches (Table 14-1). -/
inductive BarPlace where
  | reg (r : PlatReg)
  | mailbox (byte : Nat)
  | doorbell (q : BitVec 12)
  | chead (q : BitVec 12)
  | msixTable (vector : Nat)
  | msixPending (vector : Nat)
  | telemetry (word : Nat)
  | window (off : BitVec 36)
  | none
deriving DecidableEq, Repr

/-- The layout of the BARs; a queue's register block is 64 bytes (R159, R306). -/
def barPlace (bar off : Nat) : BarPlace :=
  let queue := fun (q : BitVec 12) (o : Nat) =>
    match o with
    | 0x00 => BarPlace.reg (.queueCtl q)
    | 0x08 => .reg (.queuePos q)
    | 0x10 => .doorbell q
    | 0x18 => .reg (.queueCbase q)
    | 0x20 => .reg (.queueStat q)
    | 0x28 => .chead q
    | 0x30 => .reg (.queueStat q)
    | _ => .none
  match bar with
  | 0 =>
    if off = 0 then .reg .devstat
    else if 0x1000 ≤ off ∧ off < 0x1040 then .mailbox (off - 0x1000)
    else if 0x10000 ≤ off ∧ off < 0x18000 then .msixTable ((off - 0x10000) / 16)
    else if 0x18000 ≤ off ∧ off < 0x18100 then .msixPending ((off - 0x18000) * 8)
    else if 0x20000 ≤ off ∧ off < 0x22000 then .reg (.msiqv (BitVec.ofNat 12 ((off - 0x20000) / 2)))
    else if off = 0x40000 then .reg .pwrcap
    else if 0x40000 < off ∧ off < 0x40100 then .telemetry ((off - 0x40004) / 4)
    else if 0x100000 ≤ off ∧ off < 0x100200 ∧ off % 32 = 0 then .reg (.wap (BitVec.ofNat 4 ((off - 0x100000) / 32)))
    else .none
  | 2 => if off < 2 ^ 18 then queue (BitVec.ofNat 12 (off / 64)) (off % 64) else .none
  | 4 => if off < 2 ^ 36 then .window (BitVec.ofNat 36 off) else .none
  | _ => .none

/-- A host read of 8 bytes of a register block: what has no register reads 0 (R16). -/
def hostRead (s : State) (bar off : Nat) : DWord :=
  match bar, barPlace bar off with
  | 2, _ => if off < 2 ^ 18 then (s.queue (BitVec.ofNat 12 (off / 64))).read (off % 64) else 0
  | _, .reg r => readReg s r
  | _, _ => 0

/-- REGISTER_WRITE (R15). -/
def execRegisterWrite (reg : PlatReg) (v : BitVec 64) (s : State) : Result := .next (writeReg s reg v)

/-! ## Device time (R312) -/

/-- TIME_SYNC: before STATE is ready the counter is set; afterwards it never steps backward, and an offset is removed by slewing at no
more than 200 ppm of the time since the last message. -/
def execTimeSync (master : BitVec 64) (s : State) : Result :=
  let m := master.toNat
  let slew := (s.time - s.plat.lastSync) * 200 / 1000000
  let t := if s.plat.state = 2 then min (max m s.time) (s.time + slew) else m
  .next ({ s with time := t }.modPlat (fun p => { p with lastSync := t, synclost := false }))

/-- SYNCLOST: 10 s without synchronisation. -/
def execSynclost (s : State) : Result :=
  .next (if s.plat.lastSync + 10000000000 ≤ s.time then s.modPlat (fun p => { p with synclost := true }) else s)

/-! ## Power, sensors, margins (R5, R232, R233, R314) -/

/-- SENSOR_POLL (R232): issue rates are lowered on a die past its thermal limit. -/
def execSensorPoll (hot : BitVec 4) (s : State) : Result :=
  .next (s.modPlat (fun p => { p with rateLim := hot != 0, limited := p.limited || hot != 0 }))

/-- POWER_WINDOW (R314): NOWW takes the mean power of the last 10 ms, and LIMITED says whether rates are lowered. -/
def execPowerWindow (watts : BitVec 12) (s : State) : Result :=
  .next (s.modPlat (fun p => { p with noww := watts, limited := p.rateLim || decide (p.capw.toNat < watts.toNat) }))

/-- A tile leaves the placement from now on. -/
def retireTile (s : State) (site : SiteNo) : State :=
  ((s.modSite site (fun t => { t with retiredTile := true })).log (.retiredTile site.toNat)).modPlat (fun p => { p with retire := true })

/-- Re-plan the margin of a die: its supply offset is set, a record is appended, and tiles whose margin cannot be met at +60 mV are retired. -/
def replanDie (die : BitVec 2) (offset : BitVec 8) (margin : BitVec 16) (tiles : List (BitVec 13)) (s : State) : State :=
  let bad := tiles.filter (fun t => siteExists t && t.extractLsb' 11 2 == die)
  let mv := min offset.toNat 60
  let g : Guardband := { time := s.time, die := die.toNat, mv := mv, ps := margin.toNat, tiles := bad.length }
  bad.foldl retireTile (s.modPlat (fun p => { p with guard := p.guard ++ [g], supply := tabSet p.supply die.toNat mv 0, planned := s.time }))

/-- GUARDBAND_REPLAN (R233): the PC re-plans the margin of a die. -/
def execGuardbandReplan (die : BitVec 2) (offset : BitVec 8) (margin : BitVec 16) (tiles : List (BitVec 13)) (s : State) : Result :=
  .next (replanDie die offset margin tiles s)

/-- Re-plan every die; what the ring oscillators show is free (R233; log entry 122). -/
def replanAll (s : State) : State :=
  [0#2, 1#2, 2#2, 3#2].foldl (fun s d =>
    let x := Config.freeValue s.free
    replanDie d (BitVec.ofNat 8 (x.toNat % 61)) (x.extractLsb' 16 16) (Config.weakTiles s.free) s.takeFree) s

/-- Banks and tiles retired so far. -/
def retiredTotals (s : State) : Nat × Nat :=
  s.sites.foldl (fun n p =>
    (n.1 + p.2.ax.retired.foldl (fun k g => k + g.2.length) 0, n.2 + (if p.2.retiredTile then 1 else 0))) (0, 0)

end Sys2Proof.Machine
end

