-- ==== Sys2Proof/Machine/Mesh.lean ====
section
/-! DEFINITION. Machine/Mesh.lean: tokens that arrive over the mesh (R29, R31, R36, R87, R89), token breakpoints (R251 to R253),
channel-slot counters (R258), and the links of die edges and Rilub ports (R91, R310). -/

namespace Sys2Proof.Machine

/-! ## Breakpoints (R251, R252) -/

/-- What a breakpoint says of a token that arrives at its slot: TCNT after it, and whether it matches. -/
def brkMatch (r : ElemCtx) (d : Nat) (b : Brk) (t : Token) : Bool :=
  let c := r.field (pageKey 3 (4 * d))
  let want := r.field (pageKey 3 (4 * d + 1))
  bitSet c 0 && !b.hit && (t.kind == .data || t.kind == .header)
    && (if bitSet c 1 then (b.tcnt + 1) % 2 ^ 32 == (want + 1) % 2 ^ 32
        else t.seq.toNat == want % 2 ^ 20 && t.wrap.toNat == r.field (pageKey 3 (4 * d + 2)))

/-- A breakpoint hits: the slot holds, HIT is set, a BREAK record is posted and the region is to be cut (R252). -/
def brkHit (s : State) (site : SiteNo) (ctx : BitVec 2) (d : Nat) (t : Token) : State :=
  let ea := siteEa site 1
  let s := s.modElem ea ctx (fun r => { r with brk := tabMod r.brk d Brk.zero (fun b => { b with hit := true, holds := true }) })
  let s := traceEvent (raiseRecord s ea ctx false { faultInfo 12 0 7 t with slot := d }) ea ctx 2 t
  match (s.elem ea ctx).task with
  | some uid => beginCut s uid 4
  | none => s

/-! ## Arrival (R89) -/

/-- Log a misrouted token in RTLOG and post its record. -/
def misroute (s : State) (site : SiteNo) (ctx : BitVec 2) (d : Nat) (t : Token) (rsv : Bool) : State :=
  let s := s.modSite site (fun x =>
    { x with miscnt := satAdd16 x.miscnt 1, lslot := BitVec.ofNat 4 (4 * d + ctx.toNat), lroute := t.route, rsvhit := rsv })
  loggedRecord s (siteEa site 1) ctx { faultInfo 8 0 7 t with slot := d }

/-- The check of a token that a mesh direction brings: ROUTEID against DIN, then the reserved sideband bits. Of a token that offends in both
the ROUTEID is logged, with RSVHIT 0: the spec does not say which (DESIGN CHOICE, log entry 111). -/
def arrivalCheck (s : State) (site : SiteNo) (ctx : BitVec 2) (d : Nat) (t : Token) : State × Token :=
  let din := (s.elem (siteEa site 1) ctx).field (16 + d)
  let wrong := bitSet din 10 && t.route.toNat != din % 2 ^ 10
  let rsv := t.rsv != 0
  if wrong || rsv then (misroute s site ctx d t (!wrong), t.tag) else (s, t)

/-- Deliver a token that stands at an inbound slot. -/
def arriveData (s : State) (site : SiteNo) (ctx : BitVec 2) (d : Nat) (t : Token) : State :=
  let (s, t) := arrivalCheck s site ctx d t
  let (s, t) := receiveToken s (siteEa site 1) ctx d t
  let counts := t.kind == .data || t.kind == .header
  let s := s.modElem (siteEa site 1) ctx (fun r =>
    if counts then { r with brk := tabMod r.brk d Brk.zero (fun b => { b with tcnt := (b.tcnt + 1) % 2 ^ 32 }) } else r)
  deliverData s site ctx d t

/-- Contexts of a sender whose slot of a channel holds tokens, but one: the channel serves another slot (R258). -/
def countOthers (s : State) (m : SiteNo) (o : Nat) (ctx : BitVec 2) : State :=
  [0#2, 1#2, 2#2, 3#2].foldl (fun s c =>
    if c = ctx then s
    else s.modElem (siteEa m 1) c (fun e => if (tabGet e.outq o []).isEmpty then e else countSlot e o 2 1)) s

/-- The marker of a cut has gone ahead of a hit slot's tokens: they follow it, so that the consumers save them in order (R253, R254). -/
def passHit (s : State) (site : SiteNo) (ctx : BitVec 2) (d : Nat) : State :=
  s.modElem (siteEa site 1) ctx (fun r => { r with brk := tabMod r.brk d Brk.zero (fun b => { b with holds := false }) })

/-- A data channel moves one token of a context from a neighbour's slot. -/
def arriveDataAt (s : State) (site m : SiteNo) (ctx : BitVec 2) (d : Nat) : State :=
  let o := (d + 2) % 4
  let p := s.elem (siteEa m 1) ctx
  let r := s.elem (siteEa site 1) ctx
  let b := tabGet r.brk d Brk.zero
  let room := roomAt s site ctx r.task .data d
  let pop := fun (s : State) => countOthers (s.modElem (siteEa m 1) ctx (fun e =>
    countSlot { e with outq := tabSet e.outq o (tabGet e.outq o []).tail [] } o 0 1)) m o ctx
  let across := fun (t : Token) (f : State → State) => let x := crossLink s m site t.pay; if x.2 then f (pop x.1) else x.1
  if p.task ≠ r.task then s
  else match r.queue (8 + d), b.holds, tabGet p.outq o [] with
    | t :: rest, false, _ =>
      -- tokens that a hit had held go first (R253, R254)
      if room then arriveData (s.modElem (siteEa site 1) ctx (fun r => r.setQueue (8 + d) rest)) site ctx d t else s
    | _, _, [] => s
    | held, true, t :: _ =>
      -- behind a hit tokens wait; the marker of a cut overtakes them (R253)
      if !beingCut s r then s
      else if t.kind = .cut then (if room then across t (fun s => passHit (arriveData s site ctx d t) site ctx d) else s)
      else across t (fun s => s.modElem (siteEa site 1) ctx (fun r => r.setQueue (8 + d) (held ++ [t])))
    | [], false, t :: _ =>
      if brkMatch r d b t then brkHit s site ctx d t
      else if room then across t (fun s => arriveData s site ctx d t)
      else s.modElem (siteEa m 1) ctx (fun e => countSlot e o 1 1)

/-- A control channel moves one token of a context from a neighbour's slot. -/
def arriveCtlAt (s : State) (site m : SiteNo) (ctx : BitVec 2) (d : Nat) : State :=
  let o := (d + 2) % 4
  let p := s.elem (siteEa m 1) ctx
  let r := s.elem (siteEa site 1) ctx
  match tabGet p.outc o [] with
  | [] => s
  | c :: rest =>
    if p.task = r.task ∧ roomAt s site ctx r.task .ctl d then
      let x := crossLink s m site 0
      if x.2 then deliverCtl (x.1.modElem (siteEa m 1) ctx (fun e => { e with outc := tabSet e.outc o rest [] })) site ctx d c else x.1
    else s

/-- One token of a context comes in from a neighbour, if it can. -/
def arriveAt (s : State) (site m : SiteNo) (ctx : BitVec 2) (d : Nat) (ctl : Bool) : State :=
  if ctl then arriveCtlAt s site m ctx d else arriveDataAt s site m ctx d

/-- Tokens in a context's slot of the channel from a neighbour. -/
def slotHolds (s : State) (m : SiteNo) (ctx : BitVec 2) (d : Nat) (ctl : Bool) : Nat :=
  let e := s.elem (siteEa m 1) ctx
  let o := (d + 2) % 4
  if ctl then (tabGet e.outc o []).length else (tabGet e.outq o []).length

/-- The channel would serve the slot of a context: a token leaves it. -/
def slotServed (s : State) (site m : SiteNo) (d : Nat) (ctl : Bool) (ctx : BitVec 2) : Bool :=
  decide (slotHolds (arriveAt s site m ctx d ctl) m ctx d ctl < slotHolds s m ctx d ctl)

/-- Key of a channel's round-robin pointer. -/
def channelKey (d : Nat) (ctl : Bool) : Nat := 2 * d + (if ctl then 1 else 0)

/-- The slot that a channel serves in this fc: the first one, from its pointer round, that has a token and room downstream (R87). -/
def channelTurn (s : State) (site m : SiteNo) (d : Nat) (ctl : Bool) : Option (BitVec 2) :=
  let start := BitVec.ofNat 2 (tabGet (s.site site).rr (channelKey d ctl) 0)
  ([0#2, 1#2, 2#2, 3#2].map (start + ·)).find? (slotServed s site m d ctl)

/-- TOKEN_ARRIVE (R89): one token of a context comes in on a mesh direction; the channel looks at the next context's slot first in the
next fc (R87). -/
def execTokenArrive (site : BitVec 13) (dir : BitVec 2) (ctx : BitVec 2) (ctl : Bool) (s : State) : Result :=
  if siteExists site then
    .next (match siteNeighbour site dir with
      | none => s
      | some m =>
        let t := arriveAt s site m ctx dir.toNat ctl
        if slotHolds t m ctx dir.toNat ctl < slotHolds s m ctx dir.toNat ctl then
          t.modSite site (fun x => { x with rr := tabSet x.rr (channelKey dir.toNat ctl) (ctx + 1).toNat 0 })
        else t)
  else .fault .noSuchUnit

/-! ## Links (R91, R310) -/

/-- FLIT_RECEIVE (R91). -/
def execFlitReceive (link : BitVec 8) (flit : Flit) (s : State) : Result :=
  let l := s.link link.toNat
  .next (if l.down || !flitWhole flit then s else s.setLink link.toNat (l.receive flit))

/-- Element address that a fatal error of die edge k reports: the router at the edge's first site (log entry 69). -/
def dieLinkEa (k : Nat) : EAddr :=
  siteEa (match k with
    | 32 => siteAt 0 39 | 33 => siteAt 0 40 | 34 => siteAt 32 39 | 35 => siteAt 32 40
    | 36 => siteAt 31 0 | 37 => siteAt 32 0 | 38 => siteAt 31 40 | _ => siteAt 32 40) 1

/-- FLIT_RETRANSMIT (R91): the timeout of unacknowledged flits; they are sent again and stay until they are acknowledged. Over a die edge the
retry fails while the outside world corrupts it, and the 64th failure in a row is fatal (R230), under a cause code that is open. -/
def execFlitRetransmit (link : BitVec 8) (s : State) : Result :=
  let k := link.toNat
  let l := s.link k
  .next (if l.down || l.unacked.isEmpty then s
    else if k < 32 then s.setLink k l.resend
    else if l.lossy = 0 then s.setLink k { l with unacked := [] }
    else
      let s := s.setLink k { l with lossy := l.lossy - 1, fails := l.fails + 1 }
      if l.fails + 1 = 64 then
        { s.takeFree with burst := .event .none (.fatalError ((Config.freeValue s.free).setWidth 32) (dieLinkEa k)) :: s.burst }
      else s)

/-- The collective engine's queues whose entry is under way lose a flit with a port: status 2. -/
def loseFlits (s : State) : State :=
  { s with engines := s.engines.foldl (fun t p =>
      tabSet t p.1 (if p.2.eng = 1 ∧ p.2.status.isSome then { p.2 with status := some 2 } else p.2) EngQueue.reset) [] }

/-- PORT_DOWN (R310): 64 consecutive retries have failed; the PC logs the port. -/
def execPortDown (port : BitVec 5) (s : State) : Result :=
  let l := s.link port.toNat
  .next (if 18 ≤ port.toNat ∨ l.down ∨ l.fails < 64 then s
    else
      let s := if l.unacked.isEmpty then s else loseFlits s
      (s.setLink port.toNat { l with down := true, unacked := [] }).log (.portDown port.toNat))

end Sys2Proof.Machine
end

