-- ==== Sys2Proof/Machine/Platform.lean ====
section
/-! DEFINITION. Machine/Platform.lean: boot and attestation (R313), resets, fatal errors (R230, R231), partitions (R106, R119, R132)
and the operations of the PC mailbox (R309). -/

namespace Sys2Proof.Machine

/-! ## Boot (R313) -/

/-- A 4,096-bit number as big-endian bytes. -/
def keyBytes (k : BitVec 4096) : List Byte := beBytes 512 k.toNat

/-- A key is the one whose digest the fuses hold. -/
def fusedKey (k : BitVec 4096) : Bool := digestLine (sha512 (keyBytes k)) == Config.fuseKey

/-- The boot ROM accepts an image: key, signature over its SHA-512 digest, security version. -/
def firmwareOk (fw : Firmware) : Bool :=
  fusedKey fw.modulus && rsaVerifies fw.modulus.toNat rsaExponent fw.sig.toNat (sha512 fw.image) && decide (Config.fuseVersion ≤ fw.version)

/-- M after one more stage: SHA-512({M, digest}). -/
def measure (m : Line) (image : List Byte) : Line := digestLine (sha512 (lineBytes m ++ sha512 image))

/-- Boot with an image: measured, ready and its voltage margins planned (R233), or failed. -/
def bootWith (s : State) (fw : Firmware) : State :=
  if firmwareOk fw then replanAll (setPlatState (s.modPlat (fun p => { p with meas := measure 0 fw.image })) 2) else setPlatState s 4

/-- What a site keeps across a device reset: the retirement log is reapplied at every boot (R208). -/
def keptSites (s : State) : Tab Site := s.sites.foldl (fun t p => tabSet t p.1 p.2.cleared Site.reset) []

/-- The machine after a device reset, before the boot ROM has judged the firmware: everything at its reset value but what the module
remembers: retired banks and tiles, the guardband log, the unload records, the boot count; device time and the coming moves go on. -/
def resetDevice (s : State) : State :=
  { State.reset with
    time := s.time, sites := keptSites s, focus := s.focus, agenda := s.agenda, burst := s.burst, turn := s.turn, elapse := s.elapse
    free := s.free
    plat := { Plat.reset with boots := s.plat.boots + 1, guard := s.plat.guard, unloads := s.plat.unloads, lastSync := s.time } }

/-- DEVICE_RESET (R313). -/
def execDeviceReset (fw : Firmware) (s : State) : Result := .next (bootWith (resetDevice s) fw)

/-- SIGNED_RECOVERY_IMAGE (R313): after a failed boot, and only then. -/
def execSignedRecoveryImage (fw : Firmware) (s : State) : Result :=
  .next (if s.plat.state = 4 && firmwareOk fw then bootWith s fw else s)

/-! ## Sequencers (R106) -/

/-- The loader of a sequencer stops, and the elements it holds are let go. -/
def freeLoader (s : State) (b : BitVec 6) : State :=
  let mine := streamId (.loader b)
  { s with ports := s.ports.foldl (fun t p => tabSet t p.1 (if p.2.owner = mine then CfgPort.reset else p.2) CfgPort.reset) [] }

/-- Halt a sequencer and discard what it was doing; stores whose instruction is over are performed. Every register holds its reset value. -/
def haltSq (s : State) (b : BitVec 6) : State :=
  let s := performAll (freeLoader (withdraw s b) b) b
  s.modSq b (fun q => { Sq.reset with evSeq := q.evSeq, evHeld := q.evHeld, failed := q.failed })

/-- Start a sequencer at an entry address, in supervisor mode with SQ.STATUS and the instruction cache as after reset. -/
def startSq (s : State) (part : BitVec 8) (entry : DWord) (b : BitVec 6) : State :=
  let s := s.modSq b (fun q =>
    { q with run := true, pc := entry, priv := true, ie := false, ppl := false, pie := false, divz := false, icache := [], hold := none
             within := false, part := part })
  drainEvents s b (s.sq b).evHeld.length

/-- Blocks that an operation on a partition, or on one of its blocks, concerns. -/
def namedBlocks (s : State) (part : BitVec 8) (blk : Option (BitVec 6)) : List (BitVec 6) :=
  let l := ((s.part part.toNat).blocks.map (BitVec.ofNat 6))
  match blk with
  | none => l
  | some b => l.filter (· == b)

/-- PARTITION_RESET (R106, R242): its sequencers come out halted, and its cuts are numbered from 1 again. -/
def execPartitionReset (part : BitVec 8) (s : State) : Result :=
  let s := (namedBlocks s part none).foldl (fun s b => (haltSq s b).setSq b Sq.reset) s
  .next (s.modPart part.toNat (fun p => { p with cutno := 0 }))

/-- Bytes of device memory set to zero. -/
def zeroFill (s : State) (p : Nat → Bool) : State := { s with dmem := s.dmem.filter (fun c => !p c.1) }

/-- PARTITION_DESTROY (R132): sealed frames are zero-filled, their marks cleared, the sealing log emptied. -/
def execPartitionDestroy (part : BitVec 8) (s : State) : Result :=
  let l := (s.part part.toNat).sealedVa.flatMap (fun r => framesOf r.2.2 r.2.1)
  let s := zeroFill s (fun a => l.contains (a / 4096))
  .next ({ s with sealed := s.sealed.filter (fun f => !l.contains f) }.modPart part.toNat (fun p => { p with seals := [], sealedVa := [] }))

/-! ## Fatal errors (R230, R231) -/

/-- First address of the dump (R231). -/
def dumpBase : Nat := 0x59582F0000

/-- A barrier object as its 32 bytes (Table 10-8). -/
def Barrier.bytes (b : Barrier) : List Byte :=
  natToBytes 4 (b.exp.toNat + (if b.evt then 2 ^ 24 else 0) + 2 ^ 25 * b.evsq.toNat + (if b.en then 2 ^ 31 else 0))
    ++ natToBytes 4 (b.part.toNat + (if b.park then 256 else 0)) ++ natToBytes 4 b.arr.toNat ++ natToBytes 4 b.phase.toNat
    ++ natToBytes 8 b.mbox.toNat ++ natToBytes 8 0

/-- A guardband record (R233). -/
def Guardband.bytes (g : Guardband) : List Byte :=
  natToBytes 8 g.time ++ natToBytes 1 g.die ++ natToBytes 1 g.mv ++ natToBytes 2 g.ps ++ natToBytes 4 g.tiles ++ natToBytes 16 0

/-- An entry of the PC error log as 16 bytes: what happened, and of what (DESIGN CHOICE, log entry 123). -/
def PcLog.bytes (l : PcLog) : List Byte :=
  let (code, a, b) : Nat × Nat × Nat := match l with
    | .sqHalted x => (1, x, 0)
    | .windowDropped x => (2, x, 0)
    | .mtcfgIgnored x => (3, x, 0)
    | .retiredBank x y => (4, x, y)
    | .retiredTile x => (5, x, 0)
    | .portDown x => (6, x, 0)
    | .capIgnored x => (7, x, 0)
    | .firmwareRefused x => (8, x, 0)
    | .fatal x y => (9, x, y)
    | .mailbox x y => (10, x, y)
  natToBytes 2 code ++ natToBytes 8 a ++ natToBytes 6 b

/-- The retirement log: retired banks, and 255 for a tile, each with its site, in 8 bytes. -/
def retirementBytes (s : State) : List Byte :=
  s.sites.flatMap (fun p =>
    let one := fun (b : Nat) => natToBytes 4 p.1 ++ natToBytes 4 b
    (p.2.ax.retired.flatMap (fun g => g.2.flatMap (fun i => one (if i = 4 then 16 + g.1 else 4 * g.1 + i)))) ++ (if p.2.retiredTile then one 255 else []))

/-- The task of a TD slot in 256 bytes: its numbers, place, counts and cut, and how much it holds. -/
def Task.bytes (t : Task) : List Byte :=
  let l := natToBytes 8 t.uid ++ natToBytes 2 t.row0 ++ natToBytes 2 t.col0 ++ natToBytes 2 t.rho ++ natToBytes 2 (if t.poisoned then 1 else 0)
    ++ natToBytes 4 t.aborts ++ natToBytes 4 t.preempts ++ natToBytes 8 t.wstores ++ natToBytes 4 t.repaired ++ natToBytes 4 t.repair.length
    ++ natToBytes 4 t.cutNo.toNat ++ natToBytes 4 t.cutWhy.toNat ++ natToBytes 8 t.cb.length ++ natToBytes 8 t.lastFire
  l ++ List.replicate (256 - l.length) 0

/-- Status and counters of element k of a site in 64 bytes. -/
def statusBytes (s : State) (site : SiteNo) (k : Nat) : List Byte :=
  let t := s.site site
  let err := fun (i : Nat) => tabGet t.ecnt i 0 + 2 ^ 16 * tabGet t.ecnt (i + 1) 0
  let words : List Nat := match k with
    | 0 => [err 0, ctstat t] ++ (List.range 4).map (fun c => tabGet t.skip c 0)
    | 1 => [err 2, rtlog t]
    | 2 => if siteIsMt site then (List.range 4).map (fun c => (s.channel (site.toNat * 4 + c)).stat.toNat) else []
    | _ => if siteIsMt site then (List.range 16).map (fun f => (readParity s site f).toNat) else []
  words.flatMap (natToBytes 4) ++ List.replicate (64 - 4 * words.length) 0

/-- The memory tiles in ascending FSA order. -/
def fsaTiles : List SiteNo := (List.range 1024).map (fun i => fsaSite (i * 2 ^ 21))

/-- The save area of a tile. -/
def saveBytes (s : State) (site : SiteNo) : List Byte := (List.range 65536).map (fun i => memByte s.spad (saveKey site i))

/-- Tiles of which scratchpad lists anything. -/
def listedTiles (s : State) : List Nat := (s.spad.map (fun c => c.1 / 2 ^ 21)).dedup

/-- Put bytes at an offset of the dump. -/
def dumpAt (off : Nat) (l : List Byte) (s : State) : State := { s with dmem := memSetBytes s.dmem (dumpBase + off) l }

/-- The dump (Table 9-4), DONE last. The spec gives no layout of the records within the logs, the task slots and the status words: it is the model's,
and what the sensors show is free (DESIGN CHOICE, log entry 123). -/
def writeDump (s : State) (cause : Word) (ea : EAddr) (slots : List (Nat × List Byte)) : State :=
  let header := natToBytes 8 (bytesToNat [0x4F, 0x5A, 0x44, 0x55, 0x4D, 0x50, 0x30, 0x31]) ++ natToBytes 8 s.time ++ natToBytes 4 cause.toNat
    ++ natToBytes 2 ea.toNat ++ natToBytes 2 1 ++ natToBytes 8 s.plat.boots.toNat
  let s := zeroFill s (fun a => decide (dumpBase ≤ a) && decide (a < dumpBase + 2 ^ 28))
  let s := dumpAt 0 header s
  let s := dumpAt 0x1000 ((s.plat.pclog.flatMap PcLog.bytes).take 65536) s
  let s := dumpAt 0x11000 ((retirementBytes s).take 32768) s
  let s := dumpAt 0x19000 ((s.plat.guard.flatMap Guardband.bytes).take 32768) s
  let s := slots.foldl (fun s p => dumpAt (0x21000 + 256 * p.1) p.2 s) s
  let s := dumpAt 0x41000 ((List.range 4096).flatMap (fun i => (s.barrier i).bytes)) s
  let s := s.sites.foldl (fun u p =>
    let site := BitVec.ofNat 13 p.1
    if siteExists site then dumpAt (0x61000 + 256 * (80 * siteRow site + siteCol site)) ((List.range 4).flatMap (statusBytes s site)) u else u) s
  let (s, sensors) := freeBytes s 65536
  let s := dumpAt 0x1A1000 sensors s
  let live := listedTiles s
  let s := fsaTiles.zipIdx.foldl (fun s p =>
    if live.contains p.1.toNat then dumpAt (0x1B1000 + 65536 * p.2) (saveBytes s p.1) s else s) s
  dumpAt 32 (natToBytes 4 1) s

/-- FATAL_ERROR (R230): admission stops, every region freezes, every admitted task ends with HARDWARE, the dump is written, STATE is
FATAL. The reporter names an element that exists (R12). -/
def execFatalError (cause : BitVec 32) (ea : BitVec 16) (s : State) : Result :=
  if !eaExists ea then .fault .noSuchUnit else
  let hit := s.tasks.filter (fun t => t.live && t.phase != .waiting && t.phase != .ready)
  let slots := hit.filterMap (fun t => t.slot.map (fun n => (n, t.bytes)))
  let s := hit.foldl (fun s t => endWith s t.uid { cls := 6, reason := 0, unit := ea, detail := 0, addr := 0 }) s
  let s := s.log (.fatal cause.toNat ea.toNat)
  .next (setPlatState (writeDump s cause ea slots) 3)

/-! ## The mailbox (R309) -/

/-- A mailbox operation ends with a status: vector 0 is raised (R308), and where it is the oldest request of a partition kernel its
command takes the status. -/
def mailboxDone (s : State) (op status : Nat) : State :=
  let s := sendMsi (s.log (.mailbox op status)) 0
  match s.plat.mbox with
  | r :: _ => if r.op.toNat = op then refuseMbox (answerMbox s r status) s.plat.mbox.length else s
  | [] => s

/-- A mailbox operation that may be refused: its status, and the state it leaves when that is 0. -/
def mailbox (s : State) (op : Nat) (status : Nat) (f : State → State) : Result :=
  .next (mailboxDone (if status = 0 then f s else s) op status)

/-- A block belongs to a partition. -/
def ownsBlock (s : State) (part : BitVec 8) (b : BitVec 6) : Bool := (s.part part.toNat).blocks.contains b.toNat

/-- BARRIER_ALLOCATE (R248): OP 1. -/
def execBarrierAllocate (part : BitVec 8) (obj : BitVec 12) (cfg : BitVec 32) (s : State) : Result :=
  let exp := cfg.extractLsb' 0 24
  mailbox s 1 (if exp = 0 then 1 else if (s.barrier obj.toNat).en then 3 else 0) (fun s =>
    s.setBarrier obj.toNat { Barrier.reset with exp := exp, evt := cfg.getLsbD 24, evsq := cfg.extractLsb' 25 6, en := true, part := part })

/-- BARRIER_FREE (R248): OP 2. -/
def execBarrierFree (part : BitVec 8) (obj : BitVec 12) (s : State) : Result :=
  let b := s.barrier obj.toNat
  mailbox s 2 (if !b.en then 1 else if b.part ≠ part then 2 else 0) (fun s => s.setBarrier obj.toNat Barrier.reset)

/-- KEY_ENROL (R309, R273): OP 3; 16 KEYIDs per partition. -/
def execKeyEnrol (part : BitVec 8) (keyid : BitVec 64) (modulus : BitVec 4096) (s : State) : Result :=
  let rest := (s.part part.toNat).keys.filter (fun k => k.1 != keyid)
  mailbox s 3 (if 16 ≤ rest.length then 3 else 0) (fun s => s.modPart part.toNat (fun p => { p with keys := rest ++ [(keyid, modulus)] }))

/-- KEY_REVOKE (R309): OP 4. -/
def execKeyRevoke (part : BitVec 8) (keyid : BitVec 64) (s : State) : Result :=
  let l := (s.part part.toNat).keys
  mailbox s 4 (if l.any (fun k => k.1 == keyid) then 0 else 1) (fun s =>
    s.modPart part.toNat (fun p => { p with keys := p.keys.filter (fun k => k.1 != keyid) }))

/-- "TMH-OZD4-384H" in ASCII. -/
def partNumber : List Byte := [0x54, 0x4D, 0x48, 0x2D, 0x4F, 0x5A, 0x44, 0x34, 0x2D, 0x33, 0x38, 0x34, 0x48]

/-- A sealing-log record (Table 4-13). -/
def SealRec.bytes (r : SealRec) (n : Nat) : List Byte :=
  natToBytes 8 r.vbase ++ natToBytes 8 r.len ++ natToBytes 8 r.time ++ natToBytes 4 n ++ natToBytes 4 0 ++ lineBytes r.digest

/-- What an attestation report holds, in the order of R313. -/
def reportBody (s : State) (part : Nat) (nonce : Line) : List Byte :=
  let p := s.part part
  let (banks, tiles) := retiredTotals s
  lineBytes nonce ++ partNumber ++ natToBytes 8 s.plat.boots.toNat ++ lineBytes s.plat.meas
    ++ p.seals.zipIdx.flatMap (fun r => r.1.bytes r.2) ++ p.keys.flatMap (fun k => natToBytes 8 k.1.toNat)
    ++ s.plat.unloads.flatMap (fun u => natToBytes 8 u.blk ++ natToBytes 8 u.time) ++ natToBytes 4 banks ++ natToBytes 4 tiles

/-- ATTESTATION_REPORT (R313): OP 5, signed with the device identity key. -/
def execAttestationReport (part : BitVec 8) (nonce : BitVec 512) (s : State) : Result :=
  let body := reportBody s part.toNat nonce
  mailbox s 5 0 (fun s => s.modPlat (fun p => { p with reports := p.reports ++ [body ++ Config.signature body] }))

/-- DEBUG_AUTHORISATION (R256): OP 6, signed under the firmware key; the signed message is the block number. -/
def execDebugAuthorisation (blk : BitVec 6) (modulus sig : BitVec 4096) (s : State) : Result :=
  let good := fusedKey modulus && rsaVerifies modulus.toNat rsaExponent sig.toNat (sha512 [blk.setWidth 8])
  mailbox s 6 (if good then 0 else 2) (fun s => s.modPlat (fun p => { p with debugOk := some blk }))

/-- PEER_APERTURE_GRANT (R310): OP 7. -/
def execPeerApertureGrant (part : BitVec 8) (idx : BitVec 6) (ap : Aperture) (s : State) : Result :=
  let bad := decide (2 ^ 57 < ap.base.toNat + ap.len.toNat) || decide (2 ^ 57 < ap.remoteBase.toNat + ap.len.toNat) || decide (576 ≤ ap.rank.toNat)
  mailbox s 7 (if bad then 1 else 0) (fun s =>
    s.modPart part.toNat (fun p => { p with apertures := tabSet p.apertures idx.toNat (some ap) none }))

/-- TELEMETRY_SNAPSHOT (R314): OP 8. Twelve sensor words are what the sensors say; the retirement totals follow. -/
def execTelemetrySnapshot (s : State) : Result :=
  mailbox s 8 0 (fun s =>
    let (s, sensors) := freeBytes s 48
    let (banks, tiles) := retiredTotals s
    answerHost s (.data (natToBytes 4 (pwrcapWord s.plat) ++ sensors ++ natToBytes 4 banks ++ natToBytes 4 tiles)))

/-- SQ_START (R106): OP 9; a sequencer that a vector fetch fault halted needs a partition reset first (R241). -/
def execSqStart (part : BitVec 8) (blk : Option (BitVec 6)) (entry : BitVec 64) (s : State) : Result :=
  let l := namedBlocks s part blk
  let status := if entry.toNat % 4 ≠ 0 ∨ 2 ^ 57 ≤ entry.toNat then 1 else if l.isEmpty then 2 else if l.any (fun b => (s.sq b).failed) then 3 else 0
  mailbox s 9 status (fun s => l.foldl (startSq · part entry ·) s)

/-- SQ_HALT (R106): OP 10. -/
def execSqHalt (part : BitVec 8) (blk : Option (BitVec 6)) (s : State) : Result :=
  let l := namedBlocks s part blk
  mailbox s 10 (if l.isEmpty then 2 else 0) (fun s => l.foldl haltSq s)

/-! ### Engine queue descriptors (R180) -/

/-- Status of a descriptor write. -/
def descriptorStatus (s : State) (part : BitVec 8) (b : BitVec 6) (q : BitVec 4) (ctl rbase cwaddr : DWord) : Nat :=
  let e := s.engine b q
  let rsz := bits ctl.toNat 3 4
  if !ownsBlock s part b then 2
  else if 9 ≤ rsz ∨ rbase.toNat % (64 * 2 ^ (rsz + 4)) ≠ 0 ∨ cwaddr.toNat % 8 ≠ 0 then 1
  else if e.appn ≠ e.donen then 2 else 0

/-- QUEUE_DESCRIPTOR_WRITE (R180): OP 11; setting EN clears APPN and DONEN. -/
def execQueueDescriptorWrite (part : BitVec 8) (blk : BitVec 6) (q : BitVec 4) (ctl rbase cwaddr : BitVec 64) (s : State) : Result :=
  mailbox s 11 (descriptorStatus s part blk q ctl rbase cwaddr) (fun s =>
    let e := s.engine blk q
    let en := ctl.getLsbD 0
    s.setEngine blk q
      { e with en := en, eng := ctl.extractLsb' 1 2, rsz := ctl.extractLsb' 3 4, rbase := rbase, cwaddr := cwaddr
               appn := if en then 0 else e.appn, donen := if en then 0 else e.donen })

/-- A descriptor as its 32 bytes (Table 6-10). -/
def EngQueue.bytes (e : EngQueue) : List Byte :=
  natToBytes 8 ((if e.en then 1 else 0) + 2 * e.eng.toNat + 8 * e.rsz.toNat) ++ natToBytes 8 e.rbase.toNat ++ natToBytes 8 e.cwaddr.toNat
    ++ natToBytes 4 e.appn.toNat ++ natToBytes 4 e.donen.toNat

/-- QUEUE_DESCRIPTOR_READ (R180): OP 11. -/
def execQueueDescriptorRead (part : BitVec 8) (blk : BitVec 6) (q : BitVec 4) (s : State) : Result :=
  mailbox s 11 (if ownsBlock s part blk then 0 else 2) (fun s => s.modPlat (fun p => { p with reports := p.reports ++ [(s.engine blk q).bytes] }))

/-! ### Frames (R119) -/

/-- The 2 MiB frames of a range, by number. -/
def bigFrames (pa n : Nat) : List Nat := (List.range n).map (fun i => pa / 2 ^ 21 + i)

/-- A frame of a tier that the device does not keep for itself: not the top 256 MiB of HBM4 with the dump (R231) and the PC's own memory, not
the barrier mailbox pool (R249), which lies at MBXBASE, 0 after reset. -/
def frameGrantable (s : State) (f : Nat) : Bool :=
  let a := f * 2 ^ 21
  memoryExists a (2 ^ 21) && (decide (a + 2 ^ 21 ≤ dumpBase) || decide (0x59682F0000 ≤ a)) && decide (a ≠ s.plat.mbxbase.toNat)

/-- FRAME_GRANT (R119): OP 12, by the host. -/
def execFrameGrant (part : BitVec 8) (pa : BitVec 52) (n : Nat) (s : State) : Result :=
  let l := bigFrames pa.toNat n
  let owner := fun (f : Nat) => tabGet s.frames f 0
  let status := if pa.toNat % 2 ^ 21 ≠ 0 ∨ n = 0 then 1
    else if l.any (fun f => !frameGrantable s f) then 2
    else if l.any (fun f => owner f != 0 && owner f != part.toNat + 1) then 3 else 0
  mailbox s 12 status (fun s => { s with frames := l.foldl (fun t f => tabSet t f (part.toNat + 1) 0) s.frames })

/-- FRAME_RECLAIM (R119): OP 12; the frames are zero-filled first. Sealed frames refuse the PC's writes too (R131). -/
def execFrameReclaim (part : BitVec 8) (pa : BitVec 52) (n : Nat) (s : State) : Result :=
  let l := bigFrames pa.toNat n
  let isSealed := decide (0 < n) && sealedAt s pa.toNat (n * 2 ^ 21)
  let status := if pa.toNat % 2 ^ 21 ≠ 0 ∨ n = 0 then 1
    else if l.any (fun f => tabGet s.frames f 0 != part.toNat + 1) || isSealed then 2 else 0
  let s := if isSealed then s.log (.firmwareRefused pa.toNat) else s
  mailbox s 12 status (fun s =>
    let s := zeroFill s (fun a => l.contains (a / 2 ^ 21))
    { s with frames := l.foldl (fun t f => tabSet t f 0 0) s.frames })

/-! ### Trace rings (R260) -/

/-- The leaves of a range, whatever they permit; none when a page is not mapped in a frame of the partition. -/
def mappedLeaves (s : State) (part stop : Nat) : Nat → Nat → Option (List Walked)
  | 0, va => if stop ≤ va then some [] else none
  | n + 1, va =>
    if stop ≤ va then some []
    else
      match leafOf s part va with
      | none => none
      | some w =>
        if framesOwned s part w.pbase w.size && inTier (pteTier w.pte) w.pbase w.size then
          (mappedLeaves s part stop n (w.vbase + w.size)).map (fun l => w :: l)
        else none

/-- Physical base of a range that lies in contiguous frames. -/
def contiguous (s : State) (part va n : Nat) : Option (Nat × List Walked) :=
  match mappedLeaves s part (va + n) (n / 4096 + 1) va with
  | some (w :: rest) =>
    let base := w.pbase + (va - w.vbase)
    if rest.all (fun x => x.pbase + va == base + x.vbase) then some (base, w :: rest) else none
  | _ => none

/-- Set PIN in every entry of leaves. -/
def pinLeaves (s : State) (part : Nat) (l : List Walked) : State :=
  l.foldl (fun s w => mapEntries s part (leafEntries w).1 (leafEntries w).2 (fun _ e => e ||| 0x200#64)) s

/-- TRACE_RING_SET (R260): OP 13: both are pinned and translated. -/
def execTraceRingSet (part : BitVec 8) (ring : BitVec 64) (k : BitVec 5) (cb : BitVec 64) (s : State) : Result :=
  let p := part.toNat
  let size := 16 * 2 ^ k.toNat
  let okArgs := decide (8 ≤ k.toNat) && decide (k.toNat ≤ 24) && cb.toNat % 64 == 0 && ring.toNat % 4096 == 0
  match okArgs, contiguous s p ring.toNat size, contiguous s p cb.toNat 64 with
  | false, _, _ => mailbox s 13 1 id
  | true, some (base, l), some (cbase, l') =>
    if base % size ≠ 0 then mailbox s 13 3 id
    else mailbox s 13 0 (fun s => (pinLeaves s p (l ++ l')).modPart p (fun q =>
      { q with ptrace := BitVec.ofNat 64 (1 + 2 * k.toNat + base), ptrcb := BitVec.ofNat 64 cbase }))
  | true, _, _ => mailbox s 13 3 id

/-- TRACE_RING_CLEAR (R260): OP 13. -/
def execTraceRingClear (part : BitVec 8) (s : State) : Result :=
  mailbox s 13 0 (fun s => s.modPart part.toNat (fun q => { q with ptrace := 0, ptrcb := 0 }))

/-! ### Stream-port channels (R222, R226) -/

/-- What a request writes to a channel, MCACK acting in its place. -/
def writeChannel (s : State) (c : Nat) (l : List (BitVec 6 × Word)) : State :=
  l.foldl (fun s p =>
    if p.1.toNat = 31 then
      match p.2.toNat % 4 with
      | 1 => ackRelease s c
      | 2 => ackFail s c
      | _ => s
    else s.setChannel c ((s.channel c).write p.1.toNat p.2)) s

/-- MONITOR_CHANNEL_ASSIGN (R222): OP 14: the channel belongs to the partition and takes the registers named; what it then holds is read
back. -/
def execMonitorChannelAssign (part : BitVec 8) (chan : BitVec 16) (regs : List (BitVec 6 × BitVec 32)) (s : State) : Result :=
  let c := chan.toNat
  let ch := s.channel c
  let after := regs.foldl (fun x p => if p.1.toNat = 31 then x else x.write p.1.toNat p.2) ch
  let status := if c < 0x8000 ∨ regs.any (fun p => (checkMonitor p.1.toNat p.2.toNat).isSome) = true ∨ !(crossMonitor after).isEmpty then 1
    else if ch.en && ch.part != part then 2 else 0
  mailbox s 14 status (fun s =>
    let s := s.setChannel c { s.channel c with part := part }
    let s := writeChannel s c regs
    -- a stream-port channel watches device memory: SPACE reads 1 (Table 9-3)
    let s := s.setChannel c { s.channel c with cfg := (s.channel c).cfg ||| 2 }
    let words := (List.range 32).flatMap (fun i => natToBytes 4 ((s.channel c).read i).toNat)
    s.modPlat (fun p => { p with reports := p.reports ++ [words] }))

end Sys2Proof.Machine
end

