-- ==== Sys2Proof/Machine/Dispatch.lean ====
section
/-! DEFINITION. Machine/Dispatch.lean: one arm per instruction, each one call of its meaning. -/

namespace Sys2Proof.Machine

def exec (i : Instr) (s : State) : Host.Outcome State Fault Refusal :=
  match i with
  | .deviceReset fw => Sys2Proof.Machine.execDeviceReset fw s
  | .partitionReset part => Sys2Proof.Machine.execPartitionReset part s
  | .fatalError cause ea => Sys2Proof.Machine.execFatalError cause ea s
  | .queueEnable q => Sys2Proof.Machine.execQueueEnable q s
  | .queueDisable q => Sys2Proof.Machine.execQueueDisable q s
  | .doorbell q tail => Sys2Proof.Machine.execDoorbell q tail s
  | .cheadWrite q v => Sys2Proof.Machine.execCheadWrite q v s
  | .recordAccept q => Sys2Proof.Machine.execRecordAccept q s
  | .dependenceMet => Sys2Proof.Machine.execDependenceMet s
  | .admission part => Sys2Proof.Machine.execAdmission part s
  | .sourceRelease => Sys2Proof.Machine.execSourceRelease s
  | .swapOnMark ea ctx => Sys2Proof.Machine.execSwapOnMark ea ctx s
  | .taskFinish => Sys2Proof.Machine.execTaskFinish s
  | .repairPass => Sys2Proof.Machine.execRepairPass s
  | .commit => Sys2Proof.Machine.execCommit s
  | .lockstepTimeout => Sys2Proof.Machine.execLockstepTimeout s
  | .irrevocable => Sys2Proof.Machine.execIrrevocable s
  | .watchdog => Sys2Proof.Machine.execWatchdog s
  | .regionFrozen => Sys2Proof.Machine.execRegionFrozen s
  | .faultRecordPost part => Sys2Proof.Machine.execFaultRecordPost part s
  | .eventInterrupt => Sys2Proof.Machine.execEventInterrupt s
  | .adaptWindow site => Sys2Proof.Machine.execAdaptWindow site s
  | .ctxarbWrite site v => Sys2Proof.Machine.execCtxarbWrite site v s
  | .tokenArrive site dir ctx ctl => Sys2Proof.Machine.execTokenArrive site dir ctx ctl s
  | .rtlogClear site => Sys2Proof.Machine.execRtlogClear site s
  | .flitReceive link flit => Sys2Proof.Machine.execFlitReceive link flit s
  | .flitRetransmit link => Sys2Proof.Machine.execFlitRetransmit link s
  | .portDown port => Sys2Proof.Machine.execPortDown port s
  | .accessResult site ctx agn => Sys2Proof.Machine.execAccessResult site ctx agn s
  | .parityLanding site g => Sys2Proof.Machine.execParityLanding site g s
  | .scrubCheck site => Sys2Proof.Machine.execScrubCheck site s
  | .forcedScrub site => Sys2Proof.Machine.execForcedScrub site s
  | .hourWindow => Sys2Proof.Machine.execHourWindow s
  | .bankRetireCommand site v => Sys2Proof.Machine.execBankRetireCommand site v s
  | .axolotlCounterClear site v => Sys2Proof.Machine.execAxolotlCounterClear site v s
  | .errcntClear ea => Sys2Proof.Machine.execErrcntClear ea s
  | .iiCounterClear ea ctx agn => Sys2Proof.Machine.execIiCounterClear ea ctx agn s
  | .mtcfgWrite site v => Sys2Proof.Machine.execMtcfgWrite site v s
  | .walkComplete site ctx agn => Sys2Proof.Machine.execWalkComplete site ctx agn s
  | .resumeDoorbell part fseq status => Sys2Proof.Machine.execResumeDoorbell part fseq status s
  | .pageFaultLimit => Sys2Proof.Machine.execPageFaultLimit s
  | .migrationCopyDone blk q => Sys2Proof.Machine.execMigrationCopyDone blk q s
  | .engineComplete blk q => Sys2Proof.Machine.execEngineComplete blk q s
  | .copy => Sys2Proof.Machine.execCopy s
  | .copyT8 => Sys2Proof.Machine.execCopyT8 s
  | .copyT16 => Sys2Proof.Machine.execCopyT16 s
  | .fill => Sys2Proof.Machine.execFill s
  | .allReduce => Sys2Proof.Machine.execAllReduce s
  | .broadcast => Sys2Proof.Machine.execBroadcast s
  | .allGather => Sys2Proof.Machine.execAllGather s
  | .sha512 => Sys2Proof.Machine.execSha512 s
  | .rsaVerify => Sys2Proof.Machine.execRsaVerify s
  | .migrate => Sys2Proof.Machine.execMigrate s
  | .writeActive ctx ea field vals => Sys2Proof.Machine.execWriteActive ctx ea field vals s
  | .writeShadow ctx ea field vals => Sys2Proof.Machine.execWriteShadow ctx ea field vals s
  | .readBack ctx ea field count => Sys2Proof.Machine.execReadBack ctx ea field count s
  | .swap ctx ea v => Sys2Proof.Machine.execSwap ctx ea v s
  | .discard ctx ea v => Sys2Proof.Machine.execDiscard ctx ea v s
  | .check ctx ea crc => Sys2Proof.Machine.execCheck ctx ea crc s
  | .wsSwap site ctx => Sys2Proof.Machine.execWsSwap site ctx s
  | .preempt task reason => Sys2Proof.Machine.execPreempt task reason s
  | .cutComplete => Sys2Proof.Machine.execCutComplete s
  | .restore => Sys2Proof.Machine.execRestore s
  | .barrierNextPhase obj => Sys2Proof.Machine.execBarrierNextPhase obj s
  | .mcackRelease chan => Sys2Proof.Machine.execMcackRelease chan s
  | .mcackFail chan => Sys2Proof.Machine.execMcackFail chan s
  | .capRefill site ctx stage => Sys2Proof.Machine.execCapRefill site ctx stage s
  | .destructiveUnload blk => Sys2Proof.Machine.execDestructiveUnload blk s
  | .hostWindowWrite off data posted => Sys2Proof.Machine.execHostWindowWrite off data posted s
  | .hostWindowRead off len => Sys2Proof.Machine.execHostWindowRead off len s
  | .hostRequestTimeout => Sys2Proof.Machine.execHostRequestTimeout s
  | .timeSync master => Sys2Proof.Machine.execTimeSync master s
  | .synclost => Sys2Proof.Machine.execSynclost s
  | .sensorPoll hot => Sys2Proof.Machine.execSensorPoll hot s
  | .powerWindow watts => Sys2Proof.Machine.execPowerWindow watts s
  | .guardbandReplan die offset margin tiles => Sys2Proof.Machine.execGuardbandReplan die offset margin tiles s
  | .evqWrite blk v => Sys2Proof.Machine.execEvqWrite blk v s
  | .evheadWrite blk v => Sys2Proof.Machine.execEvheadWrite blk v s
  | .registerWrite reg v => Sys2Proof.Machine.execRegisterWrite reg v s
  | .barrierAllocate part obj cfg => Sys2Proof.Machine.execBarrierAllocate part obj cfg s
  | .barrierFree part obj => Sys2Proof.Machine.execBarrierFree part obj s
  | .keyEnrol part keyid modulus => Sys2Proof.Machine.execKeyEnrol part keyid modulus s
  | .keyRevoke part keyid => Sys2Proof.Machine.execKeyRevoke part keyid s
  | .attestationReport part nonce => Sys2Proof.Machine.execAttestationReport part nonce s
  | .debugAuthorisation blk modulus sig => Sys2Proof.Machine.execDebugAuthorisation blk modulus sig s
  | .peerApertureGrant part idx ap => Sys2Proof.Machine.execPeerApertureGrant part idx ap s
  | .telemetrySnapshot => Sys2Proof.Machine.execTelemetrySnapshot s
  | .sqStart part blk entry => Sys2Proof.Machine.execSqStart part blk entry s
  | .sqHalt part blk => Sys2Proof.Machine.execSqHalt part blk s
  | .queueDescriptorWrite part blk q ctl rbase cwaddr => Sys2Proof.Machine.execQueueDescriptorWrite part blk q ctl rbase cwaddr s
  | .queueDescriptorRead part blk q => Sys2Proof.Machine.execQueueDescriptorRead part blk q s
  | .frameGrant part pa n => Sys2Proof.Machine.execFrameGrant part pa n s
  | .frameReclaim part pa n => Sys2Proof.Machine.execFrameReclaim part pa n s
  | .traceRingSet part ring k cb => Sys2Proof.Machine.execTraceRingSet part ring k cb s
  | .traceRingClear part => Sys2Proof.Machine.execTraceRingClear part s
  | .monitorChannelAssign part chan regs => Sys2Proof.Machine.execMonitorChannelAssign part chan regs s
  | .addFabric w => Sys2Proof.Machine.execAddFabric w s
  | .subFabric w => Sys2Proof.Machine.execSubFabric w s
  | .mulFabric w => Sys2Proof.Machine.execMulFabric w s
  | .mulhFabric w => Sys2Proof.Machine.execMulhFabric w s
  | .mad w => Sys2Proof.Machine.execMad w s
  | .min w => Sys2Proof.Machine.execMin w s
  | .max w => Sys2Proof.Machine.execMax w s
  | .abs w => Sys2Proof.Machine.execAbs w s
  | .neg w => Sys2Proof.Machine.execNeg w s
  | .andFabric w => Sys2Proof.Machine.execAndFabric w s
  | .orFabric w => Sys2Proof.Machine.execOrFabric w s
  | .xorFabric w => Sys2Proof.Machine.execXorFabric w s
  | .andn w => Sys2Proof.Machine.execAndn w s
  | .shlFabric w => Sys2Proof.Machine.execShlFabric w s
  | .shrFabric w => Sys2Proof.Machine.execShrFabric w s
  | .sraFabric w => Sys2Proof.Machine.execSraFabric w s
  | .rot w => Sys2Proof.Machine.execRot w s
  | .clz w => Sys2Proof.Machine.execClz w s
  | .popc w => Sys2Proof.Machine.execPopc w s
  | .cmp w => Sys2Proof.Machine.execCmp w s
  | .sel w => Sys2Proof.Machine.execSel w s
  | .cvt w => Sys2Proof.Machine.execCvt w s
  | .dot4 w => Sys2Proof.Machine.execDot4 w s
  | .dot2 w => Sys2Proof.Machine.execDot2 w s
  | .bfx w => Sys2Proof.Machine.execBfx w s
  | .bfi w => Sys2Proof.Machine.execBfi w s
  | .fadd w => Sys2Proof.Machine.execFadd w s
  | .fsub w => Sys2Proof.Machine.execFsub w s
  | .fmul w => Sys2Proof.Machine.execFmul w s
  | .fma w => Sys2Proof.Machine.execFma w s
  | .fnma w => Sys2Proof.Machine.execFnma w s
  | .fmin w => Sys2Proof.Machine.execFmin w s
  | .fmax w => Sys2Proof.Machine.execFmax w s
  | .fabs w => Sys2Proof.Machine.execFabs w s
  | .fneg w => Sys2Proof.Machine.execFneg w s
  | .fcmp w => Sys2Proof.Machine.execFcmp w s
  | .fclass w => Sys2Proof.Machine.execFclass w s
  | .fcvt w => Sys2Proof.Machine.execFcvt w s
  | .frcp w => Sys2Proof.Machine.execFrcp w s
  | .frsq w => Sys2Proof.Machine.execFrsq w s
  | .fsqrt w => Sys2Proof.Machine.execFsqrt w s
  | .fexp2 w => Sys2Proof.Machine.execFexp2 w s
  | .flog2 w => Sys2Proof.Machine.execFlog2 w s
  | .ftanh w => Sys2Proof.Machine.execFtanh w s
  | .fsigm w => Sys2Proof.Machine.execFsigm w s
  | .fscl w => Sys2Proof.Machine.execFscl w s
  | .mov w => Sys2Proof.Machine.execMov w s
  | .movk w => Sys2Proof.Machine.execMovk w s
  | .wrk w => Sys2Proof.Machine.execWrk w s
  | .acck w => Sys2Proof.Machine.execAcck w s
  | .lred w => Sys2Proof.Machine.execLred w s
  | .lscan w => Sys2Proof.Machine.execLscan w s
  | .lbc w => Sys2Proof.Machine.execLbc w s
  | .lrot w => Sys2Proof.Machine.execLrot w s
  | .lperm w => Sys2Proof.Machine.execLperm w s
  | .fsh w => Sys2Proof.Machine.execFsh w s
  | .pack w => Sys2Proof.Machine.execPack w s
  | .unpack w => Sys2Proof.Machine.execUnpack w s
  | .m2c w => Sys2Proof.Machine.execM2c w s
  | .lidx w => Sys2Proof.Machine.execLidx w s
  | .mma w => Sys2Proof.Machine.execMma w s
  | .mmab w => Sys2Proof.Machine.execMmab w s
  | .wsld w => Sys2Proof.Machine.execWsld w s
  | .wsswp w => Sys2Proof.Machine.execWsswp w s
  | .acclr w => Sys2Proof.Machine.execAcclr w s
  | .acrd w => Sys2Proof.Machine.execAcrd w s
  | .acwr w => Sys2Proof.Machine.execAcwr w s
  | .steer w => Sys2Proof.Machine.execSteer w s
  | .merge w => Sys2Proof.Machine.execMerge w s
  | .carry w => Sys2Proof.Machine.execCarry w s
  | .invr w => Sys2Proof.Machine.execInvr w s
  | .fork w => Sys2Proof.Machine.execFork w s
  | .sink w => Sys2Proof.Machine.execSink w s
  | .gate w => Sys2Proof.Machine.execGate w s
  | .cand w => Sys2Proof.Machine.execCand w s
  | .cor w => Sys2Proof.Machine.execCor w s
  | .cnot w => Sys2Proof.Machine.execCnot w s
  | .cgen w => Sys2Proof.Machine.execCgen w s
  | .kelp w => Sys2Proof.Machine.execKelp w s
  | .kjoin w => Sys2Proof.Machine.execKjoin w s
  | .tourn w => Sys2Proof.Machine.execTourn w s
  | .rdig w => Sys2Proof.Machine.execRdig w s
  | .ld w => Sys2Proof.Machine.execLd w s
  | .st w => Sys2Proof.Machine.execSt w s
  | .ldx w => Sys2Proof.Machine.execLdx w s
  | .stx w => Sys2Proof.Machine.execStx w s
  | .ldl w => Sys2Proof.Machine.execLdl w s
  | .atom w => Sys2Proof.Machine.execAtom w s
  | .xlat w => Sys2Proof.Machine.execXlat w s
  | .probe w => Sys2Proof.Machine.execProbe w s
  | .stc w => Sys2Proof.Machine.execStc w s
  | .cpy w => Sys2Proof.Machine.execCpy w s
  | .cnt w => Sys2Proof.Machine.execCnt w s
  | .const w => Sys2Proof.Machine.execConst w s
  | .rand w => Sys2Proof.Machine.execRand w s
  | .seqs w => Sys2Proof.Machine.execSeqs w s
  | .post w => Sys2Proof.Machine.execPost w s
  | .barr w => Sys2Proof.Machine.execBarr w s
  | .bwait w => Sys2Proof.Machine.execBwait w s
  | .mchk w => Sys2Proof.Machine.execMchk w s
  | .cap w => Sys2Proof.Machine.execCap w s
  | .spawn w => Sys2Proof.Machine.execSpawn w s
  | .addSequencer d a b => Sys2Proof.Machine.execAddSequencer d a b s
  | .subSequencer d a b => Sys2Proof.Machine.execSubSequencer d a b s
  | .andSequencer d a b => Sys2Proof.Machine.execAndSequencer d a b s
  | .orSequencer d a b => Sys2Proof.Machine.execOrSequencer d a b s
  | .xorSequencer d a b => Sys2Proof.Machine.execXorSequencer d a b s
  | .shlSequencer d a b => Sys2Proof.Machine.execShlSequencer d a b s
  | .shrSequencer d a b => Sys2Proof.Machine.execShrSequencer d a b s
  | .sraSequencer d a b => Sys2Proof.Machine.execSraSequencer d a b s
  | .mulSequencer d a b => Sys2Proof.Machine.execMulSequencer d a b s
  | .mulhSequencer d a b => Sys2Proof.Machine.execMulhSequencer d a b s
  | .div d a b => Sys2Proof.Machine.execDiv d a b s
  | .rem d a b => Sys2Proof.Machine.execRem d a b s
  | .slt d a b => Sys2Proof.Machine.execSlt d a b s
  | .sltn d a b => Sys2Proof.Machine.execSltn d a b s
  | .addi d a imm => Sys2Proof.Machine.execAddi d a imm s
  | .andi d a imm => Sys2Proof.Machine.execAndi d a imm s
  | .ori d a imm => Sys2Proof.Machine.execOri d a imm s
  | .xori d a imm => Sys2Proof.Machine.execXori d a imm s
  | .shli d a sh => Sys2Proof.Machine.execShli d a sh s
  | .shri d a sh => Sys2Proof.Machine.execShri d a sh s
  | .srai d a sh => Sys2Proof.Machine.execSrai d a sh s
  | .slti d a imm => Sys2Proof.Machine.execSlti d a imm s
  | .lhi d imm => Sys2Proof.Machine.execLhi d imm s
  | .lb d a o => Sys2Proof.Machine.execLb d a o s
  | .lbn d a o => Sys2Proof.Machine.execLbn d a o s
  | .lh d a o => Sys2Proof.Machine.execLh d a o s
  | .lhn d a o => Sys2Proof.Machine.execLhn d a o s
  | .lw d a o => Sys2Proof.Machine.execLw d a o s
  | .lwn d a o => Sys2Proof.Machine.execLwn d a o s
  | .lq d a o => Sys2Proof.Machine.execLq d a o s
  | .sb d a o => Sys2Proof.Machine.execSb d a o s
  | .sh d a o => Sys2Proof.Machine.execSh d a o s
  | .sw d a o => Sys2Proof.Machine.execSw d a o s
  | .sq d a o => Sys2Proof.Machine.execSq d a o s
  | .beq a b o => Sys2Proof.Machine.execBeq a b o s
  | .bne a b o => Sys2Proof.Machine.execBne a b o s
  | .blt a b o => Sys2Proof.Machine.execBlt a b o s
  | .bge a b o => Sys2Proof.Machine.execBge a b o s
  | .bltn a b o => Sys2Proof.Machine.execBltn a b o s
  | .bgen a b o => Sys2Proof.Machine.execBgen a b o s
  | .jal o => Sys2Proof.Machine.execJal o s
  | .jr d a imm => Sys2Proof.Machine.execJr d a imm s
  | .amadd d a b => Sys2Proof.Machine.execAmadd d a b s
  | .amswp d a b => Sys2Proof.Machine.execAmswp d a b s
  | .amcas d a b => Sys2Proof.Machine.execAmcas d a b s
  | .crc d a b n => Sys2Proof.Machine.execCrc d a b n s
  | .mfs d b => Sys2Proof.Machine.execMfs d b s
  | .mts a b => Sys2Proof.Machine.execMts a b s
  | .svc c => Sys2Proof.Machine.execSvc c s
  | .eret => Sys2Proof.Machine.execEret s
  | .wfe => Sys2Proof.Machine.execWfe s
  | .fen sh => Sys2Proof.Machine.execFen sh s
  | .cfgs a b => Sys2Proof.Machine.execCfgs a b s
  | .cfgw a => Sys2Proof.Machine.execCfgw a s
  | .cfgq d => Sys2Proof.Machine.execCfgq d s
  | .tsk d a => Sys2Proof.Machine.execTsk d a s
  | .qappEngine d a b => Sys2Proof.Machine.execQappEngine d a b s
  | .qappWork d a b => Sys2Proof.Machine.execQappWork d a b s
  | .qfen a => Sys2Proof.Machine.execQfen a s
  | .evp d => Sys2Proof.Machine.execEvp d s
  | .bara a b => Sys2Proof.Machine.execBara a b s
  | .barw a b => Sys2Proof.Machine.execBarw a b s
  | .tlbi a b => Sys2Proof.Machine.execTlbi a b s
  | .shdn a b => Sys2Proof.Machine.execShdn a b s
  | .sealRange d a b => Sys2Proof.Machine.execSealRange d a b s
  | .mark a => Sys2Proof.Machine.execMark a s
  | .rsm a => Sys2Proof.Machine.execRsm a s
  | .illegalInstruction => Sys2Proof.Machine.execIllegalInstruction s
  | .instructionFetchFault sub detail => Sys2Proof.Machine.execInstructionFetchFault sub detail s
  | .correctedRowWriteback site bank row => Sys2Proof.Machine.execCorrectedRowWriteback site bank row s
  | .partitionDestroy part => Sys2Proof.Machine.execPartitionDestroy part s
  | .signedRecoveryImage fw => Sys2Proof.Machine.execSignedRecoveryImage fw s

end Sys2Proof.Machine
end

