-- ==== Sys2Proof/Machine/Fire.lean ====
section
/-! DEFINITION. Machine/Fire.lean: what a site does in one fc (R43, R77, R292 to R294, R438): which contexts are fireable, the choice of the
context counter, the pass that a compute tile starts, a compute tile's part in a cut (R243), II counters (R257) and the occupancies of
R45. -/

namespace Sys2Proof.Machine

/-- The contexts of a site. -/
def ctxs4 : List (BitVec 2) := [0, 1, 2, 3]

/-! ## Instructions of operators -/

/-- The unit on whose behalf a move's operator runs. -/
def Move.focus : Move → Focus
  | .upset _ => .none
  | .event f _ => f
  | .sq b => .sq b
  | .loader b => .loader b
  | .engine b q => .engine b q
  | .tile _ => .none
  | .stage ea c => .stage ea c
  | .slot ea c n => .slot ea c n
  | .agn ea c n => .agn ea c n

/-- The operator that an operator word stands for. -/
def opInstr (w : DWord) : Option Instr := (decodeOp w).toOption

/-- The operator of a slot or AGN move, when the slot is filled or the node enabled. -/
def Move.operator (s : State) : Move → Option Instr
  | .slot ea c n => let e := s.elem ea c; if e.slotOn n then opInstr (e.slotWord n) else none
  | .agn ea c n => let e := s.elem ea c; if bitSet (e.agnb n) 6 then opInstr (e.agnWord n) else none
  | _ => none

/-- Control-operator slots of a router context. -/
def slotMoves (s : State) (site : SiteNo) (c : BitVec 2) : List Move :=
  let r := s.elem (siteEa site 1) c
  ((List.range 8).filter (fun n => r.slotOn n)).map (fun n => Move.slot (siteEa site 1) c n)

/-- AGNs of a context of a memory tile. -/
def agnMoves (s : State) (site : SiteNo) (c : BitVec 2) : List Move :=
  if siteIsMt site then
    -- the arbiter's round robin over the places starts after the one served last (R203)
    let order := (List.range 8).map (fun i => ((axOf s site).rr + 1 + i) % 8)
    (order.filter (fun n => decide (n < 4) && bitSet ((s.elem (siteEa site 0) c).agnb n) 6)).map (fun n => Move.agn (siteEa site 0) c n)
  else []

/-! ## Contexts of a compute tile -/

/-- Enabled stages with their words. -/
def ElemCtx.stages (e : ElemCtx) : List (Nat × OpWord × Nat) :=
  ((List.range 6).filter (fun n => e.stageOn n)).map (fun n => (n, OpWord.ofBits (e.stageWord n), opcodeOf (e.stageWord n)))

/-- Input ports whose tokens a stage takes with the pass: `fcvt` under RND 2 takes its random port later (R352). -/
def stagePorts (w : OpWord) (code : Nat) : List Nat :=
  let cs := (sourceCodes code w).zipIdx
  (cs.filter (fun c => decide (c.1 ≤ 3) && !(code == 75 && w.rnd == 2 && c.2 == 1))).map (·.1)

/-- Ports from which a pass takes its tokens (R292). -/
def ElemCtx.passPorts (e : ElemCtx) : List Nat := (e.stages.flatMap (fun p => stagePorts p.2.1 p.2.2)).dedup

/-- Ports that any stage names. -/
def ElemCtx.namedPorts (e : ElemCtx) : List Nat :=
  (e.stages.flatMap (fun p => (sourceCodes p.2.2 p.2.1).filter (fun c => decide (c ≤ 3)))).dedup

/-- Stages that take a control token. -/
def ElemCtx.gated (e : ElemCtx) : List Nat := (e.stages.filter (fun p => p.2.1.pg == 1)).map (·.1)

/-- A stage is a source that has not emitted its LEVEL 7 marker. -/
def ElemCtx.liveSource (e : ElemCtx) : Bool := e.stages.any (fun p => isSource p.2.2 p.2.1 && !(e.op p.1).ended)

/-- The TD holds the sources of the context's region (R236). -/
def sourcesHeld (s : State) (e : ElemCtx) : Bool := (e.task.bind s.task?).elim false (fun k => k.phase == .freezing)

/-- The element may fire: its configuration is released, it has not faulted, its stream has not ended. -/
def ElemCtx.mayFire (e : ElemCtx) : Bool := e.released && !e.stopped && !e.finished && !e.captured

/-- The stage whose waiting results go on next: those of the last stage are the oldest. -/
def ElemCtx.waitingStage (e : ElemCtx) : Option Nat := ((List.range 6).reverse).find? (fun n => !(e.op n).res.isEmpty)

/-- Every output port that a stage names has room. -/
def portsHaveRoom (s : State) (ea : EAddr) (c : BitVec 2) (e : ElemCtx) : Bool :=
  e.stages.all (fun p => decide (3 < p.2.1.dst.toNat) || outputRoom s ea c p.2.1.dst.toNat)

/-- A port holds a token that a pass may take. -/
def ElemCtx.portReady (e : ElemCtx) (p : Nat) : Bool := ((e.queue p).head?.map (fun t => t.kind != .cut)).getD false

/-- The control token of a gated stage is present; a packet's data tokens need none (R40, R294). -/
def ElemCtx.gateReady (e : ElemCtx) (n : Nat) : Bool :=
  let inside := decide (0 < (e.op n).rem)
  inside || ((e.ctlQueue (gateIndex e n)).head?.map (fun k => !k.cut)).getD false

/-- A pass can start: its tokens, or a source, and room for what it sends. -/
def passReady (s : State) (ea : EAddr) (c : BitVec 2) : Bool :=
  let e := s.elem ea c
  e.mayFire && e.pass.isNone
    && (e.waitingStage.isSome
      || ((if e.passPorts.isEmpty then e.liveSource else e.passPorts.all e.portReady) && e.gated.all e.gateReady
        && !(e.liveSource && (sourcesHeld s e || beingCut s e)) && portsHaveRoom s ea c e))

/-- Start a pass: waiting results go on from their stage; otherwise the tokens enter S0. -/
def startPass (s : State) (ea : EAddr) (c : BitVec 2) : State :=
  s.modElem ea c (fun e =>
    match e.waitingStage with
    | some n => { e with pass := some { ports := [], stage := n, prev := none } }
    | none =>
      let ports := e.passPorts
      let taken : Tab (Option Token) := ports.foldl (fun t p => tabSet t p (e.queue p).head? none) []
      let e := ports.foldl ElemCtx.popPort e
      { e with pass := some { ports := taken, stage := 0, prev := none } })

/-! ## A compute tile in a cut (R243) -/

/-- A cut marker has arrived on every input of the context and stands at the head of one, so that no pass can take more; or it has
only sources. A pass that waits at a barrier stays (R244). -/
def ctCutReady (s : State) (c : BitVec 2) (e : ElemCtx) : Bool :=
  let waits := match e.pass with
    | none => true
    | some p => (e.op p.stage).phase.isSome
  beingCut s e && e.released && !e.stopped && !e.captured && waits && e.waitingStage.isNone
    && e.namedPorts.all (cutIn e) && e.gated.all (fun n => (e.ctlQueue (gateIndex e n)).any (·.cut))
    && ((e.namedPorts.isEmpty && e.gated.isEmpty) || e.namedPorts.any (cutHead e)
      || e.gated.any (fun n => ((e.ctlQueue (gateIndex e n)).head?.map (·.cut)).getD false))
    && decide (c.toNat < 4)

/-- The cut marker of a source for output port p: it carries the SEQ of the record before it (R242), that of the source that writes the port,
else of the context's first source. -/
def sourceCut (s : State) (e : ElemCtx) (p : Nat) : Token :=
  let srcs := e.stages.filter (fun q => isSource q.2.2 q.2.1)
  match (srcs.find? (fun q => q.2.1.dst.toNat == p)).or srcs.head? with
  | none => taskCut s e Token.zero
  | some q =>
    let n := (e.op q.1).count
    taskCut s e (if n = 0 then Token.zero else stamp Token.zero (n - 1) 0)

/-- Forward the cut on every output and capture. -/
def ctCut (s : State) (site : SiteNo) (c : BitVec 2) : State :=
  let ea := siteEa site 0
  let e := s.elem ea c
  if !ctCutReady s c e then s
  else
    let outs := (List.range 4).filter (fun p => outputOn ea e p && !(destsOf s site c .data (4 + p)).isEmpty)
    let ctls := (List.range 4).filter (fun p => !(destsOf s site c .ctl (4 + p)).isEmpty)
    if outs.all (outputRoom s ea c) && ctls.all (ctlOutputRoom s ea c) then
      let came := e.namedPorts.findSome? (fun p => (e.queue p).find? (fun t => t.kind == .cut))
      let t := fun (p : Nat) => came.getD (sourceCut s e p)
      let s := s.modElem ea c (fun e =>
        let e := e.namedPorts.foldl (fun e p => e.setQueue p ((e.queue p).filter (fun t => t.kind != .cut))) e
        let e := e.gated.foldl (fun e n => e.setCtlQueue (gateIndex e n) ((e.ctlQueue (gateIndex e n)).filter (fun c => !c.cut))) e
        { e with captured := true })
      let s := outs.foldl (fun s p => outputSend s ea c p (t p)) s
      let s := ctls.foldl (fun s p => ctlOutputSend s ea c p ctlCut) s
      traceEvent s ea c 4 (t 0)
    else s

/-! ## Trying an operator -/

/-- The element and context of an operator's move. -/
def Move.place : Move → EAddr × BitVec 2
  | .stage ea c => (ea, c)
  | .slot ea c _ => (ea, c)
  | .agn ea c _ => (ea, c)
  | _ => (0, 0)

/-- What an operator would do now. -/
inductive Trial where
  | nothing
  /-- it changes its state without firing -/
  | quiet
  | fires
deriving DecidableEq, Repr

/-- Try a slot or AGN: it fires when it consumes inputs and produces outputs, or faults in doing so (R43). -/
def trial (s : State) (m : Move) : Trial :=
  match m.operator s with
  | none => .nothing
  | some i =>
    match exec i { s with focus := m.focus } with
    | .next t =>
      let (ea, c) := m.place
      let a := s.elem ea c
      let b := t.elem ea c
      if a.fires != b.fires || (b.stopped && !a.stopped) then .fires
      else if a = b then .nothing else .quiet
    | _ => .nothing

/-- An AGN that streams from base and stride is a source, which the TD holds while a region freezes. -/
def heldSource (s : State) (m : Move) : Bool :=
  match m with
  | .agn ea c n => let e := s.elem ea c; sourceAt ea e (agnIdx n) && sourcesHeld s e
  | _ => false

/-- Moves by what they would do; a finished or unreleased element has none. -/
def movesThat (s : State) (r : Trial) (l : List Move) : List Move :=
  l.filter (fun m =>
    let e := s.elem m.place.1 m.place.2
    e.released && !e.finished && !heldSource s m && trial s m == r)

/-! ## The context counter (R43) -/

/-- A context of a compute tile's body. -/
def ctPassReady (s : State) (site : SiteNo) (c : BitVec 2) : Bool := !siteIsMt site && passReady s (siteEa site 0) c

/-- At least one operator of the context's tile body has its inputs and room. Control-operator slots take no turn of the counter (R88). -/
def fireable (s : State) (site : SiteNo) (c : BitVec 2) : Bool :=
  ctPassReady s site c || !(movesThat s .fires (agnMoves s site c)).isEmpty

/-- Control-operator slots that fire in this fc: those of every enabled context whose inputs are present and whose outputs have room (R88).
A disabled context never fires (R43). -/
def firingSlots (s : State) (site : SiteNo) : List Move :=
  ctxs4.flatMap (fun c => if ctxWeight (s.site site).ctxarb c = 0 then [] else movesThat s .fires (slotMoves s site c))

/-- The counter passes over the context as over a disabled one: before its release, and once it has finished (R438). The tile body
decides; a context with operators in its router alone follows the router (log entry 27). -/
def passedOver (s : State) (site : SiteNo) (c : BitVec 2) : Bool :=
  let b := s.elem (siteEa site 0) c
  let r := s.elem (siteEa site 1) c
  if !(ctxOperators (siteEa site 0) b).isEmpty then !b.released || b.finished
  else !(ctxOperators (siteEa site 1) r).isEmpty && (!r.released || r.finished)

/-- Look at context ptr + i, i counting down to the end of the search. -/
def searchCtx (can pass : BitVec 2 → Bool) (start : BitVec 2) : Nat → Site → Site × Option (BitVec 2)
  | 0, t => (t, none)
  | n + 1, t =>
    let c := start + BitVec.ofNat 2 (3 - n)
    let w := ctxWeight t.ctxarb c
    if w = 0 ∨ pass c = true then searchCtx can pass start n t
    else
      let credit := if tabGet t.credit c.toNat 0 = 0 then w else tabGet t.credit c.toNat 0
      if can c then
        let left := credit - 1
        ({ t with credit := tabSet t.credit c.toNat left 0, ptr := if left = 0 then c + 1 else c }, some c)
      else
        searchCtx can pass start n
          { t with credit := tabSet t.credit c.toNat 0 0, skip := tabMod t.skip c.toNat 0 (fun x => satAdd32 x 1) }

/-- Choose the context that fires in this fc. -/
def chooseCtx (s : State) (site : SiteNo) : State × Option (BitVec 2) :=
  let t := s.site site
  let (t, c) := searchCtx (fireable s site) (passedOver s site) t.ptr 4 t
  (s.setSite site t, c)

/-! ## Finished contexts (R438) -/

/-- Mark the elements of a context whose LEVEL 7 markers have all passed. -/
def markFinished (s : State) (ea : EAddr) (c : BitVec 2) : State :=
  let e := s.elem ea c
  if !e.finished && e.pass.isNone && !(ctxOperators ea e).isEmpty && ctxPassed s (elemKey ea c) then
    s.modElem ea c (fun e => { e with finished := true })
  else s

/-- Both elements of every context of a site. -/
def markSite (s : State) (site : SiteNo) : State :=
  ctxs4.foldl (fun s c => markFinished (markFinished s (siteEa site 0) c) (siteEa site 1) c) s

/-! ## Occupancy (R45) -/

/-- Tokens in a context's input queues. Which queues count is not said; the model counts every data and control queue of the tile body and
of the router's slots (DESIGN CHOICE, log entry 125). -/
def ctxOccupancy (s : State) (site : SiteNo) (c : BitVec 2) : Nat :=
  let b := s.elem (siteEa site 0) c
  let r := s.elem (siteEa site 1) c
  (b.inq.map (fun p => p.2.length)).sum + (b.inc.map (fun p => p.2.length)).sum + (r.inq.map (fun p => p.2.length)).sum
    + (r.inc.map (fun p => p.2.length)).sum

/-- Sample the queues while ADAPT is set. -/
def sampleOccupancy (s : State) (site : SiteNo) : State :=
  if ctxAdapt (s.site site).ctxarb then
    s.modSite site (fun t => { t with occ := ctxs4.foldl (fun o c => tabMod o c.toNat 0 (fun x => x + ctxOccupancy s site c)) t.occ })
  else s

/-! ## II counters (R257) -/

/-- Declared II of an operator: the II fields of a compute tile, the node record elsewhere. -/
def declaredIi (s : State) (ea : EAddr) (c : BitVec 2) (e : ElemCtx) (n : Nat) : Nat :=
  if n < 4 then bits (e.field 14) (8 * n) 8
  else if n < 6 then bits (e.field 15) (8 * (n - 4)) 8
  else (e.task.bind s.task?).elim 0 (fun k => (k.iis.find? (fun p => p.1 == elemKey ea c && p.2.1 == n)).elim 0 (·.2.2))

/-- Why an operator does not fire in this fc: the counter that the fc is charged to. -/
def iiCause (s : State) (site : SiteNo) (c : BitVec 2) (ea : EAddr) (e : ElemCtx) (n : Nat) (fire : Bool) : Nat :=
  let first := fun (l : List Nat) (base : Nat) => l.head?.map (fun p => base + p)
  let (starved, ctlStarved, blocked) : List Nat × Bool × List Nat :=
    if n < 6 then
      (e.passPorts.filter (fun p => (e.queue p).isEmpty), e.gated.any (fun k => !e.gateReady k),
       (List.range 4).filter (fun p => e.stages.any (fun q => q.2.1.dst.toNat == p) && !outputRoom s ea c p))
    else if n < 32 then
      let k := n - 16
      ((List.range 4).filter (fun i => e.inNet k i == some .data && (e.queue (slotKey k i)).isEmpty),
       (List.range 4).any (fun i => e.inNet k i == some .ctl && (e.ctlQueue (slotKey k i)).isEmpty),
       (List.range 2).filter (fun o => !(roomAt s site c e.task .data (slotCode k o) && roomAt s site c e.task .ctl (slotCode k o))))
    else
      let v := agnView s site c (n - 32) (OpWord.ofBits (e.agnWord (n - 32))) (opcodeOf (e.agnWord (n - 32)))
      ((agnInputs v).filter (fun p => (e.queue p).isEmpty), false, v.outs.filter (fun p => !outputRoom s ea c p))
  match first starved 2 with
  | some k => k
  | none =>
    if ctlStarved then 6
    else match first blocked 7 with
      | some k => k
      | none => if fire then 11 else 12

/-- Charge this fc to an operator that is past its II and does not fire. -/
def chargeIi (s : State) (site : SiteNo) (c : BitVec 2) (ea : EAddr) (fire : Bool) (n : Nat) : State :=
  let e := s.elem ea c
  let ii := declaredIi s ea c e n
  let last := (e.op n).lastFire
  if ii = 0 ∨ last = 0 ∨ s.time + 1 < last + ii then s
  else
    let u := 16 * iiUnit ea n
    let k := iiCause s site c ea e n fire
    s.modElem ea c (fun e =>
      { e with ii := tabMod (tabMod e.ii (u + 1) 0 (fun x => satAdd32 x 1)) (u + k) 0 (fun x => satAdd32 x 1) })

/-- Charge the operators of a context that do not fire now: `going` names those that do. -/
def chargeCtx (s : State) (site : SiteNo) (c : BitVec 2) (fire : Bool) (going : EAddr → Nat → Bool) : State :=
  [siteEa site 0, siteEa site 1].foldl (fun s ea =>
    let e := s.elem ea c
    if !e.released || e.finished then s
    else (ctxOperators ea e).foldl (fun s n => if going ea n then s else chargeIi s site c ea (fire && eaElem ea == 0) n) s) s

/-! ## One fc of a site -/

/-- The operator that a move runs. -/
def Move.opIndex : Move → Nat
  | .slot _ _ n => 16 + n
  | .agn _ _ n => agnIdx n
  | _ => 0

/-- What runs for a context: a pass under way or just started, then the operators chosen. -/
def stageMoves (s : State) (ea : EAddr) (c : BitVec 2) : List Move :=
  match (s.elem ea c).pass with
  | none => []
  | some p => List.replicate (6 - p.stage) (.stage ea c)

/-- One fc of a site: finished contexts are marked, compute tiles forward cuts, the counter chooses a context, passes under way go on, and
the operators that act, the ready control-operator slots of every context among them, are put into the burst. -/
def tileFc (s : State) (site : SiteNo) : State :=
  let ea := siteEa site 0
  let s := sampleOccupancy (markSite s site) site
  let s := if siteIsMt site then s else ctxs4.foldl (fun s c => ctCut s site c) s
  let (s, chosen) := chooseCtx s site
  let started : Bool := chosen.any (fun c => ctPassReady s site c)
  let firing := chosen.elim [] (fun c => movesThat s .fires (agnMoves s site c))
  let slots := firingSlots s site
  let quiet := ctxs4.flatMap (fun c => movesThat s .quiet (slotMoves s site c ++ agnMoves s site c))
  let s := ctxs4.foldl (fun s c =>
    let me := chosen == some c
    let pass := (s.elem ea c).pass.isSome || (me && started)
    chargeCtx s site c (!me && fireable s site c)
      (fun a n => (a == ea && decide (n < 6) && pass) || (me && firing.any (fun m => m.place.1 == a && m.opIndex == n))
        || slots.any (fun m => m.place == (a, c) && m.opIndex == n))) s
  let s := if started then chosen.elim s (fun c => startPass s ea c) else s
  let run := if siteIsMt site then [] else ctxs4.flatMap (fun c => stageMoves s ea c)
  { s with burst := run ++ firing ++ slots ++ quiet ++ s.burst }

/-- The next stage of a pass: a disabled stage hands its input on (R77). -/
def stageNext (s : State) (ea : EAddr) (c : BitVec 2) : State × Option Instr :=
  let e := s.elem ea c
  match e.pass with
  | none => (s, none)
  | some p =>
    if e.stopped || e.captured then (s, none)
    else if e.stageOn p.stage then (s, opInstr (e.stageWord p.stage))
    else (s.setElem ea c (passOn e p p.prev), none)

end Sys2Proof.Machine
end

