-- ==== Sys2Proof/Machine/Moves.lean ====
section
/-! DEFINITION. Machine/Moves.lean: what acts next. The coming moves of the units and of the outside world are taken from State; when
none is listed the units take their turns one after another. From a move come the state in which its instruction runs and that instruction:
fetched and decoded for a sequencer, gathered for a loader, read from the ring for an engine queue, taken from the configuration for an
operator. -/

namespace Sys2Proof.Machine

/-! ## The instruction of a move -/

/-- The sequencer of a block: an event interrupt, a failing fetch, a word that is no instruction, or the instruction at the pc. -/
def sqNext (s : State) (b : BitVec 6) : State × Option Instr :=
  if !(s.sq b).run then (s, none)
  else if interruptible s b then (s, some .eventInterrupt)
  else
    match fetchWord s b with
    | (s, .wait) => (s, none)
    | (s, .fail sub detail) => (s, some (.instructionFetchFault sub detail))
    | (s, .word w) =>
      match decodeSq w with
      | .ok i => (s, some i)
      | .error _ => (s, some .illegalInstruction)

/-- The loader of a block: the command that its words make up (R276, R335). -/
def loaderNext (s : State) (b : BitVec 6) : State × Option Instr :=
  let s := loaderFill s b
  let q := s.sq b
  match q.run && openComplete q.opened, q.opened with
  | true, w :: vals =>
    match decodeCommand w vals with
    | .ok i => (s, some i)
    | .error _ => (badCommand s b w, none)
  | _, _ => (s, none)

/-- What an upset does. -/
def upset (s : State) : Upset → State
  | .link k n => s.setLink k { s.link k with lossy := n }
  | .postpone b => s.modSq b (fun q => { q with defer := true })
  | .perform b n => performStore s b n
  | .checker ea c n => s.modElem ea c (fun e => if e.stageOn n then e.setOp n { e.op n with chk := true } else e)
  | .row site b r n => if siteIsMt site then modAx s site (fun a => { a with errs := tabSet a.errs (b % 20 * 2048 + r % 2048) (min 2 n) 0 }) else s
  | .config ea => { s with ports := tabMod s.ports ea.toNat CfgPort.reset (fun p => { p with crc := p.crc ^^^ 1 }) }
  | .memory pa => { s with bad := if memoryExists pa 1 then (pa / 64) :: s.bad.filter (fun l => l != pa / 64) else s.bad }
  | .portion site c k n => s.modElem (siteEa site 0) c (fun e => if siteIsMt site then e.setOp (32 + k.toNat) { e.op (32 + k.toNat) with part := some n } else e)
  | .lines b q n => s.setEngine b q { s.engine b q with limit := some n }

/-- The state and instruction of a move. -/
def moveInstr (s : State) (m : Move) : State × Option Instr :=
  let (s, i) := match m with
    | .upset u => (upset s u, none)
    | .event _ i => (s, some i)
    | .sq b => sqNext s b
    | .loader b => loaderNext s b
    | .engine b q => engineNext s b q
    | .tile site => (if siteExists site then tileFc s site else s, none)
    | .stage ea c => stageNext s ea c
    | .slot ea c n => (s, if heldSource s m then none else (Move.slot ea c n).operator s)
    | .agn ea c n => (s, if heldSource s m then none else (Move.agn ea c n).operator s)
  ({ s with focus := m.focus }, i)

/-- What the device accepts: after a fatal error only reset, after a failed boot also a signed recovery image (R230, R313). -/
def accepts (state : BitVec 3) (m : Move) : Bool :=
  match m with
  | .event _ (.deviceReset _) => true
  | .event _ (.signedRecoveryImage _) => state.toNat ≠ 3
  | _ => state.toNat ≠ 3 && state.toNat ≠ 4

/-! ## Turns -/

/-- What a mesh direction of a site does in one fc: its channel serves one slot (R87), and the slots that it would not serve may still count
the fc or meet a breakpoint. -/
def channelMoves (s : State) (site : SiteNo) (dir : BitVec 2) (ctl : Bool) : List Move :=
  match siteNeighbour site dir with
  | none => []
  | some m =>
    let turn := channelTurn s site m dir.toNat ctl
    (ctxs4.filter (fun c => turn == some c || !slotServed s site m dir.toNat ctl c)).map (fun c =>
      Move.event .none (.tokenArrive site dir c ctl))

/-- Events of one site. -/
def siteUnit (s : State) (site : SiteNo) : List Move :=
  let ev := fun (i : Instr) => Move.event .none i
  let mt := siteIsMt site
  let agns : List (BitVec 2 × BitVec 2) := ctxs4.flatMap (fun c => ctxs4.map (fun n => (c, n)))
  (ctxs4.flatMap (fun d => channelMoves s site d false ++ channelMoves s site d true))
    ++ (if mt then agns.map (fun p => ev (.walkComplete site p.1 p.2)) else [])
    -- a forced check goes ahead of the direct accesses (R207)
    ++ (if mt then [ev (.forcedScrub site)] else [])
    ++ [.tile site]
    ++ (if mt then agns.map (fun p => ev (.accessResult site p.1 p.2)) else ctxs4.map (fun c => ev (.wsSwap site c)))
    ++ (ctxs4.flatMap (fun c => [ev (.swapOnMark (siteEa site 0) c), ev (.swapOnMark (siteEa site 1) c)]))
    ++ (if mt then
          ctxs4.map (fun g => ev (.parityLanding site g))
            ++ (axOf s site).fixes.map (fun p => ev (.correctedRowWriteback site (BitVec.ofNat 5 p.1) (BitVec.ofNat 11 p.2)))
            ++ [ev (.scrubCheck site)]
        else [])
    ++ [ev (.adaptWindow site)]

/-- Moves of one block: its sequencer, its loader and its engines. -/
def blockUnit (b : BitVec 6) : List Move :=
  let qs : List (BitVec 4) := (List.range 16).map (BitVec.ofNat 4)
  [.sq b, .loader b]
    ++ qs.flatMap (fun q => [.engine b q, .event .none (.migrationCopyDone b q), .event .none (.engineComplete b q)])

/-- Events of one task. A task stopped for debugging is resumed by the PC alone (R254). -/
def taskMoves (t : Task) : List Move :=
  let always : List Instr := [.dependenceMet, .sourceRelease, .pageFaultLimit, .watchdog, .regionFrozen, .cutComplete, .repairPass, .taskFinish, .irrevocable, .commit]
  let resumes : List Instr := if t.cutWhy.toNat < 3 then [.restore] else []
  (always ++ resumes).map (fun i => Move.event (.task t.uid) i)

/-- Events of the device's other units: the task dispatcher, the barrier unit, partitions and the host's waiting requests. The TD takes the launches of
one fc in the order of R160: those of `tsk` in the turns of the blocks, then committed `spawn`s, then the host queues by ascending number. -/
def deviceUnit (s : State) : List Move :=
  let ev := fun (i : Instr) => Move.event .none i
  s.tasks.flatMap taskMoves
    ++ s.queues.map (fun p => ev (.recordAccept (BitVec.ofNat 12 p.1)))
    ++ s.parts.map (fun p => ev (.admission (BitVec.ofNat 8 p.1)))
    ++ s.barriers.map (fun p => ev (.barrierNextPhase (BitVec.ofNat 12 p.1)))
    ++ s.parts.map (fun p => ev (.faultRecordPost (BitVec.ofNat 8 p.1)))
    ++ (s.links.filter (fun p => decide (32 ≤ p.1) && !p.2.unacked.isEmpty)).map (fun p => ev (.flitRetransmit (BitVec.ofNat 8 p.1)))
    ++ [ev .hostRequestTimeout, ev .synclost, ev .lockstepTimeout]
    ++ (if s.time / 3600000000000 ≠ s.plat.hour then [ev .hourWindow] else [])

/-- Turns of one fc: the sites in ascending element address, the blocks, the rest of the device (R248, R160). -/
def turnsPerFc : Nat := 5120 + 64 + 1

/-- The moves of a turn. -/
def turnMoves (s : State) (n : Nat) : List Move :=
  if n < 5120 then siteUnit s (BitVec.ofNat 13 (n / 1280 * 2048 + n / 40 % 32 * 64 + n % 40))
  else if n < 5184 then blockUnit (BitVec.ofNat 6 (n - 5120))
  else deviceUnit s

/-- Time of a listed move goes on by what `elapse` says, else by 1 fc. -/
def advance (s : State) : State :=
  match s.elapse with
  | [] => { s with time := s.time + 1 }
  | d :: rest => { s with time := s.time + d, elapse := rest }

/-- The host's waiting requests get their answers in each fc, unless the device accepts nothing but a reset or an image (R230, R313). -/
def hostFc (s : State) : State :=
  if s.plat.state.toNat = 3 ∨ s.plat.state.toNat = 4 then s else serveHost s s.plat.reqs

/-- The PC re-plans the voltage margins every 30 days of device time (R233). -/
def replanDue (s : State) : State :=
  if s.plat.state.toNat = 2 ∧ s.plat.planned + 2592000000000000 ≤ s.time then replanAll s else s

/-- Give a turn to the next unit; the first turn of an fc is after an fc has passed. -/
def nextTurn (s : State) : State :=
  let n := s.turn % turnsPerFc
  let s := if n = 0 then replanDue (hostFc { s with time := s.time + 1 }) else s
  { s with burst := turnMoves s n, turn := (n + 1) % turnsPerFc }

/-- The next move: operators still to run in this fc, then listed moves, then turns. -/
def takeMove (s : State) : State × Option Move :=
  match s.burst, s.agenda with
  | m :: rest, _ => ({ s with burst := rest }, some m)
  | [], m :: rest => (advance { s with agenda := rest }, some m)
  | [], [] => (nextTurn s, none)

/-- The state of the next step and the instruction that runs in it. -/
def nextInstr (s : State) : State × Option Instr :=
  match takeMove s with
  | (s, none) => (s, none)
  | (s, some m) => if accepts s.plat.state m then moveInstr s m else (s, none)

end Sys2Proof.Machine
end

