-- ==== Sys2Proof/Machine/Place.lean ====
section
/-! DEFINITION. Machine/Place.lean: placing one instruction where the next step takes it from: a sequencer's word in device memory behind
its page tables, an operator word in the configuration of an element with a token at each of its inputs (log entry 20). -/

namespace Sys2Proof.Machine

/-- Physical address of the root table of a placed program, of the frame of its code, and the virtual address of its word. -/
def placeRoot : Nat := 0x1000
def placeCode : Nat := 0x200000
def placePc : Nat := 0x1000

/-- A pointer entry, and the 2 MiB leaf of the code: V, LEAF, RD, WR, EX. -/
def placePointer (pa : Nat) : Nat := pa + 1
def placeLeaf : Nat := placeCode + 0x1F

/-- Four table levels below the root, one entry each, and the code. -/
def placeMemory (w : Nat) (m : Memory) : Memory :=
  let m := memSetNat m 0x1000 8 (placePointer 0x2000)
  let m := memSetNat m 0x2000 8 (placePointer 0x3000)
  let m := memSetNat m 0x3000 8 (placePointer 0x4000)
  let m := memSetNat m 0x4000 8 placeLeaf
  memSetNat m (placeCode + placePc) 4 w

/-- A sequencer word at the pc of block 0, in supervisor mode. -/
def placeSq (s : State) (w : Nat) : State :=
  let s := s.modPart 0 (fun p => { p with pxen := true, root := BitVec.ofNat 52 placeRoot, blocks := [0] })
  let s := s.modSq 0 (fun q => { q with run := true, pc := BitVec.ofNat 64 placePc, priv := true, ie := false, icache := [], tlb := [], hold := none })
  { s with
    dmem := placeMemory w s.dmem, frames := tabSet (tabSet s.frames 0 1 0) 1 1 0, agenda := [.sq 0], burst := []
    plat := { s.plat with state := 2 } }

/-- A data token of zeros, valid in every lane. -/
def placeToken : Token := { Token.zero with mask := 0xFFFF#16 }

/-- A bank with a word in two fields and further fields. -/
def placeBank (lo : Nat) (w : Nat) (more : List (Nat × Nat)) : Tab Word :=
  more.foldl (fun b p => tabSet b p.1 (BitVec.ofNat 32 p.2) 0) (tabSet (tabSet [] lo (BitVec.ofNat 32 w) 0) (lo + 1) (BitVec.ofNat 32 (w / 2 ^ 32)) 0)

/-- Queues with one token each. -/
def placeQueues {α : Type} [DecidableEq α] (l : List Nat) (x : α) : Tab (List α) := l.foldl (fun t i => tabSet t i [x] []) []

/-- An operator word in stage S0 of D0.Y00.X00, context 0, with a pass that has just entered S0. -/
def placeStage (s : State) (w : Nat) : State :=
  let ea := siteEa 0 0
  let pass : Pass := { ports := (List.range 4).foldl (fun t p => tabSet t p (some placeToken) none) [], stage := 0, prev := none }
  let s := s.modElem ea 0 (fun e =>
    { e with bank := placeBank 0 w [(12, 0x3C01)], inc := placeQueues [0] (ctlTok true false), pass := some pass })
  { s with agenda := [.stage ea 0], burst := [], plat := { s.plat with state := 2 } }

/-- An operator word in slot 0 of the router of D0.Y00.X00, context 0. -/
def placeSlot (s : State) (w : Nat) : State :=
  let ea := siteEa 0 1
  let s := s.modElem ea 0 (fun e =>
    { e with bank := placeBank 20 w [], inq := placeQueues [16, 17, 18] placeToken, inc := placeQueues [16, 17, 19] (ctlTok true false) })
  { s with agenda := [.slot ea 0 0], burst := [], plat := { s.plat with state := 2 } }

/-- An operator word in AGN0 of the memory tile D0.Y00.X04, context 0, bound to LOCAL. -/
def placeAgn (s : State) (w : Nat) : State :=
  let ea := siteEa 4 0
  let s := s.modElem ea 0 (fun e => { e with bank := placeBank 0 w [(8, 0x40), (15, 0x10000)], inq := placeQueues [0, 1, 2, 3] placeToken })
  { s with agenda := [.agn ea 0 0], burst := [], plat := { s.plat with state := 2 } }

/-- An instruction word placed for the next step: up to 32 bits are a sequencer word, more an operator word, by its class. -/
def placeWord (s : State) (nbits w : Nat) : State :=
  if nbits ≤ 32 then placeSq s (w % 2 ^ 32)
  else
    match opcodeOf (BitVec.ofNat 64 w) / 64 with
    | 4 => placeSlot s w
    | 5 => placeAgn s w
    | _ => placeStage s w

end Sys2Proof.Machine
end

