-- ==== Sys2Proof/Machine/Step.lean ====
section
/-! DEFINITION. Machine/Step.lean: one step of the machine: one move, and the instruction that runs in it. -/

namespace Sys2Proof.Machine

/-- One step: the instruction of the next move, or a move that runs none. -/
def step (s : State) : Host.Outcome State Fault Refusal :=
  match nextInstr s with
  | (s, none) => .next s
  | (s, some i) => exec i s

/-- The machine with the instruction of a word placed where the next step fetches it. -/
def State.withFetchWord (s : State) (nbits w : Nat) : State := placeWord s nbits w

end Sys2Proof.Machine
end

