-- ==== Sys2Proof/Safety.lean ====
section
/-! DEFINITION. Safety.lean: what counts as a safe step: one that answers a next state. -/

namespace Sys2Proof.Machine

/-- A step of this state answers a next state. -/
def State.canStep (s : State) : Prop := ∃ t, step s = .next t

end Sys2Proof.Machine
end

