-- ==== Sys2Proof/WellFormed.lean ====
section
/-! DEFINITION. WellFormed.lean: which instructions are well-formed: operator words that pass the load-time checks of
their entries (R315), and events whose operands name units that exist (R12). -/

namespace Sys2Proof

/-- A site number names a site of a die (R6). -/
def siteOk (n : SiteNo) : Bool := decide ((n.extractLsb' 0 6).toNat < 40)

/-- A site number names an MT (R6). -/
def mtOk (n : SiteNo) : Bool := siteOk n && (n.extractLsb' 0 6).toNat % 5 == 4

/-- An element address names an element (R12). -/
def eaOk (ea : EAddr) : Bool :=
  siteOk (ea.extractLsb' 3 13) && decide ((ea.extractLsb' 0 3).toNat < 4) &&
    (decide ((ea.extractLsb' 0 3).toNat < 2) || mtOk (ea.extractLsb' 3 13))

/-- A run of value words: 1 to 64 of them, not past field 63 (R276). -/
def runOk (field : BitVec 6) (vs : List Word) : Bool :=
  decide (1 ≤ vs.length) && decide (field.toNat + vs.length ≤ 64)

/-- Well-formed instructions. An operator word is checked as in a stage that is neither S0 nor S5, where the rules of
those two stages do not apply. -/
def Instr.wellFormed (i : Instr) : Bool :=
  match i.operator with
  | some (c, w) => (Machine.checkWord c.toNat 1 w).isNone
  | none =>
    match i with
    | .writeActive _ ea f vs => eaOk ea && runOk f vs
    | .writeShadow _ ea f vs => eaOk ea && runOk f vs
    | .readBack _ ea f n => eaOk ea && decide (f.toNat + countCode n ≤ 64)
    | .swap _ ea v => eaOk ea && decide (v.toNat < 2)
    | .discard _ ea v => eaOk ea && v == 0
    | .check _ ea _ => eaOk ea
    | .swapOnMark ea _ => eaOk ea
    | .errcntClear ea => eaOk ea
    | .iiCounterClear ea _ _ => eaOk ea
    | .fatalError _ ea => ea == 0 || eaOk ea
    | .adaptWindow n => siteOk n
    | .ctxarbWrite n v => siteOk n && decide (v.toNat < 2 ^ 20)
    | .tokenArrive n _ _ _ => siteOk n
    | .rtlogClear n => siteOk n
    | .accessResult n _ _ => mtOk n
    | .walkComplete n _ _ => mtOk n
    | .parityLanding n _ => mtOk n
    | .scrubCheck n => mtOk n
    | .forcedScrub n => mtOk n
    | .bankRetireCommand n v => mtOk n && decide ((v.extractLsb' 0 5).toNat < 20)
    | .axolotlCounterClear n _ => mtOk n
    | .mtcfgWrite n v => mtOk n && decide ((v.extractLsb' 0 4).toNat < 9)
    | .correctedRowWriteback n b _ => mtOk n && decide (b.toNat < 20)
    | .wsSwap n _ => siteOk n && !mtOk n
    | .capRefill n _ g => siteOk n && !mtOk n && decide (g.toNat < 6)
    | .portDown p => decide (p.toNat < 18)
    | .queueDescriptorWrite _ _ _ ctl _ _ => decide ((ctl.extractLsb' 3 4).toNat < 9)
    | _ => true

end Sys2Proof
end

