-- ==== Sys2Proof/Certificates/Slice0/Obligations.lean ====
section
/-! DEFINITION. Certificates/Slice0/Obligations.lean: what is claimed of the machine, and the tables, written from the spec's rules, that the
claims are stated with. -/

open Sys2Proof Sys2Proof.Machine

namespace Sys2Proof.Claims

/-! ## Sequencers -/

/-- The sequencer of block b runs this step's instruction: it has the focus, is not halted (R106), and waits at no page fault (R124). -/
def Runs (s : State) (b : BitVec 6) : Prop := s.focus = .sq b ∧ (s.sq b).run = true ∧ (s.sq b).hold = none

/-- The registers after an instruction that goes on at the next word. -/
def nextPc (q : Sq) : Sq := { q with pc := q.pc + 4, within := false }

/-- The register operations of Tables 15-3, 17-5 and 18-4 and `lhi`: destination, and value from the g registers. -/
def aluValue (g : BitVec 5 → DWord) : Instr → Option (BitVec 5 × DWord)
  | .addSequencer d a b => some (d, BitVec.ofNat 64 ((g a).toNat + (g b).toNat))
  | .subSequencer d a b => some (d, BitVec.ofInt 64 ((g a).toNat - (g b).toNat))
  | .andSequencer d a b => some (d, g a &&& g b)
  | .orSequencer d a b => some (d, g a ||| g b)
  | .xorSequencer d a b => some (d, g a ^^^ g b)
  | .shlSequencer d a b => some (d, BitVec.ofNat 64 ((g a).toNat * 2 ^ ((g b).toNat % 64)))
  | .shrSequencer d a b => some (d, BitVec.ofNat 64 ((g a).toNat / 2 ^ ((g b).toNat % 64)))
  | .sraSequencer d a b => some (d, BitVec.ofInt 64 ((g a).toInt / 2 ^ ((g b).toNat % 64)))
  | .mulSequencer d a b => some (d, BitVec.ofNat 64 ((g a).toNat * (g b).toNat))
  | .mulhSequencer d a b => some (d, BitVec.ofInt 64 ((g a).toInt * (g b).toInt / 2 ^ 64))
  | .slt d a b => some (d, if (g a).toInt < (g b).toInt then 1 else 0)
  | .sltn d a b => some (d, if (g a).toNat < (g b).toNat then 1 else 0)
  | .addi d a i => some (d, BitVec.ofInt 64 ((g a).toNat + i.toInt))
  | .andi d a i => some (d, g a &&& BitVec.ofNat 64 i.toNat)
  | .ori d a i => some (d, g a ||| BitVec.ofNat 64 i.toNat)
  | .xori d a i => some (d, g a ^^^ BitVec.ofNat 64 i.toNat)
  | .shli d a n => some (d, BitVec.ofNat 64 ((g a).toNat * 2 ^ n.toNat))
  | .shri d a n => some (d, BitVec.ofNat 64 ((g a).toNat / 2 ^ n.toNat))
  | .srai d a n => some (d, BitVec.ofInt 64 ((g a).toInt / 2 ^ n.toNat))
  | .slti d a i => some (d, if (g a).toInt < i.toInt then 1 else 0)
  | .lhi d i => some (d, BitVec.ofInt 64 ((i ++ (0 : BitVec 16)).toInt))
  | _ => none

/-- The quotient of R343. -/
def quotient (x y : DWord) : DWord :=
  if y = 0 then 0xFFFFFFFFFFFFFFFF#64
  else if x = 0x8000000000000000#64 ∧ y = 0xFFFFFFFFFFFFFFFF#64 then 0x8000000000000000#64
  else BitVec.ofInt 64 (x.toInt.tdiv y.toInt)

/-- One bit of the loop of R341. -/
def crcBit (c : Nat) : Nat := if c % 2 = 1 then c / 2 ^^^ 0x82F63B78 else c / 2

/-- One byte of the loop of R341. -/
def crcStep (c byte : Nat) : Nat := crcBit (crcBit (crcBit (crcBit (crcBit (crcBit (crcBit (crcBit (c ^^^ byte))))))))

/-- The loop of R341 over n bytes of x, lowest first. -/
def crcLoop (c x : Nat) : Nat → Nat
  | 0 => c
  | n + 1 => crcLoop (crcStep c (x % 256)) (x / 256) n

/-- The branches of R329: registers compared, offset, and whether the condition holds. -/
def branchOf (g : BitVec 5 → DWord) : Instr → Option (BitVec 16 × Bool)
  | .beq a b o => some (o, decide (g a = g b))
  | .bne a b o => some (o, decide (g a ≠ g b))
  | .blt a b o => some (o, decide ((g a).toInt < (g b).toInt))
  | .bge a b o => some (o, decide ((g b).toInt ≤ (g a).toInt))
  | .bltn a b o => some (o, decide ((g a).toNat < (g b).toNat))
  | .bgen a b o => some (o, decide ((g b).toNat ≤ (g a).toNat))
  | _ => none

/-- The loads of Table 16-4: destination, base, offset, bytes, and g[D] from the number read. -/
def loadOf : Instr → Option (BitVec 5 × BitVec 5 × BitVec 16 × Nat × (Nat → DWord))
  | .lb d a o => some (d, a, o, 1, fun x => (BitVec.ofNat 8 x).signExtend 64)
  | .lbn d a o => some (d, a, o, 1, fun x => BitVec.ofNat 64 x)
  | .lh d a o => some (d, a, o, 2, fun x => (BitVec.ofNat 16 x).signExtend 64)
  | .lhn d a o => some (d, a, o, 2, fun x => BitVec.ofNat 64 x)
  | .lw d a o => some (d, a, o, 4, fun x => (BitVec.ofNat 32 x).signExtend 64)
  | .lwn d a o => some (d, a, o, 4, fun x => BitVec.ofNat 64 x)
  | .lq d a o => some (d, a, o, 8, fun x => BitVec.ofNat 64 x)
  | _ => none

/-- The stores of Table 18-1: source, base, offset, bytes. -/
def storeOf : Instr → Option (BitVec 5 × BitVec 5 × BitVec 16 × Nat)
  | .sb d a o => some (d, a, o, 1)
  | .sh d a o => some (d, a, o, 2)
  | .sw d a o => some (d, a, o, 4)
  | .sq d a o => some (d, a, o, 8)
  | _ => none

/-- The atomics of R322: destination, base, and the word written from the registers and the old word. -/
def atomicOf (g : BitVec 5 → DWord) : Instr → Option (BitVec 5 × BitVec 5 × (DWord → Option DWord))
  | .amadd d a b => some (d, a, fun old => some (old + g b))
  | .amswp d a b => some (d, a, fun _ => some (g b))
  | .amcas d a b => some (d, a, fun old => if old = g d then some (g b) else none)
  | _ => none

/-- Address of a load or store. -/
def address (q : Sq) (a : BitVec 5) (o : BitVec 16) : DWord := BitVec.ofInt 64 ((q.getG a).toNat + o.toInt)

/-- An address of the local data RAM: bits [63:60] are 0xE and bits [59:12] are 0 (Table 3-8). -/
def inRam (x : DWord) : Prop := x.toNat / 2 ^ 12 = 0xE000000000000

/-- The word at an offset of a block's local data RAM, little-endian. -/
def ramNat (s : State) (b : BitVec 6) (off n : Nat) : Nat := bytesToNat ((List.range n).map (fun i => memByte s.lram (b.toNat * 4096 + off + i)))

/-- What the trap of R241 with cause k at address a makes of the registers. -/
def trapped (q : Sq) (a : DWord) (k sub : Nat) (detail : Nat) : Sq :=
  { q with
    epc := if k = 5 then a + 4 else a
    ppl := q.priv, pie := q.ie, ie := false, priv := true
    cause := BitVec.ofNat 64 (detail % 2 ^ 48 * 2 ^ 16 + sub % 256 * 256 + k % 256)
    pc := q.tvec + BitVec.ofNat 64 (32 * k)
    hold := none, within := false }

/-- Everything of the machine but the registers of one sequencer and its block's local data RAM is as before. -/
def onlySqRam (s t : State) (b : BitVec 6) (q : Sq) : Prop := t = { s.setSq b q with lram := t.lram }

/-- Every earlier access of the sequencer has been performed: no store waits, and none waits for the other side of a lockstep pair (R353, R262). -/
def Ordered (s : State) (b : BitVec 6) : Prop := (s.sq b).pend = [] ∧ unitWaits s (s.sq b).part.toNat b 0 0 0 = false

/-- Forms before which every earlier access of the sequencer is performed (R326, R353, R397, R404, R408, R424). -/
def orders : Instr → Bool
  | .fen _ => true
  | .bara _ _ => true
  | .qappEngine _ _ _ => true
  | .qappWork _ _ _ => true
  | .sealRange _ _ _ => true
  | .shdn _ _ => true
  | .tsk _ _ => true
  | _ => false

/-- Forms that only a supervisor may execute (R303, Tables 13-10 and 13-11). -/
def supervisorForm : Instr → Bool
  | .eret => true
  | .cfgs _ _ => true
  | .cfgw _ => true
  | .cfgq _ => true
  | .qappWork _ _ _ => true
  | .tlbi _ _ => true
  | .shdn _ _ => true
  | .sealRange _ _ _ => true
  | .mark _ => true
  | .rsm _ => true
  | _ => false

end Sys2Proof.Claims

/-- R365, R402 and R322 in the local data RAM: an aligned load reads its bytes little-endian into g[D] and changes nothing else; an aligned
store writes the low bytes of g[D] there; an atomic gives g[D] the old word and replaces it as the operation says, and a failed `amcas` writes nothing.
Every other byte of every local data RAM reads as before. -/
def Obligations.RamAccesses : Prop :=
  (∀ (s : State) (b : BitVec 6) (i : Instr) (d a : BitVec 5) (o : BitVec 16) (n : Nat) (f : Nat → DWord), Claims.Runs s b →
     Claims.loadOf i = some (d, a, o, n, f) →
     let x := Claims.address (s.sq b) a o
     Claims.inRam x → x.toNat % n = 0 →
     exec i s = .next (s.setSq b (Claims.nextPc ((s.sq b).setG d (f (Claims.ramNat s b (x.toNat % 4096) n)))))) ∧
  (∀ (s : State) (b : BitVec 6) (i : Instr) (d a : BitVec 5) (o : BitVec 16) (n : Nat), Claims.Runs s b → memWf s.lram = true →
     Claims.storeOf i = some (d, a, o, n) →
     let x := Claims.address (s.sq b) a o
     Claims.inRam x → x.toNat % n = 0 →
     ∃ t, exec i s = .next t ∧ Claims.onlySqRam s t b (Claims.nextPc (s.sq b)) ∧
       Claims.ramNat t b (x.toNat % 4096) n = ((s.sq b).getG d).toNat % 256 ^ n ∧
       ∀ k, (k < b.toNat * 4096 + x.toNat % 4096 ∨ b.toNat * 4096 + x.toNat % 4096 + n ≤ k) → memByte t.lram k = memByte s.lram k) ∧
  (∀ (s : State) (b : BitVec 6) (i : Instr) (d a : BitVec 5) (w : DWord → Option DWord), Claims.Runs s b → memWf s.lram = true →
     Claims.atomicOf (s.sq b).getG i = some (d, a, w) →
     let x := (s.sq b).getG a
     let off := x.toNat % 4096
     let old := BitVec.ofNat 64 (Claims.ramNat s b off 8)
     Claims.inRam x → x.toNat % 8 = 0 →
     ∃ t, exec i s = .next t ∧ Claims.onlySqRam s t b (Claims.nextPc ((s.sq b).setG d old)) ∧
       Claims.ramNat t b off 8 = ((w old).getD old).toNat ∧
       ∀ k, (k < b.toNat * 4096 + off ∨ b.toNat * 4096 + off + 8 ≤ k) → memByte t.lram k = memByte s.lram k)

/-- Table 3-8 and the SUB of Table 10-5: how a data address is decoded, and the trap of a load, store or atomic whose address is not. -/
def Obligations.DataAddresses : Prop :=
  ∀ (s : State) (b : BitVec 6) (x : DWord) (n : Nat), (n = 1 ∨ n = 2 ∨ n = 4 ∨ n = 8) →
    let top := x.toNat / 2 ^ 60
    let low := x.toNat % 2 ^ 60
    let r := sqPlace s b x n n
    (top = 0xE → low / 2 ^ 12 ≠ 0 → r = .error 1) ∧
    (top = 0xE → low / 2 ^ 12 = 0 → r = if x.toNat % n = 0 then .ok (.ram (x.toNat % 4096)) else .error 3) ∧
    (top = 0xF → low / 2 ^ 25 ≠ 0 → r = .error 1) ∧
    (top = 0xF → low / 2 ^ 25 = 0 →
      let site := blockMt b.toNat (x.toNat / 2 ^ 21 % 16)
      let off := x.toNat % 2 ^ 21
      r = if programRange s site < off / n * n + n then .error 2 else if x.toNat % n = 0 then .ok (.spad site off) else .error 3) ∧
    (top = 0 → low / 2 ^ 57 ≠ 0 → r = .error 1) ∧
    (top = 0 → low / 2 ^ 57 = 0 → r = if x.toNat % n = 0 then .ok (.device x.toNat) else .error 3) ∧
    (top ≠ 0xE → top ≠ 0xF → top ≠ 0 → r = .error 1)

/-- R420, R241, R345 and R303: `svc` takes the trap of cause 5 with SQ.EPC behind it, except for code 31 at supervisor level; `eret`
restores level, IE and pc; a word that is no instruction takes cause 2 with its SUB. -/
def Obligations.TrapsAndReturn : Prop :=
  ∀ (s : State) (b : BitVec 6), Claims.Runs s b →
    let q := s.sq b
    (∀ c : BitVec 5, (c.toNat ≠ 31 ∨ q.priv = false) → exec (.svc c) s = .next (s.setSq b (Claims.trapped q q.pc 5 c.toNat 0))) ∧
    (q.priv = true → exec .eret s = .next (s.setSq b
      { q with priv := q.ppl, ie := q.pie, pc := BitVec.ofNat 64 (q.epc.toNat / 4 * 4), within := false })) ∧
    (∀ w e, icacheGet q.icache q.pc.toNat = some w → decodeSq w = .error e →
      exec .illegalInstruction s = .next (s.setSq b (Claims.trapped q q.pc 2
        (match e with | .allZero => 3 | .reservedField => 2 | _ => 1) 0))) ∧
    (∀ (sub : BitVec 8) (detail : BitVec 48), ¬ ((q.pc - q.tvec).toNat % 32 = 0 ∧ 1 ≤ (q.pc - q.tvec).toNat / 32 ∧ (q.pc - q.tvec).toNat / 32 ≤ 6) →
      exec (.instructionFetchFault sub detail) s = .next (s.setSq b (Claims.trapped q q.pc 1 sub.toNat detail.toNat)))

/-- R365, R402, R322, R303, R239 and R241: an access whose address does not decode traps with cause 4 and its SUB, a supervisor-only form at user
level with cause 3, SUB 2, and neither does anything else. R106: a halted sequencer runs nothing: no sequencer instruction changes anything on its behalf. -/
def Obligations.TrappedAndHalted : Prop :=
  (∀ (s : State) (b : BitVec 6) (i : Instr) (sub : BitVec 8), Claims.Runs s b →
     let trap := Claims.trapped (s.sq b) (s.sq b).pc 4 sub.toNat 0
     (∀ d a o n f, Claims.loadOf i = some (d, a, o, n, f) → sqPlace s b (Claims.address (s.sq b) a o) n n = .error sub →
       exec i s = .next (s.setSq b trap)) ∧
     (∀ d a o n, Claims.storeOf i = some (d, a, o, n) → sqPlace s b (Claims.address (s.sq b) a o) n n = .error sub →
       exec i s = .next (s.setSq b trap)) ∧
     (∀ d a w, Claims.atomicOf (s.sq b).getG i = some (d, a, w) → sqPlace s b ((s.sq b).getG a) 8 8 = .error sub →
       exec i s = .next (s.setSq b trap))) ∧
  (∀ (s : State) (b : BitVec 6) (i : Instr), Claims.Runs s b → Claims.supervisorForm i = true → (s.sq b).priv = false →
     exec i s = .next (s.setSq b (Claims.trapped (s.sq b) (s.sq b).pc 3 2 0))) ∧
  (∀ (s : State) (b : BitVec 6) (i : Instr), s.focus = .sq b → (s.sq b).run = false → (encodeSq i).isSome = true → exec i s = .next s)

/-- R321, R376, R391 and R410: a register operation writes g[D], goes on at the next word, and changes nothing else; g0 takes no write. R343 and
the `rem` of R391: quotient and remainder, the sticky DIVZ, nothing else. R341: `crc` folds 1, 2, 4 or 8 bytes of g[B] into g[A][31:0]. -/
def Obligations.RegisterOperations : Prop :=
  (∀ (s : State) (b : BitVec 6) (i : Instr) (d : BitVec 5) (v : DWord), Claims.Runs s b → Claims.aluValue (s.sq b).getG i = some (d, v) →
     exec i s = .next (s.setSq b (Claims.nextPc ((s.sq b).setG d v)))) ∧
  ((∀ (s : State) (b : BitVec 6) (d a c : BitVec 5), Claims.Runs s b →
       let q := s.sq b
       let x := q.getG a
       let y := q.getG c
       let z : Bool := q.divz || decide (y = 0)
       exec (.div d a c) s = .next (s.setSq b { Claims.nextPc (q.setG d (Claims.quotient x y)) with divz := z }) ∧
       exec (.rem d a c) s = .next (s.setSq b { Claims.nextPc (q.setG d (x - Claims.quotient x y * y)) with divz := z })) ∧
   (∀ (s : State) (b : BitVec 6) (d a c : BitVec 5) (n : BitVec 2), Claims.Runs s b →
       let q := s.sq b
       exec (.crc d a c n) s = .next (s.setSq b (Claims.nextPc (q.setG d
         (BitVec.ofNat 64 (Claims.crcLoop ((q.getG a).toNat % 2 ^ 32) (q.getG c).toNat (2 ^ n.toNat))))))))

/-- R329: a branch sets the pc and nothing else. R361: `jal` and `jr`; the target of `jr` is formed before g[D] is written. -/
def Obligations.ControlTransfers : Prop :=
  (∀ (s : State) (b : BitVec 6) (i : Instr) (o : BitVec 16) (c : Bool), Claims.Runs s b → Claims.branchOf (s.sq b).getG i = some (o, c) →
      exec i s = .next (s.setSq b { s.sq b with
        pc := if c then BitVec.ofInt 64 ((s.sq b).pc.toNat + o.toInt * 4) else (s.sq b).pc + 4, within := false })) ∧
  (∀ (s : State) (b : BitVec 6), Claims.Runs s b →
      let q := s.sq b
      (∀ o : BitVec 26, exec (.jal o) s = .next (s.setSq b
        { q.setG 31 (q.pc + 4) with pc := BitVec.ofInt 64 (q.pc.toNat + o.toInt * 4), within := false })) ∧
      (∀ (d a : BitVec 5) (i : BitVec 16), exec (.jr d a i) s = .next (s.setSq b
        { q.setG d (q.pc + 4) with pc := Claims.address q a i &&& ~~~3#64, within := false })))

/-- R365 and R402, spaces other than the local data RAM: a load whose address decodes and whose read answers completes with what was read, and a
store whose write is made completes; every register but g[D] of a load and the pc is as the access left it. -/
def Obligations.SpaceAccesses : Prop :=
  (∀ (s t : State) (b : BitVec 6) (i : Instr) (d a : BitVec 5) (o : BitVec 16) (n x : Nat) (f : Nat → DWord) (p : SqPlace), Claims.Runs s b →
      Claims.loadOf i = some (d, a, o, n, f) → sqPlace s b (Claims.address (s.sq b) a o) n n = .ok p → sqRead s b p n = (t, some x) →
      exec i s = .next (t.setSq b (Claims.nextPc ((t.sq b).setG d (f x))))) ∧
  (∀ (s t : State) (b : BitVec 6) (i : Instr) (d a : BitVec 5) (o : BitVec 16) (n : Nat) (p : SqPlace), Claims.Runs s b →
      Claims.storeOf i = some (d, a, o, n) → sqPlace s b (Claims.address (s.sq b) a o) n n = .ok p →
      sqWrite s b p n ((s.sq b).getG d).toNat = (t, true) →
      exec i s = .next (t.setSq b (Claims.nextPc (t.sq b))))

/-- R104 and R383: what `mfs` reads at supervisor level, index by index (Table 3-9); an unlisted index traps with cause 2, SUB 1. R384: what `mts` writes, field by field, when no event waits for room in the queue. R104 and R383: `mts` to a register that the level may not
write traps, with cause 3, SUB 1 where user level has no access at all, else cause 2, SUB 4. -/
def Obligations.SystemRegisters : Prop :=
  (∀ (s : State) (b : BitVec 6) (d x : BitVec 5), Claims.Runs s b →
     let q := s.sq b
     let flag := fun (c : Bool) (n : Nat) => if c then 2 ^ n else 0
     let status : Nat := flag q.ie 0 + flag q.ppl 1 + flag q.pie 2 + flag q.divz 3 + flag ((q.evTail - q.evHead).toNat = 256) 4
     let value : Nat := match x.toNat with
       | 0 => status
       | 1 => q.cause.toNat
       | 2 => q.epc.toNat
       | 3 => q.tvec.toNat
       | 4 => q.scratch.toNat
       | 5 => s.time
       | 6 => q.evBase.toNat + 2 ^ 32 * q.evTail.toNat
       | 7 => q.evHead.toNat
       | 8 => b.toNat
       | 9 => q.part.toNat
       | 11 => q.tskq.toNat
       | 12 => flag q.priv 0
       | _ => q.cfgstatWord.toNat
     (x.toNat < 13 → (q.priv = true ∨ (5 ≤ x.toNat ∧ x.toNat ≠ 11)) →
       exec (.mfs d x) s = .next (s.setSq b (Claims.nextPc (q.setG d (BitVec.ofNat 64 value))))) ∧
     ((x.toNat < 5 ∨ x.toNat = 11) → q.priv = false → exec (.mfs d x) s = .next (s.setSq b (Claims.trapped q q.pc 3 1 0))) ∧
     (13 ≤ x.toNat → exec (.mfs d x) s = .next (s.setSq b (Claims.trapped q q.pc 2 1 0)))) ∧
  ((∀ (s : State) (b : BitVec 6) (a x : BitVec 5), Claims.Runs s b → tabRising none s.sqs = true → (s.sq b).evHeld = [] →
       let q := s.sq b
       let v := q.getG a
       let n := Claims.nextPc q
       let head := BitVec.ofNat 9 v.toNat
       let wr := fun (k : Nat) (r : Sq) => x.toNat = k → q.priv = true → exec (.mts a x) s = .next (s.setSq b r)
       wr 0 { n with ie := v.getLsbD 0, ppl := v.getLsbD 1, pie := v.getLsbD 2, divz := q.divz && !v.getLsbD 3 } ∧
       wr 1 { n with cause := v } ∧ wr 2 { n with epc := v } ∧ wr 3 { n with tvec := BitVec.ofNat 64 (v.toNat / 256 * 256) } ∧
       wr 4 { n with scratch := v } ∧
       wr 6 { n with evBase := BitVec.ofNat 25 (v.toNat / 2 ^ 13 * 2 ^ 13), evTail := q.evHead } ∧
       (x.toNat = 7 → exec (.mts a x) s = .next (s.setSq b (if 256 < (q.evTail - head).toNat then n else { n with evHead := head }))) ∧
       wr 11 { n with tskq := BitVec.ofNat 12 v.toNat }) ∧
   (∀ (s : State) (b : BitVec 6) (a x : BitVec 5), Claims.Runs s b →
       let q := s.sq b
       ((x.toNat < 5 ∨ x.toNat = 11) → q.priv = false → exec (.mts a x) s = .next (s.setSq b (Claims.trapped q q.pc 3 1 0))) ∧
       ((x.toNat = 5 ∨ x.toNat = 8 ∨ x.toNat = 9 ∨ x.toNat = 10 ∨ 12 ≤ x.toNat ∨ (x.toNat = 6 ∧ q.priv = false)) →
         exec (.mts a x) s = .next (s.setSq b (Claims.trapped q q.pc 2 4 0)))))

/-- R239 and R241: an event interrupt is taken between instructions while IE is 1 and the queue holds an event. R426, R353: `wfe` completes once
the queue holds an event and otherwise leaves every register but the wait's own mark; `fen` completes. R346: `evp` of an empty queue gives 0; of
another, the entry at HEAD (what a read of the ring answers) goes to the event window, g[D] takes its first 8 bytes, and HEAD advances. R326, R353,
R397, R404, R408 and R424: a form that orders performs every earlier store of the sequencer first, and then waits while one is not performed. -/
def Obligations.Events : Prop :=
  (∀ (s : State) (b : BitVec 6), Claims.Runs s b →
      let q := s.sq b
      q.ie = true → q.evTail ≠ q.evHead → q.within = false → q.arrival = none →
      exec .eventInterrupt s = .next (s.setSq b (Claims.trapped q q.pc 6 0 0))) ∧
  (∀ (s : State) (b : BitVec 6), Claims.Runs s b →
      let q := s.sq b
      (q.evTail ≠ q.evHead → exec .wfe s = .next (s.setSq b (Claims.nextPc q))) ∧
      (q.evTail = q.evHead → exec .wfe s = .next (s.setSq b { q with within := true })) ∧
      (Claims.Ordered s b → ∀ sc, exec (.fen sc) s = .next (s.setSq b (Claims.nextPc q))) ∧
      (∀ i, Claims.orders i = true → Claims.supervisorForm i = false ∨ q.priv = true →
        let u := performAll s b
        u.focus = s.focus → (u.sq b).run = true → (u.sq b).hold = none → (u.sq b).priv = q.priv → (u.sq b).pend = [] →
        exec i s = if unitWaits u (u.sq b).part.toNat b 0 0 0 = true then .next (u.setSq b { u.sq b with within := true }) else exec i u) ∧
      (∀ d, q.evTail = q.evHead → exec (.evp d) s = .next (s.setSq b (Claims.nextPc (q.setG d 0))))) ∧
  (∀ (s u : State) (b : BitVec 6) (d : BitVec 5) (x : Nat) (f : Bool), Claims.Runs s b → (s.sq b).evTail ≠ (s.sq b).evHead →
      (s.sq b).evHeld = [] → memWf s.lram = true → tabRising none s.sqs = true →
      let q := s.sq b
      let a := q.evBase.toNat + 32 * (q.evHead.toNat % 256)
      spadReadNat s (blockMt b.toNat (a / 2 ^ 21 % 16)) (a % 2 ^ 21) 32 = (u, x, f) → u.sqs = s.sqs → u.lram = s.lram →
      ∃ t, exec (.evp d) s = .next t ∧ t.sq b = { Claims.nextPc (q.setG d (BitVec.ofNat 64 x)) with evHead := q.evHead + 1 } ∧
        (∀ c, c ≠ b → t.sq c = s.sq c) ∧ Claims.ramNat t b 0xFE0 32 = x % 256 ^ 32 ∧
        ∀ k, (k < b.toNat * 4096 + 0xFE0 ∨ b.toNat * 4096 + 0x1000 ≤ k) → memByte t.lram k = memByte s.lram k)

namespace Sys2Proof.Claims

/-! ## Stages of a compute tile -/

/-- The stage's operator decodes the headers of its stream: FMT 0 where the entry lists formats (R34). -/
def decodes (v : View) (fmts : List Nat) : Bool := v.w.fmt == 0 && !fmts.isEmpty

/-- The format in force: FMT, or what the last header decoded (R34). -/
def format (v : View) (fmts : List Nat) : Nat := if decodes v fmts then v.op.fmt.toNat else v.w.fmt.toNat

/-- Elements of the token at hand that the packet's COUNT covers; all of them outside a packet. -/
def covered (v : View) (fmts : List Nat) : Nat :=
  if decodes v fmts && decide (0 < v.op.rem) then min v.op.elems (fmtElems (format v fmts)) else fmtElems (format v fmts)

/-- Tokens at the port and previous-stage sources. -/
def portsOf (p : Pass) (codes : List Nat) : List Token := (codes.filter (fun c => decide (c ≤ 4))).filterMap (portToken p)

/-- The token that leads a firing: the first of them. -/
def lead (p : Pass) (codes : List Nat) : Token := (portsOf p codes).headD (emptyToken Token.zero)

/-- Stage v.n of context v.ctx of the tile body v.ea has the focus with word v.w of opcode `code`, its context's pass p stands at it, every
source it needs is there, no earlier result waits, its context is not stopped, and its output port has room. -/
structure Stands (s : State) (v : View) (p : Pass) (code : Nat) : Prop where
  focus   : s.focus = .stage v.ea v.ctx
  elem    : v.e = s.elem v.ea v.ctx
  stage   : v.n = p.stage
  op      : v.op = v.e.op v.n
  pass    : v.e.pass = some p
  running : v.e.stopped = false
  clear   : v.op.res = []
  alive   : (v.op.ended && isSource code v.w) = false
  sources : ∀ c ∈ sourceCodes code v.w, c ≤ 4 → (portToken p c).isSome = true
  room    : v.w.dst.toNat ≤ 3 → outputRoom s v.ea v.ctx v.w.dst.toNat = true

/-- The predicate gate (R41, R294): absent, or open for a token of a kind; `popped` says that a control token goes with it. -/
def GateOpen (v : View) (k : TokKind) (popped : Bool) : Prop :=
  if v.w.pg = 1 then gateOf v.e v.op v.n k = (.open_ false, popped) else popped = false

/-- The stage stands with data tokens only, of a known format, and its gate lets them through. -/
structure OnData (s : State) (v : View) (p : Pass) (code : Nat) (fmts : List Nat) (popped : Bool) : Prop extends Stands s v p code where
  data : ∀ t ∈ portsOf p (sourceCodes code v.w), t.kind = .data
  seen : decodes v fmts = true → v.op.seen = true
  gate : GateOpen v .data popped

/-- The operands of a firing on data (R27, R29, R292). -/
def operands (v : View) (p : Pass) (code : Nat) (fmts : List Nat) : Operands :=
  operandsOf v p (format v fmts) (sourceCodes code v.w) (covered v fmts)

/-- The operator's record of its stream after a data token (R33, R34). -/
def followed (v : View) (p : Pass) (code : Nat) (fmts : List Nat) : OpSt :=
  if decodes v fmts || v.w.pg == 1 then trackPacket v.op (lead p (sourceCodes code v.w)) v.op.sel false else v.op

/-- A tagged firing with a token of `rand` poisons the task's random stream (R217, R399). -/
def withRandom (x : Operands) (r : StageOut) : StageOut := { r with poison := r.poison || (x.side.etag && (x.a.rand || x.b.rand || x.c.rand)) }

/-- The machine after a firing on data with outcome r: the gate's control token is gone, and the outcome is delivered (R293). -/
def fired (s : State) (v : View) (p : Pass) (code : Nat) (popped : Bool) (r : StageOut) : State :=
  let g := gateIndex v.e v.n
  let s := if popped then s.modElem v.ea v.ctx (fun e => e.setCtlQueue g (e.ctlQueue g).tail) else s
  applyOut s v p (lead p (sourceCodes code v.w)) (if popped then { r with op := countPair r.op false } else r)

/-- The token that a firing computes: sideband from the lead, LANEMASK m, every valid element the given pattern, every invalid one and every
invalid lane zero, and right residues in valid lanes where the operands' residues are right (R27, R29, R30, R54, R214). -/
structure Computed (x : Operands) (t : Token) (m : BitVec 16) (f : Nat) (g : Nat → Nat) : Prop where
  side  : t = { x.side with pay := t.pay, mask := m, kind := .data, level := 0, res := t.res }
  elems : ∀ i < fmtElems f, elemNat t.pay (fmtWidth f) i = if elemValid m (fmtWidth f) i then g i else 0
  lanes : ∀ j < 16, maskBit m j = false → laneNat t.pay j = 0 ∧ resNat t.res j = 0
  res   : (∀ u ∈ [x.a, x.b, x.c], ∀ j < 16, maskBit m j = true → resNat u.res j = laneNat u.pay j % 15) →
            ∀ j < 16, maskBit m j = true → resNat t.res j = laneNat t.pay j % 15

/-- The number an element pattern stands for (R53, R56). -/
def num (f p : Nat) : Int := if fmtSigned f = true ∧ 2 ^ (fmtWidth f - 1) ≤ p then (p : Int) - 2 ^ fmtWidth f else p

/-- Wrap: the pattern congruent to x modulo 2^w (R56). -/
def wrap (w : Nat) (x : Int) : Nat := (BitVec.ofInt w x).toNat

/-- Deliver an exact result by SAT (R56). -/
def deliver (f : Nat) (sat : BitVec 1) (x : Int) : Nat :=
  let w := fmtWidth f
  let lo : Int := if fmtSigned f then -2 ^ (w - 1) else 0
  let hi : Int := if fmtSigned f then 2 ^ (w - 1) - 1 else 2 ^ w - 1
  wrap w (if sat = 1 then max lo (min hi x) else x)

/-- A pattern of width w as a bit vector, and back. -/
def bv (w : Nat) (g : BitVec w → BitVec w → BitVec w) (a b : Nat) : Nat := (g (BitVec.ofNat w a) (BitVec.ofNat w b)).toNat

/-- Whether condition c of `cmp` holds (R337). -/
def holds (c : Nat) (a b : Int) : Bool :=
  match c with
  | 0 => decide (a = b)
  | 1 => decide (a ≠ b)
  | 2 => decide (a < b)
  | 3 => decide (a ≤ b)
  | 4 => decide (b < a)
  | _ => decide (b ≤ a)

/-- POS, LEN and SX of the bit-field operators (R330). -/
def fieldPos (w : OpWord) : Nat := w.imm.toNat % 128
def fieldLen (w : OpWord) : Nat := w.imm.toNat / 128 % 128

/-- The bit-field operators' load rule (R330); any other operator's is empty. -/
def fieldFits (i : Instr) (w f : Nat) : Prop :=
  match i with
  | .bfx o => 1 ≤ fieldLen o ∧ fieldPos o + fieldLen o ≤ w ∧ 1 ≤ f
  | .bfi o => 1 ≤ fieldLen o ∧ fieldPos o + fieldLen o ≤ w ∧ 1 ≤ f
  | .cmp o => o.imm.toNat ≤ 5
  | _ => True

/-- Tables 15-1, 17-1 and 18-3, R330 and R337: format, and the pattern of an element from those of A, B and C. -/
def intElement : Instr → Option (Nat → Nat → Nat → Nat → Nat)
  | .addFabric o => some (fun f a b _ => deliver f o.sat (num f a + num f b))
  | .subFabric o => some (fun f a b _ => deliver f o.sat (num f a - num f b))
  | .mulFabric o => some (fun f a b _ => deliver f o.sat (num f a * num f b))
  | .mulhFabric _ => some (fun f a b _ => wrap (fmtWidth f) (num f a * num f b / 2 ^ fmtWidth f))
  | .mad o => some (fun f a b c => deliver f o.sat (num f a * num f b + num f c))
  | .min _ => some (fun f a b _ => if num f a ≤ num f b then a else b)
  | .max _ => some (fun f a b _ => if num f b ≤ num f a then a else b)
  | .abs o => some (fun f a _ _ => deliver f o.sat |num f a|)
  | .neg o => some (fun f a _ _ => deliver f o.sat (-num f a))
  | .andFabric _ => some (fun f a b _ => bv (fmtWidth f) (· &&& ·) a b)
  | .orFabric _ => some (fun f a b _ => bv (fmtWidth f) (· ||| ·) a b)
  | .xorFabric _ => some (fun f a b _ => bv (fmtWidth f) (· ^^^ ·) a b)
  | .andn _ => some (fun f a b _ => bv (fmtWidth f) (fun x y => x &&& ~~~y) a b)
  | .shlFabric o => some (fun f a b _ => deliver f o.sat (num f a * 2 ^ b))
  | .shrFabric _ => some (fun _ a b _ => a / 2 ^ b)
  | .sraFabric _ => some (fun f a b _ => bv (fmtWidth f) (fun x _ => x.sshiftRight b) a b)
  | .rot _ => some (fun f a b _ => bv (fmtWidth f) (fun x _ => x.rotateLeft b) a b)
  | .clz _ => some (fun f a _ _ => ((List.range (fmtWidth f)).takeWhile (fun i => !a.testBit (fmtWidth f - 1 - i))).length)
  | .popc _ => some (fun f a _ _ => (List.range (fmtWidth f)).countP (fun i => a.testBit i))
  | .cmp o => some (fun f a b _ => if holds (o.imm.toNat % 8) (num f a) (num f b) then 2 ^ fmtWidth f - 1 else 0)
  | .bfx o => some (fun f a _ _ =>
      let x := a / 2 ^ fieldPos o % 2 ^ fieldLen o
      if o.imm.getLsbD 14 ∧ x.testBit (fieldLen o - 1) then x + 2 ^ fmtWidth f - 2 ^ fieldLen o else x)
  | .bfi o => some (fun _ a b _ =>
      a / 2 ^ (fieldPos o + fieldLen o) * 2 ^ (fieldPos o + fieldLen o) + b % 2 ^ fieldLen o * 2 ^ fieldPos o + a % 2 ^ fieldPos o)
  | _ => none

/-- Source lane of output lane j, R367: `lbc`, `lrot`, `lperm`; and `mov` (R389). -/
def sourceLane (x : Operands) : Instr → Option (Nat → Option Nat)
  | .mov _ => some (fun j => if maskBit x.mask j then some j else none)
  | .lbc o => some (fun _ => some (o.imm.toNat % 16))
  | .lrot o => some (fun j => some ((j + 16 - o.imm.toNat % 16) % 16))
  | .lperm _ => some (fun j =>
      if maskBit x.b.mask j ∧ laneNat x.b.pay j / 16 % 2 = 0 then some (laneNat x.b.pay j % 16) else none)
  | _ => none

/-- The formats that FMT 0 of a reduction may decode (R377). -/
def reductionFormats (w : OpWord) : List Nat :=
  if w.fmt = 0 then (if w.imm.toNat % 8 ≤ 2 then [1, 2, 3, 4, 5, 6, 7, 10, 11, 12, 13] else [1, 2, 3, 4, 5, 6, 7]) else []

end Sys2Proof.Claims

/-- R317, R330, R337, R379 and R409 for every format and mask, with FMT decoded or given, with the gate open or absent: the firing completes,
and every valid element of its token is F of the operands' elements. -/
def Obligations.IntegerOperators : Prop :=
  ∀ (s : State) (v : View) (p : Pass) (i : Instr) (code : BitVec 9) (popped : Bool) (g : Nat → Nat → Nat → Nat → Nat),
    i.operator = some (code, v.w) → Claims.intElement i = some g →
    Claims.OnData s v p code.toNat (decodable code.toNat) popped →
    let x := Claims.operands v p code.toNat (decodable code.toNat)
    let w := fmtWidth x.fmt
    Claims.fieldFits i w x.fmt →
    ∃ t, Claims.Computed x t x.mask x.fmt (fun k => g x.fmt (elemNat x.a.pay w k) (elemNat x.b.pay w k) (elemNat x.c.pay w k)) ∧
      exec i s = .next (Claims.fired s v p code.toNat popped
        (Claims.withRandom x (.emit (Claims.followed v p code.toNat (decodable code.toNat)) t)))

namespace Sys2Proof.Claims

/-- A token of moved lanes: lane j shows lane k of a token u for `src j = some (u, k)`, with its mask bit and residue; no other lane is
valid, and invalid lanes are zero (R30, R367). -/
structure Moved (x : Operands) (t : Token) (src : Nat → Option (Token × Nat)) : Prop where
  side : t = { x.side with pay := t.pay, mask := t.mask, kind := .data, level := 0, res := t.res }
  lane : ∀ j < 16, match src j with
    | none => maskBit t.mask j = false ∧ laneNat t.pay j = 0 ∧ resNat t.res j = 0
    | some (u, k) => maskBit t.mask j = maskBit u.mask k ∧
        laneNat t.pay j = (if maskBit u.mask k then laneNat u.pay k else 0) ∧ resNat t.res j = (if maskBit u.mask k then resNat u.res k else 0)

/-- R367, R389 and R406: the source of each output lane. -/
def movedLane (x : Operands) : Instr → Option (Nat → Option (Token × Nat))
  | .mov _ => some (fun j => some (x.a, j))
  | .lbc o => some (fun _ => some (x.a, o.imm.toNat % 16))
  | .lrot o => some (fun j => some (x.a, (j + 16 - o.imm.toNat % 16) % 16))
  | .lperm _ => some (fun j =>
      if maskBit x.b.mask j = true ∧ laneNat x.b.pay j / 16 % 2 = 0 then some (x.a, laneNat x.b.pay j % 16) else none)
  | .sel _ => some (fun j =>
      if maskBit x.a.mask j then some (if laneNat x.a.pay j ≠ 0 then x.b else x.c, j) else none)
  | _ => none

/-- The formats that FMT 0 may decode: every one for an operator whose result it does not affect (R34, R389, R367); `sel` takes bare streams
(R406). -/
def moveFormats : Instr → List Nat
  | .sel _ => []
  | _ => fData

/-- Source element of output element i of a conversion (R342). -/
def fromElem (f d part i : Nat) : Nat := if fmtElems d < fmtElems f then part * fmtElems d + i else i

/-- Output element i has a valid source (R342). -/
def fromValid (x : Operands) (f d part i : Nat) : Prop :=
  fromElem f d part i < fmtElems f ∧ elemValid x.a.mask (fmtWidth f) (fromElem f d part i) = true

/-- Element i of width w touches lane j (R54). -/
def touches (w i j : Nat) : Prop := w * i < 32 * (j + 1) ∧ 32 * j < w * (i + 1)

/-- LANEMASK of a conversion: a lane is valid when every element it holds is (R342). -/
def convertedMask (x : Operands) (f d part : Nat) (m : BitVec 16) : Prop :=
  ∀ j < 16, maskBit m j = true ↔ ∀ i < fmtElems d, touches (fmtWidth d) i j → fromValid x f d part i

/-- DFMT and PART of a conversion. -/
def dfmt (w : OpWord) : Nat := w.imm.toNat % 16
def part (w : OpWord) : Nat := w.imm.toNat / 16 % 8

/-- The pattern of one converted element (R351, R62 to R64): `r` is the random token, k the source element. -/
def convertedElem (w : OpWord) (f d : Nat) (r : Token) (p k : Nat) : Nat :=
  let v : FVal := if fmtFloat f then decodeFloat (floatFmt f) p else intVal (num f p)
  if 1 ≤ d ∧ d ≤ 7 then floatToInt d v (rndOf w.rnd)
  else if w.rnd = 2 then
    match v with
    | .fin neg m e =>
      if fmtWidth f = 16 then roundStochastic (floatFmt d) neg m e (elemNat r.pay 16 k) 16 (w.sat == 1)
      else roundStochastic (floatFmt d) neg m e (laneNat r.pay k) 32 (w.sat == 1)
    | u => roundVal (floatFmt d) u .rne (w.sat == 1)
  else roundVal (floatFmt d) v (rndOf w.rnd) (w.sat == 1)

/-- A conversion makes a NaN at output element i of a covered, valid source that is none (R63, R70). -/
def convertedNan (x : Operands) (f d part : Nat) (out : Nat → Nat) (i : Nat) : Prop :=
  8 ≤ d ∧ i < fmtElems d ∧ fromValid x f d part i ∧ fromElem f d part i < x.count ∧
    (fmtFloat f = true → decodeFloat (floatFmt f) (elemNat x.a.pay (fmtWidth f) (fromElem f d part i)) ≠ .nan) ∧ isNaN (floatFmt d) (out i) = true

/-- The NaN trap does not stop the firing: it is off, or the firing is tagged, or no NaN is made (R70, R217). -/
def Untrapped (s : State) (v : View) (x : Operands) (bad : Nat → Prop) : Prop :=
  nanTrap s v.e.task = false ∨ x.side.etag = true ∨ ∀ k, ¬ bad k

/-- Table 16-1 and R354: number of sources, and the pattern of an element from the format, the word's rounding, the values of A, B and C, and
the pattern of A. -/
def floatElement : Instr → Option (Nat × (Nat → FVal → FVal → FVal → Nat → Nat))
  | .fadd o => some (2, fun f x y _ _ => roundVal (floatFmt f) (addVal x y) (rndOf o.rnd) false)
  | .fsub o => some (2, fun f x y _ _ => roundVal (floatFmt f) (addVal x (negVal y)) (rndOf o.rnd) false)
  | .fmul o => some (2, fun f x y _ _ => roundVal (floatFmt f) (mulVal x y) (rndOf o.rnd) false)
  | .fma o => some (3, fun f x y z _ => roundVal (floatFmt f) (addVal (mulVal x y) z) (rndOf o.rnd) false)
  | .fnma o => some (3, fun f x y z _ => roundVal (floatFmt f) (addVal z (negVal (mulVal x y))) (rndOf o.rnd) false)
  | .fmin o => some (2, fun f x y _ _ => roundVal (floatFmt f) (minVal x y) (rndOf o.rnd) false)
  | .fmax o => some (2, fun f x y _ _ => roundVal (floatFmt f) (maxVal x y) (rndOf o.rnd) false)
  | .fabs o => some (1, fun f x _ _ _ => roundVal (floatFmt f) (if signOf x then negVal x else x) (rndOf o.rnd) false)
  | .fneg o => some (1, fun f x _ _ _ => roundVal (floatFmt f) (negVal x) (rndOf o.rnd) false)
  | .fsqrt o => some (1, fun f x _ _ _ => sqrtFloat (floatFmt f) x (rndOf o.rnd))
  | .frcp _ => some (1, fun f x _ _ p => deliverApprox 76 f p (recipReal x))
  | .frsq _ => some (1, fun f x _ _ p => deliverApprox 77 f p (rsqrtReal x))
  | .fexp2 _ => some (1, fun f x _ _ p => deliverApprox 79 f p (exp2Real x))
  | .flog2 _ => some (1, fun f x _ _ p => deliverApprox 80 f p (log2Real x))
  | .ftanh _ => some (1, fun f x _ _ p => deliverApprox 81 f p (tanhReal x))
  | .fsigm _ => some (1, fun f x _ _ p => deliverApprox 82 f p (sigmReal x))
  | _ => none

/-- Value of element k of a token. -/
def val (f : Nat) (t : Token) (k : Nat) : FVal := decodeFloat (floatFmt f) (elemNat t.pay (fmtWidth f) k)

/-- One of the first n operands is NaN at element k. -/
def nanIn (n : Nat) (x : Operands) (k : Nat) : Bool :=
  ([x.a, x.b, x.c].take n).any (fun t => val x.fmt t k == .nan)

/-- R347: canonical NaN for a NaN input, else the entry's function. -/
def floatValue (n : Nat) (g : Nat → FVal → FVal → FVal → Nat → Nat) (x : Operands) (k : Nat) : Nat :=
  if nanIn n x k then (floatFmt x.fmt).nanBits
  else g x.fmt (val x.fmt x.a k) (val x.fmt x.b k) (val x.fmt x.c k) (elemNat x.a.pay (fmtWidth x.fmt) k)

/-- Element k is valid and covered by COUNT, and the entry makes a NaN of it from inputs none of which is one (R70). -/
def madeNan (n : Nat) (g : Nat → FVal → FVal → FVal → Nat → Nat) (x : Operands) (k : Nat) : Prop :=
  k < fmtElems x.fmt ∧ k < x.count ∧ elemValid x.mask (fmtWidth x.fmt) k = true ∧ nanIn n x k = false ∧
    isNaN (floatFmt x.fmt) (floatValue n g x k) = true

/-- Code of R349 by sign, exponent and fraction. -/
def classOf (f p : Nat) : Nat :=
  match decodeFloat (floatFmt f) p with
  | .nan => 2 ^ 8
  | .inf true => 2 ^ 0
  | .inf false => 2 ^ 7
  | .fin neg m _ =>
    if m = 0 then (if neg then 2 ^ 3 else 2 ^ 4)
    else if m < 2 ^ (floatFmt f).mbits then (if neg then 2 ^ 2 else 2 ^ 5)
    else (if neg then 2 ^ 1 else 2 ^ 6)

/-- Conditions of `fcmp` (R348). -/
def floatHolds (c : Nat) (x y : FVal) : Bool :=
  match c with
  | 0 => eqVal x y
  | 1 => !eqVal x y
  | 2 => ltVal x y
  | 3 => ltVal x y || eqVal x y
  | 4 => ltVal y x
  | 5 => ltVal y x || eqVal x y
  | _ => x == .nan || y == .nan

end Sys2Proof.Claims

/-- R389, R367, R406 and R34: `mov`, `lbc`, `lrot`, `lperm` and `sel` complete on data and move whole lanes with their mask bits and residues;
under FMT 0 the moves follow the packets of their stream. -/
def Obligations.LaneMoves : Prop :=
  ∀ (s : State) (v : View) (p : Pass) (i : Instr) (code : BitVec 9) (popped : Bool) (src : Nat → Option (Token × Nat)),
    let fmts := Claims.moveFormats i
    i.operator = some (code, v.w) → Claims.OnData s v p code.toNat fmts popped →
    let x := Claims.operands v p code.toNat fmts
    Claims.movedLane x i = some src →
    ∃ t, Claims.Moved x t src ∧
      exec i s = .next (Claims.fired s v p code.toNat popped (Claims.withRandom x (.emit (Claims.followed v p code.toNat fmts) t)))

/-- R342, R344 and R368: `cvt`, `dot4`, `dot2` and `lidx` complete on data with the elements, lanes and mask those rules give. -/
def Obligations.IntegerConversions : Prop :=
  ∀ (s : State) (v : View) (p : Pass) (popped : Bool),
    let f := v.w.fmt.toNat
    let x := fun (code : Nat) => Claims.operands v p code []
    let done := fun (i : Instr) (code : Nat) (t : Token) =>
      exec i s = .next (Claims.fired s v p code popped (Claims.withRandom (x code) (.emit (Claims.followed v p code []) t)))
    let dot := fun (code n j : Nat) =>
      Claims.deliver 5 v.w.sat (((List.range n).map (fun e =>
        Claims.num f (elemNat (x code).a.pay (32 / n) (n * j + e)) * Claims.num f (elemNat (x code).b.pay (32 / n) (n * j + e)))).sum
        + if v.w.sc = 7 then 0 else Claims.num 5 (laneNat (x code).c.pay j))
    (Claims.OnData s v p 21 [] popped → 1 ≤ f → f ≤ 7 → 1 ≤ Claims.dfmt v.w → Claims.dfmt v.w ≤ 7 →
      ∃ t m, Claims.convertedMask (x 21) f (Claims.dfmt v.w) (Claims.part v.w) m ∧
        Claims.Computed (x 21) t m (Claims.dfmt v.w) (fun k => Claims.deliver (Claims.dfmt v.w) v.w.sat
          (Claims.num f (elemNat (x 21).a.pay (fmtWidth f) (Claims.fromElem f (Claims.dfmt v.w) (Claims.part v.w) k)))) ∧
        done (.cvt v.w) 21 t) ∧
    (Claims.OnData s v p 22 [] popped → (f = 1 ∨ f = 2) → ∃ t, Claims.Computed (x 22) t (x 22).mask 5 (dot 22 4) ∧ done (.dot4 v.w) 22 t) ∧
    (Claims.OnData s v p 23 [] popped → (f = 3 ∨ f = 4) → ∃ t, Claims.Computed (x 23) t (x 23).mask 5 (dot 23 2) ∧ done (.dot2 v.w) 23 t) ∧
    (Claims.OnData s v p 141 [] popped → ∃ t,
      Claims.Computed (x 141) t (x 141).mask f (fun k => Claims.wrap (fmtWidth f) (v.w.imm.toInt + k)) ∧ done (.lidx v.w) 141 t)

/-- R347, R354, R58 to R62 and R70: a float operator completes on data with the rounded result in every valid element, unless the NaN trap
stops it; then the record names the lowest element that became NaN and nothing is emitted. -/
def Obligations.FloatOperators : Prop :=
  ∀ (s : State) (v : View) (p : Pass) (i : Instr) (code : BitVec 9) (popped : Bool) (n : Nat) (g : Nat → FVal → FVal → FVal → Nat → Nat),
    i.operator = some (code, v.w) → Claims.floatElement i = some (n, g) →
    let fmts := decodable code.toNat
    Claims.OnData s v p code.toNat fmts popped →
    let x := Claims.operands v p code.toNat fmts
    let op := Claims.followed v p code.toNat fmts
    let bad := Claims.madeNan n g x
    (Claims.Untrapped s v x bad → ∃ t, Claims.Computed x t x.mask x.fmt (fun k => Claims.floatValue n g x k % 2 ^ fmtWidth x.fmt) ∧
      exec i s = .next (Claims.fired s v p code.toNat popped (Claims.withRandom x (.emit op t)))) ∧
    (∀ k, nanTrap s v.e.task = true → x.side.etag = false → bad k → (∀ j < k, ¬ bad j) →
      exec i s = .next (Claims.fired s v p code.toNat popped (.stop op (nanFault { v with op := op } code.toNat x x.fmt k))))

/-- R348 to R350: `fcmp`, `fclass` and `fscl` complete on data. -/
def Obligations.FloatClasses : Prop :=
  ∀ (s : State) (v : View) (p : Pass) (popped : Bool),
    let x := fun (code : Nat) => Claims.operands v p code (decodable code)
    let done := fun (i : Instr) (code : Nat) (g : Nat → Nat) =>
      Claims.OnData s v p code (decodable code) popped →
        ∃ t, Claims.Computed (x code) t (x code).mask (x code).fmt (fun k => g k % 2 ^ fmtWidth (x code).fmt) ∧
          exec i s = .next (Claims.fired s v p code popped (Claims.withRandom (x code) (.emit (Claims.followed v p code (decodable code)) t)))
    (v.w.imm.toNat ≤ 6 → done (.fcmp v.w) 73 (fun k =>
      if Claims.floatHolds v.w.imm.toNat (Claims.val (x 73).fmt (x 73).a k) (Claims.val (x 73).fmt (x 73).b k)
      then 2 ^ fmtWidth (x 73).fmt - 1 else 0)) ∧
    done (.fclass v.w) 74 (fun k => Claims.classOf (x 74).fmt (elemNat (x 74).a.pay (fmtWidth (x 74).fmt) k)) ∧
    done (.fscl v.w) 83 (fun k => roundVal (floatFmt (x 83).fmt) (match Claims.val (x 83).fmt (x 83).a k with
      | .fin neg m e => .fin neg m (e + scaleOf v.w (x 83) k)
      | u => u) (rndOf v.w.rnd) false)

/-- R351, R352 and R61 to R64: `fcvt` completes on data, unless the NaN trap stops it; under RND 2 it takes one random token from the port SB
names with each data token. -/
def Obligations.FloatConversion : Prop :=
  ∀ (s : State) (v : View) (p : Pass) (popped : Bool),
    let fmts := if v.w.fmt = 0 then fcvtFormats v.w else []
    let d := Claims.dfmt v.w
    1 ≤ d → d ≤ 13 →
    (v.w.rnd ≠ 2 → Claims.OnData s v p 75 fmts popped →
      let x := Claims.operands v p 75 fmts
      let f := x.fmt
      let out := fun (k : Nat) => let j := Claims.fromElem f d (Claims.part v.w) k
        Claims.convertedElem v.w f d x.b (elemNat x.a.pay (fmtWidth f) j) j
      1 ≤ f → f ≤ 13 → Claims.Untrapped s v x (Claims.convertedNan x f d (Claims.part v.w) out) →
      ∃ t m, Claims.convertedMask x f d (Claims.part v.w) m ∧ Claims.Computed x t m d (fun k => out k % 2 ^ fmtWidth d) ∧
        exec (.fcvt v.w) s = .next (Claims.fired s v p 75 popped (Claims.withRandom x (.emit (Claims.followed v p 75 fmts) t)))) ∧
    (v.w.rnd = 2 → v.w.sb.toNat ≤ 3 → v.w.sa.toNat ≤ 4 → v.w.sa ≠ v.w.sb → v.w.pg = 0 → v.w.fmt ≠ 0 →
      ∀ (a r : Token) (rest : List Token),
      s.focus = .stage v.ea v.ctx → v.e = s.elem v.ea v.ctx → v.n = p.stage → v.op = v.e.op v.n → v.e.pass = some p →
      v.e.stopped = false → v.op.res = [] → (v.w.dst.toNat ≤ 3 → outputRoom s v.ea v.ctx v.w.dst.toNat = true) →
      portToken p v.w.sa.toNat = some a → a.kind = .data → v.e.queue v.w.sb.toNat = r :: rest → r.kind = .data → tabRising none p.ports = true →
      let e := v.e.setQueue v.w.sb.toNat rest
      let p1 := { p with ports := tabSet p.ports v.w.sb.toNat (some r) none }
      let v1 := { v with e := e }
      let x := operandsOf v1 p1 v.w.fmt.toNat [v.w.sa.toNat, v.w.sb.toNat] (fmtElems v.w.fmt.toNat)
      let f := v.w.fmt.toNat
      let out := fun (k : Nat) => let j := Claims.fromElem f d (Claims.part v.w) k
        Claims.convertedElem v.w f d r (elemNat a.pay (fmtWidth f) j) j
      1 ≤ f → f ≤ 13 → Claims.Untrapped s v x (Claims.convertedNan x f d (Claims.part v.w) out) →
      ∃ t m, Claims.convertedMask x f d (Claims.part v.w) m ∧ Claims.Computed x t m d (fun k => out k % 2 ^ fmtWidth d) ∧
        exec (.fcvt v.w) s = .next (applyOut (s.setElem v.ea v.ctx e) v1 p1 a (Claims.withRandom x (.emit v.op t))))

namespace Sys2Proof.Claims

/-- One combination of two patterns: 0 add, 1 min, 2 max, 3 and, 4 or, 5 xor (R72, R318, R377). -/
def combine (op f : Nat) (sat : BitVec 1) (rnd : BitVec 2) (x y : Nat) : Nat :=
  if fmtFloat f then
    let a := decodeFloat (floatFmt f) x
    let b := decodeFloat (floatFmt f) y
    if a = .nan ∨ b = .nan then (floatFmt f).nanBits
    else roundVal (floatFmt f) (match op with | 0 => addVal a b | 1 => minVal a b | _ => maxVal a b) (rndOf rnd) false
  else
    match op with
    | 0 => deliver f sat (num f x + num f y)
    | 1 => if num f x ≤ num f y then x else y
    | 2 => if num f y ≤ num f x then x else y
    | 3 => x &&& y
    | 4 => x ||| y
    | _ => x ^^^ y

/-- Adjacent members combine, lower index first; a missing one passes the other up (R72, R377). -/
def pairUp (g : Nat → Nat → Nat) : List (Option Nat) → List (Option Nat)
  | a :: b :: t =>
    (match a, b with
      | some x, some y => some (g x y)
      | some x, none => some x
      | none, y => y) :: pairUp g t
  | l => l

/-- Tree(S) over at most 2^n positions (R377). -/
def tree (g : Nat → Nat → Nat) : Nat → List (Option Nat) → Option Nat
  | 0, l => l.headD none
  | n + 1, l => tree g n (pairUp g l)

/-- The valid elements of A that COUNT covers, at positions below a bound (R34). -/
def below (x : Operands) (n : Nat) : List (Option Nat) :=
  (List.range (fmtElems x.fmt)).map (fun i =>
    if elemValid x.a.mask (fmtWidth x.fmt) i = true ∧ i < n ∧ i < x.count then some (elemNat x.a.pay (fmtWidth x.fmt) i) else none)

/-- A pattern as it is delivered: a NaN becomes the canonical one (R58). -/
def canonical (f p : Nat) : Nat := if fmtFloat f = true ∧ isNaN (floatFmt f) p = true then (floatFmt f).nanBits else p

/-- The tree over some members makes a NaN though no member is one (R70). -/
def freshNan (w : OpWord) (f : Nat) (l : List (Option Nat)) : Prop :=
  (∀ q, some q ∈ l → ¬ (fmtFloat f = true ∧ isNaN (floatFmt f) q = true)) ∧
    treeNan (combine (w.imm.toNat % 8) f w.sat w.rnd) (foldNan (w.imm.toNat % 8) f (rndOf w.rnd)) 6 l = true

/-- What an empty set gives (R377). -/
def emptyTree (op f : Nat) : Nat :=
  let w := fmtWidth f
  match op with
  | 1 => if fmtFloat f then (floatFmt f).infBits else if fmtSigned f then 2 ^ (w - 1) - 1 else 2 ^ w - 1
  | 2 => if fmtFloat f then (floatFmt f).signBit + (floatFmt f).infBits else if fmtSigned f then 2 ^ (w - 1) else 0
  | 3 => 2 ^ w - 1
  | _ => 0

/-- The machine after a firing that also writes k[KIDX] with k; a tagged source A poisons the task (R219). -/
def keeps (x : Operands) (op : OpSt) (t k : Token) : StageOut :=
  withRandom x { StageOut.emit op t with k := some k, poison := x.side.etag }

/-- The operand token A as it is written whole into a register (R357, R427). -/
def whole (x : Operands) : Token := { x.a with etag := x.side.etag }

/-- The V bit of `m2c`: 0 any, 1 all, 2 lane (R378). -/
def maskV (mode lane : Nat) (t : Token) : Bool :=
  match mode with
  | 0 => (List.range 16).any (fun j => maskBit t.mask j && decide (laneNat t.pay j ≠ 0))
  | 1 => (List.range 16).all (fun j => !maskBit t.mask j || decide (laneNat t.pay j ≠ 0))
  | _ => maskBit t.mask lane && decide (laneNat t.pay lane ≠ 0)

end Sys2Proof.Claims

/-- R72 and R377: `lred` and `lscan` complete on data, unless the NaN trap stops them, with the fixed tree's results. -/
def Obligations.Reductions : Prop :=
  ∀ (s : State) (v : View) (p : Pass) (popped : Bool),
    let fmts := Claims.reductionFormats v.w
    let rop := v.w.imm.toNat % 8
    rop ≤ 5 →
    (Claims.OnData s v p 132 fmts popped →
      let x := Claims.operands v p 132 fmts
      let f := x.fmt
      let g := Claims.combine rop f v.w.sat v.w.rnd
      (fmtFloat f = true → rop ≤ 2) →
      Claims.Untrapped s v x (fun _ => Claims.freshNan v.w f (Claims.below x 64)) →
      ∃ t, (match Claims.tree g 6 (Claims.below x 64) with
          | none => Claims.Computed x t 0 f (fun _ => 0)
          | some r =>
            let r := Claims.canonical f r % 2 ^ fmtWidth f
            if v.w.imm.getLsbD 3 then Claims.Computed x t x.mask f (fun _ => r)
            else Claims.Computed x t (if fmtWidth f = 64 then 3 else 1) f (fun k => if k = 0 then r else 0)) ∧
        exec (.lred v.w) s = .next (Claims.fired s v p 132 popped (Claims.withRandom x (.emit (Claims.followed v p 132 fmts) t)))) ∧
    (Claims.OnData s v p 133 fmts popped →
      let x := Claims.operands v p 133 fmts
      let f := x.fmt
      let g := Claims.combine rop f v.w.sat v.w.rnd
      let n := fun (k : Nat) => if v.w.imm.getLsbD 3 then k else k + 1
      (fmtFloat f = true → rop ≤ 2) →
      Claims.Untrapped s v x (fun k => k < fmtElems f ∧ Claims.freshNan v.w f (Claims.below x (n k))) →
      ∃ t, Claims.Computed x t x.mask f
          (fun k => (((Claims.tree g 6 (Claims.below x (n k))).map (Claims.canonical f)).getD (Claims.emptyTree rop f)) % 2 ^ fmtWidth f) ∧
        exec (.lscan v.w) s = .next (Claims.fired s v p 133 popped (Claims.withRandom x (.emit (Claims.followed v p 133 fmts) t))))

/-- R318, R357, R390, R427 and R80: on data `movk`, `wrk`, `acck` and `fsh` complete, write k[KIDX], and pass on what those rules say. -/
def Obligations.RegisterOperators : Prop :=
  ∀ (s : State) (v : View) (p : Pass) (popped : Bool),
    let k := v.e.getK v.w.kidx.toNat
    let done := fun (i : Instr) (code : Nat) (r : StageOut) => exec i s = .next (Claims.fired s v p code popped r)
    (Claims.OnData s v p 129 fData popped →
      let x := Claims.operands v p 129 fData
      let here := fun (j : Nat) => maskBit x.a.mask j && v.w.imm.getLsbD j
      ∃ t n, n = { x.a with etag := x.side.etag, seq := x.side.seq, done := x.side.done, pay := n.pay, mask := n.mask, res := n.res } ∧
        (∀ j < 16, maskBit n.mask j = (maskBit k.mask j || here j) ∧ laneNat n.pay j = laneNat (if here j then x.a else k).pay j ∧
          resNat n.res j = resNat (if here j then x.a else k).res j) ∧
        Claims.Moved x t (fun j => some (n, j)) ∧ done (.movk v.w) 129 (Claims.keeps x (Claims.followed v p 129 fData) t n)) ∧
    (Claims.OnData s v p 130 fData popped →
      let x := Claims.operands v p 130 fData
      ∃ t, Claims.Moved x t (fun j => some (x.a, j)) ∧
        done (.wrk v.w) 130 (if v.w.imm.toNat % 4 ≠ 1 then Claims.keeps x (Claims.followed v p 130 fData) t (Claims.whole x)
          else Claims.withRandom x (.emit (Claims.followed v p 130 fData) t))) ∧
    (Claims.OnData s v p 131 [] popped →
      let x := Claims.operands v p 131 []
      let f := v.w.fmt.toNat
      let w := fmtWidth f
      let rop := v.w.imm.toNat % 4
      let both := fun (i : Nat) => elemValid x.a.mask w i && elemValid k.mask w i
      let new := fun (i : Nat) =>
        if both i then Claims.combine rop f v.w.sat v.w.rnd (elemNat k.pay w i) (elemNat x.a.pay w i) % 2 ^ w
        else if elemValid x.a.mask w i then Claims.canonical f (elemNat x.a.pay w i) else elemNat k.pay w i
      1 ≤ f → rop ≤ 2 → (w = 64 → pairMask x.a.mask = x.a.mask ∧ pairMask k.mask = k.mask) →
      Claims.Untrapped s v x (fun i => i < fmtElems f ∧ i < x.count ∧ both i = true ∧
        foldNan rop f (rndOf v.w.rnd) (elemNat k.pay w i) (elemNat x.a.pay w i) = true) →
      ∃ t n, Claims.Computed x t x.mask f new ∧
        n = { x.side with etag := x.side.etag || k.etag, pay := n.pay, mask := k.mask ||| fmtMask f x.a.mask, res := n.res } ∧
        (∀ i < fmtElems f, elemNat n.pay w i = if elemValid n.mask w i then new i else 0) ∧
        (∀ j < 16, resNat n.res j = if maskBit n.mask j then laneNat n.pay j % 15 else 0) ∧
        done (.acck v.w) 131 (Claims.keeps x (Claims.followed v p 131 []) t n)) ∧
    (let n := v.w.imm.toNat % 64
     let fmts := if v.w.fmt = 0 then fData.filter (fun f => decide (n < fmtElems f)) else []
     Claims.OnData s v p 137 fmts popped →
      let x := Claims.operands v p 137 fmts
      let f := x.fmt
      let w := fmtWidth f
      let e := fmtElems f
      n < e →
      ∃ t, Claims.Computed x t x.a.mask f (fun i =>
          if n ≤ i then (if elemValid x.a.mask w (i - n) then elemNat x.a.pay w (i - n) else 0)
          else if elemValid k.mask w (e - n + i) then elemNat k.pay w (e - n + i) else 0) ∧
        done (.fsh v.w) 137 (Claims.keeps x (Claims.followed v p 137 fmts) t (Claims.whole x)))

/-- R378, R392 and R425: on data `m2c` sends one control token and passes its mask, `pack` gathers valid elements into full tokens, and
`unpack` clears the lanes that COUNT does not reach. -/
def Obligations.PackingOperators : Prop :=
  ∀ (s : State) (v : View) (p : Pass) (popped : Bool),
    let k := v.e.getK v.w.kidx.toNat
    let done := fun (i : Instr) (code : Nat) (r : StageOut) => exec i s = .next (Claims.fired s v p code popped r)
    (Claims.OnData s v p 140 [] popped → ctlOutputRoom s v.ea v.ctx (v.w.imm.toNat / 64 % 4) = true →
      let x := Claims.operands v p 140 []
      let d := Claims.maskV (v.w.imm.toNat % 4) (v.w.imm.toNat / 4 % 16) x.a
      let c : Ctl := { v := d, b := false, par := d != x.side.etag, fin := false, cut := false }
      ∃ t, Claims.Moved x t (fun j => some (x.a, j)) ∧
        done (.m2c v.w) 140 (Claims.withRandom x
          { StageOut.emit (Claims.followed v p 140 []) t with ctl := [(v.w.imm.toNat / 64 % 4, c)] })) ∧
    (Claims.OnData s v p 139 fData popped →
      let x := Claims.operands v p 139 fData
      let w := fmtWidth x.fmt
      let kept := fun (j : Nat) => maskBit x.a.mask j && decide (32 * j < w * x.count)
      ∃ t, t = { x.side with pay := t.pay, mask := t.mask, kind := .data, level := 0, res := t.res } ∧
        (∀ j < 16, maskBit t.mask j = kept j ∧ laneNat t.pay j = (if kept j then laneNat x.a.pay j else 0) ∧
          resNat t.res j = if kept j then laneNat x.a.pay j % 15 else 0) ∧
        done (.unpack v.w) 139 (Claims.withRandom x (.emit (Claims.followed v p 139 fData) t))) ∧
    (Claims.OnData s v p 138 [] popped → v.w.pg = 0 →
      let x := Claims.operands v p 138 []
      let f := v.w.fmt.toNat
      let w := fmtWidth f
      let e := fmtElems f
      let inPacket : Bool := decide (0 < v.op.rem)
      let valid := ((List.range e).filter (fun i => elemValid x.a.mask w i)).map (fun i => elemNat x.a.pay w i)
      let taken := if inPacket then valid.take v.op.elems else valid
      let all := (List.range v.op.visited).map (fun i => elemNat k.pay w i) ++ taken
      let rest := all.drop (e * (all.length / e))
      let side := { x.side with etag := x.side.etag || (k.etag && decide (0 < v.op.visited)) }
      let flush : Bool := inPacket && v.op.rem == 1
      let kept := if flush then [] else rest
      1 ≤ f → f ≤ 14 → v.op.visited < e →
      done (.pack v.w) 138 (Claims.withRandom x { StageOut.quiet { v.op with rem := v.op.rem - 1, elems := v.op.elems - taken.length, visited := kept.length } with
        out := (List.range (all.length / e)).map (fun i => packedToken f ((all.drop (e * i)).take e) side) ++
          (if flush = true ∧ rest ≠ [] then [packedToken f rest side] else [])
        k := some (if kept = [] then Token.zero else packedToken f kept side)
        poison := x.side.etag }))

namespace Sys2Proof.Claims

/-- Number of an accumulator among those of a site. -/
def accOf (s : State) (site : SiteNo) (bank row col : Nat) : Nat := accGet s site bank row col

/-- Every accumulator of every site but those of a site that a predicate names reads as before. -/
def otherAccs (s t : State) (site : SiteNo) (bank : Nat) (named : Nat → Nat → Prop) : Prop :=
  ∀ (z : SiteNo) (b r c : Nat), b < 2 → r < 256 → c < 32 → ¬ (z = site ∧ b = bank ∧ named r c) → accOf t z b r c = accOf s z b r c

/-- Fields of Tables 15-2 and 17-4 and of `acclr`. -/
def accBank (w : OpWord) : Nat := w.imm.toNat % 2
def accRow0 (w : OpWord) : Nat := w.imm.toNat / 2 % 256

/-- Row of `acrd` and `acwr` (Table 15-2). -/
def accRowOf (v : View) : Nat := accRow0 v.w + if v.w.imm.getLsbD 9 then v.op.visited else 0

/-- Row lies in the context's ACS window of the bank (R84). -/
def inWindow (v : View) (bank row : Nat) : Prop :=
  let f := (tabGet v.e.bank (17 + bank) 0).toNat
  row ≤ 255 ∧ f % 256 ≤ row ∧ row < f % 256 + f / 256 % 512

/-- A repair pass is not under way at the context (R220). -/
def notRepairing (s : State) (v : View) : Prop := ∀ t, v.e.task.bind s.task? = some t → t.phase ≠ .repairing

/-- The states of `rand` after 1 to n steps from x (R399). -/
def xorshift (x : DWord) : Nat → DWord
  | 0 => x
  | n + 1 =>
    let y := xorshift x n
    let y := y ^^^ (y <<< 13)
    let y := y ^^^ (y >>> 7)
    y ^^^ (y <<< 17)

/-- The x that a `rand` fires from: RSEED before its first firing (R399). -/
def randFrom (v : View) : DWord := if v.op.x = 0 then tabGet v.e.bank 20 0#32 ++ tabGet v.e.bank 19 1#32 else v.op.x

/-- A source's token number n: SEQ and wraps of R26, data with every lane valid. -/
def sourceToken (v : View) (n : Nat) (pay : Line) : Token :=
  { Token.zero with pay := pay, mask := 0xFFFF, seq := BitVec.ofNat 20 n, wrap := BitVec.ofNat 32 (n / 2 ^ 20), src := stampOf v,
                    res := regenRes pay 0xFFFF }

/-- A source's marker after n records (R28). -/
def sourceMarker (v : View) (n level : Nat) : Token :=
  { Token.zero with kind := .marker, level := BitVec.ofNat 3 level, seq := BitVec.ofNat 20 (n - 1),
                    wrap := BitVec.ofNat 32 ((n - 1) / 2 ^ 20), src := stampOf v }

end Sys2Proof.Claims

/-- R65 to R69, R84 and R385 to R387: a row of a packet that `mma` or `mmab` completes is accumulated into row ROW + m of the bank, column by
column, and no other accumulator changes; the firing emits nothing. -/
def Obligations.MatrixRows : Prop :=
  ∀ (s s1 : State) (v : View) (p : Pass) (popped : Bool) (h : Token) (tile : Tile) (failed : Bool), tabRising none s.acs = true →
    let at_ := fun (i : Instr) (code : Nat) =>
      let sh := shapeOf v.w
      let row := sh.row + v.op.visited
      let x := Claims.operands v p code []
      let a := { x.a with etag := x.side.etag || h.etag }
      let ts := v.op.toks ++ [a]
      let tagged := ts.any (·.etag)
      let elem := rowElem sh v.op.elems ts
      let ks := (List.range (min sh.k tile.kcnt)).filter (fun k =>
        (elem k).isSome && !(code == 193 && subBlockEmpty sh.fmt sh.n tile.elems k))
      let pairs := fun (n : Nat) => ks.map (fun k => (operandVal sh.fmt ((elem k).getD 0),
        operandVal sh.fmt (tile.elems / 2 ^ (fmtWidth sh.fmt * (k * sh.n + n)) % 2 ^ fmtWidth sh.fmt)))
      Claims.OnData s v p code [] popped → v.w.sa ≠ 5 → 0 < v.op.rem → v.op.hdr = some h →
      (sh.sc = true → v.op.toks ≠ [] ∨ v.op.rem = 1) → Claims.inWindow v sh.bank row → sh.col + sh.n ≤ 32 →
      v.w.pg = 0 → readTile s v sh h = (s1, .tile tile failed) → s1.acs = s.acs → nanTrap s1 v.e.task = false → failed = false →
      ∃ u, (∀ n < sh.n, Claims.accOf u (eaSite v.ea) sh.bank row (sh.col + n) =
          (accumulate sh (hdrScaleA h) tile.scale (Claims.accOf s (eaSite v.ea) sh.bank row (sh.col + n)) (pairs n)).1 % 2 ^ 32) ∧
        Claims.otherAccs s u (eaSite v.ea) sh.bank (fun r c => r = row ∧ sh.col ≤ c ∧ c < sh.col + sh.n) ∧
        u = { s1 with acs := u.acs, sites := u.sites } ∧
        exec i s = .next (Claims.fired u v p code popped (Claims.withRandom x
          { StageOut.quiet { v.op with rem := v.op.rem - 1, toks := [], visited := v.op.visited + 1, elems := v.op.elems - sh.k } with poison := tagged }))
    at_ (.mma v.w) 192 ∧ at_ (.mmab v.w) 193

/-- R82, R183, R428 and R429: `wsld` writes one line of the back buffer of the context's window and `wsswp` requests a swap; WS_SWAP makes a
requested swap effective between packets, once no fill of the back buffer is under way. -/
def Obligations.WeightStore : Prop :=
  ∀ (s : State) (v : View) (p : Pass) (popped : Bool),
    (Claims.OnData s v p 194 [] popped → v.w.pg = 0 → tabRising none s.ws = true →
      let x := Claims.operands v p 194 []
      let e := if v.op.rem = 0 then (s.elem v.ea v.ctx).applySwaps else s.elem v.ea v.ctx
      let n := (e.op v.n).visited
      let l := v.w.imm.toNat % 1024 + n
      let size := tileSize v.w.fmt.toNat (if v.w.imm.getLsbD 10 then 128 else fmtElems v.w.fmt.toNat) (8 * 2 ^ (x.a.pay.toNat / 16 % 4))
      (0 < v.op.rem ∨ (s.elem v.ea v.ctx).wsSwaps = 0 ∨ (s.elem v.ea v.ctx).packetUnderWay = false ∧ (s.elem v.ea v.ctx).fillUnderWay = false) →
      l < e.wsLines →
      (0 < v.op.rem ∨ tileHeaderBad x.a.pay v.w.fmt.toNat (if v.w.imm.getLsbD 10 then 128 else fmtElems v.w.fmt.toNat) none none = none ∧
        l + size ≤ e.wsLines) →
      ∃ u, u = { s.setElem v.ea v.ctx e with ws := u.ws } ∧ tabGet u.ws (wsKey (eaSite v.ea) (1 - e.wsFront) (e.wsBase + l)) 0 = x.a.pay ∧
        (∀ k, k ≠ wsKey (eaSite v.ea) (1 - e.wsFront) (e.wsBase + l) → tabGet u.ws k 0 = tabGet s.ws k 0) ∧
        exec (.wsld v.w) s = .next (Claims.fired u v p 194 popped (Claims.withRandom x
          { StageOut.quiet { v.op with visited := n + 1, rem := if v.op.rem = 0 then size - 1 else v.op.rem - 1 } with poison := x.side.etag }))) ∧
    (Claims.OnData s v p 195 [] popped →
      exec (.wsswp v.w) s = .next (Claims.fired (s.modElem v.ea v.ctx (fun e => { e with wsSwaps := e.wsSwaps + 1 })) v p 195 popped
        (Claims.withRandom (Claims.operands v p 195 []) (.quiet (Claims.followed v p 195 []))))) ∧
    (∀ (site : SiteNo) (ctx : BitVec 2), tabRising none s.elems = true → let e := s.elem (siteEa site 0) ctx
      (0 < e.wsSwaps → (e.packetUnderWay = true ∨ e.fillUnderWay = true) → exec (.wsSwap site ctx) s = .next s) ∧
      (0 < e.wsSwaps → e.packetUnderWay = false → e.fillUnderWay = false → tabRising none e.bank = true →
      ∃ t, exec (.wsSwap site ctx) s = .next t ∧ t = { s with elems := t.elems } ∧
        (t.elem (siteEa site 0) ctx).wsSwaps = e.wsSwaps - 1 ∧
        tabGet (t.elem (siteEa site 0) ctx).bank 16 0 = tabGet e.bank 16 0 ^^^ 0x800#32))

/-- R84, R319 and R320: `acclr` clears its rows, `acrd` reads 16 columns (and clears them under CLR), `acwr` writes or adds its valid lanes;
no other accumulator changes. -/
def Obligations.Accumulators : Prop :=
  ∀ (s : State) (v : View) (p : Pass) (popped : Bool), tabRising none s.acs = true →
    let site := eaSite v.ea
    let bank := Claims.accBank v.w
    let half := v.w.imm.toNat / 1024 % 2 * 16
    let row := Claims.accRowOf v
    let only := fun (u : State) => u = { s with acs := u.acs }
    let counted := fun (op : OpSt) => { op with visited := v.op.visited + 1 }
    (Claims.OnData s v p 196 [] popped → v.op.rem = 0 →
      let n := v.w.imm.toNat / 512 % 512
      (∀ j < n, Claims.inWindow v bank (Claims.accRow0 v.w + j)) →
      ∃ u, only u ∧ (∀ r c, Claims.accRow0 v.w ≤ r → r < Claims.accRow0 v.w + n → c < 32 → Claims.accOf u site bank r c = 0) ∧
        Claims.otherAccs s u site bank (fun r _ => Claims.accRow0 v.w ≤ r ∧ r < Claims.accRow0 v.w + n) ∧
        exec (.acclr v.w) s = .next (Claims.fired u v p 196 popped
          (Claims.withRandom (Claims.operands v p 196 []) (.quiet (Claims.followed v p 196 []))))) ∧
    (Claims.OnData s v p 197 [] popped → Claims.inWindow v bank row →
      let x := Claims.operands v p 197 []
      ∃ u t, only u ∧ Claims.Computed x t x.mask 5 (fun j => Claims.accOf s site bank row (half + j)) ∧
        (∀ j < 16, Claims.accOf u site bank row (half + j) = if v.w.imm.getLsbD 11 then 0 else Claims.accOf s site bank row (half + j)) ∧
        Claims.otherAccs s u site bank (fun r c => r = row ∧ half ≤ c ∧ c < half + 16) ∧
        exec (.acrd v.w) s = .next (Claims.fired u v p 197 popped (Claims.withRandom x (.emit (counted (Claims.followed v p 197 [])) t)))) ∧
    (Claims.OnData s v p 198 [] popped → Claims.inWindow v bank row → (v.w.fmt = 5 ∨ v.w.fmt = 12) →
      let x := Claims.operands v p 198 []
      let f := v.w.fmt.toNat
      let new := fun (j : Nat) =>
        if v.w.imm.getLsbD 11 then Claims.combine 0 f 0 0 (Claims.accOf s site bank row (half + j)) (laneNat x.a.pay j) % 2 ^ 32
        else laneNat x.a.pay j
      (v.w.imm.getLsbD 11 = true → Claims.Untrapped s v x (fun j => j < 16 ∧ maskBit x.mask j = true ∧
        foldNan 0 f .rne (Claims.accOf s site bank row (half + j)) (laneNat x.a.pay j) = true)) →
      ∃ u, only u ∧ (∀ j < 16, Claims.accOf u site bank row (half + j) = if maskBit x.mask j then new j else Claims.accOf s site bank row (half + j)) ∧
        Claims.otherAccs s u site bank (fun r c => r = row ∧ half ≤ c ∧ c < half + 16) ∧
        exec (.acwr v.w) s = .next (Claims.fired u v p 198 popped (Claims.withRandom x
          { StageOut.quiet (counted (Claims.followed v p 198 [])) with poison := x.side.etag })))

/-- R26, R28, R338, R339, R399 and R407: the sources. A free-running source emits its n-th record stamped n, then the marker that follows it,
and LEVEL 7 after the last; a paced `const` or `rand` emits one token per trigger. -/
def Obligations.Sources : Prop :=
  ∀ (s : State) (v : View) (p : Pass) (popped : Bool), Claims.notRepairing s v → v.op.repair = [] →
    let n := v.op.count
    let sends := fun (i : Instr) (code : Nat) (op : OpSt) (t : Token) =>
      exec i s = .next (Claims.fired s v p code popped (Claims.withRandom (Claims.operands v p code []) (.emit op t)))
    let op := fun (code : Nat) => Claims.followed v p code []
    let rands := fun (x : DWord) (pay : Line) => ∀ j < 8, elemNat pay 64 j = (Claims.xorshift x (j + 1)).toNat
    -- the records
    (∀ code, Claims.OnData s v p code [] popped → v.op.sel ≠ some true →
      (code = 384 → n < (taskShapeOf s v.e.task).total → ∃ pay,
        let h := taskShapeOf s v.e.task
        (∀ j < 16, laneNat pay j = (([widOf h.widths (h.fields n)] ++ h.fields n).flatMap (fun y => [y % 2 ^ 32, y / 2 ^ 32 % 2 ^ 32])
          ++ [n % 2 ^ 20, n / 2 ^ 20 % 2 ^ 32]).getD j 0) ∧
        sends (.cnt v.w) 384 { op 384 with count := n + 1, sel := if n + 1 < h.total ∧ (h.mark n).isSome then some true else none }
          (Claims.sourceToken v n pay)) ∧
      (code = 387 → n < v.w.imm.toNat % 2 ^ 16 → ∃ pay,
        let f := v.w.fmt.toNat
        let st := if v.w.imm.toNat / 2 ^ 16 = 0 then fmtElems f else v.w.imm.toNat / 2 ^ 16
        (∀ i < fmtElems f, elemNat pay (fmtWidth f) i = (n * st + i) % 2 ^ fmtWidth f) ∧
        sends (.seqs v.w) 387 { op 387 with count := n + 1, sel := none } (Claims.sourceToken v n pay)) ∧
      (code = 385 → v.w.sa = 7 → n < v.w.imm.toNat % 2 ^ 16 →
        let k := v.e.getK v.w.kidx.toNat
        sends (.const v.w) 385 { op 385 with count := n + 1, sel := none }
          { Claims.sourceToken v n k.pay with mask := k.mask, res := regenRes k.pay k.mask, etag := k.etag }) ∧
      (code = 386 → v.w.sa = 7 → n < v.w.imm.toNat % 2 ^ 16 → ∃ pay, rands (Claims.randFrom v) pay ∧
        sends (.rand v.w) 386 { op 386 with count := n + 1, sel := none, x := Claims.xorshift (Claims.randFrom v) 8 }
          { Claims.sourceToken v n pay with rand := true })) ∧
    -- the ends, and the markers between
    (∀ i code total, v.op.sel ≠ some true → total ≤ n →
      ((i = .cnt v.w ∧ code = 384 ∧ total = (taskShapeOf s v.e.task).total) ∨
        (total = v.w.imm.toNat % 2 ^ 16 ∧ (i = .seqs v.w ∧ code = 387 ∨ v.w.sa = 7 ∧ (i = .const v.w ∧ code = 385 ∨ i = .rand v.w ∧ code = 386)))) →
      Claims.OnData s v p code [] popped → sends i code { op code with ended := true, sel := none } (Claims.sourceMarker v n 7)) ∧
    (v.op.sel = some true → Claims.OnData s v p 384 [] popped → ∀ level, (taskShapeOf s v.e.task).mark (n - 1) = some level →
      sends (.cnt v.w) 384 { op 384 with sel := none } (Claims.sourceMarker v n level)) ∧
    -- paced
    (v.w.sa ≠ 7 → Claims.OnData s v p 385 [] popped →
      let x := Claims.operands v p 385 []
      let k := v.e.getK v.w.kidx.toNat
      sends (.const v.w) 385 (op 385) { x.side with pay := k.pay, mask := k.mask, res := regenRes k.pay k.mask, etag := x.side.etag || k.etag }) ∧
    (v.w.sa ≠ 7 → Claims.OnData s v p 386 [] popped → ∃ pay, rands (Claims.randFrom v) pay ∧
      let x := Claims.operands v p 386 []
      sends (.rand v.w) 386 { op 386 with x := Claims.xorshift (Claims.randFrom v) 8 }
        { x.side with pay := pay, mask := 0xFFFF, res := regenRes pay 0xFFFF, rand := true })

namespace Sys2Proof.Claims

/-- A barrier object after n arrivals that nothing holds back, with no group bound: counted, and a phase completes when EXP is reached
(R248). -/
def counted (b : Barrier) (n : Nat) : Barrier :=
  let arr := b.arr.toNat + n
  if arr < b.exp.toNat then { b with arr := BitVec.ofNat 24 arr }
  else { b with arr := BitVec.ofNat 24 arr - b.exp, phase := b.phase + 1 }

/-- Object `obj` is in service for such arrivals: not parked, nothing held or withheld, no release event, no group bound, n more fit. -/
def Free (s : State) (obj n : Nat) : Prop :=
  let b := s.barrier obj
  b.park = false ∧ b.held = [] ∧ b.pending = [] ∧ b.evt = false ∧ barGroups s b obj = [] ∧ b.arr.toNat + n < 2 ^ 24 ∧ tabRising none s.barriers = true

/-- One barrier object changes to b, and nothing else. -/
def onlyBarrier (s u : State) (obj : Nat) (b : Barrier) : Prop :=
  u = { s with barriers := u.barriers } ∧ u.barrier obj = b ∧ ∀ o, o ≠ obj → u.barrier o = s.barrier o

/-- Phase p of an object with PHASE ph has completed, modulo 2^32 (R248). -/
def done (ph p : Word) : Prop := 1 ≤ (ph - p).toNat ∧ (ph - p).toNat < 2 ^ 31

/-- The machine when the stage's token stays where it is and the operator remembers op. -/
def waiting (s : State) (v : View) (op : OpSt) : State :=
  s.modElem v.ea v.ctx (fun e => e.setOp v.n { op with rem := v.op.rem, elems := v.op.elems, seen := v.op.seen, fmt := v.op.fmt })

/-- The trigger token as it goes on. -/
def trigger (x : Operands) : Token := { x.a with etag := x.side.etag, rsv := 0 }

/-- LEVEL of a `cap` bucket at the present device time (R184). -/
def capLevel (s : State) (v : View) : Nat :=
  let k := v.e.getK v.w.kidx.toNat
  let period := laneNat k.pay 0
  if period = 0 then laneNat k.pay 2
  else min (laneNat k.pay 1 / 2 ^ 16) (laneNat k.pay 2 + v.w.imm.toNat % 2 ^ 16 * (s.time / period - v.op.lastRefill / period))

/-- k[KIDX] with another level. -/
def withLevel (k n : Token) (level : Nat) : Prop :=
  n = { k with pay := n.pay, res := n.res } ∧ ∀ j < 16, laneNat n.pay j = if j = 2 then level % 2 ^ 32 else laneNat k.pay j

end Sys2Proof.Claims

/-- R248, R327, R328 and R393: `post` and `barr` make one arrival per token; `barr` and `bwait` hold the token until the awaited phase has
completed; the token goes on unchanged. -/
def Obligations.BarrierOperators : Prop :=
  ∀ (s : State) (v : View) (p : Pass) (popped : Bool),
    let obj := syncObject s v
    let b := s.barrier obj
    let ph := v.op.phase.getD b.phase
    let x := fun (code : Nat) => Claims.operands v p code []
    let op := fun (code : Nat) => Claims.followed v p code []
    let goes := fun (i : Instr) (code : Nat) (u : State) (o : OpSt) =>
      exec i s = .next (Claims.fired u v p code popped (Claims.withRandom (x code) (.emit o (Claims.trigger (x code)))))
    (Claims.OnData s v p 388 [] popped → v.op.sel = none → Claims.Free s obj 1 →
      ∃ u, Claims.onlyBarrier s u obj (Claims.counted b 1) ∧ goes (.post v.w) 388 u { op 388 with sel := none, phase := none }) ∧
    (Claims.OnData s v p 389 [] popped → v.op.sel = none → Claims.Free s obj 1 →
      ∃ u, Claims.onlyBarrier s u obj (Claims.counted b 1) ∧
        (Claims.done (Claims.counted b 1).phase ph → goes (.barr v.w) 389 u { op 389 with sel := none, phase := some (ph + 1) }) ∧
        (¬ Claims.done (Claims.counted b 1).phase ph →
          exec (.barr v.w) s = .next (Claims.waiting u v { op 389 with sel := some true, phase := some ph }))) ∧
    (Claims.OnData s v p 389 [] popped → v.op.sel = some true → Claims.Free s obj 0 → Claims.done b.phase ph →
      goes (.barr v.w) 389 s { op 389 with sel := none, phase := some (ph + 1) }) ∧
    (Claims.OnData s v p 390 [] popped →
      (Claims.done b.phase ph → goes (.bwait v.w) 390 s { op 390 with sel := none, phase := some (ph + 1) }) ∧
      (¬ Claims.done b.phase ph → exec (.bwait v.w) s = .next (Claims.waiting s v { op 390 with sel := none, phase := some ph })))

/-- R326 and R248: `bara` adds its count, `barw` completes once the phase has, both trap at an object that the partition may not use;
BARRIER_NEXT_PHASE completes a further phase while ARR covers EXP. -/
def Obligations.BarrierInstructions : Prop :=
  ∀ (s : State) (k : BitVec 6) (a c : BitVec 5), Claims.Runs s k →
    let q := s.sq k
    let obj := (q.getG a).toNat
    let b := s.barrier obj
    let n := (q.getG c).toNat % 2 ^ 24
    let mine := obj < 4096 ∧ b.en = true ∧ b.part = q.part
    (Claims.Ordered s k → mine → q.arrival = none → n = 0 → exec (.bara a c) s = .next (s.setSq k (Claims.nextPc q))) ∧
    (Claims.Ordered s k → mine → q.arrival = none → 0 < n → Claims.Free s obj n →
      ∃ u, Claims.onlyBarrier s u obj (Claims.counted b n) ∧ exec (.bara a c) s = .next (u.setSq k (Claims.nextPc q))) ∧
    (mine → Claims.done b.phase (BitVec.ofNat 32 (q.getG c).toNat) → exec (.barw a c) s = .next (s.setSq k (Claims.nextPc q))) ∧
    (mine → ¬ Claims.done b.phase (BitVec.ofNat 32 (q.getG c).toNat) → exec (.barw a c) s = .next s) ∧
    (Claims.Ordered s k → ¬ mine → q.arrival = none → exec (.bara a c) s = .next (s.setSq k (Claims.trapped q q.pc 4 9 0)) ∧
      exec (.barw a c) s = .next (s.setSq k (Claims.trapped q q.pc 4 9 0))) ∧
    (∀ o : BitVec 12, Claims.Free s o.toNat 0 →
      ∃ u, exec (.barrierNextPhase o) s = .next u ∧ Claims.onlyBarrier s u o.toNat (Claims.counted (s.barrier o.toNat) 0))

/-- R225, R226 and R381: `mchk` passes its token when the group's check passes and holds it when it fails; MCACK from the lead releases the
barrier or the `mchk` that the group withholds, or ends what waits. -/
def Obligations.MonitorChecks : Prop :=
  ∀ (s : State) (v : View) (p : Pass) (popped : Bool),
    let x := Claims.operands v p 391 []
    let op := Claims.followed v p 391 []
    let goes := fun (u : State) (o : OpSt) =>
      exec (.mchk v.w) s = .next (Claims.fired u v p 391 popped (Claims.withRandom x (.emit o (Claims.trigger x))))
    let check := checkGroup s (partOfSite s (eaSite v.ea)) (v.w.imm.toNat % 256) 0xFFFF (BitVec.ofNat 6 (originBlock s v.e.task v.ea)) (some (nodeOf v))
    (Claims.OnData s v p 391 [] popped →
      (v.op.sel = none → check.2 = true → goes check.1 op) ∧
      (v.op.sel = none → check.2 = false → exec (.mchk v.w) s = .next (Claims.waiting check.1 v { op with sel := some false })) ∧
      (v.op.sel = some true → goes s { op with sel := none })) ∧
    (∀ (c : BitVec 16) (part group obj : Nat) (l : List (Nat × Channel)),
      mcackGroup s c.toNat = some (part, group, l) → withheldBy s part group = [obj] → groupWaiters l = [] → tabRising none s.barriers = true →
      (s.barrier obj).pending = [group] → (s.barrier obj).park = false → (s.barrier obj).evt = false →
      let freed := fun (t : State) => t.barrier obj =
        { s.barrier obj with phase := (s.barrier obj).phase + 1, arr := (s.barrier obj).arr - (s.barrier obj).exp, pending := [] }
      (∃ t, exec (.mcackRelease c) s = .next t ∧ freed t ∧ t.sqs = s.sqs ∧ t.dmem = s.dmem ∧ (tasksWaiting s obj = [] → t.tasks = s.tasks)) ∧
      (tasksWaiting s obj = [] → ∃ t, exec (.mcackFail c) s = .next t ∧ freed t ∧ t.sqs = s.sqs ∧ t.dmem = s.dmem ∧ t.tasks = s.tasks)) ∧
    (∀ (c : BitVec 16) (part group n since : Nat) (l : List (Nat × Channel)) (ea : EAddr) (ctx : BitVec 2),
      mcackGroup s c.toNat = some (part, group, l) → withheldBy s part group = [] → groupWaiters l = [(elemKey ea ctx * 64 + n, since)] → n < 64 →
      tabRising none s.elems = true →
      let e := s.elem ea ctx
      let sent := fun (t : State) => t.elem ea ctx = e.setOp n { e.op n with sel := some true } ∧
        (∀ f d, (f, d) ≠ (ea, ctx) → t.elem f d = s.elem f d) ∧ t.barriers = s.barriers ∧ t.sqs = s.sqs ∧ t.dmem = s.dmem
      (∃ t, exec (.mcackRelease c) s = .next t ∧ sent t) ∧ (e.task = none → ∃ t, exec (.mcackFail c) s = .next t ∧ sent t)) ∧
    (∀ c : BitVec 16, mcackGroup s c.toNat = none → exec (.mcackRelease c) s = .next s ∧ exec (.mcackFail c) s = .next s)

/-- R184, R332 and R333: `cap` passes a token that the level covers and lowers the level; otherwise it drops it to the overflow output or
defers it; CAP_REFILL brings the level up to the present. -/
def Obligations.CapacityBuckets : Prop :=
  ∀ (s : State) (v : View) (p : Pass) (popped : Bool),
    let x := Claims.operands v p 392 fData
    let op := Claims.followed v p 392 fData
    let k := v.e.getK v.w.kidx.toNat
    let lv := Claims.capLevel s v
    let need := min 1 (laneNat k.pay 1 / 2 ^ 16)
    let co := v.w.imm.toNat / 2 ^ 18 % 4
    let ctl := fun (c : Bool) => if v.w.imm.getLsbD 21 then [(co, ({ v := c, b := false, par := c, fin := false, cut := false } : Ctl))] else []
    let ovp := v.w.imm.toNat / 2 ^ 16 % 4
    let decided := fun (c : Bool) => { op with lastRefill := s.time, sel := some c }
    (Claims.OnData s v p 392 fData popped → v.w.pg = 0 → (v.w.imm.getLsbD 21 = true → ctlOutputRoom s v.ea v.ctx co = true) →
      (v.w.fmt ≠ 0 → need ≤ lv → ∃ n, Claims.withLevel k n (lv - need) ∧
        exec (.cap v.w) s = .next (Claims.fired s v p 392 popped (Claims.withRandom x
          { StageOut.emit (decided true) (Claims.trigger x) with ctl := ctl true, k := some n }))) ∧
      (v.w.fmt ≠ 0 → lv < need → v.w.imm.getLsbD 20 = true → outputRoom s v.ea v.ctx ovp = true → ∃ n, Claims.withLevel k n lv ∧
        exec (.cap v.w) s = .next (Claims.fired (outputSend s v.ea v.ctx ovp (Claims.trigger x)) v p 392 popped (Claims.withRandom x
          { StageOut.quiet (decided false) with ctl := ctl false, k := some n }))) ∧
      (v.w.fmt ≠ 0 → lv < need → v.w.imm.getLsbD 20 = false → exec (.cap v.w) s = .next (Claims.waiting s v op)) ∧
      (v.w.fmt = 0 → v.op.sel ≠ some false →
        exec (.cap v.w) s = .next (Claims.fired s v p 392 popped (Claims.withRandom x (.emit op (Claims.trigger x)))))) ∧
    (∀ (site : SiteNo) (ctx : BitVec 2) (stage : BitVec 3), tabRising none s.elems = true →
      let e := s.elem (siteEa site 0) ctx
      let w := OpWord.ofBits (e.stageWord stage.toNat)
      let v := ({ ea := siteEa site 0, ctx := ctx, n := stage.toNat, w := w, e := e, op := e.op stage.toNat } : View)
      opcodeOf (e.stageWord stage.toNat) = 392 → e.stageOn stage.toNat = true →
      ∃ n, Claims.withLevel (e.getK w.kidx.toNat) n (Claims.capLevel s v) ∧
        exec (.capRefill site ctx stage) s = .next (s.setElem (siteEa site 0) ctx
          ((e.setK w.kidx.toNat n).setOp stage.toNat { e.op stage.toNat with lastRefill := s.time })))

/-- R412 and R413: `spawn` passes its token; a well-formed request of a task joins the task's buffered effects, a tagged or malformed one
requests nothing. -/
def Obligations.SpawnRequests : Prop :=
  ∀ (s : State) (v : View) (p : Pass) (popped : Bool) (k : Task),
    let x := Claims.operands v p 393 []
    let t := Claims.trigger x
    let mt := (siteSaveMt (eaSite v.ea)).toNat
    let goes := fun (u : State) => exec (.spawn v.w) s = .next (Claims.fired u v p 393 popped
      (Claims.withRandom x (.emit { Claims.followed v p 393 [] with mode := .idle, fault := none } t)))
    let pair := fun (i : Nat) => BitVec.ofNat 64 (elemNat x.a.pay 64 i)
    let whole := elemValid x.a.mask 64 0 = true ∧ elemValid x.a.mask 64 1 = true
    Claims.OnData s v p 393 [] popped →
    (x.side.etag = true → goes (countSuppressed s v.ea)) ∧
    (x.side.etag = false → ¬ whole → goes s) ∧
    (x.side.etag = false → whole → v.e.task.bind s.task? = some k → (k.wthrough = true ∨ cbFull s k mt = false) →
      goes (s.modTask k.uid (fun r => { r with cb := r.cb ++
        [.spawn mt (v.w.imm.extractLsb' 0 12) (pair 0) (pair 1) (if elemValid x.a.mask 64 2 then pair 2 else 0)] })))

namespace Sys2Proof.Claims

/-- The slot that v describes has the focus, its context is released and not stopped, its cut has not been taken, and no cut marker stands at
an input. -/
structure SlotReady (s : State) (v : SlotView) : Prop where
  focus    : ∃ ea, s.focus = .slot ea v.ctx v.n ∧ eaSite ea = v.site
  view     : v = slotView s v.site v.ctx v.n v.w
  released : v.r.released = true
  running  : v.r.stopped = false
  uncut    : v.op.cut = false
  markers  : ∀ p ∈ v.inputs, v.cutHere p = false
  first    : (v.r.queue (slotKey v.n 0)).any (fun t => t.kind == .cut) = false

/-- What a slot's firing does: inputs whose heads go, tokens and control tokens sent, state afterwards, control inputs of wrong parity. -/
def slotDoes (op : OpSt) (dpop cpop : List Nat) (data : List (Nat × Token)) (ctl : List (Nat × Ctl)) (parity : List Nat) : SlotOut :=
  { dpop := dpop, cpop := cpop, data := data, ctl := ctl, op := op, parity := parity, poison := false, sunk := none, fault := none }

/-- The slot completes the firing o led by t when everything it sends has room. -/
def SlotFires (s : State) (v : SlotView) (i : Instr) (code : Nat) (t : Token) (o : SlotOut) : Prop :=
  slotRoom s v o = true → exec i s = .next (applySlot s v code t o)

/-- The control input i's parity, as a RESIDUE record wants it. -/
def wrongAt (i : Nat) (c : Ctl) : List Nat := if c.par = (c.v != c.b) then [] else [i]

/-- A control token whose parity is wrong tags what it governs (R39). -/
def wrongTag (c : Ctl) : Bool := c.par != (c.v != c.b)

/-- A record's first token: data or a header. -/
def opens (t : Token) : Prop := t.kind = .data ∨ t.kind = .header

/-- A control token from a function of values: B is copied, V is 0 where B is 1, parity is inverted when an input's was wrong (R331). -/
def ctlFrom (v b fin good : Bool) : Ctl := { v := v && !b, b := b, par := if good then (v && !b) != b else !((v && !b) != b), fin := fin, cut := false }

end Sys2Proof.Claims

/-- R40, R358, R382 and R418: `steer`, `merge` and `gate` send each record where its control token says, tagged when that token's parity is
wrong; markers go with a B = 1 token to every output. -/
def Obligations.RecordSlots : Prop :=
  ∀ (s : State) (v : SlotView) (t : Token) (c : Ctl), Claims.SlotReady s v →
    let fires := Claims.SlotFires s v
    let does := Claims.slotDoes
    let tag := Claims.wrongTag c
    let bad := Claims.wrongAt 3 c
    let inside := { v.op with rem := v.op.rem - 1 }
    let oen := v.w.imm.getLsbD 0
    let cen := v.w.imm.getLsbD 1
    let dp := if oen then [0, 1] else [0]
    -- steer
    (v.data 0 = some t → v.ctl 3 = some c → v.op.rem = 0 → Claims.opens t → c.b = false →
      fires (.steer v.w) 256 t (does (startRecord v.op t c.v tag) [0] [3] [(if c.v then 0 else 1, t.orTag tag)] [] bad)) ∧
    (v.data 0 = some t → 0 < v.op.rem → t.kind = .data →
      fires (.steer v.w) 256 t (does inside [0] [] [(if v.op.sel = some true then 0 else 1, t.orTag v.op.tagged)] [] [])) ∧
    (v.data 0 = some t → v.ctl 3 = some c → v.op.rem = 0 → t.kind = .marker → c.b = true →
      fires (.steer v.w) 256 t (does (passMarker v.op t) [0] [3] [(0, t), (1, t)] [] bad)) ∧
    -- merge
    (v.ctl 3 = some c → v.op.rem = 0 → c.b = false → v.data (if c.v then 0 else 1) = some t → Claims.opens t →
      fires (.merge v.w) 257 t (does (startRecord v.op t c.v tag) [if c.v then 0 else 1] [3] [(0, t.orTag tag)] [] bad)) ∧
    (0 < v.op.rem → v.data (if v.op.sel = some true then 0 else 1) = some t → t.kind = .data →
      fires (.merge v.w) 257 t (does inside [if v.op.sel = some true then 0 else 1] [] [(0, t.orTag v.op.tagged)] [] [])) ∧
    (∀ u, v.ctl 3 = some c → v.op.rem = 0 → c.b = true → v.data 0 = some t → v.data 1 = some u → t.kind = .marker → u.kind = .marker →
      t.level = u.level → fires (.merge v.w) 257 t (does (passMarker v.op t) [0, 1] [3] [(0, t)] [] bad)) ∧
    -- gate: OEN waits for a token of input 1, CEN for a control token
    (v.data 0 = some t → v.op.rem = 0 → Claims.opens t → cen = true → v.ctl 3 = some c → c.b = false → oen = false →
      (c.v = true → fires (.gate v.w) 262 t (does (startRecord v.op t true tag) dp [3] [(0, t.orTag tag)] [] bad)) ∧
      (c.v = false → fires (.gate v.w) 262 t { does (startRecord v.op t false false) dp [3] [] [] bad with
        sunk := if tag then some t.tag else none })) ∧
    (∀ x, v.data 0 = some t → v.op.rem = 0 → Claims.opens t → cen = false → oen = true → v.data 1 = some x → x.kind ≠ .marker →
      fires (.gate v.w) 262 t (does (startRecord v.op t true x.etag) dp [] [(0, t.orTag x.etag)] [] [])) ∧
    (∀ x, v.data 0 = some t → v.op.rem = 0 → t.kind = .marker → cen = false → oen = true → v.data 1 = some x → x.kind = .marker →
      x.level = t.level → fires (.gate v.w) 262 t (does (passMarker v.op t) dp [] [(0, t)] [] [])) ∧
    (v.data 0 = some t → 0 < v.op.rem → t.kind = .data →
      fires (.gate v.w) 262 t (does inside [0] [] (if v.op.sel = some false then [] else [(0, t.orTag v.op.tagged)]) [] []))

/-- R331, R336, R356 and R411: `fork` copies a token to both outputs, `sink` discards it, `cand`, `cor` and `cnot` combine control tokens and
`cgen` makes one for each record and marker. -/
def Obligations.ControlSlots : Prop :=
  ∀ (s : State) (v : SlotView) (t : Token) (c d : Ctl), Claims.SlotReady s v →
    let fires := Claims.SlotFires s v
    let does := Claims.slotDoes
    let ended := fun (e : Bool) => { v.op with ended := v.op.ended || e }
    let isData := v.w.imm.getLsbD 0 = false
    let good := fun (c : Ctl) => c.par == (c.v != c.b)
    let first : Bool := if v.w.imm.getLsbD 1 then v.op.sel != some false else v.w.imm.getLsbD 0
    let val : Ctl := { v := first, b := false, par := first, fin := false, cut := false }
    (isData → v.data 0 = some t → fires (.fork v.w) 260 t (does (ended t.isEnd) [0] [] [(0, t), (1, t)] [] [])) ∧
    (¬ isData → v.ctl 3 = some c → fires (.fork v.w) 260 Token.zero (does (ended c.fin) [] [3] [] [(0, c), (1, c)] [])) ∧
    (isData → v.data 0 = some t → fires (.sink v.w) 261 t { does (ended t.isEnd) [0] [] [] [] [] with sunk := some t }) ∧
    (¬ isData → v.ctl 3 = some c → fires (.sink v.w) 261 Token.zero (does (ended c.fin) [] [3] [] [] [])) ∧
    (v.ctl 0 = some c → v.ctl 1 = some d → c.b = d.b →
      let op := { countPair v.op c.b with ended := v.op.ended || (c.fin && d.fin) }
      fires (.cand v.w) 263 Token.zero (does op [] [0, 1] [] [(0, Claims.ctlFrom (c.v && d.v) c.b (c.fin && d.fin) (good c && good d))] []) ∧
      fires (.cor v.w) 264 Token.zero (does op [] [0, 1] [] [(0, Claims.ctlFrom (c.v || d.v) c.b (c.fin && d.fin) (good c && good d))] [])) ∧
    (v.ctl 0 = some c →
      fires (.cnot v.w) 265 Token.zero (does { countPair v.op c.b with ended := v.op.ended || c.fin } [] [0] []
        [(0, Claims.ctlFrom (!c.v) c.b c.fin (good c))] [])) ∧
    (v.data 0 = some t → v.w.fmt ≠ 0 → t.kind = .data →
      fires (.cgen v.w) 266 t (does { v.op with sel := some false } [0] [] [(1, t)] [(0, val)] [])) ∧
    (v.data 0 = some t → v.w.fmt = 0 → t.kind = .header → v.op.rem = 0 → hdrOk t = true →
      fires (.cgen v.w) 266 t (does { trackPacket v.op t v.op.sel false with sel := some false } [0] [] [(1, t)] [(0, val)] [])) ∧
    (v.data 0 = some t → v.w.fmt = 0 → t.kind = .data → 0 < v.op.rem → v.op.seen = true →
      fires (.cgen v.w) 266 t (does (trackPacket v.op t v.op.sel false) [0] [] [(1, t)] [] [])) ∧
    (v.data 0 = some t → t.kind = .marker → v.op.rem = 0 →
      fires (.cgen v.w) 266 t (does { passMarker v.op t with sel := if t.level.toNat ≤ v.w.imm.toNat / 4 % 8 then none else v.op.sel }
        [0] [] [(1, t)] [(0, { v := false, b := true, par := true, fin := t.isEnd, cut := false })] []))

/-- R334 and R360: `carry` sends a record into the loop body, back into it while its control token says so, and out at the end; `invr` repeats
its token for every pass and lets it go at the end. -/
def Obligations.LoopSlots : Prop :=
  ∀ (s : State) (v : SlotView) (t : Token) (c : Ctl), Claims.SlotReady s v →
    let fires := Claims.SlotFires s v
    let does := Claims.slotDoes
    let tag := Claims.wrongTag c
    let bad := Claims.wrongAt 3 c
    let fen := v.w.imm.getLsbD 3
    let level : BitVec 3 := BitVec.ofNat 3 (v.w.imm.toNat % 8)
    let after : LoopState := if fen then .fibre else .idle
    -- carry: a bare record enters, goes round, leaves
    (v.op.mode = .idle → v.op.rem = 0 → v.data 0 = some t → t.kind = .data →
      fires (.carry v.w) 258 t (does { v.op with mode := .loop } [0] [] [(0, t)] [] [])) ∧
    (v.op.mode = .loop → v.op.rem = 0 → v.data 1 = some t → v.ctl 3 = some c → t.kind = .data → c.b = false →
      (c.v = true → t.etag = false → tag = false → fires (.carry v.w) 258 t (does (countPair v.op false) [1] [3] [(0, t)] [] [])) ∧
      (c.v = false ∨ t.etag = true ∨ tag = true → fires (.carry v.w) 258 t
        (does { countPair v.op false with mode := after } [1] [3]
          ((1, t.orTag tag) :: if fen then [(0, (t.orTag tag).asMarker level)] else []) [] bad))) ∧
    (v.op.mode = .fibre → v.data 1 = some t → v.ctl 3 = some c → t.kind = .marker → t.level = level → c.b = true →
      fires (.carry v.w) 258 t (does (countPair { v.op with mode := .idle } true) [1] [3] [] [] bad)) ∧
    -- carry: markers
    (v.op.mode = .idle → v.op.rem = 0 → v.data 0 = some t → t.kind = .marker → t.level ≠ 7 →
      fires (.carry v.w) 258 t (does (countPair v.op true) [0] [] [(1, t)] [] [])) ∧
    (v.op.mode = .idle → v.op.rem = 0 → v.data 0 = some t → t.kind = .marker → t.level = 7 →
      fires (.carry v.w) 258 t (does { v.op with mode := .drain } [0] [] [(0, t)] [] [])) ∧
    (v.op.mode = .drain → v.data 1 = some t → v.ctl 3 = some c → t.kind = .marker → t.level = 7 → c.b = true →
      fires (.carry v.w) 258 t (does (countPair { v.op with mode := .idle, ended := true } true) [1] [3] [(1, t)] [] bad)) ∧
    -- invr
    (v.op.mode = .idle → v.data 0 = some t → t.kind = .data →
      fires (.invr v.w) 259 t { does { v.op with mode := .hold, held := some t } [0] [] [(0, t)] [] [] with poison := t.etag }) ∧
    (v.op.mode = .idle → v.data 0 = some t → t.kind = .marker →
      fires (.invr v.w) 259 t (does { v.op with mode := if t.level = 7 then .drain else .idle } [0] [] [(0, t)] [] [])) ∧
    (v.op.mode = .hold → v.op.held = some t → v.ctl 3 = some c → c.b = false →
      (c.v = true → fires (.invr v.w) 259 t (does (countPair v.op false) [] [3] [(0, t.orTag tag)] [] bad)) ∧
      (c.v = false → fires (.invr v.w) 259 t (does (countPair { v.op with mode := after, held := none } false) [] [3]
        (if fen then [(0, t.asMarker level)] else []) [] bad)))

/-- R400, R422 and R423: `tourn` sends the K best candidates of a bare token, `rdig` passes a record and folds its decision into the digest. -/
def Obligations.TournAndDigest : Prop :=
  ∀ (s : State) (v : SlotView) (t : Token) (c : Ctl), Claims.SlotReady s v →
    let fires := Claims.SlotFires s v
    let does := Claims.slotDoes
    let k := v.w.imm.toNat % 16
    let base := v.w.imm.toNat / 256 % 256
    let f := v.w.fmt.toNat
    let better := fun (a b : Cand) => a.above f b = true
    (v.w.imm.getLsbD 4 = false → k ≤ 8 → v.data 0 = some t → t.kind = .data → ∃ (top : List Cand) (r : Token),
      let all := ((List.range 16).filter (fun j => maskBit t.mask j)).map (fun j => ({ score := laneNat t.pay j, index := base + j } : Cand))
      top.length = min k all.length ∧ (∀ a ∈ top, a ∈ all) ∧
      (fmtFloat f = false → top.Pairwise better ∧ ∀ a ∈ top, ∀ b ∈ all, b ∉ top → better a b) ∧
      r = { t with pay := r.pay, mask := r.mask, kind := .data, level := 0, res := r.res, multi := mixedSources [t], rand := false } ∧
      (∀ j < 16, maskBit r.mask j = decide (j < 2 * top.length)) ∧
      (∀ j (h : j < top.length), laneNat r.pay (2 * j) = top[j].score ∧ laneNat r.pay (2 * j + 1) = top[j].index) ∧
      fires (.tourn v.w) 269 t (does v.op [0] [] [(0, r)] [] [])) ∧
    (v.w.imm.getLsbD 4 = false → v.data 0 = some t → t.kind = .marker →
      fires (.tourn v.w) 269 t (does (passMarker v.op t) [0] [] [(0, t)] [] [])) ∧
    (v.r.slotLink v.n 1 = 31 → v.data 0 = some t → v.ctl 3 = some c → v.op.rem = 0 → Claims.opens t → c.b = false → ∃ r : Token,
      let d := (0xCBF29CE484222325 ^^^ (v.w.imm.toNat % 128 * 2 + if c.v then 1 else 0)) * 0x100000001B3 % 2 ^ 64
      r.kind = .data ∧ r.seq = t.seq ∧ r.mask = 3 ∧ r.etag = (t.etag || Claims.wrongTag c) ∧ laneNat r.pay 0 = d % 2 ^ 32 ∧ laneNat r.pay 1 = d / 2 ^ 32 ∧
      fires (.rdig v.w) 270 t (does (startRecord v.op t c.v (Claims.wrongTag c)) [0] [3] [(0, t.orTag (Claims.wrongTag c)), (1, r)] []
        (Claims.wrongAt 3 c))) ∧
    (v.r.slotLink v.n 1 = 31 → v.data 0 = some t → v.ctl 3 = some c → v.op.rem = 0 → t.kind = .marker → c.b = true →
      fires (.rdig v.w) 270 t (does (passMarker v.op t) [0] [3] [(0, t), (1, t)] [] (Claims.wrongAt 3 c)))

/-- R189 to R194 and R362 to R364: the head slot of a commute group takes an entering token into its store, dispatches a waiting record to an
eligible member, and `kjoin` sends the oldest complete slot; an extension slot does nothing of its own. -/
def Obligations.CommuteGroups : Prop :=
  ∀ (s : State) (v : SlotView) (t : Token) (x : KSlot) (rest : List KSlot), Claims.SlotReady s v →
    let ea := siteEa v.site 1
    let k := v.r.kStore
    let quietReturns := ∀ m < v.r.kMembers, returnOf v k m = .none_
    (v.w.imm.toNat % 8 ≠ 0 → exec (.kelp v.w) s = .next s) ∧
    (v.w.imm.toNat % 8 = 0 → v.op.sel ≠ some true → quietReturns → k.slots = [] → v.data 0 = some t → (t.kind = .data ∨ t.kind = .marker) →
      exec (.kelp v.w) s = .next (setKelp (noteFiring (s.modElem ea v.ctx (fun r => r.popData v.n 0)) ea v.ctx (16 + v.n) t) v
        { k with slots := [{ tok := { t with done := if t.kind = .data then 0 else t.done }
                             state := if t.kind = .data ∧ t.etag = true ∨ t.kind = .marker ∧ t.level ≠ 7 then .complete else .waiting
                             hole := false, since := 0, turn := 0, owed := [], back := false }] })) ∧
    (v.w.imm.toNat % 8 = 0 → v.op.sel ≠ some true → quietReturns → noteReturns s v = s → v.r.queue (slotKey v.n 0) = [] → k.slots = x :: rest → x.state = .waiting →
      x.tok.kind = .data → ∀ m, (remaining v.r x.tok.done).filter (memberRoom s v) = [m] →
      let u := setKelp (memberSend s v x.tok m) v
        { k with turns := k.turns + 1, slots := { x with state := .dispatched m, since := s.time, turn := k.turns, back := false } :: rest }
      (u.elem ea v.ctx).queue (slotKey v.n 0) = [] → exec (.kelp v.w) s = .next u) ∧
    (k.slots = x :: rest → x.state = .complete →
      (kelpHead v.r).elim false (fun n => (v.r.op (16 + n)).sel == some true) = false →
      let out : List (Nat × Token) × List (Nat × Ctl) :=
        if x.tok.kind = .marker then ([(0, { x.tok with done := 0 })], [(1, { v := false, b := true, par := true, fin := x.tok.isEnd, cut := false })])
        else if x.hole then ([], [(1, { v := false, b := false, par := false, fin := false, cut := false })])
        else ([(0, { x.tok with done := 0 })], [(1, { v := true, b := false, par := true, fin := false, cut := false })])
      slotRoom s v (Claims.slotDoes v.op [] [] out.1 out.2 []) = true →
      let u := noteFiring (setKelp s v { k with slots := rest }) ea v.ctx (16 + v.n) x.tok
      exec (.kjoin v.w) s = .next (slotSend (if x.tok.isEnd then u.modElem ea v.ctx endGroup else u) v out.1 out.2))

namespace Sys2Proof.Claims

/-! ## Address-generator nodes -/

/-- Node v.n of a memory tile has the focus with the word v.w of opcode `code`, may fire, and waits at no page fault. -/
structure NodeLive (s : State) (v : AgnView) (code : Nat) : Prop where
  focus : s.focus = .agn v.ea v.ctx v.n
  site  : eaSite v.ea = v.site
  view  : v = agnView s v.site v.ctx v.n v.w code
  live  : agnLive s v = true
  fault : v.op.fault = none

/-- Data tokens ts stand at the inputs of the node. -/
structure NodeReady (s : State) (v : AgnView) (code : Nat) (ts : List Token) : Prop extends NodeLive s v code where
  heads : (agnInputs v).map (fun p => (v.e.queue p).head?) = ts.map some
  data  : ∀ t ∈ ts, t.kind = .data

/-- The tile's banks: none retired, no row in error, reconstruction of busy banks off, so that every read is direct (R203, R209, R211). -/
structure Clean (s : State) (site : SiteNo) : Prop where
  sites : tabRising none s.sites = true
  banks : ∀ g, retiredOf (axOf s site) g = []
  rows  : ∀ b r, rowError (axOf s site) b r = 0
  recon : (axOf s site).bpctl.toNat % 2 = 0

/-- Where byte o of the tile stands, under the node's bank rotation (R92). -/
def cell (v : AgnView) (o : Nat) : Nat := bankKey v.site (bankOf v.rot o) (rowOf o) + o % 64

/-- Byte o of the tile. -/
def tileByte (s : State) (v : AgnView) (o : Nat) : Byte := memByte s.spad (cell v o)

/-- n bytes of the tile at o as a number, the lowest first. -/
def tileNat (s : State) (v : AgnView) (o n : Nat) : Nat := bytesToNat ((List.range n).map (fun i => tileByte s v (o + i)))

/-- A LOCAL access of n bytes at a is in order: aligned to k, in BASE to BASE + LIMIT and in the program range (R94, R96, R286). -/
def Allowed (s : State) (v : AgnView) (a n k : Nat) : Prop := v.port = 0 ∧ a % k = 0 ∧ v.inWindow a n = true ∧ inRange s v.site a n = true

/-- All but the bank accounting of the tiles and the monitors' channels is as before; so is memory outside the given cells of the banks. -/
def Apart (s u : State) (written : Nat → Prop) : Prop :=
  u.dmem = s.dmem ∧ u.lram = s.lram ∧ u.sqs = s.sqs ∧ u.elems = s.elems ∧ u.parts = s.parts ∧ u.tasks = s.tasks ∧
  ∀ k, ¬ written k → memByte u.spad k = memByte s.spad k

/-- The node's firing ends so: from a state u, inputs taken, results waiting on their ports. -/
def NodeDone (s : State) (v : AgnView) (i : Instr) (t : Token) (op : OpSt) (res : List (Nat × Token)) (u : State) : Prop :=
  exec i s = .next (applyAgn u v t (agnInputs v) (.done op res false))

/-- The node stands at the start of a request, and nothing tells it to perform the request in parts (R137, R146). -/
def Fresh (op : OpSt) : Prop := op.visited = 0 ∧ op.held = none ∧ op.part = none ∧ op.lost = false

/-- A data token on the sideband of another. -/
def onSide (t r : Token) (m : BitVec 16) : Prop := r = { t with pay := r.pay, mask := m, kind := .data, level := 0, res := r.res }

/-- The token's only address is element i. -/
def onlyAddress (t : Token) (i a : Nat) : Prop := addrElem t i = some a ∧ ∀ j < 8, j ≠ i → addrElem t j = none

/-- New word of an integer atomic (Table 15-4). -/
def newWord (aop f old d : Nat) : Nat :=
  match aop with
  | 0 => wrap (fmtWidth f) (num f old + num f d)
  | 1 => if num f d < num f old then d else old
  | 2 => if num f old < num f d then d else old
  | 3 => old &&& d
  | 4 => old ||| d
  | _ => d

/-- First slot of a key (R395). -/
def firstSlot (v : AgnView) (key : Nat) : Nat := key * 0x9E3779B97F4A7C15 % 2 ^ 64 / 2 ^ (64 - v.imm 2 5) % 2 ^ v.imm 2 5

/-- One record of a compacted packet (R416). -/
def compacted (t : Token) : List Byte :=
  natToBytes 4 t.mask.toNat ++ ((List.range 16).filter (maskBit t.mask)).flatMap (fun j => natToBytes 4 (laneNat t.pay j))

end Sys2Proof.Claims

/-- R96, R369, R370, R372 to R375 and Table 4-10 under a LOCAL binding: `ld` reads a line per address and `ldx` an element per address, `ldl`
follows a chain node by node and ends it with a marker; tagged and inactive addresses give tokens with no valid lane. Nothing but bank
accounting, the inputs and the node's results changes. -/
def Obligations.NodeLoads : Prop :=
  ∀ (s : State) (v : AgnView) (t : Token), Claims.Clean s v.site →
    let ready := fun code => Claims.NodeReady s v code [t]
    let line := fun (u : State) (r : Token) (a : Nat) =>
      Claims.Apart s u (fun _ => False) ∧ Claims.onSide t r 0xFFFF#16 ∧ ∀ i < 64, (lineBytes r.pay).getD i 0 = Claims.tileByte s v (a + i)
    let node := (v.op.ptr.getD 0 + v.offl).toNat
    (ready 320 → v.fromBase = false → v.imm 16 2 = 0 →
      (t.etag = true ∨ addrElem t 0 = none → Claims.NodeDone s v (.ld v.w) t v.op [(v.w.dst.toNat, emptyToken t)] s) ∧
      (∀ a, t.etag = false → addrElem t 0 = some a → Claims.Allowed s v a 64 64 →
        ∃ u r, line u r a ∧ Claims.NodeDone s v (.ld v.w) t v.op [(v.w.dst.toNat, r)] u)) ∧
    (ready 322 → fmtWidth v.w.fmt.toNat ∈ [8, 16, 32, 64] →
      let w := fmtWidth v.w.fmt.toNat
      (t.etag = true → Claims.NodeDone s v (.ldx v.w) t v.op (v.result (emptyToken t)) s) ∧
      (t.etag = false → Claims.Fresh v.op → (∀ i < 8, ∀ a, addrElem t i = some a → Claims.Allowed s v a (w / 8) (w / 8)) → ∃ u r,
        Claims.Apart s u (fun _ => False) ∧ Claims.onSide t r (lanesOfElems w (fun i => decide (i < 8) && (addrElem t i).isSome)) ∧
        (∀ i < 8, ∀ a, addrElem t i = some a → elemValid r.mask w i = true → elemNat r.pay w i = Claims.tileNat s v a (w / 8)) ∧
        Claims.NodeDone s v (.ldx v.w) t v.op (v.result r) u)) ∧
    (ready 324 → v.op.held = none →
      Claims.NodeDone s v (.ldl v.w) t
        { v.op with held := some t, ptr := some ((addrElem t 0).getD (if v.port = 2 then faultEl 0 else 0)), visited := 0 } [] s) ∧
    (Claims.NodeLive s v 324 → cutHead v.e v.w.sa.toNat = false → v.port = 0 → v.op.held = some t → t.etag = false →
      (v.op.ptr = some 0 → exec (.ldl v.w) s = .next (applyAgn s v t [] (.done { v.op with held := none, ptr := none, visited := 0 }
        (v.result (t.asMarker (BitVec.ofNat 3 (v.imm 3 3)))) false))) ∧
      (0 < v.op.ptr.getD 0 → v.op.visited < v.imm 16 16 → 0 ≤ (v.op.ptr.getD 0 : Int) + v.offl → Claims.Allowed s v node 64 64 →
        ∃ u r, line u r node ∧ exec (.ldl v.w) s = .next (applyAgn u v t []
          (.done { v.op with ptr := some (Claims.tileNat s v (node + 8 * v.imm 0 3) 8), visited := v.op.visited + 1 } (v.result r) false))))

/-- R96, R323, R324, R414, R415 and R419 under a LOCAL binding: `st` writes the valid lanes of a line, `stx` the valid elements at their addresses,
`atom` one word indivisibly and answers the old one; the completion follows. Every other byte of the banks, and all other memory, is as
before. -/
def Obligations.NodeStores : Prop :=
  ∀ (s : State) (v : AgnView) (t d : Token), Claims.Clean s v.site → memWf s.spad = true → t.etag = false → d.etag = false →
    let w := fmtWidth v.w.fmt.toNat
    let n := w / 8
    let within := fun (a n k : Nat) => ∃ i < n, k = Claims.cell v (a + i)
    (∀ a, Claims.NodeReady s v 321 [t, d] → v.fromBase = false → addrElem t 0 = some a → Claims.Allowed s v a 64 64 → ∃ u,
      Claims.Apart s u (within a 64) ∧
      (∀ i < 64, let valid := if w = 64 then maskBit d.mask (i / 8 * 2) && maskBit d.mask (i / 8 * 2 + 1) else maskBit d.mask (i / 4)
        Claims.tileByte u v (a + i) = if valid then (lineBytes d.pay).getD i 0 else Claims.tileByte s v (a + i)) ∧
      Claims.NodeDone s v (.st v.w) t v.op (v.completion t false) u) ∧
    (Claims.NodeReady s v 323 [t, d] → Claims.Fresh v.op → w ∈ [8, 16, 32, 64] →
      let wrote := fun (i a : Nat) => i < 8 ∧ elemValid d.mask w i = true ∧ addrElem t i = some a
      (∀ i a, wrote i a → Claims.Allowed s v a n n) → ∃ u,
      Claims.Apart s u (fun k => ∃ i a, wrote i a ∧ within a n k) ∧
      (∀ i a, wrote i a → (∀ j b, wrote j b → i < j → a + n ≤ b ∨ b + n ≤ a) → Claims.tileNat u v a n = elemNat d.pay w i) ∧
      Claims.NodeDone s v (.stx v.w) t v.op (v.completion t false) u) ∧
    (∀ i a, Claims.NodeReady s v 325 [t, d] → v.imm 0 4 ≤ 5 → w ∈ [32, 64] → Claims.Fresh v.op → i < 8 →
      Claims.onlyAddress t i a → elemValid d.mask w i = true → Claims.Allowed s v a n n → ∃ u r,
      Claims.Apart s u (within a n) ∧
      Claims.tileNat u v a n = Claims.newWord (v.imm 0 4) v.w.fmt.toNat (Claims.tileNat s v a n) (elemNat d.pay w i) % 2 ^ w ∧
      Claims.onSide t r (lanesOfElems w (fun j => j == i)) ∧ (elemValid r.mask w i = true → elemNat r.pay w i = Claims.tileNat s v a n) ∧
      Claims.NodeDone s v (.atom v.w) t v.op (v.result r ++ v.completion t false) u) ∧
    (∀ c i a, Claims.NodeReady s v 325 [t, d, c] → v.imm 0 4 = 6 → w ∈ [32, 64] → Claims.Fresh v.op → i < 8 → c.etag = false →
      Claims.onlyAddress t i a → elemValid d.mask w i = true → elemValid c.mask w i = true → Claims.Allowed s v a n n → ∃ u r,
      Claims.Apart s u (within a n) ∧
      Claims.tileNat u v a n = (if Claims.tileNat s v a n = elemNat c.pay w i then elemNat d.pay w i else Claims.tileNat s v a n) ∧
      Claims.onSide t r (lanesOfElems w (fun j => j == i)) ∧ (elemValid r.mask w i = true → elemNat r.pay w i = Claims.tileNat s v a n) ∧
      Claims.NodeDone s v (.atom v.w) t v.op (v.result r ++ v.completion t false) u)

/-- R340, R394, R395 and R416 under a LOCAL binding: `cpy` copies lines, `probe` finds, inserts or accumulates at a key's first slot, and `stc`
writes a zero line, then compacted records, and at the end of the packet its header; every other byte is as before. -/
def Obligations.NodeTables : Prop :=
  ∀ (s : State) (v : AgnView) (t d : Token), Claims.Clean s v.site → memWf s.spad = true → t.etag = false → d.etag = false →
    let within := fun (a n k : Nat) => ∃ i < n, k = Claims.cell v (a + i)
    let bytes := fun (u : State) (a : Nat) (l : List Byte) => ∀ i < l.length, Claims.tileByte u v (a + i) = l.getD i 0
    -- one line copied
    (∀ a b, Claims.NodeReady s v 329 [t] → v.fromBase = false → v.imm 0 16 = 1 → v.imm 16 2 = 0 → v.imm 18 2 = 0 → Claims.Fresh v.op →
      v.op.tagged = false → addrElem t 0 = some a → addrElem t 1 = some b → Claims.Allowed s v a 64 64 → Claims.Allowed s v b 64 64 → ∃ u,
      Claims.Apart s u (within b 64) ∧ bytes u b ((List.range 64).map (fun i => Claims.tileByte s v (a + i))) ∧
      Claims.NodeDone s v (.cpy v.w) t v.op (v.completion t false) u) ∧
    -- one key
    (∀ i key, let slot := Claims.firstSlot v key
      let a := v.base + 16 * slot
      Claims.onlyAddress t i key → i < 8 → key ≠ 0x8000000000000000 → 0 < v.imm 7 8 → a % 16 = 0 → inRange s v.site a 16 = true → v.w.fmt = 7 →
      let answers := fun (u : State) (x : Nat) => ∃ r, Claims.onSide t r (lanesOfElems 64 (fun j => j == i)) ∧ elemNat r.pay 64 i = x ∧
        Claims.NodeDone s v (.probe v.w) t v.op (v.result r ++ v.completion t false) u
      (Claims.NodeReady s v 327 [t] → v.imm 0 2 = 0 → Claims.tileNat s v a 8 = key →
        ∃ u, Claims.Apart s u (fun _ => False) ∧ answers u (Claims.tileNat s v (a + 8) 8)) ∧
      (Claims.NodeReady s v 327 [t] → v.imm 0 2 = 0 → key ≠ Claims.tileNat s v a 8 → Claims.tileNat s v a 8 = 0x8000000000000000 →
        ∃ u, Claims.Apart s u (fun _ => False) ∧ ∃ r, Claims.onSide t r 0 ∧
          Claims.NodeDone s v (.probe v.w) t v.op (v.result r ++ v.completion t false) u) ∧
      (Claims.NodeReady s v 327 [t, d] → v.imm 0 2 = 1 → elemValid d.mask 64 i = true → Claims.tileNat s v a 8 = 0x8000000000000000 →
        ∃ u, Claims.Apart s u (within a 16) ∧ Claims.tileNat u v a 8 = key ∧ Claims.tileNat u v (a + 8) 8 = elemNat d.pay 64 i ∧ answers u slot) ∧
      (Claims.NodeReady s v 327 [t, d] → v.imm 0 2 = 2 → elemValid d.mask 64 i = true → Claims.tileNat s v a 8 = key →
        let sum := (Claims.tileNat s v (a + 8) 8 + elemNat d.pay 64 i) % 2 ^ 64
        ∃ u, Claims.Apart s u (within (a + 8) 8) ∧ Claims.tileNat u v (a + 8) 8 = sum ∧ answers u sum)) ∧
    -- a packet's header, a record, its last record
    (∀ a limit h, Claims.NodeLive s v 328 → (v.e.queue v.w.sa.toNat).head? = some t → t.kind = .data → (v.e.queue v.w.sb.toNat).head? = some d →
      v.fromBase = false → v.op.tagged = false → addrElem t 0 = some a → elemNat t.pay 64 1 = limit → limit < 2 ^ 32 → Claims.Allowed s v a limit 64 →
      let popData := [v.w.sb.toNat]
      let size := 4 + 4 * ((List.range 16).filter (maskBit d.mask)).length
      let used := v.op.level + size
      (d.kind = .header → v.op.rem = 0 → hdrOk d = true → 0 < hdrTokens d → 64 ≤ limit →
        ∃ u, Claims.Apart s u (within a 64) ∧ bytes u a (List.replicate 64 0) ∧
          exec (.stc v.w) s = .next (applyAgn u v t popData
            (.done { v.op with hdr := some d, rem := hdrTokens d, level := 64, visited := 0, seen := true, sel := some true, lost := false } [] false))) ∧
      (d.kind = .data → 1 < v.op.rem → v.op.sel = some true → used ≤ limit →
        ∃ u, Claims.Apart s u (within (a + v.op.level) size) ∧ bytes u (a + v.op.level) (Claims.compacted d) ∧
          exec (.stc v.w) s = .next (applyAgn u v t popData
            (.done { v.op with rem := v.op.rem - 1, level := used, sel := some true, visited := v.op.visited + 1 } [] false))) ∧
      (d.kind = .data → v.op.rem = 1 → v.op.sel = some true → used ≤ limit → 64 ≤ v.op.level → v.op.hdr = some h → v.op.lost = false → ∃ u r,
        Claims.Apart s u (fun k => within (a + v.op.level) size k ∨ within a 64 k) ∧
        bytes u (a + v.op.level) (Claims.compacted d) ∧ bytes u a (lineBytes h.pay) ∧
        Claims.onSide t r 7 ∧ laneNat r.pay 0 = 0 ∧ laneNat r.pay 1 = used ∧ laneNat r.pay 2 = (v.op.visited + 1) % 2 ^ 32 ∧
        exec (.stc v.w) s = .next (applyAgn u v t [v.w.sa.toNat, v.w.sb.toNat]
          (.done { v.op with rem := 0, level := 0, sel := none, visited := 0, held := none, hdr := none, tagged := false }
            (v.result r ++ v.completion t false) false))))

/-- R98, R113, R430, R431 and Table 4-10: `xlat` answers at once from its tile's cache and otherwise withholds the token until the walk completes;
results leave a node in the order in which they were made, when the router has room. -/
def Obligations.NodeTranslations : Prop :=
  ∀ (s : State) (v : AgnView) (t : Token) (va : Nat), Claims.NodeLive s v 326 → t.etag = false → v.fromBase = false →
    let i := Intent.ofBits (v.imm 0 2)
    let part := v.part s
    let physical := fun (u : State) (y : Xlated) (r : Token) => Claims.onSide t r 3 ∧ ∃ x, elemNat r.pay 64 0 = x % 2 ^ 64 ∧
      bits x 0 52 = y.pa % 2 ^ 52 ∧ bits x 56 7 = (u.part part).gen.toNat ∧ (bits x 55 1 = if y.wok then 1 else 0) ∧ bits x 63 1 = 0
    let logged := fun (u : State) (y : Xlated) => noteReissue v.op (reissueOf y va (BitVec.ofNat 2 (v.imm 0 2)) (u.part part).gen)
    Claims.onlyAddress t 0 va →
    (∀ e u y, Claims.NodeReady s v 326 [t] → v.op.held = none → tlbHits (s.site v.site).xtc part va = [e] → e.serves i = true →
      (s.part part).pxen = true → va < 2 ^ 57 → y.sz < 8 → tileXlat s v.site part va i = (u, .ok y) →
      ∃ r, physical u y r ∧ Claims.NodeDone s v (.xlat v.w) t (logged u y) (v.result r) u) ∧
    (Claims.NodeReady s v 326 [t] → v.op.held = none → tlbHits (s.site v.site).xtc part va = [] →
      exec (.xlat v.w) s = .next (applyAgn s v t (agnInputs v) (.done { v.op with held := some t } [] false))) ∧
    (∀ u y, v.op.held = some t → siteExists v.site = true → (n : v.n < 4) → OpWord.ofBits (v.e.agnWord v.n) = v.w → opcodeOf (v.e.agnWord v.n) = 326 →
      y.sz < 8 → tileXlat s v.site part va i = (u, .ok y) → ∃ r, physical u y r ∧
        exec (.walkComplete v.site v.ctx (BitVec.ofNat 2 v.n)) s = .next ((migEnds u v).modElem v.ea v.ctx (fun e =>
          e.setOp (32 + v.n) { logged u y with held := none, mig := none, res := v.op.res ++ v.result r }))) ∧
    (∀ p r rest, siteExists v.site = true → siteIsMt v.site = true → (n : v.n < 4) → v.op.res = (p, r) :: rest → outputRoom s v.ea v.ctx p = true →
      opcodeOf (v.e.agnWord v.n) = 326 →
      exec (.accessResult v.site v.ctx (BitVec.ofNat 2 v.n)) s =
        .next (outputSend (s.modElem v.ea v.ctx (fun e => e.setOp (32 + v.n) { v.op with res := rest })) v.ea v.ctx p r))

/-- R32, R34, R41, R293 and R316 for the integer operators: markers and headers pass with the tags of all sources, a header sets the format;
a closed gate passes source A; kinds that differ stop the operator with CTLCOUNT. -/
def Obligations.StreamTokens : Prop :=
  ∀ (s : State) (v : View) (p : Pass) (i : Instr) (code : BitVec 9) (g : Nat → Nat → Nat → Nat → Nat),
    i.operator = some (code, v.w) → Claims.intElement i = some g → Claims.Stands s v p code.toNat →
    let ports := Claims.portsOf p (sourceCodes code.toNat v.w)
    let t := Claims.lead p (sourceCodes code.toNat v.w)
    let tagged : Token := { t with etag := t.etag || ports.any (·.etag) }
    let fmts := decodable code.toNat
    ports ≠ [] →
    (v.w.pg = 0 → (∀ u ∈ ports, u.kind = .marker ∧ u.level = t.level) → v.op.rem = 0 →
      exec i s = .next (applyOut s v p t (.emit v.op tagged))) ∧
    (v.w.pg = 0 → v.w.fmt = 0 → (∀ u ∈ ports, u.kind = .header) → v.op.rem = 0 → hdrOk t = true → hdrFmt t ∈ fmts →
      exec i s = .next (applyOut s v p t (.emit { v.op with rem := hdrTokens t, elems := hdrCount t, sel := some true, seen := true, hdr := some t
                                                            tagged := false, fmt := BitVec.ofNat 4 (hdrFmt t) } tagged))) ∧
    (v.w.pg = 1 → v.w.fmt ≠ 0 → v.w.sa.toNat ≤ 4 → v.op.rem = 0 → (∀ u ∈ ports, u.kind = .data) → ∀ c rest,
      v.e.ctlQueue (gateIndex v.e v.n) = c :: rest → c.cut = false → c.b = false → c.v = false → c.par = false →
      let popped := s.modElem v.ea v.ctx (fun e => e.setCtlQueue (gateIndex v.e v.n) (e.ctlQueue (gateIndex v.e v.n)).tail)
      exec i s = .next (applyOut popped v p t (.emit { trackPacket v.op t (some false) false with ctlN := v.op.ctlN + 1, dataN := v.op.dataN + 1 } t))) ∧
    (v.w.pg = 0 → (∃ u ∈ ports, u.kind ≠ t.kind) → (∀ u ∈ ports, u.kind ≠ .cut) →
      exec i s = .next (applyOut s v p t (.stop v.op (ctlCount 2 v.n code.toNat v.w t))))

/-- R293 for what a firing hands on when DST names no output port: the next stage's token, the context register, and nothing else of the
machine's registers and memories; where an internal checker fires (R216), the token is tagged and the partition's records may change. -/
def Obligations.StageDelivery : Prop :=
  ∀ (s : State) (v : View) (p : Pass) (t r : Token) (op : OpSt), 4 ≤ v.w.dst.toNat → tabRising none s.elems = true → v.e = s.elem v.ea v.ctx →
    v.e.pass = some p → tabRising none v.e.k = true → trctl v.ea v.e % 2 = 0 →
    let u := applyOut s v p t (.emit op r)
    -- an internal checker of the stage has fired on a data token (R216)
    let checked := v.op.chk && t.kind == .data
    let r := if checked then { r with etag := true } else r
    let named := v.w.dst = 5 ∨ v.w.dst = 6
    let next : Option Token := if v.w.dst = 4 ∨ v.w.dst = 6 then some r else none
    (u.elem v.ea v.ctx).pass = (if 5 ≤ p.stage then none else some { p with stage := p.stage + 1, prev := next }) ∧
    (∀ n, (u.elem v.ea v.ctx).getK n = if named ∧ r.kind = .data ∧ n = v.w.kidx.toNat then r else v.e.getK n) ∧
    (∀ ea c, (ea, c) ≠ (v.ea, v.ctx) → u.elem ea c = s.elem ea c) ∧
    u.dmem = s.dmem ∧ u.spad = s.spad ∧ u.lram = s.lram ∧ u.sqs = s.sqs ∧ (checked = false → u.parts = s.parts) ∧ u.ws = s.ws ∧ u.acs = s.acs ∧
    u.barriers = s.barriers ∧ u.queues = s.queues ∧ u.plat = s.plat

namespace Sys2Proof.Claims

/-- No task stands in the device and no monitor channel is on: an access of a sequencer then aborts nothing and is seen by no channel. -/
def Unobserved (s : State) : Prop := s.tasks = [] ∧ s.channels = []

/-- The range of `tlbi` and `shdn`: whole pages around it; everything for a length of 0 (R408, R421). -/
def pages (a n : Nat) : Nat × Nat := if n = 0 then (0, 2 ^ 57) else (a / 4096 * 4096, (a + n + 4095) / 4096 * 4096 - a / 4096 * 4096)

end Sys2Proof.Claims

/-- R335, R397, R398: configuration words go behind every word already queued, a busy loader makes `cfgs` wait, `cfgq` pops a read-back word;
`qapp` puts a 64-byte command in the next ring slot and gives its number; `qfen` puts one fence entry in each queue named. -/
def Obligations.LoaderAndQueues : Prop :=
  ∀ (s : State) (b : BitVec 6) (d a c : BitVec 5), Claims.Runs s b →
    let q := s.sq b
    let n := (q.getG c).toNat
    let num := BitVec.ofNat 4 (q.getG a).toNat
    let e := s.engine b num
    let sup := q.priv = true
    (sup → n = 0 → exec (.cfgs a c) s = .next (s.setSq b (Claims.nextPc q))) ∧
    (sup → 2 ^ 24 < n → exec (.cfgs a c) s = .next (s.setSq b (Claims.trapped q q.pc 4 1 0))) ∧
    (∀ p, sup → 0 < n → n ≤ 2 ^ 24 → sqPlace s b (q.getG a) 4 4 = .ok p →
      exec (.cfgs a c) s = .next (if q.streaming then s else
        s.setSq b { Claims.nextPc q with stream := q.stream ++ [.inl ((q.getG a).toNat, n)], rej := false })) ∧
    (sup → exec (.cfgw a) s = .next (s.setSq b { Claims.nextPc q with stream := q.stream ++ [.inr (BitVec.ofNat 32 (q.getG a).toNat)] })) ∧
    (sup → q.rb = [] → exec (.cfgq d) s = .next (s.setSq b (Claims.nextPc (q.setG d 0)))) ∧
    (∀ w rest, sup → q.rb = w :: rest →
      exec (.cfgq d) s = .next (s.setSq b (Claims.nextPc ({ q with rb := rest }.setG d (BitVec.ofNat 64 (2 ^ 32 + w.toNat)))))) ∧
    -- engine queues
    (Claims.Ordered s b → 16 ≤ (q.getG a).toNat ∨ e.en = false → exec (.qappEngine d a c) s = .next (s.setSq b (Claims.trapped q q.pc 4 1 0))) ∧
    (∀ p, Claims.Ordered s b → (q.getG a).toNat < 16 → e.en = true → sqPlace s b (q.getG c) 64 64 = .ok p → 2 ^ (e.rsz.toNat + 4) ≤ (e.appn - e.donen).toNat →
      exec (.qappEngine d a c) s = .next s) ∧
    (∀ u pa, Claims.Ordered s b → lsSide u.plat q.part.toNat = false → (q.getG a).toNat < 16 → e.en = true → Claims.inRam (q.getG c) → n % 64 = 0 → (e.appn - e.donen).toNat < 2 ^ (e.rsz.toNat + 4) →
      Claims.Unobserved s → memWf s.dmem = true → tabRising none s.engines = true → tabRising none s.sqs = true → pa % 64 = 0 →
      sqXlat s b (e.rbase.toNat + 64 * (e.appn.toNat % 2 ^ (e.rsz.toNat + 4))) writeIntent = (u, .ok pa) →
      u.dmem = s.dmem → u.tasks = [] → u.channels = [] → u.engines = s.engines → u.sqs = (s.setSq b (u.sq b)).sqs → ∃ t, exec (.qappEngine d a c) s = .next t ∧
        memNat t.dmem pa 64 = Claims.ramNat s b (n % 4096) 64 ∧ (∀ k, (k < pa ∨ pa + 64 ≤ k) → memByte t.dmem k = memByte s.dmem k) ∧
        t.engine b num = { e with appn := e.appn + 1, items := e.items ++ [.cmd] } ∧ (∀ k m, (k, m) ≠ (b, num) → t.engine k m = s.engine k m) ∧
        t.sq b = Claims.nextPc ((u.sq b).setG d (BitVec.ofNat 64 (e.appn + 1).toNat)) ∧ ∀ k, k ≠ b → t.sq k = s.sq k) ∧
    (tabRising none s.engines = true →
      let named := (List.range 16).filter (fun i => (q.getG a).getLsbD i && (s.engine b (BitVec.ofNat 4 i)).en)
      let counts := named.map (fun i => (i, (s.engine b (BitVec.ofNat 4 i)).appn.toNat))
      ∃ t : State, exec (.qfen a) s = .next { s.setSq b (Claims.nextPc q) with engines := t.engines } ∧
        ∀ (k : BitVec 6) (m : BitVec 4), t.engine k m =
          if k = b ∧ m.toNat ∈ named then { s.engine k m with items := (s.engine k m).items ++ [.fence named counts] } else s.engine k m)

/-- R380, R397, R401, R404, R408, R421 and R424: what the other fabric instructions do: a launch taken from memory, a work queue's doorbell, dropped
translations, a new generation, sealing, and debug requests that go to the partition controller with STATUS 0. -/
def Obligations.FabricRequests : Prop :=
  ∀ (s : State) (b : BitVec 6) (d a c : BitVec 5), Claims.Runs s b →
    let q := s.sq b
    let x := (q.getG a).toNat
    let w := s.queue q.tskq
    let num := BitVec.ofNat 12 x
    let count := (q.getG c).toNat % 2 ^ 16
    let part := q.part.toNat
    let sup := q.priv = true
    let answers := fun (i : Instr) (v : DWord) => exec i s = .next (s.setSq b (Claims.nextPc (q.setG d v)))
    let traps := fun (i : Instr) (sub : Nat) => exec i s = .next (s.setSq b (Claims.trapped q q.pc 4 sub 0))
    -- tsk
    (Claims.Ordered s b → x % 64 ≠ 0 → traps (.tsk d a) 3) ∧
    (Claims.Ordered s b → x % 64 = 0 → w.part ≠ q.part → traps (.tsk d a) 6) ∧
    (Claims.Ordered s b → x % 64 = 0 → w.part = q.part → w.en = false ∨ w.halt = true → answers (.tsk d a) 0) ∧
    (∀ u r, Claims.Ordered s b → x % 64 = 0 → w.part = q.part → w.en = true → w.halt = false → w.held = [] → readRecord s part x = (u, .done r) →
      let t := acceptLaunch u r q.tskq (w.acc.toNat + 1) part
      let t := t.setQueue q.tskq { t.queue q.tskq with acc := (t.queue q.tskq).acc + 1, tail := (t.queue q.tskq).tail + 1 }
      exec (.tsk d a) s = .next (t.setSq b (Claims.nextPc ((t.sq b).setG d (BitVec.ofNat 64 (w.acc + 1).toNat))))) ∧
    -- qapp of a work queue
    (sup → Claims.Ordered s b → 4096 ≤ x → traps (.qappWork d a c) 1) ∧
    (sup → Claims.Ordered s b → x < 4096 → (s.queue num).part ≠ q.part → traps (.qappWork d a c) 6) ∧
    (sup → Claims.Ordered s b → x < 4096 → (s.queue num).part = q.part → count = 0 →
      exec (.qappWork d a c) s = .next (s.setSq b (Claims.nextPc q))) ∧
    (sup → Claims.Ordered s b → x < 4096 → (s.queue num).part = q.part → 0 < count → (s.queue num).en = false → answers (.qappWork d a c) 0) ∧
    (sup → Claims.Ordered s b → x < 4096 → (s.queue num).part = q.part → 0 < count → (s.queue num).en = true →
      let tail := (s.queue num).tail + BitVec.ofNat 32 count
      (s.queue num).acc.toNat ≤ tail.toNat → tail.toNat ≤ (s.queue num).acc.toNat + 2 ^ 31 →
      exec (.qappWork d a c) s = .next ((s.setQueue num { s.queue num with tail := tail }).setSq b
        (Claims.nextPc (q.setG d (BitVec.ofNat 64 tail.toNat))))) ∧
    -- translations
    (sup → 2 ^ 57 ≤ x → traps (.tlbi a c) 1 ∧ (Claims.Ordered s b → traps (.shdn a c) 1)) ∧
    (sup → x < 2 ^ 57 → tabRising none s.sqs = true → tabRising none s.sites = true →
      let r := Claims.pages x (q.getG c).toNat
      let alone : Sq := { Claims.nextPc q with tlb := tlbDrop q.tlb part r.1 r.2, icache := icacheDrop q.icache r.1 r.2 }
      (∃ t, exec (.tlbi a c) s = .next t ∧ t.sq b = alone ∧ (∀ k, k ≠ b → t.sq k = s.sq k) ∧ t.parts = s.parts ∧ t.dmem = s.dmem ∧
        ∀ m : SiteNo, t.site m = if siteBlock m = b.toNat then { s.site m with xtc := tlbDrop (s.site m).xtc part r.1 r.2 } else s.site m) ∧
      (Claims.Ordered s b → genBusy s part = false → tabRising none s.parts = true → ∃ t, exec (.shdn a c) s = .next t ∧ t.sq b = alone ∧
        (∀ k, k ≠ b → t.sq k = { s.sq k with tlb := tlbDrop (s.sq k).tlb part r.1 r.2 }) ∧ t.dmem = s.dmem ∧
        (∀ m : SiteNo, t.site m = { s.site m with xtc := tlbDrop (s.site m).xtc part r.1 r.2 }) ∧
        t.part part = { s.part part with gen := (s.part part).gen + 1 })) ∧
    (sup → Claims.Ordered s b → x < 2 ^ 57 → genBusy s part = true → exec (.shdn a c) s = .next (s.setSq b { q with within := true })) ∧
    -- sealing
    (∀ k l, sup → Claims.Ordered s b → sealStatus s part x (q.getG c).toNat = (k, l) → k ≠ 0 → answers (.sealRange d a c) (BitVec.ofNat 64 k)) ∧
    (∀ l, sup → Claims.Ordered s b → sealStatus s part x (q.getG c).toNat = (0, l) → genBusy s part = false →
      let t := sealLeaves s part x (q.getG c).toNat l
      exec (.sealRange d a c) s = .next (t.setSq b (Claims.nextPc ((t.sq b).setG d
        (BitVec.ofNat 64 (2 ^ 32 * (s.part part).seals.length + if sealUnread s l = true then 5 else 0)))))) ∧
    -- debug requests
    (sup → Claims.inRam (q.getG a) → x % 8 = 0 → x % 4096 + 16 ≤ 4096 →
      let req : Bool → DebugReq := fun r => { blk := b.toNat, part := part, addr := x, resume := r, uid := none }
      let asked := fun r => ({ s with lram := memSetNat s.lram (b.toNat * 4096 + (x + 8) % 4096) 2 0 }.modPlat
        (fun p => { p with dbgReqs := p.dbgReqs ++ [req r] })).setSq b (Claims.nextPc q)
      exec (.mark a) s = .next (serveAll (asked false)) ∧ exec (.rsm a) s = .next (serveAll (asked true)))

namespace Sys2Proof.Claims

/-- A stream of the PC or of a launch may give element ea, of kind k, a command of its own (R280). -/
structure Serves (s : State) (ea : EAddr) (k : ElemKind) : Prop where
  focus : ∀ b, s.focus ≠ .loader b
  kind  : kindOf ea = some k
  owner : (s.port ea).owner = 0 ∨ (s.port ea).owner = streamId s.focus
  ports : tabRising none s.ports = true

/-- Port state after a CHECK, SWAP, DISCARD (R277, R278). -/
def restarted : CfgPort := { staged := [], crc := 0xFFFFFFFF#32, owner := 0 }

/-- What loading a context clears in its site: its credit, its skip count and its integer-overflow flag (R43, R44, R86). -/
def loaded (r : Site) (c : BitVec 2) : Site :=
  { r with credit := tabSet r.credit c.toNat 0 0, skip := tabSet r.skip c.toNat 0 0, iovf := r.iovf &&& ~~~(1#4 <<< c.toNat) }

/-- Nothing but configuration ports has changed, and of these only that of ea. -/
def onlyPort (s u : State) (ea : EAddr) (p : CfgPort) : Prop :=
  u = { s with ports := u.ports } ∧ u.port ea = p ∧ ∀ x, x ≠ ea → u.port x = s.port x

/-- The shadow bank sh of a context of a memory tile or router has become its bank: operators start anew, tokens stay (R278). -/
def Swapped (s u : State) (ea : EAddr) (ctx : BitVec 2) (k : ElemKind) (sh : Tab Word) : Prop :=
  u = { s with elems := u.elems, sites := u.sites, ports := u.ports } ∧
  u.elem ea ctx = { s.elem ea ctx with bank := sh.filter (fun p => decide (p.1 < 64) || k == .router), armed := false, ops := [], kelp := Kelp.zero,
                                       brk := [], group := none, fires := 0, wsSwaps := 0 } ∧
  ∀ x c, (x, c) ≠ (ea, ctx) → u.elem x c = s.elem x c

end Sys2Proof.Claims

/-- R276 to R281 and R434, on the streams of the PC and of launches: a write is checked and staged, a read-back changes nothing but the running
CRC, CHECK applies what is staged when the CRC matches and drops it when not, SWAP makes the shadow bank the bank now or at the marker, DISCARD
drops the shadow; another stream's element is held. -/
def Obligations.ConfigurationCommands : Prop :=
  ∀ (s : State) (ea : EAddr) (ctx : BitVec 2) (k : ElemKind), Claims.Serves s ea k →
    let p := s.port ea
    let body := k ≠ .monitor ∧ k ≠ .parity
    -- one value staged
    (∀ (sh : Bool) (f : BitVec 6) (v : Word), (body ∨ sh = false ∧ (k = .parity → ctx = 0)) →
      checkValue s (fromPc (streamId s.focus)) ea k ctx sh f.toNat v = none →
      wordFails s ea k ctx sh f.toNat [v] = [] → p.staged.length < 2048 →
      let key := fieldKey s ea ctx sh f.toNat
      let crc := crcWords p.crc [commandWord (if sh then 1#2 else 0#2) ctx ea f 1#6, v]
      ∃ u, exec (if sh then .writeShadow ctx ea f [v] else .writeActive ctx ea f [v]) s = .next u ∧
        Claims.onlyPort s u ea { staged := p.staged ++ [{ ctx := ctx, shadow := sh, key := key, val := v }], crc := crc, owner := streamId s.focus }) ∧
    (∀ (f : BitVec 6) (v : Word) (r : Nat), k = .parity → ctx = 0 → checkValue s (fromPc (streamId s.focus)) ea k ctx false f.toNat v = some r →
      wordFails s ea k ctx false f.toNat [v] = [] →
      ∃ u, exec (.writeActive ctx ea f [v]) s = .next u ∧ Claims.onlyPort s u ea { p with staged := [], owner := 0 }) ∧
    -- read-back
    (∀ (f c : BitVec 6), f.toNat + countCode c ≤ 64 → ∃ u, exec (.readBack ctx ea f c) s = .next u ∧
      Claims.onlyPort s u ea { p with crc := crcWords p.crc [commandWord 2#2 ctx ea f (countField (countCode c)), 0] }) ∧
    -- CHECK
    (∀ v, p.crc ^^^ 0xFFFFFFFF#32 ≠ v → ∃ u, exec (.check ctx ea v) s = .next u ∧ Claims.onlyPort s u ea Claims.restarted) ∧
    (∀ w : Staged, p.staged = [w] → body → w.key < 44 → w.shadow = false → crossFails s k ea (w.ctx, false) = [] → tabRising none s.elems = true →
      ∃ u, exec (.check ctx ea (p.crc ^^^ 0xFFFFFFFF#32)) s = .next u ∧ u = { s with elems := u.elems, sites := u.sites, ports := u.ports } ∧
        u.port ea = Claims.restarted ∧
        u.elem ea w.ctx = { s.elem ea w.ctx with bank := tabSet (s.elem ea w.ctx).bank w.key w.val (fieldReset k w.key), group := none } ∧
        (∀ x c, (x, c) ≠ (ea, w.ctx) → u.elem x c = s.elem x c) ∧
        (tabRising none s.sites = true → ∀ n, u.site n = if n = eaSite ea ∧ k ≠ .router then Claims.loaded (s.site n) w.ctx else s.site n)) ∧
    -- SWAP, now and at the marker; DISCARD
    (∀ sh, (k = .mt ∨ k = .router) → (s.elem ea ctx).shadow = some sh → tabRising none s.elems = true →
      (∃ u, exec (.swap ctx ea 0) s = .next u ∧ Claims.Swapped s u ea ctx k sh ∧ u.port ea = Claims.restarted) ∧
      (∃ u, exec (.swap ctx ea 1) s = .next u ∧ u = { s with elems := u.elems, ports := u.ports } ∧ u.port ea = Claims.restarted ∧
        u.elem ea ctx = { s.elem ea ctx with armed := true }) ∧
      (eaExists ea = true → (s.elem ea ctx).armed = true → (s.elem ea ctx).task = none → s.tasks = [] →
        ∃ u, exec (.swapOnMark ea ctx) s = .next u ∧ Claims.Swapped s u ea ctx k sh)) ∧
    ((s.elem ea ctx).shadow = none ∨ ¬ body → ∀ v, ∃ u, exec (.swap ctx ea v) s = .next u ∧ Claims.onlyPort s u ea Claims.restarted) ∧
    (body → tabRising none s.elems = true → ∃ u, exec (.discard ctx ea 0) s = .next u ∧ u = { s with elems := u.elems, ports := u.ports } ∧
      u.port ea = Claims.restarted ∧ u.elem ea ctx = { s.elem ea ctx with shadow := none, armed := false } ∧
      ∀ x c, (x, c) ≠ (ea, ctx) → u.elem x c = s.elem x c)

namespace Sys2Proof.Claims

/-! ## Registers of sites -/

/-- Of the machine, only the registers of site n have changed, to r. -/
def onlySite (s u : State) (n : SiteNo) (r : Site) : Prop :=
  u = { s with sites := u.sites } ∧ u.site n = r ∧ ∀ m, m ≠ n → u.site m = s.site m

/-- WGTc of CTXARB (Table 3-3). -/
def weight (v : Word) (c : Nat) : Nat := v.toNat / 16 ^ c % 16

end Sys2Proof.Claims

/-- R43 and R45: CTXARB_WRITE completes: the weights are replaced at once, credits above them fall, the window starts again; a word with a reserved
bit changes nothing. ADAPT_WINDOW completes: at the end of a window the enabled contexts take clamp(1, 15, round(15 × occ / max occ)), and no
occupancy leaves the weights. R89, R216, R257 and R213: RTLOG_CLEAR, ERRCNT_CLEAR, II_COUNTER_CLEAR and AXOLOTL_COUNTER_CLEAR complete and clear
their counters. R94: MTCFG_WRITE completes, CBSZ unchanged while a task of the partition is admitted, reserved bits without effect. R208 and R213:
BANK_RETIRE_COMMAND completes and retires the bank named when bit 31 says so. -/
def Obligations.SiteRegisters : Prop :=
  ∀ (s : State) (n : SiteNo), siteExists n = true → tabRising none s.sites = true →
    let r := s.site n
    let occ := fun (c : Nat) => tabGet r.occ c 0
    let lowered := fun (w : Nat → Nat) (cr : Tab Nat) => ∀ c, tabGet cr c 0 = if c < 4 then min (tabGet r.credit c 0) (w c) else tabGet r.credit c 0
    let closes := r.ctxarb.getLsbD 16 = true ∧ r.occStart + 256 * 2 ^ (r.ctxarb.toNat / 2 ^ 17 % 8) ≤ s.time
    let on := fun (c : Nat) => c < 4 ∧ Claims.weight r.ctxarb c ≠ 0
    -- CTXARB_WRITE
    (∀ v : Word, v.toNat < 2 ^ 20 → tabRising none r.credit = true → ∃ u cr, exec (.ctxarbWrite n v) s = .next u ∧
      Claims.onlySite s u n { r with ctxarb := v, credit := cr, occ := [], occStart := s.time } ∧ lowered (Claims.weight v) cr) ∧
    (∀ v : Word, 2 ^ 20 ≤ v.toNat → exec (.ctxarbWrite n v) s = .next s) ∧
    -- ADAPT_WINDOW
    (∀ top, closes → 0 < top → tabRising none r.credit = true → (∃ c, on c ∧ occ c = top) → (∀ c, on c → occ c ≤ top) →
      ∃ (u : State) (cr : Tab Nat) (a : Word),
      let w := fun (c : Nat) => if Claims.weight r.ctxarb c ≠ 0 then max 1 (min 15 ((30 * occ c + top) / (2 * top))) else 0
      exec (.adaptWindow n) s = .next u ∧ Claims.onlySite s u n { r with ctxarb := a, credit := cr, occ := [], occStart := s.time } ∧
      (∀ c < 4, Claims.weight a c = w c) ∧ a.toNat / 2 ^ 16 = r.ctxarb.toNat / 2 ^ 16 ∧ lowered w cr) ∧
    (closes → (∀ c, on c → occ c = 0) →
      ∃ u, exec (.adaptWindow n) s = .next u ∧ Claims.onlySite s u n { r with occ := [], occStart := s.time }) ∧
    (¬ closes → exec (.adaptWindow n) s = .next s) ∧
    -- RTLOG_CLEAR, ERRCNT_CLEAR, II_COUNTER_CLEAR
    (∃ u, exec (.rtlogClear n) s = .next u ∧ Claims.onlySite s u n { r with miscnt := 0, lslot := 0, lroute := 0, rsvhit := false }) ∧
    (∀ e : BitVec 3, e.toNat < 2 → tabRising none r.ecnt = true → ∃ u l, exec (.errcntClear (siteEa n e)) s = .next u ∧
      Claims.onlySite s u n { r with ecnt := l } ∧ ∀ k, tabGet l k 0 = if k / 2 = e.toNat then 0 else tabGet r.ecnt k 0) ∧
    (∀ (e : BitVec 3) (ctx agn : BitVec 2), e.toNat < 2 → tabRising none s.elems = true → tabRising none (s.elem (siteEa n e) ctx).ii = true →
      let page := if e = 0 ∧ siteIsMt n = true then agn.toNat else 0
      ∃ u l, exec (.iiCounterClear (siteEa n e) ctx agn) s = .next u ∧ u = { s with elems := u.elems } ∧
        u.elem (siteEa n e) ctx = { s.elem (siteEa n e) ctx with ii := l } ∧
        (∀ k, tabGet l k 0 = if k / 16 = page then 0 else tabGet (s.elem (siteEa n e) ctx).ii k 0) ∧
        ∀ x c, (x, c) ≠ (siteEa n e, ctx) → u.elem x c = s.elem x c) ∧
    -- registers of a memory tile
    (siteIsMt n = true →
      -- MTCFG_WRITE
      (∀ v : Word, v.toNat % 16 ≤ 8 →
        let admitted := ∃ t ∈ s.tasks, t.uses ≠ [] ∧ ∃ l, s.launch? (t.uid / 2 ^ 32) = some l ∧ l.part = r.mtcfg.toNat / 256 % 64
        (v.toNat % 16 = r.mtcfg.toNat % 16 ∨ ¬ admitted →
          ∃ u, exec (.mtcfgWrite n v) s = .next u ∧ Claims.onlySite s u n { r with mtcfg := v &&& 0x3F1F#32 }) ∧
        (v.toNat % 16 ≠ r.mtcfg.toNat % 16 → admitted → exec (.mtcfgWrite n v) s = .next (s.log (.mtcfgIgnored n.toNat)))) ∧
      -- AXOLOTL_COUNTER_CLEAR
      (∃ u, exec (.axolotlCounterClear n 1) s = .next u ∧ Claims.onlySite s u n
        { r with ax := { r.ax with recon := 0, degrd := 0, rwait := 0, wstall := 0, scrpm := 0, sweeps := 0 } }) ∧
      exec (.axolotlCounterClear n 0) s = .next s ∧
      -- BANK_RETIRE_COMMAND
      (∀ b : Nat, b < 20 → exec (.bankRetireCommand n (BitVec.ofNat 32 b)) s = .next s) ∧
      (∀ b : Nat, b < 20 →
        let g := if b < 16 then b / 4 else b - 16
        let k := if b < 16 then b % 4 else 4
        tabRising none r.ax.retired = true → tabRising none r.ax.pipes = true → tabGet r.ax.retired g [] = [] → ∃ u l p,
          exec (.bankRetireCommand n (BitVec.ofNat 32 (2 ^ 31 + b))) s = .next u ∧ u = { s with sites := u.sites, plat := u.plat } ∧
          u.plat = { s.plat with pclog := s.plat.pclog ++ [.retiredBank n.toNat b], retire := true } ∧
          u.site n = { r with ax := { r.ax with retired := l, pipes := p } } ∧ (∀ m, m ≠ n → u.site m = s.site m) ∧
          (∀ j, tabGet l j [] = if j = g then [k] else tabGet r.ax.retired j []) ∧
          (∀ j, tabGet p j [] = if 16 ≤ b ∧ j = g then [] else tabGet r.ax.pipes j [])))

namespace Sys2Proof.Claims

/-! ## Parity banks, channels and links -/

/-- Of the machine, only the parity-bank state of a memory tile has changed. -/
def onlyBanks (s u : State) (n : SiteNo) (a : Axolotl) : Prop := onlySite s u n { s.site n with ax := a }

/-- Row `row` of the four data banks of group g, combined: what its parity row must hold (R202). -/
def parityOf (s : State) (n : SiteNo) (g row : Nat) : Line :=
  bankLine s n (4 * g) row ^^^ bankLine s n (4 * g + 1) row ^^^ bankLine s n (4 * g + 2) row ^^^ bankLine s n (4 * g + 3) row

end Sys2Proof.Claims

/-- R205: the oldest parity update lands 2 fc after its write at the earliest, while nothing else takes the parity bank. R206: a corrected row is
written back when its bank is idle. R207: the scrubber checks a row set whose five banks are idle, rewrites a parity row that disagrees, and goes on;
after 2^SCRFRC fc it takes the banks. R208: correctable counts clear as an hour of device time begins. What acts on a bank takes it for the fc
(R203). -/
def Obligations.ParityBanks : Prop :=
  (∀ (s : State) (n : SiteNo), siteExists n = true → siteIsMt n = true → tabRising none s.sites = true →
    let a := (s.site n).ax
    let answers := fun (i : Instr) (a' : Axolotl) => ∃ u, exec i s = .next u ∧ Claims.onlyBanks s u n a'
    let err := fun (b row : Nat) => tabGet a.errs (b * 2048 + row) 0
    let takes := fun (l : List Nat) => a.busy.filter (fun p => decide (s.time ≤ p.2)) ++ l.map (fun b => (b, s.time))
    let idle := fun (b : Nat) => bankBusy a b s.time s.time = false
    let g := a.scrub / 2048 % 4
    let row := a.scrub % 2048
    let five := [4 * g, 4 * g + 1, 4 * g + 2, 4 * g + 3, 16 + g]
    let ready := a.bpctl.getLsbD 1 = true ∧ staleAt a g row s.time s.time = false
    let held := tabGet a.parity (g * 2048 + row) 0
    let now := Claims.parityOf s n g row
    let next := { a with scrub := (a.scrub + 1) % 8192, lastScrub := s.time, busy := takes five
                         sweeps := if a.scrub + 1 = 8192 then (a.sweeps + 1) % 2 ^ 16 else a.sweeps }
    -- landings
    (∀ (k : BitVec 2) (p : ParEntry) (rest : List ParEntry), tabGet a.pipes k.toNat [] = p :: rest → p.at_ + 2 ≤ s.time → err (16 + k.toNat) p.row = 0 →
      (16 + k.toNat, s.time) ∉ a.busy → tabRising none a.pipes = true → tabRising none a.parity = true →
      ∃ l m, answers (.parityLanding n k) { a with pipes := l, parity := m, busy := takes [16 + k.toNat] } ∧
        (∀ j, tabGet l j [] = if j = k.toNat then rest else tabGet a.pipes j []) ∧
        ∀ j, tabGet m j 0 = if j = k.toNat * 2048 + p.row then tabGet a.parity j 0 ^^^ p.delta else tabGet a.parity j 0) ∧
    (∀ (k : BitVec 2), (16 + k.toNat, s.time) ∈ a.busy ∨ (∀ p rest, tabGet a.pipes k.toNat [] = p :: rest → s.time < p.at_ + 2) →
      exec (.parityLanding n k) s = .next s) ∧
    -- write-back
    (∀ (b : BitVec 5) (w : BitVec 11), (b.toNat, w.toNat) ∈ a.fixes → idle b.toNat → err b.toNat w.toNat = 1 → tabRising none a.errs = true → ∃ l,
      answers (.correctedRowWriteback n b w)
        { a with fixes := a.fixes.filter (fun p => p != (b.toNat, w.toNat)), errs := l, busy := takes [b.toNat] } ∧
      ∀ j, tabGet l j 0 = if j = b.toNat * 2048 + w.toNat then 0 else tabGet a.errs j 0) ∧
    (∀ (b : BitVec 5) (w : BitVec 11), ¬ idle b.toNat → exec (.correctedRowWriteback n b w) s = .next s) ∧
    -- scrubbing a row set without errors
    (ready → (∀ b ∈ five, idle b) → tabGet a.retired g [] = [] → (∀ b ∈ five, err b row = 0) → tabRising none a.parity = true →
      (held = now → answers (.scrubCheck n) next) ∧
      (held ≠ now → ∃ l, answers (.scrubCheck n) { next with parity := l, scrpm := min 0xFFFF (a.scrpm + 1) } ∧
        ∀ j, tabGet l j 0 = if j = g * 2048 + row then now else tabGet a.parity j 0)) ∧
    (¬ ready ∨ (∃ b ∈ five, ¬ idle b) → exec (.scrubCheck n) s = .next s) ∧
    (ready → a.lastScrub + 2 ^ (a.bpctl.toNat / 4 % 16) ≤ s.time → tabGet a.retired g [] = [] → (∀ b ∈ five, err b row = 0) → held = now →
      answers (.forcedScrub n) next) ∧
    (¬ ready ∨ s.time < a.lastScrub + 2 ^ (a.bpctl.toNat / 4 % 16) → exec (.forcedScrub n) s = .next s)) ∧
  (∀ s : State, tabRising none s.sites = true →
    let hour := s.time / 3600000000000
    (hour = s.plat.hour → exec .hourWindow s = .next s) ∧
    (hour ≠ s.plat.hour → ∃ u, exec .hourWindow s = .next u ∧ u = { s with sites := u.sites, plat := { s.plat with hour := hour } } ∧
      ∀ n : SiteNo, u.site n = { s.site n with ax := { (s.site n).ax with ce := [] } }))

/-- R91: a link accepts a whole flit with the next expected number and acknowledges it, drops what its acknowledgement covers, sends again at a nak or
a timeout, and answers any other flit. R230: a die edge whose 64th retry fails is fatal. R310: a port with 64 failed retries goes down, its lost
entries completing with status 2, and the PC logs it. R89: a control token comes in where its context's slot has room; a data token of another route
than the slot expects is tagged, delivered in its place, and logged in RTLOG. -/
def Obligations.LinksAndArrivals : Prop :=
  (∀ (s : State) (k : BitVec 8) (f : Flit), (s.link k.toNat).down = false →
    let l := s.link k.toNat
    let whole := f.crc.toNat = crc64 (flitBytes f)
    let left := l.unacked.filter (fun g => decide (0 < (g.seq - f.ack).toNat ∧ (g.seq - f.ack).toNat < 2 ^ 15))
    let fails := if left.length < l.unacked.length then 0 else l.fails
    let after := { l with unacked := left, acked := f.ack, fails := fails }
    -- the idle flit that acknowledges
    let answered := fun (m : Link) =>
      let g : Flit := { seq := m.next, ack := m.expect - 1, type := 0, len := 0, pay := 0, crc := 0 }
      let g := { g with crc := BitVec.ofNat 64 (crc64 (flitBytes g)) }
      { m with next := m.next + 1, unacked := m.unacked ++ [g], wire := m.wire ++ [g] }
    (¬ whole → exec (.flitReceive k f) s = .next s) ∧
    (whole → f.type = 5 → exec (.flitReceive k f) s = .next (s.setLink k.toNat { after with fails := fails + 1, wire := l.wire ++ left })) ∧
    (whole → f.type ≠ 5 → f.seq ≠ l.expect → exec (.flitReceive k f) s = .next (s.setLink k.toNat (answered after))) ∧
    (whole → f.type ≠ 5 → f.seq = l.expect → exec (.flitReceive k f) s = .next (s.setLink k.toNat
      (if f.type = 0 then { after with expect := l.expect + 1 }
       else answered { after with expect := l.expect + 1, delivered := l.delivered ++ [f] }))) ∧
    (l.unacked ≠ [] → k.toNat < 32 →
      exec (.flitRetransmit k) s = .next (s.setLink k.toNat { l with fails := l.fails + 1, wire := l.wire ++ l.unacked })) ∧
    (l.unacked ≠ [] → 32 ≤ k.toNat → l.lossy = 0 → exec (.flitRetransmit k) s = .next (s.setLink k.toNat { l with unacked := [] })) ∧
    (l.unacked ≠ [] → 32 ≤ k.toNat → 0 < l.lossy →
      let u := s.setLink k.toNat { l with lossy := l.lossy - 1, fails := l.fails + 1 }
      (l.fails + 1 ≠ 64 → exec (.flitRetransmit k) s = .next u) ∧
      (l.fails + 1 = 64 → ∃ c ea, exec (.flitRetransmit k) s = .next { u.takeFree with burst := .event .none (.fatalError c ea) :: u.burst })) ∧
    (l.unacked = [] → exec (.flitRetransmit k) s = .next s)) ∧
  (∀ (s : State) (k : BitVec 5), k.toNat < 18 → (s.link k.toNat).down = false → tabRising none s.engines = true →
    let l := s.link k.toNat
    (l.fails < 64 → exec (.portDown k) s = .next s) ∧
    (64 ≤ l.fails → ∃ u, exec (.portDown k) s = .next u ∧
      u = { (s.setLink k.toNat { l with down := true, unacked := [] }).log (.portDown k.toNat) with engines := u.engines } ∧
      ∀ (b : BitVec 6) (q : BitVec 4), u.engine b q =
        let e := s.engine b q
        if l.unacked ≠ [] ∧ e.eng = 1 ∧ e.status.isSome = true then { e with status := some 2 } else e)) ∧
  (∀ (s : State) (n m : SiteNo) (d ctx : BitVec 2), siteExists n = true → siteNeighbour n d = some m →
    let out := (d.toNat + 2) % 4
    let p := s.elem (siteEa m 1) ctx
    let r := s.elem (siteEa n 1) ctx
    let room := fun (net : Net) => roomAt s n ctx r.task net d.toNat = true
    -- the channel looks at the next context's slot first in the next fc (R87)
    let served := fun (ctl : Bool) (u : State) =>
      if slotHolds u m ctx d.toNat ctl < slotHolds s m ctx d.toNat ctl then
        u.modSite n (fun x => { x with rr := tabSet x.rr (2 * d.toNat + if ctl then 1 else 0) (ctx + 1).toNat 0 }) else u
    (∀ c rest, dieLink m n = none → tabGet p.outc out [] = c :: rest → p.task = r.task → room .ctl →
      exec (.tokenArrive n d ctx true) s =
        .next (served true (deliverCtl (s.setElem (siteEa m 1) ctx { p with outc := tabSet p.outc out rest [] }) n ctx d.toNat c))) ∧
    -- a die edge with an unacknowledged flit moves nothing
    (∀ k, dieLink m n = some k → (s.link k).unacked ≠ [] → tabGet p.outc out [] ≠ [] → p.task = r.task → room .ctl →
      ∃ u, exec (.tokenArrive n d ctx true) s = .next u ∧ u = { s with links := u.links }) ∧
    (tabGet p.outc out [] = [] → exec (.tokenArrive n d ctx true) s = .next s) ∧
    (∀ t rest, dieLink m n = none → badLane t = none → tabGet p.outq out [] = t :: rest → p.task = r.task → p.task = none → room .data → r.queue (8 + d.toNat) = [] → tabGet r.brk d.toNat Brk.zero = Brk.zero →
      r.field (64 + 16 * 3 + 4 * d.toNat) % 2 = 0 → tabRising none s.elems = true → tabRising none s.sites = true → tabRising none s.parts = true →
      (∀ c, c ≠ ctx → tabGet (s.elem (siteEa m 1) c).outq out [] = []) →
      (let din := r.field (16 + d.toNat)
       din.testBit 10 = true ∧ t.route.toNat ≠ din % 2 ^ 10) → t.rsv = 0 →
      (let z := tabGet (s.site n).resLast (8 + 4 + ctx.toNat) 0
       z = 0 ∨ z + 4096 ≤ s.time + 1) →
      ∃ u v z, exec (.tokenArrive n d ctx false) s = .next (served false (deliverData u n ctx d.toNat { t with etag := true })) ∧
        (u.elem (siteEa m 1) ctx).outq = tabSet p.outq out rest [] ∧
        u.site n = { s.site n with miscnt := min 0xFFFF ((s.site n).miscnt + 1), lslot := BitVec.ofNat 4 (4 * d.toNat + ctx.toNat), lroute := t.route, rsvhit := false, resLast := z } ∧
        (∀ k, k ≠ n → u.site k = s.site k) ∧
        (u.part (partOfSite s n)).frHeld = (s.part (partOfSite s n)).frHeld ++ [v] ∧ u.dmem = s.dmem ∧ u.spad = s.spad ∧ u.lram = s.lram ∧ u.sqs = s.sqs))

namespace Sys2Proof.Claims

/-! ## Registers that the host and the PC write -/

/-- Of the machine, only work queue q has changed, to w, and the messages sent. -/
def onlyQueue (s u : State) (q : BitVec 12) (w : WorkQueue) (msis : List (BitVec 11)) : Prop :=
  u = { s with queues := u.queues, plat := { s.plat with msis := s.plat.msis ++ msis } } ∧ u.queue q = w ∧ ∀ k, k ≠ q → u.queue k = s.queue k

/-- Bits hi to lo of a register write. -/
def field (v : DWord) (lo n : Nat) : Nat := v.toNat / 2 ^ lo % 2 ^ n

end Sys2Proof.Claims

/-- R159: EN from 0 to 1 clears ACC, HALT, HCODE and the doorbell count; EN to 0 stops acceptance; the PC alone writes PART, the host reads every
register of the block, and TAIL reads zero; R160: a doorbell is the total of records, out of range it halts the queue with code 1. R308: a write of
CHEAD allows the next message and sends it at once while entries remain. Tables 4-4, 4-5, 10-3, 11-5, 11-6, 14-2, 14-3 and 14-6 and R105: what a
write of the other registers of the platform and of a sequencer's event queue sets; read-only and reserved fields ignore it. -/
def Obligations.RegisterWrites : Prop :=
  (∀ (s : State) (q : BitVec 12), tabRising none s.queues = true →
     let w := s.queue q
     let answers := fun (i : Instr) (w' : WorkQueue) (msis : List (BitVec 11)) => ∃ u, exec i s = .next u ∧ Claims.onlyQueue s u q w' msis
     let fresh := fun (w : WorkQueue) => { w with en := true, acc := 0, halt := false, hcode := 0, tail := 0, fault := none }
     (∀ v : DWord,
       let f := Claims.field v
       let w' := { w with prio := BitVec.ofNat 3 (f 1 3), evt := v.getLsbD 4, evsq := BitVec.ofNat 6 (f 5 6), ringsz := BitVec.ofNat 4 (f 11 4) }
       answers (.registerWrite (.queueCtl q) v)
         (if v.getLsbD 0 = true ∧ w.en = false then fresh w' else { w' with en := v.getLsbD 0 }) []) ∧
     (∀ v : DWord, answers (.registerWrite (.queuePart q) v) { w with part := BitVec.ofNat 8 (Claims.field v 15 8) } []) ∧
     (let at_ := fun (o : Nat) => (hostRead s 2 (64 * q.toNat + o)).toNat
      at_ 0 = (if w.en then 1 else 0) + 2 * w.prio.toNat + (if w.evt then 16 else 0) + 32 * w.evsq.toNat + 2 ^ 11 * w.ringsz.toNat + 2 ^ 15 * w.part.toNat ∧
      at_ 8 = w.pos.toNat ∧ at_ 16 = 0 ∧ at_ 24 = w.cbase.toNat ∧ at_ 32 = w.ctail.toNat ∧ at_ 40 = w.chead.toNat ∧
      at_ 48 = (if w.halt then 1 else 0) + 16 * w.hcode.toNat + 2 ^ 32 * w.acc.toNat ∧ at_ 56 = 0) ∧
     (∀ v : DWord, answers (.registerWrite (.queuePos q) v) (if w.en = true then w else { w with pos := v }) []) ∧
     (∀ v : DWord, answers (.registerWrite (.queueCbase q) v) { w with cbase := v } []) ∧
     (∀ v : DWord, answers (.registerWrite (.queueStat q) v) w []) ∧
     (∀ v : DWord, answers (.registerWrite (.msiqv q) v) { w with msi := BitVec.ofNat 16 (v.toNat % 2 ^ 11 + 2 ^ 15 * Claims.field v 15 1) } []) ∧
     answers (.queueEnable q) (if w.en = true then w else fresh w) [] ∧
     answers (.queueDisable q) { w with en := false } [] ∧
     (∀ tail : Word, answers (.doorbell q tail)
       (if tail.toNat < w.acc.toNat ∨ w.acc.toNat + 2 ^ 31 < tail.toNat then { w with halt := true, hcode := 1, fault := none } else { w with tail := tail }) []) ∧
     (∀ head : Word, w.held = [] →
       let again : Bool := head ≠ w.ctail ∧ w.msi.getLsbD 15 = true
       answers (.cheadWrite q head) { w with chead := head, msiOut := again } (if again then [w.msi.extractLsb' 0 11] else []))) ∧
  (∀ (s : State) (v : DWord),
     let x := v.toNat
     let f := Claims.field v
     let plat := fun (r : PlatReg) (p : Plat) => exec (.registerWrite r v) s = .next { s with plat := p }
     let part := fun (r : PlatReg) (n : BitVec 8) (p : Part) => exec (.registerWrite r v) s = .next (s.setPart n.toNat p)
     plat .devstat (if v.getLsbD 4 then { s.plat with retire := false } else s.plat) ∧
     plat .pwrcap (if 300 ≤ x % 4096 ∧ x % 4096 ≤ 2000 then { s.plat with capw := BitVec.ofNat 12 x }
       else { s.plat with pclog := s.plat.pclog ++ [.capIgnored (x % 4096)] }) ∧
     (∀ n : BitVec 4, plat (.wap n) { s.plat with waps := tabSet s.plat.waps n.toNat (BitVec.ofNat 64 (x % 2 ^ 9 + 2 ^ 32 * f 32 25)) 0 }) ∧
     plat .lspair { s.plat with lspair := BitVec.ofNat 64 (x % 2 ^ 17 + (if s.plat.lspair.getLsbD 17 && !v.getLsbD 17 then 2 ^ 17 else 0)
       + s.plat.lspair.toNat / 2 ^ 32 * 2 ^ 32) } ∧
     -- the mailbox pool lies in HBM4, and in no frame that a partition owns (R119, R249)
     (let base := x % 2 ^ 52 / 2 ^ 21 * 2 ^ 21
      plat .mbxbase (if inTier 0 base (2 ^ 21) = true ∧ tabGet s.frames (base / 2 ^ 21) 0 = 0 then { s.plat with mbxbase := BitVec.ofNat 52 base } else s.plat)) ∧
     (∀ (b : BitVec 6) (e : BitVec 2), exec (.registerWrite (.engineStalls b e) v) s =
       .next { s with stalls := tabSet s.stalls (b.toNat * 4 + e.toNat) EngStalls.reset EngStalls.reset }) ∧
     (∀ n : BitVec 8,
       let p := s.part n.toNat
       part (.pxroot n) n { p with pxen := v.getLsbD 0, root := BitVec.ofNat 52 (x % 2 ^ 52 / 2 ^ 12 * 2 ^ 12) } ∧
       (p.faults = [] → tabRising none s.parts = true → part (.pxfq n) n { p with fqHead := BitVec.ofNat 11 x, fqBase := BitVec.ofNat 52 (x % 2 ^ 52 / 2 ^ 15 * 2 ^ 15) }) ∧
       part (.pfrec n) n { p with frHead := BitVec.ofNat 11 x, frBase := BitVec.ofNat 52 (x % 2 ^ 52 / 2 ^ 16 * 2 ^ 16) } ∧
       part (.ptrace n) n { p with ptrace := BitVec.ofNat 64 (x % 2 ^ 6 + x % 2 ^ 52 / 2 ^ 12 * 2 ^ 12) } ∧
       part (.ptrcb n) n { p with ptrcb := BitVec.ofNat 64 (x % 2 ^ 52 / 2 ^ 6 * 2 ^ 6) }) ∧
     (∀ b : BitVec 6, (s.sq b).evHeld = [] → tabRising none s.sqs = true →
       let q := s.sq b
       let head := BitVec.ofNat 9 x
       exec (.evqWrite b v) s = .next (s.setSq b { q with evBase := BitVec.ofNat 25 (x / 2 ^ 13 * 2 ^ 13), evTail := q.evHead }) ∧
       exec (.evheadWrite b v) s = .next (s.setSq b (if 256 < (q.evTail - head).toNat then q else { q with evHead := head }))))

namespace Sys2Proof.Claims

/-! ## Launches and tasks -/

/-- The TD runs an event of task t of launch l, which is not joined, in no lockstep pair. -/
structure OnTask (s : State) (t : Task) (l : Launch) : Prop where
  focus  : s.focus = .task t.uid
  task   : s.task? t.uid = some t
  launch : s.launch? (t.uid / 2 ^ 32) = some l
  single : l.joined = false
  unpair : s.plat.lspair.getLsbD 0 = false

/-- Key of a task: timestamp, or the horizon's for a late launch, launch ordinal, index (R24, R151). -/
def key (l : Launch) (t : Task) : Nat × Nat × Nat := ((l.late.getD l.tstamp).toNat, l.ord % 2 ^ 40, t.index)

/-- The task is all there is: the only task of the only launch. -/
structure Sole (s : State) (t : Task) (l : Launch) : Prop where
  tasks    : s.tasks = [t]
  alone    : t.pred ≠ some t.uid
  launches : s.launches = [l]
  one      : l.total = 1 ∧ l.ended = 0 ∧ l.ord < 2 ^ 40

/-- LSPAIR after a mismatch or a timeout: BROKEN is set, and MISCNT has counted it (Table 11-5). -/
def brokenPair (p : Plat) : DWord :=
  BitVec.ofNat 64 ((p.lspair ||| 0x20000#64).toNat + if p.lspair.toNat / 2 ^ 32 = 2 ^ 32 - 1 then 0 else 2 ^ 32)

/-- The completion ring of queue q has no room. -/
def ringFull (s : State) (q : BitVec 12) : Prop := 2 ^ ((s.queue q).ringsz.toNat + 4) ≤ ((s.queue q).ctail - (s.queue q).chead).toNat

/-- Only queue q has changed among the queues, a completion entry being held behind those already held. -/
def entryHeld (s u : State) (q : BitVec 12) (en : Bool) (c : Completion) : Prop :=
  u.queue q = { s.queue q with held := (s.queue q).held ++ [c.word], en := en } ∧ ∀ k, k ≠ q → u.queue k = s.queue k

/-- A candidate that does not fit, or that cannot be tried or begun in this fc, waits. -/
def waits (s : State) (p : Task) : Prop := tryCandidate s p = .busy ∨ tryCandidate s p = .later

/-- The first candidates of a pool wait, and the next one has outcome o. -/
def firstOutcome (s : State) (pool : List Task) (passed : List Task) (t : Task) (o : TryOut) : Prop :=
  (∃ rest, pool = passed ++ t :: rest) ∧ (∀ p ∈ passed, waits s p) ∧ tryCandidate s t = o

/-- The tasks passed over because they do not fit in s are bypassed once more in u (R169). -/
def bypassed (s u : State) (passed : List Task) : State :=
  (passed.filter (fun p => match tryCandidate s p with
    | .busy => true
    | _ => false)).foldl (fun s p => s.modTask p.uid (fun t => { t with bypass := t.bypass + 1 })) u

end Sys2Proof.Claims

/-- R160: the TD accepts the record at POS, counts it, goes on to its NEXT, and halts a broken or unreadable chain; a record that passes the checks of R163
becomes a launch with the next ordinal and as many tasks as its extents say. R167: of the pool in its order, the first candidate that fits is
admitted, one in an fc at each die's unit, and those passed over are bypassed once (R169). R166: a task whose dependences are met enters the ready
pool. R173: once every site has swapped, the region's sources are released. -/
def Obligations.LaunchesAndAdmission : Prop :=
  (∀ (s : State) (q : BitVec 12),
    let w := s.queue q
    let open_ := w.en = true ∧ w.halt = false ∧ w.held = [] ∧ w.acc.toNat < w.tail.toNat ∧ s.plat.state = 2 ∧ w.fault = none
    (w.en = false ∨ w.halt = true ∨ w.held ≠ [] ∨ w.tail.toNat ≤ w.acc.toNat → exec (.recordAccept q) s = .next s) ∧
    (∀ u x a, open_ → readRecord s w.part.toNat w.pos.toNat = (u, .bad x a) →
      exec (.recordAccept q) s = .next (u.setQueue q { u.queue q with halt := true, hcode := 3, fault := none })) ∧
    (∀ u r, open_ → readRecord s w.part.toNat w.pos.toNat = (u, .done r) → recordReason { u with ordinal := u.ordinal + 1 } w.part.toNat q (w.acc.toNat + 1) r = none →
      u.plat.lspair.getLsbD 0 = false → u.queues = s.queues → tabRising none s.queues = true → ∃ (t : State) (l : Launch) (ts : List Task), exec (.recordAccept q) s = .next t ∧
        t = { u with ordinal := u.ordinal + 1, launches := u.launches ++ [l], tasks := u.tasks ++ ts, queues := t.queues } ∧
        l.ord = u.ordinal + 1 ∧ l.queue = q ∧ l.pos = w.acc.toNat + 1 ∧ l.part = w.part.toNat ∧ l.graph.toNat = r.num 8 8 ∧ l.param.toNat = r.num 16 8 ∧
        l.tstamp.toNat = r.num 24 8 ∧ l.ended = 0 ∧ l.total = ts.length ∧ l.total = (l.exts.take l.dlev).foldl (· * ·) 1 ∧
        (∀ k t, ts[k]? = some t → t.uid = l.ord * 2 ^ 32 + k ∧ t.index = k ∧ t.phase = .waiting) ∧
        (let w' := { w with acc := w.acc + 1, pos := BitVec.ofNat 64 (r.num 0 8) }
         t.queue q = if r.num 0 8 = 0 ∧ w.acc.toNat + 1 < w.tail.toNat then { w' with halt := true, hcode := 2, fault := none } else w') ∧
        ∀ k, k ≠ q → t.queue k = s.queue k)) ∧
  (∀ (s : State) (p : BitVec 8) (passed : List Task) (t : Task), s.plat.state = 2 →
    let pool := admissionPool s p.toNat
    let die := admissionDie s p.toNat
    let free := tabGet s.admits die 0 ≠ s.time + 1
    (∀ u l, free → Claims.firstOutcome s pool passed t (.fits u) → taskLaunch (Claims.bypassed s u passed) t = some l → l.replays = none →
      let v := Claims.bypassed s u passed
      exec (.admission p) s = .next { v with admits := tabSet v.admits die (v.time + 1) 0 }) ∧
    (∀ c r un sub a, free → Claims.firstOutcome s pool passed t (.reject c r un sub a) → exec (.admission p) s = .next (rejectLaunch s t c r un sub a)) ∧
    (¬ free ∨ (∀ c ∈ pool, Claims.waits s c) → exec (.admission p) s = .next s)) ∧
  (∀ (s : State) (t : Task) (l : Launch), Claims.OnTask s t l →
    let met := fun (d : Dep) =>
      (d.kind = 1 ∧ d.arg.toNat ≤ (s.queue (BitVec.ofNat 12 d.queue.toNat)).acc.toNat ∧
        ∀ k ∈ s.launches, ¬ (k.queue.toNat = d.queue.toNat ∧ k.pos = d.arg.toNat ∧ k.ord < 2 ^ 40)) ∨
      (d.kind = 3 ∧ let n := ((s.barrier d.arg.toNat).phase - d.phase).toNat; 1 ≤ n ∧ n < 2 ^ 31)
    let plain := t.phase = .waiting ∧ l.replays = none ∧ ∀ d ∈ l.deps, d.kind = 1 ∨ d.kind = 3
    (plain → (∀ d ∈ l.deps, met d) → exec .dependenceMet s = .next (s.modTask t.uid (fun t => { t with phase := .ready, readyAt := s.time }))) ∧
    (plain → (∃ d ∈ l.deps, ¬ met d) → exec .dependenceMet s = .next s) ∧
    (t.phase ≠ .waiting → exec .dependenceMet s = .next s)) ∧
  (∀ (s : State) (t : Task) (l : Launch), Claims.OnTask s t l → t.phase = .loaded → t.pred = none → tabRising none s.elems = true → tabRising none s.sites = true →
    let holds := fun (ea : EAddr) (c : BitVec 2) => ∃ k ∈ t.uses, keyEa k = ea ∧ keyCtx k = c
    ((∃ k ∈ t.uses, (s.elem (keyEa k) (keyCtx k)).task ≠ some t.uid) → exec .sourceRelease s = .next s) ∧
    ((∀ k ∈ t.uses, (s.elem (keyEa k) (keyCtx k)).task = some t.uid) → ∃ u, exec .sourceRelease s = .next u ∧
      u = { s.modTask t.uid (fun t => { t with phase := .running, lastFire := s.time }) with elems := u.elems, sites := u.sites } ∧
      (∀ ea c, holds ea c → u.elem ea c = { s.elem ea c with released := true }) ∧ (∀ ea c, ¬ holds ea c → u.elem ea c = s.elem ea c) ∧
      (∀ n c, (∃ ea, holds ea c ∧ eaSite ea = n) → (∀ ea d, holds ea d → eaSite ea = n → c.toNat ≤ d.toNat) → u.site n = { s.site n with ptr := c }) ∧
      (∀ n, (∀ ea c, holds ea c → eaSite ea ≠ n) → u.site n = s.site n)))

/-- R145, R181: a finished task that is alone commits its store at once, moves the horizon to its key, leaves a completion entry and is gone. R146: a task
stalled on its share, the oldest, runs on irrevocably. R145, R219, R220: a task whose sinks have their markers finishes; one with tagged records is
repaired; a poisoned one that is irrevocable raises UNCORRECTED. -/
def Obligations.FinishRepairCommit : Prop :=
  (∀ (s : State) (t : Task) (l : Launch), Claims.OnTask s t l → Claims.Sole s t l → t.fault = none →
    let uid := t.uid
    (∀ mt line mask data, t.phase = .finished → t.uses = [] → t.cb = [.store mt line mask data] → s.channels = [] → memWf s.dmem = true →
      (axOf s (BitVec.ofNat 13 mt)).errs = [] → tabRising none s.queues = true → Claims.ringFull s l.queue → ∃ u, exec .commit s = .next u ∧
        u = { s with dmem := u.dmem, touched := u.touched, bad := u.bad, horizon := some (Claims.key l t), tasks := [], launches := [], queues := u.queues } ∧
        (∀ j < 64, memByte u.dmem (line + j) = if mask.getLsbD j then data.extractLsb' (8 * j) 8 else memByte s.dmem (line + j)) ∧
        (∀ a, (a < line ∨ line + 64 ≤ a) → memByte u.dmem a = memByte s.dmem a) ∧
        Claims.entryHeld s u l.queue (s.queue l.queue).en
          { tindex := t.index, ord := l.ord, tstamp := l.tstamp, cls := if 0 < t.repaired then 8 else if 0 < t.preempts then 7 else 0
            flags := (if l.late.isSome then 1 else 0) + (if t.spldn then 2 else 0) + (if t.irrev then 4 else 0), reason := 0, unit := 0
            detail := min 255 t.aborts + 256 * (t.repaired % 2 ^ 24), addr := t.wstores % 2 ^ 32 + 2 ^ 32 * (t.preempts % 2 ^ 16) }) ∧
    (t.phase ≠ .finished → t.phase ≠ .ended → exec .commit s = .next s) ∧
    -- overflow
    (t.phase = .running → t.irrev = false → stalledOnShare s t = true → t.cb = [] →
      exec .irrevocable s = .next { s with horizon := some (Claims.key l t), tasks := [{ t with irrev := true, wthrough := true, slot := none }] }) ∧
    (stalledOnShare s t = false → exec .irrevocable s = .next s) ∧
    -- finishing and repair
    (t.phase = .running → allReceived s t = true → t.poisoned = false → t.repair = [] →
      exec .taskFinish s = .next (s.modTask uid (fun t => { t with phase := .finished, repair := [] }))) ∧
    (t.phase = .running → allReceived s t = true → t.poisoned = true → t.irrev = true →
      exec .taskFinish s = .next (taskFault s uid 9 6 0)) ∧
    (allReceived s t = false → exec .taskFinish s = .next s ∧ exec .repairPass s = .next s) ∧
    (t.phase = .running → allReceived s t = true → t.poisoned = false → t.repair ≠ [] → tabRising none s.elems = true →
      (∀ k ∈ t.uses, (s.elem (keyEa k) (keyCtx k)).task = some uid) → (∀ ea c, tabRising none (s.elem ea c).ops = true) → exec .taskFinish s = .next s ∧
      ∃ u, exec .repairPass s = .next u ∧
        u = { s.modTask uid (fun t => { t with phase := .repairing, repaired := t.repaired + t.repair.length, lastFire := s.time }) with elems := u.elems } ∧
        (∀ k ∈ t.uses, (u.elem (keyEa k) (keyCtx k)).finished = false ∧ (u.elem (keyEa k) (keyCtx k)).bank = (s.elem (keyEa k) (keyCtx k)).bank ∧
          ∀ n ∈ ctxOperators (keyEa k) (s.elem (keyEa k) (keyCtx k)), ((u.elem (keyEa k) (keyCtx k)).op n).ended = false) ∧
        ∀ ea c, (∀ k ∈ t.uses, ¬ (keyEa k = ea ∧ keyCtx k = c)) → u.elem ea c = s.elem ea c)) ∧
  (∀ (s : State) (t : Task) (l : Launch), Claims.OnTask s t l → (t.phase = .running ∨ t.phase = .repairing) → t.fault = none → heldAtFault s t = false → heldAtHold s t = false →
    tabRising none s.parts = true →
    let ea := siteEa (siteAt t.row0 t.col0) 0
    let p := partOfSite s (eaSite ea)
    let n := (s.part p).fnum + 1
    let due := t.lastFire + t.excused + l.wdog * 1000000
    (s.time < due → exec .watchdog s = .next s) ∧
    (due ≤ s.time → ∃ u r, exec .watchdog s = .next u ∧
      u = { s.modTask t.uid (fun t => { t with phase := .freezing
                                               fault := some { cls := 3, reason := 13, unit := ea, detail := BitVec.ofNat 32 n, addr := 0, time := s.time } }) with parts := u.parts } ∧
      u.part p = { s.part p with fnum := n, frHeld := (s.part p).frHeld ++ [r] } ∧ r.stop = true ∧ r.task = some t.uid ∧
      ∀ k, k ≠ p → u.part k = s.part k))

/-- R235: FAULT_RECORD_POST completes: the oldest fault record of a block whose event queue has room enters the ring of its partition and its event that
queue; it waits for room in either. R262: LOCKSTEP_TIMEOUT completes: a commit of a lockstep pair that waits more than 1 ms ends both tasks with HARDWARE,
stops the queue and is counted in LSPAIR, and so is a line of another unit (log 124); the number in UNIT is a free value (log 109). -/
def Obligations.RecordsAndLockstep : Prop :=
  (∀ (s : State) (n : BitVec 8),
    let p := s.part n.toNat
    let full := fun (r : FaultRec) => let q := s.sq (BitVec.ofNat 6 r.blk); q.evTail - q.evHead = 256#9
    (p.frTail - p.frHead = 1024#11 ∨ (∀ r ∈ p.frHeld, full r) → exec (.faultRecordPost n) s = .next s) ∧
    (∀ passed r rest, p.frHeld = passed ++ r :: rest → (∀ x ∈ passed, full x) → ¬ full r → r.bytes.length = 64 → p.frTail - p.frHead ≠ 1024#11 →
      let b := BitVec.ofNat 6 r.blk
      let q := s.sq b
      let a := p.frBase.toNat + 64 * (p.frTail.toNat % 1024)
      q.run = false → memWf s.dmem = true → ∃ (u : State) (e : BitVec 256), exec (.faultRecordPost n) s = .next u ∧
        u = { (s.setPart n.toNat { p with frHeld := passed ++ rest, frTail := p.frTail + 1 }).setSq b { q with evHeld := q.evHeld ++ [e] } with dmem := u.dmem } ∧
        memBytes u.dmem a 64 = r.bytes ∧ (∀ k, (k < a ∨ a + 64 ≤ k) → memByte u.dmem k = memByte s.dmem k) ∧
        e.toNat % 256 = 2 ∧ e.toNat / 2 ^ 16 % 2 ^ 16 = bytesToNat ((r.bytes.drop 2).take 2) ∧ e.toNat / 2 ^ 64 = bytesToNat (r.bytes.take 24))) ∧
  (∀ s : State,
    let late := fun (since : Nat) => since + 1000000 < s.time
    let inTime := s.plat.lsWait.all (fun w => decide (s.time ≤ w.2.2 + 1000000)) = true
    (inTime → (∀ x ∈ s.plat.lsWrites, ¬ late x.since) → exec .lockstepTimeout s = .next s) ∧
    (inTime → (∃ x ∈ s.plat.lsWrites, late x.since) → exec .lockstepTimeout s = .next { s with plat := { s.plat with
      lspair := Claims.brokenPair s.plat, lsWrites := s.plat.lsWrites.filter (fun x => decide (¬ late x.since)) } })) ∧
  (∀ (s : State) (t v : Task) (l m : Launch) (p since : Nat), s.plat.lsWrites = [] → (∀ x ∈ [t, v], x.pred ≠ some t.uid ∧ x.pred ≠ some v.uid) →
    s.plat.lsWait = some (p, t.uid, since) → since + 1000000 < s.time →
    s.tasks = [t, v] → s.launches = [l, m] → l.ord = t.uid / 2 ^ 32 → l.ord < 2 ^ 40 → m.ord = l.ord + 2 ^ 40 → v.uid = t.uid + 2 ^ 72 →
    l.total = 1 → m.total = 1 → l.ended = 0 → m.ended = 0 → l.joined = false → m.joined = false → t.uses = [] → v.uses = [] → s.barriers = [] →
    s.plat.lspair.getLsbD 0 = true → l.part = s.plat.lspair.toNat / 2 % 256 → m.part = s.plat.lspair.toNat / 512 % 256 → m.queue = l.queue →
    tabRising none s.queues = true → Claims.ringFull s l.queue → ∃ u, exec .lockstepTimeout s = .next u ∧
      u = { s with tasks := [], launches := [], queues := u.queues, free := s.free + 1
                   plat := { s.plat with lsWait := none, lspair := Claims.brokenPair s.plat } } ∧
      Claims.entryHeld s u l.queue false
        { tindex := t.index, ord := l.ord, tstamp := l.tstamp, cls := 6
          flags := (if l.late.isSome then 1 else 0) + (if t.spldn then 2 else 0) + (if t.irrev then 4 else 0), reason := 0, unit := ((Config.freeValue s.free).setWidth 16).toNat
          detail := 0, addr := 0 })

namespace Sys2Proof.Claims

/-! ## Cuts -/

/-- No debug request and no lockstep pair stands, and nothing is parked: an event of the TD then concerns its task alone. -/
structure Quiet (s : State) : Prop where
  requests : s.plat.dbgReqs = []
  unpair   : s.plat.lspair.getLsbD 0 = false
  barriers : s.barriers = []

/-- The task of a cut that begins with reason r in slot n: the partition's next cut number, never 0 (R242). -/
def cutting (no : Word) (n : Nat) (r : BitVec 4) (t : Task) : Task :=
  { t with phase := .cutting, slot := some n, cutNo := no, cutWhy := r, cutReq := none }

/-- The machine with a cut of task t begun. -/
def cutBegun (s : State) (t : Task) (l : Launch) (n : Nat) (r : BitVec 4) : State :=
  let p := s.part l.part
  let no := if p.cutno = 0xFFFFFFFF#32 then 1 else p.cutno + 1
  (s.setPart l.part { p with cutno := no }).modTask t.uid (cutting no n r)

/-- Slots of the TD in use (R145). -/
def slotUsed (s : State) (n : Nat) : Prop := ∃ t ∈ s.tasks, t.phase ≠ .ended ∧ t.slot = some n

/-- A context given back: no token, pass or operator state, no task; its bank and context registers stay. -/
def givenBack (e : ElemCtx) : ElemCtx :=
  { e with inq := [], inc := [], outq := [], outc := [], pass := none, stopped := false, finished := false, captured := false, task := none, released := true
           ops := [], kelp := Kelp.zero, brk := [], group := none, wsSwaps := 0 }

end Sys2Proof.Claims

/-- R242 and R145: a cut of a running task takes the partition's next cut number; an irrevocable task takes the lowest free slot, or waits for one.
R125: a page fault pending beyond the launch's limit cuts the region. R245: a cut is complete when every context has written its state; the task is
suspended, its records stand in the save areas or in the spill, and its contexts are given back; a task that has received its markers first drops the
cut, and its contexts go on. -/
def Obligations.CuttingRegions : Prop :=
  ∀ (s : State) (t : Task) (l : Launch), Claims.OnTask s t l → Claims.Quiet s →
    let runs := (t.phase = .running ∨ t.phase = .repairing) ∧ t.fault = none
    let asks := fun (r : BitVec 4) => s.modTask t.uid (fun t => { t with cutReq := some r })
    -- beginning
    (∀ r n, runs → t.irrev = false → t.slot = some n → exec (.preempt t.uid r) s = .next (Claims.cutBegun s t l n r)) ∧
    (∀ r n, runs → t.irrev = true → n < 512 → ¬ Claims.slotUsed s n → (∀ m < n, Claims.slotUsed s m) →
      exec (.preempt t.uid r) s = .next (Claims.cutBegun s t l n r)) ∧
    (∀ r, runs → t.irrev = true → (∀ m < 512, Claims.slotUsed s m) → exec (.preempt t.uid r) s = .next (asks r)) ∧
    (∀ r, ¬ runs → exec (.preempt t.uid r) s = .next s) ∧
    -- the page-fault limit
    (∀ f n, runs → t.irrev = false → t.slot = some n → pendingFaults s t = [f] →
      (s.time ≤ f.time + 1000 * l.pflim → exec .pageFaultLimit s = .next s) ∧
      (f.time + 1000 * l.pflim < s.time →
        exec .pageFaultLimit s = .next ((Claims.cutBegun s t l n 2).modTask t.uid (fun t => { t with pxFault := some f.fseq })))) ∧
    -- a cut that waits for a slot
    (∀ r n, runs → t.irrev = true → t.cutReq = some r → n < 512 → ¬ Claims.slotUsed s n → (∀ m < n, Claims.slotUsed s m) →
      exec .cutComplete s = .next (Claims.cutBegun s t l n r)) ∧
    -- completion
    (t.phase = .cutting → allReceived s t = true → tabRising none s.elems = true → ∃ u, exec .cutComplete s = .next u ∧
      u = { s.modTask t.uid (fun t => { t with
        phase := if 0 < t.repaired then .repairing else .running, slot := if t.irrev then none else t.slot, pxFault := none }) with elems := u.elems } ∧
      (∀ k ∈ t.uses, let e := s.elem (keyEa k) (keyCtx k)
        let x := u.elem (keyEa k) (keyCtx k)
        k < 2 ^ 18 → e.task = some t.uid → tabRising none e.inq = true → tabRising none e.inc = true →
          x.bank = e.bank ∧ x.shadow = e.shadow ∧ x.captured = false ∧ (∀ n, (x.op n).cut = false) ∧
          (∀ q, x.queue q = (e.queue q).filter (fun t => t.kind != .cut)) ∧ ∀ q, x.ctlQueue q = (e.ctlQueue q).filter (fun c => !c.cut)) ∧
      ∀ ea c, (∀ k ∈ t.uses, ¬ (keyEa k = ea ∧ keyCtx k = c)) → u.elem ea c = s.elem ea c) ∧
    (t.phase = .cutting → allReceived s t = false → cutDone s t = false → exec .cutComplete s = .next s) ∧
    (t.phase = .cutting → allReceived s t = false → cutDone s t = true → tabRising none s.elems = true → t.binds = [] →
      t.uses.Nodup → (∀ k ∈ t.uses, k < 2 ^ 18 ∧ (s.elem (keyEa k) (keyCtx k)).task = some t.uid ∧ (s.elem (keyEa k) (keyCtx k)).armed = false) →
      ∃ (u : State) (area : Bool), exec .cutComplete s = .next u ∧
        u.tasks = (s.modTask t.uid (fun t => { t with
          phase := .suspended
          saved := t.uses.map (fun k =>
            let e := (s.elem (keyEa k) (keyCtx k)).savedCtx (eaElem (keyEa k) == 1)
            { key := k, ctx := e, area := area, size := (ctxRecords k e t.cutNo).length, go := [] })
          spill := if area then [] else t.uses.flatMap (fun k => ctxRecords k ((s.elem (keyEa k) (keyCtx k)).savedCtx (eaElem (keyEa k) == 1)) t.cutNo) })).tasks ∧
        (∀ k ∈ t.uses, u.elem (keyEa k) (keyCtx k) = Claims.givenBack (s.elem (keyEa k) (keyCtx k))) ∧
        (∀ ea c, (∀ k ∈ t.uses, ¬ (keyEa k = ea ∧ keyCtx k = c)) → u.elem ea c = s.elem ea c) ∧
        u.dmem = s.dmem ∧ u.lram = s.lram ∧ u.sqs = s.sqs ∧ u.launches = s.launches ∧ u.queues = s.queues)

/-- R247: a suspended task resumes at its own sites once their contexts are free, from records that pass their checks, and ends with HARDWARE from
others; R125: one cut at a page fault goes by the PC's answer. R236: 256 fc after the last firing a faulted task ends with its class. R124: the PC's
answer is written to the posted fault; R129: it is 3 when no frame can be freed. R256: an authorised unload reads the block out, resets it and fills
its banks with zero. -/
def Obligations.RestoreAndUnload : Prop :=
  (∀ (s : State) (t : Task) (l : Launch), Claims.OnTask s t l → Claims.Quiet s → Claims.Sole s t l → t.phase = .suspended →
    let at_ := fun (v : Saved) => s.elem (keyEa v.key) (keyCtx v.key)
    (t.pxFault = none → (∃ v ∈ t.saved, (at_ v).task ≠ none) → exec .restore s = .next s) ∧
    (∀ f, t.pxFault = some f → faultStatus s l.part f = 0 → exec .restore s = .next s) ∧
    -- the spill's records are read back with their checks
    (let free := t.pxFault = none ∧ (∀ v ∈ t.saved, (at_ v).task = none ∧ v.area = false ∧ v.key < 2 ^ 18) ∧ (t.saved.map (·.key)).Nodup ∧ t.binds.Nodup ∧
        tabRising none s.elems = true
     let read := readContexts t.cutNo (t.saved.map (·.key)) t.spill
     (∀ m, free → read = some m → ∃ u, exec .restore s = .next u ∧
        u = { s with elems := u.elems, sites := u.sites, links := u.links, barriers := u.barriers, tasks :=
          [{ t with phase := if 0 < t.repaired then .repairing else .running, saved := [], spill := [], preempts := t.preempts + 1, lastFire := s.time, excused := 0
                    slot := if t.irrev then none else t.slot, pxFault := none }] } ∧
        (∀ v ∈ m, let e := u.elem (keyEa v.1) (keyCtx v.1)
          e.task = some t.uid ∧ e.released = true ∧ e.bank = v.2.bank ∧ e.k = v.2.k ∧ e.pass = v.2.pass ∧ e.inc = v.2.inc ∧ e.ii = v.2.ii) ∧
        (∀ x ∈ t.binds.zip t.exps, u.barrier x.1 = { s.barrier x.1 with exp := BitVec.ofNat 24 x.2 }) ∧
        ∀ ea c, (∀ v ∈ t.saved, ¬ (keyEa v.key = ea ∧ keyCtx v.key = c)) → u.elem ea c = s.elem ea c) ∧
     (free → read = none → (∀ k ∈ t.uses, (s.elem (keyEa k) (keyCtx k)).task ≠ some t.uid) → tabRising none s.queues = true → Claims.ringFull s l.queue →
       ∃ u, exec .restore s = .next u ∧ u = { s with tasks := [], launches := [], queues := u.queues } ∧
         Claims.entryHeld s u l.queue (s.queue l.queue).en
           { tindex := t.index, ord := l.ord, tstamp := l.tstamp, cls := 6
             flags := (if l.late.isSome then 1 else 0) + (if t.spldn then 2 else 0) + (if t.irrev then 4 else 0), reason := 0, unit := 0, detail := 0, addr := 0 }))) ∧
  (∀ (s : State) (t : Task) (l : Launch) (e : EndWith), Claims.OnTask s t l → Claims.Quiet s → Claims.Sole s t l → t.fault = some e → t.uses = [] →
    tabRising none s.queues = true → Claims.ringFull s l.queue →
    (t.phase = .freezing → t.lastFire + 256 ≤ s.time → ∃ u, exec .regionFrozen s = .next u ∧
      u = { s with tasks := [], launches := [], queues := u.queues } ∧
      Claims.entryHeld s u l.queue (s.queue l.queue).en
        { tindex := t.index, ord := l.ord, tstamp := l.tstamp, cls := e.cls.toNat
          flags := (if l.late.isSome then 1 else 0) + (if t.spldn then 2 else 0) + (if t.irrev then 4 else 0), reason := e.reason.toNat
          unit := e.unit.toNat, detail := e.detail.toNat, addr := e.addr.toNat }) ∧
    (t.phase ≠ .freezing ∨ s.time < t.lastFire + 256 → exec .regionFrozen s = .next s)) ∧
  (∀ (s : State) (n : BitVec 8) (x : BitVec 32) (st : BitVec 16),
    let p := s.part n.toNat
    ((∀ f ∈ p.faults, ¬ (f.fseq = x.toNat ∧ f.posted = true)) ∨ st = 0 ∨ 3 < st.toNat → exec (.resumeDoorbell n x st) s = .next s) ∧
    -- the page is there or a frame is free: the PC answers 1 or 2; R129: it answers 3 when no frame can be freed
    (∀ f, p.faults = [f] → f.fseq = x.toNat → f.posted = true → st.toNat = 3 → needsFrame s n.toNat f = false → exec (.resumeDoorbell n x st) s = .next s) ∧
    (∀ f, p.faults = [f] → f.fseq = x.toNat → f.posted = true → s.tasks = [] → memWf s.dmem = true →
      sealedAt s (p.fqBase.toNat + 32 * f.slot + 28) 2 = false →
      (st.toNat = 2 ∨ st.toNat = 1 ∧ needsFrame s n.toNat f = false ∨ st.toNat = 3 ∧ needsFrame s n.toNat f = true ∧ victim s n.toNat f = none) →
      let a := p.fqBase.toNat + 32 * f.slot + 28
      ∃ u, exec (.resumeDoorbell n x st) s = .next u ∧
        u = { s.setPart n.toNat { p with faults := [{ f with status := st.toNat }] } with dmem := u.dmem } ∧
        memNat u.dmem a 2 = st.toNat ∧ ∀ k, (k < a ∨ a + 2 ≤ k) → memByte u.dmem k = memByte s.dmem k)) ∧
  (∀ (s : State) (b : BitVec 6),
    (s.plat.debugOk ≠ some b → exec (.destructiveUnload b) s = .next s) ∧
    (s.plat.debugOk = some b → (∀ t ∈ s.tasks, ∀ k ∈ t.uses, siteBlock (eaSite (keyEa k)) ≠ b.toNat) → tabRising none s.sqs = true → tabRising none s.elems = true →
      tabRising none s.sites = true → tabRising none s.engines = true → tabRising none s.spad = true → tabRising none s.lram = true →
      let inside := fun (n : SiteNo) => siteBlock n = b.toNat
      ∃ u, exec (.destructiveUnload b) s = .next u ∧
        u = { s with elems := u.elems, ports := u.ports, spad := u.spad, ws := u.ws, acs := u.acs, channels := u.channels, sites := u.sites, sqs := u.sqs
                     lram := u.lram, engines := u.engines
                     plat := { s.plat with debugOk := none, readout := u.plat.readout, unloads := s.plat.unloads ++ [{ blk := b.toNat, time := s.time }] } } ∧
        -- what has been read out
        (∃ r, u.plat.readout = some r ∧ r.blk = b ∧ r.sq = s.sq b ∧ (∀ p, p ∈ r.elems ↔ p ∈ s.elems ∧ inside (eaSite (keyEa p.1))) ∧
          (∀ p, p ∈ r.acs ↔ p ∈ s.acs ∧ inside (BitVec.ofNat 13 (p.1 / 16384))) ∧ (∀ p, p ∈ r.ws ↔ p ∈ s.ws ∧ inside (BitVec.ofNat 13 (p.1 / 2048))) ∧
          (∀ p, p ∈ r.spad ↔ p ∈ s.spad ∧ inside (BitVec.ofNat 13 (p.1 / 2 ^ 21))) ∧ ∀ p, p ∈ r.lram ↔ p ∈ s.lram ∧ p.1 / 4096 = b.toNat) ∧
        (∀ ea c, u.elem ea c = if inside (eaSite ea) then ElemCtx.reset else s.elem ea c) ∧
        (∀ n : SiteNo, u.site n = if inside n then (s.site n).cleared else s.site n) ∧
        (∀ c, u.sq c = if c = b then Sq.reset else s.sq c) ∧
        (∀ c q, u.engine c q = if c = b then EngQueue.reset else s.engine c q) ∧
        (∀ n : SiteNo, ∀ o < 2 ^ 21, memByte u.spad (n.toNat * 2 ^ 21 + o) = if inside n then 0 else memByte s.spad (n.toNat * 2 ^ 21 + o)) ∧
        ∀ a, memByte u.lram a = if a / 4096 = b.toNat then 0 else memByte s.lram a))

namespace Sys2Proof.Claims

/-! ## Engines -/

/-- The engine of queue q of block b has the focus with the command `cmd` at its head, of operation op with operands o and nothing behind them; u is the
machine after reading the command. -/
structure Commands (s u : State) (b : BitVec 6) (q : BitVec 4) (op : Instr) (o : List Nat) : Prop where
  focus   : s.focus = .engine b q
  ready   : engReady s b q = true
  free    : (s.engine b q).fault = none
  command : ∃ cmd, engCommand s b q (partOfBlock s b.toNat) = (u, .ok cmd) ∧ decodeEngine (u.engine b q).eng cmd = some op ∧
    ∀ j < 7, (commandDword cmd (j + 1)).toNat = o.getD j 0

/-- The entry at the head has been performed with a status; ENGINE_COMPLETE follows. -/
def performed (s : State) (b : BitVec 6) (q : BitVec 4) (st : Nat) : State :=
  s.setEngine b q { s.engine b q with status := some (BitVec.ofNat 8 st), fault := none, moved := 0, limit := none }

/-- Nothing of the entry at the head has been moved, and nothing tells the engine to move it in parts (R157; log entry 114). -/
def Whole (s : State) (b : BitVec 6) (q : BitVec 4) : Prop := (s.engine b q).moved = 0 ∧ (s.engine b q).limit = none

/-- No task or channel sees the writes, and no lockstep pair stands. -/
def Plain (s : State) : Prop := Unobserved s ∧ s.plat.lspair.getLsbD 0 = false ∧ memWf s.dmem = true

/-- What a write of device memory leaves beside the bytes: the times of access (R128) and the lines that can be read again. -/
def sameBut (t w : State) : State := { w with dmem := t.dmem, touched := t.touched, bad := t.bad }

/-- A range of n bytes lies in one piece of device memory at physical address pa; v is the machine after its translation. -/
def at_ (s v : State) (part a n : Nat) (i : Intent) (pa : Nat) : Prop := engRange s part a n i = (v, .ok [.dev pa n])

/-- Lines of a block, n of them p bytes apart at virtual a, lie at physical pa, p bytes apart as well. -/
def linesAt (s v : State) (part a n p : Nat) (i : Intent) (pa : Nat) : Prop :=
  engLines s part i ((List.range n).map (fun k => a + k * p)) = (v, .ok ((List.range n).map (fun k => .dev (pa + k * p) 64)))

/-- Nothing but the bytes of device memory and the entry's status has changed. -/
def onlyBytes (w t : State) (b : BitVec 6) (q : BitVec 4) (pa n : Nat) : Prop :=
  t = sameBut t (performed w b q 0) ∧ ∀ k, (k < pa ∨ pa + n ≤ k) → memByte t.dmem k = memByte w.dmem k

end Sys2Proof.Claims

/-- R178, R432 and R112: what the stream copy engine and the crypto engine do with ranges in device memory: copy, fill, the transposed copy of a
block, a digest, and a verification that answers status 0 or 6; an operand behind the last one gives status 7, and a source that cannot be read
status 2. A copy may move some of its lines and the others in later steps (R157; log entry 114). -/
def Obligations.CopyAndCryptoEngines : Prop :=
  ∀ (s u v w : State) (b : BitVec 6) (q : BitVec 4) (x y z ps pd : Nat),
    let part := partOfBlock s b.toNat
    let quiet := Claims.Plain w ∧ Claims.Whole w b q
    let readable := fun (a n : Nat) => memoryBad w a n = false
    (∀ op : Instr, op = .copy ∨ op = .fill ∨ op = .sha512 ∨ op = .rsaVerify → ∀ r, r ≠ 0 → Claims.Commands s u b q op [x, y, z, r] →
      exec op s = .next (Claims.performed u b q 7)) ∧
    (Claims.Commands s u b q .copy [x, y, z] → Claims.at_ u v part x z readIntent ps → Claims.at_ v w part y z writeIntent pd → quiet →
      (x + z ≤ y ∨ y + z ≤ x) → (ps + z ≤ pd ∨ pd + z ≤ ps) →
      (readable ps z → ∃ t, exec .copy s = .next t ∧ Claims.onlyBytes w t b q pd z ∧ memBytes t.dmem pd z = memBytes w.dmem ps z) ∧
      (¬ readable ps z → ∃ t, exec .copy s = .next t ∧ t = { Claims.performed w b q 2 with touched := t.touched })) ∧
    -- R157: some lines of the entry, the rest later
    (∀ m k, Claims.Commands s u b q .copy [x, y, z] → Claims.at_ u v part x z readIntent ps → Claims.at_ v w part y z writeIntent pd → Claims.Plain w →
      (w.engine b q).moved = m → (w.engine b q).limit = some k → m + k < (x % 64 + z + 63) / 64 → (x + z ≤ y ∨ y + z ≤ x) → (ps + z ≤ pd ∨ pd + z ≤ ps) →
      memoryBad w ps z = false →
      let lo := 64 * m - x % 64
      let hi := min z (64 * (m + k) - x % 64)
      ∃ t, exec .copy s = .next t ∧ t = Claims.sameBut t (w.setEngine b q { w.engine b q with moved := m + k, limit := none }) ∧
        ∀ a, memByte t.dmem a = if pd + lo ≤ a ∧ a < pd + hi then memByte w.dmem (ps + (a - pd)) else memByte w.dmem a) ∧
    (Claims.Commands s u b q .fill [x, y, z] → Claims.at_ u w part x y writeIntent pd → quiet →
      ∃ t, exec .fill s = .next t ∧ Claims.onlyBytes w t b q pd y ∧ ∀ k < y, (memByte t.dmem (pd + k)).toNat = z / 256 ^ (k % 8) % 256) ∧
    (∀ (op : Instr) (n d : Nat), (op = .copyT8 ∧ n = 64 ∨ op = .copyT16 ∧ n = 32) → Claims.Commands s u b q op [x, y, z, d, 1] →
      x % 64 = 0 → y % 64 = 0 → z % 64 = 0 → 0 < z → d % 64 = 0 → 0 < d → pd % 64 = 0 →
      Claims.linesAt u v part x n z readIntent ps → Claims.linesAt v w part y n d writeIntent pd → quiet → (∀ k < n, readable (ps + k * z) 64) →
      ∃ t, exec op s = .next t ∧ t = Claims.sameBut t (Claims.performed w b q 0) ∧
        (∀ i j k, i < n → j < n → k < 64 / n → memByte t.dmem (pd + j * d + i * (64 / n) + k) = memByte w.dmem (ps + i * z + j * (64 / n) + k)) ∧
        ∀ a, (∀ j < n, a < pd + j * d ∨ pd + j * d + 64 ≤ a) → memByte t.dmem a = memByte w.dmem a) ∧
    (Claims.Commands s u b q .sha512 [x, y, z] → Claims.at_ u v part x y readIntent ps → Claims.at_ v w part z 64 writeIntent pd → quiet → readable ps y →
      ∃ t, exec .sha512 s = .next t ∧ Claims.onlyBytes w t b q pd 64 ∧ memBytes t.dmem pd 64 = sha512 (memBytes w.dmem ps y)) ∧
    (∀ (u' : State) (pk : Nat), Claims.Commands s u b q .rsaVerify [x, y, z] → Claims.at_ u v part x 64 readIntent ps → Claims.at_ v u' part y 512 readIntent pd →
      Claims.at_ u' w part z 520 readIntent pk → readable ps 64 → readable pd 512 → readable pk 520 →
      let number := fun (a n : Nat) => beNat (memBytes w.dmem a n)
      ∃ t, exec .rsaVerify s = .next t ∧ t = { Claims.performed w b q
        (if rsaVerifies (number pk 512) (number (pk + 512) 8) (number pd 512) (memBytes w.dmem ps 64) then 0 else 6) with touched := t.touched })

/-- R311: a collective of a member alone leaves its data with status 0; operands out of range, or a group that the queue's partition is not in, give
status 7; of larger groups the result is open, and nothing but the buffer and the free values changes (log entry 8). R127: migration marks the leaf and
remembers it, copies the frame and moves the leaf, or is RACED. R179 and R144: the completion word says the entry's number and status. -/
def Obligations.CollectivesAndMigration : Prop :=
  (∀ (s u w : State) (b : BitVec 6) (q : BitVec 4) (op : Instr) (x n f k g pa : Nat), (op = .allReduce ∨ op = .broadcast ∨ op = .allGather) →
    Claims.Commands s u b q op [x, n, f, k, g] →
    let part := partOfBlock s b.toNat
    let members := tabGet u.plat.groups g []
    let good := 1 ≤ n ∧ n ≤ 2 ^ 32 ∧ (1 ≤ f ∧ f ≤ 7 ∨ 10 ≤ f ∧ f ≤ 13) ∧ k ≤ 4 ∧ (3 ≤ k → f ≤ 7)
    let mine := ∃ m ∈ members, m.2 = part
    let size := n * (fmtWidth f / 8) * (if op = .allGather then members.length else 1)
    (¬ good ∨ ¬ mine → exec op s = .next (Claims.performed u b q 7)) ∧
    (good → mine → Claims.at_ u w part x size bothIntent pa → Claims.Plain w → memoryBad w pa size = false →
      (members.length = 1 → ∃ t, exec op s = .next t ∧ Claims.onlyBytes w t b q pa 0) ∧
      (members.length ≠ 1 → ∃ t, exec op s = .next t ∧
        (t = { Claims.performed w b q 7 with free := t.free, touched := t.touched } ∨
         t = { Claims.sameBut t (Claims.performed w b q 0) with free := t.free } ∧ ∀ k, (k < pa ∨ pa + size ≤ k) → memByte t.dmem k = memByte w.dmem k)))) ∧
  (∀ (s u : State) (b : BitVec 6) (q : BitVec 4) (va tier : Nat), Claims.Commands s u b q .migrate [va, tier] →
    let part := partOfBlock s b.toNat
    (2 ^ 57 ≤ va → exec .migrate s = .next (Claims.performed u b q 1)) ∧
    (va < 2 ^ 57 → 3 ≤ tier → exec .migrate s = .next (Claims.performed u b q 7)) ∧
    (∀ w : Walked, va < 2 ^ 57 → tier < 3 → leafOf u part va = some w → w.pte.getLsbD 10 = false → w.pte.getLsbD 6 = false →
      framesOwned u part w.pbase w.size = true → (w.pte.getLsbD 5 = true → tier ≠ 2) →
      (freeFrame u part tier w.size = none → exec .migrate s = .next (Claims.performed u.takeFree b q 2)) ∧ ∀ dst, freeFrame u part tier w.size = some dst →
      genBusy u.takeFree part = false → u.tasks = [] → memWf u.dmem = true → tabRising none u.engines = true →
      ∃ t e, exec .migrate s = .next t ∧ e.toNat = memNat t.dmem w.at_ 8 ∧ e = BitVec.ofNat 64 (memNat u.dmem w.at_ 8) ||| 0x400#64 ∧
        (∀ k, (k < w.at_ ∨ w.at_ + 8 ≤ k) → memByte t.dmem k = memByte u.dmem k) ∧
        t.engine b q = { u.engine b q with mig := some (w.vbase, w.pbase, w.size, e, dst, w.at_), fault := none } ∧
        (∀ c n, (c, n) ≠ (b, q) → t.engine c n = u.engine c n) ∧ t.spad = u.spad ∧ t.lram = u.lram)) ∧
  (∀ (s : State) (b : BitVec 6) (q : BitVec 4) (va pa size dst pte : Nat) (old : DWord),
    (s.engine b q).mig = some (va, pa, size, old, dst, pte) → genBusy s (partOfBlock s b.toNat) = false → old.getLsbD 6 = false → memWf s.dmem = true →
    tabRising none s.engines = true → s.sealed = [] → Claims.Unobserved s →
    let now := BitVec.ofNat 64 (memNat s.dmem pte 8)
    let ends := fun (st : Nat) => { s.engine b q with mig := none, status := some (BitVec.ofNat 8 st) }
    (now ≠ old → ∃ t, exec (.migrationCopyDone b q) s = .next t ∧ t.dmem = s.dmem ∧ t.engine b q = ends 4 ∧ ∀ c n, (c, n) ≠ (b, q) → t.engine c n = s.engine c n) ∧
    -- SOURCE-ERROR: the leaf is as before the move
    (now = old → ptePa old = pa → old.getLsbD 10 = true → memoryBad s pa size = true → ∃ t, exec (.migrationCopyDone b q) s = .next t ∧ t.engine b q = ends 5 ∧
      BitVec.ofNat 64 (memNat t.dmem pte 8) = old &&& ~~~0x400#64 ∧ (∀ k, (k < pte ∨ pte + 8 ≤ k) → memByte t.dmem k = memByte s.dmem k) ∧
      ∀ c n, (c, n) ≠ (b, q) → t.engine c n = s.engine c n) ∧
    (now = old → ptePa old = pa → old.getLsbD 10 = true → memoryBad s pa size = false → dst < 2 ^ 52 → dst % 4096 = 0 → (pa + size ≤ dst ∨ dst + size ≤ pa) → (pte + 8 ≤ dst ∨ dst + size ≤ pte) → (pte + 8 ≤ pa ∨ pa + size ≤ pte) →
      ∃ t, exec (.migrationCopyDone b q) s = .next t ∧ memBytes t.dmem dst size = memBytes s.dmem pa size ∧ t.engine b q = ends 0 ∧
        (∀ k, (k < dst ∨ dst + size ≤ k) → (k < pte ∨ pte + 8 ≤ k) → memByte t.dmem k = memByte s.dmem k) ∧
        (let new := BitVec.ofNat 64 (memNat t.dmem pte 8)
         ptePa new = dst ∧ new.getLsbD 10 = false ∧ bits new.toNat 7 2 = tierOf dst ∧ new &&& 0xFFF0000000000A7F#64 = old &&& 0xFFF0000000000A7F#64) ∧
        ∀ c n, (c, n) ≠ (b, q) → t.engine c n = s.engine c n)) ∧
  (∀ (s w : State) (b : BitVec 6) (q : BitVec 4) (st : Byte) (pa : Nat), (s.engine b q).status = some st → (s.engine b q).fault = none →
    let e := s.engine b q
    let part := partOfBlock s b.toNat
    engVirt s part e.cwaddr.toNat 8 writeIntent = (w, .ok [.dev pa 8]) → Claims.Plain w → s.plat.lsWrites = [] → w.engines = s.engines → pa % 8 = 0 →
    let word := (e.donen.toNat + 1) % 2 ^ 32 + 2 ^ 32 * st.toNat
    ∃ m, let v := { w with dmem := memSetNat w.dmem pa 8 word, touched := m }
    ∀ cmd, (engCommand v b q part).2 = .ok cmd →
      let done := v.setEngine b q { e with donen := e.donen + 1, items := e.items.tail, status := none, fault := none }
      (st = 0 → cmd.getLsbD 8 = false → exec (.engineComplete b q) s = .next done) ∧
      (st ≠ 0 ∨ cmd.getLsbD 8 = true → (w.sq b).run = false → ∃ ev : BitVec 256,
        exec (.engineComplete b q) s = .next (done.setSq b { w.sq b with evHeld := (w.sq b).evHeld ++ [ev] }) ∧
        ev.toNat % 2 ^ 64 = 5 ∧ ev.toNat / 2 ^ 64 % 2 ^ 64 = word ∧ ev.toNat / 2 ^ 128 % 2 ^ 64 = (commandDword cmd 0).toNat ∧ ev.toNat / 2 ^ 192 = q.toNat))

namespace Sys2Proof.Claims

/-! ## The host, resets and the mailbox -/

/-- Mailbox operation op has ended with a status (R309): logged, and vector 0 raised. -/
def served (s : State) (op st : Nat) : State :=
  { s with plat := { s.plat with pclog := s.plat.pclog ++ [.mailbox op st], msis := s.plat.msis ++ [0] } }

/-- A mailbox operation ends with a status and does nothing when that is not 0. -/
def refusedWith (s : State) (i : Instr) (op st : Nat) : Prop := exec i s = .next (served s op st)

/-- Blocks that an operation on a partition, or on one block of it, concerns. -/
def named (s : State) (part : BitVec 8) (blk : Option (BitVec 6)) (b : BitVec 6) : Prop :=
  b ∈ (s.part part.toNat).blocks.map (BitVec.ofNat 6) ∧ ∀ c, blk = some c → b = c

/-- Booting firmware that is accepted has re-planned each die's voltage margin, of at most 60 mV (R233); firmware that is refused has not. -/
def Replanned (fw : Firmware) (p q : Plat) : Prop :=
  ∃ l : List Guardband, q.guard = p.guard ++ l ∧ l.map (·.die) = (if firmwareOk fw then [0, 1, 2, 3] else []) ∧ ∀ g ∈ l, g.mv ≤ 60

end Sys2Proof.Claims

/-- R307: a host access goes through its aperture to the partition's memory; what cannot be performed is dropped and logged when posted, else
aborted, and a fault pending for 20 ms aborts a request. R312: TIME_SYNC never steps back once STATE is ready, and 10 s without it set SYNCLOST. R5, R232
and R314: sensors and power windows. R233: a guardband record, and retired tiles. R106, R132, R230, R231 and R313: partition reset and destruction, the
fatal error with its dump, device reset and recovery. -/
def Obligations.HostAndResets : Prop :=
  (∀ (s : State) (off : BitVec 36) (data : List Byte) (posted : Bool) (n : Nat),
    let w := tabGet s.plat.waps (off.toNat / 2 ^ 32) 0
    let va := Claims.field w 32 25 * 2 ^ 32 + off.toNat % 2 ^ 32
    let part := Claims.field w 1 8
    let aborted : State := { s with plat := { s.plat with answers := s.plat.answers ++ [.abort] } }
    (w.getLsbD 0 = false → exec (.hostWindowWrite off data posted) s = .next (if posted then s.log (.windowDropped off.toNat) else aborted) ∧
      exec (.hostWindowRead off n) s = .next aborted) ∧
    (∀ u l pa, w.getLsbD 0 = true → s.plat.reqs = [] → 0 < n → translateRange s [] part readIntent (pagePieces va n) = (u, l, .ok [(pa, n)]) →
      ∃ m, exec (.hostWindowRead off n) s = .next { u with plat := { u.plat with answers := u.plat.answers ++ [.data (memBytes u.dmem pa n)] }, touched := m }) ∧
    (∀ u l pa, w.getLsbD 0 = true → s.plat.reqs = [] → data ≠ [] → translateRange s [] part writeIntent (pagePieces va data.length) = (u, l, .ok [(pa, data.length)]) →
      Claims.Unobserved u → memWf u.dmem = true → ∃ t, exec (.hostWindowWrite off data posted) s = .next t ∧
        t = { u with dmem := t.dmem, touched := t.touched, bad := t.bad, plat := if posted then u.plat else { u.plat with answers := u.plat.answers ++ [.data []] } } ∧
        memBytes t.dmem pa data.length = data ∧ ∀ k, (k < pa ∨ pa + data.length ≤ k) → memByte t.dmem k = memByte u.dmem k) ∧
    (∀ r, s.plat.reqs = [r] → r.posted = false → r.fseq ≠ 0 → faultStatus s r.part r.fseq = 0 →
      exec .hostRequestTimeout s = .next (if r.time + 20000000 ≤ s.time then { s with plat := { s.plat with reqs := [], answers := s.plat.answers ++ [.abort] } } else s))) ∧
  (∀ s : State,
    let p := s.plat
    let plat := fun (i : Instr) (q : Plat) => exec i s = .next { s with plat := q }
    (∀ m : DWord, ∃ t, exec (.timeSync m) s = .next { s with time := t, plat := { p with lastSync := t, synclost := false } } ∧
      (p.state ≠ 2 → t = m.toNat) ∧ (p.state = 2 → s.time ≤ t ∧ (t - s.time) * 1000000 ≤ (s.time - p.lastSync) * 200 ∧ (s.time ≤ m.toNat → t ≤ m.toNat))) ∧
    plat .synclost (if p.lastSync + 10000000000 ≤ s.time then { p with synclost := true } else p) ∧
    (∀ hot : BitVec 4, plat (.sensorPoll hot) { p with rateLim := hot ≠ 0, limited := p.limited || decide (hot ≠ 0) }) ∧
    (∀ watts : BitVec 12, plat (.powerWindow watts) { p with noww := watts, limited := p.rateLim || decide (p.capw.toNat < watts.toNat) }) ∧
    (∀ (die : BitVec 2) (mv : BitVec 8) (ps : BitVec 16) (tile : SiteNo), siteExists tile = true → tile.extractLsb' 11 2 = die → tabRising none s.sites = true → ∃ u,
      exec (.guardbandReplan die mv ps [tile]) s = .next u ∧ Claims.onlySite { s with plat := u.plat } u tile { s.site tile with retiredTile := true } ∧
      u.plat = { p with retire := true, pclog := p.pclog ++ [.retiredTile tile.toNat]
                        guard := p.guard ++ [{ time := s.time, die := die.toNat, mv := min mv.toNat 60, ps := ps.toNat, tiles := 1 }]
                        supply := tabSet p.supply die.toNat (min mv.toNat 60) 0, planned := s.time })) ∧
  (∀ (s : State) (n : BitVec 8), tabRising none s.sqs = true → tabRising none s.ports = true → (∀ b : BitVec 6, (s.sq b).arrival = none ∧ (s.sq b).pend = []) → ∃ u,
    exec (.partitionReset n) s = .next u ∧ u = { s.setPart n.toNat { s.part n.toNat with cutno := 0 } with sqs := u.sqs, ports := u.ports } ∧
    (∀ b, Claims.named s n none b → u.sq b = Sq.reset) ∧ (∀ b, ¬ Claims.named s n none b → u.sq b = s.sq b) ∧
    (∀ ea b, Claims.named s n none b → (s.port ea).owner = 2 + b.toNat → u.port ea = CfgPort.reset) ∧
    ∀ ea, (∀ b, Claims.named s n none b → (s.port ea).owner ≠ 2 + b.toNat) → u.port ea = s.port ea) ∧
  (∀ (s : State) (n : BitVec 8), memWf s.dmem = true →
    let frames := (s.part n.toNat).sealedVa.flatMap (fun r => framesOf r.2.2 r.2.1)
    ∃ u, exec (.partitionDestroy n) s = .next u ∧
      u = { s.setPart n.toNat { s.part n.toNat with seals := [], sealedVa := [] } with dmem := u.dmem, sealed := s.sealed.filter (fun f => decide (f ∉ frames)) } ∧
      ∀ a, memByte u.dmem a = if a / 4096 ∈ frames then 0 else memByte s.dmem a) ∧
  (∀ (s : State) (cause : Word) (ea : EAddr), eaExists ea = false → exec (.fatalError cause ea) s = .fault .noSuchUnit) ∧
  (∀ (s : State) (cause : Word) (ea : EAddr), eaExists ea = true → s.tasks = [] → s.plat.state ≠ 3 → memWf s.dmem = true → s.spad = [] → ∃ u, exec (.fatalError cause ea) s = .next u ∧
    u = { s with dmem := u.dmem, free := u.free, plat := { s.plat with state := 3, msis := s.plat.msis ++ [0], pclog := s.plat.pclog ++ [.fatal cause.toNat ea.toNat] } } ∧
    (let d := 0x59582F0000
     memNat u.dmem d 8 = 0x3130504D55445A4F ∧ memNat u.dmem (d + 8) 8 = s.time % 2 ^ 64 ∧ memNat u.dmem (d + 16) 4 = cause.toNat ∧ memNat u.dmem (d + 20) 2 = ea.toNat ∧
     memNat u.dmem (d + 22) 2 = 1 ∧ memNat u.dmem (d + 24) 8 = s.plat.boots.toNat ∧ memNat u.dmem (d + 32) 4 = 1) ∧
    ∀ k, (k < 0x59582F0000 ∨ 0x59682F0000 ≤ k) → memByte u.dmem k = memByte s.dmem k) ∧
  (∀ (s : State) (fw : Firmware), ∃ u, exec (.deviceReset fw) s = .next u ∧
    (u.plat.state = if firmwareOk fw then 2 else 4) ∧ u.plat.boots = s.plat.boots + 1 ∧ u.plat.unloads = s.plat.unloads ∧ Claims.Replanned fw s.plat u.plat ∧
    (firmwareOk fw = true → u.plat.meas = digestLine (sha512 (lineBytes 0 ++ sha512 fw.image))) ∧ u.time = s.time ∧
    u.elems = [] ∧ u.dmem = [] ∧ u.spad = [] ∧ u.lram = [] ∧ u.sqs = [] ∧ u.parts = [] ∧ u.queues = [] ∧ u.tasks = [] ∧ u.launches = [] ∧ u.engines = [] ∧
    u.barriers = [] ∧ u.channels = [] ∧ u.links = [] ∧ u.frames = [] ∧
    (tabRising none s.sites = true → ∀ n : SiteNo, ∃ r : Bool, u.site n = { (s.site n).cleared with retiredTile := r } ∧
      ((s.site n).retiredTile = true → r = true) ∧ (firmwareOk fw = false → r = (s.site n).retiredTile))) ∧
  (∀ (s : State) (fw : Firmware),
    (s.plat.state ≠ 4 ∨ firmwareOk fw = false → exec (.signedRecoveryImage fw) s = .next s) ∧
    (s.plat.state = 4 → firmwareOk fw = true → ∃ u, exec (.signedRecoveryImage fw) s = .next u ∧
      u = { s with sites := u.sites, free := u.free, plat := u.plat } ∧ u.plat.state = 2 ∧ u.plat.msis = s.plat.msis ++ [0] ∧ Claims.Replanned fw s.plat u.plat ∧
      u.plat.meas = digestLine (sha512 (lineBytes 0 ++ sha512 fw.image))))

/-- R309 and the rules of its operations (R106, R119, R180, R222, R248, R256, R260, R273, R310, R313, R314): each mailbox operation's status, what it does when
that is 0, and that it does nothing else. -/
def Obligations.MailboxOperations : Prop :=
  ∀ (s : State) (n : BitVec 8), s.plat.mbox = [] →
    let p := s.part n.toNat
    let refuses := Claims.refusedWith s
    let does := fun (i : Instr) (op : Nat) (u : State) => exec i s = .next (Claims.served u op 0)
    let part := fun (i : Instr) (op : Nat) (p' : Part) => does i op (s.setPart n.toNat p')
    -- barriers
    (∀ (o : BitVec 12) (cfg : Word),
      let b := s.barrier o.toNat
      (cfg.toNat % 2 ^ 24 = 0 → refuses (.barrierAllocate n o cfg) 1 1) ∧
      (cfg.toNat % 2 ^ 24 ≠ 0 → b.en = true → refuses (.barrierAllocate n o cfg) 1 3) ∧
      (cfg.toNat % 2 ^ 24 ≠ 0 → b.en = false → does (.barrierAllocate n o cfg) 1 (s.setBarrier o.toNat
        { Barrier.reset with exp := BitVec.ofNat 24 cfg.toNat, evt := cfg.getLsbD 24, evsq := BitVec.ofNat 6 (cfg.toNat / 2 ^ 25), en := true, part := n })) ∧
      (b.en = false → refuses (.barrierFree n o) 2 1) ∧ (b.en = true → b.part ≠ n → refuses (.barrierFree n o) 2 2) ∧
      (b.en = true → b.part = n → does (.barrierFree n o) 2 (s.setBarrier o.toNat Barrier.reset))) ∧
    -- keys, reports
    (∀ (k : DWord) (m : BitVec 4096),
      let others := p.keys.filter (fun e => decide (e.1 ≠ k))
      (16 ≤ others.length → refuses (.keyEnrol n k m) 3 3) ∧ (others.length < 16 → part (.keyEnrol n k m) 3 { p with keys := others ++ [(k, m)] }) ∧
      ((∀ e ∈ p.keys, e.1 ≠ k) → refuses (.keyRevoke n k) 4 1) ∧ ((∃ e ∈ p.keys, e.1 = k) → part (.keyRevoke n k) 4 { p with keys := others })) ∧
    (∀ nonce : Line, ∃ body : List Byte, does (.attestationReport n nonce) 5 { s with plat := { s.plat with reports := s.plat.reports ++ [body ++ Config.signature body] } } ∧
      body.take 64 = natToBytes 64 nonce.toNat ∧ (body.drop 77).take 8 = natToBytes 8 s.plat.boots.toNat ∧ (body.drop 85).take 64 = natToBytes 64 s.plat.meas.toNat) ∧
    (∀ (b : BitVec 6) (m g : BitVec 4096),
      let good := fusedKey m && rsaVerifies m.toNat 65537 g.toNat (sha512 [BitVec.ofNat 8 b.toNat])
      exec (.debugAuthorisation b m g) s = .next (if good then Claims.served { s with plat := { s.plat with debugOk := some b } } 6 0 else Claims.served s 6 2)) ∧
    (∀ (i : BitVec 6) (a : Aperture),
      let good := a.base.toNat + a.len.toNat ≤ 2 ^ 57 ∧ a.remoteBase.toNat + a.len.toNat ≤ 2 ^ 57 ∧ a.rank.toNat < 576
      (good → part (.peerApertureGrant n i a) 7 { p with apertures := tabSet p.apertures i.toNat (some a) none }) ∧ (¬ good → refuses (.peerApertureGrant n i a) 7 1)) ∧
    (∃ data : List Byte, does .telemetrySnapshot 8 { s with free := s.free + 48, plat := { s.plat with answers := s.plat.answers ++ [.data data] } } ∧
      bytesToNat (data.take 4) = s.plat.capw.toNat + 2 ^ 16 * s.plat.noww.toNat + (if s.plat.limited then 2 ^ 28 else 0)) ∧
    -- sequencers
    (∀ (blk : Option (BitVec 6)) (pc : DWord),
      let named := Claims.named s n blk
      let entry := pc.toNat % 4 = 0 ∧ pc.toNat < 2 ^ 57
      (¬ entry → refuses (.sqStart n blk pc) 9 1) ∧ (entry → (∀ b, ¬ named b) → refuses (.sqStart n blk pc) 9 2) ∧
      (entry → (∃ b, named b ∧ (s.sq b).failed = true) → refuses (.sqStart n blk pc) 9 3) ∧
      (entry → (∃ b, named b) → (∀ b, named b → (s.sq b).failed = false ∧ (s.sq b).evHeld = []) → tabRising none s.sqs = true → ∃ u : State, does (.sqStart n blk pc) 9 u ∧
        u = { s with sqs := u.sqs } ∧ (∀ b, ¬ named b → u.sq b = s.sq b) ∧
        ∀ b, named b → u.sq b = { s.sq b with run := true, pc := pc, priv := true, ie := false, ppl := false, pie := false, divz := false, icache := [], hold := none
                                              within := false, part := n }) ∧
      ((∀ b, ¬ named b) → refuses (.sqHalt n blk) 10 2) ∧
      ((∃ b, named b) → (∀ b, named b → (s.sq b).arrival = none ∧ (s.sq b).pend = []) → tabRising none s.sqs = true → tabRising none s.ports = true → ∃ u : State, does (.sqHalt n blk) 10 u ∧
        u = { s with sqs := u.sqs, ports := u.ports } ∧ (∀ b, ¬ named b → u.sq b = s.sq b) ∧
        (∀ b, named b → u.sq b = { Sq.reset with evSeq := (s.sq b).evSeq, evHeld := (s.sq b).evHeld, failed := (s.sq b).failed }) ∧
        (∀ ea b, named b → (s.port ea).owner = 2 + b.toNat → u.port ea = CfgPort.reset) ∧
        ∀ ea, (∀ b, named b → (s.port ea).owner ≠ 2 + b.toNat) → u.port ea = s.port ea)) ∧
    -- engine queues
    (∀ (b : BitVec 6) (q : BitVec 4) (ctl rbase cw : DWord),
      let e := s.engine b q
      let r := Claims.field ctl 3 4
      let mine := b.toNat ∈ p.blocks
      let fits := r < 9 ∧ rbase.toNat % (64 * 2 ^ (r + 4)) = 0 ∧ cw.toNat % 8 = 0
      (¬ mine ∨ fits ∧ e.appn ≠ e.donen → refuses (.queueDescriptorWrite n b q ctl rbase cw) 11 2) ∧ (mine → ¬ fits → refuses (.queueDescriptorWrite n b q ctl rbase cw) 11 1) ∧
      (mine → fits → e.appn = e.donen → does (.queueDescriptorWrite n b q ctl rbase cw) 11 (s.setEngine b q
        { e with en := ctl.getLsbD 0, eng := BitVec.ofNat 2 (Claims.field ctl 1 2), rsz := BitVec.ofNat 4 r, rbase := rbase, cwaddr := cw
                 appn := if ctl.getLsbD 0 then 0 else e.appn, donen := if ctl.getLsbD 0 then 0 else e.donen })) ∧
      (¬ mine → refuses (.queueDescriptorRead n b q) 11 2) ∧
      (mine → does (.queueDescriptorRead n b q) 11 { s with plat := { s.plat with reports := s.plat.reports ++
        [natToBytes 8 ((if e.en then 1 else 0) + 2 * e.eng.toNat + 8 * e.rsz.toNat) ++ natToBytes 8 e.rbase.toNat ++ natToBytes 8 e.cwaddr.toNat
          ++ natToBytes 4 e.appn.toNat ++ natToBytes 4 e.donen.toNat] } })) ∧
    -- frames
    (∀ (pa : BitVec 52) (k : Nat),
      let f := pa.toNat / 2 ^ 21
      let owner := fun (j : Nat) => tabGet s.frames j 0
      let fits := pa.toNat % 2 ^ 21 = 0 ∧ 0 < k
      let set := fun (i : Instr) (v : Nat) (m : Memory → Prop) => ∃ u : State, does i 12 u ∧ u = { s with frames := u.frames, dmem := u.dmem } ∧ m u.dmem ∧
        ∀ j, tabGet u.frames j 0 = if f ≤ j ∧ j < f + k then v else owner j
      let grantable := ∀ j, f ≤ j → j < f + k → frameGrantable s j = true
      let unowned := ∀ j, f ≤ j → j < f + k → owner j = 0 ∨ owner j = n.toNat + 1
      let owned := ∀ j, f ≤ j → j < f + k → owner j = n.toNat + 1
      (¬ fits → refuses (.frameGrant n pa k) 12 1 ∧ (k = 0 → refuses (.frameReclaim n pa k) 12 1)) ∧
      (fits → ¬ grantable → refuses (.frameGrant n pa k) 12 2) ∧ (fits → grantable → ¬ unowned → refuses (.frameGrant n pa k) 12 3) ∧
      (fits → grantable → unowned → tabRising none s.frames = true → set (.frameGrant n pa k) (n.toNat + 1) (fun m => m = s.dmem)) ∧
      (fits → sealedAt s pa.toNat (k * 2 ^ 21) = false → ¬ owned → refuses (.frameReclaim n pa k) 12 2) ∧
      (fits → sealedAt s pa.toNat (k * 2 ^ 21) = false → owned → tabRising none s.frames = true → memWf s.dmem = true → set (.frameReclaim n pa k) 0
        (fun m => ∀ a, memByte m a = if f ≤ a / 2 ^ 21 ∧ a / 2 ^ 21 < f + k then 0 else memByte s.dmem a)) ∧
      (fits → sealedAt s pa.toNat (k * 2 ^ 21) = true → exec (.frameReclaim n pa k) s = .next (Claims.served (s.log (.firmwareRefused pa.toNat)) 12 2))) ∧
    -- trace ring, monitor channels
    (∀ (ring cb : DWord) (k : BitVec 5),
      let good := 8 ≤ k.toNat ∧ k.toNat ≤ 24 ∧ cb.toNat % 64 = 0 ∧ ring.toNat % 4096 = 0
      let base := fun (a z : Nat) => contiguous s n.toNat a z
      (¬ good → refuses (.traceRingSet n ring k cb) 13 1) ∧
      (good → base ring.toNat (16 * 2 ^ k.toNat) = none ∨ base cb.toNat 64 = none → refuses (.traceRingSet n ring k cb) 13 3) ∧
      (∀ x l y m, good → base ring.toNat (16 * 2 ^ k.toNat) = some (x, l) → base cb.toNat 64 = some (y, m) →
        (x % (16 * 2 ^ k.toNat) ≠ 0 → refuses (.traceRingSet n ring k cb) 13 3) ∧
        (x % (16 * 2 ^ k.toNat) = 0 → ∃ u : State, does (.traceRingSet n ring k cb) 13 u ∧
          u = { s.setPart n.toNat { p with ptrace := BitVec.ofNat 64 (1 + 2 * k.toNat + x), ptrcb := BitVec.ofNat 64 y } with dmem := u.dmem })) ∧
      part (.traceRingClear n) 13 { p with ptrace := 0, ptrcb := 0 }) ∧
    (∀ c : BitVec 16, tabRising none s.channels = true → let ch := s.channel c.toNat
      (c.toNat < 0x8000 → refuses (.monitorChannelAssign n c []) 14 1) ∧
      (0x8000 ≤ c.toNat → crossMonitor ch = [] → ch.en = true → ch.part ≠ n → refuses (.monitorChannelAssign n c []) 14 2) ∧
      -- a stream-port channel watches device memory: SPACE reads 1
      (0x8000 ≤ c.toNat → crossMonitor ch = [] → ch.en = false ∨ ch.part = n →
        let ch' := { ch with part := n, cfg := ch.cfg ||| 2 }
        does (.monitorChannelAssign n c []) 14 { s.setChannel c.toNat ch' with
          plat := { s.plat with reports := s.plat.reports ++ [(List.range 32).flatMap (fun i => natToBytes 4 (ch'.read i).toNat)] } }))

namespace Sys2Proof.Claims

/-! ## Steps, words, reset and the form of the machine's tables -/

/-- Move m is the next that s lists, an operator still to run in this fc or the coming move, and is taken in u; the device accepts moves (R230, R313). -/
def Next (s : State) (m : Move) (u : State) : Prop :=
  s.plat.state ≠ 3 ∧ s.plat.state ≠ 4 ∧
  ((∃ rest, s.burst = m :: rest ∧ u = { s with burst := rest }) ∨
    (∃ rest, s.burst = [] ∧ s.agenda = m :: rest ∧ u = { s with agenda := rest, time := s.time + s.elapse.headD 1, elapse := s.elapse.tail }))

/-- Device memory, the tiles' banks and the local data RAMs are in canonical form. -/
def Memories (s : State) : Prop := memWf s.dmem = true ∧ memWf s.spad = true ∧ memWf s.lram = true

/-- Keys of the tables of an element context rise. -/
def elemTables (e : ElemCtx) : Bool :=
  tabRising none e.bank && e.shadow.all (tabRising none) && tabRising none e.k && tabRising none e.ops && tabRising none e.ii &&
    e.pass.all (fun p => tabRising none p.ports)

/-- Keys of the tables of a site's registers rise. -/
def siteTables (r : Site) : Bool :=
  tabRising none r.credit && tabRising none r.ecnt && tabRising none r.ax.retired && tabRising none r.ax.parity && tabRising none r.ax.pipes &&
    tabRising none r.ax.errs

/-- Keys of the machine's tables rise. -/
def Tables (s : State) : Prop :=
  (tabRising none s.sites = true ∧ tabRising none s.elems = true ∧ tabRising none s.ports = true ∧ tabRising none s.ws = true ∧ tabRising none s.acs = true ∧
    tabRising none s.frames = true ∧ tabRising none s.sqs = true ∧ tabRising none s.parts = true ∧ tabRising none s.queues = true ∧
    tabRising none s.engines = true ∧ tabRising none s.barriers = true ∧ tabRising none s.mboxes = true ∧ tabRising none s.channels = true ∧
    tabRising none s.links = true) ∧
  (∀ p ∈ s.sites, siteTables p.2 = true) ∧ (∀ p ∈ s.elems, elemTables p.2 = true) ∧
  ∀ t ∈ s.tasks, (∀ v ∈ t.saved, elemTables v.ctx = true) ∧ ∀ p ∈ t.image, tabRising none p.2 = true

end Sys2Proof.Claims

/-- A step runs the decoded instruction of its move: the word at a sequencer's pc, from the instruction cache or fetched under EX (R103, R106), an
undefined word, a failed fetch or an event interrupt as their traps (R239, R303), the loader's whole command (R276, R335), an engine's head command
(R178), the word of a stage, slot or node (R289), an event. What is listed as the next move, and that a listed move takes 1 fc or as many as listed,
is the model's choice (log entry 20). -/
def Obligations.StepRunsInstruction : Prop :=
  ∀ (s u : State) (m : Move), Claims.Next s m u →
    let runs := fun (t : State) (i : Instr) => step s = exec i { t with focus := m.focus }
    let rests := fun (t : State) => step s = .next { t with focus := m.focus }
    (∀ b, m = .sq b →
      let q := u.sq b
      let read := fun (t : State) (w : Word) => (∀ i, decodeSq w = .ok i → runs t i) ∧ ∀ e, decodeSq w = .error e → runs t .illegalInstruction
      let x := translate u q.tlb q.part.toNat q.pc.toNat fetchIntent
      let filled := x.1.modSq b (fun q => { q with tlb := x.2.1 })
      (q.run = false → rests u) ∧
      (interruptible u b = true → runs u .eventInterrupt) ∧
      (q.run = true → q.hold = none → interruptible u b = false →
        (∀ w, icacheGet q.icache q.pc.toNat = some w → read u w) ∧
        (icacheGet q.icache q.pc.toNat = none →
          (∀ y, x.2.2 = .ok y →
            let w := BitVec.ofNat 32 (memNat x.1.dmem y.pa 4)
            read ((touch filled y.pa 4).modSq b (fun r => { r with icache := icacheAdd r.icache q.pc.toNat w })) w) ∧
          (x.2.2 = .wait → rests filled) ∧
          (∀ r, x.2.2 = .fail r → r ≠ 1 → runs filled (.instructionFetchFault (fetchSub r) 0))))) ∧
    (∀ b w vs i, m = .loader b → (u.sq b).run = true → (u.sq b).lfault = none → (u.sq b).opened = w :: vs → commandLength w ≤ vs.length →
      decodeCommand w vs = .ok i → runs u i) ∧
    (∀ b q t c i, m = .engine b q → engReady u b q = true → (u.engine b q).fault = none → tabRising none u.engines = true →
      engCommand (countStall u b q 0) b q (partOfBlock u b.toNat) = (t, .ok c) → decodeEngine (u.engine b q).eng c = some i → runs t i) ∧
    (∀ ea c p i, m = .stage ea c → (u.elem ea c).pass = some p → (u.elem ea c).stopped = false → (u.elem ea c).captured = false →
      (u.elem ea c).stageOn p.stage = true → decodeOp ((u.elem ea c).stageWord p.stage) = .ok i → runs u i) ∧
    (∀ ea c n i, m = .slot ea c n → (u.elem ea c).slotOn n = true → decodeOp ((u.elem ea c).slotWord n) = .ok i → runs u i) ∧
    (∀ ea c n i, m = .agn ea c n → heldSource u m = false → bitSet ((u.elem ea c).agnb n) 6 = true → decodeOp ((u.elem ea c).agnWord n) = .ok i → runs u i) ∧
    (∀ f i, m = .event f i → runs u i)

/-- Words written out from Tables 12-4, 12-5, 13-1, 13-6 to 13-11, and the instructions that they stand for. -/
def Obligations.DecodedWords : Prop :=
  (decodeSq 0x3C611000#32 = .ok (.addSequencer 3 1 2) ∧ decodeSq 0x04A0FFFF#32 = .ok (.addi 5 0 0xFFFF) ∧ decodeSq 0x50820010#32 = .ok (.lw 4 2 16) ∧
    decodeSq 0x8020FFFE#32 = .ok (.beq 1 0 0xFFFE) ∧ decodeSq 0x9C1F0000#32 = .ok (.jr 0 31 0) ∧ decodeSq 0xA8622000#32 = .ok (.amcas 3 2 4) ∧
    decodeSq 0xC8241003#32 = .ok (.crc 1 4 2 3) ∧ decodeSq 0xC00000A2#32 = .ok (.fen 2) ∧ decodeSq 0xC0000060#32 = .ok .eret ∧
    decodeSq 0xC0E02800#32 = .ok (.mfs 7 5) ∧ decodeSq 0xC0040020#32 = .ok (.mts 4 0) ∧ decodeSq 0xC4620080#32 = .ok (.qappEngine 3 2 0) ∧
    decodeSq 0xC4620081#32 = .ok (.qappWork 3 2 0) ∧ decodeSq 0x04000000#32 = .ok (.addi 0 0 0)) ∧
  (decodeSq 0#32 = .error .allZero ∧ decodeSq 0xC00000A6#32 = .error .reservedField ∧ decodeSq 0x28000000#32 = .error .undefined) ∧
  (decodeOp 0x0028180000000003#64 = .ok (.addFabric { fmt := 5, rnd := 0, sat := 0, sa := 0, sb := 6, sc := 0, dst := 0, kidx := 0, pg := 0, imm := 3 }) ∧
    decodeOp 0x215A180100003FC0#64 = .ok (.fmul { fmt := 11, rnd := 1, sat := 0, sa := 0, sb := 6, sc := 0, dst := 0, kidx := 0, pg := 1, imm := 0x3FC0 }) ∧
    decodeOp 0x0998040000000002#64 = .ok (.cmp { fmt := 3, rnd := 0, sat := 0, sa := 0, sb := 1, sc := 0, dst := 0, kidx := 0, pg := 0, imm := 2 }) ∧
    decodeOp 0xA2E0047000000007#64 = .ok (.atom { fmt := 12, rnd := 0, sat := 0, sa := 0, sb := 1, sc := 0, dst := 7, kidx := 0, pg := 0, imm := 7 }) ∧
    decodeOp 0xFF80000000000000#64 = .error .reservedOperator) ∧
  (decodeCommand 0x54E60002#32 [7, 8] = .ok (.writeShadow 1 0x4E60 0 [7, 8]) ∧ commandLength 0x54E60002#32 = 2 ∧
    decodeCommand 0xD4E60081#32 [9] = .ok (.check 1 0x4E60 9) ∧ decodeCommand 0xD4E60001#32 [0] = .ok (.swap 1 0x4E60 0) ∧
    decodeCommand 0xD4E60041#32 [0] = .ok (.discard 1 0x4E60 0) ∧ decodeCommand 0xD4E600C1#32 [0] = .error .badCommand)

/-- R104, R106, R80 and the reset columns of Tables 3-1 to 3-3, 3-9, 3-10, 6-1, 7-1, 7-2, 8-2, 9-3, 10-8, 14-2 and 14-3: the machine after reset.
Its memories and tables are in their form. -/
def Obligations.ResetState : Prop :=
  let s := State.reset
  (Claims.Memories s ∧ Claims.Tables s) ∧
  (∀ b : BitVec 6, let q := s.sq b
    q.run = false ∧ q.pc = 0 ∧ (∀ r, q.getG r = 0) ∧ q.priv = true ∧ q.ie = false ∧ q.ppl = false ∧ q.pie = false ∧ q.divz = false ∧ q.cause = 0 ∧
    q.epc = 0 ∧ q.tvec = 0 ∧ q.scratch = 0 ∧ q.evBase = 0 ∧ q.evTail = 0 ∧ q.evHead = 0 ∧ q.part = 0 ∧ q.tskq = 0 ∧ q.cfgstatWord = 0) ∧
  (∀ q : BitVec 12, (s.queue q).en = false ∧ (s.queue q).halt = false ∧ (s.queue q).hcode = 0 ∧ (s.queue q).acc = 0) ∧
  (∀ o, (s.barrier o).exp = 1 ∧ (s.barrier o).en = false ∧ (s.barrier o).phase = 0 ∧ (s.barrier o).arr = 0) ∧
  (s.plat.state = 1 ∧ s.plat.capw = 0x7D0 ∧ s.plat.synclost = false) ∧
  (∀ (ea : EAddr) (c : BitVec 2),
    (kindOf ea = some .ct → readField s ea c 19 = 1 ∧ readField s ea c 44 = 0x40000 ∧ ∀ n, (s.elem ea c).getK n = Token.zero) ∧
    (kindOf ea = some .mt → readField s ea c 45 = 0x12) ∧
    (kindOf ea = some .router → readField s ea c 44 = 0xACE14800 ∧ ∀ f, 48 ≤ f → f < 56 → readField s ea c f = 0x00800001) ∧
    (kindOf ea = some .monitor → readField s ea c 1 = 0xF6B) ∧
    (kindOf ea = some .parity → readField s ea c 0 = 0x402B ∧ ∀ f, 1 ≤ f → f < 5 → readField s ea c f = 0x3F))

/-- R288, R298 to R302 and R276: decoding what an operator, a sequencer instruction or a configuration command is encoded as gives it back with every
operand, and bytes that decode are the encoding of what they decode to. -/
def Obligations.DecodeEncode : Prop :=
  (∀ i : Instr, encode i ≠ [] → decode (encode i) = .ok i) ∧
  (∀ (l : List Byte) (i : Instr), decode l = .ok i → encode i = l) ∧
  (∀ (i : Instr) (w : Word) (vs : List Word), i.wellFormed = true → encodeCommand i = w :: vs → decodeCommand w vs = .ok i ∧ commandLength w = vs.length)

/-- Every step keeps device memory, the tiles' banks and the local data RAMs in canonical form: addresses rise strictly and no entry holds what an
unlisted address reads as, so that equal memories are equal data. The form is the model's (log entry 3). -/
def Obligations.StepKeepsMemories : Prop :=
  ∀ s t : State, Claims.Memories s → step s = .next t → Claims.Memories t

/-- Every step keeps the keys of the machine's tables rising, so that each register, queue and object has one value: the premise of the statements about
single registers. The form is the model's. -/
def Obligations.StepKeepsTables : Prop :=
  ∀ s t : State, Claims.Tables s → step s = .next t → Claims.Tables t
end

