-- ==== Sys2Proof/Laws/Memory.lean ====
section
/-! SUPPORT. Laws/Memory.lean: sparse tables and byte memories. Every operation keeps the canonical form, a read after a write gives what
was written, and a write leaves every other place alone. -/

namespace Sys2Proof.Machine

variable {α : Type}

/-! ## Tables -/

/-- Keys that rise above `lo` rise above anything below `lo`, and with no bound at all. -/
theorem tabRising_weaken {t : Tab α} {lo lo' : Nat} (h : tabRising (some lo) t = true) (hl : lo' ≤ lo) : tabRising (some lo') t = true := by
  cases t with
  | nil => rfl
  | cons p t =>
    simp only [tabRising, Bool.and_eq_true, decide_eq_true_eq] at h ⊢
    exact ⟨by omega, h.2⟩

theorem tabRising_none {t : Tab α} {lo : Nat} (h : tabRising (some lo) t = true) : tabRising none t = true := by
  cases t with
  | nil => rfl
  | cons p t => simp only [tabRising, Bool.and_eq_true] at h ⊢; exact h.2

/-- A key at or below the bound of a rising table is not listed. -/
theorem tabGet_below {t : Tab α} {lo k : Nat} {d : α} (h : tabRising (some lo) t = true) (hk : k ≤ lo) : tabGet t k d = d := by
  cases t with
  | nil => rfl
  | cons p t =>
    simp only [tabRising, Bool.and_eq_true, decide_eq_true_eq] at h
    rw [tabGet, if_neg (by omega), if_pos (by omega)]

variable [DecidableEq α]

/-- Setting a key above the bound keeps the keys rising above it. -/
theorem tabSet_rising {t : Tab α} {lo k : Nat} {v d : α} (h : tabRising (some lo) t = true) (hk : lo < k) :
    tabRising (some lo) (tabSet t k v d) = true := by
  induction t generalizing lo with
  | nil => unfold tabSet; split <;> simp [tabRising, hk]
  | cons p t ih =>
    obtain ⟨k', v'⟩ := p
    have h' := h
    simp only [tabRising, Bool.and_eq_true, decide_eq_true_eq] at h
    unfold tabSet
    split
    · split
      · exact h'
      · simp only [tabRising, Bool.and_eq_true, decide_eq_true_eq]; exact ⟨hk, ‹_›, h.2⟩
    · split
      · split
        · exact tabRising_weaken h.2 (by omega)
        · simp only [tabRising, Bool.and_eq_true, decide_eq_true_eq]; subst_vars; exact ⟨hk, h.2⟩
      · simp only [tabRising, Bool.and_eq_true, decide_eq_true_eq]; exact ⟨h.1, ih h.2 (by omega)⟩

theorem tabSet_risingNone {t : Tab α} {k : Nat} {v d : α} (h : tabRising none t = true) : tabRising none (tabSet t k v d) = true := by
  cases t with
  | nil => unfold tabSet; split <;> rfl
  | cons p t =>
    obtain ⟨k', v'⟩ := p
    have h' := h
    simp only [tabRising] at h
    unfold tabSet
    split
    · split
      · exact h'
      · simp only [tabRising, Bool.and_eq_true, decide_eq_true_eq]; exact ⟨‹_›, h⟩
    · split
      · split
        · exact tabRising_none h
        · subst_vars; exact h
      · simp only [tabRising]; exact tabSet_rising h (by omega)

/-- A set table lists no default if it listed none. -/
theorem tabSet_noDefault {t : Tab α} {k : Nat} {v d : α} (h : ∀ p ∈ t, p.2 ≠ d) : ∀ p ∈ tabSet t k v d, p.2 ≠ d := by
  induction t with
  | nil => intro p hp; unfold tabSet at hp; split at hp <;> simp_all
  | cons q t ih =>
    intro p hp
    obtain ⟨k', v'⟩ := q
    have ht : ∀ p ∈ t, p.2 ≠ d := fun p hp => h p (List.mem_cons_of_mem _ hp)
    unfold tabSet at hp
    split at hp
    · split at hp
      · exact h p hp
      · rcases List.mem_cons.1 hp with rfl | hp
        · assumption
        · exact h p hp
    · split at hp
      · split at hp
        · exact ht p hp
        · rcases List.mem_cons.1 hp with rfl | hp
          · assumption
          · exact ht p hp
      · rcases List.mem_cons.1 hp with rfl | hp
        · exact h _ (List.mem_cons_self ..)
        · exact ih ht p hp

theorem tabWf_iff {t : Tab α} {d : α} : tabWf t d = true ↔ tabRising none t = true ∧ ∀ p ∈ t, p.2 ≠ d := by
  simp [tabWf]

/-- Setting a key keeps the canonical form. -/
theorem tabSet_wf {t : Tab α} {k : Nat} {v d : α} (h : tabWf t d = true) : tabWf (tabSet t k v d) d = true := by
  rw [tabWf_iff] at h ⊢
  exact ⟨tabSet_risingNone h.1, tabSet_noDefault h.2⟩

theorem tabMod_wf {t : Tab α} {k : Nat} {d : α} {f : α → α} (h : tabWf t d = true) : tabWf (tabMod t k d f) d = true := tabSet_wf h

/-- A key reads as what was set. -/
theorem tabGet_tabSet_same {t : Tab α} {k : Nat} {v d : α} (h : tabRising none t = true) : tabGet (tabSet t k v d) k d = v := by
  have go : ∀ (t : Tab α) (lo : Nat), tabRising (some lo) t = true → tabGet (tabSet t k v d) k d = v := by
    intro t
    induction t with
    | nil => intro lo _; unfold tabSet; split <;> simp_all [tabGet]
    | cons p t ih =>
      intro lo h
      obtain ⟨k', v'⟩ := p
      simp only [tabRising, Bool.and_eq_true, decide_eq_true_eq] at h
      unfold tabSet
      split
      · split
        · rw [tabGet, if_neg (by omega), if_pos (by omega)]; exact Eq.symm ‹_›
        · simp [tabGet]
      · split
        · split
          · subst_vars; exact tabGet_below h.2 (Nat.le_refl _)
          · simp [tabGet]
        · rw [tabGet, if_neg (by omega), if_neg (by omega)]; exact ih k' h.2
  cases t with
  | nil => unfold tabSet; split <;> simp_all [tabGet]
  | cons p t =>
    obtain ⟨k', v'⟩ := p
    simp only [tabRising] at h
    unfold tabSet
    split
    · split
      · rw [tabGet, if_neg (by omega), if_pos (by omega)]; exact Eq.symm ‹_›
      · simp [tabGet]
    · split
      · split
        · subst_vars; exact tabGet_below h (Nat.le_refl _)
        · simp [tabGet]
      · rw [tabGet, if_neg (by omega), if_neg (by omega)]; exact go t k' h

/-- Every other key reads as before. -/
theorem tabGet_tabSet_other {t : Tab α} {k k' : Nat} {v d : α} (h : tabRising none t = true) (hk : k' ≠ k) :
    tabGet (tabSet t k v d) k' d = tabGet t k' d := by
  have step : ∀ (p : Nat × α) (t : Tab α), tabRising (some p.1) t = true →
      (tabGet (tabSet t k v d) k' d = tabGet t k' d) → tabGet (tabSet (p :: t) k v d) k' d = tabGet (p :: t) k' d := by
    intro p t h ih
    obtain ⟨a, x⟩ := p
    unfold tabSet
    split
    · split
      · rfl
      · by_cases hlt : k' < k
        · rw [tabGet, if_neg hk, if_pos hlt, tabGet, if_neg (by omega), if_pos (by omega)]
        · rw [tabGet, if_neg hk, if_neg hlt]
    · split
      · subst_vars
        split
        · by_cases hlt : k' < a
          · rw [tabGet_below h (by omega), tabGet, if_neg hk, if_pos hlt]
          · rw [tabGet, if_neg hk, if_neg hlt]
        · simp [tabGet, hk]
      · simp only [tabGet]; rw [ih]
  have go : ∀ (t : Tab α) (lo : Nat), tabRising (some lo) t = true → tabGet (tabSet t k v d) k' d = tabGet t k' d := by
    intro t
    induction t with
    | nil => intro lo _; unfold tabSet; split <;> simp [tabGet, hk]
    | cons p t ih =>
      intro lo h
      simp only [tabRising, Bool.and_eq_true] at h
      exact step p t h.2 (ih p.1 h.2)
  cases t with
  | nil => unfold tabSet; split <;> simp [tabGet, hk]
  | cons p t => exact step p t h (go t p.1 h)

/-! ## Bytes of memory -/

theorem memWf_rising {m : Memory} (h : memWf m = true) : tabRising none m = true := (tabWf_iff.1 h).1

theorem memSetByte_wf {m : Memory} {a : Nat} {b : Byte} (h : memWf m = true) : memWf (memSetByte m a b) = true := tabSet_wf h

/-- A byte reads as what was stored. -/
theorem memByte_memSetByte_same {m : Memory} {a : Nat} {b : Byte} (h : memWf m = true) : memByte (memSetByte m a b) a = b :=
  tabGet_tabSet_same (memWf_rising h)

/-- A store of one byte leaves every other byte. -/
theorem memByte_memSetByte_other {m : Memory} {a a' : Nat} {b : Byte} (h : memWf m = true) (ha : a' ≠ a) :
    memByte (memSetByte m a b) a' = memByte m a' := tabGet_tabSet_other (memWf_rising h) ha

theorem memSetBytes_wf {m : Memory} {a : Nat} {l : List Byte} (h : memWf m = true) : memWf (memSetBytes m a l) = true := by
  induction l generalizing m a with
  | nil => exact h
  | cons b t ih => exact ih (memSetByte_wf h)

/-- A store of bytes leaves the bytes outside. -/
theorem memByte_memSetBytes_outside {m : Memory} {a a' : Nat} {l : List Byte} (h : memWf m = true) (ha : a' < a ∨ a + l.length ≤ a') :
    memByte (memSetBytes m a l) a' = memByte m a' := by
  induction l generalizing m a with
  | nil => rfl
  | cons b t ih =>
    rw [List.length_cons] at ha
    rw [memSetBytes, ih (memSetByte_wf h) (by omega), memByte_memSetByte_other h (by omega)]

/-- A byte stored reads back. -/
theorem memByte_memSetBytes_inside {m : Memory} {a i : Nat} {l : List Byte} (h : memWf m = true) (hi : i < l.length) :
    memByte (memSetBytes m a l) (a + i) = l[i] := by
  induction l generalizing m a i with
  | nil => simp at hi
  | cons b t ih =>
    cases i with
    | zero =>
      rw [memSetBytes, memByte_memSetBytes_outside (memSetByte_wf h) (by omega)]
      exact memByte_memSetByte_same h
    | succ i =>
      have := ih (a := a + 1) (memSetByte_wf (a := a) (b := b) h) (i := i) (by simpa using hi)
      rw [memSetBytes, ← Nat.add_assoc, Nat.add_right_comm, this]; rfl

/-- What was stored reads back. -/
theorem memBytes_memSetBytes {m : Memory} {a : Nat} {l : List Byte} (h : memWf m = true) : memBytes (memSetBytes m a l) a l.length = l := by
  induction l generalizing m a with
  | nil => rfl
  | cons b t ih =>
    rw [memSetBytes, List.length_cons, memBytes, ih (memSetByte_wf h), memByte_memSetBytes_outside (memSetByte_wf h) (by omega),
      memByte_memSetByte_same h]

/-- Bytes outside a store read as before. -/
theorem memBytes_memSetBytes_outside {m : Memory} {a a' n : Nat} {l : List Byte} (h : memWf m = true)
    (ha : a' + n ≤ a ∨ a + l.length ≤ a') : memBytes (memSetBytes m a l) a' n = memBytes m a' n := by
  induction n generalizing a' with
  | zero => rfl
  | succ n ih =>
    rw [memBytes, memBytes, memByte_memSetBytes_outside h (by omega), ih (by omega)]

theorem memSetMasked_wf {m : Memory} {a mask : Nat} {l : List Byte} (h : memWf m = true) : memWf (memSetMasked m a mask l) = true := by
  induction l generalizing m a mask with
  | nil => exact h
  | cons b t ih => unfold memSetMasked; apply ih; split <;> [exact memSetByte_wf h; exact h]

/-- A masked store leaves the bytes outside and those whose mask bit is 0. -/
theorem memByte_memSetMasked_outside {m : Memory} {a a' mask : Nat} {l : List Byte} (h : memWf m = true)
    (ha : a' < a ∨ a + l.length ≤ a' ∨ mask / 2 ^ (a' - a) % 2 = 0) : memByte (memSetMasked m a mask l) a' = memByte m a' := by
  induction l generalizing m a mask with
  | nil => rfl
  | cons b t ih =>
    rw [List.length_cons] at ha
    unfold memSetMasked
    have hw : memWf (if mask % 2 = 1 then memSetByte m a b else m) = true := by split <;> [exact memSetByte_wf h; exact h]
    have hb : (a' = a → mask % 2 ≠ 1) → memByte (if mask % 2 = 1 then memSetByte m a b else m) a' = memByte m a' := by
      intro hne
      split
      · exact memByte_memSetByte_other h (fun e => hne e ‹_›)
      · rfl
    by_cases e : a' = a
    · subst e
      rw [ih hw (by omega), hb (fun _ => by rcases ha with h1 | h1 | h1 <;> [omega; omega; (simp at h1; omega)])]
    · rw [ih hw, hb (fun h => absurd h e)]
      rcases ha with h1 | h1 | h1
      · omega
      · omega
      · by_cases hlt : a' < a
        · omega
        · right; right
          have : a' - a = (a' - (a + 1)) + 1 := by omega
          rw [this, Nat.pow_succ, Nat.mul_comm, ← Nat.div_div_eq_div_mul] at h1
          exact h1

theorem length_natToBytes (n x : Nat) : (natToBytes n x).length = n := by
  induction n generalizing x with
  | zero => rfl
  | succ n ih => rw [natToBytes, List.length_cons, ih]

theorem bytesToNat_natToBytes (n x : Nat) : bytesToNat (natToBytes n x) = x % 256 ^ n := by
  induction n generalizing x with
  | zero => rw [Nat.pow_zero, Nat.mod_one]; rfl
  | succ n ih =>
    have : 256 ^ (n + 1) = 256 * 256 ^ n := by rw [Nat.pow_succ, Nat.mul_comm]
    rw [natToBytes, bytesToNat, ih, BitVec.toNat_ofNat, this, Nat.mod_mul]

theorem memSetNat_wf {m : Memory} {a n x : Nat} (h : memWf m = true) : memWf (memSetNat m a n x) = true := memSetBytes_wf h

/-- A stored number reads back, truncated to its bytes. -/
theorem memNat_memSetNat {m : Memory} {a n x : Nat} (h : memWf m = true) : memNat (memSetNat m a n x) a n = x % 256 ^ n := by
  have := memBytes_memSetBytes (a := a) (l := natToBytes n x) h
  rw [length_natToBytes] at this
  rw [memNat, memSetNat, this, bytesToNat_natToBytes]

/-- A stored number leaves every byte outside. -/
theorem memByte_memSetNat_outside {m : Memory} {a n x a' : Nat} (h : memWf m = true) (ha : a' < a ∨ a + n ≤ a') :
    memByte (memSetNat m a n x) a' = memByte m a' :=
  memByte_memSetBytes_outside h (by rwa [length_natToBytes])

/-! ## The machine's tables and memories -/

/-- The memories of the machine after reset have the canonical form. -/
theorem reset_memories_wf : memWf State.reset.dmem = true ∧ memWf State.reset.spad = true ∧ memWf State.reset.lram = true := ⟨rfl, rfl, rfl⟩

theorem sq_setSq_same {s : State} {b : BitVec 6} {v : Sq} (h : tabRising none s.sqs = true) : (s.setSq b v).sq b = v := tabGet_tabSet_same h

theorem sq_setSq_other {s : State} {b c : BitVec 6} {v : Sq} (h : tabRising none s.sqs = true) (hc : c ≠ b) : (s.setSq b v).sq c = s.sq c :=
  tabGet_tabSet_other h (fun e => hc (BitVec.eq_of_toNat_eq e))

/-- g0 reads as zero (R103). -/
@[simp] theorem Sq.getG_zero (q : Sq) : q.getG 0 = 0 := rfl

/-- A written g register reads back, except g0. -/
theorem Sq.getG_setG_same {q : Sq} {r : BitVec 5} {v : DWord} (h : tabRising none q.g = true) (hr : r ≠ 0) : (q.setG r v).getG r = v := by
  simp only [Sq.setG, Sq.getG, if_neg hr]; exact tabGet_tabSet_same h

/-- A write of one g register leaves the others. -/
theorem Sq.getG_setG_other {q : Sq} {r c : BitVec 5} {v : DWord} (h : tabRising none q.g = true) (hc : c ≠ r) : (q.setG r v).getG c = q.getG c := by
  unfold Sq.setG
  split
  · rfl
  · simp only [Sq.getG]
    split
    · rfl
    · exact tabGet_tabSet_other h (fun e => hc (BitVec.eq_of_toNat_eq e))

/-- A write of g0 changes nothing (R103). -/
@[simp] theorem Sq.setG_zero (q : Sq) (v : DWord) : q.setG 0 v = q := rfl

end Sys2Proof.Machine
end

