-- ==== Sys2Proof/Laws/PerInstr.lean ====
section
/-! SUPPORT. Laws/PerInstr.lean: statements made for each instruction as syntax. -/

namespace Sys2Proof

/-- The bytes of an instruction: 8 of a fabric operator (R288), 4 of a sequencer instruction (R298), none of an event, command or host
operation; no instruction is both an operator and a sequencer instruction. -/
def Laws.Bytes.Statement (i : Instr) : Prop :=
  (encode i).length = (if i.operator.isSome then 8 else if (encodeSq i).isSome then 4 else 0) ∧ (i.operator.isSome && (encodeSq i).isSome) = false

theorem Laws.Bytes.deviceReset (fw : Firmware) : Laws.Bytes.Statement (.deviceReset fw) := ⟨rfl, rfl⟩
theorem Laws.Bytes.partitionReset (part : BitVec 8) : Laws.Bytes.Statement (.partitionReset part) := ⟨rfl, rfl⟩
theorem Laws.Bytes.fatalError (cause : BitVec 32) (ea : BitVec 16) : Laws.Bytes.Statement (.fatalError cause ea) := ⟨rfl, rfl⟩
theorem Laws.Bytes.queueEnable (q : BitVec 12) : Laws.Bytes.Statement (.queueEnable q) := ⟨rfl, rfl⟩
theorem Laws.Bytes.queueDisable (q : BitVec 12) : Laws.Bytes.Statement (.queueDisable q) := ⟨rfl, rfl⟩
theorem Laws.Bytes.doorbell (q : BitVec 12) (tail : BitVec 32) : Laws.Bytes.Statement (.doorbell q tail) := ⟨rfl, rfl⟩
theorem Laws.Bytes.cheadWrite (q : BitVec 12) (v : BitVec 32) : Laws.Bytes.Statement (.cheadWrite q v) := ⟨rfl, rfl⟩
theorem Laws.Bytes.recordAccept (q : BitVec 12) : Laws.Bytes.Statement (.recordAccept q) := ⟨rfl, rfl⟩
theorem Laws.Bytes.admission (part : BitVec 8) : Laws.Bytes.Statement (.admission part) := ⟨rfl, rfl⟩
theorem Laws.Bytes.swapOnMark (ea : BitVec 16) (ctx : BitVec 2) : Laws.Bytes.Statement (.swapOnMark ea ctx) := ⟨rfl, rfl⟩
theorem Laws.Bytes.faultRecordPost (part : BitVec 8) : Laws.Bytes.Statement (.faultRecordPost part) := ⟨rfl, rfl⟩
theorem Laws.Bytes.adaptWindow (site : BitVec 13) : Laws.Bytes.Statement (.adaptWindow site) := ⟨rfl, rfl⟩
theorem Laws.Bytes.ctxarbWrite (site : BitVec 13) (v : BitVec 32) : Laws.Bytes.Statement (.ctxarbWrite site v) := ⟨rfl, rfl⟩
theorem Laws.Bytes.tokenArrive (site : BitVec 13) (dir : BitVec 2) (ctx : BitVec 2) (ctl : Bool) : Laws.Bytes.Statement (.tokenArrive site dir ctx ctl) := ⟨rfl, rfl⟩
theorem Laws.Bytes.rtlogClear (site : BitVec 13) : Laws.Bytes.Statement (.rtlogClear site) := ⟨rfl, rfl⟩
theorem Laws.Bytes.flitReceive (link : BitVec 8) (flit : Flit) : Laws.Bytes.Statement (.flitReceive link flit) := ⟨rfl, rfl⟩
theorem Laws.Bytes.flitRetransmit (link : BitVec 8) : Laws.Bytes.Statement (.flitRetransmit link) := ⟨rfl, rfl⟩
theorem Laws.Bytes.portDown (port : BitVec 5) : Laws.Bytes.Statement (.portDown port) := ⟨rfl, rfl⟩
theorem Laws.Bytes.accessResult (site : BitVec 13) (ctx : BitVec 2) (agn : BitVec 2) : Laws.Bytes.Statement (.accessResult site ctx agn) := ⟨rfl, rfl⟩
theorem Laws.Bytes.parityLanding (site : BitVec 13) (g : BitVec 2) : Laws.Bytes.Statement (.parityLanding site g) := ⟨rfl, rfl⟩
theorem Laws.Bytes.scrubCheck (site : BitVec 13) : Laws.Bytes.Statement (.scrubCheck site) := ⟨rfl, rfl⟩
theorem Laws.Bytes.forcedScrub (site : BitVec 13) : Laws.Bytes.Statement (.forcedScrub site) := ⟨rfl, rfl⟩
theorem Laws.Bytes.bankRetireCommand (site : BitVec 13) (v : BitVec 32) : Laws.Bytes.Statement (.bankRetireCommand site v) := ⟨rfl, rfl⟩
theorem Laws.Bytes.axolotlCounterClear (site : BitVec 13) (v : BitVec 32) : Laws.Bytes.Statement (.axolotlCounterClear site v) := ⟨rfl, rfl⟩
theorem Laws.Bytes.errcntClear (ea : BitVec 16) : Laws.Bytes.Statement (.errcntClear ea) := ⟨rfl, rfl⟩
theorem Laws.Bytes.iiCounterClear (ea : BitVec 16) (ctx : BitVec 2) (agn : BitVec 2) : Laws.Bytes.Statement (.iiCounterClear ea ctx agn) := ⟨rfl, rfl⟩
theorem Laws.Bytes.mtcfgWrite (site : BitVec 13) (v : BitVec 32) : Laws.Bytes.Statement (.mtcfgWrite site v) := ⟨rfl, rfl⟩
theorem Laws.Bytes.walkComplete (site : BitVec 13) (ctx : BitVec 2) (agn : BitVec 2) : Laws.Bytes.Statement (.walkComplete site ctx agn) := ⟨rfl, rfl⟩
theorem Laws.Bytes.resumeDoorbell (part : BitVec 8) (fseq : BitVec 32) (status : BitVec 16) : Laws.Bytes.Statement (.resumeDoorbell part fseq status) := ⟨rfl, rfl⟩
theorem Laws.Bytes.migrationCopyDone (blk : BitVec 6) (q : BitVec 4) : Laws.Bytes.Statement (.migrationCopyDone blk q) := ⟨rfl, rfl⟩
theorem Laws.Bytes.engineComplete (blk : BitVec 6) (q : BitVec 4) : Laws.Bytes.Statement (.engineComplete blk q) := ⟨rfl, rfl⟩
theorem Laws.Bytes.writeActive (ctx : BitVec 2) (ea : BitVec 16) (field : BitVec 6) (vals : List (BitVec 32)) : Laws.Bytes.Statement (.writeActive ctx ea field vals) := ⟨rfl, rfl⟩
theorem Laws.Bytes.writeShadow (ctx : BitVec 2) (ea : BitVec 16) (field : BitVec 6) (vals : List (BitVec 32)) : Laws.Bytes.Statement (.writeShadow ctx ea field vals) := ⟨rfl, rfl⟩
theorem Laws.Bytes.readBack (ctx : BitVec 2) (ea : BitVec 16) (field : BitVec 6) (count : BitVec 6) : Laws.Bytes.Statement (.readBack ctx ea field count) := ⟨rfl, rfl⟩
theorem Laws.Bytes.swap (ctx : BitVec 2) (ea : BitVec 16) (v : BitVec 32) : Laws.Bytes.Statement (.swap ctx ea v) := ⟨rfl, rfl⟩
theorem Laws.Bytes.discard (ctx : BitVec 2) (ea : BitVec 16) (v : BitVec 32) : Laws.Bytes.Statement (.discard ctx ea v) := ⟨rfl, rfl⟩
theorem Laws.Bytes.check (ctx : BitVec 2) (ea : BitVec 16) (crc : BitVec 32) : Laws.Bytes.Statement (.check ctx ea crc) := ⟨rfl, rfl⟩
theorem Laws.Bytes.wsSwap (site : BitVec 13) (ctx : BitVec 2) : Laws.Bytes.Statement (.wsSwap site ctx) := ⟨rfl, rfl⟩
theorem Laws.Bytes.preempt (task : Nat) (reason : BitVec 4) : Laws.Bytes.Statement (.preempt task reason) := ⟨rfl, rfl⟩
theorem Laws.Bytes.barrierNextPhase (obj : BitVec 12) : Laws.Bytes.Statement (.barrierNextPhase obj) := ⟨rfl, rfl⟩
theorem Laws.Bytes.mcackRelease (chan : BitVec 16) : Laws.Bytes.Statement (.mcackRelease chan) := ⟨rfl, rfl⟩
theorem Laws.Bytes.mcackFail (chan : BitVec 16) : Laws.Bytes.Statement (.mcackFail chan) := ⟨rfl, rfl⟩
theorem Laws.Bytes.capRefill (site : BitVec 13) (ctx : BitVec 2) (stage : BitVec 3) : Laws.Bytes.Statement (.capRefill site ctx stage) := ⟨rfl, rfl⟩
theorem Laws.Bytes.destructiveUnload (blk : BitVec 6) : Laws.Bytes.Statement (.destructiveUnload blk) := ⟨rfl, rfl⟩
theorem Laws.Bytes.hostWindowWrite (off : BitVec 36) (data : List (BitVec 8)) (posted : Bool) : Laws.Bytes.Statement (.hostWindowWrite off data posted) := ⟨rfl, rfl⟩
theorem Laws.Bytes.hostWindowRead (off : BitVec 36) (len : Nat) : Laws.Bytes.Statement (.hostWindowRead off len) := ⟨rfl, rfl⟩
theorem Laws.Bytes.timeSync (master : BitVec 64) : Laws.Bytes.Statement (.timeSync master) := ⟨rfl, rfl⟩
theorem Laws.Bytes.sensorPoll (hot : BitVec 4) : Laws.Bytes.Statement (.sensorPoll hot) := ⟨rfl, rfl⟩
theorem Laws.Bytes.powerWindow (watts : BitVec 12) : Laws.Bytes.Statement (.powerWindow watts) := ⟨rfl, rfl⟩
theorem Laws.Bytes.guardbandReplan (die : BitVec 2) (offset : BitVec 8) (margin : BitVec 16) (tiles : List (BitVec 13)) : Laws.Bytes.Statement (.guardbandReplan die offset margin tiles) := ⟨rfl, rfl⟩
theorem Laws.Bytes.evqWrite (blk : BitVec 6) (v : BitVec 64) : Laws.Bytes.Statement (.evqWrite blk v) := ⟨rfl, rfl⟩
theorem Laws.Bytes.evheadWrite (blk : BitVec 6) (v : BitVec 64) : Laws.Bytes.Statement (.evheadWrite blk v) := ⟨rfl, rfl⟩
theorem Laws.Bytes.registerWrite (reg : PlatReg) (v : BitVec 64) : Laws.Bytes.Statement (.registerWrite reg v) := ⟨rfl, rfl⟩
theorem Laws.Bytes.barrierAllocate (part : BitVec 8) (obj : BitVec 12) (cfg : BitVec 32) : Laws.Bytes.Statement (.barrierAllocate part obj cfg) := ⟨rfl, rfl⟩
theorem Laws.Bytes.barrierFree (part : BitVec 8) (obj : BitVec 12) : Laws.Bytes.Statement (.barrierFree part obj) := ⟨rfl, rfl⟩
theorem Laws.Bytes.keyEnrol (part : BitVec 8) (keyid : BitVec 64) (modulus : BitVec 4096) : Laws.Bytes.Statement (.keyEnrol part keyid modulus) := ⟨rfl, rfl⟩
theorem Laws.Bytes.keyRevoke (part : BitVec 8) (keyid : BitVec 64) : Laws.Bytes.Statement (.keyRevoke part keyid) := ⟨rfl, rfl⟩
theorem Laws.Bytes.attestationReport (part : BitVec 8) (nonce : BitVec 512) : Laws.Bytes.Statement (.attestationReport part nonce) := ⟨rfl, rfl⟩
theorem Laws.Bytes.debugAuthorisation (blk : BitVec 6) (modulus : BitVec 4096) (sig : BitVec 4096) : Laws.Bytes.Statement (.debugAuthorisation blk modulus sig) := ⟨rfl, rfl⟩
theorem Laws.Bytes.peerApertureGrant (part : BitVec 8) (idx : BitVec 6) (ap : Aperture) : Laws.Bytes.Statement (.peerApertureGrant part idx ap) := ⟨rfl, rfl⟩
theorem Laws.Bytes.sqStart (part : BitVec 8) (blk : Option (BitVec 6)) (entry : BitVec 64) : Laws.Bytes.Statement (.sqStart part blk entry) := ⟨rfl, rfl⟩
theorem Laws.Bytes.sqHalt (part : BitVec 8) (blk : Option (BitVec 6)) : Laws.Bytes.Statement (.sqHalt part blk) := ⟨rfl, rfl⟩
theorem Laws.Bytes.queueDescriptorWrite (part : BitVec 8) (blk : BitVec 6) (q : BitVec 4) (ctl : BitVec 64) (rbase : BitVec 64) (cwaddr : BitVec 64) : Laws.Bytes.Statement (.queueDescriptorWrite part blk q ctl rbase cwaddr) := ⟨rfl, rfl⟩
theorem Laws.Bytes.queueDescriptorRead (part : BitVec 8) (blk : BitVec 6) (q : BitVec 4) : Laws.Bytes.Statement (.queueDescriptorRead part blk q) := ⟨rfl, rfl⟩
theorem Laws.Bytes.frameGrant (part : BitVec 8) (pa : BitVec 52) (n : Nat) : Laws.Bytes.Statement (.frameGrant part pa n) := ⟨rfl, rfl⟩
theorem Laws.Bytes.frameReclaim (part : BitVec 8) (pa : BitVec 52) (n : Nat) : Laws.Bytes.Statement (.frameReclaim part pa n) := ⟨rfl, rfl⟩
theorem Laws.Bytes.traceRingSet (part : BitVec 8) (ring : BitVec 64) (k : BitVec 5) (cb : BitVec 64) : Laws.Bytes.Statement (.traceRingSet part ring k cb) := ⟨rfl, rfl⟩
theorem Laws.Bytes.traceRingClear (part : BitVec 8) : Laws.Bytes.Statement (.traceRingClear part) := ⟨rfl, rfl⟩
theorem Laws.Bytes.monitorChannelAssign (part : BitVec 8) (chan : BitVec 16) (regs : List (BitVec 6 × BitVec 32)) : Laws.Bytes.Statement (.monitorChannelAssign part chan regs) := ⟨rfl, rfl⟩
theorem Laws.Bytes.addFabric (w : OpWord) : Laws.Bytes.Statement (.addFabric w) := ⟨rfl, rfl⟩
theorem Laws.Bytes.subFabric (w : OpWord) : Laws.Bytes.Statement (.subFabric w) := ⟨rfl, rfl⟩
theorem Laws.Bytes.mulFabric (w : OpWord) : Laws.Bytes.Statement (.mulFabric w) := ⟨rfl, rfl⟩
theorem Laws.Bytes.mulhFabric (w : OpWord) : Laws.Bytes.Statement (.mulhFabric w) := ⟨rfl, rfl⟩
theorem Laws.Bytes.mad (w : OpWord) : Laws.Bytes.Statement (.mad w) := ⟨rfl, rfl⟩
theorem Laws.Bytes.min (w : OpWord) : Laws.Bytes.Statement (.min w) := ⟨rfl, rfl⟩
theorem Laws.Bytes.max (w : OpWord) : Laws.Bytes.Statement (.max w) := ⟨rfl, rfl⟩
theorem Laws.Bytes.abs (w : OpWord) : Laws.Bytes.Statement (.abs w) := ⟨rfl, rfl⟩
theorem Laws.Bytes.neg (w : OpWord) : Laws.Bytes.Statement (.neg w) := ⟨rfl, rfl⟩
theorem Laws.Bytes.andFabric (w : OpWord) : Laws.Bytes.Statement (.andFabric w) := ⟨rfl, rfl⟩
theorem Laws.Bytes.orFabric (w : OpWord) : Laws.Bytes.Statement (.orFabric w) := ⟨rfl, rfl⟩
theorem Laws.Bytes.xorFabric (w : OpWord) : Laws.Bytes.Statement (.xorFabric w) := ⟨rfl, rfl⟩
theorem Laws.Bytes.andn (w : OpWord) : Laws.Bytes.Statement (.andn w) := ⟨rfl, rfl⟩
theorem Laws.Bytes.shlFabric (w : OpWord) : Laws.Bytes.Statement (.shlFabric w) := ⟨rfl, rfl⟩
theorem Laws.Bytes.shrFabric (w : OpWord) : Laws.Bytes.Statement (.shrFabric w) := ⟨rfl, rfl⟩
theorem Laws.Bytes.sraFabric (w : OpWord) : Laws.Bytes.Statement (.sraFabric w) := ⟨rfl, rfl⟩
theorem Laws.Bytes.rot (w : OpWord) : Laws.Bytes.Statement (.rot w) := ⟨rfl, rfl⟩
theorem Laws.Bytes.clz (w : OpWord) : Laws.Bytes.Statement (.clz w) := ⟨rfl, rfl⟩
theorem Laws.Bytes.popc (w : OpWord) : Laws.Bytes.Statement (.popc w) := ⟨rfl, rfl⟩
theorem Laws.Bytes.cmp (w : OpWord) : Laws.Bytes.Statement (.cmp w) := ⟨rfl, rfl⟩
theorem Laws.Bytes.sel (w : OpWord) : Laws.Bytes.Statement (.sel w) := ⟨rfl, rfl⟩
theorem Laws.Bytes.cvt (w : OpWord) : Laws.Bytes.Statement (.cvt w) := ⟨rfl, rfl⟩
theorem Laws.Bytes.dot4 (w : OpWord) : Laws.Bytes.Statement (.dot4 w) := ⟨rfl, rfl⟩
theorem Laws.Bytes.dot2 (w : OpWord) : Laws.Bytes.Statement (.dot2 w) := ⟨rfl, rfl⟩
theorem Laws.Bytes.bfx (w : OpWord) : Laws.Bytes.Statement (.bfx w) := ⟨rfl, rfl⟩
theorem Laws.Bytes.bfi (w : OpWord) : Laws.Bytes.Statement (.bfi w) := ⟨rfl, rfl⟩
theorem Laws.Bytes.fadd (w : OpWord) : Laws.Bytes.Statement (.fadd w) := ⟨rfl, rfl⟩
theorem Laws.Bytes.fsub (w : OpWord) : Laws.Bytes.Statement (.fsub w) := ⟨rfl, rfl⟩
theorem Laws.Bytes.fmul (w : OpWord) : Laws.Bytes.Statement (.fmul w) := ⟨rfl, rfl⟩
theorem Laws.Bytes.fma (w : OpWord) : Laws.Bytes.Statement (.fma w) := ⟨rfl, rfl⟩
theorem Laws.Bytes.fnma (w : OpWord) : Laws.Bytes.Statement (.fnma w) := ⟨rfl, rfl⟩
theorem Laws.Bytes.fmin (w : OpWord) : Laws.Bytes.Statement (.fmin w) := ⟨rfl, rfl⟩
theorem Laws.Bytes.fmax (w : OpWord) : Laws.Bytes.Statement (.fmax w) := ⟨rfl, rfl⟩
theorem Laws.Bytes.fabs (w : OpWord) : Laws.Bytes.Statement (.fabs w) := ⟨rfl, rfl⟩
theorem Laws.Bytes.fneg (w : OpWord) : Laws.Bytes.Statement (.fneg w) := ⟨rfl, rfl⟩
theorem Laws.Bytes.fcmp (w : OpWord) : Laws.Bytes.Statement (.fcmp w) := ⟨rfl, rfl⟩
theorem Laws.Bytes.fclass (w : OpWord) : Laws.Bytes.Statement (.fclass w) := ⟨rfl, rfl⟩
theorem Laws.Bytes.fcvt (w : OpWord) : Laws.Bytes.Statement (.fcvt w) := ⟨rfl, rfl⟩
theorem Laws.Bytes.frcp (w : OpWord) : Laws.Bytes.Statement (.frcp w) := ⟨rfl, rfl⟩
theorem Laws.Bytes.frsq (w : OpWord) : Laws.Bytes.Statement (.frsq w) := ⟨rfl, rfl⟩
theorem Laws.Bytes.fsqrt (w : OpWord) : Laws.Bytes.Statement (.fsqrt w) := ⟨rfl, rfl⟩
theorem Laws.Bytes.fexp2 (w : OpWord) : Laws.Bytes.Statement (.fexp2 w) := ⟨rfl, rfl⟩
theorem Laws.Bytes.flog2 (w : OpWord) : Laws.Bytes.Statement (.flog2 w) := ⟨rfl, rfl⟩
theorem Laws.Bytes.ftanh (w : OpWord) : Laws.Bytes.Statement (.ftanh w) := ⟨rfl, rfl⟩
theorem Laws.Bytes.fsigm (w : OpWord) : Laws.Bytes.Statement (.fsigm w) := ⟨rfl, rfl⟩
theorem Laws.Bytes.fscl (w : OpWord) : Laws.Bytes.Statement (.fscl w) := ⟨rfl, rfl⟩
theorem Laws.Bytes.mov (w : OpWord) : Laws.Bytes.Statement (.mov w) := ⟨rfl, rfl⟩
theorem Laws.Bytes.movk (w : OpWord) : Laws.Bytes.Statement (.movk w) := ⟨rfl, rfl⟩
theorem Laws.Bytes.wrk (w : OpWord) : Laws.Bytes.Statement (.wrk w) := ⟨rfl, rfl⟩
theorem Laws.Bytes.acck (w : OpWord) : Laws.Bytes.Statement (.acck w) := ⟨rfl, rfl⟩
theorem Laws.Bytes.lred (w : OpWord) : Laws.Bytes.Statement (.lred w) := ⟨rfl, rfl⟩
theorem Laws.Bytes.lscan (w : OpWord) : Laws.Bytes.Statement (.lscan w) := ⟨rfl, rfl⟩
theorem Laws.Bytes.lbc (w : OpWord) : Laws.Bytes.Statement (.lbc w) := ⟨rfl, rfl⟩
theorem Laws.Bytes.lrot (w : OpWord) : Laws.Bytes.Statement (.lrot w) := ⟨rfl, rfl⟩
theorem Laws.Bytes.lperm (w : OpWord) : Laws.Bytes.Statement (.lperm w) := ⟨rfl, rfl⟩
theorem Laws.Bytes.fsh (w : OpWord) : Laws.Bytes.Statement (.fsh w) := ⟨rfl, rfl⟩
theorem Laws.Bytes.pack (w : OpWord) : Laws.Bytes.Statement (.pack w) := ⟨rfl, rfl⟩
theorem Laws.Bytes.unpack (w : OpWord) : Laws.Bytes.Statement (.unpack w) := ⟨rfl, rfl⟩
theorem Laws.Bytes.m2c (w : OpWord) : Laws.Bytes.Statement (.m2c w) := ⟨rfl, rfl⟩
theorem Laws.Bytes.lidx (w : OpWord) : Laws.Bytes.Statement (.lidx w) := ⟨rfl, rfl⟩
theorem Laws.Bytes.mma (w : OpWord) : Laws.Bytes.Statement (.mma w) := ⟨rfl, rfl⟩
theorem Laws.Bytes.mmab (w : OpWord) : Laws.Bytes.Statement (.mmab w) := ⟨rfl, rfl⟩
theorem Laws.Bytes.wsld (w : OpWord) : Laws.Bytes.Statement (.wsld w) := ⟨rfl, rfl⟩
theorem Laws.Bytes.wsswp (w : OpWord) : Laws.Bytes.Statement (.wsswp w) := ⟨rfl, rfl⟩
theorem Laws.Bytes.acclr (w : OpWord) : Laws.Bytes.Statement (.acclr w) := ⟨rfl, rfl⟩
theorem Laws.Bytes.acrd (w : OpWord) : Laws.Bytes.Statement (.acrd w) := ⟨rfl, rfl⟩
theorem Laws.Bytes.acwr (w : OpWord) : Laws.Bytes.Statement (.acwr w) := ⟨rfl, rfl⟩
theorem Laws.Bytes.steer (w : OpWord) : Laws.Bytes.Statement (.steer w) := ⟨rfl, rfl⟩
theorem Laws.Bytes.merge (w : OpWord) : Laws.Bytes.Statement (.merge w) := ⟨rfl, rfl⟩
theorem Laws.Bytes.carry (w : OpWord) : Laws.Bytes.Statement (.carry w) := ⟨rfl, rfl⟩
theorem Laws.Bytes.invr (w : OpWord) : Laws.Bytes.Statement (.invr w) := ⟨rfl, rfl⟩
theorem Laws.Bytes.fork (w : OpWord) : Laws.Bytes.Statement (.fork w) := ⟨rfl, rfl⟩
theorem Laws.Bytes.sink (w : OpWord) : Laws.Bytes.Statement (.sink w) := ⟨rfl, rfl⟩
theorem Laws.Bytes.gate (w : OpWord) : Laws.Bytes.Statement (.gate w) := ⟨rfl, rfl⟩
theorem Laws.Bytes.cand (w : OpWord) : Laws.Bytes.Statement (.cand w) := ⟨rfl, rfl⟩
theorem Laws.Bytes.cor (w : OpWord) : Laws.Bytes.Statement (.cor w) := ⟨rfl, rfl⟩
theorem Laws.Bytes.cnot (w : OpWord) : Laws.Bytes.Statement (.cnot w) := ⟨rfl, rfl⟩
theorem Laws.Bytes.cgen (w : OpWord) : Laws.Bytes.Statement (.cgen w) := ⟨rfl, rfl⟩
theorem Laws.Bytes.kelp (w : OpWord) : Laws.Bytes.Statement (.kelp w) := ⟨rfl, rfl⟩
theorem Laws.Bytes.kjoin (w : OpWord) : Laws.Bytes.Statement (.kjoin w) := ⟨rfl, rfl⟩
theorem Laws.Bytes.tourn (w : OpWord) : Laws.Bytes.Statement (.tourn w) := ⟨rfl, rfl⟩
theorem Laws.Bytes.rdig (w : OpWord) : Laws.Bytes.Statement (.rdig w) := ⟨rfl, rfl⟩
theorem Laws.Bytes.ld (w : OpWord) : Laws.Bytes.Statement (.ld w) := ⟨rfl, rfl⟩
theorem Laws.Bytes.st (w : OpWord) : Laws.Bytes.Statement (.st w) := ⟨rfl, rfl⟩
theorem Laws.Bytes.ldx (w : OpWord) : Laws.Bytes.Statement (.ldx w) := ⟨rfl, rfl⟩
theorem Laws.Bytes.stx (w : OpWord) : Laws.Bytes.Statement (.stx w) := ⟨rfl, rfl⟩
theorem Laws.Bytes.ldl (w : OpWord) : Laws.Bytes.Statement (.ldl w) := ⟨rfl, rfl⟩
theorem Laws.Bytes.atom (w : OpWord) : Laws.Bytes.Statement (.atom w) := ⟨rfl, rfl⟩
theorem Laws.Bytes.xlat (w : OpWord) : Laws.Bytes.Statement (.xlat w) := ⟨rfl, rfl⟩
theorem Laws.Bytes.probe (w : OpWord) : Laws.Bytes.Statement (.probe w) := ⟨rfl, rfl⟩
theorem Laws.Bytes.stc (w : OpWord) : Laws.Bytes.Statement (.stc w) := ⟨rfl, rfl⟩
theorem Laws.Bytes.cpy (w : OpWord) : Laws.Bytes.Statement (.cpy w) := ⟨rfl, rfl⟩
theorem Laws.Bytes.cnt (w : OpWord) : Laws.Bytes.Statement (.cnt w) := ⟨rfl, rfl⟩
theorem Laws.Bytes.const (w : OpWord) : Laws.Bytes.Statement (.const w) := ⟨rfl, rfl⟩
theorem Laws.Bytes.rand (w : OpWord) : Laws.Bytes.Statement (.rand w) := ⟨rfl, rfl⟩
theorem Laws.Bytes.seqs (w : OpWord) : Laws.Bytes.Statement (.seqs w) := ⟨rfl, rfl⟩
theorem Laws.Bytes.post (w : OpWord) : Laws.Bytes.Statement (.post w) := ⟨rfl, rfl⟩
theorem Laws.Bytes.barr (w : OpWord) : Laws.Bytes.Statement (.barr w) := ⟨rfl, rfl⟩
theorem Laws.Bytes.bwait (w : OpWord) : Laws.Bytes.Statement (.bwait w) := ⟨rfl, rfl⟩
theorem Laws.Bytes.mchk (w : OpWord) : Laws.Bytes.Statement (.mchk w) := ⟨rfl, rfl⟩
theorem Laws.Bytes.cap (w : OpWord) : Laws.Bytes.Statement (.cap w) := ⟨rfl, rfl⟩
theorem Laws.Bytes.spawn (w : OpWord) : Laws.Bytes.Statement (.spawn w) := ⟨rfl, rfl⟩
theorem Laws.Bytes.addSequencer (d : BitVec 5) (a : BitVec 5) (b : BitVec 5) : Laws.Bytes.Statement (.addSequencer d a b) := ⟨rfl, rfl⟩
theorem Laws.Bytes.subSequencer (d : BitVec 5) (a : BitVec 5) (b : BitVec 5) : Laws.Bytes.Statement (.subSequencer d a b) := ⟨rfl, rfl⟩
theorem Laws.Bytes.andSequencer (d : BitVec 5) (a : BitVec 5) (b : BitVec 5) : Laws.Bytes.Statement (.andSequencer d a b) := ⟨rfl, rfl⟩
theorem Laws.Bytes.orSequencer (d : BitVec 5) (a : BitVec 5) (b : BitVec 5) : Laws.Bytes.Statement (.orSequencer d a b) := ⟨rfl, rfl⟩
theorem Laws.Bytes.xorSequencer (d : BitVec 5) (a : BitVec 5) (b : BitVec 5) : Laws.Bytes.Statement (.xorSequencer d a b) := ⟨rfl, rfl⟩
theorem Laws.Bytes.shlSequencer (d : BitVec 5) (a : BitVec 5) (b : BitVec 5) : Laws.Bytes.Statement (.shlSequencer d a b) := ⟨rfl, rfl⟩
theorem Laws.Bytes.shrSequencer (d : BitVec 5) (a : BitVec 5) (b : BitVec 5) : Laws.Bytes.Statement (.shrSequencer d a b) := ⟨rfl, rfl⟩
theorem Laws.Bytes.sraSequencer (d : BitVec 5) (a : BitVec 5) (b : BitVec 5) : Laws.Bytes.Statement (.sraSequencer d a b) := ⟨rfl, rfl⟩
theorem Laws.Bytes.mulSequencer (d : BitVec 5) (a : BitVec 5) (b : BitVec 5) : Laws.Bytes.Statement (.mulSequencer d a b) := ⟨rfl, rfl⟩
theorem Laws.Bytes.mulhSequencer (d : BitVec 5) (a : BitVec 5) (b : BitVec 5) : Laws.Bytes.Statement (.mulhSequencer d a b) := ⟨rfl, rfl⟩
theorem Laws.Bytes.div (d : BitVec 5) (a : BitVec 5) (b : BitVec 5) : Laws.Bytes.Statement (.div d a b) := ⟨rfl, rfl⟩
theorem Laws.Bytes.rem (d : BitVec 5) (a : BitVec 5) (b : BitVec 5) : Laws.Bytes.Statement (.rem d a b) := ⟨rfl, rfl⟩
theorem Laws.Bytes.slt (d : BitVec 5) (a : BitVec 5) (b : BitVec 5) : Laws.Bytes.Statement (.slt d a b) := ⟨rfl, rfl⟩
theorem Laws.Bytes.sltn (d : BitVec 5) (a : BitVec 5) (b : BitVec 5) : Laws.Bytes.Statement (.sltn d a b) := ⟨rfl, rfl⟩
theorem Laws.Bytes.addi (d : BitVec 5) (a : BitVec 5) (i : BitVec 16) : Laws.Bytes.Statement (.addi d a i) := ⟨rfl, rfl⟩
theorem Laws.Bytes.andi (d : BitVec 5) (a : BitVec 5) (i : BitVec 16) : Laws.Bytes.Statement (.andi d a i) := ⟨rfl, rfl⟩
theorem Laws.Bytes.ori (d : BitVec 5) (a : BitVec 5) (i : BitVec 16) : Laws.Bytes.Statement (.ori d a i) := ⟨rfl, rfl⟩
theorem Laws.Bytes.xori (d : BitVec 5) (a : BitVec 5) (i : BitVec 16) : Laws.Bytes.Statement (.xori d a i) := ⟨rfl, rfl⟩
theorem Laws.Bytes.shli (d : BitVec 5) (a : BitVec 5) (s : BitVec 6) : Laws.Bytes.Statement (.shli d a s) := ⟨rfl, rfl⟩
theorem Laws.Bytes.shri (d : BitVec 5) (a : BitVec 5) (s : BitVec 6) : Laws.Bytes.Statement (.shri d a s) := ⟨rfl, rfl⟩
theorem Laws.Bytes.srai (d : BitVec 5) (a : BitVec 5) (s : BitVec 6) : Laws.Bytes.Statement (.srai d a s) := ⟨rfl, rfl⟩
theorem Laws.Bytes.slti (d : BitVec 5) (a : BitVec 5) (i : BitVec 16) : Laws.Bytes.Statement (.slti d a i) := ⟨rfl, rfl⟩
theorem Laws.Bytes.lhi (d : BitVec 5) (i : BitVec 16) : Laws.Bytes.Statement (.lhi d i) := ⟨rfl, rfl⟩
theorem Laws.Bytes.lb (d : BitVec 5) (a : BitVec 5) (o : BitVec 16) : Laws.Bytes.Statement (.lb d a o) := ⟨rfl, rfl⟩
theorem Laws.Bytes.lbn (d : BitVec 5) (a : BitVec 5) (o : BitVec 16) : Laws.Bytes.Statement (.lbn d a o) := ⟨rfl, rfl⟩
theorem Laws.Bytes.lh (d : BitVec 5) (a : BitVec 5) (o : BitVec 16) : Laws.Bytes.Statement (.lh d a o) := ⟨rfl, rfl⟩
theorem Laws.Bytes.lhn (d : BitVec 5) (a : BitVec 5) (o : BitVec 16) : Laws.Bytes.Statement (.lhn d a o) := ⟨rfl, rfl⟩
theorem Laws.Bytes.lw (d : BitVec 5) (a : BitVec 5) (o : BitVec 16) : Laws.Bytes.Statement (.lw d a o) := ⟨rfl, rfl⟩
theorem Laws.Bytes.lwn (d : BitVec 5) (a : BitVec 5) (o : BitVec 16) : Laws.Bytes.Statement (.lwn d a o) := ⟨rfl, rfl⟩
theorem Laws.Bytes.lq (d : BitVec 5) (a : BitVec 5) (o : BitVec 16) : Laws.Bytes.Statement (.lq d a o) := ⟨rfl, rfl⟩
theorem Laws.Bytes.sb (d : BitVec 5) (a : BitVec 5) (o : BitVec 16) : Laws.Bytes.Statement (.sb d a o) := ⟨rfl, rfl⟩
theorem Laws.Bytes.sh (d : BitVec 5) (a : BitVec 5) (o : BitVec 16) : Laws.Bytes.Statement (.sh d a o) := ⟨rfl, rfl⟩
theorem Laws.Bytes.sw (d : BitVec 5) (a : BitVec 5) (o : BitVec 16) : Laws.Bytes.Statement (.sw d a o) := ⟨rfl, rfl⟩
theorem Laws.Bytes.sq (d : BitVec 5) (a : BitVec 5) (o : BitVec 16) : Laws.Bytes.Statement (.sq d a o) := ⟨rfl, rfl⟩
theorem Laws.Bytes.beq (a : BitVec 5) (b : BitVec 5) (o : BitVec 16) : Laws.Bytes.Statement (.beq a b o) := ⟨rfl, rfl⟩
theorem Laws.Bytes.bne (a : BitVec 5) (b : BitVec 5) (o : BitVec 16) : Laws.Bytes.Statement (.bne a b o) := ⟨rfl, rfl⟩
theorem Laws.Bytes.blt (a : BitVec 5) (b : BitVec 5) (o : BitVec 16) : Laws.Bytes.Statement (.blt a b o) := ⟨rfl, rfl⟩
theorem Laws.Bytes.bge (a : BitVec 5) (b : BitVec 5) (o : BitVec 16) : Laws.Bytes.Statement (.bge a b o) := ⟨rfl, rfl⟩
theorem Laws.Bytes.bltn (a : BitVec 5) (b : BitVec 5) (o : BitVec 16) : Laws.Bytes.Statement (.bltn a b o) := ⟨rfl, rfl⟩
theorem Laws.Bytes.bgen (a : BitVec 5) (b : BitVec 5) (o : BitVec 16) : Laws.Bytes.Statement (.bgen a b o) := ⟨rfl, rfl⟩
theorem Laws.Bytes.jal (o : BitVec 26) : Laws.Bytes.Statement (.jal o) := ⟨rfl, rfl⟩
theorem Laws.Bytes.jr (d : BitVec 5) (a : BitVec 5) (i : BitVec 16) : Laws.Bytes.Statement (.jr d a i) := ⟨rfl, rfl⟩
theorem Laws.Bytes.amadd (d : BitVec 5) (a : BitVec 5) (b : BitVec 5) : Laws.Bytes.Statement (.amadd d a b) := ⟨rfl, rfl⟩
theorem Laws.Bytes.amswp (d : BitVec 5) (a : BitVec 5) (b : BitVec 5) : Laws.Bytes.Statement (.amswp d a b) := ⟨rfl, rfl⟩
theorem Laws.Bytes.amcas (d : BitVec 5) (a : BitVec 5) (b : BitVec 5) : Laws.Bytes.Statement (.amcas d a b) := ⟨rfl, rfl⟩
theorem Laws.Bytes.crc (d : BitVec 5) (a : BitVec 5) (b : BitVec 5) (n : BitVec 2) : Laws.Bytes.Statement (.crc d a b n) := ⟨rfl, rfl⟩
theorem Laws.Bytes.mfs (d : BitVec 5) (b : BitVec 5) : Laws.Bytes.Statement (.mfs d b) := ⟨rfl, rfl⟩
theorem Laws.Bytes.mts (a : BitVec 5) (b : BitVec 5) : Laws.Bytes.Statement (.mts a b) := ⟨rfl, rfl⟩
theorem Laws.Bytes.svc (c : BitVec 5) : Laws.Bytes.Statement (.svc c) := ⟨rfl, rfl⟩
theorem Laws.Bytes.fen (s : BitVec 2) : Laws.Bytes.Statement (.fen s) := ⟨rfl, rfl⟩
theorem Laws.Bytes.cfgs (a : BitVec 5) (b : BitVec 5) : Laws.Bytes.Statement (.cfgs a b) := ⟨rfl, rfl⟩
theorem Laws.Bytes.cfgw (a : BitVec 5) : Laws.Bytes.Statement (.cfgw a) := ⟨rfl, rfl⟩
theorem Laws.Bytes.cfgq (d : BitVec 5) : Laws.Bytes.Statement (.cfgq d) := ⟨rfl, rfl⟩
theorem Laws.Bytes.tsk (d : BitVec 5) (a : BitVec 5) : Laws.Bytes.Statement (.tsk d a) := ⟨rfl, rfl⟩
theorem Laws.Bytes.qappEngine (d : BitVec 5) (a : BitVec 5) (b : BitVec 5) : Laws.Bytes.Statement (.qappEngine d a b) := ⟨rfl, rfl⟩
theorem Laws.Bytes.qappWork (d : BitVec 5) (a : BitVec 5) (b : BitVec 5) : Laws.Bytes.Statement (.qappWork d a b) := ⟨rfl, rfl⟩
theorem Laws.Bytes.qfen (a : BitVec 5) : Laws.Bytes.Statement (.qfen a) := ⟨rfl, rfl⟩
theorem Laws.Bytes.evp (d : BitVec 5) : Laws.Bytes.Statement (.evp d) := ⟨rfl, rfl⟩
theorem Laws.Bytes.bara (a : BitVec 5) (b : BitVec 5) : Laws.Bytes.Statement (.bara a b) := ⟨rfl, rfl⟩
theorem Laws.Bytes.barw (a : BitVec 5) (b : BitVec 5) : Laws.Bytes.Statement (.barw a b) := ⟨rfl, rfl⟩
theorem Laws.Bytes.tlbi (a : BitVec 5) (b : BitVec 5) : Laws.Bytes.Statement (.tlbi a b) := ⟨rfl, rfl⟩
theorem Laws.Bytes.shdn (a : BitVec 5) (b : BitVec 5) : Laws.Bytes.Statement (.shdn a b) := ⟨rfl, rfl⟩
theorem Laws.Bytes.sealRange (d : BitVec 5) (a : BitVec 5) (b : BitVec 5) : Laws.Bytes.Statement (.sealRange d a b) := ⟨rfl, rfl⟩
theorem Laws.Bytes.mark (a : BitVec 5) : Laws.Bytes.Statement (.mark a) := ⟨rfl, rfl⟩
theorem Laws.Bytes.rsm (a : BitVec 5) : Laws.Bytes.Statement (.rsm a) := ⟨rfl, rfl⟩
theorem Laws.Bytes.instructionFetchFault (sub : BitVec 8) (detail : BitVec 48) : Laws.Bytes.Statement (.instructionFetchFault sub detail) := ⟨rfl, rfl⟩
theorem Laws.Bytes.correctedRowWriteback (site : BitVec 13) (bank : BitVec 5) (row : BitVec 11) : Laws.Bytes.Statement (.correctedRowWriteback site bank row) := ⟨rfl, rfl⟩
theorem Laws.Bytes.partitionDestroy (part : BitVec 8) : Laws.Bytes.Statement (.partitionDestroy part) := ⟨rfl, rfl⟩
theorem Laws.Bytes.signedRecoveryImage (fw : Firmware) : Laws.Bytes.Statement (.signedRecoveryImage fw) := ⟨rfl, rfl⟩
theorem Laws.Bytes.dependenceMet : Laws.Bytes.Statement .dependenceMet := ⟨rfl, rfl⟩
theorem Laws.Bytes.sourceRelease : Laws.Bytes.Statement .sourceRelease := ⟨rfl, rfl⟩
theorem Laws.Bytes.taskFinish : Laws.Bytes.Statement .taskFinish := ⟨rfl, rfl⟩
theorem Laws.Bytes.repairPass : Laws.Bytes.Statement .repairPass := ⟨rfl, rfl⟩
theorem Laws.Bytes.commit : Laws.Bytes.Statement .commit := ⟨rfl, rfl⟩
theorem Laws.Bytes.lockstepTimeout : Laws.Bytes.Statement .lockstepTimeout := ⟨rfl, rfl⟩
theorem Laws.Bytes.irrevocable : Laws.Bytes.Statement .irrevocable := ⟨rfl, rfl⟩
theorem Laws.Bytes.watchdog : Laws.Bytes.Statement .watchdog := ⟨rfl, rfl⟩
theorem Laws.Bytes.regionFrozen : Laws.Bytes.Statement .regionFrozen := ⟨rfl, rfl⟩
theorem Laws.Bytes.eventInterrupt : Laws.Bytes.Statement .eventInterrupt := ⟨rfl, rfl⟩
theorem Laws.Bytes.hourWindow : Laws.Bytes.Statement .hourWindow := ⟨rfl, rfl⟩
theorem Laws.Bytes.pageFaultLimit : Laws.Bytes.Statement .pageFaultLimit := ⟨rfl, rfl⟩
theorem Laws.Bytes.copy : Laws.Bytes.Statement .copy := ⟨rfl, rfl⟩
theorem Laws.Bytes.copyT8 : Laws.Bytes.Statement .copyT8 := ⟨rfl, rfl⟩
theorem Laws.Bytes.copyT16 : Laws.Bytes.Statement .copyT16 := ⟨rfl, rfl⟩
theorem Laws.Bytes.fill : Laws.Bytes.Statement .fill := ⟨rfl, rfl⟩
theorem Laws.Bytes.allReduce : Laws.Bytes.Statement .allReduce := ⟨rfl, rfl⟩
theorem Laws.Bytes.broadcast : Laws.Bytes.Statement .broadcast := ⟨rfl, rfl⟩
theorem Laws.Bytes.allGather : Laws.Bytes.Statement .allGather := ⟨rfl, rfl⟩
theorem Laws.Bytes.sha512 : Laws.Bytes.Statement .sha512 := ⟨rfl, rfl⟩
theorem Laws.Bytes.rsaVerify : Laws.Bytes.Statement .rsaVerify := ⟨rfl, rfl⟩
theorem Laws.Bytes.migrate : Laws.Bytes.Statement .migrate := ⟨rfl, rfl⟩
theorem Laws.Bytes.cutComplete : Laws.Bytes.Statement .cutComplete := ⟨rfl, rfl⟩
theorem Laws.Bytes.restore : Laws.Bytes.Statement .restore := ⟨rfl, rfl⟩
theorem Laws.Bytes.hostRequestTimeout : Laws.Bytes.Statement .hostRequestTimeout := ⟨rfl, rfl⟩
theorem Laws.Bytes.synclost : Laws.Bytes.Statement .synclost := ⟨rfl, rfl⟩
theorem Laws.Bytes.telemetrySnapshot : Laws.Bytes.Statement .telemetrySnapshot := ⟨rfl, rfl⟩
theorem Laws.Bytes.eret : Laws.Bytes.Statement .eret := ⟨rfl, rfl⟩
theorem Laws.Bytes.wfe : Laws.Bytes.Statement .wfe := ⟨rfl, rfl⟩
theorem Laws.Bytes.illegalInstruction : Laws.Bytes.Statement .illegalInstruction := ⟨rfl, rfl⟩

end Sys2Proof
end

