-- ==== Sys2Proof/Laws/State.lean ====
section
/-! SUPPORT. Laws/State.lean: what each named update of the machine, of a sequencer and of an element context leaves as it was: one lemma per
field per update, so that no proof unfolds a record update. -/

namespace Sys2Proof.Machine

/-! ### State.setSite -/

@[simp] theorem State.setSite_time (s : State) (n : SiteNo) (v : Site) : (s.setSite n v).time = s.time := rfl
@[simp] theorem State.setSite_elems (s : State) (n : SiteNo) (v : Site) : (s.setSite n v).elems = s.elems := rfl
@[simp] theorem State.setSite_ports (s : State) (n : SiteNo) (v : Site) : (s.setSite n v).ports = s.ports := rfl
@[simp] theorem State.setSite_dmem (s : State) (n : SiteNo) (v : Site) : (s.setSite n v).dmem = s.dmem := rfl
@[simp] theorem State.setSite_spad (s : State) (n : SiteNo) (v : Site) : (s.setSite n v).spad = s.spad := rfl
@[simp] theorem State.setSite_lram (s : State) (n : SiteNo) (v : Site) : (s.setSite n v).lram = s.lram := rfl
@[simp] theorem State.setSite_ws (s : State) (n : SiteNo) (v : Site) : (s.setSite n v).ws = s.ws := rfl
@[simp] theorem State.setSite_acs (s : State) (n : SiteNo) (v : Site) : (s.setSite n v).acs = s.acs := rfl
@[simp] theorem State.setSite_frames (s : State) (n : SiteNo) (v : Site) : (s.setSite n v).frames = s.frames := rfl
@[simp] theorem State.setSite_sealed (s : State) (n : SiteNo) (v : Site) : (s.setSite n v).sealed = s.sealed := rfl
@[simp] theorem State.setSite_touched (s : State) (n : SiteNo) (v : Site) : (s.setSite n v).touched = s.touched := rfl
@[simp] theorem State.setSite_bad (s : State) (n : SiteNo) (v : Site) : (s.setSite n v).bad = s.bad := rfl
@[simp] theorem State.setSite_sqs (s : State) (n : SiteNo) (v : Site) : (s.setSite n v).sqs = s.sqs := rfl
@[simp] theorem State.setSite_parts (s : State) (n : SiteNo) (v : Site) : (s.setSite n v).parts = s.parts := rfl
@[simp] theorem State.setSite_queues (s : State) (n : SiteNo) (v : Site) : (s.setSite n v).queues = s.queues := rfl
@[simp] theorem State.setSite_launches (s : State) (n : SiteNo) (v : Site) : (s.setSite n v).launches = s.launches := rfl
@[simp] theorem State.setSite_tasks (s : State) (n : SiteNo) (v : Site) : (s.setSite n v).tasks = s.tasks := rfl
@[simp] theorem State.setSite_ordinal (s : State) (n : SiteNo) (v : Site) : (s.setSite n v).ordinal = s.ordinal := rfl
@[simp] theorem State.setSite_horizon (s : State) (n : SiteNo) (v : Site) : (s.setSite n v).horizon = s.horizon := rfl
@[simp] theorem State.setSite_admits (s : State) (n : SiteNo) (v : Site) : (s.setSite n v).admits = s.admits := rfl
@[simp] theorem State.setSite_mapped (s : State) (n : SiteNo) (v : Site) : (s.setSite n v).mapped = s.mapped := rfl
@[simp] theorem State.setSite_engines (s : State) (n : SiteNo) (v : Site) : (s.setSite n v).engines = s.engines := rfl
@[simp] theorem State.setSite_stalls (s : State) (n : SiteNo) (v : Site) : (s.setSite n v).stalls = s.stalls := rfl
@[simp] theorem State.setSite_barriers (s : State) (n : SiteNo) (v : Site) : (s.setSite n v).barriers = s.barriers := rfl
@[simp] theorem State.setSite_mboxes (s : State) (n : SiteNo) (v : Site) : (s.setSite n v).mboxes = s.mboxes := rfl
@[simp] theorem State.setSite_channels (s : State) (n : SiteNo) (v : Site) : (s.setSite n v).channels = s.channels := rfl
@[simp] theorem State.setSite_links (s : State) (n : SiteNo) (v : Site) : (s.setSite n v).links = s.links := rfl
@[simp] theorem State.setSite_plat (s : State) (n : SiteNo) (v : Site) : (s.setSite n v).plat = s.plat := rfl
@[simp] theorem State.setSite_focus (s : State) (n : SiteNo) (v : Site) : (s.setSite n v).focus = s.focus := rfl
@[simp] theorem State.setSite_agenda (s : State) (n : SiteNo) (v : Site) : (s.setSite n v).agenda = s.agenda := rfl
@[simp] theorem State.setSite_burst (s : State) (n : SiteNo) (v : Site) : (s.setSite n v).burst = s.burst := rfl
@[simp] theorem State.setSite_turn (s : State) (n : SiteNo) (v : Site) : (s.setSite n v).turn = s.turn := rfl
@[simp] theorem State.setSite_elapse (s : State) (n : SiteNo) (v : Site) : (s.setSite n v).elapse = s.elapse := rfl
@[simp] theorem State.setSite_free (s : State) (n : SiteNo) (v : Site) : (s.setSite n v).free = s.free := rfl

/-! ### State.modSite -/

@[simp] theorem State.modSite_time (s : State) (n : SiteNo) (f : Site → Site) : (s.modSite n f).time = s.time := rfl
@[simp] theorem State.modSite_elems (s : State) (n : SiteNo) (f : Site → Site) : (s.modSite n f).elems = s.elems := rfl
@[simp] theorem State.modSite_ports (s : State) (n : SiteNo) (f : Site → Site) : (s.modSite n f).ports = s.ports := rfl
@[simp] theorem State.modSite_dmem (s : State) (n : SiteNo) (f : Site → Site) : (s.modSite n f).dmem = s.dmem := rfl
@[simp] theorem State.modSite_spad (s : State) (n : SiteNo) (f : Site → Site) : (s.modSite n f).spad = s.spad := rfl
@[simp] theorem State.modSite_lram (s : State) (n : SiteNo) (f : Site → Site) : (s.modSite n f).lram = s.lram := rfl
@[simp] theorem State.modSite_ws (s : State) (n : SiteNo) (f : Site → Site) : (s.modSite n f).ws = s.ws := rfl
@[simp] theorem State.modSite_acs (s : State) (n : SiteNo) (f : Site → Site) : (s.modSite n f).acs = s.acs := rfl
@[simp] theorem State.modSite_frames (s : State) (n : SiteNo) (f : Site → Site) : (s.modSite n f).frames = s.frames := rfl
@[simp] theorem State.modSite_sealed (s : State) (n : SiteNo) (f : Site → Site) : (s.modSite n f).sealed = s.sealed := rfl
@[simp] theorem State.modSite_touched (s : State) (n : SiteNo) (f : Site → Site) : (s.modSite n f).touched = s.touched := rfl
@[simp] theorem State.modSite_bad (s : State) (n : SiteNo) (f : Site → Site) : (s.modSite n f).bad = s.bad := rfl
@[simp] theorem State.modSite_sqs (s : State) (n : SiteNo) (f : Site → Site) : (s.modSite n f).sqs = s.sqs := rfl
@[simp] theorem State.modSite_parts (s : State) (n : SiteNo) (f : Site → Site) : (s.modSite n f).parts = s.parts := rfl
@[simp] theorem State.modSite_queues (s : State) (n : SiteNo) (f : Site → Site) : (s.modSite n f).queues = s.queues := rfl
@[simp] theorem State.modSite_launches (s : State) (n : SiteNo) (f : Site → Site) : (s.modSite n f).launches = s.launches := rfl
@[simp] theorem State.modSite_tasks (s : State) (n : SiteNo) (f : Site → Site) : (s.modSite n f).tasks = s.tasks := rfl
@[simp] theorem State.modSite_ordinal (s : State) (n : SiteNo) (f : Site → Site) : (s.modSite n f).ordinal = s.ordinal := rfl
@[simp] theorem State.modSite_horizon (s : State) (n : SiteNo) (f : Site → Site) : (s.modSite n f).horizon = s.horizon := rfl
@[simp] theorem State.modSite_admits (s : State) (n : SiteNo) (f : Site → Site) : (s.modSite n f).admits = s.admits := rfl
@[simp] theorem State.modSite_mapped (s : State) (n : SiteNo) (f : Site → Site) : (s.modSite n f).mapped = s.mapped := rfl
@[simp] theorem State.modSite_engines (s : State) (n : SiteNo) (f : Site → Site) : (s.modSite n f).engines = s.engines := rfl
@[simp] theorem State.modSite_stalls (s : State) (n : SiteNo) (f : Site → Site) : (s.modSite n f).stalls = s.stalls := rfl
@[simp] theorem State.modSite_barriers (s : State) (n : SiteNo) (f : Site → Site) : (s.modSite n f).barriers = s.barriers := rfl
@[simp] theorem State.modSite_mboxes (s : State) (n : SiteNo) (f : Site → Site) : (s.modSite n f).mboxes = s.mboxes := rfl
@[simp] theorem State.modSite_channels (s : State) (n : SiteNo) (f : Site → Site) : (s.modSite n f).channels = s.channels := rfl
@[simp] theorem State.modSite_links (s : State) (n : SiteNo) (f : Site → Site) : (s.modSite n f).links = s.links := rfl
@[simp] theorem State.modSite_plat (s : State) (n : SiteNo) (f : Site → Site) : (s.modSite n f).plat = s.plat := rfl
@[simp] theorem State.modSite_focus (s : State) (n : SiteNo) (f : Site → Site) : (s.modSite n f).focus = s.focus := rfl
@[simp] theorem State.modSite_agenda (s : State) (n : SiteNo) (f : Site → Site) : (s.modSite n f).agenda = s.agenda := rfl
@[simp] theorem State.modSite_burst (s : State) (n : SiteNo) (f : Site → Site) : (s.modSite n f).burst = s.burst := rfl
@[simp] theorem State.modSite_turn (s : State) (n : SiteNo) (f : Site → Site) : (s.modSite n f).turn = s.turn := rfl
@[simp] theorem State.modSite_elapse (s : State) (n : SiteNo) (f : Site → Site) : (s.modSite n f).elapse = s.elapse := rfl
@[simp] theorem State.modSite_free (s : State) (n : SiteNo) (f : Site → Site) : (s.modSite n f).free = s.free := rfl

/-! ### State.setElem -/

@[simp] theorem State.setElem_time (s : State) (ea : EAddr) (c : BitVec 2) (v : ElemCtx) : (s.setElem ea c v).time = s.time := rfl
@[simp] theorem State.setElem_sites (s : State) (ea : EAddr) (c : BitVec 2) (v : ElemCtx) : (s.setElem ea c v).sites = s.sites := rfl
@[simp] theorem State.setElem_ports (s : State) (ea : EAddr) (c : BitVec 2) (v : ElemCtx) : (s.setElem ea c v).ports = s.ports := rfl
@[simp] theorem State.setElem_dmem (s : State) (ea : EAddr) (c : BitVec 2) (v : ElemCtx) : (s.setElem ea c v).dmem = s.dmem := rfl
@[simp] theorem State.setElem_spad (s : State) (ea : EAddr) (c : BitVec 2) (v : ElemCtx) : (s.setElem ea c v).spad = s.spad := rfl
@[simp] theorem State.setElem_lram (s : State) (ea : EAddr) (c : BitVec 2) (v : ElemCtx) : (s.setElem ea c v).lram = s.lram := rfl
@[simp] theorem State.setElem_ws (s : State) (ea : EAddr) (c : BitVec 2) (v : ElemCtx) : (s.setElem ea c v).ws = s.ws := rfl
@[simp] theorem State.setElem_acs (s : State) (ea : EAddr) (c : BitVec 2) (v : ElemCtx) : (s.setElem ea c v).acs = s.acs := rfl
@[simp] theorem State.setElem_frames (s : State) (ea : EAddr) (c : BitVec 2) (v : ElemCtx) : (s.setElem ea c v).frames = s.frames := rfl
@[simp] theorem State.setElem_sealed (s : State) (ea : EAddr) (c : BitVec 2) (v : ElemCtx) : (s.setElem ea c v).sealed = s.sealed := rfl
@[simp] theorem State.setElem_touched (s : State) (ea : EAddr) (c : BitVec 2) (v : ElemCtx) : (s.setElem ea c v).touched = s.touched := rfl
@[simp] theorem State.setElem_bad (s : State) (ea : EAddr) (c : BitVec 2) (v : ElemCtx) : (s.setElem ea c v).bad = s.bad := rfl
@[simp] theorem State.setElem_sqs (s : State) (ea : EAddr) (c : BitVec 2) (v : ElemCtx) : (s.setElem ea c v).sqs = s.sqs := rfl
@[simp] theorem State.setElem_parts (s : State) (ea : EAddr) (c : BitVec 2) (v : ElemCtx) : (s.setElem ea c v).parts = s.parts := rfl
@[simp] theorem State.setElem_queues (s : State) (ea : EAddr) (c : BitVec 2) (v : ElemCtx) : (s.setElem ea c v).queues = s.queues := rfl
@[simp] theorem State.setElem_launches (s : State) (ea : EAddr) (c : BitVec 2) (v : ElemCtx) : (s.setElem ea c v).launches = s.launches := rfl
@[simp] theorem State.setElem_tasks (s : State) (ea : EAddr) (c : BitVec 2) (v : ElemCtx) : (s.setElem ea c v).tasks = s.tasks := rfl
@[simp] theorem State.setElem_ordinal (s : State) (ea : EAddr) (c : BitVec 2) (v : ElemCtx) : (s.setElem ea c v).ordinal = s.ordinal := rfl
@[simp] theorem State.setElem_horizon (s : State) (ea : EAddr) (c : BitVec 2) (v : ElemCtx) : (s.setElem ea c v).horizon = s.horizon := rfl
@[simp] theorem State.setElem_admits (s : State) (ea : EAddr) (c : BitVec 2) (v : ElemCtx) : (s.setElem ea c v).admits = s.admits := rfl
@[simp] theorem State.setElem_mapped (s : State) (ea : EAddr) (c : BitVec 2) (v : ElemCtx) : (s.setElem ea c v).mapped = s.mapped := rfl
@[simp] theorem State.setElem_engines (s : State) (ea : EAddr) (c : BitVec 2) (v : ElemCtx) : (s.setElem ea c v).engines = s.engines := rfl
@[simp] theorem State.setElem_stalls (s : State) (ea : EAddr) (c : BitVec 2) (v : ElemCtx) : (s.setElem ea c v).stalls = s.stalls := rfl
@[simp] theorem State.setElem_barriers (s : State) (ea : EAddr) (c : BitVec 2) (v : ElemCtx) : (s.setElem ea c v).barriers = s.barriers := rfl
@[simp] theorem State.setElem_mboxes (s : State) (ea : EAddr) (c : BitVec 2) (v : ElemCtx) : (s.setElem ea c v).mboxes = s.mboxes := rfl
@[simp] theorem State.setElem_channels (s : State) (ea : EAddr) (c : BitVec 2) (v : ElemCtx) : (s.setElem ea c v).channels = s.channels := rfl
@[simp] theorem State.setElem_links (s : State) (ea : EAddr) (c : BitVec 2) (v : ElemCtx) : (s.setElem ea c v).links = s.links := rfl
@[simp] theorem State.setElem_plat (s : State) (ea : EAddr) (c : BitVec 2) (v : ElemCtx) : (s.setElem ea c v).plat = s.plat := rfl
@[simp] theorem State.setElem_focus (s : State) (ea : EAddr) (c : BitVec 2) (v : ElemCtx) : (s.setElem ea c v).focus = s.focus := rfl
@[simp] theorem State.setElem_agenda (s : State) (ea : EAddr) (c : BitVec 2) (v : ElemCtx) : (s.setElem ea c v).agenda = s.agenda := rfl
@[simp] theorem State.setElem_burst (s : State) (ea : EAddr) (c : BitVec 2) (v : ElemCtx) : (s.setElem ea c v).burst = s.burst := rfl
@[simp] theorem State.setElem_turn (s : State) (ea : EAddr) (c : BitVec 2) (v : ElemCtx) : (s.setElem ea c v).turn = s.turn := rfl
@[simp] theorem State.setElem_elapse (s : State) (ea : EAddr) (c : BitVec 2) (v : ElemCtx) : (s.setElem ea c v).elapse = s.elapse := rfl
@[simp] theorem State.setElem_free (s : State) (ea : EAddr) (c : BitVec 2) (v : ElemCtx) : (s.setElem ea c v).free = s.free := rfl

/-! ### State.modElem -/

@[simp] theorem State.modElem_time (s : State) (ea : EAddr) (c : BitVec 2) (f : ElemCtx → ElemCtx) : (s.modElem ea c f).time = s.time := rfl
@[simp] theorem State.modElem_sites (s : State) (ea : EAddr) (c : BitVec 2) (f : ElemCtx → ElemCtx) : (s.modElem ea c f).sites = s.sites := rfl
@[simp] theorem State.modElem_ports (s : State) (ea : EAddr) (c : BitVec 2) (f : ElemCtx → ElemCtx) : (s.modElem ea c f).ports = s.ports := rfl
@[simp] theorem State.modElem_dmem (s : State) (ea : EAddr) (c : BitVec 2) (f : ElemCtx → ElemCtx) : (s.modElem ea c f).dmem = s.dmem := rfl
@[simp] theorem State.modElem_spad (s : State) (ea : EAddr) (c : BitVec 2) (f : ElemCtx → ElemCtx) : (s.modElem ea c f).spad = s.spad := rfl
@[simp] theorem State.modElem_lram (s : State) (ea : EAddr) (c : BitVec 2) (f : ElemCtx → ElemCtx) : (s.modElem ea c f).lram = s.lram := rfl
@[simp] theorem State.modElem_ws (s : State) (ea : EAddr) (c : BitVec 2) (f : ElemCtx → ElemCtx) : (s.modElem ea c f).ws = s.ws := rfl
@[simp] theorem State.modElem_acs (s : State) (ea : EAddr) (c : BitVec 2) (f : ElemCtx → ElemCtx) : (s.modElem ea c f).acs = s.acs := rfl
@[simp] theorem State.modElem_frames (s : State) (ea : EAddr) (c : BitVec 2) (f : ElemCtx → ElemCtx) : (s.modElem ea c f).frames = s.frames := rfl
@[simp] theorem State.modElem_sealed (s : State) (ea : EAddr) (c : BitVec 2) (f : ElemCtx → ElemCtx) : (s.modElem ea c f).sealed = s.sealed := rfl
@[simp] theorem State.modElem_touched (s : State) (ea : EAddr) (c : BitVec 2) (f : ElemCtx → ElemCtx) : (s.modElem ea c f).touched = s.touched := rfl
@[simp] theorem State.modElem_bad (s : State) (ea : EAddr) (c : BitVec 2) (f : ElemCtx → ElemCtx) : (s.modElem ea c f).bad = s.bad := rfl
@[simp] theorem State.modElem_sqs (s : State) (ea : EAddr) (c : BitVec 2) (f : ElemCtx → ElemCtx) : (s.modElem ea c f).sqs = s.sqs := rfl
@[simp] theorem State.modElem_parts (s : State) (ea : EAddr) (c : BitVec 2) (f : ElemCtx → ElemCtx) : (s.modElem ea c f).parts = s.parts := rfl
@[simp] theorem State.modElem_queues (s : State) (ea : EAddr) (c : BitVec 2) (f : ElemCtx → ElemCtx) : (s.modElem ea c f).queues = s.queues := rfl
@[simp] theorem State.modElem_launches (s : State) (ea : EAddr) (c : BitVec 2) (f : ElemCtx → ElemCtx) : (s.modElem ea c f).launches = s.launches := rfl
@[simp] theorem State.modElem_tasks (s : State) (ea : EAddr) (c : BitVec 2) (f : ElemCtx → ElemCtx) : (s.modElem ea c f).tasks = s.tasks := rfl
@[simp] theorem State.modElem_ordinal (s : State) (ea : EAddr) (c : BitVec 2) (f : ElemCtx → ElemCtx) : (s.modElem ea c f).ordinal = s.ordinal := rfl
@[simp] theorem State.modElem_horizon (s : State) (ea : EAddr) (c : BitVec 2) (f : ElemCtx → ElemCtx) : (s.modElem ea c f).horizon = s.horizon := rfl
@[simp] theorem State.modElem_admits (s : State) (ea : EAddr) (c : BitVec 2) (f : ElemCtx → ElemCtx) : (s.modElem ea c f).admits = s.admits := rfl
@[simp] theorem State.modElem_mapped (s : State) (ea : EAddr) (c : BitVec 2) (f : ElemCtx → ElemCtx) : (s.modElem ea c f).mapped = s.mapped := rfl
@[simp] theorem State.modElem_engines (s : State) (ea : EAddr) (c : BitVec 2) (f : ElemCtx → ElemCtx) : (s.modElem ea c f).engines = s.engines := rfl
@[simp] theorem State.modElem_stalls (s : State) (ea : EAddr) (c : BitVec 2) (f : ElemCtx → ElemCtx) : (s.modElem ea c f).stalls = s.stalls := rfl
@[simp] theorem State.modElem_barriers (s : State) (ea : EAddr) (c : BitVec 2) (f : ElemCtx → ElemCtx) : (s.modElem ea c f).barriers = s.barriers := rfl
@[simp] theorem State.modElem_mboxes (s : State) (ea : EAddr) (c : BitVec 2) (f : ElemCtx → ElemCtx) : (s.modElem ea c f).mboxes = s.mboxes := rfl
@[simp] theorem State.modElem_channels (s : State) (ea : EAddr) (c : BitVec 2) (f : ElemCtx → ElemCtx) : (s.modElem ea c f).channels = s.channels := rfl
@[simp] theorem State.modElem_links (s : State) (ea : EAddr) (c : BitVec 2) (f : ElemCtx → ElemCtx) : (s.modElem ea c f).links = s.links := rfl
@[simp] theorem State.modElem_plat (s : State) (ea : EAddr) (c : BitVec 2) (f : ElemCtx → ElemCtx) : (s.modElem ea c f).plat = s.plat := rfl
@[simp] theorem State.modElem_focus (s : State) (ea : EAddr) (c : BitVec 2) (f : ElemCtx → ElemCtx) : (s.modElem ea c f).focus = s.focus := rfl
@[simp] theorem State.modElem_agenda (s : State) (ea : EAddr) (c : BitVec 2) (f : ElemCtx → ElemCtx) : (s.modElem ea c f).agenda = s.agenda := rfl
@[simp] theorem State.modElem_burst (s : State) (ea : EAddr) (c : BitVec 2) (f : ElemCtx → ElemCtx) : (s.modElem ea c f).burst = s.burst := rfl
@[simp] theorem State.modElem_turn (s : State) (ea : EAddr) (c : BitVec 2) (f : ElemCtx → ElemCtx) : (s.modElem ea c f).turn = s.turn := rfl
@[simp] theorem State.modElem_elapse (s : State) (ea : EAddr) (c : BitVec 2) (f : ElemCtx → ElemCtx) : (s.modElem ea c f).elapse = s.elapse := rfl
@[simp] theorem State.modElem_free (s : State) (ea : EAddr) (c : BitVec 2) (f : ElemCtx → ElemCtx) : (s.modElem ea c f).free = s.free := rfl

/-! ### State.setPort -/

@[simp] theorem State.setPort_time (s : State) (ea : EAddr) (v : CfgPort) : (s.setPort ea v).time = s.time := rfl
@[simp] theorem State.setPort_sites (s : State) (ea : EAddr) (v : CfgPort) : (s.setPort ea v).sites = s.sites := rfl
@[simp] theorem State.setPort_elems (s : State) (ea : EAddr) (v : CfgPort) : (s.setPort ea v).elems = s.elems := rfl
@[simp] theorem State.setPort_dmem (s : State) (ea : EAddr) (v : CfgPort) : (s.setPort ea v).dmem = s.dmem := rfl
@[simp] theorem State.setPort_spad (s : State) (ea : EAddr) (v : CfgPort) : (s.setPort ea v).spad = s.spad := rfl
@[simp] theorem State.setPort_lram (s : State) (ea : EAddr) (v : CfgPort) : (s.setPort ea v).lram = s.lram := rfl
@[simp] theorem State.setPort_ws (s : State) (ea : EAddr) (v : CfgPort) : (s.setPort ea v).ws = s.ws := rfl
@[simp] theorem State.setPort_acs (s : State) (ea : EAddr) (v : CfgPort) : (s.setPort ea v).acs = s.acs := rfl
@[simp] theorem State.setPort_frames (s : State) (ea : EAddr) (v : CfgPort) : (s.setPort ea v).frames = s.frames := rfl
@[simp] theorem State.setPort_sealed (s : State) (ea : EAddr) (v : CfgPort) : (s.setPort ea v).sealed = s.sealed := rfl
@[simp] theorem State.setPort_touched (s : State) (ea : EAddr) (v : CfgPort) : (s.setPort ea v).touched = s.touched := rfl
@[simp] theorem State.setPort_bad (s : State) (ea : EAddr) (v : CfgPort) : (s.setPort ea v).bad = s.bad := rfl
@[simp] theorem State.setPort_sqs (s : State) (ea : EAddr) (v : CfgPort) : (s.setPort ea v).sqs = s.sqs := rfl
@[simp] theorem State.setPort_parts (s : State) (ea : EAddr) (v : CfgPort) : (s.setPort ea v).parts = s.parts := rfl
@[simp] theorem State.setPort_queues (s : State) (ea : EAddr) (v : CfgPort) : (s.setPort ea v).queues = s.queues := rfl
@[simp] theorem State.setPort_launches (s : State) (ea : EAddr) (v : CfgPort) : (s.setPort ea v).launches = s.launches := rfl
@[simp] theorem State.setPort_tasks (s : State) (ea : EAddr) (v : CfgPort) : (s.setPort ea v).tasks = s.tasks := rfl
@[simp] theorem State.setPort_ordinal (s : State) (ea : EAddr) (v : CfgPort) : (s.setPort ea v).ordinal = s.ordinal := rfl
@[simp] theorem State.setPort_horizon (s : State) (ea : EAddr) (v : CfgPort) : (s.setPort ea v).horizon = s.horizon := rfl
@[simp] theorem State.setPort_admits (s : State) (ea : EAddr) (v : CfgPort) : (s.setPort ea v).admits = s.admits := rfl
@[simp] theorem State.setPort_mapped (s : State) (ea : EAddr) (v : CfgPort) : (s.setPort ea v).mapped = s.mapped := rfl
@[simp] theorem State.setPort_engines (s : State) (ea : EAddr) (v : CfgPort) : (s.setPort ea v).engines = s.engines := rfl
@[simp] theorem State.setPort_stalls (s : State) (ea : EAddr) (v : CfgPort) : (s.setPort ea v).stalls = s.stalls := rfl
@[simp] theorem State.setPort_barriers (s : State) (ea : EAddr) (v : CfgPort) : (s.setPort ea v).barriers = s.barriers := rfl
@[simp] theorem State.setPort_mboxes (s : State) (ea : EAddr) (v : CfgPort) : (s.setPort ea v).mboxes = s.mboxes := rfl
@[simp] theorem State.setPort_channels (s : State) (ea : EAddr) (v : CfgPort) : (s.setPort ea v).channels = s.channels := rfl
@[simp] theorem State.setPort_links (s : State) (ea : EAddr) (v : CfgPort) : (s.setPort ea v).links = s.links := rfl
@[simp] theorem State.setPort_plat (s : State) (ea : EAddr) (v : CfgPort) : (s.setPort ea v).plat = s.plat := rfl
@[simp] theorem State.setPort_focus (s : State) (ea : EAddr) (v : CfgPort) : (s.setPort ea v).focus = s.focus := rfl
@[simp] theorem State.setPort_agenda (s : State) (ea : EAddr) (v : CfgPort) : (s.setPort ea v).agenda = s.agenda := rfl
@[simp] theorem State.setPort_burst (s : State) (ea : EAddr) (v : CfgPort) : (s.setPort ea v).burst = s.burst := rfl
@[simp] theorem State.setPort_turn (s : State) (ea : EAddr) (v : CfgPort) : (s.setPort ea v).turn = s.turn := rfl
@[simp] theorem State.setPort_elapse (s : State) (ea : EAddr) (v : CfgPort) : (s.setPort ea v).elapse = s.elapse := rfl
@[simp] theorem State.setPort_free (s : State) (ea : EAddr) (v : CfgPort) : (s.setPort ea v).free = s.free := rfl

/-! ### State.setSq -/

@[simp] theorem State.setSq_time (s : State) (b : BitVec 6) (v : Sq) : (s.setSq b v).time = s.time := rfl
@[simp] theorem State.setSq_sites (s : State) (b : BitVec 6) (v : Sq) : (s.setSq b v).sites = s.sites := rfl
@[simp] theorem State.setSq_elems (s : State) (b : BitVec 6) (v : Sq) : (s.setSq b v).elems = s.elems := rfl
@[simp] theorem State.setSq_ports (s : State) (b : BitVec 6) (v : Sq) : (s.setSq b v).ports = s.ports := rfl
@[simp] theorem State.setSq_dmem (s : State) (b : BitVec 6) (v : Sq) : (s.setSq b v).dmem = s.dmem := rfl
@[simp] theorem State.setSq_spad (s : State) (b : BitVec 6) (v : Sq) : (s.setSq b v).spad = s.spad := rfl
@[simp] theorem State.setSq_lram (s : State) (b : BitVec 6) (v : Sq) : (s.setSq b v).lram = s.lram := rfl
@[simp] theorem State.setSq_ws (s : State) (b : BitVec 6) (v : Sq) : (s.setSq b v).ws = s.ws := rfl
@[simp] theorem State.setSq_acs (s : State) (b : BitVec 6) (v : Sq) : (s.setSq b v).acs = s.acs := rfl
@[simp] theorem State.setSq_frames (s : State) (b : BitVec 6) (v : Sq) : (s.setSq b v).frames = s.frames := rfl
@[simp] theorem State.setSq_sealed (s : State) (b : BitVec 6) (v : Sq) : (s.setSq b v).sealed = s.sealed := rfl
@[simp] theorem State.setSq_touched (s : State) (b : BitVec 6) (v : Sq) : (s.setSq b v).touched = s.touched := rfl
@[simp] theorem State.setSq_bad (s : State) (b : BitVec 6) (v : Sq) : (s.setSq b v).bad = s.bad := rfl
@[simp] theorem State.setSq_parts (s : State) (b : BitVec 6) (v : Sq) : (s.setSq b v).parts = s.parts := rfl
@[simp] theorem State.setSq_queues (s : State) (b : BitVec 6) (v : Sq) : (s.setSq b v).queues = s.queues := rfl
@[simp] theorem State.setSq_launches (s : State) (b : BitVec 6) (v : Sq) : (s.setSq b v).launches = s.launches := rfl
@[simp] theorem State.setSq_tasks (s : State) (b : BitVec 6) (v : Sq) : (s.setSq b v).tasks = s.tasks := rfl
@[simp] theorem State.setSq_ordinal (s : State) (b : BitVec 6) (v : Sq) : (s.setSq b v).ordinal = s.ordinal := rfl
@[simp] theorem State.setSq_horizon (s : State) (b : BitVec 6) (v : Sq) : (s.setSq b v).horizon = s.horizon := rfl
@[simp] theorem State.setSq_admits (s : State) (b : BitVec 6) (v : Sq) : (s.setSq b v).admits = s.admits := rfl
@[simp] theorem State.setSq_mapped (s : State) (b : BitVec 6) (v : Sq) : (s.setSq b v).mapped = s.mapped := rfl
@[simp] theorem State.setSq_engines (s : State) (b : BitVec 6) (v : Sq) : (s.setSq b v).engines = s.engines := rfl
@[simp] theorem State.setSq_stalls (s : State) (b : BitVec 6) (v : Sq) : (s.setSq b v).stalls = s.stalls := rfl
@[simp] theorem State.setSq_barriers (s : State) (b : BitVec 6) (v : Sq) : (s.setSq b v).barriers = s.barriers := rfl
@[simp] theorem State.setSq_mboxes (s : State) (b : BitVec 6) (v : Sq) : (s.setSq b v).mboxes = s.mboxes := rfl
@[simp] theorem State.setSq_channels (s : State) (b : BitVec 6) (v : Sq) : (s.setSq b v).channels = s.channels := rfl
@[simp] theorem State.setSq_links (s : State) (b : BitVec 6) (v : Sq) : (s.setSq b v).links = s.links := rfl
@[simp] theorem State.setSq_plat (s : State) (b : BitVec 6) (v : Sq) : (s.setSq b v).plat = s.plat := rfl
@[simp] theorem State.setSq_focus (s : State) (b : BitVec 6) (v : Sq) : (s.setSq b v).focus = s.focus := rfl
@[simp] theorem State.setSq_agenda (s : State) (b : BitVec 6) (v : Sq) : (s.setSq b v).agenda = s.agenda := rfl
@[simp] theorem State.setSq_burst (s : State) (b : BitVec 6) (v : Sq) : (s.setSq b v).burst = s.burst := rfl
@[simp] theorem State.setSq_turn (s : State) (b : BitVec 6) (v : Sq) : (s.setSq b v).turn = s.turn := rfl
@[simp] theorem State.setSq_elapse (s : State) (b : BitVec 6) (v : Sq) : (s.setSq b v).elapse = s.elapse := rfl
@[simp] theorem State.setSq_free (s : State) (b : BitVec 6) (v : Sq) : (s.setSq b v).free = s.free := rfl

/-! ### State.modSq -/

@[simp] theorem State.modSq_time (s : State) (b : BitVec 6) (f : Sq → Sq) : (s.modSq b f).time = s.time := rfl
@[simp] theorem State.modSq_sites (s : State) (b : BitVec 6) (f : Sq → Sq) : (s.modSq b f).sites = s.sites := rfl
@[simp] theorem State.modSq_elems (s : State) (b : BitVec 6) (f : Sq → Sq) : (s.modSq b f).elems = s.elems := rfl
@[simp] theorem State.modSq_ports (s : State) (b : BitVec 6) (f : Sq → Sq) : (s.modSq b f).ports = s.ports := rfl
@[simp] theorem State.modSq_dmem (s : State) (b : BitVec 6) (f : Sq → Sq) : (s.modSq b f).dmem = s.dmem := rfl
@[simp] theorem State.modSq_spad (s : State) (b : BitVec 6) (f : Sq → Sq) : (s.modSq b f).spad = s.spad := rfl
@[simp] theorem State.modSq_lram (s : State) (b : BitVec 6) (f : Sq → Sq) : (s.modSq b f).lram = s.lram := rfl
@[simp] theorem State.modSq_ws (s : State) (b : BitVec 6) (f : Sq → Sq) : (s.modSq b f).ws = s.ws := rfl
@[simp] theorem State.modSq_acs (s : State) (b : BitVec 6) (f : Sq → Sq) : (s.modSq b f).acs = s.acs := rfl
@[simp] theorem State.modSq_frames (s : State) (b : BitVec 6) (f : Sq → Sq) : (s.modSq b f).frames = s.frames := rfl
@[simp] theorem State.modSq_sealed (s : State) (b : BitVec 6) (f : Sq → Sq) : (s.modSq b f).sealed = s.sealed := rfl
@[simp] theorem State.modSq_touched (s : State) (b : BitVec 6) (f : Sq → Sq) : (s.modSq b f).touched = s.touched := rfl
@[simp] theorem State.modSq_bad (s : State) (b : BitVec 6) (f : Sq → Sq) : (s.modSq b f).bad = s.bad := rfl
@[simp] theorem State.modSq_parts (s : State) (b : BitVec 6) (f : Sq → Sq) : (s.modSq b f).parts = s.parts := rfl
@[simp] theorem State.modSq_queues (s : State) (b : BitVec 6) (f : Sq → Sq) : (s.modSq b f).queues = s.queues := rfl
@[simp] theorem State.modSq_launches (s : State) (b : BitVec 6) (f : Sq → Sq) : (s.modSq b f).launches = s.launches := rfl
@[simp] theorem State.modSq_tasks (s : State) (b : BitVec 6) (f : Sq → Sq) : (s.modSq b f).tasks = s.tasks := rfl
@[simp] theorem State.modSq_ordinal (s : State) (b : BitVec 6) (f : Sq → Sq) : (s.modSq b f).ordinal = s.ordinal := rfl
@[simp] theorem State.modSq_horizon (s : State) (b : BitVec 6) (f : Sq → Sq) : (s.modSq b f).horizon = s.horizon := rfl
@[simp] theorem State.modSq_admits (s : State) (b : BitVec 6) (f : Sq → Sq) : (s.modSq b f).admits = s.admits := rfl
@[simp] theorem State.modSq_mapped (s : State) (b : BitVec 6) (f : Sq → Sq) : (s.modSq b f).mapped = s.mapped := rfl
@[simp] theorem State.modSq_engines (s : State) (b : BitVec 6) (f : Sq → Sq) : (s.modSq b f).engines = s.engines := rfl
@[simp] theorem State.modSq_stalls (s : State) (b : BitVec 6) (f : Sq → Sq) : (s.modSq b f).stalls = s.stalls := rfl
@[simp] theorem State.modSq_barriers (s : State) (b : BitVec 6) (f : Sq → Sq) : (s.modSq b f).barriers = s.barriers := rfl
@[simp] theorem State.modSq_mboxes (s : State) (b : BitVec 6) (f : Sq → Sq) : (s.modSq b f).mboxes = s.mboxes := rfl
@[simp] theorem State.modSq_channels (s : State) (b : BitVec 6) (f : Sq → Sq) : (s.modSq b f).channels = s.channels := rfl
@[simp] theorem State.modSq_links (s : State) (b : BitVec 6) (f : Sq → Sq) : (s.modSq b f).links = s.links := rfl
@[simp] theorem State.modSq_plat (s : State) (b : BitVec 6) (f : Sq → Sq) : (s.modSq b f).plat = s.plat := rfl
@[simp] theorem State.modSq_focus (s : State) (b : BitVec 6) (f : Sq → Sq) : (s.modSq b f).focus = s.focus := rfl
@[simp] theorem State.modSq_agenda (s : State) (b : BitVec 6) (f : Sq → Sq) : (s.modSq b f).agenda = s.agenda := rfl
@[simp] theorem State.modSq_burst (s : State) (b : BitVec 6) (f : Sq → Sq) : (s.modSq b f).burst = s.burst := rfl
@[simp] theorem State.modSq_turn (s : State) (b : BitVec 6) (f : Sq → Sq) : (s.modSq b f).turn = s.turn := rfl
@[simp] theorem State.modSq_elapse (s : State) (b : BitVec 6) (f : Sq → Sq) : (s.modSq b f).elapse = s.elapse := rfl
@[simp] theorem State.modSq_free (s : State) (b : BitVec 6) (f : Sq → Sq) : (s.modSq b f).free = s.free := rfl

/-! ### State.setPart -/

@[simp] theorem State.setPart_time (s : State) (p : Nat) (v : Part) : (s.setPart p v).time = s.time := rfl
@[simp] theorem State.setPart_sites (s : State) (p : Nat) (v : Part) : (s.setPart p v).sites = s.sites := rfl
@[simp] theorem State.setPart_elems (s : State) (p : Nat) (v : Part) : (s.setPart p v).elems = s.elems := rfl
@[simp] theorem State.setPart_ports (s : State) (p : Nat) (v : Part) : (s.setPart p v).ports = s.ports := rfl
@[simp] theorem State.setPart_dmem (s : State) (p : Nat) (v : Part) : (s.setPart p v).dmem = s.dmem := rfl
@[simp] theorem State.setPart_spad (s : State) (p : Nat) (v : Part) : (s.setPart p v).spad = s.spad := rfl
@[simp] theorem State.setPart_lram (s : State) (p : Nat) (v : Part) : (s.setPart p v).lram = s.lram := rfl
@[simp] theorem State.setPart_ws (s : State) (p : Nat) (v : Part) : (s.setPart p v).ws = s.ws := rfl
@[simp] theorem State.setPart_acs (s : State) (p : Nat) (v : Part) : (s.setPart p v).acs = s.acs := rfl
@[simp] theorem State.setPart_frames (s : State) (p : Nat) (v : Part) : (s.setPart p v).frames = s.frames := rfl
@[simp] theorem State.setPart_sealed (s : State) (p : Nat) (v : Part) : (s.setPart p v).sealed = s.sealed := rfl
@[simp] theorem State.setPart_touched (s : State) (p : Nat) (v : Part) : (s.setPart p v).touched = s.touched := rfl
@[simp] theorem State.setPart_bad (s : State) (p : Nat) (v : Part) : (s.setPart p v).bad = s.bad := rfl
@[simp] theorem State.setPart_sqs (s : State) (p : Nat) (v : Part) : (s.setPart p v).sqs = s.sqs := rfl
@[simp] theorem State.setPart_queues (s : State) (p : Nat) (v : Part) : (s.setPart p v).queues = s.queues := rfl
@[simp] theorem State.setPart_launches (s : State) (p : Nat) (v : Part) : (s.setPart p v).launches = s.launches := rfl
@[simp] theorem State.setPart_tasks (s : State) (p : Nat) (v : Part) : (s.setPart p v).tasks = s.tasks := rfl
@[simp] theorem State.setPart_ordinal (s : State) (p : Nat) (v : Part) : (s.setPart p v).ordinal = s.ordinal := rfl
@[simp] theorem State.setPart_horizon (s : State) (p : Nat) (v : Part) : (s.setPart p v).horizon = s.horizon := rfl
@[simp] theorem State.setPart_admits (s : State) (p : Nat) (v : Part) : (s.setPart p v).admits = s.admits := rfl
@[simp] theorem State.setPart_mapped (s : State) (p : Nat) (v : Part) : (s.setPart p v).mapped = s.mapped := rfl
@[simp] theorem State.setPart_engines (s : State) (p : Nat) (v : Part) : (s.setPart p v).engines = s.engines := rfl
@[simp] theorem State.setPart_stalls (s : State) (p : Nat) (v : Part) : (s.setPart p v).stalls = s.stalls := rfl
@[simp] theorem State.setPart_barriers (s : State) (p : Nat) (v : Part) : (s.setPart p v).barriers = s.barriers := rfl
@[simp] theorem State.setPart_mboxes (s : State) (p : Nat) (v : Part) : (s.setPart p v).mboxes = s.mboxes := rfl
@[simp] theorem State.setPart_channels (s : State) (p : Nat) (v : Part) : (s.setPart p v).channels = s.channels := rfl
@[simp] theorem State.setPart_links (s : State) (p : Nat) (v : Part) : (s.setPart p v).links = s.links := rfl
@[simp] theorem State.setPart_plat (s : State) (p : Nat) (v : Part) : (s.setPart p v).plat = s.plat := rfl
@[simp] theorem State.setPart_focus (s : State) (p : Nat) (v : Part) : (s.setPart p v).focus = s.focus := rfl
@[simp] theorem State.setPart_agenda (s : State) (p : Nat) (v : Part) : (s.setPart p v).agenda = s.agenda := rfl
@[simp] theorem State.setPart_burst (s : State) (p : Nat) (v : Part) : (s.setPart p v).burst = s.burst := rfl
@[simp] theorem State.setPart_turn (s : State) (p : Nat) (v : Part) : (s.setPart p v).turn = s.turn := rfl
@[simp] theorem State.setPart_elapse (s : State) (p : Nat) (v : Part) : (s.setPart p v).elapse = s.elapse := rfl
@[simp] theorem State.setPart_free (s : State) (p : Nat) (v : Part) : (s.setPart p v).free = s.free := rfl

/-! ### State.modPart -/

@[simp] theorem State.modPart_time (s : State) (p : Nat) (f : Part → Part) : (s.modPart p f).time = s.time := rfl
@[simp] theorem State.modPart_sites (s : State) (p : Nat) (f : Part → Part) : (s.modPart p f).sites = s.sites := rfl
@[simp] theorem State.modPart_elems (s : State) (p : Nat) (f : Part → Part) : (s.modPart p f).elems = s.elems := rfl
@[simp] theorem State.modPart_ports (s : State) (p : Nat) (f : Part → Part) : (s.modPart p f).ports = s.ports := rfl
@[simp] theorem State.modPart_dmem (s : State) (p : Nat) (f : Part → Part) : (s.modPart p f).dmem = s.dmem := rfl
@[simp] theorem State.modPart_spad (s : State) (p : Nat) (f : Part → Part) : (s.modPart p f).spad = s.spad := rfl
@[simp] theorem State.modPart_lram (s : State) (p : Nat) (f : Part → Part) : (s.modPart p f).lram = s.lram := rfl
@[simp] theorem State.modPart_ws (s : State) (p : Nat) (f : Part → Part) : (s.modPart p f).ws = s.ws := rfl
@[simp] theorem State.modPart_acs (s : State) (p : Nat) (f : Part → Part) : (s.modPart p f).acs = s.acs := rfl
@[simp] theorem State.modPart_frames (s : State) (p : Nat) (f : Part → Part) : (s.modPart p f).frames = s.frames := rfl
@[simp] theorem State.modPart_sealed (s : State) (p : Nat) (f : Part → Part) : (s.modPart p f).sealed = s.sealed := rfl
@[simp] theorem State.modPart_touched (s : State) (p : Nat) (f : Part → Part) : (s.modPart p f).touched = s.touched := rfl
@[simp] theorem State.modPart_bad (s : State) (p : Nat) (f : Part → Part) : (s.modPart p f).bad = s.bad := rfl
@[simp] theorem State.modPart_sqs (s : State) (p : Nat) (f : Part → Part) : (s.modPart p f).sqs = s.sqs := rfl
@[simp] theorem State.modPart_queues (s : State) (p : Nat) (f : Part → Part) : (s.modPart p f).queues = s.queues := rfl
@[simp] theorem State.modPart_launches (s : State) (p : Nat) (f : Part → Part) : (s.modPart p f).launches = s.launches := rfl
@[simp] theorem State.modPart_tasks (s : State) (p : Nat) (f : Part → Part) : (s.modPart p f).tasks = s.tasks := rfl
@[simp] theorem State.modPart_ordinal (s : State) (p : Nat) (f : Part → Part) : (s.modPart p f).ordinal = s.ordinal := rfl
@[simp] theorem State.modPart_horizon (s : State) (p : Nat) (f : Part → Part) : (s.modPart p f).horizon = s.horizon := rfl
@[simp] theorem State.modPart_admits (s : State) (p : Nat) (f : Part → Part) : (s.modPart p f).admits = s.admits := rfl
@[simp] theorem State.modPart_mapped (s : State) (p : Nat) (f : Part → Part) : (s.modPart p f).mapped = s.mapped := rfl
@[simp] theorem State.modPart_engines (s : State) (p : Nat) (f : Part → Part) : (s.modPart p f).engines = s.engines := rfl
@[simp] theorem State.modPart_stalls (s : State) (p : Nat) (f : Part → Part) : (s.modPart p f).stalls = s.stalls := rfl
@[simp] theorem State.modPart_barriers (s : State) (p : Nat) (f : Part → Part) : (s.modPart p f).barriers = s.barriers := rfl
@[simp] theorem State.modPart_mboxes (s : State) (p : Nat) (f : Part → Part) : (s.modPart p f).mboxes = s.mboxes := rfl
@[simp] theorem State.modPart_channels (s : State) (p : Nat) (f : Part → Part) : (s.modPart p f).channels = s.channels := rfl
@[simp] theorem State.modPart_links (s : State) (p : Nat) (f : Part → Part) : (s.modPart p f).links = s.links := rfl
@[simp] theorem State.modPart_plat (s : State) (p : Nat) (f : Part → Part) : (s.modPart p f).plat = s.plat := rfl
@[simp] theorem State.modPart_focus (s : State) (p : Nat) (f : Part → Part) : (s.modPart p f).focus = s.focus := rfl
@[simp] theorem State.modPart_agenda (s : State) (p : Nat) (f : Part → Part) : (s.modPart p f).agenda = s.agenda := rfl
@[simp] theorem State.modPart_burst (s : State) (p : Nat) (f : Part → Part) : (s.modPart p f).burst = s.burst := rfl
@[simp] theorem State.modPart_turn (s : State) (p : Nat) (f : Part → Part) : (s.modPart p f).turn = s.turn := rfl
@[simp] theorem State.modPart_elapse (s : State) (p : Nat) (f : Part → Part) : (s.modPart p f).elapse = s.elapse := rfl
@[simp] theorem State.modPart_free (s : State) (p : Nat) (f : Part → Part) : (s.modPart p f).free = s.free := rfl

/-! ### State.setQueue -/

@[simp] theorem State.setQueue_time (s : State) (q : BitVec 12) (v : WorkQueue) : (s.setQueue q v).time = s.time := rfl
@[simp] theorem State.setQueue_sites (s : State) (q : BitVec 12) (v : WorkQueue) : (s.setQueue q v).sites = s.sites := rfl
@[simp] theorem State.setQueue_elems (s : State) (q : BitVec 12) (v : WorkQueue) : (s.setQueue q v).elems = s.elems := rfl
@[simp] theorem State.setQueue_ports (s : State) (q : BitVec 12) (v : WorkQueue) : (s.setQueue q v).ports = s.ports := rfl
@[simp] theorem State.setQueue_dmem (s : State) (q : BitVec 12) (v : WorkQueue) : (s.setQueue q v).dmem = s.dmem := rfl
@[simp] theorem State.setQueue_spad (s : State) (q : BitVec 12) (v : WorkQueue) : (s.setQueue q v).spad = s.spad := rfl
@[simp] theorem State.setQueue_lram (s : State) (q : BitVec 12) (v : WorkQueue) : (s.setQueue q v).lram = s.lram := rfl
@[simp] theorem State.setQueue_ws (s : State) (q : BitVec 12) (v : WorkQueue) : (s.setQueue q v).ws = s.ws := rfl
@[simp] theorem State.setQueue_acs (s : State) (q : BitVec 12) (v : WorkQueue) : (s.setQueue q v).acs = s.acs := rfl
@[simp] theorem State.setQueue_frames (s : State) (q : BitVec 12) (v : WorkQueue) : (s.setQueue q v).frames = s.frames := rfl
@[simp] theorem State.setQueue_sealed (s : State) (q : BitVec 12) (v : WorkQueue) : (s.setQueue q v).sealed = s.sealed := rfl
@[simp] theorem State.setQueue_touched (s : State) (q : BitVec 12) (v : WorkQueue) : (s.setQueue q v).touched = s.touched := rfl
@[simp] theorem State.setQueue_bad (s : State) (q : BitVec 12) (v : WorkQueue) : (s.setQueue q v).bad = s.bad := rfl
@[simp] theorem State.setQueue_sqs (s : State) (q : BitVec 12) (v : WorkQueue) : (s.setQueue q v).sqs = s.sqs := rfl
@[simp] theorem State.setQueue_parts (s : State) (q : BitVec 12) (v : WorkQueue) : (s.setQueue q v).parts = s.parts := rfl
@[simp] theorem State.setQueue_launches (s : State) (q : BitVec 12) (v : WorkQueue) : (s.setQueue q v).launches = s.launches := rfl
@[simp] theorem State.setQueue_tasks (s : State) (q : BitVec 12) (v : WorkQueue) : (s.setQueue q v).tasks = s.tasks := rfl
@[simp] theorem State.setQueue_ordinal (s : State) (q : BitVec 12) (v : WorkQueue) : (s.setQueue q v).ordinal = s.ordinal := rfl
@[simp] theorem State.setQueue_horizon (s : State) (q : BitVec 12) (v : WorkQueue) : (s.setQueue q v).horizon = s.horizon := rfl
@[simp] theorem State.setQueue_admits (s : State) (q : BitVec 12) (v : WorkQueue) : (s.setQueue q v).admits = s.admits := rfl
@[simp] theorem State.setQueue_mapped (s : State) (q : BitVec 12) (v : WorkQueue) : (s.setQueue q v).mapped = s.mapped := rfl
@[simp] theorem State.setQueue_engines (s : State) (q : BitVec 12) (v : WorkQueue) : (s.setQueue q v).engines = s.engines := rfl
@[simp] theorem State.setQueue_stalls (s : State) (q : BitVec 12) (v : WorkQueue) : (s.setQueue q v).stalls = s.stalls := rfl
@[simp] theorem State.setQueue_barriers (s : State) (q : BitVec 12) (v : WorkQueue) : (s.setQueue q v).barriers = s.barriers := rfl
@[simp] theorem State.setQueue_mboxes (s : State) (q : BitVec 12) (v : WorkQueue) : (s.setQueue q v).mboxes = s.mboxes := rfl
@[simp] theorem State.setQueue_channels (s : State) (q : BitVec 12) (v : WorkQueue) : (s.setQueue q v).channels = s.channels := rfl
@[simp] theorem State.setQueue_links (s : State) (q : BitVec 12) (v : WorkQueue) : (s.setQueue q v).links = s.links := rfl
@[simp] theorem State.setQueue_plat (s : State) (q : BitVec 12) (v : WorkQueue) : (s.setQueue q v).plat = s.plat := rfl
@[simp] theorem State.setQueue_focus (s : State) (q : BitVec 12) (v : WorkQueue) : (s.setQueue q v).focus = s.focus := rfl
@[simp] theorem State.setQueue_agenda (s : State) (q : BitVec 12) (v : WorkQueue) : (s.setQueue q v).agenda = s.agenda := rfl
@[simp] theorem State.setQueue_burst (s : State) (q : BitVec 12) (v : WorkQueue) : (s.setQueue q v).burst = s.burst := rfl
@[simp] theorem State.setQueue_turn (s : State) (q : BitVec 12) (v : WorkQueue) : (s.setQueue q v).turn = s.turn := rfl
@[simp] theorem State.setQueue_elapse (s : State) (q : BitVec 12) (v : WorkQueue) : (s.setQueue q v).elapse = s.elapse := rfl
@[simp] theorem State.setQueue_free (s : State) (q : BitVec 12) (v : WorkQueue) : (s.setQueue q v).free = s.free := rfl

/-! ### State.modQueue -/

@[simp] theorem State.modQueue_time (s : State) (q : BitVec 12) (f : WorkQueue → WorkQueue) : (s.modQueue q f).time = s.time := rfl
@[simp] theorem State.modQueue_sites (s : State) (q : BitVec 12) (f : WorkQueue → WorkQueue) : (s.modQueue q f).sites = s.sites := rfl
@[simp] theorem State.modQueue_elems (s : State) (q : BitVec 12) (f : WorkQueue → WorkQueue) : (s.modQueue q f).elems = s.elems := rfl
@[simp] theorem State.modQueue_ports (s : State) (q : BitVec 12) (f : WorkQueue → WorkQueue) : (s.modQueue q f).ports = s.ports := rfl
@[simp] theorem State.modQueue_dmem (s : State) (q : BitVec 12) (f : WorkQueue → WorkQueue) : (s.modQueue q f).dmem = s.dmem := rfl
@[simp] theorem State.modQueue_spad (s : State) (q : BitVec 12) (f : WorkQueue → WorkQueue) : (s.modQueue q f).spad = s.spad := rfl
@[simp] theorem State.modQueue_lram (s : State) (q : BitVec 12) (f : WorkQueue → WorkQueue) : (s.modQueue q f).lram = s.lram := rfl
@[simp] theorem State.modQueue_ws (s : State) (q : BitVec 12) (f : WorkQueue → WorkQueue) : (s.modQueue q f).ws = s.ws := rfl
@[simp] theorem State.modQueue_acs (s : State) (q : BitVec 12) (f : WorkQueue → WorkQueue) : (s.modQueue q f).acs = s.acs := rfl
@[simp] theorem State.modQueue_frames (s : State) (q : BitVec 12) (f : WorkQueue → WorkQueue) : (s.modQueue q f).frames = s.frames := rfl
@[simp] theorem State.modQueue_sealed (s : State) (q : BitVec 12) (f : WorkQueue → WorkQueue) : (s.modQueue q f).sealed = s.sealed := rfl
@[simp] theorem State.modQueue_touched (s : State) (q : BitVec 12) (f : WorkQueue → WorkQueue) : (s.modQueue q f).touched = s.touched := rfl
@[simp] theorem State.modQueue_bad (s : State) (q : BitVec 12) (f : WorkQueue → WorkQueue) : (s.modQueue q f).bad = s.bad := rfl
@[simp] theorem State.modQueue_sqs (s : State) (q : BitVec 12) (f : WorkQueue → WorkQueue) : (s.modQueue q f).sqs = s.sqs := rfl
@[simp] theorem State.modQueue_parts (s : State) (q : BitVec 12) (f : WorkQueue → WorkQueue) : (s.modQueue q f).parts = s.parts := rfl
@[simp] theorem State.modQueue_launches (s : State) (q : BitVec 12) (f : WorkQueue → WorkQueue) : (s.modQueue q f).launches = s.launches := rfl
@[simp] theorem State.modQueue_tasks (s : State) (q : BitVec 12) (f : WorkQueue → WorkQueue) : (s.modQueue q f).tasks = s.tasks := rfl
@[simp] theorem State.modQueue_ordinal (s : State) (q : BitVec 12) (f : WorkQueue → WorkQueue) : (s.modQueue q f).ordinal = s.ordinal := rfl
@[simp] theorem State.modQueue_horizon (s : State) (q : BitVec 12) (f : WorkQueue → WorkQueue) : (s.modQueue q f).horizon = s.horizon := rfl
@[simp] theorem State.modQueue_admits (s : State) (q : BitVec 12) (f : WorkQueue → WorkQueue) : (s.modQueue q f).admits = s.admits := rfl
@[simp] theorem State.modQueue_mapped (s : State) (q : BitVec 12) (f : WorkQueue → WorkQueue) : (s.modQueue q f).mapped = s.mapped := rfl
@[simp] theorem State.modQueue_engines (s : State) (q : BitVec 12) (f : WorkQueue → WorkQueue) : (s.modQueue q f).engines = s.engines := rfl
@[simp] theorem State.modQueue_stalls (s : State) (q : BitVec 12) (f : WorkQueue → WorkQueue) : (s.modQueue q f).stalls = s.stalls := rfl
@[simp] theorem State.modQueue_barriers (s : State) (q : BitVec 12) (f : WorkQueue → WorkQueue) : (s.modQueue q f).barriers = s.barriers := rfl
@[simp] theorem State.modQueue_mboxes (s : State) (q : BitVec 12) (f : WorkQueue → WorkQueue) : (s.modQueue q f).mboxes = s.mboxes := rfl
@[simp] theorem State.modQueue_channels (s : State) (q : BitVec 12) (f : WorkQueue → WorkQueue) : (s.modQueue q f).channels = s.channels := rfl
@[simp] theorem State.modQueue_links (s : State) (q : BitVec 12) (f : WorkQueue → WorkQueue) : (s.modQueue q f).links = s.links := rfl
@[simp] theorem State.modQueue_plat (s : State) (q : BitVec 12) (f : WorkQueue → WorkQueue) : (s.modQueue q f).plat = s.plat := rfl
@[simp] theorem State.modQueue_focus (s : State) (q : BitVec 12) (f : WorkQueue → WorkQueue) : (s.modQueue q f).focus = s.focus := rfl
@[simp] theorem State.modQueue_agenda (s : State) (q : BitVec 12) (f : WorkQueue → WorkQueue) : (s.modQueue q f).agenda = s.agenda := rfl
@[simp] theorem State.modQueue_burst (s : State) (q : BitVec 12) (f : WorkQueue → WorkQueue) : (s.modQueue q f).burst = s.burst := rfl
@[simp] theorem State.modQueue_turn (s : State) (q : BitVec 12) (f : WorkQueue → WorkQueue) : (s.modQueue q f).turn = s.turn := rfl
@[simp] theorem State.modQueue_elapse (s : State) (q : BitVec 12) (f : WorkQueue → WorkQueue) : (s.modQueue q f).elapse = s.elapse := rfl
@[simp] theorem State.modQueue_free (s : State) (q : BitVec 12) (f : WorkQueue → WorkQueue) : (s.modQueue q f).free = s.free := rfl

/-! ### State.setEngine -/

@[simp] theorem State.setEngine_time (s : State) (b : BitVec 6) (q : BitVec 4) (v : EngQueue) : (s.setEngine b q v).time = s.time := rfl
@[simp] theorem State.setEngine_sites (s : State) (b : BitVec 6) (q : BitVec 4) (v : EngQueue) : (s.setEngine b q v).sites = s.sites := rfl
@[simp] theorem State.setEngine_elems (s : State) (b : BitVec 6) (q : BitVec 4) (v : EngQueue) : (s.setEngine b q v).elems = s.elems := rfl
@[simp] theorem State.setEngine_ports (s : State) (b : BitVec 6) (q : BitVec 4) (v : EngQueue) : (s.setEngine b q v).ports = s.ports := rfl
@[simp] theorem State.setEngine_dmem (s : State) (b : BitVec 6) (q : BitVec 4) (v : EngQueue) : (s.setEngine b q v).dmem = s.dmem := rfl
@[simp] theorem State.setEngine_spad (s : State) (b : BitVec 6) (q : BitVec 4) (v : EngQueue) : (s.setEngine b q v).spad = s.spad := rfl
@[simp] theorem State.setEngine_lram (s : State) (b : BitVec 6) (q : BitVec 4) (v : EngQueue) : (s.setEngine b q v).lram = s.lram := rfl
@[simp] theorem State.setEngine_ws (s : State) (b : BitVec 6) (q : BitVec 4) (v : EngQueue) : (s.setEngine b q v).ws = s.ws := rfl
@[simp] theorem State.setEngine_acs (s : State) (b : BitVec 6) (q : BitVec 4) (v : EngQueue) : (s.setEngine b q v).acs = s.acs := rfl
@[simp] theorem State.setEngine_frames (s : State) (b : BitVec 6) (q : BitVec 4) (v : EngQueue) : (s.setEngine b q v).frames = s.frames := rfl
@[simp] theorem State.setEngine_sealed (s : State) (b : BitVec 6) (q : BitVec 4) (v : EngQueue) : (s.setEngine b q v).sealed = s.sealed := rfl
@[simp] theorem State.setEngine_touched (s : State) (b : BitVec 6) (q : BitVec 4) (v : EngQueue) : (s.setEngine b q v).touched = s.touched := rfl
@[simp] theorem State.setEngine_bad (s : State) (b : BitVec 6) (q : BitVec 4) (v : EngQueue) : (s.setEngine b q v).bad = s.bad := rfl
@[simp] theorem State.setEngine_sqs (s : State) (b : BitVec 6) (q : BitVec 4) (v : EngQueue) : (s.setEngine b q v).sqs = s.sqs := rfl
@[simp] theorem State.setEngine_parts (s : State) (b : BitVec 6) (q : BitVec 4) (v : EngQueue) : (s.setEngine b q v).parts = s.parts := rfl
@[simp] theorem State.setEngine_queues (s : State) (b : BitVec 6) (q : BitVec 4) (v : EngQueue) : (s.setEngine b q v).queues = s.queues := rfl
@[simp] theorem State.setEngine_launches (s : State) (b : BitVec 6) (q : BitVec 4) (v : EngQueue) : (s.setEngine b q v).launches = s.launches := rfl
@[simp] theorem State.setEngine_tasks (s : State) (b : BitVec 6) (q : BitVec 4) (v : EngQueue) : (s.setEngine b q v).tasks = s.tasks := rfl
@[simp] theorem State.setEngine_ordinal (s : State) (b : BitVec 6) (q : BitVec 4) (v : EngQueue) : (s.setEngine b q v).ordinal = s.ordinal := rfl
@[simp] theorem State.setEngine_horizon (s : State) (b : BitVec 6) (q : BitVec 4) (v : EngQueue) : (s.setEngine b q v).horizon = s.horizon := rfl
@[simp] theorem State.setEngine_admits (s : State) (b : BitVec 6) (q : BitVec 4) (v : EngQueue) : (s.setEngine b q v).admits = s.admits := rfl
@[simp] theorem State.setEngine_mapped (s : State) (b : BitVec 6) (q : BitVec 4) (v : EngQueue) : (s.setEngine b q v).mapped = s.mapped := rfl
@[simp] theorem State.setEngine_stalls (s : State) (b : BitVec 6) (q : BitVec 4) (v : EngQueue) : (s.setEngine b q v).stalls = s.stalls := rfl
@[simp] theorem State.setEngine_barriers (s : State) (b : BitVec 6) (q : BitVec 4) (v : EngQueue) : (s.setEngine b q v).barriers = s.barriers := rfl
@[simp] theorem State.setEngine_mboxes (s : State) (b : BitVec 6) (q : BitVec 4) (v : EngQueue) : (s.setEngine b q v).mboxes = s.mboxes := rfl
@[simp] theorem State.setEngine_channels (s : State) (b : BitVec 6) (q : BitVec 4) (v : EngQueue) : (s.setEngine b q v).channels = s.channels := rfl
@[simp] theorem State.setEngine_links (s : State) (b : BitVec 6) (q : BitVec 4) (v : EngQueue) : (s.setEngine b q v).links = s.links := rfl
@[simp] theorem State.setEngine_plat (s : State) (b : BitVec 6) (q : BitVec 4) (v : EngQueue) : (s.setEngine b q v).plat = s.plat := rfl
@[simp] theorem State.setEngine_focus (s : State) (b : BitVec 6) (q : BitVec 4) (v : EngQueue) : (s.setEngine b q v).focus = s.focus := rfl
@[simp] theorem State.setEngine_agenda (s : State) (b : BitVec 6) (q : BitVec 4) (v : EngQueue) : (s.setEngine b q v).agenda = s.agenda := rfl
@[simp] theorem State.setEngine_burst (s : State) (b : BitVec 6) (q : BitVec 4) (v : EngQueue) : (s.setEngine b q v).burst = s.burst := rfl
@[simp] theorem State.setEngine_turn (s : State) (b : BitVec 6) (q : BitVec 4) (v : EngQueue) : (s.setEngine b q v).turn = s.turn := rfl
@[simp] theorem State.setEngine_elapse (s : State) (b : BitVec 6) (q : BitVec 4) (v : EngQueue) : (s.setEngine b q v).elapse = s.elapse := rfl
@[simp] theorem State.setEngine_free (s : State) (b : BitVec 6) (q : BitVec 4) (v : EngQueue) : (s.setEngine b q v).free = s.free := rfl

/-! ### State.setBarrier -/

@[simp] theorem State.setBarrier_time (s : State) (o : Nat) (v : Barrier) : (s.setBarrier o v).time = s.time := rfl
@[simp] theorem State.setBarrier_sites (s : State) (o : Nat) (v : Barrier) : (s.setBarrier o v).sites = s.sites := rfl
@[simp] theorem State.setBarrier_elems (s : State) (o : Nat) (v : Barrier) : (s.setBarrier o v).elems = s.elems := rfl
@[simp] theorem State.setBarrier_ports (s : State) (o : Nat) (v : Barrier) : (s.setBarrier o v).ports = s.ports := rfl
@[simp] theorem State.setBarrier_dmem (s : State) (o : Nat) (v : Barrier) : (s.setBarrier o v).dmem = s.dmem := rfl
@[simp] theorem State.setBarrier_spad (s : State) (o : Nat) (v : Barrier) : (s.setBarrier o v).spad = s.spad := rfl
@[simp] theorem State.setBarrier_lram (s : State) (o : Nat) (v : Barrier) : (s.setBarrier o v).lram = s.lram := rfl
@[simp] theorem State.setBarrier_ws (s : State) (o : Nat) (v : Barrier) : (s.setBarrier o v).ws = s.ws := rfl
@[simp] theorem State.setBarrier_acs (s : State) (o : Nat) (v : Barrier) : (s.setBarrier o v).acs = s.acs := rfl
@[simp] theorem State.setBarrier_frames (s : State) (o : Nat) (v : Barrier) : (s.setBarrier o v).frames = s.frames := rfl
@[simp] theorem State.setBarrier_sealed (s : State) (o : Nat) (v : Barrier) : (s.setBarrier o v).sealed = s.sealed := rfl
@[simp] theorem State.setBarrier_touched (s : State) (o : Nat) (v : Barrier) : (s.setBarrier o v).touched = s.touched := rfl
@[simp] theorem State.setBarrier_bad (s : State) (o : Nat) (v : Barrier) : (s.setBarrier o v).bad = s.bad := rfl
@[simp] theorem State.setBarrier_sqs (s : State) (o : Nat) (v : Barrier) : (s.setBarrier o v).sqs = s.sqs := rfl
@[simp] theorem State.setBarrier_parts (s : State) (o : Nat) (v : Barrier) : (s.setBarrier o v).parts = s.parts := rfl
@[simp] theorem State.setBarrier_queues (s : State) (o : Nat) (v : Barrier) : (s.setBarrier o v).queues = s.queues := rfl
@[simp] theorem State.setBarrier_launches (s : State) (o : Nat) (v : Barrier) : (s.setBarrier o v).launches = s.launches := rfl
@[simp] theorem State.setBarrier_tasks (s : State) (o : Nat) (v : Barrier) : (s.setBarrier o v).tasks = s.tasks := rfl
@[simp] theorem State.setBarrier_ordinal (s : State) (o : Nat) (v : Barrier) : (s.setBarrier o v).ordinal = s.ordinal := rfl
@[simp] theorem State.setBarrier_horizon (s : State) (o : Nat) (v : Barrier) : (s.setBarrier o v).horizon = s.horizon := rfl
@[simp] theorem State.setBarrier_admits (s : State) (o : Nat) (v : Barrier) : (s.setBarrier o v).admits = s.admits := rfl
@[simp] theorem State.setBarrier_mapped (s : State) (o : Nat) (v : Barrier) : (s.setBarrier o v).mapped = s.mapped := rfl
@[simp] theorem State.setBarrier_engines (s : State) (o : Nat) (v : Barrier) : (s.setBarrier o v).engines = s.engines := rfl
@[simp] theorem State.setBarrier_stalls (s : State) (o : Nat) (v : Barrier) : (s.setBarrier o v).stalls = s.stalls := rfl
@[simp] theorem State.setBarrier_mboxes (s : State) (o : Nat) (v : Barrier) : (s.setBarrier o v).mboxes = s.mboxes := rfl
@[simp] theorem State.setBarrier_channels (s : State) (o : Nat) (v : Barrier) : (s.setBarrier o v).channels = s.channels := rfl
@[simp] theorem State.setBarrier_links (s : State) (o : Nat) (v : Barrier) : (s.setBarrier o v).links = s.links := rfl
@[simp] theorem State.setBarrier_plat (s : State) (o : Nat) (v : Barrier) : (s.setBarrier o v).plat = s.plat := rfl
@[simp] theorem State.setBarrier_focus (s : State) (o : Nat) (v : Barrier) : (s.setBarrier o v).focus = s.focus := rfl
@[simp] theorem State.setBarrier_agenda (s : State) (o : Nat) (v : Barrier) : (s.setBarrier o v).agenda = s.agenda := rfl
@[simp] theorem State.setBarrier_burst (s : State) (o : Nat) (v : Barrier) : (s.setBarrier o v).burst = s.burst := rfl
@[simp] theorem State.setBarrier_turn (s : State) (o : Nat) (v : Barrier) : (s.setBarrier o v).turn = s.turn := rfl
@[simp] theorem State.setBarrier_elapse (s : State) (o : Nat) (v : Barrier) : (s.setBarrier o v).elapse = s.elapse := rfl
@[simp] theorem State.setBarrier_free (s : State) (o : Nat) (v : Barrier) : (s.setBarrier o v).free = s.free := rfl

/-! ### State.setChannel -/

@[simp] theorem State.setChannel_time (s : State) (c : Nat) (v : Channel) : (s.setChannel c v).time = s.time := rfl
@[simp] theorem State.setChannel_sites (s : State) (c : Nat) (v : Channel) : (s.setChannel c v).sites = s.sites := rfl
@[simp] theorem State.setChannel_elems (s : State) (c : Nat) (v : Channel) : (s.setChannel c v).elems = s.elems := rfl
@[simp] theorem State.setChannel_ports (s : State) (c : Nat) (v : Channel) : (s.setChannel c v).ports = s.ports := rfl
@[simp] theorem State.setChannel_dmem (s : State) (c : Nat) (v : Channel) : (s.setChannel c v).dmem = s.dmem := rfl
@[simp] theorem State.setChannel_spad (s : State) (c : Nat) (v : Channel) : (s.setChannel c v).spad = s.spad := rfl
@[simp] theorem State.setChannel_lram (s : State) (c : Nat) (v : Channel) : (s.setChannel c v).lram = s.lram := rfl
@[simp] theorem State.setChannel_ws (s : State) (c : Nat) (v : Channel) : (s.setChannel c v).ws = s.ws := rfl
@[simp] theorem State.setChannel_acs (s : State) (c : Nat) (v : Channel) : (s.setChannel c v).acs = s.acs := rfl
@[simp] theorem State.setChannel_frames (s : State) (c : Nat) (v : Channel) : (s.setChannel c v).frames = s.frames := rfl
@[simp] theorem State.setChannel_sealed (s : State) (c : Nat) (v : Channel) : (s.setChannel c v).sealed = s.sealed := rfl
@[simp] theorem State.setChannel_touched (s : State) (c : Nat) (v : Channel) : (s.setChannel c v).touched = s.touched := rfl
@[simp] theorem State.setChannel_bad (s : State) (c : Nat) (v : Channel) : (s.setChannel c v).bad = s.bad := rfl
@[simp] theorem State.setChannel_sqs (s : State) (c : Nat) (v : Channel) : (s.setChannel c v).sqs = s.sqs := rfl
@[simp] theorem State.setChannel_parts (s : State) (c : Nat) (v : Channel) : (s.setChannel c v).parts = s.parts := rfl
@[simp] theorem State.setChannel_queues (s : State) (c : Nat) (v : Channel) : (s.setChannel c v).queues = s.queues := rfl
@[simp] theorem State.setChannel_launches (s : State) (c : Nat) (v : Channel) : (s.setChannel c v).launches = s.launches := rfl
@[simp] theorem State.setChannel_tasks (s : State) (c : Nat) (v : Channel) : (s.setChannel c v).tasks = s.tasks := rfl
@[simp] theorem State.setChannel_ordinal (s : State) (c : Nat) (v : Channel) : (s.setChannel c v).ordinal = s.ordinal := rfl
@[simp] theorem State.setChannel_horizon (s : State) (c : Nat) (v : Channel) : (s.setChannel c v).horizon = s.horizon := rfl
@[simp] theorem State.setChannel_admits (s : State) (c : Nat) (v : Channel) : (s.setChannel c v).admits = s.admits := rfl
@[simp] theorem State.setChannel_mapped (s : State) (c : Nat) (v : Channel) : (s.setChannel c v).mapped = s.mapped := rfl
@[simp] theorem State.setChannel_engines (s : State) (c : Nat) (v : Channel) : (s.setChannel c v).engines = s.engines := rfl
@[simp] theorem State.setChannel_stalls (s : State) (c : Nat) (v : Channel) : (s.setChannel c v).stalls = s.stalls := rfl
@[simp] theorem State.setChannel_barriers (s : State) (c : Nat) (v : Channel) : (s.setChannel c v).barriers = s.barriers := rfl
@[simp] theorem State.setChannel_mboxes (s : State) (c : Nat) (v : Channel) : (s.setChannel c v).mboxes = s.mboxes := rfl
@[simp] theorem State.setChannel_links (s : State) (c : Nat) (v : Channel) : (s.setChannel c v).links = s.links := rfl
@[simp] theorem State.setChannel_plat (s : State) (c : Nat) (v : Channel) : (s.setChannel c v).plat = s.plat := rfl
@[simp] theorem State.setChannel_focus (s : State) (c : Nat) (v : Channel) : (s.setChannel c v).focus = s.focus := rfl
@[simp] theorem State.setChannel_agenda (s : State) (c : Nat) (v : Channel) : (s.setChannel c v).agenda = s.agenda := rfl
@[simp] theorem State.setChannel_burst (s : State) (c : Nat) (v : Channel) : (s.setChannel c v).burst = s.burst := rfl
@[simp] theorem State.setChannel_turn (s : State) (c : Nat) (v : Channel) : (s.setChannel c v).turn = s.turn := rfl
@[simp] theorem State.setChannel_elapse (s : State) (c : Nat) (v : Channel) : (s.setChannel c v).elapse = s.elapse := rfl
@[simp] theorem State.setChannel_free (s : State) (c : Nat) (v : Channel) : (s.setChannel c v).free = s.free := rfl

/-! ### State.setLink -/

@[simp] theorem State.setLink_time (s : State) (l : Nat) (v : Link) : (s.setLink l v).time = s.time := rfl
@[simp] theorem State.setLink_sites (s : State) (l : Nat) (v : Link) : (s.setLink l v).sites = s.sites := rfl
@[simp] theorem State.setLink_elems (s : State) (l : Nat) (v : Link) : (s.setLink l v).elems = s.elems := rfl
@[simp] theorem State.setLink_ports (s : State) (l : Nat) (v : Link) : (s.setLink l v).ports = s.ports := rfl
@[simp] theorem State.setLink_dmem (s : State) (l : Nat) (v : Link) : (s.setLink l v).dmem = s.dmem := rfl
@[simp] theorem State.setLink_spad (s : State) (l : Nat) (v : Link) : (s.setLink l v).spad = s.spad := rfl
@[simp] theorem State.setLink_lram (s : State) (l : Nat) (v : Link) : (s.setLink l v).lram = s.lram := rfl
@[simp] theorem State.setLink_ws (s : State) (l : Nat) (v : Link) : (s.setLink l v).ws = s.ws := rfl
@[simp] theorem State.setLink_acs (s : State) (l : Nat) (v : Link) : (s.setLink l v).acs = s.acs := rfl
@[simp] theorem State.setLink_frames (s : State) (l : Nat) (v : Link) : (s.setLink l v).frames = s.frames := rfl
@[simp] theorem State.setLink_sealed (s : State) (l : Nat) (v : Link) : (s.setLink l v).sealed = s.sealed := rfl
@[simp] theorem State.setLink_touched (s : State) (l : Nat) (v : Link) : (s.setLink l v).touched = s.touched := rfl
@[simp] theorem State.setLink_bad (s : State) (l : Nat) (v : Link) : (s.setLink l v).bad = s.bad := rfl
@[simp] theorem State.setLink_sqs (s : State) (l : Nat) (v : Link) : (s.setLink l v).sqs = s.sqs := rfl
@[simp] theorem State.setLink_parts (s : State) (l : Nat) (v : Link) : (s.setLink l v).parts = s.parts := rfl
@[simp] theorem State.setLink_queues (s : State) (l : Nat) (v : Link) : (s.setLink l v).queues = s.queues := rfl
@[simp] theorem State.setLink_launches (s : State) (l : Nat) (v : Link) : (s.setLink l v).launches = s.launches := rfl
@[simp] theorem State.setLink_tasks (s : State) (l : Nat) (v : Link) : (s.setLink l v).tasks = s.tasks := rfl
@[simp] theorem State.setLink_ordinal (s : State) (l : Nat) (v : Link) : (s.setLink l v).ordinal = s.ordinal := rfl
@[simp] theorem State.setLink_horizon (s : State) (l : Nat) (v : Link) : (s.setLink l v).horizon = s.horizon := rfl
@[simp] theorem State.setLink_admits (s : State) (l : Nat) (v : Link) : (s.setLink l v).admits = s.admits := rfl
@[simp] theorem State.setLink_mapped (s : State) (l : Nat) (v : Link) : (s.setLink l v).mapped = s.mapped := rfl
@[simp] theorem State.setLink_engines (s : State) (l : Nat) (v : Link) : (s.setLink l v).engines = s.engines := rfl
@[simp] theorem State.setLink_stalls (s : State) (l : Nat) (v : Link) : (s.setLink l v).stalls = s.stalls := rfl
@[simp] theorem State.setLink_barriers (s : State) (l : Nat) (v : Link) : (s.setLink l v).barriers = s.barriers := rfl
@[simp] theorem State.setLink_mboxes (s : State) (l : Nat) (v : Link) : (s.setLink l v).mboxes = s.mboxes := rfl
@[simp] theorem State.setLink_channels (s : State) (l : Nat) (v : Link) : (s.setLink l v).channels = s.channels := rfl
@[simp] theorem State.setLink_plat (s : State) (l : Nat) (v : Link) : (s.setLink l v).plat = s.plat := rfl
@[simp] theorem State.setLink_focus (s : State) (l : Nat) (v : Link) : (s.setLink l v).focus = s.focus := rfl
@[simp] theorem State.setLink_agenda (s : State) (l : Nat) (v : Link) : (s.setLink l v).agenda = s.agenda := rfl
@[simp] theorem State.setLink_burst (s : State) (l : Nat) (v : Link) : (s.setLink l v).burst = s.burst := rfl
@[simp] theorem State.setLink_turn (s : State) (l : Nat) (v : Link) : (s.setLink l v).turn = s.turn := rfl
@[simp] theorem State.setLink_elapse (s : State) (l : Nat) (v : Link) : (s.setLink l v).elapse = s.elapse := rfl
@[simp] theorem State.setLink_free (s : State) (l : Nat) (v : Link) : (s.setLink l v).free = s.free := rfl

/-! ### State.modTask -/

@[simp] theorem State.modTask_time (s : State) (u : Nat) (f : Task → Task) : (s.modTask u f).time = s.time := rfl
@[simp] theorem State.modTask_sites (s : State) (u : Nat) (f : Task → Task) : (s.modTask u f).sites = s.sites := rfl
@[simp] theorem State.modTask_elems (s : State) (u : Nat) (f : Task → Task) : (s.modTask u f).elems = s.elems := rfl
@[simp] theorem State.modTask_ports (s : State) (u : Nat) (f : Task → Task) : (s.modTask u f).ports = s.ports := rfl
@[simp] theorem State.modTask_dmem (s : State) (u : Nat) (f : Task → Task) : (s.modTask u f).dmem = s.dmem := rfl
@[simp] theorem State.modTask_spad (s : State) (u : Nat) (f : Task → Task) : (s.modTask u f).spad = s.spad := rfl
@[simp] theorem State.modTask_lram (s : State) (u : Nat) (f : Task → Task) : (s.modTask u f).lram = s.lram := rfl
@[simp] theorem State.modTask_ws (s : State) (u : Nat) (f : Task → Task) : (s.modTask u f).ws = s.ws := rfl
@[simp] theorem State.modTask_acs (s : State) (u : Nat) (f : Task → Task) : (s.modTask u f).acs = s.acs := rfl
@[simp] theorem State.modTask_frames (s : State) (u : Nat) (f : Task → Task) : (s.modTask u f).frames = s.frames := rfl
@[simp] theorem State.modTask_sealed (s : State) (u : Nat) (f : Task → Task) : (s.modTask u f).sealed = s.sealed := rfl
@[simp] theorem State.modTask_touched (s : State) (u : Nat) (f : Task → Task) : (s.modTask u f).touched = s.touched := rfl
@[simp] theorem State.modTask_bad (s : State) (u : Nat) (f : Task → Task) : (s.modTask u f).bad = s.bad := rfl
@[simp] theorem State.modTask_sqs (s : State) (u : Nat) (f : Task → Task) : (s.modTask u f).sqs = s.sqs := rfl
@[simp] theorem State.modTask_parts (s : State) (u : Nat) (f : Task → Task) : (s.modTask u f).parts = s.parts := rfl
@[simp] theorem State.modTask_queues (s : State) (u : Nat) (f : Task → Task) : (s.modTask u f).queues = s.queues := rfl
@[simp] theorem State.modTask_launches (s : State) (u : Nat) (f : Task → Task) : (s.modTask u f).launches = s.launches := rfl
@[simp] theorem State.modTask_ordinal (s : State) (u : Nat) (f : Task → Task) : (s.modTask u f).ordinal = s.ordinal := rfl
@[simp] theorem State.modTask_horizon (s : State) (u : Nat) (f : Task → Task) : (s.modTask u f).horizon = s.horizon := rfl
@[simp] theorem State.modTask_admits (s : State) (u : Nat) (f : Task → Task) : (s.modTask u f).admits = s.admits := rfl
@[simp] theorem State.modTask_mapped (s : State) (u : Nat) (f : Task → Task) : (s.modTask u f).mapped = s.mapped := rfl
@[simp] theorem State.modTask_engines (s : State) (u : Nat) (f : Task → Task) : (s.modTask u f).engines = s.engines := rfl
@[simp] theorem State.modTask_stalls (s : State) (u : Nat) (f : Task → Task) : (s.modTask u f).stalls = s.stalls := rfl
@[simp] theorem State.modTask_barriers (s : State) (u : Nat) (f : Task → Task) : (s.modTask u f).barriers = s.barriers := rfl
@[simp] theorem State.modTask_mboxes (s : State) (u : Nat) (f : Task → Task) : (s.modTask u f).mboxes = s.mboxes := rfl
@[simp] theorem State.modTask_channels (s : State) (u : Nat) (f : Task → Task) : (s.modTask u f).channels = s.channels := rfl
@[simp] theorem State.modTask_links (s : State) (u : Nat) (f : Task → Task) : (s.modTask u f).links = s.links := rfl
@[simp] theorem State.modTask_plat (s : State) (u : Nat) (f : Task → Task) : (s.modTask u f).plat = s.plat := rfl
@[simp] theorem State.modTask_focus (s : State) (u : Nat) (f : Task → Task) : (s.modTask u f).focus = s.focus := rfl
@[simp] theorem State.modTask_agenda (s : State) (u : Nat) (f : Task → Task) : (s.modTask u f).agenda = s.agenda := rfl
@[simp] theorem State.modTask_burst (s : State) (u : Nat) (f : Task → Task) : (s.modTask u f).burst = s.burst := rfl
@[simp] theorem State.modTask_turn (s : State) (u : Nat) (f : Task → Task) : (s.modTask u f).turn = s.turn := rfl
@[simp] theorem State.modTask_elapse (s : State) (u : Nat) (f : Task → Task) : (s.modTask u f).elapse = s.elapse := rfl
@[simp] theorem State.modTask_free (s : State) (u : Nat) (f : Task → Task) : (s.modTask u f).free = s.free := rfl

/-! ### State.modLaunch -/

@[simp] theorem State.modLaunch_time (s : State) (o : Nat) (f : Launch → Launch) : (s.modLaunch o f).time = s.time := rfl
@[simp] theorem State.modLaunch_sites (s : State) (o : Nat) (f : Launch → Launch) : (s.modLaunch o f).sites = s.sites := rfl
@[simp] theorem State.modLaunch_elems (s : State) (o : Nat) (f : Launch → Launch) : (s.modLaunch o f).elems = s.elems := rfl
@[simp] theorem State.modLaunch_ports (s : State) (o : Nat) (f : Launch → Launch) : (s.modLaunch o f).ports = s.ports := rfl
@[simp] theorem State.modLaunch_dmem (s : State) (o : Nat) (f : Launch → Launch) : (s.modLaunch o f).dmem = s.dmem := rfl
@[simp] theorem State.modLaunch_spad (s : State) (o : Nat) (f : Launch → Launch) : (s.modLaunch o f).spad = s.spad := rfl
@[simp] theorem State.modLaunch_lram (s : State) (o : Nat) (f : Launch → Launch) : (s.modLaunch o f).lram = s.lram := rfl
@[simp] theorem State.modLaunch_ws (s : State) (o : Nat) (f : Launch → Launch) : (s.modLaunch o f).ws = s.ws := rfl
@[simp] theorem State.modLaunch_acs (s : State) (o : Nat) (f : Launch → Launch) : (s.modLaunch o f).acs = s.acs := rfl
@[simp] theorem State.modLaunch_frames (s : State) (o : Nat) (f : Launch → Launch) : (s.modLaunch o f).frames = s.frames := rfl
@[simp] theorem State.modLaunch_sealed (s : State) (o : Nat) (f : Launch → Launch) : (s.modLaunch o f).sealed = s.sealed := rfl
@[simp] theorem State.modLaunch_touched (s : State) (o : Nat) (f : Launch → Launch) : (s.modLaunch o f).touched = s.touched := rfl
@[simp] theorem State.modLaunch_bad (s : State) (o : Nat) (f : Launch → Launch) : (s.modLaunch o f).bad = s.bad := rfl
@[simp] theorem State.modLaunch_sqs (s : State) (o : Nat) (f : Launch → Launch) : (s.modLaunch o f).sqs = s.sqs := rfl
@[simp] theorem State.modLaunch_parts (s : State) (o : Nat) (f : Launch → Launch) : (s.modLaunch o f).parts = s.parts := rfl
@[simp] theorem State.modLaunch_queues (s : State) (o : Nat) (f : Launch → Launch) : (s.modLaunch o f).queues = s.queues := rfl
@[simp] theorem State.modLaunch_tasks (s : State) (o : Nat) (f : Launch → Launch) : (s.modLaunch o f).tasks = s.tasks := rfl
@[simp] theorem State.modLaunch_ordinal (s : State) (o : Nat) (f : Launch → Launch) : (s.modLaunch o f).ordinal = s.ordinal := rfl
@[simp] theorem State.modLaunch_horizon (s : State) (o : Nat) (f : Launch → Launch) : (s.modLaunch o f).horizon = s.horizon := rfl
@[simp] theorem State.modLaunch_admits (s : State) (o : Nat) (f : Launch → Launch) : (s.modLaunch o f).admits = s.admits := rfl
@[simp] theorem State.modLaunch_mapped (s : State) (o : Nat) (f : Launch → Launch) : (s.modLaunch o f).mapped = s.mapped := rfl
@[simp] theorem State.modLaunch_engines (s : State) (o : Nat) (f : Launch → Launch) : (s.modLaunch o f).engines = s.engines := rfl
@[simp] theorem State.modLaunch_stalls (s : State) (o : Nat) (f : Launch → Launch) : (s.modLaunch o f).stalls = s.stalls := rfl
@[simp] theorem State.modLaunch_barriers (s : State) (o : Nat) (f : Launch → Launch) : (s.modLaunch o f).barriers = s.barriers := rfl
@[simp] theorem State.modLaunch_mboxes (s : State) (o : Nat) (f : Launch → Launch) : (s.modLaunch o f).mboxes = s.mboxes := rfl
@[simp] theorem State.modLaunch_channels (s : State) (o : Nat) (f : Launch → Launch) : (s.modLaunch o f).channels = s.channels := rfl
@[simp] theorem State.modLaunch_links (s : State) (o : Nat) (f : Launch → Launch) : (s.modLaunch o f).links = s.links := rfl
@[simp] theorem State.modLaunch_plat (s : State) (o : Nat) (f : Launch → Launch) : (s.modLaunch o f).plat = s.plat := rfl
@[simp] theorem State.modLaunch_focus (s : State) (o : Nat) (f : Launch → Launch) : (s.modLaunch o f).focus = s.focus := rfl
@[simp] theorem State.modLaunch_agenda (s : State) (o : Nat) (f : Launch → Launch) : (s.modLaunch o f).agenda = s.agenda := rfl
@[simp] theorem State.modLaunch_burst (s : State) (o : Nat) (f : Launch → Launch) : (s.modLaunch o f).burst = s.burst := rfl
@[simp] theorem State.modLaunch_turn (s : State) (o : Nat) (f : Launch → Launch) : (s.modLaunch o f).turn = s.turn := rfl
@[simp] theorem State.modLaunch_elapse (s : State) (o : Nat) (f : Launch → Launch) : (s.modLaunch o f).elapse = s.elapse := rfl
@[simp] theorem State.modLaunch_free (s : State) (o : Nat) (f : Launch → Launch) : (s.modLaunch o f).free = s.free := rfl

/-! ### State.modPlat -/

@[simp] theorem State.modPlat_time (s : State) (f : Plat → Plat) : (s.modPlat f).time = s.time := rfl
@[simp] theorem State.modPlat_sites (s : State) (f : Plat → Plat) : (s.modPlat f).sites = s.sites := rfl
@[simp] theorem State.modPlat_elems (s : State) (f : Plat → Plat) : (s.modPlat f).elems = s.elems := rfl
@[simp] theorem State.modPlat_ports (s : State) (f : Plat → Plat) : (s.modPlat f).ports = s.ports := rfl
@[simp] theorem State.modPlat_dmem (s : State) (f : Plat → Plat) : (s.modPlat f).dmem = s.dmem := rfl
@[simp] theorem State.modPlat_spad (s : State) (f : Plat → Plat) : (s.modPlat f).spad = s.spad := rfl
@[simp] theorem State.modPlat_lram (s : State) (f : Plat → Plat) : (s.modPlat f).lram = s.lram := rfl
@[simp] theorem State.modPlat_ws (s : State) (f : Plat → Plat) : (s.modPlat f).ws = s.ws := rfl
@[simp] theorem State.modPlat_acs (s : State) (f : Plat → Plat) : (s.modPlat f).acs = s.acs := rfl
@[simp] theorem State.modPlat_frames (s : State) (f : Plat → Plat) : (s.modPlat f).frames = s.frames := rfl
@[simp] theorem State.modPlat_sealed (s : State) (f : Plat → Plat) : (s.modPlat f).sealed = s.sealed := rfl
@[simp] theorem State.modPlat_touched (s : State) (f : Plat → Plat) : (s.modPlat f).touched = s.touched := rfl
@[simp] theorem State.modPlat_bad (s : State) (f : Plat → Plat) : (s.modPlat f).bad = s.bad := rfl
@[simp] theorem State.modPlat_sqs (s : State) (f : Plat → Plat) : (s.modPlat f).sqs = s.sqs := rfl
@[simp] theorem State.modPlat_parts (s : State) (f : Plat → Plat) : (s.modPlat f).parts = s.parts := rfl
@[simp] theorem State.modPlat_queues (s : State) (f : Plat → Plat) : (s.modPlat f).queues = s.queues := rfl
@[simp] theorem State.modPlat_launches (s : State) (f : Plat → Plat) : (s.modPlat f).launches = s.launches := rfl
@[simp] theorem State.modPlat_tasks (s : State) (f : Plat → Plat) : (s.modPlat f).tasks = s.tasks := rfl
@[simp] theorem State.modPlat_ordinal (s : State) (f : Plat → Plat) : (s.modPlat f).ordinal = s.ordinal := rfl
@[simp] theorem State.modPlat_horizon (s : State) (f : Plat → Plat) : (s.modPlat f).horizon = s.horizon := rfl
@[simp] theorem State.modPlat_admits (s : State) (f : Plat → Plat) : (s.modPlat f).admits = s.admits := rfl
@[simp] theorem State.modPlat_mapped (s : State) (f : Plat → Plat) : (s.modPlat f).mapped = s.mapped := rfl
@[simp] theorem State.modPlat_engines (s : State) (f : Plat → Plat) : (s.modPlat f).engines = s.engines := rfl
@[simp] theorem State.modPlat_stalls (s : State) (f : Plat → Plat) : (s.modPlat f).stalls = s.stalls := rfl
@[simp] theorem State.modPlat_barriers (s : State) (f : Plat → Plat) : (s.modPlat f).barriers = s.barriers := rfl
@[simp] theorem State.modPlat_mboxes (s : State) (f : Plat → Plat) : (s.modPlat f).mboxes = s.mboxes := rfl
@[simp] theorem State.modPlat_channels (s : State) (f : Plat → Plat) : (s.modPlat f).channels = s.channels := rfl
@[simp] theorem State.modPlat_links (s : State) (f : Plat → Plat) : (s.modPlat f).links = s.links := rfl
@[simp] theorem State.modPlat_focus (s : State) (f : Plat → Plat) : (s.modPlat f).focus = s.focus := rfl
@[simp] theorem State.modPlat_agenda (s : State) (f : Plat → Plat) : (s.modPlat f).agenda = s.agenda := rfl
@[simp] theorem State.modPlat_burst (s : State) (f : Plat → Plat) : (s.modPlat f).burst = s.burst := rfl
@[simp] theorem State.modPlat_turn (s : State) (f : Plat → Plat) : (s.modPlat f).turn = s.turn := rfl
@[simp] theorem State.modPlat_elapse (s : State) (f : Plat → Plat) : (s.modPlat f).elapse = s.elapse := rfl
@[simp] theorem State.modPlat_free (s : State) (f : Plat → Plat) : (s.modPlat f).free = s.free := rfl

/-! ### State.log -/

@[simp] theorem State.log_time (s : State) (e : PcLog) : (s.log e).time = s.time := rfl
@[simp] theorem State.log_sites (s : State) (e : PcLog) : (s.log e).sites = s.sites := rfl
@[simp] theorem State.log_elems (s : State) (e : PcLog) : (s.log e).elems = s.elems := rfl
@[simp] theorem State.log_ports (s : State) (e : PcLog) : (s.log e).ports = s.ports := rfl
@[simp] theorem State.log_dmem (s : State) (e : PcLog) : (s.log e).dmem = s.dmem := rfl
@[simp] theorem State.log_spad (s : State) (e : PcLog) : (s.log e).spad = s.spad := rfl
@[simp] theorem State.log_lram (s : State) (e : PcLog) : (s.log e).lram = s.lram := rfl
@[simp] theorem State.log_ws (s : State) (e : PcLog) : (s.log e).ws = s.ws := rfl
@[simp] theorem State.log_acs (s : State) (e : PcLog) : (s.log e).acs = s.acs := rfl
@[simp] theorem State.log_frames (s : State) (e : PcLog) : (s.log e).frames = s.frames := rfl
@[simp] theorem State.log_sealed (s : State) (e : PcLog) : (s.log e).sealed = s.sealed := rfl
@[simp] theorem State.log_touched (s : State) (e : PcLog) : (s.log e).touched = s.touched := rfl
@[simp] theorem State.log_bad (s : State) (e : PcLog) : (s.log e).bad = s.bad := rfl
@[simp] theorem State.log_sqs (s : State) (e : PcLog) : (s.log e).sqs = s.sqs := rfl
@[simp] theorem State.log_parts (s : State) (e : PcLog) : (s.log e).parts = s.parts := rfl
@[simp] theorem State.log_queues (s : State) (e : PcLog) : (s.log e).queues = s.queues := rfl
@[simp] theorem State.log_launches (s : State) (e : PcLog) : (s.log e).launches = s.launches := rfl
@[simp] theorem State.log_tasks (s : State) (e : PcLog) : (s.log e).tasks = s.tasks := rfl
@[simp] theorem State.log_ordinal (s : State) (e : PcLog) : (s.log e).ordinal = s.ordinal := rfl
@[simp] theorem State.log_horizon (s : State) (e : PcLog) : (s.log e).horizon = s.horizon := rfl
@[simp] theorem State.log_admits (s : State) (e : PcLog) : (s.log e).admits = s.admits := rfl
@[simp] theorem State.log_mapped (s : State) (e : PcLog) : (s.log e).mapped = s.mapped := rfl
@[simp] theorem State.log_engines (s : State) (e : PcLog) : (s.log e).engines = s.engines := rfl
@[simp] theorem State.log_stalls (s : State) (e : PcLog) : (s.log e).stalls = s.stalls := rfl
@[simp] theorem State.log_barriers (s : State) (e : PcLog) : (s.log e).barriers = s.barriers := rfl
@[simp] theorem State.log_mboxes (s : State) (e : PcLog) : (s.log e).mboxes = s.mboxes := rfl
@[simp] theorem State.log_channels (s : State) (e : PcLog) : (s.log e).channels = s.channels := rfl
@[simp] theorem State.log_links (s : State) (e : PcLog) : (s.log e).links = s.links := rfl
@[simp] theorem State.log_focus (s : State) (e : PcLog) : (s.log e).focus = s.focus := rfl
@[simp] theorem State.log_agenda (s : State) (e : PcLog) : (s.log e).agenda = s.agenda := rfl
@[simp] theorem State.log_burst (s : State) (e : PcLog) : (s.log e).burst = s.burst := rfl
@[simp] theorem State.log_turn (s : State) (e : PcLog) : (s.log e).turn = s.turn := rfl
@[simp] theorem State.log_elapse (s : State) (e : PcLog) : (s.log e).elapse = s.elapse := rfl
@[simp] theorem State.log_free (s : State) (e : PcLog) : (s.log e).free = s.free := rfl

/-! ### State.takeFree -/

@[simp] theorem State.takeFree_time (s : State) : (s.takeFree).time = s.time := rfl
@[simp] theorem State.takeFree_sites (s : State) : (s.takeFree).sites = s.sites := rfl
@[simp] theorem State.takeFree_elems (s : State) : (s.takeFree).elems = s.elems := rfl
@[simp] theorem State.takeFree_ports (s : State) : (s.takeFree).ports = s.ports := rfl
@[simp] theorem State.takeFree_dmem (s : State) : (s.takeFree).dmem = s.dmem := rfl
@[simp] theorem State.takeFree_spad (s : State) : (s.takeFree).spad = s.spad := rfl
@[simp] theorem State.takeFree_lram (s : State) : (s.takeFree).lram = s.lram := rfl
@[simp] theorem State.takeFree_ws (s : State) : (s.takeFree).ws = s.ws := rfl
@[simp] theorem State.takeFree_acs (s : State) : (s.takeFree).acs = s.acs := rfl
@[simp] theorem State.takeFree_frames (s : State) : (s.takeFree).frames = s.frames := rfl
@[simp] theorem State.takeFree_sealed (s : State) : (s.takeFree).sealed = s.sealed := rfl
@[simp] theorem State.takeFree_touched (s : State) : (s.takeFree).touched = s.touched := rfl
@[simp] theorem State.takeFree_bad (s : State) : (s.takeFree).bad = s.bad := rfl
@[simp] theorem State.takeFree_sqs (s : State) : (s.takeFree).sqs = s.sqs := rfl
@[simp] theorem State.takeFree_parts (s : State) : (s.takeFree).parts = s.parts := rfl
@[simp] theorem State.takeFree_queues (s : State) : (s.takeFree).queues = s.queues := rfl
@[simp] theorem State.takeFree_launches (s : State) : (s.takeFree).launches = s.launches := rfl
@[simp] theorem State.takeFree_tasks (s : State) : (s.takeFree).tasks = s.tasks := rfl
@[simp] theorem State.takeFree_ordinal (s : State) : (s.takeFree).ordinal = s.ordinal := rfl
@[simp] theorem State.takeFree_horizon (s : State) : (s.takeFree).horizon = s.horizon := rfl
@[simp] theorem State.takeFree_admits (s : State) : (s.takeFree).admits = s.admits := rfl
@[simp] theorem State.takeFree_mapped (s : State) : (s.takeFree).mapped = s.mapped := rfl
@[simp] theorem State.takeFree_engines (s : State) : (s.takeFree).engines = s.engines := rfl
@[simp] theorem State.takeFree_stalls (s : State) : (s.takeFree).stalls = s.stalls := rfl
@[simp] theorem State.takeFree_barriers (s : State) : (s.takeFree).barriers = s.barriers := rfl
@[simp] theorem State.takeFree_mboxes (s : State) : (s.takeFree).mboxes = s.mboxes := rfl
@[simp] theorem State.takeFree_channels (s : State) : (s.takeFree).channels = s.channels := rfl
@[simp] theorem State.takeFree_links (s : State) : (s.takeFree).links = s.links := rfl
@[simp] theorem State.takeFree_plat (s : State) : (s.takeFree).plat = s.plat := rfl
@[simp] theorem State.takeFree_focus (s : State) : (s.takeFree).focus = s.focus := rfl
@[simp] theorem State.takeFree_agenda (s : State) : (s.takeFree).agenda = s.agenda := rfl
@[simp] theorem State.takeFree_burst (s : State) : (s.takeFree).burst = s.burst := rfl
@[simp] theorem State.takeFree_turn (s : State) : (s.takeFree).turn = s.turn := rfl
@[simp] theorem State.takeFree_elapse (s : State) : (s.takeFree).elapse = s.elapse := rfl

/-! ### Sq.trap -/

@[simp] theorem Sq.trap_run (q : Sq) (a : DWord) (c u : BitVec 8) (d : BitVec 48) : (q.trap a c u d).run = q.run := rfl
@[simp] theorem Sq.trap_failed (q : Sq) (a : DWord) (c u : BitVec 8) (d : BitVec 48) : (q.trap a c u d).failed = q.failed := rfl
@[simp] theorem Sq.trap_pc (q : Sq) (a : DWord) (c u : BitVec 8) (d : BitVec 48) : (q.trap a c u d).pc = q.tvec + 32 * c.setWidth 64 := rfl
@[simp] theorem Sq.trap_g (q : Sq) (a : DWord) (c u : BitVec 8) (d : BitVec 48) : (q.trap a c u d).g = q.g := rfl
@[simp] theorem Sq.trap_ie (q : Sq) (a : DWord) (c u : BitVec 8) (d : BitVec 48) : (q.trap a c u d).ie = false := rfl
@[simp] theorem Sq.trap_ppl (q : Sq) (a : DWord) (c u : BitVec 8) (d : BitVec 48) : (q.trap a c u d).ppl = q.priv := rfl
@[simp] theorem Sq.trap_pie (q : Sq) (a : DWord) (c u : BitVec 8) (d : BitVec 48) : (q.trap a c u d).pie = q.ie := rfl
@[simp] theorem Sq.trap_divz (q : Sq) (a : DWord) (c u : BitVec 8) (d : BitVec 48) : (q.trap a c u d).divz = q.divz := rfl
@[simp] theorem Sq.trap_priv (q : Sq) (a : DWord) (c u : BitVec 8) (d : BitVec 48) : (q.trap a c u d).priv = true := rfl
@[simp] theorem Sq.trap_cause (q : Sq) (a : DWord) (c u : BitVec 8) (d : BitVec 48) : (q.trap a c u d).cause = causeWord c u d := rfl
@[simp] theorem Sq.trap_epc (q : Sq) (a : DWord) (c u : BitVec 8) (d : BitVec 48) : (q.trap a c u d).epc = if c = 5 then a + 4 else a := rfl
@[simp] theorem Sq.trap_tvec (q : Sq) (a : DWord) (c u : BitVec 8) (d : BitVec 48) : (q.trap a c u d).tvec = q.tvec := rfl
@[simp] theorem Sq.trap_scratch (q : Sq) (a : DWord) (c u : BitVec 8) (d : BitVec 48) : (q.trap a c u d).scratch = q.scratch := rfl
@[simp] theorem Sq.trap_evBase (q : Sq) (a : DWord) (c u : BitVec 8) (d : BitVec 48) : (q.trap a c u d).evBase = q.evBase := rfl
@[simp] theorem Sq.trap_evTail (q : Sq) (a : DWord) (c u : BitVec 8) (d : BitVec 48) : (q.trap a c u d).evTail = q.evTail := rfl
@[simp] theorem Sq.trap_evHead (q : Sq) (a : DWord) (c u : BitVec 8) (d : BitVec 48) : (q.trap a c u d).evHead = q.evHead := rfl
@[simp] theorem Sq.trap_evSeq (q : Sq) (a : DWord) (c u : BitVec 8) (d : BitVec 48) : (q.trap a c u d).evSeq = q.evSeq := rfl
@[simp] theorem Sq.trap_evHeld (q : Sq) (a : DWord) (c u : BitVec 8) (d : BitVec 48) : (q.trap a c u d).evHeld = q.evHeld := rfl
@[simp] theorem Sq.trap_part (q : Sq) (a : DWord) (c u : BitVec 8) (d : BitVec 48) : (q.trap a c u d).part = q.part := rfl
@[simp] theorem Sq.trap_rej (q : Sq) (a : DWord) (c u : BitVec 8) (d : BitVec 48) : (q.trap a c u d).rej = q.rej := rfl
@[simp] theorem Sq.trap_rejWord (q : Sq) (a : DWord) (c u : BitVec 8) (d : BitVec 48) : (q.trap a c u d).rejWord = q.rejWord := rfl
@[simp] theorem Sq.trap_tskq (q : Sq) (a : DWord) (c u : BitVec 8) (d : BitVec 48) : (q.trap a c u d).tskq = q.tskq := rfl
@[simp] theorem Sq.trap_stream (q : Sq) (a : DWord) (c u : BitVec 8) (d : BitVec 48) : (q.trap a c u d).stream = q.stream := rfl
@[simp] theorem Sq.trap_opened (q : Sq) (a : DWord) (c u : BitVec 8) (d : BitVec 48) : (q.trap a c u d).opened = q.opened := rfl
@[simp] theorem Sq.trap_rb (q : Sq) (a : DWord) (c u : BitVec 8) (d : BitVec 48) : (q.trap a c u d).rb = q.rb := rfl
@[simp] theorem Sq.trap_icache (q : Sq) (a : DWord) (c u : BitVec 8) (d : BitVec 48) : (q.trap a c u d).icache = q.icache := rfl
@[simp] theorem Sq.trap_tlb (q : Sq) (a : DWord) (c u : BitVec 8) (d : BitVec 48) : (q.trap a c u d).tlb = q.tlb := rfl
@[simp] theorem Sq.trap_hold (q : Sq) (a : DWord) (c u : BitVec 8) (d : BitVec 48) : (q.trap a c u d).hold = none := rfl
@[simp] theorem Sq.trap_arrival (q : Sq) (a : DWord) (c u : BitVec 8) (d : BitVec 48) : (q.trap a c u d).arrival = q.arrival := rfl
@[simp] theorem Sq.trap_within (q : Sq) (a : DWord) (c u : BitVec 8) (d : BitVec 48) : (q.trap a c u d).within = false := rfl
@[simp] theorem Sq.trap_lfault (q : Sq) (a : DWord) (c u : BitVec 8) (d : BitVec 48) : (q.trap a c u d).lfault = q.lfault := rfl
@[simp] theorem Sq.trap_pend (q : Sq) (a : DWord) (c u : BitVec 8) (d : BitVec 48) : (q.trap a c u d).pend = q.pend := rfl
@[simp] theorem Sq.trap_defer (q : Sq) (a : DWord) (c u : BitVec 8) (d : BitVec 48) : (q.trap a c u d).defer = q.defer := rfl

/-! ### Sq.leaveTrap -/

@[simp] theorem Sq.leaveTrap_run (q : Sq) : (q.leaveTrap).run = q.run := rfl
@[simp] theorem Sq.leaveTrap_failed (q : Sq) : (q.leaveTrap).failed = q.failed := rfl
@[simp] theorem Sq.leaveTrap_pc (q : Sq) : (q.leaveTrap).pc = q.epc &&& ~~~3#64 := rfl
@[simp] theorem Sq.leaveTrap_g (q : Sq) : (q.leaveTrap).g = q.g := rfl
@[simp] theorem Sq.leaveTrap_ie (q : Sq) : (q.leaveTrap).ie = q.pie := rfl
@[simp] theorem Sq.leaveTrap_ppl (q : Sq) : (q.leaveTrap).ppl = q.ppl := rfl
@[simp] theorem Sq.leaveTrap_pie (q : Sq) : (q.leaveTrap).pie = q.pie := rfl
@[simp] theorem Sq.leaveTrap_divz (q : Sq) : (q.leaveTrap).divz = q.divz := rfl
@[simp] theorem Sq.leaveTrap_priv (q : Sq) : (q.leaveTrap).priv = q.ppl := rfl
@[simp] theorem Sq.leaveTrap_cause (q : Sq) : (q.leaveTrap).cause = q.cause := rfl
@[simp] theorem Sq.leaveTrap_epc (q : Sq) : (q.leaveTrap).epc = q.epc := rfl
@[simp] theorem Sq.leaveTrap_tvec (q : Sq) : (q.leaveTrap).tvec = q.tvec := rfl
@[simp] theorem Sq.leaveTrap_scratch (q : Sq) : (q.leaveTrap).scratch = q.scratch := rfl
@[simp] theorem Sq.leaveTrap_evBase (q : Sq) : (q.leaveTrap).evBase = q.evBase := rfl
@[simp] theorem Sq.leaveTrap_evTail (q : Sq) : (q.leaveTrap).evTail = q.evTail := rfl
@[simp] theorem Sq.leaveTrap_evHead (q : Sq) : (q.leaveTrap).evHead = q.evHead := rfl
@[simp] theorem Sq.leaveTrap_evSeq (q : Sq) : (q.leaveTrap).evSeq = q.evSeq := rfl
@[simp] theorem Sq.leaveTrap_evHeld (q : Sq) : (q.leaveTrap).evHeld = q.evHeld := rfl
@[simp] theorem Sq.leaveTrap_part (q : Sq) : (q.leaveTrap).part = q.part := rfl
@[simp] theorem Sq.leaveTrap_rej (q : Sq) : (q.leaveTrap).rej = q.rej := rfl
@[simp] theorem Sq.leaveTrap_rejWord (q : Sq) : (q.leaveTrap).rejWord = q.rejWord := rfl
@[simp] theorem Sq.leaveTrap_tskq (q : Sq) : (q.leaveTrap).tskq = q.tskq := rfl
@[simp] theorem Sq.leaveTrap_stream (q : Sq) : (q.leaveTrap).stream = q.stream := rfl
@[simp] theorem Sq.leaveTrap_opened (q : Sq) : (q.leaveTrap).opened = q.opened := rfl
@[simp] theorem Sq.leaveTrap_rb (q : Sq) : (q.leaveTrap).rb = q.rb := rfl
@[simp] theorem Sq.leaveTrap_icache (q : Sq) : (q.leaveTrap).icache = q.icache := rfl
@[simp] theorem Sq.leaveTrap_tlb (q : Sq) : (q.leaveTrap).tlb = q.tlb := rfl
@[simp] theorem Sq.leaveTrap_hold (q : Sq) : (q.leaveTrap).hold = q.hold := rfl
@[simp] theorem Sq.leaveTrap_arrival (q : Sq) : (q.leaveTrap).arrival = q.arrival := rfl
@[simp] theorem Sq.leaveTrap_within (q : Sq) : (q.leaveTrap).within = false := rfl
@[simp] theorem Sq.leaveTrap_lfault (q : Sq) : (q.leaveTrap).lfault = q.lfault := rfl
@[simp] theorem Sq.leaveTrap_pend (q : Sq) : (q.leaveTrap).pend = q.pend := rfl
@[simp] theorem Sq.leaveTrap_defer (q : Sq) : (q.leaveTrap).defer = q.defer := rfl

/-! ### Sq.setStatus -/

@[simp] theorem Sq.setStatus_run (q : Sq) (v : DWord) : (q.setStatus v).run = q.run := rfl
@[simp] theorem Sq.setStatus_failed (q : Sq) (v : DWord) : (q.setStatus v).failed = q.failed := rfl
@[simp] theorem Sq.setStatus_pc (q : Sq) (v : DWord) : (q.setStatus v).pc = q.pc := rfl
@[simp] theorem Sq.setStatus_g (q : Sq) (v : DWord) : (q.setStatus v).g = q.g := rfl
@[simp] theorem Sq.setStatus_ie (q : Sq) (v : DWord) : (q.setStatus v).ie = v.getLsbD 0 := rfl
@[simp] theorem Sq.setStatus_ppl (q : Sq) (v : DWord) : (q.setStatus v).ppl = v.getLsbD 1 := rfl
@[simp] theorem Sq.setStatus_pie (q : Sq) (v : DWord) : (q.setStatus v).pie = v.getLsbD 2 := rfl
@[simp] theorem Sq.setStatus_divz (q : Sq) (v : DWord) : (q.setStatus v).divz = (q.divz && !v.getLsbD 3) := rfl
@[simp] theorem Sq.setStatus_priv (q : Sq) (v : DWord) : (q.setStatus v).priv = q.priv := rfl
@[simp] theorem Sq.setStatus_cause (q : Sq) (v : DWord) : (q.setStatus v).cause = q.cause := rfl
@[simp] theorem Sq.setStatus_epc (q : Sq) (v : DWord) : (q.setStatus v).epc = q.epc := rfl
@[simp] theorem Sq.setStatus_tvec (q : Sq) (v : DWord) : (q.setStatus v).tvec = q.tvec := rfl
@[simp] theorem Sq.setStatus_scratch (q : Sq) (v : DWord) : (q.setStatus v).scratch = q.scratch := rfl
@[simp] theorem Sq.setStatus_evBase (q : Sq) (v : DWord) : (q.setStatus v).evBase = q.evBase := rfl
@[simp] theorem Sq.setStatus_evTail (q : Sq) (v : DWord) : (q.setStatus v).evTail = q.evTail := rfl
@[simp] theorem Sq.setStatus_evHead (q : Sq) (v : DWord) : (q.setStatus v).evHead = q.evHead := rfl
@[simp] theorem Sq.setStatus_evSeq (q : Sq) (v : DWord) : (q.setStatus v).evSeq = q.evSeq := rfl
@[simp] theorem Sq.setStatus_evHeld (q : Sq) (v : DWord) : (q.setStatus v).evHeld = q.evHeld := rfl
@[simp] theorem Sq.setStatus_part (q : Sq) (v : DWord) : (q.setStatus v).part = q.part := rfl
@[simp] theorem Sq.setStatus_rej (q : Sq) (v : DWord) : (q.setStatus v).rej = q.rej := rfl
@[simp] theorem Sq.setStatus_rejWord (q : Sq) (v : DWord) : (q.setStatus v).rejWord = q.rejWord := rfl
@[simp] theorem Sq.setStatus_tskq (q : Sq) (v : DWord) : (q.setStatus v).tskq = q.tskq := rfl
@[simp] theorem Sq.setStatus_stream (q : Sq) (v : DWord) : (q.setStatus v).stream = q.stream := rfl
@[simp] theorem Sq.setStatus_opened (q : Sq) (v : DWord) : (q.setStatus v).opened = q.opened := rfl
@[simp] theorem Sq.setStatus_rb (q : Sq) (v : DWord) : (q.setStatus v).rb = q.rb := rfl
@[simp] theorem Sq.setStatus_icache (q : Sq) (v : DWord) : (q.setStatus v).icache = q.icache := rfl
@[simp] theorem Sq.setStatus_tlb (q : Sq) (v : DWord) : (q.setStatus v).tlb = q.tlb := rfl
@[simp] theorem Sq.setStatus_hold (q : Sq) (v : DWord) : (q.setStatus v).hold = q.hold := rfl
@[simp] theorem Sq.setStatus_arrival (q : Sq) (v : DWord) : (q.setStatus v).arrival = q.arrival := rfl
@[simp] theorem Sq.setStatus_within (q : Sq) (v : DWord) : (q.setStatus v).within = q.within := rfl
@[simp] theorem Sq.setStatus_lfault (q : Sq) (v : DWord) : (q.setStatus v).lfault = q.lfault := rfl
@[simp] theorem Sq.setStatus_pend (q : Sq) (v : DWord) : (q.setStatus v).pend = q.pend := rfl
@[simp] theorem Sq.setStatus_defer (q : Sq) (v : DWord) : (q.setStatus v).defer = q.defer := rfl

/-! ### Sq.noteDivisor -/

@[simp] theorem Sq.noteDivisor_run (q : Sq) (y : DWord) : (q.noteDivisor y).run = q.run := rfl
@[simp] theorem Sq.noteDivisor_failed (q : Sq) (y : DWord) : (q.noteDivisor y).failed = q.failed := rfl
@[simp] theorem Sq.noteDivisor_pc (q : Sq) (y : DWord) : (q.noteDivisor y).pc = q.pc := rfl
@[simp] theorem Sq.noteDivisor_g (q : Sq) (y : DWord) : (q.noteDivisor y).g = q.g := rfl
@[simp] theorem Sq.noteDivisor_ie (q : Sq) (y : DWord) : (q.noteDivisor y).ie = q.ie := rfl
@[simp] theorem Sq.noteDivisor_ppl (q : Sq) (y : DWord) : (q.noteDivisor y).ppl = q.ppl := rfl
@[simp] theorem Sq.noteDivisor_pie (q : Sq) (y : DWord) : (q.noteDivisor y).pie = q.pie := rfl
@[simp] theorem Sq.noteDivisor_divz (q : Sq) (y : DWord) : (q.noteDivisor y).divz = (q.divz || y == 0) := rfl
@[simp] theorem Sq.noteDivisor_priv (q : Sq) (y : DWord) : (q.noteDivisor y).priv = q.priv := rfl
@[simp] theorem Sq.noteDivisor_cause (q : Sq) (y : DWord) : (q.noteDivisor y).cause = q.cause := rfl
@[simp] theorem Sq.noteDivisor_epc (q : Sq) (y : DWord) : (q.noteDivisor y).epc = q.epc := rfl
@[simp] theorem Sq.noteDivisor_tvec (q : Sq) (y : DWord) : (q.noteDivisor y).tvec = q.tvec := rfl
@[simp] theorem Sq.noteDivisor_scratch (q : Sq) (y : DWord) : (q.noteDivisor y).scratch = q.scratch := rfl
@[simp] theorem Sq.noteDivisor_evBase (q : Sq) (y : DWord) : (q.noteDivisor y).evBase = q.evBase := rfl
@[simp] theorem Sq.noteDivisor_evTail (q : Sq) (y : DWord) : (q.noteDivisor y).evTail = q.evTail := rfl
@[simp] theorem Sq.noteDivisor_evHead (q : Sq) (y : DWord) : (q.noteDivisor y).evHead = q.evHead := rfl
@[simp] theorem Sq.noteDivisor_evSeq (q : Sq) (y : DWord) : (q.noteDivisor y).evSeq = q.evSeq := rfl
@[simp] theorem Sq.noteDivisor_evHeld (q : Sq) (y : DWord) : (q.noteDivisor y).evHeld = q.evHeld := rfl
@[simp] theorem Sq.noteDivisor_part (q : Sq) (y : DWord) : (q.noteDivisor y).part = q.part := rfl
@[simp] theorem Sq.noteDivisor_rej (q : Sq) (y : DWord) : (q.noteDivisor y).rej = q.rej := rfl
@[simp] theorem Sq.noteDivisor_rejWord (q : Sq) (y : DWord) : (q.noteDivisor y).rejWord = q.rejWord := rfl
@[simp] theorem Sq.noteDivisor_tskq (q : Sq) (y : DWord) : (q.noteDivisor y).tskq = q.tskq := rfl
@[simp] theorem Sq.noteDivisor_stream (q : Sq) (y : DWord) : (q.noteDivisor y).stream = q.stream := rfl
@[simp] theorem Sq.noteDivisor_opened (q : Sq) (y : DWord) : (q.noteDivisor y).opened = q.opened := rfl
@[simp] theorem Sq.noteDivisor_rb (q : Sq) (y : DWord) : (q.noteDivisor y).rb = q.rb := rfl
@[simp] theorem Sq.noteDivisor_icache (q : Sq) (y : DWord) : (q.noteDivisor y).icache = q.icache := rfl
@[simp] theorem Sq.noteDivisor_tlb (q : Sq) (y : DWord) : (q.noteDivisor y).tlb = q.tlb := rfl
@[simp] theorem Sq.noteDivisor_hold (q : Sq) (y : DWord) : (q.noteDivisor y).hold = q.hold := rfl
@[simp] theorem Sq.noteDivisor_arrival (q : Sq) (y : DWord) : (q.noteDivisor y).arrival = q.arrival := rfl
@[simp] theorem Sq.noteDivisor_within (q : Sq) (y : DWord) : (q.noteDivisor y).within = q.within := rfl
@[simp] theorem Sq.noteDivisor_lfault (q : Sq) (y : DWord) : (q.noteDivisor y).lfault = q.lfault := rfl
@[simp] theorem Sq.noteDivisor_pend (q : Sq) (y : DWord) : (q.noteDivisor y).pend = q.pend := rfl
@[simp] theorem Sq.noteDivisor_defer (q : Sq) (y : DWord) : (q.noteDivisor y).defer = q.defer := rfl

/-! ### Sq.setG -/

@[simp] theorem Sq.setG_run (q : Sq) (r : BitVec 5) (v : DWord) : (q.setG r v).run = q.run := by unfold Sq.setG; split <;> rfl
@[simp] theorem Sq.setG_failed (q : Sq) (r : BitVec 5) (v : DWord) : (q.setG r v).failed = q.failed := by unfold Sq.setG; split <;> rfl
@[simp] theorem Sq.setG_pc (q : Sq) (r : BitVec 5) (v : DWord) : (q.setG r v).pc = q.pc := by unfold Sq.setG; split <;> rfl
@[simp] theorem Sq.setG_ie (q : Sq) (r : BitVec 5) (v : DWord) : (q.setG r v).ie = q.ie := by unfold Sq.setG; split <;> rfl
@[simp] theorem Sq.setG_ppl (q : Sq) (r : BitVec 5) (v : DWord) : (q.setG r v).ppl = q.ppl := by unfold Sq.setG; split <;> rfl
@[simp] theorem Sq.setG_pie (q : Sq) (r : BitVec 5) (v : DWord) : (q.setG r v).pie = q.pie := by unfold Sq.setG; split <;> rfl
@[simp] theorem Sq.setG_divz (q : Sq) (r : BitVec 5) (v : DWord) : (q.setG r v).divz = q.divz := by unfold Sq.setG; split <;> rfl
@[simp] theorem Sq.setG_priv (q : Sq) (r : BitVec 5) (v : DWord) : (q.setG r v).priv = q.priv := by unfold Sq.setG; split <;> rfl
@[simp] theorem Sq.setG_cause (q : Sq) (r : BitVec 5) (v : DWord) : (q.setG r v).cause = q.cause := by unfold Sq.setG; split <;> rfl
@[simp] theorem Sq.setG_epc (q : Sq) (r : BitVec 5) (v : DWord) : (q.setG r v).epc = q.epc := by unfold Sq.setG; split <;> rfl
@[simp] theorem Sq.setG_tvec (q : Sq) (r : BitVec 5) (v : DWord) : (q.setG r v).tvec = q.tvec := by unfold Sq.setG; split <;> rfl
@[simp] theorem Sq.setG_scratch (q : Sq) (r : BitVec 5) (v : DWord) : (q.setG r v).scratch = q.scratch := by unfold Sq.setG; split <;> rfl
@[simp] theorem Sq.setG_evBase (q : Sq) (r : BitVec 5) (v : DWord) : (q.setG r v).evBase = q.evBase := by unfold Sq.setG; split <;> rfl
@[simp] theorem Sq.setG_evTail (q : Sq) (r : BitVec 5) (v : DWord) : (q.setG r v).evTail = q.evTail := by unfold Sq.setG; split <;> rfl
@[simp] theorem Sq.setG_evHead (q : Sq) (r : BitVec 5) (v : DWord) : (q.setG r v).evHead = q.evHead := by unfold Sq.setG; split <;> rfl
@[simp] theorem Sq.setG_evSeq (q : Sq) (r : BitVec 5) (v : DWord) : (q.setG r v).evSeq = q.evSeq := by unfold Sq.setG; split <;> rfl
@[simp] theorem Sq.setG_evHeld (q : Sq) (r : BitVec 5) (v : DWord) : (q.setG r v).evHeld = q.evHeld := by unfold Sq.setG; split <;> rfl
@[simp] theorem Sq.setG_part (q : Sq) (r : BitVec 5) (v : DWord) : (q.setG r v).part = q.part := by unfold Sq.setG; split <;> rfl
@[simp] theorem Sq.setG_rej (q : Sq) (r : BitVec 5) (v : DWord) : (q.setG r v).rej = q.rej := by unfold Sq.setG; split <;> rfl
@[simp] theorem Sq.setG_rejWord (q : Sq) (r : BitVec 5) (v : DWord) : (q.setG r v).rejWord = q.rejWord := by unfold Sq.setG; split <;> rfl
@[simp] theorem Sq.setG_tskq (q : Sq) (r : BitVec 5) (v : DWord) : (q.setG r v).tskq = q.tskq := by unfold Sq.setG; split <;> rfl
@[simp] theorem Sq.setG_stream (q : Sq) (r : BitVec 5) (v : DWord) : (q.setG r v).stream = q.stream := by unfold Sq.setG; split <;> rfl
@[simp] theorem Sq.setG_opened (q : Sq) (r : BitVec 5) (v : DWord) : (q.setG r v).opened = q.opened := by unfold Sq.setG; split <;> rfl
@[simp] theorem Sq.setG_rb (q : Sq) (r : BitVec 5) (v : DWord) : (q.setG r v).rb = q.rb := by unfold Sq.setG; split <;> rfl
@[simp] theorem Sq.setG_icache (q : Sq) (r : BitVec 5) (v : DWord) : (q.setG r v).icache = q.icache := by unfold Sq.setG; split <;> rfl
@[simp] theorem Sq.setG_tlb (q : Sq) (r : BitVec 5) (v : DWord) : (q.setG r v).tlb = q.tlb := by unfold Sq.setG; split <;> rfl
@[simp] theorem Sq.setG_hold (q : Sq) (r : BitVec 5) (v : DWord) : (q.setG r v).hold = q.hold := by unfold Sq.setG; split <;> rfl
@[simp] theorem Sq.setG_arrival (q : Sq) (r : BitVec 5) (v : DWord) : (q.setG r v).arrival = q.arrival := by unfold Sq.setG; split <;> rfl
@[simp] theorem Sq.setG_within (q : Sq) (r : BitVec 5) (v : DWord) : (q.setG r v).within = q.within := by unfold Sq.setG; split <;> rfl
@[simp] theorem Sq.setG_lfault (q : Sq) (r : BitVec 5) (v : DWord) : (q.setG r v).lfault = q.lfault := by unfold Sq.setG; split <;> rfl
@[simp] theorem Sq.setG_pend (q : Sq) (r : BitVec 5) (v : DWord) : (q.setG r v).pend = q.pend := by unfold Sq.setG; split <;> rfl
@[simp] theorem Sq.setG_defer (q : Sq) (r : BitVec 5) (v : DWord) : (q.setG r v).defer = q.defer := by unfold Sq.setG; split <;> rfl

/-! ### ElemCtx.setOp -/

@[simp] theorem ElemCtx.setOp_bank (e : ElemCtx) (i : Nat) (o : OpSt) : (e.setOp i o).bank = e.bank := rfl
@[simp] theorem ElemCtx.setOp_shadow (e : ElemCtx) (i : Nat) (o : OpSt) : (e.setOp i o).shadow = e.shadow := rfl
@[simp] theorem ElemCtx.setOp_armed (e : ElemCtx) (i : Nat) (o : OpSt) : (e.setOp i o).armed = e.armed := rfl
@[simp] theorem ElemCtx.setOp_inq (e : ElemCtx) (i : Nat) (o : OpSt) : (e.setOp i o).inq = e.inq := rfl
@[simp] theorem ElemCtx.setOp_inc (e : ElemCtx) (i : Nat) (o : OpSt) : (e.setOp i o).inc = e.inc := rfl
@[simp] theorem ElemCtx.setOp_outq (e : ElemCtx) (i : Nat) (o : OpSt) : (e.setOp i o).outq = e.outq := rfl
@[simp] theorem ElemCtx.setOp_outc (e : ElemCtx) (i : Nat) (o : OpSt) : (e.setOp i o).outc = e.outc := rfl
@[simp] theorem ElemCtx.setOp_k (e : ElemCtx) (i : Nat) (o : OpSt) : (e.setOp i o).k = e.k := rfl
@[simp] theorem ElemCtx.setOp_pass (e : ElemCtx) (i : Nat) (o : OpSt) : (e.setOp i o).pass = e.pass := rfl
@[simp] theorem ElemCtx.setOp_kelp (e : ElemCtx) (i : Nat) (o : OpSt) : (e.setOp i o).kelp = e.kelp := rfl
@[simp] theorem ElemCtx.setOp_brk (e : ElemCtx) (i : Nat) (o : OpSt) : (e.setOp i o).brk = e.brk := rfl
@[simp] theorem ElemCtx.setOp_ii (e : ElemCtx) (i : Nat) (o : OpSt) : (e.setOp i o).ii = e.ii := rfl
@[simp] theorem ElemCtx.setOp_fires (e : ElemCtx) (i : Nat) (o : OpSt) : (e.setOp i o).fires = e.fires := rfl
@[simp] theorem ElemCtx.setOp_group (e : ElemCtx) (i : Nat) (o : OpSt) : (e.setOp i o).group = e.group := rfl
@[simp] theorem ElemCtx.setOp_wsSwaps (e : ElemCtx) (i : Nat) (o : OpSt) : (e.setOp i o).wsSwaps = e.wsSwaps := rfl
@[simp] theorem ElemCtx.setOp_task (e : ElemCtx) (i : Nat) (o : OpSt) : (e.setOp i o).task = e.task := rfl
@[simp] theorem ElemCtx.setOp_released (e : ElemCtx) (i : Nat) (o : OpSt) : (e.setOp i o).released = e.released := rfl
@[simp] theorem ElemCtx.setOp_finished (e : ElemCtx) (i : Nat) (o : OpSt) : (e.setOp i o).finished = e.finished := rfl
@[simp] theorem ElemCtx.setOp_stopped (e : ElemCtx) (i : Nat) (o : OpSt) : (e.setOp i o).stopped = e.stopped := rfl
@[simp] theorem ElemCtx.setOp_captured (e : ElemCtx) (i : Nat) (o : OpSt) : (e.setOp i o).captured = e.captured := rfl

/-! ### ElemCtx.setK -/

@[simp] theorem ElemCtx.setK_bank (e : ElemCtx) (i : Nat) (t : Token) : (e.setK i t).bank = e.bank := rfl
@[simp] theorem ElemCtx.setK_shadow (e : ElemCtx) (i : Nat) (t : Token) : (e.setK i t).shadow = e.shadow := rfl
@[simp] theorem ElemCtx.setK_armed (e : ElemCtx) (i : Nat) (t : Token) : (e.setK i t).armed = e.armed := rfl
@[simp] theorem ElemCtx.setK_inq (e : ElemCtx) (i : Nat) (t : Token) : (e.setK i t).inq = e.inq := rfl
@[simp] theorem ElemCtx.setK_inc (e : ElemCtx) (i : Nat) (t : Token) : (e.setK i t).inc = e.inc := rfl
@[simp] theorem ElemCtx.setK_outq (e : ElemCtx) (i : Nat) (t : Token) : (e.setK i t).outq = e.outq := rfl
@[simp] theorem ElemCtx.setK_outc (e : ElemCtx) (i : Nat) (t : Token) : (e.setK i t).outc = e.outc := rfl
@[simp] theorem ElemCtx.setK_pass (e : ElemCtx) (i : Nat) (t : Token) : (e.setK i t).pass = e.pass := rfl
@[simp] theorem ElemCtx.setK_ops (e : ElemCtx) (i : Nat) (t : Token) : (e.setK i t).ops = e.ops := rfl
@[simp] theorem ElemCtx.setK_kelp (e : ElemCtx) (i : Nat) (t : Token) : (e.setK i t).kelp = e.kelp := rfl
@[simp] theorem ElemCtx.setK_brk (e : ElemCtx) (i : Nat) (t : Token) : (e.setK i t).brk = e.brk := rfl
@[simp] theorem ElemCtx.setK_ii (e : ElemCtx) (i : Nat) (t : Token) : (e.setK i t).ii = e.ii := rfl
@[simp] theorem ElemCtx.setK_fires (e : ElemCtx) (i : Nat) (t : Token) : (e.setK i t).fires = e.fires := rfl
@[simp] theorem ElemCtx.setK_group (e : ElemCtx) (i : Nat) (t : Token) : (e.setK i t).group = e.group := rfl
@[simp] theorem ElemCtx.setK_wsSwaps (e : ElemCtx) (i : Nat) (t : Token) : (e.setK i t).wsSwaps = e.wsSwaps := rfl
@[simp] theorem ElemCtx.setK_task (e : ElemCtx) (i : Nat) (t : Token) : (e.setK i t).task = e.task := rfl
@[simp] theorem ElemCtx.setK_released (e : ElemCtx) (i : Nat) (t : Token) : (e.setK i t).released = e.released := rfl
@[simp] theorem ElemCtx.setK_finished (e : ElemCtx) (i : Nat) (t : Token) : (e.setK i t).finished = e.finished := rfl
@[simp] theorem ElemCtx.setK_stopped (e : ElemCtx) (i : Nat) (t : Token) : (e.setK i t).stopped = e.stopped := rfl
@[simp] theorem ElemCtx.setK_captured (e : ElemCtx) (i : Nat) (t : Token) : (e.setK i t).captured = e.captured := rfl

/-! ### ElemCtx.setQueue -/

@[simp] theorem ElemCtx.setQueue_bank (e : ElemCtx) (i : Nat) (l : List Token) : (e.setQueue i l).bank = e.bank := rfl
@[simp] theorem ElemCtx.setQueue_shadow (e : ElemCtx) (i : Nat) (l : List Token) : (e.setQueue i l).shadow = e.shadow := rfl
@[simp] theorem ElemCtx.setQueue_armed (e : ElemCtx) (i : Nat) (l : List Token) : (e.setQueue i l).armed = e.armed := rfl
@[simp] theorem ElemCtx.setQueue_inc (e : ElemCtx) (i : Nat) (l : List Token) : (e.setQueue i l).inc = e.inc := rfl
@[simp] theorem ElemCtx.setQueue_outq (e : ElemCtx) (i : Nat) (l : List Token) : (e.setQueue i l).outq = e.outq := rfl
@[simp] theorem ElemCtx.setQueue_outc (e : ElemCtx) (i : Nat) (l : List Token) : (e.setQueue i l).outc = e.outc := rfl
@[simp] theorem ElemCtx.setQueue_k (e : ElemCtx) (i : Nat) (l : List Token) : (e.setQueue i l).k = e.k := rfl
@[simp] theorem ElemCtx.setQueue_pass (e : ElemCtx) (i : Nat) (l : List Token) : (e.setQueue i l).pass = e.pass := rfl
@[simp] theorem ElemCtx.setQueue_ops (e : ElemCtx) (i : Nat) (l : List Token) : (e.setQueue i l).ops = e.ops := rfl
@[simp] theorem ElemCtx.setQueue_kelp (e : ElemCtx) (i : Nat) (l : List Token) : (e.setQueue i l).kelp = e.kelp := rfl
@[simp] theorem ElemCtx.setQueue_brk (e : ElemCtx) (i : Nat) (l : List Token) : (e.setQueue i l).brk = e.brk := rfl
@[simp] theorem ElemCtx.setQueue_ii (e : ElemCtx) (i : Nat) (l : List Token) : (e.setQueue i l).ii = e.ii := rfl
@[simp] theorem ElemCtx.setQueue_fires (e : ElemCtx) (i : Nat) (l : List Token) : (e.setQueue i l).fires = e.fires := rfl
@[simp] theorem ElemCtx.setQueue_group (e : ElemCtx) (i : Nat) (l : List Token) : (e.setQueue i l).group = e.group := rfl
@[simp] theorem ElemCtx.setQueue_wsSwaps (e : ElemCtx) (i : Nat) (l : List Token) : (e.setQueue i l).wsSwaps = e.wsSwaps := rfl
@[simp] theorem ElemCtx.setQueue_task (e : ElemCtx) (i : Nat) (l : List Token) : (e.setQueue i l).task = e.task := rfl
@[simp] theorem ElemCtx.setQueue_released (e : ElemCtx) (i : Nat) (l : List Token) : (e.setQueue i l).released = e.released := rfl
@[simp] theorem ElemCtx.setQueue_finished (e : ElemCtx) (i : Nat) (l : List Token) : (e.setQueue i l).finished = e.finished := rfl
@[simp] theorem ElemCtx.setQueue_stopped (e : ElemCtx) (i : Nat) (l : List Token) : (e.setQueue i l).stopped = e.stopped := rfl
@[simp] theorem ElemCtx.setQueue_captured (e : ElemCtx) (i : Nat) (l : List Token) : (e.setQueue i l).captured = e.captured := rfl

/-! ### ElemCtx.setCtlQueue -/

@[simp] theorem ElemCtx.setCtlQueue_bank (e : ElemCtx) (i : Nat) (l : List Ctl) : (e.setCtlQueue i l).bank = e.bank := rfl
@[simp] theorem ElemCtx.setCtlQueue_shadow (e : ElemCtx) (i : Nat) (l : List Ctl) : (e.setCtlQueue i l).shadow = e.shadow := rfl
@[simp] theorem ElemCtx.setCtlQueue_armed (e : ElemCtx) (i : Nat) (l : List Ctl) : (e.setCtlQueue i l).armed = e.armed := rfl
@[simp] theorem ElemCtx.setCtlQueue_inq (e : ElemCtx) (i : Nat) (l : List Ctl) : (e.setCtlQueue i l).inq = e.inq := rfl
@[simp] theorem ElemCtx.setCtlQueue_outq (e : ElemCtx) (i : Nat) (l : List Ctl) : (e.setCtlQueue i l).outq = e.outq := rfl
@[simp] theorem ElemCtx.setCtlQueue_outc (e : ElemCtx) (i : Nat) (l : List Ctl) : (e.setCtlQueue i l).outc = e.outc := rfl
@[simp] theorem ElemCtx.setCtlQueue_k (e : ElemCtx) (i : Nat) (l : List Ctl) : (e.setCtlQueue i l).k = e.k := rfl
@[simp] theorem ElemCtx.setCtlQueue_pass (e : ElemCtx) (i : Nat) (l : List Ctl) : (e.setCtlQueue i l).pass = e.pass := rfl
@[simp] theorem ElemCtx.setCtlQueue_ops (e : ElemCtx) (i : Nat) (l : List Ctl) : (e.setCtlQueue i l).ops = e.ops := rfl
@[simp] theorem ElemCtx.setCtlQueue_kelp (e : ElemCtx) (i : Nat) (l : List Ctl) : (e.setCtlQueue i l).kelp = e.kelp := rfl
@[simp] theorem ElemCtx.setCtlQueue_brk (e : ElemCtx) (i : Nat) (l : List Ctl) : (e.setCtlQueue i l).brk = e.brk := rfl
@[simp] theorem ElemCtx.setCtlQueue_ii (e : ElemCtx) (i : Nat) (l : List Ctl) : (e.setCtlQueue i l).ii = e.ii := rfl
@[simp] theorem ElemCtx.setCtlQueue_fires (e : ElemCtx) (i : Nat) (l : List Ctl) : (e.setCtlQueue i l).fires = e.fires := rfl
@[simp] theorem ElemCtx.setCtlQueue_group (e : ElemCtx) (i : Nat) (l : List Ctl) : (e.setCtlQueue i l).group = e.group := rfl
@[simp] theorem ElemCtx.setCtlQueue_wsSwaps (e : ElemCtx) (i : Nat) (l : List Ctl) : (e.setCtlQueue i l).wsSwaps = e.wsSwaps := rfl
@[simp] theorem ElemCtx.setCtlQueue_task (e : ElemCtx) (i : Nat) (l : List Ctl) : (e.setCtlQueue i l).task = e.task := rfl
@[simp] theorem ElemCtx.setCtlQueue_released (e : ElemCtx) (i : Nat) (l : List Ctl) : (e.setCtlQueue i l).released = e.released := rfl
@[simp] theorem ElemCtx.setCtlQueue_finished (e : ElemCtx) (i : Nat) (l : List Ctl) : (e.setCtlQueue i l).finished = e.finished := rfl
@[simp] theorem ElemCtx.setCtlQueue_stopped (e : ElemCtx) (i : Nat) (l : List Ctl) : (e.setCtlQueue i l).stopped = e.stopped := rfl
@[simp] theorem ElemCtx.setCtlQueue_captured (e : ElemCtx) (i : Nat) (l : List Ctl) : (e.setCtlQueue i l).captured = e.captured := rfl

/-! ### What reset leaves (R106) -/

/-- Every sequencer stands at its reset registers. -/
@[simp] theorem reset_sq (b : BitVec 6) : State.reset.sq b = Sq.reset := rfl
@[simp] theorem reset_elem (ea : EAddr) (c : BitVec 2) : State.reset.elem ea c = ElemCtx.reset := rfl
@[simp] theorem reset_site (n : SiteNo) : State.reset.site n = Site.reset := rfl
@[simp] theorem reset_queue (q : BitVec 12) : State.reset.queue q = WorkQueue.reset := rfl
@[simp] theorem reset_barrier (o : Nat) : State.reset.barrier o = Barrier.reset := rfl
@[simp] theorem reset_engine (b : BitVec 6) (q : BitVec 4) : State.reset.engine b q = EngQueue.reset := rfl
@[simp] theorem reset_channel (c : Nat) : State.reset.channel c = Channel.reset := rfl

end Sys2Proof.Machine
end

