-- ==== Sys2Proof/Laws/Run.lean ====
section
/-! SUPPORT. Laws/Run.lean: what the operations that every meaning goes through can do, said once: a next state tells which unit the instruction
ran for and what it made of the machine. -/

namespace Sys2Proof.Machine

/-! ### Fabric operators -/

theorem runStage_next {s t : State} {w : OpWord} {o : StageOp} :
    runStage s w o = .next t ↔ ∃ ea ctx, s.focus = .stage ea ctx ∧ stageStep s ea ctx w o = t := by
  unfold runStage
  cases s.focus <;> simp

theorem runSlot_next {s t : State} {w : OpWord} {f : State → SlotView → State} :
    runSlot s w f = .next t ↔ ∃ ea ctx n, s.focus = .slot ea ctx n ∧ f s (slotView s (eaSite ea) ctx n w) = t := by
  unfold runSlot
  cases s.focus <;> simp

theorem runAgn_next {s t : State} {w : OpWord} {code : Nat} {fire : State → AgnView → State} :
    runAgn s w code fire = .next t ↔
      ∃ ea ctx n, s.focus = .agn ea ctx n ∧ agnStep s (agnView s (eaSite ea) ctx n w code) fire = t := by
  unfold runAgn
  cases s.focus <;> simp

/-! ### Sequencer instructions -/

/-- With a sequencer in focus the instruction answers a next state. -/
theorem runSq_next {s : State} {b : BitVec 6} {f : State → BitVec 6 → State} (h : s.focus = .sq b) : ∃ t, runSq s f = .next t := by
  simp only [runSq, h]
  split
  · exact ⟨_, rfl⟩
  · split
    · exact ⟨_, rfl⟩
    · split <;> exact ⟨_, rfl⟩

/-- A halted sequencer executes nothing. -/
theorem runSq_halted {s : State} {b : BitVec 6} {f : State → BitVec 6 → State} (hf : s.focus = .sq b) (hr : (s.sq b).run = false) :
    runSq s f = .next s := by simp [runSq, hf, hr]

/-- A running sequencer that waits on no page fault runs its instruction. -/
theorem runSq_runs {s : State} {b : BitVec 6} {f : State → BitVec 6 → State} (hf : s.focus = .sq b) (hr : (s.sq b).run = true)
    (hh : (s.sq b).hold = none) : runSq s f = .next (f s b) := by simp [runSq, hf, hr, hh]

theorem sq_modSq_same {s : State} {b : BitVec 6} {f : Sq → Sq} (h : tabRising none s.sqs = true) : (s.modSq b f).sq b = f (s.sq b) :=
  tabGet_tabSet_same h

theorem sq_modSq_other {s : State} {b c : BitVec 6} {f : Sq → Sq} (h : tabRising none s.sqs = true) (hc : c ≠ b) :
    (s.modSq b f).sq c = s.sq c :=
  tabGet_tabSet_other h (fun e => hc (BitVec.eq_of_toNat_eq e))

/-- An instruction that completes writes g[D] and goes on. -/
theorem retireG_sq {s : State} {b : BitVec 6} {d : BitVec 5} {v : DWord} (h : tabRising none s.sqs = true) :
    (retireG s b d v).sq b = ((s.sq b).setG d v).retire := sq_modSq_same h

/-- A trap is taken from the pc of its instruction. -/
theorem takeTrap_sq {s : State} {b : BitVec 6} {code sub : BitVec 8} {detail : BitVec 48} (h : tabRising none s.sqs = true) :
    (takeTrap s b code sub detail).sq b = (s.sq b).trap (s.sq b).pc code sub detail := sq_modSq_same h

theorem supervisorOnly_supervisor {s f : State} {b : BitVec 6} (h : (s.sq b).priv = true) : supervisorOnly s b f = f := by
  simp [supervisorOnly, h]

theorem supervisorOnly_user {s f : State} {b : BitVec 6} (h : (s.sq b).priv = false) : supervisorOnly s b f = takeTrap s b 3 2 0 := by
  simp [supervisorOnly, h]

/-! ### The dispatcher, engines and mailbox -/

theorem onTask_next {s t : State} {f : State → Task → State} :
    onTask s f = .next t ↔ ∃ uid, s.focus = .task uid ∧ (s.task? uid).elim s (f s) = t := by
  unfold onTask
  cases s.focus <;> simp
  rename_i uid
  cases s.task? uid <;> simp

/-- A queue whose engine may not go on is left alone. -/
theorem runEngine_waits {op : Instr} {k : Nat} {s : State} {f : State → Nat → List Nat → State × Except EngStop Nat} {b : BitVec 6}
    {q : BitVec 4} (h : s.focus = .engine b q) (hr : engReady s b q = false) : runEngine op k s f = .next s := by
  simp [runEngine, h, hr]

/-- A mailbox operation has its effect with status 0 alone. -/
theorem mailbox_refuses {s : State} {op n : Nat} {f : State → State} (h : n ≠ 0) : mailbox s op n f = .next (mailboxDone s op n) := by
  simp [mailbox, h]

theorem mailbox_acts {s : State} {op : Nat} {f : State → State} : mailbox s op 0 f = .next (mailboxDone (f s) op 0) := rfl

end Sys2Proof.Machine
end

