-- ==== Sys2Proof/Tests/Slice0.lean ====
section
/-! SUPPORT. Tests/Slice0.lean: ill-formed terms, words written out from the encoding tables, single steps on small states with results taken from
the spec's words and examples, and for each statement states that meet its hypotheses. -/

open Sys2Proof Sys2Proof.Machine

section
/- One proof after the other: a kernel evaluation is short, and many at a time would each hold a thread of the one text. -/
set_option Elab.async false

namespace Sys2Proof.Tests

/-! ## Small states -/

/-- The next state of an outcome; the reset state of a stop. -/
def next (o : Host.Outcome State Fault Refusal) : State :=
  match o with
  | .next t => t
  | _ => State.reset

/-- Sequencer 0 runs an instruction at 0x1000 in supervisor mode, after the changes of f. -/
def sq0 (f : Sq → Sq) : State :=
  { State.reset.setSq 0 (f { Sq.reset with run := true, pc := 0x1000 }) with focus := .sq 0 }

/-- The same with values in g1, g2, g3. -/
def sqG (x y z : DWord) : State := sq0 (fun q => ((q.setG 1 x).setG 2 y).setG 3 z)

/-- Sequencer 0 after an instruction. -/
def ran (i : Instr) (s : State) : Sq := (next (exec i s)).sq 0

/-- A local data RAM with the bytes 1 to 16 at 0xFF0 of block 0. -/
def ram16 : Memory := memSetBytes [] 0xFF0 ((List.range 16).map (fun i => BitVec.ofNat 8 (i + 1)))

/-! ## Well-formedness -/

theorem test_illFormed_operators :
    ([.addFabric { fmt := 15, rnd := 0, sat := 0, sa := 0, sb := 1, sc := 0, dst := 0, kidx := 0, pg := 0, imm := 0 },   -- reserved FMT
      .addFabric { fmt := 8, rnd := 0, sat := 0, sa := 0, sb := 1, sc := 0, dst := 0, kidx := 0, pg := 0, imm := 0 },    -- FMT of the entry
      .addFabric { fmt := 5, rnd := 1, sat := 0, sa := 0, sb := 1, sc := 0, dst := 0, kidx := 0, pg := 0, imm := 0 },    -- RND
      .fadd { fmt := 12, rnd := 3, sat := 0, sa := 0, sb := 1, sc := 0, dst := 0, kidx := 0, pg := 0, imm := 0 },        -- reserved RND
      .mulhFabric { fmt := 5, rnd := 0, sat := 1, sa := 0, sb := 1, sc := 0, dst := 0, kidx := 0, pg := 0, imm := 0 },   -- SAT
      .mma { fmt := 1, rnd := 0, sat := 0, sa := 6, sb := 7, sc := 0, dst := 7, kidx := 0, pg := 0, imm := 0 },          -- SA
      .abs { fmt := 5, rnd := 0, sat := 0, sa := 0, sb := 1, sc := 0, dst := 0, kidx := 0, pg := 0, imm := 0 },          -- SB of a one-source entry
      .addFabric { fmt := 5, rnd := 0, sat := 0, sa := 0, sb := 1, sc := 1, dst := 0, kidx := 0, pg := 0, imm := 0 },    -- SC of a two-source entry
      .mma { fmt := 1, rnd := 0, sat := 0, sa := 0, sb := 7, sc := 0, dst := 0, kidx := 0, pg := 0, imm := 0 },          -- DST
      .addFabric { fmt := 5, rnd := 0, sat := 0, sa := 0, sb := 1, sc := 0, dst := 0, kidx := 1, pg := 0, imm := 0 },    -- KIDX
      .ld { fmt := 5, rnd := 0, sat := 0, sa := 0, sb := 0, sc := 0, dst := 0, kidx := 7, pg := 1, imm := 0 },           -- PG
      .addFabric { fmt := 5, rnd := 0, sat := 0, sa := 0, sb := 1, sc := 0, dst := 0, kidx := 0, pg := 0, imm := 1 },    -- IMM without a scalar
      .bfx { fmt := 5, rnd := 0, sat := 0, sa := 0, sb := 0, sc := 0, dst := 0, kidx := 0, pg := 0, imm := 0 },          -- LEN 0
      .cmp { fmt := 5, rnd := 0, sat := 0, sa := 0, sb := 1, sc := 0, dst := 0, kidx := 0, pg := 0, imm := 6 }           -- condition 6
     ] : List Instr).all (fun i => !i.wellFormed) = true := by decide +kernel

theorem test_illFormed_commands :
    ([.writeActive 0 (siteEa 0 0) 0 [], .writeShadow 0 (siteEa 0 0) 62 [1, 2, 3], .writeActive 0 (siteEa 0 0) 0 (List.replicate 65 0),
      .writeActive 0 (siteEa 40 0) 0 [1], .writeActive 0 (siteEa 0 2) 0 [1], .writeActive 0 (siteEa 4 4) 0 [1],
      .readBack 0 (siteEa 0 0) 1 0, .swap 0 (siteEa 0 0) 2, .discard 0 (siteEa 0 0) 1, .check 0 (siteEa 40 0) 0, .swapOnMark (siteEa 40 0) 0,
      .errcntClear (siteEa 40 0), .iiCounterClear (siteEa 40 0) 0 0, .fatalError 1 (siteEa 40 0)] : List Instr).all (fun i => !i.wellFormed) = true := by
  decide +kernel

theorem test_illFormed_events :
    ([.adaptWindow 40, .ctxarbWrite 0 0x100000, .ctxarbWrite 40 0, .tokenArrive 40 0 0 false, .rtlogClear 40, .accessResult 0 0 0, .walkComplete 0 0 0,
      .parityLanding 0 0, .scrubCheck 0, .forcedScrub 0, .bankRetireCommand 4 20, .bankRetireCommand 0 0, .axolotlCounterClear 0 0, .mtcfgWrite 4 9,
      .mtcfgWrite 0 0, .correctedRowWriteback 4 20 0, .wsSwap 4 0, .capRefill 0 0 6, .capRefill 4 0 0, .portDown 18,
      .queueDescriptorWrite 0 0 0 0x48 0 0] : List Instr).all (fun i => !i.wellFormed) = true := by decide +kernel

theorem test_wellFormed :
    ([.addFabric { fmt := 5, rnd := 0, sat := 0, sa := 0, sb := 6, sc := 0, dst := 0, kidx := 0, pg := 0, imm := 3 },
      .ld { fmt := 5, rnd := 0, sat := 0, sa := 0, sb := 0, sc := 0, dst := 0, kidx := 7, pg := 0, imm := 0 }, .addSequencer 31 31 31,
      .writeShadow 0 (siteEa 0 0) 62 [1, 2], .readBack 3 (siteEa 39 1) 63 1, .swap 0 (siteEa 0 0) 1, .check 0 (siteEa 4 3) 0, .adaptWindow 39,
      .ctxarbWrite 0 0xFFFFF, .mtcfgWrite 4 8, .bankRetireCommand 4 19, .portDown 17, .capRefill 0 0 5, .wsSwap 0 0,
      .queueDescriptorWrite 0 0 0 0x40 0 0] : List Instr).all Instr.wellFormed = true := by decide +kernel

/-! ## Words written out from the encoding tables -/

/-- Class 0, `cmp`: the word of R337; class 1, `fmul`: CLS 1, OP 2, FMT 11, RND 1. -/
theorem test_decode_lanes : decodeTableWord 64 0x0998040000000002 = some (.cmp { fmt := 3, rnd := 0, sat := 0, sa := 0, sb := 1, sc := 0, dst := 0, kidx := 0, pg := 0, imm := 2 }) ∧
    decodeTableWord 64 0x215A180100003FC0 = some (.fmul { fmt := 11, rnd := 1, sat := 0, sa := 0, sb := 6, sc := 0, dst := 0, kidx := 0, pg := 1, imm := 0x3FC0 }) := by
  decide +kernel

/-- Classes 2 to 6: CLS in [63:61], OP in [60:55]: `movk` 2.1, `mma` 3.0, `steer` 4.0, `ld` 5.0, `cnt` 6.0. -/
theorem test_decode_classes :
    (decodeTableWord 64 (2 * 2 ^ 61 + 1 * 2 ^ 55)).map (fun i => i.operator.map (·.1)) = some (some 129#9) ∧
    decodeTableWord 64 (3 * 2 ^ 61) = some (.mma { fmt := 0, rnd := 0, sat := 0, sa := 0, sb := 0, sc := 0, dst := 0, kidx := 0, pg := 0, imm := 0 }) ∧
    decodeTableWord 64 (4 * 2 ^ 61) = some (.steer { fmt := 0, rnd := 0, sat := 0, sa := 0, sb := 0, sc := 0, dst := 0, kidx := 0, pg := 0, imm := 0 }) ∧
    decodeTableWord 64 (5 * 2 ^ 61 + 7 * 2 ^ 36) = some (.ld { fmt := 0, rnd := 0, sat := 0, sa := 0, sb := 0, sc := 0, dst := 7, kidx := 0, pg := 0, imm := 0 }) ∧
    decodeTableWord 64 (6 * 2 ^ 61 + 4 * 2 ^ 36) = some (.cnt { fmt := 0, rnd := 0, sat := 0, sa := 0, sb := 0, sc := 0, dst := 4, kidx := 0, pg := 0, imm := 0 }) ∧
    decodeTableWord 64 (7 * 2 ^ 61) = none := by decide +kernel

/-- The words that the spec prints beside its examples (R304, R321, R329, R341, R343, R383, R384). -/
theorem test_decode_sequencer :
    decodeTableWord 32 0x3C61100A = some (.div 3 1 2) ∧ decodeTableWord 32 0x04A0FFFF = some (.addi 5 0 0xFFFF) ∧
    decodeTableWord 32 0x9085FFF6 = some (.bltn 4 5 0xFFF6) ∧ decodeTableWord 32 0x98000040 = some (.jal 0x40) ∧
    decodeTableWord 32 0xC8241003 = some (.crc 1 4 2 3) ∧ decodeTableWord 32 0xC0E02800 = some (.mfs 7 5) ∧
    decodeTableWord 32 0xC0040020 = some (.mts 4 0) ∧ decodeTableWord 32 0x24A01234 = some (.lhi 5 0x1234) ∧ decodeTableWord 32 0 = none := by decide +kernel

/-- Command words: KIND, CTX, EA, FIELD, COUNT (Table 12-4); the control operations of Table 12-5. -/
theorem test_decode_commands :
    decodeCommand 0x54E60002#32 [7, 8] = .ok (.writeShadow 1 0x4E60 0 [7, 8]) ∧ decodeCommand 0xD4E60081#32 [9] = .ok (.check 1 0x4E60 9) ∧
    decodeCommand 0xD4E600C1#32 [0] = .error .badCommand ∧ commandLength 0x54E60000#32 = 64 := by decide +kernel

/-- OP 0x01 of the stream copy engine, 0x30 of the migration engine, an operation of another engine, and a reserved header bit (Table 6-7). -/
theorem test_decode_engine : decodeEngine 0 1 = some .copy ∧ decodeEngine 3 0x30 = some .migrate ∧ decodeEngine 1 1 = none ∧ decodeEngine 0 0x201 = none := by
  decide +kernel

/-! ## Sequencers -/

/-- R321: −1 + 1, wrapping; g0 takes no write. -/
theorem test_add : (ran (.addSequencer 4 1 2) (sqG 0xFFFFFFFFFFFFFFFF 1 0)).getG 4 = 0 ∧ (ran (.addSequencer 4 1 2) (sqG 5 6 0)).getG 4 = 11 ∧
    (ran (.addSequencer 0 1 2) (sqG 5 6 0)).getG 0 = 0 ∧ (ran (.addSequencer 4 1 2) (sqG 5 6 0)).pc = 0x1004 := by decide +kernel

/-- Table 18-4: `slt` of −1 and 1 is 1, `sltn` is 0; `shl` by 70 shifts by 6; `srai` by 4 of 0x…FF00. -/
theorem test_shifts_compares : (ran (.slt 4 1 2) (sqG 0xFFFFFFFFFFFFFFFF 1 0)).getG 4 = 1 ∧ (ran (.sltn 4 1 2) (sqG 0xFFFFFFFFFFFFFFFF 1 0)).getG 4 = 0 ∧
    (ran (.shlSequencer 4 1 2) (sqG 1 70 0)).getG 4 = 64 ∧ (ran (.srai 4 1 4) (sqG 0xFFFFFFFFFFFFFF00 0 0)).getG 4 = 0xFFFFFFFFFFFFFFF0 := by decide +kernel

/-- R391: `mulh` of −1 and 5 is −1; `rem` of −7 and 2 is −1; R343: `div` of −7 and 2 is −3, of x and 0 is all ones with DIVZ. -/
theorem test_mulh_rem_div : (ran (.mulhSequencer 4 1 2) (sqG 0xFFFFFFFFFFFFFFFF 5 0)).getG 4 = 0xFFFFFFFFFFFFFFFF ∧
    (ran (.rem 4 1 2) (sqG 0xFFFFFFFFFFFFFFF9 2 0)).getG 4 = 0xFFFFFFFFFFFFFFFF ∧ (ran (.div 4 1 2) (sqG 0xFFFFFFFFFFFFFFF9 2 0)).getG 4 = 0xFFFFFFFFFFFFFFFD ∧
    (ran (.div 4 1 2) (sqG 7 0 0)).getG 4 = 0xFFFFFFFFFFFFFFFF ∧ (ran (.div 4 1 2) (sqG 7 0 0)).divz = true ∧
    (ran (.div 4 1 2) (sqG 0x8000000000000000 0xFFFFFFFFFFFFFFFF 0)).getG 4 = 0x8000000000000000 := by decide +kernel

/-- R341: the first eight digits of the check string, then "9", from all ones; the final XOR gives 0xE3069283. -/
theorem test_crc : (ran (.crc 4 1 2 0) (sqG ((ran (.crc 4 1 2 3) (sqG 0xFFFFFFFF 0x3837363534333231 0)).getG 4) 0x39 0)).getG 4 = 0xE3069283 ^^^ 0xFFFFFFFF := by
  decide +kernel

/-- R376: `lhi` of 0x8000 is sign-extended. -/
theorem test_lhi : (ran (.lhi 5 0x8000) (sq0 id)).getG 5 = 0xFFFFFFFF80000000 ∧ (ran (.lhi 5 0x1234) (sq0 id)).getG 5 = 0x12340000 := by decide +kernel

/-- R329: `bltn` with OFF16 0xFFF6 goes 40 bytes back when taken, to the next word when not. R361: `jal` sets g31 to 0x1004. -/
theorem test_branches : (ran (.bltn 1 2 0xFFF6) (sqG 1 2 0)).pc = 0xFD8 ∧ (ran (.bltn 1 2 0xFFF6) (sqG 2 2 0)).pc = 0x1004 ∧
    (ran (.blt 1 2 2) (sqG 0xFFFFFFFFFFFFFFFF 0 0)).pc = 0x1008 ∧ (ran (.jal 0x40) (sq0 id)).pc = 0x1100 ∧ (ran (.jal 0x40) (sq0 id)).getG 31 = 0x1004 ∧
    (ran (.jr 1 1 3) (sqG 0x2000 0 0)).pc = 0x2000 ∧ (ran (.jr 1 1 3) (sqG 0x2000 0 0)).getG 1 = 0x1004 := by decide +kernel

/-- R365: little-endian, signed and not, at the last byte of the local data RAM. R402: the low bytes are stored. -/
theorem test_ram : (ran (.lb 4 1 0) { sqG 0xE000000000000FFF 0 0 with lram := memSetBytes [] 0xFFF [0x80#8] }).getG 4 = 0xFFFFFFFFFFFFFF80 ∧
    (ran (.lhn 4 1 0) { sqG 0xE000000000000FF0 0 0 with lram := ram16 }).getG 4 = 0x0201 ∧
    (ran (.lq 4 1 8) { sqG 0xE000000000000FF0 0 0 with lram := ram16 }).getG 4 = 0x100F0E0D0C0B0A09 ∧
    memNat (next (exec (.sh 2 1 0) (sqG 0xE000000000000FFE 0x12345678 0))).lram 0xFFE 2 = 0x5678 ∧
    (ran (.lw 4 1 0) (sqG 0xE000000000000002 0 0)).cause = 0x304 ∧ (ran (.lw 4 1 0) (sqG 0xE000000000001000 0 0)).cause = 0x104 := by decide +kernel

/-- R322: `amcas` answers the old word and writes only on a match. -/
theorem test_amcas : (ran (.amcas 3 1 2) { sqG 0xE000000000000FF0 9 0x0807060504030201 with lram := ram16 }).getG 3 = 0x0807060504030201 ∧
    memNat (next (exec (.amcas 3 1 2) { sqG 0xE000000000000FF0 9 0x0807060504030201 with lram := ram16 })).lram 0xFF0 8 = 9 ∧
    memNat (next (exec (.amcas 3 1 2) { sqG 0xE000000000000FF0 9 1 with lram := ram16 })).lram 0xFF0 8 = 0x0807060504030201 ∧
    memNat (next (exec (.amadd 3 1 2) { sqG 0xE000000000000FF0 9 0 with lram := ram16 })).lram 0xFF0 8 = 0x080706050403020A := by decide +kernel

/-- R241, R420, R345: the trap of `svc 7` at user level, and the return. -/
theorem test_svc_eret :
    (let q := ran (.svc 7) (sq0 (fun q => { q with priv := false, ie := true, tvec := 0x8000 }))
     q.epc = 0x1004 ∧ q.cause = 0x705 ∧ q.pc = 0x80A0 ∧ q.priv = true ∧ q.ie = false ∧ q.ppl = false ∧ q.pie = true) ∧
    (let q := ran .eret (sq0 (fun q => { q with epc := 0x1004, pie := true }))
     q.pc = 0x1004 ∧ q.priv = false ∧ q.ie = true) ∧
    (ran .eret (sq0 (fun q => { q with priv := false }))).cause = 0x203 := by decide +kernel

/-- R383, R384: block 0 in supervisor mode, SQ.TVEC [7:0] stay 0, DIVZ clears on 1, an unlisted index traps. -/
theorem test_mfs_mts : (ran (.mfs 4 12) (sq0 id)).getG 4 = 1 ∧ (ran (.mts 1 3) (sqG 0x12345 0 0)).tvec = 0x12300 ∧
    (ran (.mts 1 0) (sq0 (fun q => { q.setG 1 9 with divz := true }))).divz = false ∧ (ran (.mfs 4 13) (sq0 id)).cause = 0x102 ∧
    (ran (.mts 1 9) (sqG 1 0 0)).cause = 0x402 ∧ (ran (.mfs 4 2) (sq0 (fun q => { q with priv := false }))).cause = 0x103 := by decide +kernel

/-- R426: `wfe` waits on an empty queue; R346: `evp` of an empty queue gives 0. -/
theorem test_wfe_evp : (ran .wfe (sq0 id)).pc = 0x1000 ∧ (ran .wfe (sq0 (fun q => { q with evTail := 1 }))).pc = 0x1004 ∧ (ran (.evp 1) (sqG 5 0 0)).getG 1 = 0 := by
  decide +kernel

/-- R326: the third arrival of three completes the phase; a count of 0 makes none; an object not enabled traps. -/
theorem test_bara :
    (let s := (sqG 5 2 40).setBarrier 5 { Barrier.reset with exp := 3, en := true, arr := 1, phase := 41 }
     ((next (exec (.bara 1 2) s)).barrier 5).phase = 42 ∧ ((next (exec (.bara 1 2) s)).barrier 5).arr = 0 ∧ ((next (exec (.bara 1 0) s)).barrier 5).arr = 1 ∧
     (ran (.barw 1 3) s).pc = 0x1004 ∧ (ran (.barw 1 3) { s with barriers := tabSet [] 5 { Barrier.reset with en := true, phase := 40 } Barrier.reset }).pc = 0x1000 ∧
     (ran (.bara 2 2) s).cause = 0x904) := by decide +kernel

end Sys2Proof.Tests

/-! ## Sequencer statements: states that meet their hypotheses -/

namespace Sys2Proof.Tests

/-- g1 points at the bytes 1 to 16 in the local data RAM, g2 and g3 hold numbers. -/
def ramS : State := { sqG 0xE000000000000FF0 7 0x0807060504030201 with lram := ram16 }

theorem sqG_runs (x y z : DWord) : Claims.Runs (sqG x y z) 0 := ⟨rfl, rfl, rfl⟩
theorem ramS_runs : Claims.Runs ramS 0 := ⟨rfl, rfl, rfl⟩
theorem user_runs : Claims.Runs (sq0 (fun q => { q with priv := false })) 0 := ⟨rfl, rfl, rfl⟩

theorem witness_RegisterOperations : Claims.Runs (sqG 5 6 0) 0 ∧ ∃ v, Claims.aluValue ((sqG 5 6 0).sq 0).getG (.addSequencer 4 1 2) = some (4, v) :=
  ⟨sqG_runs _ _ _, _, rfl⟩

/-- The last word, the last halfword and the last byte of the local data RAM. -/
theorem witness_RamAccesses_loads : Claims.Runs ramS 0 ∧ (∃ f, Claims.loadOf (.lq 4 1 8) = some (4, 1, 8, 8, f)) ∧ (∃ f, Claims.loadOf (.lb 4 1 15) = some (4, 1, 15, 1, f)) ∧
    Claims.inRam (Claims.address (ramS.sq 0) 1 8) ∧ (Claims.address (ramS.sq 0) 1 8).toNat % 8 = 0 ∧ Claims.inRam (Claims.address (ramS.sq 0) 1 15) :=
  ⟨ramS_runs, ⟨_, rfl⟩, ⟨_, rfl⟩, by unfold Claims.inRam; decide +kernel, by decide +kernel, by unfold Claims.inRam; decide +kernel⟩

theorem witness_RamAccesses_stores : Claims.Runs ramS 0 ∧ memWf ramS.lram = true ∧ Claims.storeOf (.sh 2 1 14) = some (2, 1, 14, 2) ∧
    Claims.inRam (Claims.address (ramS.sq 0) 1 14) ∧ (Claims.address (ramS.sq 0) 1 14).toNat % 2 = 0 :=
  ⟨ramS_runs, by decide +kernel, rfl, by unfold Claims.inRam; decide +kernel, by decide +kernel⟩

theorem witness_RamAccesses_atomics : Claims.Runs ramS 0 ∧ memWf ramS.lram = true ∧ (∃ w, Claims.atomicOf (ramS.sq 0).getG (.amcas 3 1 2) = some (3, 1, w)) ∧
    Claims.inRam ((ramS.sq 0).getG 1) ∧ ((ramS.sq 0).getG 1).toNat % 8 = 0 :=
  ⟨ramS_runs, by decide +kernel, ⟨_, rfl⟩, by unfold Claims.inRam; decide +kernel, by decide +kernel⟩

/-- One address at each edge of each range of Table 3-8. -/
theorem witness_DataAddresses :
    (0xE000000000000FFF#64).toNat / 2 ^ 60 = 0xE ∧ (0xE000000000000FFF#64).toNat % 2 ^ 60 / 2 ^ 12 = 0 ∧ (0xE000000000001000#64).toNat % 2 ^ 60 / 2 ^ 12 ≠ 0 ∧
    (0xF000000001FFFFFF#64).toNat / 2 ^ 60 = 0xF ∧ (0xF000000001FFFFFF#64).toNat % 2 ^ 60 / 2 ^ 25 = 0 ∧ (0xF000000002000000#64).toNat % 2 ^ 60 / 2 ^ 25 ≠ 0 ∧
    (0x01FFFFFFFFFFFFFF#64).toNat / 2 ^ 60 = 0 ∧ (0x01FFFFFFFFFFFFFF#64).toNat % 2 ^ 60 / 2 ^ 57 = 0 ∧ (0x0200000000000000#64).toNat % 2 ^ 60 / 2 ^ 57 ≠ 0 ∧
    (0xD000000000000000#64).toNat / 2 ^ 60 = 0xD := by decide +kernel

/-- Misaligned, past the RAM, and a supervisor form at user level; a halted sequencer. -/
theorem witness_TrappedAndHalted : Claims.Runs ramS 0 ∧
    ((∃ f, Claims.loadOf (.lw 4 1 2) = some (4, 1, 2, 4, f)) ∧ sqPlace ramS 0 (Claims.address (ramS.sq 0) 1 2) 4 4 = .error 3) ∧
    (Claims.storeOf (.sq 2 1 16) = some (2, 1, 16, 8) ∧ sqPlace ramS 0 (Claims.address (ramS.sq 0) 1 16) 8 8 = .error 1) ∧
    ((∃ w, Claims.atomicOf (ramS.sq 0).getG (.amadd 4 2 3) = some (4, 2, w)) ∧ sqPlace ramS 0 ((ramS.sq 0).getG 2) 8 8 = .error 3) ∧
    (Claims.Runs (sq0 (fun q => { q with priv := false })) 0 ∧ Claims.supervisorForm .eret = true) ∧
    ((sq0 (fun q => { q with run := false })).focus = .sq 0 ∧ ((sq0 (fun q => { q with run := false })).sq 0).run = false ∧ (encodeSq .wfe).isSome = true) :=
  ⟨ramS_runs, ⟨⟨_, rfl⟩, by decide +kernel⟩, ⟨rfl, by decide +kernel⟩, ⟨⟨_, rfl⟩, by decide +kernel⟩, ⟨user_runs, rfl⟩, rfl, rfl, rfl⟩

theorem witness_ControlTransfers : Claims.Runs (sqG 5 6 0) 0 ∧ Claims.branchOf ((sqG 5 6 0).sq 0).getG (.blt 1 2 0xFFFE) = some (0xFFFE, true) ∧
    Claims.branchOf ((sqG 5 6 0).sq 0).getG (.bge 1 2 0xFFFE) = some (0xFFFE, false) := ⟨sqG_runs _ _ _, rfl, rfl⟩

/-- Both levels, an index of each range. -/
theorem witness_SystemRegisters : Claims.Runs (sqG 5 6 0) 0 ∧ ((sqG 5 6 0).sq 0).priv = true ∧ Claims.Runs (sq0 (fun q => { q with priv := false })) 0 ∧
    tabRising none (sqG 5 6 0).sqs = true ∧ ((sqG 5 6 0).sq 0).evHeld = [] := ⟨sqG_runs _ _ _, rfl, user_runs, by decide +kernel, rfl⟩

/-- An instruction word that is undefined stands in the cache; the pc stands at no handler. -/
theorem witness_TrapsAndReturn :
    let s := sq0 (fun q => { q with icache := [(0x1000, 0x28000000#32)] })
    Claims.Runs s 0 ∧ icacheGet (s.sq 0).icache (s.sq 0).pc.toNat = some 0x28000000#32 ∧ decodeSq 0x28000000#32 = .error .undefined ∧
    ¬ (((s.sq 0).pc - (s.sq 0).tvec).toNat % 32 = 0 ∧ 1 ≤ ((s.sq 0).pc - (s.sq 0).tvec).toNat / 32 ∧ ((s.sq 0).pc - (s.sq 0).tvec).toNat / 32 ≤ 6) :=
  ⟨⟨rfl, rfl, rfl⟩, by decide +kernel⟩

/-- Where byte o of a tile stands in its banks. -/
def spadAt (n : SiteNo) (o : Nat) : Nat := bankKey n (bankOf 0 o) (rowOf o) + o % 64

/-- g1 names a byte of the block scratchpad, g2 a number. -/
def spadS : State := { sqG 0xF000000000000100 0x1234 0 with spad := memSetNat [] (spadAt (blockMt 0 0) 0x100) 8 0xABCD }

theorem witness_SpaceAccesses : Claims.Runs spadS 0 ∧ sqPlace spadS 0 (Claims.address (spadS.sq 0) 1 0) 8 8 = .ok (.spad (blockMt 0 0) 0x100) ∧
    (∃ t x, sqRead spadS 0 (.spad (blockMt 0 0) 0x100) 8 = (t, some x)) ∧ (sqWrite spadS 0 (.spad (blockMt 0 0) 0x100) 8 0x1234).2 = true :=
  ⟨⟨rfl, rfl, rfl⟩, by decide +kernel, ⟨_, _, rfl⟩, by decide +kernel⟩

/-- IE is set and the queue holds one entry, in ring slot 0 at the start of MT 0's scratchpad. -/
def eventS : State := sq0 (fun q => { q with ie := true, evTail := 1 })

theorem witness_Events : Claims.Runs eventS 0 ∧ (eventS.sq 0).ie = true ∧ (eventS.sq 0).evTail ≠ (eventS.sq 0).evHead ∧ (eventS.sq 0).within = false ∧
    (eventS.sq 0).arrival = none ∧ (eventS.sq 0).evHeld = [] ∧ memWf eventS.lram = true ∧ tabRising none eventS.sqs = true ∧
    (spadReadNat eventS (blockMt 0 0) 0 32).1.sqs = eventS.sqs ∧ (spadReadNat eventS (blockMt 0 0) 0 32).1.lram = eventS.lram ∧
    ((sqG 0 0 0).sq 0).evTail = ((sqG 0 0 0).sq 0).evHead :=
  ⟨⟨rfl, rfl, rfl⟩, rfl, by decide +kernel, rfl, rfl, rfl, by decide +kernel, by decide +kernel, by decide +kernel, by decide +kernel, rfl⟩

end Sys2Proof.Tests

/-! ## Instructions that reach beyond their sequencer -/

namespace Sys2Proof.Tests

/-- Sequencer 0 in partition 0, whose virtual addresses below 2 MiB stand for device memory from 0x200000 on, accessed and dirty; engine queue 0 of the
block is enabled with its ring at 0x8000, and work queue 0 takes records. -/
def mapped (f : Sq → Sq) : State :=
  let t := placeSq State.reset 0
  let t := { t with dmem := memSetNat t.dmem 0x4000 8 (placeCode + 0x81F + 2 ^ 52), agenda := [], focus := .sq 0 }
  let t := (t.modSq 0 f).setEngine 0 0 { EngQueue.reset with en := true, rbase := 0x8000 }
  t.setQueue 0 { WorkQueue.reset with en := true }

/-- Object 5 of partition 0 expects three arrivals and has two. -/
def barS : State := (sqG 5 1 40).setBarrier 5 { Barrier.reset with exp := 3, en := true, arr := 2, phase := 41 }

theorem barS_runs : Claims.Runs barS 0 := ⟨rfl, rfl, rfl⟩

theorem witness_BarrierInstructions : Claims.Runs barS 0 ∧ (((barS.sq 0).getG 1).toNat < 4096 ∧ (barS.barrier 5).en = true ∧ (barS.barrier 5).part = (barS.sq 0).part) ∧
    (barS.sq 0).arrival = none ∧ 0 < ((barS.sq 0).getG 2).toNat % 2 ^ 24 ∧ Claims.Free barS 5 1 ∧ Claims.Free barS 5 0 ∧ ((barS.sq 0).getG 0).toNat % 2 ^ 24 = 0 ∧
    Claims.done (barS.barrier 5).phase (BitVec.ofNat 32 ((barS.sq 0).getG 3).toNat) ∧ ¬ Claims.done (barS.barrier 5).phase 41 ∧
    ¬ ((barS.barrier ((barS.sq 0).getG 2).toNat).en = true) := by
  refine ⟨barS_runs, by decide +kernel, rfl, by decide +kernel, ?_, ?_, by decide +kernel, ?_, ?_, by decide +kernel⟩
  · unfold Claims.Free; decide +kernel
  · unfold Claims.Free; decide +kernel
  · unfold Claims.done; decide +kernel
  · unfold Claims.done; decide +kernel

/-- g1 = 0, g2 a 64-byte command in the local data RAM, g3 = 2. -/
def appS : State := { mapped (fun q => ((q.setG 1 0).setG 2 0xE000000000000FC0).setG 3 2) with lram := ram16 }

theorem appS_runs : Claims.Runs appS 0 := by unfold Claims.Runs; decide +kernel

/-- A stream of no word, of 2^24 words, of more; a read-back word; an enabled engine queue with room, one without, one that is not enabled. -/
theorem witness_LoaderAndQueues : Claims.Runs appS 0 ∧ (appS.sq 0).priv = true ∧ ((appS.sq 0).getG 1).toNat = 0 ∧ sqPlace appS 0 ((appS.sq 0).getG 2) 4 4 = .ok (.ram 0xFC0) ∧
    (appS.sq 0).rb = [] ∧ ((appS.modSq 0 (fun q => { q with rb := [7] })).sq 0).rb = [7] ∧ (2 ^ 24 < (0x1000001#64).toNat) ∧
    (appS.engine 0 0).en = true ∧ ((appS.engine 0 0).appn - (appS.engine 0 0).donen).toNat < 2 ^ ((appS.engine 0 0).rsz.toNat + 4) ∧
    2 ^ (({ EngQueue.reset with appn := 16 } : EngQueue).rsz.toNat + 4) ≤ (({ EngQueue.reset with appn := 16 } : EngQueue).appn - 0).toNat ∧
    (appS.engine 0 1).en = false ∧ Claims.inRam ((appS.sq 0).getG 2) ∧ Claims.Unobserved appS ∧ memWf appS.dmem = true ∧ tabRising none appS.engines = true ∧
    tabRising none appS.sqs = true ∧ sqPlace appS 0 ((appS.sq 0).getG 2) 64 64 = .ok (.ram 0xFC0) := by
  refine ⟨appS_runs, by decide +kernel, by decide +kernel, by decide +kernel, by decide +kernel, by decide +kernel, by decide, by decide +kernel, by decide +kernel,
    by decide, by decide +kernel, ?_, ?_, by decide +kernel⟩
  · unfold Claims.inRam; decide +kernel
  · unfold Claims.Unobserved; decide +kernel

/-- The first slot of the ring, one translation away, which changes nothing but the sequencer's cached translations. -/
theorem witness_LoaderAndQueues_ring : ∃ u, sqXlat appS 0 0x8000 writeIntent = (u, .ok 0x208000) ∧ u.dmem = appS.dmem ∧ u.tasks = [] ∧ u.channels = [] ∧
    u.engines = appS.engines ∧ u.sqs = (appS.setSq 0 (u.sq 0)).sqs :=
  ⟨(sqXlat appS 0 0x8000 writeIntent).1, rfl, by decide +kernel⟩

/-- A record of one task with no predecessor of its own stands at 0x200040; its graph stands nowhere. -/
def tskS : State := mapped (fun q => ((q.setG 1 0x40).setG 2 1).setG 3 0)

theorem tskS_runs : Claims.Runs tskS 0 := by unfold Claims.Runs; decide +kernel

theorem witness_FabricRequests_queues : Claims.Runs tskS 0 ∧ ((tskS.sq 0).getG 1).toNat % 64 = 0 ∧ ((tskS.sq 0).getG 2).toNat % 64 ≠ 0 ∧
    (tskS.queue (tskS.sq 0).tskq).part = (tskS.sq 0).part ∧ (tskS.queue 0).en = true ∧ (tskS.queue 0).halt = false ∧ (tskS.queue 0).held = [] ∧
    (∃ u r, readRecord tskS 0 0x40 = (u, .done r)) ∧ (tskS.queue 1).en = false ∧ (tskS.sq 0).priv = true ∧
    (tskS.queue 0).acc.toNat ≤ ((tskS.queue 0).tail + 1).toNat ∧ ((tskS.queue 0).tail + 1).toNat ≤ (tskS.queue 0).acc.toNat + 2 ^ 31 ∧
    ((tskS.setQueue 2 { WorkQueue.reset with part := 1 }).queue 2).part ≠ (tskS.sq 0).part :=
  ⟨tskS_runs, by decide +kernel, by decide +kernel, by decide +kernel, by decide +kernel, by decide +kernel, by decide +kernel,
    ⟨_, _, rfl⟩, by decide +kernel⟩

/-- An operator of MT 0 holds a physical address of generation 1. -/
def heldGen : State := tskS.modElem (siteEa 4 0) 0 (fun e => { e with ops := [(32, { OpSt.zero with page := some (0, 0x0100000000000000#64) })] })

theorem witness_FabricRequests_translations : ((tskS.sq 0).getG 1).toNat < 2 ^ 57 ∧ 2 ^ 57 ≤ (0x0200000000000000#64).toNat ∧ tabRising none tskS.sqs = true ∧
    tabRising none tskS.sites = true ∧ tabRising none tskS.parts = true ∧ genBusy tskS 0 = false ∧ genBusy heldGen 0 = true := by decide +kernel

/-- A misaligned range, one that cuts a leaf, and the whole 2 MiB leaf. -/
theorem witness_FabricRequests_sealing : (sealStatus tskS 0 0x40 0x1000).1 = 1 ∧ (sealStatus tskS 0 0 0x1000).1 = 1 ∧ (sealStatus tskS 0 0 0x200000).1 = 0 := by
  decide +kernel

/-- A store to device memory waits behind the sequencer. -/
def pendS : State := appS.modSq 0 (fun q => { q with pend := [(0x208040, [1, 2])], tskq := 1 })
/-- The same in a broken pair. -/
def pairQ : State := { pendS with plat := { pendS.plat with lsWrites := [{ idx := 0, unit := 0, part := 0, line := 0x208040, mask := 1, data := [], since := 0 }] } }

theorem witness_Events_order : Claims.Ordered eventS 0 ∧ (∀ i ∈ [Instr.fen 0, .bara 1 2, .qappEngine 4 1 2, .qappWork 4 1 2, .sealRange 4 1 2, .shdn 1 2, .tsk 4 1], Claims.orders i = true) ∧
    Claims.Runs pendS 0 ∧ Claims.Runs pairQ 0 ∧
    (let u := performAll pendS 0
     u.focus = pendS.focus ∧ (u.sq 0).run = true ∧ (u.sq 0).hold = none ∧ (u.sq 0).priv = (pendS.sq 0).priv ∧ (u.sq 0).pend = [] ∧ unitWaits u 0 0 0 0 0 = false) ∧
    (let u := performAll pairQ 0
     u.focus = pairQ.focus ∧ (u.sq 0).run = true ∧ (u.sq 0).hold = none ∧ (u.sq 0).priv = (pairQ.sq 0).priv ∧ (u.sq 0).pend = [] ∧ unitWaits u 0 0 0 0 0 = true) := by
  unfold Claims.Ordered Claims.Runs; decide +kernel
theorem witness_orders : Claims.Ordered barS 0 ∧ Claims.Ordered appS 0 ∧ Claims.Ordered tskS 0 ∧ Claims.Ordered (sqG 0 0 0) 0 ∧ lsSide appS.plat 0 = false := by
  unfold Claims.Ordered; decide +kernel

/-- A 16-byte debug block at the end of the local data RAM. -/
theorem witness_FabricRequests_debug : let s := sqG 0xE000000000000FF0 0 0
    Claims.Runs s 0 ∧ Claims.inRam ((s.sq 0).getG 1) ∧ ((s.sq 0).getG 1).toNat % 8 = 0 ∧ ((s.sq 0).getG 1).toNat % 4096 + 16 ≤ 4096 :=
  ⟨⟨rfl, rfl, rfl⟩, by unfold Claims.inRam; decide +kernel, by decide +kernel⟩

end Sys2Proof.Tests

/-! ## Stages of a compute tile -/

namespace Sys2Proof.Tests

/-- A data token with a payload, valid in the lanes of a mask, its residues right there. -/
def tok (pay : Nat) (mask : BitVec 16) : Token :=
  { Token.zero with pay := BitVec.ofNat 512 pay, mask := mask, res := regenRes (BitVec.ofNat 512 pay) mask }

/-- Payloads with a different number in each lane. -/
def payA : Nat := 0x00000001_7FFFFFFF_80000000_FFFFFFFF_00010203_FEDCBA98_00000000_01234567_00000005_80008000_7F7F7F7F_00000100_3F800000_C0490FDB_00003C00_0000BC00
def payB : Nat := 0x00000001_00000001_FFFFFFFF_00000002_04050607_00000003_00000000_00000008_FFFFFFFB_00010001_01010101_00000010_40000000_3F000000_00004000_00003800

/-- The tokens at ports 0 to 2 that stand before stage 1. -/
def ports3 (a b c : Token) : Pass := { ports := [(0, some a), (1, some b), (2, some c)], stage := 1, prev := none }

/-- A compute tile's body, context 0, with a pass at stage 1. -/
def ctS (p : Pass) (f : ElemCtx → ElemCtx) : State :=
  { State.reset.modElem (siteEa 0 0) 0 (fun e => f { e with pass := some p }) with focus := .stage (siteEa 0 0) 0 }

/-- What its stage 1 sees with a word. -/
def ctV (s : State) (w : OpWord) : View :=
  let e := s.elem (siteEa 0 0) 0
  { ea := siteEa 0 0, ctx := 0, n := 1, w := w, e := e, op := e.op 1 }

/-- A word of format f that takes ports 0, 1 and 2 and hands its result to the next stage. -/
def ow (f : BitVec 4) (imm : Word) : OpWord :=
  { fmt := f, rnd := 0, sat := 0, sa := 0, sb := 1, sc := 2, dst := 4, kidx := 0, pg := 0, imm := imm }

/-- Everything that `Claims.OnData` asks for, as one value. -/
def onData (s : State) (v : View) (p : Pass) (code : Nat) (fmts : List Nat) (popped : Bool) : Bool :=
  decide (s.focus = .stage v.ea v.ctx) && decide (v.e = s.elem v.ea v.ctx) && decide (v.n = p.stage) && decide (v.op = v.e.op v.n) &&
  decide (v.e.pass = some p) && !v.e.stopped && v.op.res.isEmpty && !(v.op.ended && isSource code v.w) &&
  (sourceCodes code v.w).all (fun c => decide (4 < c) || (portToken p c).isSome) &&
  (decide (3 < v.w.dst.toNat) || outputRoom s v.ea v.ctx v.w.dst.toNat) &&
  (Claims.portsOf p (sourceCodes code v.w)).all (fun t => decide (t.kind = .data)) && (!Claims.decodes v fmts || v.op.seen) &&
  (if v.w.pg = 1 then (match gateOf v.e v.op v.n .data with | (.open_ false, b) => b == popped | _ => false) else !popped)

theorem onData_sound {s : State} {v : View} {p : Pass} {code : Nat} {fmts : List Nat} {popped : Bool} (h : onData s v p code fmts popped = true) :
    Claims.OnData s v p code fmts popped := by
  simp only [onData, Bool.and_eq_true, Bool.or_eq_true, decide_eq_true_eq, List.all_eq_true, Bool.not_eq_true', List.isEmpty_iff] at h
  obtain ⟨⟨⟨⟨⟨⟨⟨⟨⟨⟨⟨⟨h1, h2⟩, h3⟩, h4⟩, h5⟩, h6⟩, h7⟩, h8⟩, h9⟩, h10⟩, h11⟩, h12⟩, h13⟩ := h
  refine ⟨⟨h1, h2, h3, h4, h5, h6, h7, h8, ?_, ?_⟩, h11, ?_, ?_⟩
  · intro c hc hle
    rcases h9 c hc with h | h
    · omega
    · exact h
  · intro hd
    rcases h10 with h | h
    · omega
    · exact h
  · intro hd
    rcases h12 with h | h
    · simp [hd] at h
    · exact h
  · unfold Claims.GateOpen
    split at h13
    · rename_i hp
      rw [if_pos hp]
      split at h13
      · rename_i b hb
        rw [hb, beq_iff_eq.1 h13]
      · cases h13
    · rename_i hp
      rw [if_neg hp]
      simpa using h13

end Sys2Proof.Tests

/-! ## A launch and a task -/

namespace Sys2Proof.Tests

/-- A launch of 2 × 3 tasks, each of 4 × 2 × 1 × 3 records, whose launch number is 2. -/
def aLaunch : Launch :=
  { ord := 2, queue := 0, pos := 1, part := 0, prio := 0, graph := 0, param := 0, tstamp := 9, rows := 1, cols := 1, flags := 0, pflim := 0, wdog := 0
    cbsh := 0, decls := [], deps := [], widths := [3, 2, 0, 5, 0, 1], dlev := 2, exts := [2, 3, 4, 2, 1, 3], late := none, replays := none, slot := 0
    block := none, joined := false, ended := 0, total := 6 }

/-- Its task 5, on the sites from row 0, column 0. -/
def aTask (phase : TaskPhase) : Task :=
  { uid := 2 * 2 ^ 32 + 5, index := 5, phase := phase, row0 := 0, col0 := 0, rho := 0, readyAt := 0, bypass := 0, slot := none, irrev := false
    wthrough := false, aborts := 0, preempts := 0, wstores := 0, spldn := false, pred := none, cb := [], rsig := 0, wsig := 0, repair := []
    repaired := 0, poisoned := false, fault := none, cutNo := 0, cutWhy := 0, saved := [], spill := [], image := [], inits := [], uses := [], iis := []
    binds := [], exps := [], lastFire := 0, excused := 0, pxFault := none, cutReq := none }

end Sys2Proof.Tests

/-! ## Configuration, site registers, banks and links -/

namespace Sys2Proof.Tests

/-- The PC's stream reaches any element of the machine after reset. -/
theorem reset_serves {ea : EAddr} {k : ElemKind} (h : kindOf ea = some k) (h' : (State.reset.port ea).owner = 0) : Claims.Serves State.reset ea k :=
  { focus := (fun _ h => nomatch h), kind := h, owner := .inl h', ports := by decide +kernel }

/-- A stage's k[KIDX] field at the last field that stages; a parity element's command that fails; a read-back up to field 63. -/
theorem witness_ConfigurationCommands_writes : Claims.Serves State.reset (siteEa 4 0) .mt ∧ Claims.Serves State.reset (siteEa 4 3) .parity ∧
    checkValue State.reset (fromPc (streamId State.reset.focus)) (siteEa 4 0) .mt 1 false 9 0x41 = none ∧
    wordFails State.reset (siteEa 4 0) .mt 1 false 9 [0x41] = [] ∧
    checkValue State.reset (fromPc (streamId State.reset.focus)) (siteEa 4 0) .mt 1 true 9 0x41 = none ∧
    wordFails State.reset (siteEa 4 0) .mt 1 true 9 [0x41] = [] ∧
    checkValue State.reset (fromPc (streamId State.reset.focus)) (siteEa 4 3) .parity 0 false 0 0xFFFFFFFF = some 1 ∧
    wordFails State.reset (siteEa 4 3) .parity 0 false 0 [0xFFFFFFFF] = [] ∧ (0#6).toNat + countCode 0 ≤ 64 ∧ (63#6).toNat + countCode 1 ≤ 64 :=
  ⟨reset_serves (by decide +kernel) (by decide +kernel), reset_serves (by decide +kernel) (by decide +kernel), by decide +kernel⟩

/-- A staged write of AGNB of AGN 0 in MT 4, and a context with a shadow bank. -/
def cfgS (armed : Bool) : State :=
  (State.reset.setPort (siteEa 4 0) { staged := [{ ctx := 1, shadow := false, key := 8, val := 1 }], crc := 5, owner := 1 }).modElem (siteEa 4 0) 1 (fun e =>
    { e with shadow := some [(8, 0x42#32), (9, 3#32)], armed := armed, fires := 3, wsSwaps := 0 })

theorem cfgS_serves (a : Bool) : Claims.Serves (cfgS a) (siteEa 4 0) .mt :=
  { focus := (fun _ h => nomatch h), kind := by decide +kernel, owner := .inr (by cases a <;> decide +kernel), ports := by cases a <;> decide +kernel }

theorem witness_ConfigurationCommands_controls : Claims.Serves (cfgS true) (siteEa 4 0) .mt ∧
    ((cfgS true).port (siteEa 4 0)).crc ^^^ 0xFFFFFFFF#32 ≠ 5 ∧
    ((cfgS true).port (siteEa 4 0)).staged = [{ ctx := 1, shadow := false, key := 8, val := 1 }] ∧
    crossFails (cfgS true) .mt (siteEa 4 0) (1, false) = [] ∧ tabRising none (cfgS true).elems = true ∧
    ((cfgS true).elem (siteEa 4 0) 1).shadow = some [(8, 0x42#32), (9, 3#32)] ∧ eaExists (siteEa 4 0) = true ∧
    ((cfgS true).elem (siteEa 4 0) 1).armed = true ∧ ((cfgS true).elem (siteEa 4 0) 1).task = none ∧ (cfgS true).tasks = [] ∧
    ((cfgS true).elem (siteEa 4 0) 0).shadow = none :=
  ⟨cfgS_serves true, by decide +kernel⟩

end Sys2Proof.Tests

namespace Sys2Proof.Tests

/-- MT 4 after some work: ADAPT on with weights 1, 2, 0, 15 and a closed window, credits, counters, a parity update of row 3 of group 1 under way. -/
def siteS : State :=
  let s := State.reset.modSite 4 (fun r => { r with
    ctxarb := 0x5F021#32, credit := [(0, 9), (1, 1), (3, 12)], skip := [(1, 4)], occ := [(0, 10), (1, 20), (2, 99)], occStart := 5
    miscnt := 7, lslot := 3, lroute := 9, rsvhit := true, ecnt := [(0, 5), (1, 6), (2, 7), (3, 8)]
    ax := { r.ax with recon := 1, degrd := 2, rwait := 3, wstall := 4, scrpm := 5, sweeps := 6, ce := [(3, 2)]
                      pipes := [(1, [{ row := 3, delta := 0x55, at_ := 10 }])] } })
  let s := s.modElem (siteEa 4 0) 1 (fun e => { e with ii := [(0, 4), (16, 5), (17, 6), (32, 7)] })
  { s with time := 3000 }

/-- The same tile with a task of partition 0 admitted. -/
def siteT : State := { siteS with launches := [aLaunch], tasks := [{ aTask .running with uses := [elemKey (siteEa 4 0) 0] }] }

/-- Write, ignored write, end of a window that has closed with occupancy, with none, and one that has not closed. -/
theorem witness_SiteRegisters_weights : siteExists 4 = true ∧ tabRising none siteS.sites = true ∧ tabRising none (siteS.site 4).credit = true ∧
    (0xFFFFF#32).toNat < 2 ^ 20 ∧ 2 ^ 20 ≤ (0x100000#32).toNat ∧
    ((siteS.site 4).ctxarb.getLsbD 16 = true ∧ (siteS.site 4).occStart + 256 * 2 ^ ((siteS.site 4).ctxarb.toNat / 2 ^ 17 % 8) ≤ siteS.time) ∧
    (∃ c, (c < 4 ∧ Claims.weight (siteS.site 4).ctxarb c ≠ 0) ∧ tabGet (siteS.site 4).occ c 0 = 20) ∧
    (∀ c, c < 4 ∧ Claims.weight (siteS.site 4).ctxarb c ≠ 0 → tabGet (siteS.site 4).occ c 0 ≤ 20) ∧
    (let s := siteS.modSite 4 (fun r => { r with occ := [] })
     ∀ c < 4, tabGet (s.site 4).occ c 0 = 0) ∧
    ¬ ((State.reset.site 4).ctxarb.getLsbD 16 = true) := by
  refine ⟨by decide +kernel, by decide +kernel, by decide +kernel, by decide, by decide, by decide +kernel, ⟨1, by decide +kernel⟩, ?_, by decide +kernel⟩
  intro c h
  have h4 := h.1
  revert h4 h
  have : ∀ c < 4, c < 4 ∧ Claims.weight (siteS.site 4).ctxarb c ≠ 0 → tabGet (siteS.site 4).occ c 0 ≤ 20 := by decide +kernel
  exact fun h _ => this c h.1 h

/-- The counters, MTCFG with and without a task, and banks 0, 15, 16 and 19. -/
theorem witness_SiteRegisters_counters : tabRising none (siteS.site 4).ecnt = true ∧ tabRising none siteS.elems = true ∧
    tabRising none (siteS.elem (siteEa 4 0) 1).ii = true ∧ tabRising none (siteS.elem (siteEa 4 1) 1).ii = true ∧ siteIsMt 4 = true ∧
    ((0x3F18#32).toNat < 2 ^ 14 ∧ (0x3F18#32).toNat / 32 % 8 = 0 ∧ (0x3F18#32).toNat % 16 ≤ 8) ∧
    (0x3F18#32).toNat % 16 ≠ (siteT.site 4).mtcfg.toNat % 16 ∧ siteS.tasks = [] ∧
    (∃ t ∈ siteT.tasks, t.uses ≠ [] ∧ ∃ l, siteT.launch? (t.uid / 2 ^ 32) = some l ∧ l.part = (siteT.site 4).mtcfg.toNat / 256 % 64) ∧
    tabRising none (siteS.site 4).ax.retired = true ∧ tabRising none (siteS.site 4).ax.pipes = true ∧
    (∀ g < 4, tabGet (siteS.site 4).ax.retired g [] = []) :=
  ⟨by decide +kernel, by decide +kernel, by decide +kernel, by decide +kernel, by decide +kernel, by decide, by decide +kernel, by decide +kernel,
    ⟨{ aTask .running with uses := [elemKey (siteEa 4 0) 0] }, by decide +kernel, by decide +kernel, aLaunch, by decide +kernel⟩,
    by decide +kernel⟩

end Sys2Proof.Tests

namespace Sys2Proof.Tests

/-- MT 4 with: an update of row 3 of group 1 written at time 10, a corrected row 7 of bank 2 to write back, the scrubber at row 5 of group 0 whose
parity row disagrees with a byte 1 in bank 0. -/
def bankS (held : Line) : State :=
  let s := State.reset.modSite 4 (fun r => { r with ax := { r.ax with
    pipes := [(1, [{ row := 3, delta := 0x55, at_ := 10 }])], errs := [(2 * 2048 + 7, 1)], fixes := [(2, 7)], scrub := 5, busy := [(9, 20000), (8, 19999)]
    parity := if held = 0 then [] else [(5, held)] } })
  { s with spad := [(bankKey 4 0 5, 1#8)], time := 20000 }

theorem witness_ParityBanks : siteExists 4 = true ∧ siteIsMt 4 = true ∧ tabRising none (bankS 0).sites = true ∧
    (let a := ((bankS 0).site 4).ax
     tabGet a.pipes 1 [] = [{ row := 3, delta := 0x55, at_ := 10 }] ∧ 10 + 2 ≤ (bankS 0).time ∧ tabGet a.errs (17 * 2048 + 3) 0 = 0 ∧
     tabRising none a.pipes = true ∧ tabRising none a.parity = true ∧ tabGet a.pipes 0 [] = [] ∧ (2, 7) ∈ a.fixes ∧ bankBusy a 2 20000 20000 = false ∧
     tabGet a.errs (2 * 2048 + 7) 0 = 1 ∧ tabRising none a.errs = true ∧ bankBusy a 9 20000 20000 = true ∧ (17, 20000) ∉ a.busy ∧ a.scrub / 2048 % 4 = 0 ∧ a.scrub % 2048 = 5 ∧
     a.bpctl.getLsbD 1 = true ∧ staleAt a 0 5 20000 20000 = false ∧ (∀ b ∈ [0, 1, 2, 3, 16], bankBusy a b 20000 20000 = false) ∧ tabGet a.retired 0 [] = [] ∧
     (∀ b ∈ [0, 1, 2, 3, 16], tabGet a.errs (b * 2048 + 5) 0 = 0) ∧ tabGet a.parity 5 0 ≠ Claims.parityOf (bankS 0) 4 0 5 ∧
     a.lastScrub + 2 ^ (a.bpctl.toNat / 4 % 16) ≤ (bankS 0).time) ∧
    tabGet ((bankS 1).site 4).ax.parity 5 0 = Claims.parityOf (bankS 1) 4 0 5 ∧
    State.reset.time < (State.reset.site 4).ax.lastScrub + 2 ^ ((State.reset.site 4).ax.bpctl.toNat / 4 % 16) ∧
    State.reset.time / 3600000000000 = State.reset.plat.hour ∧ 3600000000000 / 3600000000000 ≠ State.reset.plat.hour := by decide +kernel

/-- A whole flit with number n. -/
def flit (n : BitVec 16) (type : BitVec 8) : Flit :=
  let f : Flit := { seq := n, ack := 3, type := type, len := 1, pay := 0x77, crc := 0 }
  { f with crc := BitVec.ofNat 64 (crc64 (flitBytes f)) }

/-- Link 2 expects number 9 and has flits 3 and 4 unacknowledged; 64 retries have failed. -/
def linkS (fails : Nat) : State :=
  (State.reset.setLink 2 { Link.reset with expect := 9, unacked := [flit 3 1, flit 4 1], fails := fails }).setEngine 0 1
    { EngQueue.reset with en := true, eng := 1, status := some 0 }

/-- A die edge on which one flit waits, of which `lossy` more transmissions fail, after `fails` failures. -/
def edgeS (lossy fails : Nat) : State := State.reset.setLink 33 { Link.reset with unacked := [flit 0 2], lossy := lossy, fails := fails }

/-- Expected, out of order, a nak, a spoiled flit; a port that goes down, one that stays up; a die edge that is sent again, that fails, that fails for the
64th time. -/
theorem witness_LinksAndArrivals_links : ((linkS 64).link 2).down = false ∧
    (flit 9 1).crc.toNat = crc64 (flitBytes (flit 9 1)) ∧ (flit 9 1).type ≠ 5 ∧ (flit 9 1).seq = ((linkS 64).link 2).expect ∧
    (flit 8 1).crc.toNat = crc64 (flitBytes (flit 8 1)) ∧ (flit 8 1).seq ≠ ((linkS 64).link 2).expect ∧
    (flit 9 5).crc.toNat = crc64 (flitBytes (flit 9 5)) ∧ (flit 9 5).type = 5 ∧
    ¬ ({ flit 9 1 with crc := 0 } : Flit).crc.toNat = crc64 (flitBytes { flit 9 1 with crc := 0 }) ∧
    ((linkS 64).link 2).unacked ≠ [] ∧ ((linkS 64).link 1).unacked = [] ∧ ((linkS 64).link 1).down = false ∧ ((linkS 63).link 2).fails < 64 ∧
    64 ≤ ((linkS 64).link 2).fails ∧ tabRising none (linkS 64).engines = true ∧
    ((edgeS 0 0).link 33).unacked ≠ [] ∧ ((edgeS 0 0).link 33).lossy = 0 ∧ 0 < ((edgeS 1 62).link 33).lossy ∧ ((edgeS 1 62).link 33).fails + 1 ≠ 64 ∧
    ((edgeS 1 63).link 33).fails + 1 = 64 := by decide +kernel

/-- A control token waits above the die edge of column 0, which has an unacknowledged flit. -/
def edgeTok : State :=
  (State.reset.modElem (siteEa (siteAt 31 0) 1) 0 (fun e => { e with outc := [(2, [ctlTok true false])] })).setLink 36 { Link.reset with unacked := [flit 0 2] }

/-- Router 1 looks east-west to router 0, whose outbound slots hold a token of route 5 and a control token; its own slot expects route 6. -/
def meshS : State :=
  let s := State.reset.modElem (siteEa 0 1) 0 (fun e => { e with outq := [(1, [{ tok 9 0xFFFF with route := 5 }, tok 8 1])], outc := [(1, [ctlTok true false])] })
  s.modElem (siteEa 1 1) 0 (fun e => { e with bank := [(19, 0x406#32)] })

theorem witness_LinksAndArrivals_mesh : siteExists 1 = true ∧ siteNeighbour 1 3 = some 0 ∧
    tabGet (meshS.elem (siteEa 0 1) 0).outc 1 [] = [ctlTok true false] ∧ (meshS.elem (siteEa 0 1) 0).task = (meshS.elem (siteEa 1 1) 0).task ∧
    roomAt meshS 1 0 none .ctl 3 = true ∧ tabGet (meshS.elem (siteEa 0 1) 1).outc 1 [] = [] ∧
    tabGet (meshS.elem (siteEa 0 1) 0).outq 1 [] = [{ tok 9 0xFFFF with route := 5 }, tok 8 1] ∧ (meshS.elem (siteEa 0 1) 0).task = none ∧
    roomAt meshS 1 0 none .data 3 = true ∧ (meshS.elem (siteEa 1 1) 0).queue 11 = [] ∧ tabGet (meshS.elem (siteEa 1 1) 0).brk 3 Brk.zero = Brk.zero ∧
    (meshS.elem (siteEa 1 1) 0).field (64 + 16 * 3 + 4 * 3) % 2 = 0 ∧ tabRising none meshS.elems = true ∧ tabRising none meshS.sites = true ∧
    tabRising none meshS.parts = true ∧ (∀ c : BitVec 2, c ≠ 0 → tabGet (meshS.elem (siteEa 0 1) c).outq 1 [] = []) ∧
    ((meshS.elem (siteEa 1 1) 0).field 19).testBit 10 = true ∧ (5#10).toNat ≠ (meshS.elem (siteEa 1 1) 0).field 19 % 2 ^ 10 ∧
    ({ tok 9 0xFFFF with route := 5 } : Token).rsv = 0 ∧ dieLink 0 1 = none ∧ badLane { tok 9 0xFFFF with route := 5 } = none ∧
    tabGet (meshS.site 1).resLast (8 + 4 + 0) 0 = 0 ∧ siteNeighbour (siteAt 32 0) 0 = some (siteAt 31 0) ∧ dieLink (siteAt 31 0) (siteAt 32 0) = some 36 ∧
    (edgeTok.link 36).unacked ≠ [] ∧ tabGet (edgeTok.elem (siteEa (siteAt 31 0) 1) 0).outc 2 [] ≠ [] ∧ roomAt edgeTok (siteAt 32 0) 0 none .ctl 0 = true := by decide +kernel

end Sys2Proof.Tests

namespace Sys2Proof.Tests

/-- Work queue 5 at 7 of 12 records, halted or not, with a message due or not; sequencer 2 with events 3 to 9. -/
def regS (en halt : Bool) (msi : BitVec 16) : State :=
  ((State.reset.setQueue 5 { WorkQueue.reset with en := en, halt := halt, hcode := if halt then 3 else 0, acc := 7, tail := 12, ctail := 4, chead := 2, msi := msi }).modSq 2
    (fun q => { q with evHead := 3, evTail := 9 })).setPart 3 { (State.reset.part 3) with fqHead := 1 }

/-- Off and halted, on; a CHEAD write with entries left and a message allowed, and none. -/
theorem witness_RegisterWrites : tabRising none (regS true false 0x8005).queues = true ∧ ((regS true false 0x8005).queue 5).held = [] ∧
    ((3 : Word) ≠ ((regS true false 0x8005).queue 5).ctail ∧ ((regS true false 0x8005).queue 5).msi.getLsbD 15 = true) ∧
    ¬ ((4 : Word) ≠ ((regS true false 0x8005).queue 5).ctail) ∧ ((regS false true 0).queue 5).en = false ∧
    ((6 : Word).toNat < ((regS true false 0).queue 5).acc.toNat) ∧ ¬ ((7 : Word).toNat < ((regS true false 0).queue 5).acc.toNat) ∧
    ((regS true false 0).part 3).faults = [] ∧ tabRising none (regS true false 0).parts = true ∧ ((regS true false 0).sq 2).evHeld = [] ∧
    tabRising none (regS true false 0).sqs = true ∧ 256 < (((regS true false 0).sq 2).evTail - 10#9).toNat ∧
    ¬ (256 < (((regS true false 0).sq 2).evTail - 9#9).toNat) ∧ inTier 0 0x400000 (2 ^ 21) = true ∧ tabGet (regS true false 0).frames 2 0 = 0 ∧
    tabGet { regS true false 0 with frames := [(2, 4)] }.frames 2 0 ≠ 0 := by decide +kernel

end Sys2Proof.Tests

/-! ## Launches and tasks -/

namespace Sys2Proof.Tests

/-- Queue 4 of partition 0 is to accept the record at 0x40: NEXT, tag 9, a region of 1 × 1, W1 = 2 and one level with three tasks. -/
def recS (next : Nat) : State :=
  let s := mapped (fun q => q)
  let m := memSetNat s.dmem 0x200040 4 next
  let m := memSetNat m 0x200058 1 9
  let m := memSetNat m 0x200060 4 0x10001
  let m := memSetNat m 0x200088 8 (2 + 2 ^ 42)
  let m := memSetNat m 0x200090 8 2
  { s with dmem := m }.setQueue 4 { WorkQueue.reset with en := true, acc := 6, tail := 8, pos := 0x40 }

/-- An accepted record, the last of its chain or not; a queue that is off, a halted one, an empty one. -/
theorem witness_LaunchesAndAdmission_records : (let w := (recS 0).queue 4
      w.en = true ∧ w.halt = false ∧ w.held = [] ∧ w.acc.toNat < w.tail.toNat ∧ (recS 0).plat.state = 2 ∧ w.fault = none ∧ w.part.toNat = 0 ∧ w.pos.toNat = 0x40) ∧
    (∃ u r, readRecord (recS 0) 0 0x40 = (u, .done r) ∧ recordReason { u with ordinal := u.ordinal + 1 } 0 4 7 r = none ∧
      u.plat.lspair.getLsbD 0 = false ∧ u.queues = (recS 0).queues) ∧
    tabRising none (recS 0).queues = true ∧ ((recS 0).queue 9).en = false ∧
    (∃ u x a, readRecord { recS 0 with frames := [] } 0 0x40 = (u, .bad x a)) :=
  ⟨by decide +kernel, ⟨(readRecord (recS 0) 0 0x40).1, (match (readRecord (recS 0) 0 0x40).2 with | .done r => r | _ => { body := [], decls := [], deps := [] }),
      rfl, by decide +kernel⟩, by decide +kernel, by decide +kernel,
    ⟨_, _, _, rfl⟩⟩

/-- A launch of one task with dependences, its task, and the TD at it. -/
def tdS (l : Launch) (t : Task) : State :=
  { State.reset with launches := [{ l with total := 1, exts := [1, 1, 1, 1, 1, 1] }], tasks := [t], focus := .task t.uid, time := 7000 }

theorem tdS_on (l : Launch) (t : Task) (h : l.ord = t.uid / 2 ^ 32) (hj : l.joined = false) :
    Claims.OnTask (tdS l t) t { l with total := 1, exts := [1, 1, 1, 1, 1, 1] } :=
  { focus := rfl, task := by simp [tdS, State.task?], launch := by simp [tdS, State.launch?, h], single := hj, unpair := (by show State.reset.plat.lspair.getLsbD 0 = false; decide +kernel) }

/-- On an earlier launch of queue 3, and on a phase of object 2. -/
def depL : Launch := { aLaunch with deps := [{ queue := 3, kind := 1, arg := 4, phase := 0 }, { queue := 0, kind := 3, arg := 2, phase := 6 }] }

/-- Queue 3 has accepted four records, object 2 has reached phase 7. -/
def depS (acc phase : Word) : State :=
  ((tdS depL (aTask .waiting)).setQueue 3 { WorkQueue.reset with acc := acc }).setBarrier 2 { Barrier.reset with phase := phase }

/-- Both dependences met; neither; a task that does not wait. -/
theorem witness_LaunchesAndAdmission_dependences :
    Claims.OnTask (depS 4 7) (aTask .waiting) { depL with total := 1, exts := [1, 1, 1, 1, 1, 1] } ∧ (∀ d ∈ depL.deps, d.kind = 1 ∨ d.kind = 3) ∧ depL.replays = none ∧
    (4#32).toNat ≤ ((depS 4 7).queue 3).acc.toNat ∧ (∀ k ∈ (depS 4 7).launches, ¬ (k.queue.toNat = 3)) ∧
    1 ≤ (((depS 4 7).barrier 2).phase - 6).toNat ∧ (((depS 4 7).barrier 2).phase - 6).toNat < 2 ^ 31 ∧
    ¬ (4#32).toNat ≤ ((depS 3 6).queue 3).acc.toNat ∧ ¬ 1 ≤ (((depS 3 6).barrier 2).phase - 6).toNat ∧ (aTask .running).phase ≠ .waiting :=
  ⟨{ focus := rfl, task := by decide +kernel, launch := by decide +kernel, single := rfl, unpair := rfl }, by decide +kernel⟩

/-- A ready task whose graph object is 64 KiB of zeros. -/
def poolS : State :=
  { mapped (fun q => q) with launches := [{ aLaunch with graph := 0x10000, total := 1, exts := [1, 1, 1, 1, 1, 1] }], tasks := [aTask .ready], time := 9 }

/-- The outcome of a rejection, as numbers. -/
def rejection : TryOut → Option (Nat × Nat × Nat × Nat × Nat)
  | .reject c r un sub a => some (c, r, un, sub, a)
  | _ => none

theorem rejection_sound {o : TryOut} {c r un sub a : Nat} (h : rejection o = some (c, r, un, sub, a)) : o = .reject c r un sub a := by
  cases o <;> simp_all [rejection]

/-- No task waits; one whose graph is malformed stands first; the unit has admitted in this fc. -/
theorem witness_LaunchesAndAdmission_pool : ((recS 0).plat.state = 2 ∧ ∀ c ∈ admissionPool (recS 0) 0, Claims.waits (recS 0) c) ∧
    (poolS.plat.state = 2 ∧ tabGet poolS.admits (admissionDie poolS 0) 0 ≠ poolS.time + 1 ∧
      ∃ c r un sub a, Claims.firstOutcome poolS (admissionPool poolS 0) [] (aTask .ready) (.reject c r un sub a)) ∧
    ¬ tabGet { poolS with admits := [(0, 10)] }.admits (admissionDie poolS 0) 0 ≠ poolS.time + 1 :=
  ⟨⟨by decide +kernel, by intro c h; have : admissionPool (recS 0) 0 = [] := rfl; rw [this] at h; cases h⟩,
    ⟨by decide +kernel, by decide +kernel, 2, 9, 0, 0, 0, ⟨[], by decide +kernel⟩, (fun _ h => (List.not_mem_nil h).elim), rejection_sound (by decide +kernel)⟩, by decide +kernel⟩

/-- A loaded task in contexts 1 and 2 of CT 0 and of its router, of which only some or all have swapped. -/
def loadedT : Task := { aTask .loaded with uses := [elemKey (siteEa 0 0) 2, elemKey (siteEa 0 1) 1, elemKey (siteEa 1 0) 3] }

def loadedS (all : Bool) : State :=
  let s := tdS aLaunch loadedT
  let own := fun (s : State) (k : Nat) => s.modElem (keyEa k) (keyCtx k) (fun e => { e with task := some loadedT.uid, released := false })
  if all then loadedT.uses.foldl own s else own s (elemKey (siteEa 0 0) 2)

theorem witness_LaunchesAndAdmission_release :
    Claims.OnTask (loadedS true) loadedT { aLaunch with total := 1, exts := [1, 1, 1, 1, 1, 1] } ∧ loadedT.pred = none ∧
    (∀ k ∈ loadedT.uses, ((loadedS true).elem (keyEa k) (keyCtx k)).task = some loadedT.uid) ∧
    (∃ k ∈ loadedT.uses, ((loadedS false).elem (keyEa k) (keyCtx k)).task ≠ some loadedT.uid) ∧
    tabRising none (loadedS true).elems = true ∧ tabRising none (loadedS true).sites = true :=
  ⟨{ focus := rfl, task := by decide +kernel, launch := by decide +kernel, single := rfl, unpair := rfl }, rfl, by decide +kernel,
    ⟨elemKey (siteEa 1 0) 3, by decide +kernel⟩, by decide +kernel⟩

end Sys2Proof.Tests

namespace Sys2Proof.Tests

/-- The launch that `tdS` holds for aLaunch. -/
def oneL : Launch := { aLaunch with total := 1, exts := [1, 1, 1, 1, 1, 1], wdog := 3 }

/-- The TD at a task of it that is all there is; the completion ring of its queue is full. -/
def soleS (t : Task) : State := (tdS oneL t).setQueue 0 { WorkQueue.reset with en := true, ctail := 16 }

theorem soleS_on (p : TaskPhase) (f : Task → Task) (h : (f (aTask p)).uid = 2 * 2 ^ 32 + 5) : Claims.OnTask (soleS (f (aTask p))) (f (aTask p)) oneL :=
  { focus := rfl, task := by simp [soleS, tdS, State.task?, State.setQueue], single := rfl
    launch := by rw [h]; rfl
    unpair := by show State.reset.plat.lspair.getLsbD 0 = false; decide +kernel }

theorem soleS_sole (t : Task) (h : t.pred ≠ some t.uid) : Claims.Sole (soleS t) t oneL := { tasks := rfl, alone := h, launches := rfl, one := by decide +kernel }

/-- A task that has finished with one store, counted repairs and preemptions. -/
def doneT : Task := { aTask .finished with cb := [.store 4 0x1FC0 0xF00000000000000F (BitVec.ofNat 512 payA)], repaired := 2, preempts := 1, aborts := 300, wstores := 9 }

theorem witness_FinishRepairCommit_commit : Claims.OnTask (soleS doneT) doneT oneL ∧ Claims.Sole (soleS doneT) doneT oneL ∧ doneT.fault = none ∧
    doneT.phase = .finished ∧ doneT.uses = [] ∧ doneT.cb = [.store 4 0x1FC0 0xF00000000000000F (BitVec.ofNat 512 payA)] ∧ (soleS doneT).channels = [] ∧ (axOf (soleS doneT) 4).errs = [] ∧
    memWf (soleS doneT).dmem = true ∧ tabRising none (soleS doneT).queues = true ∧ Claims.ringFull (soleS doneT) oneL.queue :=
  ⟨soleS_on .finished (fun t => { t with cb := [.store 4 0x1FC0 0xF00000000000000F (BitVec.ofNat 512 payA)], repaired := 2, preempts := 1, aborts := 300, wstores := 9 }) rfl,
    soleS_sole doneT nofun, rfl, rfl, rfl, rfl, rfl, rfl, by decide +kernel, by decide +kernel, by unfold Claims.ringFull; decide +kernel⟩

/-- A task in context 0 of CT 0, whose stage 0 has passed its LEVEL 7 marker or not. -/
def runT : Task := { aTask .running with uses := [elemKey (siteEa 0 0) 0], lastFire := 5, excused := 2 }

def runS (t : Task) (ended : Bool) (mode : LoopState) : State :=
  (soleS t).modElem (siteEa 0 0) 0 (fun e =>
    { (e.setOp 0 { OpSt.zero with ended := ended, mode := mode }) with bank := placeBank 0 (128 * 2 ^ 55) [(12, 1)], task := some t.uid, finished := ended })

theorem runS_on (t : Task) (h : t.uid = 2 * 2 ^ 32 + 5) (e : Bool) (m : LoopState) : Claims.OnTask (runS t e m) t oneL :=
  { focus := rfl, task := by simp [runS, soleS, tdS, State.task?, State.setQueue, State.modElem, State.setElem], single := rfl, launch := by rw [h]; rfl
    unpair := by show State.reset.plat.lspair.getLsbD 0 = false; decide +kernel }

theorem runS_sole (t : Task) (h : t.pred ≠ some t.uid) (e : Bool) (m : LoopState) : Claims.Sole (runS t e m) t oneL := { tasks := rfl, alone := h, launches := rfl, one := by decide +kernel }

/-- Stalled and not; markers at every sink and not; poisoned; with records to repair. -/
theorem witness_FinishRepairCommit_tasks : runT.phase = .running ∧ runT.irrev = false ∧ runT.cb = [] ∧ runT.fault = none ∧
    stalledOnShare (runS runT false .hold) runT = true ∧ stalledOnShare (runS runT false .idle) runT = false ∧ allReceived (runS runT true .idle) runT = true ∧
    allReceived (runS runT false .idle) runT = false ∧ runT.poisoned = false ∧ runT.repair = [] ∧
    (let t := { runT with repair := [{ ord := 3, src := 1 }] }
     t.repair ≠ [] ∧ t.pred ≠ some t.uid ∧ (∀ k ∈ t.uses, ((runS t true .idle).elem (keyEa k) (keyCtx k)).task = some t.uid) ∧
     allReceived (runS t true .idle) t = true ∧ tabRising none (runS t true .idle).elems = true) ∧
    (let t := { runT with poisoned := true, irrev := true }
     t.poisoned = true ∧ allReceived (runS t true .idle) t = true) := by decide +kernel

/-- Operator states stand in order in every context. -/
theorem runS_ops (t : Task) (ea : EAddr) (c : BitVec 2) : tabRising none ((runS t true .idle).elem ea c).ops = true := by
  have h : (runS t true .idle).elem ea c =
      tabGet (tabSet [] (elemKey (siteEa 0 0) 0) ((runS t true .idle).elem (siteEa 0 0) 0) ElemCtx.reset) (elemKey ea c) ElemCtx.reset := rfl
  rw [h]
  by_cases k : elemKey ea c = elemKey (siteEa 0 0) 0
  · rw [k, tabGet_tabSet_same rfl]; rfl
  · rw [tabGet_tabSet_other rfl k]; rfl

/-- Before and after the interval of 3 ms. -/
theorem witness_FinishRepairCommit_watchdog : heldAtHold (runS runT false .idle) runT = false ∧ heldAtFault (runS runT false .idle) runT = false ∧ tabRising none (runS runT false .idle).parts = true ∧
    (runS runT false .idle).time < runT.lastFire + runT.excused + oneL.wdog * 1000000 ∧
    runT.lastFire + runT.excused + oneL.wdog * 1000000 ≤ ({ runS runT false .idle with time := 3000007 } : State).time := by decide +kernel

end Sys2Proof.Tests

/-! ## Fault records, lockstep pairs and cuts -/

namespace Sys2Proof.Tests

/-- Two records of 64 bytes wait in partition 3 for block 2; its fault-record ring ends at n, the event queue at ev. -/
def frS (n : BitVec 11) (ev : BitVec 9) : State :=
  let r : FaultRec := { bytes := (List.range 64).map (fun i => BitVec.ofNat 8 (7 * i + 3)), blk := 2, task := none, stop := false }
  (State.reset.setPart 3 { Part.reset with frBase := 0x50000, frTail := n, frHeld := [r, r] }).setSq 2 { Sq.reset with evTail := ev }

/-- The event queue of block 5, for which the first record is meant, is full; that of block 2 has room. -/
def frPassed : State :=
  let r : FaultRec := { bytes := List.replicate 64 3, blk := 5, task := none, stop := false }
  ((frS 0 5).setPart 3 { Part.reset with frBase := 0x50000, frHeld := [r, { r with blk := 2 }] }).setSq 5 { Sq.reset with evTail := 256 }

/-- A line of a sequencer of a lockstep pair has waited since 7. -/
def lineS (time : Nat) : State :=
  { State.reset with time := time, plat := { State.reset.plat with lspair := 1, lsWrites := [{ idx := 0, unit := 0, part := 0, line := 64, mask := 1, data := [], since := 7 }] } }

theorem witness_RecordsAndLockstep_records : (let s := frS 1025 5
      let p := s.part 3
      p.frHeld.length = 2 ∧ (∀ r ∈ p.frHeld, r.bytes.length = 64) ∧ p.frTail - p.frHead ≠ 1024#11 ∧ (s.sq 2).evTail - (s.sq 2).evHead ≠ 256#9 ∧
      (s.sq 2).run = false ∧ memWf s.dmem = true) ∧
    (let p := (frS 1024 0).part 3; p.frTail - p.frHead = 1024#11) ∧
    (let s := frS 0 256; (s.sq 2).evTail - (s.sq 2).evHead = 256#9) ∧ (frS 0 0).part 4 = Part.reset ∧ (Part.reset).frHeld = [] := by decide +kernel

/-- A pair whose first side has waited since 500, its queue's ring full; LSPAIR names partitions 0 and 1. -/
def pairL (ord part : Nat) : Launch := { aLaunch with ord := ord, part := part, exts := [1, 1, 1, 1, 1, 1], total := 1 }
def pairT : Task := { aTask .finished with irrev := true }
def pairS (time count : Nat) : State :=
  let s := { State.reset with time := time, launches := [pairL 2 0, pairL (2 + 2 ^ 40) 1], tasks := [pairT, { pairT with uid := pairT.uid + 2 ^ 72 }] }
  ({ s with plat := { s.plat with lspair := BitVec.ofNat 64 (1 + 2 * 0 + 512 + 2 ^ 32 * count), lsWait := some (0, pairT.uid, 500) } }).setQueue 0
    { WorkQueue.reset with en := true, ctail := 16 }

theorem witness_RecordsAndLockstep_waits : (let p := frPassed.part 3
      let e := fun (r : FaultRec) => (frPassed.sq (BitVec.ofNat 6 r.blk)).evTail - (frPassed.sq (BitVec.ofNat 6 r.blk)).evHead
      ∃ x r, p.frHeld = [x] ++ r :: [] ∧ e x = 256#9 ∧ e r ≠ 256#9 ∧ r.bytes.length = 64 ∧ p.frTail - p.frHead ≠ 1024#11 ∧ (frPassed.sq 2).run = false) ∧
    (∃ x ∈ (lineS 1000008).plat.lsWrites, x.since + 1000000 < (lineS 1000008).time) ∧
    (∀ x ∈ (lineS 1000007).plat.lsWrites, ¬ x.since + 1000000 < (lineS 1000007).time) ∧ (lineS 0).plat.lsWait = none ∧
    (pairS 1000501 9).plat.lsWrites = [] ∧ pairT.pred ≠ some pairT.uid ∧ pairT.pred ≠ some (pairT.uid + 2 ^ 72) :=
  ⟨⟨_, _, rfl, by decide +kernel⟩, ⟨_, List.mem_singleton.mpr rfl, by decide +kernel⟩, by decide +kernel⟩

theorem witness_RecordsAndLockstep_pair : (let s := pairS 1000501 9
      let t := pairT
      let l := pairL 2 0
      let m := pairL (2 + 2 ^ 40) 1
      s.plat.lsWait = some (0, t.uid, 500) ∧ 500 + 1000000 < s.time ∧ s.tasks = [t, { t with uid := t.uid + 2 ^ 72 }] ∧ s.launches = [l, m] ∧
      l.ord = t.uid / 2 ^ 32 ∧ l.ord < 2 ^ 40 ∧ m.ord = l.ord + 2 ^ 40 ∧ l.total = 1 ∧ m.total = 1 ∧ l.ended = 0 ∧ m.ended = 0 ∧ l.joined = false ∧
      m.joined = false ∧ t.uses = [] ∧ s.barriers = [] ∧ s.plat.lspair.getLsbD 0 = true ∧ l.part = s.plat.lspair.toNat / 2 % 256 ∧
      m.part = s.plat.lspair.toNat / 512 % 256 ∧ m.queue = l.queue ∧ tabRising none s.queues = true ∧
      2 ^ ((s.queue l.queue).ringsz.toNat + 4) ≤ ((s.queue l.queue).ctail - (s.queue l.queue).chead).toNat) ∧
    (pairS 1000500 9).time ≤ 500 + 1000000 ∧ State.reset.plat.lsWait = none := by decide +kernel

end Sys2Proof.Tests

namespace Sys2Proof.Tests

/-- The TD at a task alone on the machine, slots below `n` taken by others. -/
def cutS (t : Task) (n : Nat) : State :=
  let s := soleS t
  { s with tasks := t :: (List.range n).map (fun k => { aTask .running with uid := 9 * 2 ^ 32 + k, slot := some k }) }

theorem cutS_on (t : Task) (n : Nat) (h : t.uid = 2 * 2 ^ 32 + 5) : Claims.OnTask (cutS t n) t oneL :=
  { focus := rfl, task := by simp [cutS, soleS, tdS, State.task?, State.setQueue], single := rfl, launch := by rw [h]; rfl
    unpair := by show State.reset.plat.lspair.getLsbD 0 = false; decide +kernel }

theorem cutS_quiet (t : Task) (n : Nat) : Claims.Quiet (cutS t n) :=
  { requests := rfl, unpair := by show State.reset.plat.lspair.getLsbD 0 = false; decide +kernel, barriers := rfl }

/-- With a slot; irrevocable, slot 2 the lowest free one, or none free; not running; a cut that waits for a slot. -/
theorem witness_CuttingRegions_begin : (let t := { aTask .running with slot := some 7 }
      (t.phase = .running ∨ t.phase = .repairing) ∧ t.fault = none ∧ t.irrev = false ∧ t.slot = some 7) ∧
    (let t := { aTask .running with irrev := true, cutReq := some 4 }
     t.irrev = true ∧ t.fault = none ∧ t.cutReq = some 4 ∧ (∀ k ∈ (cutS t 2).tasks, ¬ (k.phase ≠ .ended ∧ k.slot = some 2)) ∧
     ∀ m < 2, ∃ k ∈ (cutS t 2).tasks, k.phase ≠ .ended ∧ k.slot = some m) ∧
    (∀ m < 512, ∃ k ∈ (cutS (aTask .running) 512).tasks, k.phase ≠ .ended ∧ k.slot = some m) ∧
    ¬ ((aTask .loaded).phase = .running ∨ (aTask .loaded).phase = .repairing) := by
  refine ⟨by decide +kernel, ⟨rfl, rfl, rfl, by decide +kernel⟩, ?_, by decide +kernel⟩
  intro m h
  exact ⟨{ aTask .running with uid := 9 * 2 ^ 32 + m, slot := some m }, by simp only [cutS, List.mem_cons, List.mem_map]; exact .inr ⟨m, by simpa using h, rfl⟩, (fun h => nomatch h), rfl⟩

/-- A fault of partition 0 since 1000 that holds an operator of the task's context. -/
def heldS (time : Nat) : State :=
  let f : PageFault := { fseq := 8, va := 0x5000, ea := siteEa 4 0, src := 0, ctx := 0, intent := 0, launch := 2, tindex := 5, posted := true, status := 0, time := 1000, slot := 3 }
  let s := cutS { aTask .running with uses := [elemKey (siteEa 4 0) 0], slot := some 7 } 0
  { (s.modPart 0 (fun p => { p with faults := [f], fqBase := 0x60000 })).modElem (siteEa 4 0) 0 (fun e =>
      { e with task := some (aTask .running).uid, ops := [(32, { OpSt.zero with fault := some (8, 0x5000) })] }) with time := time }

theorem witness_CuttingRegions_limit : (let t := { aTask .running with uses := [elemKey (siteEa 4 0) 0], slot := some 7 }
      (∃ f, pendingFaults (heldS 1001) t = [f] ∧ f.time + 1000 * oneL.pflim < (heldS 1001).time) ∧
      ∃ f, pendingFaults (heldS 1000) t = [f] ∧ (heldS 1000).time ≤ f.time + 1000 * oneL.pflim) :=
  ⟨⟨_, rfl, by decide +kernel⟩, ⟨_, rfl, by decide +kernel⟩⟩

/-- A task under a cut in context 0 of CT 0 and context 2 of AGN tile 4, captured or not, its sink's marker received or not. -/
def cuttingT : Task := { aTask .cutting with uses := [elemKey (siteEa 0 0) 0, elemKey (siteEa 0 1) 2], cutNo := 5, cutWhy := 1, slot := some 7 }

def cuttingS (captured ended : Bool) : State :=
  let s := cutS cuttingT 0
  let s := s.modElem (siteEa 0 0) 0 (fun e =>
    { (e.setOp 0 { OpSt.zero with ended := ended }) with
      bank := placeBank 0 (128 * 2 ^ 55) [(12, 1)], task := some cuttingT.uid, finished := ended, captured := captured, inq := [(1, [placeToken])] })
  s.modElem (siteEa 0 1) 2 (fun e => { e with task := some cuttingT.uid, ii := [(3, 4)] })

theorem witness_CuttingRegions_complete : allReceived (cuttingS false true) cuttingT = true ∧ allReceived (cuttingS false false) cuttingT = false ∧
    cutDone (cuttingS false false) cuttingT = false ∧ allReceived (cuttingS true false) cuttingT = false ∧ cutDone (cuttingS true false) cuttingT = true ∧
    tabRising none (cuttingS true false).elems = true ∧ cuttingT.binds = [] ∧ cuttingT.uses.Nodup ∧
    ∀ k ∈ cuttingT.uses, k < 2 ^ 18 ∧ ((cuttingS true false).elem (keyEa k) (keyCtx k)).task = some cuttingT.uid ∧
      ((cuttingS true false).elem (keyEa k) (keyCtx k)).armed = false := by decide +kernel

/-- Queues of the contexts that drop their cut markers stand in order. -/
theorem witness_CuttingRegions_dropped : tabRising none (cuttingS false true).elems = true ∧ ∀ k ∈ cuttingT.uses,
    ((cuttingS false true).elem (keyEa k) (keyCtx k)).task = some cuttingT.uid ∧ tabRising none ((cuttingS false true).elem (keyEa k) (keyCtx k)).inq = true ∧
      tabRising none ((cuttingS false true).elem (keyEa k) (keyCtx k)).inc = true := by decide +kernel

end Sys2Proof.Tests

/-! ## Restores, frozen regions, answers to faults, unloads -/

namespace Sys2Proof.Tests

/-- A suspended task that held contexts 0 of CT 0 and 2 of its router, in the spill. -/
def savedCtx (v : Nat) : ElemCtx :=
  { ElemCtx.reset with bank := placeBank 0 (128 * 2 ^ 55) [(12, v)], k := [(2, { placeToken with pay := BitVec.ofNat 512 v })], inq := [(1, [placeToken])], ii := [(3, 4)] }

def savedAs (key v : Nat) : Saved := { key := key, ctx := savedCtx v, area := false, size := (ctxRecords key (savedCtx v) 5).length, go := [] }

def savedT : Task :=
  { aTask .suspended with
    slot := some 7, uses := [elemKey (siteEa 0 0) 0, elemKey (siteEa 0 1) 2], cutNo := 5
    saved := [savedAs (elemKey (siteEa 0 0) 0) 1, savedAs (elemKey (siteEa 0 1) 2) 0]
    spill := [(elemKey (siteEa 0 0) 0, 1), (elemKey (siteEa 0 1) 2, 0)].flatMap (fun p => ctxRecords p.1 (savedCtx p.2) 5) }

def savedS (t : Task) (taken : Bool) : State :=
  if taken then (soleS t).modElem (siteEa 0 1) 2 (fun e => { e with task := some 77 }) else soleS t

theorem savedS_on (t : Task) (h : t.uid = 2 * 2 ^ 32 + 5) (b : Bool) : Claims.OnTask (savedS t b) t oneL := by
  cases b <;> exact { focus := rfl, task := by simp [savedS, soleS, tdS, State.task?, State.setQueue, State.modElem, State.setElem], single := rfl
                      launch := by rw [h]; rfl, unpair := by show State.reset.plat.lspair.getLsbD 0 = false; decide +kernel }

theorem savedS_quiet (t : Task) (h : t.pred ≠ some t.uid) (b : Bool) : Claims.Quiet (savedS t b) ∧ Claims.Sole (savedS t b) t oneL := by
  cases b <;> exact ⟨{ requests := rfl, unpair := by show State.reset.plat.lspair.getLsbD 0 = false; decide +kernel, barriers := rfl },
    { tasks := rfl, alone := h, launches := rfl, one := by decide +kernel }⟩

theorem witness_RestoreAndUnload_restore : savedT.phase = .suspended ∧ savedT.pxFault = none ∧ savedT.pred ≠ some savedT.uid ∧
    (∃ v ∈ savedT.saved, ((savedS savedT true).elem (keyEa v.key) (keyCtx v.key)).task ≠ none) ∧
    (∀ v ∈ savedT.saved, ((savedS savedT false).elem (keyEa v.key) (keyCtx v.key)).task = none ∧ v.area = false ∧ v.key < 2 ^ 18) ∧
    (savedT.saved.map (·.key)).Nodup ∧ tabRising none (savedS savedT false).elems = true ∧
    (let s := (savedS { savedT with pxFault := some 8 } false).modPart 0 (fun p => { p with faults := [{ fseq := 8, va := 0x5000, ea := siteEa 4 0, src := 0, ctx := 0, intent := 0, launch := 2, tindex := 5, posted := true, status := 0, time := 1000, slot := 3 }] })
     faultStatus s oneL.part 8 = 0) := by decide +kernel

/-- The same with an object bound, and with a record that has lost its first byte. -/
def boundT : Task := { savedT with binds := [3], exps := [9] }
def spoiltT : Task := { savedT with spill := savedT.spill.set 0 0xFF }

set_option maxRecDepth 100000 in
theorem witness_RestoreAndUnload_records :
    let keys := savedT.saved.map (·.key)
    (readContexts savedT.cutNo keys savedT.spill).isSome = true ∧ savedT.binds.Nodup ∧ boundT.binds.Nodup ∧
    (readContexts boundT.cutNo (boundT.saved.map (·.key)) boundT.spill).isSome = true ∧ readContexts spoiltT.cutNo keys spoiltT.spill = none ∧
    (∀ k ∈ spoiltT.uses, ((savedS spoiltT false).elem (keyEa k) (keyCtx k)).task ≠ some spoiltT.uid) ∧
    tabRising none (savedS spoiltT false).queues = true ∧
    2 ^ (((savedS spoiltT false).queue oneL.queue).ringsz.toNat + 4) ≤ (((savedS spoiltT false).queue oneL.queue).ctail - ((savedS spoiltT false).queue oneL.queue).chead).toNat := by
  decide +kernel

/-- A task that froze in its last firing's fc 6744 with class 9, reason 6. -/
def frozenT (phase : TaskPhase) (last : Nat) : Task :=
  { aTask phase with lastFire := last, fault := some { cls := 9, reason := 6, unit := siteEa 4 0, detail := 3, addr := 0x77 } }

theorem witness_RestoreAndUnload_frozen : (frozenT .freezing 6744).uses = [] ∧ tabRising none (soleS (frozenT .freezing 6744)).queues = true ∧
    Claims.ringFull (soleS (frozenT .freezing 6744)) oneL.queue ∧ (frozenT .freezing 6744).lastFire + 256 ≤ (soleS (frozenT .freezing 6744)).time ∧
    (soleS (frozenT .freezing 6745)).time < (frozenT .freezing 6745).lastFire + 256 ∧ (frozenT .running 0).phase ≠ .freezing :=
  ⟨rfl, by decide +kernel, by unfold Claims.ringFull; decide +kernel, by decide +kernel⟩

/-- Fault 8 of partition 0, posted in slot 3, and no task. -/
def answerS : State := { heldS 2000 with tasks := [] }

/-- The same with a page table whose leaf for the page stands, or with an owned frame. -/
def answerMapped : State :=
  let s := { mapped (fun q => q) with time := 2000 }
  s.modPart 0 (fun p => { p with faults := (answerS.part 0).faults, fqBase := 0x60000 })
def answerFree : State := { answerS with frames := [(8, 1)] }

theorem witness_RestoreAndUnload_answer : (∃ f, (answerS.part 0).faults = [f] ∧ f.fseq = (8#32).toNat ∧ f.posted = true ∧
      sealedAt answerS ((answerS.part 0).fqBase.toNat + 32 * f.slot + 28) 2 = false ∧ needsFrame answerS 0 f = true ∧ victim answerS 0 f = none) ∧
    (∃ f, (answerMapped.part 0).faults = [f] ∧ needsFrame answerMapped 0 f = false) ∧ (∃ f, (answerFree.part 0).faults = [f] ∧ needsFrame answerFree 0 f = false) ∧
    answerS.tasks = [] ∧ answerMapped.tasks = [] ∧ memWf answerS.dmem = true ∧ (∀ f ∈ (answerS.part 0).faults, ¬ (f.fseq = (9#32).toNat ∧ f.posted = true)) :=
  ⟨⟨_, rfl, by decide +kernel⟩, ⟨_, rfl, by decide +kernel⟩, ⟨_, rfl, by decide +kernel⟩, by decide +kernel⟩

/-- An authorisation to unload block 2 or another, with state in blocks 0 and 2. -/
def unloadS (b : BitVec 6) : State :=
  let s := (State.reset.modSq 2 (fun q => { q with run := true, part := 3 })).modSq 0 (fun q => { q with run := true, part := 3 })
  let s := (s.setEngine 2 4 { EngQueue.reset with en := true }).setEngine 0 4 { EngQueue.reset with en := true }
  let e : ElemCtx := { ElemCtx.reset with bank := [(2, 9)] }
  let at2 := (blockMt 2 0).toNat
  let at0 := (blockMt 0 0).toNat
  let s := (s.setElem (siteEa (blockMt 2 0) 0) 1 e).setElem (siteEa (blockMt 0 0) 0) 1 e
  { s with lram := memSetNat (memSetNat [] 5 1 7) 8197 1 7, spad := memSetNat (memSetNat [] (at0 * 2 ^ 21) 1 9) (at2 * 2 ^ 21) 1 9, time := 88, plat := { s.plat with debugOk := some b } }

theorem witness_RestoreAndUnload_unload : (unloadS 2).plat.debugOk = some 2 ∧ (unloadS 1).plat.debugOk ≠ some 2 ∧
    (∀ t ∈ (unloadS 2).tasks, ∀ k ∈ t.uses, siteBlock (eaSite (keyEa k)) ≠ (2#6).toNat) ∧ tabRising none (unloadS 2).sqs = true ∧
    tabRising none (unloadS 2).elems = true ∧ tabRising none (unloadS 2).sites = true ∧ tabRising none (unloadS 2).engines = true ∧
    tabRising none (unloadS 2).spad = true ∧ tabRising none (unloadS 2).lram = true := by decide +kernel

end Sys2Proof.Tests

/-! ## Engines -/

namespace Sys2Proof.Tests

/-- A command's header and operands put into memory. -/
def putCommand (m : Memory) (a h : Nat) (o : List Nat) : Memory :=
  (o.zipIdx.foldl (fun m p => memSetNat m (a + 8 + 8 * p.2) 8 p.1) (memSetNat m a 8 h))

/-- Queue 0 of block 0 is bound to an engine and has one command in slot 0 of its ring, at 0x208000; bytes 1 to 4 stand from 0x201000 on. -/
def engS (eng : BitVec 2) (h : Nat) (o : List Nat) : State :=
  let s := mapped (fun q => { q with run := false })
  let m := memSetBytes s.dmem 0x201000 ([1, 2, 3, 4])
  { (s.setEngine 0 0 { EngQueue.reset with en := true, eng := eng, rbase := 0x8000, cwaddr := 0xA000, appn := 1, items := [.cmd] }) with
    dmem := putCommand m 0x208000 h o, focus := .engine 0 0 }

/-- The command that was read, if it could be. -/
def okCmd (r : State × Except EngStop (BitVec 512)) : Option (BitVec 512) := match r.2 with | .ok c => some c | .error _ => none

theorem okCmd_sound (r : State × Except EngStop (BitVec 512)) (c : BitVec 512) (h : okCmd r = some c) : r = (r.1, .ok c) := by
  obtain ⟨t, x⟩ := r
  cases x with
  | error _ => cases h
  | ok y => cases h; rfl

/-- A translation ended in one piece of device memory. -/
def okDev (r : State × Except EngStop (List EngPiece)) (pa n : Nat) : Bool := match r.2 with | .ok [.dev a k] => a == pa && k == n | _ => false

theorem okDev_sound (r : State × Except EngStop (List EngPiece)) (pa n : Nat) (h : okDev r pa n = true) : r = (r.1, .ok [.dev pa n]) := by
  obtain ⟨t, x⟩ := r
  match x with
  | .error _ => cases h
  | .ok [] => cases h
  | .ok (.spad ..  :: _) => cases h
  | .ok (.peer _  :: _) => cases h
  | .ok (.dev _ _ :: _ :: _) => cases h
  | .ok [.dev a k] =>
    simp only [okDev, Bool.and_eq_true, beq_iff_eq] at h
    rw [h.1, h.2]

/-- The machine after reading the command. -/
def engU (s : State) : State := (engCommand s 0 0 (partOfBlock s (0#6).toNat)).1

/-- After translating a range of it. -/
def engR (s : State) (a n : Nat) (i : Intent) : State := (engRange s 0 a n i).1

/-- The command itself. -/
def engCmd (s : State) : BitVec 512 := (okCmd (engCommand s 0 0 (partOfBlock s (0#6).toNat))).getD 0

theorem commandsOf (s : State) (op : Instr) (o : List Nat)
    (h : okCmd (engCommand s 0 0 (partOfBlock s (0#6).toNat)) = some (engCmd s) ∧ s.focus = .engine 0 0 ∧ engReady s 0 0 = true ∧ (s.engine 0 0).fault = none ∧
      decodeEngine ((engU s).engine 0 0).eng (engCmd s) = some op ∧ ∀ j < 7, (commandDword (engCmd s) (j + 1)).toNat = o.getD j 0) :
    Claims.Commands s (engU s) 0 0 op o :=
  { focus := h.2.1, ready := h.2.2.1, free := h.2.2.2.1, command := ⟨engCmd s, by rw [engU]; exact okCmd_sound _ _ h.1, h.2.2.2.2.1, h.2.2.2.2.2⟩ }

/-- Copy of 100 bytes from 0x1000 to 0x1800, and one with a fourth operand. -/
theorem witness_CopyAndCryptoEngines_copy : (let s := engS 0 1 [0x1000, 0x1800, 100]
      let v := engR (engU s) 0x1000 100 readIntent
      let w := engR v 0x1800 100 writeIntent
      Claims.Commands s (engU s) 0 0 .copy [0x1000, 0x1800, 100] ∧ partOfBlock s 0 = 0 ∧ Claims.at_ (engU s) v 0 0x1000 100 readIntent 0x201000 ∧
      Claims.at_ v w 0 0x1800 100 writeIntent 0x201800 ∧ Claims.Unobserved w ∧ memWf w.dmem = true) ∧
    (let s := engS 0 1 [0x1000, 0x1800, 100, 7]
     Claims.Commands s (engU s) 0 0 .copy [0x1000, 0x1800, 100, 7]) :=
  ⟨⟨commandsOf _ _ _ (by decide +kernel), by decide +kernel, okDev_sound _ _ _ (by decide +kernel), okDev_sound _ _ _ (by decide +kernel),
    by unfold Claims.Unobserved; decide +kernel, by decide +kernel⟩, commandsOf _ _ _ (by decide +kernel)⟩

/-- Of 300 bytes the first line has been moved and two more are to be; a line of the source cannot be read. -/
def partS' (bad : List Nat) : State :=
  let s := engS 0 1 [0x1010, 0x1808, 300]
  { (s.setEngine 0 0 { s.engine 0 0 with moved := 1, limit := some 2 }) with bad := bad }

theorem witness_CopyAndCryptoEngines_parts : (let s := partS' []
      let v := engR (engU s) 0x1010 300 readIntent
      let w := engR v 0x1808 300 writeIntent
      Claims.Commands s (engU s) 0 0 .copy [0x1010, 0x1808, 300] ∧ Claims.at_ (engU s) v 0 0x1010 300 readIntent 0x201010 ∧
      Claims.at_ v w 0 0x1808 300 writeIntent 0x201808 ∧ Claims.Plain w ∧ (w.engine 0 0).moved = 1 ∧ (w.engine 0 0).limit = some 2 ∧
      1 + 2 < (0x1010 % 64 + 300 + 63) / 64 ∧ memoryBad w 0x201010 300 = false) ∧
    memoryBad (partS' [0x201080 / 64]) 0x201010 300 = true ∧
    (let w := engR (engR (engU (engS 0 1 [0x1000, 0x1800, 100])) 0x1000 100 readIntent) 0x1800 100 writeIntent
     Claims.Plain w ∧ Claims.Whole w 0 0 ∧ memoryBad w 0x201000 100 = false) :=
  ⟨⟨commandsOf _ _ _ (by decide +kernel), okDev_sound _ _ _ (by decide +kernel), okDev_sound _ _ _ (by decide +kernel),
      by unfold Claims.Plain Claims.Unobserved; decide +kernel, by decide +kernel⟩, by decide +kernel,
    by unfold Claims.Plain Claims.Unobserved Claims.Whole; decide +kernel⟩

/-- A fill of 24 bytes at 0x1800; a digest of 128 bytes at 0x1000. -/
theorem witness_CopyAndCryptoEngines_ranges : (let s := engS 0 4 [0x1800, 24, 0x0807060504030201]
      let w := engR (engU s) 0x1800 24 writeIntent
      Claims.Commands s (engU s) 0 0 .fill [0x1800, 24, 0x0807060504030201] ∧ Claims.at_ (engU s) w 0 0x1800 24 writeIntent 0x201800 ∧ memWf w.dmem = true) ∧
    (let s := engS 2 0x20 [0x1000, 128, 0x1800]
     let v := engR (engU s) 0x1000 128 readIntent
     Claims.Commands s (engU s) 0 0 .sha512 [0x1000, 128, 0x1800] ∧ Claims.at_ (engU s) v 0 0x1000 128 readIntent 0x201000 ∧
     Claims.at_ v (engR v 0x1800 64 writeIntent) 0 0x1800 64 writeIntent 0x201800) ∧
    (let s := engS 2 0x21 [0x1000, 0x2000, 0x3000]
     let v := engR (engU s) 0x1000 64 readIntent
     let x := engR v 0x2000 512 readIntent
     Claims.Commands s (engU s) 0 0 .rsaVerify [0x1000, 0x2000, 0x3000] ∧ Claims.at_ (engU s) v 0 0x1000 64 readIntent 0x201000 ∧
     Claims.at_ v x 0 0x2000 512 readIntent 0x202000 ∧ Claims.at_ x (engR x 0x3000 520 readIntent) 0 0x3000 520 readIntent 0x203000) :=
  ⟨⟨commandsOf _ _ _ (by decide +kernel), okDev_sound _ _ _ (by decide +kernel), by decide +kernel⟩,
    ⟨commandsOf _ _ _ (by decide +kernel), okDev_sound _ _ _ (by decide +kernel), okDev_sound _ _ _ (by decide +kernel)⟩,
    ⟨commandsOf _ _ _ (by decide +kernel), okDev_sound _ _ _ (by decide +kernel), okDev_sound _ _ _ (by decide +kernel), okDev_sound _ _ _ (by decide +kernel)⟩⟩

/-- Lines of a block, each in its own place. -/
def okLines (r : State × Except EngStop (List EngPiece)) (l : List (Nat × Nat)) : Bool :=
  match r.2 with
  | .ok ps => decide (ps.length = l.length) && (ps.zip l).all (fun p => match p.1 with | .dev a k => a == p.2.1 && k == p.2.2 | _ => false)
  | _ => false

theorem okPieces_eq : ∀ (ps : List EngPiece) (l : List (Nat × Nat)), ps.length = l.length →
    (ps.zip l).all (fun p => match p.1 with | .dev a k => a == p.2.1 && k == p.2.2 | _ => false) = true → ps = l.map (fun x => .dev x.1 x.2)
  | [], [], _, _ => rfl
  | p :: ps, x :: l, h, g => by
    simp only [List.zip_cons_cons, List.all_cons, Bool.and_eq_true] at g
    rw [List.map_cons, ← okPieces_eq ps l (by simpa using h) g.2]
    cases p with
    | dev a k => simp only [Bool.and_eq_true, beq_iff_eq] at g; rw [g.1.1, g.1.2]
    | spad _ _ _ => simp at g
    | peer _ => simp at g

theorem okLines_sound (r : State × Except EngStop (List EngPiece)) (pa p n : Nat) (h : okLines r ((List.range n).map (fun k => (pa + k * p, 64))) = true) :
    r = (r.1, .ok ((List.range n).map (fun k => .dev (pa + k * p) 64))) := by
  obtain ⟨t, x⟩ := r
  cases x with
  | error _ => cases h
  | ok ps =>
    simp only [okLines, Bool.and_eq_true, decide_eq_true_eq] at h
    rw [okPieces_eq ps _ h.1 h.2, List.map_map]; rfl

/-- A block of 32 lines 128 bytes apart at 0x1000 goes to lines 64 bytes apart at 0x9000. -/
theorem witness_CopyAndCryptoEngines_transpose :
    let s := engS 0 3 [0x1000, 0x9000, 128, 64, 1]
    let v := (engLines (engU s) 0 readIntent ((List.range 32).map (fun k => 0x1000 + k * 128))).1
    let w := (engLines v 0 writeIntent ((List.range 32).map (fun k => 0x9000 + k * 64))).1
    Claims.Commands s (engU s) 0 0 .copyT16 [0x1000, 0x9000, 128, 64, 1] ∧ Claims.linesAt (engU s) v 0 0x1000 32 128 readIntent 0x201000 ∧
      Claims.linesAt v w 0 0x9000 32 64 writeIntent 0x209000 ∧ Claims.Unobserved w ∧ memWf w.dmem = true :=
  ⟨commandsOf _ _ _ (by decide +kernel), okLines_sound _ _ _ _ (by decide +kernel), okLines_sound _ _ _ _ (by decide +kernel),
    by unfold Claims.Unobserved; decide +kernel, by decide +kernel⟩

end Sys2Proof.Tests

namespace Sys2Proof.Tests

/-- The command of `engS`, the partition belonging to the groups 3 (alone) and 4 (with another member). -/
def cleS (h : Nat) (o : List Nat) : State :=
  let s := engS 1 h o
  { s with plat := { s.plat with groups := [(3, [(0, 0)]), (4, [(0, 0), (1, 0)])] } }

/-- An all-reduce of 3 elements of format 5 at 0x1000 in a group of one member and in one of two; operands out of range; a group without the partition. -/
theorem witness_CollectivesAndMigration_collectives : (let s := cleS 0x10 [0x1000, 3, 5, 1, 3]
      let w := engR (engU s) 0x1000 12 bothIntent
      Claims.Commands s (engU s) 0 0 .allReduce [0x1000, 3, 5, 1, 3] ∧ partOfBlock s 0 = 0 ∧ tabGet (engU s).plat.groups 3 [] = [(0, 0)] ∧ fmtWidth 5 / 8 = 4 ∧
      Claims.at_ (engU s) w 0 0x1000 12 bothIntent 0x201000 ∧ Claims.Unobserved w ∧ memWf w.dmem = true) ∧
    (let s := cleS 0x12 [0x1000, 3, 5, 1, 4]
     let w := engR (engU s) 0x1000 24 bothIntent
     Claims.Commands s (engU s) 0 0 .allGather [0x1000, 3, 5, 1, 4] ∧ (tabGet (engU s).plat.groups 4 []).length = 2 ∧
     Claims.at_ (engU s) w 0 0x1000 24 bothIntent 0x201000) ∧
    (let s := cleS 0x11 [0x1000, 0, 5, 1, 3]
     Claims.Commands s (engU s) 0 0 .broadcast [0x1000, 0, 5, 1, 3]) ∧
    (let s := cleS 0x11 [0x1000, 3, 5, 1, 5]
     Claims.Commands s (engU s) 0 0 .broadcast [0x1000, 3, 5, 1, 5] ∧ tabGet (engU s).plat.groups 5 [] = []) :=
  ⟨⟨commandsOf _ _ _ (by decide +kernel), by decide +kernel, by decide +kernel, by decide, okDev_sound _ _ _ (by decide +kernel),
      by unfold Claims.Unobserved; decide +kernel, by decide +kernel⟩,
    ⟨commandsOf _ _ _ (by decide +kernel), by decide +kernel, okDev_sound _ _ _ (by decide +kernel)⟩, commandsOf _ _ _ (by decide +kernel),
    commandsOf _ _ _ (by decide +kernel), by decide +kernel⟩

theorem witness_CollectivesAndMigration_collectives_plain : let w := engR (engU (cleS 0x10 [0x1000, 3, 5, 1, 3])) 0x1000 12 bothIntent
    Claims.Plain w ∧ memoryBad w 0x201000 12 = false := by
  unfold Claims.Plain Claims.Unobserved; decide +kernel

/-- Migration finds a frame exactly where one is free. -/
theorem freeFrame_isSome (s : State) (part tier n : Nat) : (freeFrame s part tier n).isSome = !(freeFrames s part tier n).isEmpty := by
  unfold freeFrame
  cases h : freeFrames s part tier n with
  | nil => rfl
  | cons a l =>
    have : (Config.freeValue s.free).toNat % (a :: l).length < (a :: l).length := Nat.mod_lt _ (Nat.succ_pos _)
    simpa using Nat.le_of_lt_succ this

/-- The partition has frames of tiers 0 and 1, and none of tier 2. -/
def framesS (tier : Nat) : State := { engS 3 0x30 [0x1000, tier] with frames := [(0, 1), (1, 1), (524288, 1)] }

theorem witness_CollectivesAndMigration_leaf : (let s := framesS 1
      Claims.Commands s (engU s) 0 0 .migrate [0x1000, 1] ∧ genBusy (engU s).takeFree 0 = false ∧ (engU s).tasks = [] ∧ memWf (engU s).dmem = true ∧
      tabRising none (engU s).engines = true ∧ (leafOf (engU s) 0 0x1000).any (fun w => !w.pte.getLsbD 10 && !w.pte.getLsbD 6 && !w.pte.getLsbD 5 &&
        framesOwned (engU s) 0 w.pbase w.size && !(freeFrames (engU s) 0 1 w.size).isEmpty) = true) ∧
    (let s := framesS 2
     Claims.Commands s (engU s) 0 0 .migrate [0x1000, 2] ∧ (leafOf (engU s) 0 0x1000).any (fun w => (freeFrames (engU s) 0 2 w.size).isEmpty) = true) :=
  ⟨⟨commandsOf _ _ _ (by decide +kernel), by decide +kernel⟩, commandsOf _ _ _ (by decide +kernel), by decide +kernel⟩

/-- An address behind the last, a tier that is none. -/
theorem witness_CollectivesAndMigration_migrate : (let s := engS 3 0x30 [2 ^ 57, 0]
      Claims.Commands s (engU s) 0 0 .migrate [2 ^ 57, 0]) ∧
    (let s := engS 3 0x30 [0x1000, 3]
     Claims.Commands s (engU s) 0 0 .migrate [0x1000, 3]) :=
  ⟨commandsOf _ _ _ (by decide +kernel), commandsOf _ _ _ (by decide +kernel)⟩

/-- A migration between its steps: the leaf of 0x1000, marked, its frame at 0x200000, goes to 0x600000; software has touched the entry in the other. -/
def movingS (touched : Bool) : State :=
  let s := mapped (fun q => { q with run := false })
  let old := placeCode + 0xC1F + 2 ^ 52
  { (s.setEngine 0 0 { EngQueue.reset with en := true, eng := 3, rbase := 0x8000, appn := 1, items := [.cmd]
                                           mig := some (0x200000, 0x200000, 0x1000, BitVec.ofNat 64 old, 0x600000, 0x4000) }) with
    dmem := memSetNat (memSetNat s.dmem 0x4000 8 (if touched then old + 2 ^ 53 else old)) 0x200010 4 0x55667788, focus := .engine 0 0 }

theorem witness_CollectivesAndMigration_copy : (let s := movingS false
      let old := BitVec.ofNat 64 (placeCode + 0xC1F + 2 ^ 52)
      (s.engine 0 0).mig = some (0x200000, 0x200000, 0x1000, old, 0x600000, 0x4000) ∧ genBusy s (partOfBlock s 0) = false ∧ old.getLsbD 6 = false ∧
      memWf s.dmem = true ∧ tabRising none s.engines = true ∧ s.sealed = [] ∧ BitVec.ofNat 64 (memNat s.dmem 0x4000 8) = old ∧ ptePa old = 0x200000 ∧
      old.getLsbD 10 = true) ∧
    BitVec.ofNat 64 (memNat (movingS true).dmem 0x4000 8) ≠ BitVec.ofNat 64 (placeCode + 0xC1F + 2 ^ 52) := by decide +kernel

/-- No task sees the move; the frame that moves can be read, or a line of it cannot. -/
theorem witness_CollectivesAndMigration_source : Claims.Unobserved (movingS false) ∧ memoryBad (movingS false) 0x200000 0x1000 = false ∧
    memoryBad { movingS false with bad := [0x200040 / 64] } 0x200000 0x1000 = true := by
  unfold Claims.Unobserved; decide +kernel

/-- An entry performed with a status, its completion word at 0xA000. -/
def doneS (st : Byte) (h : Nat) : State := let s := engS 0 h []; s.setEngine 0 0 { s.engine 0 0 with status := some st }

/-- After translating the completion word's address, and after writing it. -/
def doneW (st : Byte) (h : Nat) : State := (engVirt (doneS st h) 0 0xA000 8 writeIntent).1
def doneV (st : Byte) (h : Nat) : State := { doneW st h with dmem := memSetNat (doneW st h).dmem 0x20A000 8 (1 + 2 ^ 32 * st.toNat) }

theorem doneW_eq : engVirt (doneS 6 1) 0 0xA000 8 writeIntent = (doneW 6 1, .ok [.dev 0x20A000 8]) := by
  unfold doneW
  exact okDev_sound (engVirt (doneS 6 1) 0 0xA000 8 writeIntent) _ _ (by decide +kernel)

theorem doneW_quiet : Claims.Unobserved (doneW 6 1) := by unfold Claims.Unobserved; decide +kernel

theorem witness_CollectivesAndMigration_word : Claims.Plain (doneW 6 1) ∧ (doneS 6 1).plat.lsWrites = [] := by
  unfold Claims.Plain Claims.Unobserved; decide +kernel

theorem witness_CollectivesAndMigration_complete : ((doneS 6 1).engine 0 0).status = some 6 ∧ ((doneS 6 1).engine 0 0).fault = none ∧ partOfBlock (doneS 6 1) 0 = 0 ∧
    ((doneS 6 1).engine 0 0).cwaddr.toNat = 0xA000 ∧ engVirt (doneS 6 1) 0 0xA000 8 writeIntent = (doneW 6 1, .ok [.dev 0x20A000 8]) ∧
    (Claims.Unobserved (doneW 6 1) ∧ memWf (doneW 6 1).dmem = true ∧ (doneW 6 1).engines = (doneS 6 1).engines) ∧
    (∃ c, (okCmd (engCommand (doneV 6 1) 0 0 0) = some c ∧ c.getLsbD 8 = false)) ∧ (∃ c, okCmd (engCommand (doneV 0 0x101) 0 0 0) = some c ∧ c.getLsbD 8 = true) ∧
    ((doneW 6 1).sq 0).run = false :=
  ⟨by decide +kernel, by decide +kernel, by decide +kernel, by decide +kernel, doneW_eq,
    ⟨doneW_quiet, by decide +kernel⟩,
    ⟨(okCmd (engCommand (doneV 6 1) 0 0 0)).getD 0, by decide +kernel⟩, ⟨(okCmd (engCommand (doneV 0 0x101) 0 0 0)).getD 0, by decide +kernel⟩, by decide +kernel⟩

end Sys2Proof.Tests

/-! ## The host and resets -/

namespace Sys2Proof.Tests

/-- Aperture window 0 reaches partition 0 from virtual 0 on; window 1 is off. -/
def hostS : State :=
  let m := mapped (fun q => { q with run := false })
  { m with dmem := memSetBytes m.dmem 0x201000 [1, 2, 3], plat := { m.plat with waps := [(0, 1)] } }

/-- A range translated into one piece. -/
def okPiece (r : State × List Tlb × Except (Nat × XOut) (List (Nat × Nat))) (pa n : Nat) : Bool := match r.2.2 with | .ok l => l == [(pa, n)] | _ => false

theorem okPiece_sound (r : State × List Tlb × Except (Nat × XOut) (List (Nat × Nat))) (pa n : Nat) (h : okPiece r pa n = true) : r = (r.1, r.2.1, .ok [(pa, n)]) := by
  obtain ⟨t, l, x⟩ := r
  cases x with
  | error _ => cases h
  | ok y => simp only [okPiece, beq_iff_eq] at h; rw [h]

/-- The machine after the translation. -/
def hostU (a n : Nat) (i : Intent) : State := (translateRange hostS [] 0 i (pagePieces a n)).1

theorem witness_HostAndResets_windows : (tabGet hostS.plat.waps (0x100001000 / 2 ^ 32) 0).getLsbD 0 = false ∧ (tabGet hostS.plat.waps (0x1000 / 2 ^ 32) 0).getLsbD 0 = true ∧
    hostS.plat.reqs = [] ∧ (∃ u l, translateRange hostS [] 0 readIntent (pagePieces 0x1000 3) = (u, l, .ok [(0x201000, 3)])) ∧
    (∃ u l, translateRange hostS [] 0 writeIntent (pagePieces 0x1001 2) = (u, l, .ok [(0x201001, 2)])) ∧
    (hostU 0x1001 2 writeIntent).tasks = [] ∧ (hostU 0x1001 2 writeIntent).channels = [] ∧ memWf (hostU 0x1001 2 writeIntent).dmem = true :=
  ⟨by decide +kernel, by decide +kernel, rfl,
    ⟨_, _, okPiece_sound (translateRange hostS [] 0 readIntent (pagePieces 0x1000 3)) _ _ (by decide +kernel)⟩,
    ⟨_, _, okPiece_sound (translateRange hostS [] 0 writeIntent (pagePieces 0x1001 2)) _ _ (by decide +kernel)⟩, by decide +kernel⟩

/-- A request that has waited for fault 8 of partition 0 since 1000. -/
def overdueS (time : Nat) : State :=
  { answerS with time := time, plat := { answerS.plat with reqs := [{ off := 0x5000, data := [], len := 4, write := false, posted := false, fseq := 8, part := 0, time := 1000 }] } }

theorem witness_HostAndResets_timeout : (∃ r, (overdueS 20001000).plat.reqs = [r] ∧ r.posted = false ∧ r.fseq ≠ 0 ∧ faultStatus (overdueS 20001000) r.part r.fseq = 0 ∧
      r.time + 20000000 ≤ (overdueS 20001000).time) ∧ (∃ r, (overdueS 20000999).plat.reqs = [r] ∧ ¬ r.time + 20000000 ≤ (overdueS 20000999).time) :=
  ⟨⟨_, rfl, by decide +kernel⟩, ⟨_, rfl, by decide +kernel⟩⟩

/-- Partition 3 holds blocks 2 and 5; block 2's sequencer and block 0's run; two ports are owned by them; a frame of the partition is sealed. -/
def partS : State :=
  let s := (unloadS 2).setPart 3 { Part.reset with blocks := [2, 5], cutno := 77, sealedVa := [(0x4000, 0x2000, 0x300000)], seals := [] }
  let s := (s.setPort (siteEa 4 0) { CfgPort.reset with owner := 4 }).setPort (siteEa 4 1) { CfgPort.reset with owner := 2 }
  { s with sealed := [0x300, 0x301, 0x400], dmem := memSetNat (memSetNat [] 0x301008 1 5) 0x302000 1 6 }

theorem witness_HostAndResets_partitions : tabRising none partS.sqs = true ∧ tabRising none partS.ports = true ∧ (∀ b : BitVec 6, (partS.sq b).arrival = none) ∧
    memWf partS.dmem = true ∧ siteExists 4 = true ∧ (4#13).extractLsb' 11 2 = 0#2 ∧ tabRising none partS.sites = true := by decide +kernel

/-- No sequencer has an arrival or a store under way; an element that is and one that is not; a device that has refused its firmware. -/
theorem witness_HostAndResets_units : (∀ b : BitVec 6, (partS.sq b).arrival = none ∧ (partS.sq b).pend = []) ∧ eaExists (siteEa 5 1) = true ∧
    eaExists (siteEa 40 0) = false ∧ ({ partS with plat := { partS.plat with state := 4 } } : State).plat.state = 4 := by decide +kernel

theorem witness_HostAndResets_fatal : hostS.tasks = [] ∧ hostS.plat.state ≠ 3 ∧ memWf hostS.dmem = true ∧ hostS.spad = [] ∧ hostS.plat.guard.length ≤ 2048 := by
  decide +kernel

/-- A device that is not ready, one that is, and a time ahead of it. -/
theorem witness_HostAndResets_time : State.reset.plat.state ≠ 2 ∧ hostS.plat.state = 2 ∧ (hostS.time ≤ (0xFFFF#64).toNat) := by decide +kernel

end Sys2Proof.Tests

/-! ## Mailbox operations -/

namespace Sys2Proof.Tests

/-- Partition 3 holds blocks 2 and 5, two keys, and frames 3 and 4 with data; object 6 is allocated to it and object 7 to another. -/
def mailS : State :=
  let s := State.reset.setPart 3 { Part.reset with blocks := [2, 5], keys := [(1, 5), (2, 6)], gen := 3 }
  let s := (s.setBarrier 6 { Barrier.reset with en := true, part := 3 }).setBarrier 7 { Barrier.reset with en := true, part := 4 }
  let s := s.setEngine 5 1 { EngQueue.reset with en := true, appn := 4, donen := 3 }
  let s := (s.setChannel 0x8001 { Channel.reset with cfg := 1, part := 4 }).setPort (siteEa 4 0) { CfgPort.reset with owner := 4 }
  let s := s.modSq 2 (fun q => { q with run := true, priv := false, pc := 9, g := [(3, 7)] })
  { s with frames := [(3, 4), (4, 4), (6, 2)], dmem := memSetNat (memSetNat [] 0x600008 1 5) 0xA00000 1 6 }

/-- All keys of partition 3 enrolled but one of 16. -/
def keysS (n : Nat) : State := mailS.modPart 3 (fun p => { p with keys := (List.range n).map (fun i => (BitVec.ofNat 64 (i + 100), 1)) })

theorem witness_MailboxOperations_objects : mailS.plat.mbox = [] ∧ (0#32).toNat % 2 ^ 24 = 0 ∧ (0x3000005#32).toNat % 2 ^ 24 ≠ 0 ∧ (mailS.barrier 6).en = true ∧
    (mailS.barrier 8).en = false ∧ (mailS.barrier 7).part ≠ 3 ∧ (mailS.barrier 6).part = 3 ∧
    16 ≤ (((keysS 16).part 3).keys.filter (fun e => decide (e.1 ≠ 5))).length ∧ ((mailS.part 3).keys.filter (fun e => decide (e.1 ≠ 2))).length < 16 ∧
    (mailS.part 3).keys.all (fun e => e.1 != 5) = true ∧ (mailS.part 3).keys.any (fun e => e.1 == 2) = true := by decide +kernel

theorem witness_MailboxOperations_sequencers : (∃ b, Claims.named mailS 3 none b) ∧ (∀ b, ¬ Claims.named mailS 4 none b) ∧ Claims.named mailS 3 (some 5) 5 ∧
    (∀ b ∈ ((mailS.part 3).blocks.map (BitVec.ofNat 6)),
      (mailS.sq b).failed = false ∧ (mailS.sq b).evHeld = [] ∧ (mailS.sq b).arrival = none ∧ (mailS.sq b).pend = []) ∧
    tabRising none mailS.sqs = true ∧ tabRising none mailS.ports = true ∧ ((mailS.modSq 2 (fun q => { q with failed := true })).sq 2).failed = true :=
  ⟨⟨2, by decide +kernel, fun c h => nomatch h⟩, (fun b h => by have h1 := h.1; have e : (mailS.part (4#8).toNat).blocks = [] := (by decide +kernel); rw [show (4#8).toNat = 4 from rfl] at e; simp [e] at h1), ⟨by decide +kernel, fun c h => (by cases h; rfl)⟩,
    by decide +kernel⟩

theorem witness_MailboxOperations_queues : (2#6).toNat ∈ (mailS.part 3).blocks ∧ (3#6).toNat ∉ (mailS.part 3).blocks ∧ (mailS.engine 2 1).appn = (mailS.engine 2 1).donen ∧
    (mailS.engine 5 1).appn ≠ (mailS.engine 5 1).donen ∧ Claims.field 0x13 3 4 < 9 ∧ (0x8000#64).toNat % (64 * 2 ^ (Claims.field 0x13 3 4 + 4)) = 0 ∧
    (0x40#64).toNat % 8 = 0 ∧ ¬ Claims.field 0x4B 3 4 < 9 := by decide +kernel

/-- Frames that may be granted and not, unowned and another's; the partition's own with nothing sealed, and sealed. -/
theorem witness_MailboxOperations_frames : (0xA00000#52).toNat % 2 ^ 21 = 0 ∧ (∀ j, 5 ≤ j → j < 5 + 1 → frameGrantable mailS j = true) ∧ tabGet mailS.frames 5 0 = 0 ∧
    (∀ j, 6 ≤ j → j < 6 + 1 → frameGrantable mailS j = true) ∧ tabGet mailS.frames 6 0 = 2 ∧ frameGrantable mailS (0x5958400000 / 2 ^ 21) = false ∧
    tabRising none mailS.frames = true ∧ sealedAt mailS 0x600000 (2 * 2 ^ 21) = false ∧ tabGet mailS.frames 3 0 = 4 ∧ tabGet mailS.frames 4 0 = 4 ∧ memWf mailS.dmem = true ∧
    sealedAt { mailS with sealed := [0x601] } 0x600000 (2 * 2 ^ 21) = true := by
  refine ⟨by decide +kernel, fun j h g => ?_, by decide +kernel, fun j h g => ?_, by decide +kernel⟩
  · have : j = 5 := by omega
    subst this; decide +kernel
  · have : j = 6 := by omega
    subst this; decide +kernel

theorem map_fst_some {α β : Type} {r : Option (α × β)} {x : α} (h : r.map Prod.fst = some x) : ∃ l, r = some (x, l) := by
  obtain _ | ⟨a, l⟩ := r
  · cases h
  · cases h; exact ⟨l, rfl⟩

/-- A ring and a control block in one page of partition 0. -/
theorem witness_MailboxOperations_trace : (∃ l, contiguous hostS 0 0x8000 (16 * 2 ^ 8) = some (0x208000, l)) ∧ (∃ l, contiguous hostS 0 0x9000 64 = some (0x209000, l)) ∧
    0x208000 % (16 * 2 ^ 8) = 0 ∧ (contiguous hostS 0 0x400000 64).isNone = true ∧ hostS.plat.mbox = [] :=
  ⟨map_fst_some (by decide +kernel), map_fst_some (by decide +kernel), by decide,
    by decide +kernel, rfl⟩

theorem witness_MailboxOperations_channels : tabRising none mailS.channels = true ∧ crossMonitor (mailS.channel 0x8001) = [] ∧ (mailS.channel 0x8001).en = true ∧
    (mailS.channel 0x8001).part ≠ 3 ∧ (mailS.channel 0x8002).en = false ∧ crossMonitor (mailS.channel 0x8002) = [] ∧ mailS.plat.mbox = [] := by decide +kernel

end Sys2Proof.Tests

/-! ## Steps -/

namespace Sys2Proof.Tests

/-- The machine after a listed move is taken. -/
def taken (s : State) : State := { s with agenda := s.agenda.tail, time := s.time + s.elapse.headD 1, elapse := s.elapse.tail }

theorem taken_next (s : State) (m : Move) (h : s.plat.state ≠ 3 ∧ s.plat.state ≠ 4 ∧ s.burst = [] ∧ s.agenda = m :: s.agenda.tail) : Claims.Next s m (taken s) :=
  ⟨h.1, h.2.1, .inr ⟨s.agenda.tail, h.2.2.1, h.2.2.2, rfl⟩⟩

/-- A word at the pc of block 0, to be fetched; one in the instruction cache; one in a page that does not exist. -/
def fetchS (f : Sq → Sq) : State := (State.reset.withFetchWord 32 0x3C611000).modSq 0 f

/-- A translation that ended in an address, a failure of this reason. -/
def okX (r : XOut) : Option Nat := match r with | .ok y => some y.pa | _ => none
def failX (r : XOut) : Option Nat := match r with | .fail n => some n | _ => none
def fetchX (s : State) : State × List Tlb × XOut := translate (taken s) ((taken s).sq 0).tlb ((taken s).sq 0).part.toNat ((taken s).sq 0).pc.toNat fetchIntent

theorem okX_sound {r : XOut} {n : Nat} (h : okX r = some n) : ∃ y, r = .ok y ∧ y.pa = n := by
  cases r with
  | ok y => exact ⟨y, rfl, by simpa [okX] using h⟩
  | wait => cases h
  | fail _ => cases h

theorem failX_sound {r : XOut} {n : Nat} (h : failX r = some n) : r = .fail n := by
  cases r with
  | ok y => cases h
  | wait => cases h
  | fail _ => cases h; rfl

theorem witness_StepRunsInstruction_sequencer : (let s := fetchS id
      Claims.Next s (.sq 0) (taken s) ∧ ((taken s).sq 0).run = true ∧ ((taken s).sq 0).hold = none ∧ interruptible (taken s) 0 = false ∧
      icacheGet ((taken s).sq 0).icache ((taken s).sq 0).pc.toNat = none ∧ (∃ y, (fetchX s).2.2 = .ok y ∧ y.pa = 0x201000) ∧
      decodeSq (BitVec.ofNat 32 (memNat (fetchX s).1.dmem 0x201000 4)) = .ok (.addSequencer 3 1 2)) ∧
    (let s := fetchS (fun q => { q with icache := [(0x1000, 0x04000000#32)] })
     Claims.Next s (.sq 0) (taken s) ∧ icacheGet ((taken s).sq 0).icache ((taken s).sq 0).pc.toNat = some 0x04000000#32) ∧
    (let s := fetchS (fun q => { q with pc := 0x0200000000000000 })
     Claims.Next s (.sq 0) (taken s) ∧ ∃ r, (fetchX s).2.2 = .fail r ∧ r ≠ 1) ∧
    (let s := fetchS (fun q => { q with ie := true, evTail := 1 })
     Claims.Next s (.sq 0) (taken s) ∧ interruptible (taken s) 0 = true) ∧
    (let s := fetchS (fun q => { q with run := false })
     Claims.Next s (.sq 0) (taken s) ∧ ((taken s).sq 0).run = false) :=
  ⟨⟨taken_next _ _ (by decide +kernel), by decide +kernel, by decide +kernel, by decide +kernel, by decide +kernel, okX_sound (by decide +kernel), rfl⟩,
    ⟨taken_next _ _ (by decide +kernel), by decide +kernel⟩,
    ⟨taken_next _ _ (by decide +kernel), ⟨(failX (fetchX (fetchS (fun q => { q with pc := 0x0200000000000000 }))).2.2).getD 1, failX_sound (by decide +kernel), by decide +kernel⟩⟩,
    ⟨taken_next _ _ (by decide +kernel), by decide +kernel⟩, ⟨taken_next _ _ (by decide +kernel), by decide +kernel⟩⟩

/-- A command of the loader is whole; it comes in the agenda after a burst is over, and an operator's stage in a burst. -/
def loaderS : State := { (State.reset.modSq 0 (fun q => { q with run := true, opened := [0x54E60002#32, 7, 8] })) with agenda := [.loader 0] }

def engineS : State := { engS 0 1 [0x1000, 0x1800, 100] with agenda := [.engine 0 0] }

theorem witness_StepRunsInstruction_units : (Claims.Next loaderS (.loader 0) (taken loaderS) ∧ ((taken loaderS).sq 0).run = true ∧ ((taken loaderS).sq 0).lfault = none ∧
      ((taken loaderS).sq 0).opened = 0x54E60002#32 :: [7, 8] ∧ commandLength 0x54E60002#32 ≤ [(7 : Word), 8].length ∧
      decodeCommand 0x54E60002#32 [7, 8] = .ok (.writeShadow 1 0x4E60 0 [7, 8])) ∧
    (let u := taken engineS
     Claims.Next engineS (.engine 0 0) u ∧ engReady u 0 0 = true ∧ (u.engine 0 0).fault = none ∧ tabRising none u.engines = true ∧
     ∃ c, okCmd (engCommand (countStall u 0 0 0) 0 0 (partOfBlock u 0)) = some c ∧ decodeEngine (u.engine 0 0).eng c = some .copy) ∧
    Claims.Next { loaderS with agenda := [.event (.task 5) .commit] } (.event (.task 5) .commit) (taken { loaderS with agenda := [.event (.task 5) .commit] }) :=
  ⟨⟨taken_next _ _ (by decide +kernel), by decide +kernel, by decide +kernel, by decide +kernel, by decide +kernel, rfl⟩,
    ⟨taken_next _ _ (by decide +kernel), by decide +kernel, by decide +kernel, by decide +kernel,
      ⟨(okCmd (engCommand (countStall (taken engineS) 0 0 0) 0 0 (partOfBlock (taken engineS) 0))).getD 0, by decide +kernel⟩⟩, taken_next _ _ (by decide +kernel)⟩

/-- Operators in a stage, in a slot, in an AGN. -/
theorem witness_StepRunsInstruction_operators : (let s := State.reset.withFetchWord 64 0x0028180000000003
      let e := (taken s).elem (siteEa 0 0) 0
      Claims.Next s (.stage (siteEa 0 0) 0) (taken s) ∧ (∃ p, e.pass = some p ∧ e.stageOn p.stage = true ∧
        decodeOp (e.stageWord p.stage) = .ok (.addFabric { fmt := 5, rnd := 0, sat := 0, sa := 0, sb := 6, sc := 0, dst := 0, kidx := 0, pg := 0, imm := 3 })) ∧
      e.stopped = false ∧ e.captured = false) ∧
    (let s := State.reset.withFetchWord 64 (256 * 2 ^ 55)
     let e := (taken s).elem (siteEa 0 1) 0
     Claims.Next s (.slot (siteEa 0 1) 0 0) (taken s) ∧ e.slotOn 0 = true ∧ (decodeOp (e.slotWord 0)).isOk = true) ∧
    (let s := State.reset.withFetchWord 64 (320 * 2 ^ 55 + 5 * 2 ^ 51)
     let e := (taken s).elem (siteEa 4 0) 0
     Claims.Next s (.agn (siteEa 4 0) 0 0) (taken s) ∧ heldSource (taken s) (.agn (siteEa 4 0) 0 0) = false ∧ bitSet (e.agnb 0) 6 = true) :=
  ⟨⟨taken_next _ _ (by decide +kernel), ⟨(((taken (State.reset.withFetchWord 64 0x0028180000000003)).elem (siteEa 0 0) 0).pass).getD { ports := [], stage := 9, prev := none },
      by decide +kernel, by decide +kernel, rfl⟩, by decide +kernel⟩,
    ⟨taken_next _ _ (by decide +kernel), by decide +kernel⟩, ⟨taken_next _ _ (by decide +kernel), by decide +kernel⟩⟩

end Sys2Proof.Tests

/-! ## Operators of a stage -/

namespace Sys2Proof.Tests

/-- Tokens A, B and C stand before stage 1 of CT 0, whose operator has state op and whose context holds k. -/
def opP : Pass := ports3 (tok payA 0xFFFF) (tok payB 0x3FFF) (tok payA 0xFFFF)
def opS (op : OpSt) (k : Tab Token) : State := ctS opP (fun e => { e with k := k, ops := [(1, op)] })

/-- The gate's control token lets data through. -/
def gateS : State := (opS OpSt.zero []).modElem (siteEa 0 0) 0 (fun e => e.setCtlQueue (gateIndex e 1) [ctlTok true false])

theorem onAll {l : List Nat} {s : State} {v : View} {p : Pass} {fm : Nat → List Nat} {popped : Bool}
    (h : l.all (fun c => onData s v p c (fm c) popped) = true) : ∀ c ∈ l, Claims.OnData s v p c (fm c) popped :=
  fun c hc => onData_sound (List.all_eq_true.mp h c hc)

/-- Opcodes of the operators on integers, on lanes, on floats. -/
def intCodes : List Nat := (List.range 192).filter (fun c => match opConstructor c with | some f => (Claims.intElement (f (ow 5 0))).isSome | none => false)
def floatCodes : List Nat := (List.range 192).filter (fun c => match opConstructor c with | some f => (Claims.floatElement (f (ow 12 0))).isSome | none => false)
def decoded : OpSt := { OpSt.zero with seen := true, fmt := 5, rem := 2, elems := 9 }

/-- Integer operators with FMT given and decoded, without a gate and through one; the bit-field operators with one bit of the word. -/
theorem witness_IntegerOperators : intCodes.length = 22 ∧
    (∀ c ∈ intCodes, ∃ f, opConstructor c = some f ∧ ((f (ow 5 130)).operator = some (BitVec.ofNat 9 c, ow 5 130)) ∧ (Claims.intElement (f (ow 5 130))).isSome = true) ∧
    (∀ c ∈ intCodes, Claims.OnData (opS OpSt.zero []) (ctV (opS OpSt.zero []) (ow 5 130)) opP c (decodable c) false) ∧
    (∀ c ∈ intCodes, Claims.OnData (opS decoded []) (ctV (opS decoded []) (ow 0 130)) opP c (decodable c) false) ∧
    (∀ c ∈ intCodes, Claims.OnData gateS (ctV gateS { ow 5 130 with pg := 1 }) opP c (decodable c) true) ∧
    Claims.fieldLen (ow 5 130) = 1 ∧ Claims.fieldPos (ow 5 130) = 2 ∧ (ow 5 3).imm.toNat ≤ 5 :=
  ⟨by decide +kernel, (by
      intro c h
      have g : intCodes.all (fun c => match opConstructor c with
        | some f => (f (ow 5 130)).operator == some (BitVec.ofNat 9 c, ow 5 130) && (Claims.intElement (f (ow 5 130))).isSome
        | none => false) = true := by decide +kernel
      have g := List.all_eq_true.mp g c h
      split at g
      · rename_i f e
        simp only [Bool.and_eq_true, beq_iff_eq] at g
        exact ⟨f, e, g.1, g.2⟩
      · cases g),
    onAll (by decide +kernel), onAll (by decide +kernel), onAll (by decide +kernel), by decide, by decide, by decide⟩

theorem witness_LaneMoves : ∀ c ∈ [20, 128, 134, 135, 136], Claims.OnData (opS OpSt.zero []) (ctV (opS OpSt.zero []) (ow 5 3)) opP c [] false :=
  onAll (fm := fun _ => []) (by decide +kernel)

/-- Under FMT 0 the moves follow the packets of their stream. -/
theorem witness_LaneMoves_streams : ∀ w ∈ [ow 5 3, ow 0 3], ∀ c ∈ [128, 134, 135, 136], Claims.OnData (opS decoded []) (ctV (opS decoded []) w) opP c fData false := by
  intro w hw c hc
  have g : [ow 5 3, ow 0 3].all (fun w => [128, 134, 135, 136].all (fun c => onData (opS decoded []) (ctV (opS decoded []) w) opP c fData false)) = true := by decide +kernel
  exact onData_sound (List.all_eq_true.mp (List.all_eq_true.mp g w hw) c hc)

theorem witness_IntegerConversions : (∀ c ∈ [21, 141], Claims.OnData (opS OpSt.zero []) (ctV (opS OpSt.zero []) (ow 5 3)) opP c [] false) ∧
    Claims.OnData (opS OpSt.zero []) (ctV (opS OpSt.zero []) (ow 1 0)) opP 22 [] false ∧ Claims.OnData (opS OpSt.zero []) (ctV (opS OpSt.zero []) (ow 3 0)) opP 23 [] false ∧
    Claims.dfmt (ow 5 3) = 3 :=
  ⟨onAll (fm := fun _ => []) (by decide +kernel), onData_sound (by decide +kernel), onData_sound (by decide +kernel), by decide⟩

/-- A launch whose NaN trap is on, and a task of it in the context: ∞ - ∞ in lane 1. -/
def infP : Pass := ports3 (tok (0x7F800000 * 2 ^ 32) 0xFFFF) (tok (0xFF800000 * 2 ^ 32) 0xFFFF) (tok 0 0xFFFF)
def trapS : State :=
  { ctS infP (fun e => { e with task := some (aTask .running).uid }) with launches := [{ aLaunch with flags := 1 }], tasks := [aTask .running] }

theorem witness_FloatOperators : floatCodes.length = 16 ∧
    (∀ c ∈ floatCodes, Claims.OnData (opS OpSt.zero []) (ctV (opS OpSt.zero []) (ow 12 0)) opP c (decodable c) false) ∧
    nanTrap (opS OpSt.zero []) (ctV (opS OpSt.zero []) (ow 12 0)).e.task = false ∧
    (let v := ctV trapS (ow 12 0)
     let x := Claims.operands v infP 64 (decodable 64)
     ∃ g, Claims.floatElement (.fadd (ow 12 0)) = some (2, g) ∧ Claims.OnData trapS v infP 64 (decodable 64) false ∧ nanTrap trapS v.e.task = true ∧
       x.side.etag = false ∧ Claims.madeNan 2 g x 1 ∧ ∀ j < 1, ¬ Claims.madeNan 2 g x j) :=
  ⟨by decide +kernel, onAll (by decide +kernel), by decide +kernel, _, rfl, onData_sound (by decide +kernel), by decide +kernel, by decide +kernel,
    by unfold Claims.madeNan; decide +kernel, by unfold Claims.madeNan; decide +kernel⟩

theorem witness_FloatClasses : ∀ c ∈ [73, 74, 83], Claims.OnData (opS OpSt.zero []) (ctV (opS OpSt.zero []) (ow 12 6)) opP c (decodable c) false :=
  onAll (by decide +kernel)

/-- From format 12 to format 11; and rounded by the random token at port 1. -/
def rndW : OpWord := { ow 12 11 with rnd := 2 }
def rndP : Pass := { ports := [(0, some (tok payA 0xFFFF))], stage := 1, prev := none }
def rndS : State := ctS rndP (fun e => { e with inq := [(1, [tok payB 0xFFFF])] })

theorem witness_FloatConversion : Claims.dfmt (ow 12 11) = 11 ∧ (ow 12 11).rnd ≠ 2 ∧
    Claims.OnData (opS OpSt.zero []) (ctV (opS OpSt.zero []) (ow 12 11)) opP 75 [] false ∧
    (let v := ctV rndS rndW
     rndS.focus = .stage v.ea v.ctx ∧ v.e = rndS.elem v.ea v.ctx ∧ v.n = rndP.stage ∧ v.op = v.e.op v.n ∧ v.e.pass = some rndP ∧ v.e.stopped = false ∧ v.op.res = [] ∧
     portToken rndP 0 = some (tok payA 0xFFFF) ∧ (tok payA 0xFFFF).kind = .data ∧ v.e.queue 1 = [tok payB 0xFFFF] ∧ (tok payB 0xFFFF).kind = .data ∧
     tabRising none rndP.ports = true ∧ nanTrap rndS v.e.task = false ∧ rndW.rnd = 2 ∧ rndW.sb.toNat ≤ 3 ∧ rndW.sa ≠ rndW.sb ∧ rndW.pg = 0) :=
  ⟨by decide, by decide, onData_sound (by decide +kernel), by decide +kernel⟩

theorem witness_Reductions : Claims.reductionFormats (ow 5 2) = [] ∧ (∀ c ∈ [132, 133], Claims.OnData (opS OpSt.zero []) (ctV (opS OpSt.zero []) (ow 5 2)) opP c [] false) ∧
    (∀ c ∈ [132, 133], Claims.OnData (opS decoded []) (ctV (opS decoded []) (ow 0 2)) opP c (Claims.reductionFormats (ow 0 2)) false) ∧ ¬ fmtFloat 5 = true :=
  ⟨by decide, onAll (fm := fun _ => []) (by decide +kernel), onAll (fm := fun _ => Claims.reductionFormats (ow 0 2)) (by decide +kernel), by decide⟩

/-- ∞ + -∞ in one tree is a NaN of its own: the NaN trap is on, and the operator's own payload tagged lets it go on. -/
theorem witness_Reductions_nan : nanTrap trapS (ctV trapS (ow 12 0)).e.task = true ∧ (∀ c ∈ [132, 133], Claims.OnData trapS (ctV trapS (ow 12 0)) infP c [] false) ∧
    Claims.freshNan (ow 12 0) 12 [some 0x7F800000, some 0xFF800000] ∧ ¬ Claims.freshNan (ow 12 0) 12 [some 0x7F800000, none] ∧
    (Claims.operands (ctV trapS (ow 12 0)) infP 132 []).side.etag = false :=
  ⟨by decide +kernel, onAll (fm := fun _ => []) (by decide +kernel),
    ⟨by intro q h; simp only [List.mem_cons, Option.some.injEq, List.not_mem_nil, or_false] at h; rcases h with rfl | rfl <;> decide +kernel, by decide +kernel⟩,
    fun h => absurd h.2 (by decide +kernel), by decide +kernel⟩

/-- Under FMT 0 `movk`, `wrk` and `fsh` follow the packets of their stream. -/
theorem witness_RegisterOperators_streams : (∀ w ∈ [ow 5 1, ow 0 1], ∀ c ∈ [129, 130], Claims.OnData (opS decoded []) (ctV (opS decoded []) w) opP c fData false) ∧
    Claims.OnData (opS decoded []) (ctV (opS decoded []) (ow 0 1)) opP 137 (fData.filter (fun f => decide (1 < fmtElems f))) false := by
  refine ⟨?_, onData_sound (by decide +kernel)⟩
  intro w hw c hc
  have g : [ow 5 1, ow 0 1].all (fun w => [129, 130].all (fun c => onData (opS decoded []) (ctV (opS decoded []) w) opP c fData false)) = true := by decide +kernel
  exact onData_sound (List.all_eq_true.mp (List.all_eq_true.mp g w hw) c hc)

theorem witness_RegisterOperators : ∀ c ∈ [129, 130, 131, 137],
    Claims.OnData (opS OpSt.zero [(0, tok payB 0x0FF0)]) (ctV (opS OpSt.zero [(0, tok payB 0x0FF0)]) (ow 5 1)) opP c [] false :=
  onAll (fm := fun _ => []) (by decide +kernel)

/-- Three elements wait in k[0] for `pack`, of a packet whose last token this is. -/
def packOp : OpSt := { OpSt.zero with rem := 1, elems := 6, visited := 3 }

theorem witness_PackingOperators : (∀ c ∈ [138, 139, 140], Claims.OnData (opS packOp [(0, tok 7 7)]) (ctV (opS packOp [(0, tok 7 7)]) (ow 5 64)) opP c [] false) ∧
    fData ≠ [] ∧ Claims.OnData (opS packOp [(0, tok 7 7)]) (ctV (opS packOp [(0, tok 7 7)]) (ow 5 64)) opP 139 fData false ∧
    ctlOutputRoom (opS packOp [(0, tok 7 7)]) (siteEa 0 0) 0 1 = true ∧ packOp.visited < fmtElems 5 :=
  ⟨onAll (fm := fun _ => []) (by decide +kernel), by decide, onData_sound (by decide +kernel), by decide +kernel⟩

end Sys2Proof.Tests

namespace Sys2Proof.Tests

/-- A weight tile's read gave a tile, no line of which failed. -/
def okTile (r : State × TileRead) : Bool := match r.2 with | .tile _ f => !f | _ => false

theorem okTile_sound {r : State × TileRead} (h : okTile r = true) : ∃ t, r = (r.1, .tile t false) := by
  obtain ⟨s, y⟩ := r
  cases y with
  | tile t f => exact ⟨t, by cases f with | false => rfl | true => cases h⟩
  | header _ => cases h
  | range _ => cases h

/-- The store holds a tile of format 1, K 64, N 8 at line 32 + 3 of the front buffer; two rows of a packet are to come; rows 2 to 9 of bank 0 are the context's. -/
def mmaW : OpWord := ow 1 (2 * 3 + 2 ^ 17 * 3)
def mmaOp : OpSt := { OpSt.zero with hdr := some { tok (1 + 2 ^ 8 * 100 + 2 ^ 32 * 0x40000000) 0xFFFF with kind := .header }, rem := 2, visited := 1, elems := 36 }
def mmaS : State :=
  let s := (opS mmaOp []).modElem (siteEa 0 0) 0 (fun e => { e with bank := [(16, 961#32), (17, 2050#32)] })
  { s with ws := [(wsKey 0 0 35, BitVec.ofNat 512 (1 + 256 * 64 + 2 ^ 32 * 0x3F800000)), (wsKey 0 0 36, BitVec.ofNat 512 payA)] }

theorem witness_MatrixRows : (let v := ctV mmaS mmaW
      let sh := shapeOf v.w
      ∃ h, v.op.hdr = some h ∧ Claims.OnData mmaS v opP 192 [] false ∧ Claims.OnData mmaS v opP 193 [] false ∧ v.w.sa ≠ 5 ∧ 0 < v.op.rem ∧ sh.sc = false ∧
        Claims.inWindow v sh.bank (sh.row + v.op.visited) ∧ sh.col + sh.n ≤ 32 ∧ v.w.pg = 0 ∧ tabRising none mmaS.acs = true ∧
        (let r := readTile mmaS v sh h
         (∃ tile, r = (r.1, .tile tile false)) ∧ r.1.acs = mmaS.acs ∧ nanTrap r.1 v.e.task = false)) :=
  ⟨_, rfl, onData_sound (by decide +kernel), onData_sound (by decide +kernel), by decide +kernel, by decide +kernel, by decide +kernel,
    by unfold Claims.inWindow; decide +kernel, by decide +kernel, by decide +kernel, by decide +kernel,
    okTile_sound (by decide +kernel), by decide +kernel⟩

/-- A tile of format 1 is to be loaded, its header at A; a swap waits at the context. -/
def wsP : Pass := ports3 (tok (1 + 256 * 64) 0xFFFF) (tok payB 0xFFFF) (tok payA 0xFFFF)
def wsS (swaps : Nat) : State := ctS wsP (fun e => { e with bank := [(16, 961#32)], wsSwaps := swaps })

theorem witness_WeightStore : (∀ c ∈ [194, 195], Claims.OnData (wsS 0) (ctV (wsS 0) (ow 1 3)) wsP c [] false) ∧ (ow 1 3).pg = 0 ∧ tabRising none (wsS 0).ws = true ∧
    ((wsS 0).elem (siteEa 0 0) 0).wsSwaps = 0 ∧
    (let e := ((wsS 0).elem (siteEa 0 0) 0).applySwaps
     3 + (e.op 1).visited < e.wsLines ∧ tileHeaderBad (BitVec.ofNat 512 (1 + 256 * 64)) 1 (fmtElems 1) none none = none ∧ 3 + tileSize 1 (fmtElems 1) 8 ≤ e.wsLines) ∧
    tabRising none (wsS 1).elems = true ∧ 0 < ((wsS 1).elem (siteEa 0 0) 0).wsSwaps ∧ ((wsS 1).elem (siteEa 0 0) 0).packetUnderWay = false ∧
    tabRising none ((wsS 1).elem (siteEa 0 0) 0).bank = true :=
  ⟨onAll (fm := fun _ => []) (by decide +kernel), by decide, by decide +kernel⟩

/-- A fill is under way, two of its lines still to come; a swap waits, for the end of the fill. -/
def fillS (swaps : Nat) : State :=
  ctS wsP (fun e => { e with bank := placeBank 2 (194 * 2 ^ 55) [(12, 2), (16, 961)], wsSwaps := swaps, ops := [(1, { OpSt.zero with rem := 2, visited := 1 })] })

theorem witness_WeightStore_fills : Claims.OnData (fillS 0) (ctV (fillS 0) (ow 1 3)) wsP 194 [] false ∧ 0 < (ctV (fillS 0) (ow 1 3)).op.rem ∧
    tabRising none (fillS 0).ws = true ∧ 3 + ((fillS 0).elem (siteEa 0 0) 0 |>.op 1).visited < ((fillS 0).elem (siteEa 0 0) 0).wsLines ∧
    tabRising none (fillS 1).elems = true ∧ 0 < ((fillS 1).elem (siteEa 0 0) 0).wsSwaps ∧ ((fillS 1).elem (siteEa 0 0) 0).fillUnderWay = true ∧
    ((wsS 1).elem (siteEa 0 0) 0).fillUnderWay = false :=
  ⟨onData_sound (by decide +kernel), by decide +kernel⟩

/-- Rows 2 to 9 of both banks are the context's: two cleared, row 4 read and cleared, row 5 added to. -/
def accS : State :=
  (accSet (opS { OpSt.zero with visited := 1 } []) 0 0 4 3 77).modElem (siteEa 0 0) 0 (fun e => { e with bank := [(17, 2050#32), (18, 2050#32)] })

theorem witness_Accumulators : tabRising none accS.acs = true ∧ Claims.OnData accS (ctV accS (ow 5 (2 * 2 + 512 * 2))) opP 196 [] false ∧
    (∀ j < 2, Claims.inWindow (ctV accS (ow 5 (2 * 2 + 512 * 2))) 0 (2 + j)) ∧
    Claims.OnData accS (ctV accS (ow 5 (2 * 3 + 512 + 2048))) opP 197 [] false ∧
    (let v := ctV accS (ow 5 (2 * 3 + 512 + 2048))
     Claims.accRowOf v = 4 ∧ Claims.inWindow v (Claims.accBank v.w) (Claims.accRowOf v)) ∧
    Claims.OnData accS (ctV accS (ow 5 (1 + 2 * 5 + 2048))) opP 198 [] false ∧
    Claims.inWindow (ctV accS (ow 5 (1 + 2 * 5 + 2048))) 1 5 ∧ nanTrap accS (ctV accS (ow 5 0)).e.task = false :=
  ⟨by decide +kernel, onData_sound (by decide +kernel), by unfold Claims.inWindow; decide +kernel, onData_sound (by decide +kernel),
    by unfold Claims.inWindow; decide +kernel, onData_sound (by decide +kernel), by unfold Claims.inWindow; decide +kernel, by decide +kernel⟩

/-- Sources in the middle of their stream, at its end, between a record and its marker. -/
def srcS (n : Nat) (sel : Option Bool) : State :=
  let s := (opS { OpSt.zero with count := n, sel := sel } [(0, tok 7 7)]).modElem (siteEa 0 0) 0 (fun e => { e with task := some (aTask .running).uid })
  { s with launches := [aLaunch], tasks := [aTask .running] }
def freeW : OpWord := { ow 5 20 with sa := 7 }

theorem witness_Sources : (∀ c ∈ [384, 385, 386, 387], Claims.OnData (srcS 11 none) (ctV (srcS 11 none) freeW) opP c [] false) ∧
    (∀ t, (ctV (srcS 11 none) freeW).e.task.bind (srcS 11 none).task? = some t → t.phase ≠ .repairing) ∧ (ctV (srcS 11 none) freeW).op.repair = [] ∧
    11 < (taskShapeOf (srcS 11 none) (some (aTask .running).uid)).total ∧ 11 < (20#32).toNat % 2 ^ 16 ∧
    (∀ c ∈ [384, 385, 386, 387], Claims.OnData (srcS 24 none) (ctV (srcS 24 none) freeW) opP c [] false) ∧
    (taskShapeOf (srcS 24 none) (some (aTask .running).uid)).total ≤ 24 ∧
    Claims.OnData (srcS 12 (some true)) (ctV (srcS 12 (some true)) freeW) opP 384 [] false ∧
    ((taskShapeOf (srcS 12 (some true)) (some (aTask .running).uid)).mark 11).isSome = true ∧
    (∀ c ∈ [385, 386], Claims.OnData (srcS 3 none) (ctV (srcS 3 none) (ow 5 20)) opP c [] false) :=
  ⟨onAll (fm := fun _ => []) (by decide +kernel), (by
      intro t h
      have g : (ctV (srcS 11 none) freeW).e.task.bind (srcS 11 none).task? = some (aTask .running) := by decide +kernel
      rw [g] at h; cases h; exact fun h => nomatch h), by decide +kernel, by decide +kernel, by decide, onAll (fm := fun _ => []) (by decide +kernel), by decide +kernel,
    onData_sound (by decide +kernel), by decide +kernel, onAll (fm := fun _ => []) (by decide +kernel)⟩

/-- Object 5 expects three arrivals, has two, and stands at phase 41 while the operator awaits `ph`. -/
def syncS (arr : BitVec 24) (ph : Word) (sel : Option Bool) : State :=
  (opS { OpSt.zero with phase := some ph, sel := sel } []).setBarrier 5 { Barrier.reset with exp := 3, en := true, arr := arr, phase := 41 }

theorem witness_BarrierOperators : (∀ c ∈ [388, 389, 390], Claims.OnData (syncS 2 41 none) (ctV (syncS 2 41 none) (ow 5 5)) opP c [] false) ∧
    syncObject (syncS 2 41 none) (ctV (syncS 2 41 none) (ow 5 5)) = 5 ∧ Claims.Free (syncS 2 41 none) 5 1 ∧
    Claims.done (Claims.counted ((syncS 2 41 none).barrier 5) 1).phase 41 ∧ ¬ Claims.done (Claims.counted ((syncS 1 41 none).barrier 5) 1).phase 41 ∧
    Claims.OnData (syncS 0 40 (some true)) (ctV (syncS 0 40 (some true)) (ow 5 5)) opP 389 [] false ∧ Claims.Free (syncS 0 40 (some true)) 5 0 ∧
    Claims.done ((syncS 0 40 (some true)).barrier 5).phase 40 ∧ ¬ Claims.done ((syncS 2 41 none).barrier 5).phase 41 :=
  ⟨onAll (fm := fun _ => []) (by decide +kernel), by decide +kernel, by unfold Claims.Free; decide +kernel, by unfold Claims.done; decide +kernel,
    by unfold Claims.done; decide +kernel, onData_sound (by decide +kernel), by unfold Claims.Free; decide +kernel, by unfold Claims.done; decide +kernel,
    by unfold Claims.done; decide +kernel⟩

/-- Channel 0x8001 leads group 3 of partition 0 with a sum that its reference has or has not; its failed check withholds object 5. -/
def monS (sum : BitVec 320) (sel : Option Bool) : State :=
  let s := (opS { OpSt.zero with sel := sel } []).setChannel 0x8001 { Channel.reset with cfg := BitVec.ofNat 32 (1 + 128 + 256 * 3), sum := sum }
  s.setBarrier 5 { Barrier.reset with exp := 3, en := true, arr := 3, phase := 41, pending := [3] }

theorem witness_MonitorChecks : (∀ x ∈ [0, 5], Claims.OnData (monS x none) (ctV (monS x none) (ow 5 3)) opP 391 [] false) ∧
    (checkGroup (monS 0 none) 0 3 0xFFFF 0 none).2 = true ∧ (checkGroup (monS 5 none) 0 3 0xFFFF 0 none).2 = false ∧
    partOfSite (monS 0 none) 0 = 0 ∧ Claims.OnData (monS 0 (some true)) (ctV (monS 0 (some true)) (ow 5 3)) opP 391 [] false ∧
    (∃ l, mcackGroup (monS 5 none) 0x8001 = some (0, 3, l) ∧ groupWaiters l = []) ∧ withheldBy (monS 5 none) 0 3 = [5] ∧ tasksWaiting (monS 5 none) 5 = [] ∧
    tabRising none (monS 5 none).barriers = true ∧ ((monS 5 none).barrier 5).pending = [3] ∧ mcackGroup (monS 5 none) 0x8002 = none :=
  ⟨(by intro x h
       have g : [0#320, 5#320].all (fun x => onData (monS x none) (ctV (monS x none) (ow 5 3)) opP 391 [] false) = true := by decide +kernel
       exact onData_sound (List.all_eq_true.mp g x h)), by decide +kernel, by decide +kernel, by decide +kernel, onData_sound (by decide +kernel),
    ⟨_, rfl, by decide +kernel⟩, by decide +kernel⟩

/-- A `mchk` of another context waits on the group, which withholds no object. -/
def waitS : State :=
  State.reset.setChannel 0x8001 { Channel.reset with cfg := BitVec.ofNat 32 (1 + 128 + 256 * 3), sum := 5, waiters := [(elemKey (siteEa 1 0) 2 * 64 + 3, 7)] }

theorem witness_MonitorChecks_waiters : (∃ l, mcackGroup waitS 0x8001 = some (0, 3, l) ∧ groupWaiters l = [(elemKey (siteEa 1 0) 2 * 64 + 3, 7)]) ∧
    withheldBy waitS 0 3 = [] ∧ tabRising none waitS.elems = true ∧ (waitS.elem (siteEa 1 0) 2).task = none :=
  ⟨⟨_, rfl, by decide +kernel⟩, by decide +kernel⟩

/-- A bucket of period 0: its level in lane 2, the need 1 as CAP in lane 1 is at least 1. -/
def capS (level : Nat) : State := opS OpSt.zero [(0, tok (2 ^ 32 * 65536 * 4 + 2 ^ 64 * level) 0xFFFF)]

theorem witness_CapacityBuckets : (∀ x ∈ [0, 3], Claims.OnData (capS x) (ctV (capS x) (ow 5 (2 ^ 16 * 2 + 2 ^ 18 + 2 ^ 20 + 2 ^ 21))) opP 392 fData false) ∧
    Claims.capLevel (capS 3) (ctV (capS 3) (ow 5 0)) = 3 ∧ Claims.capLevel (capS 0) (ctV (capS 0) (ow 5 0)) = 0 ∧
    min 1 (laneNat ((ctV (capS 0) (ow 5 0)).e.getK 0).pay 1 / 2 ^ 16) = 1 ∧ ctlOutputRoom (capS 3) (siteEa 0 0) 0 1 = true ∧ outputRoom (capS 0) (siteEa 0 0) 0 2 = true ∧
    Claims.OnData (capS 0) (ctV (capS 0) (ow 5 0)) opP 392 fData false ∧
    Claims.OnData (opS decoded []) (ctV (opS decoded []) (ow 0 0)) opP 392 fData false ∧
    (let e := ((capS 3).modElem (siteEa 0 0) 0 (fun e => { e with bank := placeBank 2 (392 * 2 ^ 55) [(12, 2)] })).elem (siteEa 0 0) 0
     opcodeOf (e.stageWord 1) = 392 ∧ e.stageOn 1 = true) ∧ tabRising none (capS 3).elems = true :=
  ⟨(by intro x h
       have g : [0, 3].all (fun x => onData (capS x) (ctV (capS x) (ow 5 (2 ^ 16 * 2 + 2 ^ 18 + 2 ^ 20 + 2 ^ 21))) opP 392 fData false) = true := by decide +kernel
       exact onData_sound (List.all_eq_true.mp g x h)), by decide +kernel, by decide +kernel, by decide +kernel, by decide +kernel, by decide +kernel,
    onData_sound (by decide +kernel), onData_sound (by decide +kernel), by decide +kernel⟩

/-- A request whole, one with a lane missing, one tagged. -/
def spawnP (mask : BitVec 16) (tag : Bool) : Pass := ports3 { tok payA mask with etag := tag } (tok payB 0xFFFF) (tok payA 0xFFFF)
def spawnS (mask : BitVec 16) (tag : Bool) : State :=
  { ctS (spawnP mask tag) (fun e => { e with task := some (aTask .running).uid }) with launches := [{ aLaunch with cbsh := 9 }], tasks := [aTask .running] }

theorem witness_SpawnRequests : Claims.OnData (spawnS 0xFFFF false) (ctV (spawnS 0xFFFF false) (ow 5 0)) (spawnP 0xFFFF false) 393 [] false ∧
    Claims.OnData (spawnS 1 false) (ctV (spawnS 1 false) (ow 5 0)) (spawnP 1 false) 393 [] false ∧
    Claims.OnData (spawnS 1 true) (ctV (spawnS 1 true) (ow 5 0)) (spawnP 1 true) 393 [] false ∧
    elemValid 0xFFFF#16 64 0 = true ∧ elemValid 0xFFFF#16 64 1 = true ∧ elemValid 1#16 64 0 = false ∧
    (ctV (spawnS 0xFFFF false) (ow 5 0)).e.task.bind (spawnS 0xFFFF false).task? = some (aTask .running) ∧ (aTask .running).wthrough = false ∧
    cbFull (spawnS 0xFFFF false) (aTask .running) (siteSaveMt 0).toNat = false :=
  ⟨onData_sound (by decide +kernel), onData_sound (by decide +kernel), onData_sound (by decide +kernel), by decide, by decide, by decide, by decide +kernel⟩

/-- A task whose effects are performed at once, with a commit buffer that has no room. -/
theorem witness_SpawnRequests_through : let t := { aTask .running with wthrough := true }
    let s : State := { spawnS 0xFFFF false with tasks := [t], launches := [{ aLaunch with cbsh := 0 }] }
    Claims.OnData s (ctV s (ow 5 0)) (spawnP 0xFFFF false) 393 [] false ∧ (ctV s (ow 5 0)).e.task.bind s.task? = some t ∧ t.wthrough = true :=
  ⟨onData_sound (by decide +kernel), by decide +kernel⟩

end Sys2Proof.Tests

/-! ## Slots of a router -/

namespace Sys2Proof.Tests

/-- Slot 0 of router 0 with opcode `code`, tokens at its data inputs, control tokens at its control inputs. -/
def slotW (imm : Nat) : OpWord := ow 5 (BitVec.ofNat 32 imm)
def slotS (code imm : Nat) (data : List Token) (ctl : List (Nat × Ctl)) (op : OpSt) : State :=
  let s := State.reset.modElem (siteEa 0 1) 0 (fun e =>
    let e := { e with bank := placeBank 20 (opWord64 code (slotW imm)).toNat [(22, 31 * 32)], ops := [(16, op)] }
    let e := data.zipIdx.foldl (fun e p => e.setQueue (16 + p.2) [p.1]) e
    ctl.foldl (fun e p => e.setCtlQueue (16 + p.1) [p.2]) e)
  { s with focus := .slot (siteEa 0 1) 0 0 }
def slotV (s : State) (imm : Nat) : SlotView := slotView s 0 0 0 (slotW imm)

/-- What `Claims.SlotReady` asks for, as one value. -/
def slotReady (s : State) (v : SlotView) : Bool :=
  decide (s.focus = .slot (siteEa 0 1) v.ctx v.n) && v.r.released && !v.r.stopped && !v.op.cut && v.inputs.all (fun p => !v.cutHere p) &&
    !(v.r.queue (slotKey v.n 0)).any (fun t => t.kind == .cut)

theorem slotReady_sound {s : State} {imm : Nat} (h : slotReady s (slotV s imm) = true) : Claims.SlotReady s (slotV s imm) := by
  simp only [slotReady, Bool.and_eq_true, decide_eq_true_eq, Bool.not_eq_true', List.all_eq_true] at h
  obtain ⟨⟨⟨⟨⟨h1, h2⟩, h3⟩, h4⟩, h5⟩, h6⟩ := h
  exact { focus := ⟨siteEa 0 1, h1, (show eaSite (siteEa 0 1) = 0 by decide)⟩, view := rfl, released := h2, running := h3, uncut := h4, markers := h5, first := h6 }

def dataT : Token := { tok payA 0xFFFF with seq := 4 }
def hdrT : Token := { tok (5 + 2 ^ 8 * 9) 0xFFFF with kind := .header }
def markT (level : Nat) : Token := { Token.zero with kind := .marker, level := BitVec.ofNat 3 level }

/-- The slot is ready, control input 3 has c, and each input its token. -/
def scene (code imm : Nat) (data : List Token) (ctl : List (Nat × Ctl)) (op : OpSt) : Bool :=
  let s := slotS code imm data ctl op
  let v := slotV s imm
  slotReady s v && data.zipIdx.all (fun p => v.data p.2 == some p.1) && ctl.all (fun p => v.ctl p.1 == some p.2)

theorem scene_sound {code imm : Nat} {data : List Token} {ctl : List (Nat × Ctl)} {op : OpSt} (h : scene code imm data ctl op = true) :
    Claims.SlotReady (slotS code imm data ctl op) (slotV (slotS code imm data ctl op) imm) ∧
    (∀ p ∈ data.zipIdx, (slotV (slotS code imm data ctl op) imm).data p.2 = some p.1) ∧
    ∀ p ∈ ctl, (slotV (slotS code imm data ctl op) imm).ctl p.1 = some p.2 := by
  simp only [scene, Bool.and_eq_true, List.all_eq_true, beq_iff_eq] at h
  exact ⟨slotReady_sound h.1.1, h.1.2, h.2⟩

def yes : Ctl := ctlTok true false
def no : Ctl := ctlTok false false
def both : Ctl := ctlTok false true
def inPacket (sel : Option Bool) : OpSt := { OpSt.zero with rem := 2, sel := sel }

/-- A record, a token inside a packet, a marker at `steer`, `merge` and `gate` of each kind. -/
theorem witness_RecordSlots : (scene 256 0 [dataT] [(3, no)] OpSt.zero = true ∧ scene 256 0 [hdrT] [(3, yes)] OpSt.zero = true ∧
      scene 256 0 [dataT] [] (inPacket (some true)) = true ∧ scene 256 0 [markT 7] [(3, both)] OpSt.zero = true) ∧
    (scene 257 0 [dataT, dataT] [(3, yes)] OpSt.zero = true ∧ scene 257 0 [dataT, dataT] [] (inPacket none) = true ∧
      scene 257 0 [markT 2, markT 2] [(3, both)] OpSt.zero = true) ∧
    (scene 262 2 [dataT] [(3, yes)] OpSt.zero = true ∧ scene 262 2 [dataT] [(3, no)] OpSt.zero = true ∧ scene 262 1 [dataT, dataT] [] OpSt.zero = true ∧
      scene 262 1 [markT 2, markT 2] [] OpSt.zero = true ∧ scene 262 0 [dataT] [] (inPacket (some false)) = true) ∧
    ((slotW 2).imm.getLsbD 0 = false ∧ (slotW 2).imm.getLsbD 1 = true ∧ (slotW 1).imm.getLsbD 0 = true ∧ (slotW 1).imm.getLsbD 1 = false) ∧
    (slotV (slotS 256 0 [dataT] [(3, no)] OpSt.zero) 0).op.rem = 0 ∧ (slotV (slotS 256 0 [dataT] [] (inPacket (some true))) 0).op.rem = 2 ∧
    slotRoom (slotS 256 0 [dataT] [(3, no)] OpSt.zero) (slotV (slotS 256 0 [dataT] [(3, no)] OpSt.zero) 0)
      (Claims.slotDoes OpSt.zero [0] [3] [(1, dataT)] [] []) = true := by decide +kernel

theorem witness_ControlSlots : (∀ c ∈ [260, 261], scene c 0 [dataT] [] OpSt.zero = true ∧ scene c 1 [] [(3, yes)] OpSt.zero = true) ∧
    (∀ c ∈ [263, 264, 265], scene c 0 [] [(0, yes), (1, no)] OpSt.zero = true) ∧ scene 266 1 [dataT] [] OpSt.zero = true ∧
    scene 266 1 [markT 3] [] OpSt.zero = true ∧ hdrOk hdrT = true ∧ (slotW 1).fmt ≠ 0 := by decide +kernel

/-- `cgen` with FMT 0 at a header and inside the packet. -/
def cgenS (t : Token) (op : OpSt) : State :=
  { State.reset.modElem (siteEa 0 1) 0 (fun e => { e with bank := placeBank 20 (opWord64 266 (ow 0 1)).toNat [], ops := [(16, op)], inq := [(16, [t])] }) with
    focus := .slot (siteEa 0 1) 0 0 }

theorem witness_ControlSlots_headers : (ow 0 1).fmt = 0 ∧ (slotView (cgenS hdrT OpSt.zero) 0 0 0 (ow 0 1)).data 0 = some hdrT ∧
    slotReady (cgenS hdrT OpSt.zero) (slotView (cgenS hdrT OpSt.zero) 0 0 0 (ow 0 1)) = true ∧
    (slotView (cgenS dataT decoded) 0 0 0 (ow 0 1)).data 0 = some dataT ∧ 0 < decoded.rem ∧ decoded.seen = true ∧
    slotReady (cgenS dataT decoded) (slotView (cgenS dataT decoded) 0 0 0 (ow 0 1)) = true := by decide +kernel

def inMode (m : LoopState) (held : Option Token) : OpSt := { OpSt.zero with mode := m, held := held }

/-- Every state of a loop, the second data input being the loop body's. -/
theorem witness_LoopSlots : (scene 258 8 [dataT] [] OpSt.zero = true ∧ scene 258 8 [dataT, dataT] [(3, yes)] (inMode .loop none) = true ∧
      scene 258 8 [dataT, dataT] [(3, no)] (inMode .loop none) = true ∧ scene 258 8 [dataT, markT 0] [(3, both)] (inMode .fibre none) = true ∧
      scene 258 8 [markT 2] [] OpSt.zero = true ∧ scene 258 8 [markT 7] [] OpSt.zero = true ∧ scene 258 8 [dataT, markT 7] [(3, both)] (inMode .drain none) = true) ∧
    (scene 259 8 [dataT] [] OpSt.zero = true ∧ scene 259 8 [markT 2] [] OpSt.zero = true ∧ scene 259 8 [] [(3, yes)] (inMode .hold (some dataT)) = true ∧
      scene 259 8 [] [(3, no)] (inMode .hold (some dataT)) = true) ∧ dataT.etag = false ∧ Claims.wrongTag yes = false ∧ OpSt.zero.mode = .idle := by decide +kernel

theorem witness_TournAndDigest : scene 269 3 [dataT] [] OpSt.zero = true ∧ scene 269 3 [markT 7] [] OpSt.zero = true ∧ (slotW 3).imm.getLsbD 4 = false ∧
    scene 270 9 [dataT] [(3, yes)] OpSt.zero = true ∧ scene 270 9 [markT 7] [(3, both)] OpSt.zero = true ∧
    (slotV (slotS 270 9 [dataT] [(3, yes)] OpSt.zero) 9).r.slotLink 0 1 = 31 := by decide +kernel

/-- A commute group of one member with a waiting slot and another, or a complete one. -/
def slotX (st : SlotState) : KSlot := { tok := dataT, state := st, hole := false, since := 0, turn := 0, owed := [], back := false }
def kelpS (data : List Token) (k : Kelp) : State := (slotS 267 0 data [] OpSt.zero).modElem (siteEa 0 1) 0 (fun e => { e with kelp := { k with started := true } })
def kelpV (data : List Token) (k : Kelp) : SlotView := slotV (kelpS data k) 0

theorem witness_CommuteGroups : scene 267 1 [] [] OpSt.zero = true ∧
    (slotReady (kelpS [dataT] Kelp.zero) (kelpV [dataT] Kelp.zero) = true ∧ (kelpV [dataT] Kelp.zero).data 0 = some dataT ∧
      (kelpV [dataT] Kelp.zero).r.kStore.slots = [] ∧ (∀ m < (kelpV [dataT] Kelp.zero).r.kMembers, returnOf (kelpV [dataT] Kelp.zero) (kelpV [dataT] Kelp.zero).r.kStore m = .none_) ∧
      (kelpV [dataT] Kelp.zero).op.sel ≠ some true) ∧
    (let k := { Kelp.zero with slots := [slotX .waiting] }
     let v := kelpV [] k
     slotReady (kelpS [] k) v = true ∧ v.r.queue (slotKey 0 0) = [] ∧ v.r.kStore.slots = [slotX .waiting] ∧
     (∀ m < v.r.kMembers, returnOf v v.r.kStore m = .none_) ∧
     (remaining v.r dataT.done).filter (memberRoom (kelpS [] k) v) = [0] ∧
     ((setKelp (memberSend (kelpS [] k) v dataT 0) v v.r.kStore).elem (siteEa 0 1) 0).queue (slotKey 0 0) = []) ∧
    (let k := { Kelp.zero with slots := [slotX .complete] }
     let s := (slotS 268 0 [] [] OpSt.zero).modElem (siteEa 0 1) 0 (fun e => { e with kelp := { k with started := true } })
     let v := slotV s 0
     slotReady s v = true ∧ v.r.kStore.slots = [slotX .complete] ∧ (kelpHead v.r).elim false (fun n => (v.r.op (16 + n)).sel == some true) = false ∧
     slotRoom s v (Claims.slotDoes v.op [] [] [(0, { dataT with done := 0 })] [(1, { v := true, b := false, par := true, fin := false, cut := false })] []) = true) :=
  by decide +kernel

/-- No return has come: the group notes none. -/
theorem witness_CommuteGroups_returns : let k := { Kelp.zero with slots := [slotX .waiting] }
    noteReturns (kelpS [] k) (kelpV [] k) = kelpS [] k := by decide +kernel

end Sys2Proof.Tests

/-! ## Address-generator nodes -/

namespace Sys2Proof.Tests

/-- AGN0 of the memory tile D0.Y00.X04 with word w of opcode `code`, bound to LOCAL with window 0x400 to 0x1400, tokens at its inputs. -/
def nodeW (fmt imm : Nat) : OpWord := { ow (BitVec.ofNat 4 fmt) (BitVec.ofNat 32 imm) with dst := 1, kidx := 2 }
/-- A site whose reads are not reconstructed (R204: RECEN clear). -/
def reconOff : Site := { Site.reset with ax := { Site.reset.ax with bpctl := 0x0000402A#32 } }
def nodeS (code fmt imm : Nat) (data : List Token) (op : OpSt) : State :=
  let s := State.reset.modElem (siteEa 4 0) 0 (fun e =>
    let e := { e with bank := placeBank 0 (opWord64 code (nodeW fmt imm)).toNat [(8, 0x40), (12, 0x400), (15, 0x1000)], ops := [(32, op)] }
    data.zipIdx.foldl (fun e p => e.setQueue p.2 [p.1]) e)
  { s with spad := memSetNat [] (bankKey 4 (bankOf 0 0x480) (rowOf 0x480)) 8 0x4C0, focus := .agn (siteEa 4 0) 0 0, sites := [(4, reconOff)] }
def nodeV (s : State) (code fmt imm : Nat) : AgnView := agnView s 4 0 0 (nodeW fmt imm) code

theorem recon_clean (s : State) (h : s.sites = [(4, reconOff)]) : Claims.Clean s 4 := by
  have e : axOf s 4 = reconOff.ax := by unfold axOf State.site; rw [h]; rfl
  refine ⟨by rw [h]; rfl, fun g => ?_, fun b r => ?_, ?_⟩
  · unfold retiredOf; rw [e]; rfl
  · unfold rowError; rw [e]; rfl
  · rw [e]; rfl

/-- The node has the focus, is live, and each of its inputs has a token of data. -/
def nodeLive (s : State) (v : AgnView) : Bool := decide (s.focus = .agn v.ea v.ctx v.n) && decide (eaSite v.ea = v.site) && agnLive s v && decide (v.op.fault = none)
def nodeReady (s : State) (v : AgnView) (ts : List Token) : Bool :=
  nodeLive s v && decide ((agnInputs v).map (fun p => (v.e.queue p).head?) = ts.map some) && ts.all (fun t => decide (t.kind = .data))

theorem nodeLive_sound {s : State} {code fmt imm : Nat} (h : nodeLive s (nodeV s code fmt imm) = true) : Claims.NodeLive s (nodeV s code fmt imm) code := by
  simp only [nodeLive, Bool.and_eq_true, decide_eq_true_eq] at h
  exact { focus := h.1.1.1, site := h.1.1.2, view := rfl, live := h.1.2, fault := h.2 }

theorem nodeReady_sound {s : State} {code fmt imm : Nat} {ts : List Token} (h : nodeReady s (nodeV s code fmt imm) ts = true) :
    Claims.NodeReady s (nodeV s code fmt imm) code ts := by
  simp only [nodeReady, Bool.and_eq_true, decide_eq_true_eq, List.all_eq_true] at h
  exact { toNodeLive := nodeLive_sound h.1.1, heads := h.1.2, data := h.2 }

/-- Tokens with one address, in element i, and with two. -/
def addrT (i a : Nat) : Token := tok (a * 2 ^ (64 * i)) (BitVec.ofNat 16 (3 * 4 ^ i))
def addrT2 (a b : Nat) : Token := tok (a + b * 2 ^ 64) 15

/-- The node states are clean. -/
theorem node_clean (code fmt imm : Nat) (data : List Token) (op : OpSt) : Claims.Clean (nodeS code fmt imm data op) 4 := recon_clean _ rfl

/-- A node that has taken nothing of a request stands at its start. -/
theorem node_fresh : Claims.Fresh OpSt.zero := ⟨rfl, rfl, rfl, rfl⟩

def follows (ptr : Nat) : OpSt := { OpSt.zero with held := some (addrT 0 0x480), ptr := some ptr }

theorem witness_NodeLoads : (let a := addrT 0 0x480
      nodeReady (nodeS 320 5 0 [a] OpSt.zero) (nodeV (nodeS 320 5 0 [a] OpSt.zero) 320 5 0) [a] = true ∧ addrElem a 0 = some 0x480 ∧ a.etag = false ∧
      Claims.Allowed (nodeS 320 5 0 [a] OpSt.zero) (nodeV (nodeS 320 5 0 [a] OpSt.zero) 320 5 0) 0x480 64 64 ∧
      (nodeV (nodeS 320 5 0 [a] OpSt.zero) 320 5 0).fromBase = false ∧ (nodeV (nodeS 320 5 0 [a] OpSt.zero) 320 5 0).imm 16 2 = 0 ∧
      nodeReady (nodeS 322 5 0 [a] OpSt.zero) (nodeV (nodeS 322 5 0 [a] OpSt.zero) 322 5 0) [a] = true ∧ (∀ i < 8, ∀ x ∈ addrElem a i, x = 0x480) ∧
      Claims.Allowed (nodeS 322 5 0 [a] OpSt.zero) (nodeV (nodeS 322 5 0 [a] OpSt.zero) 322 5 0) 0x480 4 4 ∧
      nodeReady (nodeS 324 7 (3 * 2 ^ 16) [a] OpSt.zero) (nodeV (nodeS 324 7 (3 * 2 ^ 16) [a] OpSt.zero) 324 7 (3 * 2 ^ 16)) [a] = true) ∧
    (∀ p ∈ [0, 0x480], let s := nodeS 324 7 (3 * 2 ^ 16) [] (follows p)
      let v := nodeV s 324 7 (3 * 2 ^ 16)
      nodeLive s v = true ∧ cutHead v.e v.w.sa.toNat = false ∧ v.port = 0 ∧ v.op.held = some (addrT 0 0x480) ∧ v.op.visited < v.imm 16 16) ∧
    (let s := nodeS 324 7 (3 * 2 ^ 16) [] (follows 0x480)
     let v := nodeV s 324 7 (3 * 2 ^ 16)
     0 < v.op.ptr.getD 0 ∧ 0 ≤ (v.op.ptr.getD 0 : Int) + v.offl ∧ Claims.Allowed s v (v.op.ptr.getD 0 + v.offl).toNat 64 64) := by
  unfold Claims.Allowed
  decide +kernel

theorem witness_NodeStores : (let t := addrT 0 0x480
      let d := tok payA 0x0FFF
      let s := nodeS 321 5 0 [t, d] OpSt.zero
      nodeReady s (nodeV s 321 5 0) [t, d] = true ∧ Claims.Allowed s (nodeV s 321 5 0) 0x480 64 64 ∧ memWf s.spad = true ∧ t.etag = false ∧ d.etag = false ∧
      (nodeV s 321 5 0).fromBase = false) ∧
    (let t := addrT 3 0x484
     let d := tok payA 0x0FFF
     let s := nodeS 323 5 0 [t, d] OpSt.zero
     nodeReady s (nodeV s 323 5 0) [t, d] = true ∧ elemValid d.mask 32 3 = true ∧ addrElem t 3 = some 0x484 ∧ Claims.Allowed s (nodeV s 323 5 0) 0x484 4 4) ∧
    (let t := addrT 3 0x484
     let d := tok payA 0x0FFF
     let s := nodeS 325 5 4 [t, d] OpSt.zero
     nodeReady s (nodeV s 325 5 4) [t, d] = true ∧ (nodeV s 325 5 4).imm 0 4 = 4 ∧ addrElem t 3 = some 0x484 ∧ (∀ j < 8, j ≠ 3 → addrElem t j = none) ∧
     elemValid d.mask 32 3 = true ∧ Claims.Allowed s (nodeV s 325 5 4) 0x484 4 4) ∧
    (let t := addrT 3 0x484
     let d := tok payA 0x0FFF
     let s := nodeS 325 5 6 [t, d, d] OpSt.zero
     nodeReady s (nodeV s 325 5 6) [t, d, d] = true ∧ (nodeV s 325 5 6).imm 0 4 = 6) := by
  unfold Claims.Allowed
  decide +kernel

/-- A table of 2^5 slots at 0x400, 3 of which are tried; the first slot of key k holds k, or is empty. -/
def probeImm (mode : Nat) : Nat := mode + 4 * 5 + 128 * 3
def probeS (mode key held : Nat) (data : List Token) : State :=
  let s := nodeS 327 7 (probeImm mode) data OpSt.zero
  let a := 0x400 + 16 * (Claims.firstSlot (nodeV s 327 7 (probeImm mode)) key)
  { s with spad := memSetNat (memSetNat [] (bankKey 4 (bankOf 0 a) (rowOf a) + a % 64) 8 held) (bankKey 4 (bankOf 0 (a + 8)) (rowOf (a + 8)) + (a + 8) % 64) 8 55 }

theorem probe_clean (mode key held : Nat) (data : List Token) : Claims.Clean (probeS mode key held data) 4 := recon_clean _ rfl

def packetOp (rem : Nat) : OpSt :=
  { OpSt.zero with hdr := some { tok (5 + 2 ^ 8 * 9) 0xFFFF with kind := .header }, rem := rem, level := 64, visited := 1, seen := true, sel := some true, elems := 9 }

theorem witness_NodeTables : (let t := addrT2 0x480 0x500
      let s := nodeS 329 5 1 [t] OpSt.zero
      let v := nodeV s 329 5 1
      nodeReady s v [t] = true ∧ v.imm 0 16 = 1 ∧ v.imm 16 2 = 0 ∧ v.imm 18 2 = 0 ∧ addrElem t 0 = some 0x480 ∧ addrElem t 1 = some 0x500 ∧
      Claims.Allowed s v 0x480 64 64 ∧ Claims.Allowed s v 0x500 64 64 ∧ v.fromBase = false ∧ memWf s.spad = true) ∧
    (let t := addrT 2 99
     let d := tok payA 0xFFFF
     addrElem t 2 = some 99 ∧ (∀ j < 8, j ≠ 2 → addrElem t j = none) ∧ elemValid d.mask 64 2 = true ∧
     (let s := probeS 0 99 99 [t]
      let v := nodeV s 327 7 (probeImm 0)
      nodeReady s v [t] = true ∧ Claims.tileNat s v (v.base + 16 * Claims.firstSlot v 99) 8 = 99 ∧ inRange s 4 (v.base + 16 * Claims.firstSlot v 99) 16 = true ∧ 0 < v.imm 7 8) ∧
     (let s := probeS 0 99 0x8000000000000000 [t]
      let v := nodeV s 327 7 (probeImm 0)
      nodeReady s v [t] = true ∧ Claims.tileNat s v (v.base + 16 * Claims.firstSlot v 99) 8 = 0x8000000000000000) ∧
     (let s := probeS 1 99 0x8000000000000000 [t, d]
      nodeReady s (nodeV s 327 7 (probeImm 1)) [t, d] = true) ∧
     (let s := probeS 2 99 99 [t, d]
      let v := nodeV s 327 7 (probeImm 2)
      nodeReady s v [t, d] = true ∧ v.imm 0 2 = 2 ∧ memWf s.spad = true)) ∧
    (let t := addrT2 0x480 256
     let d := tok payA 0x0FFF
     let h := { tok (5 + 2 ^ 8 * 9) 0xFFFF with kind := .header }
     (let s := nodeS 328 5 0 [t, h] OpSt.zero
      let v := nodeV s 328 5 0
      nodeLive s v = true ∧ hdrOk h = true ∧ 0 < hdrTokens h ∧ elemNat t.pay 64 1 = 256 ∧ Claims.Allowed s v 0x480 256 64 ∧ (v.e.queue 1).head? = some h) ∧
     ∀ rem ∈ [1, 2], let s := nodeS 328 5 0 [t, d] (packetOp rem)
       let v := nodeV s 328 5 0
       nodeLive s v = true ∧ (v.e.queue 0).head? = some t ∧ (v.e.queue 1).head? = some d ∧ Claims.Allowed s v 0x480 256 64 ∧ v.op.rem = rem ∧
       v.op.level + (4 + 4 * ((List.range 16).filter (maskBit d.mask)).length) ≤ 256) := by
  unfold Claims.Allowed
  decide +kernel

/-- `xlat` of 0x1008 for reading: nothing cached; cached; the token held; a result waiting. -/
def xlatS (op : OpSt) (cached : Bool) : State :=
  let s := (mapped (fun q => q)).modElem (siteEa 4 0) 0 (fun e =>
    { e with bank := placeBank 0 (opWord64 326 (nodeW 7 0)).toNat [(8, 0x40), (15, 0x1000)], ops := [(32, op)], inq := [(0, [addrT 0 0x1008])] })
  let s := { s with focus := .agn (siteEa 4 0) 0 0 }
  if cached then (tileXlat s 4 0 0x1008 readIntent).1 else s
def xlatV (op : OpSt) (cached : Bool) : AgnView := nodeV (xlatS op cached) 326 7 0

/-- A translation of the tile's cache ended in an address of a size below 8. -/
def okXlat (r : State × XOut) : Bool := match r.2 with | .ok y => decide (y.sz < 8) | _ => false

theorem okXlat_sound {r : State × XOut} (h : okXlat r = true) : ∃ u y, r = (u, .ok y) ∧ y.sz < 8 := by
  obtain ⟨u, y⟩ := r
  cases y with
  | ok y => exact ⟨u, y, rfl, by simpa [okXlat] using h⟩
  | wait => cases h
  | fail _ => cases h

theorem witness_NodeTranslations : (nodeReady (xlatS OpSt.zero false) (xlatV OpSt.zero false) [addrT 0 0x1008] = true ∧
      tlbHits ((xlatS OpSt.zero false).site 4).xtc 0 0x1008 = [] ∧ (xlatV OpSt.zero false).part (xlatS OpSt.zero false) = 0 ∧ (xlatV OpSt.zero false).fromBase = false) ∧
    (nodeReady (xlatS OpSt.zero true) (xlatV OpSt.zero true) [addrT 0 0x1008] = true ∧ (tlbHits ((xlatS OpSt.zero true).site 4).xtc 0 0x1008).length = 1 ∧
      (∀ e ∈ tlbHits ((xlatS OpSt.zero true).site 4).xtc 0 0x1008, e.serves readIntent = true) ∧ ((xlatS OpSt.zero true).part 0).pxen = true) ∧
    (∃ u y, tileXlat (xlatS OpSt.zero true) 4 0 0x1008 readIntent = (u, .ok y) ∧ y.sz < 8) ∧
    (let op := { OpSt.zero with held := some (addrT 0 0x1008) }
     (xlatV op false).op.held = some (addrT 0 0x1008) ∧ nodeLive (xlatS op false) (xlatV op false) = true ∧ siteExists 4 = true ∧ siteIsMt 4 = true ∧
     opcodeOf ((xlatV op false).e.agnWord 0) = 326 ∧ OpWord.ofBits ((xlatV op false).e.agnWord 0) = (xlatV op false).w ∧
     ∃ u y, tileXlat (xlatS op false) 4 0 0x1008 readIntent = (u, .ok y) ∧ y.sz < 8) ∧
    (let op := { OpSt.zero with res := [(1, dataT)] }
     (xlatV op false).op.res = [(1, dataT)] ∧ outputRoom (xlatS op false) (xlatV op false).ea 0 1 = true ∧ nodeLive (xlatS op false) (xlatV op false) = true) :=
  ⟨by decide +kernel, by decide +kernel, okXlat_sound (by decide +kernel),
    ⟨by decide +kernel, by decide +kernel, by decide +kernel, by decide +kernel, by decide +kernel, by decide +kernel, okXlat_sound (by decide +kernel)⟩, by decide +kernel⟩

/-! ## Streams of a stage -/

/-- Tokens a, b and c before stage 1; what `Claims.Stands` asks for, as one value. -/
def streamS (a b c : Token) (gate : List Ctl) : State := ctS (ports3 a b c) (fun e => e.setCtlQueue (gateIndex e 1) gate)

def stands (s : State) (v : View) (p : Pass) (code : Nat) : Bool :=
  decide (s.focus = .stage v.ea v.ctx) && decide (v.e = s.elem v.ea v.ctx) && decide (v.n = p.stage) && decide (v.op = v.e.op v.n) &&
  decide (v.e.pass = some p) && !v.e.stopped && v.op.res.isEmpty && !(v.op.ended && isSource code v.w) &&
  (sourceCodes code v.w).all (fun c => decide (4 < c) || (portToken p c).isSome) && (decide (3 < v.w.dst.toNat) || outputRoom s v.ea v.ctx v.w.dst.toNat)

theorem stands_sound {s : State} {v : View} {p : Pass} {code : Nat} (h : stands s v p code = true) : Claims.Stands s v p code := by
  simp only [stands, Bool.and_eq_true, Bool.or_eq_true, decide_eq_true_eq, List.all_eq_true, Bool.not_eq_true', List.isEmpty_iff] at h
  obtain ⟨⟨⟨⟨⟨⟨⟨⟨⟨h1, h2⟩, h3⟩, h4⟩, h5⟩, h6⟩, h7⟩, h8⟩, h9⟩, h10⟩ := h
  refine ⟨h1, h2, h3, h4, h5, h6, h7, h8, fun c hc hle => ?_, fun hd => ?_⟩
  · rcases h9 c hc with h | h
    · omega
    · exact h
  · rcases h10 with h | h
    · omega
    · exact h

/-- Two markers, two headers, data at a closed gate, a marker beside data, for an addition. -/
theorem witness_StreamTokens : (let s := streamS (markT 3) (markT 3) dataT []
      stands s (ctV s (ow 5 0)) (ports3 (markT 3) (markT 3) dataT) 0 = true) ∧
    (let s := streamS hdrT hdrT dataT []
     stands s (ctV s (ow 0 0)) (ports3 hdrT hdrT dataT) 0 = true ∧ hdrOk hdrT = true ∧ hdrFmt hdrT ∈ decodable 0) ∧
    (let s := streamS dataT dataT dataT [no]
     let v := ctV s { ow 5 0 with pg := 1 }
     stands s v (ports3 dataT dataT dataT) 0 = true ∧ v.e.ctlQueue (gateIndex v.e v.n) = [no] ∧ no.cut = false ∧ no.b = false ∧ no.v = false ∧ no.par = false ∧ v.w.sa.toNat ≤ 4) ∧
    (let s := streamS (markT 3) dataT dataT []
     stands s (ctV s (ow 5 0)) (ports3 (markT 3) dataT dataT) 0 = true) ∧
    (Instr.addFabric (ow 5 0)).operator = some (0, ow 5 0) ∧ sourceCodes 0 (ow 5 0) = [0, 1] := by decide +kernel

theorem witness_StageDelivery_checker : (let s := opS { OpSt.zero with chk := true } [(0, tok 7 7)]
      let v := ctV s (ow 5 0)
      4 ≤ v.w.dst.toNat ∧ tabRising none s.elems = true ∧ v.e = s.elem v.ea v.ctx ∧ v.e.pass = some opP ∧ tabRising none v.e.k = true ∧ trctl v.ea v.e % 2 = 0 ∧
      v.op.chk = true) := by decide +kernel

theorem witness_StageDelivery : (let s := opS OpSt.zero [(0, tok 7 7)]
      let v := ctV s (ow 5 0)
      4 ≤ v.w.dst.toNat ∧ tabRising none s.elems = true ∧ v.e = s.elem v.ea v.ctx ∧ v.e.pass = some opP ∧ tabRising none v.e.k = true ∧ trctl v.ea v.e % 2 = 0) := by
  decide +kernel

end Sys2Proof.Tests

end
end

namespace Sys2Proof.Proofs
open Sys2Proof.Machine

/-! ## Digits of packed numbers -/

/-- Digit j of the number whose base 2^b digits are given, lowest first. -/
theorem digit_foldr (b : Nat) (l : List Nat) (j : Nat) :
    l.foldr (fun v acc => v % 2 ^ b + 2 ^ b * acc) 0 / 2 ^ (b * j) % 2 ^ b = l.getD j 0 % 2 ^ b := by
  induction l generalizing j with
  | nil => simp
  | cons v l ih =>
    cases j with
    | zero => simp
    | succ j =>
      have hv : v % 2 ^ b / 2 ^ b = 0 := Nat.div_eq_of_lt (Nat.mod_lt _ (by positivity))
      rw [List.foldr_cons, Nat.mul_succ, Nat.add_comm (b * j), Nat.pow_add, ← Nat.div_div_eq_div_mul,
        Nat.add_mul_div_left _ _ (by positivity), hv, Nat.zero_add, ih, List.getD_cons_succ]

/-- A digit that lies within n bits is that of the number truncated to n bits. -/
theorem digit_ofNat {n b j : Nat} (x : Nat) (h : b * j + b ≤ n) :
    (BitVec.ofNat n x).toNat / 2 ^ (b * j) % 2 ^ b = x / 2 ^ (b * j) % 2 ^ b := by
  obtain ⟨k, rfl⟩ := Nat.exists_eq_add_of_le h
  rw [BitVec.toNat_ofNat, Nat.add_assoc, Nat.pow_add, Nat.mod_mul_right_div_self, Nat.pow_add,
    Nat.mod_mul_right_mod]

/-- Packing the first n digits of a number gives its low b * n bits. -/
theorem foldr_digits (b n x : Nat) :
    ((List.range n).map (fun j => x / 2 ^ (b * j) % 2 ^ b)).foldr (fun v acc => v % 2 ^ b + 2 ^ b * acc) 0 = x % 2 ^ (b * n) := by
  induction n generalizing x with
  | zero => simp [Nat.mod_one]
  | succ n ih =>
    have hs : (fun j => x / 2 ^ (b * (j + 1)) % 2 ^ b) = fun j => x / 2 ^ b / 2 ^ (b * j) % 2 ^ b := by
      funext j
      rw [Nat.mul_succ, Nat.add_comm (b * j), Nat.pow_add, Nat.div_div_eq_div_mul]
    rw [List.range_succ_eq_map, List.map_cons, List.map_map, List.foldr_cons, show
      (fun j => x / 2 ^ (b * j) % 2 ^ b) ∘ Nat.succ = fun j => x / 2 ^ (b * (j + 1)) % 2 ^ b from rfl, hs, ih,
      Nat.mul_zero, Nat.pow_zero, Nat.div_one, Nat.mod_mod, Nat.mul_succ, Nat.add_comm (b * n), Nat.pow_add, Nat.mod_mul]

/-! ## Lanes, masks, residues and elements -/

theorem laneNat_lanesToPay {l : List Nat} {j : Nat} (hj : j < 16) : laneNat (lanesToPay l) j = l.getD j 0 % 2 ^ 32 := by
  rw [laneNat, lanesToPay, digit_ofNat _ (by omega), digit_foldr]

theorem resNat_resToWord {l : List Nat} {j : Nat} (hj : j < 16) : resNat (resToWord l) j = l.getD j 0 % 16 := by
  rw [resNat, resToWord]
  exact (digit_ofNat (b := 4) _ (by omega)).trans (digit_foldr 4 l j)

theorem elemNat_elemsToPay {w i : Nat} {l : List Nat} (h : w * i + w ≤ 512) : elemNat (elemsToPay w l) w i = l.getD i 0 % 2 ^ w := by
  rw [elemNat, elemsToPay, digit_ofNat _ h, digit_foldr]

theorem maskBit_bitsToMask {l : List Bool} {j : Nat} (hj : j < 16) : maskBit (bitsToMask l) j = l.getD j false := by
  have hf : l.foldr (fun b acc => (if b then 1 else 0) + 2 * acc) 0 =
      (l.map Bool.toNat).foldr (fun v acc => v % 2 ^ 1 + 2 ^ 1 * acc) 0 := by
    induction l with
    | nil => rfl
    | cons b l ih => rw [List.map_cons, List.foldr_cons, List.foldr_cons, ih]; cases b <;> rfl
  have hd : (bitsToMask l).toNat / 2 ^ j % 2 = (l.map Bool.toNat).getD j (Bool.toNat false) % 2 := by
    rw [bitsToMask, hf]
    simpa only [Nat.one_mul, Nat.pow_one, Bool.toNat_false] using
      (digit_ofNat (n := 16) (b := 1) (j := j) _ (by omega)).trans (digit_foldr 1 (l.map Bool.toNat) j)
  rw [maskBit, hd, List.getD_map]
  cases l.getD j false <;> rfl

theorem lanes16_eq_range : lanes16 = List.range 16 := rfl

theorem getD_lanes16_map {α : Type} (f : Nat → α) (d : α) {j : Nat} (hj : j < 16) : (lanes16.map f).getD j d = f j := by
  rw [lanes16_eq_range, List.getD_eq_getElem _ _ (by simpa using hj)]
  simp

theorem laneNat_lt (p : Line) (j : Nat) : laneNat p j < 2 ^ 32 := Nat.mod_lt _ (by positivity)

theorem resNat_lt (r : ResWord) (j : Nat) : resNat r j < 16 := Nat.mod_lt _ (by positivity)

/-- A payload given lane by lane. -/
theorem laneNat_lanes (f : Nat → Nat) {j : Nat} (hj : j < 16) : laneNat (lanesToPay (lanes16.map f)) j = f j % 2 ^ 32 := by
  rw [laneNat_lanesToPay hj, getD_lanes16_map _ _ hj]

theorem resNat_lanes (f : Nat → Nat) {j : Nat} (hj : j < 16) : resNat (resToWord (lanes16.map f)) j = f j % 16 := by
  rw [resNat_resToWord hj, getD_lanes16_map _ _ hj]

theorem maskBit_lanes (f : Nat → Bool) {j : Nat} (hj : j < 16) : maskBit (bitsToMask (lanes16.map f)) j = f j := by
  rw [maskBit_bitsToMask hj, getD_lanes16_map _ _ hj]

@[simp] theorem laneNat_mod (p : Line) (j : Nat) : laneNat p j % 2 ^ 32 = laneNat p j := Nat.mod_eq_of_lt (laneNat_lt p j)

@[simp] theorem resNat_mod (r : ResWord) (j : Nat) : resNat r j % 16 = resNat r j := Nat.mod_eq_of_lt (resNat_lt r j)

theorem laneNat_maskPay (p : Line) (m : BitVec 16) {j : Nat} (hj : j < 16) :
    laneNat (maskPay p m) j = if maskBit m j then laneNat p j else 0 := by
  rw [maskPay, laneNat_lanes _ hj, apply_ite (· % 2 ^ 32), laneNat_mod, Nat.zero_mod]

theorem resNat_maskRes (r : ResWord) (m : BitVec 16) {j : Nat} (hj : j < 16) :
    resNat (maskRes r m) j = if maskBit m j then resNat r j else 0 := by
  rw [maskRes, resNat_lanes _ hj, apply_ite (· % 16), resNat_mod, Nat.zero_mod]

theorem maskBit_full {j : Nat} (hj : j < 16) : maskBit 0xFFFF#16 j = true := by
  interval_cases j <;> rfl

/-- Under a full mask a payload is unchanged. -/
theorem maskPay_full (p : Line) : maskPay p 0xFFFF#16 = p := by
  have hl : lanes16.map (fun j => if maskBit 0xFFFF#16 j then laneNat p j else 0) =
      (List.range 16).map (fun j => p.toNat / 2 ^ (32 * j) % 2 ^ 32) :=
    List.map_congr_left fun j hj => by rw [maskBit_full (List.mem_range.1 hj)]; rfl
  rw [maskPay, lanesToPay, hl, foldr_digits, show 32 * 16 = 512 from rfl, Nat.mod_eq_of_lt p.isLt, BitVec.ofNat_toNat,
    BitVec.setWidth_eq]

/-- A 64-bit element is a pair of lanes. -/
theorem elemNat_64 (p : Line) (i : Nat) : elemNat p 64 i = laneNat p (2 * i) + 2 ^ 32 * laneNat p (2 * i + 1) := by
  rw [elemNat, laneNat, laneNat, show 64 * i = 32 * (2 * i) by omega, show 32 * (2 * i + 1) = 32 * (2 * i) + 32 by omega,
    Nat.pow_add 2 (32 * (2 * i)) 32, ← Nat.div_div_eq_div_mul, ← Nat.mod_mul, ← Nat.pow_add]

end Sys2Proof.Proofs

namespace Sys2Proof.Proofs
open Sys2Proof.Machine

/-! ## Stages of a compute tile -/

@[simp] theorem orTag_false (t : Token) : t.orTag false = t := by simp [Token.orTag]

@[simp] theorem orTag_kind (t : Token) (b : Bool) : (t.orTag b).kind = t.kind := rfl

/-- Codes that carry port tokens, when no source is paired. -/
theorem portCodes_unpaired (codes : List Nat) (o : StageOp) (hB : o.pairB = false) :
    (codes.zipIdx.filter (fun c => decide (c.1 ≤ 4) && !(o.pairB && c.2 == 1))).map (·.1) = codes.filter (fun c => decide (c ≤ 4)) := by
  have hp : (fun c : Nat × Nat => decide (c.1 ≤ 4) && !(o.pairB && c.2 == 1)) = (fun c => decide (c ≤ 4)) ∘ Prod.fst := by
    funext c; simp [hB]
  rw [hp, ← List.filter_map, List.zipIdx_map_fst]

/-- A standing stage of an operator that pairs no random token fires. -/
theorem runStage_stands {s : State} {v : View} {p : Pass} {o : StageOp} (h : Claims.Stands s v p o.code) (hB : o.pairB = false) :
    runStage s v.w o = .next (fireStage s v p o) := by
  have hready : sourcesReady v p o = true := by
    simp only [sourcesReady, hB, List.all_eq_true]
    intro c hc
    have hc' : c.1 ∈ sourceCodes o.code v.w := (List.mem_zipIdx hc).2.2 ▸ List.getElem_mem _
    rcases Nat.lt_or_ge 4 c.1 with hlt | hle
    · simp [hlt]
    · simp [h.sources c.1 hc' hle]
  have hroom : (decide (v.w.dst.toNat ≤ 3) && !outputRoom s v.ea v.ctx v.w.dst.toNat) = false := by
    by_cases hd : v.w.dst.toNat ≤ 3
    · simp [h.room hd]
    · simp [hd]
  have hpair : pairedToken v p o = .unneeded := by simp [pairedToken, hB]
  obtain ⟨focus, elem, stage, op, pass, running, clear, alive, -, -⟩ := h
  obtain ⟨ea, ctx, n, w, e, op'⟩ := v
  dsimp only at *
  subst elem stage op
  rw [runStage, focus]
  simp only [stageStep, pass, running, clear, alive, hready, hroom, hpair, Bool.false_eq_true, if_false, if_true]

/-- Data tokens only: the lead is a data token. -/
theorem lead_kind_data {p : Pass} {codes : List Nat} (h : ∀ t ∈ Claims.portsOf p codes, t.kind = .data) : (Claims.lead p codes).kind = .data := by
  unfold Claims.lead
  cases hp : Claims.portsOf p codes with
  | nil => rfl
  | cons t l => exact h t (by simp [hp])

/-- Sources of one kind that is not that of markers agree. -/
theorem kindsAgree_kind {l : List Token} {k : TokKind} (hk : k ≠ .marker) (h : ∀ t ∈ l, t.kind = k) : kindsAgree l = none := by
  cases l with
  | nil => rfl
  | cons t l =>
    have hl : ∀ u ∈ l, u.kind = k := fun u hu => h u (List.mem_cons_of_mem t hu)
    simpa [kindsAgree, h t List.mem_cons_self, hk] using hl

/-- What an operator does with data, once its stage stands with data alone and its gate is open (R27, R32, R41). -/
theorem fireStage_onData {s u : State} {v : View} {p : Pass} {o : StageOp} {popped : Bool} {r : StageOut}
    (h : Claims.OnData s v p o.code o.fmts popped) (hB : o.pairB = false)
    (hdata : o.data s { v with op := Claims.followed v p o.code o.fmts } (Claims.operands v p o.code o.fmts) = (u, r)) (hold : r.hold = false) :
    fireStage s v p o = Claims.fired u v p o.code popped (Claims.withRandom (Claims.operands v p o.code o.fmts) r) := by
  have hk := lead_kind_data h.data
  have hhdr : (Claims.portsOf p (sourceCodes o.code v.w)).any (fun t => t.kind == .header) = false := by
    simp only [List.any_eq_false, beq_iff_eq]
    intro t ht hh
    exact absurd ((h.data t ht).symm.trans hh) (by decide)
  have hcheck : streamCheck (Claims.decodes v o.fmts) v.op (Claims.lead p (sourceCodes o.code v.w)) = none := by
    by_cases hd : Claims.decodes v o.fmts = true <;> simp_all [streamCheck, h.seen]
  have hp : ((sourceCodes o.code v.w).filter (fun c => decide (c ≤ 4))).filterMap (portToken p) = Claims.portsOf p (sourceCodes o.code v.w) := rfl
  have hl : leadToken (Claims.portsOf p (sourceCodes o.code v.w)) = Claims.lead p (sourceCodes o.code v.w) := rfl
  have hd : (v.w.fmt == 0 && !o.fmts.isEmpty) = Claims.decodes v o.fmts := rfl
  have hg : (if (v.w.pg == 1) = true then gateOf v.e v.op v.n .data else (.open_ false, false)) = (.open_ false, popped) := by
    have hg := h.gate
    unfold Claims.GateOpen at hg
    by_cases hpg : v.w.pg = 1 <;> simp_all
  have hops : operandsOf v p (if Claims.decodes v o.fmts = true then v.op.fmt.toNat else v.w.fmt.toNat) (sourceCodes o.code v.w)
      (if (Claims.decodes v o.fmts && decide (0 < v.op.rem)) = true
        then min v.op.elems (fmtElems (if Claims.decodes v o.fmts = true then v.op.fmt.toNat else v.w.fmt.toNat))
        else fmtElems (if Claims.decodes v o.fmts = true then v.op.fmt.toNat else v.w.fmt.toNat)) = Claims.operands v p o.code o.fmts := rfl
  have hfol : (if (Claims.decodes v o.fmts || v.w.pg == 1) = true then trackPacket v.op (Claims.lead p (sourceCodes o.code v.w)) v.op.sel false
      else v.op) = Claims.followed v p o.code o.fmts := rfl
  simp only [fireStage, portCodes_unpaired _ _ hB, hp, hl, hd, hhdr, kindsAgree_kind (by decide) h.data, hcheck, hk, hg, ite_self, Bool.false_eq_true, if_false,
    hops, hfol, orTag_false, hdata]
  obtain ⟨out, op, k, ctl, fault, poison, hold'⟩ := r
  subst hold
  cases popped <;> rfl

/-- A stage that stands on data completes with what its operator does. -/
theorem runStage_onData {s u : State} {v : View} {p : Pass} {o : StageOp} {code : Nat} {fmts : List Nat} {popped : Bool} {r : StageOut}
    (h : Claims.OnData s v p code fmts popped) (hc : o.code = code) (hf : o.fmts = fmts) (hB : o.pairB = false)
    (hdata : o.data s { v with op := Claims.followed v p code fmts } (Claims.operands v p code fmts) = (u, r)) (hold : r.hold = false) :
    runStage s v.w o = .next (Claims.fired u v p code popped (Claims.withRandom (Claims.operands v p code fmts) r)) := by
  subst hc hf
  rw [runStage_stands h.toStands hB, fireStage_onData h hB hdata hold]

theorem plainOp_data (code : Nat) (fmts : List Nat) (f : View → Operands → BitVec 16 × ElemResult) :
    (plainOp code fmts f).data = pureData code f := rfl

/-- An operator whose body computes one token, and no NaN, emits it. -/
theorem runStage_pureData {s : State} {v : View} {p : Pass} {o : StageOp} {code n : Nat} {fmts : List Nat} {popped : Bool}
    {f : View → Operands → BitVec 16 × ElemResult} {m : BitVec 16} {pay : Line} {pred : Option ResWord}
    (h : Claims.OnData s v p code fmts popped) (hc : o.code = code) (hf : o.fmts = fmts) (hB : o.pairB = false) (hd : o.data = pureData n f)
    (he : f { v with op := Claims.followed v p code fmts } (Claims.operands v p code fmts) = (m, { pay := pay, pred := pred, nan := none })) :
    runStage s v.w o = .next (Claims.fired s v p code popped (Claims.withRandom (Claims.operands v p code fmts)
      (.emit (Claims.followed v p code fmts) (resultToken (Claims.operands v p code fmts) m pay pred)))) := by
  refine runStage_onData h hc hf hB ?_ rfl
  simp only [hd, pureData, he]

end Sys2Proof.Proofs

namespace Sys2Proof.Proofs
open Sys2Proof.Machine

/-! ## Lane moves (R367, R389, R406) -/

/-- Where lane j of a moved payload, mask and residue word comes from. -/
def LaneFrom (m : BitVec 16) (pay : Line) (res : ResWord) (j : Nat) : Option (Token × Nat) → Prop
  | none => maskBit m j = false
  | some (u, k) => maskBit m j = maskBit u.mask k ∧ laneNat pay j = laneNat u.pay k ∧ resNat res j = resNat u.res k

/-- A result token whose lanes come from lanes of other tokens is a token of moved lanes. -/
theorem moved_resultToken {x : Operands} {m : BitVec 16} {pay : Line} {res : ResWord} {src : Nat → Option (Token × Nat)}
    (h : ∀ j < 16, LaneFrom m pay res j (src j)) : Claims.Moved x (resultToken x m pay (some res)) src := by
  refine ⟨rfl, fun j hj => ?_⟩
  have hl := h j hj
  simp only [resultToken, laneNat_maskPay _ _ hj, resNat_maskRes _ _ hj]
  cases hs : src j with
  | none =>
    rw [hs] at hl
    have hm : maskBit m j = false := hl
    simp [hm]
  | some uk =>
    rw [hs] at hl
    obtain ⟨hm, hp, hr⟩ : maskBit m j = _ ∧ laneNat pay j = _ ∧ resNat res j = _ := hl
    simp [hm, hp, hr]

/-- `moveLanes` gives output lane j the lane `src j` of A. -/
theorem moved_moveLanes (x : Operands) (src : Nat → Option Nat) :
    ∃ pay res, moveLanes x src = ((moveLanes x src).1, { pay := pay, pred := some res, nan := none }) ∧
      Claims.Moved x (resultToken x (moveLanes x src).1 pay (some res)) (fun j => (src j).map (fun k => (x.a, k))) := by
  refine ⟨_, _, rfl, moved_resultToken fun j hj => ?_⟩
  simp only [moveLanes]
  cases hs : src j with
  | none => exact (maskBit_lanes _ hj).trans (by rw [hs]; rfl)
  | some k =>
    refine ⟨(maskBit_lanes _ hj).trans (by rw [hs]; rfl), (laneNat_lanes _ hj).trans ?_, (resNat_lanes _ hj).trans ?_⟩
    · rw [hs]; exact laneNat_mod _ _
    · rw [hs]; exact resNat_mod _ _

/-- The mask of an operator with one source is its source's. -/
theorem operandsOf_mask_single (v : View) (p : Pass) (f c n : Nat) : (operandsOf v p f [c] n).mask = (operandsOf v p f [c] n).a.mask := by
  have hfull : ∀ m : BitVec 16, 0xFFFF#16 &&& m = m := fun m => BitVec.allOnes_and
  rcases Nat.lt_or_ge 5 c with h | h
  · have h4 : ¬ c ≤ 4 := by omega
    have h5 : c ≠ 5 := by omega
    have h5' : ¬ c ≤ 5 := by omega
    simp only [operandsOf, carries, List.filter, sourceData, h4, h5, h5', decide_false, List.map_nil, List.foldl_nil, if_false, List.getElem?_cons_zero]
    split <;> rfl
  · simp [operandsOf, carries, h, hfull]

/-- What `sel` makes of its operands (R406). -/
def selBody (_ : View) (o : Operands) : BitVec 16 × ElemResult :=
  let pick := fun (j : Nat) => if laneNat o.a.pay j ≠ 0 then o.b else o.c
  (bitsToMask (lanes16.map (fun j => maskBit o.a.mask j && maskBit (pick j).mask j)),
    { pay := lanesToPay (lanes16.map (fun j => laneNat (pick j).pay j)), nan := none,
      pred := some (resToWord (lanes16.map (fun j => resNat (pick j).res j))) })

theorem exec_sel_eq (w : OpWord) (s : State) : exec (.sel w) s = runStage s w { plainOp 20 [] selBody with noHeader := some 1 } := rfl

section
variable {s : State} {v : View} {p : Pass} {popped : Bool}

/-- `mov` (R389): every lane stays where it is. -/
theorem exec_mov (h : Claims.OnData s v p 128 fData popped) :
    let x := Claims.operands v p 128 fData
    ∃ t, Claims.Moved x t (fun j => some (x.a, j)) ∧
      exec (.mov v.w) s = .next (Claims.fired s v p 128 popped (Claims.withRandom x (.emit (Claims.followed v p 128 fData) t))) := by
  intro x
  have hm : x.mask = x.a.mask := operandsOf_mask_single v p _ v.w.sa.toNat _
  refine ⟨resultToken x x.mask x.a.pay (some x.a.res), moved_resultToken fun j _ => ⟨by rw [hm], rfl, rfl⟩, ?_⟩
  rw [show exec (.mov v.w) s = execMov v.w s from rfl, execMov]
  exact runStage_pureData h rfl rfl rfl (plainOp_data ..) rfl

/-- An operator that moves lanes of A by a rule (R367). -/
theorem exec_moveLanes {i : Instr} {code : Nat} {f : View → Operands → Nat → Option Nat}
    (hi : exec i s = runStage s v.w (plainOp code fEvery (fun v o => moveLanes o (f v o)))) (h : Claims.OnData s v p code fData popped) :
    let x := Claims.operands v p code fData
    ∃ t, Claims.Moved x t (fun j => (f { v with op := Claims.followed v p code fData } x j).map (fun k => (x.a, k))) ∧
      exec i s = .next (Claims.fired s v p code popped (Claims.withRandom x (.emit (Claims.followed v p code fData) t))) := by
  intro x
  obtain ⟨pay, res, he, hmv⟩ := moved_moveLanes x (f { v with op := Claims.followed v p code fData } x)
  exact ⟨_, hmv, hi.trans (runStage_pureData h rfl rfl rfl (plainOp_data ..) he)⟩

/-- `lperm` (R367): a valid lane of B without bit 4 names the lane of A. -/
theorem exec_lperm (h : Claims.OnData s v p 136 fData popped) :
    let x := Claims.operands v p 136 fData
    ∃ t, Claims.Moved x t (fun j => if maskBit x.b.mask j = true ∧ laneNat x.b.pay j / 16 % 2 = 0 then some (x.a, laneNat x.b.pay j % 16) else none) ∧
      exec (.lperm v.w) s = .next (Claims.fired s v p 136 popped (Claims.withRandom x (.emit (Claims.followed v p 136 fData) t))) := by
  intro x
  obtain ⟨t, hm, he⟩ := exec_moveLanes (i := .lperm v.w)
    (f := fun _ o j => if maskBit o.b.mask j && !bitSet (laneNat o.b.pay j) 4 then some (laneNat o.b.pay j % 16) else none) rfl h
  refine ⟨t, ?_, he⟩
  convert hm using 2 with j
  have hc : (maskBit x.b.mask j && !bitSet (laneNat x.b.pay j) 4) = true ↔ maskBit x.b.mask j = true ∧ laneNat x.b.pay j / 16 % 2 = 0 := by
    simp [bitSet]
  change _ = Option.map _ (if (maskBit x.b.mask j && !bitSet (laneNat x.b.pay j) 4) = true then _ else none)
  simp only [hc]
  split <;> rfl

/-- `sel` (R406): lanes of B where the mask lane is true, else of C. -/
theorem exec_sel (h : Claims.OnData s v p 20 [] popped) :
    let x := Claims.operands v p 20 []
    ∃ t, Claims.Moved x t (fun j => if maskBit x.a.mask j then some (if laneNat x.a.pay j ≠ 0 then x.b else x.c, j) else none) ∧
      exec (.sel v.w) s = .next (Claims.fired s v p 20 popped (Claims.withRandom x (.emit (Claims.followed v p 20 []) t))) := by
  intro x
  refine ⟨resultToken x (selBody v x).1 (selBody v x).2.pay (selBody v x).2.pred, moved_resultToken fun j hj => ?_,
    (exec_sel_eq v.w s).trans (runStage_pureData (n := 20) (f := selBody) h rfl rfl rfl rfl rfl)⟩
  cases hm : maskBit x.a.mask j with
  | false => exact (maskBit_lanes _ hj).trans (by rw [hm]; rfl)
  | true =>
    exact ⟨(maskBit_lanes _ hj).trans (by rw [hm]; rfl), (laneNat_lanes _ hj).trans (laneNat_mod _ _),
      (resNat_lanes _ hj).trans (resNat_mod _ _)⟩

end

/-- Settles O11, one instruction at a time: each is a stage operator whose token has whole lanes of its operands. -/
theorem laneMoves : Obligations.LaneMoves := by
  unfold Obligations.LaneMoves
  intro s v p i code popped src fmts hop hdata x hsrc
  unfold Claims.movedLane at hsrc
  split at hsrc <;> cases hsrc <;> cases hop
  case h_1 => exact exec_mov hdata
  case h_2 => exact exec_moveLanes (f := fun v _ _ => some (v.w.imm.toNat % 16)) rfl hdata
  case h_3 => exact exec_moveLanes (f := fun v _ j => some ((j + 16 - v.w.imm.toNat % 16) % 16)) rfl hdata
  case h_4 => exact exec_lperm hdata
  case h_5 => exact exec_sel hdata

end Sys2Proof.Proofs

namespace Sys2Proof.Proofs
open Sys2Proof.Machine

/-! ## Sources (R26, R28, R338, R339, R399, R407) -/

/-- Following a data token touches the packet counts alone. -/
theorem followed_eq {s : State} {v : View} {p : Pass} {code : Nat} {fmts : List Nat} {popped : Bool} (h : Claims.OnData s v p code fmts popped) :
    ∃ r n, Claims.followed v p code fmts = { v.op with rem := r, elems := n } := by
  unfold Claims.followed
  split
  · rw [trackPacket, lead_kind_data h.data]
    exact ⟨_, _, rfl⟩
  · exact ⟨v.op.rem, v.op.elems, rfl⟩

section
variable {s : State} {v : View} {total : Nat} {mark : Nat → Option Nat} {record : View → Nat → Token × OpSt}

/-- Outside a repair pass a source goes by its marker flag and its count. -/
theorem sourceData'_free (h : Claims.notRepairing s v) :
    sourceData' total mark record s v =
      if v.op.sel = some true then
        match mark (v.op.count - 1) with
        | some level => .emit { v.op with sel := none } (Claims.sourceMarker v v.op.count level)
        | none => .quiet { v.op with sel := none }
      else if total ≤ v.op.count then .emit { v.op with ended := true, sel := none } (Claims.sourceMarker v v.op.count 7)
      else .emit { (record v v.op.count).2 with count := v.op.count + 1, sel := if v.op.count + 1 < total ∧ (mark v.op.count).isSome then some true else none }
        (stamp (record v v.op.count).1 v.op.count (stampOf v)) := by
  cases hb : v.e.task.bind s.task? with
  | none => simp only [sourceData', hb, Bool.false_eq_true, if_false]; rfl
  | some t => simp only [sourceData', hb, beq_eq_false_iff_ne.2 (h t hb), Bool.false_eq_true, if_false]; rfl

/-- A source with records left emits the next one, and remembers whether a marker follows it. -/
theorem sourceData'_record (h : Claims.notRepairing s v) (hs : v.op.sel ≠ some true) (hn : v.op.count < total) :
    sourceData' total mark record s v =
      .emit { (record v v.op.count).2 with count := v.op.count + 1, sel := if v.op.count + 1 < total ∧ (mark v.op.count).isSome then some true else none }
        (stamp (record v v.op.count).1 v.op.count (stampOf v)) := by
  rw [sourceData'_free h, if_neg hs, if_neg (Nat.not_le.2 hn)]

/-- A source after its last record emits the LEVEL 7 marker. -/
theorem sourceData'_end (h : Claims.notRepairing s v) (hs : v.op.sel ≠ some true) (hn : total ≤ v.op.count) :
    sourceData' total mark record s v = .emit { v.op with ended := true, sel := none } (Claims.sourceMarker v v.op.count 7) := by
  rw [sourceData'_free h, if_neg hs, if_pos hn]

/-- A source that owes a marker emits it. -/
theorem sourceData'_marker {level : Nat} (h : Claims.notRepairing s v) (hs : v.op.sel = some true) (hm : mark (v.op.count - 1) = some level) :
    sourceData' total mark record s v = .emit { v.op with sel := none } (Claims.sourceMarker v v.op.count level) := by
  rw [sourceData'_free h, if_pos hs, hm]

end

section
variable {s : State} {v : View} {p : Pass} {code : Nat} {popped : Bool}

theorem followed_count {fmts : List Nat} (h : Claims.OnData s v p code fmts popped) : (Claims.followed v p code fmts).count = v.op.count := by
  obtain ⟨r, n, he⟩ := followed_eq h; rw [he]

theorem followed_sel {fmts : List Nat} (h : Claims.OnData s v p code fmts popped) : (Claims.followed v p code fmts).sel = v.op.sel := by
  obtain ⟨r, n, he⟩ := followed_eq h; rw [he]

theorem followed_repair {fmts : List Nat} (h : Claims.OnData s v p code fmts popped) : (Claims.followed v p code fmts).repair = v.op.repair := by
  obtain ⟨r, n, he⟩ := followed_eq h; rw [he]

theorem followed_x {fmts : List Nat} (h : Claims.OnData s v p code fmts popped) : (Claims.followed v p code fmts).x = v.op.x := by
  obtain ⟨r, n, he⟩ := followed_eq h; rw [he]

/-- The stage that a source's body sees. -/
def sourceView (v : View) (p : Pass) (code : Nat) : View := { v with op := Claims.followed v p code [] }

variable {total : View → State → Nat} {mark : State → View → Nat → Option Nat} {record : State → View → Nat → Token × OpSt}

/-- A standing source completes with what its body answers. -/
theorem runStage_sourceOp {r : StageOut} (h : Claims.OnData s v p code [] popped)
    (hr : sourceData' (total (sourceView v p code) s) (mark s (sourceView v p code)) (record s) s (sourceView v p code) = r)
    (hold : r.hold = false) :
    runStage s v.w (sourceOp code total mark record) =
      .next (Claims.fired s v p code popped (Claims.withRandom (Claims.operands v p code []) r)) :=
  runStage_onData h rfl rfl rfl (congrArg (Prod.mk s) hr) hold

/-- A free-running source sends its n-th record. -/
theorem runStage_source_record (h : Claims.OnData s v p code [] popped) (hr : Claims.notRepairing s v) (hs : v.op.sel ≠ some true)
    (hn : v.op.count < total (sourceView v p code) s) :
    let n := v.op.count
    let made := record s (sourceView v p code) n
    runStage s v.w (sourceOp code total mark record) =
      .next (Claims.fired s v p code popped (Claims.withRandom (Claims.operands v p code [])
        (.emit { made.2 with count := n + 1, sel := if n + 1 < total (sourceView v p code) s ∧ (mark s (sourceView v p code) n).isSome then some true else none }
          (stamp made.1 n (stampOf v))))) := by
  have hc : (sourceView v p code).op.count = v.op.count := followed_count h
  refine runStage_sourceOp h ?_ rfl
  rw [sourceData'_record (v := sourceView v p code) hr (fun he => hs ((followed_sel h).symm.trans he)) (hc ▸ hn), hc]
  rfl

/-- A free-running source ends. -/
theorem runStage_source_end (h : Claims.OnData s v p code [] popped) (hr : Claims.notRepairing s v) (hs : v.op.sel ≠ some true)
    (hn : total (sourceView v p code) s ≤ v.op.count) :
    runStage s v.w (sourceOp code total mark record) =
      .next (Claims.fired s v p code popped (Claims.withRandom (Claims.operands v p code [])
        (.emit { Claims.followed v p code [] with ended := true, sel := none } (Claims.sourceMarker v v.op.count 7)))) := by
  have hc : (sourceView v p code).op.count = v.op.count := followed_count h
  refine runStage_sourceOp h ?_ rfl
  rw [sourceData'_end (v := sourceView v p code) hr (fun he => hs ((followed_sel h).symm.trans he)) (hc ▸ hn), hc]
  rfl

/-- A free-running source sends the marker it owes. -/
theorem runStage_source_marker {level : Nat} (h : Claims.OnData s v p code [] popped) (hr : Claims.notRepairing s v) (hs : v.op.sel = some true)
    (hm : mark s (sourceView v p code) (v.op.count - 1) = some level) :
    runStage s v.w (sourceOp code total mark record) =
      .next (Claims.fired s v p code popped (Claims.withRandom (Claims.operands v p code [])
        (.emit { Claims.followed v p code [] with sel := none } (Claims.sourceMarker v v.op.count level)))) := by
  have hc : (sourceView v p code).op.count = v.op.count := followed_count h
  refine runStage_sourceOp h ?_ rfl
  rw [sourceData'_marker (v := sourceView v p code) hr ((followed_sel h).trans hs) (hc ▸ hm), hc]
  rfl

end

/-! ### Payloads of the sources -/

/-- A data token of a source is its stamped token. -/
theorem stamp_dataToken (v : View) (n : Nat) (pay : Line) :
    stamp (dataToken pay 0xFFFF#16 Token.zero) n (stampOf v) = Claims.sourceToken v n pay := by
  rw [dataToken, maskPay_full]; rfl

/-- Every number of a list as two 32-bit lanes, low lane first. -/
def lanePairs (l : List Nat) : List Nat := l.flatMap (fun y => [y % 2 ^ 32, y / 2 ^ 32])

theorem getD_lanePairs (l : List Nat) (j : Nat) :
    (lanePairs l).getD (2 * j) 0 = l.getD j 0 % 2 ^ 32 ∧ (lanePairs l).getD (2 * j + 1) 0 = l.getD j 0 / 2 ^ 32 := by
  induction l generalizing j with
  | nil => simp [lanePairs]
  | cons y l ih =>
    cases j with
    | zero => exact ⟨rfl, rfl⟩
    | succ j => exact ih j

/-- Element j of a payload of pairs is number j. -/
theorem elemNat_lanePairs {l : List Nat} {j : Nat} (hj : j < 8) (hl : l.getD j 0 < 2 ^ 64) : elemNat (lanesToPay (lanePairs l)) 64 j = l.getD j 0 := by
  obtain ⟨hlo, hhi⟩ := getD_lanePairs l j
  rw [elemNat_64, laneNat_lanesToPay (by omega), laneNat_lanesToPay (by omega), hlo, hhi]
  omega

/-- The next n states of `rand`. -/
theorem randSteps_eq (x : DWord) (n : Nat) : randSteps x n = (List.range n).map (fun j => Claims.xorshift x (j + 1)) := by
  have hshift : ∀ (x : DWord) (n : Nat), Claims.xorshift (randStep x) n = Claims.xorshift x (n + 1) := by
    intro x n
    induction n with
    | zero => rfl
    | succ n ih => exact congrArg randStep ih
  induction n generalizing x with
  | zero => rfl
  | succ n ih =>
    rw [randSteps, ih, List.range_succ_eq_map, List.map_cons, List.map_map]
    exact congrArg₂ List.cons rfl (List.map_congr_left fun j _ => hshift x (j + 1))

/-- Payload of a `cnt` record (R338). -/
def cntPay (h : TaskShape) (n : Nat) : Line := lanesToPay (lanePairs (widOf h.widths (h.fields n) :: h.fields n) ++ [n % 2 ^ 20, n / 2 ^ 20])

theorem cntRecord_eq (h : TaskShape) (n : Nat) : cntRecord h n = dataToken (cntPay h n) 0xFFFF#16 Token.zero := rfl

theorem laneNat_cntPay (h : TaskShape) (n : Nat) {j : Nat} (hj : j < 16) :
    laneNat (cntPay h n) j = (([widOf h.widths (h.fields n)] ++ h.fields n).flatMap (fun y => [y % 2 ^ 32, y / 2 ^ 32 % 2 ^ 32])
      ++ [n % 2 ^ 20, n / 2 ^ 20 % 2 ^ 32]).getD j 0 := by
  have hmod : n % 2 ^ 20 % 2 ^ 32 = n % 2 ^ 20 := by omega
  rw [cntPay, laneNat_lanesToPay hj, ← List.getD_map (f := (· % 2 ^ 32)), Nat.zero_mod]
  simp only [lanePairs, List.map_append, List.map_flatMap, List.map_cons, List.map_nil, Nat.mod_mod, hmod, List.singleton_append]

/-- Payload of a `seqs` record (R407). -/
def seqsPay (w : OpWord) (n : Nat) : Line :=
  let f := w.fmt.toNat
  let st := if w.imm.toNat / 2 ^ 16 = 0 then fmtElems f else w.imm.toNat / 2 ^ 16
  elemsToPay (fmtWidth f) ((List.range (fmtElems f)).map (fun i => n * st + i))

theorem seqsRecord_eq (w : OpWord) (n : Nat) : seqsRecord w n = dataToken (seqsPay w n) 0xFFFF#16 Token.zero := rfl

/-- Elements of a format fill a payload at most. -/
theorem fmtWidth_mul_le {f i : Nat} (h : i < fmtElems f) : fmtWidth f * i + fmtWidth f ≤ 512 := by
  unfold fmtElems at h
  split at h
  · omega
  · calc fmtWidth f * i + fmtWidth f = fmtWidth f * (i + 1) := (Nat.mul_succ ..).symm
      _ ≤ fmtWidth f * (512 / fmtWidth f) := Nat.mul_le_mul_left _ h
      _ ≤ 512 := Nat.mul_div_le ..

theorem elemNat_seqsPay (w : OpWord) (n : Nat) {i : Nat} (hi : i < fmtElems w.fmt.toNat) :
    elemNat (seqsPay w n) (fmtWidth w.fmt.toNat) i =
      (n * (if w.imm.toNat / 2 ^ 16 = 0 then fmtElems w.fmt.toNat else w.imm.toNat / 2 ^ 16) + i) % 2 ^ fmtWidth w.fmt.toNat := by
  rw [seqsPay, elemNat_elemsToPay (fmtWidth_mul_le hi), List.getD_eq_getElem _ _ (by simpa using hi)]
  simp

/-- Payload of a token of `rand` fired from x (R399). -/
def randPay (x : DWord) : Line := lanesToPay (lanePairs ((List.range 8).map (fun j => (Claims.xorshift x (j + 1)).toNat)))

theorem randToken_eq (x : DWord) (side : Token) :
    randToken x side = ({ dataToken (randPay x) 0xFFFF#16 side with rand := true }, Claims.xorshift x 8) := by
  simp only [randToken, randSteps_eq, randPay, lanePairs, List.flatMap_map]
  rfl

theorem elemNat_randPay (x : DWord) {j : Nat} (hj : j < 8) : elemNat (randPay x) 64 j = (Claims.xorshift x (j + 1)).toNat := by
  have hg : ((List.range 8).map (fun j => (Claims.xorshift x (j + 1)).toNat)).getD j 0 = (Claims.xorshift x (j + 1)).toNat := by
    rw [List.getD_eq_getElem _ _ (by simpa using hj)]
    simp
  rw [randPay, elemNat_lanePairs hj (hg ▸ BitVec.isLt _), hg]

/-! ### The four sources as operators -/

/-- `cnt` enumerates the records of its task's shape. -/
def cntOp : StageOp :=
  sourceOp 384 (fun v s => (taskShapeOf s v.e.task).total) (fun s v n => (taskShapeOf s v.e.task).mark n)
    (fun s v n => (cntRecord (taskShapeOf s v.e.task) n, v.op))

/-- A free-running `const`, `rand` and `seqs` make COUNT records without markers. -/
def countedOp (code : Nat) (w : OpWord) (record : View → Nat → Token × OpSt) : StageOp :=
  sourceOp code (fun _ _ => w.imm.toNat % 2 ^ 16) (fun _ _ _ => none) (fun _ => record)

def constRecord (v : View) (_ : Nat) : Token × OpSt := (constToken v Token.zero, v.op)

def randRecord (v : View) (n : Nat) : Token × OpSt :=
  let r := randToken (if v.op.repair.isEmpty then randState v else randAt (rseed v.e) n) Token.zero
  (r.1, { v.op with x := r.2 })

theorem exec_cnt_eq (w : OpWord) (s : State) : exec (.cnt w) s = runStage s w cntOp := rfl

theorem exec_seqs_eq (w : OpWord) (s : State) :
    exec (.seqs w) s = runStage s w (countedOp 387 w (fun v n => (seqsRecord w n, v.op))) := rfl

theorem exec_const_free {w : OpWord} (h : w.sa = 7) (s : State) : exec (.const w) s = runStage s w (countedOp 385 w constRecord) := if_pos h

theorem exec_rand_free {w : OpWord} (h : w.sa = 7) (s : State) : exec (.rand w) s = runStage s w (countedOp 386 w randRecord) := if_pos h

section
variable {s : State} {v : View} {p : Pass} {code : Nat} {popped : Bool} {record : View → Nat → Token × OpSt}

/-- A record of a counted source owes no marker. -/
theorem runStage_counted_record (h : Claims.OnData s v p code [] popped) (hr : Claims.notRepairing s v) (hs : v.op.sel ≠ some true)
    (hn : v.op.count < v.w.imm.toNat % 2 ^ 16) :
    let made := record (sourceView v p code) v.op.count
    runStage s v.w (countedOp code v.w record) = .next (Claims.fired s v p code popped (Claims.withRandom (Claims.operands v p code [])
      (.emit { made.2 with count := v.op.count + 1, sel := none } (stamp made.1 v.op.count (stampOf v))))) := by
  have hif : (if v.op.count + 1 < v.w.imm.toNat % 2 ^ 16 ∧ (none : Option Nat).isSome = true then some true else none) = none :=
    if_neg fun hc => absurd hc.2 (by decide)
  exact hif ▸ runStage_source_record (record := fun _ => record) h hr hs hn

/-- `rand` fires from the operator's x, or from RSEED before its first firing. -/
theorem randState_sourceView (h : Claims.OnData s v p code [] popped) : randState (sourceView v p code) = Claims.randFrom v := by
  simp only [randState, Claims.randFrom, sourceView, followed_x h]
  rfl

/-- A token of `rand` fired from the operator's state. -/
theorem randRecord_eq (h : Claims.OnData s v p 386 [] popped) (hrep : v.op.repair = []) (n : Nat) :
    randRecord (sourceView v p 386) n = ({ dataToken (randPay (Claims.randFrom v)) 0xFFFF#16 Token.zero with rand := true },
      { Claims.followed v p 386 [] with x := Claims.xorshift (Claims.randFrom v) 8 }) := by
  have he : (sourceView v p 386).op.repair.isEmpty = true := by
    rw [show (sourceView v p 386).op.repair = v.op.repair from followed_repair h, hrep]; rfl
  rw [randRecord, if_pos he, randState_sourceView h, randToken_eq]
  rfl

end

/-- Settles O22: a record, an end or an owed marker is what `sourceData'` answers, and a paced source one token of its body. -/
theorem sources : Obligations.Sources := by
  unfold Obligations.Sources
  intro s v p popped hr hrep n sends op rands
  refine ⟨fun code h hs => ⟨?cnt, ?seqs, ?const, ?rand⟩, ?ends, ?marker, ?pacedConst, ?pacedRand⟩
  case cnt =>
    rintro rfl hn
    refine ⟨cntPay (taskShapeOf s v.e.task) n, fun j hj => laneNat_cntPay _ _ hj, ?_⟩
    have := runStage_source_record (total := fun v s => (taskShapeOf s v.e.task).total) h hr hs hn
      (mark := fun s v n => (taskShapeOf s v.e.task).mark n) (record := fun s v n => (cntRecord (taskShapeOf s v.e.task) n, v.op))
    rw [← stamp_dataToken]
    exact this
  case seqs =>
    rintro rfl hn
    refine ⟨seqsPay v.w n, fun i hi => elemNat_seqsPay v.w n hi, ?_⟩
    rw [← stamp_dataToken]
    exact runStage_counted_record (record := fun u n => (seqsRecord v.w n, u.op)) h hr hs hn
  case const =>
    rintro rfl hsa hn
    exact (exec_const_free hsa s).trans (runStage_counted_record h hr hs hn)
  case rand =>
    rintro rfl hsa hn
    refine ⟨randPay (Claims.randFrom v), fun j hj => elemNat_randPay _ hj, (exec_rand_free hsa s).trans ?_⟩
    have := runStage_counted_record (record := randRecord) h hr hs hn
    simp only [randRecord_eq h hrep] at this
    rw [← stamp_dataToken]
    exact this
  case ends =>
    rintro i code total hs hn (⟨rfl, rfl, rfl⟩ | ⟨rfl, ⟨rfl, rfl⟩ | ⟨hsa, ⟨rfl, rfl⟩ | ⟨rfl, rfl⟩⟩⟩) h
    · exact runStage_source_end (total := fun v s => (taskShapeOf s v.e.task).total) h hr hs hn
    · exact runStage_source_end (total := fun _ _ => v.w.imm.toNat % 2 ^ 16) h hr hs hn
    · exact (exec_const_free hsa s).trans (runStage_source_end (total := fun _ _ => v.w.imm.toNat % 2 ^ 16) h hr hs hn)
    · exact (exec_rand_free hsa s).trans (runStage_source_end (total := fun _ _ => v.w.imm.toNat % 2 ^ 16) h hr hs hn)
  case marker =>
    intro hs h level hm
    exact runStage_source_marker (mark := fun s v n => (taskShapeOf s v.e.task).mark n) h hr hs hm
  case pacedConst =>
    intro hsa h x k
    exact (if_neg hsa).trans (runStage_onData h rfl rfl rfl rfl rfl)
  case pacedRand =>
    intro hsa h
    refine ⟨randPay (Claims.randFrom v), fun j hj => elemNat_randPay _ hj, (if_neg hsa).trans (runStage_onData h rfl rfl rfl ?_ rfl)⟩
    let r := randToken (randState (sourceView v p 386)) (Claims.operands v p 386 []).side
    change (s, StageOut.emit { (sourceView v p 386).op with x := r.2 } r.1) = _
    simp only [r]
    rw [randState_sourceView h, randToken_eq, dataToken, maskPay_full]
    rfl

end Sys2Proof.Proofs

namespace Sys2Proof.Proofs
open Sys2Proof.Machine

/-! ## Router slots (R40, R358, R382, R418) -/

/-- Where no element of a list has a property its head has none. -/
theorem head?_of_any_false {α : Type} {f : α → Bool} {l : List α} (h : l.any f = false) : (l.head?.map f).getD false = false := by
  cases l with
  | nil => rfl
  | cons a l => simpa using List.any_eq_false.1 h a List.mem_cons_self

/-- An input without cut markers has none at its head. -/
theorem cutAt_of_cutHere {v : SlotView} {p : Net × Nat} (h : v.cutHere p = false) : v.cutAt p = false := by
  obtain ⟨net, i⟩ := p
  cases net <;> exact head?_of_any_false h

/-- A slot that is ready fires its operator's rule. -/
theorem runSlot_ready {s : State} {v : SlotView} {code : Nat} {rule : SlotView → Option (Token × SlotOut)} {t : Token} {o : SlotOut}
    (h : Claims.SlotReady s v) (hr : rule v = some (t, o)) :
    runSlot s v.w (fun s v => fireSlot s v code rule) = .next (applySlot s v code t o) := by
  obtain ⟨⟨ea, hf, hsite⟩, hview, hrel, hrun, huncut, hmark, -⟩ := h
  have hlive : slotLive v = true := by simp [slotLive, hrel, hrun, huncut]
  have hno : (!v.inputs.isEmpty && v.inputs.all v.cutAt) = false := by
    cases hi : v.inputs with
    | nil => rfl
    | cons p l => simp [cutAt_of_cutHere (hmark p (by simp [hi]))]
  rw [runSlot, hf]
  dsimp only
  rw [hsite, ← hview, fireSlot, if_neg (by simp [hlive]), if_neg (by simp [hno]), hr]

/-! ### What stands at a governed input -/

theorem govern_inside {op : OpSt} {t : Token} {c : Option Ctl} (h : 0 < op.rem) (hk : t.kind = .data) : govern op (some t) c = .inside t := by
  simp [govern, h, hk]

theorem govern_record {op : OpSt} {t : Token} {c : Ctl} (h : op.rem = 0) (hk : Claims.opens t) (hb : c.b = false) :
    govern op (some t) (some c) = .record t c := by
  rcases hk with hk | hk <;> simp [govern, h, hk, hb]

theorem govern_marker {op : OpSt} {t : Token} {c : Ctl} (h : op.rem = 0) (hk : t.kind = .marker) (hb : c.b = true) :
    govern op (some t) (some c) = .marker t c := by
  simp [govern, h, hk, hb]

theorem opens_ne_marker {t : Token} (h : Claims.opens t) : t.kind ≠ .marker := by
  rcases h with h | h <;> simp [h]

theorem wrongTag_eq (c : Ctl) : Claims.wrongTag c = !c.parityOk := rfl

theorem wrongAt_eq (i : Nat) (c : Ctl) : Claims.wrongAt i c = parityAt i c := by simp [Claims.wrongAt, parityAt, Ctl.parityOk]

/-! ### The rules of `steer`, `merge` and `gate` -/

section
variable {v : SlotView} {t : Token} {c : Ctl}

theorem steerRule_record (ht : v.data 0 = some t) (hc : v.ctl 3 = some c) (hrem : v.op.rem = 0) (hk : Claims.opens t) (hb : c.b = false) :
    steerRule v = some (t, Claims.slotDoes (startRecord v.op t c.v (Claims.wrongTag c)) [0] [3]
      [(if c.v then 0 else 1, t.orTag (Claims.wrongTag c))] [] (Claims.wrongAt 3 c)) := by
  simp only [steerRule, ht, hc, govern_record hrem hk hb, wrongAt_eq]
  rfl

theorem steerRule_inside (ht : v.data 0 = some t) (hrem : 0 < v.op.rem) (hk : t.kind = .data) :
    steerRule v = some (t, Claims.slotDoes (insideRecord v.op) [0] [] [(if v.op.sel = some true then 0 else 1, t.orTag v.op.tagged)] [] []) := by
  simp only [steerRule, ht, govern_inside hrem hk]
  rfl

theorem steerRule_marker (ht : v.data 0 = some t) (hc : v.ctl 3 = some c) (hrem : v.op.rem = 0) (hk : t.kind = .marker) (hb : c.b = true) :
    steerRule v = some (t, Claims.slotDoes (passMarker v.op t) [0] [3] [(0, t), (1, t)] [] (Claims.wrongAt 3 c)) := by
  simp only [steerRule, ht, hc, govern_marker hrem hk hb, wrongAt_eq]
  rfl

theorem mergeRule_record (hc : v.ctl 3 = some c) (hrem : v.op.rem = 0) (hb : c.b = false) (ht : v.data (if c.v then 0 else 1) = some t)
    (hk : Claims.opens t) :
    mergeRule v = some (t, Claims.slotDoes (startRecord v.op t c.v (Claims.wrongTag c)) [if c.v then 0 else 1] [3]
      [(0, t.orTag (Claims.wrongTag c))] [] (Claims.wrongAt 3 c)) := by
  simp only [mergeRule, hc, hrem, hb, ht, opens_ne_marker hk, Nat.lt_irrefl, Bool.false_eq_true, if_false, wrongAt_eq]
  rfl

theorem mergeRule_inside (hrem : 0 < v.op.rem) (ht : v.data (if v.op.sel = some true then 0 else 1) = some t) (hk : t.kind = .data) :
    mergeRule v = some (t, Claims.slotDoes (insideRecord v.op) [if v.op.sel = some true then 0 else 1] [] [(0, t.orTag v.op.tagged)] [] []) := by
  simp only [mergeRule, hrem, if_true, ht, hk]
  rfl

theorem mergeRule_marker {u : Token} (hc : v.ctl 3 = some c) (hrem : v.op.rem = 0) (hb : c.b = true) (ht : v.data 0 = some t)
    (hu : v.data 1 = some u) (hk : t.kind = .marker) (hku : u.kind = .marker) (hl : t.level = u.level) :
    mergeRule v = some (t, Claims.slotDoes (passMarker v.op t) [0, 1] [3] [(0, t)] [] (Claims.wrongAt 3 c)) := by
  simp only [mergeRule, hc, hrem, hb, ht, hu, hk, hku, hl, Nat.lt_irrefl, if_false, if_true, bne_self_eq_false, Bool.or_self, Bool.false_eq_true,
    wrongAt_eq]
  rfl

theorem order_unlinked (o : Option Token) : Machine.orderOf false t o = .go false := rfl

theorem order_record {x : Token} (hk : t.kind ≠ .marker) (hkx : x.kind ≠ .marker) : Machine.orderOf true t (some x) = .go x.etag := by
  simp [Machine.orderOf, hk, hkx]

theorem order_marker {x : Token} (hk : t.kind = .marker) (hkx : x.kind = .marker) (hl : x.level = t.level) :
    Machine.orderOf true t (some x) = .go x.etag := by
  simp [Machine.orderOf, hk, hkx, hl]

/-- OEN and CEN of a `gate` (R358). -/
theorem imm_bit (v : SlotView) (k : Nat) : (v.imm k 1 == 1) = v.w.imm.getLsbD k := by
  rw [SlotView.imm, bits, BitVec.getLsbD, Nat.testBit_eq_decide_div_mod_eq, Nat.pow_one]
  rfl

theorem gateRule_inside (ht : v.data 0 = some t) (hrem : 0 < v.op.rem) (hk : t.kind = .data) :
    gateRule v = some (t, Claims.slotDoes (insideRecord v.op) [0] []
      (if v.op.sel = some false then [] else [(0, t.orTag v.op.tagged)]) [] []) := by
  simp only [gateRule, ht, govern_inside hrem hk]
  rfl

/-- With CEN a record goes on when its control token says so. -/
theorem gateRule_sent (hcen : v.w.imm.getLsbD 1 = true) (hoen : v.w.imm.getLsbD 0 = false) (ht : v.data 0 = some t) (hrem : v.op.rem = 0)
    (hk : Claims.opens t) (hc : v.ctl 3 = some c) (hb : c.b = false) (hv : c.v = true) :
    gateRule v = some (t, Claims.slotDoes (startRecord v.op t true (Claims.wrongTag c)) [0] [3] [(0, t.orTag (Claims.wrongTag c))] []
      (Claims.wrongAt 3 c)) := by
  simp only [gateRule, imm_bit, hcen, hoen, ht, hc, hv, if_true, Bool.false_eq_true, if_false, govern_record hrem hk hb, order_unlinked,
    Bool.false_or, wrongAt_eq, wrongTag_eq]
  rfl

/-- With CEN a record is dropped when its control token says so; a wrong parity sinks it tagged. -/
theorem gateRule_dropped (hcen : v.w.imm.getLsbD 1 = true) (hoen : v.w.imm.getLsbD 0 = false) (ht : v.data 0 = some t) (hrem : v.op.rem = 0)
    (hk : Claims.opens t) (hc : v.ctl 3 = some c) (hb : c.b = false) (hv : c.v = false) :
    gateRule v = some (t, { Claims.slotDoes (startRecord v.op t false false) [0] [3] [] [] (Claims.wrongAt 3 c) with
      sunk := if Claims.wrongTag c then some t.tag else none }) := by
  have hsunk : (if Claims.wrongTag c then some t.tag else none) = if c.parityOk then none else some t.tag := by
    rw [wrongTag_eq]
    cases c.parityOk <;> rfl
  simp only [gateRule, imm_bit, hcen, hoen, ht, hc, hv, if_true, Bool.false_eq_true, if_false, govern_record hrem hk hb, order_unlinked,
    wrongAt_eq, hsunk]
  rfl

/-- Without CEN a record goes on with the token it is ordered behind. -/
theorem gateRule_ordered {x : Token} (hcen : v.w.imm.getLsbD 1 = false) (hoen : v.w.imm.getLsbD 0 = true) (ht : v.data 0 = some t)
    (hrem : v.op.rem = 0) (hk : Claims.opens t) (hx : v.data 1 = some x) (hkx : x.kind ≠ .marker) :
    gateRule v = some (t, Claims.slotDoes (startRecord v.op t true x.etag) [0, 1] [] [(0, t.orTag x.etag)] [] []) := by
  have hkt := opens_ne_marker hk
  have hg : govern v.op (some t) (some (ctlTok true (t.kind == .marker))) = .record t (ctlTok true (t.kind == .marker)) :=
    govern_record hrem hk (beq_eq_false_iff_ne.2 hkt)
  have hp : (ctlTok true (t.kind == .marker)).parityOk = true := by cases t.kind == .marker <;> rfl
  simp only [gateRule, imm_bit, hcen, hoen, ht, hx, Bool.false_eq_true, if_true, if_false, Option.map_some, hg, order_record hkt hkx, parityAt, hp,
    Bool.not_true, Bool.or_false]
  rfl

/-- Without CEN a marker goes on with the marker it is ordered behind. -/
theorem gateRule_marker {x : Token} (hcen : v.w.imm.getLsbD 1 = false) (hoen : v.w.imm.getLsbD 0 = true) (ht : v.data 0 = some t)
    (hrem : v.op.rem = 0) (hk : t.kind = .marker) (hx : v.data 1 = some x) (hkx : x.kind = .marker) (hl : x.level = t.level) :
    gateRule v = some (t, Claims.slotDoes (passMarker v.op t) [0, 1] [] [(0, t)] [] []) := by
  have hg : govern v.op (some t) (some (ctlTok true (t.kind == .marker))) = .marker t (ctlTok true (t.kind == .marker)) :=
    govern_marker hrem hk (beq_iff_eq.2 hk)
  have hp : (ctlTok true (t.kind == .marker)).parityOk = true := by cases t.kind == .marker <;> rfl
  simp only [gateRule, imm_bit, hcen, hoen, ht, hx, Bool.false_eq_true, if_true, if_false, Option.map_some, hg, order_marker hk hkx hl, parityAt, hp]
  rfl

end

/-- Settles O28: a ready slot fires its rule, and each case of a rule is one lemma above. -/
theorem recordSlots : Obligations.RecordSlots := by
  unfold Obligations.RecordSlots
  intro s v t c h fires does tag bad inside oen cen dp
  refine ⟨?_, ?_, ?_, ?_, ?_, ?_, ?_, ?_, ?_, ?_⟩
  · exact fun ht hc hrem hk hb _ => runSlot_ready h (steerRule_record ht hc hrem hk hb)
  · exact fun ht hrem hk _ => runSlot_ready h (steerRule_inside ht hrem hk)
  · exact fun ht hc hrem hk hb _ => runSlot_ready h (steerRule_marker ht hc hrem hk hb)
  · exact fun hc hrem hb ht hk _ => runSlot_ready h (mergeRule_record hc hrem hb ht hk)
  · exact fun hrem ht hk _ => runSlot_ready h (mergeRule_inside hrem ht hk)
  · exact fun u hc hrem hb ht hu hk hku hl _ => runSlot_ready h (mergeRule_marker hc hrem hb ht hu hk hku hl)
  · intro ht hrem hk hcen hc hb hoen
    simp only [dp, hoen, Bool.false_eq_true, if_false]
    exact ⟨fun hv _ => runSlot_ready h (gateRule_sent hcen hoen ht hrem hk hc hb hv),
      fun hv _ => runSlot_ready h (gateRule_dropped hcen hoen ht hrem hk hc hb hv)⟩
  · intro x ht hrem hk hcen hoen hx hkx _
    simp only [dp, hoen, if_true]
    exact runSlot_ready h (gateRule_ordered hcen hoen ht hrem hk hx hkx)
  · intro x ht hrem hk hcen hoen hx hkx hl _
    simp only [dp, hoen, if_true]
    exact runSlot_ready h (gateRule_marker hcen hoen ht hrem hk hx hkx hl)
  · exact fun ht hrem hk _ => runSlot_ready h (gateRule_inside ht hrem hk)

end Sys2Proof.Proofs

namespace Sys2Proof.Proofs
open Sys2Proof.Machine

/-! ## Markers, headers and gated tokens (R32, R34, R41, R293, R316) -/

/-- An operator of Tables 15-1, 17-1 and 18-3 is one plain operator of its code, and its first source is SA. -/
theorem intElement_plain {i : Instr} {code : BitVec 9} {w : OpWord} {g : Nat → Nat → Nat → Nat → Nat} (hop : i.operator = some (code, w))
    (hg : Claims.intElement i = some g) :
    (∃ f, ∀ s, exec i s = runStage s w (plainOp code.toNat (decodable code.toNat) f)) ∧
      ∃ rest, sourceCodes code.toNat w = w.sa.toNat :: rest := by
  unfold Claims.intElement at hg
  split at hg <;> cases hg <;> cases hop <;> exact ⟨⟨_, fun _ => rfl⟩, _, rfl⟩

/-- Markers of one level agree. -/
theorem kindsAgree_marker {l : List Token} {level : BitVec 3} (h : ∀ t ∈ l, t.kind = .marker ∧ t.level = level) : kindsAgree l = none := by
  cases l with
  | nil => rfl
  | cons t l =>
    obtain ⟨hk, hl⟩ := h t List.mem_cons_self
    have hrest : ∀ u ∈ l, u.kind = .marker ∧ u.level = level := fun u hu => h u (List.mem_cons_of_mem t hu)
    simp only [kindsAgree, hk, hl]
    rw [if_pos (by simpa using fun u hu => (hrest u hu).1), if_neg (by simpa using fun u hu => (hrest u hu).2)]

/-- A source whose kind is not the first one's stops the operator with SUB 2. -/
theorem kindsAgree_differ {l : List Token} {d : Token} (h : ∃ u ∈ l, u.kind ≠ (l.headD d).kind) : kindsAgree l = some 2 := by
  obtain ⟨u, hu, hne⟩ := h
  cases l with
  | nil => simp at hu
  | cons t l =>
    have hul : u ∈ l := (List.mem_cons.1 hu).resolve_left fun he => hne (by rw [he]; rfl)
    rw [kindsAgree, if_neg]
    simpa using ⟨u, hul, hne⟩

section
variable {s : State} {v : View} {p : Pass} {o : StageOp}

/-- Without a gate, a marker passes with the tags of all sources (R32, R316). -/
theorem fireStage_marker (hB : o.pairB = false) (hN : o.noHeader = none) (hM : o.marker = forward) (hpg : v.w.pg = 0) (hrem : v.op.rem = 0)
    (hk : (Claims.lead p (sourceCodes o.code v.w)).kind = .marker) (hkinds : kindsAgree (Claims.portsOf p (sourceCodes o.code v.w)) = none) :
    fireStage s v p o = applyOut s v p (Claims.lead p (sourceCodes o.code v.w))
      (.emit v.op ((Claims.lead p (sourceCodes o.code v.w)).orTag ((Claims.portsOf p (sourceCodes o.code v.w)).any (·.etag)))) := by
  have hp : ((sourceCodes o.code v.w).filter (fun c => decide (c ≤ 4))).filterMap (portToken p) = Claims.portsOf p (sourceCodes o.code v.w) := rfl
  have hl : leadToken (Claims.portsOf p (sourceCodes o.code v.w)) = Claims.lead p (sourceCodes o.code v.w) := rfl
  have hcheck : ∀ d, streamCheck d v.op (Claims.lead p (sourceCodes o.code v.w)) = none := by simp [streamCheck, hrem, hk]
  have hpg' : (v.w.pg == 1) = false := by rw [hpg]; rfl
  simp only [fireStage, portCodes_unpaired _ o hB, hp, hl, hk, hN, hM, hkinds, hcheck, hpg', ite_self, Bool.false_eq_true, if_false, forward, Bool.false_or,
    Bool.false_and]

/-- Without a gate, a header sets the format of a decoding operator and passes with the tags of all sources (R34, R316). -/
theorem fireStage_header (hB : o.pairB = false) (hN : o.noHeader = none) (hH : o.header = forward) (hpg : v.w.pg = 0) (hrem : v.op.rem = 0)
    (hd : Claims.decodes v o.fmts = true) (hk : (Claims.lead p (sourceCodes o.code v.w)).kind = .header)
    (hkinds : kindsAgree (Claims.portsOf p (sourceCodes o.code v.w)) = none) (hok : hdrOk (Claims.lead p (sourceCodes o.code v.w)) = true)
    (hfmt : hdrFmt (Claims.lead p (sourceCodes o.code v.w)) ∈ o.fmts) :
    let t := Claims.lead p (sourceCodes o.code v.w)
    fireStage s v p o = applyOut s v p t
      (.emit { v.op with rem := hdrTokens t, elems := hdrCount t, sel := some true, seen := true, hdr := some t, tagged := false,
                         fmt := BitVec.ofNat 4 (hdrFmt t) }
        (t.orTag ((Claims.portsOf p (sourceCodes o.code v.w)).any (·.etag)))) := by
  have hp : ((sourceCodes o.code v.w).filter (fun c => decide (c ≤ 4))).filterMap (portToken p) = Claims.portsOf p (sourceCodes o.code v.w) := rfl
  have hl : leadToken (Claims.portsOf p (sourceCodes o.code v.w)) = Claims.lead p (sourceCodes o.code v.w) := rfl
  have hd' : (v.w.fmt == 0 && !o.fmts.isEmpty) = true := hd
  have hcheck : streamCheck true v.op (Claims.lead p (sourceCodes o.code v.w)) = none := by simp [streamCheck, hrem, hk, hok]
  have hpg' : (v.w.pg == 1) = false := by rw [hpg]; rfl
  have hfmt' : o.fmts.contains (hdrFmt (Claims.lead p (sourceCodes o.code v.w))) = true := List.contains_iff_mem.2 hfmt
  simp only [fireStage, portCodes_unpaired _ o hB, hp, hl, hd', hk, hN, hH, hkinds, hcheck, hpg', hfmt', ite_self, Bool.false_eq_true, if_false, if_true, forward,
    Bool.false_or, Bool.false_and, Bool.true_or, Bool.not_true, orTag_false, trackPacket]

/-- Behind a closed gate, bare data passes as source A has it and the gate's control token goes (R40, R41). -/
theorem fireStage_closed {c : Nat} {rest : List Nat} {t : Token} (hcodes : sourceCodes o.code v.w = c :: rest) (hB : o.pairB = false)
    (hN : o.noHeader = none) (hpg : v.w.pg = 1) (hfmt : v.w.fmt ≠ 0) (hrem : v.op.rem = 0)
    (hk : ∀ u ∈ Claims.portsOf p (c :: rest), u.kind = .data) (hgate : gateOf v.e v.op v.n .data = (.pass false, true))
    (hc : c ≠ 5) (hA : portToken p c = some t) (ht : Claims.lead p (c :: rest) = t) :
    fireStage s v p o = applyOut (s.modElem v.ea v.ctx (fun e => e.setCtlQueue (gateIndex v.e v.n) (e.ctlQueue (gateIndex v.e v.n)).tail)) v p t
      (.emit { trackPacket v.op t (some false) false with ctlN := v.op.ctlN + 1, dataN := v.op.dataN + 1 } t) := by
  have hlead : t.kind = .data := ht ▸ lead_kind_data hk
  have hp : ((c :: rest).filter (fun c => decide (c ≤ 4))).filterMap (portToken p) = Claims.portsOf p (c :: rest) := rfl
  have hl : leadToken (Claims.portsOf p (c :: rest)) = t := ht
  have hcheck : streamCheck false v.op t = none := by simp [streamCheck, hrem]
  have hpg' : (v.w.pg == 1) = true := by rw [hpg]; rfl
  have hd : (v.w.fmt == 0) = false := beq_eq_false_iff_ne.2 hfmt
  simp only [fireStage, portCodes_unpaired _ o hB, hcodes, hp, hl, hd, hlead, hN, kindsAgree_kind (by decide) hk, hcheck, hpg', hgate, hc, hA, ite_self,
    if_true, if_false, false_and, Bool.false_and, Bool.false_or, Bool.false_eq_true, orTag_false, Option.getD_some, trackPacket, countPair]
  rfl

/-- Sources of different kinds stop the operator with CTLCOUNT (R32). -/
theorem fireStage_differ (hB : o.pairB = false) (hN : o.noHeader = none) (hpg : v.w.pg = 0)
    (hkinds : kindsAgree (Claims.portsOf p (sourceCodes o.code v.w)) = some 2) :
    let t := Claims.lead p (sourceCodes o.code v.w)
    fireStage s v p o = applyOut s v p t (.stop v.op (ctlCount 2 v.n o.code v.w t)) := by
  have hp : ((sourceCodes o.code v.w).filter (fun c => decide (c ≤ 4))).filterMap (portToken p) = Claims.portsOf p (sourceCodes o.code v.w) := rfl
  have hl : leadToken (Claims.portsOf p (sourceCodes o.code v.w)) = Claims.lead p (sourceCodes o.code v.w) := rfl
  have hpg' : (v.w.pg == 1) = false := by rw [hpg]; rfl
  simp only [fireStage, portCodes_unpaired _ o hB, hp, hl, hN, hkinds, hpg', ite_self, Bool.false_eq_true, if_false]
  rfl

end

/-- The lead is one of the port tokens, where there are any. -/
theorem lead_mem {p : Pass} {codes : List Nat} (h : Claims.portsOf p codes ≠ []) : Claims.lead p codes ∈ Claims.portsOf p codes := by
  unfold Claims.lead
  cases hp : Claims.portsOf p codes with
  | nil => exact absurd hp h
  | cons t l => exact List.mem_cons_self

/-- A first source that carries a port token leads. -/
theorem lead_first {p : Pass} {c : Nat} {rest : List Nat} {t : Token} (hc : c ≤ 4) (h : portToken p c = some t) : Claims.lead p (c :: rest) = t := by
  simp [Claims.lead, Claims.portsOf, hc, h]

/-- A gate whose control token says no, with right parity, passes source A. -/
theorem gateOf_closed {e : ElemCtx} {op : OpSt} {n : Nat} {c : Ctl} {rest : List Ctl} (hrem : op.rem = 0) (hq : e.ctlQueue (gateIndex e n) = c :: rest)
    (hcut : c.cut = false) (hb : c.b = false) (hv : c.v = false) (hpar : c.par = false) : gateOf e op n .data = (.pass false, true) := by
  simp [gateOf, hrem, hq, hcut, hb, hv, Ctl.parityOk, hpar]

/-- Settles O37: an integer operator is a plain one, and each case is one lemma about what its stage does with such tokens. -/
theorem streamTokens : Obligations.StreamTokens := by
  unfold Obligations.StreamTokens
  intro s v p i code g hop hg hst ports t tagged fmts hne
  obtain ⟨⟨f, hf⟩, rest, hcodes⟩ := intElement_plain hop hg
  let o := plainOp code.toNat (decodable code.toNat) f
  have hrun : exec i s = .next (fireStage s v p o) := (hf s).trans (runStage_stands (o := o) hst rfl)
  have hmem : t ∈ ports := lead_mem hne
  refine ⟨fun hpg hk hrem => ?_, fun hpg hfmt hk hrem hok hin => ?_, fun hpg hfmt hsa hrem hk c cs hq hcut hb hv hpar => ?_, fun hpg hdiff _ => ?_⟩
  · exact hrun.trans (congrArg _ (fireStage_marker (o := o) rfl rfl rfl hpg hrem (hk t hmem).1 (kindsAgree_marker hk)))
  · have hdec : Claims.decodes v o.fmts = true := by
      have hf : o.fmts.isEmpty = false := List.isEmpty_eq_false_iff.2 (List.ne_nil_of_mem hin)
      simp [Claims.decodes, hfmt, hf]
    exact hrun.trans (congrArg _ (fireStage_header (o := o) rfl rfl rfl hpg hrem hdec (hk t hmem) (kindsAgree_kind (by decide) hk) hok hin))
  · obtain ⟨a, ha⟩ := Option.isSome_iff_exists.1 (hst.sources v.w.sa.toNat (by rw [hcodes]; exact List.mem_cons_self) hsa)
    have hlead : Claims.lead p (v.w.sa.toNat :: rest) = t := by rw [← hcodes]
    obtain rfl : a = t := (lead_first hsa ha).symm.trans hlead
    have hports : ∀ u ∈ Claims.portsOf p (v.w.sa.toNat :: rest), u.kind = .data := by rw [← hcodes]; exact hk
    exact hrun.trans (congrArg _
      (fireStage_closed (o := o) hcodes rfl rfl hpg hfmt hrem hports (gateOf_closed hrem hq hcut hb hv hpar) (by omega) ha hlead))
  · exact hrun.trans (congrArg _ (fireStage_differ (o := o) rfl rfl hpg (kindsAgree_differ hdiff)))

end Sys2Proof.Proofs

namespace Sys2Proof.Proofs
open Sys2Proof.Machine

/-! ## Tables, sites and element contexts -/

section
variable {α : Type} [DecidableEq α]

/-- A read after one write of a table. -/
theorem tabGet_tabSet {t : Tab α} {k : Nat} {v d : α} (h : tabRising none t = true) (k' : Nat) :
    tabGet (tabSet t k v d) k' d = if k' = k then v else tabGet t k' d := by
  split
  · next hk => rw [hk, tabGet_tabSet_same h]
  · next hk => exact tabGet_tabSet_other h hk

theorem tabGet_tabMod {t : Tab α} {k : Nat} {d : α} {f : α → α} (h : tabRising none t = true) (k' : Nat) :
    tabGet (tabMod t k d f) k' d = if k' = k then f (tabGet t k' d) else tabGet t k' d := by
  rw [tabMod, tabGet_tabSet h]
  split
  · next hk => rw [hk]
  · rfl

/-- Changing distinct keys one after the other changes each of them once. -/
theorem tabGet_foldl_tabMod {d : α} {g : Nat → α → α} (ks : List Nat) (hn : ks.Nodup) {t : Tab α} (h : tabRising none t = true) (k : Nat) :
    tabGet (ks.foldl (fun t c => tabMod t c d (g c)) t) k d = if k ∈ ks then g k (tabGet t k d) else tabGet t k d := by
  induction ks generalizing t with
  | nil => simp
  | cons c ks ih =>
    obtain ⟨hc, hn⟩ := List.nodup_cons.1 hn
    have hr : tabRising none (tabMod t c d (g c)) = true := tabSet_risingNone h
    rw [List.foldl_cons, ih hn hr, tabGet_tabMod h]
    by_cases hk : k = c
    · subst hk; simp [hc]
    · simp [hk]

end

/-- Dropping the keys of a page leaves the default there and every other key as it was. -/
theorem tabGet_filter_page {α : Type} {t : Tab α} {page : Nat} {d : α} (h : tabRising none t = true) (k : Nat) :
    tabGet (t.filter (fun p => p.1 / 16 != page)) k d = if k / 16 = page then d else tabGet t k d := by
  induction t with
  | nil => simp [tabGet]
  | cons p t ih =>
    obtain ⟨a, x⟩ := p
    have hbelow : ∀ k ≤ a, tabGet t k d = d := fun k hk => tabGet_below h hk
    have ih := ih (tabRising_none h)
    by_cases ha : a / 16 = page
    · rw [List.filter_cons_of_neg (by simp [ha]), ih]
      by_cases hk : k / 16 = page
      · simp [hk]
      · have hne : k ≠ a := fun he => hk (he ▸ ha)
        rw [if_neg hk, if_neg hk, tabGet, if_neg hne]
        split
        · next hlt => exact hbelow k (Nat.le_of_lt hlt)
        · rfl
    · rw [List.filter_cons_of_pos (by simp [ha]), tabGet, tabGet, ih]
      by_cases hk : k / 16 = page
      · have hne : k ≠ a := fun he => ha (he ▸ hk)
        simp [hk, hne]
      · simp [hk]

theorem site_setSite_same {s : State} {n : SiteNo} {r : Site} (h : tabRising none s.sites = true) : (s.setSite n r).site n = r :=
  tabGet_tabSet_same h

theorem site_setSite_other {s : State} {n m : SiteNo} {r : Site} (h : tabRising none s.sites = true) (hm : m ≠ n) : (s.setSite n r).site m = s.site m :=
  tabGet_tabSet_other h (fun e => hm (BitVec.eq_of_toNat_eq e))

/-- Replacing a site's registers changes nothing else of the machine. -/
theorem onlySite_setSite {s : State} {n : SiteNo} (h : tabRising none s.sites = true) (r : Site) : Claims.onlySite s (s.setSite n r) n r :=
  ⟨rfl, site_setSite_same h, fun _ hm => site_setSite_other h hm⟩

theorem elemKey_injective {ea ea' : EAddr} {c c' : BitVec 2} (h : elemKey ea c = elemKey ea' c') : (ea, c) = (ea', c') := by
  unfold elemKey at h
  have he : ea.toNat = ea'.toNat := by omega
  have hc : c.toNat = c'.toNat := by omega
  rw [BitVec.eq_of_toNat_eq he, BitVec.eq_of_toNat_eq hc]

theorem elem_modElem_same {s : State} {ea : EAddr} {c : BitVec 2} {f : ElemCtx → ElemCtx} (h : tabRising none s.elems = true) :
    (s.modElem ea c f).elem ea c = f (s.elem ea c) := tabGet_tabSet_same h

theorem elem_modElem_other {s : State} {ea ea' : EAddr} {c c' : BitVec 2} {f : ElemCtx → ElemCtx} (h : tabRising none s.elems = true)
    (hne : (ea', c') ≠ (ea, c)) : (s.modElem ea c f).elem ea' c' = s.elem ea' c' :=
  tabGet_tabSet_other h (fun he => hne (elemKey_injective he))

theorem siteEa_toNat (n : SiteNo) (e : BitVec 3) : (siteEa n e).toNat = n.toNat * 8 + e.toNat := by
  have := e.isLt
  rw [siteEa, BitVec.toNat_append, ← Nat.shiftLeft_add_eq_or_of_lt e.isLt, Nat.shiftLeft_eq]

@[simp] theorem eaSite_siteEa (n : SiteNo) (e : BitVec 3) : eaSite (siteEa n e) = n := by
  apply BitVec.eq_of_toNat_eq
  have := n.isLt
  rw [eaSite, BitVec.extractLsb'_toNat, siteEa_toNat, Nat.shiftRight_eq_div_pow]
  omega

@[simp] theorem eaElem_siteEa (n : SiteNo) (e : BitVec 3) : eaElem (siteEa n e) = e.toNat := by
  rw [eaElem, BitVec.extractLsb'_toNat, siteEa_toNat, Nat.shiftRight_zero]
  omega

/-- The body and the router of a site exist where the site does. -/
theorem eaExists_siteEa {n : SiteNo} {e : BitVec 3} (hn : siteExists n = true) (he : e.toNat < 2) : eaExists (siteEa n e) = true := by
  simp [eaExists, hn, he, Nat.lt_trans he]

/-! ## CTXARB and the adaptive window (R43, R45) -/

theorem ctxWeight_eq (a : Word) (c : BitVec 2) : ctxWeight a c = Claims.weight a c.toNat := by
  rw [ctxWeight, Claims.weight, bits, Nat.pow_mul]
  rfl

/-- Lowering the credits of the four contexts. -/
theorem lowered_credits (t : Tab Nat) (w : BitVec 2 → Nat) (h : tabRising none t = true) (c : Nat) :
    tabGet (([0, 1, 2, 3] : List (BitVec 2)).foldl (fun (cr : Tab Nat) c => tabMod cr c.toNat 0 (fun x => min x (w c))) t) c 0 =
      if c < 4 then min (tabGet t c 0) (w (BitVec.ofNat 2 c)) else tabGet t c 0 := by
  have hf := tabGet_foldl_tabMod (d := 0) (g := fun c x => min x (w (BitVec.ofNat 2 c))) [0, 1, 2, 3] (by decide) h c
  have hmem : c ∈ [0, 1, 2, 3] ↔ c < 4 := by simp; omega
  rw [if_congr hmem rfl rfl] at hf
  exact hf

section
variable {s : State} {n : SiteNo}

theorem exec_ctxarbWrite_reserved (hn : siteExists n = true) {v : Word} (hv : 2 ^ 20 ≤ v.toNat) : exec (.ctxarbWrite n v) s = .next s := by
  rw [show exec (.ctxarbWrite n v) s = execCtxarbWrite n v s from rfl, execCtxarbWrite, if_pos hn, if_pos hv]

/-- CTXARB_WRITE replaces the weights, lowers the credits and starts the window again (R43, R45). -/
theorem exec_ctxarbWrite (hn : siteExists n = true) (hs : tabRising none s.sites = true) {v : Word} (hv : v.toNat < 2 ^ 20)
    (hc : tabRising none (s.site n).credit = true) :
    ∃ u cr, exec (.ctxarbWrite n v) s = .next u ∧
      Claims.onlySite s u n { s.site n with ctxarb := v, credit := cr, occ := [], occStart := s.time } ∧
      ∀ c, tabGet cr c 0 = if c < 4 then min (tabGet (s.site n).credit c 0) (Claims.weight v c) else tabGet (s.site n).credit c 0 := by
  refine ⟨_, _, (if_pos hn).trans (congrArg _ (if_neg (Nat.not_le.2 hv))), onlySite_setSite hs _, fun c => ?_⟩
  rw [lowered_credits _ _ hc]
  by_cases hc4 : c < 4
  · rw [if_pos hc4, if_pos hc4, ctxWeight_eq, BitVec.toNat_ofNat, Nat.mod_eq_of_lt hc4]
  · rw [if_neg hc4, if_neg hc4]

/-- The adaptive window of a site ends (R45). -/
def WindowEnds (s : State) (r : Site) : Prop :=
  r.ctxarb.getLsbD 16 = true ∧ r.occStart + 256 * 2 ^ (r.ctxarb.toNat / 2 ^ 17 % 8) ≤ s.time

theorem windowEnds_iff (s : State) (r : Site) : WindowEnds s r ↔ ¬ ((!ctxAdapt r.ctxarb) = true ∨ s.time < r.occStart + ctxWindow r.ctxarb) := by
  have hbit : ctxAdapt r.ctxarb = r.ctxarb.getLsbD 16 := by
    rw [ctxAdapt, bitSet, BitVec.getLsbD, Nat.testBit_eq_decide_div_mod_eq]
    rfl
  have hwin : ctxWindow r.ctxarb = 256 * 2 ^ (r.ctxarb.toNat / 2 ^ 17 % 8) := rfl
  rw [WindowEnds, hbit, hwin]
  simp

theorem exec_adaptWindow_open (hn : siteExists n = true) (hw : ¬ WindowEnds s (s.site n)) : exec (.adaptWindow n) s = .next s := by
  rw [show exec (.adaptWindow n) s = execAdaptWindow n s from rfl, execAdaptWindow, if_pos hn, adaptAt, if_pos (not_not.1 (mt (windowEnds_iff s _).2 hw))]

/-- A maximum over a list is at most a bound that bounds every member. -/
theorem foldl_max_le {ι : Type} {f : ι → Nat} {l : List ι} {m b : Nat} : l.foldl (fun m c => max m (f c)) m ≤ b ↔ m ≤ b ∧ ∀ c ∈ l, f c ≤ b := by
  induction l generalizing m with
  | nil => simp
  | cons c l ih => rw [List.foldl_cons, ih, max_le_iff, List.forall_mem_cons, and_assoc]

/-- Contexts of a site whose weight is not zero. -/
def enabled (r : Site) : List (BitVec 2) := ([0, 1, 2, 3] : List (BitVec 2)).filter (fun c => ctxWeight r.ctxarb c != 0)

theorem mem_enabled {r : Site} {c : BitVec 2} : c ∈ enabled r ↔ Claims.weight r.ctxarb c.toNat ≠ 0 := by
  have hall : ∀ c : BitVec 2, c ∈ ([0, 1, 2, 3] : List (BitVec 2)) := by decide
  rw [enabled, List.mem_filter, and_iff_right (hall c), bne_iff_ne, ctxWeight_eq]

/-- The greatest occupancy of an enabled context. -/
def topOcc (r : Site) : Nat := (enabled r).foldl (fun m c => max m (tabGet r.occ c.toNat 0)) 0

theorem topOcc_le {r : Site} {b : Nat} : topOcc r ≤ b ↔ ∀ c, c < 4 ∧ Claims.weight r.ctxarb c ≠ 0 → tabGet r.occ c 0 ≤ b := by
  rw [topOcc, foldl_max_le]
  refine ⟨fun h c hc => ?_, fun h => ⟨Nat.zero_le b, fun c hc => h c.toNat ⟨c.isLt, mem_enabled.1 hc⟩⟩⟩
  have hcn : (BitVec.ofNat 2 c).toNat = c := by rw [BitVec.toNat_ofNat, Nat.mod_eq_of_lt hc.1]
  have := h.2 (BitVec.ofNat 2 c) (mem_enabled.2 (by rw [hcn]; exact hc.2))
  rwa [hcn] at this

theorem topOcc_eq {r : Site} {top : Nat} (hex : ∃ c, (c < 4 ∧ Claims.weight r.ctxarb c ≠ 0) ∧ tabGet r.occ c 0 = top)
    (hle : ∀ c, c < 4 ∧ Claims.weight r.ctxarb c ≠ 0 → tabGet r.occ c 0 ≤ top) : topOcc r = top := by
  obtain ⟨c, hc, rfl⟩ := hex
  exact Nat.le_antisymm (topOcc_le.2 hle) (topOcc_le.1 (Nat.le_refl _) c hc)

/-- The weights a site takes at the end of a window. -/
def newWeight (r : Site) (c : BitVec 2) : Nat :=
  if (enabled r).contains c then adaptWeight (tabGet r.occ c.toNat 0) (topOcc r) else ctxWeight r.ctxarb c

/-- What ADAPT_WINDOW makes of a site whose window has ended. -/
theorem exec_adaptWindow_ends (hn : siteExists n = true) (hw : WindowEnds s (s.site n)) :
    exec (.adaptWindow n) s = .next (s.setSite n (if topOcc (s.site n) = 0 then { s.site n with occ := [], occStart := s.time } else
      { s.site n with
        ctxarb := BitVec.ofNat 32 ((s.site n).ctxarb.toNat / 65536 * 65536 + newWeight (s.site n) 0 + 16 * newWeight (s.site n) 1
          + 256 * newWeight (s.site n) 2 + 4096 * newWeight (s.site n) 3)
        occ := [], occStart := s.time
        credit := ([0, 1, 2, 3] : List (BitVec 2)).foldl (fun (cr : Tab Nat) c => tabMod cr c.toNat 0 (fun x => min x (newWeight (s.site n) c)))
          (s.site n).credit })) := by
  rw [show exec (.adaptWindow n) s = execAdaptWindow n s from rfl, execAdaptWindow, if_pos hn, adaptAt, if_neg ((windowEnds_iff s _).1 hw)]
  by_cases ht : topOcc (s.site n) = 0
  · rw [if_pos ht]
    exact congrArg _ (if_pos ht)
  · rw [if_neg ht]
    exact congrArg _ (if_neg ht)

/-- A new weight is the rounded share of the greatest occupancy, between 1 and 15, or 0 of a context that is off (R45). -/
theorem newWeight_eq (r : Site) {c : Nat} (hc : c < 4) :
    newWeight r (BitVec.ofNat 2 c) =
      if Claims.weight r.ctxarb c ≠ 0 then max 1 (min 15 ((30 * tabGet r.occ c 0 + topOcc r) / (2 * topOcc r))) else 0 := by
  have hcn : (BitVec.ofNat 2 c).toNat = c := by rw [BitVec.toNat_ofNat, Nat.mod_eq_of_lt hc]
  have hmem : (enabled r).contains (BitVec.ofNat 2 c) = true ↔ Claims.weight r.ctxarb c ≠ 0 := by rw [List.contains_iff_mem, mem_enabled, hcn]
  by_cases hon : Claims.weight r.ctxarb c ≠ 0
  · rw [newWeight, if_pos (hmem.2 hon), if_pos hon, hcn]
    rfl
  · rw [newWeight, if_neg (mt hmem.1 hon), if_neg hon, ctxWeight_eq, hcn]
    exact not_not.1 hon

theorem newWeight_lt (r : Site) {c : Nat} (hc : c < 4) : newWeight r (BitVec.ofNat 2 c) < 16 := by
  rw [newWeight_eq r hc]
  split <;> omega

/-- Four weights below 16 in the low half of CTXARB leave its high half and read back. -/
theorem weight_pack (a w0 w1 w2 w3 : Nat) (ha : a < 2 ^ 32) (h0 : w0 < 16) (h1 : w1 < 16) (h2 : w2 < 16) (h3 : w3 < 16) :
    let x := BitVec.ofNat 32 (a / 65536 * 65536 + w0 + 16 * w1 + 256 * w2 + 4096 * w3)
    Claims.weight x 0 = w0 ∧ Claims.weight x 1 = w1 ∧ Claims.weight x 2 = w2 ∧ Claims.weight x 3 = w3 ∧ x.toNat / 2 ^ 16 = a / 2 ^ 16 := by
  intro x
  have hx : x.toNat = a / 65536 * 65536 + w0 + 16 * w1 + 256 * w2 + 4096 * w3 := by
    rw [BitVec.toNat_ofNat, Nat.mod_eq_of_lt]
    omega
  simp only [Claims.weight, hx]
  omega

/-- ADAPT_WINDOW after a window in which an enabled context was occupied (R45). -/
theorem exec_adaptWindow_weights (hn : siteExists n = true) (hs : tabRising none s.sites = true) (hw : WindowEnds s (s.site n)) {top : Nat} (h0 : 0 < top)
    (htop : topOcc (s.site n) = top) (hc : tabRising none (s.site n).credit = true) :
    ∃ (u : State) (cr : Tab Nat) (a : Word),
      let r := s.site n
      let w := fun (c : Nat) => if Claims.weight r.ctxarb c ≠ 0 then max 1 (min 15 ((30 * tabGet r.occ c 0 + top) / (2 * top))) else 0
      exec (.adaptWindow n) s = .next u ∧ Claims.onlySite s u n { r with ctxarb := a, credit := cr, occ := [], occStart := s.time } ∧
      (∀ c < 4, Claims.weight a c = w c) ∧ a.toNat / 2 ^ 16 = r.ctxarb.toNat / 2 ^ 16 ∧
      ∀ c, tabGet cr c 0 = if c < 4 then min (tabGet r.credit c 0) (w c) else tabGet r.credit c 0 := by
  subst htop
  have hrun := exec_adaptWindow_ends hn hw
  rw [if_neg (by omega)] at hrun
  obtain ⟨p0, p1, p2, p3, phi⟩ := weight_pack (s.site n).ctxarb.toNat (newWeight (s.site n) 0) (newWeight (s.site n) 1) (newWeight (s.site n) 2)
    (newWeight (s.site n) 3) (BitVec.isLt _) (newWeight_lt _ (c := 0) (by omega)) (newWeight_lt _ (c := 1) (by omega))
    (newWeight_lt _ (c := 2) (by omega)) (newWeight_lt _ (c := 3) (by omega))
  refine ⟨_, _, _, hrun, onlySite_setSite hs _, fun c h4 => ?_, phi, fun c => ?_⟩
  · refine Eq.trans ?_ (newWeight_eq (s.site n) h4)
    interval_cases c
    · exact p0
    · exact p1
    · exact p2
    · exact p3
  · rw [lowered_credits _ _ hc]
    by_cases h4 : c < 4
    · rw [if_pos h4, if_pos h4]
      exact congrArg (min _) (newWeight_eq (s.site n) h4)
    · rw [if_neg h4, if_neg h4]

/-! ## Counters and logs of a site (R89, R213, R216, R257) -/

theorem exec_rtlogClear (hn : siteExists n = true) (hs : tabRising none s.sites = true) :
    ∃ u, exec (.rtlogClear n) s = .next u ∧ Claims.onlySite s u n { s.site n with miscnt := 0, lslot := 0, lroute := 0, rsvhit := false } :=
  ⟨_, if_pos hn, onlySite_setSite hs _⟩

/-- ERRCNT_CLEAR clears the two counts of one element (R216). -/
theorem exec_errcntClear (hn : siteExists n = true) (hs : tabRising none s.sites = true) {e : BitVec 3} (he : e.toNat < 2)
    (hc : tabRising none (s.site n).ecnt = true) :
    ∃ u l, exec (.errcntClear (siteEa n e)) s = .next u ∧ Claims.onlySite s u n { s.site n with ecnt := l } ∧
      ∀ k, tabGet l k 0 = if k / 2 = e.toNat then 0 else tabGet (s.site n).ecnt k 0 := by
  have hrun : exec (.errcntClear (siteEa n e)) s = .next (clearErrcnt s (siteEa n e)) := if_pos (eaExists_siteEa hn he)
  rw [clearErrcnt, eaSite_siteEa, eaElem_siteEa] at hrun
  refine ⟨_, _, hrun, onlySite_setSite hs _, fun k => ?_⟩
  rw [tabGet_tabSet (tabSet_risingNone hc), tabGet_tabSet hc]
  split_ifs <;> omega

/-- II_COUNTER_CLEAR clears one page of an element context's counters (R257). -/
theorem exec_iiCounterClear (hn : siteExists n = true) {e : BitVec 3} {ctx agn : BitVec 2} (he : e.toNat < 2) (hs : tabRising none s.elems = true)
    (hc : tabRising none (s.elem (siteEa n e) ctx).ii = true) :
    let page := if e = 0 ∧ siteIsMt n = true then agn.toNat else 0
    ∃ u l, exec (.iiCounterClear (siteEa n e) ctx agn) s = .next u ∧ u = { s with elems := u.elems } ∧
      u.elem (siteEa n e) ctx = { s.elem (siteEa n e) ctx with ii := l } ∧
      (∀ k, tabGet l k 0 = if k / 16 = page then 0 else tabGet (s.elem (siteEa n e) ctx).ii k 0) ∧
      ∀ x c, (x, c) ≠ (siteEa n e, ctx) → u.elem x c = s.elem x c := by
  intro page
  have hpage : (if eaElem (siteEa n e) = 0 && siteIsMt (eaSite (siteEa n e)) then agn.toNat else 0) = page := by
    have h0 : e.toNat = 0 ↔ e = 0 := by rw [← BitVec.toNat_inj]; rfl
    simp [page, h0]
  have hrun : exec (.iiCounterClear (siteEa n e) ctx agn) s = .next (s.modElem (siteEa n e) ctx (fun e' => clearIi e'
      (if eaElem (siteEa n e) = 0 && siteIsMt (eaSite (siteEa n e)) then agn.toNat else 0))) := if_pos (eaExists_siteEa hn he)
  rw [hpage] at hrun
  exact ⟨_, _, hrun, rfl, elem_modElem_same hs, fun k => tabGet_filter_page hc k, fun x c hne => elem_modElem_other hs hne⟩

/-! ## Registers of a memory tile (R94, R208, R213) -/

/-- A task of the partition that owns a memory tile has a place (R94). -/
def PartHasTask (s : State) (r : Site) : Prop :=
  ∃ t ∈ s.tasks, t.uses ≠ [] ∧ ∃ l, s.launch? (t.uid / 2 ^ 32) = some l ∧ l.part = r.mtcfg.toNat / 256 % 64

theorem partHasTask_iff (s : State) (r : Site) :
    s.tasks.any (fun t => !t.uses.isEmpty && (s.launch? (t.uid / 2 ^ 32)).elim false (fun l => l.part == bits r.mtcfg.toNat 8 6)) = true ↔ PartHasTask s r := by
  simp only [List.any_eq_true, Bool.and_eq_true, Bool.not_eq_true', List.isEmpty_eq_false_iff, PartHasTask]
  refine exists_congr fun t => and_congr_right fun _ => and_congr_right fun _ => ?_
  cases s.launch? (t.uid / 2 ^ 32) with
  | none => simp
  | some l => simp [bits]

/-- Retiring the first bank of a group (R208). -/
theorem retireBank_first {b : Nat} (hfirst : retiredOf (s.site n).ax (groupOf b) = []) :
    retireBank s n b =
      { s.setSite n { s.site n with
          ax := { (s.site n).ax with
            retired := tabSet (s.site n).ax.retired (groupOf b) [inGroup b] []
            pipes := if 16 ≤ b then tabSet (s.site n).ax.pipes (groupOf b) [] [] else (s.site n).ax.pipes } } with
        plat := { s.plat with pclog := s.plat.pclog ++ [.retiredBank n.toNat b], retire := true } } := by
  have hl : retiredOf (axOf s n) (groupOf b) = [] := hfirst
  rw [retireBank, hl]
  rfl

section
variable (hn : siteExists n = true) (hm : siteIsMt n = true)
include hn hm

/-- MTCFG_WRITE with a CBSZ of Table 3-6 (R94). -/
theorem exec_mtcfgWrite {v : Word} (hv : v.toNat % 16 ≤ 8) : exec (.mtcfgWrite n v) s = .next (writeMtcfg s n v) := by
  have hcheck : checkMt true false 0 45 v.toNat = none := by simp [checkMt, must, hv]
  rw [show exec (.mtcfgWrite n v) s = execMtcfgWrite n v s from rfl, execMtcfgWrite, hn, hm, hcheck]
  rfl

theorem exec_mtcfgWrite_accepted (hs : tabRising none s.sites = true) {v : Word} (hv : v.toNat % 16 ≤ 8)
    (h : v.toNat % 16 = (s.site n).mtcfg.toNat % 16 ∨ ¬ PartHasTask s (s.site n)) :
    ∃ u, exec (.mtcfgWrite n v) s = .next u ∧ Claims.onlySite s u n { s.site n with mtcfg := v &&& 0x3F1F#32 } := by
  refine ⟨_, (exec_mtcfgWrite hn hm hv).trans (congrArg _ (if_neg fun hc => ?_)), onlySite_setSite hs _⟩
  rcases h with h | h
  · exact hc.1 (by simpa [bits] using h)
  · exact h ((partHasTask_iff s _).1 hc.2)

theorem exec_mtcfgWrite_ignored {v : Word} (hv : v.toNat % 16 ≤ 8) (hne : v.toNat % 16 ≠ (s.site n).mtcfg.toNat % 16) (h : PartHasTask s (s.site n)) :
    exec (.mtcfgWrite n v) s = .next (s.log (.mtcfgIgnored n.toNat)) :=
  (exec_mtcfgWrite hn hm hv).trans (congrArg _ (if_pos ⟨by simpa [bits] using hne, (partHasTask_iff s _).2 h⟩))

/-- AXOLOTL_COUNTER_CLEAR with bit 0 set clears the six counters (R213). -/
theorem exec_axolotlCounterClear (hs : tabRising none s.sites = true) :
    ∃ u, exec (.axolotlCounterClear n 1) s = .next u ∧ Claims.onlySite s u n
      { s.site n with ax := { (s.site n).ax with recon := 0, degrd := 0, rwait := 0, wstall := 0, scrpm := 0, sweeps := 0 } } := by
  refine ⟨_, ?_, onlySite_setSite hs _⟩
  rw [show exec (.axolotlCounterClear n 1) s = execAxolotlCounterClear n 1 s from rfl, execAxolotlCounterClear, hn, hm]
  rfl

theorem exec_axolotlCounterClear_zero : exec (.axolotlCounterClear n 0) s = .next s := by
  rw [show exec (.axolotlCounterClear n 0) s = execAxolotlCounterClear n 0 s from rfl, execAxolotlCounterClear, hn, hm]
  rfl

/-- A retire command names a bank in its low bits (R213). -/
theorem exec_bankRetireCommand {v b : Nat} (hb : b < 20) (hv : v = b ∨ v = 2 ^ 31 + b) :
    exec (.bankRetireCommand n (BitVec.ofNat 32 v)) s = .next (if v = b then s else retireBank s n b) := by
  have hval : (BitVec.ofNat 32 v).toNat = v := by
    rw [BitVec.toNat_ofNat, Nat.mod_eq_of_lt]
    omega
  have hcheck : checkParity 5 v = none := by
    have h5 : bits v 5 26 = 0 := by
      rw [bits]
      omega
    have h32 : v % 32 < 20 := by omega
    simp [checkParity, must, firstFail, h5, h32]
  have hbit : v / 2 ^ 31 = 1 ↔ v ≠ b := by omega
  have hlow : v % 32 = b := by omega
  rw [show exec (.bankRetireCommand n (BitVec.ofNat 32 v)) s = execBankRetireCommand n (BitVec.ofNat 32 v) s from rfl, execBankRetireCommand, hn, hm,
    hval, hcheck, writeParity, hval, hlow, if_congr hbit rfl rfl, ite_not]
  rfl

/-- BANK_RETIRE_COMMAND retires the first bank of a group; a parity bank also loses its pending updates (R208, R213). -/
theorem exec_bankRetireCommand_first (hs : tabRising none s.sites = true) {b : Nat} (hb : b < 20)
    (hr : tabRising none (s.site n).ax.retired = true) (hp : tabRising none (s.site n).ax.pipes = true)
    (hfirst : retiredOf (s.site n).ax (groupOf b) = []) :
    ∃ u l p, exec (.bankRetireCommand n (BitVec.ofNat 32 (2 ^ 31 + b))) s = .next u ∧ u = { s with sites := u.sites, plat := u.plat } ∧
      u.plat = { s.plat with pclog := s.plat.pclog ++ [.retiredBank n.toNat b], retire := true } ∧
      u.site n = { s.site n with ax := { (s.site n).ax with retired := l, pipes := p } } ∧ (∀ m, m ≠ n → u.site m = s.site m) ∧
      (∀ j, tabGet l j [] = if j = groupOf b then [inGroup b] else tabGet (s.site n).ax.retired j []) ∧
      ∀ j, tabGet p j [] = if 16 ≤ b ∧ j = groupOf b then [] else tabGet (s.site n).ax.pipes j [] := by
  have hrun := exec_bankRetireCommand (s := s) hn hm hb (.inr rfl)
  rw [if_neg (by omega), retireBank_first hfirst] at hrun
  refine ⟨_, _, _, hrun, rfl, rfl, site_setSite_same hs, fun m hne => site_setSite_other hs hne, tabGet_tabSet hr, fun j => ?_⟩
  by_cases h16 : 16 ≤ b
  · rw [if_pos h16, tabGet_tabSet hp]
    simp only [h16, true_and]
  · rw [if_neg h16, if_neg (fun h => h16 h.1)]

end

end

/-! ## The obligation -/

/-- Settles O42, one register at a time. -/
theorem siteRegisters : Obligations.SiteRegisters := by
  unfold Obligations.SiteRegisters
  intro s n hn hs r occ lowered closes on
  refine ⟨fun v hv hc => exec_ctxarbWrite hn hs hv hc, fun v hv => exec_ctxarbWrite_reserved hn hv,
    fun top hw h0 hc hex hle => exec_adaptWindow_weights hn hs hw h0 (topOcc_eq hex hle) hc, fun hw hzero => ?_,
    fun hw => exec_adaptWindow_open hn hw, exec_rtlogClear hn hs, fun e he hc => exec_errcntClear hn hs he hc,
    fun e ctx agn he hse hc => exec_iiCounterClear hn he hse hc, fun hm => ⟨fun v hv => ?_, exec_axolotlCounterClear hn hm hs,
      exec_axolotlCounterClear_zero hn hm, fun b hb => ?_, fun b hb hr hp hfirst => exec_bankRetireCommand_first hn hm hs hb hr hp hfirst⟩⟩
  · have htop : topOcc (s.site n) = 0 := Nat.le_zero.1 (topOcc_le.2 fun c hc => Nat.le_of_eq (hzero c hc))
    have hrun := exec_adaptWindow_ends hn hw
    rw [if_pos htop] at hrun
    exact ⟨_, hrun, onlySite_setSite hs _⟩
  · exact ⟨fun h => exec_mtcfgWrite_accepted hn hm hs hv h, fun hne h => exec_mtcfgWrite_ignored hn hm hv hne h⟩
  · rw [exec_bankRetireCommand hn hm hb (.inl rfl), if_pos rfl]

end Sys2Proof.Proofs

namespace Sys2Proof.Proofs
open Sys2Proof.Machine

/-! ## Accumulators (R84) -/

/-- Every accumulator of a site has its own key. -/
theorem acsKey_injective {z z' : SiteNo} {b b' r r' c c' : Nat} (hb : b < 2) (hb' : b' < 2) (hr : r < 256) (hr' : r' < 256) (hc : c < 32)
    (hc' : c' < 32) (h : acsKey z b r c = acsKey z' b' r' c') : z = z' ∧ b = b' ∧ r = r' ∧ c = c' := by
  unfold acsKey at h
  have hz : z.toNat = z'.toNat := by omega
  exact ⟨BitVec.eq_of_toNat_eq hz, by omega, by omega, by omega⟩

theorem acsKey_add (z : SiteNo) (b r c n : Nat) : acsKey z b r (c + n) = acsKey z b r c + n := by
  unfold acsKey; omega

/-- The machine with n columns of an accumulator row written, from column c0 on. -/
def writeCols (s : State) (z : SiteNo) (b r c0 : Nat) (g : Nat → Nat) (n : Nat) : State :=
  (List.range n).foldl (fun s j => accSet s z b r (c0 + j) (g j)) s

section
variable {s : State} {z : SiteNo} {b r c0 : Nat} {g : Nat → Nat}

theorem writeCols_succ (n : Nat) : writeCols s z b r c0 g (n + 1) = accSet (writeCols s z b r c0 g n) z b r (c0 + n) (g n) := by
  rw [writeCols, List.range_succ, List.foldl_concat]; rfl

theorem writeCols_frame (n : Nat) : writeCols s z b r c0 g n = { s with acs := (writeCols s z b r c0 g n).acs } := by
  induction n with
  | zero => rfl
  | succ n ih => rw [writeCols_succ, ih]; rfl

theorem writeCols_rising (h : tabRising none s.acs = true) (n : Nat) : tabRising none (writeCols s z b r c0 g n).acs = true := by
  induction n with
  | zero => exact h
  | succ n ih => rw [writeCols_succ]; exact tabSet_risingNone ih

/-- The written columns have consecutive keys, and no other key changes. -/
theorem tabGet_writeCols (h : tabRising none s.acs = true) (n k : Nat) :
    tabGet (writeCols s z b r c0 g n).acs k 0 =
      if acsKey z b r c0 ≤ k ∧ k < acsKey z b r c0 + n then BitVec.ofNat 32 (g (k - acsKey z b r c0)) else tabGet s.acs k 0 := by
  induction n with
  | zero => rw [if_neg (by omega)]; rfl
  | succ n ih =>
    rw [writeCols_succ, accSet, tabGet_tabSet (writeCols_rising h n), ih, acsKey_add]
    by_cases hk : k = acsKey z b r c0 + n
    · rw [if_pos hk, if_pos (by omega), hk, Nat.add_sub_cancel_left]
    · rw [if_neg hk]
      exact if_congr (by omega) rfl rfl

/-- A written column holds its number. -/
theorem accGet_writeCols (h : tabRising none s.acs = true) {n j : Nat} (hj : j < n) :
    accGet (writeCols s z b r c0 g n) z b r (c0 + j) = g j % 2 ^ 32 := by
  rw [accGet, tabGet_writeCols h, acsKey_add, if_pos (by omega), Nat.add_sub_cancel_left, BitVec.toNat_ofNat]

/-- Every other accumulator reads as before. -/
theorem otherAccs_writeCols (h : tabRising none s.acs = true) {n : Nat} (hb : b < 2) (hr : r < 256) (hc : c0 + n ≤ 32) :
    Claims.otherAccs s (writeCols s z b r c0 g n) z b (fun r' c => r' = r ∧ c0 ≤ c ∧ c < c0 + n) := by
  intro z' b' r' c' hb' hr' hc' hne
  rw [Claims.accOf, accGet, tabGet_writeCols h, if_neg]
  · rfl
  · intro ⟨hle, hlt⟩
    obtain ⟨j, hj⟩ := Nat.exists_eq_add_of_le hle
    have hjn : j < n := by omega
    rw [← acsKey_add] at hj
    obtain ⟨rfl, rfl, rfl, rfl⟩ := acsKey_injective hb' hb hr' hr hc' (by omega) hj
    exact hne ⟨rfl, rfl, rfl, Nat.le_add_right .., Nat.add_lt_add_left hjn _⟩

/-- Writing back what the columns hold changes no accumulator. -/
theorem accGet_writeCols_self (h : tabRising none s.acs = true) (n : Nat) (z' : SiteNo) (b' r' c' : Nat) :
    accGet (writeCols s z b r c0 (fun j => accGet s z b r (c0 + j)) n) z' b' r' c' = accGet s z' b' r' c' := by
  rw [accGet, tabGet_writeCols h]
  split
  · next hk => rw [accGet, acsKey_add, Nat.add_sub_of_le hk.1, BitVec.ofNat_toNat, BitVec.setWidth_eq]; rfl
  · rfl

end

/-! ## Rows of a packet (R65 to R69, R386, R387) -/

/-- The elements of a row that take part (R386, R387). -/
def rowTerms (sh : Shape) (blocked : Bool) (tile : Tile) (a : Nat → Option Nat) : List Nat :=
  (List.range (min sh.k tile.kcnt)).filter (fun k => (a k).isSome && !(blocked && subBlockEmpty sh.fmt sh.n tile.elems k))

/-- What column n of a row becomes. -/
def rowSum (s : State) (site : SiteNo) (sh : Shape) (blocked : Bool) (tile : Tile) (scA row : Nat) (a : Nat → Option Nat) (n : Nat) :
    Nat × Bool × Bool :=
  accumulate sh scA tile.scale (accGet s site sh.bank row (sh.col + n)) ((rowTerms sh blocked tile a).map (fun k =>
    (operandVal sh.fmt ((a k).getD 0), operandVal sh.fmt (tile.elems / 2 ^ (fmtWidth sh.fmt * (k * sh.n + n)) % 2 ^ fmtWidth sh.fmt))))

section
variable {s : State} {v : View} {sh : Shape} {blocked : Bool} {tile : Tile} {scA row : Nat} {a : Nat → Option Nat}

/-- With no NaN to report, the columns of the row are written; the overflow mark of the site may rise. -/
theorem rowProducts_untrapped (h : tabRising none s.acs = true) :
    ∃ u, rowProducts s v sh blocked tile scA row a false = (u, none) ∧ u = { s with acs := u.acs, sites := u.sites } ∧
      ∀ z b r c, accGet u z b r c =
        accGet (writeCols s (eaSite v.ea) sh.bank row sh.col (fun n => (rowSum s (eaSite v.ea) sh blocked tile scA row a n).1) sh.n) z b r c := by
  have hrun : rowProducts s v sh blocked tile scA row a false =
      if (rowTerms sh blocked tile a).isEmpty then (s, none)
      else
        let rs := (List.range sh.n).map (fun n => (n, rowSum s (eaSite v.ea) sh blocked tile scA row a n))
        let s := rs.foldl (fun s r => accSet s (eaSite v.ea) sh.bank row (sh.col + r.1) r.2.1) s
        (if rs.any (fun r => r.2.2.2) then
          s.modSite (eaSite v.ea) (fun t => { t with iovf := t.iovf ||| BitVec.ofNat 4 (2 ^ v.ctx.toNat) })
         else s, none) := rfl
  rw [hrun]
  split
  · next hempty =>
    refine ⟨s, rfl, rfl, fun z b r c => ?_⟩
    have hsum : (fun n => (rowSum s (eaSite v.ea) sh blocked tile scA row a n).1) =
        fun n => accGet s (eaSite v.ea) sh.bank row (sh.col + n) := by
      funext n
      rw [rowSum, List.isEmpty_iff.1 hempty]
      rfl
    rw [hsum, accGet_writeCols_self h]
  · have hfold : ((List.range sh.n).map (fun n => (n, rowSum s (eaSite v.ea) sh blocked tile scA row a n))).foldl
        (fun s r => accSet s (eaSite v.ea) sh.bank row (sh.col + r.1) r.2.1) s =
        writeCols s (eaSite v.ea) sh.bank row sh.col (fun n => (rowSum s (eaSite v.ea) sh blocked tile scA row a n).1) sh.n := List.foldl_map
    dsimp only
    rw [hfold]
    refine ⟨_, rfl, ?_, fun z b r c => ?_⟩ <;> rw [writeCols_frame] <;> split <;> rfl

/-- A row in the window whose tile can be read goes to the accumulators. -/
theorem runRow_tile {s1 : State} {code m : Nat} {h side : Token} {tagged : Bool} (hwin : v.e.acsRow sh.bank (sh.row + m) = true)
    (hread : readTile s v sh h = (s1, .tile tile false)) (htrap : nanTrap s1 v.e.task = false)
    {u : State} (hrow : rowProducts s1 v sh (code == 193) tile (hdrScaleA h) (sh.row + m) a false = (u, none)) :
    runRow s v code sh h m tagged a side = (u, none) := by
  simp only [runRow, hwin, hread, htrap, Bool.not_true, Bool.false_and, Bool.false_eq_true, if_false, hrow]

end

/-- A window of Table 17-4 that holds a row (R84). -/
theorem acsRow_of_inWindow {v : View} {bank row : Nat} (h : Claims.inWindow v bank row) : v.e.acsRow bank row = true := by
  obtain ⟨hmax, hbase, hlen⟩ := h
  simp only [ElemCtx.acsRow, ElemCtx.field, bits, Bool.and_eq_true, decide_eq_true_eq, Nat.pow_zero, Nat.div_one]
  exact ⟨⟨hmax, hbase⟩, hlen⟩

/-- The tokens of the row that a data token completes; the header's tag goes with them (R386). -/
def rowTokens (v : View) (o : Operands) (h : Token) : List Token := v.op.toks ++ [{ o.a with etag := o.side.etag || h.etag }]

/-- The token that completes a row runs the row. -/
theorem mmaOp_data_row {s u : State} {v : View} {o : Operands} {code : Nat} {h : Token} (hsa : v.w.sa ≠ 5) (hrem : 0 < v.op.rem)
    (hh : v.op.hdr = some h) (hlast : (shapeOf v.w).sc = true → v.op.toks ≠ [] ∨ v.op.rem = 1)
    (hrow : runRow s v code (shapeOf v.w) h v.op.visited ((rowTokens v o h).any (·.etag))
      (rowElem (shapeOf v.w) v.op.elems (rowTokens v o h)) o.side = (u, none)) :
    (mmaOp code).data s v o = (u, { StageOut.quiet { v.op with
        rem := v.op.rem - 1, toks := [], visited := v.op.visited + 1, elems := v.op.elems - (shapeOf v.w).k } with
      poison := (rowTokens v o h).any (·.etag) }) := by
  have hfirst : ((shapeOf v.w).sc && v.op.toks.isEmpty && decide (1 < v.op.rem)) = false := by
    cases hsc : (shapeOf v.w).sc with
    | false => rfl
    | true =>
      rcases hlast hsc with ht | h1
      · simp [ht]
      · simp [h1]
  unfold rowTokens at hrow ⊢
  simp only [mmaOp, hsa, hrem.ne', hh, hfirst, hrow, Bool.false_eq_true, if_false]

/-- Settles O19: `mma` and `mmab` differ only in the zero blocks that `mmab` leaves out of the sums. -/
theorem matrixRows : Obligations.MatrixRows := by
  unfold Obligations.MatrixRows
  intro s s1 v p popped h tile failed hacs at_
  have hrow : ∀ i code, exec i s = runStage s v.w (mmaOp code) → at_ i code := by
    intro i code hi hdata hsa hrem hh hlast hwin hcols hpg hread hsame htrap hfailed
    subst hfailed
    have hacs1 : tabRising none s1.acs = true := hsame ▸ hacs
    have hget : ∀ z b r c, accGet s1 z b r c = accGet s z b r c := fun z b r c => by rw [accGet, accGet, hsame]
    obtain ⟨u, hprod, hframe, hcol⟩ := rowProducts_untrapped (v := v) (sh := shapeOf v.w) (blocked := code == 193) (tile := tile)
      (scA := hdrScaleA h) (row := (shapeOf v.w).row + v.op.visited)
      (a := rowElem (shapeOf v.w) v.op.elems (rowTokens v (Claims.operands v p code []) h)) hacs1
    refine ⟨u, fun n hn => ?_, fun z b r c hb hr hc hne => ?_, hframe, hi.trans (runStage_onData hdata rfl rfl rfl ?_ rfl)⟩
    · rw [Claims.accOf, hcol, accGet_writeCols hacs1 hn, rowSum, hget]
      rfl
    · rw [Claims.accOf, hcol]
      exact (otherAccs_writeCols hacs1 (Nat.mod_lt _ (by decide)) (Nat.lt_succ_of_le hwin.1) hcols z b r c hb hr hc hne).trans (hget z b r c)
    · have hfollowed : Claims.followed v p code [] = v.op := by simp [Claims.followed, Claims.decodes, hpg]
      rw [hfollowed]
      exact mmaOp_data_row hsa hrem hh hlast (runRow_tile (acsRow_of_inWindow hwin) hread htrap hprod)
  exact ⟨hrow _ _ rfl, hrow _ _ rfl⟩

end Sys2Proof.Proofs

namespace Sys2Proof.Proofs
open Sys2Proof.Machine

/-! ## Tokens computed element by element (R30, R54) -/

/-- Every format is 8, 16, 32 or 64 bits wide, or names none. -/
theorem fmtWidth_cases (f : Nat) : fmtWidth f = 0 ∨ fmtWidth f = 8 ∨ fmtWidth f = 16 ∨ fmtWidth f = 32 ∨ fmtWidth f = 64 := by
  unfold fmtWidth; split <;> decide

theorem fmtElems_le (f : Nat) : fmtElems f ≤ 64 := by
  unfold fmtElems
  rcases fmtWidth_cases f with h | h | h | h | h <;> rw [h] <;> decide

/-- A field that lies within n bits is that of the number truncated to n bits. -/
theorem field_mod {n r w : Nat} (x : Nat) (h : r + w ≤ n) : x % 2 ^ n / 2 ^ r % 2 ^ w = x / 2 ^ r % 2 ^ w := by
  obtain ⟨k, rfl⟩ := Nat.exists_eq_add_of_le h
  rw [Nat.add_assoc, Nat.pow_add, Nat.mod_mul_right_div_self, Nat.pow_add, Nat.mod_mul_right_mod]

/-- An element that does not cross a lane is a field of its lane. -/
theorem elemNat_lane (p : Line) {w i : Nat} (h : w * i % 32 + w ≤ 32) :
    elemNat p w i = laneNat p (w * i / 32) / 2 ^ (w * i % 32) % 2 ^ w := by
  rw [laneNat, field_mod _ h, Nat.div_div_eq_div_mul, ← Nat.pow_add, Nat.div_add_mod, elemNat]

/-- Clearing the invalid lanes leaves a payload's elements, where the invalid ones are zero. -/
theorem elemNat_maskPay {p : Line} {m : BitVec 16} {f i : Nat} (hi : i < fmtElems f)
    (h0 : elemValid m (fmtWidth f) i = false → elemNat p (fmtWidth f) i = 0) :
    elemNat (maskPay p m) (fmtWidth f) i = elemNat p (fmtWidth f) i := by
  have hfit := fmtWidth_mul_le hi
  by_cases h64 : fmtWidth f = 64
  · rw [h64] at hfit h0 ⊢
    rw [elemNat_64, laneNat_maskPay _ _ (by omega), laneNat_maskPay _ _ (by omega), elemNat_64]
    cases hv : elemValid m 64 i with
    | true =>
      obtain ⟨hlo, hhi⟩ : maskBit m (2 * i) = true ∧ maskBit m (2 * i + 1) = true := by simpa [elemValid] using hv
      rw [if_pos hlo, if_pos hhi]
    | false =>
      have hz := h0 hv
      rw [elemNat_64] at hz
      rw [show laneNat p (2 * i) = 0 by omega, show laneNat p (2 * i + 1) = 0 by omega, ite_self, ite_self]
  · have hin : fmtWidth f * i % 32 + fmtWidth f ≤ 32 := by
      rcases fmtWidth_cases f with h | h | h | h | h <;> rw [h] at h64 ⊢ <;> omega
    rw [elemNat_lane _ hin, elemNat_lane _ hin, laneNat_maskPay _ _ (by
      rcases fmtWidth_cases f with h | h | h | h | h <;> rw [h] at hfit h64 ⊢ <;> omega)]
    cases hm : maskBit m (fmtWidth f * i / 32) with
    | true => rw [if_pos rfl]
    | false =>
      have hz := h0 (by rw [elemValid, if_neg h64, hm])
      rw [elemNat_lane _ hin] at hz
      rw [hz, if_neg Bool.false_ne_true, Nat.zero_div, Nat.zero_mod]

/-- A result token with regenerated residues is a computed one, when its payload holds the elements. -/
theorem computed_resultToken {x : Operands} {m : BitVec 16} {pay : Line} {f : Nat} {g : Nat → Nat}
    (h : ∀ i < fmtElems f, elemNat pay (fmtWidth f) i = if elemValid m (fmtWidth f) i then g i else 0) :
    Claims.Computed x (resultToken x m pay none) m f g := by
  have hres : ∀ j < 16, resNat (regenRes (maskPay pay m) m) j = if maskBit m j then laneNat (maskPay pay m) j % 15 else 0 := by
    intro j hj
    have h15 : laneNat (maskPay pay m) j % 15 % 16 = laneNat (maskPay pay m) j % 15 := by omega
    rw [regenRes, resNat_lanes _ hj, apply_ite (· % 16), residue15, h15]
  refine ⟨rfl, fun i hi => ?_, fun j hj hm => ⟨?_, ?_⟩, fun _ j hj hm => ?_⟩
  · exact (elemNat_maskPay hi (fun hv => by rw [h i hi, hv]; rfl)).trans (h i hi)
  · exact (laneNat_maskPay _ _ hj).trans (by rw [hm]; rfl)
  · exact (hres j hj).trans (by rw [hm]; rfl)
  · exact (hres j hj).trans (by rw [hm]; rfl)

theorem computed_mapElems (x : Operands) (m : BitVec 16) (f : Nat) (g : Nat → Nat) :
    Claims.Computed x (resultToken x m (mapElems f m g) none) m f (fun k => g k % 2 ^ fmtWidth f) := by
  refine computed_resultToken fun i hi => ?_
  rw [mapElems, elemNat_elemsToPay (fmtWidth_mul_le hi), List.getD_eq_getElem _ _ (by simpa using hi), List.getElem_map, List.getElem_range,
    apply_ite (· % 2 ^ fmtWidth f), Nat.zero_mod]

/-- Element 0 alone, in the lanes it needs (R377). -/
theorem computed_first (x : Operands) (f r : Nat) :
    Claims.Computed x (resultToken x (if fmtWidth f = 64 then 3 else 1) (elemsToPay (fmtWidth f) [r]) none) (if fmtWidth f = 64 then 3 else 1) f
      (fun k => if k = 0 then r % 2 ^ fmtWidth f else 0) := by
  refine computed_resultToken fun i hi => ?_
  rw [elemNat_elemsToPay (fmtWidth_mul_le hi)]
  cases i with
  | zero =>
    have hvalid : elemValid (if fmtWidth f = 64 then 3 else 1) (fmtWidth f) 0 = true := by
      by_cases h64 : fmtWidth f = 64
      · rw [h64]; rfl
      · rw [elemValid, if_neg h64, if_neg h64, Nat.mul_zero]; rfl
    rw [hvalid]; rfl
  | succ i => simp

/-- No element (R377). -/
theorem computed_empty (x : Operands) (f : Nat) : Claims.Computed x (resultToken x 0 0 none) 0 f (fun _ => 0) :=
  computed_resultToken fun i _ => by rw [ite_self, elemNat, BitVec.ofNat_eq_ofNat, BitVec.toNat_zero, Nat.zero_div, Nat.zero_mod]

/-- An operator whose body computes one token emits it when the NaN trap does not stop it (R70, R217). -/
theorem runStage_pureData_untrapped {s : State} {v : View} {p : Pass} {o : StageOp} {code n : Nat} {fmts : List Nat} {popped : Bool}
    {f : View → Operands → BitVec 16 × ElemResult} {r : BitVec 16 × ElemResult}
    (h : Claims.OnData s v p code fmts popped) (hc : o.code = code) (hf : o.fmts = fmts) (hB : o.pairB = false) (hd : o.data = pureData n f)
    (he : f { v with op := Claims.followed v p code fmts } (Claims.operands v p code fmts) = r)
    (hnan : nanTrap s v.e.task = false ∨ (Claims.operands v p code fmts).side.etag = true ∨ r.2.nan = none) :
    runStage s v.w o = .next (Claims.fired s v p code popped (Claims.withRandom (Claims.operands v p code fmts)
      (.emit (Claims.followed v p code fmts) (resultToken (Claims.operands v p code fmts) r.1 r.2.pay r.2.pred)))) := by
  refine runStage_onData h hc hf hB ?_ rfl
  simp only [hd, pureData, he]
  cases hr : r.2.nan with
  | none => rfl
  | some i =>
    have htrap : (nanTrap s v.e.task && !(Claims.operands v p code fmts).side.etag) = false := by
      rcases hnan with hn | hn | hn
      · rw [hn]; rfl
      · rw [hn, Bool.not_true, Bool.and_false]
      · rw [hn] at hr; cases hr
    simp only [htrap, Bool.false_eq_true, if_false]

/-! ## Integers (R53, R56) -/

theorem intOf_eq_num (f p : Nat) : intOf (fmtWidth f) (fmtSigned f) p = Claims.num f p := by simp [intOf, Claims.num]

theorem wrapInt_eq_wrap (w : Nat) (x : Int) : wrapInt w x = Claims.wrap w x := by
  rw [wrapInt, Claims.wrap, BitVec.toNat_ofInt, Nat.cast_pow]; rfl

theorem satInt_eq_wrap (w : Nat) (signed : Bool) (x : Int) :
    satInt w signed x = Claims.wrap w (max (if signed then -2 ^ (w - 1) else 0) (min (if signed then 2 ^ (w - 1) - 1 else 2 ^ w - 1) x)) := by
  have hhalf : (0 : Int) < 2 ^ (w - 1) := by positivity
  have hfull : (0 : Int) < 2 ^ w := by positivity
  rw [satInt, wrapInt_eq_wrap]
  congr 1
  cases signed <;> simp only [Bool.false_eq_true, if_false, if_true] <;> omega

theorem deliverInt_eq_deliver (f : Nat) (sat : BitVec 1) (x : Int) : deliverInt f (sat == 1) x = Claims.deliver f sat x := by
  simp only [deliverInt, satInt_eq_wrap, wrapInt_eq_wrap, Claims.deliver, beq_iff_eq]
  split <;> rfl

/-! ## Trees (R72, R377) -/

theorem fold_eq_combine (op f : Nat) (sat : BitVec 1) (rnd : BitVec 2) (x y : Nat) :
    fold op f (sat == 1) (rndOf rnd) x y = Claims.combine op f sat rnd x y := by
  unfold fold Claims.combine
  split
  · rfl
  · simp only [intOf_eq_num, deliverInt_eq_deliver]
    match op with
    | 0 => rfl
    | 1 => exact (if_congr Int.not_le.symm rfl rfl).trans (ite_not ..)
    | 2 => exact (if_congr Int.not_le.symm rfl rfl).trans (ite_not ..)
    | 3 => rfl
    | 4 => rfl
    | _ + 5 => rfl

theorem canonNan_eq_canonical (f x : Nat) : canonNan f x = Claims.canonical f x := by simp [canonNan, Claims.canonical]

theorem treeLevel_eq_pairUp (g : Nat → Nat → Nat) (l : List (Option Nat)) : treeLevel g l = Claims.pairUp g l := by
  induction l using treeLevel.induct with
  | case1 x y t ih => rw [treeLevel, Claims.pairUp, ih]
  | case2 x t ih => rw [treeLevel, Claims.pairUp, ih]
  | case3 y t ih => rw [treeLevel, Claims.pairUp, ih]
  | case4 x => simp [treeLevel, Claims.pairUp]
  | case5 => rfl

theorem treeFold_eq_tree (g : Nat → Nat → Nat) (n : Nat) (l : List (Option Nat)) : treeFold g n l = Claims.tree g n l := by
  induction n generalizing l with
  | zero => rfl
  | succ n ih => rw [treeFold, Claims.tree, ih, treeLevel_eq_pairUp]

/-- The members of a tree below a bound, as the claims list them. -/
theorem members_eq_below (x : Operands) (n : Nat) : members x n = Claims.below x n := by
  refine List.map_congr_left fun i _ => ?_
  simp

/-- No token has more than 64 elements, so that the bound of the whole token is no bound. -/
theorem below_fmtElems (x : Operands) : Claims.below x (fmtElems x.fmt) = Claims.below x 64 := by
  refine List.map_congr_left fun i hi => ?_
  have hlt := List.mem_range.1 hi
  have h64 := Nat.lt_of_lt_of_le hlt (fmtElems_le x.fmt)
  simp [hlt, h64]

/-- The model's tree over some members, for the operation of a word. -/
def wordTree (w : OpWord) (f : Nat) (l : List (Option Nat)) : Option Nat × Bool := treeOf (bits w.imm.toNat 0 3) f (w.sat == 1) (rndOf w.rnd) l

theorem bits_rop (w : OpWord) : bits w.imm.toNat 0 3 = w.imm.toNat % 8 := by rw [bits, Nat.pow_zero, Nat.div_one]; rfl

theorem redFormats_eq (w : OpWord) : (if w.fmt = 0 then redFormats w else []) = Claims.reductionFormats w := by
  rw [redFormats, bits_rop]; rfl

theorem wordFold_eq (w : OpWord) (f : Nat) :
    fold (bits w.imm.toNat 0 3) f (w.sat == 1) (rndOf w.rnd) = Claims.combine (w.imm.toNat % 8) f w.sat w.rnd := by
  rw [bits_rop]
  exact funext fun x => funext fun y => fold_eq_combine ..

theorem wordTree_fst (w : OpWord) (f : Nat) (l : List (Option Nat)) :
    (wordTree w f l).1 = (Claims.tree (Claims.combine (w.imm.toNat % 8) f w.sat w.rnd) 6 l).map (Claims.canonical f) := by
  have hcanon : canonNan f = Claims.canonical f := funext (canonNan_eq_canonical f)
  simp only [wordTree, treeOf, wordFold_eq, hcanon, treeFold_eq_tree]

/-- The tree's mark is a NaN of members that are none (R70). -/
theorem wordTree_snd (w : OpWord) (f : Nat) (l : List (Option Nat)) : (wordTree w f l).2 = true ↔ Claims.freshNan w f l := by
  have hmem : (l.any (fun x => x.any (fun y => fmtFloat f && isNaN (floatFmt f) y))) = false ↔
      ∀ q, some q ∈ l → ¬ (fmtFloat f = true ∧ isNaN (floatFmt f) q = true) := by
    simp only [List.any_eq_false, Option.any_eq_true, Bool.and_eq_true]
    exact ⟨fun h q hq hn => h _ hq ⟨q, rfl, hn⟩, fun h x hx ⟨q, hxq, hn⟩ => h q (hxq ▸ hx) hn⟩
  rw [Claims.freshNan, ← hmem, wordTree, treeOf, wordFold_eq, bits_rop, Bool.and_eq_true, Bool.not_eq_true']

theorem floatFmt_infBits_ne_nanBits (f : Nat) : (floatFmt f).infBits ≠ (floatFmt f).nanBits := by
  unfold floatFmt; split <;> decide

theorem identityOf_eq_emptyTree {op f : Nat} (h : fmtFloat f = true → op ≤ 2) : identityOf op f = Claims.emptyTree op f := by
  have hsign : withSign (floatFmt f) true (floatFmt f).infBits = (floatFmt f).signBit + (floatFmt f).infBits := by
    rw [withSign, if_neg (floatFmt_infBits_ne_nanBits f), if_pos rfl]
  unfold identityOf Claims.emptyTree
  cases hf : fmtFloat f with
  | true =>
    have hop := h hf
    interval_cases op
    · rfl
    · rfl
    · exact hsign
  | false =>
    match op with
    | 0 => rfl
    | 1 => rfl
    | 2 => rfl
    | 3 => rfl
    | _ + 4 => rfl

theorem bitSet_toNat {n : Nat} (x : BitVec n) (i : Nat) : bitSet x.toNat i = x.getLsbD i := by
  rw [bitSet, BitVec.getLsbD, Nat.testBit_eq_decide_div_mod_eq]; rfl

/-- An empty tree gives no lane; another its result in every valid lane, or in element 0 (R377). -/
def lredBody (w : OpWord) (o : Operands) : BitVec 16 × ElemResult :=
  let tree := wordTree w o.fmt (members o (fmtElems o.fmt))
  match tree.1 with
  | none => (0, { pay := 0, pred := none, nan := none })
  | some r =>
    if bitSet w.imm.toNat 3 then
      (o.mask, { pay := mapElems o.fmt o.mask (fun _ => r), pred := none, nan := if tree.2 then some 0 else none })
    else
      (if fmtWidth o.fmt = 64 then 3 else 1, { pay := elemsToPay (fmtWidth o.fmt) [r], pred := none, nan := if tree.2 then some 0 else none })

/-- Element i is the tree of the elements below it, or up to it (R377). -/
def lscanBody (w : OpWord) (o : Operands) : BitVec 16 × ElemResult :=
  let tree := fun (i : Nat) => wordTree w o.fmt (members o (if bitSet w.imm.toNat 3 then i else i + 1))
  (o.mask, { pay := mapElems o.fmt o.mask (fun i => (tree i).1.getD (identityOf (bits w.imm.toNat 0 3) o.fmt))
             pred := none
             nan := lowestElem o.fmt o.mask o.count (fun i => (tree i).2) })

section
variable {w : OpWord} {x : Operands}

/-- The token that a body makes of the operands. -/
def bodyToken (x : Operands) (r : BitVec 16 × ElemResult) : Token := resultToken x r.1 r.2.pay r.2.pred

/-- The tree whose result `lred` delivers. -/
def lredTree (w : OpWord) (x : Operands) : Option Nat :=
  Claims.tree (Claims.combine (w.imm.toNat % 8) x.fmt w.sat w.rnd) 6 (Claims.below x 64)

theorem wordTree_members (w : OpWord) (x : Operands) :
    (wordTree w x.fmt (members x (fmtElems x.fmt))).1 = (lredTree w x).map (Claims.canonical x.fmt) := by
  rw [members_eq_below, below_fmtElems, wordTree_fst]; rfl

theorem computed_lredBody_none (h : lredTree w x = none) : Claims.Computed x (bodyToken x (lredBody w x)) 0 x.fmt (fun _ => 0) := by
  simp only [lredBody, wordTree_members, h]
  exact computed_empty x x.fmt

theorem computed_lredBody_some {r : Nat} (h : lredTree w x = some r) :
    if w.imm.getLsbD 3 then Claims.Computed x (bodyToken x (lredBody w x)) x.mask x.fmt (fun _ => Claims.canonical x.fmt r % 2 ^ fmtWidth x.fmt)
    else Claims.Computed x (bodyToken x (lredBody w x)) (if fmtWidth x.fmt = 64 then 3 else 1) x.fmt
      (fun k => if k = 0 then Claims.canonical x.fmt r % 2 ^ fmtWidth x.fmt else 0) := by
  simp only [lredBody, wordTree_members, h, bitSet_toNat]
  cases w.imm.getLsbD 3 with
  | true => exact computed_mapElems x x.mask x.fmt (fun _ => Claims.canonical x.fmt r)
  | false => exact computed_first x x.fmt (Claims.canonical x.fmt r)

theorem lredBody_nan (h : ¬ Claims.freshNan w x.fmt (Claims.below x 64)) : (lredBody w x).2.nan = none := by
  rw [← wordTree_snd, Bool.not_eq_true] at h
  simp only [lredBody, members_eq_below, below_fmtElems, h, Bool.false_eq_true, if_false]
  split
  · rfl
  · split <;> rfl

/-- The token of `lscan`: one tree per element. -/
theorem computed_lscanBody (h : fmtFloat x.fmt = true → w.imm.toNat % 8 ≤ 2) :
    Claims.Computed x (bodyToken x (lscanBody w x)) x.mask x.fmt
      (fun k => (((Claims.tree (Claims.combine (w.imm.toNat % 8) x.fmt w.sat w.rnd) 6
        (Claims.below x (if w.imm.getLsbD 3 then k else k + 1))).map (Claims.canonical x.fmt)).getD
          (Claims.emptyTree (w.imm.toNat % 8) x.fmt)) % 2 ^ fmtWidth x.fmt) := by
  simp only [bodyToken, lscanBody, wordTree_fst, members_eq_below, bits_rop, identityOf_eq_emptyTree h, bitSet_toNat]
  exact computed_mapElems ..

theorem lscanBody_nan
    (h : ∀ k, ¬ (k < fmtElems x.fmt ∧ Claims.freshNan w x.fmt (Claims.below x (if w.imm.getLsbD 3 then k else k + 1)))) :
    (lscanBody w x).2.nan = none := by
  refine List.find?_eq_none.2 fun k hk => ?_
  have hfresh : (wordTree w x.fmt (members x (if bitSet w.imm.toNat 3 then k else k + 1))).2 ≠ true := by
    rw [members_eq_below, bitSet_toNat]
    exact fun hn => h k ⟨List.mem_range.1 hk, (wordTree_snd ..).1 hn⟩
  exact fun hn => hfresh (Bool.and_eq_true_iff.1 hn).2

end

/-- A firing whose NaNs are not trapped meets the body's side condition. -/
theorem untrapped_nan {s : State} {v : View} {x : Operands} {bad : Nat → Prop} {nan : Option Nat} (h : Claims.Untrapped s v x bad)
    (hnan : (∀ k, ¬ bad k) → nan = none) : nanTrap s v.e.task = false ∨ x.side.etag = true ∨ nan = none :=
  h.imp_right (Or.imp_right hnan)

section
variable {s : State} {v : View} {p : Pass} {popped : Bool}

theorem exec_lred (h : Claims.OnData s v p 132 (Claims.reductionFormats v.w) popped) :
    let x := Claims.operands v p 132 (Claims.reductionFormats v.w)
    Claims.Untrapped s v x (fun _ => Claims.freshNan v.w x.fmt (Claims.below x 64)) →
    exec (.lred v.w) s = .next (Claims.fired s v p 132 popped (Claims.withRandom x
      (.emit (Claims.followed v p 132 (Claims.reductionFormats v.w)) (bodyToken x (lredBody v.w x))))) := by
  intro x htrap
  rw [show exec (.lred v.w) s = execLred v.w s from rfl, execLred]
  refine runStage_pureData_untrapped (r := lredBody v.w x) h rfl (redFormats_eq v.w) rfl (plainOp_data ..) ?_
    (untrapped_nan htrap fun hn => lredBody_nan (hn 0))
  rw [lredBody, wordTree]
  dsimp only
  generalize treeOf (bits v.w.imm.toNat 0 3) x.fmt (v.w.sat == 1) (rndOf v.w.rnd) (members x (fmtElems x.fmt)) = tree
  obtain ⟨r, bad⟩ := tree
  cases r <;> rfl

theorem exec_lscan (h : Claims.OnData s v p 133 (Claims.reductionFormats v.w) popped) :
    let x := Claims.operands v p 133 (Claims.reductionFormats v.w)
    Claims.Untrapped s v x (fun k => k < fmtElems x.fmt ∧
      Claims.freshNan v.w x.fmt (Claims.below x (if v.w.imm.getLsbD 3 then k else k + 1))) →
    exec (.lscan v.w) s = .next (Claims.fired s v p 133 popped (Claims.withRandom x
      (.emit (Claims.followed v p 133 (Claims.reductionFormats v.w)) (bodyToken x (lscanBody v.w x))))) := by
  intro x htrap
  rw [show exec (.lscan v.w) s = execLscan v.w s from rfl, execLscan]
  exact runStage_pureData_untrapped (r := lscanBody v.w x) h rfl (redFormats_eq v.w) rfl (plainOp_data ..) rfl
    (untrapped_nan htrap lscanBody_nan)

end

/-- Settles O16: both operators deliver their trees, which are the claimed ones. -/
theorem reductions : Obligations.Reductions := by
  unfold Obligations.Reductions
  intro s v p popped fmts rop _
  refine ⟨fun hdata _ htrap => ⟨bodyToken _ (lredBody v.w _), ?_, exec_lred hdata htrap⟩,
    fun hdata hop htrap => ⟨bodyToken _ (lscanBody v.w _), computed_lscanBody hop, exec_lscan hdata htrap⟩⟩
  split
  case h_1 h => exact computed_lredBody_none h
  case h_2 r h => exact computed_lredBody_some h

end Sys2Proof.Proofs

namespace Sys2Proof.Proofs
open Sys2Proof.Machine

/-! ## Data addresses of a sequencer (Table 3-8) -/

theorem inRange_iff {s : State} {site : SiteNo} {off n : Nat} : inRange s site off n = true ↔ off + n ≤ programRange s site := decide_eq_true_iff

section
variable {s : State} {b : BitVec 6} {x : DWord} {n : Nat}

/-- The local data RAM. -/
theorem sqPlace_ram (h : x.toNat / 2 ^ 60 = 0xE) :
    sqPlace s b x n n = if x.toNat % 2 ^ 60 / 2 ^ 12 ≠ 0 then .error 1
      else if x.toNat % n = 0 then .ok (.ram (x.toNat % 4096)) else .error 3 := by
  rw [show x.toNat % 2 ^ 60 / 2 ^ 12 = bits x.toNat 12 48 by simp only [bits]; omega]
  simp only [sqPlace, h]

/-- The block scratchpad. -/
theorem sqPlace_spad (h : x.toNat / 2 ^ 60 = 0xF) :
    sqPlace s b x n n = if x.toNat % 2 ^ 60 / 2 ^ 25 ≠ 0 then .error 1
      else if programRange s (blockMt b.toNat (x.toNat / 2 ^ 21 % 16)) < x.toNat % 2 ^ 21 / n * n + n then .error 2
      else if x.toNat % n = 0 then .ok (.spad (blockMt b.toNat (x.toNat / 2 ^ 21 % 16)) (x.toNat % 2 ^ 21)) else .error 3 := by
  rw [show x.toNat % 2 ^ 60 / 2 ^ 25 = bits x.toNat 25 35 by simp only [bits]; omega]
  simp only [sqPlace, h, blockSpad, inRange_iff, ← not_le, ite_not]

/-- Device memory. -/
theorem sqPlace_device (h : x.toNat / 2 ^ 60 = 0) :
    sqPlace s b x n n = if x.toNat % 2 ^ 60 / 2 ^ 57 ≠ 0 then .error 1
      else if x.toNat % n = 0 then .ok (.device x.toNat) else .error 3 := by
  rw [show x.toNat % 2 ^ 60 / 2 ^ 57 = bits x.toNat 57 3 by simp only [bits]; omega]
  simp only [sqPlace, h]

theorem sqPlace_unlisted (hE : x.toNat / 2 ^ 60 ≠ 0xE) (hF : x.toNat / 2 ^ 60 ≠ 0xF) (h0 : x.toNat / 2 ^ 60 ≠ 0) : sqPlace s b x n n = .error 1 := by
  unfold sqPlace
  dsimp only
  split
  · contradiction
  · contradiction
  · contradiction
  · rfl

end

/-- Settles O2, one space of Table 3-8 at a time. -/
theorem dataAddresses : Obligations.DataAddresses := by
  unfold Obligations.DataAddresses
  intro s b x n _ top low r
  refine ⟨fun ht hl => ?_, fun ht hl => ?_, fun ht hl => ?_, fun ht hl => ?_, fun ht hl => ?_, fun ht hl => ?_, sqPlace_unlisted⟩
  · exact (sqPlace_ram ht).trans (if_pos hl)
  · exact (sqPlace_ram ht).trans (if_neg (not_not.2 hl))
  · exact (sqPlace_spad ht).trans (if_pos hl)
  · exact (sqPlace_spad ht).trans (if_neg (not_not.2 hl))
  · exact (sqPlace_device ht).trans (if_pos hl)
  · exact (sqPlace_device ht).trans (if_neg (not_not.2 hl))

end Sys2Proof.Proofs

namespace Sys2Proof.Proofs
open Sys2Proof.Machine

/-! ## Sequencer instructions that trap, and halted sequencers (R106, R241) -/

/-- What a trap makes of the registers (R241). -/
theorem trap_eq_trapped (q : Sq) (a : DWord) (code sub : BitVec 8) (detail : BitVec 48) :
    q.trap a code sub detail = Claims.trapped q a code.toNat sub.toNat detail.toNat := by
  have hcause : causeWord code sub detail = BitVec.ofNat 64 (detail.toNat % 2 ^ 48 * 2 ^ 16 + sub.toNat % 256 * 256 + code.toNat % 256) := by
    apply BitVec.eq_of_toNat_eq
    rw [causeWord, BitVec.toNat_append, BitVec.toNat_append, ← Nat.shiftLeft_add_eq_or_of_lt code.isLt, ← Nat.shiftLeft_add_eq_or_of_lt sub.isLt,
      Nat.shiftLeft_eq, Nat.shiftLeft_eq, BitVec.toNat_ofNat]
    omega
  have hpc : 32 * code.setWidth 64 = BitVec.ofNat 64 (32 * code.toNat) := by bv_omega
  have hepc : (if code = 5 then a + 4 else a) = if code.toNat = 5 then a + 4 else a :=
    if_congr ⟨fun h => h ▸ rfl, fun h => BitVec.eq_of_toNat_eq h⟩ rfl rfl
  rw [Sq.trap, Claims.trapped, hcause, hpc, hepc]

/-- A trap is taken from the pc of its instruction. -/
theorem takeTrap_eq (s : State) (b : BitVec 6) (code sub : BitVec 8) (detail : BitVec 48) :
    takeTrap s b code sub detail = s.setSq b (Claims.trapped (s.sq b) (s.sq b).pc code.toNat sub.toNat detail.toNat) :=
  congrArg (s.setSq b) (trap_eq_trapped ..)

/-- An instruction of a sequencer that runs is its meaning for that sequencer. -/
theorem runSq_of_runs {s : State} {b : BitVec 6} (h : Claims.Runs s b) (f : State → BitVec 6 → State) : runSq s f = .next (f s b) := by
  obtain ⟨hfocus, hrun, hhold⟩ := h
  exact runSq_runs hfocus hrun hhold

theorem dataAddr_eq_address (q : Sq) (a : BitVec 5) (o : BitVec 16) : dataAddr q a o = Claims.address q a o := by
  rw [dataAddr, sext16, Claims.address, BitVec.ofInt_add, BitVec.ofInt_natCast, BitVec.ofNat_toNat, BitVec.setWidth_eq, BitVec.signExtend]

theorem exec_loadOf {i : Instr} {d a : BitVec 5} {o : BitVec 16} {n : Nat} {f : Nat → DWord} (h : Claims.loadOf i = some (d, a, o, n, f)) (s : State) :
    exec i s = sqLoadOp s d a o n f := by
  unfold Claims.loadOf at h
  split at h
  case h_8 => cases h
  all_goals cases h; rfl

theorem exec_storeOf {i : Instr} {d a : BitVec 5} {o : BitVec 16} {n : Nat} (h : Claims.storeOf i = some (d, a, o, n)) (s : State) :
    exec i s = sqStoreOp s d a o n := by
  unfold Claims.storeOf at h
  split at h
  case h_5 => cases h
  all_goals cases h; rfl

theorem exec_atomicOf {g : BitVec 5 → DWord} {i : Instr} {d a : BitVec 5} {w : DWord → Option DWord} (h : Claims.atomicOf g i = some (d, a, w))
    (s : State) : ∃ new, exec i s = sqAtomic s d a new := by
  unfold Claims.atomicOf at h
  split at h
  case h_4 => cases h
  all_goals cases h; dsimp only [exec, execAmadd, execAmswp, execAmcas]; exact ⟨_, rfl⟩

theorem exec_supervisorForm {i : Instr} (h : Claims.supervisorForm i = true) (s : State) :
    ∃ f : State → BitVec 6 → State, exec i s = runSq s (fun s k => supervisorOnly s k (f s k)) := by
  unfold Claims.supervisorForm at h
  split at h
  case h_11 => cases h
  all_goals
    dsimp only [exec, execEret, execCfgs, execCfgw, execCfgq, execQappWork, execTlbi, execShdn, execSealRange, execMark, execRsm, passDebug]
    exact ⟨_, rfl⟩

theorem exec_tsk_halted {s : State} {b : BitVec 6} (hf : s.focus = .sq b) (hr : (s.sq b).run = false) (d a : BitVec 5) :
    exec (.tsk d a) s = .next s := by rw [show exec (.tsk d a) s = execTsk d a s from rfl, execTsk, runSq_halted hf hr]

/-- Whatever a sequencer fetches and decodes runs on its behalf, and so does nothing while it is halted. -/
theorem exec_encodeSq_halted {s : State} {b : BitVec 6} {i : Instr} (hi : (encodeSq i).isSome = true) (hf : s.focus = .sq b)
    (hr : (s.sq b).run = false) : exec i s = .next s := by
  cases i
  case tsk d a => exact exec_tsk_halted hf hr d a
  all_goals first
    | exact absurd hi Bool.false_ne_true
    | simp only [exec, execAddSequencer, execSubSequencer, execAndSequencer, execOrSequencer, execXorSequencer, execShlSequencer, execShrSequencer,
        execSraSequencer, execMulSequencer, execMulhSequencer, execDiv, execRem, execSlt, execSltn, execAddi, execAndi, execOri, execXori, execShli,
        execShri, execSrai, execSlti, execLhi, execCrc, execBeq, execBne, execBlt, execBge, execBltn, execBgen, execJal, execJr, execLb, execLbn, execLh,
        execLhn, execLw, execLwn, execLq, execSb, execSh, execSw, execSq, execAmadd, execAmswp, execAmcas, execMfs, execMts, execSvc, execEret, execWfe,
        execFen, execEvp, execCfgs, execCfgw, execCfgq, execQappEngine, execQappWork, execQfen, execBara, execBarw, execTlbi, execShdn,
        execSealRange, execMark, execRsm, sqOp2, sqOp1, sqDivide, sqBranch, sqLoadOp, sqStoreOp, sqAtomic, runSq_halted hf hr]

section
variable {s : State} {b : BitVec 6} {i : Instr} {sub : BitVec 8}

theorem exec_load_undecoded (hr : Claims.Runs s b) {d a : BitVec 5} {o : BitVec 16} {n : Nat} {f : Nat → DWord}
    (hi : Claims.loadOf i = some (d, a, o, n, f)) (hp : sqPlace s b (Claims.address (s.sq b) a o) n n = .error sub) :
    exec i s = .next (takeTrap s b 4 sub 0) := by
  rw [exec_loadOf hi, sqLoadOp, runSq_of_runs hr, dataAddr_eq_address, sqLoad, hp]

theorem exec_store_undecoded (hr : Claims.Runs s b) {d a : BitVec 5} {o : BitVec 16} {n : Nat}
    (hi : Claims.storeOf i = some (d, a, o, n)) (hp : sqPlace s b (Claims.address (s.sq b) a o) n n = .error sub) :
    exec i s = .next (takeTrap s b 4 sub 0) := by
  rw [exec_storeOf hi, sqStoreOp, runSq_of_runs hr, dataAddr_eq_address, sqStore, hp]

theorem exec_atomic_undecoded (hr : Claims.Runs s b) {d a : BitVec 5} {w : DWord → Option DWord}
    (hi : Claims.atomicOf (s.sq b).getG i = some (d, a, w)) (hp : sqPlace s b ((s.sq b).getG a) 8 8 = .error sub) :
    exec i s = .next (takeTrap s b 4 sub 0) := by
  obtain ⟨new, he⟩ := exec_atomicOf hi s
  rw [he, sqAtomic, runSq_of_runs hr]
  simp only [hp]

end

/-- Settles O4: a form goes through its shared runner, which traps or, for a halted sequencer, does nothing. -/
theorem trappedAndHalted : Obligations.TrappedAndHalted := by
  unfold Obligations.TrappedAndHalted
  refine ⟨fun s b i sub hr => ⟨fun d a o n f hi hp => ?_, fun d a o n hi hp => ?_, fun d a w hi hp => ?_⟩, fun s b i hr hi hu => ?_,
    fun s b i hf hr hi => ?_⟩
  · rw [exec_load_undecoded hr hi hp, takeTrap_eq]; rfl
  · rw [exec_store_undecoded hr hi hp, takeTrap_eq]; rfl
  · rw [exec_atomic_undecoded hr hi hp, takeTrap_eq]; rfl
  · obtain ⟨f, he⟩ := exec_supervisorForm hi s
    rw [he, runSq_of_runs hr, supervisorOnly_user hu, takeTrap_eq]; rfl
  · exact exec_encodeSq_halted hi hf hr

end Sys2Proof.Proofs

namespace Sys2Proof.Proofs
open Sys2Proof.Machine

/-! ## The machine after reset -/

section
variable (ea : EAddr) (c : BitVec 2)

theorem readField_reset_ct (h : kindOf ea = some .ct) : readField State.reset ea c 19 = 1 ∧ readField State.reset ea c 44 = 0x40000 := by
  simp only [readField, h]; exact ⟨rfl, rfl⟩

theorem readField_reset_mt (h : kindOf ea = some .mt) : readField State.reset ea c 45 = 0x12 := by
  simp only [readField, h]; rfl

theorem readField_reset_router (h : kindOf ea = some .router) : readField State.reset ea c 44 = 0xACE14800 := by
  simp only [readField, h]; rfl

theorem readField_reset_router_depth (h : kindOf ea = some .router) {f : Nat} (hl : 48 ≤ f) (hu : f < 56) :
    readField State.reset ea c f = 0x00800001 := by
  simp only [readField, h]; interval_cases f <;> rfl

theorem readField_reset_monitor (h : kindOf ea = some .monitor) : readField State.reset ea c 1 = 0xF6B := by
  simp only [readField, h]; rfl

theorem readField_reset_parity (h : kindOf ea = some .parity) : readField State.reset ea c 0 = 0x402B := by
  simp only [readField, h]; rfl

theorem readField_reset_group (h : kindOf ea = some .parity) {f : Nat} (hl : 1 ≤ f) (hu : f < 5) : readField State.reset ea c f = 0x3F := by
  simp only [readField, h]; interval_cases f <;> rfl

end

theorem getG_reset (r : BitVec 5) : Sq.reset.getG r = 0 := by
  rw [Sq.getG]; split <;> rfl

theorem reset_tables : Claims.Tables State.reset := by
  simp [Claims.Tables, State.reset, tabRising]

/-- Settles O57: every table is empty, so that each register reads its default, which is its reset value. -/
theorem resetState : Obligations.ResetState := by
  unfold Obligations.ResetState
  refine ⟨⟨reset_memories_wf, reset_tables⟩, fun b => ?_, fun _ => ⟨rfl, rfl, rfl, rfl⟩, fun _ => ⟨rfl, rfl, rfl, rfl⟩, ⟨rfl, rfl, rfl⟩, fun ea c =>
    ⟨fun h => ⟨(readField_reset_ct ea c h).1, (readField_reset_ct ea c h).2, fun _ => rfl⟩, readField_reset_mt ea c,
      fun h => ⟨readField_reset_router ea c h, fun _ => readField_reset_router_depth ea c h⟩, readField_reset_monitor ea c,
      fun h => ⟨readField_reset_parity ea c h, fun _ => readField_reset_group ea c h⟩⟩⟩
  exact ⟨rfl, rfl, getG_reset, rfl, rfl, rfl, rfl, rfl, rfl, rfl, rfl, rfl, rfl, rfl, rfl, rfl, rfl, rfl⟩

end Sys2Proof.Proofs

namespace Sys2Proof.Proofs
open Sys2Proof.Machine

/-! ## The instruction of a move (R103, R106, R178, R276, R289) -/

/-- What a step does with the state and the instruction of its move. -/
def ran (p : State × Option Instr) : Host.Outcome State Fault Refusal := p.2.elim (.next p.1) (fun i => exec i p.1)

theorem accepts_running {state : BitVec 3} (h3 : state ≠ 3) (h4 : state ≠ 4) (m : Move) : accepts state m = true := by
  have h3 : state.toNat ≠ 3 := fun h => h3 (BitVec.eq_of_toNat_eq h)
  have h4 : state.toNat ≠ 4 := fun h => h4 (BitVec.eq_of_toNat_eq h)
  unfold accepts
  split
  · rfl
  · simpa using h3
  · simpa using ⟨h3, h4⟩

theorem advance_eq (s : State) : advance s = { s with time := s.time + s.elapse.headD 1, elapse := s.elapse.tail } := by
  unfold advance
  split <;> simp_all

section
variable {s u : State} {m : Move}

theorem takeMove_next (h : Claims.Next s m u) : takeMove s = (u, some m) := by
  obtain ⟨-, -, ⟨rest, hb, rfl⟩ | ⟨rest, hb, ha, rfl⟩⟩ := h
  · simp only [takeMove, hb]
  · simp only [takeMove, hb, ha, advance_eq]

theorem next_state (h : Claims.Next s m u) : u.plat.state ≠ 3 ∧ u.plat.state ≠ 4 := by
  obtain ⟨h3, h4, ⟨rest, -, rfl⟩ | ⟨rest, -, -, rfl⟩⟩ := h <;> exact ⟨h3, h4⟩

/-- A step runs the instruction of its move. -/
theorem step_next (h : Claims.Next s m u) : step s = ran (moveInstr u m) := by
  obtain ⟨h3, h4⟩ := next_state h
  have hn : nextInstr s = moveInstr u m := by simp only [nextInstr, takeMove_next h, accepts_running h3 h4 m, if_true]
  rw [step, hn]
  obtain ⟨t, _ | i⟩ := moveInstr u m <;> rfl

end

/-! ### Sequencers -/

section
variable {u : State} {b : BitVec 6}

section
variable {x : State × List Tlb × XOut} (hx : x = translate u (u.sq b).tlb (u.sq b).part.toNat (u.sq b).pc.toNat fetchIntent)
include hx

/-- The word read under EX goes into the instruction cache. -/
theorem fetchMemory_ok {y : Xlated} (ho : x.2.2 = .ok y) :
    let filled := x.1.modSq b (fun q => { q with tlb := x.2.1 })
    let w := BitVec.ofNat 32 (memNat x.1.dmem y.pa 4)
    fetchMemory u b = ((touch filled y.pa 4).modSq b (fun r => { r with icache := icacheAdd r.icache (u.sq b).pc.toNat w }), .word w) := by
  obtain ⟨t, l, o⟩ := x
  cases ho
  simp only [fetchMemory, ← hx, State.modSq_dmem]

theorem fetchMemory_wait (ho : x.2.2 = .wait) : fetchMemory u b = (x.1.modSq b (fun q => { q with tlb := x.2.1 }), .wait) := by
  obtain ⟨t, l, o⟩ := x
  cases ho
  simp only [fetchMemory, ← hx]

theorem fetchMemory_fail {r : Nat} (ho : x.2.2 = .fail r) (hr : r ≠ 1) :
    fetchMemory u b = (x.1.modSq b (fun q => { q with tlb := x.2.1 }), .fail (fetchSub r) 0) := by
  obtain ⟨t, l, o⟩ := x
  cases ho
  simp only [fetchMemory, ← hx]

end

theorem fetchWord_cached {w : Word} (hh : (u.sq b).hold = none) (hc : icacheGet (u.sq b).icache (u.sq b).pc.toNat = some w) :
    fetchWord u b = (u, .word w) := by simp only [fetchWord, hh, hc]

theorem fetchWord_uncached (hh : (u.sq b).hold = none) (hc : icacheGet (u.sq b).icache (u.sq b).pc.toNat = none) :
    fetchWord u b = fetchMemory u b := by simp only [fetchWord, hh, hc]

theorem sqNext_halted (hr : (u.sq b).run = false) : sqNext u b = (u, none) := by simp [sqNext, hr]

theorem sqNext_interrupt (hi : interruptible u b = true) : sqNext u b = (u, some .eventInterrupt) := by
  have hr : (u.sq b).run = true := by
    simp only [interruptible, Bool.and_eq_true] at hi
    exact hi.1.1.1.1.1
  simp [sqNext, hr, hi]

section
variable {t : State} (hr : (u.sq b).run = true) (hi : interruptible u b = false)
include hr hi

theorem sqNext_word {w : Word} {i : Instr} (hf : fetchWord u b = (t, .word w)) (hd : decodeSq w = .ok i) : sqNext u b = (t, some i) := by
  simp [sqNext, hr, hi, hf, hd]

theorem sqNext_undefined {w : Word} {e : DecodeError} (hf : fetchWord u b = (t, .word w)) (hd : decodeSq w = .error e) :
    sqNext u b = (t, some .illegalInstruction) := by
  simp [sqNext, hr, hi, hf, hd]

theorem sqNext_wait (hf : fetchWord u b = (t, .wait)) : sqNext u b = (t, none) := by
  simp [sqNext, hr, hi, hf]

theorem sqNext_fail {sub : BitVec 8} {detail : BitVec 48} (hf : fetchWord u b = (t, .fail sub detail)) :
    sqNext u b = (t, some (.instructionFetchFault sub detail)) := by
  simp [sqNext, hr, hi, hf]

end

end

/-! ### Loaders and engines -/

theorem loaderNext_whole {u : State} {b : BitVec 6} {w : Word} {vs : List Word} {i : Instr} (hr : (u.sq b).run = true) (hl : (u.sq b).lfault = none)
    (ho : (u.sq b).opened = w :: vs) (hw : commandLength w ≤ vs.length) (hd : decodeCommand w vs = .ok i) : loaderNext u b = (u, some i) := by
  have hwhole : openComplete (u.sq b).opened = true := by rw [ho]; exact decide_eq_true hw
  have hfill : loaderFill u b = u := by simp only [loaderFill, hr, hl, gatherWords, hwhole]; rfl
  rw [loaderNext, hfill]
  simp only [hr, hwhole, Bool.and_self]
  simp only [ho, hd]

theorem engReady_countStall (u : State) (b : BitVec 6) (q : BitVec 4) (k : Nat) : engReady (countStall u b q k) b q = engReady u b q := rfl

theorem partOfBlock_countStall (u : State) (b : BitVec 6) (q : BitVec 4) (k : Nat) (n : Nat) : partOfBlock (countStall u b q k) n = partOfBlock u n := rfl

theorem engine_countStall (u : State) (b : BitVec 6) (q : BitVec 4) (k : Nat) : (countStall u b q k).engine b q = u.engine b q := rfl

theorem engResume_free {u : State} {b : BitVec 6} {q : BitVec 4} {part : Nat} (h : (u.engine b q).fault = none) : engResume u b q part = (u, none) := by
  simp only [engResume, h]

theorem engineNext_command {u t : State} {b : BitVec 6} {q : BitVec 4} {c : BitVec 512} {i : Instr} (hr : engReady u b q = true)
    (hf : (u.engine b q).fault = none) (hc : engCommand (countStall u b q 0) b q (partOfBlock u b.toNat) = (t, .ok c))
    (hd : decodeEngine (u.engine b q).eng c = some i) : engineNext u b q = (t, some i) := by
  rw [← engine_countStall u b q 0] at hf
  rw [← partOfBlock_countStall u b q 0] at hc
  have hready := (engReady_countStall u b q 0).trans hr
  simp only [engReady, Bool.and_eq_true, beq_iff_eq, Bool.not_eq_true'] at hr
  obtain ⟨⟨-, hhead⟩, hheld⟩ := hr
  obtain ⟨rest, hitems⟩ := List.head?_eq_some_iff.1 hhead
  have hheld : engEventHeld (countStall u b q 0) b = false := hheld
  unfold engineNext
  -- how the command is read plays no part: the kernel need not look into it
  obtain ⟨read, hread⟩ : ∃ read, read = engCommand := ⟨_, rfl⟩
  rw [← hread] at hc ⊢
  simp only [hitems, hheld, hready, engResume_free hf, hc, hd, Bool.not_true, Bool.false_eq_true, if_false]

/-! ### Operators -/

theorem opInstr_ok {w : DWord} {i : Instr} (h : decodeOp w = .ok i) : opInstr w = some i := by rw [opInstr, h]; rfl

section
variable {u : State} {ea : EAddr} {c : BitVec 2} {i : Instr}

theorem stageNext_on {p : Pass} (hp : (u.elem ea c).pass = some p) (hs : (u.elem ea c).stopped = false) (hc : (u.elem ea c).captured = false)
    (hon : (u.elem ea c).stageOn p.stage = true) (hd : decodeOp ((u.elem ea c).stageWord p.stage) = .ok i) : stageNext u ea c = (u, some i) := by
  simp only [stageNext, hp, hs, hc, hon, opInstr_ok hd, Bool.or_self, Bool.false_eq_true, if_false, if_true]

theorem slot_operator {n : Nat} (hon : (u.elem ea c).slotOn n = true) (hd : decodeOp ((u.elem ea c).slotWord n) = .ok i) :
    (Move.slot ea c n).operator u = some i := by
  simp only [Move.operator, hon, opInstr_ok hd, if_true]

theorem agn_operator {n : Nat} (hon : bitSet ((u.elem ea c).agnb n) 6 = true) (hd : decodeOp ((u.elem ea c).agnWord n) = .ok i) :
    (Move.agn ea c n).operator u = some i := by
  simp only [Move.operator, hon, opInstr_ok hd, if_true]

end

section
variable {s u t : State} {m : Move} (h : Claims.Next s m u)
include h

theorem step_runs {i : Instr} (hm : moveInstr u m = ({ t with focus := m.focus }, some i)) : step s = exec i { t with focus := m.focus } := by
  rw [step_next h, hm]; rfl

theorem step_rests (hm : moveInstr u m = ({ t with focus := m.focus }, none)) : step s = .next { t with focus := m.focus } := by
  rw [step_next h, hm]; rfl

end

section
variable {s u t : State} {b : BitVec 6}

theorem moveInstr_sq {o : Option Instr} (hn : sqNext u b = (t, o)) : moveInstr u (.sq b) = ({ t with focus := (Move.sq b).focus }, o) := by
  simp only [moveInstr, hn]

/-- The word that a running sequencer takes runs as its instruction, or as the trap of an undefined word. -/
theorem step_word (h : Claims.Next s (.sq b) u) (hr : (u.sq b).run = true) (hi : interruptible u b = false) {w : Word}
    (hf : fetchWord u b = (t, .word w)) :
    (∀ i, decodeSq w = .ok i → step s = exec i { t with focus := (Move.sq b).focus }) ∧
      ∀ e, decodeSq w = .error e → step s = exec .illegalInstruction { t with focus := (Move.sq b).focus } :=
  ⟨fun _ hd => step_runs h (moveInstr_sq (sqNext_word hr hi hf hd)), fun _ hd => step_runs h (moveInstr_sq (sqNext_undefined hr hi hf hd))⟩

end

/-- Settles O55, one kind of move at a time. -/
theorem stepRunsInstruction : Obligations.StepRunsInstruction := by
  unfold Obligations.StepRunsInstruction
  intro s u m h runs rests
  refine ⟨?_, ?_, ?_, ?_, ?_, ?_, ?_⟩
  · rintro b rfl
    refine ⟨fun hr => step_rests h (moveInstr_sq (sqNext_halted hr)), fun hi => step_runs h (moveInstr_sq (sqNext_interrupt hi)), fun hr hh hi =>
      ⟨fun w hc => step_word h hr hi (fetchWord_cached hh hc), fun hn => ⟨fun y ho => ?_, fun ho => ?_, fun r ho hr1 => ?_⟩⟩⟩
    · exact step_word h hr hi ((fetchWord_uncached hh hn).trans (fetchMemory_ok rfl ho))
    · exact step_rests h (moveInstr_sq (sqNext_wait hr hi ((fetchWord_uncached hh hn).trans (fetchMemory_wait rfl ho))))
    · exact step_runs h (moveInstr_sq (sqNext_fail hr hi ((fetchWord_uncached hh hn).trans (fetchMemory_fail rfl ho hr1))))
  · rintro b w vs i rfl hr hl ho hw hd
    exact step_runs h (by simp only [moveInstr, loaderNext_whole hr hl ho hw hd])
  · rintro b q t c i rfl hr hf - hc hd
    exact step_runs h (by simp only [moveInstr, engineNext_command hr hf hc hd])
  · rintro ea c p i rfl hp hs hc hon hd
    exact step_runs h (by simp only [moveInstr, stageNext_on hp hs hc hon hd])
  · rintro ea c n i rfl hon hd
    exact step_runs h (by simp only [moveInstr, heldSource, slot_operator hon hd, Bool.false_eq_true, if_false])
  · rintro ea c n i rfl hh hon hd
    exact step_runs h (by simp only [moveInstr, hh, agn_operator hon hd, Bool.false_eq_true, if_false])
  · rintro f i rfl
    exact step_runs h rfl

end Sys2Proof.Proofs

namespace Sys2Proof.Proofs
open Sys2Proof.Machine

/-! ## Tables set twice -/

section
variable {α : Type} [DecidableEq α]

/-- A key below every listed one goes to the front. -/
theorem tabSet_below {t : Tab α} {k : Nat} {w d : α} (h : tabRising (some k) t = true) : tabSet t k w d = if w = d then t else (k, w) :: t := by
  cases t with
  | nil => rfl
  | cons p t =>
    simp only [tabRising, Bool.and_eq_true, decide_eq_true_eq] at h
    rw [tabSet, if_pos h.1]

/-- What was set first at a key is gone. -/
theorem tabSet_tabSet_same {t : Tab α} {k : Nat} {v w d : α} (h : tabRising none t = true) : tabSet (tabSet t k v d) k w d = tabSet t k w d := by
  induction t with
  | nil => by_cases hv : v = d <;> simp [tabSet, hv]
  | cons p t ih =>
    obtain ⟨k', x⟩ := p
    have ht : tabRising none t = true := tabRising_none h
    rcases lt_trichotomy k k' with hlt | rfl | hgt
    · by_cases hv : v = d <;> simp [tabSet, hlt, hv]
    · by_cases hv : v = d
      · simp only [tabSet, lt_irrefl, if_false, if_true, hv, tabSet_below h]
      · simp [tabSet, hv]
    · simp [tabSet, hgt.le.not_gt, hgt.ne', ih ht]

end

theorem setSq_setSq {s : State} {b : BitVec 6} {q r : Sq} (h : tabRising none s.sqs = true) : (s.setSq b q).setSq b r = s.setSq b r := by
  simp only [State.setSq, tabSet_tabSet_same h]

/-! ## System registers (R104, R383, R384) -/

theorem eq_ofNat_iff {n : Nat} {x : BitVec n} {k : Nat} (hk : k < 2 ^ n) : x = BitVec.ofNat n k ↔ x.toNat = k := by
  rw [← BitVec.toNat_inj, BitVec.toNat_ofNat, Nat.mod_eq_of_lt hk]

/-- User level has no access to the trap registers and SQ.TSKQ (Table 3-9). -/
theorem systemHidden_iff (x : BitVec 5) : systemHidden x = true ↔ x.toNat < 5 ∨ x.toNat = 11 := by
  rw [systemHidden, Bool.or_eq_true, decide_eq_true_eq, beq_iff_eq]
  exact or_congr_right (eq_ofNat_iff (k := 11) (by decide))

theorem systemWritable_iff (priv : Bool) (x : BitVec 5) :
    systemWritable priv x = true ↔ x.toNat = 7 ∨ priv = true ∧ ((x.toNat < 5 ∨ x.toNat = 11) ∨ x.toNat = 6) := by
  rw [systemWritable, Bool.or_eq_true, Bool.and_eq_true, Bool.or_eq_true, systemHidden_iff, beq_iff_eq, beq_iff_eq]
  exact or_congr (eq_ofNat_iff (k := 7) (by decide)) (and_congr_right' (or_congr_right (eq_ofNat_iff (k := 6) (by decide))))

theorem readSystem_unlisted {s : State} {b : BitVec 6} {x : BitVec 5} (h : 13 ≤ x.toNat) : readSystem s b x = none := by
  unfold readSystem
  dsimp only
  generalize x.toNat = n at h
  split
  case h_14 => rfl
  all_goals omega

theorem evFull_eq (q : Sq) : q.evFull = decide ((q.evTail - q.evHead).toNat = 256) := by
  rw [Sq.evFull, Bool.beq_eq_decide_eq]
  exact decide_eq_decide.2 (eq_ofNat_iff (by decide))

section
variable {s : State} {b : BitVec 6} {x : BitVec 5} (hr : Claims.Runs s b)
include hr

/-! ### mfs -/

section
variable (d : BitVec 5)

theorem exec_mfs_read {v : DWord} (hv : readSystem s b x = some v) (hp : (s.sq b).priv = true ∨ ¬ (x.toNat < 5 ∨ x.toNat = 11)) :
    exec (.mfs d x) s = .next (s.setSq b (Claims.nextPc ((s.sq b).setG d v))) := by
  have hp : ¬ (systemHidden x && !(s.sq b).priv) = true := by
    rw [Bool.and_eq_true, systemHidden_iff, Bool.not_eq_true']
    rintro ⟨hx, hu⟩
    rcases hp with hp | hp
    · rw [hp] at hu; cases hu
    · exact hp hx
  rw [show exec (.mfs d x) s = execMfs d x s from rfl, execMfs, runSq_of_runs hr, hv]
  exact congrArg _ (if_neg hp)

theorem exec_mfs_hidden (hx : x.toNat < 5 ∨ x.toNat = 11) (hu : (s.sq b).priv = false) : exec (.mfs d x) s = .next (takeTrap s b 3 1 0) := by
  have hlisted : ∃ v, readSystem s b x = some v := by
    unfold readSystem
    dsimp only
    generalize x.toNat = n at hx
    have hn : n < 13 := by omega
    interval_cases n <;> exact ⟨_, rfl⟩
  obtain ⟨v, hv⟩ := hlisted
  rw [show exec (.mfs d x) s = execMfs d x s from rfl, execMfs, runSq_of_runs hr, hv]
  exact congrArg _ (if_pos (by rw [(systemHidden_iff x).2 hx, hu]; rfl))

theorem exec_mfs_unlisted (hx : 13 ≤ x.toNat) : exec (.mfs d x) s = .next (takeTrap s b 2 1 0) := by
  rw [show exec (.mfs d x) s = execMfs d x s from rfl, execMfs, runSq_of_runs hr, readSystem_unlisted hx]

end

/-! ### mts -/

variable (a : BitVec 5)

theorem exec_mts_written (hw : x.toNat = 7 ∨ (s.sq b).priv = true ∧ ((x.toNat < 5 ∨ x.toNat = 11) ∨ x.toNat = 6)) :
    exec (.mts a x) s = .next (retire (writeSystem s b x ((s.sq b).getG a)) b id) := by
  rw [show exec (.mts a x) s = execMts a x s from rfl, execMts, runSq_of_runs hr]
  exact congrArg _ (if_pos ((systemWritable_iff _ _).2 hw))

theorem exec_mts_hidden (hx : x.toNat < 5 ∨ x.toNat = 11) (hu : (s.sq b).priv = false) : exec (.mts a x) s = .next (takeTrap s b 3 1 0) := by
  rw [show exec (.mts a x) s = execMts a x s from rfl, execMts, runSq_of_runs hr]
  refine congrArg _ ((if_neg ?_).trans (if_pos ?_))
  · rw [systemWritable_iff, hu]
    rintro (h | ⟨h, -⟩)
    · omega
    · cases h
  · rw [(systemHidden_iff x).2 hx, hu]; rfl

theorem exec_mts_readOnly (hx : x.toNat ≠ 7) (hh : ¬ (x.toNat < 5 ∨ x.toNat = 11)) (h6 : x.toNat = 6 → (s.sq b).priv = false) :
    exec (.mts a x) s = .next (takeTrap s b 2 4 0) := by
  rw [show exec (.mts a x) s = execMts a x s from rfl, execMts, runSq_of_runs hr]
  refine congrArg _ ((if_neg ?_).trans (if_neg ?_))
  · rw [systemWritable_iff]
    rintro (h | ⟨hp, h | h⟩)
    · exact hx h
    · exact hh h
    · rw [h6 h] at hp; cases hp
  · rw [Bool.and_eq_true, systemHidden_iff]; exact fun h => hh h.1

end

/-- No event waits for room, so that the write of an event-queue register lets none in. -/
theorem drainEvents_none {s : State} {b : BitVec 6} (h : (s.sq b).evHeld = []) (n : Nat) : drainEvents s b n = s := by
  cases n with
  | zero => rfl
  | succ n => simp only [drainEvents, h]

section
variable {s : State} {b : BitVec 6} (h : tabRising none s.sqs = true)
include h

/-- A write of registers and then the next word. -/
theorem retire_modSq (f : Sq → Sq) : retire (s.modSq b f) b id = s.setSq b (Claims.nextPc (f (s.sq b))) := by
  rw [retire, State.modSq, sq_modSq_same h, State.modSq, setSq_setSq h]; rfl

variable (hev : (s.sq b).evHeld = []) (v : DWord)
include hev

theorem writeEvq_eq : writeEvq s b v = s.modSq b (fun q => q.setEvq v) := by
  have hq : ((s.modSq b (fun q => q.setEvq v)).sq b).evHeld = [] := by rw [sq_modSq_same h]; exact hev
  exact drainEvents_none hq _

theorem writeEvhead_eq : writeEvhead s b v = s.modSq b (fun q => q.setEvhead v) := by
  have hq : ((s.modSq b (fun q => q.setEvhead v)).sq b).evHeld = [] := by
    rw [sq_modSq_same h, Sq.setEvhead]
    split
    · exact hev
    · exact hev
  exact drainEvents_none hq _

end

theorem exec_mts_modSq {s : State} {b : BitVec 6} {x : BitVec 5} (hr : Claims.Runs s b) (a : BitVec 5) (h : tabRising none s.sqs = true)
    (hw : x.toNat = 7 ∨ (s.sq b).priv = true ∧ ((x.toNat < 5 ∨ x.toNat = 11) ∨ x.toNat = 6)) {f : Sq → Sq}
    (hf : writeSystem s b x ((s.sq b).getG a) = s.modSq b f) : exec (.mts a x) s = .next (s.setSq b (Claims.nextPc (f (s.sq b)))) := by
  rw [exec_mts_written hr a hw, hf, retire_modSq h]

/-! ### What is kept of a written value -/

theorem extractLsb'_zero {n m : Nat} (v : BitVec n) : v.extractLsb' 0 m = BitVec.ofNat m v.toNat := by
  apply BitVec.eq_of_toNat_eq; simp

theorem clearLow_eq (v : DWord) : v &&& ~~~0xFF#64 = BitVec.ofNat 64 (v.toNat / 256 * 256) := by
  apply BitVec.eq_of_getLsbD_eq
  intro i hi
  rw [BitVec.getLsbD_and, BitVec.getLsbD_not, BitVec.getLsbD_ofNat, BitVec.getLsbD_ofNat, show 255 = 2 ^ 8 - 1 from rfl, Nat.testBit_two_pow_sub_one,
    show 256 = 2 ^ 8 from rfl, Nat.testBit_mul_two_pow, Nat.testBit_div_two_pow, BitVec.getLsbD]
  by_cases h8 : i < 8
  · simp [h8, hi]
  · rw [Nat.sub_add_cancel (by omega)]
    simp [h8, hi, Nat.le_of_not_lt h8]

theorem setEvq_eq (q : Sq) (v : DWord) : q.setEvq v = { q with evBase := BitVec.ofNat 25 (v.toNat / 2 ^ 13 * 2 ^ 13), evTail := q.evHead } := by
  have h : v.extractLsb' 13 12 ++ (0 : BitVec 13) = BitVec.ofNat 25 (v.toNat / 2 ^ 13 * 2 ^ 13) := by
    apply BitVec.eq_of_toNat_eq
    rw [BitVec.toNat_append, BitVec.extractLsb'_toNat, BitVec.toNat_ofNat, show (0 : BitVec 13).toNat = 0 from rfl, Nat.or_zero, Nat.shiftLeft_eq,
      Nat.shiftRight_eq_div_pow]
    omega
  rw [Sq.setEvq, h]

theorem setEvhead_eq (q : Sq) (v : DWord) :
    q.setEvhead v = if 256 < (q.evTail - BitVec.ofNat 9 v.toNat).toNat then q else { q with evHead := BitVec.ofNat 9 v.toNat } := by
  rw [Sq.setEvhead, extractLsb'_zero]

/-- Settles O8, register by register. -/
theorem systemRegisters : Obligations.SystemRegisters := by
  unfold Obligations.SystemRegisters
  refine ⟨fun s b d x hr => ?_, fun s b a x hr hsq hev => ?_, fun s b a x hr => ?_⟩
  · intro q flag status value
    refine ⟨fun hx hp => exec_mfs_read hr d ?_ (hp.imp_right (by omega)), fun hx hu => ?_, fun hx => ?_⟩
    · simp only [readSystem]
      simp only [value, status, flag]
      generalize x.toNat = n at *
      interval_cases n
      · simp only [Sq.statusWord, evFull_eq]; rfl
      · simp [q]
      · simp [q]
      · simp [q]
      · simp [q]
      · rfl
      · rfl
      · simp [q]
      · simp
      · simp [q]
      · simp [q]
      · simp [q]
      · change some (oneIf (s.sq b).priv) = some (BitVec.ofNat 64 (if (s.sq b).priv then 1 else 0))
        cases (s.sq b).priv <;> rfl
    · rw [exec_mfs_hidden hr d hx hu, takeTrap_eq]; rfl
    · rw [exec_mfs_unlisted hr d hx, takeTrap_eq]; rfl
  · intro q v n head wr
    refine ⟨fun hx hp => ?_, fun hx hp => ?_, fun hx hp => ?_, fun hx hp => ?_, fun hx hp => ?_, fun hx hp => ?_, fun hx => ?_, fun hx hp => ?_⟩
    · exact exec_mts_modSq hr a hsq (.inr ⟨hp, by omega⟩) (f := fun q => q.setStatus v) (by simp only [writeSystem, hx]; rfl)
    · exact exec_mts_modSq hr a hsq (.inr ⟨hp, by omega⟩) (f := fun q => { q with cause := v }) (by simp only [writeSystem, hx]; rfl)
    · exact exec_mts_modSq hr a hsq (.inr ⟨hp, by omega⟩) (f := fun q => { q with epc := v }) (by simp only [writeSystem, hx]; rfl)
    · rw [exec_mts_modSq hr a hsq (.inr ⟨hp, by omega⟩) (f := fun q => { q with tvec := v &&& ~~~0xFF#64 }) (by simp only [writeSystem, hx]; rfl), clearLow_eq]; rfl
    · exact exec_mts_modSq hr a hsq (.inr ⟨hp, by omega⟩) (f := fun q => { q with scratch := v }) (by simp only [writeSystem, hx]; rfl)
    · rw [exec_mts_modSq hr a hsq (.inr ⟨hp, by omega⟩) (f := fun q => q.setEvq v) (by simp only [writeSystem, hx]; exact writeEvq_eq hsq hev v), setEvq_eq]; rfl
    · rw [exec_mts_modSq hr a hsq (.inl hx) (f := fun q => q.setEvhead v) (by simp only [writeSystem, hx]; exact writeEvhead_eq hsq hev v), setEvhead_eq]
      exact congrArg (fun r => Host.Outcome.next (s.setSq b r)) (apply_ite Claims.nextPc _ _ _)
    · rw [exec_mts_modSq hr a hsq (.inr ⟨hp, by omega⟩) (f := fun q => { q with tskq := v.extractLsb' 0 12 }) (by simp only [writeSystem, hx]; rfl), extractLsb'_zero]; rfl
  · intro q
    refine ⟨fun hx hu => ?_, fun hx => ?_⟩
    · rw [exec_mts_hidden hr a hx hu, takeTrap_eq]; rfl
    · have h6 : x.toNat = 6 → q.priv = false := fun h6 => by simpa [h6] using hx
      rw [exec_mts_readOnly hr a (by omega) (by omega) h6, takeTrap_eq]; rfl

end Sys2Proof.Proofs

namespace Sys2Proof.Proofs
open Sys2Proof.Machine

theorem bits_low (x n : Nat) : bits x 0 n = x % 2 ^ n := by rw [bits, Nat.pow_zero, Nat.div_one]

/-! ## Masks of whole elements (R54) -/

theorem maskBit_eq_getLsbD (m : BitVec 16) (j : Nat) : maskBit m j = m.getLsbD j := by
  rw [← bitSet_toNat]; rfl

theorem maskBit_or (a b : BitVec 16) (j : Nat) : maskBit (a ||| b) j = (maskBit a j || maskBit b j) := by
  simp only [maskBit_eq_getLsbD, BitVec.getLsbD_or]

theorem maskBit_and (a b : BitVec 16) (j : Nat) : maskBit (a &&& b) j = (maskBit a j && maskBit b j) := by
  simp only [maskBit_eq_getLsbD, BitVec.getLsbD_and]

theorem mask_ext {a b : BitVec 16} (h : ∀ j < 16, maskBit a j = maskBit b j) : a = b :=
  BitVec.eq_of_getLsbD_eq fun j hj => by simpa only [maskBit_eq_getLsbD] using h j hj

theorem maskBit_pairMask (m : BitVec 16) {j : Nat} (hj : j < 16) :
    maskBit (pairMask m) j = (maskBit m (j / 2 * 2) && maskBit m (j / 2 * 2 + 1)) := maskBit_lanes _ hj

/-- A mask whose lanes come in pairs has both lanes of a 64-bit element or neither. -/
theorem maskBit_pair {m : BitVec 16} (h : pairMask m = m) {i : Nat} (hi : i < 8) : maskBit m (2 * i) = maskBit m (2 * i + 1) := by
  have hlo := maskBit_pairMask m (j := 2 * i) (by omega)
  have hhi := maskBit_pairMask m (j := 2 * i + 1) (by omega)
  rw [h, show 2 * i / 2 * 2 = 2 * i by omega] at hlo
  rw [h, show (2 * i + 1) / 2 * 2 = 2 * i by omega] at hhi
  exact hlo.trans hhi.symm

theorem pairMask_or {a b : BitVec 16} (ha : pairMask a = a) (hb : pairMask b = b) : pairMask (a ||| b) = a ||| b := by
  refine mask_ext fun j hj => ?_
  have pa := maskBit_pair ha (i := j / 2) (by omega)
  have pb := maskBit_pair hb (i := j / 2) (by omega)
  rw [Nat.mul_comm] at pa pb
  rw [maskBit_pairMask _ hj, maskBit_or, maskBit_or, maskBit_or, ← pa, ← pb, Bool.and_self]
  obtain hj2 | hj2 : j = j / 2 * 2 ∨ j = j / 2 * 2 + 1 := by omega
  · rw [← hj2]
  · rw [pa, pb, ← hj2]

theorem fmtMask_of_paired {f : Nat} {m : BitVec 16} (h : fmtWidth f = 64 → pairMask m = m) : fmtMask f m = m := by
  unfold fmtMask
  split
  case isTrue hw => exact h hw
  case isFalse => rfl

/-- Clearing the invalid lanes clears the invalid elements, where no element is valid in part. -/
theorem elemNat_maskPay_paired {p : Line} {m : BitVec 16} {f i : Nat} (hm : fmtWidth f = 64 → pairMask m = m) (hi : i < fmtElems f) :
    elemNat (maskPay p m) (fmtWidth f) i = if elemValid m (fmtWidth f) i then elemNat p (fmtWidth f) i else 0 := by
  have hfit := fmtWidth_mul_le hi
  by_cases h64 : fmtWidth f = 64
  · rw [h64] at hfit ⊢
    rw [elemNat_64, laneNat_maskPay _ _ (by omega), laneNat_maskPay _ _ (by omega), elemNat_64, elemValid, if_pos rfl,
      ← maskBit_pair (hm h64) (by omega), Bool.and_self]
    cases maskBit m (2 * i) <;> rfl
  · have hin : fmtWidth f * i % 32 + fmtWidth f ≤ 32 := by
      rcases fmtWidth_cases f with h | h | h | h | h <;> rw [h] at h64 ⊢ <;> omega
    rw [elemNat_lane _ hin, elemNat_lane _ hin, elemValid, if_neg h64, laneNat_maskPay _ _ (by
      rcases fmtWidth_cases f with h | h | h | h | h <;> rw [h] at hfit h64 ⊢ <;> omega)]
    cases maskBit m (fmtWidth f * i / 32)
    · rw [if_neg Bool.false_ne_true, if_neg Bool.false_ne_true, Nat.zero_div, Nat.zero_mod]
    · rfl

/-- A payload built of elements holds them. -/
theorem elemNat_elems (f : Nat) (g : Nat → Nat) {i : Nat} (hi : i < fmtElems f) :
    elemNat (elemsToPay (fmtWidth f) ((List.range (fmtElems f)).map g)) (fmtWidth f) i = g i % 2 ^ fmtWidth f := by
  rw [elemNat_elemsToPay (fmtWidth_mul_le hi), List.getD_eq_getElem _ _ (by simpa using hi), List.getElem_map, List.getElem_range]

theorem elemNat_lt (p : Line) (w i : Nat) : elemNat p w i < 2 ^ w := Nat.mod_lt _ (by positivity)

theorem elemNat_mod (p : Line) (w i : Nat) : elemNat p w i % 2 ^ w = elemNat p w i := Nat.mod_eq_of_lt (elemNat_lt p w i)

theorem resNat_regenRes (p : Line) (m : BitVec 16) {j : Nat} (hj : j < 16) :
    resNat (regenRes p m) j = if maskBit m j then laneNat p j % 15 else 0 := by
  have h15 : laneNat p j % 15 % 16 = laneNat p j % 15 := by omega
  rw [regenRes, resNat_lanes _ hj, apply_ite (· % 16), residue15, h15]

/-- The canonical NaN is a pattern of its format. -/
theorem canonical_mod (f : Nat) {p : Nat} (hp : p < 2 ^ fmtWidth f) : Claims.canonical f p % 2 ^ fmtWidth f = Claims.canonical f p := by
  unfold Claims.canonical
  split
  case isTrue h =>
    obtain ⟨hf, -⟩ := h
    refine Nat.mod_eq_of_lt ?_
    rcases Nat.lt_or_ge f 14 with hlt | hge
    · interval_cases f <;> revert hf <;> decide
    · exact absurd hf (by simp [fmtFloat]; omega)
  case isFalse => exact Nat.mod_eq_of_lt hp

/-! ## Operators that write a context register -/

section
variable {s : State} {v : View} {p : Pass} {popped : Bool}

/-- The register after `movk`: the chosen lanes of A merged into it (R390). -/
def movkReg (v : View) (x : Operands) : Token :=
  mergeLanes (v.e.getK v.w.kidx.toNat) { x.a with etag := x.side.etag, seq := x.side.seq, done := x.side.done } (v.w.imm.setWidth 16)

theorem movkReg_lane (v : View) (x : Operands) {j : Nat} (hj : j < 16) :
    let k := v.e.getK v.w.kidx.toNat
    let here := maskBit x.a.mask j && v.w.imm.getLsbD j
    maskBit (movkReg v x).mask j = (maskBit k.mask j || here) ∧
      laneNat (movkReg v x).pay j = laneNat (if here then x.a else k).pay j ∧
      resNat (movkReg v x).res j = resNat (if here then x.a else k).res j := by
  intro k here
  have hhere : maskBit (x.a.mask &&& v.w.imm.setWidth 16) j = here := by
    rw [maskBit_and, maskBit_eq_getLsbD (v.w.imm.setWidth 16), BitVec.getLsbD_setWidth, decide_eq_true hj, Bool.true_and]
  refine ⟨?_, (laneNat_lanes _ hj).trans ?_, (resNat_lanes _ hj).trans ?_⟩
  · rw [← hhere]; exact maskBit_or ..
  · simp only [hhere]; cases here <;> exact laneNat_mod ..
  · simp only [hhere]; cases here <;> exact resNat_mod ..

theorem exec_movk (h : Claims.OnData s v p 129 fData popped) :
    let x := Claims.operands v p 129 fData
    let n := movkReg v x
    exec (.movk v.w) s = .next (Claims.fired s v p 129 popped
      (Claims.keeps x (Claims.followed v p 129 fData) (resultToken x n.mask n.pay (some n.res)) n)) := by
  intro x n
  rw [show exec (.movk v.w) s = execMovk v.w s from rfl, execMovk]
  exact runStage_onData h rfl rfl rfl rfl rfl

theorem exec_wrk (h : Claims.OnData s v p 130 fData popped) :
    let x := Claims.operands v p 130 fData
    let t := resultToken x x.a.mask x.a.pay (some x.a.res)
    exec (.wrk v.w) s = .next (Claims.fired s v p 130 popped
      (if v.w.imm.toNat % 4 ≠ 1 then Claims.keeps x (Claims.followed v p 130 fData) t (Claims.whole x)
        else Claims.withRandom x (.emit (Claims.followed v p 130 fData) t))) := by
  intro x t
  have hm : x.mask = x.a.mask := operandsOf_mask_single ..
  have ht : t = resultToken x x.mask x.a.pay (some x.a.res) := by rw [hm]
  rw [show exec (.wrk v.w) s = execWrk v.w s from rfl, execWrk, ht]
  by_cases hsel : v.w.imm.toNat % 4 ≠ 1
  · simp only [if_pos hsel]
    exact runStage_onData h rfl rfl rfl (by rfl) rfl
  · simp only [if_neg hsel]
    exact runStage_onData h rfl rfl rfl (by rfl) rfl

/-- Element i of the window that `fsh` cuts out of the register's elements followed by A's (R357). -/
def fshElem (n f : Nat) (k a : Token) (i : Nat) : Nat :=
  let w := fmtWidth f
  if n ≤ i then (if elemValid a.mask w (i - n) then elemNat a.pay w (i - n) else 0)
  else if elemValid k.mask w (fmtElems f - n + i) then elemNat k.pay w (fmtElems f - n + i) else 0

theorem fshElem_mod (n f : Nat) (k a : Token) (i : Nat) : fshElem n f k a i % 2 ^ fmtWidth f = fshElem n f k a i := by
  simp only [fshElem, apply_ite (· % 2 ^ fmtWidth f), elemNat_mod, Nat.zero_mod]

theorem exec_fsh {fmts : List Nat} (hf : (if v.w.fmt = 0 then fData.filter (fun f => decide (v.w.imm.toNat % 64 < fmtElems f)) else []) = fmts)
    (h : Claims.OnData s v p 137 fmts popped) :
    let n := v.w.imm.toNat % 64
    let k := v.e.getK v.w.kidx.toNat
    let x := Claims.operands v p 137 fmts
    exec (.fsh v.w) s = .next (Claims.fired s v p 137 popped (Claims.keeps x (Claims.followed v p 137 fmts)
      (resultToken x x.a.mask (mapElems x.fmt x.a.mask (fshElem n x.fmt k x.a)) none) (Claims.whole x))) := by
  intro n k x
  have hn : bits v.w.imm.toNat 0 6 = n := bits_low ..
  rw [show exec (.fsh v.w) s = execFsh v.w s from rfl, execFsh]
  simp only [hn]
  exact runStage_onData h rfl hf rfl rfl rfl

end

/-! ## `acck` (R318) -/

section
variable (v : View) (x : Operands) (k : Token) (f : Nat)

/-- Element i of the register that `acck` makes, before it is truncated to its width. -/
def acckElem (i : Nat) : Nat :=
  let w := fmtWidth f
  if elemValid x.a.mask w i then
    (if elemValid k.mask w i then fold (bits v.w.imm.toNat 0 2) f (v.w.sat == 1) (rndOf v.w.rnd) (elemNat k.pay w i) (elemNat x.a.pay w i)
      else canonNan f (elemNat x.a.pay w i))
  else elemNat k.pay w i

def acckPay : Line := elemsToPay (fmtWidth f) ((List.range (fmtElems f)).map (acckElem v x k f))

def acckToken : Token := resultToken x x.mask (maskPay (acckPay v x k f) (fmtMask f x.mask)) none

def acckReg : Token :=
  let m := k.mask ||| fmtMask f x.a.mask
  { x.side with pay := maskPay (acckPay v x k f) m, mask := m, res := regenRes (maskPay (acckPay v x k f) m) m, etag := x.side.etag || k.etag }

/-- Element i after `acck`, as R318 gives it. -/
def acckNew (i : Nat) : Nat :=
  let w := fmtWidth f
  if elemValid x.a.mask w i && elemValid k.mask w i then
    Claims.combine (v.w.imm.toNat % 4) f v.w.sat v.w.rnd (elemNat k.pay w i) (elemNat x.a.pay w i) % 2 ^ w
  else if elemValid x.a.mask w i then Claims.canonical f (elemNat x.a.pay w i) else elemNat k.pay w i

theorem acckElem_mod (i : Nat) : acckElem v x k f i % 2 ^ fmtWidth f = acckNew v x k f i := by
  have hop : bits v.w.imm.toNat 0 2 = v.w.imm.toNat % 4 := bits_low ..
  unfold acckElem acckNew
  dsimp only
  rw [hop, canonNan_eq_canonical, fold_eq_combine]
  cases elemValid x.a.mask (fmtWidth f) i with
  | false => exact elemNat_mod ..
  | true =>
    cases elemValid k.mask (fmtWidth f) i with
    | false => exact canonical_mod f (elemNat_lt ..)
    | true => rfl

variable {v x k f}

theorem elemNat_acckPay {m : BitVec 16} (hm : fmtWidth f = 64 → pairMask m = m) {i : Nat} (hi : i < fmtElems f) :
    elemNat (maskPay (acckPay v x k f) m) (fmtWidth f) i = if elemValid m (fmtWidth f) i then acckNew v x k f i else 0 := by
  rw [elemNat_maskPay_paired hm hi, acckPay, elemNat_elems _ _ hi, acckElem_mod]

theorem computed_acckToken (hm : fmtWidth f = 64 → pairMask x.mask = x.mask) :
    Claims.Computed x (acckToken v x k f) x.mask f (acckNew v x k f) := by
  rw [acckToken, fmtMask_of_paired hm]
  exact computed_resultToken fun i hi => elemNat_acckPay hm hi

theorem elemNat_acckReg (ha : fmtWidth f = 64 → pairMask x.a.mask = x.a.mask) (hk : fmtWidth f = 64 → pairMask k.mask = k.mask)
    {i : Nat} (hi : i < fmtElems f) :
    elemNat (acckReg v x k f).pay (fmtWidth f) i = if elemValid (acckReg v x k f).mask (fmtWidth f) i then acckNew v x k f i else 0 := by
  refine elemNat_acckPay (fun hw => ?_) hi
  rw [fmtMask_of_paired ha]
  exact pairMask_or (hk hw) (ha hw)

end

/-- No element traps: the search for the lowest one that does finds none. -/
theorem lowestElem_none {f : Nat} {m : BitVec 16} {count : Nat} {q : Nat → Bool}
    (h : ∀ i, ¬ (i < fmtElems f ∧ i < count ∧ elemValid m (fmtWidth f) i = true ∧ q i = true)) : lowestElem f m count q = none := by
  refine List.find?_eq_none.2 fun i hi hn => h i ?_
  simp only [Bool.and_eq_true, decide_eq_true_eq] at hn
  obtain ⟨⟨hc, hv⟩, hq⟩ := hn
  exact ⟨List.mem_range.1 hi, hc, hv, hq⟩

theorem exec_acck {s : State} {v : View} {p : Pass} {popped : Bool} (h : Claims.OnData s v p 131 [] popped) :
    let x := Claims.operands v p 131 []
    let k := v.e.getK v.w.kidx.toNat
    let f := v.w.fmt.toNat
    let w := fmtWidth f
    Claims.Untrapped s v x (fun i => i < fmtElems f ∧ i < x.count ∧ (elemValid x.a.mask w i && elemValid k.mask w i) = true ∧
      foldNan (v.w.imm.toNat % 4) f (rndOf v.w.rnd) (elemNat k.pay w i) (elemNat x.a.pay w i) = true) →
    exec (.acck v.w) s = .next (Claims.fired s v p 131 popped
      (Claims.keeps x (Claims.followed v p 131 []) (acckToken v x k f) (acckReg v x k f))) := by
  intro x k f w htrap
  have hop : bits v.w.imm.toNat 0 2 = v.w.imm.toNat % 4 := bits_low ..
  have hfmt : x.fmt = f := by
    have hdec : Claims.decodes v [] = false := by simp [Claims.decodes]
    change Claims.format v [] = f
    rw [Claims.format, hdec]; rfl
  rw [show exec (.acck v.w) s = execAcck v.w s from rfl, execAcck]
  refine runStage_onData h rfl rfl rfl (r := { StageOut.emit (Claims.followed v p 131 []) (acckToken v x k f) with
    k := some (acckReg v x k f), poison := x.side.etag }) ?_ rfl
  rw [← hfmt]
  dsimp only
  split
  case h_1 i hi =>
    split
    case isTrue ht =>
      exfalso
      obtain ⟨hnt, htag⟩ := Bool.and_eq_true_iff.1 ht
      rcases htrap with hn | hn | hn
      · exact absurd (hnt.symm.trans hn) (by decide)
      · rw [show (Claims.operands v p 131 []).side.etag = true from hn] at htag; exact absurd htag Bool.false_ne_true
      · refine absurd (hi.symm.trans (lowestElem_none fun i hbad => hn i ?_)) (by simp)
        obtain ⟨h1, h2, h3, h4⟩ := hbad
        obtain ⟨h4, h5⟩ := Bool.and_eq_true_iff.1 h4
        rw [hop] at h5
        rw [show (Claims.operands v p 131 []).fmt = f from hfmt] at h1 h3 h4 h5
        exact ⟨h1, h2, Bool.and_eq_true_iff.2 ⟨h3, h4⟩, h5⟩
    case isFalse => rfl
  case h_2 => rfl

/-- Settles O17: each operator completes with its token and its register. -/
theorem registerOperators : Obligations.RegisterOperators := by
  unfold Obligations.RegisterOperators
  intro s v p popped k done
  refine ⟨fun h => ⟨_, movkReg v _, rfl, fun j hj => movkReg_lane v _ hj, moved_resultToken fun j _ => ⟨rfl, rfl, rfl⟩, exec_movk h⟩,
    fun h => ⟨_, moved_resultToken fun j _ => ⟨rfl, rfl, rfl⟩, exec_wrk h⟩, ?_, ?_⟩
  · intro h x f w rop both new _ _ hpair htrap
    have hm : x.mask = x.a.mask := operandsOf_mask_single ..
    refine ⟨acckToken v x k f, acckReg v x k f, computed_acckToken (hm ▸ fun hw => (hpair hw).1), rfl,
      fun i hi => elemNat_acckReg (fun hw => (hpair hw).1) (fun hw => (hpair hw).2) hi, fun j hj => resNat_regenRes _ _ hj, exec_acck h htrap⟩
  · intro n fmts h x f w e _
    refine ⟨_, ?_, exec_fsh rfl h⟩
    have hc := computed_mapElems x x.a.mask f (fshElem n f k x.a)
    rw [show (fun i => fshElem n f k x.a i % 2 ^ fmtWidth f) = fshElem n f k x.a from funext fun i => fshElem_mod ..] at hc
    exact hc

end Sys2Proof.Proofs

namespace Sys2Proof.Proofs
open Sys2Proof.Machine

/-! ## The weight store -/

theorem bits_at (x p n : Nat) : bits x p n = x / 2 ^ p % 2 ^ n := rfl

/-- An ungated operator that decodes no headers keeps its record. -/
theorem followed_plain {v : View} {p : Pass} {code : Nat} (hpg : v.w.pg = 0) : Claims.followed v p code [] = v.op := by
  have hd : Claims.decodes v [] = false := by simp [Claims.decodes]
  simp [Claims.followed, hd, hpg]

/-- Elements that a word of `wsld` names along K (Table 15-2). -/
def wsldK (w : OpWord) : Nat := if w.imm.getLsbD 10 then 128 else fmtElems w.fmt.toNat

/-- The context as `wsld` sees it: a swap asked for takes effect before the next fill begins (R183). -/
def wsldElem (s : State) (v : View) : ElemCtx :=
  if v.op.rem = 0 then (s.elem v.ea v.ctx).applySwaps else s.elem v.ea v.ctx

section
variable {s : State} {v : View} {p : Pass} {popped : Bool}

theorem exec_wsld (h : Claims.OnData s v p 194 [] popped) (hpg : v.w.pg = 0)
    (hswap : 0 < v.op.rem ∨ (s.elem v.ea v.ctx).wsSwaps = 0 ∨
      (s.elem v.ea v.ctx).packetUnderWay = false ∧ (s.elem v.ea v.ctx).fillUnderWay = false) :
    let x := Claims.operands v p 194 []
    let e := wsldElem s v
    let n := (e.op v.n).visited
    let l := v.w.imm.toNat % 1024 + n
    let size := tileSize v.w.fmt.toNat (wsldK v.w) (8 * 2 ^ (x.a.pay.toNat / 16 % 4))
    l < e.wsLines →
    (0 < v.op.rem ∨ tileHeaderBad x.a.pay v.w.fmt.toNat (wsldK v.w) none none = none ∧ l + size ≤ e.wsLines) →
    exec (.wsld v.w) s = .next (Claims.fired
      { s.setElem v.ea v.ctx e with ws := tabSet s.ws (wsKey (eaSite v.ea) (1 - e.wsFront) (e.wsBase + l)) x.a.pay 0 } v p 194 popped (Claims.withRandom x
      { StageOut.quiet { v.op with visited := n + 1, rem := if v.op.rem = 0 then size - 1 else v.op.rem - 1 } with poison := x.side.etag })) := by
  intro x e n l size hl hbad
  have hwait : ¬ (v.op.rem = 0 ∧ 0 < (s.elem v.ea v.ctx).wsSwaps ∧
      ((s.elem v.ea v.ctx).packetUnderWay = true ∨ (s.elem v.ea v.ctx).fillUnderWay = true)) := by
    rintro ⟨hrem, hasked, hbusy⟩
    rcases hswap with hs | hs | ⟨hp, hf⟩
    · omega
    · omega
    · rw [hp, hf] at hbusy
      exact hbusy.elim Bool.false_ne_true Bool.false_ne_true
  have hgood : (if v.op.rem = 0 then (match tileHeaderBad x.a.pay v.w.fmt.toNat (wsldK v.w) none none with
      | some f => some f
      | none => if e.wsLines < l + size then some 8 else none) else none) = none := by
    split
    case isFalse => rfl
    case isTrue hrem =>
      obtain hr | ⟨hhdr, hfit⟩ := hbad
      · omega
      · rw [hhdr]
        exact if_neg (by omega)
  rw [show exec (.wsld v.w) s = execWsld v.w s from rfl, execWsld]
  refine runStage_onData h rfl rfl rfl ?_ rfl
  have hK : (if bitSet v.w.imm.toNat 10 = true then 128 else fmtElems v.w.fmt.toNat) = wsldK v.w := by rw [bitSet_toNat]; rfl
  have hL : bits v.w.imm.toNat 0 10 + ((if v.op.rem = 0 then (s.elem v.ea v.ctx).applySwaps else s.elem v.ea v.ctx).op v.n).visited = l := by
    rw [bits_low]; rfl
  rw [followed_plain hpg]
  dsimp only
  rw [if_neg hwait, hL, hK]
  change (if e.wsLines ≤ l then _ else _) = _
  rw [if_neg (by omega)]
  split
  case h_1 f hf => exact absurd (hf.symm.trans hgood) (by simp)
  case h_2 => rfl

theorem exec_wsswp (h : Claims.OnData s v p 195 [] popped) :
    exec (.wsswp v.w) s = .next (Claims.fired (s.modElem v.ea v.ctx (fun e => { e with wsSwaps := e.wsSwaps + 1 })) v p 195 popped
      (Claims.withRandom (Claims.operands v p 195 []) (.quiet (Claims.followed v p 195 [])))) := by
  rw [show exec (.wsswp v.w) s = execWsswp v.w s from rfl, execWsswp]
  exact runStage_onData h rfl rfl rfl rfl rfl

end

/-- Restarting the `wsld` stages at TOFF leaves the context's registers alone (R428). -/
theorem swapWs_bank (e : ElemCtx) : e.swapWs.bank = tabMod e.bank 16 0 (fun w => w ^^^ 0x800#32) := by
  have hfold : ∀ (ns : List Nat) (e : ElemCtx), (ns.foldl (fun e n =>
      if opcodeOf (e.stageWord n) = 194 then e.setOp n { e.op n with visited := 0 } else e) e).bank = e.bank := by
    intro ns
    induction ns with
    | nil => intro e; rfl
    | cons n ns ih =>
      intro e
      rw [List.foldl_cons, ih]
      split <;> rfl
  exact hfold _ _

section
variable {s : State} {site : SiteNo} {ctx : BitVec 2}

theorem exec_wsSwap_busy (h : (s.elem (siteEa site 0) ctx).packetUnderWay = true ∨ (s.elem (siteEa site 0) ctx).fillUnderWay = true) :
    exec (.wsSwap site ctx) s = .next s := by
  rw [show exec (.wsSwap site ctx) s = execWsSwap site ctx s from rfl, execWsSwap]
  exact if_pos (.inr h)

theorem exec_wsSwap (hn : 0 < (s.elem (siteEa site 0) ctx).wsSwaps) (hp : (s.elem (siteEa site 0) ctx).packetUnderWay = false)
    (hf : (s.elem (siteEa site 0) ctx).fillUnderWay = false) :
    exec (.wsSwap site ctx) s =
      .next (s.modElem (siteEa site 0) ctx (fun e => { e.swapWs with wsSwaps := e.wsSwaps - 1 })) := by
  rw [show exec (.wsSwap site ctx) s = execWsSwap site ctx s from rfl, execWsSwap]
  exact if_neg (by rw [hp, hf]; simpa using (Nat.pos_iff_ne_zero.1 hn))

end

/-- Settles O20. -/
theorem weightStore : Obligations.WeightStore := by
  unfold Obligations.WeightStore
  intro s v p popped
  refine ⟨?_, exec_wsswp, ?_⟩
  · intro h hpg hws x e n l size hswap hl hbad
    refine ⟨_, rfl, ?_, fun k hk => ?_, exec_wsld h hpg hswap hl hbad⟩
    · exact (tabGet_tabSet hws _).trans (if_pos rfl)
    · exact (tabGet_tabSet hws k).trans (if_neg hk)
  · intro site ctx helems e
    refine ⟨fun _ => exec_wsSwap_busy, fun hn hp hf hbank => ⟨_, exec_wsSwap hn hp hf, rfl, ?_, ?_⟩⟩
    · rw [elem_modElem_same helems]
    · rw [elem_modElem_same helems]
      dsimp only
      rw [swapWs_bank, tabGet_tabMod hbank, if_pos rfl]

end Sys2Proof.Proofs

namespace Sys2Proof.Proofs
open Sys2Proof.Machine

/-! ## Chosen columns and whole rows of an accumulator bank (R84) -/

/-- The machine with some columns of an accumulator row written, counted from column c0. -/
def setCols (s : State) (z : SiteNo) (b r c0 : Nat) (g : Nat → Nat) (js : List Nat) : State :=
  js.foldl (fun s j => accSet s z b r (c0 + j) (g j)) s

section
variable {s : State} {z : SiteNo} {b r c0 : Nat} {g : Nat → Nat} {js : List Nat}

theorem setCols_concat (j : Nat) : setCols s z b r c0 g (js ++ [j]) = accSet (setCols s z b r c0 g js) z b r (c0 + j) (g j) := by
  rw [setCols, List.foldl_concat]; rfl

theorem setCols_frame (js : List Nat) : setCols s z b r c0 g js = { s with acs := (setCols s z b r c0 g js).acs } := by
  induction js using List.reverseRecOn with
  | nil => rfl
  | append_singleton js j ih => rw [setCols_concat, ih]; rfl

theorem setCols_rising (h : tabRising none s.acs = true) (js : List Nat) : tabRising none (setCols s z b r c0 g js).acs = true := by
  induction js using List.reverseRecOn with
  | nil => exact h
  | append_singleton js j ih => rw [setCols_concat]; exact tabSet_risingNone ih

theorem tabGet_setCols (h : tabRising none s.acs = true) (js : List Nat) (k : Nat) :
    tabGet (setCols s z b r c0 g js).acs k 0 =
      if acsKey z b r c0 ≤ k ∧ k - acsKey z b r c0 ∈ js then BitVec.ofNat 32 (g (k - acsKey z b r c0)) else tabGet s.acs k 0 := by
  induction js using List.reverseRecOn with
  | nil => simp only [List.not_mem_nil, and_false, if_false]; rfl
  | append_singleton js j ih =>
    rw [setCols_concat, accSet, tabGet_tabSet (setCols_rising h js), ih, acsKey_add]
    by_cases hk : k = acsKey z b r c0 + j
    · rw [if_pos hk, hk, Nat.add_sub_cancel_left, if_pos ⟨Nat.le_add_right .., by simp⟩]
    · rw [if_neg hk]
      refine if_congr (and_congr_right fun hle => ?_) rfl rfl
      have hne : k - acsKey z b r c0 ≠ j := by omega
      rw [List.mem_append, List.mem_singleton, or_iff_left hne]

/-- A chosen column holds its number, any other what it held. -/
theorem accGet_setCols (h : tabRising none s.acs = true) (js : List Nat) (j : Nat) :
    accGet (setCols s z b r c0 g js) z b r (c0 + j) = if j ∈ js then g j % 2 ^ 32 else accGet s z b r (c0 + j) := by
  rw [accGet, tabGet_setCols h, acsKey_add, Nat.add_sub_cancel_left]
  by_cases hj : j ∈ js
  · rw [if_pos ⟨Nat.le_add_right .., hj⟩, if_pos hj, BitVec.toNat_ofNat]
  · rw [if_neg fun hn => hj hn.2, if_neg hj, accGet, acsKey_add]

theorem otherAccs_setCols (h : tabRising none s.acs = true) {n : Nat} (hjs : ∀ j ∈ js, j < n) (hb : b < 2) (hr : r < 256) (hc : c0 + n ≤ 32) :
    Claims.otherAccs s (setCols s z b r c0 g js) z b (fun r' c => r' = r ∧ c0 ≤ c ∧ c < c0 + n) := by
  intro z' b' r' c' hb' hr' hc' hne
  rw [Claims.accOf, accGet, tabGet_setCols h, if_neg]
  · rfl
  · intro ⟨hle, hmem⟩
    obtain ⟨j, hj⟩ := Nat.exists_eq_add_of_le hle
    rw [hj, Nat.add_sub_cancel_left] at hmem
    have hjn := hjs j hmem
    rw [← acsKey_add] at hj
    obtain ⟨rfl, rfl, rfl, rfl⟩ := acsKey_injective hb' hb hr' hr hc' (by omega) hj
    exact hne ⟨rfl, rfl, rfl, Nat.le_add_right .., Nat.add_lt_add_left hjn _⟩

end

section
variable {s : State} {v : View} {bank row n : Nat}

theorem clearRows_succ (hw : v.e.acsRow bank (row + n) = true) :
    clearRows s v bank row (n + 1) = writeCols (clearRows s v bank row n) (eaSite v.ea) bank (row + n) 0 (fun _ => 0) 32 := by
  rw [clearRows, List.range_succ (n := n), List.foldl_concat, if_pos hw, writeCols]
  simp only [Nat.zero_add]
  rfl

/-- Rows of the window that are cleared hold zero, and no other accumulator changes (R319). -/
theorem clearRows_spec (h : tabRising none s.acs = true) (hb : bank < 2) (hw : ∀ j < n, Claims.inWindow v bank (row + j)) :
    clearRows s v bank row n = { s with acs := (clearRows s v bank row n).acs } ∧ tabRising none (clearRows s v bank row n).acs = true ∧
      (∀ r c, row ≤ r → r < row + n → c < 32 → Claims.accOf (clearRows s v bank row n) (eaSite v.ea) bank r c = 0) ∧
      Claims.otherAccs s (clearRows s v bank row n) (eaSite v.ea) bank (fun r _ => row ≤ r ∧ r < row + n) := by
  induction n with
  | zero => exact ⟨rfl, h, fun r c h1 h2 _ => absurd h2 (by omega), fun _ _ _ _ _ _ _ _ => rfl⟩
  | succ n ih =>
    obtain ⟨hframe, hrise, hzero, hother⟩ := ih fun j hj => hw j (by omega)
    have hrow : row + n ≤ 255 := (hw n (by omega)).1
    have hlast := otherAccs_writeCols (s := clearRows s v bank row n) (z := eaSite v.ea) (g := fun _ => 0) (c0 := 0) (n := 32) hrise hb
      (r := row + n) (by omega) (by omega)
    rw [clearRows_succ (acsRow_of_inWindow (hw n (by omega)))]
    refine ⟨?_, writeCols_rising hrise _, fun r c h1 h2 hc => ?_, fun z b r c hb' hr hc hne => ?_⟩
    · rw [writeCols_frame, hframe]
    · by_cases hr : r = row + n
      · have hw0 := accGet_writeCols (s := clearRows s v bank row n) (z := eaSite v.ea) (b := bank) (r := r) (c0 := 0) (g := fun _ => 0) hrise hc
        rw [Nat.zero_add] at hw0
        exact hr ▸ hw0
      · exact (hlast _ _ _ _ hb (by omega) hc fun hn => hr hn.2.2.1).trans (hzero r c h1 (by omega) hc)
    · refine (hlast _ _ _ _ hb' hr hc fun hn => hne ?_).trans (hother _ _ _ _ hb' hr hc fun hn => hne ?_)
      · obtain ⟨rfl, rfl, rfl, -⟩ := hn
        exact ⟨rfl, rfl, by omega, by omega⟩
      · obtain ⟨rfl, rfl, h1, h2⟩ := hn
        exact ⟨rfl, rfl, h1, by omega⟩

end

/-! ## `acclr`, `acrd` and `acwr` -/

/-- A result token clears the invalid lanes of its payload, so clearing them before makes no difference. -/
theorem resultToken_maskPay (x : Operands) (m : BitVec 16) (p : Line) : resultToken x m (maskPay p m) none = resultToken x m p none := by
  have hidem : maskPay (maskPay p m) m = maskPay p m := by
    refine congrArg lanesToPay (List.map_congr_left fun j hj => ?_)
    rw [laneNat_maskPay p m (List.mem_range.1 hj)]
    cases maskBit m j <;> rfl
  simp only [resultToken, hidem]

/-- A result token whose payload holds 32-bit elements in all its lanes. -/
theorem computed_lanes (x : Operands) (m : BitVec 16) (g : Nat → Nat) (hg : ∀ j, g j < 2 ^ 32) :
    Claims.Computed x (resultToken x m (lanesToPay (lanes16.map g)) none) m 5 g := by
  rw [← resultToken_maskPay]
  refine computed_resultToken fun i hi => ?_
  have h16 : i < 16 := hi
  rw [elemNat_maskPay_paired (fun h => absurd h (by decide)) hi]
  refine if_congr Iff.rfl ?_ rfl
  exact (laneNat_lanes g h16).trans (Nat.mod_eq_of_lt (hg i))

section
variable {s : State} {v : View} {p : Pass} {code : Nat} {popped : Bool}

theorem followed_visited {fmts : List Nat} (h : Claims.OnData s v p code fmts popped) : (Claims.followed v p code fmts).visited = v.op.visited := by
  obtain ⟨r, n, he⟩ := followed_eq h; rw [he]

/-- Outside a packet a data token leaves none under way. -/
theorem followed_rem_zero {fmts : List Nat} (h : Claims.OnData s v p code fmts popped) (hrem : v.op.rem = 0) :
    (Claims.followed v p code fmts).rem = 0 := by
  unfold Claims.followed
  split
  · rw [trackPacket, lead_kind_data h.data]
    exact (congrArg (· - 1) hrem).trans rfl
  · exact hrem

theorem accRow_followed {fmts : List Nat} (h : Claims.OnData s v p code fmts popped) :
    accRow { v with op := Claims.followed v p code fmts } = Claims.accRowOf v := by
  rw [accRow, Claims.accRowOf, followed_visited h, bitSet_toNat]; rfl

theorem exec_acclr (h : Claims.OnData s v p 196 [] popped) (hrem : v.op.rem = 0)
    (hw : ∀ j < v.w.imm.toNat / 512 % 512, Claims.inWindow v (Claims.accBank v.w) (Claims.accRow0 v.w + j)) :
    exec (.acclr v.w) s = .next (Claims.fired (clearRows s v (Claims.accBank v.w) (Claims.accRow0 v.w) (v.w.imm.toNat / 512 % 512)) v p 196 popped
      (Claims.withRandom (Claims.operands v p 196 []) (.quiet (Claims.followed v p 196 [])))) := by
  have hfind : (List.range (v.w.imm.toNat / 512 % 512)).find? (fun j => !v.e.acsRow (Claims.accBank v.w) (Claims.accRow0 v.w + j)) = none := by
    refine List.find?_eq_none.2 fun j hj => ?_
    rw [acsRow_of_inWindow (hw j (List.mem_range.1 hj))]
    decide
  have hB : bits v.w.imm.toNat 0 1 = Claims.accBank v.w := bits_low ..
  rw [show exec (.acclr v.w) s = execAcclr v.w s from rfl, execAcclr]
  refine runStage_onData h rfl rfl rfl ?_ rfl
  dsimp only
  rw [followed_rem_zero h hrem, if_neg (Nat.lt_irrefl 0), accClear]
  dsimp only
  rw [hB, show bits v.w.imm.toNat 1 8 = Claims.accRow0 v.w from rfl, show bits v.w.imm.toNat 9 9 = v.w.imm.toNat / 512 % 512 from rfl, hfind]
  rfl

/-- The half of a row that `acrd` and `acwr` name. -/
def accHalf (w : OpWord) : Nat := w.imm.toNat / 1024 % 2 * 16

theorem accHalf_eq (w : OpWord) : 16 * bits w.imm.toNat 10 1 = accHalf w := Nat.mul_comm ..

theorem exec_acrd (h : Claims.OnData s v p 197 [] popped) (hw : Claims.inWindow v (Claims.accBank v.w) (Claims.accRowOf v)) :
    let x := Claims.operands v p 197 []
    let old := fun (j : Nat) => accGet s (eaSite v.ea) (Claims.accBank v.w) (Claims.accRowOf v) (accHalf v.w + j)
    exec (.acrd v.w) s = .next (Claims.fired
      (setCols s (eaSite v.ea) (Claims.accBank v.w) (Claims.accRowOf v) (accHalf v.w) (fun _ => 0) (if v.w.imm.getLsbD 11 then lanes16 else []))
      v p 197 popped (Claims.withRandom x (.emit { Claims.followed v p 197 [] with visited := v.op.visited + 1 }
        (resultToken x x.mask (lanesToPay (lanes16.map old)) none)))) := by
  intro x old
  rw [show exec (.acrd v.w) s = execAcrd v.w s from rfl, execAcrd]
  refine runStage_onData h rfl rfl rfl ?_ rfl
  dsimp only
  rw [accRow_followed h, followed_visited h, accHalf_eq, bits_low, show v.w.imm.toNat % 2 ^ 1 = Claims.accBank v.w from rfl,
    acsRow_of_inWindow hw, bitSet_toNat, Bool.not_true, if_neg Bool.false_ne_true]
  cases v.w.imm.getLsbD 11 <;> rfl

/-- What `acwr` puts into column j. -/
def acwrNew (s : State) (v : View) (x : Operands) (j : Nat) : Nat :=
  if v.w.imm.getLsbD 11 then
    fold 0 v.w.fmt.toNat false .rne (accGet s (eaSite v.ea) (Claims.accBank v.w) (Claims.accRowOf v) (accHalf v.w + j)) (laneNat x.a.pay j)
  else laneNat x.a.pay j

theorem exec_acwr (h : Claims.OnData s v p 198 [] popped) (hw : Claims.inWindow v (Claims.accBank v.w) (Claims.accRowOf v)) :
    let x := Claims.operands v p 198 []
    let old := fun (j : Nat) => accGet s (eaSite v.ea) (Claims.accBank v.w) (Claims.accRowOf v) (accHalf v.w + j)
    (v.w.imm.getLsbD 11 = true → Claims.Untrapped s v x (fun j => j < 16 ∧ maskBit x.mask j = true ∧
      foldNan 0 v.w.fmt.toNat .rne (old j) (laneNat x.a.pay j) = true)) →
    exec (.acwr v.w) s = .next (Claims.fired
      (setCols s (eaSite v.ea) (Claims.accBank v.w) (Claims.accRowOf v) (accHalf v.w) (acwrNew s v x) (lanes16.filter (maskBit x.mask)))
      v p 198 popped (Claims.withRandom x
        { StageOut.quiet { Claims.followed v p 198 [] with visited := v.op.visited + 1 } with poison := x.side.etag })) := by
  intro x old htrap
  have hnan : (if nanTrap s v.e.task && !x.side.etag then (if v.w.imm.getLsbD 11 then
      (lanes16.filter (maskBit x.mask)).find? (fun j => foldNan 0 v.w.fmt.toNat .rne (old j) (laneNat x.a.pay j)) else none) else none) = none := by
    split
    case isFalse => rfl
    case isTrue ht =>
      obtain ⟨hnt, htag⟩ := Bool.and_eq_true_iff.1 ht
      split
      case isFalse => rfl
      case isTrue hadd =>
        refine List.find?_eq_none.2 fun j hj hn => ?_
        obtain ⟨hj16, hm⟩ := List.mem_filter.1 hj
        rcases htrap hadd with hoff | htg | hbad
        · exact absurd (hnt.symm.trans hoff) (by decide)
        · rw [htg] at htag
          exact absurd htag (by decide)
        · exact hbad j ⟨List.mem_range.1 hj16, hm, hn⟩
  rw [show exec (.acwr v.w) s = execAcwr v.w s from rfl, execAcwr]
  refine runStage_onData h rfl rfl rfl ?_ rfl
  dsimp only
  rw [accRow_followed h, followed_visited h, accHalf_eq, bits_low, show v.w.imm.toNat % 2 ^ 1 = Claims.accBank v.w from rfl,
    acsRow_of_inWindow hw, bitSet_toNat, Bool.not_true, if_neg Bool.false_ne_true]
  split
  case h_1 j hj => exact absurd (hj.symm.trans hnan) (by simp)
  case h_2 => rfl

end

theorem fold_add_eq_combine (f x y : Nat) : fold 0 f false .rne x y = Claims.combine 0 f 0 0 x y := fold_eq_combine 0 f 0 0 x y

theorem accGet_lt (s : State) (z : SiteNo) (b r c : Nat) : accGet s z b r c < 2 ^ 32 := BitVec.isLt _

/-- Settles O21: cleared rows, and chosen columns of one row, are all that changes. -/
theorem accumulators : Obligations.Accumulators := by
  unfold Obligations.Accumulators
  intro s v p popped hacs site bank half row only counted
  have hbank : bank < 2 := Nat.mod_lt _ (by decide)
  have hhalf : half + 16 ≤ 32 := by
    have : v.w.imm.toNat / 1024 % 2 < 2 := Nat.mod_lt _ (by decide)
    simp only [half]; omega
  refine ⟨?_, ?_, ?_⟩
  · intro h hrem n hw
    obtain ⟨hframe, -, hzero, hother⟩ := clearRows_spec hacs hbank hw
    exact ⟨_, hframe, hzero, hother, exec_acclr h hrem hw⟩
  · intro h hw x
    have hrow : row < 256 := by obtain ⟨hmax, -⟩ := hw; omega
    refine ⟨_, _, setCols_frame _, computed_lanes x x.mask _ fun j => accGet_lt .., fun j hj => ?_, otherAccs_setCols hacs ?_ hbank hrow hhalf,
      exec_acrd h hw⟩
    · refine (accGet_setCols hacs _ j).trans ?_
      cases v.w.imm.getLsbD 11
      · exact if_neg List.not_mem_nil
      · exact if_pos (List.mem_range.2 hj)
    · intro j hj
      split at hj
      · exact List.mem_range.1 hj
      · exact absurd hj List.not_mem_nil
  · intro h hw _ x f new htrap
    have hrow : row < 256 := by obtain ⟨hmax, -⟩ := hw; omega
    refine ⟨_, setCols_frame _, fun j hj => (accGet_setCols hacs _ j).trans (if_congr ?_ ?_ rfl),
      otherAccs_setCols hacs (fun j hj => List.mem_range.1 (List.mem_filter.1 hj).1) hbank hrow hhalf, exec_acwr h hw htrap⟩
    · rw [List.mem_filter, and_iff_right (List.mem_range.2 hj)]
    · simp only [acwrNew, fold_add_eq_combine, new]
      split
      · rfl
      · exact laneNat_mod ..

end Sys2Proof.Proofs

namespace Sys2Proof.Proofs
open Sys2Proof.Machine

/-! ## A scatter over a table of row errors that lists a row twice (O34)

`Claims.Clean` asks that every row reads as free of errors, not that the table of row errors is in its form. Where the table lists a row twice,
with 0 and then with 2, the first store into the row drops the entry 0, so the second finds the row uncorrectable and rebuilds it from
the parity row (R206). -/

/-- Two addresses in one line, and eight elements of data. -/
def twiceAddr : Token := Tests.addrT2 0x480 0x488
def twiceData : Token := Tests.tok Tests.payA 0x000F

/-- The row of those addresses: bank 2, row 1. -/
def twiceErrs : Tab Nat := [(2 * 2048 + 1, 0), (2 * 2048 + 1, 2)]

/-- A node with `stx` of 64-bit elements, over that table. -/
def twiceS : State :=
  { Tests.nodeS 323 7 0 [twiceAddr, twiceData] OpSt.zero with
    sites := [(4, { Tests.reconOff with ax := { Tests.reconOff.ax with errs := twiceErrs } })] }
def twiceV : AgnView := Tests.nodeV twiceS 323 7 0

theorem rowError_twice (b r : Nat) : rowError (axOf twiceS 4) b r = 0 := by
  change tabGet twiceErrs (b * 2048 + r) 0 = 0
  simp only [twiceErrs, tabGet]
  split
  · rfl
  · split <;> rfl

theorem clean_twice : Claims.Clean twiceS 4 := ⟨rfl, fun _ => rfl, rowError_twice, rfl⟩

theorem ready_twice : Claims.NodeReady twiceS twiceV 323 [twiceAddr, twiceData] := Tests.nodeReady_sound (by decide +kernel)

theorem allowed_twice : ∀ a ∈ [0x480, 0x488], Claims.Allowed twiceS twiceV a 8 8 := by
  unfold Claims.Allowed
  decide +kernel

/-- The elements that the node stores are the two addressed ones. -/
theorem addr_twice : addrElem twiceAddr 0 = some 0x480 ∧ addrElem twiceAddr 1 = some 0x488 ∧ ∀ i < 8, 1 < i → addrElem twiceAddr i = none := by
  decide +kernel

theorem valid_twice : elemValid twiceData.mask 64 0 = true := by decide +kernel

/-- What the model stores at the first address is not the first element. -/
theorem stored_twice : Claims.tileNat (Tests.next (exec (.stx twiceV.w) twiceS)) twiceV 0x480 8 ≠ elemNat twiceData.pay 64 0 := by
  decide +kernel

/-! ### The end of a node's firing leaves the banks -/

theorem traceRecord_spad (s : State) (ea : EAddr) (ctx : BitVec 2) (evt : Nat) (t : Token) : (traceRecord s ea ctx evt t).spad = s.spad := by
  simp only [traceRecord, apply_ite State.spad, ite_self]

theorem traceEvent_spad (s : State) (ea : EAddr) (ctx : BitVec 2) (evt : Nat) (t : Token) : (traceEvent s ea ctx evt t).spad = s.spad := by
  unfold traceEvent
  split
  · exact traceRecord_spad ..
  · rfl

theorem noteFiring_spad (s : State) (ea : EAddr) (ctx : BitVec 2) (i : Nat) (t : Token) : (noteFiring s ea ctx i t).spad = s.spad := by
  simp only [noteFiring]
  split
  · simp only [apply_ite State.spad, traceEvent_spad, traceRecord_spad, ite_self, State.modElem_spad]
  · simp only [State.modTask_spad, apply_ite State.spad, traceEvent_spad, traceRecord_spad, ite_self, State.modElem_spad]

theorem applyAgn_done_spad (s : State) (v : AgnView) (t : Token) (pops : List Nat) (op : OpSt) (res : List (Nat × Token)) :
    (applyAgn s v t pops (.done op res false)).spad = s.spad := by
  simp only [applyAgn, Bool.false_eq_true, if_false, State.modElem_spad, apply_ite State.spad, State.modSite_spad, noteFiring_spad, ite_self]

/-- Refutes O34: with the row listed twice in the table of row errors, `stx` rebuilds the row before its second store, and the first address
does not hold the first element. -/
theorem not_nodeStores : ¬ Obligations.NodeStores := by
  unfold Obligations.NodeStores
  intro h
  obtain ⟨-, hstx, -⟩ := h twiceS twiceV twiceAddr twiceData clean_twice (by decide +kernel) rfl rfl
  have hw : fmtWidth twiceV.w.fmt.toNat = 64 := rfl
  obtain ⟨h0, h1, hrest⟩ := addr_twice
  have hwrote : ∀ i a, i < 8 → addrElem twiceAddr i = some a → i = 0 ∧ a = 0x480 ∨ i = 1 ∧ a = 0x488 := by
    intro i a hi ha
    rcases Nat.lt_or_ge 1 i with hlt | hge
    · rw [hrest i hi hlt] at ha
      cases ha
    · interval_cases i
      · exact .inl ⟨rfl, (Option.some.inj (h0.symm.trans ha)).symm⟩
      · exact .inr ⟨rfl, (Option.some.inj (h1.symm.trans ha)).symm⟩
  have hall : ∀ i a, i < 8 ∧ elemValid twiceData.mask 64 i = true ∧ addrElem twiceAddr i = some a → Claims.Allowed twiceS twiceV a 8 8 := by
    rintro i a ⟨hi, -, ha⟩
    obtain ⟨-, rfl⟩ | ⟨-, rfl⟩ := hwrote i a hi ha
    · exact allowed_twice _ (by decide)
    · exact allowed_twice _ (by decide)
  obtain ⟨u, -, hstored, hdone⟩ := hstx ready_twice ⟨rfl, rfl, rfl, rfl⟩ (by rw [hw]; decide) hall
  have hnext : Tests.next (exec (.stx twiceV.w) twiceS) = applyAgn u twiceV twiceAddr (agnInputs twiceV) (.done twiceV.op (twiceV.completion twiceAddr false) false) :=
    congrArg Tests.next hdone
  have hspad : (Tests.next (exec (.stx twiceV.w) twiceS)).spad = u.spad := hnext ▸ applyAgn_done_spad ..
  have hfirst : Claims.tileNat u twiceV 0x480 8 = elemNat twiceData.pay 64 0 := by
    refine hstored 0 0x480 ⟨by decide, valid_twice, h0⟩ ?_
    rintro j b ⟨hj, -, hb⟩ hlt
    obtain ⟨rfl, -⟩ | ⟨-, rfl⟩ := hwrote j b hj hb
    · omega
    · left; decide
  refine stored_twice ?_
  simp only [Claims.tileNat, Claims.tileByte, hspad]
  exact hfirst

end Sys2Proof.Proofs

namespace Sys2Proof.Proofs
open Sys2Proof.Machine

/-! ## Bytes and lines -/

theorem bytesToNat_lt (l : List Byte) : bytesToNat l < 256 ^ l.length := by
  induction l with
  | nil => exact Nat.one_pos
  | cons b l ih =>
    have hb : b.toNat < 256 := b.isLt
    rw [bytesToNat, List.length_cons, Nat.pow_succ]
    omega

/-- The bytes of the number that bytes stand for. -/
theorem natToBytes_bytesToNat (l : List Byte) : natToBytes l.length (bytesToNat l) = l := by
  induction l with
  | nil => rfl
  | cons b l ih =>
    have hb : b.toNat < 256 := b.isLt
    have hlow : BitVec.ofNat 8 (b.toNat + 256 * bytesToNat l) = b := BitVec.eq_of_toNat_eq (by rw [BitVec.toNat_ofNat]; omega)
    rw [List.length_cons, bytesToNat, natToBytes, hlow, show (b.toNat + 256 * bytesToNat l) / 256 = bytesToNat l by omega, ih]

/-- A row as a line holds its bytes. -/
theorem lineBytes_lineOf {l : List Byte} (h : l.length = 64) : lineBytes (lineOf l) = l := by
  have hlt := bytesToNat_lt l
  rw [h, show (256 : Nat) ^ 64 = 2 ^ 512 from (Nat.pow_mul 2 8 64).symm] at hlt
  rw [lineBytes, lineOf, BitVec.toNat_ofNat, Nat.mod_eq_of_lt hlt, ← h, natToBytes_bytesToNat]

theorem length_memBytes (m : Memory) (a n : Nat) : (memBytes m a n).length = n := by
  induction n generalizing a with
  | zero => rfl
  | succ n ih => rw [memBytes, List.length_cons, ih]

theorem memBytes_eq_map (m : Memory) (a n : Nat) : memBytes m a n = (List.range n).map (fun i => memByte m (a + i)) := by
  induction n generalizing a with
  | zero => rfl
  | succ n ih =>
    rw [memBytes, ih, List.range_succ_eq_map, List.map_cons, List.map_map]
    refine congrArg₂ List.cons rfl (List.map_congr_left fun i _ => ?_)
    simp only [Function.comp, Nat.succ_eq_add_one, Nat.add_assoc, Nat.add_comm 1]

/-! ## Where a line of a tile stands (R92) -/

/-- Key of the line at an offset. -/
def lineKey (v : AgnView) (off : Nat) : Nat := bankKey v.site (bankOf v.rot off) (rowOf off)

theorem bankOf_line (code off i : Nat) (hi : i < 64) (ha : off % 64 = 0) : bankOf code (off + i) = bankOf code off := by
  have h6 : (off + i) / 64 = off / 64 := by omega
  have h10 : (off + i) / 2 ^ 10 = off / 2 ^ 10 := by omega
  have h14 : (off + i) / 2 ^ 14 = off / 2 ^ 14 := by omega
  simp only [bankOf, Machine.rotation, h6, h10, h14]

theorem cell_line (v : AgnView) {off i : Nat} (hi : i < 64) (ha : off % 64 = 0) : Claims.cell v (off + i) = lineKey v off + i := by
  rw [Claims.cell, lineKey, bankOf_line _ _ _ hi ha, rowOf, rowOf, show (off + i) / 1024 = off / 1024 by omega, show (off + i) % 64 = i by omega]

/-- The bytes of a bank row are those of the tile's line. -/
theorem bankLine_bytes (s : State) (v : AgnView) {off : Nat} (ha : off % 64 = 0) :
    lineBytes (bankLine s v.site (bankOf v.rot off) (rowOf off)) = (List.range 64).map (fun i => Claims.tileByte s v (off + i)) := by
  rw [bankLine, lineBytes_lineOf (length_memBytes ..), memBytes_eq_map]
  refine List.map_congr_left fun i hi => ?_
  rw [Claims.tileByte, cell_line v (List.mem_range.1 hi) ha]
  rfl

/-! ## Direct reads of a tile without errors -/

/-- What reads of a tile leave: bank accounting apart, everything, and no error arises. -/
structure Served (s u : State) (site : SiteNo) : Prop where
  frame : u = { s with sites := u.sites }
  clean : Claims.Clean u site

theorem Served.refl {s : State} {site : SiteNo} (h : Claims.Clean s site) : Served s s site := ⟨rfl, h⟩

theorem Served.trans {s u t : State} {site : SiteNo} (h : Served s u site) (h' : Served u t site) : Served s t site :=
  ⟨by rw [h'.frame, h.frame], h'.clean⟩

/-- A change of the bank accounting that keeps retirement, errors and the reconstruction enable. -/
theorem served_modAx {s : State} {site : SiteNo} {f : Axolotl → Axolotl} (h : Claims.Clean s site) (hr : ∀ a, (f a).retired = a.retired)
    (he : ∀ a, (f a).errs = a.errs) (hb : ∀ a, (f a).bpctl = a.bpctl) : Served s (modAx s site f) site := by
  have hax : axOf (modAx s site f) site = f (axOf s site) := by
    rw [axOf, modAx, State.modSite, site_setSite_same h.sites]; rfl
  refine ⟨rfl, tabSet_risingNone h.sites, fun g => ?_, fun b r => ?_, ?_⟩
  · rw [hax, retiredOf, hr]; exact h.banks g
  · rw [hax, rowError, he]; exact h.rows b r
  · rw [hax, hb]; exact h.recon

theorem Served.tileByte {s u : State} {v : AgnView} {site : SiteNo} (h : Served s u site) (o : Nat) : Claims.tileByte u v o = Claims.tileByte s v o := by
  rw [h.frame]; rfl

theorem Served.bankLine {s u : State} {site : SiteNo} (h : Served s u site) (z : SiteNo) (b r : Nat) : bankLine u z b r = bankLine s z b r := by
  rw [h.frame]; rfl

/-- A bank that R204 does not serve waits until it is idle. -/
theorem secondRead_off {a : Axolotl} (h : a.bpctl.toNat % 2 = 0) (bank row now f : Nat) : secondRead a bank row now f = false := by
  rw [secondRead, h]; rfl

theorem served_useBanks {s : State} {site : SiteNo} (h : Claims.Clean s site) (l : List Nat) (f : Nat) : Served s (useBanks s site l f) site :=
  served_modAx (f := fun a => { a with busy := a.busy.filter (fun p => decide (s.time ≤ p.2)) ++ l.map (fun b => (b, f)) }) h
    (fun _ => rfl) (fun _ => rfl) (fun _ => rfl)

/-- The machine after a direct read: the bank is taken in the first fc in which it is idle (R203). -/
def afterRead (s : State) (site : SiteNo) (bank row : Nat) : State :=
  let a := axOf s site
  let f := firstFc (fun f => !bankBusy a bank s.time f || secondRead a bank row s.time f) a.span s.time
  useBanks (if f = s.time then s else modAx s site (fun a => { a with rwait := satAdd32 a.rwait (f - s.time) })) site [bank] f

theorem served_afterRead {s : State} {site : SiteNo} (h : Claims.Clean s site) (bank row : Nat) : Served s (afterRead s site bank row) site := by
  have hwait : ∀ (c : Prop) [Decidable c] (n : Nat),
      Served s (if c then s else modAx s site (fun a => { a with rwait := satAdd32 a.rwait n })) site := by
    intro c _ n
    split
    · exact .refl h
    · exact served_modAx h (fun _ => rfl) (fun _ => rfl) (fun _ => rfl)
  exact (hwait _ _).trans (served_useBanks (hwait _ _).clean _ _)

theorem readBank_clean {s : State} {site : SiteNo} (h : Claims.Clean s site) (ctx : BitVec 2) (bank row : Nat) :
    readBank s site ctx bank row = (afterRead s site bank row, { line := bankLine s site bank row, failed := false }) := by
  rw [← (served_afterRead h bank row).bankLine]
  unfold readBank
  dsimp only
  rw [if_neg (by rw [h.banks]; exact Bool.false_ne_true), if_neg (by rw [secondRead_off h.recon, Bool.and_false]; exact Bool.false_ne_true), h.rows]
  rfl

theorem readSpad_clean {s : State} {site : SiteNo} (h : Claims.Clean s site) (ctx : BitVec 2) (place off code : Nat) :
    ∃ u, Served s u site ∧
      readSpad s site ctx place off code = (u, { line := bankLine s site (bankOf code off) (rowOf off), failed := false }) := by
  have hserve : Served s (servePlace s site place) site := served_modAx h (fun _ => rfl) (fun _ => rfl) (fun _ => rfl)
  exact ⟨_, hserve.trans (served_afterRead hserve.clean ..), readBank_clean hserve.clean ..⟩

/-- The bytes of the tile's line at an offset. -/
def tileLine (s : State) (v : AgnView) (off : Nat) : List Byte := (List.range 64).map (fun i => Claims.tileByte s v (off + i))

/-- A node reads a line of its own tile. -/
theorem readLine_clean {s : State} {v : AgnView} (h : Claims.Clean s v.site) {off : Nat} (ha : off % 64 = 0) :
    ∃ u, Served s u v.site ∧ readLine s v (.spad v.site off) = (u, tileLine s v off, false) := by
  obtain ⟨u, hu, he⟩ := readSpad_clean h v.ctx (v.place v.site) off v.rot
  refine ⟨u, hu, ?_⟩
  rw [readLine, he]
  dsimp only
  rw [bankLine_bytes s v ha]
  rfl

theorem Served.apart {s u : State} {site : SiteNo} (h : Served s u site) : Claims.Apart s u (fun _ => False) := by
  rw [h.frame]; exact ⟨rfl, rfl, rfl, rfl, rfl, rfl, fun _ _ => rfl⟩

theorem Served.tileLine {s u : State} {v : AgnView} {site : SiteNo} (h : Served s u site) (off : Nat) : tileLine u v off = tileLine s v off := by
  rw [h.frame]; rfl

theorem length_tileLine (s : State) (v : AgnView) (off : Nat) : (tileLine s v off).length = 64 := by
  rw [Proofs.tileLine, List.length_map, List.length_range]

/-- Bytes within a line are the tile's. -/
theorem tileLine_take (s : State) (v : AgnView) (off o n : Nat) (h : o + n ≤ 64) :
    bytesToNat (((tileLine s v off).drop o).take n) = Claims.tileNat s v (off + o) n := by
  rw [Claims.tileNat, Proofs.tileLine]
  congr 1
  refine List.ext_getElem (by simp; omega) fun i h1 h2 => ?_
  simp [Nat.add_assoc]

/-! ## A node that may fire -/

theorem exec_agn {s : State} {v : AgnView} {code : Nat} {fire : State → AgnView → State} (h : Claims.NodeLive s v code) :
    runAgn s v.w code fire = .next (fire s v) := by
  obtain ⟨hfocus, hsite, hview, hlive, hfault⟩ := h
  refine runAgn_next.2 ⟨v.ea, v.ctx, v.n, hfocus, ?_⟩
  rw [hsite, ← hview, agnStep, hlive, hfault]
  rfl

/-- A node whose addresses come as tokens, with data at all its inputs, does what its body says. -/
theorem fireTokens_ready {s : State} {v : AgnView} {code : Nat} {t : Token} {rest : List Token} {body : AgnBody}
    (h : Claims.NodeReady s v code (t :: rest)) (hb : v.fromBase = false) (hp : randPaired (t :: rest) = false) :
    fireTokens s v body = applyAgn (body s v t rest).1 v t (agnInputs v) (body s v t rest).2 := by
  have hheads : (agnInputs v).filterMap (fun p => (v.e.queue p).head?) = t :: rest := by
    simpa [List.filterMap_map] using congrArg (List.filterMap id) h.heads
  have hlen : (agnInputs v).length = (t :: rest).length := by
    simpa using congrArg List.length h.heads
  have hcut : (t :: rest).any (fun u => u.kind == .cut) = false := by
    rw [List.any_eq_false]
    intro u hu
    rw [h.data u hu]
    decide
  have hdata : (t :: rest).all (fun u => u.kind == .data) = true := by
    rw [List.all_eq_true]
    intro u hu
    rw [h.data u hu]
    decide
  have hpage : v.pageCut = false := by rw [AgnView.pageCut, hb]; rfl
  simp only [fireTokens, hheads, hlen, Nat.lt_irrefl, if_false, hcut, hpage, Bool.or_self, Bool.false_eq_true, hdata, or_true, if_true, hp]

end Sys2Proof.Proofs

namespace Sys2Proof.Proofs
open Sys2Proof.Machine

/-! ## Deciding addresses of the node's own tile -/

theorem decideAsk_local {s : State} {v : AgnView} {q : Ask} (hport : q.port = 0) (hk : q.x % q.align = 0) (hw : v.inWindow q.x q.n = true)
    (hr : inRange s v.site q.x q.n = true) : decideAsk s v q = (s, .ok (some (.spad v.site q.x))) := by
  unfold decideAsk
  rw [hport]
  refine Prod.ext rfl (if_pos ⟨hk, ?_, hr⟩)
  rw [hw, Bool.or_true]

theorem decideAsk_allowed {s : State} {v : AgnView} {a n k : Nat} (h : Claims.Allowed s v a n k) (w : Bool) :
    decideAsk s v { x := a, port := v.port, bound := true, n := n, align := k, write := w } = (s, .ok (some (.spad v.site a))) := by
  obtain ⟨hp, hk, hw, hr⟩ := h
  exact decideAsk_local hp hk hw hr

theorem decideAll_allowed {s : State} {v : AgnView} {n k : Nat} {w : Bool} (l : List Nat) (h : ∀ a ∈ l, Claims.Allowed s v a n k) :
    decideAll v s (l.map (fun a => { x := a, port := v.port, bound := true, n := n, align := k, write := w })) =
      (s, .ok (l.map (fun a => some (.spad v.site a)))) := by
  induction l with
  | nil => rfl
  | cons a l ih =>
    rw [List.map_cons, decideAll, decideAsk_allowed (h a List.mem_cons_self)]
    dsimp only
    rw [ih fun b hb => h b (List.mem_cons_of_mem a hb)]
    rfl

/-! ## `ld` (R369, R370) -/

section
variable {s : State} {v : AgnView} {t : Token}

theorem ldBody_empty (himm : v.imm 16 2 = 0) (h : t.etag = true ∨ addrElem t 0 = none) (rest : List Token) :
    ldBody s v t rest = (s, .done v.op [(v.w.dst.toNat, emptyToken t)] false) := by
  have hx : (if t.etag = true then none else addrElem t 0) = none := by
    rcases h with h | h
    · exact if_pos h
    · rw [h, ite_self]
  simp only [ldBody, loadAt, himm, hx]
  rfl

theorem ldBody_line (hs : Claims.Clean s v.site) (himm : v.imm 16 2 = 0) (htag : t.etag = false) {a : Nat} (ha : addrElem t 0 = some a)
    (hok : Claims.Allowed s v a 64 64) (rest : List Token) : ∃ u, Served s u v.site ∧
    ldBody s v t rest = (u, .done v.op [(v.w.dst.toNat, dataToken (lineOf (tileLine s v a)) 0xFFFF#16 t)] false) := by
  obtain ⟨u, hu, hread⟩ := readLine_clean hs hok.2.1
  refine ⟨u, hu, ?_⟩
  have hask : decideAsk s v { x := a, port := v.port, bound := true, n := blockSpan 0 64, align := 64, write := false } =
      (s, .ok (some (.spad v.site a))) := decideAsk_allowed hok false
  simp only [ldBody, loadAt, himm, htag, ha, Bool.false_eq_true, if_false, if_true, ne_eq, not_true_eq_false, false_and, hask, hread]
  rfl

/-- A token of a line of the tile. -/
theorem lineToken_bytes (s : State) (v : AgnView) (t : Token) (a : Nat) {i : Nat} (hi : i < 64) :
    (lineBytes (dataToken (lineOf (tileLine s v a)) 0xFFFF#16 t).pay).getD i 0 = Claims.tileByte s v (a + i) := by
  rw [dataToken]
  dsimp only
  rw [maskPay_full, lineBytes_lineOf (length_tileLine ..), tileLine, List.getD_eq_getElem _ _ (by simpa using hi), List.getElem_map, List.getElem_range]

end

/-! ## Results by element -/

/-- A result whose elements are those of some numbers. -/
theorem elemResult_eq (t : Token) (w : Nat) (act : List Nat) (g : Nat → Nat) :
    elemResult t w (act.map (fun i => (i, g i, false))) =
      dataToken (elemsToPay w ((List.range (512 / w)).map (fun i => if i ∈ act then g i else 0))) (lanesOfElems w (fun i => decide (i ∈ act))) t := by
  have hfind : ∀ i, ((act.map (fun i => (i, g i, false))).find? (fun p => p.1 == i)).map (·.2) = if i ∈ act then some (g i, false) else none := by
    intro i
    induction act with
    | nil => rfl
    | cons a act ih =>
      rw [List.map_cons, List.find?_cons]
      by_cases h : a = i
      · subst h; simp
      · have hne : (a == i) = false := beq_eq_false_iff_ne.2 h
        have hmem : (i ∈ a :: act) ↔ i ∈ act := by rw [List.mem_cons, or_iff_right (Ne.symm h)]
        simp only [hne, ih, hmem]
  have hany : (act.map (fun i => (i, g i, false))).any (fun p => p.2.2) = false := by simp
  have hval : (fun i => (if i ∈ act then some (g i, false) else none : Option (Nat × Bool)).elim 0 (·.1)) = fun i => if i ∈ act then g i else 0 := by
    funext i
    split <;> rfl
  have hsome : (fun i => (if i ∈ act then some (g i, false) else none : Option (Nat × Bool)).isSome) = fun i => decide (i ∈ act) := by
    funext i
    by_cases h : i ∈ act
    · rw [if_pos h, decide_eq_true h]; rfl
    · rw [if_neg h, decide_eq_false h]; rfl
  simp only [elemResult, hfind, hany, orTag_false]
  rw [hval, hsome]

/-- A valid element of such a result. -/
theorem elemNat_elemResult {t : Token} {f : Nat} {act : List Nat} {g : Nat → Nat} {i : Nat} (hi : i ∈ act) (hf : i < fmtElems f)
    (hg : g i < 2 ^ fmtWidth f) (hv : elemValid (elemResult t (fmtWidth f) (act.map (fun i => (i, g i, false)))).mask (fmtWidth f) i = true) :
    elemNat (elemResult t (fmtWidth f) (act.map (fun i => (i, g i, false)))).pay (fmtWidth f) i = g i := by
  rw [elemResult_eq] at hv ⊢
  have hw : fmtElems f = 512 / fmtWidth f := by
    unfold fmtElems at hf ⊢
    split
    case isTrue h => rw [if_pos h] at hf; exact absurd hf (Nat.not_lt_zero _)
    case isFalse => rfl
  refine (elemNat_maskPay hf fun hn => absurd (hn.symm.trans hv) (by decide)).trans ?_
  rw [← hw, elemNat_elems f _ hf, if_pos hi, Nat.mod_eq_of_lt hg]

theorem elemResult_onSide (t : Token) (w : Nat) (act : List Nat) (g : Nat → Nat) :
    Claims.onSide t (elemResult t w (act.map (fun i => (i, g i, false)))) (lanesOfElems w (fun i => decide (i ∈ act))) := by
  rw [elemResult_eq]; rfl

theorem tileNat_lt (s : State) (v : AgnView) (a n : Nat) : Claims.tileNat s v a n < 2 ^ (8 * n) := by
  have h := bytesToNat_lt ((List.range n).map (fun i => Claims.tileByte s v (a + i)))
  rwa [List.length_map, List.length_range, show (256 : Nat) = 2 ^ 8 from rfl, ← Nat.pow_mul] at h

end Sys2Proof.Proofs

namespace Sys2Proof.Proofs
open Sys2Proof.Machine

/-! ## `ldx` (R374, R375) -/

/-- The elements of a token that hold an address. -/
def activeElems (t : Token) : List Nat := (List.range 8).filter (fun i => (addrElem t i).isSome)

/-- The address of an element; 0 where there is none. -/
def addrOf (t : Token) (i : Nat) : Nat := (addrElem t i).getD 0

theorem mem_activeElems {t : Token} {i : Nat} : i ∈ activeElems t ↔ i < 8 ∧ (addrElem t i).isSome = true := by
  rw [activeElems, List.mem_filter, List.mem_range]

theorem addrElem_of_active {t : Token} {i : Nat} (h : i ∈ activeElems t) : addrElem t i = some (addrOf t i) := by
  obtain ⟨a, ha⟩ := Option.isSome_iff_exists.1 (mem_activeElems.1 h).2
  rw [addrOf, ha]; rfl

theorem activeElems_eq (t : Token) : activeElems t = (List.range 8).filter (fun i => (addrElem t i).isSome) := rfl

/-- Mapping the present members of a list is mapping those whose value is present. -/
theorem filterMap_present {α β : Type} (g : Nat → Option α) (d : α) (f : α → β) (l : List Nat) :
    (l.map g).filterMap (fun a => a.map f) = (l.filter (fun i => (g i).isSome)).map (fun i => f ((g i).getD d)) := by
  induction l with
  | nil => rfl
  | cons i l ih =>
    rw [List.map_cons, List.filterMap_cons, List.filter_cons, ih]
    cases h : g i with
    | none => rfl
    | some a => simp [h]

theorem zip_map_self {α : Type} (f : Nat → α) (l : List Nat) : (l.map f).zip l = l.map (fun i => (f i, i)) := by
  induction l with
  | nil => rfl
  | cons i l ih => rw [List.map_cons, List.zip_cons_cons, ih, List.map_cons]

/-- Each distinct line is read once, and found under its place. -/
theorem readLines_clean {v : AgnView} (lines : List Place) : ∀ {s : State}, Claims.Clean s v.site →
    (∀ p ∈ lines, ∃ o, p = .spad v.site o ∧ o % 64 = 0) → ∃ u more, Served s u v.site ∧ readLines v s lines = (u, more) ∧
      ∀ o, .spad v.site o ∈ lines → more.find? (fun l => l.1 == .spad v.site o) = some (.spad v.site o, tileLine s v o, false) := by
  induction lines with
  | nil => exact fun h _ => ⟨_, [], .refl h, rfl, fun o ho => absurd ho List.not_mem_nil⟩
  | cons p lines ih =>
    intro s h hp
    obtain ⟨o, rfl, ho⟩ := hp p List.mem_cons_self
    obtain ⟨s1, hs1, hread⟩ := readLine_clean h ho
    obtain ⟨u, more, hu, hmore, hfind⟩ := ih hs1.clean fun q hq => hp q (List.mem_cons_of_mem _ hq)
    refine ⟨u, (.spad v.site o, tileLine s v o, false) :: more, hs1.trans hu, ?_, fun o' ho' => ?_⟩
    · rw [readLines, hread]
      dsimp only
      rw [hmore]
    · rw [List.find?_cons]
      by_cases he : o = o'
      · subst he
        simp
      · have hne : Place.spad v.site o ≠ Place.spad v.site o' := fun hn => he (Place.spad.inj hn).2
        rw [beq_eq_false_iff_ne.2 hne]
        dsimp only
        rw [hfind o' ((List.mem_cons.1 ho').resolve_left (Ne.symm hne)), hs1.tileLine]

/-- An aligned element lies within its line. -/
theorem aligned_in_line {a n : Nat} (hn : n ∈ [1, 2, 4, 8]) (ha : a % n = 0) : a % 64 + n ≤ 64 := by
  simp only [List.mem_cons, List.not_mem_nil, or_false] at hn
  rcases hn with rfl | rfl | rfl | rfl <;> omega

/-- A record that stands at the start of a request is the one that the end of a request leaves. -/
theorem op_restarted (o : OpSt) (hvis : o.visited = 0) (hheld : o.held = none) (hpart : o.part = none) :
    { o with visited := 0, held := none, part := none } = o := by
  obtain ⟨⟩ := o
  dsimp only at hvis hheld hpart
  subst hvis hheld hpart
  rfl

section
variable {s : State} {v : AgnView} {t : Token} {n : Nat}

/-- The elements asked for, with their places. -/
def askedOf (v : AgnView) (t : Token) : List (Nat × Place) := (activeElems t).map (fun i => (i, .spad v.site (addrOf t i)))

theorem gatherBody_tagged (h : t.etag = true) (rest : List Token) : gatherBody s v t rest = (s, .done v.op (v.result (emptyToken t)) false) := by
  rw [gatherBody, if_pos h]

theorem gatherBody_clean (hs : Claims.Clean s v.site) (htag : t.etag = false) (hfresh : Claims.Fresh v.op)
    (hn : fmtWidth v.w.fmt.toNat / 8 = n) (hn4 : n ∈ [1, 2, 4, 8]) (hok : ∀ i < 8, ∀ a, addrElem t i = some a → Claims.Allowed s v a n n) (rest : List Token) :
    ∃ u, Served s u v.site ∧ gatherBody s v t rest = (u, .done v.op (v.result (elemResult t (fmtWidth v.w.fmt.toNat)
      ((activeElems t).map (fun i => (i, Claims.tileNat s v (addrOf t i) n, false))))) false) := by
  obtain ⟨hvis, hheld, hpart, hlost⟩ := hfresh
  have hallowed : ∀ a ∈ (activeElems t).map (addrOf t), Claims.Allowed s v a n n := by
    intro a ha
    obtain ⟨i, hi, rfl⟩ := List.mem_map.1 ha
    exact hok i (mem_activeElems.1 hi).1 _ (addrElem_of_active hi)
  have hasks : ((List.range 8).map (addrElem t)).filterMap (fun a => a.map (fun x =>
      ({ x := x, port := v.port, bound := true, n := n, align := n, write := false } : Ask))) =
      ((activeElems t).map (addrOf t)).map (fun a => { x := a, port := v.port, bound := true, n := n, align := n, write := false }) := by
    rw [filterMap_present (addrElem t) 0, List.map_map]; rfl
  have hasked : ((((activeElems t).map (addrOf t)).map (fun a => some (Place.spad v.site a))).zip (activeElems t)).filterMap
      (fun p => p.1.map (fun q => (p.2, q))) = askedOf v t := by
    rw [List.map_map, zip_map_self, List.filterMap_map, askedOf, ← List.filterMap_eq_map]
    rfl
  have hpending : (askedOf v t).filter (fun p => !bitSet 0 p.1) = askedOf v t :=
    List.filter_eq_self.2 fun p _ => by simp [bitSet]
  have hall : (askedOf v t).filter (fun _ => true) = askedOf v t := List.filter_eq_self.2 fun _ _ => rfl
  have hplace : ∀ p ∈ askedOf v t, ∃ i, p = (i, Place.spad v.site (addrOf t i)) ∧ addrOf t i % n = 0 := by
    intro p hp
    obtain ⟨i, hi, rfl⟩ := List.mem_map.1 hp
    exact ⟨i, rfl, (hallowed _ (List.mem_map_of_mem hi)).2.1⟩
  obtain ⟨u, more, hu, hmore, hfind⟩ := readLines_clean (v := v) (((askedOf v t).map (fun p => p.2.line)).dedup) hs (by
    intro p hp
    obtain ⟨q, hq, rfl⟩ := List.mem_map.1 (List.mem_dedup.1 hp)
    obtain ⟨i, rfl, -⟩ := hplace q hq
    exact ⟨addrOf t i / 64 * 64, rfl, Nat.mul_mod_left ..⟩)
  have hnow : (askedOf v t).filter (fun p => (((askedOf v t).map (fun p => p.2.line)).dedup).contains p.2.line) = askedOf v t :=
    List.filter_eq_self.2 fun p hp => by
      rw [List.contains_iff_mem, List.mem_dedup]
      exact List.mem_map_of_mem hp
  refine ⟨u, hu, ?_⟩
  unfold gatherBody
  dsimp only
  rw [if_neg (by rw [htag]; decide), hn, hasks, decideAll_allowed _ hallowed]
  dsimp only
  rw [← activeElems_eq, hasked, hvis, hpending, hpart, hheld]
  simp only [Option.elim, hall, hnow, hmore, Nat.lt_irrefl, if_false, List.nil_append]
  have hval : ∀ i ∈ activeElems t, bytesToNat (((tileLine s v (addrOf t i / 64 * 64)).drop (addrOf t i % 64)).take n) =
      Claims.tileNat s v (addrOf t i) n := by
    intro i hi
    obtain ⟨-, ha, -⟩ := hallowed _ (List.mem_map_of_mem hi)
    rw [tileLine_take _ _ _ _ _ (aligned_in_line hn4 ha), show addrOf t i / 64 * 64 + addrOf t i % 64 = addrOf t i by omega]
  refine Prod.ext rfl ?_
  rw [op_restarted v.op hvis hheld hpart]
  refine congrArg (fun l => AgnOut.done v.op (v.result (elemResult t (fmtWidth v.w.fmt.toNat) l)) false) ?_
  rw [askedOf, List.map_map]
  refine List.map_congr_left fun i hi => ?_
  have hline : Place.spad v.site (addrOf t i / 64 * 64) ∈ ((askedOf v t).map (fun p => p.2.line)).dedup :=
    List.mem_dedup.2 (List.mem_map.2 ⟨(i, .spad v.site (addrOf t i)), List.mem_map_of_mem hi, rfl⟩)
  have hf := hfind _ hline
  simp only [Function.comp, Place.line, Place.byte, hf, Bool.false_eq_true, if_false, hval i hi]

end
end Sys2Proof.Proofs

namespace Sys2Proof.Proofs
open Sys2Proof.Machine

section
variable {s : State} {v : AgnView} {t : Token} {code : Nat}

theorem view_code (h : Claims.NodeLive s v code) : v.code = code := congrArg AgnView.code h.view

/-- A node with one input, and no data port, takes its addresses as tokens. -/
theorem fromBase_of_address (h : Claims.NodeReady s v code [t]) (hc : code = 322 ∨ code = 324) : v.fromBase = false := by
  have hlen : (agnInputs v).length = 1 := by simpa using congrArg List.length h.heads
  have hcode : v.code = code := view_code h.toNodeLive
  cases hb : v.fromBase with
  | false => rfl
  | true =>
    rcases hc with rfl | rfl <;> simp [agnInputs, hcode, hb] at hlen

theorem nodeDone_of_body {i : Instr} {body : AgnBody} {rest : List Token} {u : State} {op : OpSt} {res : List (Nat × Token)}
    {fire : State → AgnView → State} (h : Claims.NodeReady s v code (t :: rest)) (hb : v.fromBase = false) (hp : randPaired (t :: rest) = false)
    (hexec : exec i s = runAgn s v.w code fire) (hfire : fire s v = fireTokens s v body) (hbody : body s v t rest = (u, .done op res false)) :
    Claims.NodeDone s v i t op res u := by
  rw [Claims.NodeDone, hexec, exec_agn h.toNodeLive, hfire, fireTokens_ready h hb hp, hbody]

theorem nodeDone_ld {u : State} {op : OpSt} {res : List (Nat × Token)} (h : Claims.NodeReady s v 320 [t]) (hb : v.fromBase = false)
    (hbody : ldBody s v t [] = (u, .done op res false)) : Claims.NodeDone s v (.ld v.w) t op res u :=
  nodeDone_of_body h hb rfl (by rw [show exec (.ld v.w) s = execLd v.w s from rfl, execLd]) (by rw [hb]; rfl) hbody

theorem nodeDone_ldx {u : State} {op : OpSt} {res : List (Nat × Token)} (h : Claims.NodeReady s v 322 [t])
    (hbody : gatherBody s v t [] = (u, .done op res false)) : Claims.NodeDone s v (.ldx v.w) t op res u :=
  nodeDone_of_body h (fromBase_of_address h (.inl rfl)) rfl (by rw [show exec (.ldx v.w) s = execLdx v.w s from rfl, execLdx]) rfl hbody

/-! ## `ldl` (R372, R373) -/

theorem nodeDone_ldl_start (h : Claims.NodeReady s v 324 [t]) (hheld : v.op.held = none) :
    Claims.NodeDone s v (.ldl v.w) t
      { v.op with held := some t, ptr := some ((addrElem t 0).getD (if v.port = 2 then faultEl 0 else 0)), visited := 0 } [] s :=
  nodeDone_of_body h (fromBase_of_address h (.inr rfl)) rfl (by rw [show exec (.ldl v.w) s = execLdl v.w s from rfl, execLdl]) (by rw [hheld]) rfl

theorem exec_ldl_traverse (h : Claims.NodeLive s v 324) (hcut : cutHead v.e v.w.sa.toNat = false) (hheld : v.op.held = some t) :
    exec (.ldl v.w) s = .next (traverse s v t) := by
  rw [show exec (.ldl v.w) s = execLdl v.w s from rfl, execLdl, exec_agn h]
  dsimp only
  rw [hheld]
  dsimp only
  rw [hcut, if_neg Bool.false_ne_true]

/-- A chain ends at pointer 0. -/
theorem traverse_end (hport : v.port = 0) (htag : t.etag = false) (hptr : v.op.ptr = some 0) :
    traverse s v t = applyAgn s v t [] (.done { v.op with held := none, ptr := none, visited := 0 }
      (v.result (t.asMarker (BitVec.ofNat 3 (v.imm 3 3)))) false) := by
  simp [Machine.traverse, hport, htag, hptr, endTraversal]

/-- One node of a chain in the tile. -/
theorem traverse_node (hs : Claims.Clean s v.site) (hport : v.port = 0) (htag : t.etag = false) (hptr : 0 < v.op.ptr.getD 0)
    (hn : v.op.visited < v.imm 16 16) (hpos : 0 ≤ (v.op.ptr.getD 0 : Int) + v.offl) {node : Nat} (hnode : (v.op.ptr.getD 0 + v.offl).toNat = node)
    (hok : Claims.Allowed s v node 64 64) : ∃ u, Served s u v.site ∧
    traverse s v t = applyAgn u v t [] (.done
      { v.op with ptr := some (Claims.tileNat s v (node + 8 * v.imm 0 3) 8), visited := v.op.visited + 1 }
      (v.result (dataToken (lineOf (tileLine s v node)) 0xFFFF#16 t)) false) := by
  obtain ⟨u, hu, hread⟩ := readLine_clean hs hok.2.1
  have hplace : nodePlace s v (v.op.ptr.getD 0) = (s, .ok (some (.spad v.site node))) := by
    rw [nodePlace, if_pos (by omega), if_neg (Int.not_lt.2 hpos), hnode]
    exact decideAsk_allowed hok false
  have hfield : v.imm 0 3 < 8 := Nat.mod_lt _ (by decide)
  have hnext : lineNat (tileLine s v node) (8 * v.imm 0 3) 8 = Claims.tileNat s v (node + 8 * v.imm 0 3) 8 := tileLine_take _ _ _ _ _ (by omega)
  have hgo : ¬ (t.etag = true ∨ (if v.port = 2 ∧ v.op.visited = 0 ∧ elFault (v.op.ptr.getD 0) = false then elPa (v.op.ptr.getD 0) = 0
      else v.op.ptr.getD 0 = 0) ∨ v.imm 16 16 ≤ v.op.visited) := by
    rw [htag, if_neg (by omega)]
    simp only [Bool.false_eq_true, false_or]
    omega
  refine ⟨u, hu, ?_⟩
  unfold Machine.traverse
  dsimp only
  rw [if_neg hgo, hplace]
  dsimp only
  rw [hread]
  dsimp only
  rw [hnext]
  rfl

end

/-- Settles O33: every read of the tile is direct, so the tokens hold the tile's bytes and bank accounting alone changes. -/
theorem nodeLoads : Obligations.NodeLoads := by
  unfold Obligations.NodeLoads
  intro s v t hs ready line node
  refine ⟨fun h hb himm => ⟨fun hnone => nodeDone_ld h hb (ldBody_empty himm hnone []), fun a htag ha hok => ?_⟩, ?_,
    fun h hheld => nodeDone_ldl_start h hheld,
    fun h hcut hport hheld htag => ⟨fun hptr => ?_, fun hptr hn hpos hok => ?_⟩⟩
  · obtain ⟨u, hu, hbody⟩ := ldBody_line hs himm htag ha hok []
    exact ⟨u, dataToken (lineOf (tileLine s v a)) 0xFFFF#16 t, ⟨hu.apart, rfl, fun i hi => lineToken_bytes s v t a hi⟩, nodeDone_ld h hb hbody⟩
  · intro h hwidth w
    refine ⟨fun htag => nodeDone_ldx h (gatherBody_tagged htag []), fun htag hfresh hok => ?_⟩
    have hw : w = 8 ∨ w = 16 ∨ w = 32 ∨ w = 64 := by simpa using hwidth
    have hbytes : w / 8 ∈ [1, 2, 4, 8] := by rcases hw with h | h | h | h <;> rw [h] <;> decide
    have helems : 8 ≤ fmtElems v.w.fmt.toNat := by
      change 8 ≤ if w = 0 then 0 else 512 / w
      rcases hw with h | h | h | h <;> rw [h] <;> decide
    obtain ⟨u, hu, hbody⟩ := gatherBody_clean hs htag hfresh rfl hbytes hok []
    have hmask : (fun i => decide (i < 8) && (addrElem t i).isSome) = fun i => decide (i ∈ activeElems t) := by
      funext i
      rw [Bool.eq_iff_iff, decide_eq_true_iff, mem_activeElems, Bool.and_eq_true, decide_eq_true_iff]
    refine ⟨u, _, hu.apart, ?_, fun i hi a ha hv => ?_, nodeDone_ldx h hbody⟩
    · rw [hmask]
      exact elemResult_onSide ..
    · have hact : i ∈ activeElems t := mem_activeElems.2 ⟨hi, by rw [ha]; rfl⟩
      have haddr : addrOf t i = a := by rw [addrOf, ha]; rfl
      rw [← haddr]
      refine elemNat_elemResult (g := fun i => Claims.tileNat s v (addrOf t i) (w / 8)) hact (by omega) ?_ hv
      have hlt := tileNat_lt s v (addrOf t i) (w / 8)
      rwa [show 8 * (w / 8) = w by rcases hw with h | h | h | h <;> rw [h]] at hlt
  · rw [exec_ldl_traverse h hcut hheld, traverse_end hport htag hptr]
  · obtain ⟨u, hu, htr⟩ := traverse_node hs hport htag hptr hn hpos rfl hok
    exact ⟨u, dataToken (lineOf (tileLine s v node)) 0xFFFF#16 t, ⟨hu.apart, rfl, fun i hi => lineToken_bytes s v t node hi⟩, by rw [exec_ldl_traverse h hcut hheld, htr]⟩

end Sys2Proof.Proofs

namespace Sys2Proof.Proofs
open Sys2Proof.Machine

/-! ## Translations of a node (R113, R430, R431) -/

section
variable {s u : State} {v : AgnView} {t : Token} {va : Nat} {y : Xlated}

/-- The addresses of a token with one address, at element 0. -/
theorem addresses_only (h : Claims.onlyAddress t 0 va) : (List.range 8).map (addrElem t) = some va :: List.replicate 7 none := by
  obtain ⟨h0, hrest⟩ := h
  have hnone : ∀ i ∈ List.range 7, (addrElem t ∘ Nat.succ) i = none := fun i hi =>
    hrest (i + 1) (by have := List.mem_range.1 hi; omega) (Nat.succ_ne_zero i)
  rw [List.range_succ_eq_map (n := 7), List.map_cons, h0, List.map_map, List.map_congr_left hnone, List.map_const', List.length_range]

theorem xlatElems_none (v : AgnView) (walks : Bool) (s : State) (op : OpSt) (n : Nat) :
    xlatElems v walks s op (List.replicate n none) = (s, op, .ok (List.replicate n none)) := by
  induction n with
  | zero => rfl
  | succ n ih => rw [List.replicate_succ, xlatElems, ih]

/-- An address that the tile's cache serves. -/
def cachedAt (s : State) (v : AgnView) (va : Nat) : Bool :=
  match tlbHits (s.site v.site).xtc (v.part s) va with
  | [e] => e.serves (Intent.ofBits (v.imm 0 2)) && (s.part (v.part s)).pxen && decide (va < 2 ^ 57)
  | _ => false

/-- The log entry of a node's translation. -/
def loggedOp (s u : State) (v : AgnView) (va : Nat) (y : Xlated) : OpSt :=
  noteReissue v.op (reissueOf y va (BitVec.ofNat 2 (v.imm 0 2)) (u.part (v.part s)).gen)

/-- The physical address of a translation under the current generation, alone in a token. -/
def physicalToken (s u : State) (v : AgnView) (t : Token) (y : Xlated) : Token :=
  xlatToken t (some (elOf y (u.part (v.part s)).gen) :: List.replicate 7 none)

theorem xlatElems_ok {walks : Bool} (hgo : cachedAt s v va = true ∨ walks = true)
    (hx : tileXlat s v.site (v.part s) va (Intent.ofBits (v.imm 0 2)) = (u, .ok y)) :
    xlatElems v walks s v.op (some va :: List.replicate 7 none) =
      (u, loggedOp s u v va y, .ok (some (elOf y (u.part (v.part s)).gen) :: List.replicate 7 none)) := by
  have hwait : (!cachedAt s v va && !walks) = false := by rcases hgo with h | h <;> simp [h]
  rw [xlatElems]
  simp only [hx, xlatElems_none]
  exact if_neg fun hn => absurd (hwait.symm.trans hn) (by decide)

theorem xlatElems_miss (h : cachedAt s v va = false) (l : List (Option Nat)) :
    xlatElems v false s v.op (some va :: l) = (s, v.op, .error .wait) := by
  rw [xlatElems]
  refine if_pos ?_
  change (!cachedAt s v va && !false) = true
  rw [h]; rfl

/-- The fields of a physical-address element (Table 4-10). -/
theorem elOf_fields (hsz : y.sz < 8) (gen : BitVec 7) :
    bits (elOf y gen) 0 52 = y.pa % 2 ^ 52 ∧ bits (elOf y gen) 56 7 = gen.toNat ∧ bits (elOf y gen) 55 1 = (if y.wok then 1 else 0) ∧
      bits (elOf y gen) 63 1 = 0 := by
  have hgen : gen.toNat < 2 ^ 7 := gen.isLt
  have hpa : y.pa % 2 ^ 52 < 2 ^ 52 := Nat.mod_lt _ (by decide)
  unfold bits elOf
  generalize y.pa % 2 ^ 52 = pa at hpa ⊢
  cases y.wok <;> simp only [Bool.false_eq_true, if_false, if_true] <;> omega

/-- A token of one translated element, at element 0. -/
theorem xlatToken_only (t : Token) (x : Nat) :
    let r := xlatToken t (some x :: List.replicate 7 none)
    Claims.onSide t r 3 ∧ elemNat r.pay 64 0 = x % 2 ^ 64 := by
  intro r
  have hmask : (lanesOfElems 64 fun i => ((some x :: List.replicate 7 none).getD i none).isSome) = 3 := by
    have hfun : (fun i => ((some x :: List.replicate 7 none).getD i none).isSome) = fun i => decide (i = 0) := by
      funext i
      cases i with
      | zero => rfl
      | succ i => rw [List.getD_cons_succ, List.getD_eq_getElem?_getD, List.getElem?_replicate]; split <;> rfl
    rw [hfun]; decide
  have hvalid : elemValid 3 64 0 = true := by decide
  refine ⟨?_, ?_⟩
  · simp only [r, xlatToken, hmask]
    rfl
  · simp only [r, xlatToken, hmask, dataToken]
    refine (elemNat_maskPay (f := 7) (i := 0) (by decide) fun hn => absurd (hn.symm.trans hvalid) (by decide)).trans ?_
    exact (elemNat_elemsToPay (w := 64) (by decide)).trans rfl

theorem physicalToken_spec (s u : State) (v : AgnView) (t : Token) (hsz : y.sz < 8) :
    let r := physicalToken s u v t y
    Claims.onSide t r 3 ∧ ∃ x, elemNat r.pay 64 0 = x % 2 ^ 64 ∧ bits x 0 52 = y.pa % 2 ^ 52 ∧ bits x 56 7 = (u.part (v.part s)).gen.toNat ∧
      (bits x 55 1 = if y.wok then 1 else 0) ∧ bits x 63 1 = 0 := by
  obtain ⟨hside, hpay⟩ := xlatToken_only t (elOf y (u.part (v.part s)).gen)
  exact ⟨hside, _, hpay, elOf_fields hsz _⟩

/-- A record without a held fault that is left without one. -/
theorem op_unfaulted (o : OpSt) (l : List (Nat × Token)) (h : o.fault = none) :
    { o with held := none, fault := none, mig := none, res := l } = { o with held := none, mig := none, res := l } := by
  obtain ⟨⟩ := o
  dsimp only at h
  subst h
  rfl

theorem nodeDone_xlat {op : OpSt} {res : List (Nat × Token)} (h : Claims.NodeReady s v 326 [t]) (hb : v.fromBase = false) (hheld : v.op.held = none)
    (hbody : xlatBody s v t [] = (u, .done op res false)) : Claims.NodeDone s v (.xlat v.w) t op res u :=
  nodeDone_of_body h hb rfl (by rw [show exec (.xlat v.w) s = execXlat v.w s from rfl, execXlat]) (by rw [hheld]) hbody

theorem xlatBody_hit (htag : t.etag = false) (haddr : Claims.onlyAddress t 0 va) (hhit : cachedAt s v va = true)
    (hx : tileXlat s v.site (v.part s) va (Intent.ofBits (v.imm 0 2)) = (u, .ok y)) :
    xlatBody s v t [] = (u, .done (loggedOp s u v va y) (v.result (physicalToken s u v t y)) false) := by
  rw [xlatBody, if_neg (by rw [htag]; decide), addresses_only haddr, xlatElems_ok (.inl hhit) hx]
  rfl

theorem xlatBody_miss (htag : t.etag = false) (haddr : Claims.onlyAddress t 0 va) (hmiss : cachedAt s v va = false) :
    xlatBody s v t [] = (s, .done { v.op with held := some t } [] false) := by
  rw [xlatBody, if_neg (by rw [htag]; decide), addresses_only haddr, xlatElems_miss hmiss]

theorem walkHeld_ok (haddr : Claims.onlyAddress t 0 va) (hfault : v.op.fault = none)
    (hx : tileXlat s v.site (v.part s) va (Intent.ofBits (v.imm 0 2)) = (u, .ok y)) :
    walkHeld s v t = (migEnds u v).modElem v.ea v.ctx (fun e =>
      e.setOp (agnIdx v.n) { loggedOp s u v va y with held := none, mig := none, res := v.op.res ++ v.result (physicalToken s u v t y) }) := by
  have hv : { v with op := { v.op with fault := none } } = v := by
    obtain ⟨site, ctx, n, w, code, e, op, now⟩ := v
    obtain ⟨⟩ := op
    dsimp only at hfault
    subst hfault
    rfl
  have hres : (loggedOp s u v va y).res = v.op.res := by unfold loggedOp noteReissue; split <;> rfl
  have hf : (loggedOp s u v va y).fault = none := by unfold loggedOp noteReissue; split <;> exact hfault
  unfold walkHeld
  extract_lets _ v'
  have hv' : v' = v := hv
  rw [hv', addresses_only haddr, xlatElems_ok (.inr rfl) hx, ← op_unfaulted _ _ hf, ← hres]
  rfl

end

section
variable {s : State} {v : AgnView}

/-- The view that a node's completions make of it is its own. -/
theorem agnView_of_word {code : Nat} (h : Claims.NodeLive s v code) (hw : OpWord.ofBits (v.e.agnWord v.n) = v.w)
    (hc : opcodeOf (v.e.agnWord v.n) = code) :
    agnView s v.site v.ctx v.n (OpWord.ofBits ((s.elem (siteEa v.site 0) v.ctx).agnWord v.n))
      (opcodeOf ((s.elem (siteEa v.site 0) v.ctx).agnWord v.n)) = v := by
  have he : s.elem (siteEa v.site 0) v.ctx = v.e := (congrArg AgnView.e h.view).symm
  rw [he, hw, hc]
  exact h.view.symm

theorem node_number (hn : v.n < 4) : (BitVec.ofNat 2 v.n).toNat = v.n := by
  rw [BitVec.toNat_ofNat]; omega

theorem exec_walkComplete {t : Token} (h : Claims.NodeLive s v 326) (hheld : v.op.held = some t) (hsite : siteExists v.site = true) (hn : v.n < 4)
    (hw : OpWord.ofBits (v.e.agnWord v.n) = v.w) (hc : opcodeOf (v.e.agnWord v.n) = 326) :
    exec (.walkComplete v.site v.ctx (BitVec.ofNat 2 v.n)) s = .next (walkHeld s v t) := by
  have he : s.elem (siteEa v.site 0) v.ctx = v.e := (congrArg AgnView.e h.view).symm
  have hcode : v.code = 326 := view_code h
  have hlive := h.live
  simp only [agnLive, Bool.and_eq_true, Bool.not_eq_true'] at hlive
  obtain ⟨⟨⟨⟨-, hstop⟩, hcut⟩, -⟩, -⟩ := hlive
  rw [show exec (.walkComplete v.site v.ctx (BitVec.ofNat 2 v.n)) s = execWalkComplete v.site v.ctx (BitVec.ofNat 2 v.n) s from rfl,
    execWalkComplete, if_pos hsite]
  dsimp only
  rw [node_number hn, agnView_of_word h hw hc, hheld, he]
  dsimp only
  rw [if_neg (by rw [hcode, hstop, hcut]; decide), h.fault]

theorem exec_accessResult {p : Nat} {r : Token} {rest : List (Nat × Token)} (h : Claims.NodeLive s v 326) (hsite : siteExists v.site = true)
    (hmt : siteIsMt v.site = true) (hn : v.n < 4) (hres : v.op.res = (p, r) :: rest) (hroom : outputRoom s v.ea v.ctx p = true)
    (hc : opcodeOf (v.e.agnWord v.n) = 326) :
    exec (.accessResult v.site v.ctx (BitVec.ofNat 2 v.n)) s =
      .next (outputSend (s.modElem v.ea v.ctx (fun e => e.setOp (32 + v.n) { v.op with res := rest })) v.ea v.ctx p r) := by
  have he : s.elem (siteEa v.site 0) v.ctx = v.e := (congrArg AgnView.e h.view).symm
  have hop : v.e.op (agnIdx v.n) = v.op := by
    rw [← he]; exact (congrArg AgnView.op h.view).symm
  have hroom' : outputRoom s (siteEa v.site 0) v.ctx p = true := hroom
  rw [show exec (.accessResult v.site v.ctx (BitVec.ofNat 2 v.n)) s = execAccessResult v.site v.ctx (BitVec.ofNat 2 v.n) s from rfl,
    execAccessResult, if_pos hsite]
  dsimp only
  rw [node_number hn, he, hop, hres, hc]
  dsimp only
  rw [hmt, hroom', if_neg (by decide), if_neg fun hn => hn.1.elim (by decide) (by decide)]
  rfl

end

/-- Settles O36. -/
theorem nodeTranslations : Obligations.NodeTranslations := by
  unfold Obligations.NodeTranslations
  intro s v t va hlive htag hb i part physical logged haddr
  refine ⟨fun e u y h hheld hhits hserves hpx hva hsz hx => ?_, fun h hheld hhits => ?_,
    fun u y hheld hsite hn hw hc hsz hx => ?_, fun p r rest hsite hmt hn hres hroom hc => exec_accessResult hlive hsite hmt hn hres hroom hc⟩
  · have hhit : cachedAt s v va = true := by
      rw [cachedAt, show tlbHits (s.site v.site).xtc (v.part s) va = [e] from hhits]
      dsimp only
      rw [hserves, hpx, decide_eq_true hva]; rfl
    exact ⟨physicalToken s u v t y, physicalToken_spec s u v t hsz, nodeDone_xlat h hb hheld (xlatBody_hit htag haddr hhit hx)⟩
  · have hmiss : cachedAt s v va = false := by
      rw [cachedAt, show tlbHits (s.site v.site).xtc (v.part s) va = [] from hhits]
    exact nodeDone_xlat h hb hheld (xlatBody_miss htag haddr hmiss)
  · refine ⟨physicalToken s u v t y, physicalToken_spec s u v t hsz, ?_⟩
    rw [exec_walkComplete hlive hheld hsite hn hw hc, walkHeld_ok haddr hlive.fault hx]
    rfl

end Sys2Proof.Proofs

namespace Sys2Proof.Proofs
open Sys2Proof.Machine

/-! ## Links (R91, R230) -/

section
variable {s : State} {k : BitVec 8} {f : Flit}

theorem takeAck_eq (l : Link) (a : BitVec 16) :
    let left := l.unacked.filter (fun g => decide (0 < (g.seq - a).toNat ∧ (g.seq - a).toNat < 2 ^ 15))
    l.takeAck a = { l with unacked := left, acked := a, fails := if left.length < l.unacked.length then 0 else l.fails } := by
  intro left
  have hleft : l.unacked.filter (fun g => decide (0 < (g.seq - a).toNat) && decide ((g.seq - a).toNat < 2 ^ 15)) = left :=
    List.filter_congr fun g _ => (Bool.decide_and ..).symm
  rw [Link.takeAck, hleft]

theorem exec_flitReceive (hup : (s.link k.toNat).down = false) (hw : f.crc.toNat = crc64 (flitBytes f)) :
    exec (.flitReceive k f) s = .next (s.setLink k.toNat ((s.link k.toNat).receive f)) := by
  have hwhole : flitWhole f = true := beq_iff_eq.2 hw
  rw [show exec (.flitReceive k f) s = execFlitReceive k f s from rfl, execFlitReceive]
  rw [hup, hwhole, if_neg (by decide)]

theorem exec_flitReceive_damaged (hw : ¬ f.crc.toNat = crc64 (flitBytes f)) : exec (.flitReceive k f) s = .next s := by
  have hwhole : flitWhole f = false := beq_eq_false_iff_ne.2 hw
  rw [show exec (.flitReceive k f) s = execFlitReceive k f s from rfl, execFlitReceive]
  rw [hwhole, Bool.not_false, Bool.or_true, if_pos rfl]

theorem receive_nak (l : Link) (h : f.type = 5) : l.receive f = (l.takeAck f.ack).resend := by
  rw [Link.receive]
  exact if_pos h

theorem receive_unexpected {l : Link} (h : f.type ≠ 5) (hs : f.seq ≠ l.expect) : l.receive f = (l.takeAck f.ack).answer := by
  rw [Link.receive]
  exact (if_neg h).trans (if_neg hs)

theorem receive_expected {l : Link} (h : f.type ≠ 5) (hs : f.seq = l.expect) :
    l.receive f = if f.type = 0 then { l.takeAck f.ack with expect := l.expect + 1 }
      else { l.takeAck f.ack with expect := l.expect + 1, delivered := l.delivered ++ [f] }.answer := by
  rw [Link.receive]
  exact (if_neg h).trans (if_pos hs)

theorem exec_flitRetransmit (hup : (s.link k.toNat).down = false) (hkept : (s.link k.toNat).unacked ≠ []) :
    exec (.flitRetransmit k) s = .next (if k.toNat < 32 then s.setLink k.toNat (s.link k.toNat).resend
      else if (s.link k.toNat).lossy = 0 then s.setLink k.toNat { s.link k.toNat with unacked := [] }
      else
        let u := s.setLink k.toNat { s.link k.toNat with lossy := (s.link k.toNat).lossy - 1, fails := (s.link k.toNat).fails + 1 }
        if (s.link k.toNat).fails + 1 = 64 then
          { u.takeFree with burst := .event .none (.fatalError ((Config.freeValue u.free).setWidth 32) (dieLinkEa k.toNat)) :: u.burst }
        else u) := by
  have hne : (s.link k.toNat).unacked.isEmpty = false := List.isEmpty_eq_false_iff.2 hkept
  rw [show exec (.flitRetransmit k) s = execFlitRetransmit k s from rfl, execFlitRetransmit]
  dsimp only
  rw [hup, hne, if_neg (by decide)]

theorem exec_flitRetransmit_idle (h : (s.link k.toNat).unacked = []) : exec (.flitRetransmit k) s = .next s := by
  rw [show exec (.flitRetransmit k) s = execFlitRetransmit k s from rfl, execFlitRetransmit]
  dsimp only
  rw [h, List.isEmpty_nil, Bool.or_true, if_pos rfl]

end

/-! ## A port that goes down (R310) -/

section
variable {α : Type}

/-- The keys of a rising table are above its bound. -/
theorem lt_of_mem_rising {t : Tab α} {lo : Nat} (h : tabRising (some lo) t = true) : ∀ p ∈ t, lo < p.1 := by
  induction t generalizing lo with
  | nil => exact fun p hp => absurd hp List.not_mem_nil
  | cons q t ih =>
    obtain ⟨hlt, htail⟩ := Bool.and_eq_true_iff.1 h
    intro p hp
    rcases List.mem_cons.1 hp with rfl | hp
    · exact of_decide_eq_true hlt
    · exact (of_decide_eq_true hlt).trans (ih htail p hp)

theorem tabGet_absent {t : Tab α} {k : Nat} {d : α} (h : k ∉ t.map Prod.fst) : tabGet t k d = d := by
  induction t with
  | nil => rfl
  | cons p t ih =>
    obtain ⟨hne, hrest⟩ := not_or.1 (mt List.mem_cons.2 h)
    rw [tabGet, if_neg hne, ih hrest, ite_self]

/-- Rewriting every entry of a table in its form, one after another. -/
theorem tabGet_foldl_entries [DecidableEq α] {d : α} {g : α → α} (t : Tab α) : ∀ (lo : Option Nat) (acc : Tab α) (k : Nat), tabRising lo t = true →
    tabRising none acc = true →
    tabGet (t.foldl (fun acc p => tabSet acc p.1 (g p.2) d) acc) k d = if k ∈ t.map Prod.fst then g (tabGet t k d) else tabGet acc k d := by
  induction t with
  | nil => exact fun _ _ _ _ _ => rfl
  | cons p t ih =>
    intro lo acc k ht hacc
    have htail : tabRising (some p.1) t = true := by
      cases lo with
      | none => exact ht
      | some lo => exact (Bool.and_eq_true_iff.1 ht).2
    have habove : ∀ k ∈ t.map Prod.fst, p.1 < k := fun k hk => by
      obtain ⟨q, hq, rfl⟩ := List.mem_map.1 hk
      exact lt_of_mem_rising htail q hq
    rw [List.foldl_cons, ih (some p.1) _ k htail (tabSet_risingNone hacc), tabGet_tabSet hacc, List.map_cons, tabGet]
    by_cases hk : k = p.1
    · rw [if_neg fun hmem => absurd (habove k hmem) (by omega), if_pos hk, if_pos hk, if_pos (by rw [hk]; exact List.mem_cons_self)]
    · by_cases hmem : k ∈ t.map Prod.fst
      · have := habove k hmem
        rw [if_pos hmem, if_pos (List.mem_cons_of_mem _ hmem), if_neg hk, if_neg (by omega)]
      · rw [if_neg hmem, if_neg hk, if_neg fun h => (List.mem_cons.1 h).elim hk hmem]

theorem tabGet_rebuilt [DecidableEq α] {d : α} {g : α → α} (hd : g d = d) {t : Tab α} (h : tabRising none t = true) (k : Nat) :
    tabGet (t.foldl (fun acc p => tabSet acc p.1 (g p.2) d) []) k d = g (tabGet t k d) := by
  rw [tabGet_foldl_entries t none [] k h rfl]
  split
  case isTrue => rfl
  case isFalse hk => rw [tabGet_absent hk, hd]; rfl

end

section
variable {s : State} {k : BitVec 5}

/-- An engine queue that loses the port under its entry (R310). -/
def lostWith (e : EngQueue) : EngQueue := if e.eng = 1 ∧ e.status.isSome = true then { e with status := some 2 } else e

theorem engine_loseFlits (h : tabRising none s.engines = true) (b : BitVec 6) (q : BitVec 4) :
    (loseFlits s).engine b q = lostWith (s.engine b q) := tabGet_rebuilt (g := lostWith) rfl h _

theorem exec_portDown (hk : k.toNat < 18) (hup : (s.link k.toNat).down = false) :
    exec (.portDown k) s = .next (if (s.link k.toNat).fails < 64 then s
      else ((if (s.link k.toNat).unacked.isEmpty then s else loseFlits s).setLink k.toNat
        { s.link k.toNat with down := true, unacked := [] }).log (.portDown k.toNat)) := by
  rw [show exec (.portDown k) s = execPortDown k s from rfl, execPortDown]
  dsimp only
  refine congrArg Host.Outcome.next (if_congr ?_ rfl rfl)
  rw [hup]
  simp only [Bool.false_eq_true, false_or]
  omega

end

/-! ## Arrivals (R89) -/

section
variable {s : State} {n m : SiteNo} {d ctx : BitVec 2}

/-- The channel looks at the next context's slot first once it has served one (R87). -/
def channelServed (s : State) (n m : SiteNo) (d ctx : BitVec 2) (ctl : Bool) (u : State) : State :=
  if slotHolds u m ctx d.toNat ctl < slotHolds s m ctx d.toNat ctl then
    u.modSite n (fun x => { x with rr := tabSet x.rr (2 * d.toNat + if ctl then 1 else 0) (ctx + 1).toNat 0 }) else u

theorem exec_tokenArrive (hn : siteExists n = true) (hm : siteNeighbour n d = some m) (ctl : Bool) :
    exec (.tokenArrive n d ctx ctl) s = .next (channelServed s n m d ctx ctl (arriveAt s n m ctx d.toNat ctl)) := by
  rw [show exec (.tokenArrive n d ctx ctl) s = execTokenArrive n d ctx ctl s from rfl, execTokenArrive, if_pos hn, hm]
  rfl

/-- A machine whose elements are as before has served no slot. -/
theorem channelServed_same {u : State} (h : u.elems = s.elems) (ctl : Bool) : channelServed s n m d ctx ctl u = u := by
  have hholds : slotHolds u m ctx d.toNat ctl = slotHolds s m ctx d.toNat ctl := by
    unfold slotHolds State.elem
    rw [h]
  rw [channelServed, hholds, if_neg (Nat.lt_irrefl _)]

theorem arriveCtlAt_token {c : Ctl} {rest : List Ctl} (hq : tabGet (s.elem (siteEa m 1) ctx).outc ((d.toNat + 2) % 4) [] = c :: rest)
    (htask : (s.elem (siteEa m 1) ctx).task = (s.elem (siteEa n 1) ctx).task)
    (hroom : roomAt s n ctx (s.elem (siteEa n 1) ctx).task .ctl d.toNat = true) :
    arriveAt s n m ctx d.toNat true = (let x := crossLink s m n 0
      if x.2 then deliverCtl (x.1.modElem (siteEa m 1) ctx (fun e => { e with outc := tabSet e.outc ((d.toNat + 2) % 4) rest [] })) n ctx d.toNat c
      else x.1) := by
  rw [arriveAt, if_pos rfl, arriveCtlAt]
  dsimp only
  rw [hq]
  exact if_pos ⟨htask, hroom⟩

theorem arriveCtlAt_empty (hq : tabGet (s.elem (siteEa m 1) ctx).outc ((d.toNat + 2) % 4) [] = []) : arriveAt s n m ctx d.toNat true = s := by
  rw [arriveAt, if_pos rfl, arriveCtlAt]
  dsimp only
  rw [hq]

theorem crossLink_within (h : dieLink m n = none) (pay : Line) : crossLink s m n pay = (s, true) := by rw [crossLink, h]

/-- A die edge with an unacknowledged flit passes nothing on. -/
theorem crossLink_waiting {k : Nat} (h : dieLink m n = some k) (hkept : (s.link k).unacked ≠ []) (pay : Line) :
    crossLink s m n pay = (s.setLink k (s.link k), false) := by
  have hne : (s.link k).unacked.isEmpty = false := List.isEmpty_eq_false_iff.2 hkept
  rw [crossLink, h]
  dsimp only
  rw [Link.hop, hne]
  rfl

/-! ### A misrouted data token -/

/-- The machine after a token has left a context's slot of a neighbour (R258 counts the slots). -/
def popSlot (s : State) (m : SiteNo) (ctx : BitVec 2) (o : Nat) : State :=
  countOthers (s.modElem (siteEa m 1) ctx (fun e => countSlot { e with outq := tabSet e.outq o (tabGet e.outq o []).tail [] } o 0 1)) m o ctx

/-- A change of one element context leaves what it does not touch, in every context. -/
theorem elem_modElem_keeps {β : Type} (π : ElemCtx → β) {ea ea' : EAddr} {c c' : BitVec 2} {f : ElemCtx → ElemCtx}
    (h : tabRising none s.elems = true) (hf : ∀ e, π (f e) = π e) : π ((s.modElem ea c f).elem ea' c') = π (s.elem ea' c') := by
  by_cases he : (ea', c') = (ea, c)
  · obtain ⟨rfl, rfl⟩ := Prod.mk.inj he
    rw [elem_modElem_same h, hf]
  · rw [elem_modElem_other h he]

/-- Counting the other contexts' slots leaves the slot's own context. -/
theorem countOthers_spec (h : tabRising none s.elems = true) (o : Nat) :
    countOthers s m o ctx = { s with elems := (countOthers s m o ctx).elems } ∧ tabRising none (countOthers s m o ctx).elems = true ∧
      (countOthers s m o ctx).elem (siteEa m 1) ctx = s.elem (siteEa m 1) ctx ∧
      ∀ ea c, ((countOthers s m o ctx).elem ea c).bank = (s.elem ea c).bank := by
  have go : ∀ (cs : List (BitVec 2)) (u : State), u = { s with elems := u.elems } → tabRising none u.elems = true →
      u.elem (siteEa m 1) ctx = s.elem (siteEa m 1) ctx → (∀ ea c, (u.elem ea c).bank = (s.elem ea c).bank) →
      let u' := cs.foldl (fun s c => if c = ctx then s
        else s.modElem (siteEa m 1) c (fun e => if (tabGet e.outq o []).isEmpty then e else countSlot e o 2 1)) u
      u' = { s with elems := u'.elems } ∧ tabRising none u'.elems = true ∧ u'.elem (siteEa m 1) ctx = s.elem (siteEa m 1) ctx ∧
        ∀ ea c, (u'.elem ea c).bank = (s.elem ea c).bank := by
    intro cs
    induction cs with
    | nil => exact fun u hf hr he hb => ⟨hf, hr, he, hb⟩
    | cons c cs ih =>
      intro u hf hr he hb
      rw [List.foldl_cons]
      by_cases hc : c = ctx
      · rw [if_pos hc]
        exact ih u hf hr he hb
      · rw [if_neg hc]
        refine ih _ ?_ (tabSet_risingNone hr) ((elem_modElem_other hr fun hn => hc (Prod.mk.inj hn).2.symm).trans he)
          fun ea c => (elem_modElem_keeps ElemCtx.bank hr fun e => by split <;> rfl).trans (hb ea c)
        rw [hf]
        rfl
  exact go _ s rfl h rfl fun _ _ => rfl

theorem popSlot_spec (h : tabRising none s.elems = true) (o : Nat) :
    popSlot s m ctx o = { s with elems := (popSlot s m ctx o).elems } ∧ tabRising none (popSlot s m ctx o).elems = true ∧
      ((popSlot s m ctx o).elem (siteEa m 1) ctx).outq =
        tabSet (s.elem (siteEa m 1) ctx).outq o (tabGet (s.elem (siteEa m 1) ctx).outq o []).tail [] ∧
      ∀ ea c, ((popSlot s m ctx o).elem ea c).bank = (s.elem ea c).bank := by
  obtain ⟨hframe, hrise, helem, hbank⟩ := countOthers_spec (s := s.modElem (siteEa m 1) ctx
    (fun e => countSlot { e with outq := tabSet e.outq o (tabGet e.outq o []).tail [] } o 0 1)) (m := m) (ctx := ctx) (tabSet_risingNone h) o
  refine ⟨hframe, hrise, ?_, fun ea c => (hbank ea c).trans (elem_modElem_keeps ElemCtx.bank h fun _ => rfl)⟩
  rw [popSlot, helem, elem_modElem_same h]
  rfl

theorem arriveDataAt_token {t : Token} {rest : List Token} (hm : dieLink m n = none)
    (hq : tabGet (s.elem (siteEa m 1) ctx).outq ((d.toNat + 2) % 4) [] = t :: rest)
    (htask : (s.elem (siteEa m 1) ctx).task = (s.elem (siteEa n 1) ctx).task)
    (hroom : roomAt s n ctx (s.elem (siteEa n 1) ctx).task .data d.toNat = true)
    (hin : (s.elem (siteEa n 1) ctx).queue (8 + d.toNat) = []) (hbrk : tabGet (s.elem (siteEa n 1) ctx).brk d.toNat Brk.zero = Brk.zero)
    (hoff : (s.elem (siteEa n 1) ctx).field (64 + 16 * 3 + 4 * d.toNat) % 2 = 0) :
    arriveAt s n m ctx d.toNat false = arriveData (popSlot s m ctx ((d.toNat + 2) % 4)) n ctx d.toNat t := by
  have hset : bitSet ((s.elem (siteEa n 1) ctx).field (64 + 16 * 3 + 4 * d.toNat)) 0 = false := by
    rw [bitSet, Nat.pow_zero, Nat.div_one, hoff]; rfl
  have hmatch : brkMatch (s.elem (siteEa n 1) ctx) d.toNat Brk.zero t = false := by
    rw [brkMatch]
    dsimp only [pageKey]
    rw [hset]
    rfl
  rw [arriveAt, if_neg Bool.false_ne_true, arriveDataAt]
  dsimp only
  rw [if_neg (not_not.2 htask), hin, hbrk, hq]
  dsimp only [Brk.zero] at hmatch ⊢
  refine (if_neg fun hn => absurd (hmatch.symm.trans hn) (by decide)).trans ((if_pos hroom).trans ?_)
  simp only [crossLink_within hm, if_true]
  rfl

/-- RTLOG of a site after a token of a wrong route (R89). -/
def wrongRoute (d ctx : BitVec 2) (t : Token) (r : Site) : Site :=
  { r with miscnt := satAdd16 r.miscnt 1, lslot := BitVec.ofNat 4 (4 * d.toNat + ctx.toNat), lroute := t.route, rsvhit := false }

theorem satAdd16_one (x : Nat) : satAdd16 x 1 = min 0xFFFF (x + 1) := by
  unfold satAdd16
  split <;> omega

/-- The record of a class that is logged at most once in 4,096 fc, here at a router (R215, R235). -/
theorem loggedRecord_spec {f : FaultInfo} (hcls : f.cls = 8) (hsites : tabRising none s.sites = true) (hparts : tabRising none s.parts = true)
    (hlast : let z := tabGet (s.site n).resLast (8 + 4 + ctx.toNat) 0
      z = 0 ∨ z + 4096 ≤ s.time + 1) :
    let u := loggedRecord s (siteEa n 1) ctx f
    u = { s with sites := u.sites, parts := u.parts } ∧
      u.site n = { s.site n with resLast := tabSet (s.site n).resLast (8 + 4 + ctx.toNat) (s.time + 1) 0 } ∧ (∀ k, k ≠ n → u.site k = s.site k) ∧
      ∃ v, (u.part (partOfSite s n)).frHeld = (s.part (partOfSite s n)).frHeld ++ [v] := by
  intro u
  have hu : u = raiseRecord (s.modSite n (fun r => { r with resLast := tabSet r.resLast (8 + 4 + ctx.toNat) (s.time + 1) 0 })) (siteEa n 1) ctx false f := by
    have hkey : 8 * (f.cls - 7) + eaElem (siteEa n 1) * 4 + ctx.toNat = 8 + 4 + ctx.toNat := by
      rw [hcls, eaElem_siteEa]; rfl
    simp only [u, loggedRecord, hkey, eaSite_siteEa]
    refine if_neg fun hn => ?_
    obtain ⟨hz, hlt⟩ := hn
    rcases hlast with h | h
    · exact hz h
    · omega
  refine ⟨by rw [hu]; rfl, ?_, fun k hk => ?_, ?_⟩
  · rw [hu]
    exact site_setSite_same hsites
  · rw [hu]
    exact site_setSite_other hsites hk
  · rw [hu, raiseRecord, eaSite_siteEa]
    exact ⟨_, congrArg Part.frHeld (tabGet_tabSet_same hparts)⟩

/-- A misrouted token that is not the second of its class in 4,096 fc is logged and recorded. -/
theorem misroute_spec {t : Token} (hsites : tabRising none s.sites = true) (hparts : tabRising none s.parts = true)
    (hlast : let z := tabGet (s.site n).resLast (8 + 4 + ctx.toNat) 0
      z = 0 ∨ z + 4096 ≤ s.time + 1) :
    let u := misroute s n ctx d.toNat t false
    u = { s with sites := u.sites, parts := u.parts } ∧ 
      u.site n = { wrongRoute d ctx t (s.site n) with resLast := tabSet (s.site n).resLast (8 + 4 + ctx.toNat) (s.time + 1) 0 } ∧
      (∀ k, k ≠ n → u.site k = s.site k) ∧ ∃ v, (u.part (partOfSite s n)).frHeld = (s.part (partOfSite s n)).frHeld ++ [v] := by
  intro u
  have hlogged : (s.modSite n (wrongRoute d ctx t)).site n = wrongRoute d ctx t (s.site n) := site_setSite_same hsites
  obtain ⟨hframe, hsame, hother, hheld⟩ := loggedRecord_spec (s := s.modSite n (wrongRoute d ctx t)) (n := n) (ctx := ctx)
    (f := { faultInfo 8 0 7 t with slot := d.toNat }) rfl (tabSet_risingNone hsites) hparts (by rw [hlogged]; exact hlast)
  refine ⟨hframe, hsame.trans ?_, fun k hk => (hother k hk).trans (site_setSite_other hsites hk), hheld⟩
  rw [hlogged]
  rfl

/-- TCNT counts the data and header tokens that a slot delivers (R251). -/
def countArrival (d : BitVec 2) (t : Token) (r : ElemCtx) : ElemCtx :=
  if t.kind == .data || t.kind == .header then { r with brk := tabMod r.brk d.toNat Brk.zero (fun b => { b with tcnt := (b.tcnt + 1) % 2 ^ 32 }) }
  else r

/-- A token of another route than the slot expects is tagged and delivered in its place (R89). -/
theorem arriveData_misrouted {t : Token} (hdin : ((s.elem (siteEa n 1) ctx).field (16 + d.toNat)).testBit 10 = true)
    (hroute : t.route.toNat ≠ (s.elem (siteEa n 1) ctx).field (16 + d.toNat) % 2 ^ 10) (hbad : badLane t = none) :
    arriveData s n ctx d.toNat t = deliverData ((misroute s n ctx d.toNat t false).modElem (siteEa n 1) ctx (countArrival d t)) n ctx d.toNat
      { t with etag := true } := by
  have hwrong : (bitSet ((s.elem (siteEa n 1) ctx).field (16 + d.toNat)) 10 &&
      t.route.toNat != (s.elem (siteEa n 1) ctx).field (16 + d.toNat) % 2 ^ 10) = true := by
    rw [Bool.and_eq_true, bne_iff_ne]
    refine ⟨?_, hroute⟩
    rw [← hdin, bitSet, Nat.testBit_eq_decide_div_mod_eq]
    rfl
  have hcheck : arrivalCheck s n ctx d.toNat t = (misroute s n ctx d.toNat t false, t.tag) := by
    unfold arrivalCheck
    dsimp only
    rw [hwrong]
    rfl
  have hkeeps : ∀ u, receiveToken u (siteEa n 1) ctx d.toNat t.tag = (u, t.tag) := by
    intro u
    rw [receiveToken]
    split
    · rw [show badLane t.tag = none from hbad]
    · rfl
  unfold arriveData
  rw [hcheck]
  dsimp only
  rw [hkeeps]
  rfl

end

/-! ## The claims of links, ports and arrivals -/

/-- Settles O44. -/
theorem linksAndArrivals : Obligations.LinksAndArrivals := by
  unfold Obligations.LinksAndArrivals
  refine ⟨fun s k f hup => ?_, fun s k hk hup hengines => ?_, fun s n m d ctx hn hm => ?_⟩
  · obtain hleft := takeAck_eq (s.link k.toNat) f.ack
    refine ⟨exec_flitReceive_damaged, fun hw h5 => ?_, fun hw h5 hseq => ?_, fun hw h5 hseq => ?_, fun hkept hlow => ?_, fun hkept hhigh hgood => ?_,
      fun hkept hhigh hlossy => ⟨fun hfew => ?_, fun hlast => ?_⟩, exec_flitRetransmit_idle⟩
    · rw [exec_flitReceive hup hw, receive_nak _ h5, hleft]
      rfl
    · rw [exec_flitReceive hup hw, receive_unexpected h5 hseq, hleft]
      rfl
    · rw [exec_flitReceive hup hw, receive_expected h5 hseq, hleft]
      rfl
    · rw [exec_flitRetransmit hup hkept, if_pos hlow]
      rfl
    · rw [exec_flitRetransmit hup hkept, if_neg (Nat.not_lt.2 hhigh), if_pos hgood]
    · rw [exec_flitRetransmit hup hkept, if_neg (Nat.not_lt.2 hhigh), if_neg (Nat.pos_iff_ne_zero.1 hlossy)]
      exact congrArg Host.Outcome.next (if_neg hfew)
    · refine ⟨(Config.freeValue s.free).setWidth 32, dieLinkEa k.toNat, ?_⟩
      · rw [exec_flitRetransmit hup hkept, if_neg (Nat.not_lt.2 hhigh), if_neg (Nat.pos_iff_ne_zero.1 hlossy)]
        exact congrArg Host.Outcome.next (if_pos hlast)
  · refine ⟨fun hfew => ?_, fun hmany => ?_⟩
    · rw [exec_portDown hk hup, if_pos hfew]
    · refine ⟨_, (exec_portDown hk hup).trans (congrArg Host.Outcome.next (if_neg (Nat.not_lt.2 hmany))), ?_, fun b q => ?_⟩
      · split <;> rfl
      · change (if (s.link k.toNat).unacked.isEmpty then s else loseFlits s).engine b q = _
        by_cases hkept : (s.link k.toNat).unacked = []
        · rw [hkept, List.isEmpty_nil, if_pos rfl, if_neg fun hn => hn.1 rfl]
        · rw [List.isEmpty_eq_false_iff.2 hkept, if_neg Bool.false_ne_true, engine_loseFlits hengines]
          exact if_congr (and_iff_right hkept).symm rfl rfl
  · intro out p r room served
    refine ⟨fun c rest hedge hq htask hroom => ?_, fun j hedge hkept hq htask hroom => ?_, fun hq => ?_, ?_⟩
    · rw [exec_tokenArrive hn hm, arriveCtlAt_token hq htask hroom, crossLink_within hedge]
      rfl
    · obtain ⟨c, rest, hc⟩ := List.exists_cons_of_ne_nil hq
      refine ⟨s.setLink j (s.link j), ?_, rfl⟩
      · rw [exec_tokenArrive hn hm, arriveCtlAt_token hc htask hroom, crossLink_waiting hedge hkept]
        exact congrArg Host.Outcome.next (channelServed_same rfl true)
    · rw [exec_tokenArrive hn hm, arriveCtlAt_empty hq, channelServed_same rfl]
    · intro t rest hedge hbad hq htask _ hroom hin hbrk hoff helems hsites hparts _ hdin _ hlast
      obtain ⟨hbit, hroute⟩ := hdin
      obtain ⟨hpop, hrise, houtq, hbank⟩ := popSlot_spec (s := s) (m := m) (ctx := ctx) helems out
      have harrive := arriveDataAt_token hedge hq htask hroom hin hbrk hoff
      rw [show (d.toNat + 2) % 4 = out from rfl] at harrive
      generalize popSlot s m ctx out = w at hpop hrise houtq hbank harrive
      have hfield : (w.elem (siteEa n 1) ctx).field (16 + d.toNat) = r.field (16 + d.toNat) := by
        rw [ElemCtx.field, hbank]; rfl
      obtain ⟨hframe, hsame, hother, v, hheld⟩ := misroute_spec (s := w) (n := n) (d := d) (ctx := ctx) (t := t)
        (by rw [hpop]; exact hsites) (by rw [hpop]; exact hparts) (by rw [hpop]; exact hlast)
      rw [arriveData_misrouted (by rw [hfield]; exact hbit) (by rw [hfield]; exact hroute) hbad] at harrive
      generalize misroute w n ctx d.toNat t false = x at hframe hsame hother hheld harrive
      have helem : ∀ ea c, x.elem ea c = w.elem ea c := fun ea c => by rw [hframe]; rfl
      refine ⟨x.modElem (siteEa n 1) ctx (countArrival d t), v, tabSet (s.site n).resLast (8 + 4 + ctx.toNat) (s.time + 1) 0, ?_, ?_, ?_, fun k hk => ?_, ?_, ?_⟩
      · rw [exec_tokenArrive hn hm, harrive]
        rfl
      · rw [elem_modElem_keeps ElemCtx.outq (by rw [hframe]; exact hrise) fun r => by unfold countArrival; split <;> rfl, helem, houtq]
        rw [show tabGet (s.elem (siteEa m 1) ctx).outq out [] = t :: rest from hq]
        rfl
      · refine hsame.trans ?_
        rw [hpop, wrongRoute, ← satAdd16_one]
        rfl
      · exact (hother k hk).trans (by rw [hpop]; rfl)
      · rw [hpop] at hheld
        exact hheld
      · rw [hframe, hpop]
        exact ⟨rfl, rfl, rfl, rfl⟩

end Sys2Proof.Proofs

namespace Sys2Proof.Proofs
open Sys2Proof.Machine

/-! ## A work queue's registers (R159, R160, R308) -/

section
variable {s : State} {q : BitVec 12} (h : tabRising none s.queues = true)
include h

theorem queue_modQueue_same (f : WorkQueue → WorkQueue) : (s.modQueue q f).queue q = f (s.queue q) := tabGet_tabSet_same h

theorem queue_modQueue_other (f : WorkQueue → WorkQueue) {k : BitVec 12} (hk : k ≠ q) : (s.modQueue q f).queue k = s.queue k :=
  tabGet_tabSet_other h fun e => hk (BitVec.eq_of_toNat_eq e)

theorem onlyQueue_modQueue (f : WorkQueue → WorkQueue) : Claims.onlyQueue s (s.modQueue q f) q (f (s.queue q)) [] :=
  ⟨by rw [List.append_nil]; rfl, queue_modQueue_same h f, fun _ hk => queue_modQueue_other h f hk⟩

theorem onlyQueue_modQueue_twice (f g : WorkQueue → WorkQueue) :
    Claims.onlyQueue s ((s.modQueue q f).modQueue q g) q (g (f (s.queue q))) [] := by
  have h' : tabRising none (s.modQueue q f).queues = true := tabSet_risingNone h
  refine ⟨by rw [List.append_nil]; rfl, ?_, fun k hk => ?_⟩
  · rw [queue_modQueue_same h', queue_modQueue_same h]
  · rw [queue_modQueue_other h' g hk, queue_modQueue_other h f hk]

end

/-- With no entry held none enters the completion ring. -/
theorem drainCompletions_none {u : State} {q : BitVec 12} (hheld : (u.queue q).held = []) (n : Nat) : drainCompletions u q n = u := by
  cases n with
  | zero => rfl
  | succ n =>
    rw [drainCompletions]
    split
    case h_1 => rfl
    case h_2 x rest hx => rw [hheld] at hx; cases hx

theorem onlyQueue_same (s : State) (q : BitVec 12) : Claims.onlyQueue s s q (s.queue q) [] := ⟨by rw [List.append_nil], rfl, fun _ _ => rfl⟩

theorem bits_eq_field (v : DWord) (lo n : Nat) : bits v.toNat lo n = Claims.field v lo n := rfl

theorem exec_registerWrite (s : State) (r : PlatReg) (v : DWord) : exec (.registerWrite r v) s = .next (writeReg s r v) := rfl

/-- The fields of QCTL but EN (Table 6-1). -/
def withCtl (v : DWord) (w : WorkQueue) : WorkQueue :=
  let f := Claims.field v
  { w with prio := BitVec.ofNat 3 (f 1 3), evt := v.getLsbD 4, evsq := BitVec.ofNat 6 (f 5 6), ringsz := BitVec.ofNat 4 (f 11 4) }

/-- EN from 0 to 1 (R159). -/
def newlyEnabled (w : WorkQueue) : WorkQueue := { w with en := true, acc := 0, halt := false, hcode := 0, tail := 0, fault := none }

/-- Room in the completion ring, and the next message allowed (R308). -/
def freedTo (head : Word) (w : WorkQueue) : WorkQueue := { w with chead := head, msiOut := false }

section
variable {s : State} {q : BitVec 12} (h : tabRising none s.queues = true)
include h

theorem writeQueueCtl_only (v : DWord) : Claims.onlyQueue s (writeQueueCtl s q v) q
    (if v.getLsbD 0 = true ∧ (s.queue q).en = false then newlyEnabled (withCtl v (s.queue q)) else { withCtl v (s.queue q) with en := v.getLsbD 0 }) [] := by
  have hctl : (fun w : WorkQueue => { w with prio := BitVec.ofNat 3 (bits v.toNat 1 3), evt := bitSet v.toNat 4, evsq := BitVec.ofNat 6 (bits v.toNat 5 6)
                                             ringsz := BitVec.ofNat 4 (bits v.toNat 11 4) }) = withCtl v := by
    funext w
    rw [bitSet_toNat]; rfl
  have hen : ((s.modQueue q (withCtl v)).queue q).en = (s.queue q).en := by rw [queue_modQueue_same h]; rfl
  unfold writeQueueCtl
  dsimp only
  rw [hctl, hen, bitSet_toNat]
  by_cases hnew : v.getLsbD 0 = true ∧ (s.queue q).en = false
  · rw [if_pos hnew, if_pos (by rw [hnew.1, hnew.2]; rfl)]
    exact onlyQueue_modQueue_twice h (withCtl v) newlyEnabled
  · rw [if_neg hnew, if_neg fun hn => hnew (by simpa using hn)]
    exact onlyQueue_modQueue_twice h (withCtl v) (fun w => { w with en := v.getLsbD 0 })

theorem writeQueuePos_only (v : DWord) : Claims.onlyQueue s (writeReg s (.queuePos q) v) q
    (if (s.queue q).en = true then s.queue q else { s.queue q with pos := v }) [] := by
  rw [writeReg]
  split
  · exact onlyQueue_same s q
  · exact onlyQueue_modQueue h _

theorem ringDoorbell_only (tail : Word) : Claims.onlyQueue s (ringDoorbell s q tail) q
    (if tail.toNat < (s.queue q).acc.toNat ∨ (s.queue q).acc.toNat + 2 ^ 31 < tail.toNat then { s.queue q with halt := true, hcode := 1, fault := none }
      else { s.queue q with tail := tail }) [] := by
  unfold ringDoorbell
  dsimp only
  split
  · exact onlyQueue_modQueue h _
  · exact onlyQueue_modQueue h _

theorem enable_only : Claims.onlyQueue s (if (s.queue q).en then s else s.modQueue q newlyEnabled) q
    (if (s.queue q).en = true then s.queue q else newlyEnabled (s.queue q)) [] := by
  split
  · exact onlyQueue_same s q
  · exact onlyQueue_modQueue h newlyEnabled

/-- A write of CHEAD with no entry held (R182, R308). -/
theorem exec_cheadWrite_only (head : Word) (hheld : (s.queue q).held = []) :
    let w := s.queue q
    let again : Bool := head ≠ w.ctail ∧ w.msi.getLsbD 15 = true
    ∃ u, exec (.cheadWrite q head) s = .next u ∧
      Claims.onlyQueue s u q { w with chead := head, msiOut := again } (if again then [w.msi.extractLsb' 0 11] else []) := by
  intro w again
  have hw : (s.modQueue q (freedTo head)).queue q = freedTo head w := queue_modQueue_same h _
  have hexec : ∀ u, (if head = w.ctail then s.modQueue q (freedTo head) else queueMsi (s.modQueue q (freedTo head)) q) = u →
      (u.queue q).held = [] → exec (.cheadWrite q head) s = .next u := by
    intro u hu hnone
    have hexec : exec (.cheadWrite q head) s = .next (let s := s.modQueue q (freedTo head)
        let s := if head = (s.queue q).ctail then s else queueMsi s q
        drainCompletions s q (s.queue q).held.length) := rfl
    rw [hexec]
    dsimp only
    rw [hw, show (freedTo head w).ctail = w.ctail from rfl, hu, drainCompletions_none hnone]
  by_cases hagain : head ≠ w.ctail ∧ w.msi.getLsbD 15 = true
  · have ha : again = true := decide_eq_true hagain
    obtain ⟨hne, hmsi⟩ := hagain
    obtain ⟨-, hq, hother⟩ := onlyQueue_modQueue_twice (q := q) h (freedTo head) (fun w => { w with msiOut := true })
    refine ⟨sendMsi ((s.modQueue q (freedTo head)).modQueue q (fun w => { w with msiOut := true })) (w.msi.extractLsb' 0 11), hexec _ ?_ ?_, ?_⟩
    · rw [if_neg hne, queueMsi, hw]
      exact if_pos hmsi
    · exact (congrArg WorkQueue.held hq).trans hheld
    · rw [ha]
      exact ⟨rfl, hq, hother⟩
  · have ha : again = false := decide_eq_false hagain
    obtain ⟨hframe, hq, hother⟩ := onlyQueue_modQueue (q := q) h (freedTo head)
    refine ⟨s.modQueue q (freedTo head), hexec _ ?_ (by rw [hq]; exact hheld), ?_⟩
    · split
      case isTrue => rfl
      case isFalse hne =>
        rw [queueMsi, hw]
        exact if_neg fun hn => hagain ⟨hne, hn⟩
    · rw [ha]
      exact ⟨hframe, hq, hother⟩

end

/-- What the host reads of the queue's block (Table 6-1). -/
theorem hostRead_queue (s : State) (q : BitVec 12) {o : Nat} (ho : o < 64) : hostRead s 2 (64 * q.toNat + o) = (s.queue q).read o := by
  have hq : q.toNat < 4096 := q.isLt
  have hdiv : (64 * q.toNat + o) / 64 = q.toNat := by omega
  have hmod : (64 * q.toNat + o) % 64 = o := by omega
  have hlt : 64 * q.toNat + o < 2 ^ 18 := by omega
  unfold hostRead
  rw [hdiv, hmod, if_pos hlt, BitVec.ofNat_toNat, BitVec.setWidth_eq]
  rfl

/-- The queue's block, register by register. -/
theorem queueBlock_reads (s : State) (q : BitVec 12) :
    let w := s.queue q
    let at_ := fun (o : Nat) => (hostRead s 2 (64 * q.toNat + o)).toNat
    at_ 0 = (if w.en then 1 else 0) + 2 * w.prio.toNat + (if w.evt then 16 else 0) + 32 * w.evsq.toNat + 2 ^ 11 * w.ringsz.toNat + 2 ^ 15 * w.part.toNat ∧
      at_ 8 = w.pos.toNat ∧ at_ 16 = 0 ∧ at_ 24 = w.cbase.toNat ∧ at_ 32 = w.ctail.toNat ∧ at_ 40 = w.chead.toNat ∧
      at_ 48 = (if w.halt then 1 else 0) + 16 * w.hcode.toNat + 2 ^ 32 * w.acc.toNat ∧ at_ 56 = 0 := by
  intro w at_
  have hat : ∀ o < 64, at_ o = (w.read o).toNat := fun o ho => congrArg BitVec.toNat (hostRead_queue s q ho)
  have hwide : ∀ x : Word, (x.setWidth 64).toNat = x.toNat := fun x => by
    have : x.toNat < 2 ^ 32 := x.isLt
    rw [BitVec.toNat_setWidth, Nat.mod_eq_of_lt (by omega)]
  have hprio : w.prio.toNat < 2 ^ 3 := w.prio.isLt
  have hevsq : w.evsq.toNat < 2 ^ 6 := w.evsq.isLt
  have hring : w.ringsz.toNat < 2 ^ 4 := w.ringsz.isLt
  have hpart : w.part.toNat < 2 ^ 8 := w.part.isLt
  have hcode : w.hcode.toNat < 2 ^ 4 := w.hcode.isLt
  have hacc : w.acc.toNat < 2 ^ 32 := w.acc.isLt
  have hbit : ∀ (b : Bool) (n : Nat), (if b then n else 0) ≤ n := fun b n => by cases b <;> simp
  refine ⟨(hat 0 (by decide)).trans ?_, hat 8 (by decide), hat 16 (by decide), hat 24 (by decide), (hat 32 (by decide)).trans (hwide _),
    (hat 40 (by decide)).trans (hwide _), (hat 48 (by decide)).trans ?_, hat 56 (by decide)⟩
  · have hen := hbit w.en 1
    have hevt := hbit w.evt 16
    exact (BitVec.toNat_ofNat ..).trans (Nat.mod_eq_of_lt (by omega))
  · have hhalt := hbit w.halt 1
    exact (BitVec.toNat_ofNat ..).trans (Nat.mod_eq_of_lt (by omega))

/-! ## The platform's other registers (Tables 4-4, 4-5, 10-3, 11-5, 11-6, 14-2, 14-6) -/

/-- A field of the low 52 bits of a register that is kept in its place. -/
theorem bits_in_place {x lo n : Nat} : bits x lo n * 2 ^ lo = x % 2 ^ (lo + n) / 2 ^ lo * 2 ^ lo := by
  rw [bits, Nat.pow_add, Nat.mod_mul_right_div_self]

section
variable (s : State) (v : DWord)

theorem exec_pwrcap : exec (.registerWrite .pwrcap v) s = .next { s with plat :=
    if 300 ≤ v.toNat % 4096 ∧ v.toNat % 4096 ≤ 2000 then { s.plat with capw := BitVec.ofNat 12 v.toNat }
    else { s.plat with pclog := s.plat.pclog ++ [.capIgnored (v.toNat % 4096)] } } := by
  have hw : BitVec.ofNat 12 (v.toNat % 4096) = BitVec.ofNat 12 v.toNat := BitVec.eq_of_toNat_eq (by simp)
  rw [exec_registerWrite, writeReg, writePwrcap]
  dsimp only
  rw [hw]
  split <;> rfl

theorem exec_devstat : exec (.registerWrite .devstat v) s =
    .next { s with plat := if v.getLsbD 4 then { s.plat with retire := false } else s.plat } := by
  rw [exec_registerWrite, writeReg]
  dsimp only
  rw [bitSet_toNat]
  split <;> rfl

theorem exec_mbxbase : let base := v.toNat % 2 ^ 52 / 2 ^ 21 * 2 ^ 21
    exec (.registerWrite .mbxbase v) s = .next { s with
      plat := if inTier 0 base (2 ^ 21) = true ∧ tabGet s.frames (base / 2 ^ 21) 0 = 0 then { s.plat with mbxbase := BitVec.ofNat 52 base } else s.plat } := by
  intro base
  have hbase : bits v.toNat 21 31 * 2 ^ 21 = base := bits_in_place
  rw [exec_registerWrite, writeReg]
  dsimp only
  rw [hbase]
  by_cases hfree : inTier 0 base (2 ^ 21) = true ∧ tabGet s.frames (base / 2 ^ 21) 0 = 0
  · rw [if_pos hfree, if_pos (by rw [hfree.1, hfree.2]; rfl)]
    rfl
  · rw [if_neg hfree, if_neg fun hn => hfree (by simpa using hn)]

theorem exec_lspair : exec (.registerWrite .lspair v) s = .next { s with plat :=
    { s.plat with lspair := BitVec.ofNat 64 (v.toNat % 2 ^ 17 + (if s.plat.lspair.getLsbD 17 && !v.getLsbD 17 then 2 ^ 17 else 0)
      + s.plat.lspair.toNat / 2 ^ 32 * 2 ^ 32) } } := by
  rw [exec_registerWrite, writeReg, ← bitSet_toNat, ← bitSet_toNat v]
  rfl

theorem exec_wap (n : BitVec 4) : exec (.registerWrite (.wap n) v) s = .next { s with
    plat := { s.plat with waps := tabSet s.plat.waps n.toNat (BitVec.ofNat 64 (v.toNat % 2 ^ 9 + 2 ^ 32 * Claims.field v 32 25)) 0 } } := by
  rw [exec_registerWrite, writeReg, ← bits_low, Nat.mul_comm (2 ^ 32)]
  rfl

theorem exec_evqWrite (b : BitVec 6) : exec (.evqWrite b v) s = .next (writeEvq s b v) := rfl

theorem exec_evheadWrite (b : BitVec 6) : exec (.evheadWrite b v) s = .next (writeEvhead s b v) := rfl

theorem exec_pxroot (n : BitVec 8) : exec (.registerWrite (.pxroot n) v) s = .next (s.setPart n.toNat
    { s.part n.toNat with pxen := v.getLsbD 0, root := BitVec.ofNat 52 (v.toNat % 2 ^ 52 / 2 ^ 12 * 2 ^ 12) }) := by
  rw [exec_registerWrite, writeReg, ← bitSet_toNat v, ← bits_in_place (n := 40)]
  rfl

/-- With no fault held none enters the fault queue. -/
theorem postFaults_none {u : State} {p : Nat} (h : (u.part p).faults = []) : postFaults u p (u.part p).faults.length = u := by
  rw [h]; rfl

theorem exec_pxfq (n : BitVec 8) (hfaults : (s.part n.toNat).faults = []) (h : tabRising none s.parts = true) :
    exec (.registerWrite (.pxfq n) v) s = .next (s.setPart n.toNat
      { s.part n.toNat with fqHead := BitVec.ofNat 11 v.toNat, fqBase := BitVec.ofNat 52 (v.toNat % 2 ^ 52 / 2 ^ 15 * 2 ^ 15) }) := by
  have hnone : ((s.modPart n.toNat (fun p => { p with fqHead := BitVec.ofNat 11 v.toNat, fqBase := BitVec.ofNat 52 (bits v.toNat 15 37 * 2 ^ 15) })).part
      n.toNat).faults = [] := (congrArg Part.faults (tabGet_tabSet_same h)).trans hfaults
  rw [exec_registerWrite, writeReg, writePxfq]
  dsimp only
  rw [postFaults_none hnone, ← bits_in_place (n := 37)]
  rfl

theorem exec_pfrec (n : BitVec 8) : exec (.registerWrite (.pfrec n) v) s = .next (s.setPart n.toNat
    { s.part n.toNat with frHead := BitVec.ofNat 11 v.toNat, frBase := BitVec.ofNat 52 (v.toNat % 2 ^ 52 / 2 ^ 16 * 2 ^ 16) }) := by
  rw [exec_registerWrite, writeReg, ← bits_in_place (n := 36)]
  rfl

theorem exec_ptrace (n : BitVec 8) : exec (.registerWrite (.ptrace n) v) s = .next (s.setPart n.toNat
    { s.part n.toNat with ptrace := BitVec.ofNat 64 (v.toNat % 2 ^ 6 + v.toNat % 2 ^ 52 / 2 ^ 12 * 2 ^ 12) }) := by
  rw [exec_registerWrite, writeReg, ← bits_in_place (n := 40), ← bits_low]
  rfl

theorem exec_ptrcb (n : BitVec 8) : exec (.registerWrite (.ptrcb n) v) s = .next (s.setPart n.toNat
    { s.part n.toNat with ptrcb := BitVec.ofNat 64 (v.toNat % 2 ^ 52 / 2 ^ 6 * 2 ^ 6) }) := by
  rw [exec_registerWrite, writeReg, ← bits_in_place (n := 46)]
  rfl

end

/-! ## The claims of the registers -/

/-- Settles O45, register by register. -/
theorem registerWrites : Obligations.RegisterWrites := by
  unfold Obligations.RegisterWrites
  refine ⟨fun s q h => ?_, fun s v => ?_⟩
  · intro w answers fresh
    have hpart : ∀ v, Claims.onlyQueue s (writeReg s (.queuePart q) v) q { w with part := BitVec.ofNat 8 (Claims.field v 15 8) } [] :=
      fun v => onlyQueue_modQueue h (fun w => { w with part := BitVec.ofNat 8 (Claims.field v 15 8) })
    have hcbase : ∀ v, Claims.onlyQueue s (writeReg s (.queueCbase q) v) q { w with cbase := v } [] :=
      fun v => onlyQueue_modQueue h (fun w => { w with cbase := v })
    have hmsi : ∀ v, Claims.onlyQueue s (writeReg s (.msiqv q) v) q
        { w with msi := BitVec.ofNat 16 (v.toNat % 2 ^ 11 + Claims.field v 15 1 * 2 ^ 15) } [] := fun v => by
      rw [← bits_low]
      exact onlyQueue_modQueue h (fun w => { w with msi := BitVec.ofNat 16 (bits v.toNat 0 11 + Claims.field v 15 1 * 2 ^ 15) })
    refine ⟨fun v => ⟨_, exec_registerWrite .., writeQueueCtl_only h v⟩, fun v => ⟨_, exec_registerWrite .., hpart v⟩, ?_,
      fun v => ⟨_, exec_registerWrite .., writeQueuePos_only h v⟩, fun v => ⟨_, exec_registerWrite .., hcbase v⟩,
      fun v => ⟨_, exec_registerWrite .., onlyQueue_same s q⟩, fun v => ⟨_, exec_registerWrite .., ?_⟩, ⟨_, rfl, enable_only h⟩,
      ⟨_, rfl, onlyQueue_modQueue h (fun w => { w with en := false })⟩, fun tail => ⟨_, rfl, ringDoorbell_only h tail⟩, fun head hheld => exec_cheadWrite_only h head hheld⟩
    · exact queueBlock_reads s q
    · rw [Nat.mul_comm (2 ^ 15)]
      exact hmsi v
  · intro x f plat part
    refine ⟨exec_devstat s v, exec_pwrcap s v, fun n => ?_, exec_lspair s v, exec_mbxbase s v, fun b e => rfl, fun n =>
      ⟨exec_pxroot s v n, exec_pxfq s v n, exec_pfrec s v n, exec_ptrace s v n, exec_ptrcb s v n⟩, fun b hheld hsq => ⟨?_, ?_⟩⟩
    · exact exec_wap s v n
    · rw [exec_evqWrite, writeEvq_eq hsq hheld v, State.modSq, setEvq_eq]
    · rw [exec_evheadWrite, writeEvhead_eq hsq hheld v, State.modSq, setEvhead_eq]

end Sys2Proof.Proofs

/-! ## Mailbox operations: setting a trace ring touches the page tables -/

namespace Sys2Proof.Proofs

open Sys2Proof.Machine

/-- A ring and a control block in a page of partition 0 (the state of the tests), one millisecond after the start of device time. -/
def pinnedLate : State := { Tests.hostS with time := 1000000 }

/-- The operation under test: the ring of 256 entries at 0x8000, the control block at 0x9000. -/
def setRing : Instr := .traceRingSet 0 0x8000 8 0x9000

/-- What an outcome records of accesses to device memory (R128). -/
def touchedAfter : Host.Outcome State Fault Refusal → Tab Nat
  | .next u => u.touched
  | _ => []

theorem touchedAfter_served (u : State) (op st : Nat) : touchedAfter (.next (Claims.served u op st)) = u.touched := rfl

theorem pinnedLate_touched : pinnedLate.touched = [] := by decide +kernel

theorem pinnedLate_ring : ∃ l, contiguous pinnedLate 0 0x8000 (16 * 2 ^ 8) = some (0x208000, l) := Tests.map_fst_some (by decide +kernel)

theorem pinnedLate_controlBlock : ∃ l, contiguous pinnedLate 0 0x9000 64 = some (0x209000, l) := Tests.map_fst_some (by decide +kernel)

/-- Pinning the page writes its entry, and the write is noted at the memory controllers. -/
theorem setRing_touches : touchedAfter (exec setRing pinnedLate) ≠ [] := by decide +kernel

/-- Refutes O54: TRACE_RING_SET pins the pages of the ring, which writes their page table entries (R260), so that the memory controllers note an
access (R128): the operation changes more than the partition and device memory, here in `pinnedLate`. -/
theorem not_mailboxOperations : ¬ Obligations.MailboxOperations := by
  unfold Obligations.MailboxOperations
  intro h
  obtain ⟨-, -, -, -, -, -, -, -, -, hring, -⟩ := h pinnedLate 0 (by decide +kernel)
  obtain ⟨-, -, hset, -⟩ := hring 0x8000 0x9000 8
  obtain ⟨l, hl⟩ := pinnedLate_ring
  obtain ⟨m, hm⟩ := pinnedLate_controlBlock
  obtain ⟨u, hexec, hu⟩ := (hset 0x208000 l 0x209000 m (by decide) hl hm).2 (by decide)
  have same : u.touched = pinnedLate.touched := by rw [hu]; rfl
  refine setRing_touches ?_
  rw [setRing, hexec, touchedAfter_served, same, pinnedLate_touched]

end Sys2Proof.Proofs

namespace Sys2Proof.Proofs
open Sys2Proof.Machine

/-! ## Engines: translations keep the engine in focus -/

theorem translate_only (s : State) (l : List Tlb) (part va : Nat) (i : Intent) :
    (Machine.translate s l part va i).1 = { s with dmem := (Machine.translate s l part va i).1.dmem } := by
  have hwalk : ∀ l, (walkInto s l part va i).1 = { s with dmem := (walkInto s l part va i).1.dmem } := by
    intro l
    unfold walkInto
    split
    · rfl
    · rfl
    · unfold markLeaf
      dsimp only
      split <;> rfl
  unfold Machine.translate
  split
  · rfl
  · split
    · rfl
    · split
      · split
        · rfl
        · exact hwalk l
      · exact hwalk l
      · exact hwalk _

theorem translate_focus (s : State) (l : List Tlb) (part va : Nat) (i : Intent) : (Machine.translate s l part va i).1.focus = s.focus := by
  rw [translate_only]

theorem firmwareWrite_focus (s : State) (pa : Nat) (l : List Byte) : (firmwareWrite s pa l).focus = s.focus := by
  unfold firmwareWrite
  split <;> rfl

theorem postFaults_focus (part n : Nat) : ∀ s : State, (postFaults s part n).focus = s.focus := by
  induction n with
  | zero => exact fun _ => rfl
  | succ n ih =>
    intro s
    unfold postFaults
    dsimp only
    split
    · rfl
    · split
      · rfl
      · rw [ih]
        exact firmwareWrite_focus ..

theorem raiseFault_focus (s : State) (part va : Nat) (i : Intent) (w : Faulter) : (raiseFault s part va i w).1.focus = s.focus :=
  postFaults_focus part 1 _

theorem peerRequest_focus (s : State) (a : Aperture) (va : Nat) : (peerRequest s a va).1.focus = s.focus := by
  unfold peerRequest
  dsimp only
  split <;> rfl

/-- A piece that an engine reaches through a partition's tables lies in no scratchpad. -/
def EngPiece.virtual : EngPiece → Prop
  | .spad _ _ _ => False
  | _ => True

/-- Translating pieces keeps the focus, and what it finds lies in no scratchpad. -/
theorem engXlat_keeps (part : Nat) (i : Intent) (l : List (Nat × Nat)) : ∀ s : State,
    (engXlat s part i l).1.focus = s.focus ∧ ∀ ps, (engXlat s part i l).2 = .ok ps → ∀ p ∈ ps, EngPiece.virtual p := by
  induction l with
  | nil => exact fun s => ⟨rfl, fun ps h p hp => by cases h; cases hp⟩
  | cons x rest ih =>
    obtain ⟨va, n⟩ := x
    intro s
    unfold engXlat
    extract_lets here
    have hf : here.1.focus = s.focus := by
      simp only [here]
      split
      · next a _ =>
        have := peerRequest_focus s a va
        split <;> next h => rw [h] at this; exact this
      · have := translate_focus s [] part va i
        split <;> next h => rw [h] at this; first | exact this | exact (raiseFault_focus ..).trans this
    have hp : ∀ p, here.2 = .ok p → EngPiece.virtual p := by
      intro p
      simp only [here]
      split
      · split <;> intro h <;> cases h; trivial
      · split <;> intro h <;> cases h; trivial
    clear_value here
    obtain ⟨u, x⟩ := here
    cases x with
    | error e => exact ⟨hf, fun ps h => by cases h⟩
    | ok p =>
      obtain ⟨hrest, hps⟩ := ih u
      dsimp only
      split
      · next h => rw [h] at hrest; exact ⟨hrest.trans hf, fun ps h => by cases h⟩
      · next ps h =>
        rw [h] at hrest hps
        refine ⟨hrest.trans hf, fun qs hq r hr => ?_⟩
        cases hq
        rcases List.mem_cons.1 hr with rfl | hr
        · exact hp r rfl
        · exact hps ps rfl r hr

theorem engVirt_keeps (s : State) (part va n : Nat) (i : Intent) :
    (engVirt s part va n i).1.focus = s.focus ∧ ∀ ps, (engVirt s part va n i).2 = .ok ps → ∀ p ∈ ps, EngPiece.virtual p := by
  unfold engVirt
  split
  · exact ⟨rfl, fun ps h p hp => by cases h; cases hp⟩
  · exact engXlat_keeps ..

theorem engRange_focus (s : State) (part a n : Nat) (i : Intent) : (engRange s part a n i).1.focus = s.focus := by
  unfold engRange
  split
  · exact (engVirt_keeps ..).1
  · dsimp only
    split <;> rfl

theorem engLines_focus (part : Nat) (i : Intent) (l : List Nat) : ∀ s : State, (engLines s part i l).1.focus = s.focus := by
  induction l with
  | nil => exact fun _ => rfl
  | cons a rest ih =>
    intro s
    have ha := engRange_focus s part a 64 i
    unfold engLines
    split
    · next h => rw [h] at ha; exact ha
    · next u p h =>
      rw [h] at ha
      have hr := ih u
      split <;> next h' => rw [h'] at hr; exact hr.trans ha

/-- Reading pieces outside scratchpad keeps the focus. -/
theorem engRead_focus (ps : List EngPiece) : ∀ s : State, (∀ p ∈ ps, EngPiece.virtual p) → (engRead s ps).1.focus = s.focus := by
  induction ps with
  | nil => exact fun _ _ => rfl
  | cons p rest ih =>
    intro s hp
    have hrest := fun u => ih u (fun q hq => hp q (List.mem_cons_of_mem _ hq))
    unfold engRead
    extract_lets here
    have hf : here.1.focus = s.focus := by
      cases p with
      | dev pa n => rfl
      | spad site off n => exact (hp _ List.mem_cons_self).elim
      | peer n => rfl
    clear_value here
    obtain ⟨u, x⟩ := here
    cases x with
    | none => exact hf
    | some l =>
      have hr := hrest u
      dsimp only
      split <;> next h => rw [h] at hr; exact hr.trans hf

theorem engCommand_focus (s : State) (b : BitVec 6) (q : BitVec 4) (part : Nat) : (engCommand s b q part).1.focus = s.focus := by
  -- how the slot's address translates plays no part: the kernel need not look into it
  obtain ⟨virt, hvirt⟩ : ∃ virt, virt = engVirt := ⟨_, rfl⟩
  obtain ⟨hv, hp⟩ := engVirt_keeps s part ((s.engine b q).slotAddr (s.engine b q).donen.toNat) 64 readIntent
  rw [engCommand]
  rw [← hvirt] at hv hp ⊢
  generalize virt s part ((s.engine b q).slotAddr (s.engine b q).donen.toNat) 64 readIntent = r at hv hp ⊢
  obtain ⟨u, x⟩ := r
  cases x with
  | error e => exact hv
  | ok ps =>
    have hr := engRead_focus ps u (hp ps rfl)
    dsimp only
    split <;> next h => rw [h] at hr; exact hr.trans hv

/-! ## Engines: running the command at the head -/

/-- Operand words behind the last operand of `o` are zero. -/
theorem getD_take_range (o : List Nat) (f : Nat → Nat) (h : ∀ j < 7, f j = o.getD j 0) (hlen : o.length ≤ 7) :
    ((List.range 7).map f).take o.length = o ∧ (((List.range 7).map f).drop o.length).any (· != 0) = false := by
  have hl : (List.range 7).map f = o ++ List.replicate (7 - o.length) 0 := by
    refine List.ext_getElem (by simp; omega) fun i hi _ => ?_
    have hi7 : i < 7 := by simpa using hi
    rw [List.getElem_map, List.getElem_range, h i hi7]
    by_cases hio : i < o.length
    · rw [List.getElem_append_left hio, List.getD_eq_getElem _ _ hio]
    · rw [List.getElem_append_right (by omega), List.getElem_replicate, List.getD_eq_default _ _ (by omega)]
  rw [hl]
  refine ⟨List.take_left, ?_⟩
  rw [List.drop_left, List.any_replicate]
  simp

section
variable {s u : State} {b : BitVec 6} {q : BitVec 4} {op : Instr} {o : List Nat}

theorem commands_focus (h : Claims.Commands s u b q op o) : u.focus = .engine b q := by
  obtain ⟨cmd, hc, -⟩ := h.command
  have := engCommand_focus s b q (partOfBlock s b.toNat)
  rw [hc] at this
  exact this.trans h.focus

/-- An entry whose operands are those of its operation is performed: what `f` answers is the status, or what the entry waits for. -/
theorem runEngine_performs {f : State → Nat → List Nat → State × Except EngStop Nat} {k : Nat} (h : Claims.Commands s u b q op o) (hk : o.length = k)
    (hlen : k ≤ 7) : runEngine op k s f = .next (match f u (partOfBlock s b.toNat) o with
      | (t, .error e) => engStop t b q e
      | (t, .ok st) => Claims.performed t b q st) := by
  obtain ⟨cmd, hc, hd, hw⟩ := h.command
  subst hk
  obtain ⟨htake, hdrop⟩ := getD_take_range o (fun j => (commandDword cmd (j + 1)).toNat) hw hlen
  unfold runEngine
  obtain ⟨read, hread⟩ : ∃ read, read = engCommand := ⟨_, rfl⟩
  rw [← hread] at hc ⊢
  simp only [h.focus, h.ready, engResume_free h.free, hc, hd, htake, hdrop, Bool.not_true, Bool.false_eq_true, if_false, ne_eq,
    not_true_eq_false, or_self]
  obtain ⟨t, x⟩ := f u (partOfBlock s b.toNat) o
  cases x <;> rfl

/-- A word behind the last operand that is not zero ends the entry with status 7. -/
theorem runEngine_extra {f : State → Nat → List Nat → State × Except EngStop Nat} {k : Nat} (h : Claims.Commands s u b q op o)
    (hk : k < 7) (hne : o.getD k 0 ≠ 0) : runEngine op k s f = .next (Claims.performed u b q 7) := by
  obtain ⟨cmd, hc, hd, hw⟩ := h.command
  have hextra : (((List.range 7).map (fun j => (commandDword cmd (j + 1)).toNat)).drop k).any (· != 0) = true := by
    refine List.any_eq_true.2 ⟨o.getD k 0, ?_, by simpa using hne⟩
    rw [← hw k hk]
    refine List.mem_drop_iff_getElem.2 ⟨0, by simpa using hk, by simp⟩
  unfold runEngine
  obtain ⟨read, hread⟩ : ∃ read, read = engCommand := ⟨_, rfl⟩
  rw [← hread] at hc ⊢
  simp only [h.focus, h.ready, engResume_free h.free, hc, hextra, Bool.not_true, Bool.false_eq_true, if_false, or_true, if_true]
  rfl

end
end Sys2Proof.Proofs

namespace Sys2Proof.Proofs
open Sys2Proof.Machine

/-! ## Device memory: bytes written line by line -/

theorem memSetBytes_append (l l' : List Byte) : ∀ (m : Memory) (a : Nat), memSetBytes m a (l ++ l') = memSetBytes (memSetBytes m a l) (a + l.length) l' := by
  induction l with
  | nil => exact fun _ _ => rfl
  | cons x l ih => exact fun m a => by rw [List.cons_append, memSetBytes, ih, memSetBytes, List.length_cons, Nat.add_assoc, Nat.add_comm 1]

/-- A mask without bits stores nothing. -/
theorem memSetMasked_zero (l : List Byte) : ∀ (m : Memory) (a : Nat), memSetMasked m a 0 l = m := by
  induction l with
  | nil => exact fun _ _ => rfl
  | cons x l ih => exact fun m a => ih m (a + 1)

/-- A mask of the first bytes stores just those. -/
theorem memSetMasked_ones (l rest : List Byte) : ∀ (m : Memory) (a : Nat), memSetMasked m a (2 ^ l.length - 1) (l ++ rest) = memSetBytes m a l := by
  induction l with
  | nil => exact memSetMasked_zero rest
  | cons x l ih =>
    intro m a
    have hpos := Nat.two_pow_pos l.length
    have hodd : (2 ^ (x :: l).length - 1) % 2 = 1 := by rw [List.length_cons, Nat.pow_succ]; omega
    have hhalf : (2 ^ (x :: l).length - 1) / 2 = 2 ^ l.length - 1 := by rw [List.length_cons, Nat.pow_succ]; omega
    rw [List.cons_append, memSetMasked, if_pos hodd, hhalf, ih, memSetBytes]

/-- A mask of bytes in the middle stores those, from where they stand. -/
theorem memSetMasked_middle (l rest : List Byte) (lo : Nat) : ∀ (m : Memory) (a : Nat),
    memSetMasked m a ((2 ^ l.length - 1) * 2 ^ lo) (List.replicate lo 0#8 ++ l ++ rest) = memSetBytes m (a + lo) l := by
  induction lo with
  | zero => intro m a; rw [Nat.pow_zero, Nat.mul_one]; exact memSetMasked_ones l rest m a
  | succ lo ih =>
    intro m a
    have heven : (2 ^ l.length - 1) * 2 ^ (lo + 1) % 2 = 0 := by rw [Nat.pow_succ, ← Nat.mul_assoc]; exact Nat.mul_mod_left ..
    have hhalf : (2 ^ l.length - 1) * 2 ^ (lo + 1) / 2 = (2 ^ l.length - 1) * 2 ^ lo := by
      rw [Nat.pow_succ, ← Nat.mul_assoc]; exact Nat.mul_div_cancel _ (by decide)
    rw [List.replicate_succ, List.cons_append, List.cons_append, memSetMasked, if_neg (by omega), hhalf, ih, Nat.add_assoc, Nat.add_comm 1]

/-- What a line write makes of device memory. -/
def lineStored (m : Memory) (w : LineWrite) : Memory := memSetMasked m w.line w.mask w.data

/-- The line writes of bytes at an address store just the bytes. -/
theorem foldl_lineWrites (m : Memory) (pa : Nat) (l : List Byte) : (lineWrites pa l).foldl lineStored m = memSetBytes m pa l := by
  unfold lineWrites
  suffices h : ∀ n, ((List.range n).map (fun i =>
      let line := (pa / 64 + i) * 64
      let lo := if i = 0 then pa % 64 else 0
      let part := (l.drop (if i = 0 then 0 else 64 * i - pa % 64)).take (64 - lo)
      ({ line := line, mask := (2 ^ part.length - 1) * 2 ^ lo
         data := List.replicate lo 0#8 ++ part ++ List.replicate (64 - lo - part.length) 0#8 } : LineWrite))).foldl lineStored m =
      memSetBytes m pa (l.take (64 * n - pa % 64)) by
    rw [h, List.take_of_length_le (by omega)]
  intro n
  induction n with
  | zero => rw [Nat.mul_zero, Nat.zero_sub, List.take_zero]; rfl
  | succ n ih =>
    rw [List.range_succ, List.map_append, List.foldl_append, ih]
    simp only [List.map_cons, List.map_nil, List.foldl_cons, List.foldl_nil, lineStored]
    rw [memSetMasked_middle]
    have hmod := Nat.mod_lt pa (show 0 < 64 by decide)
    have hdrop : (if n = 0 then 0 else 64 * n - pa % 64) = 64 * n - pa % 64 := by split <;> omega
    have htake : 64 * (n + 1) - pa % 64 = (64 * n - pa % 64) + (64 - if n = 0 then pa % 64 else 0) := by split <;> omega
    have haddr : (pa / 64 + n) * 64 + (if n = 0 then pa % 64 else 0) = pa + (64 * n - pa % 64) := by split <;> omega
    rw [hdrop, htake, haddr, List.take_add, memSetBytes_append]
    by_cases hl : 64 * n - pa % 64 ≤ l.length
    · rw [List.length_take_of_le hl]
    · rw [List.drop_of_length_le (by omega), List.take_nil]
      rfl

section
variable {s : State}

/-- A line that a non-task agent commits where no task and no channel looks on goes to memory, and no more. -/
theorem commitLine_unobserved (h : Claims.Unobserved s) (part : Nat) (w : LineWrite) (x : ExactOperand) : commitLine s part w x = putLine s w := by
  obtain ⟨ht, hc⟩ := h
  have hc' : (putLine s w).channels = [] := hc
  have ht' : (putLine s w).tasks = [] := ht
  unfold commitLine
  simp only [monitorPort, hc', List.any_nil, Bool.false_eq_true, if_false, abortReaders, ht', List.isEmpty_nil, if_true]

theorem putLine_unobserved (h : Claims.Unobserved s) (w : LineWrite) : Claims.Unobserved (putLine s w) := h

/-- Of the machine, device memory holds m, and times of access and lines that can be read again may differ (R128). -/
def storedTo (s : State) (m : Memory) (t : State) : Prop := t = { s with dmem := m, touched := t.touched, bad := t.bad }

theorem storedTo_putLine (s : State) (w : LineWrite) : storedTo s (lineStored s.dmem w) (putLine s w) := rfl

theorem storedTo_unobserved {m : Memory} {t : State} (h : Claims.Unobserved s) (ht : storedTo s m t) : Claims.Unobserved t := by
  rw [ht]; exact h

theorem storedTo_trans {m m' : Memory} {t u : State} (h : storedTo s m t) (h' : storedTo t m' u) : storedTo s m' u := by
  unfold storedTo at *
  rw [h', h]

/-- Line writes that no task and no channel sees. -/
theorem foldl_commitLine (part : Nat) (l : List LineWrite) : ∀ {s : State}, Claims.Unobserved s →
    storedTo s (l.foldl lineStored s.dmem) (l.foldl (fun s w => commitLine s part w none) s) := by
  induction l with
  | nil => exact fun _ => rfl
  | cons w l ih =>
    intro s h
    rw [List.foldl_cons, List.foldl_cons, commitLine_unobserved h]
    exact storedTo_trans (storedTo_putLine s w) (ih (putLine_unobserved h w))

/-- Bytes that a non-task agent commits where no task and no channel looks on. -/
theorem commitBytes_unobserved (h : Claims.Unobserved s) (part pa : Nat) (l : List Byte) :
    storedTo s (memSetBytes s.dmem pa l) (commitBytes s part pa l) := by
  rw [← foldl_lineWrites]
  exact foldl_commitLine part _ h

end

/-! ## Engines: ranges in device memory -/

/-- Bytes put into pieces of device memory, one after the other. -/
def putPieces (m : Memory) : List (Nat × Nat) → List Byte → Memory
  | [], _ => m
  | p :: rest, l => putPieces (memSetBytes m p.1 (l.take p.2)) rest (l.drop p.2)

/-- The engine piece of a range of device memory. -/
def devPiece (p : Nat × Nat) : EngPiece := .dev p.1 p.2

section
variable {s : State} {b : BitVec 6} {q : BitVec 4}

theorem engCommit_plain (hf : s.focus = .engine b q) (hp : s.plat.lspair.getLsbD 0 = false) (part pa : Nat) (l : List Byte) :
    engCommit s part pa l = commitBytes s part pa l := by
  have hside : lsSide s.plat part = false := by simp only [lsSide, lsOn, hp, Bool.false_and]
  simp only [engCommit, hf, unitWrite, hside, Bool.false_eq_true, if_false]

/-- An engine's write of pieces of device memory. -/
theorem engWrite_devices (part : Nat) (ps : List (Nat × Nat)) : ∀ {s : State} (l : List Byte), s.focus = .engine b q → s.plat.lspair.getLsbD 0 = false →
    Claims.Unobserved s → ∃ t, engWrite s part (ps.map devPiece) l = (t, true) ∧ storedTo s (putPieces s.dmem ps l) t := by
  induction ps with
  | nil => exact fun l _ _ _ => ⟨_, rfl, rfl⟩
  | cons p rest ih =>
    intro s l hf hp hu
    have ht := commitBytes_unobserved hu part p.1 (l.take p.2)
    rw [← engCommit_plain hf hp] at ht
    obtain ⟨t, hw, hs⟩ := ih (s := engCommit s part p.1 (l.take p.2)) (l.drop p.2) (by rw [ht]; exact hf) (by rw [ht]; exact hp)
      (storedTo_unobserved hu ht)
    have hm : (engCommit s part p.1 (l.take p.2)).dmem = memSetBytes s.dmem p.1 (l.take p.2) := by rw [ht]
    rw [hm] at hs
    exact ⟨t, hw, storedTo_trans ht hs⟩

/-- An engine's read of pieces of device memory that can be read. -/
theorem engRead_devices (ps : List (Nat × Nat)) : ∀ s : State, (∀ p ∈ ps, memoryBad s p.1 p.2 = false) →
    ∃ m, engRead s (ps.map devPiece) = ({ s with touched := m }, some (ps.flatMap (fun p => memBytes s.dmem p.1 p.2))) := by
  induction ps with
  | nil => exact fun s _ => ⟨_, rfl⟩
  | cons p rest ih =>
    intro s h
    have hbad : memoryBad s p.1 p.2 = false := h p List.mem_cons_self
    obtain ⟨m, hm⟩ := ih (touch s p.1 p.2) (fun x hx => h x (List.mem_cons_of_mem _ hx))
    refine ⟨m, ?_⟩
    simp only [List.map_cons, devPiece, engRead, hbad, Bool.false_eq_true, if_false]
    rw [show engRead (touch s p.1 p.2) (rest.map devPiece) = _ from hm]
    rfl

/-- An engine's read of a piece of device memory that cannot be read. -/
theorem engRead_bad {pa n : Nat} (h : memoryBad s pa n = true) (rest : List EngPiece) :
    ∃ m, engRead s (.dev pa n :: rest) = ({ s with touched := m }, none) := by
  refine ⟨(touch s pa n).touched, ?_⟩
  simp only [engRead, h, if_true]
  rfl

/-- An empty part of a piece, and another part of it. -/
theorem engSlice_device (pa z lo n : Nat) (h : lo + n ≤ z) : engSlice [.dev pa z] lo n = if n = 0 then [] else [.dev (pa + lo) n] := by
  have hsize : (EngPiece.dev pa z).size = z := rfl
  rw [engSlice, hsize]
  by_cases hlo : z ≤ lo
  · rw [if_pos hlo, if_pos (by omega), engSlice]
  · rw [if_neg hlo, Nat.min_eq_left (by omega)]
    by_cases hn : n = 0
    · rw [if_pos hn, if_pos hn]
    · rw [if_neg hn, if_neg hn, Nat.sub_self, EngPiece.cut, engSlice]

/-- A part of a range that can be read can be read. -/
theorem memoryBad_part {pa z lo n : Nat} (h : memoryBad s pa z = false) (hn : lo + n ≤ z) : memoryBad s (pa + lo) n = false := by
  simp only [memoryBad, List.any_eq_false, Bool.and_eq_true, decide_eq_true_eq] at h ⊢
  intro l hl hline
  exact h l hl ⟨⟨by omega, by omega⟩, by omega⟩

end
end Sys2Proof.Proofs

namespace Sys2Proof.Proofs
open Sys2Proof.Machine

/-! ## The stream copy engine and the crypto engine -/

section
variable {s u v w : State} {b : BitVec 6} {q : BitVec 4} {part x y z ps pd : Nat}

theorem at_focus {n : Nat} {i : Intent} (h : Claims.at_ u v part x n i ps) : v.focus = u.focus := by
  have := engRange_focus u part x n i
  rw [show engRange u part x n i = _ from h] at this
  exact this

theorem linesAt_focus {n p : Nat} {i : Intent} (h : Claims.linesAt u v part x n p i ps) : v.focus = u.focus := by
  have := engLines_focus part i ((List.range n).map (fun k => x + k * p)) u
  rw [show engLines u part i _ = _ from h] at this
  exact this

/-- Entries that have been performed after a write of device memory: the bytes and the entry's status have changed. -/
theorem onlyBytes_performed {l : List Byte} {t : State} (hm : memWf w.dmem = true) (ht : storedTo w (memSetBytes w.dmem pd l) t) :
    Claims.onlyBytes w (Claims.performed t b q 0) b q pd l.length ∧ memBytes (Claims.performed t b q 0).dmem pd l.length = l := by
  have hd : (Claims.performed t b q 0).dmem = memSetBytes w.dmem pd l := by rw [ht]; rfl
  rw [Claims.onlyBytes, hd]
  exact ⟨⟨by rw [ht]; rfl, fun k hk => memByte_memSetBytes_outside hm hk⟩, memBytes_memSetBytes hm⟩

/-! ### Copies -/

/-- The part of a piece from `lo` on, n bytes long. -/
def slicePiece (pa lo n : Nat) : List (Nat × Nat) := if n = 0 then [] else [(pa + lo, n)]

theorem engSlice_slicePiece {pa lo n : Nat} (h : lo + n ≤ z) : engSlice [.dev pa z] lo n = (slicePiece pa lo n).map devPiece := by
  rw [engSlice_device pa z lo n h, slicePiece]
  split <;> rfl

theorem bytes_slicePiece (m : Memory) (pa lo n : Nat) : (slicePiece pa lo n).flatMap (fun p => memBytes m p.1 p.2) = memBytes m (pa + lo) n := by
  rw [slicePiece]
  split
  · next h => rw [h]; rfl
  · simp

theorem putPieces_slicePiece (m : Memory) (pa lo : Nat) (l : List Byte) : putPieces m (slicePiece pa lo l.length) l = memSetBytes m (pa + lo) l := by
  rw [slicePiece]
  split
  · next h => rw [List.length_eq_zero_iff.1 h]; rfl
  · rw [putPieces, putPieces, List.take_length]

theorem mem_slicePiece {pa lo n : Nat} {p : Nat × Nat} (h : p ∈ slicePiece pa lo n) : p = (pa + lo, n) := by
  rw [slicePiece] at h
  split at h
  · cases h
  · exact List.mem_singleton.1 h

/-- A copy whose ranges do not meet moves what it has read. -/
theorem copyOverlap_apart (h : x + z ≤ y ∨ y + z ≤ x) (a : Nat) (t : State) (l : List Byte) : copyOverlap x y z a t l = (t, l) := by
  rw [copyOverlap, if_neg (by omega)]

/-- The lines of a range of z bytes at x, and the bytes of it that the lines from lo up to hi hold. -/
def lineCount (x z : Nat) : Nat := (x % 64 + z + 63) / 64
def firstByte (x lo : Nat) : Nat := 64 * lo - x % 64
def endByte (x z hi : Nat) : Nat := min z (64 * hi - x % 64)

/-- A copy whose ranges lie in device memory reads what its lines hold, and writes it. -/
theorem engCopy_spans {lo hi : Nat} {f : Nat → State → List Byte → State × List Byte} (hps : Claims.at_ u v part x z readIntent ps)
    (hpd : Claims.at_ v w part y z writeIntent pd) (hspan : engSpan w (lineCount x z) = (lo, hi)) :
    engCopy u part x z y f =
      match engRead w (engSlice [.dev ps z] (firstByte x lo) (endByte x z hi - firstByte x lo)) with
      | (s, none) => (s, .ok 2)
      | (s, some l) =>
        let (s, l) := f (firstByte x lo) s l
        let (s, ok) := engWrite s part (engSlice [.dev pd z] (firstByte x lo) (endByte x z hi - firstByte x lo)) l
        engMoved s (lineCount x z) hi (if ok then 0 else 2) := by
  have hspan' : engSpan w ((x % 64 + z + 63) / 64) = (lo, hi) := hspan
  simp only [engCopy, show engRange u part x z readIntent = _ from hps, show engRange v part y z writeIntent = _ from hpd, hspan']
  rfl

/-- A copy of the lines from lo up to hi of a range that can be read, in device memory. -/
theorem engCopy_lines {lo hi : Nat} (hu : u.focus = .engine b q) (hps : Claims.at_ u v part x z readIntent ps) (hpd : Claims.at_ v w part y z writeIntent pd)
    (hw : Claims.Plain w) (hspan : engSpan w (lineCount x z) = (lo, hi)) (hlo : firstByte x lo ≤ z) (hxy : x + z ≤ y ∨ y + z ≤ x)
    (hgood : memoryBad w ps z = false) :
    ∃ t, engCopy u part x z y (copyOverlap x y z) = engMoved t (lineCount x z) hi 0 ∧
      storedTo w (memSetBytes w.dmem (pd + firstByte x lo) (memBytes w.dmem (ps + firstByte x lo) (endByte x z hi - firstByte x lo))) t := by
  obtain ⟨hunobs, hpair, -⟩ := hw
  have hwf : w.focus = .engine b q := (at_focus hpd).trans ((at_focus hps).trans hu)
  have hn : firstByte x lo + (endByte x z hi - firstByte x lo) ≤ z := by
    unfold firstByte endByte at *
    omega
  obtain ⟨m, hread⟩ := engRead_devices (slicePiece ps (firstByte x lo) (endByte x z hi - firstByte x lo)) w (fun p hp => by
    rw [mem_slicePiece hp]; exact memoryBad_part hgood hn)
  rw [bytes_slicePiece] at hread
  generalize hl : memBytes w.dmem (ps + firstByte x lo) (endByte x z hi - firstByte x lo) = l at hread ⊢
  have hlen : l.length = endByte x z hi - firstByte x lo := by rw [← hl, length_memBytes]
  obtain ⟨t, hwrite, ht⟩ := engWrite_devices (s := { w with touched := m }) part (slicePiece pd (firstByte x lo) l.length) l hwf hpair hunobs
  rw [putPieces_slicePiece] at ht
  refine ⟨t, ?_, ht⟩
  rw [engCopy_spans hps hpd hspan]
  rw [engSlice_slicePiece hn, engSlice_slicePiece hn, hread]
  simp only [copyOverlap_apart hxy, ← hlen, hwrite, if_true]

/-- All lines of an entry of which none has been moved. -/
theorem engSpan_whole (hw : w.focus = .engine b q) (h : Claims.Whole w b q) (n : Nat) : engSpan w n = (0, n) := by
  obtain ⟨hm, hl⟩ := h
  simp only [engSpan, hw, hm, hl, Option.getD_none, Nat.zero_add, Nat.min_self]

theorem firstByte_zero : firstByte x 0 = 0 := by rw [firstByte, Nat.mul_zero, Nat.zero_sub]

theorem endByte_lineCount : endByte x z (lineCount x z) = z := by
  rw [endByte, lineCount]
  omega

theorem engMoved_all (t : State) (n st : Nat) : engMoved t n n st = (t, .ok st) := by
  unfold engMoved
  split
  · rw [if_neg (fun h => Nat.lt_irrefl n h.2)]
  · rfl

theorem exec_copy_whole (hs : Claims.Commands s u b q .copy [x, y, z]) (hps : Claims.at_ u v (partOfBlock s b.toNat) x z readIntent ps)
    (hpd : Claims.at_ v w (partOfBlock s b.toNat) y z writeIntent pd) (hw : Claims.Plain w) (hwhole : Claims.Whole w b q) (hxy : x + z ≤ y ∨ y + z ≤ x)
    (hgood : memoryBad w ps z = false) :
    ∃ t, exec .copy s = .next t ∧ Claims.onlyBytes w t b q pd z ∧ memBytes t.dmem pd z = memBytes w.dmem ps z := by
  have hu := commands_focus hs
  have hwf : w.focus = .engine b q := (at_focus hpd).trans ((at_focus hps).trans hu)
  obtain ⟨t, hcopy, ht⟩ := engCopy_lines hu hps hpd hw (engSpan_whole hwf hwhole _) (by rw [firstByte_zero]; exact Nat.zero_le _) hxy hgood
  rw [firstByte_zero, endByte_lineCount, Nat.sub_zero, Nat.add_zero, Nat.add_zero] at ht
  rw [engMoved_all] at hcopy
  have hlen := length_memBytes w.dmem ps z
  obtain ⟨honly, hbytes⟩ := onlyBytes_performed (b := b) (q := q) hw.2.2 ht
  rw [hlen] at honly hbytes
  refine ⟨Claims.performed t b q 0, ?_, honly, hbytes⟩
  show execCopy s = _
  rw [execCopy, runEngine_performs (k := 3) hs rfl (by decide)]
  simp only [List.getD_cons_zero, List.getD_cons_succ, hcopy]

/-- A source that cannot be read. -/
theorem exec_copy_unreadable (hs : Claims.Commands s u b q .copy [x, y, z]) (hps : Claims.at_ u v (partOfBlock s b.toNat) x z readIntent ps)
    (hpd : Claims.at_ v w (partOfBlock s b.toNat) y z writeIntent pd) (hwhole : Claims.Whole w b q) (hbad : memoryBad w ps z = true) :
    ∃ t, exec .copy s = .next t ∧ t = { Claims.performed w b q 2 with touched := t.touched } := by
  have hwf : w.focus = .engine b q := (at_focus hpd).trans ((at_focus hps).trans (commands_focus hs))
  have hz : z ≠ 0 := fun hz => by rw [hz] at hbad; simp [memoryBad] at hbad
  obtain ⟨m, hread⟩ := engRead_bad hbad []
  refine ⟨Claims.performed { w with touched := m } b q 2, ?_, rfl⟩
  show execCopy s = _
  rw [execCopy, runEngine_performs (k := 3) hs rfl (by decide)]
  simp only [List.getD_cons_zero, List.getD_cons_succ]
  rw [engCopy_spans hps hpd (engSpan_whole hwf hwhole _), firstByte_zero, endByte_lineCount, Nat.sub_zero,
    engSlice_device ps z 0 z (by omega), if_neg hz, Nat.add_zero, hread]

/-- R157: the next k lines of a copy of which m have been moved. -/
theorem exec_copy_part {m k : Nat} (hs : Claims.Commands s u b q .copy [x, y, z]) (hps : Claims.at_ u v (partOfBlock s b.toNat) x z readIntent ps)
    (hpd : Claims.at_ v w (partOfBlock s b.toNat) y z writeIntent pd) (hw : Claims.Plain w) (hm : (w.engine b q).moved = m)
    (hk : (w.engine b q).limit = some k) (hmk : m + k < lineCount x z) (hxy : x + z ≤ y ∨ y + z ≤ x) (hgood : memoryBad w ps z = false) :
    ∃ t, exec .copy s = .next t ∧ t = Claims.sameBut t (w.setEngine b q { w.engine b q with moved := m + k, limit := none }) ∧
      ∀ a, memByte t.dmem a = if pd + firstByte x m ≤ a ∧ a < pd + endByte x z (m + k) then memByte w.dmem (ps + (a - pd)) else memByte w.dmem a := by
  have hu := commands_focus hs
  have hwf : w.focus = .engine b q := (at_focus hpd).trans ((at_focus hps).trans hu)
  have hspan : engSpan w (lineCount x z) = (m, m + k) := by
    simp only [engSpan, hwf, hm, hk, Option.getD_some, Nat.min_eq_right (Nat.le_of_lt hmk)]
  obtain ⟨t, hcopy, ht⟩ := engCopy_lines hu hps hpd hw hspan (by unfold firstByte lineCount at *; omega) hxy hgood
  have hmoved : engMoved t (lineCount x z) (m + k) 0 = (t.setEngine b q { t.engine b q with moved := m + k, limit := none }, .error .under) := by
    have htf : t.focus = .engine b q := by rw [ht]; exact hwf
    simp only [engMoved, htf, hmk, and_self, if_true]
  refine ⟨t.setEngine b q { t.engine b q with moved := m + k, limit := none }, ?_, ?_, ?_⟩
  · show execCopy s = _
    rw [execCopy, runEngine_performs (k := 3) hs rfl (by decide)]
    simp only [List.getD_cons_zero, List.getD_cons_succ, hcopy, hmoved]
    rfl
  · rw [ht]; rfl
  · intro a
    have hd : (t.setEngine b q { t.engine b q with moved := m + k, limit := none }).dmem = t.dmem := rfl
    rw [hd, ht]
    generalize hn : endByte x z (m + k) - firstByte x m = n
    have hle : firstByte x m ≤ endByte x z (m + k) := by unfold firstByte endByte lineCount at *; omega
    split
    · next ha =>
      obtain ⟨i, rfl⟩ : ∃ i, a = pd + firstByte x m + i := ⟨a - (pd + firstByte x m), by omega⟩
      have hi : i < (memBytes w.dmem (ps + firstByte x m) n).length := by rw [length_memBytes]; omega
      rw [memByte_memSetBytes_inside hw.2.2 hi]
      simp only [memBytes_eq_map, List.getElem_map, List.getElem_range]
      congr 1
      omega
    · exact memByte_memSetBytes_outside hw.2.2 (by rw [length_memBytes]; omega)

/-! ### Fills -/

theorem getD_natToBytes (n : Nat) : ∀ (x j : Nat), j < n → (natToBytes n x).getD j 0 = BitVec.ofNat 8 (x / 256 ^ j) := by
  induction n with
  | zero => exact fun _ _ h => absurd h (Nat.not_lt_zero _)
  | succ n ih =>
    intro x j hj
    cases j with
    | zero => rw [natToBytes, List.getD_cons_zero, Nat.pow_zero, Nat.div_one]
    | succ j => rw [natToBytes, List.getD_cons_succ, ih _ _ (by omega), Nat.div_div_eq_div_mul, ← Nat.pow_succ']

theorem exec_fill (hs : Claims.Commands s u b q .fill [x, y, z]) (hpd : Claims.at_ u w (partOfBlock s b.toNat) x y writeIntent pd) (hw : Claims.Plain w)
    (hwhole : Claims.Whole w b q) : ∃ t, exec .fill s = .next t ∧ Claims.onlyBytes w t b q pd y ∧
      ∀ k < y, (memByte t.dmem (pd + k)).toNat = z / 256 ^ (k % 8) % 256 := by
  obtain ⟨hunobs, hpair, hwf⟩ := hw
  have hfocus : w.focus = .engine b q := (at_focus hpd).trans (commands_focus hs)
  generalize hl : (List.range y).map (fun i => (natToBytes 8 z).getD (i % 8) 0) = l
  have hlen : l.length = y := by rw [← hl]; simp
  obtain ⟨t, hwrite, ht⟩ := engWrite_devices (partOfBlock s b.toNat) (slicePiece pd 0 l.length) l hfocus hpair hunobs
  rw [putPieces_slicePiece, Nat.add_zero] at ht
  obtain ⟨honly, hbytes⟩ := onlyBytes_performed (b := b) (q := q) hwf ht
  rw [hlen] at honly
  have hall : min y (64 * ((y + 63) / 64)) = y := by omega
  refine ⟨Claims.performed t b q 0, ?_, honly, fun k hk => ?_⟩
  · show execFill s = _
    rw [execFill, runEngine_performs (k := 3) hs rfl (by decide)]
    simp only [List.getD_cons_zero, List.getD_cons_succ, show engRange u _ x y writeIntent = _ from hpd, engSpan_whole hfocus hwhole, Nat.mul_zero, hall,
      Nat.sub_zero]
    rw [hl, engSlice_slicePiece (by omega), ← hlen, hwrite]
    simp only [if_true, engMoved_all]
  · have hd : (Claims.performed t b q 0).dmem = memSetBytes w.dmem pd l := by rw [ht]; rfl
    have hkl : k < l.length := by omega
    rw [hd, memByte_memSetBytes_inside hwf hkl]
    simp only [← hl, List.getElem_map, List.getElem_range]
    rw [getD_natToBytes 8 z _ (Nat.mod_lt _ (by decide)), BitVec.toNat_ofNat]

/-! ### Digests and verifications -/

theorem length_shaRound {h : List DWord} (hh : h.length = 8) (kw : DWord) : (shaRound h kw).length = 8 := by
  match h with
  | [_, _, _, _, _, _, _, _] => rfl

theorem length_shaBlock {h : List DWord} (hh : h.length = 8) (m : List DWord) : (shaBlock h m).length = 8 := by
  have hv : ∀ (l : List DWord) (v : List DWord), v.length = 8 → (l.foldl shaRound v).length = 8 := by
    intro l
    induction l with
    | nil => exact fun _ hv => hv
    | cons kw l ih => exact fun v hv => ih _ (length_shaRound hv kw)
  simp only [shaBlock, List.length_map, List.length_zip, hh, hv _ _ hh, Nat.min_self]

theorem length_sha512 (l : List Byte) : (sha512 l).length = 64 := by
  have hh : ∀ (bs : List (List Byte)) (h : List DWord), h.length = 8 →
      (bs.foldl (fun h b => shaBlock h ((pieces 8 16 b).map (fun w => BitVec.ofNat 64 (beNat w)))) h).length = 8 := by
    intro bs
    induction bs with
    | nil => exact fun _ hh => hh
    | cons b bs ih => exact fun h hh => ih _ (length_shaBlock hh _)
  have hbe : ∀ w : DWord, (beBytes 8 w.toNat).length = 8 := fun w => by rw [beBytes, List.length_reverse, length_natToBytes]
  simp only [sha512, List.length_flatMap, hbe, List.map_const', List.sum_replicate, hh _ shaInit rfl]
  rfl

theorem exec_sha512 (hs : Claims.Commands s u b q .sha512 [x, y, z]) (hps : Claims.at_ u v (partOfBlock s b.toNat) x y readIntent ps)
    (hpd : Claims.at_ v w (partOfBlock s b.toNat) z 64 writeIntent pd) (hw : Claims.Plain w) (hgood : memoryBad w ps y = false) :
    ∃ t, exec .sha512 s = .next t ∧ Claims.onlyBytes w t b q pd 64 ∧ memBytes t.dmem pd 64 = sha512 (memBytes w.dmem ps y) := by
  obtain ⟨hunobs, hpair, hwf⟩ := hw
  have hfocus : w.focus = .engine b q := (at_focus hpd).trans ((at_focus hps).trans (commands_focus hs))
  obtain ⟨m, hread⟩ := engRead_devices [(ps, y)] w (fun p hp => by rw [List.mem_singleton.1 hp]; exact hgood)
  have hlen := length_sha512 (memBytes w.dmem ps y)
  obtain ⟨t, hwrite, ht⟩ := engWrite_devices (s := { w with touched := m }) (partOfBlock s b.toNat) [(pd, 64)] (sha512 (memBytes w.dmem ps y)) hfocus hpair hunobs
  rw [putPieces, putPieces, List.take_of_length_le (Nat.le_of_eq hlen)] at ht
  obtain ⟨honly, hbytes⟩ := onlyBytes_performed (w := w) (b := b) (q := q) hwf ht
  rw [hlen] at honly hbytes
  refine ⟨Claims.performed t b q 0, ?_, honly, hbytes⟩
  show execSha512 s = _
  rw [execSha512, runEngine_performs (k := 3) hs rfl (by decide)]
  simp only [List.map_cons, List.map_nil, devPiece, List.flatMap_cons, List.flatMap_nil, List.append_nil] at hread hwrite
  simp only [List.getD_cons_zero, List.getD_cons_succ, engMove, show engRange u _ x y readIntent = _ from hps,
    show engRange v _ z 64 writeIntent = _ from hpd, hread, hwrite, if_true]

theorem memBytes_add (m : Memory) (n k : Nat) : ∀ a, memBytes m a (n + k) = memBytes m a n ++ memBytes m (a + n) k := by
  induction n with
  | zero => exact fun a => by rw [Nat.zero_add, Nat.add_zero]; rfl
  | succ n ih => exact fun a => by rw [Nat.add_right_comm, memBytes, ih, memBytes, List.cons_append, Nat.add_assoc, Nat.add_comm 1]

theorem exec_rsaVerify {u' : State} {pk : Nat} (hs : Claims.Commands s u b q .rsaVerify [x, y, z])
    (hps : Claims.at_ u v (partOfBlock s b.toNat) x 64 readIntent ps) (hpd : Claims.at_ v u' (partOfBlock s b.toNat) y 512 readIntent pd)
    (hpk : Claims.at_ u' w (partOfBlock s b.toNat) z 520 readIntent pk) (h0 : memoryBad w ps 64 = false) (h1 : memoryBad w pd 512 = false)
    (h2 : memoryBad w pk 520 = false) :
    ∃ t, exec .rsaVerify s = .next t ∧ t = { Claims.performed w b q
      (if rsaVerifies (beNat (memBytes w.dmem pk 512)) (beNat (memBytes w.dmem (pk + 512) 8)) (beNat (memBytes w.dmem pd 512)) (memBytes w.dmem ps 64)
        then 0 else 6) with touched := t.touched } := by
  obtain ⟨m, hread⟩ := engRead_devices [(ps, 64), (pd, 512), (pk, 520)] w (fun p hp => by
    simp only [List.mem_cons, List.not_mem_nil, or_false] at hp
    rcases hp with rfl | rfl | rfl
    · exact h0
    · exact h1
    · exact h2)
  generalize hA : memBytes w.dmem ps 64 = A at hread ⊢
  generalize hB : memBytes w.dmem pd 512 = B at hread ⊢
  generalize hC : memBytes w.dmem pk 512 = C at hread ⊢
  generalize hD : memBytes w.dmem (pk + 512) 8 = D at hread ⊢
  have hCD : memBytes w.dmem pk 520 = C ++ D := by rw [← hC, ← hD, ← memBytes_add]
  have hlA : A.length = 64 := by rw [← hA, length_memBytes]
  have hlB : B.length = 512 := by rw [← hB, length_memBytes]
  have hlC : C.length = 512 := by rw [← hC, length_memBytes]
  have hkey : (A ++ (B ++ (C ++ D))).drop 576 = C ++ D := by
    rw [← List.append_assoc, List.drop_left' (by rw [List.length_append, hlA, hlB])]
  simp only [List.map_cons, List.map_nil, devPiece, List.flatMap_cons, List.flatMap_nil, List.append_nil, hA, hB, hCD] at hread
  refine ⟨Claims.performed { w with touched := m } b q (if rsaVerifies (beNat C) (beNat D) (beNat B) A then 0 else 6),
    ?_, rfl⟩
  show execRsaVerify s = _
  rw [execRsaVerify, runEngine_performs (k := 3) hs rfl (by decide)]
  simp only [List.getD_cons_zero, List.getD_cons_succ, show engRange u _ x 64 readIntent = _ from hps, show engRange v _ y 512 readIntent = _ from hpd,
    show engRange u' _ z 520 readIntent = _ from hpk, List.cons_append, List.nil_append, hread, hkey, List.take_left' hlC, List.drop_left' hlC,
    List.take_left' hlA, List.drop_left' hlA, List.take_left' hlB]

end
end Sys2Proof.Proofs

namespace Sys2Proof.Proofs
open Sys2Proof.Machine

/-! ## Transposed copies of a block -/

/-- An element of the concatenation of lists that are all e long. -/
theorem getElem?_flatMap_uniform {α β : Type} {f : α → List β} {e k : Nat} (hk : k < e) : ∀ (l : List α) (i : Nat) (a : α), (∀ x ∈ l, (f x).length = e) →
    l[i]? = some a → (l.flatMap f)[i * e + k]? = (f a)[k]? := by
  intro l
  induction l with
  | nil => exact fun i a _ h => by cases h
  | cons x l ih =>
    intro i a hlen h
    have hx : (f x).length = e := hlen x List.mem_cons_self
    rw [List.flatMap_cons]
    cases i with
    | zero =>
      cases h
      rw [Nat.zero_mul, Nat.zero_add, List.getElem?_append_left (by omega)]
    | succ i =>
      rw [Nat.succ_mul, List.getElem?_append_right (by omega), hx, show i * e + e + k - e = i * e + k by omega]
      exact ih i a (fun y hy => hlen y (List.mem_cons_of_mem _ hy)) (by simpa using h)

theorem length_flatMap_uniform {α β : Type} {f : α → List β} {e : Nat} (l : List α) (h : ∀ x ∈ l, (f x).length = e) : (l.flatMap f).length = l.length * e := by
  rw [List.length_flatMap, List.map_congr_left h, List.map_const', List.sum_replicate_nat]

/-- A concatenation of pieces of k is cut into these pieces. -/
theorem pieces_flatten {α : Type} {k : Nat} (hk : 0 < k) : ∀ rows : List (List α), (∀ r ∈ rows, r.length = k) → pieces k rows.length rows.flatten = rows
  | [], _ => rfl
  | r :: rows, h => by
    have hr : r.length = k := h r List.mem_cons_self
    have hne : (r ++ rows.flatten).isEmpty = false := by
      cases r with
      | nil => exact absurd hr (by simp only [List.length_nil]; omega)
      | cons => rfl
    rw [List.flatten_cons, List.length_cons, pieces, hne, if_neg Bool.false_ne_true, List.take_left' hr, List.drop_left' hr,
      pieces_flatten hk rows (fun x hx => h x (List.mem_cons_of_mem _ hx))]

/-- A list no longer than a piece is one piece. -/
theorem pieces_one {α : Type} {l : List α} (h : l ≠ []) : pieces l.length 1 l = [l] := by
  rw [pieces, List.isEmpty_eq_false_iff.2 h, if_neg Bool.false_ne_true, List.take_length, pieces]

/-! ### Lines of a block -/

/-- The addresses of n lines that lie p bytes apart. -/
def lineAddrs (a p n : Nat) : List Nat := (List.range n).map (fun k => a + k * p)

/-- The engine pieces of lines of device memory. -/
def linePieces (as : List Nat) : List EngPiece := (as.map (·, 64)).map devPiece

theorem length_lineAddrs (a p n : Nat) : (lineAddrs a p n).length = n := by rw [lineAddrs, List.length_map, List.length_range]

theorem blockRows_one (a p n : Nat) (next : Nat → Nat) (h : next 0 = 0) : blockRows a p n next 1 = lineAddrs a p n := by
  rw [blockRows, List.range_one, List.flatMap_cons, List.flatMap_nil, List.append_nil, h, Nat.add_zero, lineAddrs]

theorem engLines_linesAt {s v : State} {part a n p pa : Nat} {i : Intent} (h : Claims.linesAt s v part a n p i pa) :
    engLines s part i (lineAddrs a p n) = (v, .ok (linePieces (lineAddrs pa p n))) := by
  rw [linePieces, lineAddrs, lineAddrs, List.map_map, List.map_map]
  exact h

/-- The whole of a list of lines. -/
theorem engSlice_lines {n : Nat} : ∀ as : List Nat, as.length = n → engSlice (linePieces as) 0 (64 * n) = linePieces as := by
  induction n with
  | zero => exact fun as h => by rw [List.length_eq_zero_iff.1 h]; rfl
  | succ n ih =>
    intro as h
    obtain ⟨a, as, rfl⟩ := List.exists_cons_of_length_eq_add_one h
    have hsize : (devPiece (a, 64)).size = 64 := rfl
    simp only [linePieces, List.map_cons, engSlice, hsize]
    rw [if_neg (by decide), Nat.sub_zero, Nat.min_eq_right (by omega), if_neg (by decide), show 64 * (n + 1) - 64 = 64 * n by omega]
    exact congrArg (_ :: ·) (ih as (Nat.succ.inj h))

theorem engRead_lines {s : State} {as : List Nat} (h : ∀ a ∈ as, memoryBad s a 64 = false) :
    ∃ m, engRead s (linePieces as) = ({ s with touched := m }, some (as.map (memBytes s.dmem · 64)).flatten) := by
  obtain ⟨m, hm⟩ := engRead_devices (as.map (·, 64)) s (fun p hp => by
    obtain ⟨a, ha, rfl⟩ := List.mem_map.1 hp
    exact h a ha)
  rw [List.flatMap_map, List.flatMap_def] at hm
  exact ⟨m, hm⟩

/-- Device memory with rows of bytes stored at their addresses. -/
def putRows (m : Memory) (l : List (Nat × List Byte)) : Memory := l.foldl (fun m p => memSetBytes m p.1 p.2) m

theorem putPieces_rows (l : List (Nat × List Byte)) : ∀ m, (∀ p ∈ l, p.2.length = 64) →
    putPieces m ((l.map (·.1)).map (·, 64)) (l.map (·.2)).flatten = putRows m l := by
  induction l with
  | nil => exact fun _ _ => rfl
  | cons p l ih =>
    intro m h
    have hp : p.2.length = 64 := h p List.mem_cons_self
    rw [List.map_cons, List.map_cons, List.map_cons, List.flatten_cons, putPieces, List.take_left' hp, List.drop_left' hp,
      ih _ (fun x hx => h x (List.mem_cons_of_mem _ hx))]
    rfl

theorem engWrite_rows {s : State} {b : BitVec 6} {q : BitVec 4} (part : Nat) (l : List (Nat × List Byte)) (h : ∀ p ∈ l, p.2.length = 64)
    (hf : s.focus = .engine b q) (hp : s.plat.lspair.getLsbD 0 = false) (hu : Claims.Unobserved s) :
    ∃ t, engWrite s part (linePieces (l.map (·.1))) (l.map (·.2)).flatten = (t, true) ∧ storedTo s (putRows s.dmem l) t := by
  rw [← putPieces_rows l s.dmem h]
  exact engWrite_devices part _ _ hf hp hu

theorem memByte_putRows_outside {a : Nat} (l : List (Nat × List Byte)) : ∀ {m : Memory}, memWf m = true → (∀ p ∈ l, a < p.1 ∨ p.1 + p.2.length ≤ a) →
    memByte (putRows m l) a = memByte m a := by
  induction l with
  | nil => exact fun _ _ => rfl
  | cons p l ih =>
    intro m hm h
    exact (ih (memSetBytes_wf hm) (fun x hx => h x (List.mem_cons_of_mem _ hx))).trans (memByte_memSetBytes_outside hm (h p List.mem_cons_self))

theorem memByte_putRows_inside {k : Nat} (l : List (Nat × List Byte)) : ∀ {m : Memory} {p : Nat × List Byte} (hk : k < p.2.length), memWf m = true →
    l.Pairwise (fun p r => p.1 + p.2.length ≤ r.1) → p ∈ l → memByte (putRows m l) (p.1 + k) = p.2[k] := by
  induction l with
  | nil => exact fun _ _ _ h => by cases h
  | cons r l ih =>
    intro m p hk hm hl hp
    obtain ⟨hr, hl⟩ := List.pairwise_cons.1 hl
    rcases List.mem_cons.1 hp with rfl | hp
    · exact (memByte_putRows_outside l (memSetBytes_wf hm) (fun x hx => Or.inl (by have := hr x hx; omega))).trans (memByte_memSetBytes_inside hm hk)
    · exact ih hk (memSetBytes_wf hm) hl hp

/-! ### The transposed block -/

/-- Row j of the block of n rows of lines z apart at physical address a, transposed: element j, of e bytes, of every row. -/
def transposedRow (m : Memory) (a z n e j : Nat) : List Byte :=
  (List.range n).flatMap (fun i => ((memBytes m (a + i * z) 64).drop (j * e)).take e)

section
variable {m : Memory} {a z n e j : Nat}

theorem transposeRows_block (hn : 64 / e = n) :
    transposeRows e ((lineAddrs a z n).map (memBytes m · 64)) = (List.range n).map (transposedRow m a z n e) := by
  simp only [transposeRows, hn, lineAddrs, List.map_map, List.flatMap_map]
  rfl

theorem length_element (hj : j < n) (hne : n * e = 64) (i : Nat) : (((memBytes m (a + i * z) 64).drop (j * e)).take e).length = e := by
  have : (j + 1) * e ≤ n * e := Nat.mul_le_mul_right e hj
  rw [List.length_take, List.length_drop, length_memBytes]
  rw [Nat.add_mul] at this
  omega

theorem length_transposedRow (hj : j < n) (hne : n * e = 64) : (transposedRow m a z n e j).length = 64 := by
  rw [transposedRow, length_flatMap_uniform _ (fun i _ => length_element hj hne i), List.length_range, hne]

theorem getElem?_transposedRow {i k : Nat} (hi : i < n) (hj : j < n) (hk : k < e) (hne : n * e = 64) :
    (transposedRow m a z n e j)[i * e + k]? = some (memByte m (a + i * z + j * e + k)) := by
  have hbound : (j + 1) * e ≤ n * e := Nat.mul_le_mul_right e hj
  rw [Nat.add_mul, hne] at hbound
  rw [transposedRow, getElem?_flatMap_uniform hk _ i i (fun x _ => length_element hj hne x) (by rw [List.getElem?_range hi]), List.getElem?_take_of_lt hk,
    List.getElem?_drop, memBytes_eq_map, List.getElem?_map, List.getElem?_range (by omega), Option.map_some, Nat.add_assoc _ _ k]

end

section
variable {s u v w : State} {b : BitVec 6} {q : BitVec 4} {x y z d ps pd n e : Nat}

/-- The rows of a transposed block, and where they go. -/
def transposedBlock (m : Memory) (ps z pd d n e : Nat) : List (Nat × List Byte) :=
  (List.range n).map (fun j => (pd + j * d, transposedRow m ps z n e j))

theorem fst_transposedBlock (m : Memory) : (transposedBlock m ps z pd d n e).map (·.1) = lineAddrs pd d n := by
  rw [transposedBlock, List.map_map]
  rfl

theorem snd_transposedBlock (m : Memory) : (transposedBlock m ps z pd d n e).map (·.2) = (List.range n).map (transposedRow m ps z n e) := by
  rw [transposedBlock, List.map_map]
  rfl

/-- What is read of the n lines of a block is cut into its rows, and they are one block. -/
theorem pieces_rows (m : Memory) (a z : Nat) (hn : n ≠ 0) :
    pieces n 1 (pieces 64 n ((lineAddrs a z n).map (memBytes m · 64)).flatten) = [(lineAddrs a z n).map (memBytes m · 64)] := by
  have hcut := pieces_flatten (k := 64) (by decide) ((lineAddrs a z n).map (memBytes m · 64)) (fun r hr => by
    obtain ⟨i, -, rfl⟩ := List.mem_map.1 hr
    exact length_memBytes ..)
  have hlen : ((lineAddrs a z n).map (memBytes m · 64)).length = n := by rw [List.length_map, length_lineAddrs]
  have hone := pieces_one (l := (lineAddrs a z n).map (memBytes m · 64)) (fun h => hn (by rw [← hlen, h]; rfl))
  rw [hlen] at hcut hone
  rw [hcut, hone]

theorem transposedBlock_apart {m : Memory} (hne : n * e = 64) (hd : d % 64 = 0) (hd0 : 0 < d) :
    (transposedBlock m ps z pd d n e).Pairwise (fun p r => p.1 + p.2.length ≤ r.1) := by
  rw [transposedBlock, List.pairwise_map]
  refine List.pairwise_lt_range.imp_of_mem fun {i j} hi _ hij => ?_
  have hle : (i + 1) * d ≤ j * d := Nat.mul_le_mul_right d hij
  rw [Nat.add_mul] at hle
  rw [length_transposedRow (List.mem_range.1 hi) hne]
  omega

/-- A transposed copy of one block in device memory. -/
theorem copyBlocks_one {part : Nat} (hne : n * e = 64) (he : 64 / n = e) (hn : 64 / e = n) (hx : x % 64 = 0) (hy : y % 64 = 0) (hz : z % 64 = 0) (hz0 : 0 < z)
    (hd : d % 64 = 0) (hd0 : 0 < d) (hps : Claims.linesAt u v part x n z readIntent ps) (hpd : Claims.linesAt v w part y n d writeIntent pd)
    (hf : w.focus = .engine b q) (hw : Claims.Plain w) (hwhole : Claims.Whole w b q) (hgood : ∀ k < n, memoryBad w (ps + k * z) 64 = false) :
    ∃ t, copyBlocks n u part [x, y, z, d, 1] = (t, .ok 0) ∧ storedTo w (putRows w.dmem (transposedBlock w.dmem ps z pd d n e)) t := by
  obtain ⟨hunobs, hpair, hwf⟩ := hw
  have hn0 : n ≠ 0 := fun h => by rw [h, Nat.zero_mul] at hne; cases hne
  obtain ⟨m, hread⟩ := engRead_lines (s := w) (as := lineAddrs ps z n) (fun a ha => by
    obtain ⟨k, hk, rfl⟩ := List.mem_map.1 ha
    exact hgood k (List.mem_range.1 hk))
  obtain ⟨t, hwrite, ht⟩ := engWrite_rows (s := { w with touched := m }) part (transposedBlock w.dmem ps z pd d n e) (fun p hp => by
    obtain ⟨j, hj, rfl⟩ := List.mem_map.1 hp
    exact length_transposedRow (List.mem_range.1 hj) hne) hf hpair hunobs
  rw [fst_transposedBlock, snd_transposedBlock] at hwrite
  have hcut := pieces_rows w.dmem ps z hn0
  refine ⟨t, ?_, ht⟩
  simp only [copyBlocks, List.getD_cons_zero, List.getD_cons_succ, hx, hy, hz, hd, Nat.ne_of_gt hz0, Nat.ne_of_gt hd0, ne_eq, not_true_eq_false, or_self,
    if_false, blockRows_one x z n _ (Nat.mul_zero 64), blockRows_one y d n (fun k => k * n * d) (by rw [Nat.zero_mul, Nat.zero_mul]), engLines_linesAt hps,
    engLines_linesAt hpd, engSpan_whole hf hwhole, Nat.mul_zero, Nat.sub_zero, Nat.mul_one, engSlice_lines _ (length_lineAddrs _ _ _), hread, hcut, he,
    List.flatMap_cons, List.flatMap_nil, List.append_nil, transposeRows_block hn, hwrite, if_true, engMoved_all]

/-- COPY_T8 and COPY_T16 of one block in device memory. -/
theorem exec_copyBlocks {op : Instr} (hop : exec op s = runEngine op 5 s (copyBlocks n)) (hne : n * e = 64) (he : 64 / n = e) (hn : 64 / e = n)
    (hs : Claims.Commands s u b q op [x, y, z, d, 1]) (hx : x % 64 = 0) (hy : y % 64 = 0) (hz : z % 64 = 0) (hz0 : 0 < z) (hd : d % 64 = 0) (hd0 : 0 < d)
    (hps : Claims.linesAt u v (partOfBlock s b.toNat) x n z readIntent ps) (hpd : Claims.linesAt v w (partOfBlock s b.toNat) y n d writeIntent pd)
    (hw : Claims.Plain w) (hwhole : Claims.Whole w b q) (hgood : ∀ k < n, memoryBad w (ps + k * z) 64 = false) :
    ∃ t, exec op s = .next t ∧ t = Claims.sameBut t (Claims.performed w b q 0) ∧
      (∀ i j k, i < n → j < n → k < e → memByte t.dmem (pd + j * d + i * e + k) = memByte w.dmem (ps + i * z + j * e + k)) ∧
      ∀ a, (∀ j < n, a < pd + j * d ∨ pd + j * d + 64 ≤ a) → memByte t.dmem a = memByte w.dmem a := by
  have hf : w.focus = .engine b q := (linesAt_focus hpd).trans ((linesAt_focus hps).trans (commands_focus hs))
  obtain ⟨t, hcopy, ht⟩ := copyBlocks_one hne he hn hx hy hz hz0 hd hd0 hps hpd hf hw hwhole hgood
  have hdmem : (Claims.performed t b q 0).dmem = putRows w.dmem (transposedBlock w.dmem ps z pd d n e) := by rw [ht]; rfl
  refine ⟨Claims.performed t b q 0, ?_, by rw [ht]; rfl, fun i j k hi hj hk => ?_, fun a ha => ?_⟩
  · rw [hop, runEngine_performs (k := 5) hs rfl (by decide), hcopy]
  · have hrow := getElem?_transposedRow (m := w.dmem) (a := ps) (z := z) hi hj hk hne
    obtain ⟨hlen, hrow⟩ := List.getElem?_eq_some_iff.1 hrow
    rw [hdmem, ← hrow, Nat.add_assoc (pd + j * d)]
    exact memByte_putRows_inside _ hlen hw.2.2 (transposedBlock_apart hne hd hd0) (List.mem_map_of_mem (List.mem_range.2 hj))
  · rw [hdmem]
    refine memByte_putRows_outside _ hw.2.2 fun p hp => ?_
    obtain ⟨j, hj, rfl⟩ := List.mem_map.1 hp
    rw [length_transposedRow (List.mem_range.1 hj) hne]
    exact ha j (List.mem_range.1 hj)

end

/-- Settles O51: the entry at the head reads and writes the pieces of device memory that its ranges lie in, and a block's rows are told apart by their pitch. -/
theorem copyAndCryptoEngines : Obligations.CopyAndCryptoEngines := by
  intro s u v w b q x y z ps pd part quiet readable
  refine ⟨?_, ?_, ?_, ?_, ?_, ?_, ?_⟩
  · intro op hop r hr h
    have hextra := fun f => runEngine_extra (f := f) (k := 3) h (by decide) hr
    rcases hop with rfl | rfl | rfl | rfl
    · show execCopy s = _
      rw [execCopy, hextra]
    · show execFill s = _
      rw [execFill, hextra]
    · show execSha512 s = _
      rw [execSha512, hextra]
    · show execRsaVerify s = _
      rw [execRsaVerify, hextra]
  · intro h hps hpd hq hxy _
    exact ⟨exec_copy_whole h hps hpd hq.1 hq.2 hxy, fun hbad => exec_copy_unreadable h hps hpd hq.2 (Bool.of_not_eq_false hbad)⟩
  · intro m k h hps hpd hw hm hk hmk hxy _ hgood
    exact exec_copy_part h hps hpd hw hm hk hmk hxy hgood
  · intro h hpd hq
    exact exec_fill h hpd hq.1 hq.2
  · intro op n d hop h hx hy hz hz0 hd hd0 _ hps hpd hq hgood
    rcases hop with ⟨rfl, rfl⟩ | ⟨rfl, rfl⟩
    · exact exec_copyBlocks rfl rfl rfl rfl h hx hy hz hz0 hd hd0 hps hpd hq.1 hq.2 hgood
    · exact exec_copyBlocks rfl rfl rfl rfl h hx hy hz hz0 hd hd0 hps hpd hq.1 hq.2 hgood
  · intro h hps hpd hq hgood
    exact exec_sha512 h hps hpd hq.1 hgood
  · intro u' pk h hps hpd hpk h0 h1 h2
    exact exec_rsaVerify h hps hpd hpk h0 h1 h2

end Sys2Proof.Proofs

namespace Sys2Proof.Proofs
open Sys2Proof.Machine

/-! ## Migration of a page whose table is sealed -/

section
variable {s u : State} {b : BitVec 6} {q : BitVec 4}

/-- R131: the entry of a leaf whose table lies in a sealed frame stays. -/
theorem mapEntries_sealed {at_ : Nat} (h : sealedAt s at_ 8 = true) (part : Nat) (f : Nat → DWord → DWord) : mapEntries s part at_ 1 f = s := by
  rw [mapEntries, List.range_one, List.foldl_cons, List.foldl_nil, Nat.mul_zero, Nat.add_zero, if_pos h]

theorem abortWhere_noTasks (h : s.tasks = []) (p : State → Task → Bool) : abortWhere s p = s := by
  rw [abortWhere, h, List.foldl_nil]

/-- A migration that finds its frame, of a leaf whose table is sealed, leaves device memory as it is. -/
theorem exec_migrate_sealed {va tier dst : Nat} {w : Walked} (hs : Claims.Commands s u b q .migrate [va, tier]) (hva : va < 2 ^ 57) (htier : tier < 3)
    (hleaf : leafOf u (partOfBlock s b.toNat) va = some w) (hmig : w.pte.getLsbD 10 = false) (hspan : w.pte.getLsbD 6 = false)
    (howned : framesOwned u (partOfBlock s b.toNat) w.pbase w.size = true) (hpinned : w.pte.getLsbD 5 = false)
    (hdst : freeFrame u (partOfBlock s b.toNat) tier w.size = some dst) (hgen : genBusy u.takeFree (partOfBlock s b.toNat) = false) (htasks : u.tasks = [])
    (hsealed : sealedAt u w.at_ 8 = true) : ∃ t, exec .migrate s = .next t ∧ t.dmem = u.dmem := by
  obtain ⟨part, hpart⟩ : ∃ part, part = partOfBlock s b.toNat := ⟨_, rfl⟩
  have hentry : mapEntries u.takeFree part w.at_ 1 (fun _ e => e ||| 0x400#64) = u.takeFree := mapEntries_sealed (s := u.takeFree) hsealed _ _
  have htasks' : (shootDown u.takeFree part w.vbase w.size).tasks = [] := htasks
  have hf := commands_focus hs
  have hfocus : (shootDown u.takeFree part w.vbase w.size).focus = .engine b q := hf
  have howned' : framesOwned u.takeFree part w.pbase w.size = true := by rw [hpart]; exact howned
  rw [← hpart] at hleaf hdst hgen
  show ∃ t, execMigrate s = .next t ∧ t.dmem = u.dmem
  rw [execMigrate, runEngine_performs (k := 2) hs rfl (by decide), ← hpart]
  simp only [List.getD_cons_zero, List.getD_cons_succ, Nat.not_le_of_lt hva, Nat.not_le_of_lt htier, if_false, hleaf, pteMig, hmig, pteSeal, hpinned,
    howned', hdst, hgen, leafEntries, pteSpan, hspan, hentry, abortHolders, abortWhere_noTasks htasks', hfocus, Bool.false_and, Bool.not_true, Bool.or_self,
    Bool.false_eq_true, engStop]
  exact ⟨_, rfl, rfl⟩

end

/-! ### The machine that refutes the statement -/

namespace SealedTable

/-- The machine of the migration of a page to tier 1, whose last table lies in a sealed frame. -/
def machine : State := { Tests.framesS 1 with sealed := [4] }

/-- It after reading the command. -/
def fetched : State := Tests.engU machine

theorem commands : Claims.Commands machine fetched 0 0 .migrate [0x1000, 1] := Tests.commandsOf _ _ _ (by decide +kernel)

theorem partOf : partOfBlock machine (0 : BitVec 6).toNat = 0 := by decide +kernel

theorem quiet : genBusy fetched.takeFree 0 = false ∧ fetched.tasks = [] ∧ memWf fetched.dmem = true ∧ tabRising none fetched.engines = true := by
  decide +kernel

/-- What the counterexample needs of the leaf: an entry that is neither marked, nor of a span, nor sealed, in a sealed frame, and a free frame of tier 1. -/
def fits (w : Walked) : Bool :=
  !w.pte.getLsbD 10 && !w.pte.getLsbD 6 && !w.pte.getLsbD 5 && framesOwned fetched 0 w.pbase w.size && !(freeFrames fetched 0 1 w.size).isEmpty &&
    sealedAt fetched w.at_ 8 && !(BitVec.ofNat 64 (memNat fetched.dmem w.at_ 8)).getLsbD 10

theorem leaf : (leafOf fetched 0 0x1000).any fits = true := by decide +kernel

end SealedTable

/-- Refutes O52: a migration whose leaf's table lies in a sealed frame leaves the entry unmarked (R131), where the statement has bit 10 set in it: the
machine with the one page table at 0x4000 and frame 4 sealed. -/
theorem not_collectivesAndMigration : ¬ Obligations.CollectivesAndMigration := by
  unfold Obligations.CollectivesAndMigration
  rintro ⟨-, hmigrate, -⟩
  obtain ⟨hgen, htasks, hmem, hrising⟩ := SealedTable.quiet
  obtain ⟨w, hleaf, hfits⟩ := (Option.any_eq_true _ _).1 SealedTable.leaf
  simp only [SealedTable.fits, Bool.and_eq_true, Bool.not_eq_true'] at hfits
  obtain ⟨⟨⟨⟨⟨⟨hmig, hspan⟩, hpinned⟩, howned⟩, hfree⟩, hsealed⟩, hclear⟩ := hfits
  obtain ⟨dst, hdst⟩ : ∃ dst, freeFrame SealedTable.fetched 0 1 w.size = some dst :=
    Option.isSome_iff_exists.1 (by rw [Tests.freeFrame_isSome, hfree]; rfl)
  obtain ⟨-, -, hmark⟩ := hmigrate SealedTable.machine SealedTable.fetched 0 0 0x1000 1 SealedTable.commands
  rw [SealedTable.partOf] at hmark
  obtain ⟨-, hmark⟩ := hmark w (by decide) (by decide) hleaf hmig hspan howned (fun h => absurd h (by rw [hpinned]; decide))
  obtain ⟨t, e, hexec, hread, hmarked, -⟩ := hmark dst hdst hgen htasks hmem hrising
  obtain ⟨t', hexec', hkept⟩ := exec_migrate_sealed (dst := dst) SealedTable.commands (by decide) (by decide) (by rw [SealedTable.partOf]; exact hleaf) hmig
    hspan (by rw [SealedTable.partOf]; exact howned) hpinned (by rw [SealedTable.partOf]; exact hdst) (by rw [SealedTable.partOf]; exact hgen) htasks hsealed
  obtain rfl : t = t' := Host.Outcome.next.inj (hexec.symm.trans hexec')
  -- what stands in memory is what the statement calls e, so bit 10 of the entry is both clear and set
  have hsame : BitVec.ofNat 64 (memNat SealedTable.fetched.dmem w.at_ 8) = e := by rw [← hkept, ← hread, BitVec.ofNat_toNat, BitVec.setWidth_eq]
  rw [hsame] at hmarked hclear
  have hset : e.getLsbD 10 = true := by rw [hmarked, BitVec.getLsbD_or, Bool.or_eq_true]; exact Or.inr rfl
  exact Bool.false_ne_true (hclear.symm.trans hset)

end Sys2Proof.Proofs

namespace Sys2Proof.Proofs
open Sys2Proof.Machine

/-! ## A cut of one of two tasks that share a number -/

namespace SharedNumber

/-- A second task of the number of the one that is cut; it uses no context. -/
def other : Machine.Task := { Tests.cuttingT with uses := [] }

/-- The machine whose task in focus has been cut and captured, beside the second of its number. -/
def machine : State := { Tests.cuttingS true false with tasks := [Tests.cuttingT, other] }

theorem onTask : Claims.OnTask machine Tests.cuttingT Tests.oneL where
  focus := rfl
  task := by simp [machine, State.task?]
  launch := rfl
  single := rfl
  unpair := (Tests.cutS_on Tests.cuttingT 0 rfl).unpair

theorem quiet : Claims.Quiet machine where
  requests := rfl
  unpair := (Tests.cutS_on Tests.cuttingT 0 rfl).unpair
  barriers := rfl

theorem captured : allReceived machine Tests.cuttingT = false ∧ cutDone machine Tests.cuttingT = true ∧ tabRising none machine.elems = true ∧
    Tests.cuttingT.uses.Nodup ∧ ∀ k ∈ Tests.cuttingT.uses, k < 2 ^ 18 ∧ (machine.elem (keyEa k) (keyCtx k)).task = some Tests.cuttingT.uid ∧
      (machine.elem (keyEa k) (keyCtx k)).armed = false := by decide +kernel

/-- The model records the contexts of the task in focus with both tasks. -/
theorem records : (Tests.next (exec .cutComplete machine)).tasks.map (fun t => t.saved.length) = [2, 2] := by decide +kernel

end SharedNumber

/-- Refutes O49: at the end of a cut the statement gives each task of the number its own contexts' records, where the model gives it those of the task in
focus (R245): two tasks share the number, the one in focus with two contexts, the other with none. -/
theorem not_cuttingRegions : ¬ Obligations.CuttingRegions := by
  unfold Obligations.CuttingRegions
  intro h
  obtain ⟨hreceived, hdone, hrising, hnodup, huses⟩ := SharedNumber.captured
  obtain ⟨-, -, -, -, -, -, -, -, hsuspend⟩ := h _ _ _ SharedNumber.onTask SharedNumber.quiet
  obtain ⟨u, area, hexec, htasks, -⟩ := hsuspend rfl hreceived hdone hrising rfl hnodup huses
  have hrecords := SharedNumber.records
  rw [hexec] at hrecords
  have hclaimed : u.tasks.map (fun t => t.saved.length) = [2, 0] := by rw [htasks]; rfl
  exact absurd (hclaimed.symm.trans hrecords) (by decide)

end Sys2Proof.Proofs

namespace Sys2Proof.Proofs
open Sys2Proof.Machine

/-! ## Events of the TD at a task -/

theorem onTask_runs {s : State} {t : Machine.Task} {l : Launch} (h : Claims.OnTask s t l) (f : State → Machine.Task → State) :
    onTask s f = .next (f s t) := onTask_next.2 ⟨t.uid, h.focus, by rw [h.task]; rfl⟩

theorem serveAll_noRequests {s : State} (h : s.plat.dbgReqs = []) : serveAll s = s := by
  simp only [serveAll, h, List.map_nil, List.dedup_nil, List.foldl_nil]

/-! ### Contexts changed one after the other -/

/-- The context of a key is context c of element ea. -/
abbrev keyAt (ea : EAddr) (c : BitVec 2) (k : Nat) : Prop := keyEa k = ea ∧ keyCtx k = c

theorem elem_modElem {s : State} {k : Nat} {f : ElemCtx → ElemCtx} (h : tabRising none s.elems = true) (ea : EAddr) (c : BitVec 2) :
    (s.modElem (keyEa k) (keyCtx k) f).elem ea c = if keyAt ea c k then f (s.elem ea c) else s.elem ea c := by
  split
  · next hk => rw [← hk.1, ← hk.2, elem_modElem_same h]
  · next hk => exact elem_modElem_other h fun he => hk ⟨(congrArg Prod.fst he).symm, (congrArg Prod.snd he).symm⟩

/-- A step that does f to the context of its key, and nothing to others. -/
structure ChangesContext {α : Type} (key : α → Nat) (f : α → ElemCtx → ElemCtx) (F : State → α → State) : Prop where
  rising : ∀ s a, tabRising none s.elems = true → tabRising none (F s a).elems = true
  elem   : ∀ s a ea c, tabRising none s.elems = true → (F s a).elem ea c = if keyAt ea c (key a) then f a (s.elem ea c) else s.elem ea c

section
variable {α : Type} {key : α → Nat} {f : α → ElemCtx → ElemCtx} {F : State → α → State}

/-- Steps one after the other do to a context what those of its key do. -/
theorem ChangesContext.foldl (hF : ChangesContext key f F) (ea : EAddr) (c : BitVec 2) (ks : List α) : ∀ {s : State}, tabRising none s.elems = true →
    (ks.foldl F s).elem ea c = (ks.filter (fun a => keyAt ea c (key a))).foldl (fun e a => f a e) (s.elem ea c) := by
  induction ks with
  | nil => exact fun _ => rfl
  | cons a ks ih =>
    intro s h
    rw [List.foldl_cons, ih (hF.rising s a h), hF.elem s a ea c h, List.filter_cons]
    simp only [decide_eq_true_eq]
    split <;> rfl

theorem ChangesContext.foldl_rising (hF : ChangesContext key f F) (ks : List α) : ∀ {s : State}, tabRising none s.elems = true →
    tabRising none (ks.foldl F s).elems = true := by
  induction ks with
  | nil => exact fun h => h
  | cons a ks ih => exact fun h => ih (hF.rising _ a h)

/-- A context that no key names stays. -/
theorem ChangesContext.foldl_other (hF : ChangesContext key f F) {ea : EAddr} {c : BitVec 2} {ks : List α} {s : State} (h : tabRising none s.elems = true)
    (hne : ∀ a ∈ ks, ¬ keyAt ea c (key a)) : (ks.foldl F s).elem ea c = s.elem ea c := by
  rw [hF.foldl ea c ks h, List.filter_eq_nil_iff.2 fun a ha => by rw [decide_eq_true_eq]; exact hne a ha]
  rfl

/-- Keys of contexts tell them apart. -/
theorem keyAt_unique {k k' : Nat} (hk : k < 2 ^ 18) (hk' : k' < 2 ^ 18) (h : keyAt (keyEa k') (keyCtx k') k) : k = k' := by
  obtain ⟨he, hc⟩ := h
  have he := congrArg BitVec.toNat he
  have hc := congrArg BitVec.toNat hc
  simp only [keyEa, keyCtx, BitVec.toNat_ofNat] at he hc
  omega

theorem filter_keyAt {ks : List α} (hlt : ∀ a ∈ ks, key a < 2 ^ 18) (hn : (ks.map key).Nodup) {a : α} (ha : a ∈ ks) :
    ks.filter (fun b => keyAt (keyEa (key a)) (keyCtx (key a)) (key b)) = [a] := by
  induction ks with
  | nil => cases ha
  | cons b ks ih =>
    rw [List.map_cons, List.nodup_cons] at hn
    obtain ⟨hb, hn⟩ := hn
    have hlt' : ∀ a ∈ ks, key a < 2 ^ 18 := fun a ha => hlt a (List.mem_cons_of_mem _ ha)
    rcases List.mem_cons.1 ha with rfl | ha
    · rw [List.filter_cons_of_pos (by rw [decide_eq_true_eq]; exact ⟨rfl, rfl⟩), List.filter_eq_nil_iff.2]
      intro d hd hkey
      rw [decide_eq_true_eq] at hkey
      exact hb (keyAt_unique (hlt' d hd) (hlt a List.mem_cons_self) hkey ▸ List.mem_map_of_mem hd)
    · rw [List.filter_cons_of_neg, ih hlt' hn ha]
      rw [decide_eq_true_eq]
      exact fun hkey => hb (keyAt_unique (hlt b List.mem_cons_self) (hlt' a ha) hkey ▸ List.mem_map_of_mem ha)

/-- Of distinct keys, each context is changed once. -/
theorem ChangesContext.foldl_same (hF : ChangesContext key f F) {ks : List α} {s : State} (h : tabRising none s.elems = true)
    (hlt : ∀ a ∈ ks, key a < 2 ^ 18) (hn : (ks.map key).Nodup) {a : α} (ha : a ∈ ks) :
    (ks.foldl F s).elem (keyEa (key a)) (keyCtx (key a)) = f a (s.elem (keyEa (key a)) (keyCtx (key a))) := by
  rw [hF.foldl _ _ ks h, filter_keyAt hlt hn ha]
  rfl

end

end Sys2Proof.Proofs

namespace Sys2Proof.Proofs
open Sys2Proof.Machine

/-! ## Tables: entries dropped or rewritten by their keys -/

section
variable {α : Type} {t : Tab α} {d : α}

theorem tabRising_tail {p : Nat × α} (h : tabRising none (p :: t) = true) : tabRising (some p.1) t = true := h

/-- A read after the entries of some keys have been dropped. -/
theorem tabGet_filter_key {P : Nat → Bool} (k : Nat) : ∀ {t : Tab α}, tabRising none t = true →
    tabGet (t.filter (fun p => P p.1)) k d = if P k then tabGet t k d else d
  | [], _ => by simp [tabGet]
  | (a, x) :: t, h => by
    have hbelow : ∀ k ≤ a, tabGet t k d = d := fun k hk => tabGet_below (tabRising_tail h) hk
    have ih := tabGet_filter_key (P := P) k (tabRising_none (tabRising_tail h))
    by_cases ha : P a
    · rw [List.filter_cons_of_pos (p := fun p : Nat × α => P p.1) ha, tabGet, tabGet, ih]
      by_cases hk : k = a
      · simp [hk, ha]
      · rw [if_neg hk, if_neg hk]
        by_cases hkey : P k
        · rw [if_pos hkey, if_pos hkey]
        · rw [if_neg hkey, if_neg hkey, ite_self]
    · rw [List.filter_cons_of_neg (p := fun p : Nat × α => P p.1) ha, ih, tabGet]
      split
      · next hk =>
        have hne : k ≠ a := fun he => ha (he ▸ hk)
        rw [if_neg hne]
        split
        · next hlt => exact hbelow k (Nat.le_of_lt hlt)
        · rfl
      · rfl

theorem tabGet_of_mem : ∀ {t : Tab α}, tabRising none t = true → ∀ p ∈ t, tabGet t p.1 d = p.2
  | q :: t, h, p, hp => by
    rw [tabGet]
    rcases List.mem_cons.1 hp with rfl | hp
    · exact if_pos rfl
    · have hlt := lt_of_mem_rising (tabRising_tail h) p hp
      rw [if_neg (by omega), if_neg (by omega)]
      exact tabGet_of_mem (tabRising_none (tabRising_tail h)) p hp

theorem nodup_keys : ∀ {t : Tab α}, tabRising none t = true → (t.map Prod.fst).Nodup
  | [], _ => List.nodup_nil
  | p :: t, h => by
    refine List.nodup_cons.2 ⟨fun hp => ?_, nodup_keys (tabRising_none (tabRising_tail h))⟩
    obtain ⟨q, hq, he⟩ := List.mem_map.1 hp
    exact absurd (lt_of_mem_rising (tabRising_tail h) q hq) (by omega)

/-- A read of a table all of whose entries have been rewritten. -/
theorem tabGet_rebuilt_keyed [DecidableEq α] {g : Nat → α → α} (k : Nat) (hd : g k d = d) (h : tabRising none t = true) :
    tabGet (t.foldl (fun acc p => tabSet acc p.1 (g p.1 p.2) d) []) k d = g k (tabGet t k d) := by
  have hkeys : t.foldl (fun acc p => tabSet acc p.1 (g p.1 p.2) d) [] =
      (t.map Prod.fst).foldl (fun acc c => tabMod acc c d (fun _ => g c (tabGet t c d))) [] := by
    rw [List.foldl_map]
    exact List.foldl_ext _ _ _ fun acc p hp => by rw [tabMod, tabGet_of_mem h p hp]
  rw [hkeys, tabGet_foldl_tabMod _ (nodup_keys h) rfl k]
  split
  · rfl
  · next hk => rw [tabGet_absent hk, hd]; rfl

end

/-! ## Destructive unloads -/

theorem keyEa_elemKey (ea : EAddr) (c : BitVec 2) : keyEa (elemKey ea c) = ea := by
  refine BitVec.eq_of_toNat_eq ?_
  rw [keyEa, elemKey, BitVec.toNat_ofNat]
  omega

section
variable {s : State} {p : SiteNo → Bool}

theorem elem_resetSites (h : tabRising none s.elems = true) (ea : EAddr) (c : BitVec 2) :
    (resetSites s p).elem ea c = if p (eaSite ea) then ElemCtx.reset else s.elem ea c := by
  show tabGet (s.elems.filter _) _ _ = _
  rw [tabGet_filter_key (P := fun k => !p (eaSite (keyEa k))) _ h]
  simp only [keyEa_elemKey]
  cases p (eaSite ea) <;> rfl

theorem cleared_reset : Site.reset.cleared = Site.reset := rfl

theorem site_resetSites (h : tabRising none s.sites = true) (n : SiteNo) :
    (resetSites s p).site n = if p n then (s.site n).cleared else s.site n := by
  show tabGet (s.sites.foldl _ []) _ _ = _
  rw [tabGet_rebuilt_keyed (g := fun k v => if p (BitVec.ofNat 13 k) then v.cleared else v) _ (by simp only [cleared_reset, ite_self]) h]
  simp only [BitVec.ofNat_toNat, BitVec.setWidth_eq]
  rfl

theorem memByte_resetSites (h : tabRising none s.spad = true) (n : SiteNo) {o : Nat} (ho : o < 2 ^ 21) :
    memByte (resetSites s p).spad (n.toNat * 2 ^ 21 + o) = if p n then 0 else memByte s.spad (n.toNat * 2 ^ 21 + o) := by
  show tabGet (s.spad.filter _) _ _ = _
  rw [tabGet_filter_key (P := fun k => !p (BitVec.ofNat 13 (k / 2 ^ 21))) _ h, show (n.toNat * 2 ^ 21 + o) / 2 ^ 21 = n.toNat by omega]
  simp only [BitVec.ofNat_toNat, BitVec.setWidth_eq]
  cases p n <;> rfl

end

section
variable {s : State} {b : BitVec 6}

/-- R256: the block after an unload whose block no live task uses. -/
def unloaded (s : State) (b : BitVec 6) : State :=
  let r := (resetSites s (fun n => siteBlock n == b.toNat)).setSq b Sq.reset
  { r with
    lram := s.lram.filter (fun c => c.1 / 4096 != b.toNat)
    engines := s.engines.filter (fun p => p.1 / 16 != b.toNat)
    plat := { s.plat with debugOk := none, readout := some (readBlock s b), unloads := s.plat.unloads ++ [{ blk := b.toNat, time := s.time }] } }

theorem exec_destructiveUnload_refused (h : s.plat.debugOk ≠ some b) : exec (.destructiveUnload b) s = .next s := by
  show execDestructiveUnload b s = _
  rw [execDestructiveUnload, if_pos h]

theorem exec_destructiveUnload (h : s.plat.debugOk = some b) (hfree : ∀ t ∈ s.tasks, ∀ k ∈ t.uses, siteBlock (eaSite (keyEa k)) ≠ b.toNat) :
    exec (.destructiveUnload b) s = .next (unloaded s b) := by
  have hhit : s.tasks.filter (fun t => taskInBlock t b.toNat) = [] := List.filter_eq_nil_iff.2 fun t ht => by
    simp only [taskInBlock, Bool.and_eq_true, List.any_eq_true, beq_iff_eq]
    rintro ⟨-, k, hk, hin⟩
    exact hfree t ht k hk hin
  show execDestructiveUnload b s = _
  rw [execDestructiveUnload, if_neg (not_not_intro h), hhit]
  rfl

theorem engine_unloaded (h : tabRising none s.engines = true) (c : BitVec 6) (q : BitVec 4) :
    (unloaded s b).engine c q = if c = b then EngQueue.reset else s.engine c q := by
  show tabGet (s.engines.filter _) _ _ = _
  rw [tabGet_filter_key (P := fun k => k / 16 != b.toNat) _ h, show (c.toNat * 16 + q.toNat) / 16 = c.toNat by omega]
  by_cases hc : c = b
  · rw [if_pos hc, hc, if_neg (by simp)]
  · rw [if_neg hc, if_pos (by rw [bne_iff_ne]; exact fun he => hc (BitVec.eq_of_toNat_eq he))]
    rfl

theorem sq_unloaded (h : tabRising none s.sqs = true) (c : BitVec 6) : (unloaded s b).sq c = if c = b then Sq.reset else s.sq c := by
  show tabGet (tabSet s.sqs b.toNat Sq.reset Sq.reset) c.toNat Sq.reset = _
  rw [tabGet_tabSet h]
  simp only [BitVec.toNat_inj]
  rfl

theorem lram_unloaded (h : tabRising none s.lram = true) (a : Nat) :
    memByte (unloaded s b).lram a = if a / 4096 = b.toNat then 0 else memByte s.lram a := by
  show tabGet (s.lram.filter _) _ _ = _
  rw [tabGet_filter_key (P := fun k => k / 4096 != b.toNat) _ h]
  by_cases ha : a / 4096 = b.toNat
  · rw [if_pos ha, if_neg (by simp [ha])]; rfl
  · rw [if_neg ha, if_pos (by simp [ha])]; rfl

end

/-! ## Answers to faults -/

section
variable {s : State} {n : BitVec 8} {x : BitVec 32} {st : BitVec 16} {f : PageFault}

theorem exec_resumeDoorbell_unknown (h : ∀ f ∈ (s.part n.toNat).faults, ¬ (f.fseq = x.toNat ∧ f.posted = true)) :
    exec (.resumeDoorbell n x st) s = .next s := by
  have hnone : (s.part n.toNat).faults.find? (fun f => f.fseq == x.toNat && f.posted) = none :=
    List.find?_eq_none.2 fun f hf => by rw [Bool.and_eq_true, beq_iff_eq]; exact h f hf
  show execResumeDoorbell n x st s = _
  rw [execResumeDoorbell]
  simp only [hnone]

/-- What no status of an answer names, and status 3 where a frame is free, changes nothing. -/
theorem exec_resumeDoorbell_ignored (h : st.toNat = 0 ∨ 3 < st.toNat ∨
    st.toNat = 3 ∧ ∀ f ∈ (s.part n.toNat).faults, needsFrame s n.toNat f = false) : exec (.resumeDoorbell n x st) s = .next s := by
  show execResumeDoorbell n x st s = _
  rw [execResumeDoorbell]
  cases hfind : (s.part n.toNat).faults.find? (fun f => f.fseq == x.toNat && f.posted) with
  | none => rfl
  | some f =>
    dsimp only
    split
    · omega
    · omega
    · omega
    · omega
    · next hneeds _ =>
      rcases h with h | h | ⟨-, h⟩
      · omega
      · omega
      · rw [h f (List.mem_of_find?_eq_some hfind)] at hneeds
        cases hneeds
    · rfl

/-- The fault's number names the posted fault, the only one. -/
theorem exec_resumeDoorbell_answer (hfaults : (s.part n.toNat).faults = [f]) (hx : f.fseq = x.toNat) (hposted : f.posted = true)
    (hst : st.toNat = 2 ∨ st.toNat = 1 ∧ needsFrame s n.toNat f = false ∨ st.toNat = 3 ∧ needsFrame s n.toNat f = true ∧ victim s n.toNat f = none) :
    exec (.resumeDoorbell n x st) s = .next (answerFault s n.toNat f st.toNat) := by
  have hfind : (s.part n.toNat).faults.find? (fun f => f.fseq == x.toNat && f.posted) = some f := by
    rw [hfaults, List.find?_cons_of_pos (by rw [hx, hposted, beq_self_eq_true]; rfl)]
  show execResumeDoorbell n x st s = _
  rw [execResumeDoorbell]
  simp only [hfind]
  generalize needsFrame s n.toNat f = needs at hst ⊢
  generalize victim s n.toNat f = page at hst ⊢
  rcases hst with h | ⟨h, rfl⟩ | ⟨h, rfl, rfl⟩
  · rw [h]
    cases needs <;> cases page <;> rfl
  · rw [h]
    cases page <;> rfl
  · rw [h]
    rfl

theorem answerFault_alone {status : Nat} (hfaults : (s.part n.toNat).faults = [f]) (htasks : s.tasks = [])
    (hsealed : sealedAt s ((s.part n.toNat).fqBase.toNat + 32 * f.slot + 28) 2 = false) :
    answerFault s n.toNat f status =
      { s.setPart n.toNat { s.part n.toNat with faults := [{ f with status := status }] } with
        dmem := memSetNat s.dmem ((s.part n.toNat).fqBase.toNat + 32 * f.slot + 28) 2 status } := by
  have hwrite : firmwareWrite s ((s.part n.toNat).fqBase.toNat + 32 * f.slot + 28) (natToBytes 2 status) =
      { s with dmem := memSetNat s.dmem ((s.part n.toNat).fqBase.toNat + 32 * f.slot + 28) 2 status } := by
    rw [firmwareWrite, length_natToBytes, hsealed]
    rfl
  simp only [answerFault, hwrite, htasks, List.map_nil]
  rw [← htasks]
  show { s with dmem := _ }.setPart n.toNat { s.part n.toNat with faults := (s.part n.toNat).faults.map _ } = _
  rw [hfaults, List.map_cons, List.map_nil, if_pos rfl]
  rfl

end
end Sys2Proof.Proofs

namespace Sys2Proof.Proofs
open Sys2Proof.Machine

/-! ## The end of a task that is all there is -/

section
variable {s : State} {t : Machine.Task} {l : Launch}

/-- R249: objects that a task does not park stay as they are. -/
theorem unparkFor_noParker {uid : Nat} (h : ∀ p ∈ s.barriers, p.2.parkers.contains uid = false) : unparkFor s uid = s := by
  have hmine : s.barriers.filter (fun p => p.2.parkers.contains uid) = [] := List.filter_eq_nil_iff.2 fun p hp => by rw [h p hp]; decide
  unfold unparkFor
  rw [hmine]
  rfl

/-- A task that holds none of its contexts leaves none. -/
theorem clearTask_noneHeld (h : ∀ k ∈ t.uses, (s.elem (keyEa k) (keyCtx k)).task ≠ some t.uid) : clearTask s t = s := by
  unfold clearTask
  generalize t.uses = ks at h
  induction ks with
  | nil => rfl
  | cons k ks ih =>
    have hk := h k List.mem_cons_self
    rw [List.foldl_cons]
    dsimp only
    rw [if_pos (bne_iff_ne.2 hk)]
    exact ih fun j hj => h j (List.mem_cons_of_mem _ hj)

theorem inheritFrom_noSuccessors {uid : Nat} (h : successorsOf s uid = []) : inheritFrom s uid = s := by
  rw [inheritFrom, h, List.foldl_nil]

/-- A ring without room takes no entry. -/
theorem drainCompletions_full {q : BitVec 12} (h : (s.queue q).full = true) (n : Nat) : drainCompletions s q n = s := by
  cases n with
  | zero => rfl
  | succ n =>
    rw [drainCompletions]
    split
    · rfl
    · rw [if_pos h]

/-- A queue with a completion entry held. -/
def heldEntry (c : Completion) (w : WorkQueue) : WorkQueue := { w with held := w.held ++ [c.word] }

theorem complete_ringFull {q : BitVec 12} (hq : tabRising none s.queues = true) (h : Claims.ringFull s q) (c : Completion) :
    complete s q c = s.modQueue q (heldEntry c) := by
  have hfull : ((s.modQueue q (heldEntry c)).queue q).full = true := by
    rw [queue_modQueue_same hq]
    exact decide_eq_true h
  exact drainCompletions_full hfull _

theorem entryHeld_modQueue {u : State} {q : BitVec 12} (hq : tabRising none s.queues = true) (c : Completion)
    (hu : u.queues = (s.modQueue q (heldEntry c)).queues) : Claims.entryHeld s u q (s.queue q).en c := by
  have hqueue : ∀ k, u.queue k = (s.modQueue q (heldEntry c)).queue k := fun k => by rw [State.queue, hu]; rfl
  exact ⟨by rw [hqueue, queue_modQueue_same hq]; rfl, fun k hk => by rw [hqueue]; exact queue_modQueue_other hq _ hk⟩

theorem launch_ord (h : s.launch? (t.uid / 2 ^ 32) = some l) : l.ord = t.uid / 2 ^ 32 := by
  have := List.find?_some h
  exact beq_iff_eq.1 this

theorem successorsOf_sole (hs : Claims.Sole s t l) : successorsOf s t.uid = [] := by
  rw [successorsOf, hs.tasks, List.filter_cons_of_neg, List.filter_nil]
  rw [Bool.and_eq_true, beq_iff_eq]
  exact fun h => hs.alone h.1

theorem taskUnit_single (h : Claims.OnTask s t l) : taskUnit s t = [t] := by
  simp only [taskUnit, taskLaunch, h.launch, h.single, Bool.false_eq_true, if_false]

/-- The completion entry of a task that ends with a class. -/
def entryOf (t : Machine.Task) (l : Launch) (e : EndWith) : Completion :=
  { tindex := t.index, ord := l.ord, tstamp := l.tstamp, cls := e.cls.toNat
    flags := (if l.late.isSome then 1 else 0) + (if t.spldn then 2 else 0) + (if t.irrev then 4 else 0), reason := e.reason.toNat
    unit := e.unit.toNat, detail := e.detail.toNat, addr := e.addr.toNat }

theorem taskCompletion_sole (h : Claims.OnTask s t l) (hs : Claims.Sole s t l) (hq : tabRising none s.queues = true) (hring : Claims.ringFull s l.queue)
    (e : EndWith) : taskCompletion s t e.cls.toNat e.reason.toNat e.unit.toNat e.detail.toNat e.addr.toNat = s.modQueue l.queue (heldEntry (entryOf t l e)) := by
  obtain ⟨-, -, hord⟩ := hs.one
  have hflags : taskFlags s t = (entryOf t l e).flags := by simp only [taskFlags, taskLaunch, h.launch, Option.elim_some, entryOf]
  simp only [taskCompletion, taskLaunch, h.launch, lsTwin, Nat.not_le_of_lt hord, if_false, hflags]
  exact complete_ringFull hq hring _

/-- The last task of a launch takes it along. -/
theorem retireTask_last {u : State} {t' : Machine.Task} (huid : t'.uid = t.uid) (hord : l.ord = t.uid / 2 ^ 32) (hone : l.total = 1 ∧ l.ended = 0)
    (htasks : u.tasks = [t']) (hlaunches : u.launches = [l]) : retireTask u t.uid = { u with tasks := [], launches := [] } := by
  obtain ⟨htotal, hended⟩ := hone
  simp only [retireTask, State.modTask, State.modLaunch, State.launch?, htasks, hlaunches, List.map_cons, List.map_nil, huid, hord, if_true, List.find?_cons,
    beq_self_eq_true, htotal, hended, Nat.zero_add, Nat.le_refl, List.filter_cons, bne_self_eq_false, Bool.false_eq_true, if_false, List.filter_nil]

/-- R153: a task that is all there is ends with a class, and its entry waits for room in the ring. -/
theorem endWith_sole (h : Claims.OnTask s t l) (hs : Claims.Sole s t l) (hbar : s.barriers = [])
    (hfree : ∀ k ∈ t.uses, (s.elem (keyEa k) (keyCtx k)).task ≠ some t.uid) (hq : tabRising none s.queues = true) (hring : Claims.ringFull s l.queue)
    (e : EndWith) : endWith s t.uid e = { s with tasks := [], launches := [], queues := (s.modQueue l.queue (heldEntry (entryOf t l e))).queues } := by
  obtain ⟨htotal, hended, -⟩ := hs.one
  have hpark : unparkFor s t.uid = s := unparkFor_noParker fun p hp => by rw [hbar] at hp; cases hp
  simp only [endWith, h.task, taskUnit_single h, List.foldl_cons, List.foldl_nil, hpark, clearTask_noneHeld hfree, inheritFrom_noSuccessors (successorsOf_sole hs),
    taskCompletion_sole h hs hq hring]
  have htasks : ((s.modQueue l.queue (heldEntry (entryOf t l e))).modTask t.uid (fun u => { u with cb := [], uses := [] })).tasks = [{ t with cb := [], uses := [] }] := by
    show s.tasks.map _ = _
    rw [hs.tasks, List.map_cons, List.map_nil, if_pos rfl]
  exact retireTask_last (t' := { t with cb := [], uses := [] }) rfl (launch_ord h.launch) ⟨htotal, hended⟩ htasks hs.launches

end

/-! ## Frozen regions -/

section
variable {s : State} {t : Machine.Task} {l : Launch} {e : EndWith}

theorem keyLt_irrefl (k : Key) : keyLt k k = false := by simp [keyLt]

theorem oldest_sole (hs : Claims.Sole s t l) : oldest s t = true := by
  rw [oldest, hs.tasks]
  simp only [List.all_cons, List.all_nil, precedes, keyLt_irrefl, Bool.and_false, Bool.not_false, Bool.and_self]

theorem exec_regionFrozen (h : Claims.OnTask s t l) (hquiet : Claims.Quiet s) (hs : Claims.Sole s t l) (hfault : t.fault = some e) (huses : t.uses = [])
    (hq : tabRising none s.queues = true) (hring : Claims.ringFull s l.queue) (hphase : t.phase = .freezing) (htime : t.lastFire + 256 ≤ s.time) :
    exec .regionFrozen s = .next { s with tasks := [], launches := [], queues := (s.modQueue l.queue (heldEntry (entryOf t l e))).queues } := by
  show execRegionFrozen s = _
  rw [execRegionFrozen, onTask_runs h]
  simp only [hfault, hphase, htime, oldest_sole hs, or_true, and_self, if_true, serveAll_noRequests hquiet.requests]
  rw [endWith_sole h hs hquiet.barriers (by rw [huses]; exact fun k hk => absurd hk List.not_mem_nil) hq hring]

theorem exec_regionFrozen_waits (h : Claims.OnTask s t l) (hfault : t.fault = some e) (hwait : t.phase ≠ .freezing ∨ s.time < t.lastFire + 256) :
    exec .regionFrozen s = .next s := by
  show execRegionFrozen s = _
  rw [execRegionFrozen, onTask_runs h]
  simp only [hfault]
  rw [if_neg]
  rintro ⟨hphase, htime, -⟩
  rcases hwait with hwait | hwait
  · exact hwait hphase
  · omega

end
end Sys2Proof.Proofs

namespace Sys2Proof.Proofs
open Sys2Proof.Machine

/-! ## Restores -/

/-! ### Records -/

/-- What is read back are the contexts asked for, in order. -/
theorem readContexts_keys {cut : Word} : ∀ {keys : List Nat} {l : List Byte} {m : List (Nat × ElemCtx)}, readContexts cut keys l = some m → m.map Prod.fst = keys
  | [], _, m, h => by
    rw [readContexts] at h
    cases h
    rfl
  | key :: rest, l, m, h => by
    rw [readContexts] at h
    split at h
    · cases h
    · split at h
      · cases h
      · obtain ⟨x, -, h⟩ := Option.bind_eq_some_iff.1 h
        obtain ⟨vs, hvs, rfl⟩ := Option.map_eq_some_iff.1 h
        rw [List.map_cons, readContexts_keys hvs]

/-! ### What each part of a restore changes -/

theorem foldl_restoreCtx_only (s : State) (t : Machine.Task) (m : List (Nat × ElemCtx)) :
    m.foldl (fun s v => restoreCtx s t v) s =
      { s with elems := (m.foldl (fun s v => restoreCtx s t v) s).elems, sites := (m.foldl (fun s v => restoreCtx s t v) s).sites } :=
  List.foldlRecOn (motive := fun u : State => u = { s with elems := u.elems, sites := u.sites }) m _ rfl fun _ hu _ _ => by rw [hu]; rfl

theorem bindExps_only (s : State) (l : List (Nat × Nat)) : bindExps s l = { s with barriers := (bindExps s l).barriers } := by
  unfold bindExps
  exact List.foldlRecOn (motive := fun u : State => u = { s with barriers := u.barriers }) l _ rfl fun _ hu _ _ => by rw [hu]; rfl

theorem resetLinks_only (s : State) (t : Machine.Task) : resetLinks s t = { s with links := (resetLinks s t).links } := by
  unfold resetLinks
  extract_lets dies
  split
  · rfl
  · exact List.foldlRecOn (motive := fun u : State => u = { s with links := u.links }) _ _ rfl fun _ hu _ _ => by rw [hu]; rfl

theorem foldl_staleCtx_only (s : State) (m : List (Nat × ElemCtx)) :
    m.foldl (fun s v => staleCtx s v.1) s = { s with elems := (m.foldl (fun s v => staleCtx s v.1) s).elems } :=
  List.foldlRecOn (motive := fun u : State => u = { s with elems := u.elems }) m _ rfl fun _ hu _ _ => by rw [hu]; rfl

/-- The step that lets the operators of a context fire. -/
def releaseStep (s : State) (v : Nat × ElemCtx) : State := s.modElem (keyEa v.1) (keyCtx v.1) (fun e => { e with released := true })

theorem foldl_releaseStep_only (s : State) (m : List (Nat × ElemCtx)) : m.foldl releaseStep s = { s with elems := (m.foldl releaseStep s).elems } :=
  List.foldlRecOn (motive := fun u : State => u = { s with elems := u.elems }) m _ rfl fun _ hu _ _ => by rw [hu]; rfl

theorem setPtrs_only (s : State) (t : Machine.Task) : setPtrs s t = { s with sites := (setPtrs s t).sites } := by
  unfold setPtrs
  exact List.foldlRecOn (motive := fun u : State => u = { s with sites := u.sites }) t.uses _ rfl fun _ hu _ _ => by rw [hu]; rfl

/-! ### Barrier objects -/

section
variable {s : State}

theorem nodup_zip {α β : Type} : ∀ {l : List α} {l' : List β}, l.Nodup → ((l.zip l').map Prod.fst).Nodup
  | [], _, _ => List.nodup_nil
  | _ :: _, [], _ => List.nodup_nil
  | a :: l, b :: l', h => by
    obtain ⟨ha, hl⟩ := List.nodup_cons.1 h
    refine List.nodup_cons.2 ⟨fun hmem => ?_, nodup_zip hl⟩
    obtain ⟨p, hp, rfl⟩ := List.mem_map.1 hmem
    exact ha (List.of_mem_zip hp).1

theorem barrier_bindExps_other {o : Nat} : ∀ {s : State} {l : List (Nat × Nat)}, tabRising none s.barriers = true → (∀ x ∈ l, x.1 ≠ o) →
    (bindExps s l).barrier o = s.barrier o
  | _, [], _, _ => rfl
  | s, x :: l, h, hne => by
    have hrest := barrier_bindExps_other (s := s.setBarrier x.1 { s.barrier x.1 with exp := BitVec.ofNat 24 x.2 }) (l := l) (tabSet_risingNone h)
      fun y hy => hne y (List.mem_cons_of_mem _ hy)
    exact hrest.trans (tabGet_tabSet_other h (hne x List.mem_cons_self).symm)

/-- Distinct objects are bound one by one. -/
theorem barrier_bindExps : ∀ {s : State} {l : List (Nat × Nat)}, tabRising none s.barriers = true → (l.map Prod.fst).Nodup → ∀ x ∈ l,
    (bindExps s l).barrier x.1 = { s.barrier x.1 with exp := BitVec.ofNat 24 x.2 }
  | s, y :: l, h, hn, x, hx => by
    obtain ⟨hy, hn⟩ := List.nodup_cons.1 hn
    have hrising : tabRising none (s.setBarrier y.1 { s.barrier y.1 with exp := BitVec.ofNat 24 y.2 }).barriers = true := tabSet_risingNone h
    rcases List.mem_cons.1 hx with rfl | hx
    · exact (barrier_bindExps_other hrising fun z hz he => hy (List.mem_map.2 ⟨z, hz, he⟩)).trans (tabGet_tabSet_same h)
    · have hne : x.1 ≠ y.1 := fun he => hy (he ▸ List.mem_map_of_mem hx)
      have hsame : (s.setBarrier y.1 { s.barrier y.1 with exp := BitVec.ofNat 24 y.2 }).barrier x.1 = s.barrier x.1 := tabGet_tabSet_other h hne
      exact (barrier_bindExps hrising hn x hx).trans (by rw [hsame])

/-- What every value of a table fulfils, and one that is put, every value fulfils after. -/
theorem forall_mem_tabSet {α : Type} [DecidableEq α] {P : α → Prop} {v d : α} (hv : P v) {k : Nat} : ∀ {t : Tab α}, (∀ p ∈ t, P p.2) →
    ∀ p ∈ tabSet t k v d, P p.2
  | [], _, p, hp => by
    unfold tabSet at hp
    split at hp
    · cases hp
    · obtain rfl := List.mem_singleton.1 hp
      exact hv
  | (k', v') :: t, h, p, hp => by
    have hhead := h _ List.mem_cons_self
    have htail : ∀ p ∈ t, P p.2 := fun p hp => h p (List.mem_cons_of_mem _ hp)
    have hput : ∀ p ∈ (k, v) :: t, P p.2 := List.forall_mem_cons.2 ⟨hv, htail⟩
    unfold tabSet at hp
    split at hp
    · split at hp
      · exact h p hp
      · exact List.forall_mem_cons (p := fun p => P p.2).2 ⟨hv, h⟩ p hp
    · split at hp
      · split at hp
        · exact htail p hp
        · exact hput p hp
      · exact List.forall_mem_cons (p := fun p => P p.2).2 ⟨hhead, forall_mem_tabSet hv htail⟩ p hp

theorem tabGet_of_forall {α : Type} {P : α → Prop} {d : α} (hd : P d) {k : Nat} : ∀ {t : Tab α}, (∀ p ∈ t, P p.2) → P (tabGet t k d)
  | [], _ => hd
  | (k', v) :: t, h => by
    rw [tabGet]
    split
    · exact h _ List.mem_cons_self
    · split
      · exact hd
      · exact tabGet_of_forall hd fun p hp => h p (List.mem_cons_of_mem _ hp)

/-- Binding parks no object. -/
theorem bindExps_parkers : ∀ {s : State} {l : List (Nat × Nat)}, (∀ p ∈ s.barriers, p.2.parkers = []) → ∀ p ∈ (bindExps s l).barriers, p.2.parkers = []
  | _, [], h => h
  | s, x :: l, h => by
    have hx : (s.barrier x.1).parkers = [] := tabGet_of_forall (P := fun b : Barrier => b.parkers = []) rfl h
    exact bindExps_parkers (s := s.setBarrier x.1 { s.barrier x.1 with exp := BitVec.ofNat 24 x.2 }) (l := l)
      (forall_mem_tabSet (P := fun b : Barrier => b.parkers = []) (v := { s.barrier x.1 with exp := BitVec.ofNat 24 x.2 }) hx h)

end

/-! ### Contexts -/

section
variable {s : State} {t : Machine.Task}

/-- A context put back: held by the task, and not released yet. -/
def putBack (t : Machine.Task) (v : Nat × ElemCtx) : ElemCtx :=
  let go := (t.saved.filter (fun x => x.key == v.1)).flatMap (·.go)
  let e := go.foldl (fun e n => e.setOp n { e.op n with sel := some true }) v.2
  { e with task := some t.uid, released := false }

theorem foldl_setOp_only (l : List Nat) : ∀ e : ElemCtx, ∃ ops, l.foldl (fun e n => e.setOp n { e.op n with sel := some true }) e = { e with ops := ops } := by
  induction l with
  | nil => exact fun e => ⟨e.ops, rfl⟩
  | cons n l ih =>
    intro e
    obtain ⟨ops, h⟩ := ih (e.setOp n { e.op n with sel := some true })
    exact ⟨ops, h⟩

theorem putBack_only (t : Machine.Task) (v : Nat × ElemCtx) : ∃ ops, putBack t v = { v.2 with ops := ops, task := some t.uid, released := false } := by
  obtain ⟨ops, h⟩ := foldl_setOp_only ((t.saved.filter (fun x => x.key == v.1)).flatMap (·.go)) v.2
  exact ⟨ops, by rw [putBack, h]⟩

theorem changesContext_restoreCtx : ChangesContext Prod.fst (fun v _ => putBack t v) (fun s v => restoreCtx s t v) where
  rising _ _ h := tabSet_risingNone h
  elem _ v ea c h := elem_modElem (k := v.1) (f := fun _ => putBack t v) h ea c

theorem changesContext_release : ChangesContext Prod.fst (fun (_ : Nat × ElemCtx) e => { e with released := true }) releaseStep where
  rising _ _ h := tabSet_risingNone h
  elem _ _ ea c h := elem_modElem h ea c

theorem staleCtx_rising (h : tabRising none s.elems = true) (k : Nat) : tabRising none (staleCtx s k).elems = true := tabSet_risingNone h

theorem elem_staleCtx_other {k : Nat} {ea : EAddr} {c : BitVec 2} (h : tabRising none s.elems = true) (hk : ¬ keyAt ea c k) :
    (staleCtx s k).elem ea c = s.elem ea c := by
  exact tabGet_tabSet_other h fun he => hk ⟨(congrArg Prod.fst (elemKey_injective he)).symm, (congrArg Prod.snd (elemKey_injective he)).symm⟩

/-- Marking tokens stale touches queues and operators. -/
theorem elem_staleCtx (h : tabRising none s.elems = true) (k : Nat) (ea : EAddr) (c : BitVec 2) :
    ∃ inq ops, (staleCtx s k).elem ea c = { s.elem ea c with inq := inq, ops := ops } := by
  by_cases hk : keyAt ea c k
  · obtain ⟨rfl, rfl⟩ := hk
    exact ⟨_, _, tabGet_tabSet_same h⟩
  · exact ⟨(s.elem ea c).inq, (s.elem ea c).ops, elem_staleCtx_other h hk⟩

/-- The contexts of the records after all have been marked. -/
theorem elem_foldl_staleCtx (ea : EAddr) (c : BitVec 2) (m : List (Nat × ElemCtx)) : ∀ {s : State}, tabRising none s.elems = true →
    ∃ inq ops, (m.foldl (fun s v => staleCtx s v.1) s).elem ea c = { s.elem ea c with inq := inq, ops := ops } := by
  induction m with
  | nil => exact fun _ => ⟨_, _, rfl⟩
  | cons v m ih =>
    intro s h
    obtain ⟨inq, ops, hrest⟩ := ih (staleCtx_rising h v.1)
    obtain ⟨inq', ops', hv⟩ := elem_staleCtx h v.1 ea c
    exact ⟨inq, ops, hrest.trans (by rw [hv])⟩

theorem foldl_staleCtx_rising (m : List (Nat × ElemCtx)) : ∀ {s : State}, tabRising none s.elems = true →
    tabRising none (m.foldl (fun s v => staleCtx s v.1) s).elems = true := by
  induction m with
  | nil => exact fun h => h
  | cons v m ih => exact fun h => ih (staleCtx_rising h v.1)

theorem elem_foldl_staleCtx_other {ea : EAddr} {c : BitVec 2} (m : List (Nat × ElemCtx)) : ∀ {s : State}, tabRising none s.elems = true →
    (∀ v ∈ m, ¬ keyAt ea c v.1) → (m.foldl (fun s v => staleCtx s v.1) s).elem ea c = s.elem ea c := by
  induction m with
  | nil => exact fun _ _ => rfl
  | cons v m ih =>
    exact fun h hne => (ih (staleCtx_rising h v.1) fun w hw => hne w (List.mem_cons_of_mem _ hw)).trans (elem_staleCtx_other h (hne v List.mem_cons_self))

end

/-! ### A restore from records -/

section
variable {s : State} {t : Machine.Task} {l : Launch} {m : List (Nat × ElemCtx)}

/-- The machine with the contexts put back, its objects bound, and its links started again. -/
def putBackAll (s : State) (t : Machine.Task) (m : List (Nat × ElemCtx)) : State :=
  resetLinks (bindExps (m.foldl (fun s v => restoreCtx s t v) s) (t.binds.zip t.exps)) t

/-- The machine with its tokens marked and its contexts released. -/
def releaseAll (s : State) (t : Machine.Task) (m : List (Nat × ElemCtx)) : State :=
  setPtrs (m.foldl releaseStep (m.foldl (fun s v => staleCtx s v.1) (putBackAll s t m))) t

theorem putBackAll_only (s : State) (t : Machine.Task) (m : List (Nat × ElemCtx)) : putBackAll s t m =
    { s with elems := (m.foldl (fun s v => restoreCtx s t v) s).elems, sites := (m.foldl (fun s v => restoreCtx s t v) s).sites
             barriers := (bindExps (m.foldl (fun s v => restoreCtx s t v) s) (t.binds.zip t.exps)).barriers, links := (putBackAll s t m).links } := by
  rw [putBackAll, resetLinks_only, bindExps_only, foldl_restoreCtx_only]

theorem releaseAll_only (s : State) (t : Machine.Task) (m : List (Nat × ElemCtx)) : releaseAll s t m =
    { s with elems := (m.foldl releaseStep (m.foldl (fun s v => staleCtx s v.1) (putBackAll s t m))).elems, sites := (releaseAll s t m).sites
             barriers := (bindExps (m.foldl (fun s v => restoreCtx s t v) s) (t.binds.zip t.exps)).barriers, links := (putBackAll s t m).links } := by
  rw [releaseAll, setPtrs_only, foldl_releaseStep_only, foldl_staleCtx_only, putBackAll_only]

end
end Sys2Proof.Proofs

namespace Sys2Proof.Proofs
open Sys2Proof.Machine

section
variable {s : State} {t : Machine.Task} {l : Launch} {m : List (Nat × ElemCtx)}

theorem putBackAll_elem (ea : EAddr) (c : BitVec 2) : (putBackAll s t m).elem ea c = (m.foldl (fun s v => restoreCtx s t v) s).elem ea c := by
  rw [putBackAll_only]
  rfl

theorem putBackAll_rising (h : tabRising none s.elems = true) : tabRising none (putBackAll s t m).elems = true := by
  rw [putBackAll_only]
  exact changesContext_restoreCtx.foldl_rising m h

theorem releaseAll_elem (ea : EAddr) (c : BitVec 2) :
    (releaseAll s t m).elem ea c = (m.foldl releaseStep (m.foldl (fun s v => staleCtx s v.1) (putBackAll s t m))).elem ea c := by
  rw [releaseAll_only]
  rfl

/-- A context whose records have been read back: what it held, in the task, and released. -/
theorem releaseAll_elem_same (h : tabRising none s.elems = true) (hlt : ∀ v ∈ m, v.1 < 2 ^ 18) (hn : (m.map Prod.fst).Nodup) {v : Nat × ElemCtx}
    (hv : v ∈ m) : ∃ inq ops, (releaseAll s t m).elem (keyEa v.1) (keyCtx v.1) = { v.2 with task := some t.uid, released := true, inq := inq, ops := ops } := by
  obtain ⟨ops', hput⟩ := putBack_only t v
  obtain ⟨inq, ops, hstale⟩ := elem_foldl_staleCtx (keyEa v.1) (keyCtx v.1) m (putBackAll_rising (t := t) (m := m) h)
  rw [releaseAll_elem, changesContext_release.foldl_same (foldl_staleCtx_rising m (putBackAll_rising h)) hlt hn hv, hstale, putBackAll_elem,
    changesContext_restoreCtx.foldl_same h hlt hn hv, hput]
  exact ⟨inq, ops, rfl⟩

theorem releaseAll_elem_other (h : tabRising none s.elems = true) {ea : EAddr} {c : BitVec 2} (hne : ∀ v ∈ m, ¬ keyAt ea c v.1) :
    (releaseAll s t m).elem ea c = s.elem ea c := by
  rw [releaseAll_elem, changesContext_release.foldl_other (foldl_staleCtx_rising m (putBackAll_rising h)) hne,
    elem_foldl_staleCtx_other m (putBackAll_rising h) hne, putBackAll_elem, changesContext_restoreCtx.foldl_other h hne]

theorem releaseAll_barrier (hbar : s.barriers = []) (hn : t.binds.Nodup) : ∀ x ∈ t.binds.zip t.exps,
    (releaseAll s t m).barrier x.1 = { s.barrier x.1 with exp := BitVec.ofNat 24 x.2 } := by
  intro x hx
  have hkept : (m.foldl (fun s v => restoreCtx s t v) s).barriers = s.barriers := by rw [foldl_restoreCtx_only]
  have hbind := barrier_bindExps (s := m.foldl (fun s v => restoreCtx s t v) s) (by rw [hkept, hbar]; rfl) (nodup_zip hn) x hx
  rw [releaseAll_only]
  refine hbind.trans ?_
  rw [State.barrier, hkept]
  rfl

/-- The task after a restore at a time. -/
def resumed (time : Nat) (t : Machine.Task) : Machine.Task :=
  { t with phase := if 0 < t.repaired then .repairing else .running, saved := [], spill := [], preempts := t.preempts + 1, lastFire := time, excused := 0
           slot := if t.irrev then none else t.slot, pxFault := none }

theorem readSaved_spill (h : ∀ v ∈ t.saved, v.area = false) : readSaved s t = (s, readContexts t.cutNo (t.saved.map (·.key)) t.spill) := by
  rw [readSaved, if_pos (List.all_eq_true.2 fun v hv => by rw [h v hv]; rfl)]

theorem savedFree_iff : (t.saved.all fun v => (s.elem (keyEa v.key) (keyCtx v.key)).task.isNone) = true ↔
    ∀ v ∈ t.saved, (s.elem (keyEa v.key) (keyCtx v.key)).task = none := by
  simp only [List.all_eq_true, Option.isNone_iff_eq_none]

theorem putBackAll_noParker (hbar : s.barriers = []) : ∀ p ∈ (m.foldl (fun s v => staleCtx s v.1) (putBackAll s t m)).barriers,
    p.2.parkers.contains t.uid = false := by
  have hkept : (m.foldl (fun s v => restoreCtx s t v) s).barriers = s.barriers := by rw [foldl_restoreCtx_only]
  rw [foldl_staleCtx_only, putBackAll_only]
  intro p hp
  rw [bindExps_parkers (by rw [hkept, hbar]; exact fun p hp => absurd hp List.not_mem_nil) p hp]
  rfl

theorem modTask_single {u : State} {f : Machine.Task → Machine.Task} (h : u.tasks = [t]) : u.modTask t.uid f = { u with tasks := [f t] } := by
  rw [State.modTask, h, List.map_cons, List.map_nil, if_pos rfl]

theorem rearm_noSuccessors {uid : Nat} (h : successorsOf s uid = []) : rearm s uid = s := by rw [rearm, h, List.foldl_nil]

/-- R247: a task whose contexts are free goes on from the records of its spill. -/
theorem restoreTask_reads (hs : Claims.Sole s t l) (hbar : s.barriers = []) (hfree : ∀ v ∈ t.saved, (s.elem (keyEa v.key) (keyCtx v.key)).task = none)
    (harea : ∀ v ∈ t.saved, v.area = false) (hread : readContexts t.cutNo (t.saved.map (·.key)) t.spill = some m) :
    restoreTask s t = { releaseAll s t m with tasks := [resumed s.time t] } := by
  have hunpark := unparkFor_noParker (putBackAll_noParker (t := t) (m := m) hbar)
  have htasks : (m.foldl (fun s v => staleCtx s v.1) (putBackAll s t m)).tasks = s.tasks := by rw [foldl_staleCtx_only, putBackAll_only]
  have hrearm := rearm_noSuccessors (s := m.foldl (fun s v => staleCtx s v.1) (putBackAll s t m)) (uid := t.uid) (by
    rw [successorsOf, htasks]
    exact successorsOf_sole hs)
  have hend : (releaseAll s t m).tasks = [t] := by rw [releaseAll_only]; exact hs.tasks
  have htime : (m.foldl releaseStep (m.foldl (fun s v => staleCtx s v.1) (putBackAll s t m))).time = s.time := by
    rw [foldl_releaseStep_only, foldl_staleCtx_only, putBackAll_only]
  rw [restoreTask, readSaved_spill harea, hread]
  simp only [savedFree_iff.2 hfree, Bool.not_true, Bool.false_eq_true, if_false]
  show (setPtrs (m.foldl releaseStep (rearm (unparkFor (m.foldl (fun s v => staleCtx s v.1) (putBackAll s t m)) t.uid) t.uid)) t).modTask t.uid
    (resumed (m.foldl releaseStep (rearm (unparkFor (m.foldl (fun s v => staleCtx s v.1) (putBackAll s t m)) t.uid) t.uid)).time) = _
  rw [hunpark, hrearm, htime]
  exact modTask_single hend

section
variable (h : Claims.OnTask s t l) (hphase : t.phase = .suspended)
include h hphase

theorem exec_restore_plain (hfault : t.pxFault = none) : exec .restore s = .next (serveAll (restoreTask s t)) := by
  show execRestore s = _
  rw [execRestore, onTask_runs h]
  simp only [hphase, ne_eq, not_true_eq_false, if_false, hfault]

variable (hquiet : Claims.Quiet s)
include hquiet

theorem exec_restore_unanswered {f : Nat} (hfault : t.pxFault = some f) (hstatus : faultStatus s l.part f = 0) : exec .restore s = .next s := by
  have hpart : taskPart s t = l.part := by rw [taskPart, taskLaunch, h.launch]; rfl
  show execRestore s = _
  rw [execRestore, onTask_runs h]
  simp only [hphase, ne_eq, not_true_eq_false, if_false, hfault, hpart, hstatus]
  exact congrArg Host.Outcome.next (serveAll_noRequests hquiet.requests)

theorem exec_restore_held (hfault : t.pxFault = none) (hheld : ∃ v ∈ t.saved, (s.elem (keyEa v.key) (keyCtx v.key)).task ≠ none) :
    exec .restore s = .next s := by
  obtain ⟨v, hv, htask⟩ := hheld
  have hnot : (t.saved.all fun v => (s.elem (keyEa v.key) (keyCtx v.key)).task.isNone) = false :=
    Bool.of_not_eq_true fun hall => htask (savedFree_iff.1 hall v hv)
  rw [exec_restore_plain h hphase hfault, restoreTask]
  simp only [hnot, Bool.not_false, if_true, serveAll_noRequests hquiet.requests]

variable (hs : Claims.Sole s t l) (hfault : t.pxFault = none) (hfree : ∀ v ∈ t.saved, (s.elem (keyEa v.key) (keyCtx v.key)).task = none)
  (harea : ∀ v ∈ t.saved, v.area = false)
include hs hfault hfree harea

theorem exec_restore_reads (hread : readContexts t.cutNo (t.saved.map (·.key)) t.spill = some m) :
    exec .restore s = .next { releaseAll s t m with tasks := [resumed s.time t] } := by
  have hrequests : ({ releaseAll s t m with tasks := [resumed s.time t] } : State).plat.dbgReqs = [] := by rw [releaseAll_only]; exact hquiet.requests
  rw [exec_restore_plain h hphase hfault, restoreTask_reads hs hquiet.barriers hfree harea hread, serveAll_noRequests hrequests]

theorem exec_restore_spoilt (hread : readContexts t.cutNo (t.saved.map (·.key)) t.spill = none)
    (huses : ∀ k ∈ t.uses, (s.elem (keyEa k) (keyCtx k)).task ≠ some t.uid) (hq : tabRising none s.queues = true) (hring : Claims.ringFull s l.queue) :
    exec .restore s = .next { s with
      tasks := [], launches := []
      queues := (s.modQueue l.queue (heldEntry (entryOf t l { cls := 6, reason := 0, unit := 0, detail := 0, addr := 0 }))).queues } := by
  rw [exec_restore_plain h hphase hfault, restoreTask, readSaved_spill harea, hread]
  simp only [savedFree_iff.2 hfree, Bool.not_true, Bool.false_eq_true, if_false]
  rw [endWith_sole h hs hquiet.barriers huses hq hring]
  exact congrArg Host.Outcome.next (serveAll_noRequests hquiet.requests)

end
end

/-- Settles O50: each context read back is put back, marked and released once, whatever the others' tokens; a task that is all there is leaves nothing
but the entry its queue holds; and an unload drops the block's entries of every table. -/
theorem restoreAndUnload : Obligations.RestoreAndUnload := by
  refine ⟨?_, ?_, ?_, ?_⟩
  · intro s t l h hquiet hs hphase at_
    refine ⟨exec_restore_held h hphase hquiet, fun f => exec_restore_unanswered h hphase hquiet, ?_⟩
    intro free read
    refine ⟨?_, ?_⟩
    · rintro m ⟨hfault, hsaved, hkeys, hbinds, hrising⟩ hread
      have hfst := readContexts_keys hread
      have hkey : ∀ v ∈ m, ∃ w ∈ t.saved, w.key = v.1 := fun v hv => List.mem_map.1 (hfst ▸ List.mem_map_of_mem hv)
      have hlt : ∀ v ∈ m, v.1 < 2 ^ 18 := fun v hv => by
        obtain ⟨w, hw, he⟩ := hkey v hv
        exact he ▸ (hsaved w hw).2.2
      refine ⟨_, exec_restore_reads h hphase hquiet hs hfault (fun v hv => (hsaved v hv).1) (fun v hv => (hsaved v hv).2.1) hread, ?_, ?_, ?_, ?_⟩
      · rw [releaseAll_only]
        rfl
      · intro v hv
        obtain ⟨inq, ops, he⟩ := releaseAll_elem_same (t := t) hrising hlt (by rw [hfst]; exact hkeys) hv
        show _ ∧ _
        have he' : State.elem { releaseAll s t m with tasks := [resumed s.time t] } (keyEa v.1) (keyCtx v.1) = _ := he
        rw [he']
        exact ⟨rfl, rfl, rfl, rfl, rfl, rfl, rfl⟩
      · exact releaseAll_barrier hquiet.barriers hbinds
      · intro ea c hne
        refine releaseAll_elem_other hrising fun v hv => ?_
        obtain ⟨w, hw, he⟩ := hkey v hv
        exact he ▸ hne w hw
    · rintro ⟨hfault, hsaved, -⟩ hread huses hq hring
      exact ⟨_, exec_restore_spoilt h hphase hquiet hs hfault (fun v hv => (hsaved v hv).1) (fun v hv => (hsaved v hv).2.1) hread huses hq hring, rfl,
        entryHeld_modQueue hq _ rfl⟩
  · intro s t l e h hquiet hs hfault huses hq hring
    exact ⟨fun hphase htime => ⟨_, exec_regionFrozen h hquiet hs hfault huses hq hring hphase htime, rfl, entryHeld_modQueue hq _ rfl⟩,
      exec_regionFrozen_waits h hfault⟩
  · intro s n x st p
    refine ⟨?_, ?_, ?_⟩
    · rintro (h | h | h)
      · exact exec_resumeDoorbell_unknown h
      · exact exec_resumeDoorbell_ignored (Or.inl (by rw [h]; rfl))
      · exact exec_resumeDoorbell_ignored (Or.inr (Or.inl h))
    · intro f hfaults _ _ hst hneeds
      refine exec_resumeDoorbell_ignored (Or.inr (Or.inr ⟨hst, fun g hg => ?_⟩))
      rw [show (s.part n.toNat).faults = [f] from hfaults] at hg
      rw [List.mem_singleton.1 hg]
      exact hneeds
    · intro f hfaults hx hposted htasks hmem hsealed hst a
      refine ⟨_, exec_resumeDoorbell_answer hfaults hx hposted hst, ?_⟩
      rw [answerFault_alone hfaults htasks hsealed]
      refine ⟨rfl, ?_, fun k hk => memByte_memSetNat_outside hmem hk⟩
      have hlt : st.toNat < 256 ^ 2 := st.isLt
      exact (memNat_memSetNat hmem).trans (Nat.mod_eq_of_lt hlt)
  · intro s b
    refine ⟨exec_destructiveUnload_refused, ?_⟩
    intro hok hfree hsqs helems hsites hengines hspad hlram inside
    refine ⟨_, exec_destructiveUnload hok hfree, rfl, ⟨readBlock s b, rfl, rfl, rfl, ?_, ?_, ?_, ?_, ?_⟩, ?_, ?_, sq_unloaded hsqs, engine_unloaded hengines, ?_,
      lram_unloaded hlram⟩
    · intro p; rw [readBlock, List.mem_filter, beq_iff_eq]
    · intro p; rw [readBlock, List.mem_filter, beq_iff_eq]
    · intro p; rw [readBlock, List.mem_filter, beq_iff_eq]
    · intro p; rw [readBlock, List.mem_filter, beq_iff_eq]
    · intro p; rw [readBlock, List.mem_filter, beq_iff_eq]
    · intro ea c
      have he := elem_resetSites (p := fun n => siteBlock n == b.toNat) helems ea c
      simp only [beq_iff_eq] at he
      exact he
    · intro n
      have hn := site_resetSites (p := fun n => siteBlock n == b.toNat) hsites n
      simp only [beq_iff_eq] at hn
      exact hn
    · intro n o ho
      have hn := memByte_resetSites (p := fun n => siteBlock n == b.toNat) hspad n ho
      simp only [beq_iff_eq] at hn
      exact hn

end Sys2Proof.Proofs

namespace Sys2Proof.Proofs
open Sys2Proof.Machine

/-! ## Spawn requests of an irrevocable task -/

section
variable {s : State} {t : Machine.Task} {l : Launch}

/-- Without a lockstep pair no task has a twin. -/
theorem twinOf_unpaired (h : s.plat.lspair.getLsbD 0 = false) (t : Machine.Task) : twinOf s t = none := by
  rw [twinOf, lsOn, h, Bool.false_and, if_neg Bool.false_ne_true]

/-- R413: the requests of an irrevocable task are accepted as they are performed, before it has finished. -/
theorem exec_commit_through (h : Claims.OnTask s t l) (hphase : t.phase = .running) (hthrough : t.wthrough = true) (hcb : t.cb ≠ []) :
    exec .commit s = .next (releaseSpawns t.uid s t.cb.length).1 := by
  have hended : t.phase ≠ .ended := by rw [hphase]; decide
  have hheld : (t.wthrough && (t.phase == .running || t.phase == .repairing) && !t.cb.isEmpty) = true := by
    rw [hthrough, hphase, List.isEmpty_eq_false_iff.2 hcb]
    rfl
  show execCommit s = _
  rw [execCommit, onTask_runs h, if_neg hended, if_pos hheld, twinOf_unpaired h.unpair]

end

/-! ### The machine that refutes the statement -/

namespace ThroughSpawn

/-- An irrevocable task with a request for a launch on queue 4, by the template at 0x40. -/
def task : Machine.Task := { Tests.aTask .running with irrev := true, wthrough := true, cb := [.spawn 4 4 0x40 9 0] }

/-- The TD at it; it is all there is, and memory holds the template. -/
def machine : State := { Tests.recS 0 with ordinal := 2, launches := [Tests.oneL], tasks := [task], focus := .task task.uid }

theorem onTask : Claims.OnTask machine task Tests.oneL where
  focus := rfl
  task := by simp [machine, State.task?]
  launch := rfl
  single := rfl
  unpair := by decide +kernel

theorem sole : Claims.Sole machine task Tests.oneL where
  tasks := rfl
  alone := nofun
  launches := rfl
  one := by decide +kernel

/-- The request becomes a launch of three tasks beside the one that stands. -/
theorem accepted : (releaseSpawns task.uid machine 1).1.tasks.map (·.phase) = [.running, .waiting, .waiting, .waiting] := by decide +kernel

end ThroughSpawn

/-- Refutes O47: a task that has neither finished nor ended may still commit something, since the requests of an irrevocable one are accepted as they
are performed (R413): the running task's request for a launch, which its COMMIT turns into three tasks that wait. -/
theorem not_finishRepairCommit : ¬ Obligations.FinishRepairCommit := by
  unfold Obligations.FinishRepairCommit
  rintro ⟨hsole, -⟩
  obtain ⟨-, hkept, -⟩ := hsole _ _ _ ThroughSpawn.onTask ThroughSpawn.sole rfl
  have hnext := (exec_commit_through ThroughSpawn.onTask rfl rfl (List.cons_ne_nil _ _)).symm.trans (hkept nofun nofun)
  have htasks := congrArg (fun u : State => u.tasks.map (·.phase)) (Host.Outcome.next.inj hnext)
  exact absurd (ThroughSpawn.accepted.symm.trans htasks) (by decide)

end Sys2Proof.Proofs

namespace Sys2Proof.Proofs
open Sys2Proof.Machine

/-! ## Operators whose token waits at its stage -/

/-- A firing that waits leaves its token at the stage; the operator keeps its place in the stream, and what else it remembers is new. -/
theorem applyOut_waits {s : State} {v : View} {p : Pass} {t : Token} {r : StageOut} (hfault : r.fault = none) (hold : r.hold = true) :
    applyOut s v p t r = Claims.waiting s v r.op := by
  simp only [applyOut, checkerFires, hold, hfault, Bool.not_true, Bool.and_false, Bool.false_eq_true, if_false, if_true]
  rfl

section
variable {s : State} {v : View} {p : Pass} {code : Nat} {fmts : List Nat} {popped : Bool} (h : Claims.OnData s v p code fmts popped)
include h

theorem noHeader_onData : (Claims.portsOf p (sourceCodes code v.w)).any (fun t => t.kind == .header) = false :=
  List.any_eq_false.2 fun t ht => by rw [h.data t ht]; decide

/-- Data breaks no rule of a decoded stream whose header has been seen (R35). -/
theorem streamCheck_onData : streamCheck (Claims.decodes v fmts) v.op (Claims.lead p (sourceCodes code v.w)) = none := by
  rw [streamCheck, lead_kind_data h.data]
  cases hdec : Claims.decodes v fmts with
  | false => simp
  | true => simp [h.seen hdec]

theorem gate_onData : (if (v.w.pg == 1) = true then gateOf v.e v.op v.n .data else (.open_ false, false)) = (.open_ false, popped) := by
  have hgate := h.gate
  unfold Claims.GateOpen at hgate
  simp only [beq_iff_eq]
  split
  · next hpg => rwa [if_pos hpg] at hgate
  · next hpg => rw [if_neg hpg] at hgate; rw [hgate]

end

/-- A stage that stands on data waits where its operator does, and its control token stays. -/
theorem runStage_onData_waits {s u : State} {v : View} {p : Pass} {o : StageOp} {code : Nat} {fmts : List Nat} {popped : Bool} {r : StageOut}
    (h : Claims.OnData s v p code fmts popped) (hc : o.code = code) (hf : o.fmts = fmts) (hB : o.pairB = false)
    (hdata : o.data s { v with op := Claims.followed v p code fmts } (Claims.operands v p code fmts) = (u, r))
    (hfault : r.fault = none) (hold : r.hold = true) :
    runStage s v.w o = .next (Claims.waiting u v r.op) := by
  subst hc hf
  have hk := lead_kind_data h.data
  have hports : ((sourceCodes o.code v.w).filter (fun c => decide (c ≤ 4))).filterMap (portToken p) = Claims.portsOf p (sourceCodes o.code v.w) := rfl
  have hleadT : leadToken (Claims.portsOf p (sourceCodes o.code v.w)) = Claims.lead p (sourceCodes o.code v.w) := rfl
  have hdec : (v.w.fmt == 0 && !o.fmts.isEmpty) = Claims.decodes v o.fmts := rfl
  unfold Claims.operands Claims.covered Claims.format Claims.followed at hdata
  rw [runStage_stands h.toStands hB]
  simp only [fireStage, portCodes_unpaired _ _ hB, hports, hleadT, hdec, noHeader_onData h, kindsAgree_kind (by decide) h.data,
    streamCheck_onData h, hk, gate_onData h, ite_self, Bool.false_eq_true, if_false, orTag_false, hdata, hold, if_true]
  exact congrArg Host.Outcome.next (applyOut_waits hfault rfl)

/-- Outside a decoded stream and without a gate the operator keeps no record of its stream (R33, R34). -/
theorem followed_bare {v : View} (p : Pass) (code : Nat) {fmts : List Nat} (hpg : v.w.pg = 0) (hfmt : v.w.fmt ≠ 0) :
    Claims.followed v p code fmts = v.op := by
  have hdec : Claims.decodes v fmts = false := by rw [Claims.decodes, beq_false_of_ne hfmt, Bool.false_and]
  rw [Claims.followed, hdec, hpg]
  rfl

end Sys2Proof.Proofs

namespace Sys2Proof.Proofs
open Sys2Proof.Machine

/-! ## Capacity buckets (R184, R332, R333) -/

theorem withLevel_setLevel (k : Token) (level : Nat) : Claims.withLevel k (setLevel k level) level := by
  refine ⟨rfl, fun j hj => (laneNat_lanes _ hj).trans ?_⟩
  rw [apply_ite (· % 2 ^ 32), laneNat_mod]

/-- The level that the bucket has at the present is the claimed one. -/
theorem refilled_eq_capLevel (s : State) (v : View) :
    (bucketOf v.e v.w.kidx.toNat).refilled (v.w.imm.toNat % 2 ^ 16) v.op.lastRefill s.time = Claims.capLevel s v := rfl

/-- What a token needs of its bucket (R333). -/
def capNeed (v : View) : Nat := min 1 (laneNat (v.e.getK v.w.kidx.toNat).pay 1 / 2 ^ 16)

theorem min_eq_capNeed (v : View) : min 1 (bucketOf v.e v.w.kidx.toNat).maxb = capNeed v := rfl

/-- The control token that tells of a decision, where CEN asks for it (R332). -/
def capTells (w : OpWord) (c : Bool) : List (Nat × Ctl) :=
  if w.imm.getLsbD 21 then [(w.imm.toNat / 2 ^ 18 % 4, ({ v := c, b := false, par := c, fin := false, cut := false } : Ctl))] else []

theorem capTells_eq (w : OpWord) (c : Bool) : (if capCen w then [(capCo w, ctlTok c false)] else []) = capTells w c := by
  rw [show capCen w = w.imm.getLsbD 21 from bitSet_toNat w.imm 21, ctlTok, Bool.bne_false]
  rfl

theorem capDrop_eq (w : OpWord) : capDrop w = w.imm.getLsbD 20 := bitSet_toNat w.imm 20

/-- The operator's record once a bare token has been decided now. -/
def decidedNow (s : State) (op : OpSt) (c : Bool) : OpSt := { op with lastRefill := s.time, sel := some c }

section
variable {s : State} {v : View} {t : Token} (hctl : v.w.imm.getLsbD 21 = true → ctlOutputRoom s v.ea v.ctx (v.w.imm.toNat / 2 ^ 18 % 4) = true)
include hctl

theorem capTells_room (c : Bool) : (capTells v.w c).all (fun x => ctlOutputRoom s v.ea v.ctx x.1) = true := by
  unfold capTells
  split
  · next h => rw [List.all_cons, hctl h]; rfl
  · rfl

theorem capDecide_passes (hlevel : capNeed v ≤ Claims.capLevel s v) :
    capDecide s v 1 t = (s, { StageOut.emit (decidedNow s v.op true) t with
      ctl := capTells v.w true, k := some (setLevel (v.e.getK v.w.kidx.toNat) (Claims.capLevel s v - capNeed v)) }) := by
  simp only [capDecide, refilled_eq_capLevel, min_eq_capNeed, hlevel, decide_true, if_true, capSend, capTells_eq, capTells_room hctl, Bool.not_true,
    Bool.false_eq_true, if_false]
  rfl

theorem capDecide_drops (hlevel : Claims.capLevel s v < capNeed v) (hdrop : v.w.imm.getLsbD 20 = true)
    (hroom : outputRoom s v.ea v.ctx (v.w.imm.toNat / 2 ^ 16 % 4) = true) :
    capDecide s v 1 t = (outputSend s v.ea v.ctx (v.w.imm.toNat / 2 ^ 16 % 4) t, { StageOut.quiet (decidedNow s v.op false) with
      ctl := capTells v.w false, k := some (setLevel (v.e.getK v.w.kidx.toNat) (Claims.capLevel s v)) }) := by
  have hcovered : ¬ capNeed v ≤ Claims.capLevel s v := Nat.not_le.2 hlevel
  have hovp : capOvp v.w = v.w.imm.toNat / 2 ^ 16 % 4 := rfl
  simp only [capDecide, refilled_eq_capLevel, min_eq_capNeed, hcovered, capDrop_eq, hdrop, decide_false, if_true, capSend, capTells_eq,
    capTells_room hctl, Bool.not_true, Bool.false_eq_true, if_false, hovp, hroom]
  rfl

omit hctl in
theorem capDecide_defers (hlevel : Claims.capLevel s v < capNeed v) (hdefer : v.w.imm.getLsbD 20 = false) :
    capDecide s v 1 t = (s, .wait v.op) := by
  have hcovered : ¬ capNeed v ≤ Claims.capLevel s v := Nat.not_le.2 hlevel
  simp only [capDecide, refilled_eq_capLevel, min_eq_capNeed, hcovered, capDrop_eq, hdefer, decide_false, Bool.false_eq_true, if_false]

end

section
variable {s : State} {v : View} {p : Pass} {popped : Bool} (h : Claims.OnData s v p 392 fData popped)
include h

/-- A bare token is a packet of one, decided by itself. -/
theorem exec_cap_decided {u : State} {r : StageOut} (hpg : v.w.pg = 0) (hfmt : v.w.fmt ≠ 0)
    (hdec : capDecide s v 1 (Claims.trigger (Claims.operands v p 392 fData)) = (u, r)) (hold : r.hold = false) :
    exec (.cap v.w) s = .next (Claims.fired u v p 392 popped (Claims.withRandom (Claims.operands v p 392 fData) r)) := by
  show execCap v.w s = _
  rw [execCap]
  refine runStage_onData h rfl rfl rfl ?_ hold
  dsimp only
  rw [followed_bare p 392 hpg hfmt, if_pos (bne_iff_ne.2 hfmt)]
  exact hdec

theorem exec_cap_deferred (hpg : v.w.pg = 0) (hfmt : v.w.fmt ≠ 0)
    (hdec : capDecide s v 1 (Claims.trigger (Claims.operands v p 392 fData)) = (s, .wait v.op)) :
    exec (.cap v.w) s = .next (Claims.waiting s v (Claims.followed v p 392 fData)) := by
  have hbare := followed_bare p 392 (fmts := fData) hpg hfmt
  show execCap v.w s = _
  rw [execCap, hbare]
  refine runStage_onData_waits h rfl rfl rfl (r := .wait v.op) ?_ rfl rfl
  dsimp only
  rw [hbare, if_pos (bne_iff_ne.2 hfmt)]
  exact hdec

/-- A data token of a packet follows the decision that its header met (R333). -/
theorem exec_cap_packet (hfmt : v.w.fmt = 0) (hsel : v.op.sel ≠ some false) :
    let x := Claims.operands v p 392 fData
    exec (.cap v.w) s = .next (Claims.fired s v p 392 popped (Claims.withRandom x (.emit (Claims.followed v p 392 fData) (Claims.trigger x)))) := by
  intro x
  have hfollowed : (Claims.followed v p 392 fData).sel = v.op.sel := by
    have hdec : Claims.decodes v fData = true := by rw [Claims.decodes, hfmt]; rfl
    simp only [Claims.followed, hdec, Bool.true_or, if_true, trackPacket, lead_kind_data h.data]
  show execCap v.w s = _
  rw [execCap]
  refine runStage_onData h rfl rfl rfl ?_ rfl
  dsimp only
  rw [if_neg (by rw [hfmt]; decide), hfollowed, bne_iff_ne.2 hsel]
  rfl

end

/-- CAP_REFILL at a stage that holds a `cap`. -/
theorem exec_capRefill {s : State} {site : SiteNo} {ctx : BitVec 2} {stage : BitVec 3} :
    let e := s.elem (siteEa site 0) ctx
    let w := OpWord.ofBits (e.stageWord stage.toNat)
    let v := ({ ea := siteEa site 0, ctx := ctx, n := stage.toNat, w := w, e := e, op := e.op stage.toNat } : View)
    opcodeOf (e.stageWord stage.toNat) = 392 → e.stageOn stage.toNat = true →
    exec (.capRefill site ctx stage) s = .next (s.setElem (siteEa site 0) ctx
      ((e.setK w.kidx.toNat (setLevel (e.getK w.kidx.toNat) (Claims.capLevel s v))).setOp stage.toNat { e.op stage.toNat with lastRefill := s.time })) := by
  intro e w v hcode hon
  show Host.Outcome.next (capRefillAt s (siteEa site 0) ctx stage.toNat) = _
  rw [capRefillAt]
  exact congrArg Host.Outcome.next (if_pos ⟨hcode, hon⟩)

/-- Settles O26: a bare token passes, drops or waits as its bucket's level says, and CAP_REFILL alone brings that level up to the present. -/
theorem capacityBuckets : Obligations.CapacityBuckets := by
  unfold Obligations.CapacityBuckets
  intro s v p popped
  refine ⟨fun h hpg hctl => ⟨?_, ?_, ?_, exec_cap_packet h⟩, ?_⟩
  · intro hfmt hlevel
    refine ⟨_, withLevel_setLevel _ _, ?_⟩
    rw [followed_bare p 392 hpg hfmt]
    exact exec_cap_decided h hpg hfmt (capDecide_passes hctl hlevel) rfl
  · intro hfmt hlevel hdrop hroom
    refine ⟨_, withLevel_setLevel _ _, ?_⟩
    rw [followed_bare p 392 hpg hfmt]
    exact exec_cap_decided h hpg hfmt (capDecide_drops hctl hlevel hdrop hroom) rfl
  · intro hfmt hlevel hdefer
    exact exec_cap_deferred h hpg hfmt (capDecide_defers hlevel hdefer)
  · intro site ctx stage _ e w v hcode hon
    exact ⟨_, withLevel_setLevel _ _, exec_capRefill hcode hon⟩

end Sys2Proof.Proofs

namespace Sys2Proof.Proofs
open Sys2Proof.Machine

/-! ## Acceptance of task records (R160, R163) -/

theorem numAt_lt (l : List Byte) (off n : Nat) : numAt l off n < 256 ^ n :=
  (bytesToNat_lt _).trans_le (Nat.pow_le_pow_right (by decide) (List.length_take_le _ _))

/-- A doubleword of a record as a 64-bit number. -/
theorem toNat_num (r : TaskRec) (off : Nat) : (BitVec.ofNat 64 (r.num off 8)).toNat = r.num off 8 :=
  (BitVec.toNat_ofNat ..).trans (Nat.mod_eq_of_lt (numAt_lt r.body off 8))

section
variable {s : State} {q : BitVec 12}

theorem exec_recordAccept_closed
    (h : (s.queue q).en = false ∨ (s.queue q).halt = true ∨ (s.queue q).held ≠ [] ∨ (s.queue q).tail.toNat ≤ (s.queue q).acc.toNat) :
    exec (.recordAccept q) s = .next s := by
  show execRecordAccept q s = _
  rw [execRecordAccept]
  refine congrArg Host.Outcome.next (if_pos ?_)
  rcases h with h | h | h | h <;> simp [h]

/-- The TD may accept a record of queue q: the queue is on, not halted, has a record and no held entry, and waits on no page fault. -/
structure Accepting (s : State) (q : BitVec 12) : Prop where
  on      : (s.queue q).en = true
  running : (s.queue q).halt = false
  drained : (s.queue q).held = []
  record  : (s.queue q).acc.toNat < (s.queue q).tail.toNat
  state   : s.plat.state = 2
  clear   : (s.queue q).fault = none

variable (h : Accepting s q)
include h

theorem exec_recordAccept_open : exec (.recordAccept q) s = .next (acceptNext s q) := by
  obtain ⟨hon, hrunning, hdrained, hrecord, hstate, hclear⟩ := h
  show execRecordAccept q s = _
  have hgo : ¬ (!(s.queue q).en || (s.queue q).halt || !(s.queue q).held.isEmpty || decide ((s.queue q).tail.toNat ≤ (s.queue q).acc.toNat)
      || s.plat.state != 2) = true := by simp [hon, hrunning, hdrained, hrecord, hstate]
  rw [execRecordAccept]
  simp only [if_neg hgo, hclear]

theorem exec_recordAccept_unreadable {u : State} {x a : Nat} (hread : readRecord s (s.queue q).part.toNat (s.queue q).pos.toNat = (u, .bad x a)) :
    exec (.recordAccept q) s = .next (u.setQueue q { u.queue q with halt := true, hcode := 3, fault := none }) := by
  rw [exec_recordAccept_open h, acceptNext]
  simp only [hread]
  rfl

end

/-- A queue whose next record has been accepted: counted, and on to its NEXT. -/
def advanced (next : Nat) (w : WorkQueue) : WorkQueue := { w with acc := w.acc + 1, pos := BitVec.ofNat 64 next }

/-- A queue whose chain has ended before its TAIL. -/
def chainBroken (w : WorkQueue) : WorkQueue := { w with halt := true, hcode := 2, fault := none }

/-- The machine when the next launch ordinal has been given out (R24). -/
def numbered (u : State) : State := { u with ordinal := u.ordinal + 1 }

/-- The launch of a queue's record, under the ordinal given out. -/
def recordLaunch (u : State) (r : TaskRec) (q : BitVec 12) (w : WorkQueue) : Launch :=
  launchOf (numbered u) r q (w.acc.toNat + 1) w.part.toNat (u.ordinal + 1)

/-- A record that passes its checks becomes a launch under the next ordinal. -/
theorem acceptLaunch_passes {u : State} {r : TaskRec} {q : BitVec 12} {w : WorkQueue}
    (hchecks : recordReason (numbered u) w.part.toNat q (w.acc.toNat + 1) r = none) (hpair : u.plat.lspair.getLsbD 0 = false) :
    acceptLaunch u r q (w.acc.toNat + 1) w.part.toNat = enterLaunch (numbered u) (recordLaunch u r q w) := by
  unfold acceptLaunch
  dsimp only
  rw [show recordReason { u with ordinal := u.ordinal + 1 } w.part.toNat q (w.acc.toNat + 1) r = none from hchecks]
  exact if_neg (by rw [lsOn, hpair, Bool.false_and]; exact Bool.false_ne_true)

/-- A readable record that passes its checks: its launch enters the machine, and of the rest the queue alone changes. -/
theorem exec_recordAccept_passes {s u : State} {q : BitVec 12} {r : TaskRec} (h : Accepting s q)
    (hread : readRecord s (s.queue q).part.toNat (s.queue q).pos.toNat = (u, .done r))
    (hchecks : recordReason (numbered u) (s.queue q).part.toNat q ((s.queue q).acc.toNat + 1) r = none)
    (hpair : u.plat.lspair.getLsbD 0 = false) (hqueues : u.queues = s.queues) (hrising : tabRising none s.queues = true) :
    let w := s.queue q
    let e := enterLaunch (numbered u) (recordLaunch u r q w)
    let w' := advanced (r.num 0 8) w
    ∃ t, exec (.recordAccept q) s = .next t ∧ t = { e with queues := t.queues } ∧
      t.queue q = (if r.num 0 8 = 0 ∧ w.acc.toNat + 1 < w.tail.toNat then chainBroken w' else w') ∧ ∀ k, k ≠ q → t.queue k = s.queue k := by
  intro w e w'
  have hkept : ∀ k, e.queue k = s.queue k := fun k => by
    show tabGet u.queues k.toNat WorkQueue.reset = tabGet s.queues k.toNat WorkQueue.reset
    rw [hqueues]
  have hrising' : tabRising none e.queues = true := by
    show tabRising none u.queues = true
    rwa [hqueues]
  have hw' : w' = advanced (r.num 0 8) (e.queue q) := by rw [hkept q]
  have hexec : exec (.recordAccept q) s = .next (if r.num 0 8 = 0 ∧ w.acc.toNat + 1 < w.tail.toNat
      then (e.modQueue q (advanced (r.num 0 8))).modQueue q chainBroken else e.modQueue q (advanced (r.num 0 8))) := by
    rw [exec_recordAccept_open h, acceptNext]
    simp only [hread, acceptLaunch_passes hchecks hpair]
    rfl
  refine ⟨_, hexec, ?_⟩
  rw [hw']
  split
  · obtain ⟨-, hqueue, hother⟩ := onlyQueue_modQueue_twice (q := q) hrising' (advanced (r.num 0 8)) chainBroken
    exact ⟨rfl, hqueue, fun k hk => (hother k hk).trans (hkept k)⟩
  · obtain ⟨-, hqueue, hother⟩ := onlyQueue_modQueue (q := q) hrising' (advanced (r.num 0 8))
    exact ⟨rfl, hqueue, fun k hk => (hother k hk).trans (hkept k)⟩

/-- The tasks of a launch, by index. -/
theorem getElem?_newTasks {s : State} {l : Launch} {k : Nat} {t : Machine.Task} (h : ((List.range l.total).map (newTask s l))[k]? = some t) :
    t = newTask s l k := by
  rw [List.getElem?_map] at h
  obtain ⟨i, hi, rfl⟩ := Option.map_eq_some_iff.1 h
  have hlt : k < l.total := by
    have hsome := (List.getElem?_eq_some_iff.1 hi).1
    rwa [List.length_range] at hsome
  rw [List.getElem?_range hlt] at hi
  rw [Option.some.inj hi]

end Sys2Proof.Proofs

namespace Sys2Proof.Proofs
open Sys2Proof.Machine

/-! ## Admission (R167, R169) -/

/-- A task passed over once more. -/
def passedOver (t : Machine.Task) : Machine.Task := { t with bypass := t.bypass + 1 }

/-- The numbers of the candidates that do not fit. -/
def busyUids (s : State) (l : List Machine.Task) : List Nat :=
  (l.filter (fun p => match tryCandidate s p with
    | .busy => true
    | _ => false)).map (·.uid)

theorem bypassed_eq_foldl (s u : State) (l : List Machine.Task) :
    Claims.bypassed s u l = (busyUids s l).foldl (fun s n => s.modTask n passedOver) u := by
  rw [busyUids, List.foldl_map]
  rfl

theorem busyUids_busy {s : State} {c : Machine.Task} (l : List Machine.Task) (h : tryCandidate s c = .busy) :
    busyUids s (c :: l) = c.uid :: busyUids s l := by simp only [busyUids, List.filter_cons, h, if_true, List.map_cons]

theorem busyUids_later {s : State} {c : Machine.Task} (l : List Machine.Task) (h : tryCandidate s c = .later) :
    busyUids s (c :: l) = busyUids s l := by simp only [busyUids, List.filter_cons, h, Bool.false_eq_true, if_false]

/-- The unit goes on past candidates that wait, and remembers those that do not fit. -/
theorem admitFirst_waits {s : State} {die : Nat} (rest : List Machine.Task) : ∀ {l : List Machine.Task} {n : List Nat}, (∀ c ∈ l, Claims.waits s c) →
    admitFirst die s (l ++ rest) n = admitFirst die s rest (n ++ busyUids s l)
  | [], n, _ => by rw [busyUids, List.filter_nil, List.map_nil, List.append_nil, List.nil_append]
  | c :: l, n, h => by
    have hl : ∀ c ∈ l, Claims.waits s c := fun c hc => h c (List.mem_cons_of_mem _ hc)
    rw [List.cons_append, admitFirst]
    rcases h c List.mem_cons_self with hc | hc
    · simp only [hc, admitFirst_waits rest hl, busyUids_busy l hc, List.append_assoc, List.singleton_append]
    · simp only [hc, admitFirst_waits rest hl, busyUids_later l hc]

/-- A task of a launch that replays none takes no parameter slot. -/
theorem takeReplaySlot_plain {s : State} {t : Machine.Task} {l : Launch} (h : taskLaunch s t = some l) (hplain : l.replays = none) :
    takeReplaySlot s t = s := by
  rw [takeReplaySlot, h]
  exact if_pos (by rw [hplain]; rfl)

section
variable {s : State} {p : BitVec 8}

/-- The admission unit of a partition's die has admitted nothing in this fc, and the device runs. -/
structure Admitting (s : State) (p : BitVec 8) : Prop where
  state : s.plat.state = 2
  free  : tabGet s.admits (admissionDie s p.toNat) 0 ≠ s.time + 1

theorem exec_admission_open (h : Admitting s p) :
    exec (.admission p) s = .next (admitFirst (admissionDie s p.toNat) s (admissionPool s p.toNat) []) := by
  show execAdmission p s = _
  exact congrArg Host.Outcome.next (if_pos ⟨h.state, h.free⟩)

theorem exec_admission_taken (h : ¬ tabGet s.admits (admissionDie s p.toNat) 0 ≠ s.time + 1) : exec (.admission p) s = .next s := by
  show execAdmission p s = _
  exact congrArg Host.Outcome.next (if_neg fun hopen => h hopen.2)

theorem exec_admission_waits (hstate : s.plat.state = 2) (h : ∀ c ∈ admissionPool s p.toNat, Claims.waits s c) : exec (.admission p) s = .next s := by
  by_cases hfree : tabGet s.admits (admissionDie s p.toNat) 0 ≠ s.time + 1
  · rw [exec_admission_open ⟨hstate, hfree⟩]
    have hall := admitFirst_waits (die := admissionDie s p.toNat) [] (n := []) h
    rw [List.append_nil] at hall
    rw [hall]
    rfl
  · exact exec_admission_taken hfree

variable {passed : List Machine.Task} {t : Machine.Task} (h : Admitting s p)
include h

/-- The unit comes to the first candidate that does not wait. -/
theorem exec_admission_first {o : TryOut} (hfirst : Claims.firstOutcome s (admissionPool s p.toNat) passed t o) :
    ∃ rest, exec (.admission p) s = .next (admitFirst (admissionDie s p.toNat) s (t :: rest) (busyUids s passed)) := by
  obtain ⟨⟨rest, hpool⟩, hwaits, -⟩ := hfirst
  refine ⟨rest, ?_⟩
  rw [exec_admission_open h, hpool, admitFirst_waits _ hwaits, List.nil_append]

theorem exec_admission_fits {u : State} {l : Launch} (hfirst : Claims.firstOutcome s (admissionPool s p.toNat) passed t (.fits u))
    (hlaunch : taskLaunch (Claims.bypassed s u passed) t = some l) (hplain : l.replays = none) :
    exec (.admission p) s = .next (noteAdmission (Claims.bypassed s u passed) (admissionDie s p.toNat)) := by
  obtain ⟨rest, hexec⟩ := exec_admission_first h hfirst
  obtain ⟨-, -, hfits⟩ := hfirst
  rw [hexec, admitFirst, hfits]
  show Host.Outcome.next (noteAdmission (takeReplaySlot ((busyUids s passed).foldl (fun s n => s.modTask n passedOver) u) t) _) = _
  rw [← bypassed_eq_foldl, takeReplaySlot_plain hlaunch hplain]

theorem exec_admission_rejects {c r un sub a : Nat}
    (hfirst : Claims.firstOutcome s (admissionPool s p.toNat) passed t (.reject c r un sub a)) :
    exec (.admission p) s = .next (rejectLaunch s t c r un sub a) := by
  obtain ⟨rest, hexec⟩ := exec_admission_first h hfirst
  obtain ⟨-, -, hrejects⟩ := hfirst
  rw [hexec, admitFirst, hrejects]

end

end Sys2Proof.Proofs

namespace Sys2Proof.Proofs
open Sys2Proof.Machine

/-! ## Dependences (R166) -/

/-- A dependence on an earlier launch is met: its queue has accepted it, and it has finished. -/
def EarlierDone (s : State) (d : Dep) : Prop :=
  d.arg.toNat ≤ (s.queue (BitVec.ofNat 12 d.queue.toNat)).acc.toNat ∧
    ∀ k ∈ s.launches, ¬ (k.queue.toNat = d.queue.toNat ∧ k.pos = d.arg.toNat ∧ k.ord < 2 ^ 40)

/-- A dependence on a phase of a barrier object is met (R248). -/
def PhaseReached (s : State) (d : Dep) : Prop :=
  let n := ((s.barrier d.arg.toNat).phase - d.phase).toNat
  1 ≤ n ∧ n < 2 ^ 31

/-- A dependence of either kind is met. -/
def Met (s : State) (d : Dep) : Prop := (d.kind = 1 ∧ EarlierDone s d) ∨ (d.kind = 3 ∧ PhaseReached s d)

theorem namedLaunch_isNone {s : State} {d : Dep} : (namedLaunch s d).isNone = true ↔
    ∀ k ∈ s.launches, ¬ (k.queue.toNat = d.queue.toNat ∧ k.pos = d.arg.toNat ∧ k.ord < 2 ^ 40) := by
  simp only [namedLaunch, Option.isNone_iff_eq_none, List.find?_eq_none, Bool.and_eq_true, beq_iff_eq, decide_eq_true_eq, and_assoc]
  rfl

section
variable {s : State} {t : Machine.Task} {l : Launch} {d : Dep}

/-- Neither kind of dependence turns into another. -/
theorem depMet_stays (hkind : d.kind = 1 ∨ d.kind = 3) : (depMet s l t d).2 = false := by
  rcases hkind with h | h
  · rw [depMet, h]; rfl
  · rw [depMet, h]; rfl

theorem depMet_iff (hkind : d.kind = 1 ∨ d.kind = 3) : (depMet s l t d).1 = true ↔ Met s d := by
  rcases hkind with h | h
  · have hval : (depMet s l t d).1 = (namedAccepted s d && (namedLaunch s d).isNone) := by rw [depMet, h]; rfl
    rw [hval, Bool.and_eq_true, namedLaunch_isNone, namedAccepted, decide_eq_true_eq, Met, EarlierDone, h]
    simp
  · have hval : (depMet s l t d).1 = phaseDone s d.arg.toNat d.phase := by rw [depMet, h]; rfl
    rw [hval, phaseDone, Bool.and_eq_true, decide_eq_true_eq, decide_eq_true_eq, Met, h]
    simp [PhaseReached]

/-- A launch that replays none waits for no other on that account. -/
theorem replayMet_plain (h : l.replays = none) : replayMet s l t = (true, false) := by rw [replayMet, h]; rfl

variable (h : Claims.OnTask s t l)
include h

theorem exec_dependenceMet_other (hphase : t.phase ≠ .waiting) : exec .dependenceMet s = .next s := by
  show execDependenceMet s = _
  rw [execDependenceMet, onTask_runs h, taskLaunch, h.launch]
  exact congrArg Host.Outcome.next (if_pos hphase)

/-- A waiting task with dependences of the two kinds alone enters the ready pool when all of them are met. -/
theorem exec_dependenceMet_plain (hphase : t.phase = .waiting) (hreplays : l.replays = none) (hkinds : ∀ d ∈ l.deps, d.kind = 1 ∨ d.kind = 3) :
    exec .dependenceMet s = .next (if l.deps.all (fun d => (depMet s l t d).1)
      then s.modTask t.uid (fun t => { t with phase := .ready, readyAt := s.time }) else s) := by
  have hstays : (l.deps.map (depMet s l t) ++ [replayMet s l t]).any (·.2) = false := by
    rw [List.any_append, List.any_map, replayMet_plain hreplays, List.any_eq_false.2]
    · rfl
    · exact fun d hd => Bool.eq_false_iff.1 (depMet_stays (hkinds d hd))
  have hall : (l.deps.map (depMet s l t) ++ [replayMet s l t]).all (·.1) = l.deps.all (fun d => (depMet s l t d).1) := by
    rw [List.all_append, List.all_map, replayMet_plain hreplays, List.all_cons, List.all_nil, Bool.and_self, Bool.and_true]
    rfl
  show execDependenceMet s = _
  rw [execDependenceMet, onTask_runs h, taskLaunch, h.launch]
  simp only [hphase, ne_eq, not_true_eq_false, if_false, hstays, hall, Bool.false_eq_true]

end

end Sys2Proof.Proofs

namespace Sys2Proof.Proofs
open Sys2Proof.Machine

/-! ## Release of the sources (R173) -/

theorem site_modSite {s : State} {m : SiteNo} {f : Site → Site} (h : tabRising none s.sites = true) (n : SiteNo) :
    (s.modSite m f).site n = if n = m then f (s.site n) else s.site n := by
  split
  · next hn => rw [hn]; exact site_setSite_same h
  · next hn => exact site_setSite_other h hn

/-- The step that lets the operators of a key's context fire. -/
def releaseKey (s : State) (k : Nat) : State := releaseStep s (k, ElemCtx.reset)

theorem changesContext_releaseKey : ChangesContext id (fun (_ : Nat) e => { e with released := true }) releaseKey where
  rising s k := changesContext_release.rising s (k, ElemCtx.reset)
  elem s k := changesContext_release.elem s (k, ElemCtx.reset)

theorem foldl_releaseKey_only (s : State) (ks : List Nat) : ks.foldl releaseKey s = { s with elems := (ks.foldl releaseKey s).elems } := by
  have honly := foldl_releaseStep_only s (ks.map (fun k => (k, ElemCtx.reset)))
  rwa [List.foldl_map] at honly

/-- Releasing a context once or more often is the same. -/
theorem foldl_released (e : ElemCtx) : ∀ {ks : List Nat}, ks ≠ [] → ks.foldl (fun e _ => { e with released := true }) e = { e with released := true }
  | [_], _ => rfl
  | _ :: k :: ks, _ => foldl_released { e with released := true } (List.cons_ne_nil k ks)

theorem foldl_releaseKey_elem {s : State} (h : tabRising none s.elems = true) {ks : List Nat} {ea : EAddr} {c : BitVec 2} (hk : ∃ k ∈ ks, keyAt ea c k) :
    (ks.foldl releaseKey s).elem ea c = { s.elem ea c with released := true } := by
  obtain ⟨k, hk, hat⟩ := hk
  rw [changesContext_releaseKey.foldl ea c ks h]
  exact foldl_released _ (List.ne_nil_of_mem (List.mem_filter.2 ⟨hk, decide_eq_true hat⟩))

/-- The lowest context that keys name at a site; 3 where they name none. -/
def lowestCtx (ks : List Nat) (n : SiteNo) : BitVec 2 :=
  BitVec.ofNat 2 (((ks.filter (fun j => eaSite (keyEa j) == n)).map (fun j => (keyCtx j).toNat)).foldl min 3)

theorem lowestCtx_eq {ks : List Nat} {n : SiteNo} {c : BitVec 2} (hc : ∃ k ∈ ks, eaSite (keyEa k) = n ∧ keyCtx k = c)
    (hle : ∀ k ∈ ks, eaSite (keyEa k) = n → c.toNat ≤ (keyCtx k).toNat) : lowestCtx ks n = c := by
  have hmem : ∀ x, x ∈ (ks.filter (fun j => eaSite (keyEa j) == n)).map (fun j => (keyCtx j).toNat) ↔
      ∃ k ∈ ks, eaSite (keyEa k) = n ∧ (keyCtx k).toNat = x := fun x => by
    simp only [List.mem_map, List.mem_filter, beq_iff_eq, and_assoc]
  have hmin : (3 :: (ks.filter (fun j => eaSite (keyEa j) == n)).map (fun j => (keyCtx j).toNat)).min? = some c.toNat := by
    refine List.min?_eq_some_iff.2 ⟨?_, ?_⟩
    · obtain ⟨k, hk, hn, hctx⟩ := hc
      exact List.mem_cons_of_mem _ ((hmem _).2 ⟨k, hk, hn, by rw [hctx]⟩)
    · intro x hx
      rcases List.mem_cons.1 hx with rfl | hx
      · exact Nat.le_of_lt_succ c.isLt
      · obtain ⟨k, hk, hn, rfl⟩ := (hmem x).1 hx
        exact hle k hk hn
  rw [List.min?_cons'] at hmin
  rw [lowestCtx, Option.some.inj hmin, BitVec.ofNat_toNat, BitVec.setWidth_eq]

/-- Pointing each site of the keys at a context of its own points the other sites nowhere else. -/
theorem site_foldl_ptr {low : SiteNo → BitVec 2} (n : SiteNo) : ∀ {ks : List Nat} {s : State}, tabRising none s.sites = true →
    (ks.foldl (fun s k => s.modSite (eaSite (keyEa k)) (fun x => { x with ptr := low (eaSite (keyEa k)) })) s).site n =
      if ∃ k ∈ ks, eaSite (keyEa k) = n then { s.site n with ptr := low n } else s.site n
  | [], s, _ => by simp
  | k :: ks, s, h => by
    have hrising : tabRising none (s.modSite (eaSite (keyEa k)) (fun x => { x with ptr := low (eaSite (keyEa k)) })).sites = true := tabSet_risingNone h
    rw [List.foldl_cons, site_foldl_ptr n hrising, site_modSite h]
    simp only [List.mem_cons, exists_eq_or_imp]
    by_cases hk : n = eaSite (keyEa k)
    · subst hk
      simp
    · simp [hk, Ne.symm hk]

theorem site_setPtrs {s : State} {t : Machine.Task} (h : tabRising none s.sites = true) (n : SiteNo) :
    (setPtrs s t).site n = if ∃ k ∈ t.uses, eaSite (keyEa k) = n then { s.site n with ptr := lowestCtx t.uses n } else s.site n :=
  site_foldl_ptr (low := lowestCtx t.uses) n h

section
variable {s : State} {t : Machine.Task} {l : Launch}

/-- The machine with the sources of a task's region released. -/
def sourcesReleased (s : State) (t : Machine.Task) : State :=
  (setPtrs (t.uses.foldl releaseKey s) t).modTask t.uid (fun t => { t with phase := .running, lastFire := s.time })

theorem sourcesReleased_only (s : State) (t : Machine.Task) : sourcesReleased s t =
    { s.modTask t.uid (fun t => { t with phase := .running, lastFire := s.time }) with
      elems := (t.uses.foldl releaseKey s).elems, sites := (setPtrs (t.uses.foldl releaseKey s) t).sites } := by
  rw [sourcesReleased, setPtrs_only, foldl_releaseKey_only]
  rfl

theorem sourcesReleased_elem (s : State) (t : Machine.Task) (ea : EAddr) (c : BitVec 2) :
    (sourcesReleased s t).elem ea c = (t.uses.foldl releaseKey s).elem ea c := by
  rw [sourcesReleased_only]
  rfl

theorem sourcesReleased_site (h : tabRising none s.sites = true) (n : SiteNo) : (sourcesReleased s t).site n =
    if ∃ k ∈ t.uses, eaSite (keyEa k) = n then { s.site n with ptr := lowestCtx t.uses n } else s.site n := by
  have hsites : (t.uses.foldl releaseKey s).sites = s.sites := by rw [foldl_releaseKey_only]
  have hsite : (t.uses.foldl releaseKey s).site n = s.site n := by rw [State.site, hsites]; rfl
  rw [← hsite]
  exact site_setPtrs (by rwa [hsites]) n

theorem allSwapped_iff : allSwapped s t = true ↔ ∀ k ∈ t.uses, (s.elem (keyEa k) (keyCtx k)).task = some t.uid := by
  simp only [allSwapped, List.all_eq_true, beq_iff_eq]

variable (h : Claims.OnTask s t l) (hphase : t.phase = .loaded) (hpred : t.pred = none)
include h hphase hpred

theorem exec_sourceRelease : exec .sourceRelease s = .next (if allSwapped s t then sourcesReleased s t else s) := by
  have htime : (t.uses.foldl releaseKey s).time = s.time := by rw [foldl_releaseKey_only]
  show execSourceRelease s = _
  rw [execSourceRelease, onTask_runs h]
  simp only [hphase, hpred, ne_eq, not_true_eq_false, if_false, Option.isSome_none, Bool.false_eq_true]
  rw [sourcesReleased, ← htime]
  rfl

/-- R173: every context of the region is released, and each of its sites begins with the lowest context that the task has there. -/
theorem exec_sourceRelease_swapped (helems : tabRising none s.elems = true) (hsites : tabRising none s.sites = true)
    (hswapped : ∀ k ∈ t.uses, (s.elem (keyEa k) (keyCtx k)).task = some t.uid) :
    let holds := fun (ea : EAddr) (c : BitVec 2) => ∃ k ∈ t.uses, keyAt ea c k
    ∃ u, exec .sourceRelease s = .next u ∧
      u = { s.modTask t.uid (fun t => { t with phase := .running, lastFire := s.time }) with elems := u.elems, sites := u.sites } ∧
      (∀ ea c, holds ea c → u.elem ea c = { s.elem ea c with released := true }) ∧ (∀ ea c, ¬ holds ea c → u.elem ea c = s.elem ea c) ∧
      (∀ n c, (∃ ea, holds ea c ∧ eaSite ea = n) → (∀ ea d, holds ea d → eaSite ea = n → c.toNat ≤ d.toNat) → u.site n = { s.site n with ptr := c }) ∧
      (∀ n, (∀ ea c, holds ea c → eaSite ea ≠ n) → u.site n = s.site n) := by
  intro holds
  refine ⟨sourcesReleased s t, ?_, ?_, ?_, ?_, ?_, ?_⟩
  · rw [exec_sourceRelease h hphase hpred, if_pos (allSwapped_iff.2 hswapped)]
  · rw [sourcesReleased_only]
  · intro ea c hk
    rw [sourcesReleased_elem]
    exact foldl_releaseKey_elem helems hk
  · intro ea c hk
    rw [sourcesReleased_elem]
    exact changesContext_releaseKey.foldl_other helems fun k hmem hat => hk ⟨k, hmem, hat⟩
  · rintro n c ⟨ea, ⟨k, hk, rfl, rfl⟩, rfl⟩ hlow
    have hlowest : lowestCtx t.uses (eaSite (keyEa k)) = keyCtx k :=
      lowestCtx_eq ⟨k, hk, rfl, rfl⟩ fun j hj hn => hlow _ _ ⟨j, hj, rfl, rfl⟩ hn
    rw [sourcesReleased_site hsites, if_pos ⟨k, hk, rfl⟩, hlowest]
  · intro n hn
    rw [sourcesReleased_site hsites, if_neg]
    rintro ⟨k, hk, hsite⟩
    exact hn _ _ ⟨k, hk, rfl, rfl⟩ hsite

end

end Sys2Proof.Proofs

namespace Sys2Proof.Proofs
open Sys2Proof.Machine

/-! ## The claims of launches and admission -/

/-- Settles O46: a record's launch enters beside a queue that goes on; the unit of a die comes to the first candidate that does not wait; a waiting task
becomes ready when all its dependences are met; and a swapped region's contexts are released. -/
theorem launchesAndAdmission : Obligations.LaunchesAndAdmission := by
  unfold Obligations.LaunchesAndAdmission
  refine ⟨?_, ?_, ?_, ?_⟩
  · intro s q w open_
    have hopen : open_ → Accepting s q := fun ⟨hon, hrunning, hdrained, hrecord, hstate, hclear⟩ =>
      ⟨hon, hrunning, hdrained, hrecord, hstate, hclear⟩
    refine ⟨exec_recordAccept_closed, fun u x a ho => exec_recordAccept_unreadable (hopen ho), ?_⟩
    intro u r ho hread hchecks hpair hqueues hrising
    obtain ⟨t, hexec, hframe, hqueue, hother⟩ := exec_recordAccept_passes (hopen ho) hread hchecks hpair hqueues hrising
    refine ⟨t, recordLaunch u r q w, (List.range (recordLaunch u r q w).total).map (newTask (numbered u) (recordLaunch u r q w)), hexec, hframe, rfl, rfl,
      rfl, rfl, toNat_num r 8, toNat_num r 16, toNat_num r 24, rfl, ?_, rfl, ?_, hqueue, hother⟩
    · rw [List.length_map, List.length_range]
    · intro k t ht
      rw [getElem?_newTasks ht]
      exact ⟨rfl, rfl, rfl⟩
  · intro s p passed t hstate pool die free
    refine ⟨fun u l hfree hfirst hlaunch hplain => exec_admission_fits ⟨hstate, hfree⟩ hfirst hlaunch hplain,
      fun c r un sub a hfree => exec_admission_rejects ⟨hstate, hfree⟩, ?_⟩
    rintro (hfree | hwaits)
    · exact exec_admission_taken hfree
    · exact exec_admission_waits hstate hwaits
  · intro s t l h met plain
    refine ⟨?_, ?_, exec_dependenceMet_other h⟩
    · rintro ⟨hphase, hreplays, hkinds⟩ hmet
      rw [exec_dependenceMet_plain h hphase hreplays hkinds, if_pos (List.all_eq_true.2 fun d hd => (depMet_iff (hkinds d hd)).2 (hmet d hd))]
    · rintro ⟨hphase, hreplays, hkinds⟩ ⟨d, hd, hnot⟩
      rw [exec_dependenceMet_plain h hphase hreplays hkinds, if_neg fun hall => hnot ((depMet_iff (hkinds d hd)).1 (List.all_eq_true.1 hall d hd))]
  · intro s t l h hphase hpred helems hsites holds
    refine ⟨?_, exec_sourceRelease_swapped h hphase hpred helems hsites⟩
    rintro ⟨k, hk, hnot⟩
    rw [exec_sourceRelease h hphase hpred, if_neg fun hall => hnot (allSwapped_iff.1 hall k hk)]

end Sys2Proof.Proofs

namespace Sys2Proof.Proofs
open Sys2Proof.Machine

/-! ## Commute groups (R189 to R194, R362 to R364) -/

section
variable {s : State} {v : SlotView} {t : Token} {x : KSlot} {rest : List KSlot}

/-- A meaning that runs for the slot in focus acts on that slot's view. -/
theorem runSlot_focus {f : State → SlotView → State} (h : Claims.SlotReady s v) : runSlot s v.w f = .next (f s v) := by
  obtain ⟨ea, hfocus, hsite⟩ := h.focus
  exact runSlot_next.2 ⟨ea, v.ctx, v.n, hfocus, by rw [hsite, ← h.view]⟩

/-! ### The head slot of `kelp` -/

/-- A group without slots has no record out, so no visit ends. -/
theorem endVisits_empty {k : Kelp} (now m : Nat) (hk : k.slots = []) : endVisits v now k m = k :=
  List.foldlRecOn _ _ (motive := (· = k)) rfl fun k' hk' c _ => by simp [hk', hk]

theorem noteReturns_empty (hk : v.r.kStore.slots = []) : noteReturns s v = s :=
  if_pos (List.foldlRecOn _ _ (motive := (· = v.r.kStore)) rfl fun k' hk' m _ => by rw [hk', endVisits_empty _ _ hk])

/-- The round robin finds nothing where no member has a return. -/
theorem acceptReturn_quiet (hq : ∀ m < v.r.kMembers, returnOf v v.r.kStore m = .none_) : acceptReturn s v = s := by
  have hnone : ((List.range v.r.kMembers).map (fun i => (v.r.kStore.rr + 1 + i) % v.r.kMembers)).find?
      (fun m => returnOf v v.r.kStore m != .none_) = none := by
    refine List.find?_eq_none.2 fun m hm => ?_
    obtain ⟨i, -, rfl⟩ := List.mem_map.1 hm
    simp [hq _ (Nat.mod_lt _ (Nat.succ_pos _))]
  rw [acceptReturn, hnone]

theorem dispatchRecord_empty (hk : v.r.kStore.slots = []) : dispatchRecord s v = s := by
  simp [dispatchRecord, hk]

theorem isEnd_of_data (ht : t.kind = .data) : t.isEnd = false := by simp [Token.isEnd, ht]

/-- R190: a waiting record at the head of the store goes to its one eligible member. -/
theorem dispatchRecord_only {m : Nat} (hk : v.r.kStore.slots = x :: rest) (hx : x.state = .waiting) (ht : x.tok.kind = .data)
    (hm : (remaining v.r x.tok.done).filter (memberRoom s v) = [m]) :
    dispatchRecord s v = setKelp (memberSend s v x.tok m) v
      { v.r.kStore with
        turns := v.r.kStore.turns + 1
        slots := { x with state := .dispatched m, since := s.time, turn := v.r.kStore.turns, back := false } :: rest } := by
  simp [dispatchRecord, hk, isEnd_of_data ht, hx, ht, hm, Kelp.choose, modSlot]

/-- R192 and R194: a tagged record is a placeholder, and a marker of LEVEL 0 to 6 enters no member. -/
theorem entrySlot_eq (t : Token) : entrySlot t =
    { tok := { t with done := if t.kind = .data then 0 else t.done }
      state := if t.kind = .data ∧ t.etag = true ∨ t.kind = .marker ∧ t.level ≠ 7 then .complete else .waiting
      hole := false, since := 0, turn := 0, owed := [], back := false } := by
  have hmarker : (t.kind = .marker ∧ (t.kind ≠ .marker ∨ t.level ≠ 7)) ↔ t.kind = .marker ∧ t.level ≠ 7 :=
    and_congr_right fun h => by simp [h]
  simpa [entrySlot, Token.isEnd, and_comm] using if_congr (or_congr Iff.rfl hmarker) rfl rfl

theorem acceptEntry_empty (hk : v.r.kStore.slots = []) (ht : v.data 0 = some t) (hkind : t.kind = .data ∨ t.kind = .marker) :
    acceptEntry s v = setKelp (noteFiring (s.modElem (siteEa v.site 1) v.ctx (fun r => r.popData v.n 0)) (siteEa v.site 1) v.ctx (16 + v.n) t) v
      { v.r.kStore with slots := [entrySlot t] } := by
  have hheader : t.kind ≠ .header := by rcases hkind with h | h <;> simp [h]
  simp [acceptEntry, ht, hheader, hk]

theorem acceptEntry_none (hq : v.r.queue (slotKey v.n 0) = []) : acceptEntry s v = s := by
  simp [acceptEntry, SlotView.data, hq]

theorem cutAt_empty {i : Nat} (hq : v.r.queue (slotKey v.n i) = []) : v.cutAt (.data, i) = false := by
  simp [SlotView.cutAt, hq]

/-- With no return to note or to take, a ready head dispatches and then looks at its entry. -/
theorem fireKelp_quiet (h : Claims.SlotReady s v) (hsel : v.op.sel ≠ some true) (hnote : noteReturns s v = s)
    (hq : ∀ m < v.r.kMembers, returnOf v v.r.kStore m = .none_) :
    fireKelp s v =
      let u := dispatchRecord s v
      let v := slotView u v.site v.ctx v.n v.w
      if v.cutAt (.data, 0) then kelpCut u v else acceptEntry u v := by
  rw [fireKelp, if_neg (by simp [h.released, h.running, hsel])]
  simp only [hnote, ← h.view, acceptReturn_quiet hq, h.running, h.uncut, Bool.false_eq_true, if_false]

/-- R192: with the store empty the head slot takes the entering token into it. -/
theorem fireKelp_enters (h : Claims.SlotReady s v) (hsel : v.op.sel ≠ some true) (hq : ∀ m < v.r.kMembers, returnOf v v.r.kStore m = .none_)
    (hk : v.r.kStore.slots = []) (ht : v.data 0 = some t) (hkind : t.kind = .data ∨ t.kind = .marker) :
    fireKelp s v = setKelp (noteFiring (s.modElem (siteEa v.site 1) v.ctx (fun r => r.popData v.n 0)) (siteEa v.site 1) v.ctx (16 + v.n) t) v
      { v.r.kStore with slots := [entrySlot t] } := by
  have hcut : v.cutAt (.data, 0) = false := head?_of_any_false h.first
  rw [fireKelp_quiet h hsel (noteReturns_empty hk) hq]
  simp only [dispatchRecord_empty hk, ← h.view, hcut, Bool.false_eq_true, if_false, acceptEntry_empty hk ht hkind]

/-- With nothing at the entry the head slot only dispatches. -/
theorem fireKelp_dispatches {u : State} (h : Claims.SlotReady s v) (hsel : v.op.sel ≠ some true) (hnote : noteReturns s v = s)
    (hq : ∀ m < v.r.kMembers, returnOf v v.r.kStore m = .none_) (hu : dispatchRecord s v = u)
    (hentry : (u.elem (siteEa v.site 1) v.ctx).queue (slotKey v.n 0) = []) : fireKelp s v = u := by
  have hcut : (slotView u v.site v.ctx v.n v.w).cutAt (.data, 0) = false := cutAt_empty hentry
  rw [fireKelp_quiet h hsel hnote hq, hu]
  dsimp only
  rw [hcut, if_neg Bool.false_ne_true, acceptEntry_none hentry]

/-! ### `kjoin` -/

/-- R364: the oldest slot, complete and with room for what it sends, leaves the store. -/
theorem fireKjoin_sends (h : Claims.SlotReady s v) (hk : v.r.kStore.slots = x :: rest) (hx : x.state = .complete)
    (hhead : (kelpHead v.r).elim false (fun n => (v.r.op (16 + n)).sel == some true) = false)
    (hroom : slotRoom s v (Claims.slotDoes v.op [] [] (joinOut x).1 (joinOut x).2 []) = true) :
    fireKjoin s v =
      let u := noteFiring (setKelp s v { v.r.kStore with slots := rest }) (siteEa v.site 1) v.ctx (16 + v.n) x.tok
      slotSend (if x.tok.isEnd then u.modElem (siteEa v.site 1) v.ctx endGroup else u) v (joinOut x).1 (joinOut x).2 := by
  have hlive : slotLive v = true := by simp [slotLive, h.released, h.running, h.uncut]
  rw [fireKjoin, if_neg (by simp [hlive])]
  dsimp only
  rw [hhead, if_neg Bool.false_ne_true, hk]
  dsimp only
  rw [if_neg (by simp [hx])]
  exact if_pos hroom

end

/-- Settles O32: an extension slot does nothing of its own, and each action of the head slot and of `kjoin` is one lemma above. -/
theorem commuteGroups : Obligations.CommuteGroups := by
  unfold Obligations.CommuteGroups
  intro s v t x rest h ea k quietReturns
  have hkelp : exec (.kelp v.w) s = .next (if v.w.imm.toNat % 8 = 0 then fireKelp s v else s) :=
    runSlot_focus (f := fun s v => if v.w.imm.toNat % 8 = 0 then fireKelp s v else s) h
  refine ⟨?_, ?_, ?_, ?_⟩
  · intro hext
    rw [hkelp, if_neg hext]
  · intro hhead hsel hquiet hk ht hkind
    rw [hkelp, if_pos hhead, fireKelp_enters h hsel hquiet hk ht hkind, entrySlot_eq]
  · intro hhead hsel hquiet hnote _ hk hx hdata m hm u hentry
    rw [hkelp, if_pos hhead, fireKelp_dispatches h hsel hnote hquiet (dispatchRecord_only hk hx hdata hm) hentry]
  · intro hk hx hhead out hroom u
    have hjoin : exec (.kjoin v.w) s = .next (fireKjoin s v) := runSlot_focus h
    have hout : joinOut x = out := rfl
    rw [hjoin, fireKjoin_sends h hk hx hhead hroom, hout]

end Sys2Proof.Proofs

namespace Sys2Proof.Proofs
open Sys2Proof.Machine

/-! ## Parity banks (R203, R205 to R208) -/

/-- Banks are taken in the fc of the present step; what has passed is dropped (R203). -/
def taken (now : Nat) (l : List Nat) (a : Axolotl) : Axolotl :=
  { a with busy := a.busy.filter (fun p => decide (now ≤ p.2)) ++ l.map (fun b => (b, now)) }

@[simp] theorem taken_retired (now : Nat) (l : List Nat) (a : Axolotl) (g : Nat) : retiredOf (taken now l a) g = retiredOf a g := rfl
@[simp] theorem taken_parity (now : Nat) (l : List Nat) (a : Axolotl) (g row : Nat) : parityLine (taken now l a) g row = parityLine a g row := rfl
@[simp] theorem taken_errors (now : Nat) (l : List Nat) (a : Axolotl) (b row : Nat) : rowError (taken now l a) b row = rowError a b row := rfl

theorem useBanks_now (s : State) (n : SiteNo) (l : List Nat) : useBanks s n l s.time = modAx s n (taken s.time l) := rfl

@[simp] theorem modAx_time (s : State) (n : SiteNo) (f : Axolotl → Axolotl) : (modAx s n f).time = s.time := rfl
@[simp] theorem modAx_bankLine (s : State) (n : SiteNo) (f : Axolotl → Axolotl) (m : SiteNo) (b row : Nat) :
    bankLine (modAx s n f) m b row = bankLine s m b row := rfl

theorem modAx_congr {s : State} {n : SiteNo} {f f' : Axolotl → Axolotl} (h : f (axOf s n) = f' (axOf s n)) : modAx s n f = modAx s n f' :=
  congrArg (fun a => s.setSite n { s.site n with ax := a }) h

section
variable {s : State} {n : SiteNo} (hsites : tabRising none s.sites = true)
include hsites

theorem axOf_modAx (f : Axolotl → Axolotl) : axOf (modAx s n f) n = f (axOf s n) := congrArg Site.ax (site_setSite_same hsites)

/-- Two changes of one tile's banks are one change. -/
theorem modAx_modAx (f f' : Axolotl → Axolotl) : modAx (modAx s n f) n f' = modAx s n (fun a => f' (f a)) := by
  have hread : (modAx s n f).site n = { s.site n with ax := f (s.site n).ax } := site_setSite_same hsites
  unfold modAx at hread ⊢
  rw [State.modSite, hread]
  simp only [State.modSite, State.setSite, tabSet_tabSet_same hsites]

/-- A step that changes a tile's banks answers with its banks changed and nothing else. -/
theorem answers_modAx {i : Instr} {f : Axolotl → Axolotl} {a : Axolotl} (hrun : exec i s = .next (modAx s n f)) (ha : f (axOf s n) = a) :
    ∃ u, exec i s = .next u ∧ Claims.onlyBanks s u n a := ⟨_, hrun, ha ▸ onlySite_setSite hsites _⟩

end

/-! ### Landings (R205) -/

/-- The oldest update has left its pipeline for the parity bank. -/
def popped (now g : Nat) (rest : List ParEntry) (a : Axolotl) : Axolotl := taken now [16 + g] { a with pipes := tabSet a.pipes g rest [] }

/-- On a parity row without an error the oldest update lands. -/
theorem landOldest_clean {s : State} {n : SiteNo} {g : Nat} {p : ParEntry} {rest : List ParEntry} (hsites : tabRising none s.sites = true)
    (hpipe : tabGet (axOf s n).pipes g [] = p :: rest) (hclean : rowError (axOf s n) (16 + g) p.row = 0) :
    landOldest s n g = modAx s n (fun a => { popped s.time g rest a with
      parity := tabSet a.parity (g * 2048 + p.row) (parityLine a g p.row ^^^ p.delta) 0 }) := by
  have huse : useBanks (modAx s n (fun a => { a with pipes := tabSet a.pipes g rest [] })) n [16 + g] s.time = modAx s n (popped s.time g rest) :=
    modAx_modAx hsites _ _
  have herr : rowError (popped s.time g rest (axOf s n)) (16 + g) p.row = 0 := hclean
  rw [landOldest, hpipe]
  simp only [huse, axOf_modAx hsites, herr, Nat.zero_ne_one, if_false, modAx_modAx hsites]
  rfl

/-! ### The scrubber (R207) -/

theorem groupOf_groupBanks {g : Nat} (hg : g < 4) : ∀ b ∈ groupBanks g, groupOf b = g := by
  simp only [groupBanks, List.forall_mem_cons, groupOf]
  refine ⟨?_, ?_, ?_, ?_, ?_, fun _ h => absurd h List.not_mem_nil⟩
  all_goals split <;> omega

/-- SECDED finds nothing in rows without an error. -/
theorem foldl_scrubBank_clean {s : State} {n : SiteNo} {row : Nat} : ∀ {l : List Nat}, (∀ b ∈ l, retiredOf (axOf s n) (groupOf b) = []) →
    (∀ b ∈ l, rowError (axOf s n) b row = 0) → l.foldl (scrubBank n row) s = s
  | [], _, _ => rfl
  | b :: l, hret, herr => by
    obtain ⟨hretb, hret⟩ := List.forall_mem_cons.1 hret
    obtain ⟨herrb, herr⟩ := List.forall_mem_cons.1 herr
    have hb : scrubBank n row s b = s := by simp [scrubBank, hretb, herrb]
    rw [List.foldl_cons, hb, foldl_scrubBank_clean hret herr]

theorem foldl_bankLine (s : State) (n : SiteNo) (g row : Nat) :
    [0, 1, 2, 3].foldl (fun (l : Line) i => l ^^^ bankLine s n (4 * g + i) row) 0 = Claims.parityOf s n g row := by
  simp [Claims.parityOf]

/-- A parity row brought to what its data rows say, and counted. -/
def rewritten (k : Nat) (x : Line) (a : Axolotl) : Axolotl := { a with parity := tabSet a.parity k x 0, scrpm := min 0xFFFF (a.scrpm + 1) }

section
variable {s : State} {n : SiteNo} {g row : Nat}

/-- A row set without errors is checked: its banks are taken, a parity row that disagrees with the data is rewritten, and the scrubber goes on. -/
theorem scrubRowSet_clean (hsites : tabRising none s.sites = true) (hg : (axOf s n).scrub / 2048 % 4 = g) (hrow : (axOf s n).scrub % 2048 = row)
    (hret : retiredOf (axOf s n) g = []) (herr : ∀ b ∈ groupBanks g, rowError (axOf s n) b row = 0) :
    scrubRowSet s n = modAx s n (fun a =>
      let a := taken s.time (groupBanks g) a
      scrubNext (if Claims.parityOf s n g row = parityLine (axOf s n) g row then a else rewritten (g * 2048 + row) (Claims.parityOf s n g row) a) s.time) := by
  have hlt : g < 4 := hg ▸ Nat.mod_lt _ (by decide)
  have hfold : (groupBanks g).foldl (scrubBank n row) s = s :=
    foldl_scrubBank_clean (fun b hb => by rw [groupOf_groupBanks hlt b hb, hret]) herr
  have hclean : (groupBanks g).all (fun b => rowError (axOf s n) b row != 2) = true := List.all_eq_true.2 fun b hb => by rw [herr b hb]; rfl
  rw [scrubRowSet, hg, hrow]
  simp only [hfold, hclean, useBanks_now, axOf_modAx hsites, taken_retired, taken_parity, modAx_bankLine, foldl_bankLine, hret, List.isEmpty_nil,
    Bool.and_self, Bool.true_and, bne_iff_ne, ne_eq, ite_not]
  by_cases hsame : Claims.parityOf s n g row = parityLine (axOf s n) g row
  · simp only [if_pos hsame, modAx_modAx hsites, modAx_time]
  · simp only [if_neg hsame, modAx_modAx hsites, modAx_time, satAdd16_one]
    rfl

end

/-! ### The events of a memory tile's banks -/

section
variable {s : State} {n : SiteNo} (hn : siteExists n = true) (hm : siteIsMt n = true)
include hn hm

theorem exec_parityLanding_due {k : BitVec 2} {p : ParEntry} {rest : List ParEntry} (hpipe : tabGet (axOf s n).pipes k.toNat [] = p :: rest)
    (hdue : p.at_ + 2 ≤ s.time) (hfree : (16 + k.toNat, s.time) ∉ (axOf s n).busy) : exec (.parityLanding n k) s = .next (landOldest s n k.toNat) := by
  rw [show exec (.parityLanding n k) s = execParityLanding n k s from rfl, execParityLanding, hn, hm, hpipe]
  simp [hdue, hfree]

theorem exec_parityLanding_held {k : BitVec 2} (h : (16 + k.toNat, s.time) ∈ (axOf s n).busy ∨
    ∀ p rest, tabGet (axOf s n).pipes k.toNat [] = p :: rest → s.time < p.at_ + 2) : exec (.parityLanding n k) s = .next s := by
  rw [show exec (.parityLanding n k) s = execParityLanding n k s from rfl, execParityLanding, hn, hm]
  cases hpipe : tabGet (axOf s n).pipes k.toNat [] with
  | nil => rfl
  | cons p rest =>
    have hno : ¬ (p.at_ + 2 ≤ s.time ∧ (axOf s n).busy.contains (16 + k.toNat, s.time) = false) := by
      rintro ⟨hdue, hfree⟩
      rcases h with hbusy | hearly
      · simp [hbusy] at hfree
      · exact absurd (hearly p rest hpipe) (by omega)
    exact congrArg _ (if_neg hno)

/-- R206: a corrected row is written back in an idle fc of its bank. -/
theorem exec_correctedRowWriteback_idle (hsites : tabRising none s.sites = true) {b : BitVec 5} {w : BitVec 11}
    (hfix : (b.toNat, w.toNat) ∈ (axOf s n).fixes) (hidle : bankBusy (axOf s n) b.toNat s.time s.time = false)
    (herr : rowError (axOf s n) b.toNat w.toNat = 1) :
    exec (.correctedRowWriteback n b w) s = .next (modAx s n (fun a => { taken s.time [b.toNat] a with
      fixes := a.fixes.filter (fun p => p != (b.toNat, w.toNat))
      errs := tabSet a.errs (b.toNat * 2048 + w.toNat) 0 0 })) := by
  rw [show exec (.correctedRowWriteback n b w) s = execCorrectedRowWriteback n b w s from rfl, execCorrectedRowWriteback, hn, hm]
  refine congrArg Host.Outcome.next ((if_pos (by simp [hfix, hidle])).trans ?_)
  rw [useBanks_now, modAx_modAx hsites]
  exact modAx_congr (by simp only [taken_errors, herr, if_true]; rfl)

theorem exec_correctedRowWriteback_busy {b : BitVec 5} {w : BitVec 11} (hbusy : ¬ bankBusy (axOf s n) b.toNat s.time s.time = false) :
    exec (.correctedRowWriteback n b w) s = .next s := by
  rw [show exec (.correctedRowWriteback n b w) s = execCorrectedRowWriteback n b w s from rfl, execCorrectedRowWriteback, hn, hm]
  simp [hbusy]

end

/-- The scrubber is on, and no update of its row set is pending (R207). -/
theorem scrubReady_iff (a : Axolotl) (now : Nat) :
    scrubReady a now = true ↔ a.bpctl.getLsbD 1 = true ∧ staleAt a (a.scrub / 2048 % 4) (a.scrub % 2048) now now = false := by
  rw [scrubReady, Bool.and_eq_true, Bool.not_eq_true', ← bitSet_toNat, bitSet]
  rfl

section
variable {s : State} {n : SiteNo} (hn : siteExists n = true) (hm : siteIsMt n = true)
include hn hm

theorem exec_scrubCheck_checks (hready : scrubReady (axOf s n) s.time = true)
    (hidle : ∀ b ∈ groupBanks ((axOf s n).scrub / 2048 % 4), bankBusy (axOf s n) b s.time s.time = false) :
    exec (.scrubCheck n) s = .next (scrubRowSet s n) := by
  rw [show exec (.scrubCheck n) s = execScrubCheck n s from rfl, execScrubCheck, if_pos (by simp [hn, hm])]
  exact congrArg _ (if_pos (by simpa [hready] using hidle))

theorem exec_scrubCheck_held (h : ¬ (scrubReady (axOf s n) s.time = true ∧
    ∀ b ∈ groupBanks ((axOf s n).scrub / 2048 % 4), bankBusy (axOf s n) b s.time s.time = false)) : exec (.scrubCheck n) s = .next s := by
  rw [show exec (.scrubCheck n) s = execScrubCheck n s from rfl, execScrubCheck, if_pos (by simp [hn, hm])]
  exact congrArg _ (if_neg (by simpa using h))

theorem exec_forcedScrub_checks (hready : scrubReady (axOf s n) s.time = true)
    (hlate : (axOf s n).lastScrub + 2 ^ ((axOf s n).bpctl.toNat / 4 % 16) ≤ s.time) : exec (.forcedScrub n) s = .next (scrubRowSet s n) := by
  rw [show exec (.forcedScrub n) s = execForcedScrub n s from rfl, execForcedScrub, if_pos (by simp [hn, hm])]
  exact congrArg _ (if_pos (by simp [hready, hlate]))

theorem exec_forcedScrub_held (h : ¬ (scrubReady (axOf s n) s.time = true ∧
    (axOf s n).lastScrub + 2 ^ ((axOf s n).bpctl.toNat / 4 % 16) ≤ s.time)) : exec (.forcedScrub n) s = .next s := by
  rw [show exec (.forcedScrub n) s = execForcedScrub n s from rfl, execForcedScrub, if_pos (by simp [hn, hm])]
  exact congrArg _ (if_neg (by simpa using h))

end

/-! ### The hour window (R208) -/

section
variable {s : State}

theorem exec_hourWindow_same (h : s.time / 3600000000000 = s.plat.hour) : exec .hourWindow s = .next s :=
  congrArg Host.Outcome.next (if_pos h)

/-- The correctable counts of a site start again. -/
def recounted (r : Site) : Site := { r with ax := { r.ax with ce := [] } }

/-- As an hour begins the correctable counts of every site start again. -/
theorem exec_hourWindow_next (hsites : tabRising none s.sites = true) (h : s.time / 3600000000000 ≠ s.plat.hour) :
    ∃ u, exec .hourWindow s = .next u ∧ u = { s with sites := u.sites, plat := { s.plat with hour := s.time / 3600000000000 } } ∧
      ∀ n : SiteNo, u.site n = recounted (s.site n) :=
  ⟨_, congrArg Host.Outcome.next (if_neg h), rfl, fun _ => tabGet_rebuilt (g := recounted) rfl hsites _⟩

end

/-- Settles O43: each event of the banks that acts is one change of the tile's banks, and none acts while its condition fails. -/
theorem parityBanks : Obligations.ParityBanks := by
  unfold Obligations.ParityBanks
  refine ⟨?_, fun s hsites => ⟨exec_hourWindow_same, exec_hourWindow_next hsites⟩⟩
  intro s n hn hm hsites a answers err takes idle g row five ready held now next
  have hready : scrubReady (axOf s n) s.time = true ↔ ready := scrubReady_iff a s.time
  have hscrub := scrubRowSet_clean (g := g) (row := row) hsites rfl rfl
  refine ⟨?_, ?_, ?_, ?_, ?_, ?_, ?_, ?_⟩
  · intro k p rest hpipe hdue herr hfree hpipes hparity
    have hrun := exec_parityLanding_due hn hm hpipe hdue hfree
    rw [landOldest_clean hsites hpipe herr] at hrun
    exact ⟨_, _, answers_modAx hsites hrun rfl, tabGet_tabSet hpipes, tabGet_tabMod (f := fun x => x ^^^ p.delta) hparity⟩
  · exact fun k => exec_parityLanding_held hn hm
  · intro b w hfix hidle herr herrs
    have hrun := exec_correctedRowWriteback_idle hn hm hsites hfix hidle herr
    exact ⟨_, answers_modAx hsites hrun rfl, tabGet_tabSet herrs⟩
  · exact fun b w => exec_correctedRowWriteback_busy hn hm
  · intro hr hidle hret herr hparity
    have hrun := exec_scrubCheck_checks hn hm (hready.2 hr) hidle
    rw [hscrub hret herr] at hrun
    refine ⟨fun hsame => answers_modAx hsites hrun ?_, fun hne => ⟨_, answers_modAx hsites hrun ?_, tabGet_tabSet hparity⟩⟩
    · exact congrArg (scrubNext · s.time) (if_pos hsame.symm)
    · exact congrArg (scrubNext · s.time) (if_neg (Ne.symm hne))
  · intro hno
    refine exec_scrubCheck_held hn hm fun ⟨hr, hidle⟩ => ?_
    rcases hno with hno | ⟨b, hb, hbusy⟩
    · exact hno (hready.1 hr)
    · exact hbusy (hidle b hb)
  · intro hr hlate hret herr hsame
    have hrun := exec_forcedScrub_checks hn hm (hready.2 hr) hlate
    rw [hscrub hret herr] at hrun
    exact answers_modAx hsites hrun (congrArg (scrubNext · s.time) (if_pos hsame.symm))
  · intro hno
    refine exec_forcedScrub_held hn hm fun ⟨hr, hlate⟩ => ?_
    rcases hno with hno | hearly
    · exact hno (hready.1 hr)
    · exact absurd hlate (Nat.not_le.2 hearly)

end Sys2Proof.Proofs

namespace Sys2Proof.Proofs
open Sys2Proof.Machine

/-! ## What a firing hands on (R216, R293) -/

/-- RESIDUE of a stage whose internal checker has fired on token t (R216). -/
def checkerRecord (v : View) (t : Token) : FaultInfo :=
  { faultInfo 7 0 (if opcodeOf (v.e.stageWord v.n) / 64 == 3 then 6 else v.n) t with word := v.e.stageWord v.n }

theorem loggedRecord_frame (s : State) (ea : EAddr) (ctx : BitVec 2) (f : FaultInfo) :
    loggedRecord s ea ctx f = { s with sites := (loggedRecord s ea ctx f).sites, parts := (loggedRecord s ea ctx f).parts } := by
  simp only [loggedRecord]
  split <;> rfl

/-- An internal checker that has fired on a data token tags what an emitting stage sends and posts a record; otherwise nothing happens (R216). -/
theorem checkerFires_emit (s : State) (v : View) (t r : Token) (op : OpSt) :
    ∃ u op' poison, checkerFires s v t (.emit op r) =
        (u, { StageOut.emit op' (if v.op.chk && t.kind == .data then { r with etag := true } else r) with poison := poison }) ∧
      u = { s with sites := u.sites, parts := u.parts } ∧ ((v.op.chk && t.kind == .data) = false → u.parts = s.parts) := by
  cases hchk : v.op.chk && t.kind == .data with
  | false =>
    refine ⟨s, op, false, ?_, rfl, fun _ => rfl⟩
    simp only [checkerFires, hchk, Bool.false_and, Bool.false_eq_true, if_false]
    rfl
  | true =>
    refine ⟨loggedRecord (countErr s v.ea 0) v.ea v.ctx (checkerRecord v t), { op with chk := false },
      opcodeOf (v.e.stageWord v.n) / 64 == 3, ?_, loggedRecord_frame .., fun h => absurd h (by decide)⟩
    simp only [checkerFires, hchk, Bool.true_and, StageOut.emit, StageOut.quiet, Option.isNone_none, Bool.not_false, if_true, Option.map_none,
      Option.isSome_none, Bool.false_or, Bool.or_false]
    rfl

/-- Until its result is handed on, a firing of a context changes the context, but none of its registers, and tasks. -/
structure BeforeDelivery (s u : State) (ea : EAddr) (ctx : BitVec 2) : Prop where
  frame  : u = { s with elems := u.elems, tasks := u.tasks }
  rising : tabRising none u.elems = true
  regs   : (u.elem ea ctx).k = (s.elem ea ctx).k
  other  : ∀ f d, (f, d) ≠ (ea, ctx) → u.elem f d = s.elem f d

/-- A context whose operator n has fired at a time, counted for II (R257). -/
def countedFiring (time page n : Nat) (e : ElemCtx) : ElemCtx :=
  { (e.setOp n { e.op n with lastFire := time + 1 }) with fires := e.fires + 1, ii := tabMod e.ii (16 * page) 0 (fun i => satAdd32 i 1) }

@[simp] theorem countedFiring_bank (time page n : Nat) (e : ElemCtx) : (countedFiring time page n e).bank = e.bank := rfl
@[simp] theorem countedFiring_k (time page n : Nat) (e : ElemCtx) : (countedFiring time page n e).k = e.k := rfl

section
variable {s u : State} {ea : EAddr} {ctx : BitVec 2}

theorem BeforeDelivery.trans {t : State} (h : BeforeDelivery s u ea ctx) (h' : BeforeDelivery u t ea ctx) : BeforeDelivery s t ea ctx where
  frame := by rw [h'.frame, h.frame]
  rising := h'.rising
  regs := h'.regs.trans h.regs
  other f d hne := (h'.other f d hne).trans (h.other f d hne)

theorem beforeDelivery_modTask (h : tabRising none s.elems = true) (uid : Nat) (f : Machine.Task → Machine.Task) :
    BeforeDelivery s (s.modTask uid f) ea ctx := ⟨rfl, h, rfl, fun _ _ _ => rfl⟩

theorem beforeDelivery_poisonTask (h : tabRising none s.elems = true) (task : Option Nat) : BeforeDelivery s (poisonTask s task) ea ctx := by
  cases task with
  | none => exact ⟨rfl, h, rfl, fun _ _ _ => rfl⟩
  | some uid => exact beforeDelivery_modTask h uid _

theorem beforeDelivery_modElem (h : tabRising none s.elems = true) {f : ElemCtx → ElemCtx} (hf : ∀ e, (f e).k = e.k) :
    BeforeDelivery s (s.modElem ea ctx f) ea ctx where
  frame := rfl
  rising := tabSet_risingNone h
  regs := by rw [elem_modElem_same h, hf]
  other _ _ hne := elem_modElem_other h hne

theorem traceEvent_untraced (hten : trctl ea (s.elem ea ctx) % 2 = 0) (evt : Nat) (t : Token) : traceEvent s ea ctx evt t = s :=
  if_neg (by omega)

theorem trctl_of_bank {e e' : ElemCtx} (h : e'.bank = e.bank) : trctl ea e' = trctl ea e := by
  simp only [trctl, ElemCtx.field, h]

/-- Without TEN a firing leaves no trace record (R260); it is counted, and its task notes the time. -/
theorem beforeDelivery_noteFiring (h : tabRising none s.elems = true) (hten : trctl ea (s.elem ea ctx) % 2 = 0) (n : Nat) (t : Token) :
    BeforeDelivery s (noteFiring s ea ctx n t) ea ctx := by
  have hcounted : BeforeDelivery s (s.modElem ea ctx (countedFiring s.time (iiUnit ea n) n)) ea ctx :=
    beforeDelivery_modElem h (countedFiring_k _ _ _)
  have huntraced : ¬ trctl ea (s.elem ea ctx) % 2 = 1 := by omega
  have hend : traceEvent (s.modElem ea ctx (countedFiring s.time (iiUnit ea n) n)) ea ctx 5 t = s.modElem ea ctx (countedFiring s.time (iiUnit ea n) n) :=
    traceEvent_untraced (by rw [elem_modElem_same h, trctl_of_bank (countedFiring_bank ..), hten]) 5 t
  unfold countedFiring at hend hcounted
  simp only [noteFiring, huntraced, false_and, if_false, hend, ite_self]
  cases (s.elem ea ctx).task with
  | none => exact hcounted
  | some uid => exact hcounted.trans (beforeDelivery_modTask hcounted.rising uid _)

end

section
variable {s : State} {v : View}

/-- The machine when a firing on token t has been counted and, where it is to, has poisoned its task (R219). -/
def notedFiring (s : State) (v : View) (t : Token) (poison : Bool) : State :=
  if poison then poisonTask (noteFiring s v.ea v.ctx v.n t) v.e.task else noteFiring s v.ea v.ctx v.n t

theorem beforeDelivery_notedFiring (helems : tabRising none s.elems = true) (hten : trctl v.ea (s.elem v.ea v.ctx) % 2 = 0) (t : Token) (poison : Bool) :
    BeforeDelivery s (notedFiring s v t poison) v.ea v.ctx := by
  have hcounted := beforeDelivery_noteFiring helems hten v.n t
  cases poison with
  | false => exact hcounted
  | true => exact hcounted.trans (beforeDelivery_poisonTask hcounted.rising _)

/-- A firing that emits one token is first counted and gives its operator its new state, and then hands the token on. -/
theorem applyOut_emits {s₀ : State} {r₀ : StageOut} {t r : Token} {op : OpSt} {poison : Bool} (helems : tabRising none s.elems = true)
    (hten : trctl v.ea (s.elem v.ea v.ctx) % 2 = 0) (hchecker : checkerFires s₀ v t r₀ = (s, { StageOut.emit op r with poison := poison })) (p : Pass) :
    ∃ u, BeforeDelivery s u v.ea v.ctx ∧ applyOut s₀ v p t r₀ = emitResults u v p [r] := by
  have hnoted := beforeDelivery_notedFiring helems hten t poison
  refine ⟨_, hnoted.trans (beforeDelivery_modElem (f := fun e =>
    e.setOp v.n { op with lastFire := (notedFiring s v t poison).time + 1, ended := op.ended || t.isEnd }) hnoted.rising fun _ => rfl), ?_⟩
  rw [applyOut, hchecker]
  rfl

/-- A context once its stage has handed on the one result of its firing: a data result may enter k[KIDX], and the pass moves on (R293). -/
def handedOn (v : View) (p : Pass) (r : Token) (e : ElemCtx) : ElemCtx :=
  let e := if dstToK v.w && r.kind == .data then e.setK v.w.kidx.toNat r else e
  passOn (e.setOp v.n { e.op v.n with res := [], ended := (e.op v.n).ended || r.isEnd }) p (if dstToNext v.w then some r else none)

theorem dstToK_iff (w : OpWord) : dstToK w = true ↔ w.dst = 5 ∨ w.dst = 6 := by simp [dstToK]

theorem dstToNext_iff {w : OpWord} (hdst : 4 ≤ w.dst.toNat) : dstToNext w = true ↔ w.dst = 4 ∨ w.dst = 6 := by
  have hfour : w.dst.toNat ≤ 4 ↔ w.dst = 4 := ⟨fun h => BitVec.eq_of_toNat_eq (Nat.le_antisymm h hdst), fun h => by rw [h]; decide⟩
  simp [dstToNext, hfour]

theorem handedOn_pass (p : Pass) (r : Token) (hdst : 4 ≤ v.w.dst.toNat) (e : ElemCtx) : (handedOn v p r e).pass =
    if 5 ≤ p.stage then none else some { p with stage := p.stage + 1, prev := if v.w.dst = 4 ∨ v.w.dst = 6 then some r else none } := by
  simp only [handedOn, passOn, dstToNext_iff hdst]

theorem handedOn_getK (p : Pass) (r : Token) {e : ElemCtx} (hk : tabRising none e.k = true) (n : Nat) : (handedOn v p r e).getK n =
    if (v.w.dst = 5 ∨ v.w.dst = 6) ∧ r.kind = .data ∧ n = v.w.kidx.toNat then r else e.getK n := by
  by_cases hto : (v.w.dst = 5 ∨ v.w.dst = 6) ∧ r.kind = .data
  · obtain ⟨hdst, hdata⟩ := hto
    have hset : (handedOn v p r e).getK n = (e.setK v.w.kidx.toNat r).getK n := by
      simp only [handedOn, (dstToK_iff v.w).2 hdst, hdata]
      rfl
    rw [hset, ElemCtx.getK, ElemCtx.setK, tabGet_tabSet hk]
    simp only [hdst, hdata, true_and]
    rfl
  · have hnot : (dstToK v.w && r.kind == .data) = false := by
      rwa [Bool.eq_false_iff, Ne, Bool.and_eq_true, dstToK_iff, beq_iff_eq]
    have hleft : (handedOn v p r e).getK n = e.getK n := by
      simp only [handedOn, hnot]
      rfl
    rw [hleft, if_neg fun h => hto ⟨h.1, h.2.1⟩]

/-- Where DST names no output port, handing a result on changes the stage's context; a tagged k register may poison its task (R219, R293). -/
theorem emitResults_inside (p : Pass) (r : Token) (hdst : 4 ≤ v.w.dst.toNat) : ∃ tasks, 
    emitResults s v p [r] = ({ s with tasks := tasks } : State).modElem v.ea v.ctx (handedOn v p r) := by
  have hport : ¬ v.w.dst.toNat ≤ 3 := by omega
  simp only [emitResults, hport, if_false]
  cases (dstToK v.w && r.kind == .data && r.etag) with
  | false => exact ⟨s.tasks, rfl⟩
  | true =>
    cases v.e.task with
    | none => exact ⟨s.tasks, rfl⟩
    | some uid => exact ⟨_, rfl⟩

end

/-- Settles O38: the checker touches sites and records, the firing its own context and tasks, and the delivery the pass and one register. -/
theorem stageDelivery : Obligations.StageDelivery := by
  unfold Obligations.StageDelivery
  intro s v p t r op hdst helems hview _ hk hten u checked r' named next
  rw [hview] at hk hten
  obtain ⟨s₁, op₁, poison, hchecker, hframe₁, hparts₁⟩ := checkerFires_emit s v t r op
  have helems₁ : s₁.elems = s.elems := (congrArg State.elems hframe₁ :)
  have hctx₁ : ∀ ea c, s₁.elem ea c = s.elem ea c := fun ea c => by rw [State.elem, helems₁, State.elem]
  obtain ⟨s₂, hfired, hout⟩ := applyOut_emits (helems₁.symm ▸ helems) (by rw [hctx₁, hten]) hchecker p
  obtain ⟨tasks, hsent⟩ := emitResults_inside (s := s₂) (v := v) p r' hdst
  have hu : u = ({ s₂ with tasks := tasks } : State).modElem v.ea v.ctx (handedOn v p r') := hout.trans hsent
  have hk₂ : (s₂.elem v.ea v.ctx).k = v.e.k := by rw [hfired.regs, hctx₁, hview]
  have hown : u.elem v.ea v.ctx = handedOn v p r' (s₂.elem v.ea v.ctx) := by
    rw [hu]
    exact elem_modElem_same hfired.rising
  have hother : ∀ ea c, (ea, c) ≠ (v.ea, v.ctx) → u.elem ea c = s.elem ea c := fun ea c hne => by
    rw [hu, elem_modElem_other (by exact hfired.rising) hne]
    exact (hfired.other ea c hne).trans (hctx₁ ea c)
  have hparts : u.parts = s₁.parts := by rw [hu, hfired.frame]; rfl
  have hframe : u = { s with elems := u.elems, tasks := u.tasks, sites := u.sites, parts := u.parts } := by
    rw [hu, hfired.frame, hframe₁]
    rfl
  refine ⟨hown ▸ handedOn_pass p r' hdst _, fun n => ?_, hother, ?_⟩
  · rw [hown, handedOn_getK p r' (by rw [hk₂, hview, hk]), ElemCtx.getK, hk₂, ElemCtx.getK]
  · rw [hframe]
    exact ⟨rfl, rfl, rfl, rfl, fun h => hparts.trans (hparts₁ h), rfl, rfl, rfl, rfl, rfl⟩

end Sys2Proof.Proofs

namespace Sys2Proof.Proofs
open Sys2Proof.Machine

/-! ## Monitor checks (R225, R381) -/

/-- The check that a `mchk` stage makes of its group. -/
def mchkCheck (s : State) (v : View) : State × Bool :=
  checkGroup s (partOfSite s (eaSite v.ea)) (v.w.imm.toNat % 256) 0xFFFF (BitVec.ofNat 6 (originBlock s v.e.task v.ea)) (some (nodeOf v))

section
variable {s : State} {v : View}

theorem mchkToken_passes (t : Token) (hsel : v.op.sel = none) (hcheck : (mchkCheck s v).2 = true) :
    mchkToken s v t = ((mchkCheck s v).1, .emit v.op t) := by
  simp only [mchkToken, hsel]
  exact if_pos hcheck

theorem mchkToken_holds (t : Token) (hsel : v.op.sel = none) (hcheck : (mchkCheck s v).2 = false) :
    mchkToken s v t = ((mchkCheck s v).1, .wait { v.op with sel := some false }) := by
  simp only [mchkToken, hsel]
  exact if_neg (Bool.eq_false_iff.1 hcheck)

theorem mchkToken_released (t : Token) (hsel : v.op.sel = some true) : mchkToken s v t = (s, .emit { v.op with sel := none } t) := by
  simp only [mchkToken, hsel]

end

section
variable {s u : State} {v : View} {p : Pass} {popped : Bool} {op : OpSt} (h : Claims.OnData s v p 391 [] popped)
include h

theorem exec_mchk_passes
    (htoken : mchkToken s { v with op := Claims.followed v p 391 [] } (Claims.trigger (Claims.operands v p 391 [])) =
      (u, .emit op (Claims.trigger (Claims.operands v p 391 [])))) :
    exec (.mchk v.w) s =
      .next (Claims.fired u v p 391 popped (Claims.withRandom (Claims.operands v p 391 []) (.emit op (Claims.trigger (Claims.operands v p 391 []))))) := by
  show execMchk v.w s = _
  rw [execMchk]
  exact runStage_onData h rfl rfl rfl htoken rfl

theorem exec_mchk_holds
    (htoken : mchkToken s { v with op := Claims.followed v p 391 [] } (Claims.trigger (Claims.operands v p 391 [])) = (u, .wait op)) :
    exec (.mchk v.w) s = .next (Claims.waiting u v op) := by
  show execMchk v.w s = _
  rw [execMchk]
  exact runStage_onData_waits (r := .wait op) h rfl rfl rfl htoken rfl rfl

end

/-! ## MCACK from the lead (R226) -/

theorem setChannels_frame (l : List (Nat × Channel)) (f : Channel → Channel) : ∀ s : State,
    setChannels s l f = { s with channels := (setChannels s l f).channels } := by
  induction l with
  | nil => exact fun _ => rfl
  | cons p l ih => exact fun s => (ih _).trans rfl

/-- Who waits on an object is read from tasks, their contexts and their launches alone. -/
theorem tasksWaiting_congr {s u : State} (h : u = { s with barriers := u.barriers, channels := u.channels }) (obj : Nat) :
    tasksWaiting u obj = tasksWaiting s obj := by
  rw [h]
  rfl

theorem excuseWaiting_frame (s : State) (obj : Nat) : excuseWaiting s obj = { s with tasks := (excuseWaiting s obj).tasks } := by
  have hfold : ∀ (l : List Machine.Task) (since : State → Nat) (u : State),
      l.foldl (fun s t => excuse s (since s) t.uid) u = { u with tasks := (l.foldl (fun s t => excuse s (since s) t.uid) u).tasks } := by
    intro l since
    induction l with
    | nil => exact fun _ => rfl
    | cons t l ih => exact fun u => (ih _).trans rfl
  exact hfold _ (fun s => (s.barrier obj).since) s

theorem excuseWaiting_none {s : State} {obj : Nat} (h : tasksWaiting s obj = []) : excuseWaiting s obj = s := by
  rw [excuseWaiting, h]
  rfl

/-- A barrier object whose withheld phase completes (R248). -/
def nextPhase (b : Barrier) : Barrier := { b with phase := b.phase + 1, arr := b.arr - b.exp, pending := [] }

/-- A barrier object that no group withholds. -/
def unheld (b : Barrier) : Barrier := { b with pending := [] }

@[simp] theorem nextPhase_unheld (b : Barrier) : nextPhase (unheld b) = nextPhase b := rfl

theorem release_silent {s : State} {obj : Nat} (h : (s.barrier obj).evt = false) : release s obj = s.setBarrier obj (nextPhase (s.barrier obj)) :=
  if_neg (by simp [h])

section
variable {s : State} {obj group : Nat} (hpending : (s.barrier obj).pending = [group]) (hpark : (s.barrier obj).park = false)
include hpending hpark

/-- The end of the last hold on an object that is in service delivers its release (R226). -/
theorem endHold_releases : endHold s obj group = release (excuseWaiting (s.setBarrier obj (unheld (s.barrier obj))) obj) obj := by
  have hrest : (s.barrier obj).pending.filter (fun g => g != group) = [] := by simp [hpending]
  simp only [endHold, hrest]
  exact (if_neg (by decide)).trans (if_neg (by simp [hpark]))

theorem endHold_last (hbarriers : tabRising none s.barriers = true) (hevt : (s.barrier obj).evt = false) :
    let t := endHold s obj group
    t = { s with barriers := t.barriers, tasks := t.tasks } ∧ t.barrier obj = nextPhase (s.barrier obj) ∧
      (tasksWaiting s obj = [] → t.tasks = s.tasks) := by
  have hexcused := excuseWaiting_frame (s.setBarrier obj (unheld (s.barrier obj))) obj
  have hbarrier : (excuseWaiting (s.setBarrier obj (unheld (s.barrier obj))) obj).barrier obj = unheld (s.barrier obj) := by
    rw [hexcused]
    exact tabGet_tabSet_same hbarriers
  intro t
  have ht : t = (excuseWaiting (s.setBarrier obj (unheld (s.barrier obj))) obj).setBarrier obj (nextPhase (s.barrier obj)) := by
    have hrelease := release_silent (s := excuseWaiting (s.setBarrier obj (unheld (s.barrier obj))) obj) (obj := obj) (by rw [hbarrier]; exact hevt)
    rw [hbarrier, nextPhase_unheld] at hrelease
    exact (endHold_releases hpending hpark).trans hrelease
  refine ⟨?_, ?_, fun hnone => ?_⟩
  · rw [ht, hexcused]
    rfl
  · rw [ht, hexcused]
    exact tabGet_tabSet_same (tabSet_risingNone hbarriers)
  · rw [ht, excuseWaiting_none ((tasksWaiting_congr rfl obj).trans hnone)]
    rfl

end

theorem keyCtx_elemKey (ea : EAddr) (c : BitVec 2) : keyCtx (elemKey ea c) = c := by
  refine BitVec.eq_of_toNat_eq ?_
  rw [keyCtx, elemKey, BitVec.toNat_ofNat]
  omega

/-- A context whose operator n has the answer it waits for. -/
def answered (n : Nat) (e : ElemCtx) : ElemCtx := e.setOp n { e.op n with sel := some true }

/-- A waiting stage goes on: its operator takes the answer, and beside it only tasks change (R226, R381). -/
theorem letGo_eq {s : State} {ea : EAddr} {ctx : BitVec 2} {n : Nat} (since : Nat) (hn : n < 64) :
    ∃ tasks, letGo s (elemKey ea ctx * 64 + n, since) = { s.modElem ea ctx (answered n) with tasks := tasks } := by
  have hkey : (elemKey ea ctx * 64 + n) / 64 = elemKey ea ctx := by omega
  have hnode : (elemKey ea ctx * 64 + n) % 64 = n := by omega
  simp only [letGo, hkey, hnode, keyEa_elemKey, keyCtx_elemKey]
  cases (s.elem ea ctx).task with
  | none => exact ⟨_, rfl⟩
  | some uid => exact ⟨_, rfl⟩

theorem exec_mcackRelease_other {s : State} {c : BitVec 16} (h : mcackGroup s c.toNat = none) : exec (.mcackRelease c) s = .next s := by
  show Host.Outcome.next (ackRelease s c.toNat) = _
  rw [ackRelease, h]

theorem exec_mcackFail_other {s : State} {c : BitVec 16} (h : mcackGroup s c.toNat = none) : exec (.mcackFail c) s = .next s := by
  show Host.Outcome.next (ackFail s c.toNat) = _
  rw [ackFail, h]

/-- The machine when the members of a group have forgotten who waits. -/
def forgotten (s : State) (l : List (Nat × Channel)) : State := setChannels s l (fun ch => { ch with waiters := [] })

theorem forgotten_frame (s : State) (l : List (Nat × Channel)) : forgotten s l = { s with channels := (forgotten s l).channels } :=
  setChannels_frame ..

/-- The machine when the members of a group have applied their modes, with the total of channel c, and forgotten who waits. -/
def acknowledged (s : State) (l : List (Nat × Channel)) (c : Nat) : State := forgotten (applyModes s l (s.channel c).total) l

theorem acknowledged_frame (s : State) (l : List (Nat × Channel)) (c : Nat) :
    acknowledged s l c = { s with channels := (acknowledged s l c).channels } := by
  rw [acknowledged, forgotten_frame, applyModes, setChannels_frame]

section
variable {s : State} {c : BitVec 16} {part group : Nat} {l : List (Nat × Channel)} (hgroup : mcackGroup s c.toNat = some (part, group, l))

include hgroup

theorem exec_mcackRelease_object {obj : Nat} (hobj : withheldBy s part group = [obj]) (hnone : groupWaiters l = []) :
    exec (.mcackRelease c) s = .next (endHold (acknowledged s l c.toNat) obj group) := by
  show Host.Outcome.next (ackRelease s c.toNat) = _
  simp only [ackRelease, hgroup, hobj, hnone]
  rfl

theorem exec_mcackFail_object {obj : Nat} (hobj : withheldBy s part group = [obj]) (hnone : groupWaiters l = []) (hwaits : tasksWaiting s obj = []) :
    exec (.mcackFail c) s = .next (endHold (forgotten s l) obj group) := by
  have hstill : tasksWaiting (forgotten s l) obj = [] := (tasksWaiting_congr (by rw [forgotten_frame]) obj).trans hwaits
  show Host.Outcome.next (ackFail s c.toNat) = _
  unfold forgotten at hstill
  simp only [ackFail, hgroup, hobj, hnone, List.foldl_cons, List.foldl_nil, hstill]
  rfl

theorem exec_mcackRelease_waiter {w : Nat × Nat} (hobj : withheldBy s part group = []) (hone : groupWaiters l = [w]) :
    exec (.mcackRelease c) s = .next (letGo (acknowledged s l c.toNat) w) := by
  show Host.Outcome.next (ackRelease s c.toNat) = _
  simp only [ackRelease, hgroup, hobj, hone]
  rfl

theorem exec_mcackFail_waiter {w : Nat × Nat} (hobj : withheldBy s part group = []) (hone : groupWaiters l = [w])
    (htask : (s.elem (keyEa (w.1 / 64)) (keyCtx (w.1 / 64))).task = none) :
    exec (.mcackFail c) s = .next (letGo (forgotten s l) w) := by
  have hstill : ((forgotten s l).elem (keyEa (w.1 / 64)) (keyCtx (w.1 / 64))).task = none := by
    rw [forgotten_frame]
    exact htask
  show Host.Outcome.next (ackFail s c.toNat) = _
  unfold forgotten at hstill
  simp only [ackFail, hgroup, hobj, hone, List.foldl_cons, List.foldl_nil, hstill]
  rfl

end

/-- The end of the last hold on an object, once channels alone have changed (R226). -/
theorem endHold_channels {s u : State} {obj group : Nat} (hu : u = { s with channels := u.channels }) (hbarriers : tabRising none s.barriers = true)
    (hpending : (s.barrier obj).pending = [group]) (hpark : (s.barrier obj).park = false) (hevt : (s.barrier obj).evt = false) :
    let t := endHold u obj group
    t.barrier obj = nextPhase (s.barrier obj) ∧ t.sqs = s.sqs ∧ t.dmem = s.dmem ∧ (tasksWaiting s obj = [] → t.tasks = s.tasks) := by
  have hwaits : tasksWaiting u obj = tasksWaiting s obj := tasksWaiting_congr (by rw [hu]) obj
  rw [hu] at hwaits ⊢
  obtain ⟨hframe, hfreed, htasks⟩ := endHold_last (s := { s with channels := u.channels }) hpending hpark hbarriers hevt
  exact ⟨hfreed, (congrArg State.sqs hframe :), (congrArg State.dmem hframe :), fun hnone => htasks (hwaits.trans hnone)⟩

/-- The answer to a waiting stage, once channels alone have changed (R226, R381). -/
theorem letGo_channels {s u : State} {ea : EAddr} {ctx : BitVec 2} {n : Nat} (since : Nat) (hn : n < 64) (hu : u = { s with channels := u.channels })
    (helems : tabRising none s.elems = true) :
    let t := letGo u (elemKey ea ctx * 64 + n, since)
    let e := s.elem ea ctx
    t.elem ea ctx = e.setOp n { e.op n with sel := some true } ∧ (∀ f d, (f, d) ≠ (ea, ctx) → t.elem f d = s.elem f d) ∧
      t.barriers = s.barriers ∧ t.sqs = s.sqs ∧ t.dmem = s.dmem := by
  have hctx : ∀ f d, u.elem f d = s.elem f d := fun f d => by rw [hu]; rfl
  have hrising : tabRising none u.elems = true := by rw [hu]; exact helems
  obtain ⟨tasks, hgo⟩ := letGo_eq (s := u) (ea := ea) (ctx := ctx) since hn
  intro t e
  have ht : t = { u.modElem ea ctx (answered n) with tasks := tasks } := hgo
  have helem : ∀ f d, t.elem f d = (u.modElem ea ctx (answered n)).elem f d := fun f d => by rw [ht]; rfl
  refine ⟨?_, fun f d hne => ?_, ?_⟩
  · rw [helem, elem_modElem_same hrising, hctx, answered]
  · rw [helem, elem_modElem_other hrising hne, hctx]
  · rw [ht, hu]
    exact ⟨rfl, rfl, rfl⟩

/-- Settles O25: `mchk` follows its group's check, and MCACK ends the one hold, or lets the one waiting stage go on, or does nothing. -/
theorem monitorChecks : Obligations.MonitorChecks := by
  unfold Obligations.MonitorChecks
  intro s v p popped
  refine ⟨fun h => ⟨fun hsel hcheck => ?_, fun hsel hcheck => ?_, fun hsel => ?_⟩, ?_, ?_,
    fun c hnone => ⟨exec_mcackRelease_other hnone, exec_mcackFail_other hnone⟩⟩
  · exact exec_mchk_passes h (mchkToken_passes _ ((followed_sel h).trans hsel) hcheck)
  · exact exec_mchk_holds h (mchkToken_holds _ ((followed_sel h).trans hsel) hcheck)
  · exact exec_mchk_passes h (mchkToken_released _ ((followed_sel h).trans hsel))
  · intro c part group obj l hgroup hobj hnone hbarriers hpending hpark hevt freed
    have hends := fun {u : State} (hu : u = { s with channels := u.channels }) => endHold_channels hu hbarriers hpending hpark hevt
    refine ⟨⟨_, exec_mcackRelease_object hgroup hobj hnone, hends (acknowledged_frame s l _)⟩, fun hwaits => ?_⟩
    obtain ⟨hfreed, hsqs, hdmem, htasks⟩ := hends (forgotten_frame s l)
    exact ⟨_, exec_mcackFail_object hgroup hobj hnone hwaits, hfreed, hsqs, hdmem, htasks hwaits⟩
  · intro c part group n since l ea ctx hgroup hobj hone hn helems e sent
    have hgoes := fun {u : State} (hu : u = { s with channels := u.channels }) => letGo_channels (ea := ea) (ctx := ctx) since hn hu helems
    refine ⟨⟨_, exec_mcackRelease_waiter hgroup hobj hone, hgoes (acknowledged_frame s l _)⟩, fun htask => ?_⟩
    have hkey : (elemKey ea ctx * 64 + n) / 64 = elemKey ea ctx := by omega
    exact ⟨_, exec_mcackFail_waiter hgroup hobj hone (by rw [hkey, keyEa_elemKey, keyCtx_elemKey]; exact htask), hgoes (forgotten_frame s l)⟩

end Sys2Proof.Proofs

namespace Sys2Proof.Proofs
open Sys2Proof.Machine

/-! ## Traps taken by instructions, and the return from one (R241, R303, R345, R420) -/

/-- A word whose low n bits are cleared. -/
theorem clearLowBits_eq (n : Nat) (v : DWord) : v &&& ~~~BitVec.ofNat 64 (2 ^ n - 1) = BitVec.ofNat 64 (v.toNat / 2 ^ n * 2 ^ n) := by
  apply BitVec.eq_of_getLsbD_eq
  intro i hi
  rw [BitVec.getLsbD_and, BitVec.getLsbD_not, BitVec.getLsbD_ofNat, BitVec.getLsbD_ofNat, Nat.testBit_two_pow_sub_one, Nat.testBit_mul_two_pow,
    Nat.testBit_div_two_pow, BitVec.getLsbD]
  by_cases hlow : i < n
  · simp [hlow, hi]
  · rw [Nat.sub_add_cancel (by omega)]
    simp [hlow, hi, Nat.le_of_not_lt hlow]

theorem leaveTrap_eq (q : Sq) : q.leaveTrap = { q with priv := q.ppl, ie := q.pie, pc := BitVec.ofNat 64 (q.epc.toNat / 4 * 4), within := false } :=
  congrArg (fun pc => { q with priv := q.ppl, ie := q.pie, pc := pc, within := false }) (clearLowBits_eq 2 q.epc)

section
variable {s : State} {b : BitVec 6} (hr : Claims.Runs s b)
include hr

theorem exec_svc_traps {c : BitVec 5} (hc : c.toNat ≠ 31 ∨ (s.sq b).priv = false) : exec (.svc c) s = .next (takeTrap s b 5 (c.setWidth 8) 0) := by
  show execSvc c s = _
  rw [execSvc, runSq_of_runs hr]
  exact congrArg _ (if_pos (hc.imp_left fun hne heq => hne (congrArg BitVec.toNat heq)))

theorem exec_eret_returns (hp : (s.sq b).priv = true) : exec .eret s = .next (s.setSq b (s.sq b).leaveTrap) := by
  show execEret s = _
  rw [execEret, runSq_of_runs hr, supervisorOnly_supervisor hp]
  rfl

theorem exec_illegalInstruction_traps {w : Word} {e : DecodeError} (hword : icacheGet (s.sq b).icache (s.sq b).pc.toNat = some w)
    (hw : decodeSq w = .error e) : exec .illegalInstruction s = .next (takeTrap s b 2 (illegalSub e) 0) := by
  show execIllegalInstruction s = _
  have ⟨_, _, hhold⟩ := hr
  rw [execIllegalInstruction, runSq_of_runs hr, fetchWord_cached hhold hword]
  simp only [hw]

/-- Away from the first instruction of a vector a failed fetch traps. -/
theorem exec_instructionFetchFault_traps {sub : BitVec 8} {detail : BitVec 48}
    (hvec : ¬ (((s.sq b).pc - (s.sq b).tvec).toNat % 32 = 0 ∧ 1 ≤ ((s.sq b).pc - (s.sq b).tvec).toNat / 32 ∧ ((s.sq b).pc - (s.sq b).tvec).toNat / 32 ≤ 6)) :
    exec (.instructionFetchFault sub detail) s = .next (takeTrap s b 1 sub detail) := by
  obtain ⟨hfocus, hrun, -⟩ := hr
  show execInstructionFetchFault sub detail s = _
  simp only [execInstructionFetchFault, hfocus, hrun, if_true, fetchFault]
  exact congrArg _ (if_neg hvec)

end

/-- Settles O3: each of the four is one trap of the shared operation, or the return from one. -/
theorem trapsAndReturn : Obligations.TrapsAndReturn := by
  unfold Obligations.TrapsAndReturn
  intro s b hr q
  refine ⟨fun c hc => ?_, fun hp => ?_, fun w e hword hw => ?_, fun sub detail hvec => ?_⟩
  · have hsub : (c.setWidth 8).toNat = c.toNat := by rw [BitVec.toNat_setWidth]; omega
    rw [exec_svc_traps hr hc, takeTrap_eq, hsub]; rfl
  · rw [exec_eret_returns hr hp, leaveTrap_eq]
  · rw [exec_illegalInstruction_traps hr hword hw, takeTrap_eq]
    cases e <;> rfl
  · rw [exec_instructionFetchFault_traps hr hvec, takeTrap_eq]; rfl

end Sys2Proof.Proofs

namespace Sys2Proof.Proofs
open Sys2Proof.Machine

/-! ## Events, `wfe`, `evp` and the instructions that order (R239, R346, R353, R426) -/

/-- An ordering form is its effect behind the fence, and so is one for supervisors, at their level. -/
theorem exec_orders {i : Instr} (hi : Claims.orders i = true) : ∃ f : State → BitVec 6 → State, (∀ s, exec i s = runSq s (fenced f)) ∨
    Claims.supervisorForm i = true ∧ ∀ s, exec i s = runSq s (fun s k => supervisorOnly s k (fenced f s k)) := by
  unfold Claims.orders at hi
  split at hi
  case h_8 => cases hi
  case h_4 | h_5 | h_6 => exact ⟨_, .inr ⟨rfl, fun _ => rfl⟩⟩
  all_goals exact ⟨_, .inl fun _ => rfl⟩

theorem exec_orders_runs {i : Instr} (hi : Claims.orders i = true) :
    ∃ f : State → BitVec 6 → State, ∀ (s : State) (b : BitVec 6), Claims.Runs s b → (Claims.supervisorForm i = false ∨ (s.sq b).priv = true) →
      exec i s = .next (fenced f s b) := by
  obtain ⟨f, hplain | ⟨hform, hsupervisor⟩⟩ := exec_orders hi
  · exact ⟨f, fun s b hr _ => by rw [hplain, runSq_of_runs hr]⟩
  · exact ⟨f, fun s b hr hp => by
      rw [hsupervisor, runSq_of_runs hr, supervisorOnly_supervisor (hp.resolve_left (by rw [hform]; decide))]⟩

theorem performAll_none {s : State} {b : BitVec 6} (h : (s.sq b).pend = []) : performAll s b = s := by
  rw [performAll, h, List.foldl_nil]

/-- With nothing of the sequencer on its way the fence lets the instruction through. -/
theorem fenced_ordered {s : State} {b : BitVec 6} (h : Claims.Ordered s b) (f : State → BitVec 6 → State) : fenced f s b = f s b := by
  obtain ⟨hpend, hwaits⟩ := h
  simp only [fenced, performAll_none hpend, hwaits, Bool.false_eq_true, if_false]

section
variable {s : State} {b : BitVec 6} (hr : Claims.Runs s b)
include hr

theorem exec_eventInterrupt_traps (hie : (s.sq b).ie = true) (hev : (s.sq b).evTail ≠ (s.sq b).evHead) (hwithin : (s.sq b).within = false)
    (harrival : (s.sq b).arrival = none) : exec .eventInterrupt s = .next (takeTrap s b 6 0 0) := by
  obtain ⟨hfocus, hrun, hhold⟩ := hr
  have hmay : interruptible s b = true := by
    simp [interruptible, hrun, hie, Sq.evEmpty, hev, hhold, hwithin, arrivalWhole, harrival]
  have hkept : withdraw s b = s := by simp only [withdraw, harrival]
  show execEventInterrupt s = _
  simp only [execEventInterrupt, hfocus, hmay, if_true, hkept]

theorem exec_wfe_completes (hev : (s.sq b).evTail ≠ (s.sq b).evHead) : exec .wfe s = .next (retire s b id) := by
  show execWfe s = _
  rw [execWfe, runSq_of_runs hr]
  exact congrArg _ (if_neg (by simpa [Sq.evEmpty] using hev))

theorem exec_wfe_waits (hev : (s.sq b).evTail = (s.sq b).evHead) : exec .wfe s = .next (stayWithin s b) := by
  show execWfe s = _
  rw [execWfe, runSq_of_runs hr]
  exact congrArg _ (if_pos (by simpa [Sq.evEmpty] using hev))

theorem exec_fen_completes (ho : Claims.Ordered s b) (sc : BitVec 2) : exec (.fen sc) s = .next (retire s b id) := by
  show execFen sc s = _
  rw [execFen, runSq_of_runs hr, fenced_ordered ho]

/-- An ordering form performs the sequencer's stores, and then waits or goes on as it would after them. -/
theorem exec_orders_performs {i : Instr} (hi : Claims.orders i = true) (hp : Claims.supervisorForm i = false ∨ (s.sq b).priv = true)
    (hu : Claims.Runs (performAll s b) b) (hpriv : ((performAll s b).sq b).priv = (s.sq b).priv) (hpend : ((performAll s b).sq b).pend = []) :
    exec i s = if unitWaits (performAll s b) ((performAll s b).sq b).part.toNat b 0 0 0 = true then .next (stayWithin (performAll s b) b)
      else exec i (performAll s b) := by
  obtain ⟨f, he⟩ := exec_orders_runs hi
  rw [he s b hr hp, he _ b hu (hpriv ▸ hp)]
  simp only [fenced, performAll_none hpend]
  split <;> rfl

theorem exec_evp_empty (hev : (s.sq b).evTail = (s.sq b).evHead) (d : BitVec 5) : exec (.evp d) s = .next (retireG s b d 0) := by
  show execEvp d s = _
  rw [execEvp, runSq_of_runs hr]
  exact congrArg _ (if_pos (by simpa [Sq.evEmpty] using hev))

end

/-- The registers once `evp` has handed over the entry x at HEAD. -/
def poppedEvent (d : BitVec 5) (x : Nat) (q : Sq) : Sq := { q.setG d (BitVec.ofNat 64 x) with evHead := q.evHead + 1 }

theorem setG_evHeld (q : Sq) (d : BitVec 5) (v : DWord) : (q.setG d v).evHeld = q.evHeld := by
  rw [Sq.setG]
  split <;> rfl

/-- The machine once `evp` has put the entry x into the event window of its block and advanced HEAD (R346). -/
def afterEvp (u : State) (b : BitVec 6) (d : BitVec 5) (x : Nat) : State :=
  retire { u with lram := memSetNat u.lram (lramKey b 0xFE0) 32 x } b (poppedEvent d x)

theorem afterEvp_lram (u : State) (b : BitVec 6) (d : BitVec 5) (x : Nat) :
    (afterEvp u b d x).lram = memSetNat u.lram (lramKey b 0xFE0) 32 x := by
  rw [afterEvp, retire, State.modSq, State.setSq]

theorem afterEvp_sqs (u : State) (b : BitVec 6) (d : BitVec 5) (x : Nat) : (afterEvp u b d x).sqs = (retire u b (poppedEvent d x)).sqs := by
  rw [afterEvp, retire, retire, State.modSq, State.modSq, State.setSq, State.setSq, State.sq, State.sq]

theorem lramKey_window (b : BitVec 6) : lramKey b 0xFE0 = b.toNat * 4096 + 0xFE0 := rfl

theorem ramNat_eq (s : State) (b : BitVec 6) (off n : Nat) : Claims.ramNat s b off n = memNat s.lram (b.toNat * 4096 + off) n := by
  rw [memNat, memBytes_eq_map]; rfl

section
variable {u : State} (b : BitVec 6) (d : BitVec 5) (x : Nat) (h : memWf u.lram = true)
include h

theorem ramNat_afterEvp : Claims.ramNat (afterEvp u b d x) b 0xFE0 32 = x % 256 ^ 32 := by
  rw [ramNat_eq, ← lramKey_window, afterEvp_lram, memNat_memSetNat h]

theorem memByte_afterEvp_outside {k : Nat} (hk : k < b.toNat * 4096 + 0xFE0 ∨ b.toNat * 4096 + 0x1000 ≤ k) :
    memByte (afterEvp u b d x).lram k = memByte u.lram k := by
  rw [afterEvp_lram, memByte_memSetNat_outside h (by rw [lramKey_window]; omega)]

end

section
variable {s u : State} {b : BitVec 6} {d : BitVec 5} {x : Nat} {f : Bool} (hsq : tabRising none s.sqs = true) (hu : u.sqs = s.sqs)
include hsq hu

theorem sq_afterEvp (c : BitVec 6) : (afterEvp u b d x).sq c = if c = b then Claims.nextPc (poppedEvent d x (s.sq b)) else s.sq c := by
  have hrising : tabRising none u.sqs = true := by rw [hu, hsq]
  have hkept : ∀ c, u.sq c = s.sq c := fun c => by rw [State.sq, hu, State.sq]
  rw [State.sq, afterEvp_sqs]
  split
  · next heq => subst heq; exact (sq_modSq_same hrising).trans (by rw [hkept]; rfl)
  · next hne => exact (sq_modSq_other hrising hne).trans (hkept c)

/-- `evp` with the ring entry read: the window and the registers are written, and no held event waits to enter. -/
theorem exec_evp_pops (hr : Claims.Runs s b) (hev : (s.sq b).evTail ≠ (s.sq b).evHead) (hheld : (s.sq b).evHeld = [])
    (hread : spadReadNat s (blockMt b.toNat (((s.sq b).evBase.toNat + 32 * ((s.sq b).evHead.toNat % 256)) / 2 ^ 21 % 16))
      (((s.sq b).evBase.toNat + 32 * ((s.sq b).evHead.toNat % 256)) % 2 ^ 21) 32 = (u, x, f)) :
    exec (.evp d) s = .next (afterEvp u b d x) := by
  have hnone : ((afterEvp u b d x).sq b).evHeld = [] := by
    rw [sq_afterEvp hsq hu, if_pos rfl]
    exact (setG_evHeld ..).trans hheld
  show execEvp d s = _
  rw [execEvp, runSq_of_runs hr]
  refine congrArg _ ((if_neg (by simpa [Sq.evEmpty] using hev)).trans ?_)
  simp only [blockSpad, hread]
  exact drainEvents_none hnone _

end

/-- Settles O9: an interrupt is one trap, a fenced form is its effect behind its stores, and `evp` writes its window and its registers alone. -/
theorem events : Obligations.Events := by
  unfold Obligations.Events
  refine ⟨fun s b hr => ?_, fun s b hr => ?_, fun s u b d x f hr hev hheld hlram hsq => ?_⟩
  · intro q hie hev hwithin harrival
    rw [exec_eventInterrupt_traps hr hie hev hwithin harrival, takeTrap_eq]; rfl
  · intro q
    refine ⟨exec_wfe_completes hr, exec_wfe_waits hr, exec_fen_completes hr, ?_, fun d hev => exec_evp_empty hr hev d⟩
    intro i hi hp u hfocus hrun hhold hpriv hpend
    exact exec_orders_performs hr hi hp ⟨hfocus.trans hr.1, hrun, hhold⟩ hpriv hpend
  · intro q a hread hu hulram
    have hwf : memWf u.lram = true := (congrArg memWf hulram).trans hlram
    refine ⟨_, exec_evp_pops hsq hu hr hev hheld hread, ?_, fun c hc => ?_, ramNat_afterEvp b d x hwf, fun k hk => ?_⟩
    · rw [sq_afterEvp hsq hu, if_pos rfl]; rfl
    · rw [sq_afterEvp hsq hu, if_neg hc]
    · rw [← hulram]
      exact memByte_afterEvp_outside b d x hwf hk

end Sys2Proof.Proofs
namespace Sys2Proof.Proofs
open Sys2Proof.Machine

/-! ## Arrivals at a barrier object that is in service (R248) -/

theorem barrier_setBarrier_same {s : State} (h : tabRising none s.barriers = true) (o : Nat) (b : Barrier) : (s.setBarrier o b).barrier o = b :=
  tabGet_tabSet_same h

theorem setBarrier_setBarrier {s : State} (h : tabRising none s.barriers = true) (o : Nat) (b c : Barrier) :
    (s.setBarrier o b).setBarrier o c = s.setBarrier o c := by
  simp only [State.setBarrier, tabSet_tabSet_same h]

theorem onlyBarrier_setBarrier {s : State} (h : tabRising none s.barriers = true) (o : Nat) (b : Barrier) : Claims.onlyBarrier s (s.setBarrier o b) o b :=
  ⟨rfl, barrier_setBarrier_same h o b, fun _ hne => tabGet_tabSet_other h hne⟩

theorem onlyBarrier_self (s : State) (o : Nat) : Claims.onlyBarrier s s o (s.barrier o) := ⟨rfl, rfl, fun _ _ => rfl⟩

/-- A barrier object with n more arrivals counted, before any phase completes. -/
def added (b : Barrier) (n : Nat) : Barrier := { b with arr := b.arr + BitVec.ofNat 24 n }

/-- A barrier object whose phase completes as soon as ARR covers EXP. -/
def afterPhase (b : Barrier) : Barrier := if b.arr.toNat < b.exp.toNat then b else nextPhase b

theorem counted_eq {b : Barrier} {n : Nat} (hpending : b.pending = []) (hfits : b.arr.toNat + n < 2 ^ 24) :
    Claims.counted b n = afterPhase (added b n) := by
  have harr : BitVec.ofNat 24 (b.arr.toNat + n) = b.arr + BitVec.ofNat 24 n := by rw [BitVec.ofNat_add, BitVec.ofNat_toNat, BitVec.setWidth_eq]
  have hnat : (b.arr + BitVec.ofNat 24 n).toNat = b.arr.toNat + n := by rw [← harr, BitVec.toNat_ofNat, Nat.mod_eq_of_lt hfits]
  obtain ⟨exp, evt, evsq, en, part, park, arr, phase, mbox, held, pending⟩ := b
  dsimp only at hpending harr hnat
  simp only [Claims.counted, afterPhase, added, nextPhase, harr, hnat, hpending]

/-- R248: with no group bound and no event asked for, the phase of an object in service completes as soon as ARR covers EXP. -/
theorem completePhase_inService {s : State} {obj : Nat} (hpark : (s.barrier obj).park = false) (hpending : (s.barrier obj).pending = [])
    (hevt : (s.barrier obj).evt = false) (hgroups : barGroups s (s.barrier obj) obj = []) :
    completePhase s obj = if (s.barrier obj).arr.toNat < (s.barrier obj).exp.toNat then s else s.setBarrier obj (nextPhase (s.barrier obj)) := by
  simp only [completePhase, hpark, hpending, hgroups, List.foldl_nil, List.isEmpty_nil, Bool.not_true, Bool.false_eq_true, or_false, if_true,
    release_silent hevt]

theorem phaseDone_iff {s : State} {obj : Nat} {p : Word} : phaseDone s obj p = true ↔ Claims.done (s.barrier obj).phase p := by
  rw [phaseDone, Bool.and_eq_true, decide_eq_true_eq, decide_eq_true_eq, Claims.done]

section
variable {s : State} {obj n : Nat} (hfree : Claims.Free s obj n)
include hfree

theorem rising_of_free : tabRising none s.barriers = true := by
  obtain ⟨-, -, -, -, -, -, hrising⟩ := hfree
  exact hrising

theorem onlyBarrier_counted : Claims.onlyBarrier s (s.setBarrier obj (Claims.counted (s.barrier obj) n)) obj (Claims.counted (s.barrier obj) n) :=
  onlyBarrier_setBarrier (rising_of_free hfree) ..

/-- R248: an object in service counts an arrival whole, and completes a phase when that reaches EXP. -/
theorem arrive_free {a : Arrival} (hn : a.count = n) : arrive s obj a = s.setBarrier obj (Claims.counted (s.barrier obj) n) := by
  obtain ⟨hpark, hheld, hpending, hevt, hgroups, hfits, hrising⟩ := hfree
  have hroom : min (2 ^ 24 - 1 - (s.barrier obj).arr.toNat) n = n := by omega
  have hadd : addHeld (s.setBarrier obj { s.barrier obj with held := [a] }) obj 1 = s.setBarrier obj (added (s.barrier obj) n) := by
    simp only [addHeld, barrier_setBarrier_same hrising, hn, hroom, if_true, setBarrier_setBarrier hrising, added]
    rw [← hheld]
  have hadded : (s.setBarrier obj (added (s.barrier obj) n)).barrier obj = added (s.barrier obj) n := barrier_setBarrier_same hrising ..
  have harrive : arrive s obj a = completePhase (s.setBarrier obj (added (s.barrier obj) n)) obj := by
    rw [arrive, hheld, ← hadd]
    exact if_neg (by rw [hpark]; decide)
  rw [harrive, completePhase_inService (by rw [hadded]; exact hpark) (by rw [hadded]; exact hpending) (by rw [hadded]; exact hevt)
    (by rw [hadded]; exact hgroups), hadded, setBarrier_setBarrier hrising, counted_eq hpending hfits, afterPhase]
  split <;> rfl

theorem counted_held : (Claims.counted (s.barrier obj) n).held = [] := by
  obtain ⟨-, hheld, -⟩ := hfree
  rw [Claims.counted]
  split <;> exact hheld

/-- Nothing of an arrival is left to add once an object in service has counted it. -/
theorem arrivalHeld_counted (who : Nat) : arrivalHeld (s.setBarrier obj (Claims.counted (s.barrier obj) n)) obj who = false := by
  rw [arrivalHeld, barrier_setBarrier_same (rising_of_free hfree), counted_held hfree]
  rfl

theorem arrivalHeld_free (who : Nat) : arrivalHeld s obj who = false := by
  obtain ⟨-, hheld, -⟩ := hfree
  rw [arrivalHeld, hheld]
  rfl

end

/-- BARRIER_NEXT_PHASE completes the one further phase that ARR covers, if any (R248). -/
theorem exec_barrierNextPhase_free {s : State} {o : BitVec 12} (hfree : Claims.Free s o.toNat 0) :
    ∃ u, exec (.barrierNextPhase o) s = .next u ∧ Claims.onlyBarrier s u o.toNat (Claims.counted (s.barrier o.toNat) 0) := by
  obtain ⟨hpark, hheld, hpending, hevt, hgroups, hfits, hrising⟩ := hfree
  have hadd : addHeld s o.toNat ((s.barrier o.toNat).held.length + 1) = s := by simp only [addHeld, hheld]
  have hexec : exec (.barrierNextPhase o) s = .next (completePhase s o.toNat) := by
    show execBarrierNextPhase o s = _
    simp only [execBarrierNextPhase, hpark, Bool.false_eq_true, if_false, hadd]
  have hadded : added (s.barrier o.toNat) 0 = s.barrier o.toNat := by simp [added]
  refine ⟨_, hexec, ?_⟩
  rw [counted_eq hpending hfits, hadded, completePhase_inService hpark hpending hevt hgroups, afterPhase]
  split
  · exact onlyBarrier_self s _
  · exact onlyBarrier_setBarrier hrising ..

end Sys2Proof.Proofs

namespace Sys2Proof.Proofs
open Sys2Proof.Machine

/-! ## `post`, `barr` and `bwait` (R327, R328, R393) -/

/-- The phase that a barrier operator's coming token awaits. -/
def awaited (s : State) (v : View) : Word := v.op.phase.getD (s.barrier (syncObject s v)).phase

/-- What a barrier operator remembers of a token: whether it has arrived, and the phase it awaits. -/
def remembered (op : OpSt) (arrived : Bool) (phase : Option Word) : OpSt := { op with sel := if arrived then some true else none, phase := phase }

theorem followed_phase {s : State} {v : View} {p : Pass} {code : Nat} {fmts : List Nat} {popped : Bool} (h : Claims.OnData s v p code fmts popped) :
    (Claims.followed v p code fmts).phase = v.op.phase := by
  obtain ⟨r, n, he⟩ := followed_eq h; rw [he]

section
variable {s u : State} {v : View} {arrives waits : Bool} (t : Token) (hu : (if arrives then arriveOnce s v (syncObject s v) else s) = u)
include hu

theorem syncToken_emits (hheld : arrives = true → arrivalHeld u (syncObject s v) (nodeOf v) = false)
    (hdone : waits = true → phaseDone u (syncObject s v) (awaited s v) = true) :
    syncToken arrives waits s v t = (u, .emit (remembered v.op false (if waits then some (awaited s v + 1) else none)) t) := by
  have hgo : (arrives && arrivalHeld u (syncObject s v) (nodeOf v) || waits && !phaseDone u (syncObject s v) (awaited s v)) = false := by
    cases arrives <;> cases waits <;> simp_all
  unfold awaited at hgo
  simp only [syncToken, hu, hgo, Bool.false_eq_true, if_false]
  rfl

theorem syncToken_holds (hwaits : waits = true) (hnot : phaseDone u (syncObject s v) (awaited s v) = false) :
    syncToken arrives waits s v t = (u, .wait (remembered v.op arrives (some (awaited s v)))) := by
  subst hwaits
  have hstay : (arrives && arrivalHeld u (syncObject s v) (nodeOf v) || true && !phaseDone u (syncObject s v) (awaited s v)) = true := by
    rw [hnot]; exact Bool.or_true _
  unfold awaited at hstay
  simp only [syncToken, hu, hstay, if_true]
  rfl

end

section
variable {s : State} {v : View} {p : Pass} {code : Nat} {popped : Bool} (h : Claims.OnData s v p code [] popped)
include h

theorem awaited_followed : awaited s { v with op := Claims.followed v p code [] } = awaited s v := by rw [awaited, followed_phase h]; rfl

theorem arriveOnce_followed (obj : Nat) : arriveOnce s { v with op := Claims.followed v p code [] } obj = arriveOnce s v obj := by
  rw [arriveOnce, arriveOnce, followed_sel h]; rfl

end

section
variable {s u : State} {v : View} {p : Pass} {popped : Bool} {i : Instr} {code : Nat} {arrives waits : Bool}
  (hi : exec i s = runStage s v.w (syncOp code arrives waits)) (h : Claims.OnData s v p code [] popped)
  (hu : (if arrives then arriveOnce s v (syncObject s v) else s) = u)
include hi h hu

/-- A barrier operator whose token need not wait passes it on unchanged. -/
theorem exec_sync_goes (hheld : arrives = true → arrivalHeld u (syncObject s v) (nodeOf v) = false)
    (hdone : waits = true → phaseDone u (syncObject s v) (awaited s v) = true) :
    exec i s = .next (Claims.fired u v p code popped (Claims.withRandom (Claims.operands v p code [])
      (.emit (remembered (Claims.followed v p code []) false (if waits then some (awaited s v + 1) else none)) (Claims.trigger (Claims.operands v p code []))))) := by
  have hsame := awaited_followed h
  rw [← arriveOnce_followed h] at hu
  rw [hi]
  refine runStage_onData h rfl rfl rfl ?_ rfl
  exact (syncToken_emits (v := { v with op := Claims.followed v p code [] }) _ hu hheld (by rw [hsame]; exact hdone)).trans (by rw [hsame]; rfl)

/-- A barrier operator holds its token until the awaited phase has completed. -/
theorem exec_sync_holds (hwaits : waits = true) (hnot : phaseDone u (syncObject s v) (awaited s v) = false) :
    exec i s = .next (Claims.waiting u v (remembered (Claims.followed v p code []) arrives (some (awaited s v)))) := by
  have hsame := awaited_followed h
  rw [← arriveOnce_followed h] at hu
  rw [hi]
  refine runStage_onData_waits (r := .wait _) h rfl rfl rfl ?_ rfl rfl
  exact (syncToken_holds (v := { v with op := Claims.followed v p code [] }) _ hu hwaits (by rw [hsame]; exact hnot)).trans (by rw [hsame]; rfl)

end

theorem phaseDone_counted {s : State} {obj n : Nat} (hfree : Claims.Free s obj n) (p : Word) :
    phaseDone (s.setBarrier obj (Claims.counted (s.barrier obj) n)) obj p = true ↔ Claims.done (Claims.counted (s.barrier obj) n).phase p := by
  rw [phaseDone_iff, barrier_setBarrier_same (rising_of_free hfree)]

/-- A token that has not arrived yet arrives once (R327). -/
theorem arriveOnce_first {s : State} {v : View} (hsel : v.op.sel = none) (hfree : Claims.Free s (syncObject s v) 1) :
    arriveOnce s v (syncObject s v) = s.setBarrier (syncObject s v) (Claims.counted (s.barrier (syncObject s v)) 1) := by
  rw [arriveOnce, if_neg (by rw [hsel]; decide), arrive_free hfree rfl]

theorem arriveOnce_again {s : State} {v : View} (hsel : v.op.sel = some true) (obj : Nat) : arriveOnce s v obj = s := if_pos hsel

/-- Settles O23: the three are one operator, which arrives, or waits, or both. -/
theorem barrierOperators : Obligations.BarrierOperators := by
  unfold Obligations.BarrierOperators
  intro s v p popped obj b ph x op goes
  refine ⟨fun h hsel hfree => ?_, fun h hsel hfree => ?_, fun h hsel hfree hdone => ?_, fun h => ⟨fun hdone => ?_, fun hnot => ?_⟩⟩
  · exact ⟨_, onlyBarrier_counted hfree, exec_sync_goes (arrives := true) (waits := false) rfl h (arriveOnce_first hsel hfree)
      (fun _ => arrivalHeld_counted hfree _) (fun hwaits => absurd hwaits (by decide))⟩
  · refine ⟨_, onlyBarrier_counted hfree, fun hdone => ?_, fun hnot => ?_⟩
    · exact exec_sync_goes (arrives := true) (waits := true) rfl h (arriveOnce_first hsel hfree) (fun _ => arrivalHeld_counted hfree _)
        (fun _ => (phaseDone_counted hfree ph).2 hdone)
    · exact exec_sync_holds (arrives := true) (waits := true) rfl h (arriveOnce_first hsel hfree) rfl
        (Bool.eq_false_iff.2 fun hdone => hnot ((phaseDone_counted hfree ph).1 hdone))
  · exact exec_sync_goes (arrives := true) (waits := true) rfl h (arriveOnce_again hsel obj) (fun _ => arrivalHeld_free hfree _)
      (fun _ => phaseDone_iff.2 hdone)
  · exact exec_sync_goes (arrives := false) (waits := true) rfl h rfl (fun harrives => absurd harrives (by decide)) (fun _ => phaseDone_iff.2 hdone)
  · exact exec_sync_holds (arrives := false) (waits := true) rfl h rfl rfl (Bool.eq_false_iff.2 fun hdone => hnot (phaseDone_iff.1 hdone))

end Sys2Proof.Proofs

namespace Sys2Proof.Proofs
open Sys2Proof.Machine

/-! ## `bara` and `barw` (R326) -/

/-- A barrier instruction of block k may use the object that x names: in range, allocated, of its partition. -/
def Usable (s : State) (k : BitVec 6) (x : DWord) : Prop := x.toNat < 4096 ∧ (s.barrier x.toNat).en = true ∧ (s.barrier x.toNat).part = (s.sq k).part

theorem mayUseBarrier_iff {s : State} {k : BitVec 6} {x : DWord} : mayUseBarrier s k x = true ↔ Usable s k x := by
  rw [mayUseBarrier, Bool.and_eq_true, Bool.and_eq_true, decide_eq_true_eq, beq_iff_eq, and_assoc, Usable]

theorem count24_eq (x : DWord) : (x.extractLsb' 0 24).toNat = x.toNat % 2 ^ 24 := by
  rw [extractLsb'_zero, BitVec.toNat_ofNat]

section
variable {s : State} {k : BitVec 6} {a c : BitVec 5} (hr : Claims.Runs s k)
include hr

section
variable (ho : Claims.Ordered s k) (harrival : (s.sq k).arrival = none)
include ho harrival

theorem exec_bara_unusable (hnot : ¬ Usable s k ((s.sq k).getG a)) : exec (.bara a c) s = .next (takeTrap s k 4 9 0) := by
  show execBara a c s = _
  rw [execBara, runSq_of_runs hr, fenced_ordered ho]
  simp only [harrival]
  exact congrArg _ (if_pos (by rw [Bool.eq_false_iff.2 (mayUseBarrier_iff.not.2 hnot)]; rfl))

theorem exec_bara_nothing (hmay : Usable s k ((s.sq k).getG a)) (hn : ((s.sq k).getG c).toNat % 2 ^ 24 = 0) :
    exec (.bara a c) s = .next (retire s k id) := by
  show execBara a c s = _
  rw [execBara, runSq_of_runs hr, fenced_ordered ho]
  simp only [harrival, mayUseBarrier_iff.2 hmay, count24_eq, hn, Bool.not_true, Bool.false_eq_true, if_false, if_true]

/-- An object in service takes the whole count at once, and the instruction completes. -/
theorem exec_bara_adds {n : Nat} (hmay : Usable s k ((s.sq k).getG a)) (hn : ((s.sq k).getG c).toNat % 2 ^ 24 = n) (hpos : 0 < n)
    (hfree : Claims.Free s ((s.sq k).getG a).toNat n) :
    exec (.bara a c) s = .next (retire (s.setBarrier ((s.sq k).getG a).toNat (Claims.counted (s.barrier ((s.sq k).getG a).toNat) n)) k id) := by
  have harrive := arrive_free hfree (a := { src := BitVec.ofNat 16 (0xFFC0 + k.toNat), who := sqArriver k, count := n }) rfl
  show execBara a c s = _
  rw [execBara, runSq_of_runs hr, fenced_ordered ho]
  simp only [harrival, mayUseBarrier_iff.2 hmay, count24_eq, hn, Bool.not_true, Bool.false_eq_true, if_false, Nat.ne_of_gt hpos, harrive,
    arrivalHeld_counted hfree]

end

theorem exec_barw_unusable (hnot : ¬ Usable s k ((s.sq k).getG a)) : exec (.barw a c) s = .next (takeTrap s k 4 9 0) := by
  show execBarw a c s = _
  rw [execBarw, runSq_of_runs hr]
  exact congrArg _ (if_pos (by rw [Bool.eq_false_iff.2 (mayUseBarrier_iff.not.2 hnot)]; rfl))

/-- `barw` completes or stays, as the phase that g[B] names has completed or not. -/
theorem exec_barw_usable (hmay : Usable s k ((s.sq k).getG a)) :
    exec (.barw a c) s = .next (if phaseDone s ((s.sq k).getG a).toNat (BitVec.ofNat 32 ((s.sq k).getG c).toNat) then retire s k id else s) := by
  show execBarw a c s = _
  rw [execBarw, runSq_of_runs hr]
  exact congrArg _ (if_neg (by rw [mayUseBarrier_iff.2 hmay]; decide))

end

/-- Settles O24: `bara` is one arrival of its count, `barw` a test of a phase, and BARRIER_NEXT_PHASE an arrival of nothing. -/
theorem barrierInstructions : Obligations.BarrierInstructions := by
  unfold Obligations.BarrierInstructions
  intro s k a c hr q obj b n mine
  refine ⟨fun ho hmine harrival hn => ?_, fun ho hmine harrival hpos hfree => ?_, fun hmine hdone => ?_, fun hmine hnot => ?_,
    fun ho hnot harrival => ⟨?_, ?_⟩, fun o hfree => exec_barrierNextPhase_free hfree⟩
  · exact exec_bara_nothing hr ho harrival hmine hn
  · exact ⟨_, onlyBarrier_counted hfree, exec_bara_adds hr ho harrival hmine rfl hpos hfree⟩
  · rw [exec_barw_usable hr hmine, if_pos (phaseDone_iff.2 hdone)]; rfl
  · rw [exec_barw_usable hr hmine, if_neg (phaseDone_iff.not.2 hnot)]
  · rw [exec_bara_unusable hr ho harrival hnot, takeTrap_eq]; rfl
  · rw [exec_barw_unusable hr hnot, takeTrap_eq]; rfl

end Sys2Proof.Proofs

namespace Sys2Proof.Proofs
open Sys2Proof.Machine

/-! ## Fault records and their events (R235, Table 3-12) -/

theorem evFull_iff {q : Sq} : q.evFull = true ↔ q.evTail - q.evHead = 256#9 := by rw [Sq.evFull, beq_iff_eq]

theorem bytesToNat_append (l m : List Byte) : bytesToNat (l ++ m) = bytesToNat l + 256 ^ l.length * bytesToNat m := by
  induction l with
  | nil => simp [bytesToNat]
  | cons b l ih =>
    rw [List.cons_append, bytesToNat, bytesToNat, ih, List.length_cons, Nat.pow_succ]
    ring

/-- An event before it has its number: type, source and body lie one above the other (Table 3-12). -/
theorem eventWord_toNat {type eaddr : Nat} {body : List Byte} (ht : type < 2 ^ 16) (ha : eaddr < 2 ^ 16) (hbody : body.length ≤ 24) :
    (eventWord type eaddr body).toNat = type + 2 ^ 16 * eaddr + 2 ^ 64 * bytesToNat body := by
  have hlt : bytesToNat body < 256 ^ 24 := (bytesToNat_lt body).trans_le (Nat.pow_le_pow_right (by decide) hbody)
  rw [eventWord, List.take_of_length_le hbody, BitVec.toNat_ofNat]
  simp only [bytesToNat_append, bytesToNat_natToBytes, length_natToBytes, List.length_append]
  omega

/-- An event to a halted sequencer stays at its producer (log 17). -/
theorem postEvent_halted {s : State} {b : BitVec 6} (h : (s.sq b).run = false) (type eaddr : Nat) (body : List Byte) :
    postEvent s b type eaddr body = s.modSq b (fun q => { q with evHeld := q.evHeld ++ [eventWord type eaddr body] }) := by
  rw [postEvent]
  exact if_pos (by rw [h]; exact Bool.or_true _)

/-- The records of blocks whose event queue is full are passed over. -/
theorem find?_passed {α : Type} {P : α → Bool} {passed rest : List α} {r : α} (hpassed : ∀ x ∈ passed, P x = false) (hr : P r = true) :
    (passed ++ r :: rest).find? P = some r := by
  rw [List.find?_append, List.find?_eq_none.2 fun x hx => Bool.eq_false_iff.1 (hpassed x hx), Option.none_or, List.find?_cons_of_pos hr]

/-- The event of a fault record: its type, and the record's first 24 bytes, whose bytes 2 and 3 name the source. -/
def recordEvent (r : FaultRec) : BitVec 256 := eventWord 2 (bytesToNat ((r.bytes.drop 2).take 2)) (r.bytes.take 24)

theorem recordSource_lt (r : FaultRec) : bytesToNat ((r.bytes.drop 2).take 2) < 2 ^ 16 :=
  (bytesToNat_lt _).trans_le ((Nat.pow_le_pow_right (by decide) (List.length_take_le 2 _)).trans (by decide))

theorem recordEvent_toNat {r : FaultRec} :
    (recordEvent r).toNat = 2 + 2 ^ 16 * bytesToNat ((r.bytes.drop 2).take 2) + 2 ^ 64 * bytesToNat (r.bytes.take 24) :=
  eventWord_toNat (by decide) (recordSource_lt r) (List.length_take_le 24 _)

/-- The place in the ring of a partition where its next fault record goes. -/
def recordPlace (p : Part) : Nat := p.frBase.toNat + 64 * (p.frTail.toNat % 1024)

section
variable {s : State} {n : BitVec 8}

/-- A record waits for room in the ring of its partition, and in the event queue of its block. -/
theorem exec_faultRecordPost_waits
    (h : (s.part n.toNat).frTail - (s.part n.toNat).frHead = 1024#11 ∨ ∀ r ∈ (s.part n.toNat).frHeld, (s.sq (BitVec.ofNat 6 r.blk)).evFull = true) :
    exec (.faultRecordPost n) s = .next s := by
  show execFaultRecordPost n s = _
  rw [execFaultRecordPost]
  split
  · rfl
  · next r hfind =>
    rcases h with hring | hqueues
    · exact congrArg _ (if_pos (beq_iff_eq.2 hring))
    · have hroom := List.find?_some hfind
      rw [hqueues r (List.mem_of_find?_eq_some hfind)] at hroom
      cases hroom

/-- The oldest record whose block has room enters the ring, and its event is held by the block, whose sequencer is halted. -/
theorem exec_faultRecordPost_posts {passed rest : List FaultRec} {r : FaultRec} (hheld : (s.part n.toNat).frHeld = passed ++ r :: rest)
    (hpassed : ∀ x ∈ passed, (s.sq (BitVec.ofNat 6 x.blk)).evFull = true) (hr : (s.sq (BitVec.ofNat 6 r.blk)).evFull = false)
    (hring : (s.part n.toNat).frTail - (s.part n.toNat).frHead ≠ 1024#11) (hhalted : (s.sq (BitVec.ofNat 6 r.blk)).run = false) :
    exec (.faultRecordPost n) s = .next
      (({ s with dmem := memSetBytes s.dmem (recordPlace (s.part n.toNat)) r.bytes }.setPart n.toNat
        { s.part n.toNat with frHeld := passed ++ rest, frTail := (s.part n.toNat).frTail + 1 }).modSq (BitVec.ofNat 6 r.blk)
          (fun q => { q with evHeld := q.evHeld ++ [recordEvent r] })) := by
  have hfind : (s.part n.toNat).frHeld.find? (fun r => !(s.sq (BitVec.ofNat 6 r.blk)).evFull) = some r := by
    rw [hheld]
    exact find?_passed (fun x hx => by rw [hpassed x hx]; rfl) (by rw [hr]; rfl)
  have hnew : r ∉ passed := fun hmem => by rw [hpassed r hmem] at hr; cases hr
  have herase : (s.part n.toNat).frHeld.erase r = passed ++ rest := by
    rw [hheld, List.erase_append_right _ hnew, List.erase_cons_head]
  show execFaultRecordPost n s = _
  rw [execFaultRecordPost]
  simp only [hfind, herase]
  exact congrArg _ ((if_neg (by rwa [Part.frFull, beq_iff_eq])).trans (postEvent_halted (by exact hhalted) ..))

end

/-! ## Waits of a lockstep pair (R262) -/

theorem lsBroken_eq (p : Plat) : lsBroken p = { p with lspair := Claims.brokenPair p } := by
  have hword : (p.lspair ||| 0x20000#64) + (if p.lspair.toNat / 2 ^ 32 = 2 ^ 32 - 1 then 0 else 0x100000000#64) = Claims.brokenPair p := by
    rw [Claims.brokenPair, BitVec.ofNat_add, BitVec.ofNat_toNat, BitVec.setWidth_eq]
    split <;> rfl
  rw [lsBroken, hword]

/-- A line of a pair has waited more than 1 ms. -/
def lateLine (s : State) (x : LsWrite) : Bool := decide (x.since + 1000000 < s.time)

/-- The machine once the lines of a pair that have waited too long are given up. -/
def linesDropped (s : State) : State :=
  if s.plat.lsWrites.any (lateLine s) then
    s.modPlat (fun p => { lsBroken p with lsWrites := p.lsWrites.filter (fun x => !lateLine s x) })
  else s

theorem linesDropped_none {s : State} (h : ∀ x ∈ s.plat.lsWrites, ¬ x.since + 1000000 < s.time) : linesDropped s = s :=
  if_neg (by rw [Bool.not_eq_true, List.any_eq_false]; exact fun x hx => by rw [lateLine, decide_eq_true_eq]; exact h x hx)

theorem linesDropped_some {s : State} (h : ∃ x ∈ s.plat.lsWrites, x.since + 1000000 < s.time) :
    linesDropped s = { s with plat := { s.plat with
      lspair := Claims.brokenPair s.plat, lsWrites := s.plat.lsWrites.filter (fun x => decide (¬ x.since + 1000000 < s.time)) } } := by
  have hany : s.plat.lsWrites.any (lateLine s) = true := by
    obtain ⟨x, hx, hlate⟩ := h
    exact List.any_eq_true.2 ⟨x, hx, decide_eq_true hlate⟩
  rw [linesDropped, if_pos hany]
  simp only [State.modPlat, lsBroken_eq, lateLine, decide_not]

theorem linesDropped_lsWait (s : State) : (linesDropped s).plat.lsWait = s.plat.lsWait := by
  rw [linesDropped]
  split <;> rfl

theorem linesDropped_time (s : State) : (linesDropped s).time = s.time := by
  rw [linesDropped]
  split <;> rfl

theorem exec_lockstepTimeout_inTime {s : State} (h : s.plat.lsWait.all (fun w => decide (s.time ≤ w.2.2 + 1000000)) = true) :
    exec .lockstepTimeout s = .next (linesDropped s) := by
  show execLockstepTimeout s = _
  rw [execLockstepTimeout]
  dsimp only
  split
  · next part uid since hwait =>
    have hwait : s.plat.lsWait = some (part, uid, since) := (linesDropped_lsWait s).symm.trans hwait
    rw [hwait] at h
    have hlimit : (linesDropped s).time ≤ since + 1000000 := (linesDropped_time s).symm ▸ of_decide_eq_true h
    exact congrArg _ (if_pos hlimit)
  · rfl

theorem exec_lockstepTimeout_breaks {s : State} {p since : Nat} {t v : Machine.Task} (hlines : s.plat.lsWrites = [])
    (hwait : s.plat.lsWait = some (p, t.uid, since)) (hlate : since + 1000000 < s.time) (htask : s.task? t.uid = some t) (htwin : twinOf s t = some v) :
    exec .lockstepTimeout s = .next (breakPair s t.uid v.uid 0) := by
  show execLockstepTimeout s = _
  rw [execLockstepTimeout]
  simp only [hlines, List.any_nil, Bool.false_eq_true, if_false, hwait, Nat.not_le_of_lt hlate, htask, Option.bind_some, htwin]

end Sys2Proof.Proofs

namespace Sys2Proof.Proofs
open Sys2Proof.Machine

/-! ## Ends of tasks whose launches have no other (R153, R262) -/

/-- Entries that are changed but filtered out do not show. -/
theorem filter_map_changed {α : Type} {c : α → Prop} [DecidablePred c] {p : α → Bool} {f : α → α}
    (hc : ∀ x, c x → p x = false ∧ p (f x) = false) (l : List α) :
    (l.map (fun x => if c x then f x else x)).filter p = l.filter p := by
  induction l with
  | nil => rfl
  | cons x l ih =>
    by_cases hx : c x
    · obtain ⟨hold, hnew⟩ := hc x hx
      simp only [List.map_cons, if_pos hx, List.filter_cons, hold, hnew, Bool.false_eq_true, if_false, ih]
    · simp only [List.map_cons, if_neg hx, List.filter_cons, ih]

theorem launch?_modLaunch {s : State} {ord : Nat} {l : Launch} {f : Launch → Launch} (h : s.launch? ord = some l) (hf : ∀ k, (f k).ord = k.ord) :
    (s.modLaunch ord f).launch? ord = some (f l) := by
  have hsame : (fun k : Launch => k.ord == ord) ∘ (fun k => if k.ord = ord then f k else k) = fun k => k.ord == ord := by
    funext k
    by_cases hk : k.ord = ord
    · simp [hk, hf]
    · simp [hk]
  have hfind : s.launches.find? (fun k => k.ord == ord) = some l := h
  have hord : l.ord = ord := beq_iff_eq.1 (List.find?_some hfind :)
  show (s.launches.map _).find? _ = _
  rw [List.find?_map, hsame, hfind, Option.map_some, if_pos hord]

/-- The machine without the tasks and the launch of an ordinal. -/
def withoutLaunch (s : State) (ord : Nat) : State :=
  { s with launches := s.launches.filter (fun k => k.ord != ord), tasks := s.tasks.filter (fun t => t.uid / 2 ^ 32 != ord) }

theorem withoutLaunch_modTask (s : State) (uid : Nat) {f : Machine.Task → Machine.Task} (hf : ∀ t, (f t).uid = t.uid) :
    withoutLaunch (s.modTask uid f) (uid / 2 ^ 32) = withoutLaunch s (uid / 2 ^ 32) := by
  have htasks := filter_map_changed (c := fun t : Machine.Task => t.uid = uid) (p := fun t => t.uid / 2 ^ 32 != uid / 2 ^ 32) (f := f)
    (fun t ht => by rw [hf, ht, bne_self_eq_false]; exact ⟨rfl, rfl⟩) s.tasks
  simp only [withoutLaunch, State.modTask, htasks]

theorem withoutLaunch_modLaunch (s : State) (ord : Nat) {f : Launch → Launch} (hf : ∀ l, (f l).ord = l.ord) :
    withoutLaunch (s.modLaunch ord f) ord = withoutLaunch s ord := by
  have hlaunches := filter_map_changed (c := fun l : Launch => l.ord = ord) (p := fun l => l.ord != ord) (f := f)
    (fun l hl => by rw [hf, hl, bne_self_eq_false]; exact ⟨rfl, rfl⟩) s.launches
  simp only [withoutLaunch, State.modLaunch, hlaunches]

/-- The only task of a launch takes the launch along. -/
theorem retireTask_only {s : State} {uid : Nat} {l : Launch} (hlaunch : s.launch? (uid / 2 ^ 32) = some l) (hone : l.total = 1 ∧ l.ended = 0) :
    retireTask s uid = withoutLaunch s (uid / 2 ^ 32) := by
  obtain ⟨htotal, hended⟩ := hone
  have hfound := launch?_modLaunch (s := s.modTask uid (fun t => { t with phase := .ended, slot := none, image := [], inits := [], saved := [], spill := [] }))
    (f := fun l => { l with ended := l.ended + 1 }) hlaunch (fun _ => rfl)
  have hover : l.total ≤ l.ended + 1 := by omega
  simp only [retireTask, hfound, hover, if_true]
  exact (withoutLaunch_modLaunch _ _ (f := fun l => { l with ended := l.ended + 1 }) (fun _ => rfl)).trans (withoutLaunch_modTask _ _ (fun _ => rfl))

section
variable {s : State} {t : Machine.Task} {l : Launch} (hlaunch : s.launch? (t.uid / 2 ^ 32) = some l)
include hlaunch

theorem taskCompletion_primary (hord : l.ord < 2 ^ 40) (hq : tabRising none s.queues = true) (hring : Claims.ringFull s l.queue) (e : EndWith) :
    taskCompletion s t e.cls.toNat e.reason.toNat e.unit.toNat e.detail.toNat e.addr.toNat = s.modQueue l.queue (heldEntry (entryOf t l e)) := by
  have hflags : taskFlags s t = (entryOf t l e).flags := by simp only [taskFlags, taskLaunch, hlaunch, Option.elim_some, entryOf]
  simp only [taskCompletion, taskLaunch, hlaunch, lsTwin, Nat.not_le_of_lt hord, if_false, hflags]
  exact complete_ringFull hq hring _

/-- The secondary of a lockstep pair writes no entry (R261). -/
theorem taskCompletion_secondary (hord : 2 ^ 40 ≤ l.ord) (e : EndWith) :
    taskCompletion s t e.cls.toNat e.reason.toNat e.unit.toNat e.detail.toNat e.addr.toNat = s := by
  simp only [taskCompletion, taskLaunch, hlaunch]
  exact if_pos hord

/-- A task on no context, alone in its launch and without successors, ends with its entry and takes the launch along. -/
theorem endWith_only {u : State} {e : EndWith} (htask : s.task? t.uid = some t) (hjoined : l.joined = false)
    (hone : l.total = 1 ∧ l.ended = 0) (huses : t.uses = []) (hbarriers : s.barriers = []) (hsuccessors : successorsOf s t.uid = [])
    (hentry : taskCompletion s t e.cls.toNat e.reason.toNat e.unit.toNat e.detail.toNat e.addr.toNat = u) (hkept : u.launches = s.launches) :
    endWith s t.uid e = withoutLaunch u (t.uid / 2 ^ 32) := by
  have hunit : taskUnit s t = [t] := by simp only [taskUnit, taskLaunch, hlaunch, hjoined, Bool.false_eq_true, if_false]
  have hpark : unparkFor s t.uid = s := unparkFor_noParker fun p hp => by rw [hbarriers] at hp; cases hp
  have hclear : clearTask s t = s := clearTask_noneHeld (by rw [huses]; exact fun k hk => absurd hk List.not_mem_nil)
  have hfound : (u.modTask t.uid (fun t => { t with cb := [], uses := [] })).launch? (t.uid / 2 ^ 32) = some l := by
    rw [← hlaunch]
    exact congrArg (List.find? _) hkept
  simp only [endWith, htask, hunit, List.foldl_cons, List.foldl_nil, hpark, hclear, inheritFrom_noSuccessors hsuccessors, hentry]
  exact (retireTask_only hfound hone).trans (withoutLaunch_modTask _ _ fun _ => rfl)

end

/-! ## A lockstep pair whose commit waits too long (R262) -/

/-- The twins t and v, on no context, are all there is: each the only task of its launch, without successors. -/
structure LonePair (s : State) (t v : Machine.Task) (l m : Launch) : Prop where
  tasks    : s.tasks = [t, v]
  launches : s.launches = [l, m]
  ord      : l.ord = t.uid / 2 ^ 32
  primary  : l.ord < 2 ^ 40
  twinOrd  : m.ord = l.ord + 2 ^ 40
  twinUid  : v.uid = t.uid + 2 ^ 72
  one      : (l.total = 1 ∧ l.ended = 0) ∧ m.total = 1 ∧ m.ended = 0
  single   : l.joined = false ∧ m.joined = false
  uses     : t.uses = [] ∧ v.uses = []
  barriers : s.barriers = []
  alone    : ∀ x ∈ [t, v], x.pred ≠ some t.uid ∧ x.pred ≠ some v.uid

/-- Partitions of the pair that LSPAIR names (Table 11-5). -/
def PairParts (s : State) (l m : Launch) : Prop :=
  s.plat.lspair.getLsbD 0 = true ∧ l.part = s.plat.lspair.toNat / 2 % 256 ∧ m.part = s.plat.lspair.toNat / 512 % 256

section
variable {s : State} {t v : Machine.Task} {l m : Launch} (h : LonePair s t v l m)
include h

theorem LonePair.secondOrd : m.ord = v.uid / 2 ^ 32 := by
  have hord := h.ord
  have htwinOrd := h.twinOrd
  have htwinUid := h.twinUid
  omega

theorem LonePair.firstTask : s.task? t.uid = some t := by
  rw [State.task?, h.tasks, List.find?_cons, beq_self_eq_true]

theorem LonePair.secondTask : s.task? v.uid = some v := by
  have hne : t.uid ≠ v.uid := by rw [h.twinUid]; omega
  rw [State.task?, h.tasks, List.find?_cons_of_neg (by rwa [beq_iff_eq]), List.find?_cons, beq_self_eq_true]

theorem LonePair.firstLaunch : s.launch? (t.uid / 2 ^ 32) = some l := by
  rw [State.launch?, h.launches, ← h.ord, List.find?_cons, beq_self_eq_true]

theorem LonePair.twinOf_eq (hparts : PairParts s l m) : twinOf s t = some v := by
  obtain ⟨hon, hpart, -⟩ := hparts
  have hside : (lsOn s.plat && (taskPart s t == lsPrim s.plat || taskPart s t == lsSec s.plat)) = true := by
    have hprim : taskPart s t = lsPrim s.plat := by rw [taskPart, taskLaunch, h.firstLaunch, Option.elim_some, hpart]; rfl
    rw [lsOn, hon, hprim, beq_self_eq_true]; rfl
  have hlow : t.uid / 2 ^ 32 < lsTwin := h.ord ▸ h.primary
  have huid : t.uid + lsTwin * 2 ^ 32 = v.uid := h.twinUid.symm
  rw [twinOf, if_pos hside, if_pos hlow, huid, h.secondTask]

/-- The end of the first twin leaves the second alone, behind the one entry of the pair. -/
theorem LonePair.endWith_first (hq : tabRising none s.queues = true) (hring : Claims.ringFull s l.queue) (e : EndWith) :
    endWith s t.uid e = { s with tasks := [v], launches := [m], queues := (s.modQueue l.queue (heldEntry (entryOf t l e))).queues } := by
  obtain ⟨hone, -⟩ := h.one
  obtain ⟨hjoined, -⟩ := h.single
  obtain ⟨huses, -⟩ := h.uses
  have hsuccessors : successorsOf s t.uid = [] := List.filter_eq_nil_iff.2 fun x hx => by
    rw [Bool.and_eq_true, beq_iff_eq]
    exact fun hpred => (h.alone x (h.tasks ▸ hx)).1 hpred.1
  rw [endWith_only h.firstLaunch h.firstTask hjoined hone huses h.barriers hsuccessors (taskCompletion_primary h.firstLaunch h.primary hq hring e) rfl]
  have hfirst : l.ord = t.uid / 2 ^ 32 := h.ord
  have hsecond : v.uid / 2 ^ 32 ≠ t.uid / 2 ^ 32 := by rw [h.twinUid]; omega
  have hlaunch : m.ord ≠ t.uid / 2 ^ 32 := h.secondOrd ▸ hsecond
  simp only [withoutLaunch, State.modQueue, State.setQueue, h.tasks, h.launches, List.filter_cons, List.filter_nil, hfirst, bne_self_eq_false,
    bne_iff_ne.2 hsecond, bne_iff_ne.2 hlaunch, Bool.false_eq_true, if_false, if_true]

/-- The end of the second twin, once it is alone, adds no entry. -/
theorem LonePair.endWith_second {u : State} (htasks : u.tasks = [v]) (hlaunches : u.launches = [m]) (hbarriers : u.barriers = []) (e : EndWith) :
    endWith u v.uid e = { u with tasks := [], launches := [] } := by
  obtain ⟨-, hone⟩ := h.one
  obtain ⟨-, hjoined⟩ := h.single
  obtain ⟨-, huses⟩ := h.uses
  have hord := h.secondOrd
  have hsecondary : 2 ^ 40 ≤ m.ord := by rw [h.twinOrd]; omega
  have htask : u.task? v.uid = some v := by rw [State.task?, htasks, List.find?_cons, beq_self_eq_true]
  have hlaunch : u.launch? (v.uid / 2 ^ 32) = some m := by rw [State.launch?, hlaunches, ← hord, List.find?_cons, beq_self_eq_true]
  have hsuccessors : successorsOf u v.uid = [] := by
    have hv := h.alone v (List.mem_cons_of_mem t List.mem_cons_self)
    rw [successorsOf, htasks, List.filter_cons_of_neg, List.filter_nil]
    rw [Bool.and_eq_true, beq_iff_eq]
    exact fun hpred => hv.2 hpred.1
  rw [endWith_only hlaunch htask hjoined hone huses hbarriers hsuccessors (taskCompletion_secondary hlaunch hsecondary e) rfl]
  simp only [withoutLaunch, htasks, hlaunches, List.filter_cons, List.filter_nil, hord, bne_self_eq_false, Bool.false_eq_true, if_false]

/-- What ends both tasks of a pair that breaks: HARDWARE, the number of the stream port being free (log 109). -/
def pairEnd (s : State) : EndWith := { cls := 6, reason := 0, unit := (Config.freeValue s.free).setWidth 16, detail := 0, addr := BitVec.ofNat 64 0 }

/-- A broken pair leaves no task, one entry held, and its queue stopped. -/
theorem LonePair.breakPair_eq (hq : tabRising none s.queues = true) (hring : Claims.ringFull s l.queue) :
    breakPair s t.uid v.uid 0 = { s with
      tasks := [], launches := [], free := s.free + 1
      queues := ((s.modQueue l.queue (heldEntry (entryOf t l (pairEnd s)))).modQueue l.queue (fun w => { w with en := false })).queues
      plat := { s.plat with lsWait := none, lspair := Claims.brokenPair s.plat } } := by
  have hpair : LonePair s.takeFree t v l m := { h with }
  have hqueue : (s.task? t.uid).bind (taskLaunch s) = some l := by rw [h.firstTask]; exact h.firstLaunch
  have hends : endWith (endWith s.takeFree t.uid (pairEnd s)) v.uid (pairEnd s) =
      { s.takeFree with tasks := [], launches := [], queues := (s.modQueue l.queue (heldEntry (entryOf t l (pairEnd s)))).queues } := by
    rw [hpair.endWith_first hq hring]
    refine h.endWith_second ?_ ?_ ?_ _
    · rfl
    · rfl
    · exact h.barriers
  unfold pairEnd at hends ⊢
  simp only [breakPair, hqueue, hends, lsBroken_eq]
  rfl

end

end Sys2Proof.Proofs

namespace Sys2Proof.Proofs
open Sys2Proof.Machine

/-- A queue that holds one more entry and then stops. -/
theorem entryHeld_stopped {s u : State} {q : BitVec 12} (hq : tabRising none s.queues = true) (c : Completion)
    (hu : u.queues = ((s.modQueue q (heldEntry c)).modQueue q (fun w => { w with en := false })).queues) : Claims.entryHeld s u q false c := by
  have hrising : tabRising none (s.modQueue q (heldEntry c)).queues = true := tabSet_risingNone hq
  have hqueue : ∀ k, u.queue k = ((s.modQueue q (heldEntry c)).modQueue q (fun w => { w with en := false })).queue k := fun k => by
    rw [State.queue, hu]; rfl
  refine ⟨?_, fun k hk => ?_⟩
  · rw [hqueue, queue_modQueue_same hrising, queue_modQueue_same hq]; rfl
  · rw [hqueue, queue_modQueue_other hrising _ hk, queue_modQueue_other hq _ hk]

/-- Settles O48: the record and its event go where the first block with room says; a late line is given up, and a late commit ends the pair. -/
theorem recordsAndLockstep : Obligations.RecordsAndLockstep := by
  unfold Obligations.RecordsAndLockstep
  refine ⟨fun s n => ⟨fun hwait => ?_, ?_⟩, fun s => ⟨fun hwait hlines => ?_, fun hwait hlines => ?_⟩, ?_⟩
  · exact exec_faultRecordPost_waits (hwait.imp_right fun hfull r hr => evFull_iff.2 (hfull r hr))
  · intro passed r rest hheld hpassed hroom hlen hring b q a hhalted hdmem
    have hroom : (s.sq (BitVec.ofNat 6 r.blk)).evFull = false := Bool.eq_false_iff.2 (evFull_iff.not.2 hroom)
    refine ⟨_, recordEvent r, exec_faultRecordPost_posts hheld (fun x hx => evFull_iff.2 (hpassed x hx)) hroom hring hhalted, rfl, ?_, ?_, ?_⟩
    · exact hlen ▸ memBytes_memSetBytes hdmem
    · exact fun k hk => memByte_memSetBytes_outside hdmem (hlen ▸ hk)
    · have hsource := recordSource_lt r
      rw [recordEvent_toNat]
      omega
  · rw [exec_lockstepTimeout_inTime hwait, linesDropped_none hlines]
  · rw [exec_lockstepTimeout_inTime hwait, linesDropped_some hlines]
  · intro s t v l m p since hlines halone hwait hlate htasks hlaunches hord hprimary htwinOrd htwinUid htotal htotal' hended hended' hsingle
      hsingle' huses huses' hbarriers hon hpart hpart' _ hq hring
    have hpair : LonePair s t v l m :=
      ⟨htasks, hlaunches, hord, hprimary, htwinOrd, htwinUid, ⟨⟨htotal, hended⟩, htotal', hended'⟩,
        ⟨hsingle, hsingle'⟩, ⟨huses, huses'⟩, hbarriers, halone⟩
    refine ⟨_, exec_lockstepTimeout_breaks hlines hwait hlate hpair.firstTask (hpair.twinOf_eq ⟨hon, hpart, hpart'⟩), ?_⟩
    rw [hpair.breakPair_eq hq hring]
    exact ⟨rfl, entryHeld_stopped hq (entryOf t l (pairEnd s)) rfl⟩

end Sys2Proof.Proofs

namespace Sys2Proof.Proofs
open Sys2Proof.Machine

/-! ## Configuration ports (R277, R280) -/

section
variable {s : State} {ea : EAddr} (h : tabRising none s.ports = true)
include h

theorem port_setPort_same (p : CfgPort) : (s.setPort ea p).port ea = p := tabGet_tabSet_same h

theorem port_setPort_other (p : CfgPort) {x : EAddr} (hx : x ≠ ea) : (s.setPort ea p).port x = s.port x :=
  tabGet_tabSet_other h fun e => hx (BitVec.eq_of_toNat_eq e)

theorem setPort_setPort (p q : CfgPort) : (s.setPort ea p).setPort ea q = s.setPort ea q := by
  simp only [State.setPort, tabSet_tabSet_same h]

theorem onlyPort_setPort (p : CfgPort) : Claims.onlyPort s (s.setPort ea p) ea p :=
  ⟨rfl, port_setPort_same h p, fun _ hx => port_setPort_other h p hx⟩

/-- A rejected command drops what is staged and the claim of its stream; the running CRC stays (R277, R434, log 23). -/
theorem freePort_dropStaged : freePort (dropStaged s ea) ea = s.setPort ea { s.port ea with staged := [], owner := 0 } := by
  rw [freePort, dropStaged, port_setPort_same h, setPort_setPort h]

end

theorem elem_setPort (s : State) (ea : EAddr) (p : CfgPort) (x : EAddr) (c : BitVec 2) : (s.setPort ea p).elem x c = s.elem x c := rfl

/-! ### Writes that are checked value by value (R277) -/

/-- The command is one that the element checks value by value: a shadow bank only where there is one, a parity page only in context 0. -/
structure Writable (k : ElemKind) (ctx : BitVec 2) (sh : Bool) : Prop where
  bank : ¬ (sh && (k == .monitor || k == .parity)) = true
  page : ¬ (k = .parity ∧ ctx ≠ 0)

theorem writable_body {k : ElemKind} (hmonitor : k ≠ .monitor) (hparity : k ≠ .parity) (ctx : BitVec 2) (sh : Bool) : Writable k ctx sh where
  bank := by simp [hmonitor, hparity]
  page hp := hparity hp.1

theorem writable_active {k : ElemKind} {ctx : BitVec 2} (hpage : k = .parity → ctx = 0) : Writable k ctx false where
  bank := Bool.false_ne_true
  page hp := hp.2 (hpage hp.1)

/-! ## Commands of a stream that the element serves (R276, R280) -/

section
variable {s : State} {ea : EAddr} {k : ElemKind} (h : Claims.Serves s ea k) (ctx : BitVec 2)
include h

theorem streamResult_ok (t : State) (words : List Word) : streamResult s (.ok t words) = t := by
  rw [streamResult]
  split
  · next b hb => exact absurd hb (h.focus b)
  · rfl

theorem streamResult_rejected (t : State) (report : Word) : streamResult s (.rejected t report) = t := by
  rw [streamResult]
  split
  · next b hb => exact absurd hb (h.focus b)
  · rfl

theorem streamCommand_served (c : CmdBody) : streamCommand s s.focus ctx ea c = command s (streamId s.focus) ctx ea c := by
  have hreaches : streamReaches s s.focus ea = true := by
    rw [streamReaches]
    exact fun b hb => h.focus b hb
  rw [streamCommand, if_pos hreaches]

theorem port_notHeld : ¬ ((s.port ea).owner ≠ 0 ∧ (s.port ea).owner ≠ streamId s.focus) := fun hheld =>
  h.owner.elim hheld.1 hheld.2

theorem exec_check (v : Word) : exec (.check ctx ea v) s = .next (streamResult s (checkCmd s ea k ctx v)) := by
  show Host.Outcome.next _ = _
  simp only [streamCommand_served h, command, h.kind, if_neg (port_notHeld h)]

theorem exec_swap (v : Word) : exec (.swap ctx ea v) s = .next (streamResult s (swapCmd s ea k ctx v)) := by
  show Host.Outcome.next _ = _
  simp only [streamCommand_served h, command, h.kind, if_neg (port_notHeld h)]

theorem exec_discard (v : Word) : exec (.discard ctx ea v) s = .next (streamResult s (discardCmd s ea k ctx v)) := by
  show Host.Outcome.next _ = _
  simp only [streamCommand_served h, command, h.kind, if_neg (port_notHeld h)]

/-- A read-back counts in the running CRC and claims no port (R277, R279, log 41). -/
theorem exec_readBack {f c : BitVec 6} (hf : f.toNat + countCode c ≤ 64) : exec (.readBack ctx ea f c) s =
    .next (s.setPort ea { s.port ea with crc := crcWords (s.port ea).crc [commandWord 2#2 ctx ea f (countField (countCode c)), 0] }) := by
  have hcommand : command s (streamId s.focus) ctx ea (.read f.toNat (countCode c)) =
      .ok (s.setPort ea { s.port ea with crc := crcWords (s.port ea).crc [commandWord 2#2 ctx ea f (countField (countCode c)), 0] })
        ((List.range (countCode c)).map fun i => readField s ea ctx (f.toNat + i)) := by
    rw [command, h.kind]
    simp only [if_neg (port_notHeld h), if_neg (Nat.not_lt.2 hf), CmdBody.words, BitVec.ofNat_toNat, BitVec.setWidth_eq]
  show execReadBack ctx ea f c s = _
  rw [execReadBack, streamCommand_served h, hcommand, streamResult_ok h]
  split
  · next b hb => exact absurd hb (h.focus b)
  · rfl

theorem exec_write_eq (sh : Bool) (f : BitVec 6) (v : Word) : exec (if sh then .writeShadow ctx ea f [v] else .writeActive ctx ea f [v]) s =
    .next (streamResult s (command s (streamId s.focus) ctx ea (.write sh f.toNat [v]))) := by
  rw [← streamCommand_served h]
  cases sh <;> rfl

variable {ctx} {sh : Bool} (hw : Writable k ctx sh) {f : BitVec 6} {v : Word} (hfails : wordFails s ea k ctx sh f.toNat [v] = [])
include hw hfails

theorem exec_write_staged (hv : checkValue s (fromPc (streamId s.focus)) ea k ctx sh f.toNat v = none) (hroom : (s.port ea).staged.length < 2048) :
    exec (if sh then .writeShadow ctx ea f [v] else .writeActive ctx ea f [v]) s = .next (s.setPort ea
      { staged := (s.port ea).staged ++ [{ ctx := ctx, shadow := sh, key := fieldKey s ea ctx sh f.toNat, val := v }]
        crc := crcWords (s.port ea).crc [commandWord (if sh then 1#2 else 0#2) ctx ea f 1#6, v], owner := streamId s.focus }) := by
  have hstage : stageVals s (fromPc (streamId s.focus)) ea k ctx sh f.toNat [v] = .ok (s.setPort ea { s.port ea with
      staged := (s.port ea).staged ++ [{ ctx := ctx, shadow := sh, key := fieldKey s ea ctx sh f.toNat, val := v }] }) := by
    simp only [stageVals, if_neg (Nat.not_le.2 f.isLt), if_neg hw.page, hv, if_neg (Nat.not_le.2 hroom)]
  rw [exec_write_eq h, command, h.kind]
  simp only [if_neg (port_notHeld h), if_neg hw.bank, List.length_singleton, if_neg (Nat.not_lt.2 (Nat.succ_le_of_lt f.isLt)), hfails, lowestFail,
    hstage, streamResult_ok h, port_setPort_same h.ports, setPort_setPort h.ports, CmdBody.words, BitVec.ofNat_toNat, BitVec.setWidth_eq]
  rfl

theorem exec_write_rejected {r : Nat} (hv : checkValue s (fromPc (streamId s.focus)) ea k ctx sh f.toNat v = some r) :
    exec (if sh then .writeShadow ctx ea f [v] else .writeActive ctx ea f [v]) s =
      .next (s.setPort ea { s.port ea with staged := [], owner := 0 }) := by
  have hstage : stageVals s (fromPc (streamId s.focus)) ea k ctx sh f.toNat [v] = .error (f.toNat, r) := by
    simp only [stageVals, if_neg (Nat.not_le.2 f.isLt), if_neg hw.page, hv]
  rw [exec_write_eq h, command, h.kind]
  simp only [if_neg (port_notHeld h), if_neg hw.bank, List.length_singleton, if_neg (Nat.not_lt.2 (Nat.succ_le_of_lt f.isLt)), hfails, lowestFail,
    hstage, List.foldl_nil, rejectCmd, streamResult_rejected h, freePort_dropStaged h.ports]

end

end Sys2Proof.Proofs

namespace Sys2Proof.Proofs
open Sys2Proof.Machine

/-! ## Loading a context (R277, R278) -/

/-- Of the tile bodies and routers, element 0 of a site is the tile body, whose arbiter a load clears. -/
theorem eaElem_eq_zero_iff {ea : EAddr} {k : ElemKind} (hk : kindOf ea = some k) (hmonitor : k ≠ .monitor) (hparity : k ≠ .parity) :
    eaElem ea = 0 ↔ k ≠ .router := by
  rw [kindOf] at hk
  split at hk
  · cases hk
  · split at hk <;> cases hk
    · next h0 => split <;> simp [h0]
    · next h1 => simp [h1]
    · exact absurd rfl hmonitor
    · exact absurd rfl hparity

section
variable {s : State} {ea : EAddr} {ctx : BitVec 2}

theorem noteLoaded_only (s : State) (ea : EAddr) (ctx : BitVec 2) :
    noteLoaded s ea ctx = { s with elems := (noteLoaded s ea ctx).elems, sites := (noteLoaded s ea ctx).sites } := by
  rw [noteLoaded]
  split <;> rfl

theorem noteLoaded_elems (s : State) (ea : EAddr) (ctx : BitVec 2) :
    (noteLoaded s ea ctx).elems = (s.modElem ea ctx fun e => { e with group := none }).elems := by
  rw [noteLoaded]
  split <;> rfl

theorem elem_noteLoaded (s : State) (ea : EAddr) (ctx : BitVec 2) (x : EAddr) (c : BitVec 2) :
    (noteLoaded s ea ctx).elem x c = (s.modElem ea ctx fun e => { e with group := none }).elem x c := by
  rw [State.elem, State.elem, noteLoaded_elems]

theorem site_noteLoaded (h : tabRising none s.sites = true) (n : SiteNo) :
    (noteLoaded s ea ctx).site n = if n = eaSite ea ∧ eaElem ea = 0 then Claims.loaded (s.site n) ctx else s.site n := by
  rw [noteLoaded]
  split
  · next h0 =>
    refine (site_modSite (s := s.modElem ea ctx _) h n).trans ?_
    simp only [h0, and_true]
    rfl
  · next h0 => rw [if_neg fun hn => h0 hn.2]; rfl

/-- A context changed by f and then loaded. -/
def loadWith (s : State) (ea : EAddr) (ctx : BitVec 2) (f : ElemCtx → ElemCtx) : State := noteLoaded (s.modElem ea ctx f) ea ctx

theorem loadWith_only (f : ElemCtx → ElemCtx) :
    loadWith s ea ctx f = { s with elems := (loadWith s ea ctx f).elems, sites := (loadWith s ea ctx f).sites } :=
  noteLoaded_only _ _ _

theorem site_loadWith (f : ElemCtx → ElemCtx) (h : tabRising none s.sites = true) (n : SiteNo) : (loadWith s ea ctx f).site n =
    if n = eaSite ea ∧ eaElem ea = 0 then Claims.loaded (s.site n) ctx else s.site n := site_noteLoaded (s := s.modElem ea ctx f) h n

variable (h : tabRising none s.elems = true) (f : ElemCtx → ElemCtx)
include h

theorem elem_loadWith_same : (loadWith s ea ctx f).elem ea ctx = { f (s.elem ea ctx) with group := none } := by
  have h' : tabRising none (s.modElem ea ctx f).elems = true := tabSet_risingNone h
  rw [loadWith, elem_noteLoaded, elem_modElem_same h', elem_modElem_same h]

theorem elem_loadWith_other {x : EAddr} {c : BitVec 2} (hne : (x, c) ≠ (ea, ctx)) : (loadWith s ea ctx f).elem x c = s.elem x c := by
  have h' : tabRising none (s.modElem ea ctx f).elems = true := tabSet_risingNone h
  rw [loadWith, elem_noteLoaded, elem_modElem_other h' hne, elem_modElem_other h hne]

end

/-! ### CHECK -/

/-- A staged value enters the bank of its context. -/
def written (k : ElemKind) (w : Staged) (e : ElemCtx) : ElemCtx := { e with bank := tabSet e.bank w.key w.val (fieldReset k w.key) }

section
variable {s : State} {ea : EAddr} {k : ElemKind} {w : Staged}

theorem siteWide_below {k : ElemKind} (hparity : k ≠ .parity) {f : Nat} (hf : f < 44) : siteWide k f = false := by
  cases k
  case parity => exact absurd rfl hparity
  all_goals simp only [siteWide, Bool.or_eq_false_iff, beq_eq_false_iff_ne]
  all_goals omega

theorem applyStaged_active (hmonitor : k ≠ .monitor) (hparity : k ≠ .parity) (hkey : w.key < 44) (hactive : w.shadow = false) :
    applyStaged s k ea w = s.modElem ea w.ctx (written k w) := by
  have hbody : applyStaged s k ea w = applyBody s k ea w := by
    cases k
    case monitor => exact absurd rfl hmonitor
    case parity => exact absurd rfl hparity
    all_goals rfl
  have hwide : ¬ (w.key < 64 ∧ siteWide k w.key) := fun h => Bool.false_ne_true ((siteWide_below hparity hkey).symm.trans h.2)
  exact hbody.trans ((if_neg hwide).trans ((if_neg (Bool.eq_false_iff.1 hactive)).trans (if_pos (by omega))))

theorem checkCmd_one (hstaged : (s.port ea).staged = [w]) (hmonitor : k ≠ .monitor) (hparity : k ≠ .parity) (hkey : w.key < 44)
    (hactive : w.shadow = false) (hcross : crossFails s k ea (w.ctx, false) = []) (ctx : BitVec 2) :
    checkCmd s ea k ctx ((s.port ea).crc ^^^ 0xFFFFFFFF#32) = .ok ((loadWith s ea w.ctx (written k w)).setPort ea Claims.restarted) [] := by
  have hbanks : touchedBanks s ea = [(w.ctx, false)] := by rw [touchedBanks, hstaged, List.map_singleton, hactive]; rfl
  have hnote : ∀ u, noteActive u k ea [w] = noteLoaded u ea w.ctx := fun u => by
    rw [noteActive, if_neg (not_or.2 ⟨hmonitor, hparity⟩)]
    simp [hactive, hkey]
  simp only [checkCmd, hbanks, List.findSome?_cons, hcross, lowestFail, Option.map_none, List.findSome?_nil, ne_eq, not_true_eq_false, if_false,
    hstaged, List.foldl_cons, List.foldl_nil, applyStaged_active hmonitor hparity hkey hactive, hnote]
  rfl

theorem checkCmd_wrong {v : Word} (hv : (s.port ea).crc ^^^ 0xFFFFFFFF#32 ≠ v) (ctx : BitVec 2) :
    checkCmd s ea k ctx v = .rejected (s.setPort ea Claims.restarted) (rejectWord ea ctx 2 6) := if_pos hv

end

/-! ### SWAP and DISCARD -/

/-- The shadow bank sh becomes the bank of a context. -/
def swapped (k : ElemKind) (sh : Tab Word) (e : ElemCtx) : ElemCtx :=
  { e with bank := sh.filter (fun p => bankKeys k p.1), armed := false, ops := [], kelp := Kelp.zero, brk := [], group := none, fires := 0, wsSwaps := 0 }

section
variable {s : State} {ea : EAddr} {k : ElemKind} {ctx : BitVec 2} {sh : Tab Word}

theorem swapBank_eq (hkind : kindOf ea = some k) (hk : k = .mt ∨ k = .router) (hshadow : (s.elem ea ctx).shadow = some sh) :
    swapBank s ea ctx = loadWith s ea ctx (swapped k sh) := by
  have hct : k ≠ .ct := by rintro rfl; exact hk.elim nofun nofun
  simp only [swapBank, hkind, hshadow, Option.getD_some, if_neg hct]
  rfl

theorem swapped_loadWith (h : tabRising none s.elems = true) : Claims.Swapped s (loadWith s ea ctx (swapped k sh)) ea ctx k sh := by
  refine ⟨?_, elem_loadWith_same h _, fun x c hne => elem_loadWith_other h _ hne⟩
  rw [loadWith_only]

/-- SWAP of a context with a shadow bank, by its value word: 0 for now, 1 for the marker. -/
theorem swapCmd_shadow (hk : k = .mt ∨ k = .router) (hshadow : (s.elem ea ctx).shadow = some sh) {v : Word} (hv : v.toNat < 2) :
    swapCmd s ea k ctx v = if v.toNat = 1 then .ok ((s.setPort ea Claims.restarted).modElem ea ctx fun e => { e with armed := true }) []
      else .ok (swapBank (s.setPort ea Claims.restarted) ea ctx) [] := by
  have hbody : ¬ ((k = .monitor ∨ k = .parity) ∨ ((s.setPort ea Claims.restarted).elem ea ctx).shadow.isNone) := by
    rw [elem_setPort, hshadow]
    obtain rfl | rfl := hk <;> simp
  exact (if_neg (Nat.not_le.2 hv)).trans (if_neg hbody)

theorem swapCmd_now (hkind : kindOf ea = some k) (hk : k = .mt ∨ k = .router) (hshadow : (s.elem ea ctx).shadow = some sh) :
    swapCmd s ea k ctx 0 = .ok (loadWith (s.setPort ea Claims.restarted) ea ctx (swapped k sh)) [] := by
  rw [swapCmd_shadow hk hshadow (by decide), ← swapBank_eq (s := s.setPort ea Claims.restarted) hkind hk hshadow]
  exact if_neg (by decide)

theorem swapCmd_armed (hk : k = .mt ∨ k = .router) (hshadow : (s.elem ea ctx).shadow = some sh) :
    swapCmd s ea k ctx 1 = .ok ((s.setPort ea Claims.restarted).modElem ea ctx fun e => { e with armed := true }) [] :=
  (swapCmd_shadow hk hshadow (by decide)).trans (if_pos (by decide))

theorem swapCmd_nothing (hnone : (s.elem ea ctx).shadow = none ∨ ¬ (k ≠ .monitor ∧ k ≠ .parity)) (v : Word) :
    ∃ report, swapCmd s ea k ctx v = .rejected (s.setPort ea Claims.restarted) report := by
  have hrefused : (k = .monitor ∨ k = .parity) ∨ ((s.setPort ea Claims.restarted).elem ea ctx).shadow.isNone := by
    rw [elem_setPort, Option.isNone_iff_eq_none]
    obtain hnone | hkind := hnone
    · exact .inr hnone
    · exact .inl (or_iff_not_and_not.2 hkind)
  by_cases hv : 2 ≤ v.toNat
  · exact ⟨_, if_pos hv⟩
  · exact ⟨_, (if_neg hv).trans (if_pos hrefused)⟩

theorem discardCmd_body (hmonitor : k ≠ .monitor) (hparity : k ≠ .parity) : discardCmd s ea k ctx 0 =
    .ok ((s.setPort ea Claims.restarted).modElem ea ctx fun e => { e with shadow := none, armed := false }) [] := by
  rw [discardCmd, if_neg (not_not.2 rfl), if_neg (not_or.2 ⟨hmonitor, hparity⟩)]
  rfl

theorem exec_swapOnMark_alone (hexists : eaExists ea = true) (harmed : (s.elem ea ctx).armed = true) (htask : (s.elem ea ctx).task = none)
    (htasks : s.tasks = []) (hshadow : (s.elem ea ctx).shadow = some sh) : exec (.swapOnMark ea ctx) s = .next (swapBank s ea ctx) := by
  have hsuccessor : successorAt s ea ctx = none := by rw [successorAt, htasks, List.find?_nil]
  show execSwapOnMark ea ctx s = _
  simp [execSwapOnMark, takeArmed, hexists, harmed, htask, hshadow, hsuccessor]

end

/-- Settles O41: each command of a stream that the element serves is one lemma above, on what it makes of its port, its context and its site. -/
theorem configurationCommands : Obligations.ConfigurationCommands := by
  unfold Obligations.ConfigurationCommands
  intro s ea ctx k h p body
  refine ⟨?_, ?_, ?_, ?_, ?_, ?_, ?_, ?_⟩
  · intro sh f v hsh hv hfails hroom
    have hw : Writable k ctx sh := hsh.elim (fun hb => writable_body hb.1 hb.2 ctx sh) (fun ⟨hactive, hpage⟩ => hactive ▸ writable_active hpage)
    exact ⟨_, exec_write_staged h hw hfails hv hroom, onlyPort_setPort h.ports _⟩
  · intro f v r _ hctx hv hfails
    exact ⟨_, exec_write_rejected (sh := false) h (writable_active fun _ => hctx) hfails hv, onlyPort_setPort h.ports _⟩
  · exact fun f c hf => ⟨_, exec_readBack h ctx hf, onlyPort_setPort h.ports _⟩
  · intro v hv
    rw [exec_check h, checkCmd_wrong hv, streamResult_rejected h]
    exact ⟨_, rfl, onlyPort_setPort h.ports _⟩
  · intro w hstaged ⟨hmonitor, hparity⟩ hkey hactive hcross helems
    rw [exec_check h, checkCmd_one hstaged hmonitor hparity hkey hactive hcross, streamResult_ok h]
    refine ⟨_, rfl, ?_, port_setPort_same ?_ _, elem_loadWith_same helems _, fun x c hne => elem_loadWith_other helems _ hne, fun hsites n => ?_⟩
    · rw [loadWith_only]; rfl
    · rw [loadWith_only]; exact h.ports
    · simp only [← eaElem_eq_zero_iff h.kind hmonitor hparity]
      exact site_loadWith _ hsites n
  · intro sh hk hshadow helems
    refine ⟨?_, ?_, ?_⟩
    · rw [exec_swap h, swapCmd_now h.kind hk hshadow, streamResult_ok h]
      refine ⟨_, rfl, swapped_loadWith (s := s.setPort ea Claims.restarted) helems, ?_⟩
      rw [loadWith_only]
      exact port_setPort_same h.ports _
    · rw [exec_swap h, swapCmd_armed hk hshadow, streamResult_ok h]
      exact ⟨_, rfl, rfl, port_setPort_same h.ports _, elem_modElem_same helems⟩
    · intro hexists harmed htask htasks
      rw [exec_swapOnMark_alone hexists harmed htask htasks hshadow, swapBank_eq h.kind hk hshadow]
      exact ⟨_, rfl, swapped_loadWith helems⟩
  · intro hnone v
    obtain ⟨report, hout⟩ := swapCmd_nothing hnone v
    rw [exec_swap h, hout, streamResult_rejected h]
    exact ⟨_, rfl, onlyPort_setPort h.ports _⟩
  · intro ⟨hmonitor, hparity⟩ helems
    rw [exec_discard h, discardCmd_body hmonitor hparity, streamResult_ok h]
    exact ⟨_, rfl, rfl, port_setPort_same h.ports _, elem_modElem_same helems, fun x c hne => elem_modElem_other helems hne⟩

end Sys2Proof.Proofs

namespace Sys2Proof.Proofs

/-! ## Words and their fields (R276, R288, R298, Tables 12-4, 13-1 and 13-7)

A packed word equals w exactly when each of its fields is the field of w at the same bits. -/

/-- OPC of a sequencer word (R298). -/
def fieldOpc (w : Word) : BitVec 6 := w.extractLsb' 26 6

theorem wordA_eq_iff {o : BitVec 6} {d a b : BitVec 5} {f : BitVec 11} {w : Word} :
    wordA o d a b f = w ↔ fieldOpc w = o ∧ fieldD w = d ∧ fieldA w = a ∧ fieldB w = b ∧ w.extractLsb' 0 11 = f := by
  constructor
  · rintro rfl
    simp (disch := omega) only [wordA, fieldOpc, fieldD, fieldA, fieldB, BitVec.extractLsb'_append_eq_of_le, BitVec.extractLsb'_append_eq_of_add_le,
      BitVec.extractLsb'_eq_self, Nat.reduceSub, and_self]
  · rintro ⟨rfl, rfl, rfl, rfl, rfl⟩
    simp (disch := omega) only [wordA, fieldOpc, fieldD, fieldA, fieldB, BitVec.extractLsb'_append_extractLsb'_eq_extractLsb']
    exact BitVec.extractLsb'_eq_self

theorem wordI_eq_iff {o : BitVec 6} {d a : BitVec 5} {i : BitVec 16} {w : Word} :
    wordI o d a i = w ↔ fieldOpc w = o ∧ fieldD w = d ∧ fieldA w = a ∧ fieldI w = i := by
  constructor
  · rintro rfl
    simp (disch := omega) only [wordI, fieldOpc, fieldD, fieldA, fieldI, BitVec.extractLsb'_append_eq_of_le, BitVec.extractLsb'_append_eq_of_add_le,
      BitVec.extractLsb'_eq_self, Nat.reduceSub, and_self]
  · rintro ⟨rfl, rfl, rfl, rfl⟩
    simp (disch := omega) only [wordI, fieldOpc, fieldD, fieldA, fieldI, BitVec.extractLsb'_append_extractLsb'_eq_extractLsb']
    exact BitVec.extractLsb'_eq_self

theorem wordJ_eq_iff {o : BitVec 6} {x : BitVec 26} {w : Word} : wordJ o x = w ↔ fieldOpc w = o ∧ w.extractLsb' 0 26 = x := by
  constructor
  · rintro rfl
    simp (disch := omega) only [wordJ, fieldOpc, BitVec.extractLsb'_append_eq_of_le, BitVec.extractLsb'_append_eq_of_add_le,
      BitVec.extractLsb'_eq_self, Nat.reduceSub, and_self]
  · rintro ⟨rfl, rfl⟩
    simp (disch := omega) only [wordJ, fieldOpc, BitVec.extractLsb'_append_extractLsb'_eq_extractLsb']
    exact BitVec.extractLsb'_eq_self

theorem wordS_eq_iff {o : BitVec 6} {d a b : BitVec 5} {n : BitVec 6} {f : BitVec 5} {w : Word} :
    wordS o d a b n f = w ↔
      fieldOpc w = o ∧ fieldD w = d ∧ fieldA w = a ∧ fieldB w = b ∧ w.extractLsb' 5 6 = n ∧ w.extractLsb' 0 5 = f := by
  constructor
  · rintro rfl
    simp (disch := omega) only [wordS, fieldOpc, fieldD, fieldA, fieldB, BitVec.extractLsb'_append_eq_of_le, BitVec.extractLsb'_append_eq_of_add_le,
      BitVec.extractLsb'_eq_self, Nat.reduceSub, and_self]
  · rintro ⟨rfl, rfl, rfl, rfl, rfl, rfl⟩
    simp (disch := omega) only [wordS, fieldOpc, fieldD, fieldA, fieldB, BitVec.extractLsb'_append_extractLsb'_eq_extractLsb']
    exact BitVec.extractLsb'_eq_self

theorem commandWord_eq_iff {k c : BitVec 2} {ea : BitVec 16} {f n : BitVec 6} {w : Word} :
    commandWord k c ea f n = w ↔
      w.extractLsb' 30 2 = k ∧ w.extractLsb' 28 2 = c ∧ w.extractLsb' 12 16 = ea ∧ w.extractLsb' 6 6 = f ∧ w.extractLsb' 0 6 = n := by
  constructor
  · rintro rfl
    simp (disch := omega) only [commandWord, BitVec.extractLsb'_append_eq_of_le, BitVec.extractLsb'_append_eq_of_add_le,
      BitVec.extractLsb'_eq_self, Nat.reduceSub, and_self]
  · rintro ⟨rfl, rfl, rfl, rfl, rfl⟩
    simp (disch := omega) only [commandWord, BitVec.extractLsb'_append_extractLsb'_eq_extractLsb']
    exact BitVec.extractLsb'_eq_self

theorem toBits_eq_iff {c : BitVec 9} {o : OpWord} {w : DWord} : o.toBits c = w ↔ w.extractLsb' 55 9 = c ∧ OpWord.ofBits w = o := by
  constructor
  · rintro rfl
    simp (disch := omega) only [OpWord.ofBits, OpWord.toBits, BitVec.extractLsb'_append_eq_of_le, BitVec.extractLsb'_append_eq_of_add_le,
      BitVec.extractLsb'_eq_self, Nat.reduceSub, and_self]
  · rintro ⟨rfl, rfl⟩
    simp (disch := omega) only [OpWord.ofBits, OpWord.toBits, BitVec.extractLsb'_append_extractLsb'_eq_extractLsb']
    exact BitVec.extractLsb'_eq_self

/-- A field of two parts: each part is the part of the word at the same bits. -/
theorem extract_eq_append_iff {w : Word} {n m : Nat} {h : BitVec m} {l : BitVec n} :
    w.extractLsb' 0 (m + n) = h ++ l ↔ w.extractLsb' n m = h ∧ w.extractLsb' 0 n = l := by
  rw [← BitVec.extractLsb'_append_extractLsb'_eq_extractLsb' (start₂ := n) (by omega)]
  constructor
  · intro e
    have high := congrArg (BitVec.extractLsb' n m) e
    have low := congrArg (BitVec.extractLsb' 0 n) e
    simp (disch := omega) only [BitVec.extractLsb'_append_eq_of_le, BitVec.extractLsb'_append_eq_of_add_le, BitVec.extractLsb'_eq_self,
      Nat.sub_self] at high low
    exact ⟨high, low⟩
  · rintro ⟨rfl, rfl⟩
    rfl

/-! ## Sequencer words (R298 to R303) -/

theorem ifZero_ok_iff {b : Bool} {i j : Instr} : ifZero b i = .ok j ↔ b = true ∧ i = j := by
  cases b <;> simp [ifZero]

theorem bits_eq_iff {n m : Nat} {x : BitVec n} (h : m < 2 ^ n) : x = BitVec.ofNat n m ↔ x.toNat = m := by
  rw [← BitVec.toNat_inj, BitVec.toNat_ofNat, Nat.mod_eq_of_lt h]

theorem opc_ne_zero {w : Word} (h : fieldOpc w ≠ 0) : w ≠ 0 := by
  rintro rfl
  exact h (by decide)

/-- FLAGS of a word of the fabric group whose lowest bit is x and whose others are 0. -/
theorem flag_fields {w : Word} {x : BitVec 1} (h : w.extractLsb' 0 5 = 0#4 ++ x) : w.extractLsb' 1 4 = 0#4 ∧ w.extractLsb' 0 1 = x :=
  extract_eq_append_iff.1 h

theorem encodeSq_decodeArith {i : Instr} {w : Word} (ho : fieldOpc w = 15#6) (h : decodeArith w = .ok i) : encodeSq i = some w := by
  unfold decodeArith at h
  split at h
  case h_15 => cases h
  all_goals
    next hf =>
    cases h
    exact congrArg some (wordA_eq_iff.2 ⟨ho, rfl, rfl, rfl, (bits_eq_iff (by decide)).2 hf⟩)

theorem encodeSq_decodeSystem {i : Instr} {w : Word} (ho : fieldOpc w = 48#6) (h : decodeSystem w = .ok i) : encodeSq i = some w := by
  unfold decodeSystem at h
  split at h
  case h_7 => cases h
  all_goals
    next hn =>
    obtain ⟨hz, rfl⟩ := ifZero_ok_iff.1 h
    replace hn := (bits_eq_iff (by decide)).2 hn
    simp only [Bool.and_eq_true, decide_eq_true_eq] at hz
    refine congrArg some (wordS_eq_iff.2 ?_)
    simp [ho, hn, hz, extract_eq_append_iff (n := 2) (m := 3)]

theorem encodeSq_decodeFabricGroup {i : Instr} {w : Word} (ho : fieldOpc w = 49#6) (h : decodeFabricGroup w = .ok i) : encodeSq i = some w := by
  unfold decodeFabricGroup at h
  split at h
  case h_15 => cases h
  case h_5 hn =>
    obtain ⟨hz, rfl⟩ := ifZero_ok_iff.1 h
    replace hn := (bits_eq_iff (by decide)).2 hn
    split
    · refine congrArg some (wordS_eq_iff.2 ⟨ho, rfl, rfl, rfl, hn, ?_⟩)
      exact (extract_eq_append_iff (n := 1) (m := 4) (h := 0#4) (l := 1#1)).2 ⟨of_decide_eq_true hz, ‹_›⟩
    · refine congrArg some (wordS_eq_iff.2 ⟨ho, rfl, rfl, rfl, hn, ?_⟩)
      exact (extract_eq_append_iff (n := 1) (m := 4) (h := 0#4) (l := 0#1)).2 ⟨of_decide_eq_true hz, by bv_omega⟩
  all_goals
    next hn =>
    obtain ⟨hz, rfl⟩ := ifZero_ok_iff.1 h
    replace hn := (bits_eq_iff (by decide)).2 hn
    simp only [Bool.and_eq_true, decide_eq_true_eq] at hz
    refine congrArg some (wordS_eq_iff.2 ?_)
    simp [ho, hn, hz]

theorem encodeSq_decodeSq {i : Instr} {w : Word} (h : decodeSq w = .ok i) : encodeSq i = some w := by
  unfold decodeSq at h
  split at h
  · cases h
  split at h
  case h_36 => cases h
  case h_10 ho => exact encodeSq_decodeArith ((bits_eq_iff (by decide)).2 ho) h
  case h_33 ho => exact encodeSq_decodeSystem ((bits_eq_iff (by decide)).2 ho) h
  case h_34 ho => exact encodeSq_decodeFabricGroup ((bits_eq_iff (by decide)).2 ho) h
  case h_5 ho | h_6 ho | h_7 ho =>
    obtain ⟨hz, rfl⟩ := ifZero_ok_iff.1 h
    exact congrArg some (wordI_eq_iff.2 ⟨(bits_eq_iff (by decide)).2 ho, rfl, rfl, (extract_eq_append_iff (n := 6) (m := 10)).2 ⟨of_decide_eq_true hz, rfl⟩⟩)
  case h_9 ho =>
    obtain ⟨hz, rfl⟩ := ifZero_ok_iff.1 h
    exact congrArg some (wordI_eq_iff.2 ⟨(bits_eq_iff (by decide)).2 ho, rfl, of_decide_eq_true hz, rfl⟩)
  case h_28 ho =>
    cases h
    exact congrArg some (wordJ_eq_iff.2 ⟨(bits_eq_iff (by decide)).2 ho, rfl⟩)
  case h_30 ho | h_31 ho | h_32 ho =>
    obtain ⟨hz, rfl⟩ := ifZero_ok_iff.1 h
    exact congrArg some (wordA_eq_iff.2 ⟨(bits_eq_iff (by decide)).2 ho, rfl, rfl, rfl, of_decide_eq_true hz⟩)
  case h_35 ho =>
    obtain ⟨hz, rfl⟩ := ifZero_ok_iff.1 h
    exact congrArg some (wordA_eq_iff.2 ⟨(bits_eq_iff (by decide)).2 ho, rfl, rfl, rfl,
      (extract_eq_append_iff (n := 2) (m := 9)).2 ⟨of_decide_eq_true hz, rfl⟩⟩)
  all_goals
    next ho =>
    cases h
    exact congrArg some (wordI_eq_iff.2 ⟨(bits_eq_iff (by decide)).2 ho, rfl, rfl, rfl⟩)

theorem decodeSq_encodeSq {i : Instr} {w : Word} (h : encodeSq i = some w) : decodeSq w = .ok i := by
  cases i
  case qappEngine d a b =>
    obtain ⟨ho, hd, ha, hb, hn, hf⟩ := wordS_eq_iff.1 (Option.some.inj h)
    obtain ⟨hz, hx⟩ := flag_fields (x := 0#1) hf
    rw [decodeSq, if_neg (opc_ne_zero (ho ▸ by decide)), ← fieldOpc, ho]
    simp [decodeFabricGroup, ifZero, hd, ha, hb, hn, hz, hx]
  case qappWork d a b =>
    obtain ⟨ho, hd, ha, hb, hn, hf⟩ := wordS_eq_iff.1 (Option.some.inj h)
    obtain ⟨hz, hx⟩ := flag_fields (x := 1#1) hf
    rw [decodeSq, if_neg (opc_ne_zero (ho ▸ by decide)), ← fieldOpc, ho]
    simp [decodeFabricGroup, ifZero, hd, ha, hb, hn, hz, hx]
  all_goals first
    | exact absurd h (Option.some_ne_none w).symm
    | replace h := Option.some.inj h
      simp only [wordA_eq_iff, wordI_eq_iff, wordJ_eq_iff, wordS_eq_iff, fieldI, extract_eq_append_iff (n := 2) (m := 9),
        extract_eq_append_iff (n := 2) (m := 3), extract_eq_append_iff (n := 6) (m := 10)] at h
      rw [decodeSq, if_neg (opc_ne_zero (h.1 ▸ by decide)), ← fieldOpc, h.1]
      simp [decodeArith, decodeSystem, ifZero, decodeFabricGroup, fieldI, h]

/-! ## Operator words (R288, R296) -/

theorem opConstructor_operator {i : Instr} {c : BitVec 9} {o : OpWord} (h : i.operator = some (c, o)) :
    ∃ f, opConstructor c.toNat = some f ∧ f o = i := by
  cases i
  all_goals first
    | exact absurd h (Option.some_ne_none (c, o)).symm
    | cases h
      exact ⟨_, rfl, rfl⟩

theorem operator_opConstructor {n : Nat} {f : OpWord → Instr} (h : opConstructor n = some f) (o : OpWord) :
    (f o).operator = some (BitVec.ofNat 9 n, o) := by
  unfold opConstructor at h
  split at h
  case h_103 => cases h
  all_goals
    cases h
    rfl

theorem decodeOp_encodeOp {i : Instr} {w : DWord} (h : encodeOp i = some w) : decodeOp w = .ok i := by
  unfold encodeOp at h
  split at h
  case h_2 => cases h
  case h_1 c o hi =>
    obtain ⟨hc, ho⟩ := toBits_eq_iff.1 (Option.some.inj h)
    obtain ⟨f, hf, rfl⟩ := opConstructor_operator hi
    rw [decodeOp, opcodeOf, hc, hf, ho]

theorem decodeOp_ok {i : Instr} {w : DWord} (h : decodeOp w = .ok i) : i.operator = some (w.extractLsb' 55 9, OpWord.ofBits w) := by
  unfold decodeOp at h
  split at h
  case h_2 => cases h
  case h_1 f hf =>
    cases h
    rw [operator_opConstructor hf, opcodeOf, BitVec.ofNat_toNat, BitVec.setWidth_eq]

theorem encodeSq_operator {i : Instr} {x : BitVec 9 × OpWord} (h : i.operator = some x) : encodeSq i = none := by
  obtain ⟨c, o⟩ := x
  obtain ⟨f, hf, rfl⟩ := opConstructor_operator h
  unfold opConstructor at hf
  split at hf
  case h_103 => cases hf
  all_goals
    cases hf
    rfl

theorem encodeOp_decodeOp {i : Instr} {w : DWord} (h : decodeOp w = .ok i) : encodeOp i = some w := by
  rw [encodeOp, decodeOp_ok h]
  exact congrArg some (toBits_eq_iff.2 ⟨rfl, rfl⟩)

/-! ## Bytes -/

theorem ofNat_bytes {n : Nat} {x : BitVec (8 * n)} : BitVec.ofNat (8 * n) (bytesToNat (natToBytes n x.toNat)) = x := by
  have hx : x.toNat < 256 ^ n := by
    rw [show 256 = 2 ^ 8 from rfl, ← Nat.pow_mul]
    exact x.isLt
  rw [Machine.bytesToNat_natToBytes, Nat.mod_eq_of_lt hx, BitVec.ofNat_toNat, BitVec.setWidth_eq]

theorem bytes_ofNat {n : Nat} {l : List Byte} (h : l.length = n) : natToBytes n (BitVec.ofNat (8 * n) (bytesToNat l)).toNat = l := by
  have hl : bytesToNat l < 2 ^ (8 * n) := by
    rw [Nat.pow_mul, ← h]
    exact bytesToNat_lt l
  rw [BitVec.toNat_ofNat, Nat.mod_eq_of_lt hl, ← h, natToBytes_bytesToNat]

theorem decode_encode {i : Instr} (h : encode i ≠ []) : decode (encode i) = .ok i := by
  unfold encode at h ⊢
  split
  case h_1 _ _ w hw =>
    rw [decode, if_pos (Machine.length_natToBytes 4 _), ofNat_bytes (n := 4) (x := w), decodeSq_encodeSq hw]
  case h_2 _ _ w _ hw =>
    rw [decode, if_neg (by rw [Machine.length_natToBytes]; decide), if_pos (Machine.length_natToBytes 8 _), ofNat_bytes (n := 8) (x := w), decodeOp_encodeOp hw]
  case h_3 _ _ hs ho =>
    rw [hs, ho] at h
    exact absurd rfl h

theorem encode_decode {l : List Byte} {i : Instr} (h : decode l = .ok i) : encode i = l := by
  unfold decode at h
  split at h
  case isTrue h4 =>
    rw [encode, encodeSq_decodeSq h]
    exact bytes_ofNat h4
  case isFalse =>
    split at h
    case isTrue h8 =>
      rw [encode, encodeSq_operator (decodeOp_ok h), encodeOp_decodeOp h]
      exact bytes_ofNat h8
    case isFalse => cases h

/-! ## Configuration commands (R276) -/

theorem countCode_countField {n : Nat} (h1 : 1 ≤ n) (h64 : n ≤ 64) : countCode (countField n) = n := by
  rw [countCode, countField]
  split
  · next h =>
    have := congrArg BitVec.toNat h
    simp at this
    omega
  · next h =>
    rw [BitVec.toNat_ofNat]
    have : n ≠ 64 := by rintro rfl; exact h rfl
    omega

theorem wellFormed_run {vs : List Word} {f : BitVec 6} (h : runOk f vs = true) : countCode (countField vs.length) = vs.length := by
  obtain ⟨h1, h64⟩ : 1 ≤ vs.length ∧ f.toNat + vs.length ≤ 64 := by simpa [runOk] using h
  exact countCode_countField h1 (by omega)

/-- The upper bit of KIND tells a command with one word behind it. -/
theorem kind_high {w : Word} {k : BitVec 2} (h : w.extractLsb' 30 2 = k) : w.extractLsb' 31 1 = k.extractLsb' 1 1 := by
  subst h
  ext j hj
  simp [show j = 0 by omega]

theorem decodeCommand_encodeCommand {i : Instr} {w : Word} {vs : List Word} (hwf : i.wellFormed = true) (h : encodeCommand i = w :: vs) :
    decodeCommand w vs = .ok i ∧ commandLength w = vs.length := by
  cases i
  case writeActive ctx ea f us | writeShadow ctx ea f us =>
    obtain ⟨hw, rfl⟩ := List.cons.inj h
    obtain ⟨hk, hc, he, hf, hn⟩ := commandWord_eq_iff.1 hw
    obtain ⟨_, hrun⟩ : eaOk ea = true ∧ runOk f us = true := by simpa [Instr.wellFormed, Instr.operator] using hwf
    unfold decodeCommand commandLength
    rw [kind_high hk, hk, hc, he, hf, hn, wellFormed_run hrun]
    exact ⟨rfl, rfl⟩
  case readBack ctx ea f n =>
    obtain ⟨hw, rfl⟩ := List.cons.inj h
    obtain ⟨hk, hc, he, hf, hn⟩ := commandWord_eq_iff.1 hw
    unfold decodeCommand commandLength
    rw [kind_high hk, hk, hc, he, hf, hn]
    exact ⟨rfl, rfl⟩
  case swap ctx ea v | discard ctx ea v | check ctx ea v =>
    obtain ⟨hw, rfl⟩ := List.cons.inj h
    obtain ⟨hk, hc, he, hf, hn⟩ := commandWord_eq_iff.1 hw
    unfold decodeCommand commandLength
    rw [kind_high hk, hk, hc, he, hf, hn]
    exact ⟨rfl, rfl⟩
  all_goals exact absurd h (List.cons_ne_nil w vs).symm

/-- Settles O58: each format's fields are the fields of its word, so that the tables of the decoder and of the encoder meet row by row. -/
theorem decodeEncode : Obligations.DecodeEncode := by
  unfold Obligations.DecodeEncode
  exact ⟨fun _ h => decode_encode h, fun _ _ h => encode_decode h, fun _ _ _ hwf h => decodeCommand_encodeCommand hwf h⟩

/-- Settles O56: the decoder's tables at the words listed. -/
theorem decodedWords : Obligations.DecodedWords := by
  unfold Obligations.DecodedWords
  decide

end Sys2Proof.Proofs

namespace Sys2Proof.Proofs
open Sys2Proof.Machine

/-! ## Values of the register operations (R299, R321, R341, R343, R376, R391, R410) -/

theorem add_eq_ofNat (x y : DWord) : x + y = BitVec.ofNat 64 (x.toNat + y.toNat) := by
  rw [BitVec.ofNat_add, BitVec.ofNat_toNat, BitVec.ofNat_toNat, BitVec.setWidth_eq, BitVec.setWidth_eq]

theorem mul_eq_ofNat (x y : DWord) : x * y = BitVec.ofNat 64 (x.toNat * y.toNat) := by
  rw [BitVec.ofNat_mul, BitVec.ofNat_toNat, BitVec.ofNat_toNat, BitVec.setWidth_eq, BitVec.setWidth_eq]

theorem sub_eq_ofInt (x y : DWord) : x - y = BitVec.ofInt 64 (x.toNat - y.toNat) := by
  apply BitVec.eq_of_toNat_eq
  rw [BitVec.toNat_ofInt]
  bv_omega

theorem add_sext_eq_ofInt (x : DWord) {n : Nat} (i : BitVec n) : x + i.signExtend 64 = BitVec.ofInt 64 (x.toNat + i.toInt) := by
  rw [BitVec.ofInt_add, BitVec.ofInt_natCast, BitVec.ofNat_toNat, BitVec.setWidth_eq, BitVec.signExtend]

theorem shl_eq_ofNat (x : DWord) (n : Nat) : x <<< n = BitVec.ofNat 64 (x.toNat * 2 ^ n) := by
  apply BitVec.eq_of_toNat_eq
  rw [BitVec.toNat_shiftLeft, BitVec.toNat_ofNat, Nat.shiftLeft_eq]

theorem shr_eq_ofNat (x : DWord) (n : Nat) : x >>> n = BitVec.ofNat 64 (x.toNat / 2 ^ n) := by
  apply BitVec.eq_of_toNat_eq
  rw [BitVec.toNat_ushiftRight, BitVec.toNat_ofNat, Nat.shiftRight_eq_div_pow,
    Nat.mod_eq_of_lt (Nat.lt_of_le_of_lt (Nat.div_le_self _ _) x.isLt)]

theorem sra_eq_ofInt (x : DWord) (n : Nat) : x.sshiftRight n = BitVec.ofInt 64 (x.toInt / 2 ^ n) := by
  rw [BitVec.sshiftRight, Int.shiftRight_eq_div_pow]
  rfl

theorem zext_eq_ofNat {n : Nat} (i : BitVec n) : i.setWidth 64 = BitVec.ofNat 64 i.toNat := (BitVec.ofNat_toNat 64 i).symm

theorem oneIf_slt (x y : DWord) : oneIf (x.slt y) = if x.toInt < y.toInt then 1 else 0 := by
  rw [oneIf, BitVec.slt]
  simp only [decide_eq_true_eq]

theorem oneIf_ult (x y : DWord) : oneIf (x.ult y) = if x.toNat < y.toNat then 1 else 0 := by
  rw [oneIf, BitVec.ult]
  simp only [decide_eq_true_eq]

theorem shift_amount (n : BitVec 6) : (n.setWidth 64).toNat % 64 = n.toNat := by
  have := n.isLt
  rw [BitVec.toNat_setWidth, Nat.mod_eq_of_lt (by omega), Nat.mod_eq_of_lt (by omega)]

/-- The two quotients that overflow or divide by zero are the values R343 gives them. -/
theorem sqQuot_eq_quotient (x y : DWord) : sqQuot x y = Claims.quotient x y := by
  unfold sqQuot Claims.quotient
  split
  · rfl
  · split
    · next h => rw [h.1, h.2]; decide
    · rfl

/-- A zero divisor leaves the dividend: the quotient times zero is taken from it. -/
theorem sqRem_eq (x y : DWord) : sqRem x y = x - Claims.quotient x y * y := by
  unfold sqRem
  split
  · next h => simp [h]
  · rw [sqQuot_eq_quotient]

theorem crcShift_eq_crcBit : crcShift crc32cPoly = Claims.crcBit := rfl

theorem crcByte_eq_crcStep (c : Nat) (b : Byte) : crcByte crc32cPoly c b = Claims.crcStep c b.toNat := by
  simp only [crcByte, crcShifts, crcShift_eq_crcBit, Claims.crcStep]

theorem crc32cBytes_cons (c : Nat) (b : Byte) (l : List Byte) : crc32cBytes c (b :: l) = crc32cBytes (Claims.crcStep c b.toNat) l := by
  rw [crc32cBytes, List.foldl_cons, crcByte_eq_crcStep, crc32cBytes]

theorem crcLoop_succ (c x n : Nat) : Claims.crcLoop c x (n + 1) = Claims.crcLoop (Claims.crcStep c (x % 256)) (x / 256) n := rfl

theorem crc32cBytes_eq_crcLoop (c x n : Nat) : crc32cBytes c (natToBytes n x) = Claims.crcLoop c x n := by
  induction n generalizing c x with
  | zero => rfl
  | succ n ih =>
    have hbyte : (BitVec.ofNat 8 x).toNat = x % 256 := BitVec.toNat_ofNat x 8
    rw [natToBytes, crc32cBytes_cons, ih, hbyte, crcLoop_succ]

/-! ## The instructions -/

section
variable {s : State} {b : BitVec 6} (hr : Claims.Runs s b)
include hr

theorem sqOp2_runs (d x y : BitVec 5) (f : DWord → DWord → DWord) :
    sqOp2 s d x y f = .next (s.setSq b (Claims.nextPc ((s.sq b).setG d (f ((s.sq b).getG x) ((s.sq b).getG y))))) := runSq_of_runs hr _

theorem sqOp1_runs (d x : BitVec 5) (f : DWord → DWord) :
    sqOp1 s d x f = .next (s.setSq b (Claims.nextPc ((s.sq b).setG d (f ((s.sq b).getG x))))) := runSq_of_runs hr _

theorem exec_lhi_runs (d : BitVec 5) (i : BitVec 16) :
    exec (.lhi d i) s = .next (s.setSq b (Claims.nextPc ((s.sq b).setG d ((i ++ (0 : BitVec 16)).signExtend 64)))) := by
  show execLhi d i s = _
  exact runSq_of_runs hr _

/-- A register operation is one of the two shared forms, with the value of its table row. -/
theorem exec_aluValue {i : Instr} {d : BitVec 5} {v : DWord} (hv : Claims.aluValue (s.sq b).getG i = some (d, v)) :
    exec i s = .next (s.setSq b (Claims.nextPc ((s.sq b).setG d v))) := by
  unfold Claims.aluValue at hv
  split at hv
  case h_22 => cases hv
  case h_21 => cases hv; exact exec_lhi_runs hr _ _
  case h_1 => cases hv; rw [← add_eq_ofNat]; exact sqOp2_runs hr _ _ _ (· + ·)
  case h_2 => cases hv; rw [← sub_eq_ofInt]; exact sqOp2_runs hr _ _ _ (· - ·)
  case h_3 => cases hv; exact sqOp2_runs hr _ _ _ (· &&& ·)
  case h_4 => cases hv; exact sqOp2_runs hr _ _ _ (· ||| ·)
  case h_5 => cases hv; exact sqOp2_runs hr _ _ _ (· ^^^ ·)
  case h_6 => cases hv; rw [← shl_eq_ofNat]; exact sqOp2_runs hr _ _ _ sqShl
  case h_7 => cases hv; rw [← shr_eq_ofNat]; exact sqOp2_runs hr _ _ _ sqShr
  case h_8 => cases hv; rw [← sra_eq_ofInt]; exact sqOp2_runs hr _ _ _ sqSra
  case h_9 => cases hv; rw [← mul_eq_ofNat]; exact sqOp2_runs hr _ _ _ (· * ·)
  case h_10 => cases hv; exact sqOp2_runs hr _ _ _ sqMulh
  case h_11 => cases hv; rw [← oneIf_slt]; exact sqOp2_runs hr _ _ _ (fun x y => oneIf (x.slt y))
  case h_12 => cases hv; rw [← oneIf_ult]; exact sqOp2_runs hr _ _ _ (fun x y => oneIf (x.ult y))
  case h_13 => cases hv; rw [← add_sext_eq_ofInt]; exact sqOp1_runs hr _ _ (· + sext16 _)
  case h_14 => cases hv; rw [← zext_eq_ofNat]; exact sqOp1_runs hr _ _ (· &&& zext16 _)
  case h_15 => cases hv; rw [← zext_eq_ofNat]; exact sqOp1_runs hr _ _ (· ||| zext16 _)
  case h_16 => cases hv; rw [← zext_eq_ofNat]; exact sqOp1_runs hr _ _ (· ^^^ zext16 _)
  case h_17 x n => cases hv; rw [← shl_eq_ofNat, ← shift_amount n]; exact sqOp1_runs hr _ _ (sqShl · (n.setWidth 64))
  case h_18 x n => cases hv; rw [← shr_eq_ofNat, ← shift_amount n]; exact sqOp1_runs hr _ _ (sqShr · (n.setWidth 64))
  case h_19 x n => cases hv; rw [← sra_eq_ofInt, ← shift_amount n]; exact sqOp1_runs hr _ _ (sqSra · (n.setWidth 64))
  case h_20 x i =>
    cases hv
    rw [← BitVec.toInt_signExtend_of_le (v := 64) (x := i) (by decide), ← oneIf_slt]
    exact sqOp1_runs hr _ _ (fun x => oneIf (x.slt (sext16 i)))

theorem sqDivide_runs (d x y : BitVec 5) (f : DWord → DWord → DWord) :
    sqDivide s d x y f = .next (s.setSq b { Claims.nextPc ((s.sq b).setG d (f ((s.sq b).getG x) ((s.sq b).getG y))) with
      divz := (s.sq b).divz || decide ((s.sq b).getG y = 0) }) := by
  rw [sqDivide, runSq_of_runs hr, ← Sq.setG_divz (s.sq b) d (f ((s.sq b).getG x) ((s.sq b).getG y))]
  rfl

end

/-- Settles O5: each operation runs through its shared form, and its value is that of its row. -/
theorem registerOperations : Obligations.RegisterOperations := by
  unfold Obligations.RegisterOperations
  refine ⟨fun s b i d v hr hv => exec_aluValue hr hv, fun s b d a c hr => ?_, fun s b d a c n hr => ?_⟩
  · intro q x y z
    refine ⟨?_, ?_⟩
    · rw [← sqQuot_eq_quotient]
      exact sqDivide_runs hr d a c sqQuot
    · rw [← sqRem_eq]
      exact sqDivide_runs hr d a c sqRem
  · intro q
    rw [← crc32cBytes_eq_crcLoop]
    exact sqOp2_runs hr d a c (fun x y => sqCrc x y n)

end Sys2Proof.Proofs

namespace Sys2Proof.Proofs
open Sys2Proof.Machine

/-! ## Branches and jumps (R329, R361) -/

theorem pc_plus_words (p : DWord) {n : Nat} (o : BitVec n) : p + o.signExtend 64 * 4 = BitVec.ofInt 64 (p.toNat + o.toInt * 4) := by
  rw [BitVec.ofInt_add, BitVec.ofInt_natCast, BitVec.ofNat_toNat, BitVec.setWidth_eq, BitVec.ofInt_mul]
  rfl

section
variable {s : State} {b : BitVec 6} (hr : Claims.Runs s b)
include hr

theorem sqBranch_runs (x y : BitVec 5) (o : BitVec 16) (c : DWord → DWord → Bool) :
    sqBranch s x y o c = .next (s.setSq b { s.sq b with
      pc := if c ((s.sq b).getG x) ((s.sq b).getG y) then BitVec.ofInt 64 ((s.sq b).pc.toNat + o.toInt * 4) else (s.sq b).pc + 4, within := false }) := by
  rw [sqBranch, runSq_of_runs hr, ← pc_plus_words]
  rfl

/-- A branch is the shared form under the condition of its row of Table 15-2. -/
theorem exec_branchOf {i : Instr} {o : BitVec 16} {c : Bool} (hb : Claims.branchOf (s.sq b).getG i = some (o, c)) :
    exec i s = .next (s.setSq b { s.sq b with
      pc := if c then BitVec.ofInt 64 ((s.sq b).pc.toNat + o.toInt * 4) else (s.sq b).pc + 4, within := false }) := by
  unfold Claims.branchOf at hb
  split at hb
  case h_7 => cases hb
  case h_1 x y o => cases hb; exact sqBranch_runs hr x y o (fun u v => u == v)
  case h_2 x y o =>
    cases hb
    rw [decide_not]
    exact sqBranch_runs hr x y o (fun u v => u != v)
  case h_3 x y o => cases hb; exact sqBranch_runs hr x y o (fun u v => u.slt v)
  case h_4 x y o =>
    cases hb
    rw [show decide (((s.sq b).getG y).toInt ≤ ((s.sq b).getG x).toInt) = !((s.sq b).getG x).slt ((s.sq b).getG y) by
      rw [BitVec.slt, ← decide_not, decide_eq_decide, not_lt]]
    exact sqBranch_runs hr x y o (fun u v => !u.slt v)
  case h_5 x y o => cases hb; exact sqBranch_runs hr x y o (fun u v => u.ult v)
  case h_6 x y o =>
    cases hb
    rw [show decide (((s.sq b).getG y).toNat ≤ ((s.sq b).getG x).toNat) = !((s.sq b).getG x).ult ((s.sq b).getG y) by
      rw [BitVec.ult, ← decide_not, decide_eq_decide, not_lt]]
    exact sqBranch_runs hr x y o (fun u v => !u.ult v)

theorem exec_jal (o : BitVec 26) : exec (.jal o) s = .next (s.setSq b
    { (s.sq b).setG 31 ((s.sq b).pc + 4) with pc := BitVec.ofInt 64 ((s.sq b).pc.toNat + o.toInt * 4), within := false }) := by
  rw [← pc_plus_words]
  show execJal o s = _
  exact runSq_of_runs hr _

theorem exec_jr (d a : BitVec 5) (i : BitVec 16) : exec (.jr d a i) s = .next (s.setSq b
    { (s.sq b).setG d ((s.sq b).pc + 4) with pc := Claims.address (s.sq b) a i &&& ~~~3#64, within := false }) := by
  rw [← dataAddr_eq_address]
  show execJr d a i s = _
  exact runSq_of_runs hr _

end

/-- Settles O6: each branch is the shared form, and `jal` and `jr` form their targets from the registers as they were. -/
theorem controlTransfers : Obligations.ControlTransfers := by
  unfold Obligations.ControlTransfers
  exact ⟨fun s b i o c hr hb => exec_branchOf hr hb, fun s b hr => ⟨exec_jal hr, exec_jr hr⟩⟩

/-! ## Loads, stores and atomics (R322, R365, R402) -/

section
variable {s t : State} {b : BitVec 6} {i : Instr} {d a : BitVec 5} {o : BitVec 16} {n : Nat} (hr : Claims.Runs s b)
include hr

theorem exec_load_answers {x : Nat} {f : Nat → DWord} {p : SqPlace} (hi : Claims.loadOf i = some (d, a, o, n, f))
    (hp : sqPlace s b (Claims.address (s.sq b) a o) n n = .ok p) (hread : sqRead s b p n = (t, some x)) :
    exec i s = .next (t.setSq b (Claims.nextPc ((t.sq b).setG d (f x)))) := by
  rw [exec_loadOf hi, sqLoadOp, runSq_of_runs hr, dataAddr_eq_address, sqLoad, hp]
  dsimp only
  rw [hread]
  rfl

theorem exec_store_answers {p : SqPlace} (hi : Claims.storeOf i = some (d, a, o, n))
    (hp : sqPlace s b (Claims.address (s.sq b) a o) n n = .ok p) (hwrite : sqWrite s b p n ((s.sq b).getG d).toNat = (t, true)) :
    exec i s = .next (t.setSq b (Claims.nextPc (t.sq b))) := by
  rw [exec_storeOf hi, sqStoreOp, runSq_of_runs hr, dataAddr_eq_address, sqStore, hp]
  dsimp only
  rw [hwrite]
  rfl

end

/-- Settles O7: once the address decodes and the access answers, what is left is to complete. -/
theorem spaceAccesses : Obligations.SpaceAccesses := by
  unfold Obligations.SpaceAccesses
  exact ⟨fun s t b i d a o n x f p hr hi hp hread => exec_load_answers hr hi hp hread,
    fun s t b i d a o n p hr hi hp hwrite => exec_store_answers hr hi hp hwrite⟩

/-! ### In the local data RAM -/

/-- An aligned address of the local data RAM decodes to its offset (Table 3-8). -/
theorem sqPlace_inRam {s : State} {b : BitVec 6} {x : DWord} {n : Nat} (hx : Claims.inRam x) (hn : x.toNat % n = 0) :
    sqPlace s b x n n = .ok (.ram (x.toNat % 4096)) := by
  unfold Claims.inRam at hx
  rw [sqPlace_ram (by omega), if_neg (not_not.2 (by omega)), if_pos hn]

theorem lramKey_offset (b : BitVec 6) (x : DWord) : lramKey b (x.toNat % 4096) = b.toNat * 4096 + x.toNat % 4096 := by
  rw [lramKey, Nat.mod_mod]

theorem memNat_lt (m : Memory) (a n : Nat) : memNat m a n < 256 ^ n := by
  have := bytesToNat_lt (memBytes m a n)
  rwa [length_memBytes] at this

/-- The word of an atomic is formed from the registers as they were. -/
theorem exec_atomicOf_word {s : State} {b : BitVec 6} {i : Instr} {d a : BitVec 5} {w : DWord → Option DWord}
    (h : Claims.atomicOf (s.sq b).getG i = some (d, a, w)) : ∃ new, exec i s = sqAtomic s d a new ∧ new (s.sq b) = w := by
  unfold Claims.atomicOf at h
  split at h
  case h_4 => cases h
  all_goals
    cases h
    dsimp only [exec, execAmadd, execAmswp, execAmcas]
    exact ⟨_, rfl, rfl⟩

/-- What an atomic that writes `w` leaves in the local data RAM. -/
def ramPut (m : Memory) (k : Nat) (w : Option DWord) : Memory :=
  match w with
  | none => m
  | some v => memSetNat m k 8 v.toNat

theorem amPut_ram (s : State) (b : BitVec 6) (off pa : Nat) (w : Option DWord) :
    amPut s b (.ram off) pa w = { s with lram := ramPut s.lram (lramKey b off) w } := by
  cases w <;> rfl

theorem memNat_ramPut {m : Memory} {k : Nat} (h : memWf m = true) (w : Option DWord) :
    memNat (ramPut m k w) k 8 = (w.getD (BitVec.ofNat 64 (memNat m k 8))).toNat := by
  cases w with
  | none => exact (Nat.mod_eq_of_lt (memNat_lt m k 8)).symm
  | some v => exact (memNat_memSetNat h).trans (Nat.mod_eq_of_lt v.isLt)

theorem memByte_ramPut_outside {m : Memory} {k j : Nat} (h : memWf m = true) (w : Option DWord) (hj : j < k ∨ k + 8 ≤ j) :
    memByte (ramPut m k w) j = memByte m j := by
  cases w with
  | none => rfl
  | some v => exact memByte_memSetNat_outside h hj

theorem exec_atomic_inRam {s : State} {b : BitVec 6} {i : Instr} {d a : BitVec 5} {w : DWord → Option DWord} (hr : Claims.Runs s b)
    (hi : Claims.atomicOf (s.sq b).getG i = some (d, a, w)) (hx : Claims.inRam ((s.sq b).getG a)) (hn : ((s.sq b).getG a).toNat % 8 = 0) :
    let k := lramKey b (((s.sq b).getG a).toNat % 4096)
    let old := BitVec.ofNat 64 (memNat s.lram k 8)
    exec i s = .next (retireG { s with lram := ramPut s.lram k (w old) } b d old) := by
  obtain ⟨new, he, hw⟩ := exec_atomicOf_word hi
  rw [he, sqAtomic, runSq_of_runs hr]
  dsimp only
  rw [sqPlace_inRam hx hn, hw]
  dsimp only
  rw [amPut_ram]

/-- Settles O1: the address decodes to an offset, and what is read and written there are the memory's own laws. -/
theorem ramAccesses : Obligations.RamAccesses := by
  unfold Obligations.RamAccesses
  refine ⟨fun s b i d a o n f hr hi => ?_, fun s b i d a o n hr hwf hi => ?_, fun s b i d a w hr hwf hi => ?_⟩
  · intro x hx hn
    rw [ramNat_eq, ← lramKey_offset]
    exact exec_load_answers hr hi (sqPlace_inRam hx hn) rfl
  · intro x hx hn
    refine ⟨_, exec_store_answers hr hi (sqPlace_inRam hx hn) rfl, rfl, ?_, fun k hk => ?_⟩
    · rw [ramNat_eq, ← lramKey_offset]
      exact memNat_memSetNat hwf
    · exact memByte_memSetNat_outside hwf (by rw [lramKey_offset]; exact hk)
  · intro x off old hx hn
    have hold : old = BitVec.ofNat 64 (memNat s.lram (lramKey b (x.toNat % 4096)) 8) := by rw [lramKey_offset, ← ramNat_eq]
    refine ⟨_, exec_atomic_inRam hr hi hx hn, ?_, ?_, fun k hk => ?_⟩
    · rw [hold]; rfl
    · rw [ramNat_eq, hold, ← lramKey_offset]
      exact memNat_ramPut hwf _
    · exact memByte_ramPut_outside hwf _ (by rw [lramKey_offset]; exact hk)

end Sys2Proof.Proofs

namespace Sys2Proof.Proofs
open Sys2Proof.Machine

/-! ## Patterns and the integers they stand for (R53, R56) -/

theorem wrap_lt (w : Nat) (x : Int) : Claims.wrap w x < 2 ^ w := BitVec.isLt _

theorem wrap_cast (w : Nat) (x : Int) : (Claims.wrap w x : Int) = x % 2 ^ w := by
  rw [← wrapInt_eq_wrap, wrapInt, Int.toNat_of_nonneg (Int.emod_nonneg _ (by positivity))]

/-- Two integers have one pattern when they agree modulo 2^w. -/
theorem wrap_congr {w : Nat} {x y : Int} (h : x % 2 ^ w = y % 2 ^ w) : Claims.wrap w x = Claims.wrap w y := by
  rw [← Int.ofNat_inj]
  exact (wrap_cast w x).trans (h.trans (wrap_cast w y).symm)

theorem wrap_natCast {w n : Nat} (h : n < 2 ^ w) : Claims.wrap w n = n := by
  rw [← Int.ofNat_inj]
  exact (wrap_cast w n).trans (Int.emod_eq_of_lt (by positivity) (by exact_mod_cast h))

theorem deliver_lt (f : Nat) (sat : BitVec 1) (x : Int) : Claims.deliver f sat x < 2 ^ fmtWidth f := wrap_lt _ _

section
variable {f p : Nat}

theorem num_emod (f p : Nat) : Claims.num f p % 2 ^ fmtWidth f = (p : Int) % 2 ^ fmtWidth f := by
  unfold Claims.num
  split
  · exact Int.sub_emod_right _ _
  · rfl

theorem wrap_num (h : p < 2 ^ fmtWidth f) : Claims.wrap (fmtWidth f) (Claims.num f p) = p := by
  rw [wrap_congr (num_emod f p), wrap_natCast h]

/-- A pattern's integer lies in the range of its width and sign. -/
theorem intOf_range {w p : Nat} (signed : Bool) (hw : 0 < w) (h : p < 2 ^ w) :
    (if signed then -2 ^ (w - 1) else 0) ≤ intOf w signed p ∧ intOf w signed p ≤ if signed then 2 ^ (w - 1) - 1 else 2 ^ w - 1 := by
  obtain ⟨k, rfl⟩ := Nat.exists_eq_add_of_lt hw
  rw [Nat.zero_add] at h ⊢
  have hp : (p : Int) < 2 ^ (k + 1) := by exact_mod_cast h
  rw [Nat.add_sub_cancel, intOf, Nat.add_sub_cancel]
  cases signed with
  | false =>
    simp only [Bool.false_and, Bool.false_eq_true, if_false]
    omega
  | true =>
    simp only [Bool.true_and, decide_eq_true_eq, if_true]
    split
    · next hn =>
      have : (2 : Int) ^ k ≤ p := by exact_mod_cast hn
      omega
    · next hn =>
      have : (p : Int) < 2 ^ k := by exact_mod_cast Nat.lt_of_not_le hn
      have : (0 : Int) < 2 ^ k := by positivity
      omega

theorem num_range (hw : 0 < fmtWidth f) (h : p < 2 ^ fmtWidth f) :
    (if fmtSigned f then -2 ^ (fmtWidth f - 1) else 0) ≤ Claims.num f p ∧
      Claims.num f p ≤ if fmtSigned f then 2 ^ (fmtWidth f - 1) - 1 else 2 ^ fmtWidth f - 1 := by
  rw [← intOf_eq_num]
  exact intOf_range _ hw h

/-- Delivery gives a pattern's integer its pattern back. -/
theorem deliver_num (hw : 0 < fmtWidth f) (h : p < 2 ^ fmtWidth f) (sat : BitVec 1) : Claims.deliver f sat (Claims.num f p) = p := by
  obtain ⟨hlo, hhi⟩ := num_range hw h
  have hclamp : max (if fmtSigned f then -2 ^ (fmtWidth f - 1) else 0)
      (min (if fmtSigned f then 2 ^ (fmtWidth f - 1) - 1 else 2 ^ fmtWidth f - 1) (Claims.num f p)) = Claims.num f p := by
    rw [min_eq_right hhi, max_eq_right hlo]
  simp only [Claims.deliver, hclamp, ite_self, wrap_num h]

end

/-! ## Shifts (R409) -/

/-- A shift past the width delivers what a shift by the width delivers: nothing is left of the pattern, or the end of the range. -/
theorem deliver_shift (f : Nat) (sat : BitVec 1) (n : Int) (b : Nat) (hw : 0 < fmtWidth f) :
    Claims.deliver f sat (n * 2 ^ min (fmtWidth f) b) = Claims.deliver f sat (n * 2 ^ b) := by
  rcases Nat.le_total b (fmtWidth f) with hb | hb
  · rw [min_eq_right hb]
  rw [min_eq_left hb]
  have hhalf : (2 : Int) ^ (fmtWidth f - 1) ≤ 2 ^ fmtWidth f := pow_le_pow_right₀ (by decide) (by omega)
  have hpow : (2 : Int) ^ fmtWidth f ≤ 2 ^ b := pow_le_pow_right₀ (by decide) hb
  have hpos : (0 : Int) < 2 ^ fmtWidth f := by positivity
  have hpos' : (0 : Int) < 2 ^ (fmtWidth f - 1) := by positivity
  unfold Claims.deliver
  dsimp only
  by_cases hs : sat = 1
  · simp only [if_pos hs]
    congr 1
    rcases lt_trichotomy n 0 with hn | rfl | hn
    · have h1 : n * 2 ^ fmtWidth f ≤ -2 ^ fmtWidth f := by nlinarith
      have h2 : n * 2 ^ b ≤ -2 ^ fmtWidth f := by nlinarith
      split <;> omega
    · rw [zero_mul, zero_mul]
    · have h1 : 2 ^ fmtWidth f ≤ n * 2 ^ fmtWidth f := by nlinarith
      have h2 : 2 ^ fmtWidth f ≤ n * 2 ^ b := by nlinarith
      split <;> omega
  · simp only [if_neg hs]
    refine wrap_congr ?_
    obtain ⟨k, rfl⟩ := Nat.exists_eq_add_of_le hb
    rw [Int.mul_emod_left, pow_add, mul_comm ((2 : Int) ^ fmtWidth f), ← mul_assoc, Int.mul_emod_left]

theorem div_pow_min {w a b : Nat} (h : a < 2 ^ w) : a / 2 ^ min w b = a / 2 ^ b := by
  rcases Nat.le_total b w with hb | hb
  · rw [min_eq_right hb]
  · rw [min_eq_left hb, Nat.div_eq_of_lt h, Nat.div_eq_of_lt (Nat.lt_of_lt_of_le h (Nat.pow_le_pow_right (by decide) hb))]

theorem intOf_toInt {w a : Nat} (hw : 0 < w) (h : a < 2 ^ w) : intOf w true a = (BitVec.ofNat w a).toInt := by
  obtain ⟨k, rfl⟩ := Nat.exists_eq_add_of_lt hw
  rw [Nat.zero_add] at h ⊢
  rw [intOf, BitVec.toInt_eq_toNat_cond, BitVec.toNat_ofNat, Nat.mod_eq_of_lt h, Nat.add_sub_cancel]
  by_cases hn : 2 ^ k ≤ a
  · rw [if_pos (by simp [hn]), if_neg (by omega)]; norm_cast
  · rw [if_neg (by simp [hn]), if_pos (by omega)]

theorem ediv_of_small_neg {x d : Int} (hx : x < 0) (hd : -d ≤ x) : x / d = -1 :=
  le_antisymm (by have := Int.ediv_neg_of_neg_of_pos hx (by omega : 0 < d); omega) ((Int.le_ediv_iff_mul_le (by omega)).2 (by omega))

/-- Sign fill: a shift past the width leaves the sign alone. -/
theorem sra_pattern {w a b : Nat} (hw : 0 < w) (h : a < 2 ^ w) :
    wrapInt w (intOf w true a / 2 ^ min w b) = ((BitVec.ofNat w a).sshiftRight b).toNat := by
  have hdiv : (BitVec.ofNat w a).toInt / 2 ^ min w b = (BitVec.ofNat w a).toInt / 2 ^ b := by
    rcases Nat.le_total b w with hb | hb
    · rw [min_eq_right hb]
    rw [min_eq_left hb]
    obtain ⟨hge, hlt⟩ := intOf_range true hw h
    rw [intOf_toInt hw h] at hge hlt
    have hhalf : (2 : Int) ^ (w - 1) ≤ 2 ^ w := pow_le_pow_right₀ (by decide) (by omega)
    have hpow : (2 : Int) ^ w ≤ 2 ^ b := pow_le_pow_right₀ (by decide) hb
    simp only [if_true] at hge hlt
    rcases lt_or_ge (BitVec.ofNat w a).toInt 0 with hn | hn
    · rw [ediv_of_small_neg hn (by omega), ediv_of_small_neg hn (by omega)]
    · rw [Int.ediv_eq_zero_of_lt hn (by omega), Int.ediv_eq_zero_of_lt hn (by omega)]
  rw [wrapInt_eq_wrap, intOf_toInt hw h, hdiv, BitVec.sshiftRight, Int.shiftRight_eq_div_pow]
  rfl

/-! ## Order (R337, R379) -/

theorem num_inj {f a b : Nat} (ha : a < 2 ^ fmtWidth f) (hb : b < 2 ^ fmtWidth f) (h : Claims.num f a = Claims.num f b) : a = b := by
  rw [← wrap_num ha, h, wrap_num hb]

/-- The smaller of two integers is delivered as its pattern. -/
theorem deliver_min {f a b : Nat} (hw : 0 < fmtWidth f) (ha : a < 2 ^ fmtWidth f) (hb : b < 2 ^ fmtWidth f) (sat : BitVec 1) :
    Claims.deliver f sat (if Claims.num f b < Claims.num f a then Claims.num f b else Claims.num f a) =
      if Claims.num f a ≤ Claims.num f b then a else b := by
  by_cases h : Claims.num f a ≤ Claims.num f b
  · rw [if_neg (not_lt.2 h), if_pos h, deliver_num hw ha]
  · rw [if_pos (not_le.1 h), if_neg h, deliver_num hw hb]

theorem deliver_max {f a b : Nat} (hw : 0 < fmtWidth f) (ha : a < 2 ^ fmtWidth f) (hb : b < 2 ^ fmtWidth f) (sat : BitVec 1) :
    Claims.deliver f sat (if Claims.num f a < Claims.num f b then Claims.num f b else Claims.num f a) =
      if Claims.num f b ≤ Claims.num f a then a else b := by
  by_cases h : Claims.num f b ≤ Claims.num f a
  · rw [if_neg (not_lt.2 h), if_pos h, deliver_num hw ha]
  · rw [if_pos (not_le.1 h), if_neg h, deliver_num hw hb]

theorem negate_negative (n : Int) : (if n < 0 then -n else n) = |n| := by
  split
  · next h => rw [abs_of_neg h]
  · next h => rw [abs_of_nonneg (not_lt.1 h)]

theorem condHolds_eq_holds {c : Nat} (h : c ≤ 5) (a b : Int) : condHolds c (decide (a < b)) (decide (a = b)) = Claims.holds c a b := by
  interval_cases c <;> simp only [condHolds, Claims.holds, ← decide_not, ← Bool.decide_or, ← Bool.decide_and, decide_eq_decide] <;> omega

/-! ## Patterns as bit vectors (R317, R379, R409) -/

section
variable {w a b : Nat} (ha : a < 2 ^ w) (hb : b < 2 ^ w)
include ha

theorem toNat_pattern : (BitVec.ofNat w a).toNat = a := by rw [BitVec.toNat_ofNat, Nat.mod_eq_of_lt ha]

include hb

theorem and_pattern : (a &&& b) % 2 ^ w = (BitVec.ofNat w a &&& BitVec.ofNat w b).toNat := by
  rw [BitVec.toNat_and, toNat_pattern ha, toNat_pattern hb, Nat.mod_eq_of_lt (Nat.and_lt_two_pow _ hb)]

theorem or_pattern : (a ||| b) % 2 ^ w = (BitVec.ofNat w a ||| BitVec.ofNat w b).toNat := by
  rw [BitVec.toNat_or, toNat_pattern ha, toNat_pattern hb, Nat.mod_eq_of_lt (Nat.or_lt_two_pow ha hb)]

theorem xor_pattern : (a ^^^ b) % 2 ^ w = (BitVec.ofNat w a ^^^ BitVec.ofNat w b).toNat := by
  rw [BitVec.toNat_xor, toNat_pattern ha, toNat_pattern hb, Nat.mod_eq_of_lt (Nat.xor_lt_two_pow ha hb)]

theorem andn_pattern : (a &&& (2 ^ w - 1 - b)) % 2 ^ w = (BitVec.ofNat w a &&& ~~~BitVec.ofNat w b).toNat := by
  rw [BitVec.toNat_and, BitVec.toNat_not, toNat_pattern ha, toNat_pattern hb, Nat.mod_eq_of_lt (Nat.and_lt_two_pow _ (by omega))]

end

/-- What a rotation moves up and what it moves down share no bit. -/
theorem rot_halves {k r a : Nat} (ha : a < 2 ^ (k + r)) : (a * 2 ^ r + a / 2 ^ k) % 2 ^ (k + r) = a * 2 ^ r % 2 ^ (k + r) ||| a / 2 ^ k := by
  have hlow : a / 2 ^ k < 2 ^ r := by
    rw [Nat.div_lt_iff_lt_mul (by positivity), ← Nat.pow_add, Nat.add_comm]
    exact ha
  have hhigh : a * 2 ^ r % 2 ^ (k + r) = a % 2 ^ k * 2 ^ r := by rw [Nat.pow_add, Nat.mul_mod_mul_right]
  have hfits : a % 2 ^ k * 2 ^ r + a / 2 ^ k < 2 ^ (k + r) := by
    have := Nat.mul_le_mul_right (2 ^ r) (Nat.mod_lt a (Nat.two_pow_pos k))
    rw [Nat.succ_mul, ← Nat.pow_add] at this
    omega
  rw [Nat.add_mod, hhigh, Nat.add_mod_mod, Nat.mod_eq_of_lt hfits, ← Nat.shiftLeft_eq, Nat.shiftLeft_add_eq_or_of_lt hlow]

theorem rot_pattern {w a b : Nat} (ha : a < 2 ^ w) (hw : 0 < w) :
    (a * 2 ^ (b % w) + a / 2 ^ (w - b % w)) % 2 ^ w = ((BitVec.ofNat w a).rotateLeft b).toNat := by
  have hsum : (w - b % w) + b % w = w := Nat.sub_add_cancel (Nat.mod_lt b hw).le
  have hhalves := rot_halves (k := w - b % w) (r := b % w) (a := a) (by rwa [hsum])
  rw [hsum] at hhalves
  rw [hhalves, BitVec.toNat_rotateLeft, toNat_pattern ha, Nat.shiftLeft_eq, Nat.shiftRight_eq_div_pow]

/-! ## Counts (R317, R379) -/

theorem popCount_eq_countP (a n : Nat) : popCount a n = (List.range n).countP (fun i => a.testBit i) := by
  induction n with
  | zero => rfl
  | succ n ih =>
    rw [popCount, ih, List.range_succ, List.countP_append, List.countP_singleton, Nat.testBit_eq_decide_div_mod_eq]
    rcases Nat.mod_two_eq_zero_or_one (a / 2 ^ n) with h | h <;> simp [h]

theorem popCount_le (a n : Nat) : popCount a n ≤ n := by
  rw [popCount_eq_countP]
  exact (List.countP_le_length).trans (by rw [List.length_range])

theorem testBit_top {n x : Nat} (h : x < 2 ^ (n + 1)) : x.testBit n = decide (2 ^ n ≤ x) := by
  rw [Nat.testBit_eq_decide_div_mod_eq, decide_eq_decide]
  rw [Nat.pow_succ] at h
  by_cases hx : 2 ^ n ≤ x
  · have : x / 2 ^ n = 1 := Nat.div_eq_of_lt_le (by omega) (by omega)
    simp [this, hx]
  · simp [Nat.div_eq_of_lt (Nat.lt_of_not_le hx), hx]

/-- The highest 1 bit stands behind the leading zeros. -/
theorem clz_eq_takeWhile {w a : Nat} (h : a < 2 ^ w) :
    (if a = 0 then w else w - 1 - Nat.log2 a) = ((List.range w).takeWhile (fun i => !a.testBit (w - 1 - i))).length := by
  induction w with
  | zero => simp
  | succ w ih =>
    have htail : ((List.range w).map Nat.succ).takeWhile (fun i => !a.testBit (w + 1 - 1 - i)) =
        ((List.range w).takeWhile (fun i => !a.testBit (w - 1 - i))).map Nat.succ := by
      rw [List.takeWhile_map]
      congr 2
      funext i
      simp only [Function.comp]
      rw [show w + 1 - 1 - i.succ = w - 1 - i by omega]
    rw [List.range_succ_eq_map, List.takeWhile_cons, htail, Nat.sub_zero, Nat.add_sub_cancel, testBit_top h]
    by_cases hw : 2 ^ w ≤ a
    · have hlog : Nat.log2 a = w := (Nat.log2_eq_iff (by have := Nat.two_pow_pos w; omega)).2 ⟨hw, h⟩
      have : a ≠ 0 := by have := Nat.two_pow_pos w; omega
      simp [hw, hlog, this]
    · have hih := ih (Nat.lt_of_not_le hw)
      simp only [hw, decide_false, Bool.not_false, if_true, List.length_cons, List.length_map, ← hih]
      split
      · rfl
      · next h0 =>
        have := (Nat.log2_lt h0).2 (Nat.lt_of_not_le hw)
        omega

/-! ## Bit fields (R330) -/

/-- A field with its sign: the field's pattern, moved to the top of the width when its sign is set. -/
theorem bfx_signed {w pos len : Nat} (h : pos + len ≤ w) (hlen : 1 ≤ len) (x : Nat) (hx : x < 2 ^ len) :
    wrapInt w (intOf len true x) = if x.testBit (len - 1) then x + 2 ^ w - 2 ^ len else x := by
  obtain ⟨n, rfl⟩ := Nat.exists_eq_add_of_le hlen
  rw [Nat.add_comm] at *
  have hle : 2 ^ (n + 1) ≤ 2 ^ w := Nat.pow_le_pow_right (by decide) (by omega)
  rw [Nat.add_sub_cancel, testBit_top hx, wrapInt_eq_wrap, intOf, Nat.add_sub_cancel, Bool.true_and]
  by_cases hn : 2 ^ n ≤ x
  · have hcast : ((x + 2 ^ w - 2 ^ (n + 1) : Nat) : Int) = x + 2 ^ w - 2 ^ (n + 1) := by
      rw [Nat.cast_sub (by omega)]; push_cast; rfl
    simp only [hn, decide_true, if_true]
    rw [← wrap_natCast (w := w) (n := x + 2 ^ w - 2 ^ (n + 1)) (by omega), hcast]
    refine wrap_congr ?_
    rw [show (x : Int) + 2 ^ w - 2 ^ (n + 1) = x - 2 ^ (n + 1) + 2 ^ w by ring, Int.add_emod_right]
  · simp only [hn, decide_false, Bool.false_eq_true, if_false]
    exact wrap_natCast (by omega)

theorem bfi_pattern {w a b pos len : Nat} (h : pos + len ≤ w) (ha : a < 2 ^ w) :
    (a - bits a pos len * 2 ^ pos + bits b 0 len * 2 ^ pos) % 2 ^ w =
    a / 2 ^ (pos + len) * 2 ^ (pos + len) + b % 2 ^ len * 2 ^ pos + a % 2 ^ pos := by
  have hsplit : a = a / 2 ^ (pos + len) * 2 ^ (pos + len) + bits a pos len * 2 ^ pos + a % 2 ^ pos := by
    have h1 := Nat.div_add_mod' a (2 ^ pos)
    have h2 := Nat.div_add_mod' (a / 2 ^ pos) (2 ^ len)
    rw [Nat.div_div_eq_div_mul, ← Nat.pow_add] at h2
    rw [bits, Nat.pow_add 2 pos, Nat.mul_comm (2 ^ pos), ← Nat.mul_assoc, ← Nat.add_mul, ← Nat.pow_add, Nat.add_comm len, h2, h1]
  have hb : bits b 0 len = b % 2 ^ len := by rw [bits, Nat.pow_zero, Nat.div_one]
  have hmid : b % 2 ^ len * 2 ^ pos + a % 2 ^ pos < 2 ^ (pos + len) := by
    have h1 := Nat.mod_lt b (Nat.two_pow_pos len)
    have h2 := Nat.mod_lt a (Nat.two_pow_pos pos)
    have h3 := Nat.mul_le_mul_right (2 ^ pos) h1
    rw [Nat.succ_mul, ← Nat.pow_add, Nat.add_comm len] at h3
    omega
  have htop : a / 2 ^ (pos + len) * 2 ^ (pos + len) + 2 ^ (pos + len) ≤ 2 ^ w := by
    obtain ⟨k, rfl⟩ := Nat.exists_eq_add_of_le h
    have : a / 2 ^ (pos + len) < 2 ^ k := by
      rw [Nat.div_lt_iff_lt_mul (by positivity), ← Nat.pow_add, Nat.add_comm k]; exact ha
    rw [Nat.pow_add 2 (pos + len) k, Nat.mul_comm (2 ^ (pos + len)), ← Nat.succ_mul]
    exact Nat.mul_le_mul_right _ this
  rw [hb, Nat.mod_eq_of_lt (by omega)]
  omega

end Sys2Proof.Proofs

namespace Sys2Proof.Proofs
open Sys2Proof.Machine

/-! ## Residues that an operator predicts (R214) -/

/-- A right residue is off by nothing. -/
theorem resError_right {t : Token} {j : Nat} (h : resNat t.res j = laneNat t.pay j % 15) : resError t j = 0 := by
  rw [resError, residue15, h]
  omega

/-- Operands with right residues predict the residues of the result. -/
theorem predicted_right {x : Operands} {da db dc j : Nat} (p : Line) (hj : j < 16)
    (h : ∀ u ∈ [x.a, x.b, x.c], resNat u.res j = laneNat u.pay j % 15) : resNat (predicted x p da db dc) j = laneNat p j % 15 := by
  have ha := resError_right (h x.a (by simp))
  have hb := resError_right (h x.b (by simp))
  have hc := resError_right (h x.c (by simp))
  rw [predicted, resNat_lanes _ hj, ha, hb, hc, residue15]
  omega

/-- A payload computed element by element, with residues that are right where the operands' are. -/
theorem computed_mapElems_predicted {x : Operands} (m : BitVec 16) (f : Nat) (g : Nat → Nat) (da db dc : Nat) :
    Claims.Computed x (resultToken x m (mapElems f m g) (some (predicted x (mapElems f m g) da db dc))) m f (fun k => g k % 2 ^ fmtWidth f) := by
  obtain ⟨-, elems, lanes, -⟩ := computed_mapElems x m f g
  refine ⟨rfl, elems, fun j hj hm => ⟨(lanes j hj hm).1, ?_⟩, fun hres j hj hm => ?_⟩
  · exact (resNat_maskRes _ _ hj).trans (by rw [hm]; rfl)
  · refine (resNat_maskRes _ _ hj).trans ?_
    rw [hm, if_pos rfl, predicted_right _ hj (fun u hu => hres u hu j hj hm)]
    exact congrArg (· % 15) ((laneNat_maskPay _ _ hj).trans (by rw [hm]; rfl)).symm

/-- A computed token stays one when its elements are written another way. -/
theorem Computed.congr {x : Operands} {t : Token} {m : BitVec 16} {f : Nat} {g h : Nat → Nat} (ht : Claims.Computed x t m f g)
    (hgh : ∀ i < fmtElems f, g i = h i) : Claims.Computed x t m f h :=
  ⟨ht.side, fun i hi => (ht.elems i hi).trans (by rw [hgh i hi]), ht.lanes, ht.res⟩

theorem fmtWidth_pos {f i : Nat} (h : i < fmtElems f) : 0 < fmtWidth f := by
  rw [Nat.pos_iff_ne_zero]
  intro h0
  rw [fmtElems, if_pos h0] at h
  exact Nat.not_lt_zero i h

/-! ## The integer operators -/

/-- The pattern of element k of a result, as `e` of the patterns of its operands. -/
def elementOf (x : Operands) (e : Nat → Nat → Nat → Nat → Nat) (k : Nat) : Nat :=
  e x.fmt (elemNat x.a.pay (fmtWidth x.fmt) k) (elemNat x.b.pay (fmtWidth x.fmt) k) (elemNat x.c.pay (fmtWidth x.fmt) k)

/-- What an operator's body computes, when it is the element function `e` under the operands' mask with regenerated or predicted residues. -/
def ComputesWith (x : Operands) (e : Nat → Nat → Nat → Nat → Nat) (r : BitVec 16 × ElemResult) : Prop :=
  ∃ pred, r = (x.mask, { pay := mapElems x.fmt x.mask (elementOf x e), pred := pred, nan := none }) ∧
    (pred = none ∨ ∃ da db dc, pred = some (predicted x (mapElems x.fmt x.mask (elementOf x e)) da db dc))

/-- Residues are predicted where SAT is 0, else regenerated. -/
theorem computesWith_unsaturated {x : Operands} {e : Nat → Nat → Nat → Nat → Nat} {r : BitVec 16 × ElemResult} (sat : Bool) (da db dc : Nat)
    (hr : r = (x.mask, { pay := mapElems x.fmt x.mask (elementOf x e), nan := none
                         pred := if sat then none else some (predicted x (mapElems x.fmt x.mask (elementOf x e)) da db dc) })) :
    ComputesWith x e r := by
  cases sat with
  | true => exact ⟨none, hr, .inl rfl⟩
  | false => exact ⟨_, hr, .inr ⟨da, db, dc, rfl⟩⟩

/-- A firing completes with the token whose element k is `g` of the operands' elements k. -/
def CompletesWith (s : State) (v : View) (p : Pass) (popped : Bool) (code : Nat) (i : Instr) (g : Nat → Nat → Nat → Nat → Nat) : Prop :=
  let x := Claims.operands v p code (decodable code)
  ∃ t, Claims.Computed x t x.mask x.fmt (elementOf x g) ∧
    exec i s = .next (Claims.fired s v p code popped (Claims.withRandom x (.emit (Claims.followed v p code (decodable code)) t)))

/-- Two element functions agree on the patterns of a format's width. -/
def Agree (f : Nat) (e g : Nat → Nat → Nat → Nat → Nat) : Prop :=
  0 < fmtWidth f → ∀ a b c, a < 2 ^ fmtWidth f → b < 2 ^ fmtWidth f → c < 2 ^ fmtWidth f → e f a b c % 2 ^ fmtWidth f = g f a b c

section
variable {s : State} {v : View} {p : Pass} {popped : Bool} {i : Instr} {code : Nat} {F : View → Operands → BitVec 16 × ElemResult}
  {e g : Nat → Nat → Nat → Nat → Nat}

/-- A plain operator whose body is an element function completes with the token of that function. -/
theorem exec_elements (hi : exec i s = runStage s v.w (plainOp code (decodable code) F)) (h : Claims.OnData s v p code (decodable code) popped)
    (hF : ComputesWith (Claims.operands v p code (decodable code)) e
      (F { v with op := Claims.followed v p code (decodable code) } (Claims.operands v p code (decodable code))))
    (hg : Agree (Claims.operands v p code (decodable code)).fmt e g) :
    CompletesWith s v p popped code i g := by
  obtain ⟨pred, hbody, hpred⟩ := hF
  let x := Claims.operands v p code (decodable code)
  refine ⟨resultToken x x.mask (mapElems x.fmt x.mask (elementOf x e)) pred, ?_,
    hi.trans (runStage_pureData h rfl rfl rfl (plainOp_data ..) hbody)⟩
  have hagree : ∀ k < fmtElems x.fmt, elementOf x e k % 2 ^ fmtWidth x.fmt = elementOf x g k := fun k hk =>
    hg (fmtWidth_pos hk) _ _ _ (elemNat_lt ..) (elemNat_lt ..) (elemNat_lt ..)
  rcases hpred with rfl | ⟨da, db, dc, rfl⟩
  · exact Computed.congr (computed_mapElems ..) hagree
  · exact Computed.congr (computed_mapElems_predicted ..) hagree

/-- An operator with an exact integer function, delivered by SAT (R56). -/
theorem exec_intOp {pr : Option (Nat × Nat × Nat)} {f : Int → Int → Int → Int} (hi : exec i s = runStage s v.w (intOp code pr f))
    (h : Claims.OnData s v p code (decodable code) popped)
    (hg : Agree (Claims.operands v p code (decodable code)).fmt
      (fun f' a b c => Claims.deliver f' v.w.sat (f (Claims.num f' a) (Claims.num f' b) (Claims.num f' c))) g) :
    CompletesWith s v p popped code i g := by
  refine exec_elements hi h ?_ hg
  have hpay : ∀ x : Operands, intResult x (v.w.sat == 1) f =
      mapElems x.fmt x.mask (elementOf x (fun f' a b c => Claims.deliver f' v.w.sat (f (Claims.num f' a) (Claims.num f' b) (Claims.num f' c)))) := by
    intro x
    simp only [intResult, intOf_eq_num, deliverInt_eq_deliver]
    rfl
  rcases pr with - | ⟨da, db, dc⟩
  · exact ⟨none, by simp only [hpay], .inl rfl⟩
  · exact computesWith_unsaturated (v.w.sat == 1) da db dc (by simp only [hpay])

/-- An operator with a function of the patterns, which is truncated to the width. -/
theorem exec_patOp {f : Nat → Nat → Nat → Nat} (hi : exec i s = runStage s v.w (patOp code f))
    (h : Claims.OnData s v p code (decodable code) popped)
    (hg : Agree (Claims.operands v p code (decodable code)).fmt (fun f' a b _ => f (fmtWidth f') a b % 2 ^ fmtWidth f') g) :
    CompletesWith s v p popped code i g :=
  exec_elements hi h ⟨none, rfl, .inl rfl⟩ hg

end

/-- Delivered patterns need no truncation. -/
theorem agree_deliver (f : Nat) (sat : BitVec 1) (n : Nat → Nat → Nat → Nat → Int) :
    Agree f (fun f a b c => Claims.deliver f sat (n f a b c)) (fun f a b c => Claims.deliver f sat (n f a b c)) :=
  fun _ _ _ _ _ _ _ => Nat.mod_eq_of_lt (deliver_lt ..)

theorem agree_wrap (f : Nat) (n : Nat → Nat → Nat → Nat → Int) :
    Agree f (fun f a b c => Claims.wrap (fmtWidth f) (n f a b c)) (fun f a b c => Claims.wrap (fmtWidth f) (n f a b c)) :=
  fun _ _ _ _ _ _ _ => Nat.mod_eq_of_lt (wrap_lt ..)

theorem fieldPos_eq (o : OpWord) : bits o.imm.toNat 0 7 = Claims.fieldPos o := bits_low ..

/-- The field of `bfx`, with its sign where SX asks for it (R330). -/
theorem bfx_pattern {w a : Nat} {o : OpWord} (h : Claims.fieldPos o + Claims.fieldLen o ≤ w) (hlen : 1 ≤ Claims.fieldLen o) (ha : a < 2 ^ w)
    {y : Nat} (hydef : a / 2 ^ Claims.fieldPos o % 2 ^ Claims.fieldLen o = y) :
    (if bitSet o.imm.toNat 14 then wrapInt w (intOf (bits o.imm.toNat 7 7) true (bits a (bits o.imm.toNat 0 7) (bits o.imm.toNat 7 7)))
      else bits a (bits o.imm.toNat 0 7) (bits o.imm.toNat 7 7)) % 2 ^ w =
    if o.imm.getLsbD 14 ∧ y.testBit (Claims.fieldLen o - 1) then y + 2 ^ w - 2 ^ Claims.fieldLen o else y := by
  have hlen' : bits o.imm.toNat 7 7 = Claims.fieldLen o := rfl
  have hy : y < 2 ^ Claims.fieldLen o := hydef ▸ Nat.mod_lt _ (Nat.two_pow_pos _)
  have hy' : y < 2 ^ w := Nat.lt_of_lt_of_le hy (Nat.pow_le_pow_right (by decide) (by omega))
  rw [fieldPos_eq, hlen', show bits a (Claims.fieldPos o) (Claims.fieldLen o) = y from hydef, bitSet_toNat, bfx_signed h hlen y hy]
  cases o.imm.getLsbD 14 with
  | false => simp [Nat.mod_eq_of_lt hy']
  | true =>
    simp only [if_true, true_and]
    refine Nat.mod_eq_of_lt ?_
    have hle : 2 ^ Claims.fieldLen o ≤ 2 ^ w := Nat.pow_le_pow_right (by decide) (by omega)
    split <;> omega

/-- Settles O10: each operator is one of three shared forms, and its element function is that of its row. -/
theorem integerOperators : Obligations.IntegerOperators := by
  unfold Obligations.IntegerOperators
  intro s v p i code popped g hop hg hdata x w hfits
  change CompletesWith s v p popped code.toNat i g
  unfold Claims.intElement at hg
  split at hg <;> cases hg <;> cases hop
  case h_1 =>
    exact exec_intOp (show exec (.addFabric v.w) s = execAddFabric v.w s from rfl) hdata
      (agree_deliver _ _ fun f a b _ => Claims.num f a + Claims.num f b)
  case h_2 =>
    exact exec_intOp (show exec (.subFabric v.w) s = execSubFabric v.w s from rfl) hdata
      (agree_deliver _ _ fun f a b _ => Claims.num f a - Claims.num f b)
  case h_3 =>
    exact exec_intOp (show exec (.mulFabric v.w) s = execMulFabric v.w s from rfl) hdata
      (agree_deliver _ _ fun f a b _ => Claims.num f a * Claims.num f b)
  case h_4 =>
    refine exec_elements (show exec (.mulhFabric v.w) s = execMulhFabric v.w s from rfl) hdata ⟨none, ?_, .inl rfl⟩
      (agree_wrap _ fun f a b _ => Claims.num f a * Claims.num f b / 2 ^ fmtWidth f)
    simp only [intOf_eq_num, wrapInt_eq_wrap]
    rfl
  case h_5 =>
    exact exec_intOp (show exec (.mad v.w) s = execMad v.w s from rfl) hdata
      (agree_deliver _ _ fun f a b c => Claims.num f a * Claims.num f b + Claims.num f c)
  case h_6 =>
    exact exec_intOp (show exec (.min v.w) s = execMin v.w s from rfl) hdata
      fun hw a b _ ha hb _ => (Nat.mod_eq_of_lt (deliver_lt ..)).trans (deliver_min hw ha hb _)
  case h_7 =>
    exact exec_intOp (show exec (.max v.w) s = execMax v.w s from rfl) hdata
      fun hw a b _ ha hb _ => (Nat.mod_eq_of_lt (deliver_lt ..)).trans (deliver_max hw ha hb _)
  case h_8 =>
    refine exec_intOp (show exec (.abs v.w) s = execAbs v.w s from rfl) hdata ?_
    simp only [negate_negative]
    exact agree_deliver _ _ fun f a _ _ => |Claims.num f a|
  case h_9 =>
    exact exec_intOp (show exec (.neg v.w) s = execNeg v.w s from rfl) hdata
      (agree_deliver _ _ fun f a _ _ => -Claims.num f a)
  case h_10 =>
    exact exec_patOp (show exec (.andFabric v.w) s = execAndFabric v.w s from rfl) hdata
      fun _ a b _ ha hb _ => (Nat.mod_mod ..).trans (and_pattern ha hb)
  case h_11 =>
    exact exec_patOp (show exec (.orFabric v.w) s = execOrFabric v.w s from rfl) hdata
      fun _ a b _ ha hb _ => (Nat.mod_mod ..).trans (or_pattern ha hb)
  case h_12 =>
    exact exec_patOp (show exec (.xorFabric v.w) s = execXorFabric v.w s from rfl) hdata
      fun _ a b _ ha hb _ => (Nat.mod_mod ..).trans (xor_pattern ha hb)
  case h_13 =>
    exact exec_patOp (show exec (.andn v.w) s = execAndn v.w s from rfl) hdata
      fun _ a b _ ha hb _ => (Nat.mod_mod ..).trans (andn_pattern ha hb)
  case h_14 =>
    refine exec_elements (show exec (.shlFabric v.w) s = execShlFabric v.w s from rfl) hdata
      (computesWith_unsaturated (e := fun f a b _ => Claims.deliver f v.w.sat (Claims.num f a * 2 ^ min (fmtWidth f) b))
        (v.w.sat == 1) 0 0 0 ?_) fun hw a b _ _ _ _ =>
        (Nat.mod_eq_of_lt (deliver_lt ..)).trans (deliver_shift x.fmt v.w.sat (Claims.num x.fmt a) b hw)
    simp only [intOf_eq_num, deliverInt_eq_deliver]
    rfl
  case h_15 =>
    exact exec_patOp (show exec (.shrFabric v.w) s = execShrFabric v.w s from rfl) hdata
      fun _ a b _ ha _ _ => by
        rw [Nat.mod_mod, div_pow_min ha, Nat.mod_eq_of_lt (Nat.lt_of_le_of_lt (Nat.div_le_self _ _) ha)]
  case h_16 =>
    exact exec_patOp (show exec (.sraFabric v.w) s = execSraFabric v.w s from rfl) hdata
      fun hw a b _ ha _ _ => by
        rw [Nat.mod_mod, sra_pattern hw ha, Nat.mod_eq_of_lt (BitVec.isLt _)]
        rfl
  case h_17 =>
    exact exec_patOp (show exec (.rot v.w) s = execRot v.w s from rfl) hdata
      fun hw a b _ ha _ _ => (Nat.mod_mod ..).trans (rot_pattern ha hw)
  case h_18 =>
    exact exec_patOp (show exec (.clz v.w) s = execClz v.w s from rfl) hdata
      fun _ a _ _ ha _ _ => by
        rw [Nat.mod_mod, clz_eq_takeWhile ha]
        exact Nat.mod_eq_of_lt (Nat.lt_of_le_of_lt ((List.takeWhile_sublist _).length_le.trans (List.length_range ..).le) Nat.lt_two_pow_self)
  case h_19 =>
    exact exec_patOp (show exec (.popc v.w) s = execPopc v.w s from rfl) hdata
      fun _ a _ _ _ _ _ => by
        rw [Nat.mod_mod, Nat.mod_eq_of_lt (Nat.lt_of_le_of_lt (popCount_le ..) Nat.lt_two_pow_self), popCount_eq_countP]
  case h_20 =>
    have hc : v.w.imm.toNat ≤ 5 := hfits
    refine exec_elements (e := fun f a b _ => if Claims.holds (v.w.imm.toNat % 8) (Claims.num f a) (Claims.num f b) then 2 ^ fmtWidth f - 1 else 0)
      (show exec (.cmp v.w) s = execCmp v.w s from rfl) hdata ⟨none, ?_, .inl rfl⟩ fun _ a b _ _ _ _ => ?_
    · simp only [intOf_eq_num, condHolds_eq_holds (show v.w.imm.toNat % 8 ≤ 5 by omega)]
      rfl
    · have := Nat.two_pow_pos (fmtWidth x.fmt)
      exact Nat.mod_eq_of_lt (by beta_reduce; split <;> omega)
  case h_21 =>
    obtain ⟨hlen, hw, -⟩ := hfits
    exact exec_patOp (show exec (.bfx v.w) s = execBfx v.w s from rfl) hdata
      fun _ a _ _ ha _ _ => (Nat.mod_mod ..).trans (bfx_pattern hw hlen ha rfl)
  case h_22 =>
    obtain ⟨hlen, hw, -⟩ := hfits
    exact exec_patOp (show exec (.bfi v.w) s = execBfi v.w s from rfl) hdata
      fun _ a b _ ha _ _ => by
        rw [Nat.mod_mod]
        exact (congrArg (fun pos => (a - bits a pos _ * 2 ^ pos + bits b 0 _ * 2 ^ pos) % _) (fieldPos_eq v.w)).trans (bfi_pattern hw ha)

end Sys2Proof.Proofs


namespace Sys2Proof.Proofs
open Sys2Proof.Machine

/-! ## Masks of conversions (R342) -/

/-- A lane of `lanesOfElems` is valid when every element that touches it meets the predicate. -/
theorem maskBit_lanesOfElems {w j : Nat} (ok : Nat → Bool) (hw : w = 8 ∨ w = 16 ∨ w = 32 ∨ w = 64) (hj : j < 16) :
    maskBit (lanesOfElems w ok) j = true ↔ ∀ i, Claims.touches w i j → ok i = true := by
  unfold Claims.touches
  by_cases h64 : w = 64
  · subst h64
    rw [lanesOfElems, if_pos rfl, maskBit_lanes _ hj]
    refine ⟨fun h i hi => ?_, fun h => h _ (by omega)⟩
    rwa [show i = j / 2 by omega]
  · rw [lanesOfElems, if_neg h64, maskBit_lanes _ hj, List.all_eq_true]
    refine ⟨fun h i hi => ?_, fun h b hb => h _ ?_⟩
    · have hb : i - j * (32 / w) < 32 / w ∧ j * (32 / w) ≤ i := by
        rcases hw with rfl | rfl | rfl | rfl <;> omega
      have := h (i - j * (32 / w)) (List.mem_range.2 hb.1)
      rwa [Nat.add_sub_cancel' hb.2] at this
    · have hb := List.mem_range.1 hb
      rcases hw with rfl | rfl | rfl | rfl <;> omega

/-- A valid element touches a valid lane. -/
theorem touches_of_elemValid {m : BitVec 16} {w i : Nat} (hw : w = 8 ∨ w = 16 ∨ w = 32 ∨ w = 64) (h : elemValid m w i = true) (hi : w * i + w ≤ 512) :
    ∃ j < 16, maskBit m j = true ∧ Claims.touches w i j := by
  unfold elemValid at h
  split at h
  case isTrue h64 =>
    subst h64
    exact ⟨2 * i, by omega, (Bool.and_eq_true_iff.1 h).1, by constructor <;> omega⟩
  case isFalse h64 =>
    refine ⟨w * i / 32, by omega, h, ?_⟩
    unfold Claims.touches
    rcases hw with rfl | rfl | rfl | rfl <;> omega

/-- The lanes of 64-bit elements come in pairs. -/
theorem pairMask_lanesOfElems (ok : Nat → Bool) : pairMask (lanesOfElems 64 ok) = lanesOfElems 64 ok := by
  refine mask_ext fun j hj => ?_
  rw [maskBit_pairMask _ hj, lanesOfElems, if_pos rfl, maskBit_lanes _ hj, maskBit_lanes _ (by omega), maskBit_lanes _ (by omega),
    Nat.mul_div_cancel _ (by decide), show (j / 2 * 2 + 1) / 2 = j / 2 by omega, Bool.and_self]

/-- The mask in which a format's elements are valid has its valid elements. -/
theorem elemValid_fmtMask (m : BitVec 16) {f i : Nat} (hi : i < fmtElems f) :
    elemValid (fmtMask f m) (fmtWidth f) i = elemValid m (fmtWidth f) i := by
  have hfit := fmtWidth_mul_le hi
  unfold fmtMask
  split
  case isFalse => rfl
  case isTrue h64 =>
    rw [h64] at hfit
    rw [h64, elemValid, if_pos rfl, maskBit_pairMask _ (by omega), maskBit_pairMask _ (by omega), elemValid, if_pos rfl,
      show 2 * i / 2 * 2 = 2 * i by omega, show (2 * i + 1) / 2 * 2 = 2 * i by omega, Bool.and_self]

/-! ## Converted tokens -/

/-- A computed token whose payload holds the valid elements, where no element is valid in part. -/
theorem computed_of_valid {x : Operands} {m : BitVec 16} {pay : Line} {f : Nat} {g : Nat → Nat} (hm : fmtWidth f = 64 → pairMask m = m)
    (h : ∀ i < fmtElems f, elemValid m (fmtWidth f) i = true → elemNat pay (fmtWidth f) i = g i) :
    Claims.Computed x (resultToken x m pay none) m f g := by
  obtain ⟨side, -, lanes, res⟩ := computed_resultToken (x := x) (m := m) (pay := pay) (f := 0) (g := g) fun i hi => absurd hi (Nat.not_lt_zero i)
  refine ⟨side, fun i hi => (elemNat_maskPay_paired hm hi).trans ?_, lanes, res⟩
  cases hv : elemValid m (fmtWidth f) i with
  | false => rfl
  | true => exact (if_pos rfl).trans ((h i hi hv).trans (if_pos rfl).symm)

/-- The model's test of a source element. -/
def sourceOk (x : Operands) (f d part i : Nat) : Bool :=
  decide (convertFrom (fmtElems f) (fmtElems d) part i < fmtElems f) &&
    elemValid (fmtMask f x.a.mask) (fmtWidth f) (convertFrom (fmtElems f) (fmtElems d) part i)

/-- What `convertElems` gives, by the test of its source elements. -/
theorem convertElems_eq (x : Operands) (f d part : Nat) (g : Nat → Nat) :
    convertElems x f d part g = (lanesOfElems (fmtWidth d) (sourceOk x f d part), elemsToPay (fmtWidth d) ((List.range (fmtElems d)).map
      fun i => if sourceOk x f d part i then g (Claims.fromElem f d part i) else 0)) := rfl

section
variable (x : Operands) (f part : Nat) {d : Nat} (g : Nat → Nat)

/-- The test is that of R342. -/
theorem sourceOk_iff (i : Nat) : sourceOk x f d part i = true ↔ Claims.fromValid x f d part i := by
  rw [sourceOk, Bool.and_eq_true, decide_eq_true_eq]
  exact and_congr_right fun h => by rw [elemValid_fmtMask _ h]; rfl

theorem fmtWidth_of_pos (hd : 1 ≤ d) (hd' : d ≤ 13) : fmtWidth d = 8 ∨ fmtWidth d = 16 ∨ fmtWidth d = 32 ∨ fmtWidth d = 64 := by
  interval_cases d <;> decide

/-- An element that touches a lane is one of the token. -/
theorem touches_lt {w i j : Nat} (hw : w = fmtWidth d) (h : w = 8 ∨ w = 16 ∨ w = 32 ∨ w = 64) (ht : Claims.touches w i j) (hj : j < 16) :
    i < fmtElems d := by
  obtain ⟨ht, -⟩ := ht
  rw [fmtElems, ← hw, if_neg (by omega)]
  rcases h with rfl | rfl | rfl | rfl <;> omega

/-- The mask of a conversion is that of R342. -/
theorem convertedMask_convertElems (hd : 1 ≤ d) (hd' : d ≤ 13) : Claims.convertedMask x f d part (convertElems x f d part g).1 := by
  intro j hj
  have hw := fmtWidth_of_pos hd hd'
  rw [convertElems_eq]
  refine (maskBit_lanesOfElems _ hw hj).trans ⟨fun h i _ ht => (sourceOk_iff x f part i).1 (h i ht), fun h i ht => ?_⟩
  exact (sourceOk_iff x f part i).2 (h i (touches_lt rfl hw ht hj) ht)

/-- The token of a conversion holds each converted element. -/
theorem computed_convertElems (hd : 1 ≤ d) (hd' : d ≤ 13) :
    Claims.Computed x (resultToken x (convertElems x f d part g).1 (convertElems x f d part g).2 none) (convertElems x f d part g).1 d
      (fun k => g (Claims.fromElem f d part k) % 2 ^ fmtWidth d) := by
  have hw := fmtWidth_of_pos hd hd'
  rw [convertElems_eq]
  refine computed_of_valid (fun h64 => ?_) fun i hi hv => ?_
  · rw [h64]
    exact pairMask_lanesOfElems _
  · obtain ⟨j, hj, hm, ht⟩ := touches_of_elemValid hw hv (fmtWidth_mul_le hi)
    have hok := (maskBit_lanesOfElems _ hw hj).1 hm i ht
    refine (elemNat_elems d _ hi).trans (congrArg (· % _) ?_)
    exact if_pos hok

end

end Sys2Proof.Proofs


namespace Sys2Proof.Proofs
open Sys2Proof.Machine

theorem dfmt_eq (w : OpWord) : bits w.imm.toNat 0 4 = Claims.dfmt w := bits_low ..

/-! ## Dot products (R344) -/

/-- A running sum is the sum of its list and its start. -/
theorem foldl_add_eq_sum (l : List Int) (a : Int) : l.foldl (· + ·) a = l.sum + a := by
  induction l generalizing a with
  | nil => exact (Int.zero_add a).symm
  | cons x l ih => rw [List.foldl_cons, ih, List.sum_cons]; omega

/-- The dot product of lane j, as R344 writes it. -/
theorem dotLane_eq (x : Operands) {f n : Nat} (addend : Bool) (j : Nat) (hw : fmtWidth f = 32 / n) (hn : 32 / (32 / n) = n) :
    dotLane x f addend j = ((List.range n).map (fun e =>
        Claims.num f (elemNat x.a.pay (32 / n) (n * j + e)) * Claims.num f (elemNat x.b.pay (32 / n) (n * j + e)))).sum
      + if addend then Claims.num 5 (laneNat x.c.pay j) else 0 := by
  have h5 : ∀ p, intOf 32 true p = Claims.num 5 p := fun p => intOf_eq_num 5 p
  have hnum : ∀ p, intOf (32 / n) (fmtSigned f) p = Claims.num f p := hw ▸ intOf_eq_num f
  simp only [dotLane, foldl_add_eq_sum, hnum, h5, hw, hn]

section
variable {s : State} {v : View} {p : Pass} {popped : Bool} {i : Instr} {code : Nat}

theorem exec_dotOp (hi : exec i s = runStage s v.w (dotOp code)) (h : Claims.OnData s v p code [] popped) {n : Nat}
    (hw : fmtWidth v.w.fmt.toNat = 32 / n) (hn : 32 / (32 / n) = n) :
    let f := v.w.fmt.toNat
    let x := Claims.operands v p code []
    ∃ t, Claims.Computed x t x.mask 5 (fun j => Claims.deliver 5 v.w.sat (((List.range n).map (fun e =>
        Claims.num f (elemNat x.a.pay (32 / n) (n * j + e)) * Claims.num f (elemNat x.b.pay (32 / n) (n * j + e)))).sum
        + if v.w.sc = 7 then 0 else Claims.num 5 (laneNat x.c.pay j))) ∧
      exec i s = .next (Claims.fired s v p code popped (Claims.withRandom x (.emit (Claims.followed v p code []) t))) := by
  intro f x
  refine ⟨_, computed_lanes x _ _ fun j => deliver_lt .., hi.trans (runStage_pureData h rfl rfl rfl (plainOp_data ..) ?_)⟩
  simp only [deliverInt_eq_deliver, dotLane_eq _ _ _ hw hn, bne_iff_ne, ne_eq, ite_not]
  rfl

end

/-- Settles O12: conversions, dot products and indices are plain operators, and each computes the elements of its rule. -/
theorem integerConversions : Obligations.IntegerConversions := by
  unfold Obligations.IntegerConversions
  intro s v p popped f x done dot
  refine ⟨fun h _ _ hd hd' => ?_, fun h hf => ?_, fun h hf => ?_, fun h => ?_⟩
  case refine_1 =>
    have hcomp := computed_convertElems (x 21) f (Claims.part v.w) (d := Claims.dfmt v.w) (fun k => Claims.deliver (Claims.dfmt v.w) v.w.sat
      (Claims.num f (elemNat (x 21).a.pay (fmtWidth f) k))) hd (by omega)
    refine ⟨_, _, convertedMask_convertElems (x 21) f (Claims.part v.w) _ hd (by omega), Computed.congr hcomp fun i _ =>
      Nat.mod_eq_of_lt (deliver_lt ..), (show exec (.cvt v.w) s = execCvt v.w s from rfl).trans
      (runStage_pureData h rfl rfl rfl (plainOp_data ..) ?_)⟩
    simp only [dfmt_eq, deliverInt_eq_deliver, intOf_eq_num]
    rfl
  case refine_2 =>
    exact exec_dotOp (show exec (.dot4 v.w) s = execDot4 v.w s from rfl) h (by rcases hf with hf | hf <;> rw [show v.w.fmt.toNat = _ from hf] <;> rfl) rfl
  case refine_3 =>
    exact exec_dotOp (show exec (.dot2 v.w) s = execDot2 v.w s from rfl) h (by rcases hf with hf | hf <;> rw [show v.w.fmt.toNat = _ from hf] <;> rfl) rfl
  case refine_4 =>
    refine ⟨_, Computed.congr (computed_mapElems (x 141) (x 141).mask f _) fun i _ => Nat.mod_eq_of_lt (wrap_lt ..),
      (show exec (.lidx v.w) s = execLidx v.w s from rfl).trans (runStage_pureData h rfl rfl rfl (plainOp_data ..) ?_)⟩
    have himm : intOf 32 true v.w.imm.toNat = v.w.imm.toInt :=
      (intOf_toInt (by decide) v.w.imm.isLt).trans (congrArg BitVec.toInt (BitVec.ofNat_toNat ..|>.trans (BitVec.setWidth_eq _)))
    have hfmt : (Claims.operands v p 141 []).fmt = f := by simp [Claims.operands, operandsOf, Claims.format, Claims.decodes, f]
    simp only [wrapInt_eq_wrap, himm, hfmt]
    rfl

end Sys2Proof.Proofs


namespace Sys2Proof.Proofs
open Sys2Proof.Machine

/-! ## The float operators (R347, R354, R70) -/

/-- The model's test of NaN inputs is that of R347. -/
theorem nanIn_eq {n : Nat} (hn : n = 1 ∨ n = 2 ∨ n = 3) (x : Operands) (k : Nat) :
    (floatElem x.fmt x.a k == .nan || (decide (2 ≤ n) && floatElem x.fmt x.b k == .nan) || (decide (3 ≤ n) && floatElem x.fmt x.c k == .nan)) =
      Claims.nanIn n x k := by
  unfold Claims.nanIn
  rcases hn with rfl | rfl | rfl <;> simp [floatElem, Claims.val, Bool.or_assoc]

/-- The lowest element that traps is the one the search finds. -/
theorem lowestElem_some {f k : Nat} {m : BitVec 16} {count : Nat} {q : Nat → Bool}
    (h : k < fmtElems f ∧ k < count ∧ elemValid m (fmtWidth f) k = true ∧ q k = true)
    (hmin : ∀ j < k, ¬ (j < fmtElems f ∧ j < count ∧ elemValid m (fmtWidth f) j = true ∧ q j = true)) : lowestElem f m count q = some k := by
  obtain ⟨hk, hc, hv, hq⟩ := h
  refine List.find?_range_eq_some.2 ⟨by simp [hc, hv, hq], List.mem_range.2 hk, fun j hj => ?_⟩
  have := hmin j hj
  simp only [Bool.not_eq_true', Bool.eq_false_iff, ne_eq, Bool.and_eq_true, decide_eq_true_eq]
  exact fun ⟨⟨h1, h2⟩, h3⟩ => this ⟨by omega, h1, h2, h3⟩

section
variable {s : State} {v : View} {p : Pass} {popped : Bool} {i : Instr} {code n : Nat}

/-- A firing that the NaN trap stops leaves its record (R70, R71). -/
theorem runStage_pureData_trapped {o : StageOp} {fmts : List Nat} {f : View → Operands → BitVec 16 × ElemResult} {r : BitVec 16 × ElemResult} {k : Nat}
    (h : Claims.OnData s v p code fmts popped) (hc : o.code = code) (hf : o.fmts = fmts) (hB : o.pairB = false) (hd : o.data = pureData code f)
    (he : f { v with op := Claims.followed v p code fmts } (Claims.operands v p code fmts) = r) (hnan : r.2.nan = some k)
    (htrap : nanTrap s v.e.task = true) (htag : (Claims.operands v p code fmts).side.etag = false) :
    let x := Claims.operands v p code fmts
    let op := Claims.followed v p code fmts
    runStage s v.w o = .next (Claims.fired s v p code popped (.stop op (nanFault { v with op := op } code x x.fmt k))) := by
  intro x op
  have hrand : ∀ q : StageOut, Claims.withRandom x q = q := fun q => by simp [Claims.withRandom, x, htag]
  rw [← hrand (.stop op _)]
  refine runStage_onData h hc hf hB ?_ rfl
  simp only [hd, pureData, he, hnan, htrap, htag, Bool.not_false, Bool.and_self, if_true]
  rfl

/-- A float operator completes with its rounded elements, or with the record of the lowest element that became NaN. -/
def FloatOutcome (s : State) (v : View) (p : Pass) (popped : Bool) (code : Nat) (i : Instr) (n : Nat)
    (g : Nat → FVal → FVal → FVal → Nat → Nat) : Prop :=
  let x := Claims.operands v p code (decodable code)
  let op := Claims.followed v p code (decodable code)
  (Claims.Untrapped s v x (Claims.madeNan n g x) →
    ∃ t, Claims.Computed x t x.mask x.fmt (fun k => Claims.floatValue n g x k % 2 ^ fmtWidth x.fmt) ∧
      exec i s = .next (Claims.fired s v p code popped (Claims.withRandom x (.emit op t)))) ∧
  (∀ k, nanTrap s v.e.task = true → x.side.etag = false → Claims.madeNan n g x k → (∀ j < k, ¬ Claims.madeNan n g x j) →
    exec i s = .next (Claims.fired s v p code popped (.stop op (nanFault { v with op := op } code x x.fmt k))))

/-- The token and the trap of a float operator. -/
def floatBody (n : Nat) (g : Nat → FVal → FVal → FVal → Nat → Nat) (x : Operands) : BitVec 16 × ElemResult :=
  (x.mask, { pay := mapElems x.fmt x.mask (Claims.floatValue n g x), pred := none
             nan := lowestElem x.fmt x.mask x.count fun k => !Claims.nanIn n x k && isNaN (floatFmt x.fmt) (Claims.floatValue n g x k) })

/-- The body of a float operator, written with the claims' functions. -/
theorem floatOp_data {g : Nat → OpWord → FVal → FVal → FVal → Nat → Nat} (hn : n = 1 ∨ n = 2 ∨ n = 3) :
    floatOp code n g = plainOp code (decodable code) fun v x => floatBody n (fun f => g f v.w) x := by
  simp only [floatOp, nanIn_eq hn]
  rfl

theorem exec_floatOp {g : Nat → OpWord → FVal → FVal → FVal → Nat → Nat} {g' : Nat → FVal → FVal → FVal → Nat → Nat}
    (hi : exec i s = runStage s v.w (floatOp code n g)) (h : Claims.OnData s v p code (decodable code) popped)
    (hn : n = 1 ∨ n = 2 ∨ n = 3) (hg : (fun f => g f v.w) = g') : FloatOutcome s v p popped code i n g' := by
  subst hg
  rw [floatOp_data hn] at hi
  let x := Claims.operands v p code (decodable code)
  have hbad : ∀ k, Claims.madeNan n (fun f => g f v.w) x k ↔ (k < fmtElems x.fmt ∧ k < x.count ∧ elemValid x.mask (fmtWidth x.fmt) k = true ∧
      (!Claims.nanIn n x k && isNaN (floatFmt x.fmt) (Claims.floatValue n (fun f => g f v.w) x k)) = true) := fun k => by
    rw [Claims.madeNan, Bool.and_eq_true, Bool.not_eq_true']
  refine ⟨fun hun => ⟨_, computed_mapElems x x.mask x.fmt (Claims.floatValue n (fun f => g f v.w) x), ?_⟩, fun k htrap htag hk hmin => ?_⟩
  · exact hi.trans (runStage_pureData_untrapped (r := floatBody n (fun f => g f v.w) x) h rfl rfl rfl (plainOp_data ..) rfl
      (untrapped_nan hun fun hno => lowestElem_none fun k hk => hno k ((hbad k).2 hk)))
  · exact hi.trans (runStage_pureData_trapped (r := floatBody n (fun f => g f v.w) x) h rfl rfl rfl (plainOp_data ..) rfl
      (lowestElem_some ((hbad k).1 hk) fun j hj hb => hmin j hj ((hbad j).2 hb)) htrap htag)

end

/-- Settles O13: every entry is the one float operator with its own exact function. -/
theorem floatOperators : Obligations.FloatOperators := by
  unfold Obligations.FloatOperators
  intro s v p i code popped n g hop hg fmts hdata
  change FloatOutcome s v p popped code.toNat i n g
  unfold Claims.floatElement at hg
  split at hg <;> cases hg <;> cases hop
  case h_1 => exact exec_floatOp (show exec (.fadd v.w) s = execFadd v.w s from rfl) hdata (by decide) rfl
  case h_2 => exact exec_floatOp (show exec (.fsub v.w) s = execFsub v.w s from rfl) hdata (by decide) rfl
  case h_3 => exact exec_floatOp (show exec (.fmul v.w) s = execFmul v.w s from rfl) hdata (by decide) rfl
  case h_4 => exact exec_floatOp (show exec (.fma v.w) s = execFma v.w s from rfl) hdata (by decide) rfl
  case h_5 => exact exec_floatOp (show exec (.fnma v.w) s = execFnma v.w s from rfl) hdata (by decide) rfl
  case h_6 => exact exec_floatOp (show exec (.fmin v.w) s = execFmin v.w s from rfl) hdata (by decide) rfl
  case h_7 => exact exec_floatOp (show exec (.fmax v.w) s = execFmax v.w s from rfl) hdata (by decide) rfl
  case h_8 => exact exec_floatOp (show exec (.fabs v.w) s = execFabs v.w s from rfl) hdata (by decide) rfl
  case h_9 => exact exec_floatOp (show exec (.fneg v.w) s = execFneg v.w s from rfl) hdata (by decide) rfl
  case h_10 => exact exec_floatOp (show exec (.fsqrt v.w) s = execFsqrt v.w s from rfl) hdata (by decide) rfl
  case h_11 => exact exec_floatOp (show exec (.frcp v.w) s = execFrcp v.w s from rfl) hdata (by decide) rfl
  case h_12 => exact exec_floatOp (show exec (.frsq v.w) s = execFrsq v.w s from rfl) hdata (by decide) rfl
  case h_13 => exact exec_floatOp (show exec (.fexp2 v.w) s = execFexp2 v.w s from rfl) hdata (by decide) rfl
  case h_14 => exact exec_floatOp (show exec (.flog2 v.w) s = execFlog2 v.w s from rfl) hdata (by decide) rfl
  case h_15 => exact exec_floatOp (show exec (.ftanh v.w) s = execFtanh v.w s from rfl) hdata (by decide) rfl
  case h_16 => exact exec_floatOp (show exec (.fsigm v.w) s = execFsigm v.w s from rfl) hdata (by decide) rfl

end Sys2Proof.Proofs


namespace Sys2Proof.Proofs
open Sys2Proof.Machine

/-! ## The order of float values (R348) -/

/-- The order of values is asymmetric. -/
theorem ltVal_asymm {x y : FVal} (h : ltVal x y = true) : ltVal y x = false := by
  cases x with
  | nan => exact absurd h Bool.false_ne_true
  | inf a => cases y with
    | nan => exact absurd h Bool.false_ne_true
    | inf b => simp_all [ltVal]
    | fin b n g => simp_all [ltVal]
  | fin a m e => cases y with
    | nan => exact absurd h Bool.false_ne_true
    | inf b => simp_all [ltVal]
    | fin b n g =>
      have hlo : (if g < e then g else e) = if e < g then e else g := by split <;> split <;> omega
      simp only [ltVal, hlo, decide_eq_true_eq, decide_eq_false_iff_not, not_lt] at h ⊢
      exact h.le

theorem ltVal_nan_right (x : FVal) : ltVal x .nan = false := by cases x <;> rfl

/-- Conditions on two numbers that are not NaN. -/
theorem condHolds_eq_floatHolds {c : Nat} {x y : FVal} (hc : c < 6) (hx : x ≠ .nan) (hy : y ≠ .nan) :
    condHolds c (ltVal x y) (eqVal x y) = Claims.floatHolds c x y := by
  have heq : eqVal x y = (!ltVal x y && !ltVal y x) := by
    rw [eqVal, beq_false_of_ne hx, beq_false_of_ne hy]
    rfl
  have hasymm : ltVal x y = true → ltVal y x = false := ltVal_asymm
  interval_cases c <;> simp only [condHolds, Claims.floatHolds, heq] <;> cases hl : ltVal x y <;> cases hr : ltVal y x <;> simp_all

/-- Conditions on NaN: un and ne hold, no other does. -/
theorem floatHolds_nan {c : Nat} {x y : FVal} (hc : c ≤ 6) (h : x = .nan ∨ y = .nan) : Claims.floatHolds c x y = (c == 6 || c == 1) := by
  have hlt : ltVal x y = false := by rcases h with rfl | rfl; exacts [rfl, ltVal_nan_right x]
  have hgt : ltVal y x = false := by rcases h with rfl | rfl; exacts [ltVal_nan_right y, rfl]
  have heq : eqVal x y = false := by rcases h with rfl | rfl <;> simp [eqVal]
  have hun : (x == .nan || y == .nan) = true := by simpa using h
  interval_cases c <;> simp only [Claims.floatHolds, hlt, hgt, heq, hun] <;> rfl

/-- The condition of `fcmp`, with its NaN cases (R348). -/
theorem fcmp_holds {c : Nat} (hc : c ≤ 6) (x y : FVal) :
    (if x = .nan ∨ y = .nan then c == 6 || c == 1 else if c = 6 then false else condHolds c (ltVal x y) (eqVal x y)) = Claims.floatHolds c x y := by
  by_cases hnan : x = .nan ∨ y = .nan
  · rw [if_pos hnan, floatHolds_nan hc hnan]
  · obtain ⟨hx, hy⟩ := not_or.1 hnan
    rw [if_neg hnan]
    by_cases h6 : c = 6
    · subst h6
      simp [Claims.floatHolds, hx, hy]
    · rw [if_neg h6, condHolds_eq_floatHolds (by omega) hx hy]

/-- The class of a pattern (R349). -/
theorem classCode_eq (f p : Nat) : classCode (floatFmt f) p = Claims.classOf f p := by
  unfold classCode Claims.classOf
  cases decodeFloat (floatFmt f) p with
  | nan => rfl
  | inf neg => cases neg <;> rfl
  | fin neg m e => rfl

section
variable {s : State} {v : View} {p : Pass} {popped : Bool} {i : Instr} {code : Nat} {F : View → Operands → BitVec 16 × ElemResult}

/-- A plain operator whose body gives each element without a NaN trap completes with them. -/
theorem exec_mapElems {g : Nat → Nat} (hi : exec i s = runStage s v.w (plainOp code (decodable code) F))
    (h : Claims.OnData s v p code (decodable code) popped)
    (hF : F { v with op := Claims.followed v p code (decodable code) } (Claims.operands v p code (decodable code)) =
      ((Claims.operands v p code (decodable code)).mask,
        { pay := mapElems (Claims.operands v p code (decodable code)).fmt (Claims.operands v p code (decodable code)).mask g
          pred := none, nan := none })) :
    let x := Claims.operands v p code (decodable code)
    ∃ t, Claims.Computed x t x.mask x.fmt (fun k => g k % 2 ^ fmtWidth x.fmt) ∧
      exec i s = .next (Claims.fired s v p code popped (Claims.withRandom x (.emit (Claims.followed v p code (decodable code)) t))) :=
  ⟨_, computed_mapElems .., hi.trans (runStage_pureData h rfl rfl rfl (plainOp_data ..) hF)⟩

end

/-- Settles O14: `fcmp`, `fclass` and `fscl` are plain operators whose bodies compute each element alone. -/
theorem floatClasses : Obligations.FloatClasses := by
  unfold Obligations.FloatClasses
  intro s v p popped x done
  refine ⟨fun hc h => ?_, fun h => ?_, fun h => ?_⟩
  case refine_1 =>
    refine exec_mapElems (show exec (.fcmp v.w) s = execFcmp v.w s from rfl) h ?_
    simp only [Nat.mod_eq_of_lt (show v.w.imm.toNat < 8 by omega), fcmp_holds hc]
    rfl
  case refine_2 =>
    refine exec_mapElems (show exec (.fclass v.w) s = execFclass v.w s from rfl) h ?_
    simp only [classCode_eq]
    rfl
  case refine_3 => exact exec_mapElems (show exec (.fscl v.w) s = execFscl v.w s from rfl) h rfl

end Sys2Proof.Proofs


namespace Sys2Proof.Proofs
open Sys2Proof.Machine

/-! ## The body of `fcvt` (R351, R352) -/

/-- The model's test that output element i becomes NaN from a covered, valid source that is none. -/
def conversionNan (x : Operands) (f d part : Nat) (g : Nat → Nat) (i : Nat) : Bool :=
  decide (convertFrom (fmtElems f) (fmtElems d) part i < fmtElems f) && decide (convertFrom (fmtElems f) (fmtElems d) part i < x.count)
    && elemValid (fmtMask f x.a.mask) (fmtWidth f) (convertFrom (fmtElems f) (fmtElems d) part i)
    && (!fmtFloat f || floatElem f x.a (convertFrom (fmtElems f) (fmtElems d) part i) != .nan)
    && isNaN (floatFmt d) (g (convertFrom (fmtElems f) (fmtElems d) part i))

/-- The token and the trap of a conversion with element function g. -/
def conversionBody (f d part : Nat) (g : Nat → Nat) (x : Operands) : BitVec 16 × ElemResult :=
  ((convertElems x f d part g).1,
    { pay := (convertElems x f d part g).2, pred := none
      nan := if fmtFloat d then (List.range (fmtElems d)).find? (conversionNan x f d part g) else none })

/-- The model's conversion of one element is that of R351. -/
theorem convertOne_eq (w : OpWord) (f d : Nat) (r : Token) (p k : Nat) : convertOne w f d r p k = Claims.convertedElem w f d r p k := by
  have hint : fmtInt d = true ↔ 1 ≤ d ∧ d ≤ 7 := by simp [fmtInt]
  simp only [convertOne, Claims.convertedElem, intOf_eq_num, hint]
  refine if_congr Iff.rfl rfl (if_congr Iff.rfl ?_ rfl)
  generalize (if fmtFloat f then decodeFloat (floatFmt f) p else intVal (Claims.num f p) : FVal) = u
  cases u with
  | nan => rfl
  | inf neg => rfl
  | fin neg m e => by_cases h : fmtWidth f = 16 <;> simp only [h, if_true, if_false]

/-- A conversion that makes no NaN of R70 traps none. -/
theorem conversionBody_nan {x : Operands} {f d part : Nat} {g : Nat → Nat}
    (h : ∀ i, ¬ Claims.convertedNan x f d part (fun k => g (Claims.fromElem f d part k)) i) : (conversionBody f d part g x).2.nan = none := by
  simp only [conversionBody]
  split
  case isFalse => rfl
  case isTrue hd =>
    refine List.find?_eq_none.2 fun i hi hbad => h i ?_
    simp only [conversionNan, Bool.and_eq_true, Bool.or_eq_true, decide_eq_true_eq, Bool.not_eq_true'] at hbad
    obtain ⟨⟨⟨⟨hlt, hcount⟩, hvalid⟩, hsrc⟩, hnan⟩ := hbad
    refine ⟨by simp [fmtFloat] at hd; omega, List.mem_range.1 hi, ⟨hlt, (elemValid_fmtMask _ hlt).symm.trans hvalid⟩, hcount, fun hf => ?_, hnan⟩
    exact bne_iff_ne.1 (hsrc.resolve_left (by simp [hf]))

/-- What `fcvt` makes of its operands. -/
def fcvtBody (w : OpWord) (v : View) (x : Operands) : BitVec 16 × ElemResult :=
  conversionBody x.fmt (Claims.dfmt w) (Claims.part v.w)
    (fun k => Claims.convertedElem v.w x.fmt (Claims.dfmt w) x.b (elemNat x.a.pay (fmtWidth x.fmt) k) k) x

/-- The operator of `fcvt`. -/
def fcvtOp (w : OpWord) : StageOp :=
  { plainOp 75 (if w.fmt = 0 then fcvtFormats w else []) (fcvtBody w) with
    pairB := w.rnd == 2
    header := fun s v t => (s, .emit v.op (if fmtWidth (if v.w.fmt = 0 then hdrFmt t else v.w.fmt.toNat) = fmtWidth (Claims.dfmt w)
      then hdrSetFmt t (Claims.dfmt w) else t)) }

theorem execFcvt_eq (w : OpWord) (s : State) : execFcvt w s = runStage s w (fcvtOp w) := by
  simp only [execFcvt, convertOne_eq, dfmt_eq]
  rfl

theorem fcvtOp_data (w : OpWord) : (fcvtOp w).data = pureData 75 (fcvtBody w) := rfl

theorem sourceCodes_fcvt {w : OpWord} (h : w.rnd = 2) : sourceCodes 75 w = [w.sa.toNat, w.sb.toNat] := by
  obtain ⟨e, he, ha, hb, hc⟩ : ∃ e, Machine.entryOf 75 = some e ∧ e.sa.isEmpty = false ∧ e.sb.isEmpty = false ∧ e.sc.isEmpty = true :=
    ⟨_, rfl, rfl, rfl, rfl⟩
  have hb' : ¬ (e.sb.isEmpty = true ∨ True ∧ w.rnd ≠ 2) := by simp [hb, h]
  simp only [sourceCodes, he, ha, hc]
  rw [if_neg hb']
  rfl

/-! ## The random token of RND 2 (R352) -/

/-- A port's token is that of the pass after another port is set. -/
theorem portToken_tabSet_other {p : Pass} {c b : Nat} {r : Token} (hp : tabRising none p.ports = true) (hb : c ≠ b) :
    portToken { p with ports := tabSet p.ports b (some r) none } c = portToken p c := by
  unfold portToken
  split
  case isTrue => exact tabGet_tabSet_other hp hb
  case isFalse => rfl

theorem portToken_tabSet_same {p : Pass} {b : Nat} {r : Token} (hp : tabRising none p.ports = true) (hb : b ≤ 3) :
    portToken { p with ports := tabSet p.ports b (some r) none } b = some r := by
  rw [portToken, if_pos hb, tabGet_tabSet_same hp]

section
variable {s : State} {v : View} {p : Pass}

/-- An operator with data at its one token source, a random token beside it, and no gate, fires on them. -/
theorem fireStage_paired {u : State} {o : StageOp} {a : Token} {sb : Nat} {x : Operands} {r : StageOut} (hpair : o.pairB = true)
    (hcodes : sourceCodes o.code v.w = [v.w.sa.toNat, sb]) (hsa : v.w.sa.toNat ≤ 4) (ha : portToken p v.w.sa.toNat = some a) (hk : a.kind = .data)
    (hpg : v.w.pg = 0) (hfmt : v.w.fmt ≠ 0) (hx : operandsOf v p v.w.fmt.toNat [v.w.sa.toNat, sb] (fmtElems v.w.fmt.toNat) = x)
    (hdata : o.data s v x = (u, r)) (hold : r.hold = false) :
    fireStage s v p o = applyOut u v p a (Claims.withRandom x r) := by
  have hports : ((([v.w.sa.toNat, sb].zipIdx.filter (fun c => decide (c.1 ≤ 4) && !(o.pairB && c.2 == 1))).map (·.1)).filterMap (portToken p)) = [a] := by
    simp [hpair, hsa, ha]
  have hpg' : (v.w.pg == 1) = false := by rw [hpg]; rfl
  have hfmt' : (v.w.fmt == 0) = false := beq_false_of_ne hfmt
  have hkind : (TokKind.data == TokKind.header) = false := rfl
  have hkind' : (TokKind.data == TokKind.marker) = false := rfl
  simp only [fireStage, hcodes, hports, hpg', hfmt', leadToken, List.headD_cons, kindsAgree, List.all_nil, List.any_nil, List.any_cons, hk, hx,
    Bool.false_and, Bool.or_false, Bool.false_eq_true, if_false, Bool.and_false, orTag_false, hdata, hkind, hkind', if_true]
  obtain ⟨out, op, k, ctl, fault, poison, hold'⟩ := r
  subst hold
  rfl

/-- A body that computes one token emits it when the NaN trap does not stop it (R70, R217). -/
theorem pureData_untrapped {u : State} {code : Nat} {F : View → Operands → BitVec 16 × ElemResult} {x : Operands} {r : BitVec 16 × ElemResult}
    (hF : F v x = r) (hnan : nanTrap u v.e.task = false ∨ x.side.etag = true ∨ r.2.nan = none) :
    pureData code F u v x = (u, .emit v.op (resultToken x r.1 r.2.pay r.2.pred)) := by
  simp only [pureData, hF]
  cases hr : r.2.nan with
  | none => rfl
  | some i =>
    have htrap : (nanTrap u v.e.task && !x.side.etag) = false := by
      rcases hnan with hn | hn | hn
      · rw [hn]; rfl
      · rw [hn]; exact Bool.and_false _
      · exact absurd (hr.symm.trans hn) (by simp)
    simp only [htrap, Bool.false_eq_true, if_false]

/-- A stage whose operator pairs a random token takes one with its data token. -/
theorem runStage_paired {o : StageOp} {a r : Token} {rest : List Token} (hpair : o.pairB = true) (hsource : isSource o.code v.w = false)
    (hcodes : sourceCodes o.code v.w = [v.w.sa.toNat, v.w.sb.toNat]) (focus : s.focus = .stage v.ea v.ctx) (elem : v.e = s.elem v.ea v.ctx)
    (stage : v.n = p.stage) (op : v.op = v.e.op v.n) (pass : v.e.pass = some p) (running : v.e.stopped = false) (clear : v.op.res = [])
    (room : v.w.dst.toNat ≤ 3 → outputRoom s v.ea v.ctx v.w.dst.toNat = true) (ha : portToken p v.w.sa.toNat = some a) (hk : a.kind = .data)
    (hq : v.e.queue v.w.sb.toNat = r :: rest) (hr : r.kind = .data) :
    let e := v.e.setQueue v.w.sb.toNat rest
    runStage s v.w o = .next (fireStage (s.setElem v.ea v.ctx e) { v with e := e }
      { p with ports := tabSet p.ports v.w.sb.toNat (some r) none } o) := by
  have hready : sourcesReady v p o = true := by simp [sourcesReady, hcodes, hpair, ha]
  have hroom : (decide (v.w.dst.toNat ≤ 3) && !outputRoom s v.ea v.ctx v.w.dst.toNat) = false := by
    by_cases hd : v.w.dst.toNat ≤ 3
    · simp [room hd]
    · simp [hd]
  have htaken : pairedToken v p o = .taken r := by simp [pairedToken, hpair, ha, hk, hq, hr]
  obtain ⟨ea, ctx, n, w, e, op'⟩ := v
  dsimp only at *
  subst elem stage op
  rw [runStage, focus]
  simp only [stageStep, pass, running, clear, hsource, hready, hroom, htaken, hq, hr, List.tail_cons, Bool.and_false, Bool.false_eq_true, if_false,
    if_true]

end

/-- Settles O15: `fcvt` converts element by element, and under RND 2 its firing stands on the data token and the random token it takes. -/
theorem floatConversion : Obligations.FloatConversion := by
  unfold Obligations.FloatConversion
  intro s v p popped fmts d hd hd'
  refine ⟨fun hrnd h => ?_, ?_⟩
  case refine_1 =>
    intro x f out _ _ hun
    let g := fun k => Claims.convertedElem v.w f d x.b (elemNat x.a.pay (fmtWidth f) k) k
    refine ⟨_, _, convertedMask_convertElems x f (Claims.part v.w) g hd hd', computed_convertElems x f (Claims.part v.w) g hd hd',
      (show exec (.fcvt v.w) s = execFcvt v.w s from rfl).trans ((execFcvt_eq ..).trans ?_)⟩
    exact runStage_pureData_untrapped (r := conversionBody f d (Claims.part v.w) g x) h rfl rfl (beq_false_of_ne hrnd) (fcvtOp_data _) rfl
      (untrapped_nan hun (conversionBody_nan (g := g)))
  case refine_2 =>
    intro hrnd hsb hsa hne hpg hfmt a r rest focus elem stage op pass running clear room ha hk hq hr hports e p1 v1 x f out _ _ hun
    have hne' : v.w.sa.toNat ≠ v.w.sb.toNat := fun h => hne (BitVec.eq_of_toNat_eq h)
    have ha1 : portToken p1 v.w.sa.toNat = some a := (portToken_tabSet_other hports hne').trans ha
    have hr1 : portToken p1 v.w.sb.toNat = some r := portToken_tabSet_same hports hsb
    have hxa : x.a = a := by simp [x, v1, operandsOf, sourceData, hsa, ha1]
    have hxb : x.b = r := by simp [x, v1, operandsOf, sourceData, show v.w.sb.toNat ≤ 4 by omega, hr1]
    let g := fun k => Claims.convertedElem v.w f d r (elemNat a.pay (fmtWidth f) k) k
    refine ⟨_, _, convertedMask_convertElems x f (Claims.part v.w) g hd hd', computed_convertElems x f (Claims.part v.w) g hd hd',
      (show exec (.fcvt v.w) s = execFcvt v.w s from rfl).trans ((execFcvt_eq ..).trans ?_)⟩
    rw [runStage_paired (beq_iff_eq.2 hrnd) rfl (sourceCodes_fcvt hrnd) focus elem stage op pass running clear room ha hk hq hr]
    have hbody : fcvtBody v.w v1 x = conversionBody f d (Claims.part v.w) g x := by
      rw [fcvtBody, hxa, hxb]
      rfl
    exact congrArg Host.Outcome.next (fireStage_paired (v := v1) (x := x) (beq_iff_eq.2 hrnd) (sourceCodes_fcvt hrnd) hsa ha1 hk hpg hfmt rfl
      (pureData_untrapped hbody (untrapped_nan hun (conversionBody_nan (g := g)))) rfl)

end Sys2Proof.Proofs


namespace Sys2Proof.Proofs
open Sys2Proof.Machine

/-! ## m2c, pack and unpack (R378, R392, R425) -/

theorem maskDecision_eq (mode lane : Nat) (t : Token) : maskDecision mode lane t = Claims.maskV mode lane t := by
  have hne : ∀ n : Nat, (n != 0) = decide (n ≠ 0) := fun n => by cases n <;> rfl
  simp only [maskDecision, Claims.maskV, hne]
  rfl

/-- Pending elements split into their full tokens and what is left, when the tokens are counted high enough. -/
theorem packFull_eq {f : Nat} (side : Token) (he : 0 < fmtElems f) {n : Nat} {l : List Nat} (h : l.length / fmtElems f ≤ n) :
    packFull f side n l = ((List.range (l.length / fmtElems f)).map (fun i => packedToken f ((l.drop (fmtElems f * i)).take (fmtElems f)) side),
      l.drop (fmtElems f * (l.length / fmtElems f))) := by
  induction n generalizing l with
  | zero => rw [Nat.le_zero.1 h]; rfl
  | succ n ih =>
    rw [packFull]
    by_cases hlt : l.length < fmtElems f
    · rw [if_pos hlt, Nat.div_eq_of_lt hlt]; rfl
    · have hle := Nat.le_of_not_lt hlt
      have hdiv : l.length / fmtElems f = (l.length - fmtElems f) / fmtElems f + 1 := Nat.div_eq_sub_div he hle
      have hih := ih (l := l.drop (fmtElems f)) (by rw [List.length_drop]; omega)
      rw [List.length_drop] at hih
      rw [if_neg hlt, hih, hdiv, List.range_succ_eq_map]
      simp only [List.map_cons, List.map_map, List.drop_drop, Nat.mul_zero, List.drop_zero, Function.comp_def, Nat.mul_add, Nat.mul_one,
        Nat.succ_eq_add_one, Nat.add_comm]

section
variable {s : State} {v : View} {p : Pass} {popped : Bool}

theorem exec_m2c (h : Claims.OnData s v p 140 [] popped) (hroom : ctlOutputRoom s v.ea v.ctx (v.w.imm.toNat / 64 % 4) = true) :
    let x := Claims.operands v p 140 []
    let d := Claims.maskV (v.w.imm.toNat % 4) (v.w.imm.toNat / 4 % 16) x.a
    exec (.m2c v.w) s = .next (Claims.fired s v p 140 popped (Claims.withRandom x
      { StageOut.emit (Claims.followed v p 140 []) (resultToken x x.a.mask x.a.pay (some x.a.res)) with
        ctl := [(v.w.imm.toNat / 64 % 4, { v := d, b := false, par := d != x.side.etag, fin := false, cut := false })] })) := by
  intro x d
  have hm : x.mask = x.a.mask := operandsOf_mask_single ..
  have hctl : (if x.side.etag then { ctlTok d false with par := !(ctlTok d false).par } else ctlTok d false) =
      { v := d, b := false, par := d != x.side.etag, fin := false, cut := false } := by
    cases x.side.etag <;> cases d <;> rfl
  rw [show exec (.m2c v.w) s = execM2c v.w s from rfl, execM2c, ← hm, ← hctl]
  refine runStage_onData h rfl rfl rfl ?_ rfl
  simp only [maskDecision_eq, bits_low]
  exact if_pos hroom

/-- The lanes that COUNT reaches (R425). -/
def coveredLanes (x : Operands) : BitVec 16 := x.a.mask &&& bitsToMask (lanes16.map fun j => decide (32 * j < fmtWidth x.fmt * x.count))

theorem maskBit_coveredLanes (x : Operands) {j : Nat} (hj : j < 16) :
    maskBit (coveredLanes x) j = (maskBit x.a.mask j && decide (32 * j < fmtWidth x.fmt * x.count)) := by
  rw [coveredLanes, maskBit_and, maskBit_lanes _ hj]

theorem exec_unpack (h : Claims.OnData s v p 139 fData popped) :
    let x := Claims.operands v p 139 fData
    exec (.unpack v.w) s = .next (Claims.fired s v p 139 popped (Claims.withRandom x
      (.emit (Claims.followed v p 139 fData) (resultToken x (coveredLanes x) x.a.pay none)))) := by
  intro x
  rw [show exec (.unpack v.w) s = execUnpack v.w s from rfl, execUnpack]
  exact runStage_onData h rfl rfl rfl rfl rfl

end

/-- What `pack` hands on and keeps, from the full tokens and the rest of its pending elements (R392). -/
def packOutcome (v : View) (x : Operands) (taken : Nat) (side : Token) (r : List Token × List Nat) : StageOut :=
  let last := decide (0 < v.op.rem) && v.op.rem == 1
  let kept := if last then [] else r.2
  { StageOut.quiet { v.op with rem := v.op.rem - 1, elems := v.op.elems - taken, visited := kept.length } with
    out := r.1 ++ (if last && !r.2.isEmpty then [packedToken v.w.fmt.toNat r.2 side] else [])
    k := some (if kept.isEmpty then Token.zero else packedToken v.w.fmt.toNat kept side)
    poison := x.side.etag }

/-- Settles O18: the bodies of the three operators, with `pack`'s at most two full tokens counted by division. -/
theorem packingOperators : Obligations.PackingOperators := by
  unfold Obligations.PackingOperators
  intro s v p popped k done
  refine ⟨fun h hroom => ?_, fun h => ?_, fun h hpg => ?_⟩
  case refine_1 => exact ⟨_, moved_resultToken fun j _ => ⟨rfl, rfl, rfl⟩, exec_m2c h hroom⟩
  case refine_2 =>
    intro x w kept
    refine ⟨resultToken x (coveredLanes x) x.a.pay none, rfl, fun j hj => ?_, exec_unpack h⟩
    have hm : maskBit (coveredLanes x) j = kept j := maskBit_coveredLanes x hj
    refine ⟨hm, (laneNat_maskPay _ _ hj).trans (by rw [hm]), (resNat_regenRes _ _ hj).trans ?_⟩
    cases hk : kept j with
    | false => rw [hm, hk, if_neg Bool.false_ne_true, if_neg Bool.false_ne_true]
    | true => rw [hm, hk, if_pos rfl, if_pos rfl, laneNat_maskPay _ _ hj, hm, hk, if_pos rfl]
  case refine_3 =>
    intro x f w e inPacket valid taken all rest side flush kept hf hf' hv
    have htaken : taken.length ≤ e := by
      have hvalid : valid.length ≤ e := by
        rw [List.length_map]
        exact (List.length_filter_le ..).trans (List.length_range ..).le
      simp only [taken]
      split
      · exact (List.length_take_le' ..).trans hvalid
      · exact hvalid
    have hall : all.length / e ≤ 2 := by
      refine Nat.le_of_lt_succ (Nat.div_lt_of_lt_mul ?_)
      rw [List.length_append, List.length_map, List.length_range]
      omega
    have hfull : packFull f side 2 all = _ := packFull_eq side (Nat.pos_of_ne_zero (by omega)) hall
    have hop : Claims.followed v p 138 [] = v.op := by simp [Claims.followed, Claims.decodes, hpg]
    refine (show exec (.pack v.w) s = execPack v.w s from rfl).trans (runStage_onData h rfl rfl rfl ?_ rfl)
    rw [hop]
    refine Eq.trans (b := (s, packOutcome v x taken.length side (packFull f side 2 all))) rfl ?_
    have hlast : ((flush && !rest.isEmpty) = true) = (flush = true ∧ rest ≠ []) := by simp [List.isEmpty_eq_false_iff]
    have hkept : (kept.isEmpty = true) = (kept = []) := propext List.isEmpty_iff
    rw [hfull]
    simp only [packOutcome]
    simp only [← hlast, ← hkept]
    rfl

end Sys2Proof.Proofs


namespace Sys2Proof.Proofs
open Sys2Proof.Machine

/-! ## The rules of fork, sink, cand, cor, cnot and cgen (R331, R336, R356, R411) -/

section
variable {v : SlotView} {t : Token} {c d : Ctl}

/-- Bit k of IMM is 0. -/
theorem imm_bit_zero {k : Nat} (v : SlotView) : v.imm k 1 = 0 ↔ v.w.imm.getLsbD k = false := by
  have hlt : v.imm k 1 < 2 := Nat.mod_lt _ (by decide)
  rw [← imm_bit, beq_eq_false_iff_ne]
  omega

theorem forkRule_data (hd : v.w.imm.getLsbD 0 = false) (ht : v.data 0 = some t) :
    forkRule v = some (t, Claims.slotDoes { v.op with ended := v.op.ended || t.isEnd } [0] [] [(0, t), (1, t)] [] []) := by
  rw [forkRule, if_pos ((imm_bit_zero v).2 hd), ht]
  rfl

theorem forkRule_ctl (hd : ¬ v.w.imm.getLsbD 0 = false) (hc : v.ctl 3 = some c) :
    forkRule v = some (Token.zero, Claims.slotDoes { v.op with ended := v.op.ended || c.fin } [] [3] [] [(0, c), (1, c)] []) := by
  rw [forkRule, if_neg (mt (imm_bit_zero v).1 hd), hc]
  rfl

theorem sinkRule_data (hd : v.w.imm.getLsbD 0 = false) (ht : v.data 0 = some t) :
    sinkRule v = some (t, { Claims.slotDoes { v.op with ended := v.op.ended || t.isEnd } [0] [] [] [] [] with sunk := some t }) := by
  rw [sinkRule, if_pos ((imm_bit_zero v).2 hd), ht]
  rfl

theorem sinkRule_ctl (hd : ¬ v.w.imm.getLsbD 0 = false) (hc : v.ctl 3 = some c) :
    sinkRule v = some (Token.zero, Claims.slotDoes { v.op with ended := v.op.ended || c.fin } [] [3] [] [] []) := by
  rw [sinkRule, if_neg (mt (imm_bit_zero v).1 hd), hc]
  rfl

theorem ctlWith_eq (v b fin good : Bool) : ctlWith (!b && v) b fin good = Claims.ctlFrom v b fin good := by
  rw [Bool.and_comm]
  rfl

/-- Two control tokens of one B combine (R331). -/
theorem ctlPairRule_eq (f : Bool → Bool → Bool) (hc : v.ctl 0 = some c) (hd : v.ctl 1 = some d) (hb : c.b = d.b) :
    ctlPairRule f v = some (Token.zero, Claims.slotDoes { countPair v.op c.b with ended := v.op.ended || (c.fin && d.fin) } [] [0, 1] []
      [(0, Claims.ctlFrom (f c.v d.v) c.b (c.fin && d.fin) (c.parityOk && d.parityOk))] []) := by
  simp only [ctlPairRule, hc, hd, ← ctlWith_eq]
  exact if_neg (by simp [hb])

theorem cnotRule_eq (hc : v.ctl 0 = some c) :
    cnotRule v = some (Token.zero, Claims.slotDoes { countPair v.op c.b with ended := v.op.ended || c.fin } [] [0] []
      [(0, Claims.ctlFrom (!c.v) c.b c.fin c.parityOk)] []) := by
  simp only [cnotRule, hc, ← ctlWith_eq]
  rfl

/-- The value that `cgen` gives a record (R336). -/
def cgenValue (v : SlotView) : Bool := if v.w.imm.getLsbD 1 then v.op.sel != some false else v.w.imm.getLsbD 0

theorem cgenValue_eq (v : SlotView) : (if v.imm 1 1 = 0 then v.imm 0 1 == 1 else v.op.sel != some false) = cgenValue v := by
  rw [cgenValue, imm_bit]
  by_cases h : v.w.imm.getLsbD 1 = false
  · rw [if_pos ((imm_bit_zero v).2 h), h]; rfl
  · rw [if_neg (mt (imm_bit_zero v).1 h), if_pos (Bool.eq_true_of_not_eq_false h)]

theorem cgenRule_bare (ht : v.data 0 = some t) (hf : v.w.fmt ≠ 0) (hk : t.kind = .data) :
    cgenRule v = some (t, Claims.slotDoes { v.op with sel := some false } [0] [] [(1, t)] [(0, ctlTok (cgenValue v) false)] []) := by
  simp only [cgenRule, ht, beq_false_of_ne hf, hk, cgenValue_eq]
  rfl

theorem cgenRule_header (ht : v.data 0 = some t) (hf : v.w.fmt = 0) (hk : t.kind = .header) (hrem : v.op.rem = 0) (hok : hdrOk t = true) :
    cgenRule v = some (t, Claims.slotDoes { trackPacket v.op t v.op.sel false with sel := some false } [0] [] [(1, t)]
      [(0, ctlTok (cgenValue v) false)] []) := by
  have hcheck : streamCheck true v.op t = none := by simp [streamCheck, hrem, hk, hok]
  simp only [cgenRule, ht, beq_iff_eq.2 hf, hcheck, hk, cgenValue_eq]
  rfl

theorem cgenRule_inside (ht : v.data 0 = some t) (hf : v.w.fmt = 0) (hk : t.kind = .data) (hseen : v.op.seen = true) :
    cgenRule v = some (t, Claims.slotDoes (trackPacket v.op t v.op.sel false) [0] [] [(1, t)] [] []) := by
  have hcheck : streamCheck true v.op t = none := by simp [streamCheck, hk, hseen]
  simp only [cgenRule, ht, beq_iff_eq.2 hf, hcheck, hk]
  rfl

theorem cgenRule_marker (ht : v.data 0 = some t) (hk : t.kind = .marker) (hrem : v.op.rem = 0) :
    cgenRule v = some (t, Claims.slotDoes { passMarker v.op t with sel := if t.level.toNat ≤ v.w.imm.toNat / 4 % 8 then none else v.op.sel }
      [0] [] [(1, t)] [(0, ctlOfMarker t)] []) := by
  have hcheck : streamCheck true v.op t = none := by simp [streamCheck, hrem, hk]
  simp only [cgenRule, ht, hcheck, ite_self, hk, decide_eq_true_eq]
  rfl

end

/-- Settles O29: a ready slot fires its rule, and each case of a rule is one lemma above. -/
theorem controlSlots : Obligations.ControlSlots := by
  unfold Obligations.ControlSlots
  intro s v t c d h fires does ended isData good first val
  have hval : val = ctlTok (cgenValue v) false := by simp [val, first, ctlTok, cgenValue]
  rw [hval]
  refine ⟨?_, ?_, ?_, ?_, ?_, ?_, ?_, ?_, ?_, ?_⟩
  · exact fun hd ht _ => runSlot_ready h (forkRule_data hd ht)
  · exact fun hd hc _ => runSlot_ready h (forkRule_ctl hd hc)
  · exact fun hd ht _ => runSlot_ready h (sinkRule_data hd ht)
  · exact fun hd hc _ => runSlot_ready h (sinkRule_ctl hd hc)
  · exact fun hc hd hb => ⟨fun _ => runSlot_ready h (ctlPairRule_eq (· && ·) hc hd hb), fun _ => runSlot_ready h (ctlPairRule_eq (· || ·) hc hd hb)⟩
  · exact fun hc _ => runSlot_ready h (cnotRule_eq hc)
  · exact fun ht hf hk _ => runSlot_ready h (cgenRule_bare ht hf hk)
  · exact fun ht hf hk hrem hok _ => runSlot_ready h (cgenRule_header ht hf hk hrem hok)
  · exact fun ht hf hk _ hseen _ => runSlot_ready h (cgenRule_inside ht hf hk hseen)
  · exact fun ht hk hrem _ => runSlot_ready h (cgenRule_marker ht hk hrem)

end Sys2Proof.Proofs


namespace Sys2Proof.Proofs
open Sys2Proof.Machine

/-! ## The rules of carry and invr (R334, R360) -/

/-- A loop slot that is ready fires its operator's rule. -/
theorem runSlot_loop {s : State} {v : SlotView} {code : Nat} {rule : SlotView → Option (Token × SlotOut)} {t : Token} {o : SlotOut}
    (h : Claims.SlotReady s v) (hr : rule v = some (t, o)) :
    runSlot s v.w (fun s v => fireLoop s v code rule) = .next (applySlot s v code t o) := by
  obtain ⟨⟨ea, hf, hsite⟩, hview, hrel, hrun, huncut, -, hfirst⟩ := h
  rw [runSlot, hf]
  dsimp only
  rw [hsite, ← hview, fireLoop, if_neg (by simp [hrel, hrun]), if_neg (by simp [huncut]), if_neg (by simp [hfirst]), hr]

/-- LEVEL of the marker that a loop word names. -/
def loopLevel (v : SlotView) : BitVec 3 := BitVec.ofNat 3 (v.w.imm.toNat % 8)

theorem fibreMarker_eq (v : SlotView) (t : Token) : fibreMarker v t = t.asMarker (loopLevel v) := by
  rw [fibreMarker, SlotView.imm, bits_low]
  rfl

theorem fen_eq (v : SlotView) : v.fen = v.w.imm.getLsbD 3 := imm_bit v 3

section
variable {v : SlotView} {t : Token} {c : Ctl}

theorem carryRule_enters (hm : v.op.mode = .idle) (hrem : v.op.rem = 0) (ht : v.data 0 = some t) (hk : t.kind = .data) :
    carryRule v = some (t, Claims.slotDoes { v.op with mode := .loop } [0] [] [(0, t)] [] []) := by
  simp only [carryRule, hm, ht, hrem, hk]
  rfl

theorem carryRule_passes (hm : v.op.mode = .idle) (hrem : v.op.rem = 0) (ht : v.data 0 = some t) (hk : t.kind = .marker) (hl : t.level ≠ 7) :
    carryRule v = some (t, Claims.slotDoes (countPair v.op true) [0] [] [(1, t)] [] []) := by
  have hend : t.isEnd = false := by rw [Token.isEnd, beq_false_of_ne hl, Bool.and_false]
  simp only [carryRule, hm, ht, hrem, hk, hend]
  rfl

theorem carryRule_drains (hm : v.op.mode = .idle) (hrem : v.op.rem = 0) (ht : v.data 0 = some t) (hk : t.kind = .marker) (hl : t.level = 7) :
    carryRule v = some (t, Claims.slotDoes { v.op with mode := .drain } [0] [] [(0, t)] [] []) := by
  have hend : t.isEnd = true := by simp [Token.isEnd, hk, hl]
  simp only [carryRule, hm, ht, hrem, hk, hend]
  rfl

/-- A data token at the back edge, with the decision of its control token (R334). -/
theorem carryRule_back (hm : v.op.mode = .loop) (hrem : v.op.rem = 0) (ht : v.data 1 = some t) (hc : v.ctl 3 = some c) (hk : t.kind = .data)
    (hb : c.b = false) {toBody : Bool} (hbody : (c.v && !(t.orTag (Claims.wrongTag c)).etag) = toBody) :
    carryRule v = some (t, Claims.slotDoes (carryRecord v (countPair v.op false) (t.orTag (Claims.wrongTag c)) toBody true).1 [1] [3]
      (carryRecord v (countPair v.op false) (t.orTag (Claims.wrongTag c)) toBody true).2 [] (Claims.wrongAt 3 c)) := by
  subst hbody
  simp only [carryRule, hm, hrem, ht, hc, hk, hb, wrongAt_eq, wrongTag_eq, startRecord]
  rfl

theorem carryRule_again (hm : v.op.mode = .loop) (hrem : v.op.rem = 0) (ht : v.data 1 = some t) (hc : v.ctl 3 = some c) (hk : t.kind = .data)
    (hb : c.b = false) (hv : c.v = true) (he : t.etag = false) (htag : Claims.wrongTag c = false) :
    carryRule v = some (t, Claims.slotDoes (countPair v.op false) [1] [3] [(0, t)] [] []) := by
  have hpar : Claims.wrongAt 3 c = [] := by
    rw [wrongTag_eq, Bool.not_eq_false'] at htag
    rw [wrongAt_eq, parityAt, if_pos htag]
  rw [carryRule_back hm hrem ht hc hk hb (toBody := true) (by simp [htag, hv, he]), hpar, htag, orTag_false]
  rfl

theorem carryRule_leaves (hm : v.op.mode = .loop) (hrem : v.op.rem = 0) (ht : v.data 1 = some t) (hc : v.ctl 3 = some c) (hk : t.kind = .data)
    (hb : c.b = false) (hv : c.v = false ∨ t.etag = true ∨ Claims.wrongTag c = true) :
    carryRule v = some (t, Claims.slotDoes { countPair v.op false with mode := if v.w.imm.getLsbD 3 then .fibre else .idle } [1] [3]
      ((1, t.orTag (Claims.wrongTag c)) :: if v.w.imm.getLsbD 3 then [(0, (t.orTag (Claims.wrongTag c)).asMarker (loopLevel v))] else [])
      [] (Claims.wrongAt 3 c)) := by
  have hbody : (c.v && !(t.orTag (Claims.wrongTag c)).etag) = false := by
    rcases hv with hv | hv | hv <;> simp [hv, Token.orTag]
  rw [carryRule_back hm hrem ht hc hk hb hbody]
  simp only [carryRecord, Bool.false_eq_true, if_false, Bool.not_true, fen_eq, fibreMarker_eq]

theorem carryRule_fibre (hm : v.op.mode = .fibre) (ht : v.data 1 = some t) (hc : v.ctl 3 = some c) (hk : t.kind = .marker)
    (hl : t.level = loopLevel v) (hb : c.b = true) :
    carryRule v = some (t, Claims.slotDoes (countPair { v.op with mode := .idle } true) [1] [3] [] [] (Claims.wrongAt 3 c)) := by
  have hl' : t.level = BitVec.ofNat 3 (v.imm 0 3) := by rw [hl, SlotView.imm, bits_low]; rfl
  simp only [carryRule, hm, ht, hc, hk, hl', hb, wrongAt_eq, beq_self_eq_true]
  rfl

theorem carryRule_ends (hm : v.op.mode = .drain) (ht : v.data 1 = some t) (hc : v.ctl 3 = some c) (hk : t.kind = .marker) (hl : t.level = 7)
    (hb : c.b = true) :
    carryRule v = some (t, Claims.slotDoes (countPair { v.op with mode := .idle, ended := true } true) [1] [3] [(1, t)] [] (Claims.wrongAt 3 c)) := by
  have hend : t.isEnd = true := by simp [Token.isEnd, hk, hl]
  simp only [carryRule, hm, ht, hc, hend, hb, wrongAt_eq]
  rfl

theorem invrRule_data (hm : v.op.mode = .idle) (ht : v.data 0 = some t) (hk : t.kind = .data) :
    invrRule v = some (t, { Claims.slotDoes { v.op with mode := .hold, held := some t } [0] [] [(0, t)] [] [] with poison := t.etag }) := by
  simp only [invrRule, hm, ht, hk]
  rfl

theorem invrRule_marker (hm : v.op.mode = .idle) (ht : v.data 0 = some t) (hk : t.kind = .marker) :
    invrRule v = some (t, Claims.slotDoes { v.op with mode := if t.level = 7 then .drain else .idle } [0] [] [(0, t)] [] []) := by
  have hend : (t.isEnd = true) = (t.level = 7) := by simp [Token.isEnd, hk]
  simp only [invrRule, hm, ht, hk, hend]
  rfl

theorem invrRule_again (hm : v.op.mode = .hold) (hh : v.op.held = some t) (hc : v.ctl 3 = some c) (hb : c.b = false) (hv : c.v = true) :
    invrRule v = some (t, Claims.slotDoes (countPair v.op false) [] [3] [(0, t.orTag (Claims.wrongTag c))] [] (Claims.wrongAt 3 c)) := by
  simp only [invrRule, hm, hh, hc, hb, hv, wrongAt_eq, wrongTag_eq]
  rfl

theorem invrRule_leaves (hm : v.op.mode = .hold) (hh : v.op.held = some t) (hc : v.ctl 3 = some c) (hb : c.b = false) (hv : c.v = false) :
    invrRule v = some (t, Claims.slotDoes (countPair { v.op with mode := if v.w.imm.getLsbD 3 then .fibre else .idle, held := none } false) [] [3]
      (if v.w.imm.getLsbD 3 then [(0, t.asMarker (loopLevel v))] else []) [] (Claims.wrongAt 3 c)) := by
  simp only [invrRule, hm, hh, hc, hb, hv, wrongAt_eq, fen_eq, fibreMarker_eq]
  rfl

end

/-- Settles O30: a ready loop slot fires its rule, and each case of a rule is one lemma above. -/
theorem loopSlots : Obligations.LoopSlots := by
  unfold Obligations.LoopSlots
  intro s v t c h fires does tag bad fen level after
  refine ⟨?_, ?_, ?_, ?_, ?_, ?_, ?_, ?_, ?_⟩
  · exact fun hm hrem ht hk _ => runSlot_loop h (carryRule_enters hm hrem ht hk)
  · exact fun hm hrem ht hc hk hb => ⟨fun hv he htag _ => runSlot_loop h (carryRule_again hm hrem ht hc hk hb hv he htag),
      fun hv _ => runSlot_loop h (carryRule_leaves hm hrem ht hc hk hb hv)⟩
  · exact fun hm ht hc hk hl hb _ => runSlot_loop h (carryRule_fibre hm ht hc hk hl hb)
  · exact fun hm hrem ht hk hl _ => runSlot_loop h (carryRule_passes hm hrem ht hk hl)
  · exact fun hm hrem ht hk hl _ => runSlot_loop h (carryRule_drains hm hrem ht hk hl)
  · exact fun hm ht hc hk hl hb _ => runSlot_loop h (carryRule_ends hm ht hc hk hl hb)
  · exact fun hm ht hk _ => runSlot_loop h (invrRule_data hm ht hk)
  · exact fun hm ht hk _ => runSlot_loop h (invrRule_marker hm ht hk)
  · exact fun hm hh hc hb => ⟨fun hv _ => runSlot_loop h (invrRule_again hm hh hc hb hv), fun hv _ => runSlot_loop h (invrRule_leaves hm hh hc hb hv)⟩

end Sys2Proof.Proofs


namespace Sys2Proof.Proofs
open Sys2Proof.Machine

/-! ## The best candidates of a tournament (R422) -/

/-- The best candidate of a list, its head first. -/
def bestOf (f : Nat) (c : Cand) (rest : List Cand) : Cand := rest.foldl (fun b x => if x.above f b then x else b) c

theorem bestOf_mem (f : Nat) (c : Cand) (rest : List Cand) : bestOf f c rest ∈ c :: rest := by
  induction rest generalizing c with
  | nil => exact List.mem_cons_self
  | cons x rest ih =>
    rw [bestOf, List.foldl_cons]
    split
    · exact List.mem_cons_of_mem _ (ih x)
    · rcases List.mem_cons.1 (ih c) with h | h
      · exact List.mem_cons.2 (.inl h)
      · exact List.mem_cons_of_mem _ (List.mem_cons_of_mem _ h)

theorem topK_succ (f k : Nat) (c : Cand) (rest : List Cand) :
    topK f (k + 1) (c :: rest) = bestOf f c rest :: topK f k ((c :: rest).erase (bestOf f c rest)) := rfl

theorem topK_nil (f k : Nat) : topK f k [] = [] := by cases k <;> rfl

theorem topK_length (f k : Nat) (l : List Cand) : (topK f k l).length = min k l.length := by
  induction k generalizing l with
  | zero => exact (Nat.zero_min _).symm
  | succ k ih =>
    cases l with
    | nil => rfl
    | cons c rest =>
      rw [topK_succ, List.length_cons, ih, List.length_erase_of_mem (bestOf_mem f c rest), List.length_cons]
      omega

theorem topK_subset (f k : Nat) {l : List Cand} {a : Cand} (h : a ∈ topK f k l) : a ∈ l := by
  induction k generalizing l with
  | zero => exact absurd h List.not_mem_nil
  | succ k ih =>
    cases l with
    | nil => exact h
    | cons c rest =>
      rw [topK_succ] at h
      rcases List.mem_cons.1 h with rfl | h
      · exact bestOf_mem f c rest
      · exact List.mem_of_mem_erase (ih h)

section
variable {f : Nat} (hf : fmtFloat f = false)
include hf

/-- Above of an integer format, by value and then by index. -/
theorem above_iff (a b : Cand) : a.above f b = true ↔
    intOf 32 (fmtSigned f) b.score < intOf 32 (fmtSigned f) a.score ∨
      (intOf 32 (fmtSigned f) a.score = intOf 32 (fmtSigned f) b.score ∧ a.index < b.index) := by
  simp only [Cand.above, hf, Bool.false_eq_true, if_false]
  split
  case isTrue h => simp [h]
  case isFalse h => simp [h]

theorem above_trans {a b c : Cand} (hab : a.above f b = true) (hbc : b.above f c = true) : a.above f c = true := by
  rw [above_iff hf] at *
  omega

theorem above_total {a b : Cand} (h : a.index ≠ b.index) : a.above f b = true ∨ b.above f a = true := by
  rw [above_iff hf, above_iff hf]
  omega

/-- The best of candidates with distinct indexes is above every other. -/
theorem bestOf_above {c : Cand} {rest : List Cand} (hd : ((c :: rest).map (·.index)).Nodup) {b : Cand} (hb : b ∈ c :: rest) :
    b = bestOf f c rest ∨ (bestOf f c rest).above f b = true := by
  induction rest generalizing c b with
  | nil => exact .inl (List.mem_singleton.1 hb)
  | cons x rest ih =>
    obtain ⟨hcx, hc, hx⟩ : c.index ≠ x.index ∧ c.index ∉ rest.map (·.index) ∧ (x.index ∉ rest.map (·.index) ∧ (rest.map (·.index)).Nodup) := by
      simp only [List.map_cons, List.nodup_cons, List.mem_cons, not_or] at hd
      obtain ⟨⟨h1, h2⟩, h3⟩ := hd
      exact ⟨h1, h2, h3⟩
    have hstep : ∀ w l : Cand, (w.above f l = true) → ((w :: rest).map (·.index)).Nodup → (∀ u ∈ c :: x :: rest, u = l ∨ u ∈ w :: rest) →
        b = bestOf f w rest ∨ (bestOf f w rest).above f b = true := by
      intro w l hwl hnd hsplit
      rcases hsplit b hb with rfl | hb'
      · rcases ih hnd List.mem_cons_self with hw | hw
        · exact .inr (hw ▸ hwl)
        · exact .inr (above_trans hf hw hwl)
      · exact ih hnd hb'
    rw [bestOf, List.foldl_cons]
    split
    case isTrue hxc => exact hstep x c hxc (List.nodup_cons.2 hx) fun u hu => List.mem_cons.1 hu
    case isFalse hxc =>
      refine hstep c x ((above_total hf hcx).resolve_right hxc) (List.nodup_cons.2 ⟨hc, hx.2⟩) fun u hu => ?_
      simp only [List.mem_cons] at hu ⊢
      tauto

/-- The K best are in order, and above all the others. -/
theorem topK_ordered (k : Nat) {l : List Cand} (hd : (l.map (·.index)).Nodup) :
    (topK f k l).Pairwise (fun a b => a.above f b = true) ∧ ∀ a ∈ topK f k l, ∀ b ∈ l, b ∉ topK f k l → a.above f b = true := by
  induction k generalizing l with
  | zero => exact ⟨List.Pairwise.nil, fun a ha => absurd ha List.not_mem_nil⟩
  | succ k ih =>
    cases l with
    | nil => exact ⟨List.Pairwise.nil, fun a ha => absurd ha List.not_mem_nil⟩
    | cons c rest =>
      have hnodup : (c :: rest).Nodup := hd.of_map _
      obtain ⟨hpair, hothers⟩ := ih ((List.erase_sublist (a := bestOf f c rest) (l := c :: rest)).map (·.index) |>.nodup hd)
      have hbest : ∀ b ∈ (c :: rest).erase (bestOf f c rest), (bestOf f c rest).above f b = true := fun b hb => by
        obtain ⟨hne, hb⟩ := hnodup.mem_erase_iff.1 hb
        exact (bestOf_above hf hd hb).resolve_left hne
      rw [topK_succ]
      refine ⟨List.pairwise_cons.2 ⟨fun b hb => hbest b (topK_subset f k hb), hpair⟩, fun a ha b hb hnot => ?_⟩
      simp only [List.mem_cons (a := b), not_or] at hnot
      obtain ⟨hne, hnot⟩ := hnot
      have hb' := hnodup.mem_erase_iff.2 ⟨hne, hb⟩
      rcases List.mem_cons.1 ha with rfl | ha
      · exact hbest b hb'
      · exact hothers a ha b hb' hnot

end

end Sys2Proof.Proofs


namespace Sys2Proof.Proofs
open Sys2Proof.Machine

/-! ## Tokens of candidates (R422, R423) -/

/-- The two lanes of each candidate follow each other. -/
theorem getD_pairs (l : List Cand) (j : Nat) (h : j < l.length) :
    (l.flatMap fun c => [c.score, c.index]).getD (2 * j) 0 = l[j].score ∧ (l.flatMap fun c => [c.score, c.index]).getD (2 * j + 1) 0 = l[j].index := by
  induction l generalizing j with
  | nil => exact absurd h (Nat.not_lt_zero j)
  | cons c l ih =>
    cases j with
    | zero => exact ⟨rfl, rfl⟩
    | succ j => exact ih j (Nat.lt_of_succ_lt_succ h)

/-- Candidates of a bare token, with indexes from `base` on. -/
theorem candsOf_eq (t : Token) (base : Nat) :
    candsOf t base = ((List.range 16).filter (fun j => maskBit t.mask j)).map (fun j => ({ score := laneNat t.pay j, index := base + j } : Cand)) := rfl

/-- Candidates of a bare token have indexes of their own. -/
theorem candsOf_nodup (t : Token) (base : Nat) : ((candsOf t base).map (·.index)).Nodup := by
  rw [candsOf_eq, List.map_map]
  exact (List.nodup_range.filter _).map fun a b h => Nat.add_left_cancel h

/-- Candidates of a bare token fit their lanes. -/
theorem candsOf_lt {t : Token} {base : Nat} {c : Cand} (hbase : base < 256) (h : c ∈ candsOf t base) : c.score < 2 ^ 32 ∧ c.index < 2 ^ 32 := by
  rw [candsOf_eq] at h
  obtain ⟨j, hj, rfl⟩ := List.mem_map.1 h
  have hj := List.mem_range.1 (List.mem_filter.1 hj).1
  exact ⟨Nat.mod_lt _ (by decide), show base + j < 2 ^ 32 by omega⟩

theorem candsOf_length_le (t : Token) (base : Nat) : (candsOf t base).length ≤ 16 := by
  rw [candsOf_eq, List.length_map]
  exact (List.length_filter_le ..).trans (List.length_range ..).le

/-- The lanes of a token of pairs (R423). -/
theorem tournToken_lanes {k f : Nat} {l : List Cand} {side : Token} (hk : k ≤ 8) (hl : ∀ c ∈ l, c.score < 2 ^ 32 ∧ c.index < 2 ^ 32) :
    let top := topK f k l
    let r := tournToken k f l side
    (∀ j < 16, maskBit r.mask j = decide (j < 2 * top.length)) ∧
      ∀ j (h : j < top.length), laneNat r.pay (2 * j) = top[j].score ∧ laneNat r.pay (2 * j + 1) = top[j].index := by
  intro top r
  have hlen : top.length ≤ 8 := by rw [topK_length]; omega
  have hmask : ∀ j < 16, maskBit r.mask j = decide (j < 2 * top.length) := fun j hj => maskBit_lanes _ hj
  have hlane : ∀ j, j < 2 * top.length → laneNat r.pay j = (top.flatMap fun c => [c.score, c.index]).getD j 0 % 2 ^ 32 := fun j hj => by
    refine (laneNat_maskPay _ _ (by omega)).trans ?_
    exact (if_pos ((hmask j (by omega)).trans (decide_eq_true hj))).trans (laneNat_lanesToPay (by omega))
  refine ⟨hmask, fun j h => ?_⟩
  obtain ⟨hs, hi⟩ := hl top[j] (topK_subset f k (List.getElem_mem h))
  obtain ⟨h0, h1⟩ := getD_pairs top j h
  rw [hlane _ (by omega), hlane _ (by omega), h0, h1]
  exact ⟨Nat.mod_eq_of_lt hs, Nat.mod_eq_of_lt hi⟩

/-! ## The rules of tourn and rdig -/

section
variable {v : SlotView} {t : Token} {c : Ctl}

/-- What stands at the second input does not matter to a `tourn` of one input. -/
theorem tournRule_marker (hpair : v.w.imm.getLsbD 4 = false) (ht : v.data 0 = some t) (hk : t.kind = .marker) :
    tournRule v = some (t, Claims.slotDoes (passMarker v.op t) [0] [] [(0, t)] [] []) := by
  cases hb : v.data 1 <;> simp only [tournRule, imm_bit, hpair, ht, hb, hk] <;> rfl

/-- The sideband of what `tourn` makes of one token. -/
def tournSide (t : Token) : Token := { t with multi := mixedSources [t], rand := false }

theorem tournRule_record (hpair : v.w.imm.getLsbD 4 = false) (ht : v.data 0 = some t) (hk : t.kind = .data) :
    tournRule v = some (t, Claims.slotDoes v.op [0] []
      [(0, tournToken (v.w.imm.toNat % 16) v.w.fmt.toNat (candsOf t (v.w.imm.toNat / 256 % 256)) (tournSide t))] [] []) := by
  have hside : ({ t with etag := t.etag || false, multi := mixedSources [t], rand := false } : Token) = tournSide t := by rw [Bool.or_false]; rfl
  have hlow : v.imm 0 4 = v.w.imm.toNat % 16 := bits_low ..
  rw [← hside, ← hlow]
  cases hb : v.data 1 <;> simp only [tournRule, imm_bit, hpair, ht, hb, hk] <;> rfl

theorem not_linked (h : v.r.slotLink v.n 1 = 31) : v.linked 1 = false := by rw [SlotView.linked, h]; rfl

/-- The token that carries a digest. -/
def digestToken (t : Token) (c : Ctl) (d : Nat) : Token :=
  dataToken (lanesToPay [d % 2 ^ 32, d / 2 ^ 32]) 3 { t with etag := t.etag || Claims.wrongTag c, multi := mixedSources [t], rand := false }

/-- The digest of the first decision of a stream (R400). -/
def firstDigest (v : SlotView) (c : Ctl) : Nat := digestStep 0xCBF29CE484222325 (v.w.imm.toNat % 128) c.v

theorem rdigRule_record (hlink : v.r.slotLink v.n 1 = 31) (ht : v.data 0 = some t) (hc : v.ctl 3 = some c) (hrem : v.op.rem = 0)
    (hk : Claims.opens t) (hb : c.b = false) :
    rdigRule v = some (t, Claims.slotDoes (startRecord v.op t c.v (Claims.wrongTag c)) [0] [3]
      [(0, t.orTag (Claims.wrongTag c)), (1, digestToken t c (firstDigest v c))] [] (Claims.wrongAt 3 c)) := by
  have hlow : v.imm 0 7 = v.w.imm.toNat % 128 := bits_low ..
  simp only [rdigRule, ht, hc, not_linked hlink, govern_record hrem hk hb, order_unlinked, hlow, wrongAt_eq, wrongTag_eq, digestToken, firstDigest,
    Bool.or_false, Bool.false_eq_true, if_false]
  rfl

theorem rdigRule_marker (hlink : v.r.slotLink v.n 1 = 31) (ht : v.data 0 = some t) (hc : v.ctl 3 = some c) (hrem : v.op.rem = 0)
    (hk : t.kind = .marker) (hb : c.b = true) :
    rdigRule v = some (t, Claims.slotDoes (passMarker v.op t) [0] [3] [(0, t), (1, t)] [] (Claims.wrongAt 3 c)) := by
  simp only [rdigRule, ht, hc, not_linked hlink, govern_marker hrem hk hb, order_unlinked, wrongAt_eq]
  rfl

theorem digestToken_sideband (t : Token) (c : Ctl) (d : Nat) : (digestToken t c d).kind = .data ∧ (digestToken t c d).seq = t.seq ∧
    (digestToken t c d).mask = 3 ∧ (digestToken t c d).etag = (t.etag || Claims.wrongTag c) := by
  simp only [digestToken, dataToken, and_self]

theorem digestStep_lt (d tag : Nat) (b : Bool) : digestStep d tag b < 2 ^ 64 := Nat.mod_lt _ (by decide)

/-- A digest stands in lanes 0 and 1. -/
theorem digestToken_lanes (t : Token) (c : Ctl) {d : Nat} (hd : d < 2 ^ 64) :
    laneNat (digestToken t c d).pay 0 = d % 2 ^ 32 ∧ laneNat (digestToken t c d).pay 1 = d / 2 ^ 32 := by
  have hlane : ∀ j < 2, laneNat (digestToken t c d).pay j = [d % 2 ^ 32, d / 2 ^ 32].getD j 0 % 2 ^ 32 := fun j hj => by
    refine (laneNat_maskPay _ _ (by omega)).trans ((if_pos ?_).trans (laneNat_lanesToPay (by omega)))
    interval_cases j <;> rfl
  rw [hlane 0 (by decide), hlane 1 (by decide)]
  exact ⟨Nat.mod_mod .., Nat.mod_eq_of_lt (Nat.div_lt_of_lt_mul hd)⟩

end

/-- Settles O31: the rules of `tourn` and `rdig`, and the order of the K best candidates. -/
theorem tournAndDigest : Obligations.TournAndDigest := by
  unfold Obligations.TournAndDigest
  intro s v t c h fires does k base f better
  refine ⟨fun hpair hk ht hdata => ?_, fun hpair ht hk _ => ?_, fun hlink ht hc hrem hk hb => ?_, fun hlink ht hc hrem hk hb _ => ?_⟩
  case refine_1 =>
    have hbase : base < 256 := Nat.mod_lt _ (by decide)
    obtain ⟨hmask, hlanes⟩ := tournToken_lanes (k := k) (f := f) (l := candsOf t base) (side := tournSide t) hk fun c hc => candsOf_lt hbase hc
    exact ⟨topK f k (candsOf t base), tournToken k f (candsOf t base) (tournSide t), topK_length .., fun a ha => topK_subset f k ha,
      fun hf => topK_ordered hf k (candsOf_nodup t base), rfl, hmask, hlanes, fun _ => runSlot_ready h (tournRule_record hpair ht hdata)⟩
  case refine_2 => exact runSlot_ready h (tournRule_marker hpair ht hk)
  case refine_3 =>
    obtain ⟨h0, h1⟩ := digestToken_lanes t c (digestStep_lt 0xCBF29CE484222325 (v.w.imm.toNat % 128) c.v)
    obtain ⟨hkind, hseq, hm, htag⟩ := digestToken_sideband t c (firstDigest v c)
    refine ⟨digestToken t c (firstDigest v c), ?_⟩
    intro d
    exact ⟨hkind, hseq, hm, htag, h0, h1, fun _ => runSlot_ready h (rdigRule_record hlink ht hc hrem hk hb)⟩
  case refine_4 => exact runSlot_ready h (rdigRule_marker hlink ht hc hrem hk hb)

end Sys2Proof.Proofs


namespace Sys2Proof.Proofs
open Sys2Proof.Machine

/-! ## What `spawn` does with a data token (R412, R413) -/

/-- Pairs 0 and 1 of a request are valid. -/
def pairsWhole (x : Operands) : Prop := elemValid x.a.mask 64 0 = true ∧ elemValid x.a.mask 64 1 = true

/-- Pair i of a request. -/
def requestPair (x : Operands) (i : Nat) : DWord := BitVec.ofNat 64 (elemNat x.a.pay 64 i)

/-- What `spawn` hands on. -/
def spawnPasses (v : View) (x : Operands) : StageOut := .emit { v.op with mode := .idle, fault := none } (Claims.trigger x)

section
variable {s : State} {v : View} {x : Operands}

theorem spawnRequest_whole (h : pairsWhole x) : spawnRequest (Claims.trigger x) =
    some (requestPair x 0, requestPair x 1, if elemValid x.a.mask 64 2 then requestPair x 2 else 0) := if_pos (Bool.and_eq_true_iff.2 h)

theorem spawnRequest_malformed (h : ¬ pairsWhole x) : spawnRequest (Claims.trigger x) = none := if_neg (mt Bool.and_eq_true_iff.1 h)

theorem spawnData_tagged (htag : x.side.etag = true) : spawnData s v x = (countSuppressed s v.ea, spawnPasses v x) := if_pos htag

theorem spawnData_malformed (htag : x.side.etag = false) (h : ¬ pairsWhole x) : spawnData s v x = (s, spawnPasses v x) := by
  have hreq : spawnRequest { x.a with etag := x.side.etag, rsv := 0 } = none := spawnRequest_malformed h
  simp only [spawnData, hreq]
  exact if_neg (by rw [htag]; decide)

theorem spawnData_buffered {k : Task} (htag : x.side.etag = false) (h : pairsWhole x) (htask : v.e.task.bind s.task? = some k)
    (hroom : k.wthrough = true ∨ cbFull s k (siteSaveMt (eaSite v.ea)).toNat = false) :
    spawnData s v x = (s.modTask k.uid (fun r => { r with cb := r.cb ++ [.spawn (siteSaveMt (eaSite v.ea)).toNat (v.w.imm.extractLsb' 0 12)
      (requestPair x 0) (requestPair x 1) (if elemValid x.a.mask 64 2 then requestPair x 2 else 0)] }), spawnPasses v x) := by
  have hreq : spawnRequest { x.a with etag := x.side.etag, rsv := 0 } = _ := spawnRequest_whole h
  have hfull : (!k.wthrough && cbFull s k (siteSaveMt (eaSite v.ea)).toNat) = false := by rcases hroom with h | h <;> simp [h]
  simp only [spawnData, hreq, htask, hfull]
  exact if_neg (by rw [htag]; decide)

end

/-- A `spawn` that stands on data does what its body does. -/
theorem exec_spawn {s u : State} {v : View} {p : Pass} {popped : Bool} (h : Claims.OnData s v p 393 [] popped)
    (hdata : spawnData s { v with op := Claims.followed v p 393 [] } (Claims.operands v p 393 []) =
      (u, spawnPasses { v with op := Claims.followed v p 393 [] } (Claims.operands v p 393 []))) :
    exec (.spawn v.w) s = .next (Claims.fired u v p 393 popped (Claims.withRandom (Claims.operands v p 393 [])
      (.emit { Claims.followed v p 393 [] with mode := .idle, fault := none } (Claims.trigger (Claims.operands v p 393 []))))) := by
  show execSpawn v.w s = _
  rw [execSpawn]
  exact runStage_onData h rfl rfl rfl hdata rfl

/-- Settles O27: `spawn` passes its token in each case, and buffers a well-formed request alone. -/
theorem spawnRequests : Obligations.SpawnRequests := by
  unfold Obligations.SpawnRequests
  intro s v p popped k x t mt goes pair whole h
  exact ⟨fun htag => exec_spawn h (spawnData_tagged htag), fun htag hw => exec_spawn h (spawnData_malformed htag hw),
    fun htag hw htask hroom => exec_spawn h (spawnData_buffered htag hw htask hroom)⟩

end Sys2Proof.Proofs


namespace Sys2Proof.Proofs
open Sys2Proof.Machine

/-! ## Engine queues by block and number -/

theorem engineKey_injective {b k : BitVec 6} {q m : BitVec 4} (h : k.toNat * 16 + m.toNat = b.toNat * 16 + q.toNat) : k = b ∧ m = q :=
  ⟨BitVec.eq_of_toNat_eq (by omega), BitVec.eq_of_toNat_eq (by omega)⟩

theorem engine_setEngine_same {s : State} (h : tabRising none s.engines = true) (b : BitVec 6) (q : BitVec 4) (v : EngQueue) :
    (s.setEngine b q v).engine b q = v := tabGet_tabSet_same h

theorem engine_setEngine_other {s : State} (h : tabRising none s.engines = true) {b k : BitVec 6} {q m : BitVec 4} (v : EngQueue)
    (hk : (k, m) ≠ (b, q)) : (s.setEngine b q v).engine k m = s.engine k m :=
  tabGet_tabSet_other h fun he => hk (by obtain ⟨rfl, rfl⟩ := engineKey_injective he; rfl)

/-- Changes to several queues of one block change the engine queues alone. -/
theorem foldl_setEngine (b : BitVec 6) (f : EngQueue → EngQueue) (ks : List Nat) (s : State) :
    ks.foldl (fun s i => s.setEngine b (BitVec.ofNat 4 i) (f (s.engine b (BitVec.ofNat 4 i)))) s =
      { s with engines := (ks.map (fun i => b.toNat * 16 + (BitVec.ofNat 4 i).toNat)).foldl (fun t k => tabMod t k EngQueue.reset f) s.engines } := by
  induction ks generalizing s with
  | nil => rfl
  | cons i ks ih => rw [List.foldl_cons, ih]; rfl

/-- Each of them has its change, and no other queue has any. -/
theorem engine_foldl_tabMod {s : State} (h : tabRising none s.engines = true) (b : BitVec 6) (f : EngQueue → EngQueue) {ks : List Nat}
    (hn : ks.Nodup) (hlt : ∀ i ∈ ks, i < 16) (k : BitVec 6) (m : BitVec 4) :
    State.engine { s with engines := (ks.map (fun i => b.toNat * 16 + (BitVec.ofNat 4 i).toNat)).foldl (fun t k => tabMod t k EngQueue.reset f) s.engines } k m =
      if k = b ∧ m.toNat ∈ ks then f (s.engine k m) else s.engine k m := by
  have hkey : ∀ i ∈ ks, (BitVec.ofNat 4 i).toNat = i := fun i hi => by rw [BitVec.toNat_ofNat]; exact Nat.mod_eq_of_lt (hlt i hi)
  have hnodup : (ks.map (fun i => b.toNat * 16 + (BitVec.ofNat 4 i).toNat)).Nodup :=
    hn.map_on fun i hi j hj he => by rw [hkey i hi, hkey j hj] at he; omega
  have hmem : (k.toNat * 16 + m.toNat ∈ ks.map (fun i => b.toNat * 16 + (BitVec.ofNat 4 i).toNat)) ↔ k = b ∧ m.toNat ∈ ks := by
    refine ⟨fun hk => ?_, fun ⟨hk, hm⟩ => List.mem_map.2 ⟨m.toNat, hm, by rw [hk, hkey _ hm]⟩⟩
    obtain ⟨i, hi, he⟩ := List.mem_map.1 hk
    obtain ⟨hb, hq⟩ := engineKey_injective he.symm
    exact ⟨hb, by rw [hq, hkey i hi]; exact hi⟩
  exact (tabGet_foldl_tabMod (g := fun _ => f) _ hnodup h _).trans (if_congr hmem rfl rfl)

/-! ## The configuration loader (R335) -/

section
variable {s : State} {b : BitVec 6} (hr : Claims.Runs s b) (hp : (s.sq b).priv = true)
include hr

/-- A form for supervisors has its effect at their level. -/
theorem runSq_supervisor (hp : (s.sq b).priv = true) (f : State → BitVec 6 → State) :
    runSq s (fun s k => supervisorOnly s k (f s k)) = .next (f s b) := by
  rw [runSq_of_runs hr, supervisorOnly_supervisor hp]

theorem runSq_fenced (ho : Claims.Ordered s b) (f : State → BitVec 6 → State) : runSq s (fenced f) = .next (f s b) := by
  rw [runSq_of_runs hr, fenced_ordered ho]

include hp

theorem exec_cfgs_none {a c : BitVec 5} (hn : ((s.sq b).getG c).toNat = 0) : exec (.cfgs a c) s = .next (retire s b id) := by
  show execCfgs a c s = _
  rw [execCfgs, runSq_supervisor hr hp]
  exact congrArg _ (if_pos hn)

theorem exec_cfgs_long {a c : BitVec 5} (hn : 2 ^ 24 < ((s.sq b).getG c).toNat) : exec (.cfgs a c) s = .next (takeTrap s b 4 1 0) := by
  show execCfgs a c s = _
  rw [execCfgs, runSq_supervisor hr hp]
  exact congrArg _ ((if_neg (by omega)).trans (if_pos hn))

theorem exec_cfgs_queued {a c : BitVec 5} {pl : SqPlace} (h0 : 0 < ((s.sq b).getG c).toNat) (hn : ((s.sq b).getG c).toNat ≤ 2 ^ 24)
    (hpl : sqPlace s b ((s.sq b).getG a) 4 4 = .ok pl) :
    exec (.cfgs a c) s = .next (if (s.sq b).streaming then s else
      retire s b (fun q => { q with stream := q.stream ++ [.inl ((q.getG a).toNat, ((s.sq b).getG c).toNat)], rej := false })) := by
  show execCfgs a c s = _
  rw [execCfgs, runSq_supervisor hr hp]
  refine congrArg _ ((if_neg (by omega)).trans ((if_neg (by omega)).trans ?_))
  rw [hpl]

theorem exec_cfgw (a : BitVec 5) : exec (.cfgw a) s = .next (retire s b
    (fun q => { q with stream := q.stream ++ [.inr ((q.getG a).setWidth 32)] })) := by
  show execCfgw a s = _
  rw [execCfgw, runSq_supervisor hr hp]

theorem exec_cfgq_none (d : BitVec 5) (hrb : (s.sq b).rb = []) : exec (.cfgq d) s = .next (retireG s b d 0) := by
  show execCfgq d s = _
  rw [execCfgq, runSq_supervisor hr hp, hrb]

theorem exec_cfgq_pops (d : BitVec 5) {w : Word} {rest : List Word} (hrb : (s.sq b).rb = w :: rest) :
    exec (.cfgq d) s = .next (retire s b (fun q => { q with rb := rest }.setG d (BitVec.ofNat 64 (2 ^ 32 + w.toNat)))) := by
  show execCfgq d s = _
  rw [execCfgq, runSq_supervisor hr hp, hrb]

end

/-! ## Engine queues (R397, R398) -/

section
variable {s : State} {b : BitVec 6} (hr : Claims.Runs s b)
include hr

/-- The engine queue that a register names. -/
def namedEngine (s : State) (b : BitVec 6) (a : BitVec 5) : EngQueue := s.engine b (BitVec.ofNat 4 ((s.sq b).getG a).toNat)

theorem exec_qappEngine_traps {d a c : BitVec 5} (ho : Claims.Ordered s b)
    (h : 16 ≤ ((s.sq b).getG a).toNat ∨ (namedEngine s b a).en = false) : exec (.qappEngine d a c) s = .next (takeTrap s b 4 1 0) := by
  show execQappEngine d a c s = _
  rw [execQappEngine, runSq_fenced hr ho]
  exact congrArg _ (if_pos h)

theorem exec_qappEngine_full {d a c : BitVec 5} {pl : SqPlace} (ho : Claims.Ordered s b) (hn : ((s.sq b).getG a).toNat < 16)
    (hen : (namedEngine s b a).en = true) (hpl : sqPlace s b ((s.sq b).getG c) 64 64 = .ok pl)
    (hfull : 2 ^ ((namedEngine s b a).rsz.toNat + 4) ≤ ((namedEngine s b a).appn - (namedEngine s b a).donen).toNat) :
    exec (.qappEngine d a c) s = .next s := by
  show execQappEngine d a c s = _
  rw [execQappEngine, runSq_fenced hr ho]
  refine congrArg _ ((if_neg ?_).trans ?_)
  · exact not_or.2 ⟨by omega, ne_false_of_eq_true hen⟩
  · rw [hpl]
    exact if_pos (decide_eq_true hfull)

/-- The queue with one more command. -/
def appended (e : EngQueue) : EngQueue := { e with appn := e.appn + 1, items := e.items ++ [.cmd] }

/-- A command in the local data RAM goes to the slot of its number, whose address translates (R180, R397). -/
theorem exec_qappEngine_appends {u : State} {d a c : BitVec 5} {pa : Nat} (ho : Claims.Ordered s b) (hn : ((s.sq b).getG a).toNat < 16)
    (hen : (namedEngine s b a).en = true) (hram : Claims.inRam ((s.sq b).getG c)) (halign : ((s.sq b).getG c).toNat % 64 = 0)
    (hroom : ((namedEngine s b a).appn - (namedEngine s b a).donen).toNat < 2 ^ ((namedEngine s b a).rsz.toNat + 4))
    (hx : sqXlat s b ((namedEngine s b a).rbase.toNat + 64 * ((namedEngine s b a).appn.toNat % 2 ^ ((namedEngine s b a).rsz.toNat + 4))) writeIntent =
      (u, .ok pa)) :
    exec (.qappEngine d a c) s = .next (retireG ((unitWrite u (s.sq b).part.toNat b 0 pa
        (natToBytes 64 (memNat s.lram (lramKey b (((s.sq b).getG c).toNat % 4096)) 64))).setEngine b (BitVec.ofNat 4 ((s.sq b).getG a).toNat)
          (appended (namedEngine s b a))) b d (((namedEngine s b a).appn + 1).setWidth 64)) := by
  show execQappEngine d a c s = _
  rw [execQappEngine, runSq_fenced hr ho]
  refine congrArg _ ((if_neg ?_).trans ?_)
  · exact not_or.2 ⟨by omega, ne_false_of_eq_true hen⟩
  · rw [sqPlace_inRam hram halign]
    refine (if_neg ?_).trans ?_
    · exact mt of_decide_eq_true (Nat.not_le.2 hroom)
    · have hx' : sqXlat s b ((namedEngine s b a).slotAddr (namedEngine s b a).appn.toNat) writeIntent = (u, .ok pa) := hx
      unfold namedEngine at hx'
      simp only [sqRead, hx']
      rfl

/-- The queues in service that a register names. -/
def namedQueues (s : State) (b : BitVec 6) (a : BitVec 5) : List Nat :=
  (List.range 16).filter fun i => ((s.sq b).getG a).getLsbD i && (s.engine b (BitVec.ofNat 4 i)).en

/-- The fence entry of the queues named, with the commands appended to each so far. -/
def fencedQueue (s : State) (b : BitVec 6) (a : BitVec 5) (e : EngQueue) : EngQueue :=
  { e with items := e.items ++ [.fence (namedQueues s b a) ((namedQueues s b a).map fun i => (i, (s.engine b (BitVec.ofNat 4 i)).appn.toNat))] }

theorem exec_qfen (a : BitVec 5) : exec (.qfen a) s = .next (retire ((namedQueues s b a).foldl (fun u i =>
    u.setEngine b (BitVec.ofNat 4 i) (fencedQueue s b a (u.engine b (BitVec.ofNat 4 i)))) s) b id) := by
  show execQfen a s = _
  rw [execQfen, runSq_of_runs hr]
  have hmap : ((namedQueues s b a).map fun i => (i, (s.engine b (BitVec.ofNat 4 i)).appn.toNat)).map (·.1) = namedQueues s b a := by
    rw [List.map_map]
    exact List.map_id _
  have hwaits : fenceWaits s b ((s.sq b).getG a) = (namedQueues s b a).map fun i => (i, (s.engine b (BitVec.ofNat 4 i)).appn.toNat) := rfl
  simp only [hwaits, hmap, List.foldl_map]
  rfl

end

/-- Where no task and no channel looks on and no pair is in step, a unit's write goes to memory (R134). -/
theorem unitWrite_unobserved {u : State} (h : Claims.Unobserved u) {part : Nat} (hls : lsSide u.plat part = false) (b : BitVec 6) (unit pa : Nat)
    (l : List Byte) : storedTo u (memSetBytes u.dmem pa l) (unitWrite u part b unit pa l) := by
  rw [unitWrite, if_neg (by rw [hls]; decide)]
  exact commitBytes_unobserved h part pa l

/-- Memory and tables once bytes have been stored. -/
theorem storedTo_fields {s t : State} {m : Memory} (h : storedTo s m t) : t.dmem = m ∧ t.engines = s.engines ∧ t.sqs = s.sqs := by
  unfold storedTo at h
  refine ⟨?_, ?_, ?_⟩ <;> rw [h]

/-- What is left of the machine when a command x has been stored and counted (R397). -/
theorem appended_machine {s u w : State} {b : BitVec 6} {num : BitVec 4} {d : BitVec 5} {e : EngQueue} {pa x : Nat} {v : DWord}
    (hw : storedTo u (memSetNat u.dmem pa 64 x) w) (hdmem : u.dmem = s.dmem) (hengs : u.engines = s.engines)
    (husqs : u.sqs = (s.setSq b (u.sq b)).sqs) (hwf : memWf s.dmem = true) (heng : tabRising none s.engines = true)
    (hsqs : tabRising none s.sqs = true) (hx : x < 256 ^ 64) :
    let t := retireG (w.setEngine b num (appended e)) b d v
    memNat t.dmem pa 64 = x ∧ (∀ k, (k < pa ∨ pa + 64 ≤ k) → memByte t.dmem k = memByte s.dmem k) ∧ t.engine b num = appended e ∧
      (∀ k m, (k, m) ≠ (b, num) → t.engine k m = s.engine k m) ∧ t.sq b = Claims.nextPc ((u.sq b).setG d v) ∧ ∀ k, k ≠ b → t.sq k = s.sq k := by
  intro t
  obtain ⟨hwmem, hweng, hwsqs⟩ := storedTo_fields hw
  have hmem : t.dmem = memSetNat s.dmem pa 64 x := by
    rw [← hdmem, ← hwmem]
    rfl
  rw [hengs] at hweng
  have hurise : tabRising none u.sqs = true := by rw [husqs]; exact tabSet_risingNone hsqs
  have hsq : ∀ k, (w.setEngine b num (appended e)).sq k = u.sq k := fun k => congrArg (fun q => tabGet q k.toNat Sq.reset) hwsqs
  refine ⟨?_, fun k hk => ?_, ?_, fun k m hkm => ?_, ?_, fun k hk => ?_⟩
  · rw [hmem, memNat_memSetNat hwf, Nat.mod_eq_of_lt hx]
  · rw [hmem, memByte_memSetNat_outside hwf hk]
  · exact engine_setEngine_same (s := w) (by rw [hweng]; exact heng) b num _
  · refine (engine_setEngine_other (s := w) (by rw [hweng]; exact heng) _ hkm).trans ?_
    exact congrArg (fun q => tabGet q (k.toNat * 16 + m.toNat) EngQueue.reset) hweng
  · refine (sq_setSq_same (s := w.setEngine b num (appended e)) (show tabRising none w.sqs = true by rw [hwsqs]; exact hurise)).trans ?_
    rw [hsq]
    rfl
  · refine (sq_setSq_other (s := w.setEngine b num (appended e)) (show tabRising none w.sqs = true by rw [hwsqs]; exact hurise) hk).trans ?_
    rw [hsq]
    exact (congrArg (fun q => tabGet q k.toNat Sq.reset) husqs).trans (sq_setSq_other hsqs hk)

/-- Settles O39: the loader's words, the ring slot of an engine command, and one fence entry in each queue named. -/
theorem loaderAndQueues : Obligations.LoaderAndQueues := by
  unfold Obligations.LoaderAndQueues
  intro s b d a c hr q n num e sup
  refine ⟨fun hp h0 => exec_cfgs_none hr hp h0, fun hp hn => ?_, fun pl hp h0 hn hpl => ?_, fun hp => ?_, fun hp hrb => exec_cfgq_none hr hp d hrb,
    fun w rest hp hrb => exec_cfgq_pops hr hp d hrb, fun ho h => ?_, fun pl ho hn hen hpl hfull => exec_qappEngine_full hr ho hn hen hpl hfull, ?_, ?_⟩
  · rw [exec_cfgs_long hr hp hn, takeTrap_eq]; rfl
  · rw [exec_cfgs_queued hr hp h0 hn hpl]; rfl
  · rw [exec_cfgw hr hp, BitVec.ofNat_toNat]; rfl
  · rw [exec_qappEngine_traps hr ho h, takeTrap_eq]; rfl
  · intro u pa ho hls hn hen hram halign hroom hunobs hwf heng hsqs hpa hx hdmem htasks hchans hengs husqs
    have hw := unitWrite_unobserved ⟨htasks, hchans⟩ hls b 0 pa (natToBytes 64 (memNat s.lram (lramKey b (n % 4096)) 64))
    refine ⟨_, exec_qappEngine_appends hr ho hn hen hram halign hroom hx, ?_⟩
    have hv : BitVec.ofNat 64 (e.appn + 1).toNat = (e.appn + 1).setWidth 64 := BitVec.ofNat_toNat ..
    rw [ramNat_eq, ← lramKey_offset, hv]
    exact appended_machine (num := num) (e := e) hw hdmem hengs husqs hwf heng hsqs (memNat_lt ..)
  · intro heng named counts
    have hmem : ∀ i ∈ named, i < 16 := fun i hi => List.mem_range.1 (List.mem_filter.1 hi).1
    refine ⟨_, (exec_qfen hr a).trans ?_, fun k m => engine_foldl_tabMod heng b (fencedQueue s b a) (List.nodup_range.filter _) hmem k m⟩
    rw [foldl_setEngine]
    rfl

end Sys2Proof.Proofs


namespace Sys2Proof.Proofs
open Sys2Proof.Machine

/-! ## Tables rewritten in place -/

/-- A read of a table whose entries have been rewritten one after the other. -/
theorem tabGet_rewritten [DecidableEq α] {t : Tab α} {d : α} {g : α → α} (k : Nat) (hd : g d = d) (h : tabRising none t = true) :
    tabGet (t.foldl (fun acc p => tabSet acc p.1 (g p.2) d) t) k d = g (tabGet t k d) := by
  have hkeys : t.foldl (fun acc p => tabSet acc p.1 (g p.2) d) t =
      (t.map Prod.fst).foldl (fun acc c => tabMod acc c d (fun _ => g (tabGet t c d))) t := by
    rw [List.foldl_map]
    exact List.foldl_ext _ _ _ fun acc p hp => by rw [tabMod, tabGet_of_mem h p hp]
  rw [hkeys, tabGet_foldl_tabMod _ (nodup_keys h) h k]
  split
  · rfl
  · next hk => rw [tabGet_absent hk, hd]

/-- Replacing entries keeps a table's keys rising. -/
theorem tabRising_foldl_tabSet [DecidableEq α] {d : α} (g : Nat → α → α) (l : Tab α) {t : Tab α} (h : tabRising none t = true) :
    tabRising none (l.foldl (fun acc p => tabSet acc p.1 (g p.1 p.2) d) t) = true := by
  induction l generalizing t with
  | nil => exact h
  | cons p l ih => exact ih (tabSet_risingNone h)

section
variable {s : State} {b : BitVec 6} (hr : Claims.Runs s b)
include hr

/-- A form for supervisors that orders has its effect at their level, with nothing on its way. -/
theorem runSq_supervisor_fenced (hp : (s.sq b).priv = true) (ho : Claims.Ordered s b) (f : State → BitVec 6 → State) :
    runSq s (fun s k => supervisorOnly s k (fenced f s k)) = .next (f s b) := by
  rw [runSq_supervisor hr hp (fun s k => fenced f s k), fenced_ordered ho]

/-! ## tsk (R424) -/

/-- Address and queue of a `tsk`. -/
def tskAddr (s : State) (b : BitVec 6) (a : BitVec 5) : Nat := ((s.sq b).getG a).toNat
def tskQueue (s : State) (b : BitVec 6) : WorkQueue := s.queue (s.sq b).tskq

variable {d a : BitVec 5} (ho : Claims.Ordered s b)
include ho

theorem exec_tsk_misaligned (h : tskAddr s b a % 64 ≠ 0) : exec (.tsk d a) s = .next (takeTrap s b 4 3 0) := by
  show execTsk d a s = _
  rw [execTsk, runSq_fenced hr ho]
  exact congrArg _ (if_pos h)

theorem exec_tsk_foreign (h : tskAddr s b a % 64 = 0) (hpart : (tskQueue s b).part ≠ (s.sq b).part) :
    exec (.tsk d a) s = .next (takeTrap s b 4 6 0) := by
  show execTsk d a s = _
  rw [execTsk, runSq_fenced hr ho]
  exact congrArg _ ((if_neg (not_not_intro h)).trans (if_pos hpart))

theorem exec_tsk_closed (h : tskAddr s b a % 64 = 0) (hpart : (tskQueue s b).part = (s.sq b).part)
    (hclosed : (tskQueue s b).en = false ∨ (tskQueue s b).halt = true) : exec (.tsk d a) s = .next (retireG s b d 0) := by
  have hcond : (!(tskQueue s b).en || (tskQueue s b).halt) = true := by simpa using hclosed
  show execTsk d a s = _
  rw [execTsk, runSq_fenced hr ho]
  exact congrArg _ ((if_neg (not_not_intro h)).trans ((if_neg (not_not_intro hpart)).trans (if_pos hcond)))

/-- The record of a launch, once read, is accepted at the next position of its queue. -/
theorem exec_tsk_accepts {u : State} {r : TaskRec} (h : tskAddr s b a % 64 = 0) (hpart : (tskQueue s b).part = (s.sq b).part)
    (hen : (tskQueue s b).en = true) (hhalt : (tskQueue s b).halt = false) (hheld : (tskQueue s b).held = [])
    (hread : readRecord s (s.sq b).part.toNat (tskAddr s b a) = (u, .done r)) :
    exec (.tsk d a) s = .next (retireG ((acceptLaunch u r (s.sq b).tskq ((tskQueue s b).acc.toNat + 1) (s.sq b).part.toNat).modQueue (s.sq b).tskq
      (fun w => { w with acc := w.acc + 1, tail := w.tail + 1 })) b d (((tskQueue s b).acc + 1).setWidth 64)) := by
  have hcond : ¬ (!(tskQueue s b).en || (tskQueue s b).halt) = true := by simp [hen, hhalt]
  have hheld' : ¬ (!(tskQueue s b).held.isEmpty) = true := by simp [hheld]
  show execTsk d a s = _
  rw [execTsk, runSq_fenced hr ho]
  refine congrArg _ ((if_neg (not_not_intro h)).trans ((if_neg (not_not_intro hpart)).trans ((if_neg hcond).trans ((if_neg hheld').trans ?_))))
  unfold tskAddr at hread
  simp only [hread]
  rfl

end

section
variable {s : State} {b : BitVec 6} {d a c : BitVec 5} (hr : Claims.Runs s b) (hp : (s.sq b).priv = true) (ho : Claims.Ordered s b)
include hr hp ho

/-! ## qapp of a work queue (R397) -/

/-- The work queue that a register names. -/
def namedWork (s : State) (b : BitVec 6) (a : BitVec 5) : WorkQueue := s.queue (BitVec.ofNat 12 ((s.sq b).getG a).toNat)

/-- The records that a `qapp` appends. -/
def appendCount (s : State) (b : BitVec 6) (c : BitVec 5) : Word := (((s.sq b).getG c).setWidth 16).setWidth 32

omit hr hp ho in
theorem appendCount_eq (s : State) (b : BitVec 6) (c : BitVec 5) : appendCount s b c = BitVec.ofNat 32 (((s.sq b).getG c).toNat % 2 ^ 16) := by
  rw [appendCount, ← BitVec.toNat_setWidth, BitVec.ofNat_toNat]

omit hr hp ho in
theorem appendCount_eq_zero : appendCount s b c = 0 ↔ ((s.sq b).getG c).toNat % 2 ^ 16 = 0 := by
  rw [appendCount_eq, ← BitVec.toNat_inj, BitVec.toNat_ofNat, Nat.mod_eq_of_lt (by omega)]
  rfl

theorem exec_qappWork_unlisted (h : 4096 ≤ ((s.sq b).getG a).toNat) : exec (.qappWork d a c) s = .next (takeTrap s b 4 1 0) := by
  show execQappWork d a c s = _
  rw [execQappWork, runSq_supervisor_fenced hr hp ho]
  exact congrArg _ (if_pos h)

variable (h : ((s.sq b).getG a).toNat < 4096)
include h

theorem exec_qappWork_foreign (hpart : (namedWork s b a).part ≠ (s.sq b).part) : exec (.qappWork d a c) s = .next (takeTrap s b 4 6 0) := by
  show execQappWork d a c s = _
  rw [execQappWork, runSq_supervisor_fenced hr hp ho]
  exact congrArg _ ((if_neg (Nat.not_le.2 h)).trans (if_pos hpart))

variable (hpart : (namedWork s b a).part = (s.sq b).part)
include hpart

theorem exec_qappWork_none (hcount : appendCount s b c = 0) : exec (.qappWork d a c) s = .next (retire s b id) := by
  show execQappWork d a c s = _
  rw [execQappWork, runSq_supervisor_fenced hr hp ho]
  exact congrArg _ ((if_neg (Nat.not_le.2 h)).trans ((if_neg (not_not_intro hpart)).trans (if_pos hcount)))

theorem exec_qappWork_closed (hcount : appendCount s b c ≠ 0) (hen : (namedWork s b a).en = false) :
    exec (.qappWork d a c) s = .next (retireG s b d 0) := by
  have hcond : (!(namedWork s b a).en) = true := by rw [hen]; rfl
  show execQappWork d a c s = _
  rw [execQappWork, runSq_supervisor_fenced hr hp ho]
  exact congrArg _ ((if_neg (Nat.not_le.2 h)).trans ((if_neg (not_not_intro hpart)).trans ((if_neg hcount).trans (if_pos hcond))))

theorem exec_qappWork_rings (hcount : appendCount s b c ≠ 0) (hen : (namedWork s b a).en = true) :
    exec (.qappWork d a c) s = .next (retireG (ringDoorbell s (BitVec.ofNat 12 ((s.sq b).getG a).toNat) ((namedWork s b a).tail + appendCount s b c)) b d
      (((namedWork s b a).tail + appendCount s b c).setWidth 64)) := by
  have hcond : ¬ (!(namedWork s b a).en) = true := by rw [hen]; decide
  show execQappWork d a c s = _
  rw [execQappWork, runSq_supervisor_fenced hr hp ho]
  exact congrArg _ ((if_neg (Nat.not_le.2 h)).trans ((if_neg (not_not_intro hpart)).trans ((if_neg hcount).trans (if_neg hcond))))

end

/-- A doorbell that neither goes back nor runs 2^31 records ahead moves TAIL (R160). -/
theorem ringDoorbell_moves {s : State} {q : BitVec 12} {tail : Word} (hlo : (s.queue q).acc.toNat ≤ tail.toNat)
    (hhi : tail.toNat ≤ (s.queue q).acc.toNat + 2 ^ 31) : ringDoorbell s q tail = s.setQueue q { s.queue q with tail := tail } :=
  if_neg (not_or.2 ⟨Nat.not_lt.2 hlo, Nat.not_lt.2 hhi⟩)

/-! ## Translations (R408, R421) -/

theorem tlbDrop_nil (part va n : Nat) : tlbDrop [] part va n = [] := rfl

section
variable {s : State} {part va n : Nat}

theorem site_dropTranslations (h : tabRising none s.sites = true) (m : SiteNo) :
    (dropTranslations s part va n).site m = { s.site m with xtc := tlbDrop (s.site m).xtc part va n } :=
  tabGet_rewritten (g := fun r : Site => { r with xtc := tlbDrop r.xtc part va n }) _ rfl h

theorem sq_dropTranslations (h : tabRising none s.sqs = true) (k : BitVec 6) :
    (dropTranslations s part va n).sq k = { s.sq k with tlb := tlbDrop (s.sq k).tlb part va n } :=
  tabGet_rewritten (g := fun r : Sq => { r with tlb := tlbDrop r.tlb part va n }) _ rfl h

theorem shootDown_sqs_rising (h : tabRising none s.sqs = true) : tabRising none (shootDown s part va n).sqs = true :=
  tabRising_foldl_tabSet (d := Sq.reset) (fun _ (q : Sq) => { q with tlb := tlbDrop q.tlb part va n }) s.sqs h

/-- What a shoot-down leaves of caches, memory and generation. -/
theorem shootDown_site (h : tabRising none s.sites = true) (m : SiteNo) :
    (shootDown s part va n).site m = { s.site m with xtc := tlbDrop (s.site m).xtc part va n } := site_dropTranslations h m

theorem shootDown_sq (h : tabRising none s.sqs = true) (k : BitVec 6) :
    (shootDown s part va n).sq k = { s.sq k with tlb := tlbDrop (s.sq k).tlb part va n } := sq_dropTranslations h k

theorem shootDown_part (h : tabRising none s.parts = true) :
    (shootDown s part va n).part part = { s.part part with gen := (s.part part).gen + 1 } := tabGet_tabSet_same h

end

/-- The machine after `tlbi` has dropped translations of the block's sites. -/
def droppedNear (s : State) (b : BitVec 6) (lo n : Nat) : State :=
  { s with sites := s.sites.foldl (fun t p => tabSet t p.1 (if decide (siteBlock (BitVec.ofNat 13 p.1) = b.toNat)
      then { p.2 with xtc := tlbDrop p.2.xtc (s.sq b).part.toNat lo n } else p.2) Site.reset) [] }

theorem site_droppedNear {s : State} (h : tabRising none s.sites = true) (b : BitVec 6) (lo n : Nat) (m : SiteNo) :
    (droppedNear s b lo n).site m =
      if siteBlock m = b.toNat then { s.site m with xtc := tlbDrop (s.site m).xtc (s.sq b).part.toNat lo n } else s.site m := by
  refine (tabGet_rebuilt_keyed (g := fun k r => if decide (siteBlock (BitVec.ofNat 13 k) = b.toNat)
      then { r with xtc := tlbDrop r.xtc (s.sq b).part.toNat lo n } else r) _
      (show (if _ then Site.reset else Site.reset) = Site.reset from ite_self _) h).trans ?_
  simp only [BitVec.ofNat_toNat, BitVec.setWidth_eq, decide_eq_true_eq]
  rfl

/-- A sequencer's own caches without a range. -/
def droppedOwn (part lo n : Nat) (q : Sq) : Sq := { q with tlb := tlbDrop q.tlb part lo n, icache := icacheDrop q.icache lo n }

section
variable {s : State} {b : BitVec 6} {a c : BitVec 5} (hr : Claims.Runs s b) (hp : (s.sq b).priv = true)
include hr hp

theorem exec_tlbi_unlisted (h : 2 ^ 57 ≤ ((s.sq b).getG a).toNat) : exec (.tlbi a c) s = .next (takeTrap s b 4 1 0) := by
  show execTlbi a c s = _
  rw [execTlbi, runSq_supervisor hr hp]
  exact congrArg _ (if_pos h)

theorem exec_tlbi_drops (h : ((s.sq b).getG a).toNat < 2 ^ 57) :
    let r := pageRange ((s.sq b).getG a).toNat ((s.sq b).getG c).toNat
    exec (.tlbi a c) s = .next (retire (droppedNear s b r.1 r.2) b (fun q => droppedOwn q.part.toNat r.1 r.2 q)) := by
  show execTlbi a c s = _
  rw [execTlbi, runSq_supervisor hr hp]
  exact congrArg _ (if_neg (Nat.not_le.2 h))

variable (ho : Claims.Ordered s b)
include ho

theorem exec_shdn_unlisted (h : 2 ^ 57 ≤ ((s.sq b).getG a).toNat) : exec (.shdn a c) s = .next (takeTrap s b 4 1 0) := by
  show execShdn a c s = _
  rw [execShdn, runSq_supervisor_fenced hr hp ho]
  exact congrArg _ (if_pos h)

variable (h : ((s.sq b).getG a).toNat < 2 ^ 57)
include h

theorem exec_shdn_waits (hbusy : genBusy s (s.sq b).part.toNat = true) : exec (.shdn a c) s = .next (stayWithin s b) := by
  show execShdn a c s = _
  rw [execShdn, runSq_supervisor_fenced hr hp ho]
  exact congrArg _ ((if_neg (Nat.not_le.2 h)).trans (if_pos hbusy))

theorem exec_shdn_drops (hfree : genBusy s (s.sq b).part.toNat = false) :
    let r := pageRange ((s.sq b).getG a).toNat ((s.sq b).getG c).toNat
    exec (.shdn a c) s = .next (retire (shootDown s (s.sq b).part.toNat r.1 r.2) b (fun q => { q with icache := icacheDrop q.icache r.1 r.2 })) := by
  show execShdn a c s = _
  rw [execShdn, runSq_supervisor_fenced hr hp ho]
  exact congrArg _ ((if_neg (Nat.not_le.2 h)).trans (if_neg (by rw [hfree]; decide)))

end

/-! ## Sealing and debug requests (R380, R401, R404) -/

section
variable {s : State} {b : BitVec 6} {d a c : BitVec 5} (hr : Claims.Runs s b) (hp : (s.sq b).priv = true)
include hr hp

theorem exec_sealRange_fails (ho : Claims.Ordered s b) {k : Nat} {l : List Walked} (hk : k ≠ 0)
    (hs : sealStatus s (s.sq b).part.toNat ((s.sq b).getG a).toNat ((s.sq b).getG c).toNat = (k, l)) :
    exec (.sealRange d a c) s = .next (retireG s b d (BitVec.ofNat 64 k)) := by
  show execSealRange d a c s = _
  rw [execSealRange, runSq_supervisor_fenced hr hp ho]
  simp only [hs]

theorem exec_sealRange_seals (ho : Claims.Ordered s b) {l : List Walked} (hfree : genBusy s (s.sq b).part.toNat = false)
    (hs : sealStatus s (s.sq b).part.toNat ((s.sq b).getG a).toNat ((s.sq b).getG c).toNat = (0, l)) :
    exec (.sealRange d a c) s = .next (retireG (sealLeaves s (s.sq b).part.toNat ((s.sq b).getG a).toNat ((s.sq b).getG c).toNat l) b d
      (BitVec.ofNat 64 (2 ^ 32 * (s.part (s.sq b).part.toNat).seals.length + if sealUnread s l then 5 else 0))) := by
  show execSealRange d a c s = _
  rw [execSealRange, runSq_supervisor_fenced hr hp ho]
  simp only [hs, hfree, Bool.false_eq_true, if_false]

omit hr hp in
/-- A descriptor in the local data RAM that does not cross its end is a local place. -/
theorem localPlace_inRam {x : DWord} (hx : Claims.inRam x) (h8 : x.toNat % 8 = 0) : localPlace s b x 16 8 = .ok (.ram (x.toNat % 4096)) := by
  unfold Claims.inRam at hx
  have htop : x.toNat / 2 ^ 60 = 0xE := by omega
  have hmid : bits x.toNat 12 48 = 0 := by simp only [bits]; omega
  simp only [localPlace, sqPlace, htop, hmid, h8, ne_eq, not_true_eq_false, if_false, if_true]

omit hr hp in
/-- STATUS of a descriptor in the local data RAM. -/
theorem blockWrite_status {x : DWord} (hx : Claims.inRam x) (hend : x.toNat % 4096 + 16 ≤ 4096) :
    (blockWrite s b (x.toNat + 8) 2 0).1 = { s with lram := memSetNat s.lram (b.toNat * 4096 + (x.toNat + 8) % 4096) 2 0 } := by
  unfold Claims.inRam at hx
  rw [blockWrite, if_pos (by omega)]
  rfl

/-- A debug request for a descriptor in the local data RAM goes to the PC with STATUS 0. -/
theorem passDebug_inRam (resume : Bool) (hx : Claims.inRam ((s.sq b).getG a)) (h8 : ((s.sq b).getG a).toNat % 8 = 0)
    (hend : ((s.sq b).getG a).toNat % 4096 + 16 ≤ 4096) :
    let x := ((s.sq b).getG a).toNat
    runSq s (passDebug a resume) = .next (serveAll (retire (State.modPlat { s with lram := memSetNat s.lram (b.toNat * 4096 + (x + 8) % 4096) 2 0 }
      (fun p => { p with dbgReqs := p.dbgReqs ++ [{ blk := b.toNat, part := (s.sq b).part.toNat, addr := x, resume := resume, uid := none }] })) b id)) := by
  intro x
  rw [runSq_of_runs hr, passDebug, supervisorOnly_supervisor hp]
  simp only [localPlace_inRam hx h8, blockWrite_status hx hend]
  rfl

end

/-- Settles O40: each form behind its fence, with the caches, queues and memory it leaves. -/
theorem fabricRequests : Obligations.FabricRequests := by
  unfold Obligations.FabricRequests
  intro s b d a c hr q x w num count part sup answers traps
  have htrap : ∀ sub : BitVec 8, takeTrap s b 4 sub 0 = s.setSq b (Claims.trapped q q.pc 4 sub.toNat 0) := fun sub => takeTrap_eq ..
  refine ⟨fun ho h => (exec_tsk_misaligned hr ho h).trans (congrArg _ (htrap 3)), fun ho h hpart => (exec_tsk_foreign hr ho h hpart).trans (congrArg _ (htrap 6)),
    fun ho h hpart hclosed => exec_tsk_closed hr ho h hpart hclosed, ?_, fun hp ho h => (exec_qappWork_unlisted hr hp ho h).trans (congrArg _ (htrap 1)),
    fun hp ho h hpart => (exec_qappWork_foreign hr hp ho h hpart).trans (congrArg _ (htrap 6)),
    fun hp ho h hpart hcount => exec_qappWork_none hr hp ho h hpart (appendCount_eq_zero.2 hcount), ?_, ?_,
    fun hp h => ⟨(exec_tlbi_unlisted hr hp h).trans (congrArg _ (htrap 1)), fun ho => (exec_shdn_unlisted hr hp ho h).trans (congrArg _ (htrap 1))⟩, ?_,
    fun hp ho h hbusy => exec_shdn_waits hr hp ho h hbusy, fun k l hp ho hs hk => exec_sealRange_fails hr hp ho hk hs, ?_, ?_⟩
  · intro u r ho h hpart hen hhalt hheld hread t t'
    rw [exec_tsk_accepts hr ho h hpart hen hhalt hheld hread, ← BitVec.ofNat_toNat]
    rfl
  · exact fun hp ho h hpart hcount hen => exec_qappWork_closed hr hp ho h hpart (mt appendCount_eq_zero.1 (Nat.pos_iff_ne_zero.1 hcount)) hen
  · intro hp ho h hpart hcount hen tail hlo hhi
    have htail : (namedWork s b a).tail + appendCount s b c = tail := by rw [appendCount_eq]; rfl
    rw [exec_qappWork_rings hr hp ho h hpart (mt appendCount_eq_zero.1 (Nat.pos_iff_ne_zero.1 hcount)) hen, htail, ringDoorbell_moves hlo hhi,
      ← BitVec.ofNat_toNat]
    rfl
  · intro hp h hsqs hsites r alone
    refine ⟨⟨_, exec_tlbi_drops hr hp h, sq_modSq_same hsqs, fun k hk => sq_modSq_other hsqs hk, rfl, rfl, site_droppedNear hsites b r.1 r.2⟩,
      fun ho hfree hparts => ⟨_, exec_shdn_drops hr hp ho h hfree, ?_, fun k hk => ?_, ?_, shootDown_site hsites, shootDown_part hparts⟩⟩
    · refine (sq_modSq_same (shootDown_sqs_rising hsqs)).trans ?_
      rw [shootDown_sq hsqs]
      rfl
    · exact (sq_modSq_other (shootDown_sqs_rising hsqs) hk).trans (shootDown_sq hsqs k)
    · rfl
  · intro l hp ho hs hfree t
    rw [exec_sealRange_seals hr hp ho hfree hs]
    rfl
  · intro hp hx h8 hend req asked
    exact ⟨passDebug_inRam hr hp false hx h8 hend, passDebug_inRam hr hp true hx h8 hend⟩

end Sys2Proof.Proofs

namespace Sys2Proof.Proofs
open Sys2Proof.Machine

/-! ## An insertion over a table of row errors that lists a row twice (O35)

`Claims.Clean` asks that every row reads as free of errors, not that the table of row errors is in its form. `probe` inserts a key by two
writes into one row. Where the table lists that row twice, with 0 and then with 2, the write of the key drops the entry 0, so the write
of the value finds the row uncorrectable and rebuilds it from the parity row (R206): the key is lost. -/

/-- The key 99, and its value. -/
def newKey : Token := Tests.addrT 2 99
def newValue : Token := Tests.tok Tests.payA 0xFFFF

/-- A node that inserts the key into an empty slot, and the address of the slot. -/
def insertV : AgnView := Tests.nodeV (Tests.probeS 1 99 emptyKey [newKey, newValue]) 327 7 (Tests.probeImm 1)
def slotAt : Nat := insertV.base + 16 * Claims.firstSlot insertV 99

/-- The key of the slot's row in the table of row errors. -/
def slotRow : Nat := bankOf 0 slotAt * 2048 + rowOf slotAt

/-- That node, over a table that lists the row twice. -/
def insertS : State :=
  { Tests.probeS 1 99 emptyKey [newKey, newValue] with
    sites := [(4, { Tests.reconOff with ax := { Tests.reconOff.ax with errs := [(slotRow, 0), (slotRow, 2)] } })] }
def insertView : AgnView := Tests.nodeV insertS 327 7 (Tests.probeImm 1)

theorem rowError_insertS (b r : Nat) : rowError (axOf insertS 4) b r = 0 := by
  change tabGet [(slotRow, 0), (slotRow, 2)] (b * 2048 + r) 0 = 0
  simp only [tabGet]
  split
  · rfl
  · split <;> rfl

theorem clean_insertS : Claims.Clean insertS 4 := ⟨rfl, fun _ => rfl, rowError_insertS, rfl⟩

theorem ready_insertS : Claims.NodeReady insertS insertView 327 [newKey, newValue] := Tests.nodeReady_sound (by decide +kernel)

/-- The key is the token's only one. -/
theorem onlyAddress_newKey : Claims.onlyAddress newKey 2 99 := by
  unfold Claims.onlyAddress
  decide +kernel

/-- The slot lies in the program range, at a multiple of 16, and is empty. -/
theorem slot_insertS : slotAt % 16 = 0 ∧ inRange insertS 4 slotAt 16 = true ∧ Claims.tileNat insertS insertView slotAt 8 = 0x8000000000000000 := by
  decide +kernel

/-- What the model leaves in the slot is not the key. -/
theorem key_lost : Claims.tileNat (Tests.next (exec (.probe insertView.w) insertS)) insertView slotAt 8 ≠ 99 := by decide +kernel

/-- Refutes O35: with the row listed twice in the table of row errors, `probe` rebuilds the row before it writes the value, and the slot does
not hold the key. -/
theorem not_nodeTables : ¬ Obligations.NodeTables := by
  unfold Obligations.NodeTables
  intro h
  obtain ⟨-, hprobe, -⟩ := h insertS insertView newKey newValue clean_insertS (by decide +kernel) rfl rfl
  obtain ⟨haligned, hrange, hempty⟩ := slot_insertS
  obtain ⟨-, -, hinsert, -⟩ := hprobe 2 99 onlyAddress_newKey (by decide) (by decide) (by decide) haligned hrange rfl
  obtain ⟨u, -, hkey, -, r, -, -, hdone⟩ := hinsert ready_insertS (by decide) (by decide +kernel) hempty
  have hnext : Tests.next (exec (.probe insertView.w) insertS) =
      applyAgn u insertView newKey (agnInputs insertView) (.done insertView.op (insertView.result r ++ insertView.completion newKey false) false) :=
    congrArg Tests.next hdone
  have hspad : (Tests.next (exec (.probe insertView.w) insertS)).spad = u.spad := hnext ▸ applyAgn_done_spad ..
  refine key_lost ?_
  simp only [Claims.tileNat, Claims.tileByte, hspad]
  exact hkey

end Sys2Proof.Proofs

namespace Sys2Proof.Proofs
open Sys2Proof.Machine

/-! ## Host windows (R307) -/

section
variable {s : State} {off : BitVec 36}

/-- The address and the partition that an offset reaches through its aperture. -/
def apertureAddr (s : State) (off : BitVec 36) : Nat := Claims.field (wapOf s off) 32 25 * 2 ^ 32 + off.toNat % 2 ^ 32
def aperturePart (s : State) (off : BitVec 36) : Nat := Claims.field (wapOf s off) 1 8

theorem windowAddr_closed (h : (wapOf s off).getLsbD 0 = false) : windowAddr s off = none :=
  if_neg (by rw [bitSet_toNat, h]; exact Bool.false_ne_true)

theorem windowAddr_open (h : (wapOf s off).getLsbD 0 = true) : windowAddr s off = some (apertureAddr s off, aperturePart s off) :=
  if_pos (by rw [bitSet_toNat, h])

/-- A request of the host through the aperture of an offset. -/
def windowRequest (s : State) (off : BitVec 36) (data : List Byte) (len : Nat) (write posted : Bool) : HostReq :=
  { off := apertureAddr s off, data := data, len := len, write := write, posted := posted, fseq := 0, part := aperturePart s off, time := s.time }

theorem hostRequest_open (h : (wapOf s off).getLsbD 0 = true) (data : List Byte) (len : Nat) (write posted : Bool) :
    hostRequest s off data len write posted = startHost s (windowRequest s off data len write posted) := by
  simp only [hostRequest, windowAddr_open h, windowRequest]

/-- The host receives a completer abort. -/
def abortedHost (s : State) : State := { s with plat := { s.plat with answers := s.plat.answers ++ [.abort] } }

theorem exec_hostWindowWrite_closed (h : (wapOf s off).getLsbD 0 = false) (data : List Byte) (posted : Bool) :
    exec (.hostWindowWrite off data posted) s = .next (if posted then s.log (.windowDropped off.toNat) else abortedHost s) := by
  show execHostWindowWrite off data posted s = _
  simp only [execHostWindowWrite, hostRequest, windowAddr_closed h]
  rfl

theorem exec_hostWindowRead_closed (h : (wapOf s off).getLsbD 0 = false) (n : Nat) : exec (.hostWindowRead off n) s = .next (abortedHost s) := by
  show execHostWindowRead off n s = _
  simp only [execHostWindowRead, hostRequest, windowAddr_closed h]
  rfl

/-- With no other request under way, a request is tried at once. -/
theorem startHost_alone (h : s.plat.reqs = []) {r : HostReq} {u : State} (ht : tryHost s r = (u, none)) : startHost s r = u := by
  simp only [startHost, h, List.any_nil, Bool.false_eq_true, if_false, ht]

variable (hopen : (wapOf s off).getLsbD 0 = true) (hreqs : s.plat.reqs = [])
include hopen hreqs

theorem exec_hostWindowRead_open {n pa : Nat} {u : State} {l : List Tlb} (hn : 0 < n)
    (hx : translateRange s [] (aperturePart s off) readIntent (pagePieces (apertureAddr s off) n) = (u, l, .ok [(pa, n)])) :
    exec (.hostWindowRead off n) s = .next (answerHost (touch u pa n) (.data (memBytes u.dmem pa n))) := by
  have htry : tryHost s (windowRequest s off [] n false false) = (answerHost (touch u pa n) (.data (memBytes u.dmem pa n)), none) := by
    simp only [tryHost, windowRequest, Bool.false_eq_true, if_false, Nat.pos_iff_ne_zero.1 hn, hx, List.foldl_cons, List.foldl_nil, List.flatMap_cons,
      List.flatMap_nil, List.append_nil]
  show execHostWindowRead off n s = _
  rw [execHostWindowRead, hostRequest_open hopen, startHost_alone hreqs htry]

theorem exec_hostWindowWrite_open {data : List Byte} {posted : Bool} {pa : Nat} {u : State} {l : List Tlb} (hdata : data ≠ [])
    (hx : translateRange s [] (aperturePart s off) writeIntent (pagePieces (apertureAddr s off) data.length) = (u, l, .ok [(pa, data.length)])) :
    exec (.hostWindowWrite off data posted) s = .next (let v := commitBytes u (aperturePart s off) pa data
      if posted then v else answerHost v (.data [])) := by
  have htry : tryHost s (windowRequest s off data data.length true posted) =
      (if posted then commitBytes u (aperturePart s off) pa data else answerHost (commitBytes u (aperturePart s off) pa data) (.data []), none) := by
    simp only [tryHost, windowRequest, if_true, List.length_eq_zero_iff, hdata, if_false, hx, List.foldl_cons, List.foldl_nil, List.take_length]
  show execHostWindowWrite off data posted s = _
  rw [execHostWindowWrite, hostRequest_open hopen, startHost_alone hreqs htry]

end

/-- A write of the host, where no task and no channel looks on. -/
theorem hostWindowWrite_spec {u : State} (hu : Claims.Unobserved u) (hm : memWf u.dmem = true) (part pa : Nat) (data : List Byte) (posted : Bool) :
    ∃ t : State, (let v := commitBytes u part pa data
        if posted then v else answerHost v (.data [])) = t ∧
      t = { u with dmem := t.dmem, touched := t.touched, bad := t.bad
                   plat := if posted then u.plat else { u.plat with answers := u.plat.answers ++ [.data []] } } ∧
      memBytes t.dmem pa data.length = data ∧ ∀ k, (k < pa ∨ pa + data.length ≤ k) → memByte t.dmem k = memByte u.dmem k := by
  have hstored := commitBytes_unobserved hu part pa data
  have hdmem : (commitBytes u part pa data).dmem = memSetBytes u.dmem pa data := (storedTo_fields hstored).1
  generalize commitBytes u part pa data = v at hstored hdmem
  refine ⟨_, rfl, ?_, ?_, fun k hk => ?_⟩
  · cases posted <;> (rw [hstored]; rfl)
  · have hd : (if posted then v else answerHost v (.data [])).dmem = memSetBytes u.dmem pa data := by
      cases posted <;> exact hdmem
    exact (congrArg (memBytes · pa data.length) hd).trans (memBytes_memSetBytes hm)
  · have hd : (if posted then v else answerHost v (.data [])).dmem = memSetBytes u.dmem pa data := by
      cases posted <;> exact hdmem
    exact (congrArg (memByte · k) hd).trans (memByte_memSetBytes_outside hm hk)

theorem exec_hostRequestTimeout {s : State} {r : HostReq} (h : s.plat.reqs = [r]) (hposted : r.posted = false) (hseq : r.fseq ≠ 0)
    (hpending : faultStatus s r.part r.fseq = 0) : exec .hostRequestTimeout s = .next (if r.time + 20000000 ≤ s.time
      then { s with plat := { s.plat with reqs := [], answers := s.plat.answers ++ [.abort] } } else s) := by
  have hdue : hostOverdue s r = true ↔ r.time + 20000000 ≤ s.time := by
    rw [hostOverdue, hposted, hpending, bne_iff_ne.2 hseq]
    simp only [Bool.not_false, Bool.true_and, beq_self_eq_true, decide_eq_true_iff]
  have herase : s.plat.reqs.erase r = [] := by rw [h, List.erase_cons_head]
  show execHostRequestTimeout s = _
  rw [execHostRequestTimeout, h, List.find?_cons]
  cases hlate : hostOverdue s r with
  | true =>
    rw [if_pos (hdue.1 hlate), ← herase]
    rfl
  | false =>
    rw [if_neg (fun hle => absurd (hdue.2 hle) (by rw [hlate]; exact Bool.false_ne_true))]
    rfl

/-! ## Time, sensors and margins (R5, R232, R233, R312, R314) -/

section
variable {s : State}

/-- Device time after TIME_SYNC (R312). -/
def syncedTime (s : State) (m : DWord) : Nat :=
  if s.plat.state = 2 then min (max m.toNat s.time) (s.time + (s.time - s.plat.lastSync) * 200 / 1000000) else m.toNat

theorem exec_timeSync (m : DWord) : exec (.timeSync m) s =
    .next { s with time := syncedTime s m, plat := { s.plat with lastSync := syncedTime s m, synclost := false } } := rfl

theorem syncedTime_ready (h : s.plat.state = 2) (m : DWord) : s.time ≤ syncedTime s m ∧
    (syncedTime s m - s.time) * 1000000 ≤ (s.time - s.plat.lastSync) * 200 ∧ (s.time ≤ m.toNat → syncedTime s m ≤ m.toNat) := by
  rw [syncedTime, if_pos h]
  omega

theorem exec_synclost : exec .synclost s =
    .next { s with plat := if s.plat.lastSync + 10000000000 ≤ s.time then { s.plat with synclost := true } else s.plat } := by
  show execSynclost s = _
  rw [execSynclost]
  split <;> rfl

theorem exec_sensorPoll (hot : BitVec 4) : exec (.sensorPoll hot) s =
    .next { s with plat := { s.plat with rateLim := hot ≠ 0, limited := s.plat.limited || decide (hot ≠ 0) } } := by
  have hne : (hot != 0) = decide (hot ≠ 0) := Bool.eq_iff_iff.2 (by rw [bne_iff_ne, decide_eq_true_iff])
  show execSensorPoll hot s = _
  rw [execSensorPoll, hne]
  rfl

theorem exec_powerWindow (watts : BitVec 12) : exec (.powerWindow watts) s =
    .next { s with plat := { s.plat with noww := watts, limited := s.plat.rateLim || decide (s.plat.capw.toNat < watts.toNat) } } := rfl

/-- A replan that retires one tile of its die (R233). -/
theorem exec_guardbandReplan {die : BitVec 2} {mv : BitVec 8} {ps : BitVec 16} {tile : SiteNo} (hex : siteExists tile = true)
    (hdie : tile.extractLsb' 11 2 = die) (h : tabRising none s.sites = true) : ∃ u,
    exec (.guardbandReplan die mv ps [tile]) s = .next u ∧ Claims.onlySite { s with plat := u.plat } u tile { s.site tile with retiredTile := true } ∧
    u.plat = { s.plat with retire := true, pclog := s.plat.pclog ++ [.retiredTile tile.toNat]
                           guard := s.plat.guard ++ [{ time := s.time, die := die.toNat, mv := min mv.toNat 60, ps := ps.toNat, tiles := 1 }]
                           supply := tabSet s.plat.supply die.toNat (min mv.toNat 60) 0, planned := s.time } := by
  have hbad : [tile].filter (fun t => siteExists t && t.extractLsb' 11 2 == die) = [tile] := by
    rw [List.filter_cons_of_pos (by rw [hex, hdie, beq_self_eq_true]; rfl), List.filter_nil]
  refine ⟨_, rfl, ?_⟩
  simp only [replanDie, hbad, List.foldl_cons, List.foldl_nil, List.length_cons, List.length_nil]
  exact ⟨⟨rfl, site_setSite_same h, fun m hm => site_setSite_other h hm⟩, rfl⟩

end

end Sys2Proof.Proofs

namespace Sys2Proof.Proofs
open Sys2Proof.Machine

/-! ## Halting a sequencer (R106) -/

/-- A sequencer with no arrival and no store on its way. -/
def Idle (s : State) (b : BitVec 6) : Prop := (s.sq b).arrival = none ∧ (s.sq b).pend = []

theorem withdraw_none {s : State} {b : BitVec 6} (h : (s.sq b).arrival = none) : withdraw s b = s := by
  simp only [withdraw, h]

theorem freeLoader_ports_rising (s : State) (b : BitVec 6) : tabRising none (freeLoader s b).ports = true :=
  tabRising_foldl_tabSet (d := CfgPort.reset) (fun _ (p : CfgPort) => if p.owner = 2 + b.toNat then CfgPort.reset else p) s.ports rfl

/-- The elements that a loader holds are let go. -/
theorem port_freeLoader {s : State} (h : tabRising none s.ports = true) (b : BitVec 6) (ea : EAddr) :
    (freeLoader s b).port ea = if (s.port ea).owner = 2 + b.toNat then CfgPort.reset else s.port ea :=
  tabGet_rebuilt_keyed (g := fun _ (p : CfgPort) => if p.owner = 2 + b.toNat then CfgPort.reset else p) _
    (show (if _ then CfgPort.reset else CfgPort.reset) = CfgPort.reset from ite_self _) h

/-- A partition reset brings a sequencer to its reset state. -/
def resetSq (s : State) (b : BitVec 6) : State := (haltSq s b).setSq b Sq.reset

/-- What resetting sequencers leaves of the others. -/
structure SqsReset (s u : State) (l : List (BitVec 6)) : Prop where
  frame : u = { s with sqs := u.sqs, ports := u.ports }
  sqs   : tabRising none u.sqs = true
  ports : tabRising none u.ports = true
  sq    : ∀ c, u.sq c = if c ∈ l then Sq.reset else s.sq c
  port  : ∀ ea, u.port ea = if ∃ c ∈ l, (s.port ea).owner = 2 + c.toNat then CfgPort.reset else s.port ea

section
variable {s : State}

theorem resetSq_idle {b : BitVec 6} (h : Idle s b) :
    resetSq s b = ((freeLoader s b).modSq b (fun q => { Sq.reset with evSeq := q.evSeq, evHeld := q.evHeld, failed := q.failed })).setSq b Sq.reset := by
  obtain ⟨harrival, hpend⟩ := h
  have hpend' : ((freeLoader s b).sq b).pend = [] := hpend
  rw [resetSq, haltSq, withdraw_none harrival, performAll_none hpend']

theorem resetSq_spec {b : BitVec 6} (h : Idle s b) (hs : tabRising none s.sqs = true) (hp : tabRising none s.ports = true) :
    SqsReset s (resetSq s b) [b] := by
  have hmid : tabRising none ((freeLoader s b).modSq b
      (fun q => { Sq.reset with evSeq := q.evSeq, evHeld := q.evHeld, failed := q.failed })).sqs = true := tabSet_risingNone hs
  rw [resetSq_idle h]
  refine ⟨rfl, tabSet_risingNone hmid, freeLoader_ports_rising s b, fun c => ?_, fun ea => ?_⟩
  · by_cases hc : c = b
    · rw [hc, sq_setSq_same hmid, if_pos (List.mem_singleton.2 rfl)]
    · rw [sq_setSq_other hmid hc, if_neg (fun hm => hc (List.mem_singleton.1 hm))]
      exact sq_setSq_other hs hc
  · refine (port_freeLoader hp b ea).trans ?_
    simp only [List.mem_singleton, exists_eq_left]

theorem SqsReset.idle {u : State} {l : List (BitVec 6)} (h : SqsReset s u l) (hi : ∀ b, Idle s b) (b : BitVec 6) : Idle u b := by
  rw [Idle, h.sq]
  split
  · exact ⟨rfl, rfl⟩
  · exact hi b

theorem SqsReset.cons {t u : State} {b : BitVec 6} {l : List (BitVec 6)} (h : SqsReset s t [b]) (h' : SqsReset t u l) : SqsReset s u (b :: l) := by
  refine ⟨by rw [h'.frame, h.frame], h'.sqs, h'.ports, fun c => ?_, fun ea => ?_⟩
  · rw [h'.sq, h.sq]
    simp only [List.mem_cons]
    by_cases hc : c ∈ l <;> simp [hc]
  · rw [h'.port, h.port]
    by_cases hb : (s.port ea).owner = 2 + b.toNat
    · simp [hb]
    · simp [hb]

/-- Sequencers reset one after the other. -/
theorem foldl_resetSq (l : List (BitVec 6)) : ∀ {s : State}, (∀ b, Idle s b) → tabRising none s.sqs = true → tabRising none s.ports = true →
    SqsReset s (l.foldl resetSq s) l := by
  induction l with
  | nil => exact fun _ hs hp => ⟨rfl, hs, hp, fun c => by simp, fun ea => by simp⟩
  | cons b l ih =>
    intro s hi hs hp
    have hb := resetSq_spec (hi b) hs hp
    exact hb.cons (ih (hb.idle hi) hb.sqs hb.ports)

end

/-! ## Reset and destruction of a partition (R106, R132) -/

section
variable {s : State} (n : BitVec 8)

theorem mem_namedBlocks (b : BitVec 6) : b ∈ namedBlocks s n none ↔ Claims.named s n none b :=
  ⟨fun h => ⟨h, fun _ hc => nomatch hc⟩, fun ⟨h, _⟩ => h⟩

/-- The machine after a partition reset. -/
def resetPartition (s : State) (n : BitVec 8) : State :=
  ((namedBlocks s n none).foldl resetSq s).modPart n.toNat (fun p => { p with cutno := 0 })

theorem exec_partitionReset : exec (.partitionReset n) s = .next (resetPartition s n) := rfl

theorem resetPartition_frame {u : State} {l : List (BitVec 6)} (h : SqsReset s u l) :
    u.modPart n.toNat (fun p => { p with cutno := 0 }) = { s.setPart n.toNat { s.part n.toNat with cutno := 0 } with sqs := u.sqs, ports := u.ports } := by
  rw [h.frame]; rfl

/-- Frames that the sealing log of a partition names. -/
def sealedFrames (s : State) (n : BitVec 8) : List Nat := (s.part n.toNat).sealedVa.flatMap (fun r => framesOf r.2.2 r.2.1)

/-- The machine after the destruction of a partition. -/
def destroyed (s : State) (n : BitVec 8) : State :=
  { s.setPart n.toNat { s.part n.toNat with seals := [], sealedVa := [] } with
    dmem := s.dmem.filter (fun c => !(sealedFrames s n).contains (c.1 / 4096))
    sealed := s.sealed.filter (fun f => !(sealedFrames s n).contains f) }

theorem exec_partitionDestroy : exec (.partitionDestroy n) s = .next (destroyed s n) := rfl

theorem sealed_destroyed : (destroyed s n).sealed = s.sealed.filter (fun f => decide (f ∉ sealedFrames s n)) := by
  refine List.filter_congr fun f _ => ?_
  rw [List.contains_eq_mem, decide_not]

theorem destroyed_frame : destroyed s n = { s.setPart n.toNat { s.part n.toNat with seals := [], sealedVa := [] } with
    dmem := (destroyed s n).dmem, sealed := s.sealed.filter (fun f => decide (f ∉ sealedFrames s n)) } := by
  rw [← sealed_destroyed]
  rfl

/-- The frames that were sealed are filled with zero. -/
theorem dmem_destroyed (h : memWf s.dmem = true) (a : Nat) :
    memByte (destroyed s n).dmem a = if a / 4096 ∈ sealedFrames s n then 0 else memByte s.dmem a := by
  refine (tabGet_filter_key (P := fun k => !(sealedFrames s n).contains (k / 4096)) a (memWf_rising h)).trans ?_
  by_cases ha : a / 4096 ∈ sealedFrames s n
  · rw [if_pos ha, if_neg (by simp [ha])]
    rfl
  · rw [if_neg ha, if_pos (by simp [ha])]
    rfl

end

end Sys2Proof.Proofs

namespace Sys2Proof.Proofs
open Sys2Proof.Machine

/-! ## Memories some of whose bytes are dropped -/

theorem tabRising_filter {α : Type} {P : Nat × α → Bool} : ∀ {t : Tab α} {lo : Option Nat}, tabRising lo t = true → tabRising lo (t.filter P) = true
  | [], _, _ => by cases ‹Option Nat› <;> rfl
  | p :: t, lo, h => by
    have htail : tabRising (some p.1) t = true := by
      cases lo with
      | none => exact h
      | some a =>
        simp only [tabRising, Bool.and_eq_true] at h
        exact h.2
    have ih : tabRising (some p.1) (t.filter P) = true := tabRising_filter htail
    by_cases hp : P p = true
    · rw [List.filter_cons_of_pos hp]
      cases lo with
      | none => exact ih
      | some a =>
        simp only [tabRising, Bool.and_eq_true] at h ⊢
        exact ⟨h.1, ih⟩
    · rw [List.filter_cons_of_neg hp]
      cases lo with
      | none => exact tabRising_none ih
      | some a =>
        simp only [tabRising, Bool.and_eq_true, decide_eq_true_eq] at h
        exact tabRising_weaken ih (Nat.le_of_lt h.1)

theorem memWf_filter {m : Memory} (P : Nat × Byte → Bool) (h : memWf m = true) : memWf (m.filter P) = true := by
  have h' := tabWf_iff.1 h
  exact tabWf_iff.2 ⟨tabRising_filter h'.1, fun p hp => h'.2 p (List.mem_filter.1 hp).1⟩

/-! ## What parts of a dump write (R231) -/

/-- The dump takes 256 MiB. -/
def dumpSize : Nat := 2 ^ 28

/-- Of the machine, only bytes of the dump from an offset on have changed, and the free values. -/
structure DumpedFrom (lo : Nat) (s u : State) : Prop where
  frame : u = { s with dmem := u.dmem, free := u.free }
  wf    : memWf s.dmem = true → memWf u.dmem = true
  other : memWf s.dmem = true → ∀ k, (k < dumpBase + lo ∨ dumpBase + dumpSize ≤ k) → memByte u.dmem k = memByte s.dmem k

section
variable {lo : Nat} {s t u : State}

theorem DumpedFrom.refl (lo : Nat) (s : State) : DumpedFrom lo s s := ⟨rfl, id, fun _ _ _ => rfl⟩

theorem DumpedFrom.trans (h : DumpedFrom lo s t) (h' : DumpedFrom lo t u) : DumpedFrom lo s u :=
  ⟨by rw [h'.frame, h.frame], fun hw => h'.wf (h.wf hw), fun hw k hk => (h'.other (h.wf hw) k hk).trans (h.other hw k hk)⟩

theorem DumpedFrom.weaken {lo' : Nat} (h : DumpedFrom lo s u) (hle : lo' ≤ lo) : DumpedFrom lo' s u :=
  ⟨h.frame, h.wf, fun hw k hk => h.other hw k (by omega)⟩

theorem dumpedFrom_dumpAt {off : Nat} {l : List Byte} (hlo : lo ≤ off) (hhi : off + l.length ≤ dumpSize) (s : State) : DumpedFrom lo s (dumpAt off l s) :=
  ⟨rfl, memSetBytes_wf, fun hw k hk => memByte_memSetBytes_outside hw (by omega)⟩

theorem dumpedFrom_foldl {α : Type} {f : State → α → State} (l : List α) (h : ∀ x ∈ l, ∀ s, DumpedFrom lo s (f s x)) :
    ∀ s, DumpedFrom lo s (l.foldl f s) := by
  induction l with
  | nil => exact DumpedFrom.refl lo
  | cons x l ih => exact fun s => (h x List.mem_cons_self s).trans (ih (fun y hy => h y (List.mem_cons_of_mem x hy)) _)

theorem dumpedFrom_zeroFill (s : State) :
    DumpedFrom 0 s (zeroFill s (fun a => decide (dumpBase ≤ a) && decide (a < dumpBase + 2 ^ 28))) := by
  refine ⟨rfl, memWf_filter _, fun hw k hk => (tabGet_filter_key (P := fun a => !(decide (dumpBase ≤ a) && decide (a < dumpBase + 2 ^ 28))) k
    (memWf_rising hw)).trans (if_pos ?_)⟩
  have hout : ¬ (dumpBase ≤ k ∧ k < dumpBase + 2 ^ 28) := by
    unfold dumpSize at hk
    omega
  rw [← Bool.decide_and, decide_eq_false hout]
  rfl

theorem dumpedFrom_freeBytes (n : Nat) (s : State) : DumpedFrom lo s (freeBytes s n).1 := ⟨rfl, id, fun _ _ _ => rfl⟩

end

/-! ## The sizes of the dump's parts -/

theorem length_flatMap_natToBytes (k : Nat) (l : List Nat) : (l.flatMap (natToBytes k)).length = l.length * k :=
  length_flatMap_uniform l fun x _ => length_natToBytes k x

theorem length_barrierBytes (b : Barrier) : b.bytes.length = 32 := by
  simp only [Barrier.bytes, List.length_append, length_natToBytes]

theorem length_statusBytes (s : State) (site : SiteNo) (k : Nat) : (statusBytes s site k).length = 64 := by
  have pad : ∀ l : List Nat, l.length ≤ 16 → (l.flatMap (natToBytes 4) ++ List.replicate (64 - 4 * l.length) (0 : Byte)).length = 64 := by
    intro l hl
    rw [List.length_append, length_flatMap_natToBytes, List.length_replicate]
    omega
  unfold statusBytes
  refine pad _ ?_
  split
  · simp
  · simp
  · split <;> simp
  · split <;> simp

theorem siteRow_lt (n : SiteNo) : siteRow n < 64 := by
  have hd := (n.extractLsb' 11 2).isLt
  have hy := (n.extractLsb' 6 5).isLt
  rw [siteRow]
  omega

theorem siteCol_lt (n : SiteNo) : siteCol n < 104 := by
  have hx := (n.extractLsb' 0 6).isLt
  rw [siteCol]
  omega

theorem length_saveBytes (s : State) (site : SiteNo) : (saveBytes s site).length = 65536 := by
  rw [saveBytes, List.length_map, List.length_range]

theorem length_fsaTiles : fsaTiles.length = 1024 := by
  rw [fsaTiles, List.length_map, List.length_range]

/-! ## The dump -/

/-- The first 32 bytes of the dump (Table 9-4). -/
def dumpHeader (s : State) (cause : Word) (ea : EAddr) : List Byte :=
  natToBytes 8 (bytesToNat [0x4F, 0x5A, 0x44, 0x55, 0x4D, 0x50, 0x30, 0x31]) ++ natToBytes 8 s.time ++ natToBytes 4 cause.toNat
    ++ natToBytes 2 ea.toNat ++ natToBytes 2 1 ++ natToBytes 8 s.plat.boots.toNat

theorem length_dumpHeader (s : State) (cause : Word) (ea : EAddr) : (dumpHeader s cause ea).length = 32 := by
  simp only [dumpHeader, List.length_append, length_natToBytes]

/-- The machine with the dump cleared and its header written. -/
def headed (s : State) (cause : Word) (ea : EAddr) : State :=
  dumpAt 0 (dumpHeader s cause ea) (zeroFill s (fun a => decide (dumpBase ≤ a) && decide (a < dumpBase + 2 ^ 28)))

section
variable (s : State)

/-- A log that is cut to n bytes. -/
theorem dumpedFrom_log (off n : Nat) (l : List Byte) (hlo : 0x1000 ≤ off) (hhi : off + n ≤ dumpSize) (s : State) :
    DumpedFrom 0x1000 s (dumpAt off (l.take n) s) :=
  dumpedFrom_dumpAt hlo (Nat.le_trans (Nat.add_le_add_left (List.length_take_le n l) off) hhi) s

theorem dumpedFrom_barriers (u : State) : DumpedFrom 0x1000 u (dumpAt 0x41000 ((List.range 4096).flatMap (fun i => (s.barrier i).bytes)) u) := by
  refine dumpedFrom_dumpAt (by decide) ?_ u
  rw [length_flatMap_uniform _ fun i _ => length_barrierBytes (s.barrier i), List.length_range]
  decide

/-- The status words of the sites. -/
theorem dumpedFrom_status (l : Tab Site) (u : State) : DumpedFrom 0x1000 u (l.foldl (fun u p =>
    let site := BitVec.ofNat 13 p.1
    if siteExists site then dumpAt (0x61000 + 256 * (80 * siteRow site + siteCol site)) ((List.range 4).flatMap (statusBytes s site)) u else u) u) := by
  refine dumpedFrom_foldl l (fun p _ u => ?_) u
  dsimp only
  split
  · refine dumpedFrom_dumpAt (by omega) ?_ u
    have hrow := siteRow_lt (BitVec.ofNat 13 p.1)
    have hcol := siteCol_lt (BitVec.ofNat 13 p.1)
    rw [length_flatMap_uniform _ fun k _ => length_statusBytes s _ k, List.length_range, dumpSize]
    omega
  · exact .refl _ u

theorem dumpedFrom_sensors (u : State) : DumpedFrom 0x1000 u (dumpAt 0x1A1000 (freeBytes u 65536).2 (freeBytes u 65536).1) := by
  refine (dumpedFrom_freeBytes 65536 u).trans (dumpedFrom_dumpAt (by decide) ?_ _)
  rw [freeBytes, List.length_map, List.length_range]
  decide

/-- The save areas of the tiles that a list names. -/
theorem dumpedFrom_saveAreas (live : List Nat) (u : State) : DumpedFrom 0x1000 u (fsaTiles.zipIdx.foldl (fun s p =>
    if live.contains p.1.toNat then dumpAt (0x1B1000 + 65536 * p.2) (saveBytes s p.1) s else s) u) := by
  refine dumpedFrom_foldl _ (fun p hp u => ?_) u
  have hlt : p.2 < 1024 := length_fsaTiles ▸ (List.mem_zipIdx' hp).1
  split
  · refine dumpedFrom_dumpAt (by omega) ?_ u
    rw [length_saveBytes, dumpSize]
    omega
  · exact .refl _ u

/-- Between its header and its last word the dump writes at offset 0x1000 and above. -/
theorem writeDump_eq (cause : Word) (ea : EAddr) :
    ∃ t, DumpedFrom 0x1000 (headed s cause ea) t ∧ writeDump s cause ea [] = dumpAt 32 (natToBytes 4 1) t := by
  unfold writeDump
  dsimp only
  refine ⟨_, ?_, rfl⟩
  refine .trans ?_ (dumpedFrom_saveAreas _ _)
  refine .trans ?_ (dumpedFrom_sensors _)
  refine .trans ?_ (dumpedFrom_status _ _ _)
  refine .trans ?_ (dumpedFrom_barriers _ _)
  refine .trans ?_ (dumpedFrom_log 0x19000 32768 _ (by decide) (by decide) _)
  refine .trans ?_ (dumpedFrom_log 0x11000 32768 _ (by decide) (by decide) _)
  exact dumpedFrom_log 0x1000 65536 _ (by decide) (by decide) _

end

/-- A number at the head of bytes in memory, and what follows it. -/
theorem memNat_natToBytes {m : Memory} {a n x : Nat} {l : List Byte} (h : memBytes m a (natToBytes n x ++ l).length = natToBytes n x ++ l) :
    memNat m a n = x % 256 ^ n ∧ memBytes m (a + n) l.length = l := by
  rw [List.length_append, length_natToBytes, memBytes_add] at h
  obtain ⟨hhead, htail⟩ := List.append_inj h (by rw [length_memBytes, length_natToBytes])
  exact ⟨by rw [memNat, hhead, bytesToNat_natToBytes], htail⟩

theorem memBytes_congr {m m' : Memory} {a n : Nat} (h : ∀ k, a ≤ k → k < a + n → memByte m k = memByte m' k) : memBytes m a n = memBytes m' a n := by
  rw [memBytes_eq_map, memBytes_eq_map]
  exact List.map_congr_left fun i hi => h _ (Nat.le_add_right ..) (Nat.add_lt_add_left (List.mem_range.1 hi) a)

theorem dmem_headed (s : State) (cause : Word) (ea : EAddr) : (headed s cause ea).dmem =
    memSetBytes (zeroFill s (fun a => decide (dumpBase ≤ a) && decide (a < dumpBase + 2 ^ 28))).dmem dumpBase (dumpHeader s cause ea) := by
  rw [headed, dumpAt, Nat.add_zero]

theorem dumpedFrom_headed (s : State) (cause : Word) (ea : EAddr) : DumpedFrom 0 s (headed s cause ea) :=
  (dumpedFrom_zeroFill s).trans (dumpedFrom_dumpAt (Nat.le_refl 0) (by rw [length_dumpHeader]; decide) _)

theorem dumpedFrom_writeDump (s : State) (cause : Word) (ea : EAddr) : DumpedFrom 0 s (writeDump s cause ea []) := by
  obtain ⟨t, ht, he⟩ := writeDump_eq s cause ea
  rw [he]
  exact ((dumpedFrom_headed s cause ea).trans (ht.weaken (Nat.zero_le _))).trans
    (dumpedFrom_dumpAt (Nat.zero_le _) (by rw [length_natToBytes]; decide) t)

/-- Bytes stored behind others that stand in memory. -/
theorem memBytes_memSetBytes_after {m : Memory} {a : Nat} {h : List Byte} (hw : memWf m = true) (hh : memBytes m a h.length = h) (l : List Byte) :
    memBytes (memSetBytes m (a + h.length) l) a (h ++ l).length = h ++ l := by
  rw [List.length_append, memBytes_add, memBytes_memSetBytes hw]
  exact congrArg (· ++ l) ((memBytes_memSetBytes_outside hw (.inl (Nat.le_refl _))).trans hh)

section
variable {s : State} (hw : memWf s.dmem = true) (cause : Word) (ea : EAddr)
include hw

/-- The first bytes of the dump are its header and the word that says that it is whole. -/
theorem memBytes_writeDump : let l := dumpHeader s cause ea ++ natToBytes 4 1
    memBytes (writeDump s cause ea []).dmem dumpBase l.length = l := by
  obtain ⟨t, ht, he⟩ := writeDump_eq s cause ea
  have hhead := (dumpedFrom_headed s cause ea).wf hw
  have hheader : memBytes t.dmem dumpBase (dumpHeader s cause ea).length = dumpHeader s cause ea := by
    have hsame : memBytes t.dmem dumpBase (dumpHeader s cause ea).length = memBytes (headed s cause ea).dmem dumpBase (dumpHeader s cause ea).length := by
      refine memBytes_congr fun k _ hk => ht.other hhead k (.inl ?_)
      rw [length_dumpHeader] at hk
      exact Nat.lt_trans hk (Nat.add_lt_add_left (by decide : 32 < 0x1000) dumpBase)
    rw [hsame, dmem_headed]
    exact memBytes_memSetBytes ((dumpedFrom_zeroFill s).wf hw)
  have hlast := memBytes_memSetBytes_after (ht.wf hhead) hheader (natToBytes 4 1)
  rw [length_dumpHeader] at hlast
  intro l
  rw [he, show (dumpAt 32 (natToBytes 4 1) t).dmem = memSetBytes t.dmem (dumpBase + 32) (natToBytes 4 1) from rfl]
  exact hlast

/-- The fields at the head of the dump (Table 9-4). -/
theorem dump_fields : let m := (writeDump s cause ea []).dmem
    memNat m dumpBase 8 = 0x3130504D55445A4F ∧ memNat m (dumpBase + 8) 8 = s.time % 2 ^ 64 ∧ memNat m (dumpBase + 16) 4 = cause.toNat ∧
    memNat m (dumpBase + 20) 2 = ea.toNat ∧ memNat m (dumpBase + 22) 2 = 1 ∧ memNat m (dumpBase + 24) 8 = s.plat.boots.toNat ∧
    memNat m (dumpBase + 32) 4 = 1 := by
  intro m
  have hbytes := memBytes_writeDump hw cause ea
  dsimp only at hbytes
  rw [dumpHeader] at hbytes
  simp only [List.append_assoc] at hbytes
  obtain ⟨hmagic, hrest⟩ := memNat_natToBytes hbytes
  obtain ⟨htime, hrest⟩ := memNat_natToBytes hrest
  obtain ⟨hcause, hrest⟩ := memNat_natToBytes hrest
  obtain ⟨hea, hrest⟩ := memNat_natToBytes hrest
  obtain ⟨hversion, hrest⟩ := memNat_natToBytes hrest
  obtain ⟨hboots, hrest⟩ := memNat_natToBytes hrest
  rw [← List.append_nil (natToBytes 4 1)] at hrest
  obtain ⟨hdone, -⟩ := memNat_natToBytes hrest
  have hc : cause.toNat % 256 ^ 4 = cause.toNat := Nat.mod_eq_of_lt cause.isLt
  have he : ea.toNat % 256 ^ 2 = ea.toNat := Nat.mod_eq_of_lt ea.isLt
  have hb : s.plat.boots.toNat % 256 ^ 8 = s.plat.boots.toNat := Nat.mod_eq_of_lt (Nat.lt_trans s.plat.boots.isLt (by decide))
  rw [hc] at hcause
  rw [he] at hea
  rw [hb] at hboots
  exact ⟨hmagic, htime, hcause, hea, hversion, hboots, hdone⟩

end

/-! ## Fatal errors (R230) -/

section
variable {s : State} {cause : Word} {ea : EAddr}

theorem exec_fatalError_unknown (h : eaExists ea = false) : exec (.fatalError cause ea) s = .fault .noSuchUnit := by
  show execFatalError cause ea s = _
  rw [execFatalError, h]
  rfl

/-- The machine as a fatal error has been logged. -/
def loggedFatal (s : State) (cause : Word) (ea : EAddr) : State := s.log (.fatal cause.toNat ea.toNat)

theorem exec_fatalError (h : eaExists ea = true) (htasks : s.tasks = []) :
    exec (.fatalError cause ea) s = .next (setPlatState (writeDump (loggedFatal s cause ea) cause ea []) 3) := by
  show execFatalError cause ea s = _
  simp only [execFatalError, h, htasks]
  rfl

/-- A new STATE, and vector 0. -/
theorem setPlatState_changed {n : BitVec 3} (h : s.plat.state ≠ n) :
    setPlatState s n = { s with plat := { s.plat with state := n, msis := s.plat.msis ++ [0] } } := by
  rw [setPlatState, if_neg h]
  rfl

theorem fatal_frame (h : s.plat.state ≠ 3) :
    let u := setPlatState (writeDump (loggedFatal s cause ea) cause ea []) 3
    u.dmem = (writeDump (loggedFatal s cause ea) cause ea []).dmem ∧
    u = { s with dmem := u.dmem, free := u.free
                 plat := { s.plat with state := 3, msis := s.plat.msis ++ [0], pclog := s.plat.pclog ++ [.fatal cause.toNat ea.toNat] } } := by
  intro u
  have hframe := (dumpedFrom_writeDump (loggedFatal s cause ea) cause ea).frame
  have hplat := congrArg State.plat hframe
  have hu : u = { writeDump (loggedFatal s cause ea) cause ea [] with
      plat := { (loggedFatal s cause ea).plat with state := 3, msis := s.plat.msis ++ [0] } } := by
    refine (setPlatState_changed (by rw [hplat]; exact h)).trans ?_
    rw [hplat]
    rfl
  generalize writeDump (loggedFatal s cause ea) cause ea [] = d at hframe hu ⊢
  rw [hu]
  refine ⟨rfl, ?_⟩
  rw [hframe]
  rfl

end

end Sys2Proof.Proofs

namespace Sys2Proof.Proofs
open Sys2Proof.Machine

/-! ## Margins planned anew (R233) -/

/-- What planning margins anew leaves: the records l are appended, tiles may have been retired, and free values have been used. -/
structure Planned (s u : State) (l : List Guardband) : Prop where
  frame : u = { s with sites := u.sites, free := u.free, plat := u.plat }
  plat  : u.plat = { s.plat with retire := u.plat.retire, pclog := u.plat.pclog, guard := s.plat.guard ++ l, supply := u.plat.supply, planned := u.plat.planned }
  sites : tabRising none s.sites = true → tabRising none u.sites = true
  site  : tabRising none s.sites = true → ∀ n, ∃ r : Bool, u.site n = { s.site n with retiredTile := r } ∧ ((s.site n).retiredTile = true → r = true)

section
variable {s t u : State} {l l' : List Guardband}

theorem Planned.refl (s : State) : Planned s s [] :=
  ⟨rfl, by rw [List.append_nil], id, fun _ n => ⟨(s.site n).retiredTile, rfl, id⟩⟩

theorem Planned.trans (h : Planned s t l) (h' : Planned t u l') : Planned s u (l ++ l') := by
  refine ⟨by rw [h'.frame, h.frame], ?_, fun hs => h'.sites (h.sites hs), fun hs n => ?_⟩
  · rw [h'.plat, h.plat, List.append_assoc]
  · obtain ⟨r, hr, hkeep⟩ := h.site hs n
    obtain ⟨r', hr', hkeep'⟩ := h'.site (h.sites hs) n
    rw [hr] at hr' hkeep'
    exact ⟨r', hr', fun hret => hkeep' (hkeep hret)⟩

theorem planned_retireTile (s : State) (tile : SiteNo) : Planned s (retireTile s tile) [] := by
  refine ⟨rfl, ?_, tabSet_risingNone, fun hs n => ?_⟩
  · rw [List.append_nil]
    rfl
  · have hsite := site_modSite (f := fun t : Site => { t with retiredTile := true }) (m := tile) hs n
    by_cases hn : n = tile
    · rw [if_pos hn] at hsite
      exact ⟨true, hsite, fun _ => rfl⟩
    · rw [if_neg hn] at hsite
      exact ⟨(s.site n).retiredTile, hsite, id⟩

theorem planned_retireTiles (tiles : List SiteNo) : ∀ s, Planned s (tiles.foldl retireTile s) [] := by
  induction tiles with
  | nil => exact Planned.refl
  | cons tile tiles ih => exact fun s => (planned_retireTile s tile).trans (ih _)

/-- A die's record names the die, with a margin of at most 60 mV. -/
theorem planned_replanDie (die : BitVec 2) (mv : BitVec 8) (ps : BitVec 16) (tiles : List SiteNo) (s : State) :
    ∃ g : Guardband, g.die = die.toNat ∧ g.mv ≤ 60 ∧ Planned s (replanDie die mv ps tiles s) [g] := by
  refine ⟨{ time := s.time, die := die.toNat, mv := min mv.toNat 60, ps := ps.toNat
            tiles := (tiles.filter (fun t => siteExists t && t.extractLsb' 11 2 == die)).length }, rfl, Nat.min_le_right mv.toNat 60, ?_⟩
  refine Planned.trans (l := [_]) (l' := []) ?_ (planned_retireTiles _ _)
  exact ⟨rfl, rfl, id, fun _ n => ⟨(s.site n).retiredTile, rfl, id⟩⟩

/-- One die of a full plan. -/
def replanNext (s : State) (d : BitVec 2) : State :=
  let x := Config.freeValue s.free
  replanDie d (BitVec.ofNat 8 (x.toNat % 61)) (x.extractLsb' 16 16) (Config.weakTiles s.free) s.takeFree

theorem planned_takeFree (s : State) : Planned s s.takeFree [] :=
  ⟨rfl, by rw [List.append_nil]; rfl, id, fun _ n => ⟨(s.site n).retiredTile, rfl, id⟩⟩

/-- Records of the dies ds in turn, with margins of at most 60 mV. -/
def RecordsOf (l : List Guardband) (ds : List (BitVec 2)) : Prop := l.map (·.die) = ds.map (·.toNat) ∧ ∀ g ∈ l, g.mv ≤ 60

theorem planned_replanNexts (ds : List (BitVec 2)) : ∀ s, ∃ l, RecordsOf l ds ∧ Planned s (ds.foldl replanNext s) l := by
  induction ds with
  | nil => exact fun s => ⟨[], ⟨rfl, fun g hg => nomatch hg⟩, .refl s⟩
  | cons d ds ih =>
    intro s
    obtain ⟨g, hdie, hmv, hg⟩ := planned_replanDie d (BitVec.ofNat 8 ((Config.freeValue s.free).toNat % 61)) ((Config.freeValue s.free).extractLsb' 16 16)
      (Config.weakTiles s.free) s.takeFree
    obtain ⟨l, ⟨hdies, hmvs⟩, hl⟩ := ih (replanNext s d)
    refine ⟨g :: l, ⟨?_, ?_⟩, ((planned_takeFree s).trans hg).trans hl⟩
    · rw [List.map_cons, List.map_cons, hdie, hdies]
    · exact List.forall_mem_cons.2 ⟨hmv, hmvs⟩

theorem planned_replanAll (s : State) : ∃ l, RecordsOf l [0, 1, 2, 3] ∧ Planned s (replanAll s) l := planned_replanNexts [0, 1, 2, 3] s

end

/-! ## Boot (R313) -/

/-- The machine as accepted firmware makes it ready. -/
def booted (s : State) (fw : Firmware) : State :=
  { s with plat := { s.plat with meas := measure 0 fw.image, state := 2, msis := s.plat.msis ++ [0] } }

section
variable {s : State} {fw : Firmware}

theorem bootWith_accepted (hfw : firmwareOk fw = true) (h : s.plat.state ≠ 2) : bootWith s fw = replanAll (booted s fw) := by
  rw [bootWith, if_pos hfw]
  exact congrArg replanAll (setPlatState_changed (s := s.modPlat (fun p => { p with meas := measure 0 fw.image })) h)

theorem bootWith_refused (hfw : firmwareOk fw = false) (h : s.plat.state ≠ 4) :
    bootWith s fw = { s with plat := { s.plat with state := 4, msis := s.plat.msis ++ [0] } } := by
  rw [bootWith, if_neg (by rw [hfw]; exact Bool.false_ne_true), setPlatState_changed h]

/-- The records of a boot that the firmware is accepted in. -/
theorem replanned_booted {u : State} {l : List Guardband} (hfw : firmwareOk fw = true) (hl : RecordsOf l [0, 1, 2, 3])
    (h : Planned (booted s fw) u l) : Claims.Replanned fw s.plat u.plat := by
  obtain ⟨hdies, hmv⟩ := hl
  refine ⟨l, by rw [h.plat]; rfl, ?_, hmv⟩
  rw [hdies, if_pos hfw]
  rfl

theorem replanned_refused {p q : Plat} (hfw : firmwareOk fw = false) (h : q.guard = p.guard) : Claims.Replanned fw p q := by
  refine ⟨[], by rw [h, List.append_nil], ?_, fun g hg => nomatch hg⟩
  rw [hfw]
  rfl

end

/-! ## Reset of the device (R313) -/

section
variable {s : State}

theorem resetDevice_sites_rising (s : State) : tabRising none (resetDevice s).sites = true :=
  tabRising_foldl_tabSet (d := Site.reset) (fun _ (t : Site) => t.cleared) s.sites rfl

theorem site_resetDevice (h : tabRising none s.sites = true) (n : SiteNo) : (resetDevice s).site n = (s.site n).cleared :=
  tabGet_rebuilt_keyed (g := fun _ (t : Site) => t.cleared) _ cleared_reset h

/-- What a device reset leaves empty, and the time. -/
def Emptied (s u : State) : Prop :=
  u.time = s.time ∧ u.elems = [] ∧ u.dmem = [] ∧ u.spad = [] ∧ u.lram = [] ∧ u.sqs = [] ∧ u.parts = [] ∧ u.queues = [] ∧ u.tasks = [] ∧
  u.launches = [] ∧ u.engines = [] ∧ u.barriers = [] ∧ u.channels = [] ∧ u.links = [] ∧ u.frames = []

theorem Emptied.and {u : State} {P : Prop} (h : Emptied s u) (hP : P) :
    u.time = s.time ∧ u.elems = [] ∧ u.dmem = [] ∧ u.spad = [] ∧ u.lram = [] ∧ u.sqs = [] ∧ u.parts = [] ∧ u.queues = [] ∧ u.tasks = [] ∧
    u.launches = [] ∧ u.engines = [] ∧ u.barriers = [] ∧ u.channels = [] ∧ u.links = [] ∧ u.frames = [] ∧ P := by
  simpa only [Emptied, and_assoc] using And.intro h hP

theorem emptied_resetDevice (s : State) : Emptied s (resetDevice s) := ⟨rfl, rfl, rfl, rfl, rfl, rfl, rfl, rfl, rfl, rfl, rfl, rfl, rfl, rfl, rfl⟩

theorem emptied_planned {t u : State} {l : List Guardband} (h : Emptied s t) (hp : Planned t u l) : Emptied s u := by
  unfold Emptied at *
  rw [hp.frame]
  exact h

end

end Sys2Proof.Proofs

namespace Sys2Proof.Proofs
open Sys2Proof.Machine

section
variable {s : State} {fw : Firmware}

theorem exec_deviceReset (fw : Firmware) (s : State) : exec (.deviceReset fw) s = .next (bootWith (resetDevice s) fw) := rfl

/-- A device reset that ends with the device ready. -/
theorem exec_deviceReset_accepted (hfw : firmwareOk fw = true) : ∃ u, exec (.deviceReset fw) s = .next u ∧
    u.plat.state = 2 ∧ u.plat.boots = s.plat.boots + 1 ∧ u.plat.unloads = s.plat.unloads ∧ Claims.Replanned fw s.plat u.plat ∧
    u.plat.meas = measure 0 fw.image ∧ Emptied s u ∧ (tabRising none s.sites = true → ∀ n : SiteNo, ∃ r : Bool,
      u.site n = { (s.site n).cleared with retiredTile := r } ∧ ((s.site n).retiredTile = true → r = true)) := by
  obtain ⟨l, hl, hu⟩ := planned_replanAll (booted (resetDevice s) fw)
  have hguard : Claims.Replanned fw s.plat (replanAll (booted (resetDevice s) fw)).plat := replanned_booted (s := resetDevice s) hfw hl hu
  refine ⟨_, (exec_deviceReset fw s).trans (congrArg _ (bootWith_accepted hfw (by decide : (1 : BitVec 3) ≠ 2))), ?_, ?_, ?_, hguard, ?_,
    emptied_planned (t := booted (resetDevice s) fw) (emptied_resetDevice s) hu, fun hs n => ?_⟩
  · rw [hu.plat]; rfl
  · rw [hu.plat]; rfl
  · rw [hu.plat]; rfl
  · rw [hu.plat]; rfl
  · obtain ⟨r, hr, hkeep⟩ := hu.site (resetDevice_sites_rising s) n
    rw [show (booted (resetDevice s) fw).site n = (s.site n).cleared from site_resetDevice hs n] at hr hkeep
    exact ⟨r, hr, hkeep⟩

/-- A device reset that fails. -/
theorem exec_deviceReset_refused (hfw : firmwareOk fw = false) : ∃ u, exec (.deviceReset fw) s = .next u ∧
    u.plat.state = 4 ∧ u.plat.boots = s.plat.boots + 1 ∧ u.plat.unloads = s.plat.unloads ∧ Claims.Replanned fw s.plat u.plat ∧ Emptied s u ∧
    (tabRising none s.sites = true → ∀ n : SiteNo, u.site n = (s.site n).cleared) :=
  ⟨_, (exec_deviceReset fw s).trans (congrArg _ (bootWith_refused hfw (by decide : (1 : BitVec 3) ≠ 4))), rfl, rfl, rfl, replanned_refused hfw rfl,
    emptied_resetDevice s, fun hs n => site_resetDevice hs n⟩

theorem exec_signedRecoveryImage_ignored (h : s.plat.state ≠ 4 ∨ firmwareOk fw = false) : exec (.signedRecoveryImage fw) s = .next s := by
  show execSignedRecoveryImage fw s = _
  rw [execSignedRecoveryImage]
  refine congrArg _ (if_neg ?_)
  rw [Bool.and_eq_true, decide_eq_true_eq]
  rintro ⟨hstate, hfw⟩
  exact h.elim (fun hne => hne hstate) (fun hno => absurd (hno.symm.trans hfw) Bool.false_ne_true)

theorem exec_signedRecoveryImage_booted (h : s.plat.state = 4) (hfw : firmwareOk fw = true) : ∃ u, exec (.signedRecoveryImage fw) s = .next u ∧
    u = { s with sites := u.sites, free := u.free, plat := u.plat } ∧ u.plat.state = 2 ∧ u.plat.msis = s.plat.msis ++ [0] ∧
    Claims.Replanned fw s.plat u.plat ∧ u.plat.meas = measure 0 fw.image := by
  obtain ⟨l, hl, hu⟩ := planned_replanAll (booted s fw)
  have hexec : exec (.signedRecoveryImage fw) s = .next (replanAll (booted s fw)) := by
    show execSignedRecoveryImage fw s = _
    rw [execSignedRecoveryImage, if_pos (by rw [h, hfw]; rfl), bootWith_accepted hfw (by rw [h]; decide)]
  refine ⟨_, hexec, ?_, ?_, ?_, replanned_booted hfw hl hu, ?_⟩
  · rw [hu.frame]; rfl
  · rw [hu.plat]; rfl
  · rw [hu.plat]; rfl
  · rw [hu.plat]; rfl

end

/-- Settles O53, from the host's windows and device time through resets of partitions and of the device to the dump of a fatal error. -/
theorem hostAndResets : Obligations.HostAndResets := by
  unfold Obligations.HostAndResets
  refine ⟨fun s off data posted n => ?_, fun s => ?_, fun s n hsqs hports hidle => ?_, fun s n hm => ?_, fun s cause ea h => exec_fatalError_unknown h,
    fun s cause ea h htasks hstate hm _ => ?_, fun s fw => ?_, fun s fw => ?_⟩
  · intro w va part aborted
    refine ⟨fun hw => ⟨exec_hostWindowWrite_closed hw data posted, exec_hostWindowRead_closed hw n⟩, fun u l pa hw hreqs hn hx => ?_,
      fun u l pa hw hreqs hdata hx hu hm => ?_, fun r hr hposted hseq hpending => exec_hostRequestTimeout hr hposted hseq hpending⟩
    · exact ⟨_, exec_hostWindowRead_open hw hreqs hn hx⟩
    · obtain ⟨t, ht, hspec⟩ := hostWindowWrite_spec hu hm part pa data posted
      exact ⟨t, (exec_hostWindowWrite_open hw hreqs hdata hx).trans (congrArg _ ht), hspec⟩
  · intro p plat
    refine ⟨fun m => ⟨_, exec_timeSync m, fun hne => if_neg hne, fun hready => syncedTime_ready hready m⟩, exec_synclost, exec_sensorPoll,
      exec_powerWindow, fun die mv ps tile hex hdie hs => exec_guardbandReplan hex hdie hs⟩
  · have hreset := foldl_resetSq (namedBlocks s n none) hidle hsqs hports
    refine ⟨_, exec_partitionReset n, resetPartition_frame n hreset, fun b hb => ?_, fun b hb => ?_, fun ea b hb howner => ?_, fun ea hfree => ?_⟩
    · exact (hreset.sq b).trans (if_pos ((mem_namedBlocks n b).2 hb))
    · exact (hreset.sq b).trans (if_neg (fun hmem => hb ((mem_namedBlocks n b).1 hmem)))
    · exact (hreset.port ea).trans (if_pos ⟨b, (mem_namedBlocks n b).2 hb, howner⟩)
    · exact (hreset.port ea).trans (if_neg (fun ⟨b, hmem, howner⟩ => hfree b ((mem_namedBlocks n b).1 hmem) howner))
  · intro frames
    exact ⟨_, exec_partitionDestroy n, destroyed_frame n, dmem_destroyed n hm⟩
  · obtain ⟨hdmem, hframe⟩ := fatal_frame (cause := cause) (ea := ea) hstate
    refine ⟨_, exec_fatalError h htasks, hframe, ?_, fun k hk => ?_⟩
    · rw [hdmem]
      exact dump_fields (s := loggedFatal s cause ea) hm cause ea
    · rw [hdmem]
      exact (dumpedFrom_writeDump (loggedFatal s cause ea) cause ea).other hm k hk
  · cases hfw : firmwareOk fw with
    | true =>
      obtain ⟨u, hexec, hstate, hboots, hunloads, hplan, hmeas, hempty, hsite⟩ := exec_deviceReset_accepted (s := s) hfw
      refine ⟨u, hexec, hstate, hboots, hunloads, hplan, fun _ => hmeas, hempty.and fun hs n => ?_⟩
      obtain ⟨r, hr, hkeep⟩ := hsite hs n
      exact ⟨r, hr, hkeep, fun hno => nomatch hno⟩
    | false =>
      obtain ⟨u, hexec, hstate, hboots, hunloads, hplan, hempty, hsite⟩ := exec_deviceReset_refused (s := s) hfw
      exact ⟨u, hexec, hstate, hboots, hunloads, hplan, fun hno => absurd hno Bool.false_ne_true,
        hempty.and fun hs n => ⟨(s.site n).retiredTile, hsite hs n, id, fun _ => rfl⟩⟩
  · exact ⟨exec_signedRecoveryImage_ignored, fun hstate hfw => exec_signedRecoveryImage_booted hstate hfw⟩

end Sys2Proof.Proofs

namespace Sys2Proof.Proofs
open Sys2Proof.Machine

/-! ## The form that steps keep (O59, O60)

The memories' canonical form and the rising keys of the tables are kept by the same argument: every operation of the model is made of a few
primitive changes, each of which keeps both. A lemma `Formed.f` says that the operation f keeps the form that κ names. -/

/-- Which form of the machine is spoken of. -/
inductive Form
  | memories
  | tables

/-- A memory is canonical. -/
def MemFormed (κ : Form) (m : Memory) : Prop := κ = .memories → memWf m = true
/-- The keys of a table rise. -/
def TabFormed {α : Type} (κ : Form) (t : Tab α) : Prop := κ = .tables → tabRising none t = true
/-- The tables of an element context. -/
def ElemFormed (κ : Form) (e : ElemCtx) : Prop := κ = .tables → Claims.elemTables e = true
/-- The tables of a site's registers. -/
def SiteFormed (κ : Form) (r : Site) : Prop := κ = .tables → Claims.siteTables r = true
/-- The tables of a memory tile's banks. -/
def AxFormed (κ : Form) (a : Axolotl) : Prop := TabFormed κ a.retired ∧ TabFormed κ a.parity ∧ TabFormed κ a.pipes ∧ TabFormed κ a.errs
/-- The tables of saved contexts. -/
def SavedFormed (κ : Form) (l : List Saved) : Prop := ∀ v ∈ l, ElemFormed κ v.ctx
/-- The tables of a configuration image. -/
def ImageFormed (κ : Form) (l : List (Nat × Tab Word)) : Prop := ∀ p ∈ l, TabFormed κ p.2
/-- The tables that a task keeps. -/
def TaskFormed (κ : Form) (t : Task) : Prop := SavedFormed κ t.saved ∧ ImageFormed κ t.image
/-- A table that may be there. -/
def OptTabFormed {α : Type} (κ : Form) (o : Option (Tab α)) : Prop := ∀ t, o = some t → TabFormed κ t
/-- The ports of a pass. -/
def PortsFormed (κ : Form) (p : Pass) : Prop := TabFormed κ p.ports
/-- The tables of a pass that may be under way. -/
def PassFormed (κ : Form) (o : Option Pass) : Prop := ∀ p, o = some p → PortsFormed κ p
/-- The machine. -/
def Formed (κ : Form) (s : State) : Prop := (κ = .memories → Claims.Memories s) ∧ (κ = .tables → Claims.Tables s)
/-- The machine that an instruction may leave. -/
def OutFormed (κ : Form) (r : Result) : Prop := ∀ t, r = .next t → Formed κ t
/-- The machine that an operation may leave. -/
def OptFormed (κ : Form) (o : Option State) : Prop := ∀ t, o = some t → Formed κ t

variable {κ : Form}

/-! ### Memories -/

theorem MemFormed.setBytes {m : Memory} {a : Nat} {l : List Byte} (h : MemFormed κ m) : MemFormed κ (memSetBytes m a l) := fun hk => memSetBytes_wf (h hk)
theorem MemFormed.setNat {m : Memory} {a n x : Nat} (h : MemFormed κ m) : MemFormed κ (memSetNat m a n x) := fun hk => memSetNat_wf (h hk)
theorem MemFormed.setMasked {m : Memory} {a mask : Nat} {l : List Byte} (h : MemFormed κ m) : MemFormed κ (memSetMasked m a mask l) :=
  fun hk => memSetMasked_wf (h hk)
theorem MemFormed.filter {m : Memory} {P : Nat × Byte → Bool} (h : MemFormed κ m) : MemFormed κ (m.filter P) := fun hk => memWf_filter P (h hk)

/-! ### Tables -/

/-- A map that keeps the keys keeps their order. -/
theorem tabRising_mapKeys {α : Type} {f : Nat × α → Nat × α} (hf : ∀ p, (f p).1 = p.1) (t : Tab α) (lo : Option Nat) :
    tabRising lo (t.map f) = tabRising lo t := by
  induction t generalizing lo with
  | nil => rfl
  | cons p t ih =>
    obtain ⟨k, v⟩ := p
    rw [List.map_cons, show f (k, v) = (k, (f (k, v)).2) from Prod.ext (hf _) rfl]
    cases lo <;> simp only [tabRising, ih]

section
variable {α : Type} {t : Tab α}

theorem TabFormed.nil : TabFormed κ ([] : Tab α) := fun _ => rfl
theorem TabFormed.filter {P : Nat × α → Bool} (h : TabFormed κ t) : TabFormed κ (t.filter P) := fun hk => tabRising_filter (h hk)

/-- A table whose values change and whose keys do not. -/
theorem TabFormed.map {f : Nat × α → Nat × α} (h : TabFormed κ t) (hf : ∀ p, (f p).1 = p.1) : TabFormed κ (t.map f) :=
  fun hk => (tabRising_mapKeys hf t none).trans (h hk)

variable [DecidableEq α]

theorem TabFormed.set {n : Nat} {v d : α} (h : TabFormed κ t) : TabFormed κ (tabSet t n v d) := fun hk => tabSet_risingNone (h hk)
theorem TabFormed.mod {n : Nat} {d : α} {f : α → α} (h : TabFormed κ t) : TabFormed κ (tabMod t n d f) := h.set

omit [DecidableEq α] in
/-- A table built entry by entry. -/
theorem TabFormed.foldl {β : Type} {f : Tab α → β → Tab α} {l : List β} {t : Tab α} (h : TabFormed κ t)
    (hf : ∀ t b, TabFormed κ t → TabFormed κ (f t b)) : TabFormed κ (l.foldl f t) := by
  induction l generalizing t with
  | nil => exact h
  | cons b l ih => exact ih (hf t b h)

omit [DecidableEq α] in
theorem OptTabFormed.none : OptTabFormed κ (none : Option (Tab α)) := fun _ h => nomatch h
omit [DecidableEq α] in
theorem OptTabFormed.some (h : TabFormed κ t) : OptTabFormed κ (some t) := fun _ hu => Option.some.inj hu ▸ h
omit [DecidableEq α] in
theorem OptTabFormed.getD {o : Option (Tab α)} (h : OptTabFormed κ o) : TabFormed κ (o.getD []) := by
  cases o with
  | none => exact .nil
  | some t => exact h t rfl
theorem PassFormed.of_some {o : Option Pass} {p : Pass} (h : PassFormed κ o) (ho : o = some p) : PortsFormed κ p := h p ho
omit [DecidableEq α] in
theorem PassFormed.none : PassFormed κ none := fun _ h => nomatch h
theorem PortsFormed.withPorts {p : Pass} {t : Tab (Option Token)} (_ : PortsFormed κ p) (ht : TabFormed κ t) : PortsFormed κ { p with ports := t } := ht
theorem PortsFormed.of {t : Tab (Option Token)} {n : Nat} {x : Option Token} (ht : TabFormed κ t) : PortsFormed κ { ports := t, stage := n, prev := x } := ht
theorem PortsFormed.ports {p : Pass} (h : PortsFormed κ p) : TabFormed κ p.ports := h
theorem PassFormed.some {p : Pass} (h : PortsFormed κ p) : PassFormed κ (some p) := fun _ hu => Option.some.inj hu ▸ h

/-- An entry of a table after a write is an old one or the written one. -/
theorem mem_tabSet {n : Nat} {v d : α} {p : Nat × α} (h : p ∈ tabSet t n v d) : p ∈ t ∨ p = (n, v) := by
  induction t with
  | nil =>
    unfold tabSet at h
    split at h
    · exact absurd h List.not_mem_nil
    · exact .inr (List.mem_singleton.1 h)
  | cons q t ih =>
    obtain ⟨a, x⟩ := q
    unfold tabSet at h
    split at h
    · split at h
      · exact .inl h
      · exact (List.mem_cons.1 h).symm
    · split at h
      · split at h
        · exact .inl (List.mem_cons_of_mem _ h)
        · rcases List.mem_cons.1 h with h | h
          · exact .inr h
          · exact .inl (List.mem_cons_of_mem _ h)
      · rcases List.mem_cons.1 h with h | h
        · exact .inl (h ▸ List.mem_cons_self)
        · exact (ih h).imp_left (List.mem_cons_of_mem _)

omit [DecidableEq α] in
/-- A read gives an entry or the default. -/
theorem tabGet_mem_or (t : Tab α) (n : Nat) (d : α) : tabGet t n d = d ∨ ∃ p ∈ t, p.2 = tabGet t n d := by
  induction t with
  | nil => exact .inl rfl
  | cons q t ih =>
    rw [tabGet]
    split
    · exact .inr ⟨q, List.mem_cons_self, rfl⟩
    · split
      · exact .inl rfl
      · exact ih.imp_right fun ⟨p, hp, he⟩ => ⟨p, List.mem_cons_of_mem _ hp, he⟩

end

/-! ### Element contexts -/

section
variable {e : ElemCtx}

/-- The parts of an element context that the form speaks of. -/
theorem elemFormed_iff :
    ElemFormed κ e ↔
      TabFormed κ e.bank ∧ OptTabFormed κ e.shadow ∧ TabFormed κ e.k ∧ TabFormed κ e.ops ∧ TabFormed κ e.ii ∧ PassFormed κ e.pass := by
  cases κ <;> simp [ElemFormed, Claims.elemTables, TabFormed, OptTabFormed, PassFormed, PortsFormed, Option.all_eq_true, and_assoc]

theorem ElemFormed.bank (h : ElemFormed κ e) : TabFormed κ e.bank := have ⟨hb, _⟩ := elemFormed_iff.1 h; hb
theorem ElemFormed.shadow (h : ElemFormed κ e) : OptTabFormed κ e.shadow := have ⟨_, hs, _⟩ := elemFormed_iff.1 h; hs
theorem ElemFormed.k (h : ElemFormed κ e) : TabFormed κ e.k := have ⟨_, _, hk, _⟩ := elemFormed_iff.1 h; hk
theorem ElemFormed.ops (h : ElemFormed κ e) : TabFormed κ e.ops := have ⟨_, _, _, ho, _⟩ := elemFormed_iff.1 h; ho
theorem ElemFormed.ii (h : ElemFormed κ e) : TabFormed κ e.ii := have ⟨_, _, _, _, hi, _⟩ := elemFormed_iff.1 h; hi
theorem ElemFormed.pass (h : ElemFormed κ e) : PassFormed κ e.pass := have ⟨_, _, _, _, _, hp⟩ := elemFormed_iff.1 h; hp

theorem ElemFormed.withBank {b : Tab Word} (h : ElemFormed κ e) (hb : TabFormed κ b) : ElemFormed κ { e with bank := b } :=
  elemFormed_iff.2 ⟨hb, h.shadow, h.k, h.ops, h.ii, h.pass⟩
theorem ElemFormed.withShadow {o : Option (Tab Word)} (h : ElemFormed κ e) (ho : OptTabFormed κ o) : ElemFormed κ { e with shadow := o } :=
  elemFormed_iff.2 ⟨h.bank, ho, h.k, h.ops, h.ii, h.pass⟩
theorem ElemFormed.withK {t : Tab Token} (h : ElemFormed κ e) (ht : TabFormed κ t) : ElemFormed κ { e with k := t } :=
  elemFormed_iff.2 ⟨h.bank, h.shadow, ht, h.ops, h.ii, h.pass⟩
theorem ElemFormed.withOps {t : Tab OpSt} (h : ElemFormed κ e) (ht : TabFormed κ t) : ElemFormed κ { e with ops := t } :=
  elemFormed_iff.2 ⟨h.bank, h.shadow, h.k, ht, h.ii, h.pass⟩
theorem ElemFormed.withIi {t : Tab Nat} (h : ElemFormed κ e) (ht : TabFormed κ t) : ElemFormed κ { e with ii := t } :=
  elemFormed_iff.2 ⟨h.bank, h.shadow, h.k, h.ops, ht, h.pass⟩
theorem ElemFormed.withPass {o : Option Pass} (h : ElemFormed κ e) (ho : PassFormed κ o) : ElemFormed κ { e with pass := o } :=
  elemFormed_iff.2 ⟨h.bank, h.shadow, h.k, h.ops, h.ii, ho⟩

theorem ElemFormed.setOp {n : Nat} {o : OpSt} (h : ElemFormed κ e) : ElemFormed κ (e.setOp n o) := h.withOps (h.ops.set)
theorem ElemFormed.setK {n : Nat} {t : Token} (h : ElemFormed κ e) : ElemFormed κ (e.setK n t) := h.withK (h.k.set)
theorem ElemFormed.setQueue {n : Nat} {l : List Token} (h : ElemFormed κ e) : ElemFormed κ (e.setQueue n l) := h
theorem ElemFormed.setCtlQueue {n : Nat} {l : List Ctl} (h : ElemFormed κ e) : ElemFormed κ (e.setCtlQueue n l) := h
theorem ElemFormed.popPort {n : Nat} (h : ElemFormed κ e) : ElemFormed κ (e.popPort n) := h

theorem ElemFormed.reset : ElemFormed κ ElemCtx.reset := fun _ => rfl

theorem ElemFormed.ite {c : Prop} [Decidable c] {e e' : ElemCtx} (h : ElemFormed κ e) (h' : ElemFormed κ e') : ElemFormed κ (if c then e else e') := by
  split
  · exact h
  · exact h'

theorem ElemFormed.foldl {β : Type} {f : ElemCtx → β → ElemCtx} {l : List β} {e : ElemCtx} (h : ElemFormed κ e)
    (hf : ∀ e b, ElemFormed κ e → ElemFormed κ (f e b)) : ElemFormed κ (l.foldl f e) := by
  induction l generalizing e with
  | nil => exact h
  | cons b l ih => exact ih (hf e b h)

end

/-! ### Sites -/

section
variable {a : Axolotl} {r : Site}

theorem AxFormed.retired (h : AxFormed κ a) : TabFormed κ a.retired := have ⟨hr, _⟩ := h; hr
theorem AxFormed.parity (h : AxFormed κ a) : TabFormed κ a.parity := have ⟨_, hp, _⟩ := h; hp
theorem AxFormed.pipes (h : AxFormed κ a) : TabFormed κ a.pipes := have ⟨_, _, hq, _⟩ := h; hq
theorem AxFormed.errs (h : AxFormed κ a) : TabFormed κ a.errs := have ⟨_, _, _, he⟩ := h; he
theorem AxFormed.withRetired {t : Tab (List Nat)} (h : AxFormed κ a) (ht : TabFormed κ t) : AxFormed κ { a with retired := t } :=
  ⟨ht, h.parity, h.pipes, h.errs⟩
theorem AxFormed.withParity {t : Tab Line} (h : AxFormed κ a) (ht : TabFormed κ t) : AxFormed κ { a with parity := t } :=
  ⟨h.retired, ht, h.pipes, h.errs⟩
theorem AxFormed.withPipes {t : Tab (List ParEntry)} (h : AxFormed κ a) (ht : TabFormed κ t) : AxFormed κ { a with pipes := t } :=
  ⟨h.retired, h.parity, ht, h.errs⟩
theorem AxFormed.withErrs {t : Tab Nat} (h : AxFormed κ a) (ht : TabFormed κ t) : AxFormed κ { a with errs := t } :=
  ⟨h.retired, h.parity, h.pipes, ht⟩

theorem siteFormed_iff : SiteFormed κ r ↔ TabFormed κ r.credit ∧ TabFormed κ r.ecnt ∧ AxFormed κ r.ax := by
  cases κ <;> simp [SiteFormed, Claims.siteTables, AxFormed, TabFormed, and_assoc]

theorem SiteFormed.credit (h : SiteFormed κ r) : TabFormed κ r.credit := have ⟨hc, _⟩ := siteFormed_iff.1 h; hc
theorem SiteFormed.ecnt (h : SiteFormed κ r) : TabFormed κ r.ecnt := have ⟨_, he, _⟩ := siteFormed_iff.1 h; he
theorem SiteFormed.ax (h : SiteFormed κ r) : AxFormed κ r.ax := have ⟨_, _, ha⟩ := siteFormed_iff.1 h; ha
theorem SiteFormed.withCredit {t : Tab Nat} (h : SiteFormed κ r) (ht : TabFormed κ t) : SiteFormed κ { r with credit := t } :=
  siteFormed_iff.2 ⟨ht, h.ecnt, h.ax⟩
theorem SiteFormed.withEcnt {t : Tab Nat} (h : SiteFormed κ r) (ht : TabFormed κ t) : SiteFormed κ { r with ecnt := t } :=
  siteFormed_iff.2 ⟨h.credit, ht, h.ax⟩
theorem SiteFormed.withAx {a : Axolotl} (h : SiteFormed κ r) (ha : AxFormed κ a) : SiteFormed κ { r with ax := a } :=
  siteFormed_iff.2 ⟨h.credit, h.ecnt, ha⟩
theorem SiteFormed.reset : SiteFormed κ Site.reset := fun _ => rfl
theorem SiteFormed.cleared (h : SiteFormed κ r) : SiteFormed κ r.cleared := siteFormed_iff.2 ⟨.nil, .nil, h.ax.retired, .nil, .nil, .nil⟩

theorem SiteFormed.of_pair {α : Type} {x : Site × α} {u : Site} {a : α} (h : SiteFormed κ x.1) (hx : x = (u, a)) : SiteFormed κ u := by
  subst hx; exact h

theorem SiteFormed.ite {c : Prop} [Decidable c] {r r' : Site} (h : SiteFormed κ r) (h' : SiteFormed κ r') : SiteFormed κ (if c then r else r') := by
  split
  · exact h
  · exact h'

end

/-! ### Tasks -/

section
variable {t : Task}

theorem TaskFormed.withSaved {l : List Saved} (h : TaskFormed κ t) (hl : SavedFormed κ l) : TaskFormed κ { t with saved := l } := ⟨hl, h.2⟩
theorem TaskFormed.withImage {l : List (Nat × Tab Word)} (h : TaskFormed κ t) (hl : ImageFormed κ l) : TaskFormed κ { t with image := l } := ⟨h.1, hl⟩
theorem TaskFormed.idOf (h : TaskFormed κ t) : TaskFormed κ (id t) := h
theorem TaskFormed.saved (h : TaskFormed κ t) : SavedFormed κ t.saved := h.1
theorem TaskFormed.image (h : TaskFormed κ t) : ImageFormed κ t.image := h.2
theorem SavedFormed.map {l : List Saved} {f : Saved → Saved} (h : SavedFormed κ l) (hf : ∀ v, ElemFormed κ v.ctx → ElemFormed κ (f v).ctx) :
    SavedFormed κ (l.map f) := by
  intro v hv
  obtain ⟨v', hv', rfl⟩ := List.mem_map.1 hv
  exact hf v' (h v' hv')
theorem SavedFormed.ofMap {β : Type} {l : List β} {f : β → Saved} (hf : ∀ b ∈ l, ElemFormed κ (f b).ctx) : SavedFormed κ (l.map f) := by
  intro v hv
  obtain ⟨b, hb, rfl⟩ := List.mem_map.1 hv
  exact hf b hb
theorem SavedFormed.nil : SavedFormed κ [] := fun _ h => nomatch h
theorem ImageFormed.filter {l : List (Nat × Tab Word)} {P : Nat × Tab Word → Bool} (h : ImageFormed κ l) : ImageFormed κ (l.filter P) := fun p hp =>
  h p (List.mem_filter.1 hp).1
theorem ImageFormed.nil : ImageFormed κ [] := fun _ h => nomatch h
theorem TaskFormed.ite {c : Prop} [Decidable c] {t t' : Task} (h : TaskFormed κ t) (h' : TaskFormed κ t') : TaskFormed κ (if c then t else t') := by
  split
  · exact h
  · exact h'

end

/-! ### The machine's tables -/

/-- The entries of the sites' table. -/
def SitesFormed (κ : Form) (t : Tab Site) : Prop := TabFormed κ t ∧ ∀ p ∈ t, SiteFormed κ p.2
/-- The entries of the contexts' table. -/
def ElemsFormed (κ : Form) (t : Tab ElemCtx) : Prop := TabFormed κ t ∧ ∀ p ∈ t, ElemFormed κ p.2
/-- The tasks. -/
def TasksFormed (κ : Form) (l : List Task) : Prop := ∀ t ∈ l, TaskFormed κ t

theorem TasksFormed.map {l : List Task} {f : Task → Task} (h : TasksFormed κ l) (hf : ∀ t, TaskFormed κ t → TaskFormed κ (f t)) :
    TasksFormed κ (l.map f) := by
  intro t ht
  obtain ⟨t', ht', rfl⟩ := List.mem_map.1 ht
  exact hf t' (h t' ht')
theorem TasksFormed.ofMap {β : Type} {l : List β} {f : β → Task} (hf : ∀ b, TaskFormed κ (f b)) : TasksFormed κ (l.map f) := by
  intro t ht
  obtain ⟨b, -, rfl⟩ := List.mem_map.1 ht
  exact hf b
theorem TasksFormed.filter {l : List Task} {P : Task → Bool} (h : TasksFormed κ l) : TasksFormed κ (l.filter P) := fun t ht => h t (List.mem_filter.1 ht).1
theorem TasksFormed.append {l l' : List Task} (h : TasksFormed κ l) (h' : TasksFormed κ l') : TasksFormed κ (l ++ l') := fun t ht =>
  (List.mem_append.1 ht).elim (h t) (h' t)
theorem TasksFormed.single {t : Task} (h : TaskFormed κ t) : TasksFormed κ [t] := fun _ hu => List.mem_singleton.1 hu ▸ h
theorem TasksFormed.nil : TasksFormed κ [] := fun _ h => nomatch h

theorem SitesFormed.set {t : Tab Site} {n : Nat} {r : Site} (h : SitesFormed κ t) (hr : SiteFormed κ r) : SitesFormed κ (tabSet t n r Site.reset) :=
  ⟨h.1.set, fun p hp => (mem_tabSet hp).elim (h.2 p) fun he => he ▸ hr⟩
theorem SitesFormed.get {t : Tab Site} {n : Nat} (h : SitesFormed κ t) : SiteFormed κ (tabGet t n Site.reset) := by
  rcases tabGet_mem_or t n Site.reset with he | ⟨p, hp, he⟩
  · rw [he]; exact .reset
  · rw [← he]; exact h.2 p hp
theorem ElemsFormed.set {t : Tab ElemCtx} {n : Nat} {e : ElemCtx} (h : ElemsFormed κ t) (he : ElemFormed κ e) : ElemsFormed κ (tabSet t n e ElemCtx.reset) :=
  ⟨h.1.set, fun p hp => (mem_tabSet hp).elim (h.2 p) fun hq => hq ▸ he⟩
theorem ElemsFormed.get {t : Tab ElemCtx} {n : Nat} (h : ElemsFormed κ t) : ElemFormed κ (tabGet t n ElemCtx.reset) := by
  rcases tabGet_mem_or t n ElemCtx.reset with he | ⟨p, hp, he⟩
  · rw [he]; exact .reset
  · rw [← he]; exact h.2 p hp

theorem SitesFormed.nil : SitesFormed κ [] := ⟨.nil, fun _ h => nomatch h⟩
theorem ElemsFormed.map {t : Tab ElemCtx} {f : Nat × ElemCtx → Nat × ElemCtx} (h : ElemsFormed κ t) (hk : ∀ p, (f p).1 = p.1)
    (hf : ∀ p, ElemFormed κ p.2 → ElemFormed κ (f p).2) : ElemsFormed κ (t.map f) := by
  refine ⟨h.1.map hk, fun p hp => ?_⟩
  obtain ⟨p', hp', rfl⟩ := List.mem_map.1 hp
  exact hf p' (h.2 p' hp')
theorem ElemsFormed.filter {t : Tab ElemCtx} {P : Nat × ElemCtx → Bool} (h : ElemsFormed κ t) : ElemsFormed κ (t.filter P) :=
  ⟨h.1.filter, fun p hp => h.2 p (List.mem_filter.1 hp).1⟩

/-- A table of sites all of whose entries are rewritten. -/
theorem SitesFormed.foldl {β : Type} {key : β → Nat} {g : β → Site} (l : List β) (hg : ∀ b ∈ l, SiteFormed κ (g b)) :
    ∀ {t : Tab Site}, SitesFormed κ t → SitesFormed κ (l.foldl (fun acc b => tabSet acc (key b) (g b) Site.reset) t) := by
  induction l with
  | nil => exact id
  | cons b l ih => exact fun h => ih (fun c hc => hg c (List.mem_cons_of_mem _ hc)) (h.set (hg b List.mem_cons_self))

/-- A table of sites formed anew from the entries of another one. -/
theorem SitesFormed.rebuild {t t' : Tab Site} {key : Nat × Site → Nat} {g : Nat × Site → Site} (h : SitesFormed κ t) (h' : SitesFormed κ t')
    (hg : ∀ p, SiteFormed κ p.2 → SiteFormed κ (g p)) : SitesFormed κ (t.foldl (fun acc p => tabSet acc (key p) (g p) Site.reset) t') :=
  .foldl t (fun p hp => hg p (h.2 p hp)) h'

section
variable {s : State}

/-- The tables of the machine but sites, contexts and tasks. -/
structure PlainTables (κ : Form) (s : State) : Prop where
  ports    : TabFormed κ s.ports
  ws       : TabFormed κ s.ws
  acs      : TabFormed κ s.acs
  frames   : TabFormed κ s.frames
  sqs      : TabFormed κ s.sqs
  parts    : TabFormed κ s.parts
  queues   : TabFormed κ s.queues
  engines  : TabFormed κ s.engines
  barriers : TabFormed κ s.barriers
  mboxes   : TabFormed κ s.mboxes
  channels : TabFormed κ s.channels
  links    : TabFormed κ s.links

theorem plainTables_iff :
    PlainTables κ s ↔
      TabFormed κ s.ports ∧ TabFormed κ s.ws ∧ TabFormed κ s.acs ∧ TabFormed κ s.frames ∧ TabFormed κ s.sqs ∧ TabFormed κ s.parts ∧
        TabFormed κ s.queues ∧ TabFormed κ s.engines ∧ TabFormed κ s.barriers ∧ TabFormed κ s.mboxes ∧ TabFormed κ s.channels ∧
        TabFormed κ s.links :=
  ⟨fun ⟨h1, h2, h3, h4, h5, h6, h7, h8, h9, h10, h11, h12⟩ => ⟨h1, h2, h3, h4, h5, h6, h7, h8, h9, h10, h11, h12⟩,
    fun ⟨h1, h2, h3, h4, h5, h6, h7, h8, h9, h10, h11, h12⟩ => ⟨h1, h2, h3, h4, h5, h6, h7, h8, h9, h10, h11, h12⟩⟩

/-- The parts of the machine that the form speaks of. -/
theorem formed_iff :
    Formed κ s ↔
      (MemFormed κ s.dmem ∧ MemFormed κ s.spad ∧ MemFormed κ s.lram) ∧ SitesFormed κ s.sites ∧ ElemsFormed κ s.elems ∧ TasksFormed κ s.tasks ∧
        PlainTables κ s := by
  cases κ <;> simp [Formed, MemFormed, TabFormed, SitesFormed, ElemsFormed, TasksFormed, plainTables_iff, SiteFormed, ElemFormed, TaskFormed,
    SavedFormed, ImageFormed, Claims.Memories, Claims.Tables]
  tauto

end

end Sys2Proof.Proofs

namespace Sys2Proof.Proofs
open Sys2Proof.Machine

/-! ## The form of the machine: its parts -/

variable {κ : Form} {s : State}

section

theorem Formed.dmem (h : Formed κ s) : MemFormed κ s.dmem := have ⟨⟨hd, _⟩, _⟩ := formed_iff.1 h; hd
theorem Formed.spad (h : Formed κ s) : MemFormed κ s.spad := have ⟨⟨_, hs, _⟩, _⟩ := formed_iff.1 h; hs
theorem Formed.lram (h : Formed κ s) : MemFormed κ s.lram := have ⟨⟨_, _, hl⟩, _⟩ := formed_iff.1 h; hl
theorem Formed.sites (h : Formed κ s) : SitesFormed κ s.sites := have ⟨_, hs, _⟩ := formed_iff.1 h; hs
theorem Formed.elems (h : Formed κ s) : ElemsFormed κ s.elems := have ⟨_, _, he, _⟩ := formed_iff.1 h; he
theorem Formed.tasks (h : Formed κ s) : TasksFormed κ s.tasks := have ⟨_, _, _, ht, _⟩ := formed_iff.1 h; ht
theorem Formed.plain (h : Formed κ s) : PlainTables κ s := have ⟨_, _, _, _, hp⟩ := formed_iff.1 h; hp
theorem Formed.ports (h : Formed κ s) : TabFormed κ s.ports := h.plain.ports
theorem Formed.ws (h : Formed κ s) : TabFormed κ s.ws := h.plain.ws
theorem Formed.acs (h : Formed κ s) : TabFormed κ s.acs := h.plain.acs
theorem Formed.frames (h : Formed κ s) : TabFormed κ s.frames := h.plain.frames
theorem Formed.sqs (h : Formed κ s) : TabFormed κ s.sqs := h.plain.sqs
theorem Formed.parts (h : Formed κ s) : TabFormed κ s.parts := h.plain.parts
theorem Formed.queues (h : Formed κ s) : TabFormed κ s.queues := h.plain.queues
theorem Formed.engines (h : Formed κ s) : TabFormed κ s.engines := h.plain.engines
theorem Formed.barriers (h : Formed κ s) : TabFormed κ s.barriers := h.plain.barriers
theorem Formed.mboxes (h : Formed κ s) : TabFormed κ s.mboxes := h.plain.mboxes
theorem Formed.channels (h : Formed κ s) : TabFormed κ s.channels := h.plain.channels
theorem Formed.links (h : Formed κ s) : TabFormed κ s.links := h.plain.links

theorem Formed.withDmem {m : Memory} (h : Formed κ s) (hm : MemFormed κ m) : Formed κ { s with dmem := m } :=
  formed_iff.2 ⟨⟨hm, h.spad, h.lram⟩, h.sites, h.elems, h.tasks, { h.plain with }⟩
theorem Formed.withSpad {m : Memory} (h : Formed κ s) (hm : MemFormed κ m) : Formed κ { s with spad := m } :=
  formed_iff.2 ⟨⟨h.dmem, hm, h.lram⟩, h.sites, h.elems, h.tasks, { h.plain with }⟩
theorem Formed.withLram {m : Memory} (h : Formed κ s) (hm : MemFormed κ m) : Formed κ { s with lram := m } :=
  formed_iff.2 ⟨⟨h.dmem, h.spad, hm⟩, h.sites, h.elems, h.tasks, { h.plain with }⟩
theorem Formed.withSites {t : Tab Site} (h : Formed κ s) (ht : SitesFormed κ t) : Formed κ { s with sites := t } :=
  formed_iff.2 ⟨⟨h.dmem, h.spad, h.lram⟩, ht, h.elems, h.tasks, { h.plain with }⟩
theorem Formed.withElems {t : Tab ElemCtx} (h : Formed κ s) (ht : ElemsFormed κ t) : Formed κ { s with elems := t } :=
  formed_iff.2 ⟨⟨h.dmem, h.spad, h.lram⟩, h.sites, ht, h.tasks, { h.plain with }⟩
theorem Formed.withTasks {l : List Task} (h : Formed κ s) (hl : TasksFormed κ l) : Formed κ { s with tasks := l } :=
  formed_iff.2 ⟨⟨h.dmem, h.spad, h.lram⟩, h.sites, h.elems, hl, { h.plain with }⟩
theorem Formed.withPorts {t : Tab CfgPort} (h : Formed κ s) (ht : TabFormed κ t) : Formed κ { s with ports := t } :=
  formed_iff.2 ⟨⟨h.dmem, h.spad, h.lram⟩, h.sites, h.elems, h.tasks, { h.plain with ports := ht }⟩
theorem Formed.withWs {t : Tab Line} (h : Formed κ s) (ht : TabFormed κ t) : Formed κ { s with ws := t } :=
  formed_iff.2 ⟨⟨h.dmem, h.spad, h.lram⟩, h.sites, h.elems, h.tasks, { h.plain with ws := ht }⟩
theorem Formed.withAcs {t : Tab Word} (h : Formed κ s) (ht : TabFormed κ t) : Formed κ { s with acs := t } :=
  formed_iff.2 ⟨⟨h.dmem, h.spad, h.lram⟩, h.sites, h.elems, h.tasks, { h.plain with acs := ht }⟩
theorem Formed.withFrames {t : Tab Nat} (h : Formed κ s) (ht : TabFormed κ t) : Formed κ { s with frames := t } :=
  formed_iff.2 ⟨⟨h.dmem, h.spad, h.lram⟩, h.sites, h.elems, h.tasks, { h.plain with frames := ht }⟩
theorem Formed.withSqs {t : Tab Sq} (h : Formed κ s) (ht : TabFormed κ t) : Formed κ { s with sqs := t } :=
  formed_iff.2 ⟨⟨h.dmem, h.spad, h.lram⟩, h.sites, h.elems, h.tasks, { h.plain with sqs := ht }⟩
theorem Formed.withParts {t : Tab Part} (h : Formed κ s) (ht : TabFormed κ t) : Formed κ { s with parts := t } :=
  formed_iff.2 ⟨⟨h.dmem, h.spad, h.lram⟩, h.sites, h.elems, h.tasks, { h.plain with parts := ht }⟩
theorem Formed.withQueues {t : Tab WorkQueue} (h : Formed κ s) (ht : TabFormed κ t) : Formed κ { s with queues := t } :=
  formed_iff.2 ⟨⟨h.dmem, h.spad, h.lram⟩, h.sites, h.elems, h.tasks, { h.plain with queues := ht }⟩
theorem Formed.withEngines {t : Tab EngQueue} (h : Formed κ s) (ht : TabFormed κ t) : Formed κ { s with engines := t } :=
  formed_iff.2 ⟨⟨h.dmem, h.spad, h.lram⟩, h.sites, h.elems, h.tasks, { h.plain with engines := ht }⟩
theorem Formed.withBarriers {t : Tab Barrier} (h : Formed κ s) (ht : TabFormed κ t) : Formed κ { s with barriers := t } :=
  formed_iff.2 ⟨⟨h.dmem, h.spad, h.lram⟩, h.sites, h.elems, h.tasks, { h.plain with barriers := ht }⟩
theorem Formed.withMboxes {t : Tab Nat} (h : Formed κ s) (ht : TabFormed κ t) : Formed κ { s with mboxes := t } :=
  formed_iff.2 ⟨⟨h.dmem, h.spad, h.lram⟩, h.sites, h.elems, h.tasks, { h.plain with mboxes := ht }⟩
theorem Formed.withChannels {t : Tab Channel} (h : Formed κ s) (ht : TabFormed κ t) : Formed κ { s with channels := t } :=
  formed_iff.2 ⟨⟨h.dmem, h.spad, h.lram⟩, h.sites, h.elems, h.tasks, { h.plain with channels := ht }⟩
theorem Formed.withLinks {t : Tab Link} (h : Formed κ s) (ht : TabFormed κ t) : Formed κ { s with links := t } :=
  formed_iff.2 ⟨⟨h.dmem, h.spad, h.lram⟩, h.sites, h.elems, h.tasks, { h.plain with links := ht }⟩

/-! ## The form of the machine: primitive changes -/

theorem Formed.site {n : SiteNo} (h : Formed κ s) : SiteFormed κ (s.site n) := h.sites.get
theorem Formed.elem {ea : EAddr} {c : BitVec 2} (h : Formed κ s) : ElemFormed κ (s.elem ea c) := h.elems.get
theorem Formed.setSite {n : SiteNo} {r : Site} (h : Formed κ s) (hr : SiteFormed κ r) : Formed κ (s.setSite n r) := h.withSites (h.sites.set hr)
theorem Formed.modSite {n : SiteNo} {f : Site → Site} (h : Formed κ s) (hf : ∀ r, SiteFormed κ r → SiteFormed κ (f r)) : Formed κ (s.modSite n f) :=
  h.setSite (hf _ h.site)
theorem Formed.setElem {ea : EAddr} {c : BitVec 2} {e : ElemCtx} (h : Formed κ s) (he : ElemFormed κ e) : Formed κ (s.setElem ea c e) :=
  h.withElems (h.elems.set he)
theorem Formed.modElem {ea : EAddr} {c : BitVec 2} {f : ElemCtx → ElemCtx} (h : Formed κ s) (hf : ∀ e, ElemFormed κ e → ElemFormed κ (f e)) :
    Formed κ (s.modElem ea c f) :=
  h.setElem (hf _ h.elem)
theorem Formed.setPort {ea : EAddr} {v : CfgPort} (h : Formed κ s) : Formed κ (s.setPort ea v) := h.withPorts (h.ports.set)
theorem Formed.setSq {b : BitVec 6} {v : Sq} (h : Formed κ s) : Formed κ (s.setSq b v) := h.withSqs (h.sqs.set)
theorem Formed.modSq {b : BitVec 6} {f : Sq → Sq} (h : Formed κ s) : Formed κ (s.modSq b f) := h.setSq
theorem Formed.setPart {p : Nat} {v : Part} (h : Formed κ s) : Formed κ (s.setPart p v) := h.withParts (h.parts.set)
theorem Formed.modPart {p : Nat} {f : Part → Part} (h : Formed κ s) : Formed κ (s.modPart p f) := h.setPart
theorem Formed.setQueue {q : BitVec 12} {v : WorkQueue} (h : Formed κ s) : Formed κ (s.setQueue q v) := h.withQueues (h.queues.set)
theorem Formed.modQueue {q : BitVec 12} {f : WorkQueue → WorkQueue} (h : Formed κ s) : Formed κ (s.modQueue q f) := h.setQueue
theorem Formed.setEngine {b : BitVec 6} {q : BitVec 4} {v : EngQueue} (h : Formed κ s) : Formed κ (s.setEngine b q v) := h.withEngines (h.engines.set)
theorem Formed.setBarrier {o : Nat} {v : Barrier} (h : Formed κ s) : Formed κ (s.setBarrier o v) := h.withBarriers (h.barriers.set)
theorem Formed.setChannel {c : Nat} {v : Channel} (h : Formed κ s) : Formed κ (s.setChannel c v) := h.withChannels (h.channels.set)
theorem Formed.setLink {l : Nat} {v : Link} (h : Formed κ s) : Formed κ (s.setLink l v) := h.withLinks (h.links.set)
theorem Formed.modLaunch {o : Nat} {f : Launch → Launch} (h : Formed κ s) : Formed κ (s.modLaunch o f) := h
theorem Formed.modPlat {f : Plat → Plat} (h : Formed κ s) : Formed κ (s.modPlat f) := h
theorem Formed.log {e : PcLog} (h : Formed κ s) : Formed κ (s.log e) := h
theorem Formed.takeFree (h : Formed κ s) : Formed κ s.takeFree := h
theorem Formed.takeTrap {b : BitVec 6} {code sub : BitVec 8} {d : BitVec 48} (h : Formed κ s) : Formed κ (takeTrap s b code sub d) := h.modSq

theorem Formed.task {u : Nat} {t : Task} (h : Formed κ s) (ht : s.task? u = some t) : TaskFormed κ t := h.tasks t (List.mem_of_find?_eq_some ht)

theorem Formed.filterMapTask {l : List Nat} (h : Formed κ s) : TasksFormed κ (l.filterMap s.task?) := by
  intro t ht
  obtain ⟨_, _, hu⟩ := List.mem_filterMap.1 ht
  exact h.task hu

/-- A change of the tasks. -/
theorem Formed.mapTasks {f : Task → Task} (h : Formed κ s) (hf : ∀ t, TaskFormed κ t → TaskFormed κ (f t)) :
    Formed κ { s with tasks := s.tasks.map f } := by
  refine h.withTasks fun t ht => ?_
  obtain ⟨t', ht', rfl⟩ := List.mem_map.1 ht
  exact hf t' (h.tasks t' ht')

theorem Formed.modTask {u : Nat} {f : Task → Task} (h : Formed κ s) (hf : ∀ t, TaskFormed κ t → TaskFormed κ (f t)) : Formed κ (s.modTask u f) := by
  refine h.mapTasks fun t ht => ?_
  split
  · exact hf t ht
  · exact ht

end

theorem Formed.ite {c : Prop} [Decidable c] {s s' : State} (h : Formed κ s) (h' : Formed κ s') : Formed κ (if c then s else s') := by
  split
  · exact h
  · exact h'

/-- The machine in a pair, whichever way a condition goes. -/
theorem Formed.iteFst {α : Type} {c : Prop} [Decidable c] {x y : State × α} (h : Formed κ x.1) (h' : Formed κ y.1) : Formed κ (if c then x else y).1 := by
  split
  · exact h
  · exact h'

theorem Formed.foldl {β : Type} {f : State → β → State} {l : List β} (h : Formed κ s) (hf : ∀ s b, Formed κ s → Formed κ (f s b)) :
    Formed κ (l.foldl f s) := by
  induction l generalizing s with
  | nil => exact h
  | cons b l ih => exact ih (hf s b h)

theorem Formed.foldlMem {β : Type} {f : State → β → State} {l : List β} (h : Formed κ s) (hf : ∀ s, ∀ b ∈ l, Formed κ s → Formed κ (f s b)) :
    Formed κ (l.foldl f s) := by
  induction l generalizing s with
  | nil => exact h
  | cons b l ih => exact ih (hf s b List.mem_cons_self h) fun s c hc => hf s c (List.mem_cons_of_mem _ hc)

/-- A fold over the banks of an image. -/
theorem Formed.foldlImage {f : State → Nat × Tab Word → State} {l : List (Nat × Tab Word)} (h : Formed κ s) (hl : ImageFormed κ l)
    (hf : ∀ s p, TabFormed κ p.2 → Formed κ s → Formed κ (f s p)) : Formed κ (l.foldl f s) := h.foldlMem fun s p hp => hf s p (hl p hp)

/-- A fold over tasks. -/
theorem Formed.foldlTasks {f : State → Task → State} {l : List Task} (h : Formed κ s) (hl : TasksFormed κ l)
    (hf : ∀ s t, TaskFormed κ t → Formed κ s → Formed κ (f s t)) : Formed κ (l.foldl f s) := h.foldlMem fun s t ht => hf s t (hl t ht)

theorem Formed.elim {β : Type} {o : Option β} {f : β → State} (h : Formed κ s) (hf : ∀ x, Formed κ (f x)) : Formed κ (o.elim s f) := by
  cases o with
  | none => exact h
  | some x => exact hf x

theorem Formed.idOf (h : Formed κ s) : Formed κ (id s) := h

/-- The machine that a fold carries along with a value. -/
theorem Formed.foldlFst {α β : Type} {f : State × α → β → State × α} {x : State × α} {l : List β} (h : Formed κ x.1)
    (hf : ∀ x b, Formed κ x.1 → Formed κ (f x b).1) :
    Formed κ (l.foldl f x).1 := by
  induction l generalizing x with
  | nil => exact h
  | cons b l ih => exact ih (hf x b h)

/-- A machine that stands in a pair. -/
theorem Formed.of_pair {α : Type} {x : State × α} {u : State} {a : α} (h : Formed κ x.1) (hx : x = (u, a)) : Formed κ u := by
  rw [hx] at h
  exact h

theorem OptFormed.of_some {o : Option State} {u : State} (h : OptFormed κ o) (hu : o = some u) : Formed κ u := h u hu
theorem OptFormed.none : OptFormed κ none := fun _ h => nomatch h
theorem OptFormed.some (h : Formed κ s) : OptFormed κ (some s) := fun _ hu => Option.some.inj hu ▸ h
theorem OptFormed.ite {c : Prop} [Decidable c] {o o' : Option State} (h : OptFormed κ o) (h' : OptFormed κ o') : OptFormed κ (if c then o else o') := by
  split
  · exact h
  · exact h'

theorem OutFormed.next (h : Formed κ s) : OutFormed κ (.next s) := fun _ hu => Host.Outcome.next.inj hu ▸ h
theorem OutFormed.fault {r : Fault} : OutFormed κ (.fault r) := fun _ h => nomatch h
theorem OutFormed.refused {r : Refusal} : OutFormed κ (.refused r) := fun _ h => nomatch h
theorem OutFormed.ite {c : Prop} [Decidable c] {r r' : Result} (h : OutFormed κ r) (h' : OutFormed κ r') : OutFormed κ (if c then r else r') := by
  split
  · exact h
  · exact h'

/-- An operator of a stage keeps the form, whatever token it fires on. -/
def StageFormed (κ : Form) (o : StageOp) : Prop :=
  (∀ s v x, Formed κ s → Formed κ (o.data s v x).1) ∧ (∀ s v t, Formed κ s → Formed κ (o.header s v t).1) ∧
    ∀ s v t, Formed κ s → Formed κ (o.marker s v t).1

theorem StageFormed.data {o : StageOp} {v : View} {x : Operands} (ho : StageFormed κ o) (h : Formed κ s) : Formed κ (o.data s v x).1 := ho.1 s v x h
theorem StageFormed.header {o : StageOp} {v : View} {t : Token} (ho : StageFormed κ o) (h : Formed κ s) : Formed κ (o.header s v t).1 := ho.2.1 s v t h
theorem StageFormed.marker {o : StageOp} {v : View} {t : Token} (ho : StageFormed κ o) (h : Formed κ s) : Formed κ (o.marker s v t).1 := ho.2.2 s v t h
theorem StageFormed.of {code : Nat} {fmts : List Nat} {pairB : Bool} {noHeader : Option Nat} {d : State → View → Operands → State × StageOut}
    {f g : State → View → Token → State × StageOut} (hd : ∀ s v x, Formed κ s → Formed κ (d s v x).1)
    (hf : ∀ s v t, Formed κ s → Formed κ (f s v t).1) (hg : ∀ s v t, Formed κ s → Formed κ (g s v t).1) :
    StageFormed κ { code, fmts, pairB, noHeader, data := d, header := f, marker := g } :=
  ⟨hd, hf, hg⟩

end Sys2Proof.Proofs

namespace Sys2Proof.Proofs
open Sys2Proof.Machine

/-! ## The form of the machine that an outcome holds

The model's outcome types hold the machine that an operation leaves. Each has a predicate that says that the machine in it, if any, has the form. -/

variable {κ : Form} {s : State}

/-- The form of the machine in what becomes of a command. -/
def CmdFormed (κ : Form) : CmdOut → Prop
  | .held => True
  | .ok s _ => Formed κ s
  | .rejected s _ => Formed κ s

theorem CmdFormed.held : CmdFormed κ CmdOut.held := trivial
theorem CmdFormed.ok {x : List Word} (h : Formed κ s) : CmdFormed κ (CmdOut.ok s x) := h
theorem CmdFormed.of_ok {r : CmdOut} {x : List Word} (h : CmdFormed κ r) (hr : r = CmdOut.ok s x) : Formed κ s := by subst hr; exact h
theorem CmdFormed.rejected {x : Word} (h : Formed κ s) : CmdFormed κ (CmdOut.rejected s x) := h
theorem CmdFormed.of_rejected {r : CmdOut} {x : Word} (h : CmdFormed κ r) (hr : r = CmdOut.rejected s x) : Formed κ s := by subst hr; exact h

/-- The form of the machine in what becomes of a load. -/
def LoadFormed (κ : Form) : LoadOut → Prop
  | .held => True
  | .done s => Formed κ s
  | .failed s _ => Formed κ s

theorem LoadFormed.held : LoadFormed κ LoadOut.held := trivial
theorem LoadFormed.done (h : Formed κ s) : LoadFormed κ (LoadOut.done s) := h
theorem LoadFormed.of_done {r : LoadOut} (h : LoadFormed κ r) (hr : r = LoadOut.done s) : Formed κ s := by subst hr; exact h
theorem LoadFormed.failed {x : Word} (h : Formed κ s) : LoadFormed κ (LoadOut.failed s x) := h
theorem LoadFormed.of_failed {r : LoadOut} {x : Word} (h : LoadFormed κ r) (hr : r = LoadOut.failed s x) : Formed κ s := by subst hr; exact h

/-- The form of the machine in a fed address. -/
def PageFormed (κ : Form) : PageFed → Prop
  | .el s _ _ _ _ => Formed κ s
  | .empty => True
  | .stop s _ => Formed κ s

theorem PageFormed.el {x1 : Nat} {x2 x3 : Bool} {x4 : Nat} (h : Formed κ s) : PageFormed κ (PageFed.el s x1 x2 x3 x4) := h
theorem PageFormed.of_el {r : PageFed} {x1 : Nat} {x2 x3 : Bool} {x4 : Nat} (h : PageFormed κ r) (hr : r = PageFed.el s x1 x2 x3 x4) : Formed κ s :=
  by subst hr; exact h
theorem PageFormed.ite {c : Prop} [Decidable c] {r r' : PageFed} (h : PageFormed κ r) (h' : PageFormed κ r') : PageFormed κ (if c then r else r') := by
  split
  · exact h
  · exact h'
theorem PageFormed.empty : PageFormed κ PageFed.empty := trivial
theorem PageFormed.stop {x : AgnStop} (h : Formed κ s) : PageFormed κ (PageFed.stop s x) := h
theorem PageFormed.of_stop {r : PageFed} {x : AgnStop} (h : PageFormed κ r) (hr : r = PageFed.stop s x) : Formed κ s := by subst hr; exact h

/-- The form of the machine in what becomes of a word. -/
def WordFormed (κ : Form) : WordOut → Prop
  | .old s _ _ => Formed κ s
  | .full => True
  | .nan s => Formed κ s

theorem WordFormed.old {x1 : Nat} {x2 : Bool} (h : Formed κ s) : WordFormed κ (WordOut.old s x1 x2) := h
theorem WordFormed.of_old {r : WordOut} {x1 : Nat} {x2 : Bool} (h : WordFormed κ r) (hr : r = WordOut.old s x1 x2) : Formed κ s := by subst hr; exact h
theorem WordFormed.full : WordFormed κ WordOut.full := trivial
theorem WordFormed.nan (h : Formed κ s) : WordFormed κ (WordOut.nan s) := h
theorem WordFormed.of_nan {r : WordOut} (h : WordFormed κ r) (hr : r = WordOut.nan s) : Formed κ s := by subst hr; exact h

/-- The form of the machine in what becomes of a probe. -/
def ProbedFormed (κ : Form) : Probed → Prop
  | .value s _ => Formed κ s
  | .missing s => Formed κ s
  | .failed s => Formed κ s
  | .stop s _ => Formed κ s

theorem ProbedFormed.value {x : Nat} (h : Formed κ s) : ProbedFormed κ (Probed.value s x) := h
theorem ProbedFormed.of_value {r : Probed} {x : Nat} (h : ProbedFormed κ r) (hr : r = Probed.value s x) : Formed κ s := by subst hr; exact h
theorem ProbedFormed.missing (h : Formed κ s) : ProbedFormed κ (Probed.missing s) := h
theorem ProbedFormed.of_missing {r : Probed} (h : ProbedFormed κ r) (hr : r = Probed.missing s) : Formed κ s := by subst hr; exact h
theorem ProbedFormed.failed (h : Formed κ s) : ProbedFormed κ (Probed.failed s) := h
theorem ProbedFormed.of_failed {r : Probed} (h : ProbedFormed κ r) (hr : r = Probed.failed s) : Formed κ s := by subst hr; exact h
theorem ProbedFormed.stop {x : AgnStop} (h : Formed κ s) : ProbedFormed κ (Probed.stop s x) := h
theorem ProbedFormed.of_stop {r : Probed} {x : AgnStop} (h : ProbedFormed κ r) (hr : r = Probed.stop s x) : Formed κ s := by subst hr; exact h

/-- The form of the machine in what becomes of a spawn request. -/
def SpawnFormed (κ : Form) : SpawnOut → Prop
  | .done s => Formed κ s
  | .wait s => Formed κ s
  | .hold s _ => Formed κ s

theorem SpawnFormed.done (h : Formed κ s) : SpawnFormed κ (SpawnOut.done s) := h
theorem SpawnFormed.of_done {r : SpawnOut} (h : SpawnFormed κ r) (hr : r = SpawnOut.done s) : Formed κ s := by subst hr; exact h
theorem SpawnFormed.wait (h : Formed κ s) : SpawnFormed κ (SpawnOut.wait s) := h
theorem SpawnFormed.of_wait {r : SpawnOut} (h : SpawnFormed κ r) (hr : r = SpawnOut.wait s) : Formed κ s := by subst hr; exact h
theorem SpawnFormed.hold {x : Nat} (h : Formed κ s) : SpawnFormed κ (SpawnOut.hold s x) := h
theorem SpawnFormed.of_hold {r : SpawnOut} {x : Nat} (h : SpawnFormed κ r) (hr : r = SpawnOut.hold s x) : Formed κ s := by subst hr; exact h

/-- The form of the machine in a trial of a launch. -/
def TryFormed (κ : Form) : TryOut → Prop
  | .fits s => Formed κ s
  | .busy => True
  | .later => True
  | .reject _ _ _ _ _ => True
  | .failed s _ _ _ _ => Formed κ s

theorem TryFormed.fits (h : Formed κ s) : TryFormed κ (TryOut.fits s) := h
theorem TryFormed.of_fits {r : TryOut} (h : TryFormed κ r) (hr : r = TryOut.fits s) : Formed κ s := by subst hr; exact h
theorem TryFormed.busy : TryFormed κ TryOut.busy := trivial
theorem TryFormed.later : TryFormed κ TryOut.later := trivial
theorem TryFormed.reject {x1 x2 x3 x4 x5 : Nat} : TryFormed κ (TryOut.reject x1 x2 x3 x4 x5) := trivial
theorem TryFormed.failed {x1 x2 x3 x4 : Nat} (h : Formed κ s) : TryFormed κ (TryOut.failed s x1 x2 x3 x4) := h

/-- The form of the machine in a pair that may be there. -/
def OptFstFormed {α : Type} (κ : Form) : Option (State × α) → Prop
  | none => True
  | some x => Formed κ x.1

theorem OptFstFormed.none {α : Type} : OptFstFormed κ (none : Option (State × α)) := trivial
theorem OptFstFormed.some {α : Type} {x : State × α} (h : Formed κ x.1) : OptFstFormed κ (some x) := h
theorem OptFstFormed.of_some {α : Type} {o : Option (State × α)} {u : State} {x : α} (h : OptFstFormed κ o) (ho : o = Option.some (u, x)) : Formed κ u := by
  subst ho; exact h

theorem OptFstFormed.map {α : Type} {o : Option State} {f : State → State × α} (h : OptFormed κ o) (hf : ∀ s, Formed κ s → Formed κ (f s).1) :
    OptFstFormed κ (o.map f) := by
  cases o with
  | none => trivial
  | some s => exact hf s (h s rfl)
theorem OptFstFormed.mapPair {α β : Type} {o : Option (State × α)} {f : State × α → State × β} (h : OptFstFormed κ o)
    (hf : ∀ x, Formed κ x.1 → Formed κ (f x).1) : OptFstFormed κ (o.map f) := by
  cases o with
  | none => trivial
  | some x => exact hf x h
theorem OptFstFormed.bindPair {α β : Type} {o : Option (State × α)} {f : State × α → Option (State × β)} (h : OptFstFormed κ o)
    (hf : ∀ x, Formed κ x.1 → OptFstFormed κ (f x)) : OptFstFormed κ (o.bind f) := by
  cases o with
  | none => trivial
  | some x => exact hf x h
theorem OptFstFormed.bind {α β : Type} {o : Option β} {f : β → Option (State × α)} (hf : ∀ x, OptFstFormed κ (f x)) : OptFstFormed κ (o.bind f) := by
  cases o with
  | none => trivial
  | some x => exact hf x
theorem OptFstFormed.foldl {α β : Type} {f : Option (State × α) → β → Option (State × α)} {l : List β} {o : Option (State × α)} (h : OptFstFormed κ o)
    (hf : ∀ o b, OptFstFormed κ o → OptFstFormed κ (f o b)) : OptFstFormed κ (l.foldl f o) := by
  induction l generalizing o with
  | nil => exact h
  | cons b l ih => exact ih (hf o b h)

/-- The form of the machine in what may be an error. -/
def ExceptFormed {α : Type} (κ : Form) : Except α State → Prop
  | .error _ => True
  | .ok s => Formed κ s

theorem ExceptFormed.error {α : Type} {x : α} : ExceptFormed κ (Except.error x) := trivial
theorem ExceptFormed.ok {α : Type} (h : Formed κ s) : ExceptFormed κ (Except.ok s : Except α State) := h
theorem ExceptFormed.of_ok {α : Type} {r : Except α State} (h : ExceptFormed κ r) (hr : r = Except.ok s) : Formed κ s := by subst hr; exact h

/-- The form of the machine in what a map has given. -/
def MappedFormed (κ : Form) : Mapped → Prop
  | .ok _ => True
  | .retired _ => True
  | .bad o => TryFormed κ o

theorem MappedFormed.ok {x : Config.Placed} : MappedFormed κ (.ok x) := trivial
theorem MappedFormed.retired {n : Nat} : MappedFormed κ (.retired n) := trivial
theorem MappedFormed.bad {o : TryOut} (h : TryFormed κ o) : MappedFormed κ (.bad o) := h
theorem MappedFormed.of_bad {m : Mapped} {o : TryOut} (h : MappedFormed κ m) (hm : m = .bad o) : TryFormed κ o := by subst hm; exact h

end Sys2Proof.Proofs

namespace Sys2Proof.Proofs
open Sys2Proof.Machine

/-! # The form of the machine: elements

From here on there is one lemma for each function of the model that gives a machine (or a context, a site, a task): the function keeps the form. The
lemmas stand in the order of the model's files, so that each proof follows the branches of its function and cites the lemmas of what it calls. -/

variable {κ : Form}

/-! ## The state and its accessors (Machine/State.lean) -/

theorem Formed.reset : Formed κ State.reset :=
  ⟨fun _ => ⟨rfl, rfl, rfl⟩, fun _ => reset_tables⟩

/-! ## Links (Machine/Links.lean) -/

theorem Formed.peerRequest {s : State} {a : Aperture} {va : Nat} (h : Formed κ s) : Formed κ (peerRequest s a va).1 := by
  unfold Machine.peerRequest
  extract_lets refused pay s1
  have h1 : Formed κ s1 := h.takeFree
  clear_value s1
  split
  · exact h1
  · exact h1.setLink

theorem Formed.crossLink {s : State} {src dst : SiteNo} {pay : Line} (h : Formed κ s) : Formed κ (crossLink s src dst pay).1 := by
  unfold Machine.crossLink
  split
  · exact h
  · exact h.setLink

/-! ## Faults (Machine/Fault.lean) -/

theorem Formed.raiseRecord {s : State} {ea : EAddr} {ctx : BitVec 2} {stop : Bool} {f : FaultInfo} (h : Formed κ s) :
    Formed κ (raiseRecord s ea ctx stop f) := by
  unfold Machine.raiseRecord
  extract_lets
  exact h.modPart

theorem Formed.noteFault {s : State} {task : Option Nat} {ea : EAddr} {fnum : Nat} {f : FaultInfo} (h : Formed κ s) :
    Formed κ (noteFault s task ea fnum f) := by
  unfold Machine.noteFault
  split
  · exact h
  · exact h.modTask (fun t ht => ht)

theorem Formed.stopFault {s : State} {ea : EAddr} {ctx : BitVec 2} {f : FaultInfo} (h : Formed κ s) : Formed κ (stopFault s ea ctx f) := by
  unfold Machine.stopFault
  extract_lets task s1 fnum s2 s3
  have h1 : Formed κ s1 := h.raiseRecord
  have h2 : Formed κ s2 := h1.modElem (fun e he => he)
  have h3 : Formed κ s3 := .ite (h2.modSite (fun r hr => hr)) h2
  clear_value s1 s2 s3
  exact h3.noteFault

theorem Formed.countErr {s : State} {ea : EAddr} {which : Nat} (h : Formed κ s) : Formed κ (countErr s ea which) := by
  unfold Machine.countErr
  extract_lets
  exact h.modSite (fun r hr => hr.withEcnt hr.ecnt.mod)

theorem Formed.loggedRecord {s : State} {ea : EAddr} {ctx : BitVec 2} {f : FaultInfo} (h : Formed κ s) : Formed κ (loggedRecord s ea ctx f) := by
  unfold Machine.loggedRecord
  extract_lets
  exact h.ite (.raiseRecord (h.modSite (fun r hr => hr)))

theorem Formed.parityRecord {s : State} {ea : EAddr} {ctx : BitVec 2} {unit chan : Nat} {t : Token} (h : Formed κ s) :
    Formed κ (parityRecord s ea ctx unit chan t) :=
  h.countErr.loggedRecord

theorem Formed.poisonTask {s : State} {task : Option Nat} (h : Formed κ s) : Formed κ (poisonTask s task) := by
  unfold Machine.poisonTask
  split
  · exact h
  · exact h.modTask (fun t ht => ht)

theorem Formed.addRepair {s : State} {task : Option Nat} {t : Token} (h : Formed κ s) : Formed κ (addRepair s task t) := by
  unfold Machine.addRepair
  split
  · exact h
  · exact h.modTask (fun t1 ht => .ite ht (ht.ite (.ite ht ht)))

theorem Formed.countSuppressed {s : State} {ea : EAddr} (h : Formed κ s) : Formed κ (countSuppressed s ea) := h.countErr

/-! ## Contexts and ports (Machine/Fabric.lean) -/

theorem Formed.traceRecord {s : State} {ea : EAddr} {ctx : BitVec 2} {evt : Nat} {t : Token} (h : Formed κ s) : Formed κ (traceRecord s ea ctx evt t) := by
  unfold Machine.traceRecord
  extract_lets
  exact h.ite ((h.withDmem h.dmem.setNat).ite (h.withDmem h.dmem.setBytes.setNat))

theorem Formed.traceEvent {s : State} {ea : EAddr} {ctx : BitVec 2} {evt : Nat} {t : Token} (h : Formed κ s) : Formed κ (traceEvent s ea ctx evt t) :=
  h.traceRecord.ite h

theorem Formed.noteFiring {s : State} {ea : EAddr} {ctx : BitVec 2} {opIdx : Nat} {t : Token} (h : Formed κ s) : Formed κ (noteFiring s ea ctx opIdx t) := by
  unfold Machine.noteFiring
  extract_lets e tr take s1 s2 s3
  have he : ElemFormed κ e := h.elem
  have h1 : Formed κ s1 := by
    unfold s1
    refine h.modElem ?_
    intro e1 he1
    extract_lets o src
    have hsrc : ElemFormed κ src := he1.setOp
    clear_value src
    exact hsrc.withIi he1.ii.mod
  have h2 : Formed κ s2 := h1.traceRecord.ite h1
  have h3 : Formed κ s3 := h2.traceEvent.ite h2
  clear_value e s1 s2 s3
  split
  · exact h3
  · exact h3.modTask (fun t1 ht => ht)

theorem Formed.taskFault {s : State} {uid cls : Nat} {end_ : BitVec 4} {aux : Nat} (h : Formed κ s) : Formed κ (taskFault s uid cls end_ aux) := by
  unfold Machine.taskFault
  split
  · exact h
  · extract_lets ea p n _ f s1
    have h1 : Formed κ s1 := h.modPart
    clear_value s1
    exact h1.modTask (fun t ht => ht)

theorem Formed.receiveToken {s : State} {ea : EAddr} {ctx : BitVec 2} {port : Nat} {t : Token} (h : Formed κ s) :
    Formed κ (receiveToken s ea ctx port t).1 := by
  unfold Machine.receiveToken
  refine .iteFst ?_ h
  split
  · exact h
  · exact h.countErr.loggedRecord

theorem Formed.sinkToken {s : State} {ea : EAddr} {ctx : BitVec 2} {t : Token} (h : Formed κ s) : Formed κ (sinkToken s ea ctx t) := by
  unfold Machine.sinkToken
  refine .ite ?_ h
  split
  · exact h
  · split
    · exact (h.taskFault.ite h.poisonTask).ite h.addRepair
    · exact h

theorem ElemFormed.countSlot {e : ElemCtx} {d c n : Nat} (he : ElemFormed κ e) : ElemFormed κ (countSlot e d c n) := he.withIi he.ii.mod

theorem Formed.pushData {s : State} {site : SiteNo} {ctx : BitVec 2} {t : Token} {d : Dest} (h : Formed κ s) : Formed κ (pushData s site ctx t d) := by
  unfold Machine.pushData
  split
  · exact h.modElem (fun e he => he)
  · split
    · exact .modElem (h.receiveToken.of_pair ‹_›) (fun e he => he.setQueue)
  · exact h.modElem (fun e he => he.setQueue)

theorem Formed.pushCtl {s : State} {site : SiteNo} {ctx : BitVec 2} {c : Ctl} {d : Dest} (h : Formed κ s) : Formed κ (pushCtl s site ctx c d) := by
  unfold Machine.pushCtl
  split
  · exact h.modElem (fun e he => he)
  · exact h.modElem (fun e he => he.setCtlQueue)
  · exact h.modElem (fun e he => he.setCtlQueue)

theorem Formed.deliverData {s : State} {site : SiteNo} {ctx : BitVec 2} {code : Nat} {t : Token} (h : Formed κ s) :
    Formed κ (deliverData s site ctx code t) := by
  unfold Machine.deliverData
  split
  · exact h.sinkToken
  · exact h.foldl (fun s1 b h1 => h1.pushData)

theorem Formed.deliverCtl {s : State} {site : SiteNo} {ctx : BitVec 2} {code : Nat} {c : Ctl} (h : Formed κ s) : Formed κ (deliverCtl s site ctx code c) :=
  h.foldl (fun _ _ h1 => h1.pushCtl)

theorem Formed.outputSend {s : State} {ea : EAddr} {ctx : BitVec 2} {p : Nat} {t : Token} (h : Formed κ s) : Formed κ (outputSend s ea ctx p t) := by
  unfold Machine.outputSend
  refine .ite ?_ h
  split
  · exact .deliverData (h.receiveToken.of_pair ‹_›)

theorem Formed.ctlOutputSend {s : State} {ea : EAddr} {ctx : BitVec 2} {c : Nat} {k : Ctl} (h : Formed κ s) : Formed κ (ctlOutputSend s ea ctx c k) :=
  h.deliverCtl

/-! ## The operands of the stages (Machine/Operands.lean) -/

theorem Formed.pureData {code : Nat} {f : View → Operands → BitVec 16 × ElemResult} {s : State} {v : View} {o : Operands} (h : Formed κ s) :
    Formed κ (pureData code f s v o).1 := by
  unfold Machine.pureData
  split
  · split
    · exact h.iteFst h
    · exact h

theorem Formed.forward {s : State} {v : View} {t : Token} (h : Formed κ s) : Formed κ (forward s v t).1 := h

theorem StageFormed.plainOp {code : Nat} {fmts : List Nat} {f : View → Operands → BitVec 16 × ElemResult} : StageFormed κ (plainOp code fmts f) :=
  .of (fun _ _ _ h => h.pureData) (fun _ _ _ h => h.forward) (fun _ _ _ h => h.forward)

theorem ElemFormed.passOn {e : ElemCtx} {p : Pass} {t : Option Token} (he : ElemFormed κ e) (hp : PortsFormed κ p) : ElemFormed κ (passOn e p t) := by
  unfold Machine.passOn
  refine he.withPass ?_
  split
  · exact .none
  · exact .some hp

theorem Formed.emitResults {s : State} {v : View} {p : Pass} {l : List Token} (h : Formed κ s) (hp : PortsFormed κ p) : Formed κ (emitResults s v p l) := by
  unfold Machine.emitResults
  split
  · exact h.modElem (fun e he => he.passOn hp)
  · extract_lets isData s1 s2
    have h1 : Formed κ s1 := h.outputSend.ite h
    have h2 : Formed κ s2 := h1.poisonTask.ite h1
    clear_value s1 s2
    refine h2.modElem ?_
    intro e he
    extract_lets e1 o e2
    have he1 : ElemFormed κ e1 := he.setK.ite he
    have he2 : ElemFormed κ e2 := he1.setOp
    clear_value e1 e2
    exact he2.passOn hp

theorem Formed.checkerFires {s : State} {v : View} {t : Token} {r : StageOut} (h : Formed κ s) : Formed κ (checkerFires s v t r).1 :=
  h.countErr.loggedRecord.iteFst h

theorem Formed.applyOut {s : State} {v : View} {p : Pass} {t : Token} {r : StageOut} (h : Formed κ s) (hp : PortsFormed κ p) :
    Formed κ (applyOut s v p t r) := by
  unfold Machine.applyOut
  split
  · split
    · exact .traceEvent (.stopFault (h.checkerFires.of_pair ‹_›))
    · refine .ite (.modElem (h.checkerFires.of_pair ‹_›) (fun e he => he.setOp)) ?_
      extract_lets s1 s2 _ s3 s4
      have h1 : Formed κ s1 := .noteFiring (h.checkerFires.of_pair ‹_›)
      have h2 : Formed κ s2 := h1.poisonTask.ite h1
      have h3 : Formed κ s3 := by
        unfold s3
        refine h2.modElem ?_
        intro e he
        extract_lets e1
        have he1 : ElemFormed κ e1 := he.setOp
        clear_value e1
        split
        · exact he1
        · exact he1.setK
      have h4 : Formed κ s4 := h3.foldl (fun s5 b h4 => h4.ctlOutputSend)
      clear_value s1 s2 s3 s4
      exact h4.emitResults hp

theorem Formed.fireStage {s : State} {v : View} {p : Pass} {o : StageOp} (h : Formed κ s) (hp : PortsFormed κ p) (ho : StageFormed κ o) :
    Formed κ (fireStage s v p o) := by
  unfold Machine.fireStage
  extract_lets codes portCodes ports lead pg decodes follows aux stopOn stop gate pop tagIt finish _ fmtOk f count x
  have htopOn : ∀ (sub : Nat) (t : Token), Formed κ (stopOn sub t) := fun sub t => h.applyOut hp
  have htop : ∀ (sub : Nat), Formed κ (stop sub) := fun sub => htopOn _ _
  have hpop : ∀ (s : State), Formed κ s → Formed κ (pop s) := fun s1 h1 => .ite (h1.modElem (fun e he => he.setCtlQueue)) h1
  have htagIt : ∀ (b : Bool) (s : State), Formed κ s → Formed κ (tagIt b s) := fun b s1 h1 => h1.parityRecord.ite h1
  have hfinih : ∀ (tag : Bool) (s : State) (r : StageOut), Formed κ s → Formed κ (finish tag s r) :=
    fun tag s1 r h1 => (h1.applyOut hp).ite ((htagIt _ _ (hpop _ h1)).applyOut hp)
  clear_value stopOn stop pop tagIt finish
  split
  · exact htopOn _ _
  · split
    · exact htop _
    · split
      · exact htop _
      · split
        · exact h
        · exact htop _
        · exact hfinih _ _ _ h
        · split
          · refine (htop _).ite ?_
            extract_lets op op1
            split
            · exact hfinih _ _ _ ((ho.header h).of_pair ‹_›)
          · extract_lets x1 op randPair
            split
            · exact hfinih _ _ _ ((ho.data h).of_pair ‹_›)
          · split
            · exact hfinih _ _ _ ((ho.marker h).of_pair ‹_›)

theorem Formed.stageStep {s : State} {ea : EAddr} {ctx : BitVec 2} {w : OpWord} {o : StageOp} (h : Formed κ s) (ho : StageFormed κ o) :
    Formed κ (stageStep s ea ctx w o) := by
  unfold Machine.stageStep
  extract_lets e
  have he : ElemFormed κ e := h.elem
  clear_value e
  split
  · exact h
  · extract_lets v _ b e1
    have he1 : ElemFormed κ e1 := he.setQueue
    clear_value e1
    refine h.ite ?_
    split
    · exact .ite (h.emitResults (he.pass.of_some ‹_›)) h
    · refine .ite (h.modElem (fun e2 he2 => he2.passOn (he.pass.of_some ‹_›))) ?_
      refine .ite ?_ (h.modElem (fun e2 he2 => he2.passOn (he.pass.of_some ‹_›)))
      refine h.ite ?_
      split
      · exact h.fireStage (he.pass.of_some ‹_›) ho
      · exact h
      · exact .ite ((h.setElem he1).fireStage (.withPorts (he.pass.of_some ‹_›) (.set (PortsFormed.ports (he.pass.of_some ‹_›)))) ho)
          (h.applyOut (he.pass.of_some ‹_›))

theorem OutFormed.runStage {s : State} {w : OpWord} {o : StageOp} (h : Formed κ s) (ho : StageFormed κ o) : OutFormed κ (runStage s w o) := by
  unfold Machine.runStage
  split
  · exact .next (h.stageStep ho)
  · exact .refused

/-! ## Routers (Machine/Router.lean) -/

theorem ElemFormed.popData {r : ElemCtx} {n i : Nat} (he : ElemFormed κ r) : ElemFormed κ (r.popData n i) := he.setQueue

theorem ElemFormed.popCtl {r : ElemCtx} {n i : Nat} (he : ElemFormed κ r) : ElemFormed κ (r.popCtl n i) := he.setCtlQueue

theorem Formed.slotSend {s : State} {v : SlotView} {data : List (Nat × Token)} {ctl : List (Nat × Ctl)} (h : Formed κ s) :
    Formed κ (slotSend s v data ctl) := by
  unfold Machine.slotSend
  extract_lets s1
  have h1 : Formed κ s1 := h.foldl (fun s2 b h1 => h1.deliverData)
  clear_value s1
  exact h1.foldl (fun s2 b h2 => h2.deliverCtl)

theorem Formed.applySlot {s : State} {v : SlotView} {code : Nat} {lead : Token} {o : SlotOut} (h : Formed κ s) : Formed κ (applySlot s v code lead o) := by
  unfold Machine.applySlot
  extract_lets ea s1 s2 _ s3 s4 s5 s6
  have h1 : Formed κ s1 := h.noteFiring
  have h2 : Formed κ s2 := h1.poisonTask.ite h1
  have h3 : Formed κ s3 := by
    unfold s3
    refine h2.modElem ?_
    intro e he
    extract_lets r r1
    have hr : ElemFormed κ r := he.foldl (fun e1 b he1 => he1.popData)
    have hr1 : ElemFormed κ r1 := hr.foldl (fun e1 b he1 => he1.popCtl)
    clear_value r r1
    exact hr1.setOp
  have h4 : Formed κ s4 := h3.foldl (fun s7 b h4 => h4.parityRecord)
  have h5 : Formed κ s5 := h4.poisonTask.ite h4
  have h6 : Formed κ s6 := by
    unfold s6
    split
    · exact h5.sinkToken
    · exact h5
  clear_value s1 s2 s3 s4 s5 s6
  split
  · exact h.stopFault.traceEvent
  · exact h6.slotSend.ite h

theorem Formed.slotCut {s : State} {v : SlotView} {code : Nat} (h : Formed κ s) : Formed κ (slotCut s v code) := by
  unfold Machine.slotCut
  extract_lets t out _ o ea _ s1
  have h1 : Formed κ s1 := by
    unfold s1
    refine h.modElem ?_
    intro e he
    extract_lets r
    have hr : ElemFormed κ r := by
      unfold r
      refine he.foldl ?_
      intro e1 b he1
      split
      · exact he1.setQueue
      · exact he1.setCtlQueue
    clear_value r
    exact hr.setOp
  clear_value s1
  exact h1.slotSend.traceEvent.ite h

theorem Formed.fireSlot {s : State} {v : SlotView} {code : Nat} {f : SlotView → Option (Token × SlotOut)} (h : Formed κ s) :
    Formed κ (fireSlot s v code f) := by
  unfold Machine.fireSlot
  refine h.ite ?_
  refine h.slotCut.ite ?_
  split
  · exact h.slotCut.ite h
  · exact h.applySlot

theorem OutFormed.runSlot {s : State} {w : OpWord} {f : State → SlotView → State} (h : Formed κ s) (hf : ∀ (u : State)
    (x : SlotView), Formed κ u → Formed κ (f u x)) : OutFormed κ (runSlot s w f) := by
  unfold Machine.runSlot
  split
  · exact .next (hf _ _ h)
  · exact .refused

theorem OutFormed.execSteer {w : OpWord} {s : State} (h : Formed κ s) : OutFormed κ (execSteer w s) := .runSlot h (fun _ _ h1 => h1.fireSlot)

theorem OutFormed.execMerge {w : OpWord} {s : State} (h : Formed κ s) : OutFormed κ (execMerge w s) := .runSlot h (fun _ _ h1 => h1.fireSlot)

theorem Formed.loopReturns {s : State} {v : SlotView} (h : Formed κ s) : Formed κ (loopReturns s v) := by
  unfold Machine.loopReturns
  refine h.modElem ?_
  intro e he
  extract_lets kb kc back ctl n r
  have hr : ElemFormed κ r := he.setQueue.setCtlQueue
  clear_value r
  exact hr.setOp

theorem Formed.loopCut {s : State} {v : SlotView} {code : Nat} (h : Formed κ s) : Formed κ (loopCut s v code) := by
  unfold Machine.loopCut
  extract_lets t out _ ea k _ s1
  have h1 : Formed κ s1 := h.modElem (fun e he => he.setQueue.setOp)
  clear_value s1
  exact h1.slotSend.traceEvent.ite h

theorem Formed.fireLoop {s : State} {v : SlotView} {code : Nat} {f : SlotView → Option (Token × SlotOut)} (h : Formed κ s) :
    Formed κ (fireLoop s v code f) := by
  unfold Machine.fireLoop
  refine h.ite ?_
  refine h.loopReturns.ite ?_
  refine h.loopCut.ite ?_
  split
  · exact h
  · exact h.applySlot

theorem OutFormed.execCarry {w : OpWord} {s : State} (h : Formed κ s) : OutFormed κ (execCarry w s) := .runSlot h (fun _ _ h1 => h1.fireLoop)

theorem OutFormed.execInvr {w : OpWord} {s : State} (h : Formed κ s) : OutFormed κ (execInvr w s) := .runSlot h (fun _ _ h1 => h1.fireLoop)

theorem OutFormed.execFork {w : OpWord} {s : State} (h : Formed κ s) : OutFormed κ (execFork w s) := .runSlot h (fun _ _ h1 => h1.fireSlot)

theorem OutFormed.execSink {w : OpWord} {s : State} (h : Formed κ s) : OutFormed κ (execSink w s) := .runSlot h (fun _ _ h1 => h1.fireSlot)

theorem OutFormed.execGate {w : OpWord} {s : State} (h : Formed κ s) : OutFormed κ (execGate w s) := .runSlot h (fun _ _ h1 => h1.fireSlot)

theorem OutFormed.execCand {w : OpWord} {s : State} (h : Formed κ s) : OutFormed κ (execCand w s) := .runSlot h (fun _ _ h1 => h1.fireSlot)

theorem OutFormed.execCor {w : OpWord} {s : State} (h : Formed κ s) : OutFormed κ (execCor w s) := .runSlot h (fun _ _ h1 => h1.fireSlot)

theorem OutFormed.execCnot {w : OpWord} {s : State} (h : Formed κ s) : OutFormed κ (execCnot w s) := .runSlot h (fun _ _ h1 => h1.fireSlot)

theorem OutFormed.execCgen {w : OpWord} {s : State} (h : Formed κ s) : OutFormed κ (execCgen w s) := .runSlot h (fun _ _ h1 => h1.fireSlot)

theorem OutFormed.execTourn {w : OpWord} {s : State} (h : Formed κ s) : OutFormed κ (execTourn w s) := .runSlot h (fun _ _ h1 => h1.fireSlot)

theorem OutFormed.execRdig {w : OpWord} {s : State} (h : Formed κ s) : OutFormed κ (execRdig w s) := .runSlot h (fun _ _ h1 => h1.fireSlot)

/-! ## Compute tiles (Machine/Kelpie.lean) -/

theorem Formed.memberSend {s : State} {v : SlotView} {t : Token} {m : Nat} (h : Formed κ s) : Formed κ (memberSend s v t m) := h.deliverData

theorem Formed.kelpBad {s : State} {v : SlotView} {t : Token} (h : Formed κ s) : Formed κ (kelpBad s v t) := h.stopFault

theorem Formed.setKelp {s : State} {v : SlotView} {k : Kelp} (h : Formed κ s) : Formed κ (setKelp s v k) := h.modElem (fun _ he => he)

theorem Formed.takeReturn {s : State} {v : SlotView} {k : Kelp} {m : Nat} {x : Return} (h : Formed κ s) : Formed κ (takeReturn s v k m x) := by
  unfold Machine.takeReturn
  extract_lets n turn mine k1 popC popD f head s1
  have hpopC : ∀ (s : State), Formed κ s → Formed κ (popC s) := fun s2 h1 => h1.modElem (fun e he => he.popCtl)
  have hpopD : ∀ (s : State), Formed κ s → Formed κ (popD s) := fun s2 h1 => h1.modElem (fun e he => he.popData)
  have h1 : Formed κ s1 := h.parityRecord.ite h
  clear_value popC popD s1
  split
  · exact h
  · exact h.kelpBad
  · exact (hpopD _ (hpopC _ h)).setKelp
  · exact (hpopC _ h).setKelp
  · extract_lets f1 s2 s3
    have h2 : Formed κ s2 := (hpopD _ (hpopC _ h)).ite (hpopC _ h)
    have h3 : Formed κ s3 := h2.parityRecord
    clear_value s2 s3
    exact h3.setKelp
  · exact (hpopD _ (hpopC _ h1)).setKelp

theorem Formed.noteReturns {s : State} {v : SlotView} (h : Formed κ s) : Formed κ (noteReturns s v) := by
  unfold Machine.noteReturns
  extract_lets
  exact h.ite h.setKelp

theorem Formed.acceptReturn {s : State} {v : SlotView} (h : Formed κ s) : Formed κ (acceptReturn s v) := by
  unfold Machine.acceptReturn
  extract_lets k n order
  split
  · exact h
  · exact h.takeReturn

theorem Formed.dispatchRecord {s : State} {v : SlotView} (h : Formed κ s) : Formed κ (dispatchRecord s v) := by
  unfold Machine.dispatchRecord
  extract_lets k members eligible
  split
  · refine .ite ?_ ?_
    · refine .ite ?_ h
      extract_lets s1
      have h1 : Formed κ s1 := h.foldl (fun s2 b h1 => h1.memberSend)
      clear_value s1
      exact h1.setKelp
    · split
      · exact h
      · split
        · extract_lets f s1
          have h1 : Formed κ s1 := h.memberSend
          clear_value s1
          exact h1.setKelp
  · exact h

theorem Formed.acceptEntry {s : State} {v : SlotView} (h : Formed κ s) : Formed κ (acceptEntry s v) := by
  unfold Machine.acceptEntry
  extract_lets k s1
  have h1 : Formed κ s1 := h.modElem (fun e he => he.popData)
  clear_value s1
  split
  · exact h
  · exact h.kelpBad.ite (h.ite h1.noteFiring.setKelp)

theorem Formed.kelpCut {s : State} {v : SlotView} (h : Formed κ s) : Formed κ (kelpCut s v) := by
  unfold Machine.kelpCut
  extract_lets members s1
  have h1 : Formed κ s1 := h.foldl (fun s2 b h1 => h1.memberSend)
  clear_value s1
  exact .ite (h1.modElem (fun e he => he.setOp)) h

theorem Formed.kelpCutDone {s : State} {v : SlotView} (h : Formed κ s) : Formed κ (kelpCutDone s v) := by
  unfold Machine.kelpCutDone
  extract_lets members back
  refine h.ite ?_
  refine h.modElem ?_
  intro e he
  extract_lets r r1 r2 src
  have hr : ElemFormed κ r := he.foldl (fun e1 b he1 => he1.popData.popCtl)
  have hr1 : ElemFormed κ r1 := hr.foldl (fun e1 b he1 => he1.setOp)
  have hr2 : ElemFormed κ r2 := hr1.popData
  have hsrc : ElemFormed κ src := hr2.setOp
  clear_value r r1 r2 src
  exact hsrc

theorem Formed.fireKelp {s : State} {v : SlotView} (h : Formed κ s) : Formed κ (fireKelp s v) := by
  unfold Machine.fireKelp
  refine h.ite ?_
  extract_lets again s1 s2 v1 s3 v2
  have h1 : Formed κ s1 := h.noteReturns
  have h2 : Formed κ s2 := h1.acceptReturn
  have h3 : Formed κ s3 := h2.dispatchRecord
  clear_value s1 s2 s3
  exact h2.ite (h2.kelpCutDone.ite (h3.kelpCut.ite h3.acceptEntry))

theorem OutFormed.execKelp {w : OpWord} {s : State} (h : Formed κ s) : OutFormed κ (execKelp w s) := .runSlot h (fun _ _ h1 => h1.fireKelp.ite h1)

theorem ElemFormed.endGroup {r : ElemCtx} (he : ElemFormed κ r) : ElemFormed κ (endGroup r) := he.foldl (fun _ _ he1 => he1.setOp.ite he1)

theorem Formed.fireKjoin {s : State} {v : SlotView} (h : Formed κ s) : Formed κ (fireKjoin s v) := by
  unfold Machine.fireKjoin
  refine h.ite ?_
  extract_lets ea k headCut t _ o _ s1
  have h1 : Formed κ s1 := h.modElem (fun e he => he.setOp)
  clear_value s1
  refine (h1.slotSend.traceEvent.ite h).ite ?_
  split
  · exact h
  · refine h.ite ?_
    extract_lets out s2 s3
    have h2 : Formed κ s2 := h.setKelp.noteFiring
    have h3 : Formed κ s3 := .ite (h2.modElem (fun e he => he.endGroup)) h2
    clear_value s2 s3
    exact h3.slotSend.ite h

theorem OutFormed.execKjoin {w : OpWord} {s : State} (h : Formed κ s) : OutFormed κ (execKjoin w s) := .runSlot h (fun _ _ h1 => h1.fireKjoin)

/-! ## Contributions and merges (Machine/Contribute.lean) -/

theorem Formed.monitorSpad {s : State} {site : SiteNo} {line mask : Nat} {old new : List Byte} {exact : ExactOperand} (h : Formed κ s) :
    Formed κ (monitorSpad s site line mask old new exact) := by
  unfold Machine.monitorSpad
  refine h.withChannels ?_
  refine h.channels.foldl ?_
  intro t b hx
  split
  · exact hx.set
  · exact hx

theorem Formed.monitorCommit {s : State} {site : SiteNo} {line mask : Nat} {old new : List Byte} {exact : ExactOperand} (h : Formed κ s) :
    Formed κ (monitorCommit s site line mask old new exact) := by
  unfold Machine.monitorCommit
  refine h.withChannels ?_
  refine h.channels.foldl ?_
  intro t b hx
  split
  · exact hx.set
  · exact hx

theorem Formed.monitorPort {s : State} {part line mask : Nat} {old new : List Byte} {exact : ExactOperand} (h : Formed κ s) :
    Formed κ (monitorPort s part line mask old new exact) := by
  unfold Machine.monitorPort
  refine .ite ?_ h
  extract_lets port
  refine h.withChannels ?_
  refine h.channels.foldl ?_
  intro t b hx
  split
  · exact hx.set
  · exact hx

/-! ## Memory tiles (Machine/Axolotl.lean) -/

theorem Formed.modAx {s : State} {site : SiteNo} {f : Axolotl → Axolotl} (h : Formed κ s) (hf : ∀ (u : Axolotl), AxFormed κ u → AxFormed κ (f u)) :
    Formed κ (modAx s site f) :=
  h.modSite (fun _ hr => hr.withAx (hf _ hr.ax))

theorem AxFormed.axOf {s : State} {site : SiteNo} (h : Formed κ s) : AxFormed κ (axOf s site) := h.site.ax

theorem Formed.retireBank {s : State} {site : SiteNo} {bank : Nat} (h : Formed κ s) : Formed κ (retireBank s site bank) := by
  unfold Machine.retireBank
  extract_lets g l s1 s2 x group
  have h1 : Formed κ s1 := by
    unfold s1
    refine h.modAx ?_
    intro a hx
    refine (hx.withRetired hx.retired.set).withPipes ?_
    split
    · exact hx.pipes.set
    · exact hx.pipes
  have h2 : Formed κ s2 := h1.log.modPlat
  clear_value s1 s2
  exact h.ite (h2.ite (.log (h2.foldl (fun s3 b h3 => h3.modSite (fun r hr => hr)))))

theorem Formed.correctable {s : State} {site : SiteNo} {bank row : Nat} (h : Formed κ s) : Formed κ (correctable s site bank row) := by
  unfold Machine.correctable
  extract_lets a n s1 thr
  have ha : AxFormed κ a := .axOf h
  have h1 : Formed κ s1 := h.modAx (fun a1 hx => hx)
  clear_value a s1
  exact h1.retireBank.ite h1

theorem Formed.countUe {s : State} {site : SiteNo} (h : Formed κ s) : Formed κ (countUe s site) := h.modAx (fun _ hx => hx)

theorem Formed.parityFault {s : State} {site : SiteNo} {ctx : BitVec 2} {bank row : Nat} (h : Formed κ s) : Formed κ (parityFault s site ctx bank row) :=
  h.loggedRecord

theorem Formed.useBanks {s : State} {site : SiteNo} {l : List Nat} {f : Nat} (h : Formed κ s) : Formed κ (useBanks s site l f) := h.modAx (fun _ hx => hx)

theorem Formed.landOldest {s : State} {site : SiteNo} {g : Nat} (h : Formed κ s) : Formed κ (landOldest s site g) := by
  unfold Machine.landOldest
  split
  · exact h
  · extract_lets s1
    have h1 : Formed κ s1 := .useBanks (h.modAx (fun a hx => hx.withPipes hx.pipes.set))
    clear_value s1
    split
    · exact h1.countUe.retireBank
    · extract_lets s2
      have h2 : Formed κ s2 := h1.correctable.ite h1
      clear_value s2
      exact h2.modAx (fun a hx => hx.withParity hx.parity.set)

theorem Formed.failRead {s : State} {site : SiteNo} {ctx : BitVec 2} {bank row : Nat} (h : Formed κ s) : Formed κ (failRead s site ctx bank row).1 :=
  h.parityFault

theorem Formed.secded {site : SiteNo} {row : Nat} {s : State} {bank : Nat} (h : Formed κ s) : Formed κ (secded site row s bank) := by
  unfold Machine.secded
  split
  · exact h
  · exact h.correctable
  · exact h.countUe.retireBank

theorem Formed.rebuildIn {s : State} {site : SiteNo} {ctx : BitVec 2} {bank row f : Nat} (h : Formed κ s) : Formed κ (rebuildIn s site ctx bank row f).1 := by
  unfold Machine.rebuildIn
  extract_lets sources bad line s1
  have h1 : Formed κ s1 := h.useBanks.foldl (fun s2 b h1 => h1.secded)
  clear_value s1
  exact h1.failRead.iteFst h1

theorem Formed.reconstruct {s : State} {site : SiteNo} {ctx : BitVec 2} {bank row : Nat} (h : Formed κ s) : Formed κ (reconstruct s site ctx bank row).1 := by
  unfold Machine.reconstruct
  extract_lets a
  have ha : AxFormed κ a := .axOf h
  clear_value a
  exact h.failRead.iteFst h.rebuildIn

theorem Formed.readBank {s : State} {site : SiteNo} {ctx : BitVec 2} {bank row : Nat} (h : Formed κ s) : Formed κ (readBank s site ctx bank row).1 := by
  unfold Machine.readBank
  extract_lets a gone now f s1 s2
  have ha : AxFormed κ a := .axOf h
  have h1 : Formed κ s1 := h.ite (h.modAx (fun a1 hx => hx))
  have h2 : Formed κ s2 := h1.useBanks
  clear_value a s1 s2
  refine .iteFst (h.failRead.iteFst (.reconstruct (h.modAx (fun a1 hx => hx)))) ?_
  refine .iteFst (.rebuildIn (h1.modAx (fun a1 hx => hx))) ?_
  split
  · exact h2
  · exact h2.correctable
  · split
    · extract_lets src s3
      have hsrc : Formed κ src := .modAx ((h2.countUe.reconstruct.iteFst h2.countUe.failRead).of_pair ‹_›) (fun a1 hx => hx.withErrs hx.errs.set)
      have h3 : Formed κ s3 := .ite ((h2.countUe.reconstruct.iteFst h2.countUe.failRead).of_pair ‹_›)
        (hsrc.withSpad (.setBytes (Formed.spad ((h2.countUe.reconstruct.iteFst h2.countUe.failRead).of_pair ‹_›))))
      clear_value src s3
      exact h3.retireBank

theorem Formed.enterUpdate {s : State} {site : SiteNo} {g row : Nat} {delta : Line} {f : Nat} (h : Formed κ s) :
    Formed κ (enterUpdate s site g row delta f) := by
  unfold Machine.enterUpdate
  refine h.modAx ?_
  intro a hx
  split
  · exact hx.withPipes hx.pipes.mod
  · exact hx.withPipes hx.pipes.mod

theorem Formed.storeRow {s : State} {site : SiteNo} {bank row : Nat} {old new : Line} {f : Nat} (h : Formed κ s) :
    Formed κ (storeRow s site bank row old new f) := by
  unfold Machine.storeRow
  extract_lets g s1 s2
  have h1 : Formed κ s1 := h.withSpad h.spad.setBytes
  have h2 : Formed κ s2 := h1.modAx (fun a hx => hx.withErrs hx.errs.set)
  clear_value s1 s2
  exact h2.ite h2.enterUpdate

theorem Formed.suppressWrite {s : State} {site : SiteNo} {ctx : BitVec 2} {bank row : Nat} (h : Formed κ s) :
    Formed κ (suppressWrite s site ctx bank row).1 :=
  h.countUe.parityFault

theorem Formed.writeRetired {s : State} {site : SiteNo} {ctx : BitVec 2} {bank row mask : Nat} {data : List Byte} (h : Formed κ s) :
    Formed κ (writeRetired s site ctx bank row mask data).1 := by
  unfold Machine.writeRetired
  extract_lets a g now rows f bad old s1
  have ha : AxFormed κ a := .axOf h
  have h1 : Formed κ s1 := h.useBanks.foldl (fun s2 b h1 => h1.secded)
  clear_value a s1
  exact h.suppressWrite.iteFst (h1.parityFault.iteFst h1.storeRow)

theorem Formed.writeBank {s : State} {site : SiteNo} {ctx : BitVec 2} {bank row mask : Nat} {data : List Byte} (h : Formed κ s) :
    Formed κ (writeBank s site ctx bank row mask data).1 := by
  unfold Machine.writeBank
  extract_lets a g gone now merge room f full s1 s2
  have ha : AxFormed κ a := .axOf h
  have h1 : Formed κ s1 := h.ite (h.modAx (fun a1 hx => hx))
  have h2 : Formed κ s2 := h1.useBanks
  clear_value a s1 s2
  refine (h.suppressWrite.iteFst h.writeRetired).iteFst ?_
  split
  · refine .iteFst ?_ ?_
    · split
      · extract_lets s3
        have h3 : Formed κ s3 := .retireBank (h2.countUe.reconstruct.of_pair ‹_›)
        clear_value s3
        exact h3.iteFst h3.storeRow
    · split
      · exact .retireBank (h2.suppressWrite.of_pair ‹_›)
  · extract_lets s3 old
    have h3 : Formed κ s3 := h2.correctable.ite h2
    clear_value s3
    exact h3.storeRow

theorem Formed.servePlace {s : State} {site : SiteNo} {place : Nat} (h : Formed κ s) : Formed κ (servePlace s site place) := h.modAx (fun _ hx => hx)

theorem Formed.readSpad {s : State} {site : SiteNo} {ctx : BitVec 2} {place off code : Nat} (h : Formed κ s) :
    Formed κ (readSpad s site ctx place off code).1 :=
  h.servePlace.readBank

theorem Formed.writeSpad {s : State} {site : SiteNo} {ctx : BitVec 2} {place off code mask : Nat} {data : List Byte} {exact : ExactOperand}
    (h : Formed κ s) : Formed κ (writeSpad s site ctx place off code mask data exact).1 := by
  unfold Machine.writeSpad
  extract_lets bank row old
  split
  · exact .iteFst (.monitorSpad (h.servePlace.writeBank.of_pair ‹_›)) (h.servePlace.writeBank.of_pair ‹_›)

theorem Formed.readRegion {s : State} {site : SiteNo} {lo hi : Nat} (h : Formed κ s) : Formed κ (readRegion s site lo hi).1 := by
  unfold Machine.readRegion
  extract_lets rows
  refine h.foldlFst ?_
  intro x b h1
  split
  · exact h1.readBank.of_pair ‹_›

end Sys2Proof.Proofs

namespace Sys2Proof.Proofs
open Sys2Proof.Machine

/-! # The form of the machine: operators -/

variable {κ : Form}

/-! ## Integer operators (Machine/LaneInt.lean) -/

theorem StageFormed.intOp {code : Nat} {pr : Option (Nat × Nat × Nat)} {g : Int → Int → Int → Int} : StageFormed κ (intOp code pr g) := .plainOp

theorem StageFormed.patOp {code : Nat} {g : Nat → Nat → Nat → Nat} : StageFormed κ (patOp code g) := .plainOp

theorem OutFormed.execAddFabric {w : OpWord} {s : State} (h : Formed κ s) : OutFormed κ (execAddFabric w s) := .runStage h .intOp

theorem OutFormed.execSubFabric {w : OpWord} {s : State} (h : Formed κ s) : OutFormed κ (execSubFabric w s) := .runStage h .intOp

theorem OutFormed.execMulFabric {w : OpWord} {s : State} (h : Formed κ s) : OutFormed κ (execMulFabric w s) := .runStage h .intOp

theorem OutFormed.execMulhFabric {w : OpWord} {s : State} (h : Formed κ s) : OutFormed κ (execMulhFabric w s) := .runStage h .plainOp

theorem OutFormed.execMad {w : OpWord} {s : State} (h : Formed κ s) : OutFormed κ (execMad w s) := .runStage h .intOp

theorem OutFormed.execMin {w : OpWord} {s : State} (h : Formed κ s) : OutFormed κ (execMin w s) := .runStage h .intOp

theorem OutFormed.execMax {w : OpWord} {s : State} (h : Formed κ s) : OutFormed κ (execMax w s) := .runStage h .intOp

theorem OutFormed.execAbs {w : OpWord} {s : State} (h : Formed κ s) : OutFormed κ (execAbs w s) := .runStage h .intOp

theorem OutFormed.execNeg {w : OpWord} {s : State} (h : Formed κ s) : OutFormed κ (execNeg w s) := .runStage h .intOp

theorem OutFormed.execAndFabric {w : OpWord} {s : State} (h : Formed κ s) : OutFormed κ (execAndFabric w s) := .runStage h .patOp

theorem OutFormed.execOrFabric {w : OpWord} {s : State} (h : Formed κ s) : OutFormed κ (execOrFabric w s) := .runStage h .patOp

theorem OutFormed.execXorFabric {w : OpWord} {s : State} (h : Formed κ s) : OutFormed κ (execXorFabric w s) := .runStage h .patOp

theorem OutFormed.execAndn {w : OpWord} {s : State} (h : Formed κ s) : OutFormed κ (execAndn w s) := .runStage h .patOp

theorem OutFormed.execShlFabric {w : OpWord} {s : State} (h : Formed κ s) : OutFormed κ (execShlFabric w s) := .runStage h .plainOp

theorem OutFormed.execShrFabric {w : OpWord} {s : State} (h : Formed κ s) : OutFormed κ (execShrFabric w s) := .runStage h .patOp

theorem OutFormed.execSraFabric {w : OpWord} {s : State} (h : Formed κ s) : OutFormed κ (execSraFabric w s) := .runStage h .patOp

theorem OutFormed.execRot {w : OpWord} {s : State} (h : Formed κ s) : OutFormed κ (execRot w s) := .runStage h .patOp

theorem OutFormed.execClz {w : OpWord} {s : State} (h : Formed κ s) : OutFormed κ (execClz w s) := .runStage h .patOp

theorem OutFormed.execPopc {w : OpWord} {s : State} (h : Formed κ s) : OutFormed κ (execPopc w s) := .runStage h .patOp

theorem OutFormed.execCmp {w : OpWord} {s : State} (h : Formed κ s) : OutFormed κ (execCmp w s) := .runStage h .plainOp

theorem OutFormed.execSel {w : OpWord} {s : State} (h : Formed κ s) : OutFormed κ (execSel w s) := by
  unfold Machine.execSel
  refine .runStage h ?_
  extract_lets src
  have hsrc : StageFormed κ src := .plainOp
  clear_value src
  exact .of (fun s1 v x h1 => hsrc.data h1) (fun s1 v t h1 => hsrc.header h1) (fun s1 v t h1 => hsrc.marker h1)

theorem OutFormed.execCvt {w : OpWord} {s : State} (h : Formed κ s) : OutFormed κ (execCvt w s) := .runStage h .plainOp

theorem StageFormed.dotOp {code : Nat} : StageFormed κ (dotOp code) := .plainOp

theorem OutFormed.execDot4 {w : OpWord} {s : State} (h : Formed κ s) : OutFormed κ (execDot4 w s) := .runStage h .dotOp

theorem OutFormed.execDot2 {w : OpWord} {s : State} (h : Formed κ s) : OutFormed κ (execDot2 w s) := .runStage h .dotOp

theorem OutFormed.execBfx {w : OpWord} {s : State} (h : Formed κ s) : OutFormed κ (execBfx w s) := .runStage h .patOp

theorem OutFormed.execBfi {w : OpWord} {s : State} (h : Formed κ s) : OutFormed κ (execBfi w s) := .runStage h .patOp

/-! ## Float operators (Machine/LaneFloat.lean) -/

theorem StageFormed.floatOp {code n : Nat} {g : Nat → OpWord → FVal → FVal → FVal → Nat → Nat} : StageFormed κ (floatOp code n g) := .plainOp

theorem OutFormed.execFadd {w : OpWord} {s : State} (h : Formed κ s) : OutFormed κ (execFadd w s) := .runStage h .floatOp

theorem OutFormed.execFsub {w : OpWord} {s : State} (h : Formed κ s) : OutFormed κ (execFsub w s) := .runStage h .floatOp

theorem OutFormed.execFmul {w : OpWord} {s : State} (h : Formed κ s) : OutFormed κ (execFmul w s) := .runStage h .floatOp

theorem OutFormed.execFma {w : OpWord} {s : State} (h : Formed κ s) : OutFormed κ (execFma w s) := .runStage h .floatOp

theorem OutFormed.execFnma {w : OpWord} {s : State} (h : Formed κ s) : OutFormed κ (execFnma w s) := .runStage h .floatOp

theorem OutFormed.execFmin {w : OpWord} {s : State} (h : Formed κ s) : OutFormed κ (execFmin w s) := .runStage h .floatOp

theorem OutFormed.execFmax {w : OpWord} {s : State} (h : Formed κ s) : OutFormed κ (execFmax w s) := .runStage h .floatOp

theorem OutFormed.execFabs {w : OpWord} {s : State} (h : Formed κ s) : OutFormed κ (execFabs w s) := .runStage h .floatOp

theorem OutFormed.execFneg {w : OpWord} {s : State} (h : Formed κ s) : OutFormed κ (execFneg w s) := .runStage h .floatOp

theorem OutFormed.execFcmp {w : OpWord} {s : State} (h : Formed κ s) : OutFormed κ (execFcmp w s) := .runStage h .plainOp

theorem OutFormed.execFclass {w : OpWord} {s : State} (h : Formed κ s) : OutFormed κ (execFclass w s) := .runStage h .plainOp

theorem OutFormed.execFcvt {w : OpWord} {s : State} (h : Formed κ s) : OutFormed κ (execFcvt w s) := by
  unfold Machine.execFcvt
  extract_lets d ed src
  have hsrc : StageFormed κ src := .plainOp
  clear_value src
  exact .runStage h (.of (fun s1 v x h1 => hsrc.data h1) (fun s1 v t h1 => h1) (fun s1 v t h1 => hsrc.marker h1))

theorem OutFormed.execFsqrt {w : OpWord} {s : State} (h : Formed κ s) : OutFormed κ (execFsqrt w s) := .runStage h .floatOp

theorem OutFormed.execFrcp {w : OpWord} {s : State} (h : Formed κ s) : OutFormed κ (execFrcp w s) := .runStage h .floatOp

theorem OutFormed.execFrsq {w : OpWord} {s : State} (h : Formed κ s) : OutFormed κ (execFrsq w s) := .runStage h .floatOp

theorem OutFormed.execFexp2 {w : OpWord} {s : State} (h : Formed κ s) : OutFormed κ (execFexp2 w s) := .runStage h .floatOp

theorem OutFormed.execFlog2 {w : OpWord} {s : State} (h : Formed κ s) : OutFormed κ (execFlog2 w s) := .runStage h .floatOp

theorem OutFormed.execFtanh {w : OpWord} {s : State} (h : Formed κ s) : OutFormed κ (execFtanh w s) := .runStage h .floatOp

theorem OutFormed.execFsigm {w : OpWord} {s : State} (h : Formed κ s) : OutFormed κ (execFsigm w s) := .runStage h .floatOp

theorem OutFormed.execFscl {w : OpWord} {s : State} (h : Formed κ s) : OutFormed κ (execFscl w s) := .runStage h .plainOp

/-! ## Lane moves (Machine/LaneMove.lean) -/

theorem OutFormed.execMov {w : OpWord} {s : State} (h : Formed κ s) : OutFormed κ (execMov w s) := .runStage h .plainOp

theorem OutFormed.execMovk {w : OpWord} {s : State} (h : Formed κ s) : OutFormed κ (execMovk w s) := by
  unfold Machine.execMovk
  refine .runStage h ?_
  extract_lets src
  have hsrc : StageFormed κ src := .plainOp
  clear_value src
  exact .of (fun s1 v x h1 => h1) (fun s1 v t h1 => hsrc.header h1) (fun s1 v t h1 => hsrc.marker h1)

theorem OutFormed.execWrk {w : OpWord} {s : State} (h : Formed κ s) : OutFormed κ (execWrk w s) := by
  unfold Machine.execWrk
  extract_lets sel src
  have hsrc : StageFormed κ src := .plainOp
  clear_value src
  exact .runStage h (.of (fun s1 v x h1 => h1) (fun s1 v t h1 => h1) (fun s1 v t h1 => hsrc.marker h1))

theorem Formed.resetAt {mrst : Bool} {mlev : Nat} {s : State} {v : View} {t : Token} (h : Formed κ s) : Formed κ (resetAt mrst mlev s v t).1 := by
  unfold Machine.resetAt
  extract_lets
  exact h

theorem OutFormed.execAcck {w : OpWord} {s : State} (h : Formed κ s) : OutFormed κ (execAcck w s) := by
  unfold Machine.execAcck
  extract_lets op src
  have hsrc : StageFormed κ src := .plainOp
  clear_value src
  refine .runStage h ?_
  refine .of ?_ (fun s1 v t h1 => hsrc.header h1) (fun s1 v t h1 => h1.resetAt)
  intro s1 v x h1
  extract_lets f wd k sat rnd inA inK p m out _ k'
  split
  · exact h1.iteFst h1
  · exact h1

theorem OutFormed.execLred {w : OpWord} {s : State} (h : Formed κ s) : OutFormed κ (execLred w s) := by
  unfold Machine.execLred
  extract_lets
  exact .runStage h .plainOp

theorem OutFormed.execLscan {w : OpWord} {s : State} (h : Formed κ s) : OutFormed κ (execLscan w s) := by
  unfold Machine.execLscan
  extract_lets
  exact .runStage h .plainOp

theorem OutFormed.execLbc {w : OpWord} {s : State} (h : Formed κ s) : OutFormed κ (execLbc w s) := .runStage h .plainOp

theorem OutFormed.execLrot {w : OpWord} {s : State} (h : Formed κ s) : OutFormed κ (execLrot w s) := .runStage h .plainOp

theorem OutFormed.execLperm {w : OpWord} {s : State} (h : Formed κ s) : OutFormed κ (execLperm w s) := .runStage h .plainOp

theorem OutFormed.execLidx {w : OpWord} {s : State} (h : Formed κ s) : OutFormed κ (execLidx w s) := .runStage h .plainOp

theorem OutFormed.execFsh {w : OpWord} {s : State} (h : Formed κ s) : OutFormed κ (execFsh w s) := by
  unfold Machine.execFsh
  extract_lets n src
  have hsrc : StageFormed κ src := .plainOp
  clear_value src
  exact .runStage h (.of (fun s1 v x h1 => h1) (fun s1 v t h1 => hsrc.header h1) (fun s1 v t h1 => h1.resetAt))

theorem OutFormed.execM2c {w : OpWord} {s : State} (h : Formed κ s) : OutFormed κ (execM2c w s) := by
  unfold Machine.execM2c
  extract_lets co src
  have hsrc : StageFormed κ src := .plainOp
  clear_value src
  exact .runStage h (.of (fun s1 v x h1 => h1.iteFst h1) (fun s1 v t h1 => hsrc.header h1) (fun s1 v t h1 => h1.iteFst h1))

theorem OutFormed.execPack {w : OpWord} {s : State} (h : Formed κ s) : OutFormed κ (execPack w s) := by
  unfold Machine.execPack
  extract_lets f src wd
  have hsrc : StageFormed κ src := .plainOp
  clear_value src
  refine .runStage h ?_
  refine .of ?_ (fun s1 v t h1 => h1.iteFst (h1.iteFst h1)) (fun s1 v t h1 => h1.iteFst h1)
  intro s1 v x h1
  extract_lets packet taken taken1 k all _ side last
  split
  · exact h1

theorem OutFormed.execUnpack {w : OpWord} {s : State} (h : Formed κ s) : OutFormed κ (execUnpack w s) := by
  unfold Machine.execUnpack
  refine .runStage h ?_
  extract_lets src
  have hsrc : StageFormed κ src := .plainOp
  clear_value src
  exact .of (fun s1 v x h1 => h1) (fun s1 v t h1 => h1) (fun s1 v t h1 => hsrc.marker h1)

/-! ## The matrix unit (Machine/Matrix.lean) -/

theorem Formed.accSet {s : State} {site : SiteNo} {bank row col v : Nat} (h : Formed κ s) : Formed κ (accSet s site bank row col v) := h.withAcs h.acs.set

theorem ElemFormed.swapWs {e : ElemCtx} (he : ElemFormed κ e) : ElemFormed κ e.swapWs := by
  unfold Machine.ElemCtx.swapWs
  extract_lets e1
  have he1 : ElemFormed κ e1 := he.withBank he.bank.mod
  clear_value e1
  exact he1.foldl (fun e2 b he2 => he2.setOp.ite he2)

theorem ElemFormed.applySwaps {e : ElemCtx} (he : ElemFormed κ e) : ElemFormed κ e.applySwaps := by
  unfold Machine.ElemCtx.applySwaps
  refine .ite ?_ ?_
  · extract_lets src
    have hsrc : ElemFormed κ src := he.swapWs
    clear_value src
    exact hsrc
  · refine he.ite ?_
    extract_lets src
    have hsrc : ElemFormed κ src := he.swapWs.swapWs
    clear_value src
    exact hsrc

theorem ElemFormed.groupSwap {e : ElemCtx} {g : Byte} (he : ElemFormed κ e) : ElemFormed κ (e.groupSwap g) := by
  unfold Machine.ElemCtx.groupSwap
  extract_lets e1 e2
  have he1 : ElemFormed κ e1 := he.applySwaps
  have he2 : ElemFormed κ e2 := he1.swapWs.ite he1
  clear_value e1 e2
  exact he2

theorem Formed.operandLines {s : State} {v : View} {k : Token} {dist n : Nat} (h : Formed κ s) : Formed κ (operandLines s v k dist n).1 := by
  induction n generalizing s v k dist with
  | zero =>
    rw [Machine.operandLines]
    exact h
  | succ n ih =>
    rw [Machine.operandLines]
    split
    · extract_lets site off
      refine .iteFst ?_ h
      split
      · split
        · refine .of_pair ?_ ‹_›
          exact ih (h.readSpad.of_pair ‹_›)

theorem Formed.rowProducts {s : State} {v : View} {sh : Shape} {blocked : Bool} {tile : Tile} {scA row : Nat} {a : Nat → Option Nat}
    {trap : Bool} (h : Formed κ s) : Formed κ (rowProducts s v sh blocked tile scA row a trap).1 := by
  unfold Machine.rowProducts
  extract_lets site w ks col rs s1
  have h1 : Formed κ s1 := h.foldl (fun s2 b h1 => h1.accSet)
  clear_value s1
  split
  · exact h
  · exact h.iteFst (.ite (h1.modSite (fun r hr => hr)) h1)

theorem Formed.readTile {s : State} {v : View} {sh : Shape} {h : Token} (h2 : Formed κ s) : Formed κ (readTile s v sh h).1 := by
  unfold Machine.readTile
  extract_lets blk ok k e l line
  have hok : ∀ (s : State) (hd : Line) (els : List Line) (failed : Bool), Formed κ s → Formed κ (ok s hd els failed).1 := by
    unfold ok
    intro s1 hd els failed h1
    split
    · exact h1
    · exact h1
  have he : ElemFormed κ e := h2.elem
  clear_value ok e
  refine .iteFst ?_ (h2.iteFst (hok _ _ _ _ h2))
  refine h2.iteFst ?_
  split
  · exact h2.operandLines.of_pair ‹_›
  · exact hok _ _ _ _ (h2.operandLines.of_pair ‹_›)
  · exact h2.operandLines.of_pair ‹_›

theorem Formed.runRow {s : State} {v : View} {code : Nat} {sh : Shape} {h : Token} {m : Nat} {tagged : Bool} {a : Nat → Option Nat}
    {side : Token} (h2 : Formed κ s) : Formed κ (runRow s v code sh h m tagged a side).1 := by
  unfold Machine.runRow
  extract_lets row
  refine h2.iteFst ?_
  split
  · exact h2.readTile.of_pair ‹_›
  · exact h2.readTile.of_pair ‹_›
  · extract_lets s1
    have h1 : Formed κ s1 := .ite (.poisonTask (h2.readTile.of_pair ‹_›)) (h2.readTile.of_pair ‹_›)
    clear_value s1
    split
    · split
      · exact h1.rowProducts.of_pair ‹_›
      · exact h1.rowProducts.of_pair ‹_›

theorem Formed.scratchRows {s : State} {v : View} {code : Nat} {sh : Shape} {h : Token} {p m n : Nat} (h2 : Formed κ s) :
    Formed κ (scratchRows s v code sh h p m n).1 := by
  induction n generalizing s v code sh h p m with
  | zero =>
    rw [Machine.scratchRows]
    exact h2
  | succ n ih =>
    rw [Machine.scratchRows]
    refine h2.iteFst ?_
    extract_lets k
    split
    · refine h2.iteFst ?_
      split
      · exact h2.operandLines.of_pair ‹_›
      · extract_lets s1 ts
        have h1 : Formed κ s1 := .ite (.poisonTask (h2.operandLines.of_pair ‹_›)) (h2.operandLines.of_pair ‹_›)
        clear_value s1
        split
        · exact h1.runRow.of_pair ‹_›
        · exact ih (h1.runRow.of_pair ‹_›)

theorem StageFormed.mmaOp {code : Nat} : StageFormed κ (mmaOp code) := by
  unfold Machine.mmaOp
  refine .of ?_ ?_ (fun s v t h => h.iteFst h)
  · intro s v x h
    extract_lets side sh _ _ op
    refine h.iteFst ?_
    refine h.iteFst ?_
    split
    · exact h
    · extract_lets a _ ts tagged
      refine h.iteFst ?_
      split
      · exact h.runRow.of_pair ‹_›
      · exact h.runRow.of_pair ‹_›
  · intro s v t h
    refine h.iteFst ?_
    refine h.iteFst ?_
    refine h.iteFst ?_
    extract_lets s1 sh _ op
    have h1 : Formed κ s1 := h.modElem (fun e he => he.groupSwap)
    clear_value s1
    refine h1.iteFst ?_
    refine .iteFst ?_ ?_
    · split
      · exact h1.scratchRows.of_pair ‹_›
      · exact h1.scratchRows.of_pair ‹_›
    · split
      · exact h1.readTile.of_pair ‹_›
      · exact .iteFst (h1.readTile.of_pair ‹_›) (h1.readTile.of_pair ‹_›)
      · exact .ite (.poisonTask (h1.readTile.of_pair ‹_›)) (h1.readTile.of_pair ‹_›)

theorem OutFormed.execMma {w : OpWord} {s : State} (h : Formed κ s) : OutFormed κ (execMma w s) := .runStage h .mmaOp

theorem OutFormed.execMmab {w : OpWord} {s : State} (h : Formed κ s) : OutFormed κ (execMmab w s) := .runStage h .mmaOp

theorem OutFormed.execWsld {w : OpWord} {s : State} (h : Formed κ s) : OutFormed κ (execWsld w s) := by
  unfold Machine.execWsld
  refine .runStage h ?_
  refine .of ?_ (fun s1 v t h1 => h1) (fun s1 v t h1 => h1.iteFst h1)
  intro s1 v x h1
  extract_lets e e1 s2 _ op fmt l k hd tsz bad _ _ _ key op1
  have he : ElemFormed κ e := h1.elem
  have he1 : ElemFormed κ e1 := he.applySwaps.ite he
  have h2 : Formed κ s2 := h1.setElem he1
  clear_value e e1 s2
  refine h1.iteFst ?_
  refine (h2.iteFst h2).iteFst ?_
  clear_value bad
  split
  · exact h2
  · exact h2.withWs h2.ws.set

theorem Formed.askSwap {s : State} {v : View} (h : Formed κ s) : Formed κ (askSwap s v).1 := h.modElem (fun _ he => he)

theorem OutFormed.execWsswp {w : OpWord} {s : State} (h : Formed κ s) : OutFormed κ (execWsswp w s) :=
  .runStage h (.of (fun _ _ _ h1 => h1.askSwap) (fun _ _ _ h1 => h1.askSwap) (fun _ _ _ h1 => h1))

theorem OutFormed.execWsSwap {site : SiteNo} {ctx : BitVec 2} {s : State} (h : Formed κ s) : OutFormed κ (execWsSwap site ctx s) := by
  unfold Machine.execWsSwap
  extract_lets e src
  have he : ElemFormed κ e := h.elem
  have hsrc : ElemFormed κ src := he.swapWs
  clear_value e src
  exact .ite (.next h) (.next (h.setElem hsrc))

theorem Formed.clearRows {s : State} {v : View} {bank row n : Nat} (h : Formed κ s) : Formed κ (clearRows s v bank row n) :=
  h.foldl (fun _ _ h1 => .ite (h1.foldl (fun _ _ h2 => h2.accSet)) h1)

theorem Formed.accClear {s : State} {v : View} {t : Token} {op : OpSt} (h : Formed κ s) : Formed κ (accClear s v t op).1 := by
  unfold Machine.accClear
  extract_lets i bank row n
  split
  · exact h.clearRows.iteFst h
  · exact h.clearRows

theorem OutFormed.execAcclr {w : OpWord} {s : State} (h : Formed κ s) : OutFormed κ (execAcclr w s) :=
  .runStage h (.of (fun _ _ _ h1 => h1.iteFst h1.accClear) (fun _ _ _ h1 => h1.accClear) (fun _ _ _ h1 => h1))

theorem OutFormed.execAcrd {w : OpWord} {s : State} (h : Formed κ s) : OutFormed κ (execAcrd w s) := by
  unfold Machine.execAcrd
  refine .runStage h ?_
  refine .of ?_ (fun s1 v t h1 => h1) (fun s1 v t h1 => h1)
  intro s1 v x h1
  extract_lets i bank row half _ op p s2
  have h2 : Formed κ s2 := .ite (h1.foldl (fun s3 b h2 => h2.accSet)) h1
  clear_value s2
  exact (h1.iteFst h1).iteFst h2

theorem OutFormed.execAcwr {w : OpWord} {s : State} (h : Formed κ s) : OutFormed κ (execAcwr w s) := by
  unfold Machine.execAcwr
  refine .runStage h ?_
  refine .of ?_ (fun s1 v t h1 => h1) (fun s1 v t h1 => h1)
  intro s1 v x h1
  extract_lets i f bank row half _ op _ old new js nan
  refine (h1.iteFst h1).iteFst ?_
  split
  · exact h1
  · exact h1.foldl (fun s2 b h2 => h2.accSet)

/-! ## Events (Machine/Events.lean) -/

theorem Formed.spadWriteNat {s : State} {site : SiteNo} {off n x : Nat} {exact : ExactOperand} (h : Formed κ s) :
    Formed κ (spadWriteNat s site off n x exact).1 := by
  unfold Machine.spadWriteNat
  extract_lets
  exact h.writeSpad

theorem Formed.spadReadNat {s : State} {site : SiteNo} {off n : Nat} (h : Formed κ s) : Formed κ (spadReadNat s site off n).1 := by
  unfold Machine.spadReadNat
  split
  · exact h.readSpad.of_pair ‹_›

theorem Formed.blockRead {s : State} {blk : BitVec 6} {va n : Nat} (h : Formed κ s) : Formed κ (blockRead s blk va n).1 := by
  unfold Machine.blockRead
  refine h.iteFst ?_
  split
  · exact h.spadReadNat

theorem Formed.blockWrite {s : State} {blk : BitVec 6} {va n x : Nat} (h : Formed κ s) : Formed κ (blockWrite s blk va n x).1 := by
  unfold Machine.blockWrite
  refine (h.withLram h.lram.setNat).iteFst ?_
  split
  · exact h.spadWriteNat

theorem Formed.writeEvent {s : State} {blk : BitVec 6} {w : BitVec 256} (h : Formed κ s) : Formed κ (writeEvent s blk w) := by
  unfold Machine.writeEvent
  extract_lets q x
  split
  · split
    · exact .modSq (h.spadWriteNat.of_pair ‹_›)

theorem Formed.postEvent {s : State} {blk : BitVec 6} {type eaddr : Nat} {body : List Byte} (h : Formed κ s) :
    Formed κ (postEvent s blk type eaddr body) := by
  unfold Machine.postEvent
  extract_lets
  exact h.modSq.ite h.writeEvent

theorem Formed.drainEvents {s : State} {blk : BitVec 6} {n : Nat} (h : Formed κ s) : Formed κ (drainEvents s blk n) := by
  induction n generalizing s blk with
  | zero =>
    rw [Machine.drainEvents]
    exact h
  | succ n ih =>
    rw [Machine.drainEvents]
    split
    · exact h
    · exact h.ite (ih h.modSq.writeEvent)

/-! ## Barriers (Machine/Barrier.lean) -/

theorem Formed.setChannels {s : State} {l : List (Nat × Channel)} {f : Channel → Channel} (h : Formed κ s) : Formed κ (setChannels s l f) :=
  h.foldl (fun _ _ h1 => h1.setChannel)

theorem Formed.applyModes {s : State} {l : List (Nat × Channel)} {total : BitVec 320} (h : Formed κ s) : Formed κ (applyModes s l total) := h.setChannels

theorem Formed.checkGroup {s : State} {part group obj : Nat} {blk : BitVec 6} {waiter : Option Nat} (h : Formed κ s) :
    Formed κ (checkGroup s part group obj blk waiter).1 := by
  unfold Machine.checkGroup
  extract_lets l total more s1
  have h1 : Formed κ s1 := h.setChannels
  clear_value s1
  refine h.applyModes.iteFst ?_
  split
  · exact h1.postEvent

theorem Formed.release {s : State} {obj : Nat} (h : Formed κ s) : Formed κ (release s obj) := by
  unfold Machine.release
  extract_lets b b' s1
  have h1 : Formed κ s1 := h.setBarrier
  clear_value s1
  exact h1.postEvent.ite h1

theorem Formed.completePhase {s : State} {obj : Nat} (h : Formed κ s) : Formed κ (completePhase s obj) := by
  unfold Machine.completePhase
  extract_lets b
  refine h.ite ?_
  split
  · refine .ite ?_ ?_
    · refine .release ?_
      refine .of_pair ?_ ‹_›
      refine h.foldlFst ?_
      intro x b1 h1
      split
      · split
        · exact h1.checkGroup.of_pair ‹_›
    · extract_lets b1
      refine .setBarrier ?_
      refine .of_pair ?_ ‹_›
      refine h.foldlFst ?_
      intro x b2 h1
      split
      · split
        · exact h1.checkGroup.of_pair ‹_›

theorem Formed.addHeld {s : State} {obj n : Nat} (h : Formed κ s) : Formed κ (addHeld s obj n) := by
  induction n generalizing s obj with
  | zero =>
    rw [Machine.addHeld]
    exact h
  | succ n ih =>
    rw [Machine.addHeld]
    split
    · exact h
    · exact (ih h.setBarrier).ite h.setBarrier

theorem OptFormed.logArrival {s : State} {obj : Nat} {a : Arrival} (h : Formed κ s) : OptFormed κ (logArrival s obj a) := by
  unfold Machine.logArrival
  extract_lets _ _ _ at_ rec_
  exact .ite .none (.some ((h.withDmem (m := memSetBytes s.dmem at_ rec_) h.dmem.setBytes).withMboxes h.mboxes.set))

theorem Formed.logHeld {s : State} {obj n : Nat} (h : Formed κ s) : Formed κ (logHeld s obj n) := by
  induction n generalizing s obj with
  | zero =>
    rw [Machine.logHeld]
    exact h
  | succ n ih =>
    rw [Machine.logHeld]
    split
    · exact h
    · split
      · exact h
      · refine ih ?_
        refine .setBarrier ?_
        refine OptFormed.of_some ?_ ‹_›
        exact .logArrival h

theorem Formed.arrive {s : State} {obj : Nat} {a : Arrival} (h : Formed κ s) : Formed κ (arrive s obj a) := by
  unfold Machine.arrive
  extract_lets b s1
  have h1 : Formed κ s1 := h.setBarrier
  clear_value s1
  exact h1.logHeld.ite h1.addHeld.completePhase

theorem OutFormed.execBarrierNextPhase {obj : BitVec 12} {s : State} (h : Formed κ s) : OutFormed κ (execBarrierNextPhase obj s) := by
  unfold Machine.execBarrierNextPhase
  extract_lets
  exact .ite (.next h) (.next h.addHeld.completePhase)

/-! ## Synchronisation and gates (Machine/Sync.lean) -/

theorem StageFormed.sourceOp {code : Nat} {total : View → State → Nat} {mark : State → View → Nat → Option Nat}
    {record : State → View → Nat → Token × OpSt} : StageFormed κ (sourceOp code total mark record) :=
  .of (fun _ _ _ h => h) (fun _ _ _ h => h.forward) (fun _ _ _ h => h.forward)

theorem OutFormed.execCnt {w : OpWord} {s : State} (h : Formed κ s) : OutFormed κ (execCnt w s) := .runStage h .sourceOp

theorem OutFormed.execConst {w : OpWord} {s : State} (h : Formed κ s) : OutFormed κ (execConst w s) :=
  .ite (.runStage h .sourceOp) (.runStage h (.of (fun _ _ _ h1 => h1) (fun _ _ _ h1 => h1.forward) (fun _ _ _ h1 => h1.forward)))

theorem OutFormed.execRand {w : OpWord} {s : State} (h : Formed κ s) : OutFormed κ (execRand w s) := by
  unfold Machine.execRand
  refine .ite (.runStage h .sourceOp) ?_
  refine .runStage h ?_
  refine .of ?_ (fun s1 v t h1 => h1.forward) (fun s1 v t h1 => h1.iteFst h1.forward)
  intro s1 v x h1
  split
  · exact h1

theorem OutFormed.execSeqs {w : OpWord} {s : State} (h : Formed κ s) : OutFormed κ (execSeqs w s) := .runStage h .sourceOp

theorem Formed.arriveOnce {s : State} {v : View} {obj : Nat} (h : Formed κ s) : Formed κ (arriveOnce s v obj) := h.ite h.arrive

theorem Formed.syncToken {arrives waits : Bool} {s : State} {v : View} {t : Token} (h : Formed κ s) : Formed κ (syncToken arrives waits s v t).1 := by
  unfold Machine.syncToken
  extract_lets obj p s1 _ op
  have h1 : Formed κ s1 := h.arriveOnce.ite h
  clear_value s1
  exact h1.iteFst h1

theorem StageFormed.syncOp {code : Nat} {arrives waits : Bool} : StageFormed κ (syncOp code arrives waits) :=
  .of (fun _ _ _ h => h.syncToken) (fun _ _ _ h => h.syncToken) (fun _ _ _ h => h.forward)

theorem OutFormed.execPost {w : OpWord} {s : State} (h : Formed κ s) : OutFormed κ (execPost w s) := .runStage h .syncOp

theorem OutFormed.execBarr {w : OpWord} {s : State} (h : Formed κ s) : OutFormed κ (execBarr w s) := .runStage h .syncOp

theorem OutFormed.execBwait {w : OpWord} {s : State} (h : Formed κ s) : OutFormed κ (execBwait w s) := .runStage h .syncOp

theorem Formed.mchkToken {s : State} {v : View} {t : Token} (h : Formed κ s) : Formed κ (mchkToken s v t).1 := by
  unfold Machine.mchkToken
  split
  · exact h
  · exact h
  · extract_lets part blk
    split
    · exact .iteFst (h.checkGroup.of_pair ‹_›) (h.checkGroup.of_pair ‹_›)

theorem OutFormed.execMchk {w : OpWord} {s : State} (h : Formed κ s) : OutFormed κ (execMchk w s) :=
  .runStage h (.of (fun _ _ _ h1 => h1.mchkToken) (fun _ _ _ h1 => h1.mchkToken) (fun _ _ _ h1 => h1.forward))

theorem Formed.capRefillAt {s : State} {ea : EAddr} {ctx : BitVec 2} {n : Nat} (h : Formed κ s) : Formed κ (capRefillAt s ea ctx n) := by
  unfold Machine.capRefillAt
  extract_lets e w k lv
  have he : ElemFormed κ e := h.elem
  clear_value e
  exact (h.setElem he.setK.setOp).ite h

theorem Formed.capSend {s : State} {v : View} {op : OpSt} {pass : Bool} {ctl : List (Nat × Ctl)} {t : Token} (h : Formed κ s) :
    Formed κ (capSend s v op pass ctl t).1 :=
  h.iteFst (h.iteFst (h.outputSend.iteFst h))

theorem Formed.capDecide {s : State} {v : View} {n : Nat} {t : Token} (h : Formed κ s) : Formed κ (capDecide s v n t).1 := by
  unfold Machine.capDecide
  extract_lets k b level need pass ctl _ tell
  have htell : ∀ (lv : Nat) (x : Bool), Formed κ (tell lv x).1 := by
    unfold tell
    intro lv x
    extract_lets op
    split
    · exact .iteFst (h.capSend.of_pair ‹_›) (h.capSend.of_pair ‹_›)
  clear_value tell
  exact (htell _ _).iteFst ((htell _ _).iteFst h)

theorem OutFormed.execCap {w : OpWord} {s : State} (h : Formed κ s) : OutFormed κ (execCap w s) :=
  .runStage h (.of (fun _ _ _ h1 => h1.capDecide.iteFst h1.capSend) (fun _ _ _ h1 => h1.capDecide.iteFst h1)
    (fun _ _ _ h1 => h1.iteFst ((h1.outputSend.iteFst h1).iteFst h1)))

theorem OutFormed.execCapRefill {site : BitVec 13} {ctx : BitVec 2} {stage : BitVec 3} {s : State} (h : Formed κ s) :
    OutFormed κ (execCapRefill site ctx stage s) :=
  .next h.capRefillAt

theorem Formed.excuse {s : State} {since uid : Nat} (h : Formed κ s) : Formed κ (excuse s since uid) := h.modTask (fun _ ht => ht)

theorem Formed.excuseWaiting {s : State} {obj : Nat} (h : Formed κ s) : Formed κ (excuseWaiting s obj) := h.foldl (fun _ _ h1 => h1.excuse)

theorem Formed.endHold {s : State} {obj group : Nat} (h : Formed κ s) : Formed κ (endHold s obj group) := by
  unfold Machine.endHold
  extract_lets b rest s1
  have h1 : Formed κ s1 := h.setBarrier
  clear_value s1
  exact h1.ite (h1.setBarrier.ite h1.excuseWaiting.release)

theorem Formed.letGo {s : State} {w : Nat × Nat} (h : Formed κ s) : Formed κ (letGo s w) := by
  unfold Machine.letGo
  extract_lets who ea ctx s1 s2
  have h1 : Formed κ s1 := by
    unfold s1
    split
    · exact h.excuse
    · exact h
  have h2 : Formed κ s2 := h1.modElem (fun e he => he.setOp)
  clear_value s1 s2
  refine h2.withTasks ?_
  refine h2.tasks.map ?_
  intro t ht
  refine ht.withSaved ?_
  refine ht.saved.map ?_
  intro v he
  split
  · exact he
  · exact he

theorem Formed.ackRelease {s : State} {c : Nat} (h : Formed κ s) : Formed κ (ackRelease s c) := by
  unfold Machine.ackRelease
  split
  · exact h
  · extract_lets objs ws s1 s2 s3
    have h1 : Formed κ s1 := h.applyModes
    have h2 : Formed κ s2 := h1.setChannels
    have h3 : Formed κ s3 := h2.foldl (fun s4 b h3 => h3.letGo)
    clear_value s1 s2 s3
    exact h.ite (h3.foldl (fun s4 b h4 => h4.endHold))

theorem Formed.failWaiting {s : State} {obj : Nat} {t : Task} (h : Formed κ s) : Formed κ (failWaiting s obj t) :=
  h.taskFault.foldl (fun _ _ h1 => h1.modElem (fun _ he => he))

theorem Formed.ackFail {s : State} {c : Nat} (h : Formed κ s) : Formed κ (ackFail s c) := by
  unfold Machine.ackFail
  split
  · exact h
  · extract_lets objs ws s1 s2
    have h1 : Formed κ s1 := h.setChannels
    have h2 : Formed κ s2 := by
      unfold s2
      refine h1.foldl ?_
      intro s3 b h2
      split
      · exact h2.taskFault
      · exact h2.letGo
    clear_value s1 s2
    exact h.ite (h2.foldl (fun s3 b h3 => .endHold (h3.foldl (fun s4 b1 h4 => h4.failWaiting))))

theorem OutFormed.execMcackRelease {chan : BitVec 16} {s : State} (h : Formed κ s) : OutFormed κ (execMcackRelease chan s) := .next h.ackRelease

theorem OutFormed.execMcackFail {chan : BitVec 16} {s : State} (h : Formed κ s) : OutFormed κ (execMcackFail chan s) := .next h.ackFail

end Sys2Proof.Proofs

namespace Sys2Proof.Proofs
open Sys2Proof.Machine

/-! # The form of the machine: configuration -/

variable {κ : Form}

/-! ## Configuration fields (Machine/ConfigFields.lean) -/

theorem Formed.writeCtxarb {s : State} {site : SiteNo} {v : Word} (h : Formed κ s) : Formed κ (writeCtxarb s site v) :=
  h.modSite (fun _ hr => hr.withCredit (hr.credit.foldl (fun _ _ hx => hx.mod)))

theorem ElemFormed.clearIi {e : ElemCtx} {page : Nat} (he : ElemFormed κ e) : ElemFormed κ (clearIi e page) := he.withIi he.ii.filter

theorem Formed.writeWsWord {s : State} {ea : EAddr} {ctx : BitVec 2} {page w : Nat} {v : Word} (h : Formed κ s) :
    Formed κ (writeWsWord s ea ctx page w v) := by
  unfold Machine.writeWsWord
  extract_lets
  exact h.withWs h.ws.mod

theorem Formed.writeMtcfg {s : State} {site : SiteNo} {v : Word} (h : Formed κ s) : Formed κ (writeMtcfg s site v) := by
  unfold Machine.writeMtcfg
  extract_lets
  exact h.log.ite (h.modSite (fun r hr => hr))

theorem Formed.clearRtlog {s : State} {site : SiteNo} (h : Formed κ s) : Formed κ (clearRtlog s site) := h.modSite (fun _ hr => hr)

theorem Formed.clearErrcnt {s : State} {ea : EAddr} (h : Formed κ s) : Formed κ (clearErrcnt s ea) := by
  unfold Machine.clearErrcnt
  extract_lets
  exact h.modSite (fun r hr => hr.withEcnt hr.ecnt.set.set)

theorem Formed.writeSave {s : State} {site : SiteNo} {off mask : Nat} {data : List Byte} (h : Formed κ s) : Formed κ (writeSave s site off mask data) := by
  unfold Machine.writeSave
  extract_lets
  exact h.writeBank

theorem Formed.writeParity {s : State} {site : SiteNo} {field : Nat} {v : Word} (h : Formed κ s) : Formed κ (writeParity s site field v) := by
  unfold Machine.writeParity
  split
  · exact h.modAx (fun a hx => hx)
  · exact h.retireBank.ite h
  · exact .ite (h.modAx (fun a hx => hx)) h
  · exact h

theorem Formed.applyBody {s : State} {k : ElemKind} {ea : EAddr} {w : Staged} (h : Formed κ s) : Formed κ (applyBody s k ea w) := by
  unfold Machine.applyBody
  extract_lets v page word d
  refine .ite ?_ ?_
  · split
    · exact h.writeCtxarb
    · split
      · exact h.modSite (fun r hr => hr)
      · exact h.writeMtcfg
      · exact h.clearRtlog.ite h
    · exact h.clearErrcnt
  · refine .ite ?_ ?_
    · split
      · exact h.modElem (fun e he => he.withShadow (.some he.shadow.getD.set))
      · exact h.modElem (fun e he => he.withShadow (.some he.shadow.getD))
    · refine .ite (h.modElem (fun e he => he.withBank he.bank.set)) ?_
      split
      · exact .ite (h.modElem (fun e he => he.foldl (fun e1 b he1 => he1.setK.ite he1))) (.ite (.ite (h.modElem (fun e he => he.clearIi)) h)
          (h.writeWsWord.ite h))
      · exact h.writeSave.ite (.ite (h.modElem (fun e he => he.clearIi)) h)
      · split
        · clear_value page
          split
          · exact h.modElem (fun e he => he.withBank he.bank.set)
          · refine h.modElem ?_
            intro e he
            extract_lets e1
            have he1 : ElemFormed κ e1 := he.withBank he.bank.set
            clear_value e1
            exact .ite he1 he1
          · exact .ite (h.modElem (fun e he => he.clearIi)) h
          · exact h.modElem (fun e he => he.withBank he.bank.set)
          · exact h
        · clear_value page
          split
          · exact h.modElem (fun e he => he.withBank he.bank.set)
          · exact h
          · exact .ite (h.modElem (fun e he => he.clearIi)) h
          · exact h.modElem (fun e he => he.withBank he.bank.set)
          · exact h
        · clear_value page
          split
          · exact h.modElem (fun e he => he.withBank he.bank.set)
          · exact h.modElem (fun e he => he.withBank he.bank.set)
          · exact .ite (h.modElem (fun e he => he.clearIi)) h
          · exact h.modElem (fun e he => he.withBank he.bank.set)
          · exact h
      · exact h

/-! ## The configuration stream (Machine/ConfigStream.lean) -/

theorem Formed.dropStaged {s : State} {ea : EAddr} (h : Formed κ s) : Formed κ (dropStaged s ea) := h.setPort

theorem Formed.freePort {s : State} {ea : EAddr} (h : Formed κ s) : Formed κ (freePort s ea) := h.setPort

theorem CmdFormed.rejectCmd {s : State} {ea : EAddr} {ctx : BitVec 2} {field reason : Nat} (h : Formed κ s) : CmdFormed κ (rejectCmd s ea ctx field reason) :=
  .rejected h.dropStaged.freePort

theorem ExceptFormed.stageVals {s : State} {pc : Bool} {ea : EAddr} {k : ElemKind} {ctx : BitVec 2} {shadow : Bool} {n : Nat} {l : List Word}
    (h : Formed κ s) : ExceptFormed κ (stageVals s pc ea k ctx shadow n l) := by
  induction l generalizing s pc ea k ctx shadow n with
  | nil =>
    rw [Machine.stageVals]
    exact .ok h
  | cons b l ih =>
    rw [Machine.stageVals]
    split
    · exact .error
    · split
      · exact .error
      · split
        · exact .error
        · extract_lets p w
          split
          · exact .error
          · exact ih h.setPort

theorem Formed.applyStaged {s : State} {k : ElemKind} {ea : EAddr} {w : Staged} (h : Formed κ s) : Formed κ (applyStaged s k ea w) := by
  unfold Machine.applyStaged
  split
  · refine .ite ?_ h.setChannel
    split
    · exact h.ackRelease
    · exact h.ackFail
    · exact h
  · exact h.writeParity
  · exact h.applyBody

theorem Formed.noteLoaded {s : State} {ea : EAddr} {ctx : BitVec 2} (h : Formed κ s) : Formed κ (noteLoaded s ea ctx) := by
  unfold Machine.noteLoaded
  extract_lets s1
  have h1 : Formed κ s1 := h.modElem (fun e he => he)
  clear_value s1
  exact .ite (h1.modSite (fun r hr => hr.withCredit hr.credit.set)) h1

theorem Formed.noteActive {s : State} {k : ElemKind} {ea : EAddr} {l : List Staged} (h : Formed κ s) : Formed κ (noteActive s k ea l) :=
  h.ite (h.foldl (fun _ _ h1 => h1.noteLoaded))

theorem CmdFormed.checkCmd {s : State} {ea : EAddr} {k : ElemKind} {ctx : BitVec 2} {v : Word} (h : Formed κ s) : CmdFormed κ (checkCmd s ea k ctx v) := by
  unfold Machine.checkCmd
  extract_lets p bad restart
  have hretart : ∀ (s : State), Formed κ s → Formed κ (restart s) := fun s1 h1 => h1.setPort
  clear_value restart
  split
  · exact .rejected (hretart _ h)
  · clear_value bad
    split
    · exact .rejected (hretart _ h)
    · exact .ok (hretart _ (.noteActive (h.foldl (fun s1 b h1 => h1.applyStaged))))

theorem Formed.swapBank {s : State} {ea : EAddr} {ctx : BitVec 2} (h : Formed κ s) : Formed κ (swapBank s ea ctx) := by
  unfold Machine.swapBank
  extract_lets k sh s1 s2 s3
  have h1 : Formed κ s1 := by
    unfold s1
    refine h.modElem ?_
    intro e he
    extract_lets e1
    have he1 : ElemFormed κ e1 := (he.withBank h.elem.shadow.getD.filter).withOps .nil
    clear_value e1
    refine .ite ?_ he1
    refine he1.withK ?_
    refine .foldl .nil ?_
    intro t b hx
    split
    · exact hx.set
    · exact hx.set
  have h2 : Formed κ s2 := .ite (h1.foldl (fun s4 b h2 => h2.writeWsWord.ite h2)) h1
  have h3 : Formed κ s3 := by
    unfold s3
    refine .ite ?_ h2
    refine h2.foldl ?_
    intro s4 b h3
    extract_lets e kidx
    have he : ElemFormed κ e := h3.elem
    clear_value e
    exact (h3.setElem he.setK.setOp).ite h3
  clear_value s1 s2 s3
  exact h3.noteLoaded

theorem CmdFormed.swapCmd {s : State} {ea : EAddr} {k : ElemKind} {ctx : BitVec 2} {v : Word} (h : Formed κ s) : CmdFormed κ (swapCmd s ea k ctx v) := by
  unfold Machine.swapCmd
  extract_lets s1
  have h1 : Formed κ s1 := h.setPort
  clear_value s1
  split
  · exact .rejected h1
  · split
    · exact .rejected h1
    · split
      · exact .ok (h1.modElem (fun e he => he))
      · exact .ok h1.swapBank

theorem CmdFormed.discardCmd {s : State} {ea : EAddr} {k : ElemKind} {ctx : BitVec 2} {v : Word} (h : Formed κ s) :
    CmdFormed κ (discardCmd s ea k ctx v) := by
  unfold Machine.discardCmd
  extract_lets s1
  have h1 : Formed κ s1 := h.setPort
  clear_value s1
  split
  · exact .rejected h1
  · split
    · exact .ok h1
    · exact .ok (h1.modElem (fun e he => he.withShadow .none))

theorem CmdFormed.command {s : State} {stream : Nat} {ctx : BitVec 2} {ea : EAddr} {c : CmdBody} (h : Formed κ s) :
    CmdFormed κ (command s stream ctx ea c) := by
  unfold Machine.command
  split
  · exact .rejected h
  · extract_lets p crc
    split
    · exact .held
    · split
      · split
        · exact .rejectCmd h
        · split
          · exact .rejectCmd h
          · extract_lets bad
            split
            · split
              · exact .rejectCmd h
              · exact .rejectCmd h
            · exact .rejectCmd h
            · refine .ok ?_
              refine .setPort ?_
              refine ExceptFormed.of_ok ?_ ‹_›
              exact .stageVals h
      · split
        · exact .rejectCmd h
        · exact .ok h.setPort
      · exact .swapCmd h
      · exact .discardCmd h
      · exact .checkCmd h

theorem CmdFormed.streamCommand {s : State} {f : Focus} {ctx : BitVec 2} {ea : EAddr} {c : CmdBody} (h : Formed κ s) :
    CmdFormed κ (streamCommand s f ctx ea c) := by
  unfold Machine.streamCommand
  split
  · exact .command h
  · exact .rejected h

theorem Formed.loaderRejected {s : State} {blk : BitVec 6} {report : Word} (h : Formed κ s) : Formed κ (loaderRejected s blk report) := h.modSq

theorem Formed.streamResult {s : State} {c : CmdOut} (h : Formed κ s) (ha : CmdFormed κ c) : Formed κ (streamResult s c) := by
  unfold Machine.streamResult
  split
  · exact h
  · split
    · exact .modSq ha
    · exact ha
  · split
    · exact .loaderRejected ha
    · exact ha

theorem OutFormed.execWriteActive {ctx : BitVec 2} {ea : BitVec 16} {field : BitVec 6} {vals : List (BitVec 32)} {s : State} (h : Formed κ s) :
    OutFormed κ (execWriteActive ctx ea field vals s) :=
  .next (h.streamResult (.streamCommand h))

theorem OutFormed.execWriteShadow {ctx : BitVec 2} {ea : BitVec 16} {field : BitVec 6} {vals : List (BitVec 32)} {s : State} (h : Formed κ s) :
    OutFormed κ (execWriteShadow ctx ea field vals s) :=
  .next (h.streamResult (.streamCommand h))

theorem OutFormed.execReadBack {ctx : BitVec 2} {ea : BitVec 16} {field count : BitVec 6} {s : State} (h : Formed κ s) :
    OutFormed κ (execReadBack ctx ea field count s) := by
  unfold Machine.execReadBack
  extract_lets
  exact .ite (.next h) (.next (h.streamResult (.streamCommand h)))

theorem OutFormed.execSwap {ctx : BitVec 2} {ea : BitVec 16} {v : BitVec 32} {s : State} (h : Formed κ s) : OutFormed κ (execSwap ctx ea v s) :=
  .next (h.streamResult (.streamCommand h))

theorem OutFormed.execDiscard {ctx : BitVec 2} {ea : BitVec 16} {v : BitVec 32} {s : State} (h : Formed κ s) : OutFormed κ (execDiscard ctx ea v s) :=
  .next (h.streamResult (.streamCommand h))

theorem OutFormed.execCheck {ctx : BitVec 2} {ea : BitVec 16} {crc : BitVec 32} {s : State} (h : Formed κ s) : OutFormed κ (execCheck ctx ea crc s) :=
  .next (h.streamResult (.streamCommand h))

theorem OutFormed.execCtxarbWrite {site : BitVec 13} {v : BitVec 32} {s : State} (h : Formed κ s) : OutFormed κ (execCtxarbWrite site v s) :=
  .ite (.next (h.ite h.writeCtxarb)) .fault

theorem OutFormed.execRtlogClear {site : BitVec 13} {s : State} (h : Formed κ s) : OutFormed κ (execRtlogClear site s) := .ite (.next h.clearRtlog) .fault

theorem OutFormed.execErrcntClear {ea : BitVec 16} {s : State} (h : Formed κ s) : OutFormed κ (execErrcntClear ea s) := .ite (.next h.clearErrcnt) .fault

theorem OutFormed.execIiCounterClear {ea : BitVec 16} {ctx agn : BitVec 2} {s : State} (h : Formed κ s) : OutFormed κ (execIiCounterClear ea ctx agn s) :=
  .ite (.next (h.modElem (fun _ he => he.clearIi))) .fault

theorem OutFormed.execMtcfgWrite {site : BitVec 13} {v : BitVec 32} {s : State} (h : Formed κ s) : OutFormed κ (execMtcfgWrite site v s) :=
  .ite (.next (h.ite h.writeMtcfg)) .fault

theorem OutFormed.execBankRetireCommand {site : BitVec 13} {v : BitVec 32} {s : State} (h : Formed κ s) : OutFormed κ (execBankRetireCommand site v s) :=
  .ite (.next (h.ite h.writeParity)) .fault

theorem OutFormed.execAxolotlCounterClear {site : BitVec 13} {v : BitVec 32} {s : State} (h : Formed κ s) : OutFormed κ (execAxolotlCounterClear site v s) :=
  .ite (.next (h.ite h.writeParity)) .fault

theorem Formed.adaptAt {s : State} {site : SiteNo} (h : Formed κ s) : Formed κ (adaptAt s site) := by
  unfold Machine.adaptAt
  extract_lets t cs on occ top w a
  have ht : SiteFormed κ t := h.site
  clear_value t
  exact h.ite (.ite (h.setSite ht) (h.setSite (ht.withCredit (ht.credit.foldl (fun t1 b hx => hx.mod)))))

theorem OutFormed.execAdaptWindow {site : BitVec 13} {s : State} (h : Formed κ s) : OutFormed κ (execAdaptWindow site s) := .ite (.next h.adaptAt) .fault

/-! ## Tasks and their regions (Machine/TaskCtl.lean) -/

theorem ElemFormed.emptied {e : ElemCtx} (he : ElemFormed κ e) : ElemFormed κ e.emptied := he.withPass .none

theorem Formed.placeInits {s : State} {t : Task} {key : Nat} (h : Formed κ s) : Formed κ (placeInits s t key) := by
  unfold Machine.placeInits
  extract_lets
  exact h.modElem (fun e he => he.foldl (fun e1 b he1 => he1.setQueue))

theorem Formed.setWeight {s : State} {key w : Nat} (h : Formed κ s) : Formed κ (setWeight s key w) := by
  unfold Machine.setWeight
  extract_lets
  exact h.modSite (fun r hr => hr)

theorem Formed.bindPhases {s : State} {key : Nat} (h : Formed κ s) : Formed κ (bindPhases s key) := by
  unfold Machine.bindPhases
  extract_lets ea
  refine h.ite ?_
  refine h.foldl ?_
  intro s1 b h1
  extract_lets e w v
  have he : ElemFormed κ e := h1.elem
  clear_value e
  exact (h1.setElem he.setOp).ite h1

theorem Formed.enterContext {s : State} {t : Task} {key : Nat} {released : Bool} (h : Formed κ s) : Formed κ (enterContext s t key released) := by
  unfold Machine.enterContext
  extract_lets s1
  have h1 : Formed κ s1 := by
    unfold s1
    refine h.modElem ?_
    intro e he
    extract_lets src
    have hsrc : ElemFormed κ src := he.emptied
    clear_value src
    exact hsrc
  clear_value s1
  exact h1.placeInits.bindPhases.setWeight

theorem Formed.leaveContext {s : State} {key : Nat} (h : Formed κ s) : Formed κ (leaveContext s key) := by
  unfold Machine.leaveContext
  extract_lets s1
  have h1 : Formed κ s1 := by
    unfold s1
    refine h.modElem ?_
    intro e he
    extract_lets src
    have hsrc : ElemFormed κ src := he.emptied
    clear_value src
    exact hsrc.withOps .nil
  clear_value s1
  exact h1.setWeight

theorem Formed.setPtrs {s : State} {t : Task} (h : Formed κ s) : Formed κ (setPtrs s t) := h.foldl (fun _ _ h1 => h1.modSite (fun _ hr => hr))

theorem LoadFormed.sendImage {uid : Nat} {t : Tab Word} {s : State} {l : List ImageCmd} (h : Formed κ s) : LoadFormed κ (sendImage uid t s l) := by
  induction l generalizing uid t s with
  | nil =>
    rw [Machine.sendImage]
    exact .done h
  | cons b l ih =>
    rw [Machine.sendImage]
    split
    · exact .held
    · refine ih ?_
      refine CmdFormed.of_ok ?_ ‹_›
      exact .command h
    · refine .failed ?_
      refine CmdFormed.of_rejected ?_ ‹_›
      exact .command h

theorem Formed.dropShadows {s : State} {keys : List Nat} (h : Formed κ s) : Formed κ (dropShadows s keys) :=
  h.foldl (fun _ _ h1 => h1.modElem (fun _ he => he.withShadow .none))

theorem ImageFormed.shadowsOf {s : State} {keys : List Nat} (h : Formed κ s) : ImageFormed κ (shadowsOf s keys) := by
  intro p hp
  obtain ⟨k, -, rfl⟩ := List.mem_map.1 hp
  exact h.elem.shadow.getD

theorem Formed.swapIn {s : State} {t : Task} (h : Formed κ s) : Formed κ (swapIn s t) :=
  h.foldl (fun _ _ h1 => .ite (h1.modElem (fun _ he => he)) h1.swapBank.enterContext)

theorem Formed.takeArmed {s : State} {ea : EAddr} {ctx : BitVec 2} (h : Formed κ s) : Formed κ (takeArmed s ea ctx) := by
  unfold Machine.takeArmed
  extract_lets next s1
  have h1 : Formed κ s1 := h.swapBank
  clear_value s1
  clear_value next
  split
  · exact h1.enterContext
  · exact h1

theorem OutFormed.execSwapOnMark {ea : BitVec 16} {ctx : BitVec 2} {s : State} (h : Formed κ s) : OutFormed κ (execSwapOnMark ea ctx s) := by
  unfold Machine.execSwapOnMark
  refine .ite ?_ .fault
  extract_lets e
  have he : ElemFormed κ e := h.elem
  clear_value e
  exact .next (h.takeArmed.ite (h.leaveContext.ite h))

theorem Formed.clearTask {s : State} {t : Task} (h : Formed κ s) : Formed κ (clearTask s t) := by
  unfold Machine.clearTask
  refine h.foldl ?_
  intro s1 b h1
  extract_lets ea ctx e
  have he : ElemFormed κ e := h1.elem
  clear_value e
  exact h1.ite (h1.leaveContext.takeArmed.ite h1.leaveContext)

theorem Formed.mboxKeep {s : State} {slot : Nat} {l : List MboxEntry} (h : Formed κ s) : Formed κ (mboxKeep s slot l) :=
  (h.withDmem h.dmem.setBytes).withMboxes h.mboxes.set

theorem Formed.unparkFor {s : State} {uid : Nat} (h : Formed κ s) : Formed κ (unparkFor s uid) := by
  unfold Machine.unparkFor
  extract_lets mine s1 free slots logged s2 s3
  have h1 : Formed κ s1 := h.foldl (fun s4 b h1 => h1.setBarrier)
  have h2 : Formed κ s2 := h1.foldl (fun s4 b h2 => h2.mboxKeep)
  have h3 : Formed κ s3 := by
    unfold s3
    refine h2.foldl ?_
    intro s4 b h3
    extract_lets s5 b1 owed s6
    have h5 : Formed κ s5 := h3.excuseWaiting.ite h3
    have h6 : Formed κ s6 := h5.setBarrier
    clear_value s5 s6
    exact h6.foldl (fun s7 b2 h4 => h4.release)
  clear_value s1 s2 s3
  exact h3.foldl (fun s4 b h4 => h4.arrive)

theorem TaskFormed.forget {t : Task} (ht : TaskFormed κ t) : TaskFormed κ t.forget := ht.withSaved .nil

theorem TasksFormed.successorsOf {s : State} {uid : Nat} (h : Formed κ s) : TasksFormed κ (successorsOf s uid) := h.tasks.filter

theorem Formed.armAt {s : State} {p : Nat × Tab Word} (hp : TabFormed κ p.2) (h : Formed κ s) : Formed κ (armAt s p) :=
  h.modElem fun _ he => he.withShadow (.some hp)

theorem Formed.reloadImage {s : State} {t : Task} {inits : Bool} (h : Formed κ s) (ht : TaskFormed κ t) : Formed κ (reloadImage s t inits) := by
  unfold Machine.reloadImage
  refine h.foldlImage ht.image ?_
  intro s1 p hx h1
  extract_lets ea ctx e s2 s3
  have he : ElemFormed κ e := h1.elem
  have h2 : Formed κ s2 := .swapBank (h1.setElem (he.withShadow (.some hx)))
  have h3 : Formed κ s3 := h2.modElem (fun e1 he1 => .ite (he1.withShadow he.shadow) he1)
  clear_value e s2 s3
  exact .ite (.armAt hx h1) h3.enterContext

theorem Formed.toPool {s : State} {t : Task} {f : Task → Task} (h : Formed κ s) (hf : ∀ (u : Task), TaskFormed κ u → TaskFormed κ (f u)) :
    Formed κ (toPool s t f) := by
  unfold Machine.toPool
  extract_lets s1
  have h1 : Formed κ s1 := by
    unfold s1
    refine h.foldl ?_
    intro s2 b h1
    extract_lets e
    have he : ElemFormed κ e := h1.elem
    exact .ite (h1.leaveContext.modElem (fun e1 he1 => he1.withShadow .none)) (h1.dropShadows.ite h1)
  clear_value s1
  refine h1.modTask ?_
  intro t1 ht
  extract_lets src
  have hsrc : TaskFormed κ src := hf _ ht
  clear_value src
  exact hsrc.withImage .nil

theorem Formed.spliceBehind {s : State} {t u : Task} (h : Formed κ s) (ht2 : TaskFormed κ u) : Formed κ (spliceBehind s t u) := by
  unfold Machine.spliceBehind
  extract_lets s1
  have h1 : Formed κ s1 := by
    unfold s1
    refine h.modTask ?_
    intro t1 ht1
    extract_lets src
    have hsrc : TaskFormed κ src := ht1.forget
    clear_value src
    exact hsrc
  clear_value s1
  exact h1.foldlImage ht2.image.filter (fun s2 p hx h2 => .armAt hx h2)

theorem Formed.restartAlone {s : State} {t u : Task} (h : Formed κ s) (ht2 : TaskFormed κ u) : Formed κ (restartAlone s t u) :=
  h.foldlImage ht2.image.filter (fun _ _ hx h1 => .takeArmed (.leaveContext (.armAt hx h1)))

theorem Formed.inheritFrom {s : State} {uid : Nat} (h : Formed κ s) : Formed κ (inheritFrom s uid) :=
  h.foldlTasks (.successorsOf h) (fun _ _ ht h1 => .ite (h1.foldlImage ht.image.filter (fun _ _ hx h2 => .takeArmed (.armAt hx h2)))
    (h1.toPool (fun _ ht1 => ht1.idOf)))

theorem Formed.abortInPlace {s : State} {l : List Task} (h : Formed κ s) (hl : TasksFormed κ l) : Formed κ (abortInPlace s l) := by
  unfold Machine.abortInPlace
  extract_lets behind heads pairs s1 s2 s3
  have hpairs : ∀ p ∈ pairs, TaskFormed κ p.2 := by
    intro p hp
    obtain ⟨u, hu, hm⟩ := List.mem_filterMap.1 hp
    obtain ⟨t, -, rfl⟩ := Option.map_eq_some_iff.1 hm
    exact hl u (List.mem_filter.1 hu).1
  have h1 : Formed κ s1 := h.foldl fun _ _ hs => hs.toPool fun _ ht => ht.forget
  have h2 : Formed κ s2 := h1.foldlMem fun _ p hp hs => hs.spliceBehind (hpairs p hp)
  have h3 : Formed κ s3 := by
    refine h2.foldlTasks hl.filter fun s4 t ht h4 => .reloadImage (h4.modTask fun _ hu => ?_) ht
    exact hu.forget
  exact h3.foldlMem fun _ p hp hs => hs.restartAlone (hpairs p hp)

theorem Formed.abortToPool {s : State} {l : List Task} (h : Formed κ s) : Formed κ (abortToPool s l) := by
  unfold Machine.abortToPool
  extract_lets waiting s1
  have hwaiting : TasksFormed κ waiting := h.tasks.filter
  have h1 : Formed κ s1 := h.foldl (fun s2 b h1 => h1.toPool (fun a ht => ht.idOf))
  clear_value waiting s1
  refine h1.foldl ?_
  intro s2 b h2
  refine h2.unparkFor.toPool ?_
  intro a ht
  extract_lets src
  have hsrc : TaskFormed κ src := ht.forget
  clear_value src
  exact hsrc

theorem Formed.abortTask {s : State} {uid : Nat} (h : Formed κ s) : Formed κ (abortTask s uid) := by
  unfold Machine.abortTask
  split
  · exact h
  · extract_lets l
    have hl : TasksFormed κ l := h.filterMapTask
    clear_value l
    exact (h.abortInPlace hl).ite h.abortToPool

end Sys2Proof.Proofs

namespace Sys2Proof.Proofs
open Sys2Proof.Machine

/-! # The form of the machine: memory tiles -/

variable {κ : Form}

/-! ## Device memory (Machine/DevMem.lean) -/

theorem Formed.markLeaf {s : State} {w : Walked} {write : Bool} (h : Formed κ s) : Formed κ (markLeaf s w write).1 := by
  unfold Machine.markLeaf
  extract_lets
  exact h.iteFst (h.withDmem h.dmem.setNat)

theorem Formed.walkInto {s : State} {l : List Tlb} {part va : Nat} {i : Intent} (h : Formed κ s) : Formed κ (walkInto s l part va i).1 := by
  unfold Machine.walkInto
  split
  · exact h
  · exact h
  · split
    · exact h.markLeaf.of_pair ‹_›

theorem Formed.translate {s : State} {l : List Tlb} {part va : Nat} {i : Intent} (h : Formed κ s) : Formed κ (Machine.translate s l part va i).1 := by
  unfold Machine.translate
  refine h.iteFst ?_
  refine h.iteFst ?_
  split
  · exact h.iteFst h.walkInto
  · exact h.walkInto
  · exact h.walkInto

theorem Formed.touch {s : State} {pa n : Nat} (h : Formed κ s) : Formed κ (touch s pa n) := h

theorem Formed.firmwareWrite {s : State} {pa : Nat} {l : List Byte} (h : Formed κ s) : Formed κ (firmwareWrite s pa l) :=
  h.log.ite (h.withDmem h.dmem.setBytes)

theorem Formed.postFaults {s : State} {part n : Nat} (h : Formed κ s) : Formed κ (postFaults s part n) := by
  induction n generalizing s part with
  | zero =>
    rw [Machine.postFaults]
    exact h
  | succ n ih =>
    rw [Machine.postFaults]
    split
    · exact h
    · refine h.ite ?_
      extract_lets slot s1 s2
      have h1 : Formed κ s1 := h.firmwareWrite
      have h2 : Formed κ s2 := h1.setPart
      clear_value s1 s2
      exact ih h2

theorem Formed.raiseFault {s : State} {part va : Nat} {i : Intent} {w : Faulter} (h : Formed κ s) : Formed κ (raiseFault s part va i w).1 := by
  unfold Machine.raiseFault
  extract_lets
  exact h.setPart.postFaults

theorem Formed.dropFault {s : State} {part fseq : Nat} (h : Formed κ s) : Formed κ (dropFault s part fseq) := h.modPart

theorem Formed.noteRead {s : State} {uid pa n : Nat} (h : Formed κ s) : Formed κ (noteRead s uid pa n) := h.modTask (fun _ ht => ht)

theorem Formed.noteWrite {s : State} {uid pa n : Nat} (h : Formed κ s) : Formed κ (noteWrite s uid pa n) := h.modTask (fun _ ht => ht)

theorem Formed.abortWhere {s : State} {p : State → Task → Bool} (h : Formed κ s) : Formed κ (abortWhere s p) := by
  unfold Machine.abortWhere
  refine h.foldl ?_
  intro s1 b h1
  split
  · exact h1.abortTask.ite h1
  · exact h1

theorem Formed.abortReaders {s : State} {pa n : Nat} (h : Formed κ s) : Formed κ (abortReaders s pa n) := h.ite h.abortWhere

theorem Formed.putLine {s : State} {w : LineWrite} (h : Formed κ s) : Formed κ (putLine s w) := by
  unfold Machine.putLine
  extract_lets s1
  have h1 : Formed κ s1 := h.withDmem h.dmem.setMasked
  clear_value s1
  exact h1.touch

theorem Formed.commitLine {s : State} {part : Nat} {w : LineWrite} {exact : ExactOperand} (h : Formed κ s) : Formed κ (commitLine s part w exact) := by
  unfold Machine.commitLine
  extract_lets old s1 s2
  have h1 : Formed κ s1 := h.putLine
  have h2 : Formed κ s2 := h1.monitorPort
  clear_value s1 s2
  exact h2.abortReaders

theorem Formed.commitBytes {s : State} {part pa : Nat} {l : List Byte} (h : Formed κ s) : Formed κ (commitBytes s part pa l) :=
  h.foldl (fun _ _ h1 => h1.commitLine)

theorem Formed.pairLine {s : State} {part idx unit : Nat} {w : LineWrite} (h : Formed κ s) : Formed κ (pairLine s part idx unit w) := by
  unfold Machine.pairLine
  split
  · exact h.modPlat
  · extract_lets same s1
    have h1 : Formed κ s1 := h.modPlat
    clear_value s1
    exact h1.modPlat.ite (h1.ite h1.commitLine)

theorem Formed.unitWrite {s : State} {part : Nat} {b : BitVec 6} {unit pa : Nat} {l : List Byte} (h : Formed κ s) : Formed κ (unitWrite s part b unit pa l) :=
  .ite (h.foldl (fun _ _ h1 => h1.pairLine)) h.commitBytes

theorem Formed.throughLine {s : State} {mt : SiteNo} {w : LineWrite} {exact : ExactOperand} (h : Formed κ s) : Formed κ (throughLine s mt w exact) := by
  unfold Machine.throughLine
  extract_lets old s1 s2
  have h1 : Formed κ s1 := h.putLine
  have h2 : Formed κ s2 := h1.monitorCommit
  clear_value s1 s2
  exact h2.abortReaders

theorem Formed.taskBytes {s : State} {task : Option Nat} {pa n : Nat} (h : Formed κ s) : Formed κ (taskBytes s task pa n).1 := by
  unfold Machine.taskBytes
  extract_lets line l
  split
  · exact h.touch
  · exact h.touch.noteRead

theorem OptFormed.taskStore {s : State} {task : Option Nat} {mt : SiteNo} {w : LineWrite} (h : Formed κ s) : OptFormed κ (taskStore s task mt w) := by
  unfold Machine.taskStore
  split
  · exact .some h.throughLine
  · refine .ite (.some h) ?_
    extract_lets s' bm
    have h' : Formed κ s' := h.noteWrite
    clear_value s'
    refine .ite (.some (.throughLine (h'.modTask (fun t ht => ht)))) ?_
    refine .ite (.some (h'.modTask (fun t ht => ht))) ?_
    split
    · exact .some (h'.modTask (fun t ht => ht))
    · exact .ite .none (.some (h'.modTask (fun t ht => ht)))

theorem OptFstFormed.taskAtomic {s : State} {task : Option Nat} {mt : SiteNo} {pa op fmt d cmp : Nat} {observed : Bool} (h : Formed κ s) :
    OptFstFormed κ (taskAtomic s task mt pa op fmt d cmp observed) := by
  unfold Machine.taskAtomic
  extract_lets n through
  have hthrough : ∀ (s : State), Formed κ s → Formed κ (through s).1 := fun s1 h1 => h1.iteFst (h1.foldl (fun s2 b h2 => h2.throughLine))
  clear_value through
  split
  · exact .some (hthrough _ h)
  · extract_lets s' s'1
    have h' : Formed κ s' := h.noteWrite
    have h'1 : Formed κ s'1 := .ite (h'.modTask (fun t ht => ht)) h'
    clear_value s' s'1
    split
    · exact .some (hthrough _ (h'.modTask (fun t ht => ht)))
    · split
      · exact .none
      · split
        · exact .some (.modTask ((h'1.taskBytes.iteFst h'1).of_pair ‹_›) (fun t ht => ht))

theorem Formed.applyEntry {s : State} {e : CbEntry} (h : Formed κ s) : Formed κ (applyEntry s e) := by
  unfold Machine.applyEntry
  split
  · extract_lets old s1
    have h1 : Formed κ s1 := h.putLine
    clear_value s1
    exact h1.monitorCommit
  · exact h.ite (h.foldl (fun s1 b h1 => h1.putLine.monitorCommit))
  · exact h

theorem Formed.translateRange {s : State} {l : List Tlb} {part : Nat} {i : Intent} {l1 : List (Nat × Nat)} (h : Formed κ s) :
    Formed κ (translateRange s l part i l1).1 := by
  induction l1 generalizing s l part i with
  | nil =>
    rw [Machine.translateRange]
    exact h
  | cons b l1 ih =>
    rw [Machine.translateRange]
    split
    · split
      · refine .of_pair ?_ ‹_›
        exact ih (h.translate.of_pair ‹_›)
      · refine .of_pair ?_ ‹_›
        exact ih (h.translate.of_pair ‹_›)
    · exact h.translate.of_pair ‹_›

theorem Formed.virtBytes {s : State} {l : List Tlb} {part va n : Nat} {i : Intent} (h : Formed κ s) : Formed κ (virtBytes s l part va n i).1 := by
  unfold Machine.virtBytes
  split
  · exact .foldl (h.translateRange.of_pair ‹_›) (fun s1 b h1 => h1.touch)
  · exact h.translateRange.of_pair ‹_›

theorem Formed.virtWrite {s : State} {l : List Tlb} {part va : Nat} {data : List Byte} (h : Formed κ s) : Formed κ (virtWrite s l part va data).1 := by
  unfold Machine.virtWrite
  split
  · refine .iteFst (h.translateRange.of_pair ‹_›) ?_
    extract_lets r
    have hr : Formed κ r.1 := .foldlFst (h.translateRange.of_pair ‹_›) (fun x b h1 => h1.commitBytes)
    clear_value r
    exact hr
  · exact h.translateRange.of_pair ‹_›

theorem Formed.readVirt {s : State} {part va n : Nat} (h : Formed κ s) : Formed κ (readVirt s part va n).1 := by
  unfold Machine.readVirt
  extract_lets r
  have hr : Formed κ r.1 := h.virtBytes
  clear_value r
  exact hr

theorem Formed.writeVirt {s : State} {part va : Nat} {data : List Byte} (h : Formed κ s) : Formed κ (writeVirt s part va data).1 := by
  unfold Machine.writeVirt
  extract_lets r
  have hr : Formed κ r.1 := h.virtWrite
  clear_value r
  exact hr

theorem Formed.dropTranslations {s : State} {part va n : Nat} (h : Formed κ s) : Formed κ (dropTranslations s part va n) := by
  have hsites : SitesFormed κ (s.sites.foldl (fun t p => tabSet t p.1 { p.2 with xtc := tlbDrop p.2.xtc part va n } Site.reset) s.sites) :=
    h.sites.rebuild h.sites fun _ hp => hp
  exact (h.withSites hsites).withSqs (h.sqs.foldl fun _ _ ht => ht.set)

theorem Formed.forgetReissues {s : State} {part : Nat} {gen : BitVec 7} (h : Formed κ s) : Formed κ (forgetReissues s part gen) := by
  refine h.withElems (h.elems.map (fun p => ?_) fun p hp => ?_)
  · split
    · rfl
    · rfl
  · split
    · exact hp.withOps (hp.ops.map fun _ => rfl)
    · exact hp

theorem Formed.shootDown {s : State} {part va n : Nat} (h : Formed κ s) : Formed κ (shootDown s part va n) := by
  unfold Machine.shootDown
  extract_lets s1
  have h1 : Formed κ s1 := h.dropTranslations
  clear_value s1
  exact h1.modPart.forgetReissues

/-! ## Address generators (Machine/Agn.lean) -/

theorem Formed.xlatStop {s : State} {v : AgnView} {va : Nat} {i : Intent} {reason : Nat} (h : Formed κ s) : Formed κ (xlatStop s v va i reason).1 := by
  unfold Machine.xlatStop
  refine .iteFst ?_ h
  split
  · exact h.raiseFault.of_pair ‹_›

theorem Formed.tileXlat {s : State} {site : SiteNo} {part va : Nat} {i : Intent} (h : Formed κ s) : Formed κ (tileXlat s site part va i).1 := by
  unfold Machine.tileXlat
  split
  · exact .modSite (h.translate.of_pair ‹_›) (fun r hr => hr)

theorem Formed.tileWalk {s : State} {site : SiteNo} {part va : Nat} {i : Intent} (h : Formed κ s) : Formed κ (tileWalk s site part va i).1 := by
  unfold Machine.tileWalk
  split
  · exact .modSite (h.walkInto.of_pair ‹_›) (fun r hr => hr)

theorem Formed.reElement {s : State} {v : AgnView} {x : Nat} (h : Formed κ s) : Formed κ (reElement s v x).1 := by
  unfold Machine.reElement
  extract_lets found part
  clear_value found
  split
  · exact h
  · extract_lets va i word
    split
    · extract_lets gen s1
      have h1 : Formed κ s1 := .modElem (h.tileWalk.of_pair ‹_›) (fun e he => he.setOp)
      clear_value s1
      exact h1
    · exact h.tileWalk.of_pair ‹_›
    · refine .iteFst (h.tileWalk.of_pair ‹_›) ?_
      split
      · refine .of_pair ?_ ‹_›
        exact .xlatStop (h.tileWalk.of_pair ‹_›)

theorem Formed.decideAsk {s : State} {v : AgnView} {q : Ask} (h : Formed κ s) : Formed κ (decideAsk s v q).1 := by
  unfold Machine.decideAsk
  extract_lets spadAt stale
  split
  · exact h
  · exact h
  · split
    · split
      · exact (h.reElement.iteFst h).of_pair ‹_›
      · exact .iteFst ((h.reElement.iteFst h).of_pair ‹_›)
          (.iteFst ((h.reElement.iteFst h).of_pair ‹_›)
          (.iteFst ((h.reElement.iteFst h).of_pair ‹_›) (.iteFst ((h.reElement.iteFst h).of_pair ‹_›) ((h.reElement.iteFst h).of_pair ‹_›))))

theorem Formed.decideAll {v : AgnView} {s : State} {l : List Ask} (h : Formed κ s) : Formed κ (decideAll v s l).1 := by
  induction l generalizing v s with
  | nil =>
    rw [Machine.decideAll]
    exact h
  | cons b l ih =>
    rw [Machine.decideAll]
    split
    · exact h.decideAsk.of_pair ‹_›
    · split
      · refine .of_pair ?_ ‹_›
        exact ih (h.decideAsk.of_pair ‹_›)
      · refine .of_pair ?_ ‹_›
        exact ih (h.decideAsk.of_pair ‹_›)

theorem Formed.readLine {s : State} {v : AgnView} {p : Place} (h : Formed κ s) : Formed κ (readLine s v p).1 := by
  unfold Machine.readLine
  split
  · split
    · exact h.readSpad.of_pair ‹_›
  · split
    · exact h.taskBytes.of_pair ‹_›

theorem Formed.readSome {s : State} {v : AgnView} {p : Place} {n : Nat} (h : Formed κ s) : Formed κ (readSome s v p n).1 := by
  unfold Machine.readSome
  split
  · split
    · exact h.taskBytes.of_pair ‹_›
  · extract_lets k r
    have hr : Formed κ r.1 := by
      unfold r
      refine h.foldlFst ?_
      intro x b h1
      split
      · exact h1.readLine.of_pair ‹_›
    clear_value r
    exact hr

theorem Formed.readLines {v : AgnView} {s : State} {l : List Place} (h : Formed κ s) : Formed κ (readLines v s l).1 := by
  induction l generalizing v s with
  | nil =>
    rw [Machine.readLines]
    exact h
  | cons b l ih =>
    rw [Machine.readLines]
    split
    · split
      · refine .of_pair ?_ ‹_›
        exact ih (h.readLine.of_pair ‹_›)

theorem OptFstFormed.writeLine {s : State} {v : AgnView} {p : Place} {mask : Nat} {l : List Byte} {exact : ExactOperand} (h : Formed κ s) :
    OptFstFormed κ (writeLine s v p mask l exact) := by
  unfold Machine.writeLine
  split
  · exact .some h.writeSpad
  · exact .map (.taskStore h) (fun s1 h1 => h1)

theorem OptFstFormed.writeSome {s : State} {v : AgnView} {p : Place} {l : List Byte} (h : Formed κ s) : OptFstFormed κ (writeSome s v p l) :=
  .foldl (.some h) (fun _ _ hx => hx.bindPair (fun _ h1 => .mapPair (.writeLine h1) (fun _ h2 => h2)))

theorem Formed.suppressAt {s : State} {v : AgnView} {port : Nat} {l : List (Nat × Nat)} (h : Formed κ s) : Formed κ (suppressAt s v port l) := by
  unfold Machine.suppressAt
  extract_lets s1 held
  have h1 : Formed κ s1 := h.countSuppressed
  clear_value s1
  exact h1.poisonTask.ite h1

theorem Formed.migEnds {s : State} {v : AgnView} (h : Formed κ s) : Formed κ (migEnds s v) := by
  unfold Machine.migEnds
  split
  · exact h.modTask (fun t ht => ht)
  · exact h

theorem Formed.stayAgn {s : State} {v : AgnView} {op : OpSt} (h : Formed κ s) : Formed κ (stayAgn s v op) := by
  unfold Machine.stayAgn
  extract_lets s1
  have h1 : Formed κ s1 := h.migEnds.ite h
  clear_value s1
  exact h1.modElem (fun e he => he.setOp)

theorem Formed.applyAgn {s : State} {v : AgnView} {lead : Token} {pops : List Nat} {o : AgnOut} (h : Formed κ s) : Formed κ (applyAgn s v lead pops o) := by
  unfold Machine.applyAgn
  split
  · exact h.stopFault.traceEvent
  · exact h.stayAgn
  · extract_lets s1 s2 gsq s3
    have h1 : Formed κ s1 := h.noteFiring
    have h2 : Formed κ s2 := h1.poisonTask.ite h1
    have h3 : Formed κ s3 := .ite (h2.modSite (fun r hr => hr)) h2
    clear_value s1 s2 s3
    refine h3.modElem ?_
    intro e he
    extract_lets e1
    have he1 : ElemFormed κ e1 := he.foldl (fun e2 b he1 => he1.popPort)
    clear_value e1
    exact he1.setOp

theorem Formed.agnCut {s : State} {v : AgnView} {pops : List Nat} {t : Token} (h : Formed κ s) : Formed κ (agnCut s v pops t) := by
  unfold Machine.agnCut
  extract_lets s1
  have h1 : Formed κ s1 := by
    unfold s1
    refine h.modElem ?_
    intro e he
    extract_lets e1 op
    have he1 : ElemFormed κ e1 := he.foldl (fun e2 b he1 => he1.popPort)
    clear_value e1
    exact he1.setOp
  clear_value s1
  exact h1.traceEvent

theorem Formed.cutPorts {s : State} {v : AgnView} {ports : List Nat} (h : Formed κ s) : Formed κ (cutPorts s v ports) := by
  unfold Machine.cutPorts
  extract_lets
  exact .agnCut (h.modElem (fun e he => he.foldl (fun e1 b he1 => he1.setQueue)))

theorem Formed.faultEnds {s : State} {v : AgnView} {fseq va : Nat} (h : Formed κ s) : Formed κ (faultEnds s v fseq va).1 := by
  unfold Machine.faultEnds
  split
  · exact h
  · exact h.dropFault.stopFault
  · extract_lets s1 s2
    have h1 : Formed κ s1 := h.dropFault
    have h2 : Formed κ s2 := h1.modElem (fun e he => he)
    clear_value s1 s2
    dsimp only
    split
    · exact h2
    · exact h2.modTask (fun t ht => ht)
  · exact h.dropFault

theorem Formed.fireTokens {s : State} {v : AgnView} {body : AgnBody} (h : Formed κ s) (hbody : ∀ (u : State) (x : AgnView) (y : Token)
    (z : List Token), Formed κ u → Formed κ (body u x y z).1) : Formed κ (fireTokens s v body) := by
  unfold Machine.fireTokens
  extract_lets ports heads bad s1
  have hbad : ∀ (sub : Nat) (t : Token), Formed κ (bad sub t) := fun sub t => h.applyAgn
  have h1 : Formed κ s1 := h.poisonTask.ite h
  clear_value bad s1
  clear_value heads
  split
  · exact h
  · refine h.ite ?_
    refine (h.cutPorts.ite h).ite ?_
    extract_lets stores
    refine .ite ?_ ?_
    · split
      · exact .applyAgn ((hbody _ _ _ _ h1).of_pair ‹_›)
    · split
      · exact hbad _ _
      · exact (hbad _ _).ite h.applyAgn

theorem Formed.agnStep {s : State} {v : AgnView} {fire : State → AgnView → State} (h : Formed κ s) (hfire : ∀ (u : State)
    (x : AgnView), Formed κ u → Formed κ (fire u x)) : Formed κ (agnStep s v fire) := by
  unfold Machine.agnStep
  refine h.ite ?_
  split
  · exact hfire _ _ h
  · refine (hfire _ _ h).ite ?_
    refine (h.cutPorts.ite h).ite ?_
    split
    · exact h.faultEnds.of_pair ‹_›
    · exact hfire _ _ (h.faultEnds.of_pair ‹_›)

theorem OutFormed.runAgn {s : State} {w : OpWord} {code : Nat} {fire : State → AgnView → State} (h : Formed κ s) (hfire : ∀ (u : State)
    (x : AgnView), Formed κ u → Formed κ (fire u x)) : OutFormed κ (runAgn s w code fire) := by
  unfold Machine.runAgn
  split
  · exact .next (h.agnStep (fun a x h1 => hfire _ _ h1))
  · exact .refused

theorem PageFormed.pageElement {s : State} {v : AgnView} {va : Nat} {own : Intent} (h : Formed κ s) : PageFormed κ (pageElement s v va own) := by
  rw [Machine.pageElement]
  extract_lets _ fed
  clear_value fed
  split
  · exact .empty
  · refine .ite (.el h) (.ite (.stop h) (.ite (.el h) ?_))
    split
    · exact .el (h.tileXlat.of_pair ‹_›)
    · exact .stop (h.tileXlat.of_pair ‹_›)
    · exact .ite (.el (h.tileXlat.of_pair ‹_›)) (.stop (.xlatStop (h.tileXlat.of_pair ‹_›)))

theorem Formed.readRows {s : State} {v : AgnView} {p : Place} {ps k : Nat} (h : Formed κ s) : Formed κ (readRows s v p ps k).1 := by
  unfold Machine.readRows
  refine h.foldlFst ?_
  intro x b h1
  split
  · exact h1.readLine.of_pair ‹_›

theorem Formed.loadAt {s : State} {v : AgnView} {side : Token} {x : Option Nat} {ps : Nat} {cols : List Nat} (h : Formed κ s) :
    Formed κ (loadAt s v side x ps cols).1 := by
  unfold Machine.loadAt
  extract_lets t none_
  split
  · exact h
  · refine h.iteFst ?_
    split
    · exact h.decideAsk.of_pair ‹_›
    · exact h.decideAsk.of_pair ‹_›
    · refine .iteFst ?_ ?_
      · split
        · refine .of_pair ?_ ‹_›
          exact .readLine (h.decideAsk.of_pair ‹_›)
      · split
        · refine .of_pair ?_ ‹_›
          exact .readRows (h.decideAsk.of_pair ‹_›)

theorem Formed.ldBody {s : State} {a : AgnView} {t : Token} {l : List Token} (h : Formed κ s) : Formed κ (ldBody s a t l).1 := by
  unfold Machine.ldBody
  extract_lets ps
  split
  · exact h.loadAt.of_pair ‹_›
  · exact h.loadAt.of_pair ‹_›

theorem Formed.fireLoadSource {s : State} {v : AgnView} (h : Formed κ s) : Formed κ (fireLoadSource s v) := by
  unfold Machine.fireLoadSource
  extract_lets task repairing last _ fin t ps p fire
  have hfin : ∀ (s : State), Formed κ s → Formed κ (fin s) := fun s1 h1 => h1.ite h1.applyAgn
  have hfire : ∀ (n : Nat) (after : OpSt → OpSt), Formed κ (fire n after) := by
    unfold fire
    intro n after
    extract_lets side block cols
    split
    · exact h.applyAgn
    · refine .ite ?_ ?_
      · refine h.applyAgn.ite ?_
        split
        · split
          · exact h.ite (h.modElem (fun e he => he.popPort))
          · exact h
        · refine .applyAgn ?_
          refine PageFormed.of_stop ?_ ‹_›
          exact .pageElement h
        · extract_lets v1
          split
          · refine .applyAgn ?_
            refine .of_pair ?_ ‹_›
            refine .loadAt ?_
            refine PageFormed.of_el ?_ ‹_›
            exact .pageElement h
          · refine .applyAgn ?_
            refine .of_pair ?_ ‹_›
            refine .loadAt ?_
            refine PageFormed.of_el ?_ ‹_›
            exact .pageElement h
      · split
        · exact .applyAgn (h.loadAt.of_pair ‹_›)
        · exact .applyAgn (h.loadAt.of_pair ‹_›)
  clear_value fin fire
  refine h.agnCut.ite ?_
  refine .ite ?_ ((hfin _ h).ite (hfire _ _))
  split
  · exact hfire _ _
  · exact hfin _ h

theorem OutFormed.execLd {w : OpWord} {s : State} (h : Formed κ s) : OutFormed κ (execLd w s) :=
  .runAgn h (fun _ _ h1 => h1.fireLoadSource.ite (h1.fireTokens (fun _ _ _ _ h2 => h2.ldBody)))

theorem Formed.gatherBody {s : State} {a : AgnView} {t : Token} {l : List Token} (h : Formed κ s) : Formed κ (gatherBody s a t l).1 := by
  unfold Machine.gatherBody
  extract_lets w n earlier
  refine h.iteFst ?_
  split
  · exact h.decideAll.of_pair ‹_›
  · extract_lets asked pending lines now
    split
    · extract_lets value r
      refine .iteFst ?_ ?_
      · refine .of_pair ?_ ‹_›
        exact .readLines (h.decideAll.of_pair ‹_›)
      · refine .of_pair ?_ ‹_›
        exact .readLines (h.decideAll.of_pair ‹_›)

theorem OutFormed.execLdx {w : OpWord} {s : State} (h : Formed κ s) : OutFormed κ (execLdx w s) :=
  .runAgn h (fun _ _ h1 => h1.fireTokens (fun _ _ _ _ h2 => h2.gatherBody))

theorem Formed.nodePlace {s : State} {v : AgnView} {p : Nat} (h : Formed κ s) : Formed κ (nodePlace s v p).1 := by
  unfold Machine.nodePlace
  extract_lets at_ ask pa base va
  have hak : ∀ (s : State) (v : AgnView) (x : Nat), Formed κ s → Formed κ (ask s v x).1 := fun s1 v1 x h1 => h1.decideAsk
  clear_value ask
  refine (h.iteFst (hak _ _ _ h)).iteFst ?_
  refine (h.iteFst (h.iteFst (hak _ _ _ h))).iteFst ?_
  refine h.iteFst ?_
  split
  · exact hak _ _ _ (h.tileXlat.of_pair ‹_›)
  · exact h.tileXlat.of_pair ‹_›
  · split
    · refine .of_pair ?_ ‹_›
      exact .xlatStop (h.tileXlat.of_pair ‹_›)

theorem Formed.traverse {s : State} {v : AgnView} {t : Token} (h : Formed κ s) : Formed κ (Machine.traverse s v t) := by
  unfold Machine.traverse
  extract_lets p zero
  refine .ite ?_ ?_
  · split
    · exact h.applyAgn
  · split
    · exact .applyAgn (h.nodePlace.of_pair ‹_›)
    · split
      · exact .applyAgn (h.nodePlace.of_pair ‹_›)
    · split
      · extract_lets next
        refine .applyAgn ?_
        refine .of_pair ?_ ‹_›
        exact .readLine (h.nodePlace.of_pair ‹_›)

theorem OutFormed.execLdl {w : OpWord} {s : State} (h : Formed κ s) : OutFormed κ (execLdl w s) := by
  unfold Machine.execLdl
  refine .runAgn h ?_
  intro a x h1
  split
  · exact .ite (h1.fireTokens (fun a1 a_11 y z h2 => h2)) h1.traverse
  · exact h1.fireTokens (fun a1 a_11 y z h2 => h2)

theorem Formed.storeLine {s : State} {v : AgnView} {side data : Token} {x : Option Nat} {op : OpSt} (h : Formed κ s) :
    Formed κ (storeLine s v side data x op).1 := by
  unfold Machine.storeLine
  extract_lets tag fin m
  refine h.suppressAt.iteFst ?_
  split
  · exact h
  · split
    · exact h.decideAsk.of_pair ‹_›
    · exact h.decideAsk.of_pair ‹_›
    · split
      · refine OptFstFormed.of_some ?_ ‹_›
        exact .writeLine (h.decideAsk.of_pair ‹_›)
      · exact h.decideAsk.of_pair ‹_›

theorem Formed.stBody {s : State} {a : AgnView} {t : Token} {l : List Token} (h : Formed κ s) : Formed κ (stBody s a t l).1 := h.storeLine

theorem Formed.stBaseBody {s : State} {a : AgnView} {t : Token} {l : List Token} (h : Formed κ s) : Formed κ (stBaseBody s a t l).1 := by
  unfold Machine.stBaseBody
  extract_lets n _ next
  split
  · exact h
  · refine h.storeLine.iteFst ?_
    refine h.iteFst ?_
    split
    · exact h
    · refine PageFormed.of_stop ?_ ‹_›
      exact .pageElement h
    · extract_lets s1 op s2
      have h1 : Formed κ s1 := by
        unfold s1
        refine .ite ?_ ?_
        · refine .modElem ?_ (fun e he => he.popPort)
          refine PageFormed.of_el ?_ ‹_›
          exact .pageElement h
        · refine PageFormed.of_el ?_ ‹_›
          exact .pageElement h
      have h2 : Formed κ s2 := h1.modElem (fun e he => he.setOp)
      clear_value s1 s2
      exact h2.storeLine

theorem Formed.dropPageMark {s : State} {v : AgnView} (h : Formed κ s) : Formed κ (dropPageMark s v) := by
  unfold Machine.dropPageMark
  split
  · exact .ite (h.modElem (fun e he => he.popPort)) h
  · exact h

theorem OutFormed.execSt {w : OpWord} {s : State} (h : Formed κ s) : OutFormed κ (execSt w s) := by
  unfold Machine.execSt
  refine .runAgn h ?_
  intro a x h1
  refine .ite ?_ (h1.fireTokens (fun a1 a_11 y z h2 => h2.stBody))
  extract_lets s1
  have h11 : Formed κ s1 := h1.dropPageMark.ite h1
  clear_value s1
  exact h11.fireTokens (fun a1 a_11 y z h2 => h2.stBaseBody)

theorem Formed.scatterWords {v : AgnView} {n : Nat} {s : State} {b : Bool} {l : List (Nat × Place × Nat)} (h : Formed κ s) :
    Formed κ (scatterWords v n s b l).1 := by
  induction l generalizing v n s b with
  | nil =>
    rw [Machine.scatterWords]
    exact h
  | cons b l ih =>
    rw [Machine.scatterWords]
    split
    · refine ih ?_
      refine OptFstFormed.of_some ?_ ‹_›
      exact .writeSome h
    · exact h

theorem Formed.scatterBody {s : State} {a : AgnView} {t : Token} {l : List Token} (h : Formed κ s) : Formed κ (scatterBody s a t l).1 := by
  unfold Machine.scatterBody
  extract_lets data w n tag _ fin pairs wanted
  refine h.suppressAt.iteFst ?_
  split
  · exact h.decideAll.of_pair ‹_›
  · extract_lets writes pending now reach
    split
    · refine .of_pair ?_ ‹_›
      exact .scatterWords (h.decideAll.of_pair ‹_›)
    · refine .iteFst ?_ ?_
      · refine .of_pair ?_ ‹_›
        exact .scatterWords (h.decideAll.of_pair ‹_›)
      · refine .of_pair ?_ ‹_›
        exact .scatterWords (h.decideAll.of_pair ‹_›)

theorem OutFormed.execStx {w : OpWord} {s : State} (h : Formed κ s) : OutFormed κ (execStx w s) :=
  .runAgn h (fun _ _ h1 => h1.fireTokens (fun _ _ _ _ h2 => h2.scatterBody))

theorem WordFormed.atomWord {s : State} {v : AgnView} {p : Place} {op d cmp : Nat} {observed : Bool} (h : Formed κ s) :
    WordFormed κ (atomWord s v p op d cmp observed) := by
  unfold Machine.atomWord
  extract_lets f n traps
  split
  · split
    · extract_lets old new r
      have hr : Formed κ r.1 := by
        unfold r
        refine .foldlFst (h.readSome.of_pair ‹_›) ?_
        intro x b h1
        extract_lets x1
        have hx1 : Formed κ x1.1 := h1.writeSpad
        clear_value x1
        exact hx1
      clear_value r
      split
      · exact .old (h.readSome.of_pair ‹_›)
      · split
        · exact .nan (h.readSome.of_pair ‹_›)
        · split
          · exact .old (h.readSome.of_pair ‹_›)
          · exact .old hr
  · split
    · exact .full
    · split
      · exact .nan h
      · refine .old ?_
        refine OptFstFormed.of_some ?_ ‹_›
        exact .taskAtomic h

theorem Formed.atomWords {v : AgnView} {t : Token} {observed : Bool} {work : List (Nat × Place × Nat × Nat)} {s : State}
    {l : List (Nat × Nat × Bool)} {l1 : List (Nat × Place × Nat × Nat)} (h : Formed κ s) : Formed κ (atomWords v t observed work s l l1).1 := by
  induction l1 generalizing v t observed work s l with
  | nil =>
    rw [Machine.atomWords]
    exact h
  | cons b l1 ih =>
    unfold Machine.atomWords
    split
    · exact h
    · refine WordFormed.of_nan ?_ ‹_›
      exact .atomWord h
    · refine ih ?_
      refine WordFormed.of_old ?_ ‹_›
      exact .atomWord h

theorem Formed.atomBody {s : State} {a : AgnView} {t : Token} {l : List Token} (h : Formed κ s) : Formed κ (atomBody s a t l).1 := by
  unfold Machine.atomBody
  extract_lets data _ cmp w n tag observed _ fin asked earlier
  refine h.suppressAt.iteFst ?_
  split
  · exact h.decideAll.of_pair ‹_›
  · extract_lets work pending now
    split
    · refine .of_pair ?_ ‹_›
      exact .atomWords (h.decideAll.of_pair ‹_›)
    · split
      · refine .of_pair ?_ ‹_›
        exact .atomWords (h.decideAll.of_pair ‹_›)
      · refine .of_pair ?_ ‹_›
        exact .atomWords (h.decideAll.of_pair ‹_›)

theorem OutFormed.execAtom {w : OpWord} {s : State} (h : Formed κ s) : OutFormed κ (execAtom w s) :=
  .runAgn h (fun _ _ h1 => h1.fireTokens (fun _ _ _ _ h2 => h2.atomBody))

theorem Formed.probeWrite {s : State} {v : AgnView} {off x : Nat} {exact : ExactOperand} (h : Formed κ s) : Formed κ (probeWrite s v off x exact).1 := by
  unfold Machine.probeWrite
  refine h.foldlFst ?_
  intro x1 b h1
  extract_lets x2
  have hx2 : Formed κ x2.1 := h1.writeSpad
  clear_value x2
  exact hx2

theorem ProbedFormed.probeFrom {v : AgnView} {key d h : Nat} {s : State} {n n1 : Nat} (h2 : Formed κ s) : ProbedFormed κ (probeFrom v key d h s n n1) := by
  induction n generalizing v key d h s n1 with
  | zero =>
    rw [Machine.probeFrom]
    split
    · exact .missing h2
    · exact .stop h2
  | succ n ih =>
    rw [Machine.probeFrom]
    split
    · exact .stop h2
    · split
      · extract_lets k0 v0 x
        split
        · exact .failed (h2.readSome.of_pair ‹_›)
        · split
          · split
            · split
              · exact .stop (h2.readSome.of_pair ‹_›)
              · split
                · split
                  · refine .value ?_
                    refine .of_pair ?_ ‹_›
                    exact .probeWrite (h2.readSome.of_pair ‹_›)
                  · refine .failed ?_
                    refine .of_pair ?_ ‹_›
                    exact .probeWrite (h2.readSome.of_pair ‹_›)
            · exact .value (h2.readSome.of_pair ‹_›)
          · split
            · split
              · exact .missing (h2.readSome.of_pair ‹_›)
              · split
                · split
                  · split
                    · refine .value ?_
                      refine .of_pair ?_ ‹_›
                      refine .probeWrite ?_
                      refine .of_pair ?_ ‹_›
                      exact .probeWrite (h2.readSome.of_pair ‹_›)
                    · refine .failed ?_
                      refine .of_pair ?_ ‹_›
                      refine .probeWrite ?_
                      refine .of_pair ?_ ‹_›
                      exact .probeWrite (h2.readSome.of_pair ‹_›)
            · exact ih (h2.readSome.of_pair ‹_›)

theorem Formed.probeKeys {v : AgnView} {s : State} {l : List (Nat × Nat × Nat)} {l1 : List (Nat × Nat × Bool)} (h : Formed κ s) :
    Formed κ (probeKeys v s l l1).1 := by
  induction l generalizing v s l1 with
  | nil =>
    rw [Machine.probeKeys]
    exact h
  | cons b l ih =>
    rw [Machine.probeKeys]
    split
    · refine ih ?_
      refine ProbedFormed.of_value ?_ ‹_›
      exact .probeFrom h
    · refine ih ?_
      refine ProbedFormed.of_missing ?_ ‹_›
      exact .probeFrom h
    · refine ih ?_
      refine ProbedFormed.of_failed ?_ ‹_›
      exact .probeFrom h
    · refine ProbedFormed.of_stop ?_ ‹_›
      exact .probeFrom h

theorem Formed.probeBody {s : State} {a : AgnView} {t : Token} {l : List Token} (h : Formed κ s) : Formed κ (probeBody s a t l).1 := by
  unfold Machine.probeBody
  extract_lets _ data tag fin keys
  refine h.iteFst ?_
  refine h.countSuppressed.poisonTask.iteFst ?_
  split
  · exact h.probeKeys.of_pair ‹_›
  · exact h.probeKeys.of_pair ‹_›

theorem OutFormed.execProbe {w : OpWord} {s : State} (h : Formed κ s) : OutFormed κ (execProbe w s) :=
  .runAgn h (fun _ _ h1 => h1.fireTokens (fun _ _ _ _ h2 => h2.probeBody))

theorem Formed.stcPlace {s : State} {v : AgnView} {t : Token} (h : Formed κ s) : Formed κ (stcPlace s v t).1 := by
  unfold Machine.stcPlace
  split
  · exact h
  · exact h.decideAsk

theorem Formed.stcEnd {s : State} {v : AgnView} {t data : Token} {op : OpSt} {place : Option Place} {fit dropped tag : Bool} (h : Formed κ s) :
    Formed κ (stcEnd s v t data op place fit dropped tag).1 := by
  unfold Machine.stcEnd
  extract_lets fin _ s1
  have h1 : Formed κ s1 := h.loggedRecord
  clear_value s1
  refine h.iteFst ?_
  refine .iteFst ?_ h1
  split
  · extract_lets lost
    refine OptFstFormed.of_some ?_ ‹_›
    exact .bind (fun x => .writeLine h)
  · exact h

theorem Formed.stcToken {s : State} {v : AgnView} {t data : Token} (h : Formed κ s) : Formed κ (stcToken s v t data).1 := by
  unfold Machine.stcToken
  extract_lets limit first _ op tag size fits next
  split
  · exact (h.iteFst h.stcPlace).of_pair ‹_›
  · extract_lets s1 dropped wrote
    have h1 : Formed κ s1 := .ite (.suppressAt ((h.iteFst h.stcPlace).of_pair ‹_›)) ((h.iteFst h.stcPlace).of_pair ‹_›)
    have hwrote : OptFstFormed κ wrote := by
      unfold wrote
      split
      · exact .some h1
      · split
        · split
          · exact .some h1
          · exact .mapPair (.bind (fun x => .writeLine h1)) (fun x h2 => h2)
        · split
          · exact .mapPair (.bind (fun x => .writeSome h1)) (fun x h2 => h2)
          · exact .some h1
    clear_value s1 wrote
    split
    · exact h1
    · exact .iteFst (.stcEnd hwrote) hwrote

theorem Formed.fireStc {s : State} {v : AgnView} (h : Formed κ s) : Formed κ (fireStc s v) := by
  unfold Machine.fireStc
  extract_lets pa pd
  split
  · extract_lets bad
    have hbad : ∀ (sub : Nat), Formed κ (bad sub) := fun sub => h.applyAgn
    clear_value bad
    refine (h.cutPorts.ite h).ite ?_
    refine .ite ?_ ?_
    · refine (hbad _).ite ?_
      split
      · exact .applyAgn (h.stcToken.of_pair ‹_›)
    · split
      · exact (hbad _).ite h.applyAgn
      · refine .ite ?_ (hbad _)
        refine (hbad _).ite ?_
        split
        · exact .applyAgn (h.stcToken.of_pair ‹_›)
  · exact h

theorem OutFormed.execStc {w : OpWord} {s : State} (h : Formed κ s) : OutFormed κ (execStc w s) := .runAgn h (fun _ _ h1 => h1.fireStc)

theorem Formed.copySteps {v : AgnView} {step : State → Nat → State × Option (List (Place × List Byte)) × Bool} {s : State} {n n1 : Nat}
    {b : Bool} (hstep : ∀ (u : State) (x : Nat), Formed κ u → Formed κ (step u x).1) (h : Formed κ s) : Formed κ (copySteps v step s n n1 b).1 := by
  induction n generalizing v s n1 b with
  | zero =>
    rw [Machine.copySteps]
    exact h
  | succ n ih =>
    rw [Machine.copySteps]
    split
    · exact ih ((hstep _ _ h).of_pair ‹_›)
    · split
      · exact (hstep _ _ h).of_pair ‹_›
      · refine ih ?_
        refine OptFstFormed.of_some ?_ ‹_›
        exact .foldl (.some ((hstep _ _ h).of_pair ‹_›)) (fun o b1 hx => hx.bindPair (fun x h1 => .mapPair (.writeSome h1) (fun x1 h2 => h2)))

theorem Formed.cpyBody {s : State} {a : AgnView} {t : Token} {l : List Token} (h : Formed κ s) : Formed κ (cpyBody s a t l).1 := by
  unfold Machine.cpyBody
  extract_lets len tr sPort dPort el ps pd side srcSpan dstSpan _ fin where_ left
  refine .iteFst h.suppressAt ?_
  split
  · extract_lets okT
    refine .iteFst h ?_
    split
    · exact h.decideAll.of_pair ‹_›
    · extract_lets step r next
      have hstep : ∀ s j, Formed κ s → Formed κ (step s j).1 := by
        unfold step
        intro s j hs
        split
        exact .iteFst (.suppressAt (hs.readRows.of_pair ‹_›)) (.iteFst (hs.readRows.of_pair ‹_›) (hs.readRows.of_pair ‹_›))
      have hr : Formed κ r.1 := .copySteps (fun _ _ hs => hstep _ _ hs) (h.decideAll.of_pair ‹_›)
      clear_value step r
      exact .iteFst hr (.iteFst hr hr)
    · exact h.decideAll.of_pair ‹_›
  · exact h

theorem OutFormed.execCpy {w : OpWord} {s : State} (h : Formed κ s) : OutFormed κ (execCpy w s) :=
  .runAgn h (fun _ _ h1 => h1.fireTokens (fun _ _ _ _ h2 => h2.cpyBody))

theorem Formed.xlatElems {v : AgnView} {walks : Bool} {s : State} {op : OpSt} {l : List (Option Nat)} (h : Formed κ s) :
    Formed κ (xlatElems v walks s op l).1 := by
  induction l generalizing s op with
  | nil => exact h
  | cons a l ih =>
    cases a with
    | none =>
      rw [Machine.xlatElems]
      split
      · exact Formed.of_pair (ih h) ‹_›
      · exact Formed.of_pair (ih h) ‹_›
    | some va =>
      rw [Machine.xlatElems]
      refine .iteFst h ?_
      extract_lets go
      have hgo : ∀ s op x, Formed κ s → Formed κ (go s op x).1 := by
        intro s op x hs
        dsimp only [go]
        split
        · exact Formed.of_pair (ih hs) ‹_›
        · exact Formed.of_pair (ih hs) ‹_›
      clear_value go
      split
      · exact hgo _ _ _ (h.tileXlat.of_pair ‹_›)
      · exact h.tileXlat.of_pair ‹_›
      · exact .iteFst (hgo _ _ _ (h.tileXlat.of_pair ‹_›)) (.xlatStop (h.tileXlat.of_pair ‹_›))

theorem Formed.xlatBody {s : State} {a : AgnView} {t : Token} {l : List Token} (h : Formed κ s) : Formed κ (xlatBody s a t l).1 := by
  unfold Machine.xlatBody
  refine h.iteFst ?_
  split
  · exact h.xlatElems.of_pair ‹_›
  · exact h.xlatElems.of_pair ‹_›

theorem Formed.xlatCut {s : State} {v : AgnView} {t : Token} (h : Formed κ s) : Formed κ (xlatCut s v t) := by
  unfold Machine.xlatCut
  extract_lets p c s1
  have h1 : Formed κ s1 := h.modElem (fun e he => he.setQueue.setOp)
  clear_value s1
  exact h1.agnCut

theorem OutFormed.execXlat {w : OpWord} {s : State} (h : Formed κ s) : OutFormed κ (execXlat w s) := by
  unfold Machine.execXlat
  refine .runAgn h ?_
  intro a x h1
  split
  · exact h1.xlatCut.ite h1
  · exact h1.fireTokens (fun a1 a_11 y z h2 => h2.xlatBody)

theorem Formed.walkHeld {s : State} {v : AgnView} {t : Token} (h : Formed κ s) : Formed κ (walkHeld s v t) := by
  unfold Machine.walkHeld
  extract_lets _ v1
  split
  · exact .modElem (.migEnds (h.xlatElems.of_pair ‹_›)) (fun e he => he.setOp)
  · exact .modElem (.migEnds (h.xlatElems.of_pair ‹_›)) (fun e he => he.setOp)
  · exact .modElem (h.xlatElems.of_pair ‹_›) (fun e he => he.setOp)
  · exact .applyAgn (h.xlatElems.of_pair ‹_›)

theorem OutFormed.execWalkComplete {site : BitVec 13} {ctx agn : BitVec 2} {s : State} (h : Formed κ s) : OutFormed κ (execWalkComplete site ctx agn s) := by
  unfold Machine.execWalkComplete
  refine .ite ?_ .fault
  extract_lets e word v
  have he : ElemFormed κ e := h.elem
  clear_value e
  refine .next ?_
  split
  · refine h.ite ?_
    split
    · exact h.walkHeld
    · split
      · exact h.faultEnds.of_pair ‹_›
      · exact .walkHeld (h.faultEnds.of_pair ‹_›)
  · exact h

theorem OutFormed.execAccessResult {site : BitVec 13} {ctx agn : BitVec 2} {s : State} (h : Formed κ s) : OutFormed κ (execAccessResult site ctx agn s) := by
  unfold Machine.execAccessResult
  refine .ite ?_ .fault
  extract_lets ea e op code
  have he : ElemFormed κ e := h.elem
  clear_value e
  refine .next ?_
  split
  · refine h.ite ?_
    extract_lets s1 s2
    have h1 : Formed κ s1 := h.modElem (fun e1 he1 => he1.setOp)
    have h2 : Formed κ s2 := .ite (h1.modSite (fun r hr => hr)) h1
    clear_value s1 s2
    exact h2.outputSend
  · exact h

/-! ## Events of memory tiles (Machine/AxolotlEvents.lean) -/

theorem OutFormed.execParityLanding {site : BitVec 13} {g : BitVec 2} {s : State} (h : Formed κ s) : OutFormed κ (execParityLanding site g s) := by
  unfold Machine.execParityLanding
  refine .ite ?_ .fault
  refine .next ?_
  split
  · exact h
  · exact h.landOldest.ite h

theorem OutFormed.execCorrectedRowWriteback {site : BitVec 13} {bank : BitVec 5} {row : BitVec 11} {s : State} (h : Formed κ s) :
    OutFormed κ (execCorrectedRowWriteback site bank row s) := by
  unfold Machine.execCorrectedRowWriteback
  refine .ite ?_ .fault
  extract_lets a
  have ha : AxFormed κ a := .axOf h
  clear_value a
  refine .next ?_
  refine .ite ?_ h
  refine h.useBanks.modAx ?_
  intro a1 hx
  refine hx.withErrs ?_
  split
  · exact hx.errs.set
  · exact hx.errs

theorem Formed.scrubBank {site : SiteNo} {row : Nat} {s : State} {bank : Nat} (h : Formed κ s) : Formed κ (scrubBank site row s bank) := by
  unfold Machine.scrubBank
  extract_lets a gone
  have ha : AxFormed κ a := .axOf h
  clear_value a
  refine h.ite ?_
  split
  · exact h.correctable
  · refine h.countUe.retireBank.ite ?_
    split
    · extract_lets s1
      have h1 : Formed κ s1 := .retireBank (h.countUe.reconstruct.of_pair ‹_›)
      clear_value s1
      exact h1.ite h1.storeRow
  · exact h

theorem AxFormed.scrubNext {a : Axolotl} {now : Nat} (ha : AxFormed κ a) : AxFormed κ (scrubNext a now) := ha

theorem Formed.scrubRowSet {s : State} {site : SiteNo} (h : Formed κ s) : Formed κ (scrubRowSet s site) := by
  unfold Machine.scrubRowSet
  extract_lets g row clean s1 a x s2
  have h1 : Formed κ s1 := .useBanks (h.foldl (fun s3 b h1 => h1.scrubBank))
  have ha : AxFormed κ a := .axOf h1
  have h2 : Formed κ s2 := .ite (h1.modAx (fun a1 hx => hx.withParity hx.parity.set)) h1
  clear_value s1 a s2
  exact h2.modAx (fun a1 hx => hx.scrubNext)

theorem OutFormed.execScrubCheck {site : BitVec 13} {s : State} (h : Formed κ s) : OutFormed κ (execScrubCheck site s) := by
  unfold Machine.execScrubCheck
  refine .ite ?_ .fault
  extract_lets a
  have ha : AxFormed κ a := .axOf h
  clear_value a
  exact .next (h.scrubRowSet.ite h)

theorem OutFormed.execForcedScrub {site : BitVec 13} {s : State} (h : Formed κ s) : OutFormed κ (execForcedScrub site s) := by
  unfold Machine.execForcedScrub
  refine .ite ?_ .fault
  extract_lets a
  have ha : AxFormed κ a := .axOf h
  clear_value a
  exact .next (h.scrubRowSet.ite h)

theorem OutFormed.execHourWindow {s : State} (h : Formed κ s) : OutFormed κ (execHourWindow s) := by
  unfold Machine.execHourWindow
  extract_lets hour src
  have hsrc : Formed κ src := h.modPlat
  clear_value src
  refine .next ?_
  refine h.ite ?_
  refine hsrc.withSites ?_
  refine h.sites.rebuild .nil ?_
  intro p hr
  extract_lets src1 src2
  have hsrc1 : SiteFormed κ src1 := hr
  have hsrc2 : AxFormed κ src2 := hr.ax
  clear_value src1 src2
  exact hsrc1.withAx hsrc2

end Sys2Proof.Proofs

namespace Sys2Proof.Proofs
open Sys2Proof.Machine

/-! # The form of the machine: tasks -/

variable {κ : Form}

/-! ## Launches (Machine/Launch.lean) -/

theorem Formed.sendMsi {s : State} {vec : BitVec 11} (h : Formed κ s) : Formed κ (sendMsi s vec) := h.modPlat

theorem Formed.queueMsi {s : State} {q : BitVec 12} (h : Formed κ s) : Formed κ (queueMsi s q) := by
  unfold Machine.queueMsi
  extract_lets
  exact h.modQueue.sendMsi.ite h

theorem OptFormed.writeCompletion {s : State} {q : BitVec 12} {x : BitVec 256} (h : Formed κ s) : OptFormed κ (writeCompletion s q x) := by
  rw [Machine.writeCompletion]
  split
  · extract_lets s1 s2
    have h1 : Formed κ s1 := .modQueue (h.writeVirt.of_pair ‹_›)
    have h2 : Formed κ s2 := h1.postEvent.ite h1
    clear_value s1 s2
    exact .some (h2.ite h2.queueMsi)
  · exact .none

theorem Formed.drainCompletions {s : State} {q : BitVec 12} {n : Nat} (h : Formed κ s) : Formed κ (drainCompletions s q n) := by
  induction n generalizing s q with
  | zero =>
    rw [Machine.drainCompletions]
    exact h
  | succ n ih =>
    rw [Machine.drainCompletions]
    split
    · exact h
    · refine h.ite ?_
      split
      · refine ih ?_
        refine OptFormed.of_some ?_ ‹_›
        exact .writeCompletion h.modQueue
      · exact h

theorem Formed.complete {s : State} {q : BitVec 12} {c : Completion} (h : Formed κ s) : Formed κ (complete s q c) := by
  unfold Machine.complete
  extract_lets s1
  have h1 : Formed κ s1 := h.modQueue
  clear_value s1
  exact h1.drainCompletions

theorem OutFormed.execQueueEnable {q : BitVec 12} {s : State} (h : Formed κ s) : OutFormed κ (execQueueEnable q s) := .next (h.ite h.modQueue)

theorem OutFormed.execQueueDisable {q : BitVec 12} {s : State} (h : Formed κ s) : OutFormed κ (execQueueDisable q s) := .next h.modQueue

theorem Formed.haltQueue {s : State} {q : BitVec 12} {code : BitVec 4} (h : Formed κ s) : Formed κ (haltQueue s q code) := h.modQueue

theorem Formed.ringDoorbell {s : State} {q : BitVec 12} {tail : Word} (h : Formed κ s) : Formed κ (ringDoorbell s q tail) := by
  unfold Machine.ringDoorbell
  extract_lets
  exact h.haltQueue.ite h.modQueue

theorem OutFormed.execDoorbell {q : BitVec 12} {tail : BitVec 32} {s : State} (h : Formed κ s) : OutFormed κ (execDoorbell q tail s) := .next h.ringDoorbell

theorem OutFormed.execCheadWrite {q : BitVec 12} {v : BitVec 32} {s : State} (h : Formed κ s) : OutFormed κ (execCheadWrite q v s) := by
  unfold Machine.execCheadWrite
  extract_lets s1 s2
  have h1 : Formed κ s1 := h.modQueue
  have h2 : Formed κ s2 := h1.ite h1.queueMsi
  clear_value s1 s2
  exact .next h2.drainCompletions

theorem Formed.readRecord {s : State} {part va : Nat} (h : Formed κ s) : Formed κ (readRecord s part va).1 := by
  rw [Machine.readRecord]
  split
  · have hl := h.readVirt.of_pair ‹_›
    extract_lets nd np
    split
    · have hd := Formed.of_pair (.iteFst hl.readVirt hl) ‹_›
      split
      · exact Formed.of_pair (.iteFst hd.readVirt hd) ‹_›
      · exact Formed.of_pair (.iteFst hd.readVirt hd) ‹_›
      · exact Formed.of_pair (.iteFst hd.readVirt hd) ‹_›
      · exact Formed.of_pair (.iteFst hd.readVirt hd) ‹_›
    · exact Formed.of_pair (.iteFst hl.readVirt hl) ‹_›
    · exact Formed.of_pair (.iteFst hl.readVirt hl) ‹_›
    · exact Formed.of_pair (.iteFst hl.readVirt hl) ‹_›
  · exact h.readVirt.of_pair ‹_›
  · exact h.readVirt.of_pair ‹_›
  · exact h.readVirt.of_pair ‹_›

theorem TaskFormed.newTask {s : State} {l : Launch} {n : Nat} : TaskFormed κ (newTask s l n) := ⟨.nil, .nil⟩

theorem Formed.enterLaunch {s : State} {l : Launch} (h : Formed κ s) : Formed κ (enterLaunch s l) := h.withTasks (h.tasks.append (.ofMap (fun _ => .newTask)))

theorem Formed.acceptLaunch {s : State} {r : TaskRec} {q : BitVec 12} {pos part : Nat} (h : Formed κ s) : Formed κ (acceptLaunch s r q pos part) := by
  unfold Machine.acceptLaunch
  extract_lets ord s1 l s'
  have h1 : Formed κ s1 := h
  have h' : Formed κ s' := h1.enterLaunch
  clear_value s1 s'
  split
  · exact h1.complete
  · exact h'.enterLaunch.ite h'

theorem Formed.tdFault {s : State} {part va : Nat} (h : Formed κ s) : Formed κ (tdFault s part va).1 := h.raiseFault

theorem Formed.acceptNext {s : State} {q : BitVec 12} (h : Formed κ s) : Formed κ (acceptNext s q) := by
  obtain ⟨read, hread, hr⟩ : ∃ g, Machine.readRecord = g ∧ ∀ s p a, Formed κ s → Formed κ (g s p a).1 := ⟨_, rfl, fun _ _ _ h => h.readRecord⟩
  rw [Machine.acceptNext, hread]
  split
  · exact Formed.of_pair (hr _ _ _ h) ‹_›
  · split
    exact .modQueue (Formed.of_pair (.tdFault (Formed.of_pair (hr _ _ _ h) ‹_›)) ‹_›)
  · exact .haltQueue (Formed.of_pair (hr _ _ _ h) ‹_›)
  · have hs := Formed.of_pair (hr _ _ _ h) ‹_›
    exact .ite hs.acceptLaunch.modQueue.haltQueue hs.acceptLaunch.modQueue

theorem OutFormed.execRecordAccept {q : BitVec 12} {s : State} (h : Formed κ s) : OutFormed κ (execRecordAccept q s) := by
  unfold Machine.execRecordAccept
  extract_lets w
  refine .next ?_
  refine h.ite ?_
  split
  · exact h.acceptNext
  · split
    · exact h
    · exact h.dropFault.modQueue.acceptNext
    · exact h.dropFault.haltQueue

theorem Formed.spawnUnreadable {s : State} {q : BitVec 12} {trec tstamp : DWord} {fseq : Nat} (h : Formed κ s) :
    Formed κ (spawnUnreadable s q trec tstamp fseq) := by
  unfold Machine.spawnUnreadable
  extract_lets
  exact .complete h

theorem SpawnFormed.acceptSpawn {s : State} {part : Nat} {q : BitVec 12} {trec tstamp param : DWord} (h : Formed κ s) :
    SpawnFormed κ (acceptSpawn s part q trec tstamp param) := by
  unfold Machine.acceptSpawn
  split
  · exact .wait h
  · split
    · exact .wait (h.readRecord.of_pair ‹_›)
    · split
      · refine .hold ?_
        refine .of_pair ?_ ‹_›
        exact .tdFault (h.readRecord.of_pair ‹_›)
    · exact .done (.spawnUnreadable (h.readRecord.of_pair ‹_›))
    · exact .done (.acceptLaunch (h.readRecord.of_pair ‹_›))

theorem OptFstFormed.spawnAnswer {s : State} {part fseq : Nat} (h : Formed κ s) : OptFstFormed κ (spawnAnswer s part fseq) := by
  unfold Machine.spawnAnswer
  split
  · exact .none
  · exact .some h.dropFault
  · exact .some h.dropFault

theorem Formed.spawnData {s : State} {v : View} {o : Operands} (h : Formed κ s) : Formed κ (spawnData s v o).1 := by
  unfold Machine.spawnData
  extract_lets _ t q part mt _ pass
  refine h.countSuppressed.iteFst ?_
  split
  · exact h
  · extract_lets now
    have hnow : ∀ (s : State), Formed κ s → Formed κ (now s).1 := by
      unfold now
      intro s1 h1
      split
      · refine SpawnFormed.of_done ?_ ‹_›
        exact .acceptSpawn h1
      · refine SpawnFormed.of_wait ?_ ‹_›
        exact .acceptSpawn h1
      · refine SpawnFormed.of_hold ?_ ‹_›
        exact .acceptSpawn h1
    clear_value now
    split
    · exact h.iteFst (h.modTask (fun t1 ht => ht))
    · exact hnow _ h
    · split
      · exact h
      · refine hnow _ ?_
        refine OptFstFormed.of_some ?_ ‹_›
        exact .spawnAnswer h
      · refine .spawnUnreadable ?_
        refine OptFstFormed.of_some ?_ ‹_›
        exact .spawnAnswer h

theorem OutFormed.execSpawn {w : OpWord} {s : State} (h : Formed κ s) : OutFormed κ (execSpawn w s) :=
  .runStage h (.of (fun _ _ _ h1 => h1.spawnData) (fun _ _ _ h1 => h1.forward) (fun _ _ _ h1 => h1.forward))

/-! ## The task dispatcher (Machine/Td.lean) -/

theorem OutFormed.onTask {s : State} {f : State → Task → State} (h : Formed κ s) (hf : ∀ s t, TaskFormed κ t → Formed κ s → Formed κ (f s t)) :
    OutFormed κ (onTask s f) := by
  unfold Machine.onTask
  split
  · refine .next ?_
    split
    · exact hf _ _ (h.task ‹_›) h
    · exact h
  · exact .refused

theorem Formed.taskCompletion {s : State} {t : Task} {cls reason unit detail addr : Nat} (h : Formed κ s) :
    Formed κ (taskCompletion s t cls reason unit detail addr) := by
  unfold Machine.taskCompletion
  split
  · exact h
  · exact h.ite h.complete

theorem Formed.retireTask {s : State} {uid : Nat} (h : Formed κ s) : Formed κ (retireTask s uid) := by
  unfold Machine.retireTask
  extract_lets ord s1 s2
  have h1 : Formed κ s1 := h.modTask (fun t ht => .withImage (ht.withSaved .nil) .nil)
  have h2 : Formed κ s2 := h1.modLaunch
  clear_value s1 s2
  split
  · exact .ite (h2.withTasks h2.tasks.filter) h2
  · exact h2

theorem Formed.endWith {s : State} {uid : Nat} {e : EndWith} (h : Formed κ s) : Formed κ (endWith s uid e) := by
  unfold Machine.endWith
  split
  · exact h
  · refine h.foldl ?_
    intro s1 b h1
    extract_lets s2 s3
    have h2 : Formed κ s2 := h1.unparkFor.clearTask.inheritFrom
    have h3 : Formed κ s3 := h2.taskCompletion
    clear_value s2 s3
    exact .retireTask (h3.modTask (fun t ht => ht))

theorem Formed.rejectLaunch {s : State} {t : Task} {cls reason unit detail addr : Nat} (h : Formed κ s) :
    Formed κ (rejectLaunch s t cls reason unit detail addr) := by
  unfold Machine.rejectLaunch
  extract_lets ord s1 mine
  have h1 : Formed κ s1 := h.taskCompletion
  have hmine : TasksFormed κ mine := h1.tasks.filter
  clear_value s1 mine
  exact h1.foldl (fun s2 b h2 => h2.retireTask)

theorem OutFormed.execDependenceMet {s : State} (h : Formed κ s) : OutFormed κ (execDependenceMet s) := by
  unfold Machine.execDependenceMet
  refine .onTask h ?_
  intro s1 t ht h1
  split
  · exact h1
  · refine h1.ite ?_
    extract_lets r s2
    have h2 : Formed κ s2 := .ite (h1.modTask (fun t1 ht1 => ht1)) h1
    clear_value s2
    exact .ite (h2.modTask (fun t1 ht1 => ht1)) h2

theorem Formed.tdBytes {s : State} {part va n : Nat} (h : Formed κ s) : Formed κ (tdBytes s part va n).1 := by
  unfold Machine.tdBytes
  split
  · exact h.readVirt.of_pair ‹_›
  · exact h.readVirt.of_pair ‹_›
  · exact h.readVirt.of_pair ‹_›
  · exact h.readVirt.of_pair ‹_›

/-- A failure that is the answer holds a formed machine. -/
def FailFormed {α : Type} (κ : Form) (x : Except TryOut α) : Prop := ∀ o, x = .error o → TryFormed κ o

theorem FailFormed.ok {α : Type} {x : α} : FailFormed κ (Except.ok x : Except TryOut α) := fun _ h => nomatch h

theorem FailFormed.error {α : Type} {o : TryOut} (h : TryFormed κ o) : FailFormed κ (Except.error o : Except TryOut α) :=
  fun _ ho => Except.error.inj ho ▸ h

theorem FailFormed.of_pair {α : Type} {x : State × Except TryOut α} {u : State} {o : TryOut} (h : FailFormed κ x.2) (hx : x = (u, .error o)) :
    TryFormed κ o :=
  h o (congrArg Prod.snd hx)

theorem FailFormed.tdBytes {s : State} {part va n : Nat} : FailFormed κ (tdBytes s part va n).2 := by
  unfold Machine.tdBytes
  split
  · exact .ok
  · exact .error .later
  · exact .error .reject
  · exact .error .reject

theorem Formed.readGraph {s : State} {l : Launch} (h : Formed κ s) : Formed κ (readGraph s l).1 := by
  rw [Machine.readGraph]
  split
  · exact h.tdBytes.of_pair ‹_›
  · exact .tdBytes (h.tdBytes.of_pair ‹_›)

theorem FailFormed.readGraph {s : State} {l : Launch} : FailFormed κ (readGraph s l).2 := by
  rw [Machine.readGraph]
  split
  · exact .error (FailFormed.tdBytes.of_pair ‹_›)
  · exact .tdBytes

theorem Formed.readParams {s : State} {l : Launch} {g : Graph} (h : Formed κ s) : Formed κ (readParams s l g).1 := by
  unfold Machine.readParams
  split
  · exact h
  · extract_lets n
    exact h.iteFst h.tdBytes

theorem FailFormed.readParams {s : State} {l : Launch} {g : Graph} : FailFormed κ (readParams s l g).2 := by
  unfold Machine.readParams
  split
  · exact .ok
  · extract_lets n
    split
    · exact .ok
    · exact .tdBytes

theorem Formed.bindExps {s : State} {l : List (Nat × Nat)} (h : Formed κ s) : Formed κ (bindExps s l) := h.foldl (fun _ _ h1 => h1.setBarrier)

theorem TryFormed.loadTask {s : State} {l : Launch} {t : Task} {f : Frame} {g : Graph} {placed : Config.Placed} {block : List Byte}
    {cmds : List ImageCmd} {irrev : Bool} {slot pred : Option Nat} (h : Formed κ s) (ht : TaskFormed κ t) : TryFormed κ
    (loadTask s l t f g placed block cmds irrev slot pred) := by
  unfold Machine.loadTask
  extract_lets get pool
  split
  · exact .reject
  · split
    · exact .reject
    · extract_lets keys
      split
      · exact .later
      · extract_lets s1
        have h1 : Formed κ s1 := by
          unfold s1
          refine .dropShadows ?_
          refine LoadFormed.of_failed ?_ ‹_›
          exact .sendImage h.dropShadows
        clear_value s1
        split
        · exact .failed h1
        · exact .failed h1
      · extract_lets s1 t' s2 s3
        have h1 : Formed κ s1 := by
          unfold s1
          refine .bindExps ?_
          refine LoadFormed.of_done ?_ ‹_›
          exact .sendImage h.dropShadows
        have ht' : TaskFormed κ t' := ht.withImage (.shadowsOf h1)
        have h2 : Formed κ s2 := h1.modTask (fun t1 ht1 => ht')
        have h3 : Formed κ s3 := h2.modLaunch
        clear_value s1 t' s2 s3
        exact .fits h3.swapIn

theorem TryFormed.tryFrame {s : State} {l : Launch} {t : Task} {g : Graph} {block : List Byte} {f : Frame} {placed : Config.Placed}
    {pred : Option Nat} (h : Formed κ s) (ht : TaskFormed κ t) : TryFormed κ (tryFrame s l t g block f placed pred) := by
  unfold Machine.tryFrame
  split
  · exact .reject
  · split
    · exact .reject
    · split
      · exact .reject
      · extract_lets cmds planned tiles irrev slot
        split
        · exact .reject
        · split
          · exact .later
          · split
            · exact .busy
            · split
              · exact .busy
              · split
                · split
                  · exact .later
                  · exact .busy
                · exact .loadTask h ht

theorem TryFormed.tryRotations {s : State} {l : Launch} {t : Task} {g : Graph} {block : List Byte} {row col : Nat} {placed : Config.Placed}
    {l1 : List Nat} (h : Formed κ s) (ht : TaskFormed κ t) : TryFormed κ (tryRotations s l t g block row col placed l1) := by
  induction l1 generalizing s l t g block row col placed with
  | nil =>
    rw [Machine.tryRotations]
    exact .busy
  | cons b l1 ih =>
    rw [Machine.tryRotations]
    split
    · exact ih h ht
    · exact .tryFrame h ht

theorem Formed.mapAt {s : State} {l : Launch} {g : Graph} {row col : Nat} (h : Formed κ s) : Formed κ (mapAt s l g row col).1 := by
  unfold Machine.mapAt
  extract_lets mask keyOf s1
  split
  · have h1 : Formed κ s1 := by
      unfold s1
      split
      · exact h
      · exact h
    exact h1
  · exact h.iteFst h

/-- What a map gives beside a placement holds no machine. -/
theorem MappedFormed.mapAt {s : State} {l : Launch} {g : Graph} {row col : Nat} : MappedFormed κ (mapAt s l g row col).2 := by
  unfold Machine.mapAt
  extract_lets mask keyOf s1
  split
  · dsimp only
    split
    · exact .bad .reject
    · exact .bad .reject
    · exact .bad .reject
    · exact .ok
  · split
    · exact .retired
    · dsimp only
      split
      · exact .bad .reject
      · exact .bad .reject
      · exact .bad .reject

theorem TryFormed.out {x : Tried} : TryFormed κ x.out := by
  unfold Machine.Tried.out
  split
  · exact .busy
  · split
    · exact .reject
    · exact .reject
    · exact .busy

theorem TryFormed.of_mapAt {s u : State} {l : Launch} {g : Graph} {row col : Nat} {o : TryOut} (h : mapAt s l g row col = (u, .bad o)) : TryFormed κ o :=
  MappedFormed.of_bad .mapAt (congrArg Prod.snd h)

theorem TryFormed.tryOrigins {s : State} {l : Launch} {t : Task} {g : Graph} {block : List Byte} {x : Tried} {w : List (Nat × Nat)} (h : Formed κ s)
    (ht : TaskFormed κ t) :
    TryFormed κ (tryOrigins s l t g block x w) := by
  induction w generalizing s x with
  | nil => exact .out
  | cons p w ih =>
    unfold Machine.tryOrigins
    split
    · exact ih (h.mapAt.of_pair ‹_›)
    · exact .of_mapAt ‹_›
    · split
      · exact ih (h.mapAt.of_pair ‹_›)
      · exact ih (h.mapAt.of_pair ‹_›)
      · exact .tryRotations (h.mapAt.of_pair ‹_›) ht

theorem TryFormed.tryTask {s : State} {l : Launch} {t : Task} (h : Formed κ s) (ht : TaskFormed κ t) : TryFormed κ (tryTask s l t) := by
  rw [Machine.tryTask]
  have hg : Formed κ (readGraph s l).1 := h.readGraph
  have hgf : FailFormed κ (readGraph s l).2 := .readGraph
  generalize readGraph s l = x at hg hgf
  split
  · exact hgf _ rfl
  next s1 bytes =>
    extract_lets g
    split
    · exact .reject
    · split
      · exact .reject
      · have hp : Formed κ (readParams s1 l g).1 := .readParams hg
        have hpf : FailFormed κ (readParams s1 l g).2 := .readParams
        generalize readParams s1 l g = y at hp hpf
        split
        · exact hpf _ rfl
        · split
          · split
            · exact .later
            · split
              · exact .tryFrame (Formed.of_pair (.mapAt hp) ‹_›) ht
              · exact .reject
              · exact .of_mapAt ‹_›
          · exact .tryOrigins hp ht

theorem TryFormed.tryJoined {l : Launch} {s : State} {ts : List Task} (h : Formed κ s) (hl : TasksFormed κ ts) : TryFormed κ (tryJoined l s ts) := by
  induction ts generalizing l s with
  | nil => exact .fits h
  | cons t ts ih =>
    have ht : TryFormed κ (Machine.tryTask s l t) := .tryTask h (hl t List.mem_cons_self)
    rw [Machine.tryJoined]
    generalize Machine.tryTask s l t = o at ht
    cases o with
    | fits s1 => exact ih (ht.of_fits rfl) fun u hu => hl u (List.mem_cons_of_mem _ hu)
    | later => exact ht
    | busy => exact ht
    | failed => exact ht
    | reject => exact ht

theorem TryFormed.tryCandidate {s : State} {t : Task} (h : Formed κ s) (ht : TaskFormed κ t) : TryFormed κ (tryCandidate s t) := by
  unfold Machine.tryCandidate
  split
  · exact .later
  · split
    · extract_lets mine
      have hmine : TasksFormed κ mine := h.tasks.filter
      clear_value mine
      split
      · exact .later
      · split
        · split
          · exact .reject
          · exact .busy
        · exact .tryJoined h.modLaunch hmine
    · exact .tryTask h ht

theorem TasksFormed.rankInsert {s : State} {t : Task} {l : List Task} (ht : TaskFormed κ t) (hl : TasksFormed κ l) : TasksFormed κ (rankInsert s t l) := by
  induction l with
  | nil => exact .single ht
  | cons u l ih =>
    obtain ⟨hu, hr⟩ := List.forall_mem_cons.1 hl
    unfold Machine.rankInsert
    split
    · exact List.forall_mem_cons.2 ⟨ht, hl⟩
    · exact List.forall_mem_cons.2 ⟨hu, ih hr⟩

theorem TasksFormed.foldlRankInsert {s : State} {l l' : List Task} (hl : TasksFormed κ l) (hl' : TasksFormed κ l') :
    TasksFormed κ (l.foldl (fun l t => Machine.rankInsert s t l) l') := by
  induction l generalizing l' with
  | nil => exact hl'
  | cons t l ih =>
    obtain ⟨ht, hr⟩ := List.forall_mem_cons.1 hl
    exact ih hr (.rankInsert ht hl')

theorem TasksFormed.admissionPool {s : State} {p : Nat} (h : Formed κ s) : TasksFormed κ (admissionPool s p) :=
  .filter (.foldlRankInsert h.tasks.filter .nil)

theorem Formed.takeReplaySlot {s : State} {t : Task} (h : Formed κ s) : Formed κ (takeReplaySlot s t) := by
  unfold Machine.takeReplaySlot
  split
  · exact h
  · exact h.ite h.modLaunch

theorem Formed.noteAdmission {s : State} {die : Nat} (h : Formed κ s) : Formed κ (noteAdmission s die) := h

theorem Formed.admitFirst {die : Nat} {s : State} {l : List Task} {passed : List Nat} (h : Formed κ s) (hl : TasksFormed κ l) :
    Formed κ (admitFirst die s l passed) := by
  induction l generalizing passed with
  | nil => exact h
  | cons t l ih =>
    obtain ⟨ht, hr⟩ := List.forall_mem_cons.1 hl
    have ho : TryFormed κ (Machine.tryCandidate s t) := .tryCandidate h ht
    rw [Machine.admitFirst]
    generalize Machine.tryCandidate s t = o at ho
    cases o with
    | later => exact ih hr
    | busy => exact ih hr
    | fits u => exact .noteAdmission (.takeReplaySlot (.foldl ho fun _ _ hs => hs.modTask fun _ h => h))
    | reject => exact h.rejectLaunch
    | failed => exact Formed.endWith ho

theorem OutFormed.execAdmission {part : BitVec 8} {s : State} (h : Formed κ s) : OutFormed κ (execAdmission part s) :=
  .next (.ite (h.admitFirst (.admissionPool h)) h)

theorem OutFormed.execSourceRelease {s : State} (h : Formed κ s) : OutFormed κ (execSourceRelease s) := by
  unfold Machine.execSourceRelease
  refine .onTask h ?_
  intro s1 t ht h1
  refine h1.ite ?_
  refine .ite (h1.modTask (fun t1 ht1 => ht1)) ?_
  refine .ite ?_ h1
  extract_lets s2
  have h2 : Formed κ s2 := h1.foldl (fun s3 b h2 => h2.modElem (fun e he => he))
  clear_value s2
  exact h2.setPtrs.modTask (fun t1 ht1 => ht1)

theorem OutFormed.execTaskFinish {s : State} (h : Formed κ s) : OutFormed κ (execTaskFinish s) :=
  .onTask h (fun _ _ _ h1 => h1.ite ((h1.taskFault.ite h1.abortTask).ite (h1.ite (h1.modTask (fun _ ht1 => ht1)))))

theorem ElemFormed.startRepair {l : List Repair} {ea : EAddr} {e : ElemCtx} (he : ElemFormed κ e) : ElemFormed κ (startRepair l ea e) :=
  .foldl he (fun _ _ he1 => he1.setOp)

theorem Formed.retakeRegion {s : State} {t : Task} {succ : List Task} (h : Formed κ s) (ht : TaskFormed κ t) (ha : TasksFormed κ succ) :
    Formed κ (retakeRegion s t succ) := by
  unfold Machine.retakeRegion
  extract_lets more s1 s2 s3 s4
  have hmore : TasksFormed κ more := h.filterMapTask.filter
  have h1 : Formed κ s1 := h.abortInPlace hmore
  have h2 : Formed κ s2 := h1.foldlTasks ha (fun s5 t1 ht1 h2 => h2.spliceBehind ht1)
  have h3 : Formed κ s3 := h2.reloadImage ht
  have h4 : Formed κ s4 := h3.foldlTasks ha (fun s5 t1 ht1 h4 => h4.restartAlone ht1)
  clear_value more s1 s2 s3 s4
  exact h4.foldl (fun s5 b h5 => h5.modElem (fun e he => he))

theorem OutFormed.execRepairPass {s : State} (h : Formed κ s) : OutFormed κ (execRepairPass s) := by
  unfold Machine.execRepairPass
  refine .onTask h ?_
  intro s1 t ht h1
  refine h1.ite ?_
  extract_lets succ lost s2 s3
  have hsucc : TasksFormed κ succ := .filter (.successorsOf h1)
  have h2 : Formed κ s2 := (h1.retakeRegion ht hsucc).ite h1
  have h3 : Formed κ s3 := h2.foldl (fun s4 b h3 => h3.modElem (fun e he => he.startRepair))
  clear_value succ s2 s3
  exact h1.abortTask.ite (h3.modTask (fun t1 ht1 => ht1))

theorem Formed.commitEntry {s : State} {t : Task} (h : Formed κ s) : Formed κ (commitEntry s t) := by
  unfold Machine.commitEntry
  extract_lets
  exact h.taskCompletion

theorem Formed.applyTask {s : State} {uid : Nat} (h : Formed κ s) : Formed κ (applyTask s uid) := by
  unfold Machine.applyTask
  split
  · exact h
  · extract_lets s1
    have h1 : Formed κ s1 := h.foldl (fun s2 b h1 => h1.applyEntry)
    clear_value s1
    exact h1.modTask (fun t ht => ht)

theorem Formed.releaseSpawns {uid : Nat} {s : State} {n : Nat} (h : Formed κ s) : Formed κ (releaseSpawns uid s n).1 := by
  induction n generalizing uid s with
  | zero =>
    rw [Machine.releaseSpawns]
    exact h
  | succ n ih =>
    rw [Machine.releaseSpawns]
    split
    · exact h
    · split
      · extract_lets part go now
        have hgo : ∀ (s : State), Formed κ s → Formed κ (go s) := fun s1 h1 => h1.modTask (fun t ht => ht)
        have hnow : ∀ (s : State), Formed κ s → Formed κ (now s).1 := by
          unfold now
          intro s1 h1
          split
          · refine ih ?_
            refine hgo _ ?_
            refine SpawnFormed.of_done ?_ ‹_›
            exact .acceptSpawn h1
          · refine SpawnFormed.of_wait ?_ ‹_›
            exact .acceptSpawn h1
          · refine .modTask ?_ (fun t ht => ht)
            refine SpawnFormed.of_hold ?_ ‹_›
            exact .acceptSpawn h1
        clear_value go now
        split
        · exact hnow _ h
        · split
          · exact h
          · refine hnow _ ?_
            refine OptFstFormed.of_some ?_ ‹_›
            exact .spawnAnswer h
          · refine ih ?_
            refine hgo _ ?_
            refine .spawnUnreadable ?_
            refine OptFstFormed.of_some ?_ ‹_›
            exact .spawnAnswer h
      · exact h

theorem Formed.finishCommit {s : State} {uid : Nat} (h : Formed κ s) : Formed κ (finishCommit s uid) := by
  unfold Machine.finishCommit
  split
  · exact h
  · split
    · refine .ite ?_ (h.releaseSpawns.of_pair ‹_›)
      split
      · exact .retireTask (.commitEntry (h.releaseSpawns.of_pair ‹_›))
      · exact h.releaseSpawns.of_pair ‹_›

theorem Formed.abortConflicts {s : State} {unit : List Task} {wsig : BitVec 4096} (h : Formed κ s) : Formed κ (abortConflicts s unit wsig) := h.abortWhere

theorem Formed.breakPair {s : State} {a b addr : Nat} (h : Formed κ s) : Formed κ (breakPair s a b addr) := by
  unfold Machine.breakPair
  extract_lets q port e s1 s2
  have h1 : Formed κ s1 := h.takeFree.endWith.endWith
  have h2 : Formed κ s2 := by
    unfold s2
    clear_value q
    split
    · exact h1.modQueue
    · exact h1
  clear_value s1 s2
  exact h2.modPlat

theorem Formed.pairWaits {s : State} {t : Task} (h : Formed κ s) : Formed κ (pairWaits s t) := h.ite h.modPlat

theorem Formed.pairThrough {prim sec : Nat} {s : State} {n : Nat} (h : Formed κ s) : Formed κ (pairThrough prim sec s n) := by
  induction n generalizing prim sec s with
  | zero =>
    rw [Machine.pairThrough]
    exact h
  | succ n ih =>
    rw [Machine.pairThrough]
    split
    · split
      · split
        · exact h.breakPair
        · extract_lets s1 s2
          have h1 : Formed κ s1 := h.modPlat
          have h2 : Formed κ s2 := h1.applyEntry.modTask (fun t ht => ht)
          clear_value s1 s2
          split
          · refine .ite ?_ ?_
            · refine ih ?_
              refine .modTask ?_ (fun t ht => ht)
              refine .of_pair ?_ ‹_›
              split
              · exact h1.releaseSpawns
              · exact h2.abortReaders
            · refine .of_pair ?_ ‹_›
              split
              · exact h1.releaseSpawns
              · exact h2.abortReaders
      · exact h
      · exact h.pairWaits
      · exact h.pairWaits
    · exact h

theorem Formed.readBuffers {s : State} {unit : List Task} (h : Formed κ s) : Formed κ (readBuffers s unit).1 := by
  unfold Machine.readBuffers
  extract_lets tiles
  refine h.foldlFst ?_
  intro x b h1
  extract_lets site
  split
  · exact .iteFst (h1.readRegion.of_pair ‹_›) (.foldl (h1.readRegion.of_pair ‹_›) (fun s1 b1 h2 => h2.endWith))

theorem Formed.commitUnit {s : State} {t : Task} (h : Formed κ s) : Formed κ (commitUnit s t) := by
  unfold Machine.commitUnit
  extract_lets unit wsig key s1 s2 s3 s4
  have h1 : Formed κ s1 := h.foldl (fun s5 b h1 => h1.applyTask)
  have h2 : Formed κ s2 := h1.abortConflicts
  have h3 : Formed κ s3 := h2
  have h4 : Formed κ s4 := h3.foldl (fun s5 b h4 => h4.clearTask.inheritFrom.modTask (fun t1 ht => ht))
  clear_value s1 s2 s3 s4
  exact h4.foldl (fun s5 b h5 => h5.finishCommit)

theorem OutFormed.execCommit {s : State} (h : Formed κ s) : OutFormed κ (execCommit s) := by
  unfold Machine.execCommit
  refine .onTask h ?_
  intro s1 t ht h1
  refine h1.finishCommit.ite ?_
  refine .ite ?_ ?_
  · split
    · exact h1.pairThrough
    · exact h1.releaseSpawns
  · refine h1.ite ?_
    split
    · split
      · exact h1.readBuffers.of_pair ‹_›
      · exact .commitUnit (h1.readBuffers.of_pair ‹_›)
    · refine h1.pairWaits.ite ?_
      split
      · exact h1.breakPair
      · split
        · extract_lets others
          split
          · exact h1.modPlat.readBuffers.of_pair ‹_›
          · exact .foldl (.commitUnit (h1.modPlat.readBuffers.of_pair ‹_›)) (fun s2 b h2 => .retireTask (.clearTask (h2.modTask (fun t1 ht1 => ht1))))

theorem OutFormed.execLockstepTimeout {s : State} (h : Formed κ s) : OutFormed κ (execLockstepTimeout s) := by
  unfold Machine.execLockstepTimeout
  extract_lets late s1
  have h1 : Formed κ s1 := h.modPlat.ite h
  clear_value s1
  refine .next ?_
  split
  · refine h1.ite ?_
    split
    · exact h1.breakPair
    · exact h1.modPlat
  · exact h1

theorem Formed.throughUnit {s : State} {t : Task} (h : Formed κ s) : Formed κ (throughUnit s t) := by
  unfold Machine.throughUnit
  extract_lets unit wsig s1 s2 s3 s4
  have h1 : Formed κ s1 := h.foldl (fun s5 b h1 => h1.applyTask)
  have h2 : Formed κ s2 := h1.abortConflicts
  have h3 : Formed κ s3 := h2
  have h4 : Formed κ s4 := h3.foldl (fun s5 b h4 => h4.modTask (fun t1 ht => ht))
  clear_value s1 s2 s3 s4
  exact h4.foldl (fun s5 b h5 => h5.releaseSpawns)

theorem OutFormed.execIrrevocable {s : State} (h : Formed κ s) : OutFormed κ (execIrrevocable s) := by
  unfold Machine.execIrrevocable
  refine .onTask h ?_
  intro s1 t ht h1
  refine h1.ite ?_
  split
  · split
    · exact h1.readBuffers.of_pair ‹_›
    · exact .throughUnit (h1.readBuffers.of_pair ‹_›)
  · refine h1.pairWaits.ite ?_
    split
    · exact h1.breakPair
    · split
      · extract_lets others
        split
        · exact h1.modPlat.readBuffers.of_pair ‹_›
        · exact .foldl (.throughUnit (h1.modPlat.readBuffers.of_pair ‹_›)) (fun s2 b h2 => h2.modTask (fun t1 ht1 => ht1))

theorem OutFormed.execWatchdog {s : State} (h : Formed κ s) : OutFormed κ (execWatchdog s) := by
  unfold Machine.execWatchdog
  refine .onTask h ?_
  intro s1 t ht h1
  split
  · exact h1
  · exact h1.taskFault.ite h1

theorem OutFormed.execFaultRecordPost {part : BitVec 8} {s : State} (h : Formed κ s) : OutFormed κ (execFaultRecordPost part s) := by
  unfold Machine.execFaultRecordPost
  extract_lets p
  refine .next ?_
  split
  · exact h
  · extract_lets blk s1 s2
    have h1 : Formed κ s1 := h.withDmem h.dmem.setBytes
    have h2 : Formed κ s2 := h1.setPart
    clear_value s1 s2
    exact h.ite h2.postEvent

/-! ## Saved records (Machine/Save.lean) -/

/-- What a reader of a body gives has a property. -/
def Reads {α : Type} (P : α → Prop) (f : SaveReader α) : Prop := ∀ l, P (f l).1

theorem Reads.pure {α : Type} {P : α → Prop} {a : α} (h : P a) : Reads P (Pure.pure a) := fun _ => h

theorem Reads.bind {α β : Type} {P : β → Prop} {f : SaveReader α} {g : α → SaveReader β} (h : ∀ a, Reads P (g a)) : Reads P (f >>= g) :=
  fun l => h _ (f l).2

theorem Reads.bindOf {α β : Type} {P : β → Prop} {Q : α → Prop} {f : SaveReader α} {g : α → SaveReader β} (hf : Reads Q f)
    (h : ∀ a, Q a → Reads P (g a)) : Reads P (f >>= g) := fun l => h _ (hf l) (f l).2

theorem Reads.loadPass : Reads (PortsFormed κ) Machine.loadPass := by
  unfold Machine.loadPass
  exact .bind fun _ => .bind fun _ => .bind fun _ => .pure (TabFormed.nil.foldl fun _ _ ht => ht.set)

theorem Reads.loadOpt : Reads (PassFormed κ) (Machine.loadOpt Machine.loadPass) := by
  unfold Machine.loadOpt
  refine .bind fun b => ?_
  split
  · exact .bindOf .loadPass fun _ hp => .pure (.some hp)
  · exact .pure .none

/-- Table by table: what is built entry by entry has rising keys. -/
theorem Reads.loadCtx {ea : EAddr} {bank : Tab Word} {k : ElemKind} (hb : TabFormed κ bank) : Reads (ElemFormed κ) (loadCtx ea bank k) := by
  unfold Machine.loadCtx
  refine .bind fun pages => .bind fun ks => .bind fun ops => .bindOf .loadOpt fun pass hp => .bind fun brk => .bind fun ii => .bind fun fires =>
    .bind fun group => .bind fun swaps => .bind fun finished => .bind fun inq => .bind fun inc => .pure (elemFormed_iff.2 ⟨?_, .none, ?_, ?_, ?_, hp⟩)
  · refine hb.foldl fun t p ht => ?_
    split
    · exact ht.set
    · exact ht
  · exact TabFormed.nil.foldl fun _ _ ht => ht.set
  · exact TabFormed.nil.foldl fun _ _ ht => ht.set
  · exact TabFormed.nil.foldl fun _ _ ht => ht.set

theorem ElemFormed.ctxOfBody {ea : EAddr} {l : List Nat} : ElemFormed κ (ctxOfBody ea l) := Reads.loadCtx (TabFormed.nil.foldl fun _ _ ht => ht.set) _

theorem ElemFormed.addRecord {ea : EAddr} {e e' : ElemCtx} {r : SaveRec} (h : ElemFormed κ e) (he : addRecord ea e r = some e') : ElemFormed κ e' := by
  unfold Machine.addRecord at he
  split at he
  · exact Option.some.inj he ▸ h
  · split at he
    · obtain ⟨p, -, rfl⟩ := Option.map_eq_some_iff.1 he
      split
      · exact h
      · exact h
    · nomatch he

theorem ElemFormed.readMore {key n : Nat} {cut : Word} {e : ElemCtx} {l : List Byte} {x : ElemCtx × List Byte} (h : ElemFormed κ e)
    (hx : readMore key cut n e l = some x) : ElemFormed κ x.1 := by
  induction n generalizing e l with
  | zero => exact Option.some.inj hx ▸ h
  | succ n ih =>
    unfold Machine.readMore at hx
    split at hx
    · exact Option.some.inj hx ▸ h
    · split at hx
      · nomatch hx
      · obtain ⟨e', he, hm⟩ := Option.bind_eq_some_iff.1 hx
        exact ih (h.addRecord he) hm

/-- Contexts that have been read back. -/
def CtxsFormed (κ : Form) (l : List (Nat × ElemCtx)) : Prop := ∀ p ∈ l, ElemFormed κ p.2

theorem CtxsFormed.readContexts {cut : Word} {keys : List Nat} {l : List Byte} {vs : List (Nat × ElemCtx)} (h : readContexts cut keys l = some vs) :
    CtxsFormed κ vs := by
  induction keys generalizing l vs with
  | nil =>
    obtain rfl := Option.some.inj h
    exact fun _ hp => nomatch hp
  | cons key keys ih =>
    unfold Machine.readContexts at h
    split at h
    · nomatch h
    · split at h
      · nomatch h
      · obtain ⟨x, hx, hm⟩ := Option.bind_eq_some_iff.1 h
        obtain ⟨vs', hv, rfl⟩ := Option.map_eq_some_iff.1 hm
        intro p hp
        rcases List.mem_cons.1 hp with rfl | hp
        · exact .readMore .ctxOfBody hx
        · exact ih hv p hp

theorem Formed.putArea {s : State} {site : SiteNo} {off : Nat} {l : List Byte} (h : Formed κ s) : Formed κ (putArea s site off l) :=
  h.foldl (fun _ _ h1 => h1.writeSave)

theorem Formed.getArea {s : State} {site : SiteNo} {off n : Nat} (h : Formed κ s) : Formed κ (getArea s site off n).1 := by
  unfold Machine.getArea
  extract_lets r
  have hr : Formed κ r.1 := by
    unfold r
    refine h.foldlFst ?_
    intro x b h1
    extract_lets o
    split
    · exact h1.readSpad.of_pair ‹_›
  clear_value r
  exact hr

/-- What may have been read back. -/
def OptCtxsFormed (κ : Form) (o : Option (List (Nat × ElemCtx))) : Prop := ∀ l, o = some l → CtxsFormed κ l

/-- A fold that keeps the machine and what has been read. -/
theorem formed_foldl_contexts {β : Type} {f : State × Option (List (Nat × ElemCtx)) → β → State × Option (List (Nat × ElemCtx))}
    (hf : ∀ x b, Formed κ x.1 → OptCtxsFormed κ x.2 → Formed κ (f x b).1 ∧ OptCtxsFormed κ (f x b).2) (l : List β) :
    ∀ x, Formed κ x.1 → OptCtxsFormed κ x.2 → Formed κ (l.foldl f x).1 ∧ OptCtxsFormed κ (l.foldl f x).2 := by
  induction l with
  | nil => exact fun x h1 h2 => ⟨h1, h2⟩
  | cons b l ih => exact fun x h1 h2 => ih _ (hf x b h1 h2).1 (hf x b h1 h2).2

theorem formed_readSaved {s : State} {t : Task} (h : Formed κ s) : Formed κ (readSaved s t).1 ∧ OptCtxsFormed κ (readSaved s t).2 := by
  unfold readSaved
  split
  · exact ⟨h, fun _ hl => .readContexts hl⟩
  · refine formed_foldl_contexts (fun x m hx ho => ?_) _ (s, some []) h fun l hl => Option.some.inj hl ▸ fun _ hp => nomatch hp
    refine ⟨hx.getArea, fun l hl => ?_⟩
    dsimp only at hl
    split at hl
    · obtain ⟨vs, hv, hm⟩ := Option.bind_eq_some_iff.1 hl
      obtain ⟨r, hr, rfl⟩ := Option.map_eq_some_iff.1 hm
      intro p hp
      exact (List.mem_append.1 hp).elim (ho vs hv p) (CtxsFormed.readContexts hr p)
    · nomatch hl

theorem Formed.readSaved {s : State} {t : Task} (h : Formed κ s) : Formed κ (readSaved s t).1 := (formed_readSaved h).1

/-! ## Cuts and restores (Machine/Cut.lean) -/

theorem Formed.cutOne {s : State} {uid : Nat} {reason : BitVec 4} (h : Formed κ s) : Formed κ (cutOne s uid reason) := by
  unfold Machine.cutOne
  split
  · exact h
  · refine h.ite ?_
    split
    · exact h.modTask (fun t ht => ht)
    · extract_lets part no s1
      have h1 : Formed κ s1 := h.modPart
      clear_value s1
      exact h1.modTask (fun t ht => ht)

theorem Formed.beginCut {s : State} {uid : Nat} {reason : BitVec 4} (h : Formed κ s) : Formed κ (beginCut s uid reason) := by
  unfold Machine.beginCut
  split
  · exact h
  · extract_lets twin s1
    have h1 : Formed κ s1 := h.cutOne
    clear_value s1
    clear_value twin
    split
    · exact h1.cutOne
    · exact h1

theorem OutFormed.execPreempt {task : Nat} {reason : BitVec 4} {s : State} (h : Formed κ s) : OutFormed κ (execPreempt task reason s) := .next h.beginCut

theorem OutFormed.execPageFaultLimit {s : State} (h : Formed κ s) : OutFormed κ (execPageFaultLimit s) := by
  refine .onTask h fun s t ht hs => ?_
  split
  · split
    · exact hs.beginCut.modTask fun _ hu => hu
    · exact hs
  · exact hs

theorem ElemFormed.savedCtx {e : ElemCtx} {router : Bool} (he : ElemFormed κ e) : ElemFormed κ (e.savedCtx router) :=
  .withOps (he.withShadow .none) (.foldl .nil (fun _ _ hx => hx.set))

theorem ElemFormed.uncut {e : ElemCtx} {router : Bool} (he : ElemFormed κ e) : ElemFormed κ (e.uncut router) := by
  unfold Machine.ElemCtx.uncut
  extract_lets src
  have hsrc : ElemFormed κ src := he.savedCtx
  clear_value src
  exact hsrc.withShadow he.shadow

theorem Formed.dropCut {s : State} {t : Task} (h : Formed κ s) : Formed κ (dropCut s t) := h.foldl (fun _ _ h1 => h1.modElem (fun _ he => he.uncut))

theorem Formed.parkObjects {s : State} {t : Task} (h : Formed κ s) : Formed κ (parkObjects s t) := h.foldl (fun _ _ h1 => h1.setBarrier.logHeld)

theorem Formed.dropArmed {s : State} {key : Nat} (h : Formed κ s) : Formed κ (dropArmed s key) := h.modElem (fun _ he => .ite (he.withShadow .none) he)

theorem Formed.suspendTask {s : State} {t : Task} (h : Formed κ s) : Formed κ (suspendTask s t) := by
  unfold Machine.suspendTask
  extract_lets keys l imgs area s1 s2 s3
  have hl : ∀ p ∈ l, ElemFormed κ p.2 := by
    intro p hp
    obtain ⟨k, -, rfl⟩ := List.mem_map.1 hp
    exact h.elem.savedCtx
  have h1 : Formed κ s1 := .ite (h.foldl fun _ _ hs => hs.putArea) h
  have h2 : Formed κ s2 := h1.foldl fun _ _ hs => hs.dropArmed.leaveContext
  have h3 : Formed κ s3 := h2.modTask fun _ ht => ht.withSaved (.ofMap hl)
  exact h3.parkObjects

theorem Formed.staleCtx {s : State} {key : Nat} (h : Formed κ s) : Formed κ (staleCtx s key) := by
  unfold Machine.staleCtx
  extract_lets ea g e fed opFed
  have he : ElemFormed κ e := h.elem
  clear_value e
  exact h.setElem (he.withOps (.foldl .nil (fun t b hx => hx.set)))

theorem Formed.resetLinks {s : State} {t : Task} (h : Formed κ s) : Formed κ (resetLinks s t) := by
  unfold Machine.resetLinks
  extract_lets
  exact h.ite (h.foldl (fun s1 b h1 => h1.setLink))

theorem Formed.restoreCtx {s : State} {t : Task} {v : Nat × ElemCtx} (hv : ElemFormed κ v.2) (h : Formed κ s) : Formed κ (restoreCtx s t v) := by
  unfold Machine.restoreCtx
  extract_lets go e
  have he : ElemFormed κ e := hv.foldl fun _ _ he => he.setOp
  exact .setWeight (h.setElem he)

theorem Formed.rearm {s : State} {uid : Nat} (h : Formed κ s) : Formed κ (rearm s uid) := by
  unfold Machine.rearm
  refine h.foldlTasks (.successorsOf h) ?_
  intro s1 t ht h1
  refine h1.foldlImage ht.image ?_
  intro s2 p hx h2
  extract_lets e
  have he : ElemFormed κ e := h2.elem
  clear_value e
  exact .ite (h2.modElem (fun e1 he1 => he1.withShadow (.some hx))) h2

theorem Formed.restoreTask {s : State} {t : Task} (h : Formed κ s) : Formed κ (restoreTask s t) := by
  unfold Machine.restoreTask
  extract_lets free
  refine .ite h ?_
  split
  · exact .endWith (h.readSaved.of_pair ‹_›)
  · have hl : CtxsFormed κ _ := (formed_readSaved h).2 _ (congrArg Prod.snd ‹_›)
    extract_lets s1 s2 s3 s4 s5 s6 s7
    have h1 : Formed κ s1 := .foldlMem (h.readSaved.of_pair ‹_›) fun _ v hv hs => .restoreCtx (hl v hv) hs
    have h3 : Formed κ s3 := .resetLinks (.bindExps h1)
    have h4 : Formed κ s4 := h3.foldl fun _ _ hs => hs.staleCtx
    have h6 : Formed κ s6 := h4.unparkFor.rearm
    have h7 : Formed κ s7 := h6.foldl fun _ _ hs => hs.modElem fun _ he => he
    exact h7.setPtrs.modTask fun _ ht => ht.withSaved .nil

theorem Formed.endDebug {s : State} {r : DebugReq} {cut status : Nat} (h : Formed κ s) : Formed κ (endDebug s r cut status) := by
  unfold Machine.endDebug
  extract_lets s1 blk s2 s3 n
  have h1 : Formed κ s1 := h.modPlat
  have h2 : Formed κ s2 := h1.blockWrite
  have h3 : Formed κ s3 := h2.blockWrite
  clear_value s1 s2 s3
  split
  · exact h3.modPart
  · exact h3

theorem Formed.debugTask {s : State} {r : DebugReq} (h : Formed κ s) : Formed κ (debugTask s r).1 := by
  unfold Machine.debugTask
  extract_lets blk
  split
  · split
    · refine .of_pair ?_ ‹_›
      exact .blockRead (h.blockRead.of_pair ‹_›)

theorem Formed.startDebug {s : State} {r : DebugReq} {uid : Nat} (h : Formed κ s) : Formed κ (startDebug s r uid) := h.modPlat

theorem Formed.serveDebug {s : State} {part n : Nat} (h : Formed κ s) : Formed κ (serveDebug s part n) := by
  induction n generalizing s part with
  | zero =>
    rw [Machine.serveDebug]
    exact h
  | succ n ih =>
    rw [Machine.serveDebug]
    split
    · exact h
    · split
      · split
        · exact ih h.endDebug
        · exact h
      · split
        · exact ih (.endDebug (h.debugTask.of_pair ‹_›))
        · exact .ite (.ite (ih (.startDebug (.restoreTask (h.debugTask.of_pair ‹_›)))) (ih (.endDebug (h.debugTask.of_pair ‹_›))))
            (.ite (ih (.startDebug (.beginCut (h.debugTask.of_pair ‹_›)))) (.ite (h.debugTask.of_pair ‹_›) (ih (.endDebug (h.debugTask.of_pair ‹_›)))))

theorem Formed.serveAll {s : State} (h : Formed κ s) : Formed κ (serveAll s) := h.foldl (fun _ _ h1 => h1.serveDebug)

theorem OutFormed.execRegionFrozen {s : State} (h : Formed κ s) : OutFormed κ (execRegionFrozen s) := by
  unfold Machine.execRegionFrozen
  refine .onTask h ?_
  intro s1 t ht h1
  split
  · exact h1.serveAll.endWith.ite h1
  · exact h1

theorem OutFormed.execCutComplete {s : State} (h : Formed κ s) : OutFormed κ (execCutComplete s) := by
  unfold Machine.execCutComplete
  refine .onTask h ?_
  intro s1 t ht h1
  refine .serveAll ?_
  refine .ite (.ite (h1.dropCut.modTask (fun t1 ht1 => ht1)) (h1.suspendTask.ite h1)) ?_
  split
  · exact h1.beginCut.ite (h1.modTask (fun t1 ht1 => ht1))
  · exact h1

theorem OutFormed.execRestore {s : State} (h : Formed κ s) : OutFormed κ (execRestore s) := by
  unfold Machine.execRestore
  refine .onTask h ?_
  intro s1 t ht h1
  refine .serveAll ?_
  refine h1.ite ?_
  split
  · exact h1.restoreTask
  · extract_lets part va
    split
    · exact h1
    · exact h1.dropFault.endWith
    · exact h1.dropFault.endWith
    · exact h1.dropFault.restoreTask

theorem Formed.resetSites {s : State} {p : SiteNo → Bool} (h : Formed κ s) : Formed κ (resetSites s p) := by
  unfold Machine.resetSites
  extract_lets
  exact .withChannels (.withAcs (.withWs (.withPorts
    (.withElems ((h.withSpad h.spad.filter).withSites (h.sites.rebuild .nil (fun p1 hr => hr.cleared.ite hr))) h.elems.filter) h.ports.filter)
    h.ws.filter) h.acs.filter) h.channels.filter

theorem OutFormed.execDestructiveUnload {blk : BitVec 6} {s : State} (h : Formed κ s) : OutFormed κ (execDestructiveUnload blk s) := by
  unfold Machine.execDestructiveUnload
  refine .next ?_
  refine h.ite ?_
  extract_lets read hit s1 s2 s3 s4
  have hhit : TasksFormed κ hit := h.tasks.filter
  have h1 : Formed κ s1 := h.foldl (fun s5 b h1 => h1.endWith)
  have h2 : Formed κ s2 := h1.resetSites
  have h3 : Formed κ s3 := h2.setSq
  have h4 : Formed κ s4 := (h3.withLram h3.lram.filter).withEngines h3.engines.filter
  clear_value hit s1 s2 s3 s4
  exact h4.modPlat

end Sys2Proof.Proofs

namespace Sys2Proof.Proofs
open Sys2Proof.Machine

/-! # The form of the machine: sequencer -/

variable {κ : Form}

/-! ## The sequencer (Machine/SqOps.lean) -/

theorem Formed.performStore {s : State} {b : BitVec 6} {n : Nat} (h : Formed κ s) : Formed κ (performStore s b n) := by
  unfold Machine.performStore
  split
  · exact h
  · extract_lets s1
    have h1 : Formed κ s1 := h.modSq
    clear_value s1
    exact h1.ite h1.unitWrite

theorem Formed.performAll {s : State} {b : BitVec 6} (h : Formed κ s) : Formed κ (performAll s b) := h.foldl (fun _ _ h1 => h1.performStore)

theorem Formed.performLine {s : State} {b : BitVec 6} {pa n : Nat} (h : Formed κ s) : Formed κ (performLine s b pa n) := by
  unfold Machine.performLine
  extract_lets hit l
  split
  · exact h
  · exact h.foldl (fun s1 b1 h1 => h1.performStore)

theorem Formed.fetchFault {s : State} {b : BitVec 6} {sub : BitVec 8} {detail : BitVec 48} (h : Formed κ s) : Formed κ (fetchFault s b sub detail) := by
  unfold Machine.fetchFault
  extract_lets
  exact h.performAll.modSq.log.ite h.takeTrap

theorem Formed.endHeld {s : State} {b : BitVec 6} {h : SqHold} {n : Nat} (h2 : Formed κ s) : Formed κ (endHeld s b h n) := by
  unfold Machine.endHeld
  extract_lets
  exact h2.modSq.fetchFault.ite h2.takeTrap

theorem OutFormed.runSq {s : State} {f : State → BitVec 6 → State} (h : Formed κ s) (hf : ∀ (u : State)
    (x : BitVec 6), Formed κ u → Formed κ (f u x)) : OutFormed κ (runSq s f) := by
  unfold Machine.runSq
  split
  · extract_lets q part
    refine .ite (.next h) ?_
    split
    · exact .next (hf _ _ h)
    · split
      · exact .next h
      · exact .next (hf _ _ h.dropFault.modSq)
      · exact .next h.dropFault.endHeld
  · exact .refused

theorem Formed.retire {s : State} {b : BitVec 6} {f : Sq → Sq} (h : Formed κ s) : Formed κ (retire s b f) := h.modSq

theorem Formed.retireG {s : State} {b : BitVec 6} {d : BitVec 5} {v : DWord} (h : Formed κ s) : Formed κ (retireG s b d v) := h.retire

theorem Formed.stayWithin {s : State} {b : BitVec 6} (h : Formed κ s) : Formed κ (stayWithin s b) := h.modSq

theorem Formed.fenced {f : State → BitVec 6 → State} {s : State} {b : BitVec 6} (hf : ∀ (u : State)
    (x : BitVec 6), Formed κ u → Formed κ (f u x)) (h : Formed κ s) : Formed κ (fenced f s b) := by
  unfold Machine.fenced
  extract_lets s1
  have h1 : Formed κ s1 := h.performAll
  clear_value s1
  exact h1.stayWithin.ite (hf _ _ h1)

theorem Formed.supervisorOnly {s : State} {b : BitVec 6} {f : State} (h : Formed κ s) (h2 : Formed κ f) : Formed κ (supervisorOnly s b f) := h2.ite h.takeTrap

theorem Formed.holdAt {s : State} {b : BitVec 6} {va : Nat} {i : Intent} (h : Formed κ s) : Formed κ (holdAt s b va i) := by
  unfold Machine.holdAt
  split
  · exact .modSq (h.raiseFault.of_pair ‹_›)

theorem Formed.sqXlat {s : State} {b : BitVec 6} {va : Nat} {i : Intent} (h : Formed κ s) : Formed κ (sqXlat s b va i).1 := by
  unfold Machine.sqXlat
  extract_lets part
  split
  · split
    · exact .takeTrap (h.peerRequest.of_pair ‹_›)
    · exact h.peerRequest.of_pair ‹_›
  · split
    · extract_lets s1
      have h1 : Formed κ s1 := .modSq (h.translate.of_pair ‹_›)
      clear_value s1
      split
      · exact h1
      · exact h1.stayWithin
      · exact h1.holdAt
      · exact h1.takeTrap

theorem Formed.sqRead {s : State} {b : BitVec 6} {p : SqPlace} {n : Nat} (h : Formed κ s) : Formed κ (sqRead s b p n).1 := by
  unfold Machine.sqRead
  split
  · exact h
  · split
    · exact h.spadReadNat.of_pair ‹_›
  · split
    · extract_lets s1
      have h1 : Formed κ s1 := .performLine (h.sqXlat.of_pair ‹_›)
      clear_value s1
      exact h1.stayWithin.iteFst h1.touch
    · exact .takeFree (h.sqXlat.of_pair ‹_›)
    · exact h.sqXlat.of_pair ‹_›

theorem Formed.sqCommit {s : State} {b : BitVec 6} {pa : Nat} {l : List Byte} (h : Formed κ s) : Formed κ (sqCommit s b pa l).1 :=
  h.takeTrap.iteFst (h.modSq.iteFst h.performLine.unitWrite)

theorem Formed.sqWrite {s : State} {b : BitVec 6} {p : SqPlace} {n x : Nat} (h : Formed κ s) : Formed κ (sqWrite s b p n x).1 := by
  unfold Machine.sqWrite
  split
  · exact h.withLram h.lram.setNat
  · exact h.spadWriteNat
  · split
    · exact .sqCommit (h.sqXlat.of_pair ‹_›)
    · exact h.sqXlat.of_pair ‹_›
    · exact h.sqXlat.of_pair ‹_›

theorem Formed.sqLoad {s : State} {b : BitVec 6} {d : BitVec 5} {a : DWord} {n : Nat} {f : Nat → DWord} (h : Formed κ s) : Formed κ (sqLoad s b d a n f) := by
  unfold Machine.sqLoad
  split
  · exact h.takeTrap
  · split
    · exact .retireG (h.sqRead.of_pair ‹_›)
    · exact h.sqRead.of_pair ‹_›

theorem Formed.sqStore {s : State} {b : BitVec 6} {a : DWord} {n : Nat} {v : DWord} (h : Formed κ s) : Formed κ (sqStore s b a n v) := by
  unfold Machine.sqStore
  split
  · exact h.takeTrap
  · split
    · exact .retire (h.sqWrite.of_pair ‹_›)
    · exact h.sqWrite.of_pair ‹_›

/-! ## Sequencer arithmetic (Machine/SqArith.lean) -/

theorem OutFormed.sqOp2 {s : State} {d a b : BitVec 5} {f : DWord → DWord → DWord} (h : Formed κ s) : OutFormed κ (sqOp2 s d a b f) :=
  .runSq h (fun _ _ h1 => h1.retire)

theorem OutFormed.sqOp1 {s : State} {d a : BitVec 5} {f : DWord → DWord} (h : Formed κ s) : OutFormed κ (sqOp1 s d a f) := .runSq h (fun _ _ h1 => h1.retire)

theorem OutFormed.sqDivide {s : State} {d a b : BitVec 5} {f : DWord → DWord → DWord} (h : Formed κ s) : OutFormed κ (sqDivide s d a b f) :=
  .runSq h (fun _ _ h1 => h1.retire)

theorem OutFormed.execAddSequencer {d a b : BitVec 5} {s : State} (h : Formed κ s) : OutFormed κ (execAddSequencer d a b s) := .sqOp2 h

theorem OutFormed.execSubSequencer {d a b : BitVec 5} {s : State} (h : Formed κ s) : OutFormed κ (execSubSequencer d a b s) := .sqOp2 h

theorem OutFormed.execAndSequencer {d a b : BitVec 5} {s : State} (h : Formed κ s) : OutFormed κ (execAndSequencer d a b s) := .sqOp2 h

theorem OutFormed.execOrSequencer {d a b : BitVec 5} {s : State} (h : Formed κ s) : OutFormed κ (execOrSequencer d a b s) := .sqOp2 h

theorem OutFormed.execXorSequencer {d a b : BitVec 5} {s : State} (h : Formed κ s) : OutFormed κ (execXorSequencer d a b s) := .sqOp2 h

theorem OutFormed.execShlSequencer {d a b : BitVec 5} {s : State} (h : Formed κ s) : OutFormed κ (execShlSequencer d a b s) := .sqOp2 h

theorem OutFormed.execShrSequencer {d a b : BitVec 5} {s : State} (h : Formed κ s) : OutFormed κ (execShrSequencer d a b s) := .sqOp2 h

theorem OutFormed.execSraSequencer {d a b : BitVec 5} {s : State} (h : Formed κ s) : OutFormed κ (execSraSequencer d a b s) := .sqOp2 h

theorem OutFormed.execMulSequencer {d a b : BitVec 5} {s : State} (h : Formed κ s) : OutFormed κ (execMulSequencer d a b s) := .sqOp2 h

theorem OutFormed.execMulhSequencer {d a b : BitVec 5} {s : State} (h : Formed κ s) : OutFormed κ (execMulhSequencer d a b s) := .sqOp2 h

theorem OutFormed.execDiv {d a b : BitVec 5} {s : State} (h : Formed κ s) : OutFormed κ (execDiv d a b s) := .sqDivide h

theorem OutFormed.execRem {d a b : BitVec 5} {s : State} (h : Formed κ s) : OutFormed κ (execRem d a b s) := .sqDivide h

theorem OutFormed.execSlt {d a b : BitVec 5} {s : State} (h : Formed κ s) : OutFormed κ (execSlt d a b s) := .sqOp2 h

theorem OutFormed.execSltn {d a b : BitVec 5} {s : State} (h : Formed κ s) : OutFormed κ (execSltn d a b s) := .sqOp2 h

theorem OutFormed.execAddi {d a : BitVec 5} {i : BitVec 16} {s : State} (h : Formed κ s) : OutFormed κ (execAddi d a i s) := .sqOp1 h

theorem OutFormed.execAndi {d a : BitVec 5} {i : BitVec 16} {s : State} (h : Formed κ s) : OutFormed κ (execAndi d a i s) := .sqOp1 h

theorem OutFormed.execOri {d a : BitVec 5} {i : BitVec 16} {s : State} (h : Formed κ s) : OutFormed κ (execOri d a i s) := .sqOp1 h

theorem OutFormed.execXori {d a : BitVec 5} {i : BitVec 16} {s : State} (h : Formed κ s) : OutFormed κ (execXori d a i s) := .sqOp1 h

theorem OutFormed.execShli {d a : BitVec 5} {n : BitVec 6} {s : State} (h : Formed κ s) : OutFormed κ (execShli d a n s) := .sqOp1 h

theorem OutFormed.execShri {d a : BitVec 5} {n : BitVec 6} {s : State} (h : Formed κ s) : OutFormed κ (execShri d a n s) := .sqOp1 h

theorem OutFormed.execSrai {d a : BitVec 5} {n : BitVec 6} {s : State} (h : Formed κ s) : OutFormed κ (execSrai d a n s) := .sqOp1 h

theorem OutFormed.execSlti {d a : BitVec 5} {i : BitVec 16} {s : State} (h : Formed κ s) : OutFormed κ (execSlti d a i s) := .sqOp1 h

theorem OutFormed.execLhi {d : BitVec 5} {i : BitVec 16} {s : State} (h : Formed κ s) : OutFormed κ (execLhi d i s) := .runSq h (fun _ _ h1 => h1.retireG)

theorem OutFormed.execCrc {d a b : BitVec 5} {n : BitVec 2} {s : State} (h : Formed κ s) : OutFormed κ (execCrc d a b n s) := .sqOp2 h

theorem OutFormed.sqBranch {s : State} {a b : BitVec 5} {o : BitVec 16} {c : DWord → DWord → Bool} (h : Formed κ s) : OutFormed κ (sqBranch s a b o c) :=
  .runSq h (fun _ _ h1 => h1.modSq)

theorem OutFormed.execBeq {a b : BitVec 5} {o : BitVec 16} {s : State} (h : Formed κ s) : OutFormed κ (execBeq a b o s) := .sqBranch h

theorem OutFormed.execBne {a b : BitVec 5} {o : BitVec 16} {s : State} (h : Formed κ s) : OutFormed κ (execBne a b o s) := .sqBranch h

theorem OutFormed.execBlt {a b : BitVec 5} {o : BitVec 16} {s : State} (h : Formed κ s) : OutFormed κ (execBlt a b o s) := .sqBranch h

theorem OutFormed.execBge {a b : BitVec 5} {o : BitVec 16} {s : State} (h : Formed κ s) : OutFormed κ (execBge a b o s) := .sqBranch h

theorem OutFormed.execBltn {a b : BitVec 5} {o : BitVec 16} {s : State} (h : Formed κ s) : OutFormed κ (execBltn a b o s) := .sqBranch h

theorem OutFormed.execBgen {a b : BitVec 5} {o : BitVec 16} {s : State} (h : Formed κ s) : OutFormed κ (execBgen a b o s) := .sqBranch h

theorem OutFormed.execJal {o : BitVec 26} {s : State} (h : Formed κ s) : OutFormed κ (execJal o s) := .runSq h (fun _ _ h1 => h1.modSq)

theorem OutFormed.execJr {d a : BitVec 5} {i : BitVec 16} {s : State} (h : Formed κ s) : OutFormed κ (execJr d a i s) := .runSq h (fun _ _ h1 => h1.modSq)

/-! ## Sequencer accesses (Machine/SqMem.lean) -/

theorem OutFormed.sqLoadOp {s : State} {d a : BitVec 5} {o : BitVec 16} {n : Nat} {f : Nat → DWord} (h : Formed κ s) : OutFormed κ (sqLoadOp s d a o n f) :=
  .runSq h (fun _ _ h1 => h1.sqLoad)

theorem OutFormed.sqStoreOp {s : State} {d a : BitVec 5} {o : BitVec 16} {n : Nat} (h : Formed κ s) : OutFormed κ (sqStoreOp s d a o n) :=
  .runSq h (fun _ _ h1 => h1.sqStore)

theorem OutFormed.execLb {d a : BitVec 5} {o : BitVec 16} {s : State} (h : Formed κ s) : OutFormed κ (execLb d a o s) := .sqLoadOp h

theorem OutFormed.execLbn {d a : BitVec 5} {o : BitVec 16} {s : State} (h : Formed κ s) : OutFormed κ (execLbn d a o s) := .sqLoadOp h

theorem OutFormed.execLh {d a : BitVec 5} {o : BitVec 16} {s : State} (h : Formed κ s) : OutFormed κ (execLh d a o s) := .sqLoadOp h

theorem OutFormed.execLhn {d a : BitVec 5} {o : BitVec 16} {s : State} (h : Formed κ s) : OutFormed κ (execLhn d a o s) := .sqLoadOp h

theorem OutFormed.execLw {d a : BitVec 5} {o : BitVec 16} {s : State} (h : Formed κ s) : OutFormed κ (execLw d a o s) := .sqLoadOp h

theorem OutFormed.execLwn {d a : BitVec 5} {o : BitVec 16} {s : State} (h : Formed κ s) : OutFormed κ (execLwn d a o s) := .sqLoadOp h

theorem OutFormed.execLq {d a : BitVec 5} {o : BitVec 16} {s : State} (h : Formed κ s) : OutFormed κ (execLq d a o s) := .sqLoadOp h

theorem OutFormed.execSb {d a : BitVec 5} {o : BitVec 16} {s : State} (h : Formed κ s) : OutFormed κ (execSb d a o s) := .sqStoreOp h

theorem OutFormed.execSh {d a : BitVec 5} {o : BitVec 16} {s : State} (h : Formed κ s) : OutFormed κ (execSh d a o s) := .sqStoreOp h

theorem OutFormed.execSw {d a : BitVec 5} {o : BitVec 16} {s : State} (h : Formed κ s) : OutFormed κ (execSw d a o s) := .sqStoreOp h

theorem OutFormed.execSq {d a : BitVec 5} {o : BitVec 16} {s : State} (h : Formed κ s) : OutFormed κ (execSq d a o s) := .sqStoreOp h

theorem Formed.amPut {s : State} {b : BitVec 6} {p : SqPlace} {pa : Nat} {new : Option DWord} (h : Formed κ s) : Formed κ (amPut s b p pa new) := by
  unfold Machine.amPut
  split
  · exact h
  · split
    · exact h.withLram h.lram.setNat
    · exact h.spadWriteNat
    · exact h.unitWrite

theorem OutFormed.sqAtomic {s : State} {d a : BitVec 5} {new : Sq → DWord → Option DWord} (h : Formed κ s) : OutFormed κ (sqAtomic s d a new) := by
  unfold Machine.sqAtomic
  refine .runSq h ?_
  intro a1 x h1
  extract_lets q finish
  have hfinih : ∀ (s : State) (p : SqPlace) (pa : Nat) (old : DWord), Formed κ s → Formed κ (finish s p pa old) := fun s1 p pa old h2 => h2.amPut.retireG
  clear_value finish
  split
  · exact h1.takeTrap
  · exact hfinih _ _ _ _ h1
  · split
    · exact hfinih _ _ _ _ (h1.spadReadNat.of_pair ‹_›)
  · split
    · extract_lets s1
      have h11 : Formed κ s1 := .performLine (h1.sqXlat.of_pair ‹_›)
      clear_value s1
      exact h11.takeTrap.ite (h11.stayWithin.ite (hfinih _ _ _ _ h11))
    · exact .retireG (.takeFree (h1.sqXlat.of_pair ‹_›))
    · exact h1.sqXlat.of_pair ‹_›

theorem OutFormed.execAmadd {d a b : BitVec 5} {s : State} (h : Formed κ s) : OutFormed κ (execAmadd d a b s) := .sqAtomic h

theorem OutFormed.execAmswp {d a b : BitVec 5} {s : State} (h : Formed κ s) : OutFormed κ (execAmswp d a b s) := .sqAtomic h

theorem OutFormed.execAmcas {d a b : BitVec 5} {s : State} (h : Formed κ s) : OutFormed κ (execAmcas d a b s) := .sqAtomic h

/-! ## Instruction fetch (Machine/SqFetch.lean) -/

theorem Formed.fetchMemory {s : State} {b : BitVec 6} (h : Formed κ s) : Formed κ (fetchMemory s b).1 := by
  unfold Machine.fetchMemory
  extract_lets q va
  split
  · extract_lets s1
    have h1 : Formed κ s1 := .modSq (h.translate.of_pair ‹_›)
    clear_value s1
    split
    · exact h1.touch.modSq
    · exact h1
    · exact h1.holdAt
    · exact h1

theorem Formed.fetchWord {s : State} {b : BitVec 6} (h : Formed κ s) : Formed κ (fetchWord s b).1 := by
  unfold Machine.fetchWord
  extract_lets q part cached
  have hcached : ∀ (s : State), Formed κ s → Formed κ (cached s).1 := by
    unfold cached
    intro s1 h1
    split
    · exact h1
    · exact h1.fetchMemory
  clear_value cached
  split
  · exact hcached _ h
  · refine (hcached _ h).iteFst ?_
    split
    · exact h
    · exact hcached _ h.dropFault.modSq
    · exact h.dropFault.modSq

theorem OutFormed.execInstructionFetchFault {sub : BitVec 8} {detail : BitVec 48} {s : State} (h : Formed κ s) :
    OutFormed κ (execInstructionFetchFault sub detail s) := by
  unfold Machine.execInstructionFetchFault
  split
  · exact .next (h.fetchFault.ite h)
  · exact .refused

theorem OutFormed.execIllegalInstruction {s : State} (h : Formed κ s) : OutFormed κ (execIllegalInstruction s) := by
  unfold Machine.execIllegalInstruction
  refine .runSq h ?_
  intro a x h1
  split
  · split
    · exact .takeTrap (h1.fetchWord.of_pair ‹_›)
    · exact h1.fetchWord.of_pair ‹_›
  · exact h1.fetchWord.of_pair ‹_›
  · exact .fetchFault (h1.fetchWord.of_pair ‹_›)

theorem Formed.withdraw {s : State} {b : BitVec 6} (h : Formed κ s) : Formed κ (withdraw s b) := by
  unfold Machine.withdraw
  split
  · exact h
  · exact h.setBarrier.modSq

theorem OutFormed.execEventInterrupt {s : State} (h : Formed κ s) : OutFormed κ (execEventInterrupt s) := by
  unfold Machine.execEventInterrupt
  split
  · exact .next (h.withdraw.takeTrap.ite h)
  · exact .refused

/-! ## System registers (Machine/SqSystem.lean) -/

theorem Formed.writeEvq {s : State} {b : BitVec 6} {v : DWord} (h : Formed κ s) : Formed κ (writeEvq s b v) := by
  unfold Machine.writeEvq
  extract_lets s1
  have h1 : Formed κ s1 := h.modSq
  clear_value s1
  exact h1.drainEvents

theorem Formed.writeEvhead {s : State} {b : BitVec 6} {v : DWord} (h : Formed κ s) : Formed κ (writeEvhead s b v) := by
  unfold Machine.writeEvhead
  extract_lets s1
  have h1 : Formed κ s1 := h.modSq
  clear_value s1
  exact h1.drainEvents

theorem Formed.writeSystem {s : State} {b : BitVec 6} {idx : BitVec 5} {v : DWord} (h : Formed κ s) : Formed κ (writeSystem s b idx v) := by
  unfold Machine.writeSystem
  split
  · exact h.modSq
  · exact h.modSq
  · exact h.modSq
  · exact h.modSq
  · exact h.modSq
  · exact h.writeEvq
  · exact h.writeEvhead
  · exact h.modSq

theorem OutFormed.execMfs {d b : BitVec 5} {s : State} (h : Formed κ s) : OutFormed κ (execMfs d b s) := by
  unfold Machine.execMfs
  refine .runSq h ?_
  intro a x h1
  split
  · exact h1.takeTrap
  · exact h1.takeTrap.ite h1.retireG

theorem OutFormed.execMts {a b : BitVec 5} {s : State} (h : Formed κ s) : OutFormed κ (execMts a b s) :=
  .runSq h (fun _ _ h1 => h1.writeSystem.retire.ite (h1.takeTrap.ite h1.takeTrap))

theorem OutFormed.execEvqWrite {blk : BitVec 6} {v : BitVec 64} {s : State} (h : Formed κ s) : OutFormed κ (execEvqWrite blk v s) := .next h.writeEvq

theorem OutFormed.execEvheadWrite {blk : BitVec 6} {v : BitVec 64} {s : State} (h : Formed κ s) : OutFormed κ (execEvheadWrite blk v s) := .next h.writeEvhead

theorem Formed.answerMbox {s : State} {r : MboxReq} {status : Nat} (h : Formed κ s) : Formed κ (answerMbox s r status) := h.modPlat.blockWrite

theorem Formed.refuseMbox {s : State} {n : Nat} (h : Formed κ s) : Formed κ (refuseMbox s n) := by
  induction n generalizing s with
  | zero =>
    rw [Machine.refuseMbox]
    exact h
  | succ n ih =>
    rw [Machine.refuseMbox]
    split
    · exact h
    · exact (ih h.answerMbox).ite ((ih h.answerMbox).ite h)

theorem OutFormed.execSvc {c : BitVec 5} {s : State} (h : Formed κ s) : OutFormed κ (execSvc c s) := by
  unfold Machine.execSvc
  refine .runSq h ?_
  intro a x h1
  extract_lets q addr
  refine h1.takeTrap.ite ?_
  split
  · exact h1.takeTrap
  · split
    · exact h1.sqRead.of_pair ‹_›
    · extract_lets s1 r s2
      have h11 : Formed κ s1 := .blockWrite (h1.sqRead.of_pair ‹_›)
      have h2 : Formed κ s2 := h11.modPlat
      clear_value s1 s2
      exact h2.refuseMbox.retire

theorem OutFormed.execEret {s : State} (h : Formed κ s) : OutFormed κ (execEret s) := .runSq h (fun _ _ h1 => h1.supervisorOnly h1.modSq)

theorem OutFormed.execWfe {s : State} (h : Formed κ s) : OutFormed κ (execWfe s) := .runSq h (fun _ _ h1 => h1.stayWithin.ite h1.retire)

theorem OutFormed.execFen {_scope : BitVec 2} {s : State} (h : Formed κ s) : OutFormed κ (execFen _scope s) :=
  .runSq h (fun _ _ h1 => .fenced (fun _ _ h2 => h2.retire) h1)

theorem OutFormed.execEvp {d : BitVec 5} {s : State} (h : Formed κ s) : OutFormed κ (execEvp d s) := by
  unfold Machine.execEvp
  refine .runSq h ?_
  intro a x h1
  extract_lets q
  refine h1.retireG.ite ?_
  split
  · split
    · extract_lets s1 s2
      have h11 : Formed κ s1 := .withLram (h1.spadReadNat.of_pair ‹_›) (.setNat (Formed.lram (h1.spadReadNat.of_pair ‹_›)))
      have h2 : Formed κ s2 := h11.retire
      clear_value s1 s2
      exact h2.drainEvents

/-! ## Fabric instructions (Machine/SqFabric.lean) -/

theorem OutFormed.execCfgs {a b : BitVec 5} {s : State} (h : Formed κ s) : OutFormed κ (execCfgs a b s) := by
  unfold Machine.execCfgs
  refine .runSq h ?_
  intro a1 x h1
  refine h1.supervisorOnly ?_
  extract_lets q n
  refine h1.retire.ite ?_
  refine h1.takeTrap.ite ?_
  split
  · exact h1.takeTrap
  · exact h1.ite h1.retire

theorem OutFormed.execCfgw {a : BitVec 5} {s : State} (h : Formed κ s) : OutFormed κ (execCfgw a s) := .runSq h (fun _ _ h1 => h1.supervisorOnly h1.retire)

theorem OutFormed.execCfgq {d : BitVec 5} {s : State} (h : Formed κ s) : OutFormed κ (execCfgq d s) := by
  unfold Machine.execCfgq
  refine .runSq h ?_
  intro a x h1
  refine h1.supervisorOnly ?_
  split
  · exact h1.retireG
  · exact h1.retire

theorem Formed.loaderFault {s : State} {b : BitVec 6} (h : Formed κ s) : Formed κ (loaderFault s b) := h.loaderRejected.modSq

theorem Formed.streamWord {s : State} {b : BitVec 6} {a : Nat} (h : Formed κ s) : Formed κ (streamWord s b a).1 := by
  unfold Machine.streamWord
  split
  · exact h.loaderFault
  · extract_lets part
    split
    · split
      · exact .loaderFault (h.peerRequest.of_pair ‹_›)
      · exact .takeFree (h.peerRequest.of_pair ‹_›)
    · split
      · extract_lets s1
        have h1 : Formed κ s1 := .modSq (h.translate.of_pair ‹_›)
        clear_value s1
        split
        · exact h1
        · exact h1
        · split
          · exact .modSq (h1.raiseFault.of_pair ‹_›)
        · exact h1.loaderFault
  · exact h.sqRead

theorem Formed.loaderWord {s : State} {b : BitVec 6} (h : Formed κ s) : Formed κ (loaderWord s b).1 := by
  unfold Machine.loaderWord
  extract_lets q
  split
  · exact h
  · exact h.modSq
  · split
    · exact h.streamWord.of_pair ‹_›
    · exact .modSq (h.streamWord.of_pair ‹_›)

theorem Formed.claimOpen {s : State} {b : BitVec 6} (h : Formed κ s) : Formed κ (claimOpen s b) := by
  unfold Machine.claimOpen
  split
  · exact h
  · exact h.setPort.ite h

theorem Formed.gatherWords {s : State} {b : BitVec 6} {n : Nat} (h : Formed κ s) : Formed κ (gatherWords s b n) := by
  induction n generalizing s b with
  | zero =>
    rw [Machine.gatherWords]
    exact h
  | succ n ih =>
    rw [Machine.gatherWords]
    refine h.ite ?_
    split
    · exact .claimOpen (h.loaderWord.of_pair ‹_›)
    · exact ih (.modSq (h.loaderWord.of_pair ‹_›))

theorem Formed.loaderFill {s : State} {b : BitVec 6} (h : Formed κ s) : Formed κ (loaderFill s b) := by
  unfold Machine.loaderFill
  extract_lets q part
  refine h.ite ?_
  split
  · exact h.gatherWords
  · split
    · exact h
    · exact h.dropFault.modSq.gatherWords
    · exact h.dropFault.loaderFault

theorem Formed.badCommand {s : State} {b : BitVec 6} {w : Word} (h : Formed κ s) : Formed κ (badCommand s b w) := by
  unfold Machine.badCommand
  extract_lets ea ctx field reason p
  refine h.loaderRejected.ite ?_
  refine h.ite ?_
  split
  · refine .loaderRejected ?_
    refine CmdFormed.of_rejected ?_ ‹_›
    exact .rejectCmd h
  · exact h

theorem OutFormed.execTsk {d a : BitVec 5} {s : State} (h : Formed κ s) : OutFormed κ (execTsk d a s) := by
  unfold Machine.execTsk
  refine .runSq h ?_
  intro a1 x h1
  refine .fenced ?_ h1
  intro a2 a_11 h2
  extract_lets q va w part
  refine h2.takeTrap.ite ?_
  refine h2.takeTrap.ite ?_
  refine h2.retireG.ite ?_
  refine h2.stayWithin.ite ?_
  split
  · exact .stayWithin (h2.readRecord.of_pair ‹_›)
  · split
    · refine .modSq ?_
      refine .of_pair ?_ ‹_›
      exact .tdFault (h2.readRecord.of_pair ‹_›)
  · exact .takeTrap (h2.readRecord.of_pair ‹_›)
  · extract_lets s1 s2
    have h11 : Formed κ s1 := .acceptLaunch (h2.readRecord.of_pair ‹_›)
    have h21 : Formed κ s2 := h11.modQueue
    clear_value s1 s2
    exact h21.retireG

theorem OutFormed.execQappEngine {d a b : BitVec 5} {s : State} (h : Formed κ s) : OutFormed κ (execQappEngine d a b s) := by
  unfold Machine.execQappEngine
  refine .runSq h ?_
  intro a1 x h1
  refine .fenced ?_ h1
  intro a2 a_11 h2
  extract_lets q n num e
  refine h2.takeTrap.ite ?_
  split
  · exact h2.takeTrap
  · refine h2.ite ?_
    split
    · exact h2.sqRead.of_pair ‹_›
    · split
      · refine .of_pair ?_ ‹_›
        exact .sqXlat (h2.sqRead.of_pair ‹_›)
      · extract_lets s1 s2
        have h11 : Formed κ s1 := by
          unfold s1
          split
          · refine .unitWrite ?_
            refine .of_pair ?_ ‹_›
            exact .sqXlat (h2.sqRead.of_pair ‹_›)
          · refine .of_pair ?_ ‹_›
            exact .sqXlat (h2.sqRead.of_pair ‹_›)
        have h21 : Formed κ s2 := h11.setEngine
        clear_value s1 s2
        exact h21.retireG

theorem OutFormed.execQappWork {d a b : BitVec 5} {s : State} (h : Formed κ s) : OutFormed κ (execQappWork d a b s) :=
  .runSq h (fun _ _ h1 => h1.supervisorOnly
    (.fenced (fun _ _ h2 => h2.takeTrap.ite (h2.takeTrap.ite (h2.retire.ite (h2.retireG.ite h2.ringDoorbell.retireG)))) h1))

theorem OutFormed.execQfen {a : BitVec 5} {s : State} (h : Formed κ s) : OutFormed κ (execQfen a s) := by
  unfold Machine.execQfen
  refine .runSq h ?_
  intro a1 x h1
  extract_lets l s1
  have h11 : Formed κ s1 := h1.foldl (fun s2 b h2 => h2.setEngine)
  clear_value s1
  exact h11.retire

theorem OutFormed.execBara {a b : BitVec 5} {s : State} (h : Formed κ s) : OutFormed κ (execBara a b s) := by
  unfold Machine.execBara
  refine .runSq h ?_
  intro a1 x h1
  refine .fenced ?_ h1
  intro a2 a_11 h2
  extract_lets q obj n s1
  have h11 : Formed κ s1 := h2.arrive
  clear_value s1
  split
  · exact h2.ite h2.retire
  · exact h2.takeTrap.ite (h2.retire.ite (h11.modSq.ite h11.retire))

theorem OutFormed.execBarw {a b : BitVec 5} {s : State} (h : Formed κ s) : OutFormed κ (execBarw a b s) :=
  .runSq h (fun _ _ h1 => h1.takeTrap.ite (h1.retire.ite h1))

theorem OutFormed.execTlbi {a b : BitVec 5} {s : State} (h : Formed κ s) : OutFormed κ (execTlbi a b s) := by
  unfold Machine.execTlbi
  refine .runSq h ?_
  intro a1 x h1
  refine h1.supervisorOnly ?_
  extract_lets q va near
  refine h1.takeTrap.ite ?_
  split
  · extract_lets drop sites s1
    have hdrop : ∀ (t : Site), SiteFormed κ t → SiteFormed κ (drop t) := fun t hr => hr
    have h11 : Formed κ s1 := h1.withSites (h1.sites.rebuild .nil (fun p hr => (hdrop _ hr).ite hr))
    clear_value drop s1
    exact h11.retire

theorem OutFormed.execShdn {a b : BitVec 5} {s : State} (h : Formed κ s) : OutFormed κ (execShdn a b s) := by
  unfold Machine.execShdn
  refine .runSq h ?_
  intro a1 x h1
  refine h1.supervisorOnly ?_
  refine .fenced ?_ h1
  intro a2 a_11 h2
  extract_lets q va part
  refine h2.takeTrap.ite ?_
  refine h2.stayWithin.ite ?_
  split
  · exact h2.shootDown.retire

theorem Formed.mapEntries {s : State} {part at_ n : Nat} {f : Nat → DWord → DWord} (h : Formed κ s) : Formed κ (mapEntries s part at_ n f) :=
  h.foldl (fun _ _ h1 => h1.ite h1.commitBytes)

theorem Formed.sealLeaf {part : Nat} {s : State} {w : Walked} (h : Formed κ s) : Formed κ (sealLeaf part s w) := h.mapEntries

theorem Formed.sealLeaves {s : State} {part a n : Nat} {l : List Walked} (h : Formed κ s) : Formed κ (sealLeaves s part a n l) := by
  unfold Machine.sealLeaves
  extract_lets s1 s2 s3 s4 s5 digest
  have h1 : Formed κ s1 := h.foldl (fun s6 b h1 => h1.sealLeaf)
  have h2 : Formed κ s2 := h1
  have h3 : Formed κ s3 := h2.modPart
  have h4 : Formed κ s4 := h3.shootDown
  have h5 : Formed κ s5 := h4.abortWhere
  clear_value s1 s2 s3 s4 s5
  exact h5.modPart

theorem OutFormed.execSealRange {d a b : BitVec 5} {s : State} (h : Formed κ s) : OutFormed κ (execSealRange d a b s) := by
  unfold Machine.execSealRange
  refine .runSq h ?_
  intro a1 x h1
  refine h1.supervisorOnly ?_
  refine .fenced ?_ h1
  intro a2 a_11 h2
  extract_lets q part va n
  split
  · exact h2.stayWithin.ite h2.sealLeaves.retireG
  · exact h2.retireG

theorem Formed.passDebug {a : BitVec 5} {resume : Bool} {s : State} {k : BitVec 6} (h : Formed κ s) : Formed κ (passDebug a resume s k) := by
  unfold Machine.passDebug
  refine h.supervisorOnly ?_
  extract_lets q addr s1 r
  have h1 : Formed κ s1 := h.blockWrite
  clear_value s1
  split
  · exact h.takeTrap
  · exact h1.modPlat.retire.serveAll

theorem OutFormed.execMark {a : BitVec 5} {s : State} (h : Formed κ s) : OutFormed κ (execMark a s) := .runSq h (fun _ _ h1 => h1.passDebug)

theorem OutFormed.execRsm {a : BitVec 5} {s : State} (h : Formed κ s) : OutFormed κ (execRsm a s) := .runSq h (fun _ _ h1 => h1.passDebug)

end Sys2Proof.Proofs

namespace Sys2Proof.Proofs
open Sys2Proof.Machine

/-! # The form of the machine: platform -/

variable {κ : Form}

/-! ## Engines (Machine/Engine.lean) -/

theorem Formed.engXlat {s : State} {part : Nat} {i : Intent} {l : List (Nat × Nat)} (h : Formed κ s) : Formed κ (engXlat s part i l).1 := by
  induction l generalizing s with
  | nil => exact h
  | cons b l ih =>
    obtain ⟨va, n⟩ := b
    unfold Machine.engXlat
    extract_lets here
    have hhere : Formed κ here.1 := by
      unfold here
      split
      · split
        · exact h.peerRequest.of_pair ‹_›
        · exact h.peerRequest.of_pair ‹_›
      · split
        · exact h.translate.of_pair ‹_›
        · exact h.translate.of_pair ‹_›
        · exact .raiseFault (h.translate.of_pair ‹_›)
        · exact h.translate.of_pair ‹_›
    clear_value here
    split
    · exact hhere
    · split
      · exact (ih hhere).of_pair ‹_›
      · exact (ih hhere).of_pair ‹_›

theorem Formed.engVirt {s : State} {part va n : Nat} {i : Intent} (h : Formed κ s) : Formed κ (engVirt s part va n i).1 := h.iteFst h.engXlat

theorem Formed.engRange {s : State} {part a n : Nat} {i : Intent} (h : Formed κ s) : Formed κ (engRange s part a n i).1 := h.engVirt.iteFst (h.iteFst h)

theorem Formed.spadBytes {s : State} {site : SiteNo} {off n : Nat} (h : Formed κ s) : Formed κ (spadBytes s site off n).1 := by
  unfold Machine.spadBytes
  extract_lets lines r
  have hr : Formed κ r.1 := by
    unfold r
    refine h.foldlFst ?_
    intro x b h1
    split
    · exact h1.readSpad.of_pair ‹_›
  clear_value r
  exact hr

theorem Formed.freeBytes {s : State} {n : Nat} (h : Formed κ s) : Formed κ (freeBytes s n).1 := h

theorem Formed.engRead {s : State} {l : List EngPiece} (h : Formed κ s) : Formed κ (engRead s l).1 := by
  induction l generalizing s with
  | nil =>
    rw [Machine.engRead]
    exact h
  | cons b l ih =>
    unfold Machine.engRead
    extract_lets here
    have hhere : Formed κ here.1 := by
      unfold here
      split
      · exact h.touch
      · exact h.spadBytes
      · split
        · exact h.freeBytes.of_pair ‹_›
    clear_value here
    split
    · exact hhere
    · split
      · exact (ih hhere).of_pair ‹_›
      · exact (ih hhere).of_pair ‹_›

theorem Formed.engCommit {s : State} {part pa : Nat} {l : List Byte} (h : Formed κ s) : Formed κ (engCommit s part pa l) := by
  unfold Machine.engCommit
  split
  · exact h.unitWrite
  · exact h.commitBytes

theorem Formed.engWrite {s : State} {part : Nat} {l : List EngPiece} {l1 : List Byte} (h : Formed κ s) : Formed κ (engWrite s part l l1).1 := by
  induction l generalizing s part l1 with
  | nil =>
    rw [Machine.engWrite]
    exact h
  | cons b l ih =>
    unfold Machine.engWrite
    split
    · exact ih h.engCommit
    · extract_lets r
      have hr : Formed κ r.1 := by
        unfold r
        refine h.foldlFst ?_
        intro x b h1
        split
        · exact h1.writeSpad.of_pair ‹_›
      clear_value r
      exact (ih hr).iteFst hr
    · exact ih h

theorem Formed.countStall {s : State} {b : BitVec 6} {q : BitVec 4} {k : Nat} (h : Formed κ s) : Formed κ (countStall s b q k) := h

theorem Formed.engFinish {s : State} {b : BitVec 6} {q : BitVec 4} {st : Nat} (h : Formed κ s) : Formed κ (engFinish s b q st) := h.setEngine

theorem Formed.engStop {s : State} {b : BitVec 6} {q : BitVec 4} {e : EngStop} (h : Formed κ s) : Formed κ (engStop s b q e) := by
  unfold Machine.engStop
  split
  · exact h.engFinish
  · exact h.setEngine.countStall
  · exact h.countStall
  · exact h

theorem Formed.engResume {s : State} {b : BitVec 6} {q : BitVec 4} {part : Nat} (h : Formed κ s) : Formed κ (engResume s b q part).1 := by
  unfold Machine.engResume
  split
  · exact h
  · split
    · exact h
    · extract_lets s1 _ s2
      have h1 : Formed κ s1 := h.dropFault
      have h2 : Formed κ s2 := h1.setEngine
      clear_value s1 s2
      exact h2

theorem Formed.engCommand {s : State} {b : BitVec 6} {q : BitVec 4} {part : Nat} (h : Formed κ s) : Formed κ (engCommand s b q part).1 := by
  rw [Machine.engCommand]
  split
  · exact h.engVirt.of_pair ‹_›
  · split
    · refine .of_pair ?_ ‹_›
      exact .engRead (h.engVirt.of_pair ‹_›)
    · refine .of_pair ?_ ‹_›
      exact .engRead (h.engVirt.of_pair ‹_›)

/-- What an engine's command leaves, whatever its operation does. -/
theorem OutFormed.runEngine {op : Instr} {n : Nat} {s : State} {f : State → Nat → List Nat → State × Except EngStop Nat} (h : Formed κ s)
    (hf : ∀ s part l, Formed κ s → Formed κ (f s part l).1) : OutFormed κ (runEngine op n s f) := by
  obtain ⟨resume, hresume, hr⟩ : ∃ g, Machine.engResume = g ∧ ∀ s b q p, Formed κ s → Formed κ (g s b q p).1 :=
    ⟨_, rfl, fun _ _ _ _ h => h.engResume⟩
  obtain ⟨command, hcommand, hc⟩ : ∃ g, Machine.engCommand = g ∧ ∀ s b q p, Formed κ s → Formed κ (g s b q p).1 :=
    ⟨_, rfl, fun _ _ _ _ h => h.engCommand⟩
  rw [Machine.runEngine, hresume, hcommand]
  split
  · refine .ite (.next h) ?_
    split
    · exact .next (Formed.of_pair (hr _ _ _ _ h) ‹_›).engStop
    · have hn := Formed.of_pair (hr _ _ _ _ h) ‹_›
      split
      · exact .next (Formed.of_pair (hc _ _ _ _ hn) ‹_›).engStop
      · have hm := Formed.of_pair (hc _ _ _ _ hn) ‹_›
        refine .ite (.next hm.engFinish) ?_
        split
        · exact .next (Formed.of_pair (hf _ _ _ hm) ‹_›).engStop
        · exact .next (Formed.of_pair (hf _ _ _ hm) ‹_›).engFinish
  · exact .refused

theorem Formed.engMoved {s : State} {total hi st : Nat} (h : Formed κ s) : Formed κ (engMoved s total hi st).1 := by
  unfold Machine.engMoved
  split
  · exact h.setEngine.iteFst h
  · exact h

theorem Formed.engMove {s : State} {part src n dst m : Nat} {f : State → List Byte → State × List Byte} (h : Formed κ s) (hf : ∀ (u : State)
    (x : List Byte), Formed κ u → Formed κ (f u x).1) : Formed κ (engMove s part src n dst m f).1 := by
  unfold Machine.engMove
  split
  · exact h.engRange.of_pair ‹_›
  · split
    · refine .of_pair ?_ ‹_›
      exact .engRange (h.engRange.of_pair ‹_›)
    · split
      · refine .of_pair ?_ ‹_›
        refine .engRead ?_
        refine .of_pair ?_ ‹_›
        exact .engRange (h.engRange.of_pair ‹_›)
      · split
        · split
          · refine .of_pair ?_ ‹_›
            refine .engWrite ?_
            refine .of_pair ?_ ‹_›
            refine hf _ _ ?_
            refine .of_pair ?_ ‹_›
            refine .engRead ?_
            refine .of_pair ?_ ‹_›
            exact .engRange (h.engRange.of_pair ‹_›)

theorem Formed.engCopy {s : State} {part src n dst : Nat} {f : Nat → State → List Byte → State × List Byte} (h : Formed κ s) (hf : ∀ (u : Nat)
    (x : State) (y : List Byte), Formed κ x → Formed κ (f u x y).1) : Formed κ (engCopy s part src n dst f).1 := by
  unfold Machine.engCopy
  split
  · exact h.engRange.of_pair ‹_›
  · split
    · refine .of_pair ?_ ‹_›
      exact .engRange (h.engRange.of_pair ‹_›)
    · extract_lets total
      split
      · extract_lets from_ upto
        split
        · refine .of_pair ?_ ‹_›
          refine .engRead ?_
          refine .of_pair ?_ ‹_›
          exact .engRange (h.engRange.of_pair ‹_›)
        · split
          · split
            · refine .engMoved ?_
              refine .of_pair ?_ ‹_›
              refine .engWrite ?_
              refine .of_pair ?_ ‹_›
              refine hf _ _ _ ?_
              refine .of_pair ?_ ‹_›
              refine .engRead ?_
              refine .of_pair ?_ ‹_›
              exact .engRange (h.engRange.of_pair ‹_›)

theorem Formed.copyOverlap {src dst n at_ : Nat} {s : State} {l : List Byte} (h : Formed κ s) : Formed κ (copyOverlap src dst n at_ s l).1 := by
  unfold Machine.copyOverlap
  refine .iteFst ?_ h
  split
  · exact h.freeBytes.of_pair ‹_›

theorem OutFormed.execCopy {s : State} (h : Formed κ s) : OutFormed κ (execCopy s) :=
  .runEngine h (fun _ _ _ h1 => h1.engCopy (fun _ _ _ h2 => h2.copyOverlap))

theorem Formed.engLines {s : State} {part : Nat} {i : Intent} {l : List Nat} (h : Formed κ s) : Formed κ (engLines s part i l).1 := by
  induction l generalizing s part i with
  | nil =>
    rw [Machine.engLines]
    exact h
  | cons b l ih =>
    rw [Machine.engLines]
    split
    · exact h.engRange.of_pair ‹_›
    · split
      · refine .of_pair ?_ ‹_›
        exact ih (h.engRange.of_pair ‹_›)
      · refine .of_pair ?_ ‹_›
        exact ih (h.engRange.of_pair ‹_›)

theorem Formed.copyBlocks {n : Nat} {s : State} {part : Nat} {o : List Nat} (h : Formed κ s) : Formed κ (copyBlocks n s part o).1 := by
  unfold Machine.copyBlocks
  extract_lets src dst ps pd count
  refine h.iteFst ?_
  split
  · exact h.engLines.of_pair ‹_›
  · split
    · refine .of_pair ?_ ‹_›
      exact .engLines (h.engLines.of_pair ‹_›)
    · split
      · extract_lets at_ size
        split
        · refine .of_pair ?_ ‹_›
          refine .engRead ?_
          refine .of_pair ?_ ‹_›
          exact .engLines (h.engLines.of_pair ‹_›)
        · extract_lets rows out
          split
          · refine .engMoved ?_
            refine .of_pair ?_ ‹_›
            refine .engWrite ?_
            refine .of_pair ?_ ‹_›
            refine .engRead ?_
            refine .of_pair ?_ ‹_›
            exact .engLines (h.engLines.of_pair ‹_›)

theorem OutFormed.execCopyT8 {s : State} (h : Formed κ s) : OutFormed κ (execCopyT8 s) := .runEngine h (fun _ _ _ h1 => h1.copyBlocks)

theorem OutFormed.execCopyT16 {s : State} (h : Formed κ s) : OutFormed κ (execCopyT16 s) := .runEngine h (fun _ _ _ h1 => h1.copyBlocks)

theorem OutFormed.execFill {s : State} (h : Formed κ s) : OutFormed κ (execFill s) := by
  unfold Machine.execFill
  refine .runEngine h ?_
  intro s1 part l h1
  extract_lets n pattern total
  split
  · exact h1.engRange.of_pair ‹_›
  · split
    · extract_lets upto
      split
      · refine .engMoved ?_
        refine .of_pair ?_ ‹_›
        exact .engWrite (h1.engRange.of_pair ‹_›)

theorem Formed.collective {c : Collective} {s : State} {part : Nat} {o : List Nat} (h : Formed κ s) : Formed κ (collective c s part o).1 := by
  unfold Machine.collective
  extract_lets count fmt members each n
  refine h.iteFst ?_
  split
  · exact h.engRange.of_pair ‹_›
  · split
    · refine .of_pair ?_ ‹_›
      exact .engRead (h.engRange.of_pair ‹_›)
    · refine .iteFst ?_ ?_
      · split
        · refine .of_pair ?_ ‹_›
          refine .engWrite ?_
          refine .of_pair ?_ ‹_›
          exact .engRead (h.engRange.of_pair ‹_›)
      · refine .iteFst ?_ ?_
        · refine .takeFree ?_
          refine .of_pair ?_ ‹_›
          exact .engRead (h.engRange.of_pair ‹_›)
        · split
          · split
            · refine .of_pair ?_ ‹_›
              refine .engWrite ?_
              refine .of_pair ?_ ‹_›
              refine .freeBytes ?_
              refine .takeFree ?_
              refine .of_pair ?_ ‹_›
              exact .engRead (h.engRange.of_pair ‹_›)

theorem OutFormed.execAllReduce {s : State} (h : Formed κ s) : OutFormed κ (execAllReduce s) := .runEngine h (fun _ _ _ h1 => h1.collective)

theorem OutFormed.execBroadcast {s : State} (h : Formed κ s) : OutFormed κ (execBroadcast s) := .runEngine h (fun _ _ _ h1 => h1.collective)

theorem OutFormed.execAllGather {s : State} (h : Formed κ s) : OutFormed κ (execAllGather s) := .runEngine h (fun _ _ _ h1 => h1.collective)

theorem OutFormed.execSha512 {s : State} (h : Formed κ s) : OutFormed κ (execSha512 s) := .runEngine h (fun _ _ _ h1 => h1.engMove (fun _ _ h2 => h2))

theorem OutFormed.execRsaVerify {s : State} (h : Formed κ s) : OutFormed κ (execRsaVerify s) := by
  unfold Machine.execRsaVerify
  refine .runEngine h ?_
  intro s1 part l h1
  split
  · exact h1.engRange.of_pair ‹_›
  · split
    · refine .of_pair ?_ ‹_›
      exact .engRange (h1.engRange.of_pair ‹_›)
    · split
      · refine .of_pair ?_ ‹_›
        refine .engRange ?_
        refine .of_pair ?_ ‹_›
        exact .engRange (h1.engRange.of_pair ‹_›)
      · split
        · refine .of_pair ?_ ‹_›
          refine .engRead ?_
          refine .of_pair ?_ ‹_›
          refine .engRange ?_
          refine .of_pair ?_ ‹_›
          exact .engRange (h1.engRange.of_pair ‹_›)
        · extract_lets key good
          refine .of_pair ?_ ‹_›
          refine .engRead ?_
          refine .of_pair ?_ ‹_›
          refine .engRange ?_
          refine .of_pair ?_ ‹_›
          exact .engRange (h1.engRange.of_pair ‹_›)

theorem Formed.abortHolders {s : State} {pa size : Nat} (h : Formed κ s) : Formed κ (abortHolders s pa size) := h.abortWhere

theorem OutFormed.execMigrate {s : State} (h : Formed κ s) : OutFormed κ (execMigrate s) := by
  unfold Machine.execMigrate
  refine .runEngine h ?_
  intro s1 part l h1
  extract_lets va tier s2
  have h2 : Formed κ s2 := h1.takeFree
  clear_value s2
  refine h1.iteFst ?_
  refine h1.iteFst ?_
  split
  · split
    · split
      · refine .of_pair ?_ ‹_›
        exact .raiseFault (h1.translate.of_pair ‹_›)
    · exact h1.translate.of_pair ‹_›
    · exact h1.translate.of_pair ‹_›
    · exact h1.translate.of_pair ‹_›
  · extract_lets place
    refine h2.iteFst ?_
    refine h2.iteFst ?_
    clear_value place
    split
    · exact h2
    · refine h2.iteFst ?_
      split
      · extract_lets s3 s4 s5
        have h3 : Formed κ s3 := h2.mapEntries
        have h4 : Formed κ s4 := h3.shootDown
        have h5 : Formed κ s5 := h4.abortHolders
        clear_value s3 s4 s5
        split
        · exact h5.setEngine
        · exact h5

theorem Formed.moveSeals {s : State} {part pa dst size : Nat} (h : Formed κ s) : Formed κ (moveSeals s part pa dst size) := by
  unfold Machine.moveSeals
  extract_lets old s1
  have h1 : Formed κ s1 := h
  clear_value s1
  exact h1.modPart.ite h

theorem Formed.copyFrame {s : State} {part pa dst size : Nat} (h : Formed κ s) : Formed κ (copyFrame s part pa dst size) := h.commitBytes

theorem OutFormed.execMigrationCopyDone {blk : BitVec 6} {q : BitVec 4} {s : State} (h : Formed κ s) : OutFormed κ (execMigrationCopyDone blk q s) := by
  unfold Machine.execMigrationCopyDone
  extract_lets e part
  refine .next ?_
  split
  · exact h
  · refine h.ite ?_
    extract_lets n u same done s1 s2
    have hdone : ∀ (s : State) (st : Byte), Formed κ s → Formed κ (done s st) := by
      unfold done
      intro s3 st h1
      extract_lets s4
      have h4 : Formed κ s4 := h1.shootDown
      clear_value s4
      exact h4.setEngine
    have h1 : Formed κ s1 := h.copyFrame
    have h2 : Formed κ s2 := h1.mapEntries
    clear_value done s1 s2
    exact (hdone _ _ h).ite ((hdone _ _ h.mapEntries).ite (hdone _ _ h2.moveSeals))

theorem Formed.engDone {s : State} {b : BitVec 6} {q : BitVec 4} {header : DWord} {st : Nat} (h : Formed κ s) : Formed κ (engDone s b q header st) := by
  unfold Machine.engDone
  extract_lets e word s1
  have h1 : Formed κ s1 := h.setEngine
  clear_value s1
  exact h1.postEvent.ite h1

theorem OutFormed.execEngineComplete {b : BitVec 6} {q : BitVec 4} {s : State} (h : Formed κ s) : OutFormed κ (execEngineComplete b q s) := by
  obtain ⟨resume, hresume, hr⟩ : ∃ g, Machine.engResume = g ∧ ∀ s p, Formed κ s → Formed κ (g s b q p).1 := ⟨_, rfl, fun _ _ h => h.engResume⟩
  obtain ⟨virt, hvirt, hv⟩ : ∃ g, Machine.engVirt = g ∧ ∀ s p a n i, Formed κ s → Formed κ (g s p a n i).1 :=
    ⟨_, rfl, fun _ _ _ _ _ h => h.engVirt⟩
  rw [Machine.execEngineComplete, hresume, hvirt]
  refine .next ?_
  split
  · exact h
  · refine .ite h.countStall ?_
    extract_lets header
    clear_value header
    split
    · exact .engDone (Formed.of_pair (hr _ _ h) ‹_›)
    · exact .countStall (Formed.of_pair (hr _ _ h) ‹_›)
    · have hn := Formed.of_pair (hr _ _ h) ‹_›
      split
      · have hm := Formed.of_pair (hv _ _ _ _ _ hn) ‹_›
        exact .engDone (.engWrite (s := { (_ : State) with focus := .engine b q }) hm)
      · exact .setEngine (Formed.of_pair (hv _ _ _ _ _ hn) ‹_›)
      · exact .engDone (Formed.of_pair (hv _ _ _ _ _ hn) ‹_›)
      · exact Formed.of_pair (hv _ _ _ _ _ hn) ‹_›

theorem Formed.engineNext {s : State} {b : BitVec 6} {q : BitVec 4} (h : Formed κ s) : Formed κ (engineNext s b q).1 := by
  obtain ⟨resume, hresume, hr⟩ : ∃ g, Machine.engResume = g ∧ ∀ s p, Formed κ s → Formed κ (g s b q p).1 := ⟨_, rfl, fun _ _ h => h.engResume⟩
  obtain ⟨command, hcommand, hc⟩ : ∃ g, Machine.engCommand = g ∧ ∀ s p, Formed κ s → Formed κ (g s b q p).1 := ⟨_, rfl, fun _ _ h => h.engCommand⟩
  rw [Machine.engineNext, hresume, hcommand]
  split
  · exact h
  · exact .iteFst h.countStall.setEngine h.countStall.countStall
  · refine .iteFst h.countStall.countStall (.iteFst h.countStall ?_)
    extract_lets part
    have hn : Formed κ (resume (Machine.countStall s b q 0) b q part).1 := hr _ _ h.countStall
    split
    · exact (Formed.of_pair hn ‹_›).engStop
    · have hm := hc _ part (Formed.of_pair hn ‹_›)
      split
      · exact (Formed.of_pair hm ‹_›).engStop
      · split
        · exact Formed.of_pair hm ‹_›
        · exact (Formed.of_pair hm ‹_›).engFinish

/-! ## Residency (Machine/Evict.lean) -/

theorem Formed.evict {s : State} {part : Nat} {w : Walked} {dst : Nat} (h : Formed κ s) : Formed κ (evict s part w dst) := by
  unfold Machine.evict
  split
  · extract_lets s1 s2 s3
    have h1 : Formed κ s1 := h.takeFree.mapEntries.shootDown
    have h2 : Formed κ s2 := h1.abortHolders.copyFrame
    have h3 : Formed κ s3 := h2.mapEntries
    clear_value s1 s2 s3
    exact h3.moveSeals.shootDown

theorem Formed.answerFault {s : State} {part : Nat} {f : PageFault} {status : Nat} (h : Formed κ s) : Formed κ (answerFault s part f status) := by
  unfold Machine.answerFault
  extract_lets p s1 s2
  have h1 : Formed κ s1 := h.firmwareWrite
  have h2 : Formed κ s2 := h1.withTasks (h1.tasks.map (fun t ht => .ite ht ht))
  clear_value s1 s2
  exact h2.setPart

theorem OutFormed.execResumeDoorbell {part : BitVec 8} {fseq : BitVec 32} {status : BitVec 16} {s : State} (h : Formed κ s) :
    OutFormed κ (execResumeDoorbell part fseq status s) := by
  unfold Machine.execResumeDoorbell
  extract_lets n
  refine .next ?_
  split
  · exact h
  · split
    · exact h.evict.answerFault.ite h
    · exact h.answerFault
    · exact h.answerFault
    · exact h.answerFault
    · exact h.answerFault
    · exact h

/-! ## The host (Machine/Host.lean) -/

theorem Formed.setPlatState {s : State} {n : BitVec 3} (h : Formed κ s) : Formed κ (setPlatState s n) := h.ite h.modPlat.sendMsi

theorem Formed.answerHost {s : State} {a : HostAnswer} (h : Formed κ s) : Formed κ (answerHost s a) := h.modPlat

theorem Formed.refuseHost {s : State} {r : HostReq} (h : Formed κ s) : Formed κ (refuseHost s r) := h.log.ite h.answerHost

theorem Formed.tryHost {s : State} {r : HostReq} (h : Formed κ s) : Formed κ (tryHost s r).1 := by
  unfold Machine.tryHost
  extract_lets i
  split
  · refine .iteFst ?_ (.answerHost (.foldl (h.translateRange.of_pair ‹_›) (fun s1 b h1 => h1.touch)))
    extract_lets w
    have hw : Formed κ w.1 := .foldlFst (h.translateRange.of_pair ‹_›) (fun x b h1 => h1.commitBytes)
    clear_value w
    exact hw.ite hw.answerHost
  · exact h.translateRange.of_pair ‹_›
  · split
    · refine .of_pair ?_ ‹_›
      exact .raiseFault (h.translateRange.of_pair ‹_›)
  · exact .refuseHost (h.translateRange.of_pair ‹_›)

theorem Formed.startHost {s : State} {r : HostReq} (h : Formed κ s) : Formed κ (startHost s r) := by
  unfold Machine.startHost
  extract_lets wait
  have hwait : ∀ (s : State) (n : Nat), Formed κ s → Formed κ (wait s n) := fun s1 n h1 => h1.modPlat
  clear_value wait
  refine (hwait _ _ h).ite ?_
  split
  · exact h.tryHost.of_pair ‹_›
  · exact hwait _ _ (h.tryHost.of_pair ‹_›)

theorem Formed.serveHost {s : State} {l : List HostReq} (h : Formed κ s) : Formed κ (serveHost s l) := by
  induction l generalizing s with
  | nil =>
    rw [Machine.serveHost]
    exact h
  | cons b l ih =>
    rw [Machine.serveHost]
    refine (ih h).ite ?_
    refine .ite ?_ ?_
    · refine ih ?_
      beta_reduce
      split
      · exact .modPlat (h.tryHost.of_pair ‹_›)
      · exact .modPlat (h.tryHost.of_pair ‹_›)
    · split
      · exact ih h
      · refine ih ?_
        beta_reduce
        split
        · exact .modPlat (h.dropFault.tryHost.of_pair ‹_›)
        · exact .modPlat (h.dropFault.tryHost.of_pair ‹_›)
      · exact ih h.dropFault.modPlat.refuseHost

theorem Formed.hostRequest {s : State} {off : BitVec 36} {data : List Byte} {len : Nat} {write posted : Bool} (h : Formed κ s) :
    Formed κ (hostRequest s off data len write posted) := by
  unfold Machine.hostRequest
  extract_lets r
  split
  · exact h.refuseHost
  · exact h.startHost

theorem OutFormed.execHostWindowWrite {off : BitVec 36} {data : List (BitVec 8)} {posted : Bool} {s : State} (h : Formed κ s) :
    OutFormed κ (execHostWindowWrite off data posted s) :=
  .next h.hostRequest

theorem OutFormed.execHostWindowRead {off : BitVec 36} {len : Nat} {s : State} (h : Formed κ s) : OutFormed κ (execHostWindowRead off len s) :=
  .next h.hostRequest

theorem OutFormed.execHostRequestTimeout {s : State} (h : Formed κ s) : OutFormed κ (execHostRequestTimeout s) := by
  unfold Machine.execHostRequestTimeout
  refine .next ?_
  split
  · exact h
  · exact h.modPlat.answerHost

theorem Formed.writeQueueCtl {s : State} {q : BitVec 12} {v : DWord} (h : Formed κ s) : Formed κ (writeQueueCtl s q v) := by
  unfold Machine.writeQueueCtl
  extract_lets x en s1
  have h1 : Formed κ s1 := h.modQueue
  clear_value s1
  exact h1.modQueue.ite h1.modQueue

theorem Formed.writePwrcap {s : State} {v : DWord} (h : Formed κ s) : Formed κ (writePwrcap s v) := by
  unfold Machine.writePwrcap
  extract_lets
  exact h.modPlat.ite h.log

theorem Formed.writePxfq {s : State} {part : Nat} {v : DWord} (h : Formed κ s) : Formed κ (writePxfq s part v) := by
  unfold Machine.writePxfq
  extract_lets x s1
  have h1 : Formed κ s1 := h.modPart
  clear_value s1
  exact h1.postFaults

theorem Formed.writeReg {s : State} {reg : PlatReg} {v : DWord} (h : Formed κ s) : Formed κ (writeReg s reg v) := by
  unfold Machine.writeReg
  extract_lets x base
  split
  · exact h.writeQueueCtl
  · exact h.modQueue
  · exact h.ite h.modQueue
  · exact h.modQueue
  · exact h
  · exact h.modPlat.ite h
  · exact h.modQueue
  · exact h.writePwrcap
  · exact h.modPlat
  · exact h.modPart
  · exact h.writePxfq
  · exact h.modPart
  · exact h.modPart
  · exact h.modPart
  · exact h.modPlat
  · exact h.modPlat.ite h
  · exact h

theorem OutFormed.execRegisterWrite {reg : PlatReg} {v : BitVec 64} {s : State} (h : Formed κ s) : OutFormed κ (execRegisterWrite reg v s) := .next h.writeReg

theorem OutFormed.execTimeSync {master : BitVec 64} {s : State} (h : Formed κ s) : OutFormed κ (execTimeSync master s) := by
  unfold Machine.execTimeSync
  extract_lets
  exact .next (.modPlat h)

theorem OutFormed.execSynclost {s : State} (h : Formed κ s) : OutFormed κ (execSynclost s) := .next (h.modPlat.ite h)

theorem OutFormed.execSensorPoll {hot : BitVec 4} {s : State} (h : Formed κ s) : OutFormed κ (execSensorPoll hot s) := .next h.modPlat

theorem OutFormed.execPowerWindow {watts : BitVec 12} {s : State} (h : Formed κ s) : OutFormed κ (execPowerWindow watts s) := .next h.modPlat

theorem Formed.retireTile {s : State} {site : SiteNo} (h : Formed κ s) : Formed κ (retireTile s site) := .modPlat (.log (h.modSite (fun _ hr => hr)))

theorem Formed.replanDie {die : BitVec 2} {offset : BitVec 8} {margin : BitVec 16} {tiles : List (BitVec 13)} {s : State} (h : Formed κ s) :
    Formed κ (replanDie die offset margin tiles s) := by
  unfold Machine.replanDie
  extract_lets
  exact h.modPlat.foldl (fun s1 b h1 => h1.retireTile)

theorem OutFormed.execGuardbandReplan {die : BitVec 2} {offset : BitVec 8} {margin : BitVec 16} {tiles : List (BitVec 13)} {s : State}
    (h : Formed κ s) : OutFormed κ (execGuardbandReplan die offset margin tiles s) :=
  .next h.replanDie

theorem Formed.replanAll {s : State} (h : Formed κ s) : Formed κ (replanAll s) := h.foldl (fun _ _ h1 => h1.takeFree.replanDie)

/-! ## The mesh (Machine/Mesh.lean) -/

theorem Formed.brkHit {s : State} {site : SiteNo} {ctx : BitVec 2} {d : Nat} {t : Token} (h : Formed κ s) : Formed κ (brkHit s site ctx d t) := by
  unfold Machine.brkHit
  extract_lets ea s1 _ s2
  have h1 : Formed κ s1 := h.modElem (fun e he => he)
  have h2 : Formed κ s2 := h1.raiseRecord.traceEvent
  clear_value s1 s2
  split
  · exact h2.beginCut
  · exact h2

theorem Formed.misroute {s : State} {site : SiteNo} {ctx : BitVec 2} {d : Nat} {t : Token} {rsv : Bool} (h : Formed κ s) :
    Formed κ (misroute s site ctx d t rsv) := by
  unfold Machine.misroute
  extract_lets s1
  have h1 : Formed κ s1 := h.modSite (fun r hr => hr)
  clear_value s1
  exact h1.loggedRecord

theorem Formed.arrivalCheck {s : State} {site : SiteNo} {ctx : BitVec 2} {d : Nat} {t : Token} (h : Formed κ s) :
    Formed κ (arrivalCheck s site ctx d t).1 := by
  unfold Machine.arrivalCheck
  extract_lets
  exact h.misroute.iteFst h

theorem Formed.arriveData {s : State} {site : SiteNo} {ctx : BitVec 2} {d : Nat} {t : Token} (h : Formed κ s) : Formed κ (arriveData s site ctx d t) := by
  unfold Machine.arriveData
  split
  · split
    · extract_lets counts s1
      have h1 : Formed κ s1 := by
        unfold s1
        refine .modElem ?_ (fun e he => .ite he he)
        refine .of_pair ?_ ‹_›
        exact .receiveToken (h.arrivalCheck.of_pair ‹_›)
      clear_value s1
      exact h1.deliverData

theorem Formed.countOthers {s : State} {m : SiteNo} {o : Nat} {ctx : BitVec 2} (h : Formed κ s) : Formed κ (countOthers s m o ctx) :=
  h.foldl (fun _ _ h1 => h1.ite (h1.modElem (fun _ he => he.ite he.countSlot)))

theorem Formed.passHit {s : State} {site : SiteNo} {ctx : BitVec 2} {d : Nat} (h : Formed κ s) : Formed κ (passHit s site ctx d) := h.modElem (fun _ he => he)

theorem Formed.arriveDataAt {s : State} {site m : SiteNo} {ctx : BitVec 2} {d : Nat} (h : Formed κ s) : Formed κ (arriveDataAt s site m ctx d) := by
  unfold Machine.arriveDataAt
  extract_lets o p r b room pop across
  have hp : ElemFormed κ p := h.elem
  have hr : ElemFormed κ r := h.elem
  have hpop : ∀ (s : State), Formed κ s → Formed κ (pop s) := fun s1 h1 => .countOthers (h1.modElem (fun e he => .countSlot he))
  have hacross : ∀ (t : Token) (f : State → State), (∀ (u : State), Formed κ u → Formed κ (f u)) → Formed κ (across t f) := by
    unfold across
    intro t f hx
    extract_lets x
    have hx1 : Formed κ x.1 := h.crossLink
    clear_value x
    exact (hx _ (hpop _ hx1)).ite hx1
  clear_value p r pop across
  refine h.ite ?_
  split
  · exact .ite (.arriveData (h.modElem (fun e he => he.setQueue))) h
  · exact h
  · exact h.ite (.ite (.ite (hacross _ _ (fun s1 h1 => h1.arriveData.passHit)) h) (hacross _ _ (fun s1 h1 => h1.modElem (fun e he => he.setQueue))))
  · exact h.brkHit.ite (.ite (hacross _ _ (fun s1 h1 => h1.arriveData)) (h.modElem (fun e he => he.countSlot)))

theorem Formed.arriveCtlAt {s : State} {site m : SiteNo} {ctx : BitVec 2} {d : Nat} (h : Formed κ s) : Formed κ (arriveCtlAt s site m ctx d) := by
  unfold Machine.arriveCtlAt
  extract_lets o p r x
  have hp : ElemFormed κ p := h.elem
  have hr : ElemFormed κ r := h.elem
  have hx : Formed κ x.1 := h.crossLink
  clear_value p r x
  split
  · exact h
  · exact .ite (.ite (.deliverCtl (hx.modElem (fun e he => he))) hx) h

theorem Formed.arriveAt {s : State} {site m : SiteNo} {ctx : BitVec 2} {d : Nat} {ctl : Bool} (h : Formed κ s) : Formed κ (arriveAt s site m ctx d ctl) :=
  h.arriveCtlAt.ite h.arriveDataAt

theorem OutFormed.execTokenArrive {site : BitVec 13} {dir ctx : BitVec 2} {ctl : Bool} {s : State} (h : Formed κ s) :
    OutFormed κ (execTokenArrive site dir ctx ctl s) := by
  unfold Machine.execTokenArrive
  refine .ite ?_ .fault
  refine .next ?_
  split
  · exact h
  · extract_lets t
    have ht : Formed κ t := h.arriveAt
    clear_value t
    exact .ite (ht.modSite (fun r hr => hr)) ht

theorem OutFormed.execFlitReceive {link : BitVec 8} {flit : Flit} {s : State} (h : Formed κ s) : OutFormed κ (execFlitReceive link flit s) := by
  unfold Machine.execFlitReceive
  extract_lets
  exact .next (h.ite h.setLink)

theorem OutFormed.execFlitRetransmit {link : BitVec 8} {s : State} (h : Formed κ s) : OutFormed κ (execFlitRetransmit link s) := by
  unfold Machine.execFlitRetransmit
  extract_lets k l s1 src
  have h1 : Formed κ s1 := h.setLink
  have hsrc : Formed κ src := h1.takeFree
  clear_value s1 src
  exact .next (h.ite (h.setLink.ite (h.setLink.ite (.ite hsrc h1))))

theorem Formed.loseFlits {s : State} (h : Formed κ s) : Formed κ (loseFlits s) := h.withEngines (.foldl .nil (fun _ _ hx => hx.set))

theorem OutFormed.execPortDown {port : BitVec 5} {s : State} (h : Formed κ s) : OutFormed κ (execPortDown port s) := by
  unfold Machine.execPortDown
  extract_lets l s1
  have h1 : Formed κ s1 := h.ite h.loseFlits
  clear_value s1
  exact .next (h.ite h1.setLink.log)

/-! ## Resets, recovery and mailboxes (Machine/Platform.lean) -/

theorem Formed.bootWith {s : State} {fw : Firmware} (h : Formed κ s) : Formed κ (bootWith s fw) := h.modPlat.setPlatState.replanAll.ite h.setPlatState

theorem SitesFormed.keptSites {s : State} (h : Formed κ s) : SitesFormed κ (keptSites s) := h.sites.rebuild .nil fun _ hp => hp.cleared

theorem Formed.resetDevice {s : State} (h : Formed κ s) : Formed κ (resetDevice s) := by
  unfold Machine.resetDevice
  extract_lets src
  have hsrc : Formed κ src := .reset
  clear_value src
  exact hsrc.withSites (.keptSites h)

theorem OutFormed.execDeviceReset {fw : Firmware} {s : State} (h : Formed κ s) : OutFormed κ (execDeviceReset fw s) := .next h.resetDevice.bootWith

theorem OutFormed.execSignedRecoveryImage {fw : Firmware} {s : State} (h : Formed κ s) : OutFormed κ (execSignedRecoveryImage fw s) :=
  .next (h.bootWith.ite h)

theorem Formed.freeLoader {s : State} {b : BitVec 6} (h : Formed κ s) : Formed κ (freeLoader s b) := by
  unfold Machine.freeLoader
  extract_lets
  exact h.withPorts (.foldl .nil (fun t b1 hx => hx.set))

theorem Formed.haltSq {s : State} {b : BitVec 6} (h : Formed κ s) : Formed κ (haltSq s b) := by
  unfold Machine.haltSq
  extract_lets s1
  have h1 : Formed κ s1 := h.withdraw.freeLoader.performAll
  clear_value s1
  exact h1.modSq

theorem Formed.startSq {s : State} {part : BitVec 8} {entry : DWord} {b : BitVec 6} (h : Formed κ s) : Formed κ (startSq s part entry b) := by
  unfold Machine.startSq
  extract_lets s1
  have h1 : Formed κ s1 := h.modSq
  clear_value s1
  exact h1.drainEvents

theorem OutFormed.execPartitionReset {part : BitVec 8} {s : State} (h : Formed κ s) : OutFormed κ (execPartitionReset part s) := by
  unfold Machine.execPartitionReset
  extract_lets s1
  have h1 : Formed κ s1 := h.foldl (fun s2 b h1 => h1.haltSq.setSq)
  clear_value s1
  exact .next h1.modPart

theorem Formed.zeroFill {s : State} {p : Nat → Bool} (h : Formed κ s) : Formed κ (zeroFill s p) := h.withDmem h.dmem.filter

theorem OutFormed.execPartitionDestroy {part : BitVec 8} {s : State} (h : Formed κ s) : OutFormed κ (execPartitionDestroy part s) := by
  unfold Machine.execPartitionDestroy
  extract_lets l s1
  have h1 : Formed κ s1 := h.zeroFill
  clear_value s1
  exact .next (.modPart h1)

theorem Formed.dumpAt {off : Nat} {l : List Byte} {s : State} (h : Formed κ s) : Formed κ (dumpAt off l s) := h.withDmem h.dmem.setBytes

theorem Formed.writeDump {s : State} {cause : Word} {ea : EAddr} {slots : List (Nat × List Byte)} (h : Formed κ s) :
    Formed κ (writeDump s cause ea slots) := by
  unfold Machine.writeDump
  extract_lets header s1 s2 s3 s4 s5 s6 s7 s8
  have h1 : Formed κ s1 := h.zeroFill
  have h2 : Formed κ s2 := h1.dumpAt
  have h3 : Formed κ s3 := h2.dumpAt
  have h4 : Formed κ s4 := h3.dumpAt
  have h5 : Formed κ s5 := h4.dumpAt
  have h6 : Formed κ s6 := h5.foldl (fun s9 b h6 => h6.dumpAt)
  have h7 : Formed κ s7 := h6.dumpAt
  have h8 : Formed κ s8 := h7.foldl (fun s9 b h8 => h8.dumpAt.ite h8)
  clear_value s1 s2 s3 s4 s5 s6 s7 s8
  split
  · extract_lets s9 live s10
    have h9 : Formed κ s9 := .dumpAt (h8.freeBytes.of_pair ‹_›)
    have h10 : Formed κ s10 := h9.foldl (fun s11 b h10 => h10.dumpAt.ite h10)
    clear_value s9 s10
    exact h10.dumpAt

theorem OutFormed.execFatalError {cause : BitVec 32} {ea : BitVec 16} {s : State} (h : Formed κ s) : OutFormed κ (execFatalError cause ea s) := by
  unfold Machine.execFatalError
  refine .ite .fault ?_
  extract_lets hit slots s1 s2
  have hhit : TasksFormed κ hit := h.tasks.filter
  have h1 : Formed κ s1 := h.foldl (fun s3 b h1 => h1.endWith)
  have h2 : Formed κ s2 := h1.log
  clear_value hit s1 s2
  exact .next h2.writeDump.setPlatState

theorem Formed.mailboxDone {s : State} {op status : Nat} (h : Formed κ s) : Formed κ (mailboxDone s op status) := by
  unfold Machine.mailboxDone
  extract_lets s1
  have h1 : Formed κ s1 := h.log.sendMsi
  clear_value s1
  split
  · exact h1.answerMbox.refuseMbox.ite h1
  · exact h1

theorem OutFormed.mailbox {s : State} {op status : Nat} {f : State → State} (h : Formed κ s) (hf : ∀ (u : State), Formed κ u → Formed κ (f u)) :
    OutFormed κ (mailbox s op status f) :=
  .next (((hf _ h).ite h).mailboxDone)

theorem OutFormed.execBarrierAllocate {part : BitVec 8} {obj : BitVec 12} {cfg : BitVec 32} {s : State} (h : Formed κ s) :
    OutFormed κ (execBarrierAllocate part obj cfg s) := by
  unfold Machine.execBarrierAllocate
  extract_lets
  exact .mailbox h (fun a h1 => h1.setBarrier)

theorem OutFormed.execBarrierFree {part : BitVec 8} {obj : BitVec 12} {s : State} (h : Formed κ s) : OutFormed κ (execBarrierFree part obj s) := by
  unfold Machine.execBarrierFree
  extract_lets
  exact .mailbox h (fun a h1 => h1.setBarrier)

theorem OutFormed.execKeyEnrol {part : BitVec 8} {keyid : BitVec 64} {modulus : BitVec 4096} {s : State} (h : Formed κ s) :
    OutFormed κ (execKeyEnrol part keyid modulus s) := by
  unfold Machine.execKeyEnrol
  extract_lets
  exact .mailbox h (fun a h1 => h1.modPart)

theorem OutFormed.execKeyRevoke {part : BitVec 8} {keyid : BitVec 64} {s : State} (h : Formed κ s) : OutFormed κ (execKeyRevoke part keyid s) := by
  unfold Machine.execKeyRevoke
  extract_lets
  exact .mailbox h (fun a h1 => h1.modPart)

theorem OutFormed.execAttestationReport {part : BitVec 8} {nonce : BitVec 512} {s : State} (h : Formed κ s) :
    OutFormed κ (execAttestationReport part nonce s) := by
  unfold Machine.execAttestationReport
  extract_lets
  exact .mailbox h (fun a h1 => h1.modPlat)

theorem OutFormed.execDebugAuthorisation {blk : BitVec 6} {modulus sig : BitVec 4096} {s : State} (h : Formed κ s) :
    OutFormed κ (execDebugAuthorisation blk modulus sig s) := by
  unfold Machine.execDebugAuthorisation
  extract_lets
  exact .mailbox h (fun a h1 => h1.modPlat)

theorem OutFormed.execPeerApertureGrant {part : BitVec 8} {idx : BitVec 6} {ap : Aperture} {s : State} (h : Formed κ s) :
    OutFormed κ (execPeerApertureGrant part idx ap s) := by
  unfold Machine.execPeerApertureGrant
  extract_lets
  exact .mailbox h (fun a h1 => h1.modPart)

theorem OutFormed.execTelemetrySnapshot {s : State} (h : Formed κ s) : OutFormed κ (execTelemetrySnapshot s) := by
  unfold Machine.execTelemetrySnapshot
  refine .mailbox h ?_
  intro a h1
  split
  · split
    · exact .answerHost (h1.freeBytes.of_pair ‹_›)

theorem OutFormed.execSqStart {part : BitVec 8} {blk : Option (BitVec 6)} {entry : BitVec 64} {s : State} (h : Formed κ s) :
    OutFormed κ (execSqStart part blk entry s) := by
  unfold Machine.execSqStart
  extract_lets
  exact .mailbox h (fun a h1 => h1.foldl (fun s1 b h2 => h2.startSq))

theorem OutFormed.execSqHalt {part : BitVec 8} {blk : Option (BitVec 6)} {s : State} (h : Formed κ s) : OutFormed κ (execSqHalt part blk s) := by
  unfold Machine.execSqHalt
  extract_lets
  exact .mailbox h (fun a h1 => h1.foldl (fun s1 b h2 => h2.haltSq))

theorem OutFormed.execQueueDescriptorWrite {part : BitVec 8} {blk : BitVec 6} {q : BitVec 4} {ctl rbase cwaddr : BitVec 64} {s : State}
    (h : Formed κ s) : OutFormed κ (execQueueDescriptorWrite part blk q ctl rbase cwaddr s) :=
  .mailbox h (fun _ h1 => h1.setEngine)

theorem OutFormed.execQueueDescriptorRead {part : BitVec 8} {blk : BitVec 6} {q : BitVec 4} {s : State} (h : Formed κ s) :
    OutFormed κ (execQueueDescriptorRead part blk q s) :=
  .mailbox h (fun _ h1 => h1.modPlat)

theorem OutFormed.execFrameGrant {part : BitVec 8} {pa : BitVec 52} {n : Nat} {s : State} (h : Formed κ s) : OutFormed κ (execFrameGrant part pa n s) := by
  unfold Machine.execFrameGrant
  extract_lets
  exact .mailbox h (fun a h1 => h1.withFrames (h1.frames.foldl (fun t b hx => hx.set)))

theorem OutFormed.execFrameReclaim {part : BitVec 8} {pa : BitVec 52} {n : Nat} {s : State} (h : Formed κ s) :
    OutFormed κ (execFrameReclaim part pa n s) := by
  unfold Machine.execFrameReclaim
  extract_lets l isSealed status s1
  have h1 : Formed κ s1 := h.log.ite h
  clear_value s1
  refine .mailbox h1 ?_
  intro a h2
  extract_lets s2
  have h21 : Formed κ s2 := h2.zeroFill
  clear_value s2
  exact h21.withFrames (h21.frames.foldl (fun t b hx => hx.set))

theorem Formed.pinLeaves {s : State} {part : Nat} {l : List Walked} (h : Formed κ s) : Formed κ (pinLeaves s part l) := h.foldl (fun _ _ h1 => h1.mapEntries)

theorem OutFormed.execTraceRingSet {part : BitVec 8} {ring : BitVec 64} {k : BitVec 5} {cb : BitVec 64} {s : State} (h : Formed κ s) :
    OutFormed κ (execTraceRingSet part ring k cb s) := by
  unfold Machine.execTraceRingSet
  extract_lets p size okArgs
  split
  · exact .mailbox h (fun a h1 => h1.idOf)
  · exact .ite (.mailbox h (fun a h1 => h1.idOf)) (.mailbox h (fun a h1 => h1.pinLeaves.modPart))
  · exact .mailbox h (fun a h1 => h1.idOf)

theorem OutFormed.execTraceRingClear {part : BitVec 8} {s : State} (h : Formed κ s) : OutFormed κ (execTraceRingClear part s) :=
  .mailbox h (fun _ h1 => h1.modPart)

theorem Formed.writeChannel {s : State} {c : Nat} {l : List (BitVec 6 × Word)} (h : Formed κ s) : Formed κ (writeChannel s c l) := by
  unfold Machine.writeChannel
  refine h.foldl ?_
  intro s1 b h1
  refine .ite ?_ h1.setChannel
  split
  · exact h1.ackRelease
  · exact h1.ackFail
  · exact h1

theorem OutFormed.execMonitorChannelAssign {part : BitVec 8} {chan : BitVec 16} {regs : List (BitVec 6 × BitVec 32)} {s : State} (h : Formed κ s) :
    OutFormed κ (execMonitorChannelAssign part chan regs s) := by
  unfold Machine.execMonitorChannelAssign
  extract_lets c ch after status
  refine .mailbox h ?_
  intro a h1
  extract_lets _ s1 s2 _ s3 words
  have h11 : Formed κ s1 := h1.setChannel
  have h2 : Formed κ s2 := h11.writeChannel
  have h3 : Formed κ s3 := h2.setChannel
  clear_value s1 s2 s3
  exact h3.modPlat

end Sys2Proof.Proofs

namespace Sys2Proof.Proofs
open Sys2Proof.Machine

/-! # The form of the machine: a step -/

variable {κ : Form}

/-! ## Every instruction (Machine/Dispatch.lean) -/

theorem OutFormed.exec {i : Instr} {s : State} (h : Formed κ s) : OutFormed κ (exec i s) := by
  unfold Machine.exec
  split
  · exact .execDeviceReset h
  · exact .execPartitionReset h
  · exact .execFatalError h
  · exact .execQueueEnable h
  · exact .execQueueDisable h
  · exact .execDoorbell h
  · exact .execCheadWrite h
  · exact .execRecordAccept h
  · exact .execDependenceMet h
  · exact .execAdmission h
  · exact .execSourceRelease h
  · exact .execSwapOnMark h
  · exact .execTaskFinish h
  · exact .execRepairPass h
  · exact .execCommit h
  · exact .execLockstepTimeout h
  · exact .execIrrevocable h
  · exact .execWatchdog h
  · exact .execRegionFrozen h
  · exact .execFaultRecordPost h
  · exact .execEventInterrupt h
  · exact .execAdaptWindow h
  · exact .execCtxarbWrite h
  · exact .execTokenArrive h
  · exact .execRtlogClear h
  · exact .execFlitReceive h
  · exact .execFlitRetransmit h
  · exact .execPortDown h
  · exact .execAccessResult h
  · exact .execParityLanding h
  · exact .execScrubCheck h
  · exact .execForcedScrub h
  · exact .execHourWindow h
  · exact .execBankRetireCommand h
  · exact .execAxolotlCounterClear h
  · exact .execErrcntClear h
  · exact .execIiCounterClear h
  · exact .execMtcfgWrite h
  · exact .execWalkComplete h
  · exact .execResumeDoorbell h
  · exact .execPageFaultLimit h
  · exact .execMigrationCopyDone h
  · exact .execEngineComplete h
  · exact .execCopy h
  · exact .execCopyT8 h
  · exact .execCopyT16 h
  · exact .execFill h
  · exact .execAllReduce h
  · exact .execBroadcast h
  · exact .execAllGather h
  · exact .execSha512 h
  · exact .execRsaVerify h
  · exact .execMigrate h
  · exact .execWriteActive h
  · exact .execWriteShadow h
  · exact .execReadBack h
  · exact .execSwap h
  · exact .execDiscard h
  · exact .execCheck h
  · exact .execWsSwap h
  · exact .execPreempt h
  · exact .execCutComplete h
  · exact .execRestore h
  · exact .execBarrierNextPhase h
  · exact .execMcackRelease h
  · exact .execMcackFail h
  · exact .execCapRefill h
  · exact .execDestructiveUnload h
  · exact .execHostWindowWrite h
  · exact .execHostWindowRead h
  · exact .execHostRequestTimeout h
  · exact .execTimeSync h
  · exact .execSynclost h
  · exact .execSensorPoll h
  · exact .execPowerWindow h
  · exact .execGuardbandReplan h
  · exact .execEvqWrite h
  · exact .execEvheadWrite h
  · exact .execRegisterWrite h
  · exact .execBarrierAllocate h
  · exact .execBarrierFree h
  · exact .execKeyEnrol h
  · exact .execKeyRevoke h
  · exact .execAttestationReport h
  · exact .execDebugAuthorisation h
  · exact .execPeerApertureGrant h
  · exact .execTelemetrySnapshot h
  · exact .execSqStart h
  · exact .execSqHalt h
  · exact .execQueueDescriptorWrite h
  · exact .execQueueDescriptorRead h
  · exact .execFrameGrant h
  · exact .execFrameReclaim h
  · exact .execTraceRingSet h
  · exact .execTraceRingClear h
  · exact .execMonitorChannelAssign h
  · exact .execAddFabric h
  · exact .execSubFabric h
  · exact .execMulFabric h
  · exact .execMulhFabric h
  · exact .execMad h
  · exact .execMin h
  · exact .execMax h
  · exact .execAbs h
  · exact .execNeg h
  · exact .execAndFabric h
  · exact .execOrFabric h
  · exact .execXorFabric h
  · exact .execAndn h
  · exact .execShlFabric h
  · exact .execShrFabric h
  · exact .execSraFabric h
  · exact .execRot h
  · exact .execClz h
  · exact .execPopc h
  · exact .execCmp h
  · exact .execSel h
  · exact .execCvt h
  · exact .execDot4 h
  · exact .execDot2 h
  · exact .execBfx h
  · exact .execBfi h
  · exact .execFadd h
  · exact .execFsub h
  · exact .execFmul h
  · exact .execFma h
  · exact .execFnma h
  · exact .execFmin h
  · exact .execFmax h
  · exact .execFabs h
  · exact .execFneg h
  · exact .execFcmp h
  · exact .execFclass h
  · exact .execFcvt h
  · exact .execFrcp h
  · exact .execFrsq h
  · exact .execFsqrt h
  · exact .execFexp2 h
  · exact .execFlog2 h
  · exact .execFtanh h
  · exact .execFsigm h
  · exact .execFscl h
  · exact .execMov h
  · exact .execMovk h
  · exact .execWrk h
  · exact .execAcck h
  · exact .execLred h
  · exact .execLscan h
  · exact .execLbc h
  · exact .execLrot h
  · exact .execLperm h
  · exact .execFsh h
  · exact .execPack h
  · exact .execUnpack h
  · exact .execM2c h
  · exact .execLidx h
  · exact .execMma h
  · exact .execMmab h
  · exact .execWsld h
  · exact .execWsswp h
  · exact .execAcclr h
  · exact .execAcrd h
  · exact .execAcwr h
  · exact .execSteer h
  · exact .execMerge h
  · exact .execCarry h
  · exact .execInvr h
  · exact .execFork h
  · exact .execSink h
  · exact .execGate h
  · exact .execCand h
  · exact .execCor h
  · exact .execCnot h
  · exact .execCgen h
  · exact .execKelp h
  · exact .execKjoin h
  · exact .execTourn h
  · exact .execRdig h
  · exact .execLd h
  · exact .execSt h
  · exact .execLdx h
  · exact .execStx h
  · exact .execLdl h
  · exact .execAtom h
  · exact .execXlat h
  · exact .execProbe h
  · exact .execStc h
  · exact .execCpy h
  · exact .execCnt h
  · exact .execConst h
  · exact .execRand h
  · exact .execSeqs h
  · exact .execPost h
  · exact .execBarr h
  · exact .execBwait h
  · exact .execMchk h
  · exact .execCap h
  · exact .execSpawn h
  · exact .execAddSequencer h
  · exact .execSubSequencer h
  · exact .execAndSequencer h
  · exact .execOrSequencer h
  · exact .execXorSequencer h
  · exact .execShlSequencer h
  · exact .execShrSequencer h
  · exact .execSraSequencer h
  · exact .execMulSequencer h
  · exact .execMulhSequencer h
  · exact .execDiv h
  · exact .execRem h
  · exact .execSlt h
  · exact .execSltn h
  · exact .execAddi h
  · exact .execAndi h
  · exact .execOri h
  · exact .execXori h
  · exact .execShli h
  · exact .execShri h
  · exact .execSrai h
  · exact .execSlti h
  · exact .execLhi h
  · exact .execLb h
  · exact .execLbn h
  · exact .execLh h
  · exact .execLhn h
  · exact .execLw h
  · exact .execLwn h
  · exact .execLq h
  · exact .execSb h
  · exact .execSh h
  · exact .execSw h
  · exact .execSq h
  · exact .execBeq h
  · exact .execBne h
  · exact .execBlt h
  · exact .execBge h
  · exact .execBltn h
  · exact .execBgen h
  · exact .execJal h
  · exact .execJr h
  · exact .execAmadd h
  · exact .execAmswp h
  · exact .execAmcas h
  · exact .execCrc h
  · exact .execMfs h
  · exact .execMts h
  · exact .execSvc h
  · exact .execEret h
  · exact .execWfe h
  · exact .execFen h
  · exact .execCfgs h
  · exact .execCfgw h
  · exact .execCfgq h
  · exact .execTsk h
  · exact .execQappEngine h
  · exact .execQappWork h
  · exact .execQfen h
  · exact .execEvp h
  · exact .execBara h
  · exact .execBarw h
  · exact .execTlbi h
  · exact .execShdn h
  · exact .execSealRange h
  · exact .execMark h
  · exact .execRsm h
  · exact .execIllegalInstruction h
  · exact .execInstructionFetchFault h
  · exact .execCorrectedRowWriteback h
  · exact .execPartitionDestroy h
  · exact .execSignedRecoveryImage h

/-! ## Firings (Machine/Fire.lean) -/

theorem Formed.startPass {s : State} {ea : EAddr} {c : BitVec 2} (h : Formed κ s) : Formed κ (startPass s ea c) := by
  unfold Machine.startPass
  refine h.modElem ?_
  intro e he
  split
  · exact he.withPass (.some (.of .nil))
  · extract_lets ports taken e1
    have he1 : ElemFormed κ e1 := he.foldl (fun e2 b he1 => he1.popPort)
    clear_value e1
    exact he1.withPass (.some (.of (.foldl .nil (fun t b hx => hx.set))))

theorem Formed.ctCut {s : State} {site : SiteNo} {c : BitVec 2} (h : Formed κ s) : Formed κ (ctCut s site c) := by
  unfold Machine.ctCut
  extract_lets ea e outs ctls came t s1 s2 s3
  have he : ElemFormed κ e := h.elem
  have h1 : Formed κ s1 := by
    unfold s1
    refine h.modElem ?_
    intro e1 he1
    extract_lets e2 e3
    have he2 : ElemFormed κ e2 := he1.foldl (fun e4 b he2 => he2.setQueue)
    have he3 : ElemFormed κ e3 := he2.foldl (fun e4 b he3 => he3.setCtlQueue)
    clear_value e2 e3
    exact he3
  have h2 : Formed κ s2 := h1.foldl (fun s4 b h2 => h2.outputSend)
  have h3 : Formed κ s3 := h2.foldl (fun s4 b h3 => h3.ctlOutputSend)
  clear_value e s1 s2 s3
  exact h.ite (h3.traceEvent.ite h)

theorem SiteFormed.searchCtx {can pass : BitVec 2 → Bool} {start : BitVec 2} {n : Nat} {s : Site} (hr : SiteFormed κ s) :
    SiteFormed κ (searchCtx can pass start n s).1 := by
  induction n generalizing start s with
  | zero =>
    rw [Machine.searchCtx]
    exact hr
  | succ n ih =>
    rw [Machine.searchCtx]
    split
    · exact ih hr
    · extract_lets credit left
      split
      · exact hr.withCredit hr.credit.set
      · exact ih (hr.withCredit hr.credit.set)

theorem Formed.chooseCtx {s : State} {site : SiteNo} (h : Formed κ s) : Formed κ (chooseCtx s site).1 := by
  unfold Machine.chooseCtx
  extract_lets t
  have ht : SiteFormed κ t := h.site
  clear_value t
  split
  · exact h.setSite (ht.searchCtx.of_pair ‹_›)

theorem Formed.markFinished {s : State} {ea : EAddr} {c : BitVec 2} (h : Formed κ s) : Formed κ (markFinished s ea c) := by
  unfold Machine.markFinished
  extract_lets e
  have he : ElemFormed κ e := h.elem
  clear_value e
  exact .ite (h.modElem (fun e1 he1 => he1)) h

theorem Formed.markSite {s : State} {site : SiteNo} (h : Formed κ s) : Formed κ (markSite s site) := h.foldl (fun _ _ h1 => h1.markFinished.markFinished)

theorem Formed.sampleOccupancy {s : State} {site : SiteNo} (h : Formed κ s) : Formed κ (sampleOccupancy s site) := .ite (h.modSite (fun _ hr => hr)) h

theorem Formed.chargeIi {s : State} {site : SiteNo} {c : BitVec 2} {ea : EAddr} {fire : Bool} {n : Nat} (h : Formed κ s) :
    Formed κ (chargeIi s site c ea fire n) := by
  unfold Machine.chargeIi
  extract_lets e ii last u k
  have he : ElemFormed κ e := h.elem
  clear_value e
  exact h.ite (h.modElem (fun e1 he1 => he1.withIi he1.ii.mod.mod))

theorem Formed.chargeCtx {s : State} {site : SiteNo} {c : BitVec 2} {fire : Bool} {going : EAddr → Nat → Bool} (h : Formed κ s) :
    Formed κ (chargeCtx s site c fire going) := by
  unfold Machine.chargeCtx
  refine h.foldl ?_
  intro s1 b h1
  extract_lets e
  have he : ElemFormed κ e := h1.elem
  clear_value e
  exact h1.ite (h1.foldl (fun s2 b1 h2 => h2.ite h2.chargeIi))

theorem Formed.tileFc {s : State} {site : SiteNo} (h : Formed κ s) : Formed κ (tileFc s site) := by
  unfold Machine.tileFc
  extract_lets ea s1 s2
  have h1 : Formed κ s1 := h.markSite.sampleOccupancy
  have h2 : Formed κ s2 := h1.ite (h1.foldl (fun s3 b h2 => h2.ctCut))
  clear_value s1 s2
  split
  · extract_lets started firing slots quiet s3 s4 run
    have h3 : Formed κ s3 := .foldl (h2.chooseCtx.of_pair ‹_›) (fun s5 b h3 => h3.chargeCtx)
    have h4 : Formed κ s4 := .ite (h3.elim (fun x => h3.startPass)) h3
    clear_value s3 s4
    exact h4

theorem Formed.stageNext {s : State} {ea : EAddr} {c : BitVec 2} (h : Formed κ s) : Formed κ (stageNext s ea c).1 := by
  unfold Machine.stageNext
  extract_lets e
  have he : ElemFormed κ e := h.elem
  clear_value e
  split
  · exact h
  · exact h.iteFst (h.iteFst (h.setElem (he.passOn (he.pass.of_some ‹_›))))

/-! ## Moves (Machine/Moves.lean) -/

theorem Formed.sqNext {s : State} {b : BitVec 6} (h : Formed κ s) : Formed κ (sqNext s b).1 := by
  unfold Machine.sqNext
  refine h.iteFst ?_
  refine h.iteFst ?_
  split
  · exact h.fetchWord.of_pair ‹_›
  · exact h.fetchWord.of_pair ‹_›
  · split
    · exact h.fetchWord.of_pair ‹_›
    · exact h.fetchWord.of_pair ‹_›

theorem Formed.loaderNext {s : State} {b : BitVec 6} (h : Formed κ s) : Formed κ (loaderNext s b).1 := by
  unfold Machine.loaderNext
  extract_lets s1 q
  have h1 : Formed κ s1 := h.loaderFill
  clear_value s1
  split
  · split
    · exact h1
    · exact h1.badCommand
  · exact h1

theorem Formed.upset {s : State} {u : Upset} (h : Formed κ s) : Formed κ (upset s u) := by
  unfold Machine.upset
  split
  · exact h.setLink
  · exact h.modSq
  · exact h.performStore
  · exact h.modElem (fun e he => he.setOp.ite he)
  · exact .ite (h.modAx (fun a hx => hx.withErrs hx.errs.set)) h
  · exact h.withPorts h.ports.mod
  · exact h
  · exact h.modElem (fun e he => he.setOp.ite he)
  · exact h.setEngine

theorem Formed.moveInstr {s : State} {m : Move} (h : Formed κ s) : Formed κ (moveInstr s m).1 := by
  cases m with
  | upset => exact h.upset
  | event => exact h
  | sq => exact h.sqNext
  | loader => exact h.loaderNext
  | engine => exact h.engineNext
  | tile => exact Formed.ite h.tileFc h
  | stage => exact h.stageNext
  | slot => exact h
  | agn => exact h

theorem Formed.advance {s : State} (h : Formed κ s) : Formed κ (advance s) := by
  unfold Machine.advance
  split
  · exact h
  · exact h

theorem Formed.hostFc {s : State} (h : Formed κ s) : Formed κ (hostFc s) := h.ite h.serveHost

theorem Formed.replanDue {s : State} (h : Formed κ s) : Formed κ (replanDue s) := h.replanAll.ite h

theorem Formed.nextTurn {s : State} (h : Formed κ s) : Formed κ (nextTurn s) := by
  unfold Machine.nextTurn
  extract_lets n s1
  have h1 : Formed κ s1 := .ite (.replanDue (.hostFc h)) h
  clear_value s1
  exact h1

theorem Formed.takeMove {s : State} (h : Formed κ s) : Formed κ (takeMove s).1 := by
  unfold Machine.takeMove
  split
  · exact h
  · exact .advance h
  · exact h.nextTurn

theorem Formed.nextInstr {s : State} (h : Formed κ s) : Formed κ (nextInstr s).1 := by
  unfold Machine.nextInstr
  split
  · exact h.takeMove.of_pair ‹_›
  · exact .iteFst (.moveInstr (h.takeMove.of_pair ‹_›)) (h.takeMove.of_pair ‹_›)

/-! ## A step (Machine/Step.lean) -/

theorem OutFormed.step {s : State} (h : Formed κ s) : OutFormed κ (step s) := by
  unfold Machine.step
  split
  · exact .next (h.nextInstr.of_pair ‹_›)
  · exact .exec (h.nextInstr.of_pair ‹_›)

/-! ## The obligations -/

/-- Settles O59: every function of the model keeps the memories canonical, and so does a step. -/
theorem stepKeepsMemories : Obligations.StepKeepsMemories := by
  intro s t hs ht
  have h : Formed .memories s := ⟨fun _ => hs, fun hk => (nomatch hk)⟩
  obtain ⟨hm, -⟩ := OutFormed.step h t ht
  exact hm rfl

/-- Settles O60: every function of the model keeps the keys rising, and so does a step. -/
theorem stepKeepsTables : Obligations.StepKeepsTables := by
  intro s t hs ht
  have h : Formed .tables s := ⟨fun hk => (nomatch hk), fun _ => hs⟩
  obtain ⟨-, hm⟩ := OutFormed.step h t ht
  exact hm rfl

end Sys2Proof.Proofs
